-- ==== Sys2Proof/Word.lean ====
section
/-! DEFINITION. The word types of the model and their plainest arithmetic: bytes, register words, signed readings and
byte strings. -/

namespace Sys2Proof

/-- One byte of memory, of a frame or of a ring entry. -/
abbrev Byte := BitVec 8

/-- One 64-bit register or record word. A 32-bit register uses the low half. -/
abbrev Word := BitVec 64

/-- The field `[hi:lo]` of a word, as a number. -/
def Word.bits (w : Word) (hi lo : Nat) : Nat := (w.toNat / 2 ^ lo) % 2 ^ (hi + 1 - lo)

/-- The word `w` with its field `[hi:lo]` replaced by `v` (taken modulo the field's width). -/
def Word.setBits (w : Word) (hi lo : Nat) (v : Nat) : Word :=
  let n := hi + 1 - lo
  BitVec.ofNat 64 (w.toNat - (w.bits hi lo) * 2 ^ lo + (v % 2 ^ n) * 2 ^ lo)

/-- Bit `i` of a number. -/
def natBit (v i : Nat) : Bool := (v / 2 ^ i) % 2 == 1

/-- `v` with bit `i` set or cleared. -/
def natSetBit (v i : Nat) (b : Bool) : Nat :=
  let cleared := if natBit v i then v - 2 ^ i else v
  if b then cleared + 2 ^ i else cleared

/-- A field of `n` bits read as two's complement. -/
def signedOf (n v : Nat) : Int := if v < 2 ^ (n - 1) then (v : Int) else (v : Int) - 2 ^ n

/-- An integer written into a field of `n` bits, two's complement, wrapping. -/
def ofSigned (n : Nat) (z : Int) : Nat := (z % (2 ^ n : Int)).toNat

/-- The number held by bytes, least significant first. -/
def leNat : List Byte → Nat
  | [] => 0
  | b :: bs => b.toNat + 256 * leNat bs

/-- The number held by bytes, most significant first. -/
def beNat (bs : List Byte) : Nat := bs.foldl (fun a b => a * 256 + b.toNat) 0

/-- `v` as `n` bytes, least significant first. -/
def leBytes : Nat → Nat → List Byte
  | 0, _ => []
  | n + 1, v => BitVec.ofNat 8 v :: leBytes n (v / 256)

/-- `v` as `n` bytes, most significant first. -/
def beBytes (n v : Nat) : List Byte := (leBytes n v).reverse

/-- `n` bytes of a string from offset `o`; short where the string ends. -/
def sliceBytes (bs : List Byte) (o n : Nat) : List Byte := (bs.drop o).take n

/-- `n` zero bytes. -/
def zeroBytes (n : Nat) : List Byte := List.replicate n 0

/-- A string cut or padded with zero bytes to `n` bytes. -/
def fitBytes (n : Nat) (bs : List Byte) : List Byte := (bs ++ zeroBytes n).take n

/-- The number nearest to `v` within `lo` to `hi`. -/
def clampNat (lo hi v : Nat) : Nat := if v < lo then lo else if hi < v then hi else v

/-- Division rounded up. -/
def ceilDiv (a b : Nat) : Nat := (a + (b - 1)) / b

end Sys2Proof
end

