-- ==== Sys2Proof/Types.lean ====
section
/-! DEFINITION. The records that commands carry and that the state keeps: who asked, error events, event-ring entries,
register places and the other operands of the command table. -/

namespace Sys2Proof

/-! ### Who asked, and where the outcome goes -/

/-- The origin of an administrative command: a register write by an initiator (Table 12-7), or an entry of a submission
ring (R323) with its index and its irq_now flag (Table 11-4). -/
inductive Origin where
  | reg (init : Nat)
  | ring (num idx : Nat) (irqNow : Bool)
deriving DecidableEq, Repr

/-- The completion status codes of Table 0-7 that the module uses by name (R13). -/
def stOk : Nat := 0x00
def stMalformed : Nat := 0x01
def stLenZero : Nat := 0x02
def stAccessViolation : Nat := 0x03
def stRemoteAccessViolation : Nat := 0x04
def stKeyExhausted : Nat := 0x05
def stSquashed : Nat := 0x06
def stTruncated : Nat := 0x07
def stTimeout : Nat := 0x08
def stParityMiss : Nat := 0x09
def stFormeBusy : Nat := 0x0A
def stChangeRefused : Nat := 0x0B
def stRingOverrun : Nat := 0x0C
def stNotBeforePending : Nat := 0x0D
def stDegraded : Nat := 0x0E
def stRefusedState : Nat := 0x0F

/-- A place that a register access names: an offset of the management window (R519), an offset of a function's window
reached through its own BAR (Table 11-2), an offset of a function's time page control area (Table 10-4), or an address of
module memory (Table 19-2). -/
inductive Place where
  | window (off : Nat)
  | fnWindow (fn off : Nat)
  | tpg (fn off : Nat)
  | memory (addr : Nat)
deriving DecidableEq, Repr

/-- An error event with its sideband record (R424). `cls`: 0 A, 1 S, 2 M. `row` is the row address that a corrected
event passes to Retouch (R425). -/
structure ErrEvent where
  fault : Bool
  cls : Nat
  cause : Nat
  detail : Nat
  slice : Option Nat
  row : Nat
deriving DecidableEq, Repr

/-- An event-ring entry before it is written: its type code, the slice it concerns and its bytes 8–31 (R332). -/
structure Ev where
  typ : Nat
  slice : Option Nat
  body : List Byte
deriving DecidableEq, Repr

/-- Where an event goes (R314): the configuration owner's event ring, a slice's, or a function's own. -/
inductive EvDest where
  | owner
  | slice (g : Nat)
  | fn (f : Nat)
deriving DecidableEq, Repr

/-- How a module read of host memory that was completed failed (R300). -/
inductive ReadFail where
  | urCa
  | poison
  | ecrc
deriving DecidableEq, Repr

/-- The work that a module read of host memory belongs to (R300): a fetch of a submission ring, a read of an index line, what a ring
entry names, the payload of a Drugrim message by its outbound record, a fetch of an NVMe submission queue, the data or PRP
list of an NVMe command, the request that the HOST endpoint holds for a flow-core thread, or the ROM's read of an image
pushed through a RECOVERY function. -/
inductive ReadWork where
  | fetch (num : Nat)
  | indexLine (cls num : Nat)
  | entry (num idx : Nat)
  | message (r : Nat)
  | nvmeFetch (c sq : Nat)
  | nvme (c sq cid : Nat)
  | thread (core thread fn : Nat)
  | recovery (fn : Nat)
deriving DecidableEq, Repr

/-- The references of Table 3-5. -/
inductive TimeRef where
  | syncE | freqIn | ppsIn
deriving DecidableEq, Repr

/-- The links and protocol errors of Table 10-6 that RECEIVED_TLP_ERROR carries (R299). -/
inductive TlpError where
  | receiverError | badTlp | badDllp | replayTimer | replayRollover | correctedInternal
  | uncorrectedInternal | dlProtocol | fcProtocol | receiverOverflow | malformedTlp | poisoned | ecrc
  | unexpectedCompletion | atomicOp
deriving DecidableEq, Repr

/-- An MMIO request of the host (R296): the BAR it reaches, the offset, the size in bytes, and for a write its data; `reads` is
what the fetches that an NVMe doorbell starts return, as NVME_DOORBELL gives them. -/
structure Mmio where
  fn : Nat
  bar : Nat
  off : Nat
  size : Nat
  write : Option Nat
  poisoned : Bool
  reads : List (Nat × List Byte)
deriving DecidableEq, Repr

/-- What a host configuration write changes, or the 32-bit word that a read asks for (CONFIGURATION_REQUEST). -/
inductive CfgChange where
  | memorySpace (on : Bool)
  | dState (d3hot : Bool)
  | busMaster (on : Bool)
  | pasidEnable (on : Bool)
  | vfEnable (on : Bool) (numVfs : Nat)
  | msixControl (enable mask : Bool)
  | msiControl (enable : Bool) (count : Nat)
  | msiMask (mask : Nat)
  | ltrEnable (on : Bool)
  | aspmL1 (on l11 l12 : Bool)
  | l0pEnable (on : Bool)
  | cplTimeout (range : Nat)
  | aerMask (uncor : Nat) (cor : Nat)
  | aerSeverity (v : Nat)
  | aerClear (uncor : Nat) (cor : Nat)
  | ptmEnable (on : Bool)
  | doe (dwords : List Nat)
  | read (dword : Nat)
deriving DecidableEq, Repr

/-- What the CMIS data of a cage's module says (R194, R195): host interfaces it advertises as codes of Table 7-1, that of AppSel code
1 first, its power class in W, whether it is optical, advertises LPI, and lists one-lane 100GAUI-1. -/
structure Cmis where
  apps : List Nat
  watts : Nat
  optical : Bool
  lpi : Bool
  oneLane : Bool
deriving DecidableEq, Repr

/-- A defect that the boot self-test finds (R447): kind 1 SRAM row or 2 HBM row with its unit and row, or the physical unit
of kind 3 flow core, 4 application core, 5 cipher unit, 6 SerDes (16 × cage + SerDes), as Table 15-7 numbers them. -/
structure Defect where
  kind : Nat
  unit : Nat
  row : Nat
deriving DecidableEq, Repr

/-- Where an uncorrectable SEC-DED word of a unit lies: in a port's receive or transmit FIFO (R217); in an outbound or an inbound
record, a tombstone (with the slice it serves) or a region record of the transport (R261); in a key slot, with the descriptor
that met it (R284); in a ring's context, a stashed completion or a held event by their places (R339); in a slice record or
window set, or a rule of a target (R363); in an NVMe command record, a queue context of a controller, a namespace record or
buffered data (R389). -/
inductive BadWord where
  | rxFifo (port : Nat)
  | txFifo (port : Nat)
  | outRec (r : Nat)
  | inRec (k : Nat)
  | tomb (k : Nat) (slice : Option Nat)
  | region (i : Nat)
  | keySlot (k : Nat) (desc : Option Nat)
  | ringContext (cls num : Nat)
  | stashed (num i : Nat)
  | heldEvent (num i : Nat)
  | sliceRec (g : Nat)
  | rule (t n : Nat)
  | nvmeCmd (c sq cid : Nat)
  | nvmeQueue (c : Nat)
  | nvmeNs (n : Nat)
  | nvmeData (i : Nat)
deriving DecidableEq, Repr

/-- The kinds of reset that are asserted and released, or that squash in place (R3). -/
inductive RstKind where
  | p | c | w | d
deriving DecidableEq, Repr

/-- How a channel operation of a flow-core thread ends (R399–R402, R409): a message with its source, a commit, NO_RECEIVER
or EVENT. -/
inductive ChanResult where
  | received (words : List Nat) (src : Nat)
  | committed
  | noReceiver
  | event
deriving DecidableEq, Repr

/-- The sensors of PWR_THERM in °C, and whether an optical module is at its CMIS high-temperature alarm (R516). -/
structure Thermal where
  tj : Int
  inlet : Int
  psu : Int
  optics : Int
  opticsAlarm : Bool
deriving DecidableEq, Repr

/-- Who calls for the roll-back of an activation: firmware by its write of BOOT_CTL, or, in a cascade, a member that failed, told
to the master, and the master's order to a member (R481, R482). -/
inductive FailBy where
  | firmware (init : Nat)
  | cascade
deriving DecidableEq, Repr

/-- How the preparation of an activation ended on every module concerned: ready, a failed load, or a member that does not match or
answer (R478, R482). -/
inductive ActPrepared where
  | ready | failed | memberFailed
deriving DecidableEq, Repr

/-- Whence a command of the cascade comes: a write of ODF_CMD by an initiator, or the master's order with its two arguments (R496,
R498). -/
inductive OdfBy where
  | reg (init : Nat)
  | master (a b : Nat)
deriving DecidableEq, Repr

/-- A frame on an Odfer link and what it carries (R493), and what became of its words in the link buffer: 0 good, 1 corrected,
2 uncorrectable. -/
structure OdfFrame where
  member : Nat
  queue : Nat
  cls : Nat
  colour : Nat
  age : Nat
  trunc : Bool
  launch : Option Nat
  oneStep : Option Nat
  bytes : List Byte
  word : Fin 3
deriving DecidableEq, Repr

/-- Output pins that commands drive. -/
inductive Pin where
  | ppsOut | ppsHost | safelightP | hostAuxEn | pwrBtnN | hostRstN | faultLed
deriving DecidableEq, Repr

/-- What the module puts on its interfaces. The state keeps these in the order they were made, the newest first: they
are how the model says what leaves the block. -/
inductive Out where
  /-- A DMA write to host memory, by a function, for a slice where it carries that slice's PASID. -/
  | hostWrite (fn : Nat) (slice : Option Nat) (addr : Nat) (data : List Byte)
  /-- A DMA read request of host memory. -/
  | hostRead (fn : Nat) (slice : Option Nat) (addr len : Nat)
  /-- An interrupt of a function, as MSI-X entry or MSI message `vec` (R297). -/
  | interrupt (fn vec : Nat) (msix : Bool)
  /-- An interrupt message of a slice's store (R298). -/
  | storeMessage (slice entry addr data : Nat) (pasid : Bool)
  /-- An interrupt of the application cores, by the block that raises it. -/
  | coreIrq (block : Nat)
  /-- The access of an application core ends in an abort (R358, R520). -/
  | coreAbort (init : Nat)
  /-- The answer to a register or memory read: the value returned. -/
  | readData (init : Nat) (data : Word)
  /-- The answer to an MMIO request: 0 successful, 1 Unsupported Request, 2 Completer Abort. -/
  | mmioReply (fn status data : Nat)
  /-- The answer to a configuration request: Request Retry Status, or success with the data of a read. -/
  | cfgReply (fn : Nat) (retry : Bool) (data : Nat)
  /-- An ERR_COR (0), ERR_NONFATAL (1) or ERR_FATAL (2) message of an endpoint (R299). -/
  | errMessage (endpoint kind : Nat)
  /-- A message of an endpoint: PME 0, Device Readiness Status 1, LTR (value in µs) 2. -/
  | linkMessage (endpoint kind value : Nat)
  /-- A frame sent on a port, with its transmit timestamp (nanoseconds, units of 2^-16 ns, and 0.25 ns uncertainty). -/
  | frame (port : Nat) (bytes : List Byte) (ns frac unc : Nat)
  /-- The frame last sent on a port was still in transmission and ends there with an invalid FCS (R203). -/
  | frameCut (port : Nat)
  /-- An agreement record or a relayed one, sent on an Odfer link. -/
  | odfer (link : Nat) (bytes : List Byte)
  /-- A frame sent on an Odfer link to a member, with the queue, class, colour, age (FCLK), mark, launch time and one-step
  offset that it carries (R493). -/
  | odferFrame (link member queue cls colour age : Nat) (trunc : Bool) (launch oneStep : Option Nat) (bytes : List Byte)
  /-- A learn event sent to the master, or to the owner of an FLT key, over the Odfer links (R159). -/
  | learnEvent (table key source : Nat)
  /-- A far lookup of a key sent to a member, for a packet of a forme (R494). -/
  | farRequest (member id forme key : Nat)
  /-- An FLT command for a key of another member, sent to it: operation and image (R159). -/
  | fltCommand (member op image : Nat)
  /-- The result of a far lookup that this module serves: the entry it found, if any, as its image. -/
  | farResult (member id : Nat) (hit : Option Nat)
  /-- A command of the master to a member: 0 lock-up at a time in ns, 1 free every flow-table entry and take a partition of
  `a` members as number `b`, 2 prepare an activation, 3 commit it at a time, 4 abandon or roll it back (R482, R496, R498). -/
  | memberOrder (member kind a b : Nat)
  /-- An access through the member window, a write with its data (R523). -/
  | memberAccess (member off : Nat) (wide : Bool) (write : Option Nat)
  /-- A frame handed to the virtio-net device of PF0 of link 0 (R55). -/
  | virtioNet (bytes : List Byte)
  /-- A frame sent on the management port. -/
  | mgmtFrame (bytes : List Byte)
  /-- Bytes answered on the SMBus. -/
  | smbus (bytes : List Byte)
  /-- The end of a channel operation of a flow-core thread. -/
  | threadMsg (core thread : Nat) (r : ChanResult)
  /-- The result of a GF operation of a flow core (R415). -/
  | gfResult (core thread : Nat) (data : List Byte)
  /-- A pin's new level. -/
  | pin (p : Pin) (high : Bool)
deriving DecidableEq, Repr

end Sys2Proof
end

