-- ==== Sys2Proof/Syntax.lean ====
section
/-! DEFINITION. The commands of the module: one constructor for each row of spec/opcode_table.json, with the operands
its rule gives it. What the outside decides (the data a read returns, a frame that arrives) is an operand. -/

namespace Sys2Proof

/-- The command table. Each constructor's docstring is its row: the mnemonic, the rule and the table's summary. -/
inductive Instr where

  /-- REGISTER_WRITE (R6): A write to a register that has no row of its own stores, triggers, clears or discards each field according to its access code and change class. -/
  | registerWrite (init : Nat) (place : Place) (wide : Bool) (v : Word)
  /-- RC_READ (R9): A read of a register with RC fields returns the fields and clears each one it returns any bit of, keeping any new occurrence for the next read. -/
  | rcRead (init : Nat) (place : Place) (wide : Bool)
  /-- FRAME_RECEIVE (R198): A frame arriving on a port is timestamped at the PCS, checked by the MAC and handed to its pipeline once its header window has arrived, or dropped. -/
  | frameReceive (port : Fin 8) (t : Nat) (bytes : List Byte) (last err : Bool)
  /-- FRAME_END (R199): The last byte of a frame handed over early arrives, its FCS and claimed length are checked, and its end status, including any TRUNCATED mark, is recorded. -/
  | frameEnd (port : Fin 8) (t : Nat) (rest : List Byte) (err : Bool)
  /-- PIPELINE_ENTRY (R100): A packet entering an ingress pipeline is stamped with the CURRENT forme, parsed, looked up in EML, LPM and RUL, has its actions resolved and is metered. -/
  | pipelineEntry (p : Fin 4) (bads : List (Nat × Nat × Nat)) (slotBad : Bool)
  /-- FLT_LOOKUP_RESULT (R134): The flow-table read returns 192 FCLK after issue, is merged with the pending-write and overflow stores and its action is applied. -/
  | fltLookupResult (p : Fin 4) (bads : List (Nat × Nat × Nat))
  /-- ENQUEUE (R175): At the enqueue hand-off the packet is checked for queue validity, slice quota, colour limit and buffer space and is linked to its queue or dropped. -/
  | enqueue (p : Fin 4)
  /-- SPILL_FETCH (R177): A spilled packet that has become second in its queue is fetched back on-die so the queue becomes a candidate again. -/
  | spillFetch (q : Nat)
  /-- SCHEDULER_SELECTION (R164): Each egress pipeline chooses an eligible output with room and descends to a queue, charging shapers and updating virtual-time tags. -/
  | schedulerSelection (ep : Fin 4) (noRoom : List Nat) (badNodes : List (Nat × Nat)) (upset : Bool)
  /-- EGRESS_HANDOFF (R101): The egress pipeline finishes rewrite and encapsulation and hands the packet to a port FIFO, the host interface or a flow core, ending its forme hold. -/
  | egressHandoff (ep : Fin 4)
  /-- RECIRCULATE (R121): A packet resolved to recirculate enters its pipeline's loop FIFO and re-enters with the same forme and an incremented pass number, or is dropped after pass 4. -/
  | recirculate (p : Fin 4)
  /-- AGE_DROP (R178): The drop engine removes every packet whose age has reached the window before the traffic manager's age limit. -/
  | ageDrop
  /-- PENDING_WRITE_RELEASE (R36): A pending-write store entry is released 192 FCLK after its last replica write. -/
  | pendingWriteRelease
  /-- REPLICA_WRITE_BACK (R36): A pending-write store entry is written to a flow-table replica in one of that group's write-back slots. -/
  | replicaWriteBack (g : Fin 8) (n : Nat)
  /-- REPLICA_REPAIR (R136): A corrected or uncorrectable FLT word is repaired from the next replica and rewritten to all replicas, or the entry is freed if every replica is bad. -/
  | replicaRepair (pos word : Nat) (lost : Bool)
  /-- MODE_REQUEST_GO (R49): A firmware write of MGT_MODE_REQ.go requests a change to the target mode, which is refused or prepared under Table 2-2. -/
  | modeRequestGo (init : Nat) (target : Fin 8)
  /-- CLAIM (R47): A CLAIM admin command on PF0 of link 0 requests MANAGED from STANDALONE, completes OK in MANAGED, or is refused. -/
  | claim (o : Origin)
  /-- RELEASE (R46): A RELEASE admin command on PF0 of link 0 requests a change from MANAGED to STANDALONE. -/
  | release (o : Origin)
  /-- MODE_COMMIT (R43): A prepared mode change commits in one FCLK, changing MODE_STATE and the behaviour of every block. -/
  | modeCommit
  /-- HOST_PWR_GOOD_CHANGE (R509): A change of HOST_PWR_GOOD that holds for 1 µs is seen and starts or abandons a STANDBY debounce. -/
  | hostPwrGoodChange (level : Bool)
  /-- STANDBY_ENTRY_DEBOUNCE (R50): HOST_PWR_GOOD has been low for 100 ms, and STANDBY entry preparation starts or is held behind another request. -/
  | standbyEntryDebounce
  /-- STANDBY_EXIT_DEBOUNCE (R50): HOST_PWR_GOOD has been high for 10 ms, and STANDBY exit preparation to return_mode starts or is held. -/
  | standbyExitDebounce
  /-- CASCADE_LINKS_SILENT (R46): Both Odfer links of a CASCADE_MEMBER have been silent for 10 ms, and the module moves to STANDALONE. -/
  | cascadeLinksSilent
  /-- RESET_COLD_REQUEST (R62): A keyed write of PWR_RESET_CTRL.cold requests a C reset, first flushing the NVMe write buffer when flush_first is 1. -/
  | resetColdRequest (init : Nat) (v : BitVec 32)
  /-- RESET_WARM_REQUEST (R62): A keyed write of PWR_RESET_CTRL.warm requests a W reset, first flushing the NVMe write buffer when flush_first is 1. -/
  | resetWarmRequest (init : Nat) (v : BitVec 32)
  /-- RESET_DATAPATH_REQUEST (R62): A keyed write of PWR_RESET_CTRL.datapath requests a D reset, first flushing the NVMe write buffer when flush_first is 1. -/
  | resetDatapathRequest (init : Nat) (v : BitVec 32)
  /-- FLUSH_DONE (R62): The pre-reset flush of the NVMe write buffer finishes and the requested reset begins. -/
  | flushDone
  /-- FLUSH_TIMEOUT (R62): The pre-reset flush has not finished after 10 s, the reset begins anyway and the unflushed writes are lost. -/
  | flushTimeout
  /-- RESET_RELEASE (R59): A C or W reset held for 100 µs is released, starting the Retouch self-test for C or the ROM for W. -/
  | resetRelease
  /-- D_RESET_DONE (R60): A D reset completes within 5 ms and the data path is released. -/
  | dResetDone
  /-- AC_FAIL (R502): The PSU detects input loss, raises ac_fail, records the host power state and caps the package power. -/
  | acFail
  /-- AC_FAIL_MRAM_WINDOW_END (R64): 15 ms after ac_fail the MRAM writer stops taking firmware writes, keeping only the repair log and fault record. -/
  | acFailMramWindowEnd
  /-- AC_RAILS_DOWN (R502): AC is still absent 20 ms after ac_fail and the PSU removes the SoC rails, leaving the island on the reserve. -/
  | acRailsDown
  /-- AC_FAIL_CLEAR (R502): The input has been in range for 1 s and the PSU clears ac_fail. -/
  | acFailClear
  /-- AC_RETURN (R505): AC returns after the rails went down, and the PSU starts up and releases a C reset, with ac_return if the island was alive. -/
  | acReturn
  /-- RESERVE_EXHAUSTED (R503): The supercapacitor reserve runs out before AC returns, a P reset occurs and time becomes unknown. -/
  | reserveExhausted
  /-- RESERVE_FULL (R503): The reserve reaches the charge for 30 s at the present island load and reserve_full reads 1. -/
  | reserveFull
  /-- TSV_RATE_WRITE (R73): A write of TSV_RATE reaches both counters in one TCLK, clamped, or is a plausibility fault if it steps too far while LOCKED. -/
  | tsvRateWrite (init : Nat) (v : BitVec 32)
  /-- TSV_SERVO_WRITE (R80): A write of TSV_SERVO is a heartbeat, accepted if plausible, updating U_servo and applying its claim to the time state. -/
  | tsvServoWrite (init : Nat) (wide upper : Bool) (v : Word)
  /-- SLEW (R81): TSV_ADJ op 0 adds amount to the counters at slew_ppm, replacing any unspent slew, or is refused. -/
  | tsvSlew (init : Nat) (amount : Option (BitVec 48))
  /-- STEP (R81): TSV_ADJ op 1 adds amount to the counters in one TCLK, or is refused while LOCKED. -/
  | tsvStep (init : Nat) (amount : Option (BitVec 48))
  /-- SET (R81): TSV_ADJ op 2 loads both counters with the given seconds and nanoseconds and changes the time state, or is refused. -/
  | tsvSet (init : Nat) (amount : Option (BitVec 48))
  /-- SET_AT_PPS (R81): TSV_ADJ op 3 arms a load of the counters at the next qualified PPS_IN edge. -/
  | setAtPps (init : Nat) (amount : Option (BitVec 48))
  /-- PPS_IN_EDGE (R85): A PPS_IN rising edge is timestamped, queued for the servo, judged in or out of window, and performs an armed set-at-PPS if qualified. -/
  | ppsInEdge (t highNs : Nat)
  /-- PPS_WINDOW_MISSED (R85): A PPS_IN window closes with no expected edge, counting a missing edge towards disqualification. -/
  | ppsWindowMissed
  /-- REFERENCE_QUALIFIED (R84): A SyncE, FREQ_IN or PPS_IN reference meets its qualification criteria and is used by the island. -/
  | referenceQualified (r : TimeRef)
  /-- REFERENCE_DISQUALIFIED (R84): A reference meets its disqualification criteria and the island holds the averaged base rate. -/
  | referenceDisqualified (r : TimeRef)
  /-- COUNTER_MISMATCH (R72): Counters A and B differ, the state becomes UNKNOWN, B is copied from A and the compare error pin is driven. -/
  | counterMismatch (b : Nat)
  /-- SERVO_BEAT_TIMEOUT (R83): No TSV_SERVO write has arrived for beat_timeout, so LOCKED enters HOLDOVER with a plausibility fault or ACQUIRING falls back. -/
  | servoBeatTimeout
  /-- U_REF_EVALUATION (R76): Every 1,000 TCLK the island evaluates U_ref for the current state, rounds it up and samples the temperature excursion condition. -/
  | uRefEvaluation (temp : Int)
  /-- REPLICA_CHECK (R87): Every 1,000 TCLK each port and PTM replica is compared with counter A, and a misaligned one is marked unknown and realigned. -/
  | replicaCheck (r : Fin 10) (diff : Nat)
  /-- REPLICA_REALIGNED (R87): A misaligned time replica has been realigned and its timestamps carry their normal term again. -/
  | replicaRealigned (r : Fin 10)
  /-- TIME_SNAPSHOT_PUBLISH (R96): Every 8 TCLK the island publishes a held snapshot of time, uncertainty and valid bit into the FCLK domain. -/
  | timeSnapshotPublish
  /-- SNAPSHOT_LATCH (R95): A read of TSV_SNAP_SEC latches counter A and U_ref into TSV_SNAP_NS and TSV_SNAP_UNC in the same TCLK. -/
  | snapshotLatch (init off : Nat) (wide : Bool)
  /-- PPS_OUTPUT_EDGE (R88): At each whole TAI second PPS_OUT and PPS_HOST rise, compensated, unless squelched by their uncertainty. -/
  | ppsOutputEdge (o : Fin 2)
  /-- PTM_DIALOGUE (R90): The module runs a PTM dialogue on a link and refits the host clock's rate and offset from the last 16 pairs. -/
  | ptmDialogue (link : Fin 2) (master : Nat) (rootBound : Bool)
  /-- PTM_STALE (R93): No PTM dialogue has completed for 100 ms and ctr_valid is cleared on the link's time pages. -/
  | ptmStale (link : Fin 2)
  /-- TIME_PAGE_ENABLE (R91): A write of TSV_TPG_CTL.enable = 1 registers a time page, or records MALFORMED or REFUSED_STATE. -/
  | timePageEnable (fn : Nat)
  /-- TIME_PAGE_DISABLE (R94): A write of TSV_TPG_CTL.enable = 0 stops the page's writes after the write in progress. -/
  | timePageDisable (fn : Nat)
  /-- TIME_PAGE_WRITE (R94): Every 1 µs the module writes each registered time page with odd seq, body and even seq, stopping the page if a write is denied. -/
  | timePageWrite (fn : Nat) (utc : Option (Nat × Bool × Bool))
  /-- ISLAND_RESET (R97): A keyed write of TSV_ISLAND_RESET returns the island's registers to reset, clears the counters and mirror and sets UNKNOWN. -/
  | islandReset (init : Nat) (key : BitVec 16)
  /-- OPEN (R110): Forme command OPEN makes the lowest FREE number the chase and returns it. -/
  | formeOpen (o : Origin)
  /-- LOAD (R124): Forme command LOAD reads and checks a forme image, then writes it into the chase slot and action table, making it READY, or fails MALFORMED. -/
  | formeLoad (o : Origin) (addr : Nat) (img : List Byte)
  /-- LOCK_UP (R111): Forme command LOCK-UP is taken and waits in its check step for outstanding staging commands that tag the chase. -/
  | formeLockUp (o : Origin)
  /-- LOCK_UP_COMMIT (R111): The READY number becomes CURRENT in one FCLK, the old CURRENT becomes RETIRING and lockup_seq increments. -/
  | lockUpCommit
  /-- DISCARD (R110): Forme command DISCARD makes the chase SETTLING and starts its discard sweep. -/
  | formeDiscard (o : Origin)
  /-- FORME_RETIRED (R102): A RETIRING forme whose packet count is 0 and whose elders have retired retires, posts FORME_RETIRED and may start the next settle sweep. -/
  | formeRetired
  /-- SETTLE_SWEEP_DONE (R106): Every table engine has finished the sweep of a number, which becomes FREE if retired, and FORME_FREE is posted. -/
  | settleSweepDone
  /-- DISCARD_SWEEP_DONE (R110): The discard sweep of a chase finishes and the number becomes FREE. -/
  | discardSweepDone
  /-- INSERT (R137): Table command INSERT places an image in a free way, by relocation or by eviction, or completes TABLE_FULL, MALFORMED or QUOTA_EXCEEDED. -/
  | tblInsert (o : Origin) (blk : Fin 4) (w : Word) (img : List Byte)
  /-- DELETE (R142): Table command DELETE frees the entry whose key, vis and vf equal the image's. -/
  | tblDelete (o : Origin) (blk : Fin 4) (w : Word) (img : List Byte)
  /-- MODIFY (R144): Table command MODIFY rewrites the matched entry with every field of the image in one write. -/
  | tblModify (o : Origin) (blk : Fin 4) (w : Word) (img : List Byte)
  /-- RETAG (R144): Table command RETAG sets the matched entry's vis and vf to new values. -/
  | tblRetag (o : Origin) (blk : Fin 4) (w : Word) (img : List Byte)
  /-- LOOKUP (R144): Table command LOOKUP returns the entry a lookup of the named forme's view would find. -/
  | tblLookup (o : Origin) (blk : Fin 4) (w : Word) (img : List Byte)
  /-- READ_POS (R144): Table command READ_POS returns the image and idle state at a position. -/
  | tblReadPos (o : Origin) (blk : Fin 4) (w : Word)
  /-- DELETE_POS (R144): Table command DELETE_POS frees a position whether or not it is readable. -/
  | tblDeletePos (o : Origin) (blk : Fin 4) (w : Word)
  /-- HASH_SEED_WRITE (R128): An accepted write of an EML or FLT hash seed while the data path is held frees every entry of the table. -/
  | hashSeedWrite (init : Nat) (flt wide upper : Bool) (v : Word)
  /-- OVERFLOW_PROMOTION (R141): The background scan finds an overflow entry whose home bucket has a free way and promotes it by relocation. -/
  | overflowPromotion (flt : Bool) (pos : Nat)
  /-- AGER_PASS (R148): An ager pass walks EML or FLT, incrementing idle or expiring entries as the mode selects. -/
  | agerPass (flt : Bool)
  /-- EML_LEARN_EVENT (R152): The EML learn unit executes one queued event, inserting, moving, refusing or notifying for the address. -/
  | emlLearnEvent
  /-- FLT_LEARN_EVENT (R157): The FLT learn unit executes one queued event, inserting a learned entry or posting FLOW_MISS. -/
  | fltLearnEvent
  /-- HOLD_SWEEP (R153): Every 1,024 units the hold sweep clears hold_valid in EML entries whose move-hold has elapsed. -/
  | holdSweep
  /-- EPOCH_GO (R180): A write of TMG_EPOCH.go starts validation of the shadow epoch. -/
  | epochGo (init : Nat)
  /-- EPOCH_SWAP (R181): Validation ends and the shadow becomes live in one FCLK, or the result reads MALFORMED with the failing node. -/
  | epochSwap
  /-- POLICER_WRITE (R174): TMG_POL_CMD op 1 commits a policer record in one FCLK, adjusting levels, or is refused for a zero burst. -/
  | policerWrite (init : Nat) (index : Fin 65536)
  /-- POLICER_READ (R191): TMG_POL_CMD op 2 reads a policer record back into TMG_POL_CFG. -/
  | policerRead (init : Nat) (index : Fin 65536)
  /-- OPTICAL_MODULE_REMOVED (R195): A cage's optical module is removed and every port of the cage goes link-down in the same FCLK. -/
  | opticalModuleRemoved (cage : Fin 2)
  /-- OPTICAL_MODULE_INSERTED (R195): An optical module is inserted, the cage mode is chosen again in STANDALONE or CAGE_CHANGED is posted. -/
  | opticalModuleInserted (cage : Fin 2) (info : Cmis)
  /-- LINK_UP (R196): A port's PCS aligns and FEC locks, and LINK_CHANGED is posted to the configuration owner. -/
  | linkUp (port : Fin 8)
  /-- LINK_DOWN (R196): A port loses alignment or lock, frames to it are discarded and LINK_CHANGED is posted. -/
  | linkDown (port : Fin 8)
  /-- FRAME_LAUNCH (R206): The frame at a transmit FIFO head launches at the first word boundary where its gate stays open and its launch time has come, or is dropped. -/
  | frameLaunch (port : Fin 8)
  /-- IMPOSITION_GO (R209): A write of MAC_IMP_CMD.go checks the shadow schedule and starts copying it into the pending schedule, or completes MALFORMED. -/
  | impositionGo (init : Nat) (port : Fin 8)
  /-- IMPOSITION_COPY_DONE (R209): The shadow has been copied into the pending schedule and busy clears. -/
  | impositionCopyDone (port : Fin 8)
  /-- IMPOSITION_SWAP (R209): At swap instant T the pending schedule becomes operational, starting at entry 0. -/
  | impositionSwap (port : Fin 8)
  /-- IMPOSITION_ENABLE (R210): A write of MAC_IMP_CFG.enable starts the schedule at its next cycle start or opens every gate. -/
  | impositionEnable (init : Nat) (port : Fin 8) (wide upper : Bool) (v : Word)
  /-- IMPOSITION_CYCLE_START (R205): An imposition cycle starts and the gate vector follows position() from entry 0. -/
  | impositionCycleStart (port : Fin 8)
  /-- LPI_ENTER (R214): A port's output and FIFO have been idle for idle_time and its transmitter enters LPI. -/
  | lpiEnter (port : Fin 8)
  /-- LPI_WAKE_DONE (R214): tw_tx has elapsed since a wake started and the output reports room again. -/
  | lpiWakeDone (port : Fin 8)
  /-- LANE_FAULT (R216): A lane fails while the cage's spare is in use, its port is held link-down and LINK_CHANGED with DEGRADED is posted. -/
  | laneFault (cage : Fin 2) (lane : Fin 8)
  /-- WRITE (R231): A Drugrim WRITE work entry takes an outbound record, derives the pair key and starts sending DATA packets, or completes at once. -/
  | drtWrite (num idx : Nat) (dest : List Byte)
  /-- WRITE_IMM (R231): A Drugrim WRITE_IMM work entry starts a message whose last packet carries the immediate and not-before time. -/
  | drtWriteImm (num idx : Nat) (dest : List Byte)
  /-- READ (R246): A Drugrim READ work entry takes an outbound record and sends one READ_REQ. -/
  | drtRead (num idx : Nat) (dest : List Byte)
  /-- DRUGRIM_PACKET_SEND (R257): A Drugrim packet is sent when the destination's token bucket allows, encrypted under a fresh pkt_seq. -/
  | drugrimPacketSend (dst : BitVec 24) (given : List Byte)
  /-- DATA_RECEIVE (R234): A received DATA packet is checked, matched to a record or tombstone, placed and acknowledged as required. -/
  | dataReceive (frame : List Byte) (trunc : Bool)
  /-- READ_REQ_RECEIVE (R246): A received READ_REQ is checked and answered with paced READ_RESP packets or an ERROR. -/
  | readReqReceive (frame : List Byte) (trunc : Bool)
  /-- READ_RESP_RECEIVE (R246): A READ_RESP is placed in the requester's buffer if its record matches, completing the READ when every bit is set. -/
  | readRespReceive (frame : List Byte) (trunc : Bool)
  /-- ACK_RECEIVE (R240): A taken ACK marks packets acknowledged, updates congestion state and completes the message OK if complete is set. -/
  | ackReceive (frame : List Byte) (trunc : Bool)
  /-- ERROR_RECEIVE (R240): A taken ERROR completes its message with the ERROR's status and reason. -/
  | errorReceive (frame : List Byte) (trunc : Bool)
  /-- ACK_TIMER (R239): 2 µs have passed since the earliest uncovered placement of a receiving record and an ACK is sent. -/
  | ackTimer (src : BitVec 24) (msgSeq : BitVec 48)
  /-- RETRANSMIT_TIMEOUT (R241): A message's retransmission timer expires, halving the rate and resending unacknowledged packets in a new round, or completing TIMEOUT after round 16. -/
  | retransmitTimeout (r : Fin 65536)
  /-- MESSAGE_DEADLINE (R233): A message reaches its deadline and completes TIMEOUT whatever round it is in. -/
  | messageDeadline (r : Fin 65536)
  /-- RECORD_EXPIRE (R236): T_stale passes for an inbound record in RECEIVING, which is freed without a tombstone and may post MESSAGE_ABANDONED. -/
  | recordExpire (src : BitVec 24) (msgSeq : BitVec 48)
  /-- NOT_BEFORE_RELEASE (R237): A HELD record's not-before time has passed, the target completion is posted and the record becomes a DONE tombstone. -/
  | notBeforeRelease (src : BitVec 24) (msgSeq : BitVec 48)
  /-- HELD_TIMEOUT (R238): A HELD record has not been released within 2 × nb_max and is released with status TIMEOUT. -/
  | heldTimeout (src : BitVec 24) (msgSeq : BitVec 48)
  /-- TOMBSTONE_FREE (R244): The earliest-possible time passes a tombstone's T_stale and the tombstone is freed, letting a waiting finished record take it. -/
  | tombstoneFree (src : BitVec 24) (msgSeq : BitVec 48)
  /-- SETTLE_END (R245): The earliest-possible time passes the settle point after a reset and DATA packets may create records again. -/
  | settleEnd
  /-- EP_CREATE (R262): Drugrim command EP_CREATE creates a local endpoint bound to a slice, ring, domain and destination table. -/
  | epCreate (o : Origin)
  /-- EP_DESTROY (R262): Drugrim command EP_DESTROY squashes the endpoint's messages and removes it. -/
  | epDestroy (o : Origin)
  /-- REGION_REG (R247): Drugrim command REGION_REG registers a memory region and returns its handle. -/
  | regionReg (o : Origin)
  /-- REGION_REVOKE (R248): Drugrim command REGION_REVOKE increments the region's generation and completes once earlier placements and reads have finished. -/
  | regionRevoke (o : Origin)
  /-- REGION_READ (R262): Drugrim command REGION_READ returns a region's registration data. -/
  | regionRead (o : Origin)
  /-- DOMAIN_SET (R254): Drugrim command DOMAIN_SET sets a domain's current epoch and clears next and previous. -/
  | domainSet (o : Origin)
  /-- DOMAIN_NEXT (R254): Drugrim command DOMAIN_NEXT installs a domain's next epoch and key. -/
  | domainNext (o : Origin)
  /-- DOMAIN_PROMOTE (R254): Drugrim command DOMAIN_PROMOTE makes next current, optionally keeping the old current as previous. -/
  | domainPromote (o : Origin)
  /-- DOMAIN_DROP_PREV (R254): Drugrim command DOMAIN_DROP_PREV clears a domain's previous epoch. -/
  | domainDropPrev (o : Origin)
  /-- TRANSPORT_DISABLE (R258): A write of DRT_CFG.enable = 0 squashes outbound messages, frees inbound records and posts TRANSPORT_CHANGED. -/
  | transportDisable (init : Nat)
  /-- ENCRYPT (R265): Cipher descriptor op ENCRYPT is checked, reserves key usage and is queued for a unit. -/
  | encrypt (core : Fin 128) (thread : Fin 8)
  /-- DECRYPT (R265): Cipher descriptor op DECRYPT is checked, reserves key usage and is queued for a unit. -/
  | decrypt (core : Fin 128) (thread : Fin 8)
  /-- DERIVE (R278): Cipher descriptor op DERIVE computes a Drugrim pair key inside the array and writes it to a record or the transient key. -/
  | derive (core : Fin 128) (thread : Fin 8)
  /-- CIPHER_DISPATCH (R269): A queued descriptor is dispatched to a free unit or suspends a lower-priority running descriptor. -/
  | cipherDispatch
  /-- CIPHER_RESUME (R270): A unit becomes free and a suspended descriptor resumes at its next block. -/
  | cipherResume
  /-- CIPHER_COMPLETE (R267): A descriptor's last output is written and its completion message commits on its reply channel. -/
  | cipherComplete
  /-- DESCRIPTOR_PRIORITY_RAISE (R271): A queued or suspended descriptor has issued no block for 65,536 FCLK and is raised one priority level. -/
  | descriptorPriorityRaise
  /-- KEY_LOAD (R273): Key command KEY_LOAD writes a key and attributes into a slot after earlier descriptors under it complete. -/
  | keyLoad (o : Origin) (slot : BitVec 16)
  /-- KEY_UNWRAP (R273): Key command KEY_UNWRAP unwraps a key under kek_slot into a slot. -/
  | keyUnwrap (o : Origin) (slot kek : BitVec 16)
  /-- KEY_ERASE (R273): Key command KEY_ERASE zeroises a slot and clears valid. -/
  | keyErase (o : Origin) (slot : BitVec 16)
  /-- KEY_ATTR (R273): Key command KEY_ATTR replaces a slot's uses, slice and limit. -/
  | keyAttr (o : Origin) (slot : BitVec 16)
  /-- KEY_QUERY (R273): Key command KEY_QUERY reads a slot's attributes, counter and flags. -/
  | keyQuery (o : Origin) (slot : BitVec 16)
  /-- CPH_RNG_READ (R281): A read of CPH_RNG takes a fresh output of the system DRBG instance. -/
  | cphRngRead (init : Nat) (wide upper : Bool)
  /-- DRBG_RESEED (R281): A DRBG instance is reseeded from the entropy source every 1 ms or after its request limit. -/
  | drbgReseed (inst : Fin 27)
  /-- ENTROPY_FAILURE (R282): An entropy test fails, entropy_ok clears, ENTROPY_CHANGED is posted and the source restarts its startup test. -/
  | entropyFailure (test : Fin 3)
  /-- ENTROPY_RECOVERED (R282): The entropy startup test passes, instances reseed and units resume. -/
  | entropyRecovered
  /-- CIPHER_ENTROPY_TIMEOUT (R282): A descriptor has waited 10 ms for randomness and completes DEGRADED. -/
  | cipherEntropyTimeout
  /-- UNIT_KNOWN_ANSWER_TEST (R283): A unit runs its periodic known-answer test, and a failure removes it from dispatch. -/
  | unitKnownAnswerTest (unit : Fin 26) (pass : Bool)
  /-- MMIO_REQUEST (R296): A host MMIO request is checked for enable, size, alignment and access table and then performed, discarded or completed with an error. -/
  | mmioRequest (m : Mmio)
  /-- PERST_ASSERT (R289): PERST# or HOST_PERST_N goes low and the link enters H reset. -/
  | perstAssert (links : Fin 3)
  /-- HOT_RESET (R289): A hot reset or loss of DL_Up starts an H reset of the endpoint. -/
  | hotReset (e : Fin 4)
  /-- LINK_TRAINED (R304): PERST# is released and the LTSSM reaches L0, ending the H reset and taking the new identity and controller set. -/
  | linkTrained (e : Fin 4) (speed : Fin 7) (width : Fin 17) (flit drs : Bool)
  /-- FLR (R302): A write of Initiate Function Level Reset silences the function, resets its slices and configuration and answers normally again within 10 ms. -/
  | flr (fn : Nat)
  /-- COMPLETION_TIMEOUT (R300): A module read is not completed in the configured range and its work completes TIMEOUT. -/
  | completionTimeout (w : ReadWork)
  /-- READ_FAILURE (R300): A module read ends in UR, CA, poison or ECRC error and its work completes ACCESS_VIOLATION or DEGRADED. -/
  | readFailure (w : ReadWork) (k : ReadFail)
  /-- TRANSLATION_MISMATCH (R301): The duplicated translation of a request disagrees at issue, the request is held and the link's error pin is driven. -/
  | translationMismatch (fn : Nat)
  /-- INTERRUPT_UNMASK (R297): A vector or mechanism is unmasked or enabled and its pending message is sent within 1 µs. -/
  | interruptUnmask (fn vec : Nat) (slice : Option Nat)
  /-- L1_ENTRY (R308): An endpoint has been idle for l1_idle and requests ASPM L1. -/
  | l1Entry (e : Fin 4) (deep : Bool)
  /-- L0P_WINDOW (R309): At the end of each l0p_window the endpoint measures utilisation and negotiates a narrower or full width. -/
  | l0pWindow (e : Fin 4) (util : Fin 101)
  /-- DOORBELL (R318): A doorbell write sets the ring's rung flag and, for completion or event rings, re-arms the interrupt, or is discarded. -/
  | doorbell (fn : Nat) (page : Option Nat) (d : Nat) (poisoned : Bool)
  /-- INDEX_LINE_READ (R320): A ring's index line read returns and the module fetches new entries, signals, or stops the ring on overrun. -/
  | indexLineRead (cls num idx : Nat)
  /-- ENTRY_FETCH (R320): A fetch read of up to 8 entries completes and the entries are acted on in index order. -/
  | entryFetch (num : Nat) (entries : List (List Byte))
  /-- CONSUMER_INDEX_WRITE (R321): The module writes a ring's advanced C into its index line, coalesced to once per 0.5 µs. -/
  | consumerIndexWrite (num : Nat)
  /-- TX_ENTRY (R325): A TX entry's frame is read into the packet buffer and injected into its link's pipeline, completing now or at launch. -/
  | txEntry (num idx : Nat) (frame : List Byte)
  /-- HOST_RX_DELIVERY (R326): A packet for a host receive queue is written to the oldest fetched buffer and completed, or dropped. -/
  | hostRxDelivery (link : Fin 2)
  /-- STASH_RETRY (R330): At least every 2 µs a ring with a stash rereads its index line and writes stashed completions that now fit. -/
  | stashRetry (num idx : Nat)
  /-- MODERATION_TIMER (R335): The oldest unsignalled entry of an armed ring has waited mod_time and the ring signals its interrupt. -/
  | moderationTimer (cls num : Nat)
  /-- RING_CREATE (R337): Ring operation CREATE allocates a ring number and doorbell and records the context. -/
  | ringCreate (fn : Nat)
  /-- RING_ENABLE (R337): Ring operation ENABLE sets the indices to start_index, arms the ring and starts it. -/
  | ringEnable (fn : Nat)
  /-- RING_DISABLE (R331): Ring operation DISABLE stops fetching or disables a completion or event ring, discarding its stash. -/
  | ringDisable (fn : Nat)
  /-- RING_DRAINED (R337): A DRAINING submission ring's last fetched entry completes and it becomes DISABLED. -/
  | ringDrained (num : Nat)
  /-- RING_DESTROY (R337): Ring operation DESTROY frees a DISABLED ring, its number and its doorbell. -/
  | ringDestroy (fn : Nat)
  /-- RING_QUERY (R337): Ring operation QUERY loads a ring's context and indices into the setup registers. -/
  | ringQuery (fn : Nat)
  /-- RING_MODIFY_IRQ (R337): Ring operation MODIFY_IRQ replaces a completion or event ring's interrupt settings. -/
  | ringModifyIrq (fn : Nat)
  /-- SLICE_CREATE (R346): Slice command CREATE binds a function, local number and PASID and grants quotas, leaving the slice STOPPED. -/
  | sliceCreate (init slice : Nat)
  /-- SLICE_START (R346): Slice command START makes a STOPPED slice RUNNING and opens its gates. -/
  | sliceStart (init slice : Nat)
  /-- SLICE_RESET (R350): Slice command RESET starts the slice reset sequence, closing rings, gates and endpoints. -/
  | sliceReset (init slice : Nat)
  /-- SLICE_DESTROY (R353): Slice command DESTROY starts the reset sequence followed by removal. -/
  | sliceDestroy (init slice : Nat)
  /-- SLICE_RESIZE (R345): Slice command RESIZE replaces every quota of the slice in one step. -/
  | sliceResize (init slice : Nat)
  /-- SET_WINDOW (R348): Slice command SET_WINDOW writes one DMA window of a slice or function. -/
  | setWindow (init slice : Nat)
  /-- SLICE_QUERY (R346): Slice command QUERY returns a slice's binding, state and quotas or use. -/
  | sliceQuery (init slice : Nat)
  /-- SLICE_BLOCK_DRAINED (R350): A block reports drained for a slice, and the sequence moves to silence once every block has reported. -/
  | sliceBlockDrained (slice : Nat) (blk : Fin 5) (degraded : Bool)
  /-- SLICE_SILENCE_DONE (R350): 2 µs after the last drained report the slice's unissued requests are gone and its rings are cleared. -/
  | sliceSilenceDone (slice : Nat)
  /-- SLICE_RESET_END (R350): The reset sequence's clear step ends, the slice becomes STOPPED or removal begins, and SLC_DONE gets a record. -/
  | sliceResetEnd (slice : Nat)
  /-- SLICE_REMOVAL_DONE (R353): A slice's FLT walk and resource release finish, the slice is FREE and SLC_DONE gets a destroy record. -/
  | sliceRemovalDone (slice : Nat)
  /-- ACT_WRITE (R360): ACT_CMD op 1 commits both words of one rule in one FCLK, or is refused for a sealed target. -/
  | actWrite (init : Nat)
  /-- ACT_READ (R360): ACT_CMD op 2 reads one rule into ACT_RULE. -/
  | actRead (init : Nat)
  /-- ACT_SEAL_WRITE (R360): A write of ACT_SEAL seals targets against further rule writes until the next P, C or W reset. -/
  | actSealWrite (init : Nat) (wide : Bool) (v : Nat)
  /-- ACT_LOG_POP (R359): A write of ACT_LOG_POP removes the head record of the denial log. -/
  | actLogPop (init : Nat)
  /-- CONTROLLER_ENABLE (R366): CC.EN rises, the controller checks CC and becomes ready within 10 ms or sets CFS. -/
  | controllerEnable (c : Fin 1024) (cc : BitVec 32)
  /-- CONTROLLER_RESET (R379): CC.EN falls or an F or H reset hits an NVMe function, and the controller stops fetching and drains or squashes its commands. -/
  | controllerReset (c : Fin 1024)
  /-- CONTROLLER_RESET_TIMEOUT (R379): Backend messages of a controller reset still run after 2 s and are squashed. -/
  | controllerResetTimeout (c : Fin 1024)
  /-- NORMAL_SHUTDOWN (R380): CC.SHN requests a normal shutdown, the controller completes its commands and destages its buffered writes. -/
  | normalShutdown (c : Fin 1024)
  /-- ABRUPT_SHUTDOWN (R380): CC.SHN requests an abrupt shutdown and SHST is set once outstanding commands complete. -/
  | abruptShutdown (c : Fin 1024)
  /-- NVME_DOORBELL (R365): A submission tail or completion head doorbell of an NVMe controller is written and commands are fetched. -/
  | nvmeDoorbell (c : Fin 1024) (cq : Bool) (qid value : Nat) (reads : List (Nat × List Byte))
  /-- DELETE_IO_SUBMISSION_QUEUE (R372): Admin command Delete I/O Submission Queue stops fetching, aborts unstarted commands and completes after the rest. -/
  | deleteIoSubmissionQueue (c : Fin 1024)
  /-- CREATE_IO_SUBMISSION_QUEUE (R367): Admin command Create I/O Submission Queue creates a queue within the grant. -/
  | createIoSubmissionQueue (c : Fin 1024)
  /-- GET_LOG_PAGE (R386): Admin command Get Log Page returns an error, SMART or firmware slot log. -/
  | getLogPage (c : Fin 1024) (prps : List Nat)
  /-- DELETE_IO_COMPLETION_QUEUE (R370): Admin command Delete I/O Completion Queue deletes a queue no submission queue is bound to. -/
  | deleteIoCompletionQueue (c : Fin 1024)
  /-- CREATE_IO_COMPLETION_QUEUE (R367): Admin command Create I/O Completion Queue creates a queue within the grant. -/
  | createIoCompletionQueue (c : Fin 1024)
  /-- IDENTIFY (R370): Admin command Identify returns controller, namespace or list data for CNS 0 to 3. -/
  | nvmeIdentify (c : Fin 1024) (prps : List Nat)
  /-- ABORT (R378): Admin command Abort sends an abort request to the completion arbiter for a named command. -/
  | nvmeAbort (c : Fin 1024)
  /-- ASYNCHRONOUS_EVENT_REQUEST (R387): Admin command Asynchronous Event Request waits until an enabled event occurs, completing at once if one is held. -/
  | asynchronousEventRequest (c : Fin 1024)
  /-- SET_FEATURES (R370): Admin command Set Features sets a supported feature. -/
  | setFeatures (c : Fin 1024) (prps : List Nat) (data : List Byte)
  /-- GET_FEATURES (R370): Admin command Get Features returns a supported feature. -/
  | getFeatures (c : Fin 1024) (prps : List Nat)
  /-- FIRMWARE_IMAGE_DOWNLOAD (R382): Admin command Firmware Image Download stores a piece of an image in the staging area on the firmware controller. -/
  | firmwareImageDownload (c : Fin 1024) (prps : List Nat) (data : List Byte)
  /-- FIRMWARE_COMMIT (R382): Admin command Firmware Commit writes a slot, marks it preferred or issues ACTIVATE on the firmware controller. -/
  | firmwareCommit (c : Fin 1024)
  /-- NVME_FLUSH (R377): I/O command Flush completes when every covered buffered write has been destaged OK. -/
  | nvmeFlush (c : Fin 1024) (sq : Nat)
  /-- NVME_WRITE (R374): I/O command Write places data in the write buffer, or writes through to the backend, waiting for buffer space if needed. -/
  | nvmeWrite (c : Fin 1024) (sq : Nat) (prps : List Nat) (data dest : List Byte)
  /-- NVME_READ (R375): I/O command Read pins overlapping buffered writes and returns their blocks or blocks from a backend READ. -/
  | nvmeRead (c : Fin 1024) (sq : Nat) (prps : List Nat) (dest : List Byte)
  /-- NVME_WRITE_ZEROES (R370): I/O command Write Zeroes writes module-generated zero data as Write does. -/
  | nvmeWriteZeroes (c : Fin 1024) (sq : Nat) (dest : List Byte)
  /-- BACKEND_READ_DONE (R375): A namespace's backend Drugrim READ completes and the Read's data is written to the host. -/
  | backendReadDone (msg : Nat)
  /-- DESTAGE_DONE (R376): A backend WRITE of buffered data completes, freeing buffer space or scheduling a retry or faulting the namespace. -/
  | destageDone (msg : Nat)
  /-- DESTAGE_RETRY (R376): A failed destage's backoff expires and it is retried. -/
  | destageRetry (buf : Nat) (dest : List Byte)
  /-- DESTAGE_FAILURE_WARNING (R376): Destages of a namespace have failed for 10 s and Critical Warning bit 2 is set. -/
  | destageFailureWarning (ns : Fin 8192)
  /-- APST_IDLE (R385): A controller has been idle for ITPT and moves to ITPS. -/
  | apstIdle (c : Fin 1024)
  /-- SMART_COUNTER_UPDATE (R386): Every 60 s the NVMe SMART counters are saved to MRAM. -/
  | smartCounterUpdate
  /-- NS_CREATE (R390): Namespace command CREATE writes a namespace record. -/
  | nsCreate (init : Nat) (ns : Fin 8192)
  /-- NS_DELETE (R390): Namespace command DELETE discards the namespace's buffered writes and frees it. -/
  | nsDelete (init : Nat) (ns : Fin 8192)
  /-- NS_ATTACH (R390): Namespace command ATTACH attaches a namespace to a controller under an NSID. -/
  | nsAttach (init : Nat) (ns : Fin 8192) (controller : Fin 1024) (nsid : BitVec 8)
  /-- NS_DETACH (R390): Namespace command DETACH detaches a namespace from its controller. -/
  | nsDetach (init : Nat) (ns : Fin 8192)
  /-- NS_QUERY (R390): Namespace command QUERY returns a namespace's state and buffered amount. -/
  | nsQuery (init : Nat) (ns : Fin 8192)
  /-- CLEAR_FAULT (R390): Namespace command CLEAR_FAULT returns a FAULTED namespace to service. -/
  | clearFault (init : Nat) (ns : Fin 8192)
  /-- CHANNEL_OPEN (R399): A thread opens its staging buffer with a destination, discarding any uncommitted message. -/
  | channelOpen (core : Fin 128) (thread : Fin 8) (dest : BitVec 16)
  /-- CHANNEL_WRITE (R399): A thread writes one word into its staging buffer, faulting on a ninth. -/
  | channelWrite (core : Fin 128) (thread : Fin 8) (word : Word)
  /-- CHANNEL_COMMIT (R399): A staged message commits once its destination has room for it, or completes NO_RECEIVER. -/
  | channelCommit (core : Fin 128) (thread : Fin 8)
  /-- CHANNEL_RECEIVE (R402): A thread takes the oldest message of the lowest non-empty channel of a set, waiting while all are empty. -/
  | channelReceive (core : Fin 128) (thread : Fin 8) (mask : BitVec 16)
  /-- PACKET_DELIVERY (R403): A packet sent to a flow core is delivered as a 4-word message or dropped when its channel is full. -/
  | packetDelivery (half : Fin 2)
  /-- TIME (R404): CORE endpoint op TIME returns island time and uncertainty from the held snapshot. -/
  | coreTime (core : Fin 128) (thread : Fin 8)
  /-- TIMER (R404): CORE endpoint op TIMER arms a reply after a delay in FCLK. -/
  | coreTimer (core : Fin 128) (thread : Fin 8)
  /-- TIMER_EXPIRE (R404): A TIMER's delay has passed and its reply is sent. -/
  | timerExpire (core : Fin 128)
  /-- START_DONE (R421): CORE endpoint op START_DONE ends start-up and the core runs shared from the next slot 0. -/
  | startDone (core : Fin 128) (thread : Fin 8)
  /-- RESTART (R408): CORE endpoint op RESTART clears a thread's fault and starts it at an entry address. -/
  | threadRestart (core : Fin 128) (thread : Fin 8)
  /-- STOP (R408): CORE endpoint op STOP disables a thread until the next RESTART. -/
  | threadStop (core : Fin 128) (thread : Fin 8)
  /-- READ_EVENTS (R409): CORE endpoint op READ_EVENTS returns up to 7 supervisor notifications. -/
  | readEvents (core : Fin 128) (thread : Fin 8)
  /-- PBF_READ (R405): PBF endpoint op READ copies packet bytes into local memory. -/
  | pbfRead (core : Fin 128) (thread : Fin 8)
  /-- PBF_WRITE (R405): PBF endpoint op WRITE copies local memory into a packet, growing it if needed. -/
  | pbfWrite (core : Fin 128) (thread : Fin 8)
  /-- INJECT (R405): PBF endpoint op INJECT sends a packet into the core half's pipeline as a new packet. -/
  | pbfInject (core : Fin 128) (thread : Fin 8)
  /-- FREE (R405): PBF endpoint op FREE frees a packet handle. -/
  | pbfFree (core : Fin 128) (thread : Fin 8)
  /-- ALLOC (R405): PBF endpoint op ALLOC allocates an empty packet and returns its handle. -/
  | pbfAlloc (core : Fin 128) (thread : Fin 8)
  /-- MEM_READ (R406): MEM endpoint op READ copies HBM bytes into local memory after an access-table check. -/
  | memRead (core : Fin 128) (thread : Fin 8)
  /-- MEM_WRITE (R406): MEM endpoint op WRITE copies local memory to HBM after an access-table check. -/
  | memWrite (core : Fin 128) (thread : Fin 8)
  /-- GMUL (R415): A GF unit GMUL operation multiplies two elements of GF(2^128) and returns 4 FCLK later. -/
  | gmul (core : Fin 128) (thread : Fin 8) (x y : BitVec 128)
  /-- XMUL (R415): A GF unit XMUL operation multiplies a tweak by alpha and returns 4 FCLK later. -/
  | xmul (core : Fin 128) (thread : Fin 8) (x : BitVec 128)
  /-- THREAD_FAULT (R407): A thread faults, its cause is recorded and THREAD_FAULT is posted, or the whole core faults for thread 0. -/
  | threadFault (core : Fin 128) (thread : Fin 8) (cause : BitVec 4) (addr : BitVec 32)
  /-- DEADLOCK (R411): All threads of a core have been blocked with nothing in transit for 1,024 FCLK and DEADLOCK is posted. -/
  | deadlock (core : Fin 128)
  /-- GLOBAL_DEADLOCK_SAMPLE (R412): Every 8,192 FCLK the detector samples the wait-for graph and reports a cycle seen in 4 samples. -/
  | globalDeadlockSample
  /-- HELD (R414): A thread stopped with a partial message for 65,536 FCLK posts HELD to the sending and receiving supervisors. -/
  | threadHeld (core : Fin 128) (thread : Fin 8)
  /-- DBG_STOP (R413): Debug op STOP stops a thread at its next instruction boundary. -/
  | dbgStop (init : Nat) (core : Fin 128) (thread : Fin 8)
  /-- DBG_RESUME (R413): Debug op RESUME resumes a stopped thread. -/
  | dbgResume (init : Nat) (core : Fin 128) (thread : Fin 8)
  /-- DBG_STEP (R413): Debug op STEP issues one instruction in the thread's next eligible slot and stops it again. -/
  | dbgStep (init : Nat) (core : Fin 128) (thread : Fin 8)
  /-- DBG_READ (R413): Debug op READ reads a stopped thread's state word. -/
  | dbgRead (init : Nat) (core : Fin 128) (thread : Fin 8) (index : BitVec 32)
  /-- DBG_WRITE (R413): Debug op WRITE writes a stopped thread's state word. -/
  | dbgWrite (init : Nat) (core : Fin 128) (thread : Fin 8) (index : BitVec 32)
  /-- CORE_LOAD (R418): FCX_LOAD op LOAD checks an image and loads it into a range of cores in 8-core groups. -/
  | coreLoad (init : Nat) (first last : Fin 128) (addr : Nat)
  /-- RESET_CORE (R419): FCX_LOAD op RESET_CORE reloads one core from its recorded image. -/
  | resetCore (init : Nat) (core : Fin 128)
  /-- CORE_LOAD_GROUP_DONE (R418): An 8-core group finishes loading and its cores are released into start-up. -/
  | coreLoadGroupDone (group : Fin 16)
  /-- STARTUP_TIMEOUT (R421): START_DONE has not arrived 10 ms after release and the core faults with cause STARTUP. -/
  | startupTimeout (core : Fin 128)
  /-- FAULT_EVENT (R426): A fault event presented on a source's pin is latched, recorded, given a level and acted on. -/
  | faultEvent (q : Fin 47) (ev : Option ErrEvent) (word : Option BadWord) (row : Option Defect)
  /-- CORRECTED_EVENT (R425): A corrected event sets PRF_CORR_LATCH and passes the row to Retouch. -/
  | correctedEvent (q : Fin 47) (ev : Option ErrEvent)
  /-- FAULT_ACK (R432): A write of 1 to a PRF_LATCH bit acknowledges the source, clearing its bit and record. -/
  | faultAck (init : Nat) (wide upper : Bool) (v : Word)
  /-- PRF_SLICE_LIFT (R435): A write of PRF_SLICE_LIFT.go lifts a STOPPED slice's containment if no qualifying fault names it. -/
  | prfSliceLift (init : Nat) (slice : BitVec 14)
  /-- SAFELIGHT_FEED (R437): A write of PRF_SL_FEED feeds the Safelight, raising a fault if the value is wrong. -/
  | safelightFeed (init : Nat) (v : BitVec 8)
  /-- SAFELIGHT_FEED_TIMEOUT (R437): feed_timeout expires without a feed while the Safelight toggles and a PRF fault event is raised. -/
  | safelightFeedTimeout
  /-- SAFELIGHT_BOUNDARY (R438): At each half-period boundary the Safelight toggles or stops according to the stop conditions. -/
  | safelightBoundary
  /-- CLOCK_DEVIATION (R444): The clock monitor finds a clock out of range or lost and raises a class M event on bit 43. -/
  | clockDeviation
  /-- PATROL_SCRUB (R445): The patrol scrub reads a protected word, writing back corrected ones and reporting uncorrectable ones. -/
  | patrolScrub (q : Fin 45) (mem found : Fin 3) (unit row : Nat)
  /-- UNIT_FAILURE (R450): A unit meets its run-time failure criteria and is logged for replacement at the next D or C reset. -/
  | unitFailure (kind : Fin 7) (unit : Nat)
  /-- SELF_TEST (R447): At C release Retouch applies repairs, tests memories and logic, allocates spares and updates the log. -/
  | selfTest (found : List Defect) (fatal : Bool)
  /-- SELF_TEST_FATAL_RETRY (R453): After a fatal self-test result a C reset is repeated every 64 s. -/
  | selfTestFatalRetry
  /-- REPAIR_LOG_READ (R448): A write of RTH_LOG_CMD.go copies a repair log entry into RTH_LOG_DATA. -/
  | repairLogRead (init : Nat) (index : BitVec 12)
  /-- ERROR_INJECT (R526): A write of X_BLK_ERR_CTL.inject in TEST presents a built event on the block's error pin. -/
  | errorInject (init : Nat) (blk : Fin 26) (v : Word)
  /-- ROM_START (R458): The ROM starts, samples the straps and tries the boot sources in order. -/
  | romStart (straps : BitVec 5)
  /-- SOURCE_WAIT_TIMEOUT (R459): An external boot source exceeds its wait limit and the ROM moves to the next source. -/
  | sourceWaitTimeout
  /-- REC_GO (R471): A write of REC_GO starts the ROM's DMA read of a host-pushed image. -/
  | recGo (fn : Nat) (v : BitVec 32)
  /-- TFTP_IMAGE_WRITE (R471): A TFTP write of the file image starts on the management port and the ROM receives the image. -/
  | tftpImageWrite
  /-- ODFER_IMAGE_OFFER (R500): An image offer from the master arrives on an Odfer link and the ROM receives it. -/
  | odferImageOffer (link : Fin 2)
  /-- IMAGE_RECEIVED (R463): A received image is written to a slot, header last, and verified. -/
  | imageReceived (image : List Byte)
  /-- ROM_HANDOVER (R462): The ROM increments the store's tries count, arms the 60 s watchdog and hands over to the chosen image. -/
  | romHandover
  /-- BOOT_WATCHDOG (R462): The boot watchdog expires before boot completion and causes a W reset. -/
  | bootWatchdog
  /-- BOOT_DONE (R467): Firmware writes BOOT_CTL.done, setting booted, clearing tries and committing the start mode. -/
  | bootDone (init : Nat)
  /-- BOOT_FAIL (R481): Firmware writes BOOT_CTL.fail during an activation and UPD rolls back. -/
  | bootFail (by_ : FailBy)
  /-- RECOVERY_WINDOW_CLOSE (R470): The DARKROOM window closes with no valid image and the retry wait starts. -/
  | recoveryWindowClose
  /-- DARKROOM_RETRY (R470): The retry wait ends, dr_count increments and a C reset restarts the source order. -/
  | darkroomRetry
  /-- MEAS_READ (R472): BOOT_MEAS_CMD op 1 reads a measurement register. -/
  | measRead (init : Nat) (n : BitVec 10)
  /-- MEAS_EXTEND (R472): BOOT_MEAS_CMD op 2 extends M12 to M15 with a digest and logs the extension. -/
  | measExtend (init : Nat) (n : BitVec 10)
  /-- MEAS_LOG_READ (R473): BOOT_MEAS_CMD op 3 reads an event log entry. -/
  | measLogRead (init : Nat) (n : BitVec 10)
  /-- UPD_OPEN (R476): Update op OPEN erases the inactive slot's header and opens a write sequence. -/
  | updOpen (init : Nat) (v : Word)
  /-- UPD_WRITE (R476): Update op WRITE copies bytes into the inactive slot, holding back the header. -/
  | updWrite (init : Nat) (v : Word)
  /-- UPD_CLOSE (R476): Update op CLOSE checks the held header and writes it, clearing the slot's tries count. -/
  | updClose (init : Nat) (v : Word)
  /-- ACTIVATE (R478): Update op ACTIVATE verifies the inactive slot and prepares banks and flow-core images. -/
  | updActivate (init : Nat) (v : Word) (prepare : Bool)
  /-- ACTIVATE_COMMIT (R479): At commit instant C the new slot is preferred, the cores stop and the D reset of ACTIVATE runs. -/
  | activateCommit (outcome : ActPrepared)
  /-- ACTIVATE_TIMEOUT (R481): BOOT_CTL.done is not written within 180 ms of C and UPD rolls back. -/
  | activateTimeout
  /-- PREFER (R476): Update op PREFER sets the preferred slot for the next boot. -/
  | updPrefer (init : Nat) (v : Word)
  /-- INVALIDATE (R476): Update op INVALIDATE ends any sequence and erases the inactive slot's header. -/
  | updInvalidate (init : Nat) (v : Word)
  /-- REVOKE_KEY (R466): Update op REVOKE_KEY runs the revocation guard and blows a key slot's revoke fuse. -/
  | revokeKey (init : Nat) (v : Word)
  /-- ADVANCE_SVN (R466): Update op ADVANCE_SVN runs the revocation guard and advances the rollback counter. -/
  | advanceSvn (init : Nat) (v : Word)
  /-- ENROLL_OWNER (R475): Update op ENROLL_OWNER stores the hash of an owner public key. -/
  | enrollOwner (init : Nat) (v : Word)
  /-- LOCK (R475): Update op LOCK sets owner_lock on an enrolled module. -/
  | ownerLock (init : Nat) (v : Word)
  /-- UNLOCK (R475): Update op UNLOCK clears owner_lock on a valid owner signature and changes the nonce. -/
  | ownerUnlock (init : Nat) (v : Word)
  /-- AGREEMENT_RECORD_SEND (R490): Every 1 ms, and at link up, a module sends its agreement record on both links. -/
  | agreementRecordSend
  /-- AGREEMENT_RECORD_RECEIVE (R491): A received agreement record is relayed, compared and may hold a member out, admit a joining member or measure delay. -/
  | agreementRecordReceive (link : Fin 2) (peer : Fin 4) (peerLink : Fin 2) (delay : BitVec 24) (offset : Int) (r : List Byte)
  /-- ODFER_LINK_DOWN (R486): A link with no valid record for 10 ms is down and its frames in flight are lost. -/
  | odferLinkDown (link : Fin 2) (lost : Nat)
  /-- MASTER_SILENT (R488): No master record has arrived for 10 ms and the lowest live member is promoted if a majority remains. -/
  | masterSilent
  /-- MEMBER_SILENT (R488): A master receives no member record for 10 ms and ends the cascade on its side. -/
  | memberSilent
  /-- ODF_LOCKUP (R498): ODF_CMD op LOCKUP sets an instant T and locks up the chase on every module in service at T. -/
  | odfLockup (by_ : OdfBy) (refused : BitVec 4)
  /-- REPARTITION (R496): ODF_CMD op REPARTITION frees every FLT entry and repartitions the table over the members in service. -/
  | repartition (by_ : OdfBy)
  /-- HANDBACK (R489): ODF_CMD op HANDBACK returns mastership to member 0. -/
  | handback (init : Nat)
  /-- REPARTITION_HOLD_EXPIRE (R496): A partition's owner has not been live for repartition_hold and its partition passes to the survivors. -/
  | repartitionHoldExpire
  /-- ODFER_FRAME_RECEIVE (R493): A cross-member frame arrives on a link and is forwarded onward or enqueued in its carried queue. -/
  | odferFrameReceive (link : Fin 2) (f : OdfFrame)
  /-- FAR_LOOKUP_REQUEST (R494): An owner receives a far lookup request and serves it in its lookup slots. -/
  | farLookupRequest (member : Fin 4) (id : Nat) (forme : Fin 8) (key : List Byte) (bads : List (Nat × Nat × Nat))
  /-- FAR_LOOKUP_RESULT (R494): A far lookup result returns and the packet re-enters its pipeline to merge the action. -/
  | farLookupResult (p : Fin 4) (id : Nat) (hit : Option Nat) (bads : List (Nat × Nat × Nat))
  /-- FAR_LOOKUP_TIMEOUT (R495): A far lookup unanswered after 20 µs takes the miss result. -/
  | farLookupTimeout (p : Fin 4)
  /-- MEMBER_WINDOW_ACCESS (R523): An application core access in the member window is carried to the selected member and answered. -/
  | memberWindowAccess (init : Nat) (off : BitVec 25) (wide : Bool) (write answer : Option Word)
  /-- MEMBER_ACCESS_TIMEOUT (R523): A member window access has failed and after at most 20 µs reads all ones and sets error. -/
  | memberAccessTimeout
  /-- HOST_ON (R507): Host power op ON enables aux power and pulses the power button if the host is off. -/
  | hostOn (init : Nat) (v : BitVec 32)
  /-- HOST_OFF (R507): Host power op OFF pulses the power button for a graceful shutdown. -/
  | hostOff (init : Nat) (v : BitVec 32)
  /-- HOST_FORCE_OFF (R507): Host power op FORCE_OFF holds the power button for 6 s and removes aux power if needed. -/
  | hostForceOff (init : Nat) (v : BitVec 32)
  /-- HOST_RESET (R507): Host power op RESET pulses HOST_RST_N for 100 ms. -/
  | hostReset (init : Nat) (v : BitVec 32)
  /-- HOST_CYCLE (R507): Host power op CYCLE forces off, waits 5 s with aux off, then powers on. -/
  | hostCycle (init : Nat) (v : BitVec 32)
  /-- HOST_AUX_OFF (R507): Host power op AUX_OFF removes aux power at once. -/
  | hostAuxOff (init : Nat) (v : BitVec 32)
  /-- HOST_POWER_OP_END (R507): A host power operation's pulse or wait ends and its result is posted on HOST_PWR_GOOD or timeout. -/
  | hostPowerOpEnd
  /-- HOST_WAKE (R509): A debounced falling edge of HOST_WAKE_N sets wake, interrupts the cores and may run ON. -/
  | hostWake
  /-- HOST_POWER_POLICY_APPLY (R506): At boot or 30 s after ac_good the host power policy is applied after an AC-loss power-up. -/
  | hostPowerPolicyApply
  /-- THERMAL_ALARM (R516): A sensor reaches its alarm point, alarm is set and a thermal event is raised. -/
  | thermalAlarm (x : Thermal)
  /-- THERMAL_ALARM_CLEAR (R516): Every sensor has been 5 °C below its point for 10 s and the alarm clears. -/
  | thermalAlarmClear (x : Thermal)
  /-- THERMAL_CRITICAL (R516): Tj reaches 110 °C and a class M thermal event is raised. -/
  | thermalCritical (x : Thermal)
  /-- THERMAL_TRIP (R516): Tj or the PSU reaches its trip point and the PSU removes the SoC rails within 1 ms. -/
  | thermalTrip (x : Thermal)
  /-- THERMAL_RESTART (R516): After a trip Tj is at most 80 °C and 60 s have passed, and a C reset restarts the module. -/
  | thermalRestart (x : Thermal)
  /-- PSU_FAULT (R516): A PSU output or controller fault sets psu_fault and raises a class M PWR event. -/
  | psuFault
  /-- MGMT_FRAME_RECEIVE (R515): A management port frame is filtered and written into the next receive buffer or dropped. -/
  | mgmtFrameReceive (frame : List Byte) (word : Fin 3)
  /-- MGMT_TRANSMIT (R515): A write of MGT_ETH_TX.prod makes the management port send, pad or skip the new transmit entries in order. -/
  | mgmtTransmit (init : Nat) (prod : BitVec 16) (word : Fin 3)
  /-- OPTICAL_MODULE_FAULT (R217): A power or fault indication from the optical module in a cage drives the error pin of each port of that cage. -/
  | opticalModuleFault (cage : Fin 2)
  /-- CONFIGURATION_REQUEST (R307): A host configuration write changes D-state, Bus Master Enable, PASID Enable, VF Enable or the DOE mailbox, with the behaviour each of these carries. -/
  | configurationRequest (fn : Nat) (c : CfgChange)
  /-- RECEIVED_TLP_ERROR (R299): A received TLP or DLLP with a link or protocol error, or an unexpected completion or AtomicOp, is logged in AER and discarded. -/
  | receivedTlpError (e : Fin 4) (err : TlpError) (fn : Nat) (hdr : List Nat)
  /-- BACKEND_WRITE_DONE (R374): A write-through backend Drugrim WRITE of an NVMe Write completes, and the Write completes. -/
  | backendWriteDone (msg : Nat)
  /-- TEMPERATURE_THRESHOLD (R387): The composite temperature crosses a controller's temperature threshold, setting Critical Warning bit 1 and raising a temperature event. -/
  | temperatureThreshold (c : Fin 1024) (kelvin : BitVec 16)
  /-- HOST_ENDPOINT_REQUEST (R404): A request to the HOST endpoint accesses host memory for a function or slice after the DMA window check, or is held under SAFE_HOLD or a slice stop bath. -/
  | hostEndpointRequest (core : Fin 128) (thread : Fin 8) (fn : Nat) (slice : Option Nat) (wr : Bool) (addr len loc : Nat) (data : List Byte)
  /-- MGMT_LINK_CHANGE (R513): The management port's link comes up or goes down after auto-negotiation, changing MGT_ETH_STATUS.link_up and speed. -/
  | mgmtLinkChange (up gigabit : Bool)
  /-- LINK_PARTNER_LPI (R214): The link partner enters or leaves Low Power Idle and the port's receiver follows it, changing lpi_rx. -/
  | linkPartnerLpi (port : Fin 8) (on : Bool)
  /-- REDFISH_RESET (R59): A Redfish reset of type ForceRestart or GracefulRestart causes a C or W reset recorded as mgmt_request. -/
  | redfishReset (force : Bool)
  /-- SMBUS_TRANSACTION (R510): An SMBus transaction at address 0x3A delivers or returns an MCTP message for PLDM or SPDM. -/
  | smbusTransaction (addr : BitVec 7) (write : Bool) (bytes : List Byte)
deriving DecidableEq, Repr

end Sys2Proof
end

