-- ==== Sys2Proof/Decode.lean ====
section
/-! DEFINITION. The command that a word spells by the bits of spec/opcode_table.json. The module has no instruction words: every row
of the table has an empty list of fields, so that no word spells a command. -/

namespace Sys2Proof

/-- The command that a word of a number of bits spells: none, since no row of the table gives bits. -/
def decodeTableWord (_nbits _w : Nat) : Option Instr := none

end Sys2Proof
end

