-- ==== Sys2Proof/Config.lean ====
section
/-! DEFINITION. What the spec leaves open and the model does not choose: free values, functions that are defined by other
standards or by the internals of the part, and quantities that an implementation fixes. None has a body, so nothing can be
proved about a value of one. Each is named in an entry of notes/assumptions. -/

namespace Sys2Proof.Config

/-- A free value: the value drawn at count `n`. The state's `freeSeq` counts the draws. -/
opaque freeValue (n : Nat) : Nat

/-- Where an SRAM array lies (R451): 0 to 3 in that pipeline, 4 in a shared store, from 5 in the replicated unit numbered
kind × 65536 + unit + 5. The spec gives the arrays identifiers (Table 15-7) but no list of them. -/
opaque sramPlace (array : Nat) : Nat

/-- How many rows of an HBM stack its post-package repair can replace (Table 15-5 gives no number). -/
opaque hbmRepairs (stack : Nat) : Nat

/-- UPD_NONCE after the first reset: "fresh random value" (spec/16). -/
opaque firstNonce : Nat

/-- The set of the congestion cache, of 4,096, that holds a destination (R220 gives the ways, no set function). -/
opaque congSet (dst : Nat) : Nat

/-- The golden image in the boot NOR, written at the factory (Table 16-1). -/
opaque goldenImage : List Byte

/-- The SHA-384 of the ROM, with which M0 is extended first (Table 16-8). -/
opaque romHash : Nat

/-- The fused SHA-384 of the public key of an image-signing key slot (R464). -/
opaque keyHash (slot : Nat) : Nat

end Sys2Proof.Config
end

