-- ==== Sys2Proof/Machine/Regs.lean ====
section
/-! DEFINITION. The registers of the module, written from the register headers and field tables of spec/00 to spec/19:
their names, places, widths, resets, reset values and fields. -/

namespace Sys2Proof.Machine

/-- The access codes of Table 0-4 (R6). -/
inductive Acc where
  | rw | ro | wo | w1c | w1s | rc | rwl
deriving DecidableEq, Repr

/-- The change classes of Table 0-5 (R10); `none` for a field that software cannot write. -/
inductive Cls where
  | a | s | d | none
deriving DecidableEq, Repr

/-- The reset letters of Table 0-3 (R3). M is no reset and is a flag of the register. -/
inductive Rst where
  | p | c | w | d | h | f | s
deriving DecidableEq, Repr

/-- What the fuses of one module hold (R1, R527, R528, R458, R464, R465), `keyHash` the SHA-384 of each key
slot's public key. -/
structure Fuse where
  grade : Nat
  stepping : Nat
  serial : Word
  mac : Nat
  orderLock : Bool
  order : Nat
  rollback : Nat
  keyRevoked : Nat
  keyPresent : Nat
  keyHash : List Nat
deriving DecidableEq, Repr

/-- The registers. An indexed register is one name with indices; `X_` registers stand in several blocks and take the
block as their first index (EML 0, LPM 1, RUL 2, FLT 3; the common registers take the block number of Table 19-1). -/
inductive Reg where
  | MGT_MODE_REQ | MGT_START_CFG | PWR_RESET_CTRL | PWR_RESET_CAUSE
  | TSV_RATE | TSV_STATE | TSV_HOLD_MODEL | TSV_SERVO
  | TSV_ADJ | TSV_SET_SEC | TSV_REF_SEL | TSV_PORT_CAL
  | TSV_PPS_CFG | TSV_SNAP_SEC | TSV_SNAP_NS | TSV_SNAP_UNC
  | TSV_MIRROR | TSV_ISLAND_RESET | TSV_TPG_ADDR | TSV_TPG_MULT
  | TSV_TPG_OFFSET | TSV_TPG_CTL | FRM_CMD | FRM_STATE
  | FRM_REF | FRM_TAGGED | FRM_SLOT_ID | FRM_DROP
  | PAR_EXC_CNT | EML_HASH_SEED | FLT_HASH_SEED | X_CMD
  | X_CMD_DATA | X_AGE_CFG | EML_LEARN_CFG | EML_MEMBER_CFG
  | FLT_LEARN_CFG | FLT_LEARN_PROFILES | X_CNT | FLT_PART
  | TMG_EPOCH | TMG_NODE_ADDR | TMG_NODE_CFG | TMG_NODE_STAT
  | TMG_AGE | TMG_BUF_CFG | TMG_GATE | TMG_OUT_CFG
  | TMG_POL_CMD | TMG_POL_CFG | TMG_DROP | MAC_CAGE_CFG
  | MAC_PORT_CFG | MAC_CNT | MAC_PORT_STATUS | MAC_IMP_CFG
  | MAC_IMP_BASE | MAC_IMP_CYCLE | MAC_IMP_CMD | MAC_IMP_STATUS
  | MAC_IMP_ENTRY | MAC_LPI_CFG | MAC_LANE_MAP | DRT_CFG
  | DRT_TIMER | DRT_CC_CFG | DRT_SEQ | DRT_CMD
  | DRT_CMD_DATA | DRT_STATUS | DRT_CNT | CPH_KEY_CMD
  | CPH_KEY_ATTR | CPH_KEY_USAGE | CPH_KEY_DATA | CPH_DRT_CORES
  | CPH_STATUS | CPH_RNG | CPH_CNT | HIF_LINK_CFG
  | HIF_PM_CFG | HIF_LINK_STATUS | HIF_FUNC_CFG | HIF_CNT
  | DQM_RING_SEL | DQM_RING_CTX | DQM_RING_IDX | DQM_RING_CMD
  | DQM_CNT | SLC_CMD | SLC_CMD_DATA | SLC_DONE
  | SLC_POOL | ACT_SEL | ACT_RULE | ACT_CMD
  | ACT_SEAL | ACT_LOG | ACT_LOG_POP | ACT_CNT
  | NVE_CTRL_CFG | NVE_NS_CMD | NVE_NS_DATA | NVE_NS_STATUS
  | NVE_BUF_STATUS | NVE_CNT | FCX_LOAD | FCX_STATUS
  | FCX_SYS_CORES | FCX_DBG_CMD | FCX_DBG_DATA | FCX_GDL
  | FCX_CNT | FCX_CORE_STATUS | FCX_MAP | FCX_THREAD
  | PRF_LATCH | PRF_CORR_LATCH | PRF_STATUS | PRF_SLICE_LIFT
  | PRF_SL_CFG | PRF_SL_FEED | PRF_LAST_FAULT | PRF_LEVEL
  | PRF_REC | RTH_STATUS | RTH_DEGRADE | RTH_ROW_CFG
  | RTH_LOG_CMD | RTH_LOG_DATA | BOOT_STATUS | BOOT_VERSION
  | BOOT_FUSE | BOOT_PERSIST | BOOT_CTL | BOOT_MEAS_CMD
  | BOOT_MEAS_DATA | UPD_CMD | UPD_ARG | UPD_STATUS
  | UPD_NONCE | ODF_CFG | ODF_STATUS | ODF_LINK_STATUS
  | ODF_CMD | ODF_REC_CFG | ODF_MEMBER_REC | ODF_CNT
  | PWR_STATUS | PWR_HOST_CTL | MGT_ETH_MAC | MGT_ETH_CFG
  | MGT_ETH_STATUS | MGT_ETH_RX | MGT_ETH_TX | MGT_ETH_CNT
  | PWR_THERM | X_BLK_ID | X_BLK_STATUS | X_BLK_ERR_CTL
  | X_BLK_ERR_CNT | MODE_STATE | MGT_MODULE_ID | MGT_SERIAL
  | MGT_MEMBER_SEL
deriving DecidableEq, Repr

/-- One row of the register map: its block (Table 19-1; 26 is the time page control area and 27 the function window),
its offset there, the number and stride of each index, its width, the resets its header lists and its M mark (R2, R4). -/
structure RegRow where
  block : Nat
  offset : Nat
  n0 : Nat
  s0 : Nat
  n1 : Nat
  s1 : Nat
  width : Nat
  resets : List Rst
  m : Bool
deriving DecidableEq, Repr

/-- One field of a register: its bits, access code and change class. -/
structure Fld where
  reg : Reg
  hi : Nat
  lo : Nat
  acc : Acc
  cls : Cls
deriving DecidableEq, Repr

/-! MGT_MODE_REQ (spec/02, near R51) -/
def MGT_MODE_REQ.result : Fld := ⟨.MGT_MODE_REQ, 31, 24, .ro, .none⟩
def MGT_MODE_REQ.busy : Fld := ⟨.MGT_MODE_REQ, 16, 16, .ro, .none⟩
def MGT_MODE_REQ.source_mode : Fld := ⟨.MGT_MODE_REQ, 10, 8, .ro, .none⟩
def MGT_MODE_REQ.go : Fld := ⟨.MGT_MODE_REQ, 3, 3, .wo, .s⟩
def MGT_MODE_REQ.target : Fld := ⟨.MGT_MODE_REQ, 2, 0, .rw, .s⟩
/-! MGT_START_CFG (spec/02, near R52) -/
def MGT_START_CFG.host_power_policy : Fld := ⟨.MGT_START_CFG, 11, 10, .rwl, .s⟩
def MGT_START_CFG.standby_port : Fld := ⟨.MGT_START_CFG, 9, 7, .rwl, .s⟩
def MGT_START_CFG.test_allowed : Fld := ⟨.MGT_START_CFG, 5, 5, .rwl, .s⟩
def MGT_START_CFG.cascade_enable : Fld := ⟨.MGT_START_CFG, 4, 4, .rwl, .s⟩
def MGT_START_CFG.start_mode : Fld := ⟨.MGT_START_CFG, 2, 0, .rwl, .s⟩
/-! PWR_RESET_CTRL (spec/02, near R62) -/
def PWR_RESET_CTRL.key : Fld := ⟨.PWR_RESET_CTRL, 31, 16, .wo, .s⟩
def PWR_RESET_CTRL.flushing : Fld := ⟨.PWR_RESET_CTRL, 4, 4, .ro, .none⟩
def PWR_RESET_CTRL.datapath : Fld := ⟨.PWR_RESET_CTRL, 3, 3, .wo, .s⟩
def PWR_RESET_CTRL.warm : Fld := ⟨.PWR_RESET_CTRL, 2, 2, .wo, .s⟩
def PWR_RESET_CTRL.cold : Fld := ⟨.PWR_RESET_CTRL, 1, 1, .wo, .s⟩
def PWR_RESET_CTRL.flush_first : Fld := ⟨.PWR_RESET_CTRL, 0, 0, .rw, .s⟩
/-! PWR_RESET_CAUSE (spec/02, near R63) -/
def PWR_RESET_CAUSE.l4_source : Fld := ⟨.PWR_RESET_CAUSE, 31, 24, .ro, .none⟩
def PWR_RESET_CAUSE.dp_retouch : Fld := ⟨.PWR_RESET_CAUSE, 10, 10, .w1c, .s⟩
def PWR_RESET_CAUSE.dp_activate : Fld := ⟨.PWR_RESET_CAUSE, 9, 9, .w1c, .s⟩
def PWR_RESET_CAUSE.dp_request : Fld := ⟨.PWR_RESET_CAUSE, 8, 8, .w1c, .s⟩
def PWR_RESET_CAUSE.darkroom_retry : Fld := ⟨.PWR_RESET_CAUSE, 7, 7, .w1c, .s⟩
def PWR_RESET_CAUSE.l4_fault : Fld := ⟨.PWR_RESET_CAUSE, 6, 6, .w1c, .s⟩
def PWR_RESET_CAUSE.mgmt_request : Fld := ⟨.PWR_RESET_CAUSE, 5, 5, .w1c, .s⟩
def PWR_RESET_CAUSE.fw_warm : Fld := ⟨.PWR_RESET_CAUSE, 4, 4, .w1c, .s⟩
def PWR_RESET_CAUSE.fw_cold : Fld := ⟨.PWR_RESET_CAUSE, 3, 3, .w1c, .s⟩
def PWR_RESET_CAUSE.ac_return : Fld := ⟨.PWR_RESET_CAUSE, 2, 2, .w1c, .s⟩
def PWR_RESET_CAUSE.supercap_lost : Fld := ⟨.PWR_RESET_CAUSE, 1, 1, .w1c, .s⟩
/-! TSV_RATE (spec/03, near R73) -/
def TSV_RATE.rate : Fld := ⟨.TSV_RATE, 31, 0, .rw, .s⟩
/-! TSV_STATE (spec/03, near R75) -/
def TSV_STATE.step_count : Fld := ⟨.TSV_STATE, 31, 24, .ro, .none⟩
def TSV_STATE.plaus_fault : Fld := ⟨.TSV_STATE, 17, 17, .w1c, .s⟩
def TSV_STATE.compare_fault : Fld := ⟨.TSV_STATE, 16, 16, .ro, .none⟩
def TSV_STATE.temp_excursion : Fld := ⟨.TSV_STATE, 15, 15, .ro, .none⟩
def TSV_STATE.synce_qualified : Fld := ⟨.TSV_STATE, 14, 14, .ro, .none⟩
def TSV_STATE.freq_in_qualified : Fld := ⟨.TSV_STATE, 13, 13, .ro, .none⟩
def TSV_STATE.pps_in_qualified : Fld := ⟨.TSV_STATE, 12, 12, .ro, .none⟩
def TSV_STATE.phase_src_active : Fld := ⟨.TSV_STATE, 11, 8, .ro, .none⟩
def TSV_STATE.freq_src_active : Fld := ⟨.TSV_STATE, 7, 4, .ro, .none⟩
def TSV_STATE.state : Fld := ⟨.TSV_STATE, 2, 0, .ro, .none⟩
/-! TSV_HOLD_MODEL (spec/03, near R79) -/
def TSV_HOLD_MODEL.max_rate_step : Fld := ⟨.TSV_HOLD_MODEL, 63, 40, .rw, .s⟩
def TSV_HOLD_MODEL.slew_ppm : Fld := ⟨.TSV_HOLD_MODEL, 39, 32, .rw, .s⟩
def TSV_HOLD_MODEL.beat_timeout : Fld := ⟨.TSV_HOLD_MODEL, 31, 28, .rw, .s⟩
def TSV_HOLD_MODEL.r : Fld := ⟨.TSV_HOLD_MODEL, 27, 16, .rw, .s⟩
def TSV_HOLD_MODEL.d : Fld := ⟨.TSV_HOLD_MODEL, 15, 0, .rw, .s⟩
/-! TSV_SERVO (spec/03, near R80) -/
def TSV_SERVO.claim : Fld := ⟨.TSV_SERVO, 63, 62, .rw, .s⟩
def TSV_SERVO.offset : Fld := ⟨.TSV_SERVO, 55, 32, .rw, .s⟩
def TSV_SERVO.u_servo : Fld := ⟨.TSV_SERVO, 31, 0, .rw, .s⟩
/-! TSV_ADJ (spec/03, near R82) -/
def TSV_ADJ.go : Fld := ⟨.TSV_ADJ, 63, 63, .wo, .s⟩
def TSV_ADJ.op : Fld := ⟨.TSV_ADJ, 62, 61, .rw, .s⟩
def TSV_ADJ.amount : Fld := ⟨.TSV_ADJ, 47, 0, .rw, .s⟩
/-! TSV_SET_SEC (spec/03, near R82) -/
def TSV_SET_SEC.set_unc : Fld := ⟨.TSV_SET_SEC, 63, 48, .rw, .s⟩
def TSV_SET_SEC.seconds : Fld := ⟨.TSV_SET_SEC, 47, 0, .rw, .s⟩
/-! TSV_REF_SEL (spec/03, near R85) -/
def TSV_REF_SEL.pps_in_comp : Fld := ⟨.TSV_REF_SEL, 31, 16, .rw, .s⟩
def TSV_REF_SEL.phase_src : Fld := ⟨.TSV_REF_SEL, 11, 8, .rw, .s⟩
def TSV_REF_SEL.freq_src : Fld := ⟨.TSV_REF_SEL, 7, 4, .rw, .s⟩
def TSV_REF_SEL.synce_port : Fld := ⟨.TSV_REF_SEL, 2, 0, .rw, .s⟩
/-! TSV_PORT_CAL (spec/03, near R87) -/
def TSV_PORT_CAL.tx_offset : Fld := ⟨.TSV_PORT_CAL, 63, 32, .rw, .s⟩
def TSV_PORT_CAL.rx_offset : Fld := ⟨.TSV_PORT_CAL, 31, 0, .rw, .s⟩
/-! TSV_PPS_CFG (spec/03, near R89) -/
def TSV_PPS_CFG.enable : Fld := ⟨.TSV_PPS_CFG, 63, 63, .rw, .s⟩
def TSV_PPS_CFG.force : Fld := ⟨.TSV_PPS_CFG, 62, 62, .rw, .s⟩
def TSV_PPS_CFG.squelch_limit : Fld := ⟨.TSV_PPS_CFG, 47, 32, .rw, .s⟩
def TSV_PPS_CFG.comp : Fld := ⟨.TSV_PPS_CFG, 31, 20, .rw, .s⟩
def TSV_PPS_CFG.width : Fld := ⟨.TSV_PPS_CFG, 19, 0, .rw, .a⟩
/-! TSV_SNAP_SEC (spec/03, near R95) -/
def TSV_SNAP_SEC.state : Fld := ⟨.TSV_SNAP_SEC, 50, 48, .ro, .none⟩
def TSV_SNAP_SEC.seconds : Fld := ⟨.TSV_SNAP_SEC, 47, 0, .ro, .none⟩
/-! TSV_SNAP_NS (spec/03, near R95) -/
def TSV_SNAP_NS.ns : Fld := ⟨.TSV_SNAP_NS, 63, 32, .ro, .none⟩
def TSV_SNAP_NS.frac : Fld := ⟨.TSV_SNAP_NS, 31, 16, .ro, .none⟩
def TSV_SNAP_NS.unc : Fld := ⟨.TSV_SNAP_NS, 15, 0, .ro, .none⟩
/-! TSV_SNAP_UNC (spec/03, near R95) -/
def TSV_SNAP_UNC.unc32 : Fld := ⟨.TSV_SNAP_UNC, 31, 0, .ro, .none⟩
/-! TSV_MIRROR (spec/03, near R83) -/
def TSV_MIRROR.data : Fld := ⟨.TSV_MIRROR, 63, 0, .rw, .s⟩
/-! TSV_ISLAND_RESET (spec/03, near R97) -/
def TSV_ISLAND_RESET.key : Fld := ⟨.TSV_ISLAND_RESET, 31, 16, .wo, .s⟩
def TSV_ISLAND_RESET.go : Fld := ⟨.TSV_ISLAND_RESET, 0, 0, .wo, .s⟩
/-! TSV_TPG_ADDR (spec/03, near R97) -/
def TSV_TPG_ADDR.addr : Fld := ⟨.TSV_TPG_ADDR, 63, 6, .rw, .d⟩
/-! TSV_TPG_MULT (spec/03, near R97) -/
def TSV_TPG_MULT.mult : Fld := ⟨.TSV_TPG_MULT, 63, 0, .rw, .d⟩
/-! TSV_TPG_OFFSET (spec/03, near R97) -/
def TSV_TPG_OFFSET.offset : Fld := ⟨.TSV_TPG_OFFSET, 63, 0, .rw, .d⟩
/-! TSV_TPG_CTL (spec/03, near R97) -/
def TSV_TPG_CTL.result : Fld := ⟨.TSV_TPG_CTL, 31, 24, .ro, .none⟩
def TSV_TPG_CTL.enable : Fld := ⟨.TSV_TPG_CTL, 0, 0, .rw, .s⟩
/-! FRM_CMD (spec/04, near R125) -/
def FRM_CMD.go : Fld := ⟨.FRM_CMD, 63, 63, .wo, .s⟩
def FRM_CMD.busy : Fld := ⟨.FRM_CMD, 62, 62, .ro, .none⟩
def FRM_CMD.op : Fld := ⟨.FRM_CMD, 61, 59, .rw, .s⟩
def FRM_CMD.number : Fld := ⟨.FRM_CMD, 58, 56, .ro, .none⟩
def FRM_CMD.result : Fld := ⟨.FRM_CMD, 55, 48, .ro, .none⟩
def FRM_CMD.addr : Fld := ⟨.FRM_CMD, 47, 6, .rw, .s⟩
/-! FRM_STATE (spec/04, near R125) -/
def FRM_STATE.lockup_seq : Fld := ⟨.FRM_STATE, 63, 32, .ro, .none⟩
def FRM_STATE.slot_state : Fld := ⟨.FRM_STATE, 31, 8, .ro, .none⟩
def FRM_STATE.current_valid : Fld := ⟨.FRM_STATE, 7, 7, .ro, .none⟩
def FRM_STATE.current : Fld := ⟨.FRM_STATE, 6, 4, .ro, .none⟩
def FRM_STATE.sweep_active : Fld := ⟨.FRM_STATE, 3, 3, .ro, .none⟩
def FRM_STATE.sweep_number : Fld := ⟨.FRM_STATE, 2, 0, .ro, .none⟩
/-! FRM_REF (spec/04, near R125) -/
def FRM_REF.packets : Fld := ⟨.FRM_REF, 31, 0, .ro, .none⟩
/-! FRM_TAGGED (spec/04, near R125) -/
def FRM_TAGGED.entries : Fld := ⟨.FRM_TAGGED, 31, 0, .ro, .none⟩
/-! FRM_SLOT_ID (spec/04, near R125) -/
def FRM_SLOT_ID.build_id : Fld := ⟨.FRM_SLOT_ID, 63, 0, .ro, .none⟩
/-! FRM_DROP (spec/04, near R125) -/
def FRM_DROP.count : Fld := ⟨.FRM_DROP, 31, 0, .ro, .none⟩
/-! PAR_EXC_CNT (spec/04, near R125) -/
def PAR_EXC_CNT.parse_deep : Fld := ⟨.PAR_EXC_CNT, 63, 32, .ro, .none⟩
def PAR_EXC_CNT.len_conflict : Fld := ⟨.PAR_EXC_CNT, 31, 0, .ro, .none⟩
/-! EML_HASH_SEED (spec/05, near R128) -/
def EML_HASH_SEED.overflow_seed : Fld := ⟨.EML_HASH_SEED, 63, 32, .rw, .d⟩
def EML_HASH_SEED.bucket_seed : Fld := ⟨.EML_HASH_SEED, 31, 0, .rw, .d⟩
/-! FLT_HASH_SEED (spec/05, near R128) -/
def FLT_HASH_SEED.overflow_seed : Fld := ⟨.FLT_HASH_SEED, 63, 32, .rw, .d⟩
def FLT_HASH_SEED.bucket_seed : Fld := ⟨.FLT_HASH_SEED, 31, 0, .rw, .d⟩
/-! X_CMD (spec/05, near R143) -/
def X_CMD.go : Fld := ⟨.X_CMD, 63, 63, .wo, .s⟩
def X_CMD.busy : Fld := ⟨.X_CMD, 62, 62, .ro, .none⟩
def X_CMD.op : Fld := ⟨.X_CMD, 61, 58, .rw, .s⟩
def X_CMD.expect : Fld := ⟨.X_CMD, 57, 56, .rw, .s⟩
def X_CMD.result : Fld := ⟨.X_CMD, 55, 48, .ro, .none⟩
def X_CMD.evict : Fld := ⟨.X_CMD, 47, 47, .rw, .s⟩
def X_CMD.forme : Fld := ⟨.X_CMD, 46, 44, .rw, .s⟩
def X_CMD.new_vis : Fld := ⟨.X_CMD, 43, 42, .rw, .s⟩
def X_CMD.new_vf : Fld := ⟨.X_CMD, 41, 39, .rw, .s⟩
def X_CMD.target : Fld := ⟨.X_CMD, 38, 38, .rw, .s⟩
def X_CMD.idle : Fld := ⟨.X_CMD, 25, 24, .ro, .none⟩
def X_CMD.position : Fld := ⟨.X_CMD, 23, 0, .rw, .s⟩
/-! X_CMD_DATA (spec/05, near R143) -/
def X_CMD_DATA.image : Fld := ⟨.X_CMD_DATA, 63, 0, .rw, .s⟩
/-! X_AGE_CFG (spec/05, near R149) -/
def X_AGE_CFG.mode : Fld := ⟨.X_AGE_CFG, 31, 30, .rw, .s⟩
def X_AGE_CFG.age_time : Fld := ⟨.X_AGE_CFG, 23, 0, .rw, .s⟩
/-! EML_LEARN_CFG (spec/05, near R155) -/
def EML_LEARN_CFG.mode : Fld := ⟨.EML_LEARN_CFG, 63, 62, .rw, .s⟩
def EML_LEARN_CFG.evict : Fld := ⟨.EML_LEARN_CFG, 61, 61, .rw, .s⟩
def EML_LEARN_CFG.evict_policy : Fld := ⟨.EML_LEARN_CFG, 60, 60, .rw, .s⟩
def EML_LEARN_CFG.profile : Fld := ⟨.EML_LEARN_CFG, 59, 54, .rw, .s⟩
def EML_LEARN_CFG.notify_hw : Fld := ⟨.EML_LEARN_CFG, 53, 53, .rw, .s⟩
def EML_LEARN_CFG.move_hold : Fld := ⟨.EML_LEARN_CFG, 20, 0, .rw, .s⟩
/-! EML_MEMBER_CFG (spec/05, near R155) -/
def EML_MEMBER_CFG.learn_en : Fld := ⟨.EML_MEMBER_CFG, 63, 63, .rw, .s⟩
def EML_MEMBER_CFG.excess_drop : Fld := ⟨.EML_MEMBER_CFG, 62, 62, .rw, .s⟩
def EML_MEMBER_CFG.count : Fld := ⟨.EML_MEMBER_CFG, 55, 37, .ro, .none⟩
def EML_MEMBER_CFG.action : Fld := ⟨.EML_MEMBER_CFG, 34, 19, .rw, .s⟩
def EML_MEMBER_CFG.limit : Fld := ⟨.EML_MEMBER_CFG, 18, 0, .rw, .s⟩
/-! FLT_LEARN_CFG (spec/05, near R157) -/
def FLT_LEARN_CFG.mode : Fld := ⟨.FLT_LEARN_CFG, 63, 62, .rw, .s⟩
def FLT_LEARN_CFG.evict : Fld := ⟨.FLT_LEARN_CFG, 61, 61, .rw, .s⟩
def FLT_LEARN_CFG.evict_policy : Fld := ⟨.FLT_LEARN_CFG, 60, 60, .rw, .s⟩
def FLT_LEARN_CFG.age_en : Fld := ⟨.FLT_LEARN_CFG, 59, 59, .rw, .s⟩
def FLT_LEARN_CFG.slice : Fld := ⟨.FLT_LEARN_CFG, 58, 45, .rw, .s⟩
def FLT_LEARN_CFG.limit : Fld := ⟨.FLT_LEARN_CFG, 44, 22, .rw, .s⟩
def FLT_LEARN_CFG.action : Fld := ⟨.FLT_LEARN_CFG, 15, 0, .rw, .s⟩
/-! FLT_LEARN_PROFILES (spec/05, near R157) -/
def FLT_LEARN_PROFILES.mask : Fld := ⟨.FLT_LEARN_PROFILES, 63, 0, .rw, .s⟩
/-! X_CNT (spec/05, near R157) -/
def X_CNT.count : Fld := ⟨.X_CNT, 63, 0, .ro, .none⟩
/-! FLT_PART (spec/05, near R159) -/
def FLT_PART.own : Fld := ⟨.FLT_PART, 3, 2, .ro, .none⟩
def FLT_PART.n_minus_1 : Fld := ⟨.FLT_PART, 1, 0, .ro, .none⟩
/-! TMG_EPOCH (spec/06, near R190) -/
def TMG_EPOCH.go : Fld := ⟨.TMG_EPOCH, 63, 63, .wo, .s⟩
def TMG_EPOCH.busy : Fld := ⟨.TMG_EPOCH, 62, 62, .ro, .none⟩
def TMG_EPOCH.result : Fld := ⟨.TMG_EPOCH, 61, 54, .ro, .none⟩
def TMG_EPOCH.bad_level : Fld := ⟨.TMG_EPOCH, 53, 51, .ro, .none⟩
def TMG_EPOCH.bad_index : Fld := ⟨.TMG_EPOCH, 50, 34, .ro, .none⟩
def TMG_EPOCH.epoch_seq : Fld := ⟨.TMG_EPOCH, 31, 0, .ro, .none⟩
/-! TMG_NODE_ADDR (spec/06, near R190) -/
def TMG_NODE_ADDR.view : Fld := ⟨.TMG_NODE_ADDR, 31, 31, .rw, .s⟩
def TMG_NODE_ADDR.level : Fld := ⟨.TMG_NODE_ADDR, 19, 17, .rw, .s⟩
def TMG_NODE_ADDR.index : Fld := ⟨.TMG_NODE_ADDR, 16, 0, .rw, .s⟩
/-! TMG_NODE_CFG (spec/06, near R190) -/
def TMG_NODE_CFG.word : Fld := ⟨.TMG_NODE_CFG, 63, 0, .rw, .a⟩
/-! TMG_NODE_STAT (spec/06, near R190) -/
def TMG_NODE_STAT.bytes : Fld := ⟨.TMG_NODE_STAT, 63, 28, .ro, .none⟩
def TMG_NODE_STAT.packets : Fld := ⟨.TMG_NODE_STAT, 27, 0, .ro, .none⟩
/-! TMG_AGE (spec/06, near R190) -/
def TMG_AGE.limit : Fld := ⟨.TMG_AGE, 16, 0, .rw, .s⟩
/-! TMG_BUF_CFG (spec/06, near R190) -/
def TMG_BUF_CFG.spill_en : Fld := ⟨.TMG_BUF_CFG, 31, 31, .rw, .s⟩
def TMG_BUF_CFG.spill_reserve : Fld := ⟨.TMG_BUF_CFG, 17, 0, .rw, .s⟩
/-! TMG_GATE (spec/06, near R190) -/
def TMG_GATE.closed_slices : Fld := ⟨.TMG_GATE, 31, 16, .ro, .none⟩
def TMG_GATE.module_closed : Fld := ⟨.TMG_GATE, 0, 0, .ro, .none⟩
/-! TMG_OUT_CFG (spec/06, near R190) -/
def TMG_OUT_CFG.len_adjust : Fld := ⟨.TMG_OUT_CFG, 7, 0, .rw, .s⟩
/-! TMG_POL_CMD (spec/06, near R191) -/
def TMG_POL_CMD.go : Fld := ⟨.TMG_POL_CMD, 31, 31, .wo, .s⟩
def TMG_POL_CMD.busy : Fld := ⟨.TMG_POL_CMD, 30, 30, .ro, .none⟩
def TMG_POL_CMD.op : Fld := ⟨.TMG_POL_CMD, 29, 28, .rw, .s⟩
def TMG_POL_CMD.result : Fld := ⟨.TMG_POL_CMD, 23, 16, .ro, .none⟩
def TMG_POL_CMD.index : Fld := ⟨.TMG_POL_CMD, 15, 0, .rw, .s⟩
/-! TMG_POL_CFG (spec/06, near R191) -/
def TMG_POL_CFG.rate : Fld := ⟨.TMG_POL_CFG, 63, 36, .rw, .a⟩
def TMG_POL_CFG.burst : Fld := ⟨.TMG_POL_CFG, 35, 12, .rw, .a⟩
def TMG_POL_CFG.mode : Fld := ⟨.TMG_POL_CFG, 11, 10, .rw, .a⟩
def TMG_POL_CFG.colour_aware : Fld := ⟨.TMG_POL_CFG, 9, 9, .rw, .a⟩
def TMG_POL_CFG.red_drop : Fld := ⟨.TMG_POL_CFG, 8, 8, .rw, .a⟩
/-! TMG_DROP (spec/06, near R191) -/
def TMG_DROP.count : Fld := ⟨.TMG_DROP, 63, 0, .ro, .none⟩
/-! MAC_CAGE_CFG (spec/07, near R197) -/
def MAC_CAGE_CFG.an_en : Fld := ⟨.MAC_CAGE_CFG, 7, 7, .rw, .d⟩
def MAC_CAGE_CFG.mode : Fld := ⟨.MAC_CAGE_CFG, 2, 0, .rw, .d⟩
/-! MAC_PORT_CFG (spec/07, near R202) -/
def MAC_PORT_CFG.enable : Fld := ⟨.MAC_PORT_CFG, 31, 31, .rw, .s⟩
def MAC_PORT_CFG.max_len : Fld := ⟨.MAC_PORT_CFG, 13, 0, .rw, .s⟩
/-! MAC_CNT (spec/07, near R204) -/
def MAC_CNT.count : Fld := ⟨.MAC_CNT, 63, 0, .ro, .none⟩
/-! MAC_PORT_STATUS (spec/07, near R204) -/
def MAC_PORT_STATUS.mode_active : Fld := ⟨.MAC_PORT_STATUS, 10, 8, .ro, .none⟩
def MAC_PORT_STATUS.lane_fault : Fld := ⟨.MAC_PORT_STATUS, 5, 5, .ro, .none⟩
def MAC_PORT_STATUS.lpi_rx : Fld := ⟨.MAC_PORT_STATUS, 4, 4, .ro, .none⟩
def MAC_PORT_STATUS.lpi_tx : Fld := ⟨.MAC_PORT_STATUS, 3, 3, .ro, .none⟩
def MAC_PORT_STATUS.fec_locked : Fld := ⟨.MAC_PORT_STATUS, 2, 2, .ro, .none⟩
def MAC_PORT_STATUS.pcs_aligned : Fld := ⟨.MAC_PORT_STATUS, 1, 1, .ro, .none⟩
def MAC_PORT_STATUS.link_up : Fld := ⟨.MAC_PORT_STATUS, 0, 0, .ro, .none⟩
/-! MAC_IMP_CFG (spec/07, near R212) -/
def MAC_IMP_CFG.enable : Fld := ⟨.MAC_IMP_CFG, 63, 63, .rw, .s⟩
def MAC_IMP_CFG.unknown_policy : Fld := ⟨.MAC_IMP_CFG, 62, 61, .rw, .s⟩
def MAC_IMP_CFG.lead : Fld := ⟨.MAC_IMP_CFG, 47, 32, .rw, .s⟩
def MAC_IMP_CFG.late_limit : Fld := ⟨.MAC_IMP_CFG, 31, 0, .rw, .s⟩
/-! MAC_IMP_BASE (spec/07, near R212) -/
def MAC_IMP_BASE.base : Fld := ⟨.MAC_IMP_BASE, 63, 0, .rw, .a⟩
/-! MAC_IMP_CYCLE (spec/07, near R212) -/
def MAC_IMP_CYCLE.count : Fld := ⟨.MAC_IMP_CYCLE, 42, 32, .rw, .a⟩
def MAC_IMP_CYCLE.cycle : Fld := ⟨.MAC_IMP_CYCLE, 31, 0, .rw, .a⟩
/-! MAC_IMP_CMD (spec/07, near R212) -/
def MAC_IMP_CMD.go : Fld := ⟨.MAC_IMP_CMD, 31, 31, .wo, .s⟩
def MAC_IMP_CMD.busy : Fld := ⟨.MAC_IMP_CMD, 30, 30, .ro, .none⟩
def MAC_IMP_CMD.pending : Fld := ⟨.MAC_IMP_CMD, 29, 29, .ro, .none⟩
def MAC_IMP_CMD.result : Fld := ⟨.MAC_IMP_CMD, 23, 16, .ro, .none⟩
def MAC_IMP_CMD.swaps : Fld := ⟨.MAC_IMP_CMD, 15, 0, .ro, .none⟩
/-! MAC_IMP_STATUS (spec/07, near R212) -/
def MAC_IMP_STATUS.gates : Fld := ⟨.MAC_IMP_STATUS, 63, 48, .ro, .none⟩
def MAC_IMP_STATUS.entry : Fld := ⟨.MAC_IMP_STATUS, 41, 32, .ro, .none⟩
def MAC_IMP_STATUS.cycles : Fld := ⟨.MAC_IMP_STATUS, 31, 0, .ro, .none⟩
/-! MAC_IMP_ENTRY (spec/07, near R212) -/
def MAC_IMP_ENTRY.gates : Fld := ⟨.MAC_IMP_ENTRY, 63, 48, .rw, .a⟩
def MAC_IMP_ENTRY.duration : Fld := ⟨.MAC_IMP_ENTRY, 31, 0, .rw, .a⟩
/-! MAC_LPI_CFG (spec/07, near R214) -/
def MAC_LPI_CFG.enable : Fld := ⟨.MAC_LPI_CFG, 31, 31, .rw, .s⟩
def MAC_LPI_CFG.tw_tx : Fld := ⟨.MAC_LPI_CFG, 23, 12, .rw, .s⟩
def MAC_LPI_CFG.idle_time : Fld := ⟨.MAC_LPI_CFG, 11, 0, .rw, .s⟩
/-! MAC_LANE_MAP (spec/07, near R216) -/
def MAC_LANE_MAP.spare_used : Fld := ⟨.MAC_LANE_MAP, 32, 32, .ro, .none⟩
def MAC_LANE_MAP.map : Fld := ⟨.MAC_LANE_MAP, 31, 0, .ro, .none⟩
/-! DRT_CFG (spec/08, near R262) -/
def DRT_CFG.enable : Fld := ⟨.DRT_CFG, 31, 31, .rw, .s⟩
def DRT_CFG.salt : Fld := ⟨.DRT_CFG, 30, 25, .rw, .s⟩
def DRT_CFG.paths_log2 : Fld := ⟨.DRT_CFG, 19, 16, .rw, .s⟩
def DRT_CFG.udp_port : Fld := ⟨.DRT_CFG, 15, 0, .rw, .d⟩
/-! DRT_TIMER (spec/08, near R262) -/
def DRT_TIMER.rto_min : Fld := ⟨.DRT_TIMER, 63, 52, .rw, .s⟩
def DRT_TIMER.rto_max : Fld := ⟨.DRT_TIMER, 51, 36, .rw, .s⟩
def DRT_TIMER.lifetime : Fld := ⟨.DRT_TIMER, 35, 29, .rw, .s⟩
def DRT_TIMER.max_age : Fld := ⟨.DRT_TIMER, 28, 15, .rw, .s⟩
def DRT_TIMER.nb_max : Fld := ⟨.DRT_TIMER, 14, 5, .rw, .s⟩
/-! DRT_CC_CFG (spec/08, near R262) -/
def DRT_CC_CFG.target : Fld := ⟨.DRT_CC_CFG, 63, 48, .rw, .s⟩
def DRT_CC_CFG.init_rate : Fld := ⟨.DRT_CC_CFG, 47, 36, .rw, .s⟩
def DRT_CC_CFG.ai : Fld := ⟨.DRT_CC_CFG, 35, 26, .rw, .s⟩
def DRT_CC_CFG.max_unc : Fld := ⟨.DRT_CC_CFG, 25, 10, .rw, .s⟩
/-! DRT_SEQ (spec/08, near R262) -/
def DRT_SEQ.incarnation : Fld := ⟨.DRT_SEQ, 63, 48, .ro, .none⟩
def DRT_SEQ.count : Fld := ⟨.DRT_SEQ, 47, 0, .ro, .none⟩
/-! DRT_CMD (spec/08, near R262) -/
def DRT_CMD.go : Fld := ⟨.DRT_CMD, 63, 63, .wo, .s⟩
def DRT_CMD.busy : Fld := ⟨.DRT_CMD, 62, 62, .ro, .none⟩
def DRT_CMD.op : Fld := ⟨.DRT_CMD, 61, 58, .rw, .s⟩
def DRT_CMD.result : Fld := ⟨.DRT_CMD, 57, 50, .ro, .none⟩
def DRT_CMD.handle : Fld := ⟨.DRT_CMD, 31, 0, .rw, .s⟩
/-! DRT_CMD_DATA (spec/08, near R262) -/
def DRT_CMD_DATA.data : Fld := ⟨.DRT_CMD_DATA, 63, 0, .rw, .s⟩
/-! DRT_STATUS (spec/08, near R262) -/
def DRT_STATUS.out_used : Fld := ⟨.DRT_STATUS, 63, 47, .ro, .none⟩
def DRT_STATUS.in_used : Fld := ⟨.DRT_STATUS, 46, 30, .ro, .none⟩
def DRT_STATUS.tombstones : Fld := ⟨.DRT_STATUS, 29, 7, .ro, .none⟩
def DRT_STATUS.settling : Fld := ⟨.DRT_STATUS, 6, 6, .ro, .none⟩
/-! DRT_CNT (spec/08, near R262) -/
def DRT_CNT.count : Fld := ⟨.DRT_CNT, 63, 0, .ro, .none⟩
/-! CPH_KEY_CMD (spec/09, near R286) -/
def CPH_KEY_CMD.go : Fld := ⟨.CPH_KEY_CMD, 63, 63, .wo, .s⟩
def CPH_KEY_CMD.busy : Fld := ⟨.CPH_KEY_CMD, 62, 62, .ro, .none⟩
def CPH_KEY_CMD.op : Fld := ⟨.CPH_KEY_CMD, 61, 59, .rw, .s⟩
def CPH_KEY_CMD.result : Fld := ⟨.CPH_KEY_CMD, 58, 51, .ro, .none⟩
def CPH_KEY_CMD.slot : Fld := ⟨.CPH_KEY_CMD, 47, 32, .rw, .s⟩
def CPH_KEY_CMD.kek_slot : Fld := ⟨.CPH_KEY_CMD, 31, 16, .rw, .s⟩
/-! CPH_KEY_ATTR (spec/09, near R286) -/
def CPH_KEY_ATTR.len256 : Fld := ⟨.CPH_KEY_ATTR, 63, 63, .rw, .s⟩
def CPH_KEY_ATTR.enc : Fld := ⟨.CPH_KEY_ATTR, 62, 62, .rw, .s⟩
def CPH_KEY_ATTR.dec : Fld := ⟨.CPH_KEY_ATTR, 61, 61, .rw, .s⟩
def CPH_KEY_ATTR.derive : Fld := ⟨.CPH_KEY_ATTR, 60, 60, .rw, .s⟩
def CPH_KEY_ATTR.unwrap : Fld := ⟨.CPH_KEY_ATTR, 59, 59, .rw, .s⟩
def CPH_KEY_ATTR.has_slice : Fld := ⟨.CPH_KEY_ATTR, 58, 58, .rw, .s⟩
def CPH_KEY_ATTR.slice : Fld := ⟨.CPH_KEY_ATTR, 57, 44, .rw, .s⟩
def CPH_KEY_ATTR.limit : Fld := ⟨.CPH_KEY_ATTR, 40, 0, .rw, .s⟩
/-! CPH_KEY_USAGE (spec/09, near R286) -/
def CPH_KEY_USAGE.exhausted : Fld := ⟨.CPH_KEY_USAGE, 63, 63, .ro, .none⟩
def CPH_KEY_USAGE.rollover_posted : Fld := ⟨.CPH_KEY_USAGE, 62, 62, .ro, .none⟩
def CPH_KEY_USAGE.valid : Fld := ⟨.CPH_KEY_USAGE, 61, 61, .ro, .none⟩
def CPH_KEY_USAGE.counter : Fld := ⟨.CPH_KEY_USAGE, 40, 0, .ro, .none⟩
/-! CPH_KEY_DATA (spec/09, near R286) -/
def CPH_KEY_DATA.data : Fld := ⟨.CPH_KEY_DATA, 63, 0, .wo, .s⟩
/-! CPH_DRT_CORES (spec/09, near R286) -/
def CPH_DRT_CORES.cores : Fld := ⟨.CPH_DRT_CORES, 63, 0, .rw, .s⟩
/-! CPH_STATUS (spec/09, near R286) -/
def CPH_STATUS.units_active : Fld := ⟨.CPH_STATUS, 63, 59, .ro, .none⟩
def CPH_STATUS.spares_used : Fld := ⟨.CPH_STATUS, 58, 57, .ro, .none⟩
def CPH_STATUS.entropy_ok : Fld := ⟨.CPH_STATUS, 56, 56, .ro, .none⟩
def CPH_STATUS.drbg_ok : Fld := ⟨.CPH_STATUS, 55, 55, .ro, .none⟩
def CPH_STATUS.queued : Fld := ⟨.CPH_STATUS, 44, 32, .ro, .none⟩
def CPH_STATUS.suspended : Fld := ⟨.CPH_STATUS, 31, 20, .ro, .none⟩
/-! CPH_RNG (spec/09, near R286) -/
def CPH_RNG.valid : Fld := ⟨.CPH_RNG, 63, 63, .rc, .none⟩
def CPH_RNG.value : Fld := ⟨.CPH_RNG, 62, 0, .rc, .none⟩
/-! CPH_CNT (spec/09, near R286) -/
def CPH_CNT.count : Fld := ⟨.CPH_CNT, 63, 0, .ro, .none⟩
/-! HIF_LINK_CFG (spec/10, near R311) -/
def HIF_LINK_CFG.sris : Fld := ⟨.HIF_LINK_CFG, 7, 7, .rw, .a⟩
def HIF_LINK_CFG.bifurcate : Fld := ⟨.HIF_LINK_CFG, 6, 6, .rw, .a⟩
def HIF_LINK_CFG.max_speed : Fld := ⟨.HIF_LINK_CFG, 5, 3, .rw, .a⟩
/-! HIF_PM_CFG (spec/10, near R311) -/
def HIF_PM_CFG.l1_idle : Fld := ⟨.HIF_PM_CFG, 63, 48, .rw, .s⟩
def HIF_PM_CFG.ltr_us : Fld := ⟨.HIF_PM_CFG, 47, 32, .rw, .s⟩
def HIF_PM_CFG.l0p_down : Fld := ⟨.HIF_PM_CFG, 31, 24, .rw, .s⟩
def HIF_PM_CFG.l0p_up : Fld := ⟨.HIF_PM_CFG, 23, 16, .rw, .s⟩
def HIF_PM_CFG.l0p_window : Fld := ⟨.HIF_PM_CFG, 15, 0, .rw, .s⟩
/-! HIF_LINK_STATUS (spec/10, near R311) -/
def HIF_LINK_STATUS.dl_up : Fld := ⟨.HIF_LINK_STATUS, 31, 31, .ro, .none⟩
def HIF_LINK_STATUS.speed : Fld := ⟨.HIF_LINK_STATUS, 30, 28, .ro, .none⟩
def HIF_LINK_STATUS.width : Fld := ⟨.HIF_LINK_STATUS, 27, 23, .ro, .none⟩
def HIF_LINK_STATUS.flit : Fld := ⟨.HIF_LINK_STATUS, 22, 22, .ro, .none⟩
def HIF_LINK_STATUS.pm : Fld := ⟨.HIF_LINK_STATUS, 21, 20, .ro, .none⟩
def HIF_LINK_STATUS.h_reset : Fld := ⟨.HIF_LINK_STATUS, 19, 19, .ro, .none⟩
def HIF_LINK_STATUS.cfg_clipped : Fld := ⟨.HIF_LINK_STATUS, 18, 18, .ro, .none⟩
def HIF_LINK_STATUS.retry : Fld := ⟨.HIF_LINK_STATUS, 17, 17, .ro, .none⟩
/-! HIF_FUNC_CFG (spec/10, near R311) -/
def HIF_FUNC_CFG.present : Fld := ⟨.HIF_FUNC_CFG, 63, 63, .rw, .a⟩
def HIF_FUNC_CFG.personality : Fld := ⟨.HIF_FUNC_CFG, 62, 60, .rw, .a⟩
def HIF_FUNC_CFG.vf_personality : Fld := ⟨.HIF_FUNC_CFG, 59, 57, .rw, .a⟩
def HIF_FUNC_CFG.total_vfs : Fld := ⟨.HIF_FUNC_CFG, 56, 47, .rw, .a⟩
def HIF_FUNC_CFG.slice_pages_log2 : Fld := ⟨.HIF_FUNC_CFG, 46, 43, .rw, .a⟩
def HIF_FUNC_CFG.msix_log2 : Fld := ⟨.HIF_FUNC_CFG, 42, 39, .rw, .a⟩
def HIF_FUNC_CFG.vf_msix_log2 : Fld := ⟨.HIF_FUNC_CFG, 38, 35, .rw, .a⟩
/-! HIF_CNT (spec/10, near R311) -/
def HIF_CNT.count : Fld := ⟨.HIF_CNT, 63, 0, .ro, .none⟩
/-! DQM_RING_SEL (spec/11, near R337) -/
def DQM_RING_SEL.cls : Fld := ⟨.DQM_RING_SEL, 31, 30, .rw, .s⟩
def DQM_RING_SEL.number : Fld := ⟨.DQM_RING_SEL, 15, 0, .rw, .s⟩
/-! DQM_RING_CTX (spec/11, near R337) -/
def DQM_RING_CTX.word : Fld := ⟨.DQM_RING_CTX, 63, 0, .rw, .s⟩
/-! DQM_RING_IDX (spec/11, near R337) -/
def DQM_RING_IDX.module_index : Fld := ⟨.DQM_RING_IDX, 63, 32, .ro, .none⟩
def DQM_RING_IDX.host_index : Fld := ⟨.DQM_RING_IDX, 31, 0, .ro, .none⟩
/-! DQM_RING_CMD (spec/11, near R337) -/
def DQM_RING_CMD.go : Fld := ⟨.DQM_RING_CMD, 63, 63, .wo, .s⟩
def DQM_RING_CMD.busy : Fld := ⟨.DQM_RING_CMD, 62, 62, .ro, .none⟩
def DQM_RING_CMD.op : Fld := ⟨.DQM_RING_CMD, 61, 59, .rw, .s⟩
def DQM_RING_CMD.result : Fld := ⟨.DQM_RING_CMD, 58, 51, .ro, .none⟩
def DQM_RING_CMD.state : Fld := ⟨.DQM_RING_CMD, 50, 48, .ro, .none⟩
def DQM_RING_CMD.stop_status : Fld := ⟨.DQM_RING_CMD, 47, 40, .ro, .none⟩
def DQM_RING_CMD.doorbell : Fld := ⟨.DQM_RING_CMD, 31, 24, .ro, .none⟩
def DQM_RING_CMD.number : Fld := ⟨.DQM_RING_CMD, 15, 0, .ro, .none⟩
/-! DQM_CNT (spec/11, near R337) -/
def DQM_CNT.count : Fld := ⟨.DQM_CNT, 63, 0, .ro, .none⟩
/-! SLC_CMD (spec/12, near R363) -/
def SLC_CMD.go : Fld := ⟨.SLC_CMD, 63, 63, .wo, .s⟩
def SLC_CMD.busy : Fld := ⟨.SLC_CMD, 62, 62, .ro, .none⟩
def SLC_CMD.op : Fld := ⟨.SLC_CMD, 61, 58, .rw, .s⟩
def SLC_CMD.result : Fld := ⟨.SLC_CMD, 57, 50, .ro, .none⟩
def SLC_CMD.slice : Fld := ⟨.SLC_CMD, 13, 0, .rw, .s⟩
/-! SLC_CMD_DATA (spec/12, near R363) -/
def SLC_CMD_DATA.data : Fld := ⟨.SLC_CMD_DATA, 63, 0, .rw, .s⟩
/-! SLC_DONE (spec/12, near R363) -/
def SLC_DONE.valid : Fld := ⟨.SLC_DONE, 31, 31, .rc, .none⟩
def SLC_DONE.destroy : Fld := ⟨.SLC_DONE, 30, 30, .rc, .none⟩
def SLC_DONE.result : Fld := ⟨.SLC_DONE, 29, 22, .rc, .none⟩
def SLC_DONE.slice : Fld := ⟨.SLC_DONE, 13, 0, .rc, .none⟩
/-! SLC_POOL (spec/12, near R363) -/
def SLC_POOL.free : Fld := ⟨.SLC_POOL, 31, 0, .ro, .none⟩
/-! ACT_SEL (spec/12, near R363) -/
def ACT_SEL.target : Fld := ⟨.ACT_SEL, 13, 8, .rw, .s⟩
def ACT_SEL.rule : Fld := ⟨.ACT_SEL, 4, 0, .rw, .s⟩
/-! ACT_RULE (spec/12, near R363) -/
def ACT_RULE.word : Fld := ⟨.ACT_RULE, 63, 0, .rw, .a⟩
/-! ACT_CMD (spec/12, near R363) -/
def ACT_CMD.go : Fld := ⟨.ACT_CMD, 31, 31, .wo, .s⟩
def ACT_CMD.busy : Fld := ⟨.ACT_CMD, 30, 30, .ro, .none⟩
def ACT_CMD.op : Fld := ⟨.ACT_CMD, 29, 28, .rw, .s⟩
def ACT_CMD.result : Fld := ⟨.ACT_CMD, 23, 16, .ro, .none⟩
/-! ACT_SEAL (spec/12, near R363) -/
def ACT_SEAL.sealed : Fld := ⟨.ACT_SEAL, 35, 0, .w1s, .s⟩
/-! ACT_LOG (spec/12, near R363) -/
def ACT_LOG.word : Fld := ⟨.ACT_LOG, 63, 0, .ro, .none⟩
/-! ACT_LOG_POP (spec/12, near R363) -/
def ACT_LOG_POP.pop : Fld := ⟨.ACT_LOG_POP, 0, 0, .wo, .s⟩
/-! ACT_CNT (spec/12, near R363) -/
def ACT_CNT.count : Fld := ⟨.ACT_CNT, 63, 0, .ro, .none⟩
/-! NVE_CTRL_CFG (spec/13, near R389) -/
def NVE_CTRL_CFG.fw_en : Fld := ⟨.NVE_CTRL_CFG, 63, 63, .rw, .a⟩
def NVE_CTRL_CFG.max_ioq : Fld := ⟨.NVE_CTRL_CFG, 51, 41, .rw, .a⟩
def NVE_CTRL_CFG.active : Fld := ⟨.NVE_CTRL_CFG, 31, 31, .ro, .none⟩
def NVE_CTRL_CFG.link : Fld := ⟨.NVE_CTRL_CFG, 30, 30, .ro, .none⟩
def NVE_CTRL_CFG.pf : Fld := ⟨.NVE_CTRL_CFG, 29, 28, .ro, .none⟩
def NVE_CTRL_CFG.is_vf : Fld := ⟨.NVE_CTRL_CFG, 27, 27, .ro, .none⟩
def NVE_CTRL_CFG.vf : Fld := ⟨.NVE_CTRL_CFG, 26, 18, .ro, .none⟩
/-! NVE_NS_CMD (spec/13, near R389) -/
def NVE_NS_CMD.go : Fld := ⟨.NVE_NS_CMD, 63, 63, .wo, .s⟩
def NVE_NS_CMD.busy : Fld := ⟨.NVE_NS_CMD, 62, 62, .ro, .none⟩
def NVE_NS_CMD.op : Fld := ⟨.NVE_NS_CMD, 61, 58, .rw, .s⟩
def NVE_NS_CMD.result : Fld := ⟨.NVE_NS_CMD, 57, 50, .ro, .none⟩
def NVE_NS_CMD.controller : Fld := ⟨.NVE_NS_CMD, 49, 40, .rw, .s⟩
def NVE_NS_CMD.nsid : Fld := ⟨.NVE_NS_CMD, 39, 32, .rw, .s⟩
def NVE_NS_CMD.ns : Fld := ⟨.NVE_NS_CMD, 12, 0, .rw, .s⟩
/-! NVE_NS_DATA (spec/13, near R390) -/
def NVE_NS_DATA.word : Fld := ⟨.NVE_NS_DATA, 63, 0, .rw, .s⟩
/-! NVE_NS_STATUS (spec/13, near R390) -/
def NVE_NS_STATUS.state : Fld := ⟨.NVE_NS_STATUS, 63, 62, .ro, .none⟩
def NVE_NS_STATUS.fault : Fld := ⟨.NVE_NS_STATUS, 61, 54, .ro, .none⟩
def NVE_NS_STATUS.buffered : Fld := ⟨.NVE_NS_STATUS, 31, 0, .ro, .none⟩
/-! NVE_BUF_STATUS (spec/13, near R390) -/
def NVE_BUF_STATUS.used_mib : Fld := ⟨.NVE_BUF_STATUS, 63, 40, .ro, .none⟩
def NVE_BUF_STATUS.destage_inflight : Fld := ⟨.NVE_BUF_STATUS, 39, 16, .ro, .none⟩
def NVE_BUF_STATUS.faulted : Fld := ⟨.NVE_BUF_STATUS, 15, 0, .ro, .none⟩
/-! NVE_CNT (spec/13, near R390) -/
def NVE_CNT.count : Fld := ⟨.NVE_CNT, 63, 0, .ro, .none⟩
/-! FCX_LOAD (spec/14, near R423) -/
def FCX_LOAD.go : Fld := ⟨.FCX_LOAD, 63, 63, .wo, .s⟩
def FCX_LOAD.busy : Fld := ⟨.FCX_LOAD, 62, 62, .ro, .none⟩
def FCX_LOAD.op : Fld := ⟨.FCX_LOAD, 61, 60, .rw, .s⟩
def FCX_LOAD.result : Fld := ⟨.FCX_LOAD, 59, 52, .ro, .none⟩
def FCX_LOAD.first : Fld := ⟨.FCX_LOAD, 51, 45, .rw, .s⟩
def FCX_LOAD.last : Fld := ⟨.FCX_LOAD, 44, 38, .rw, .s⟩
def FCX_LOAD.addr : Fld := ⟨.FCX_LOAD, 37, 6, .rw, .s⟩
/-! FCX_STATUS (spec/14, near R423) -/
def FCX_STATUS.cores_active : Fld := ⟨.FCX_STATUS, 63, 56, .ro, .none⟩
def FCX_STATUS.spares_used : Fld := ⟨.FCX_STATUS, 55, 52, .ro, .none⟩
def FCX_STATUS.handles : Fld := ⟨.FCX_STATUS, 31, 0, .ro, .none⟩
/-! FCX_SYS_CORES (spec/14, near R423) -/
def FCX_SYS_CORES.cores : Fld := ⟨.FCX_SYS_CORES, 63, 0, .rw, .s⟩
/-! FCX_DBG_CMD (spec/14, near R423) -/
def FCX_DBG_CMD.go : Fld := ⟨.FCX_DBG_CMD, 63, 63, .wo, .s⟩
def FCX_DBG_CMD.busy : Fld := ⟨.FCX_DBG_CMD, 62, 62, .ro, .none⟩
def FCX_DBG_CMD.op : Fld := ⟨.FCX_DBG_CMD, 61, 59, .rw, .s⟩
def FCX_DBG_CMD.result : Fld := ⟨.FCX_DBG_CMD, 58, 51, .ro, .none⟩
def FCX_DBG_CMD.core : Fld := ⟨.FCX_DBG_CMD, 50, 44, .rw, .s⟩
def FCX_DBG_CMD.thread : Fld := ⟨.FCX_DBG_CMD, 43, 41, .rw, .s⟩
def FCX_DBG_CMD.index : Fld := ⟨.FCX_DBG_CMD, 31, 0, .rw, .s⟩
/-! FCX_DBG_DATA (spec/14, near R423) -/
def FCX_DBG_DATA.data : Fld := ⟨.FCX_DBG_DATA, 63, 0, .rw, .s⟩
/-! FCX_GDL (spec/14, near R423) -/
def FCX_GDL.valid : Fld := ⟨.FCX_GDL, 63, 63, .rc, .none⟩
def FCX_GDL.length : Fld := ⟨.FCX_GDL, 62, 56, .rc, .none⟩
def FCX_GDL.core_a : Fld := ⟨.FCX_GDL, 55, 49, .rc, .none⟩
def FCX_GDL.core_b : Fld := ⟨.FCX_GDL, 48, 42, .rc, .none⟩
def FCX_GDL.core_c : Fld := ⟨.FCX_GDL, 41, 35, .rc, .none⟩
def FCX_GDL.core_d : Fld := ⟨.FCX_GDL, 34, 28, .rc, .none⟩
/-! FCX_CNT (spec/14, near R423) -/
def FCX_CNT.count : Fld := ⟨.FCX_CNT, 63, 0, .ro, .none⟩
/-! FCX_CORE_STATUS (spec/14, near R423) -/
def FCX_CORE_STATUS.state : Fld := ⟨.FCX_CORE_STATUS, 63, 61, .ro, .none⟩
def FCX_CORE_STATUS.exact : Fld := ⟨.FCX_CORE_STATUS, 60, 60, .ro, .none⟩
def FCX_CORE_STATUS.deadlock : Fld := ⟨.FCX_CORE_STATUS, 59, 59, .ro, .none⟩
def FCX_CORE_STATUS.faulted : Fld := ⟨.FCX_CORE_STATUS, 55, 48, .ro, .none⟩
def FCX_CORE_STATUS.blocked : Fld := ⟨.FCX_CORE_STATUS, 47, 40, .ro, .none⟩
def FCX_CORE_STATUS.stopped : Fld := ⟨.FCX_CORE_STATUS, 39, 32, .ro, .none⟩
def FCX_CORE_STATUS.build : Fld := ⟨.FCX_CORE_STATUS, 31, 0, .ro, .none⟩
/-! FCX_MAP (spec/14, near R423) -/
def FCX_MAP.absent : Fld := ⟨.FCX_MAP, 31, 31, .ro, .none⟩
def FCX_MAP.physical : Fld := ⟨.FCX_MAP, 7, 0, .ro, .none⟩
/-! FCX_THREAD (spec/14, near R423) -/
def FCX_THREAD.slice : Fld := ⟨.FCX_THREAD, 63, 50, .rw, .s⟩
def FCX_THREAD.slice_en : Fld := ⟨.FCX_THREAD, 49, 49, .rw, .s⟩
def FCX_THREAD.state : Fld := ⟨.FCX_THREAD, 48, 46, .ro, .none⟩
def FCX_THREAD.cause : Fld := ⟨.FCX_THREAD, 45, 42, .ro, .none⟩
def FCX_THREAD.fault_addr : Fld := ⟨.FCX_THREAD, 31, 0, .ro, .none⟩
/-! PRF_LATCH (spec/15, near R453) -/
def PRF_LATCH.fault : Fld := ⟨.PRF_LATCH, 44, 0, .w1c, .s⟩
/-! PRF_CORR_LATCH (spec/15, near R453) -/
def PRF_CORR_LATCH.corrected : Fld := ⟨.PRF_CORR_LATCH, 44, 0, .w1c, .s⟩
/-! PRF_STATUS (spec/15, near R453) -/
def PRF_STATUS.sl_running : Fld := ⟨.PRF_STATUS, 63, 63, .ro, .none⟩
def PRF_STATUS.sl_stop : Fld := ⟨.PRF_STATUS, 62, 60, .ro, .none⟩
def PRF_STATUS.contained : Fld := ⟨.PRF_STATUS, 45, 32, .ro, .none⟩
def PRF_STATUS.module : Fld := ⟨.PRF_STATUS, 0, 0, .ro, .none⟩
/-! PRF_SLICE_LIFT (spec/15, near R453) -/
def PRF_SLICE_LIFT.go : Fld := ⟨.PRF_SLICE_LIFT, 31, 31, .wo, .s⟩
def PRF_SLICE_LIFT.result : Fld := ⟨.PRF_SLICE_LIFT, 30, 23, .ro, .none⟩
def PRF_SLICE_LIFT.slice : Fld := ⟨.PRF_SLICE_LIFT, 13, 0, .rw, .s⟩
/-! PRF_SL_CFG (spec/15, near R453) -/
def PRF_SL_CFG.enable : Fld := ⟨.PRF_SL_CFG, 31, 31, .rwl, .s⟩
def PRF_SL_CFG.feed_timeout : Fld := ⟨.PRF_SL_CFG, 9, 0, .rwl, .s⟩
/-! PRF_SL_FEED (spec/15, near R453) -/
def PRF_SL_FEED.value : Fld := ⟨.PRF_SL_FEED, 7, 0, .wo, .s⟩
/-! PRF_LAST_FAULT (spec/15, near R453) -/
def PRF_LAST_FAULT.source : Fld := ⟨.PRF_LAST_FAULT, 63, 58, .ro, .none⟩
def PRF_LAST_FAULT.level : Fld := ⟨.PRF_LAST_FAULT, 57, 55, .ro, .none⟩
def PRF_LAST_FAULT.cls : Fld := ⟨.PRF_LAST_FAULT, 54, 53, .ro, .none⟩
def PRF_LAST_FAULT.cause : Fld := ⟨.PRF_LAST_FAULT, 52, 37, .ro, .none⟩
def PRF_LAST_FAULT.time : Fld := ⟨.PRF_LAST_FAULT, 31, 0, .ro, .none⟩
/-! PRF_LEVEL (spec/15, near R453) -/
def PRF_LEVEL.l4_cold : Fld := ⟨.PRF_LEVEL, 15, 15, .rwl, .s⟩
def PRF_LEVEL.lvl_m : Fld := ⟨.PRF_LEVEL, 14, 12, .rwl, .s⟩
def PRF_LEVEL.lvl_s : Fld := ⟨.PRF_LEVEL, 10, 8, .rwl, .s⟩
def PRF_LEVEL.lvl_a : Fld := ⟨.PRF_LEVEL, 6, 4, .rwl, .s⟩
/-! PRF_REC (spec/15, near R453) -/
def PRF_REC.valid : Fld := ⟨.PRF_REC, 63, 63, .ro, .none⟩
def PRF_REC.level : Fld := ⟨.PRF_REC, 62, 60, .ro, .none⟩
def PRF_REC.cls : Fld := ⟨.PRF_REC, 59, 58, .ro, .none⟩
def PRF_REC.escalated : Fld := ⟨.PRF_REC, 57, 57, .ro, .none⟩
def PRF_REC.slice_valid : Fld := ⟨.PRF_REC, 56, 56, .ro, .none⟩
def PRF_REC.slice : Fld := ⟨.PRF_REC, 55, 42, .ro, .none⟩
def PRF_REC.count : Fld := ⟨.PRF_REC, 41, 32, .ro, .none⟩
def PRF_REC.cause : Fld := ⟨.PRF_REC, 31, 16, .ro, .none⟩
def PRF_REC.detail : Fld := ⟨.PRF_REC, 15, 0, .ro, .none⟩
/-! RTH_STATUS (spec/15, near R453) -/
def RTH_STATUS.selftest_done : Fld := ⟨.RTH_STATUS, 63, 63, .ro, .none⟩
def RTH_STATUS.fatal : Fld := ⟨.RTH_STATUS, 62, 62, .ro, .none⟩
def RTH_STATUS.degraded : Fld := ⟨.RTH_STATUS, 61, 61, .ro, .none⟩
def RTH_STATUS.log_full : Fld := ⟨.RTH_STATUS, 60, 60, .ro, .none⟩
def RTH_STATUS.fc_spares : Fld := ⟨.RTH_STATUS, 47, 44, .ro, .none⟩
def RTH_STATUS.apx_spares : Fld := ⟨.RTH_STATUS, 43, 42, .ro, .none⟩
def RTH_STATUS.cph_spares : Fld := ⟨.RTH_STATUS, 41, 40, .ro, .none⟩
def RTH_STATUS.serdes_spares : Fld := ⟨.RTH_STATUS, 39, 38, .ro, .none⟩
def RTH_STATUS.pending : Fld := ⟨.RTH_STATUS, 11, 0, .ro, .none⟩
/-! RTH_DEGRADE (spec/15, near R453) -/
def RTH_DEGRADE.pipelines_out : Fld := ⟨.RTH_DEGRADE, 63, 60, .ro, .none⟩
def RTH_DEGRADE.apx_active : Fld := ⟨.RTH_DEGRADE, 59, 54, .ro, .none⟩
def RTH_DEGRADE.fenced : Fld := ⟨.RTH_DEGRADE, 47, 32, .ro, .none⟩
def RTH_DEGRADE.hbm_retired : Fld := ⟨.RTH_DEGRADE, 31, 16, .ro, .none⟩
/-! RTH_ROW_CFG (spec/15, near R453) -/
def RTH_ROW_CFG.threshold : Fld := ⟨.RTH_ROW_CFG, 31, 24, .rw, .s⟩
def RTH_ROW_CFG.window : Fld := ⟨.RTH_ROW_CFG, 13, 0, .rw, .s⟩
/-! RTH_LOG_CMD (spec/15, near R453) -/
def RTH_LOG_CMD.go : Fld := ⟨.RTH_LOG_CMD, 31, 31, .wo, .s⟩
def RTH_LOG_CMD.busy : Fld := ⟨.RTH_LOG_CMD, 30, 30, .ro, .none⟩
def RTH_LOG_CMD.result : Fld := ⟨.RTH_LOG_CMD, 29, 22, .ro, .none⟩
def RTH_LOG_CMD.index : Fld := ⟨.RTH_LOG_CMD, 11, 0, .rw, .s⟩
/-! RTH_LOG_DATA (spec/15, near R453) -/
def RTH_LOG_DATA.data : Fld := ⟨.RTH_LOG_DATA, 63, 0, .ro, .none⟩
/-! BOOT_STATUS (spec/16, near R484) -/
def BOOT_STATUS.store : Fld := ⟨.BOOT_STATUS, 63, 61, .ro, .none⟩
def BOOT_STATUS.path : Fld := ⟨.BOOT_STATUS, 60, 58, .ro, .none⟩
def BOOT_STATUS.wdog : Fld := ⟨.BOOT_STATUS, 57, 57, .ro, .none⟩
def BOOT_STATUS.rollback : Fld := ⟨.BOOT_STATUS, 56, 56, .ro, .none⟩
def BOOT_STATUS.fail_a : Fld := ⟨.BOOT_STATUS, 43, 40, .ro, .none⟩
def BOOT_STATUS.fail_b : Fld := ⟨.BOOT_STATUS, 35, 32, .ro, .none⟩
def BOOT_STATUS.fail_g : Fld := ⟨.BOOT_STATUS, 27, 24, .ro, .none⟩
/-! BOOT_VERSION (spec/16, near R484) -/
def BOOT_VERSION.version : Fld := ⟨.BOOT_VERSION, 31, 0, .ro, .none⟩
/-! BOOT_FUSE (spec/16, near R484) -/
def BOOT_FUSE.order_lock : Fld := ⟨.BOOT_FUSE, 63, 63, .ro, .none⟩
def BOOT_FUSE.order : Fld := ⟨.BOOT_FUSE, 62, 60, .ro, .none⟩
def BOOT_FUSE.rollback : Fld := ⟨.BOOT_FUSE, 53, 48, .ro, .none⟩
def BOOT_FUSE.key_revoked : Fld := ⟨.BOOT_FUSE, 47, 40, .ro, .none⟩
def BOOT_FUSE.key_present : Fld := ⟨.BOOT_FUSE, 39, 32, .ro, .none⟩
/-! BOOT_PERSIST (spec/16, near R484) -/
def BOOT_PERSIST.owner_enrolled : Fld := ⟨.BOOT_PERSIST, 31, 31, .ro, .none⟩
def BOOT_PERSIST.owner_lock : Fld := ⟨.BOOT_PERSIST, 30, 30, .ro, .none⟩
def BOOT_PERSIST.dr_count : Fld := ⟨.BOOT_PERSIST, 23, 16, .ro, .none⟩
def BOOT_PERSIST.preferred : Fld := ⟨.BOOT_PERSIST, 15, 15, .ro, .none⟩
def BOOT_PERSIST.tries_g : Fld := ⟨.BOOT_PERSIST, 11, 8, .ro, .none⟩
def BOOT_PERSIST.tries_b : Fld := ⟨.BOOT_PERSIST, 7, 4, .ro, .none⟩
def BOOT_PERSIST.tries_a : Fld := ⟨.BOOT_PERSIST, 3, 0, .ro, .none⟩
/-! BOOT_CTL (spec/16, near R484) -/
def BOOT_CTL.done : Fld := ⟨.BOOT_CTL, 31, 31, .wo, .s⟩
def BOOT_CTL.fail : Fld := ⟨.BOOT_CTL, 30, 30, .wo, .s⟩
/-! BOOT_MEAS_CMD (spec/16, near R484) -/
def BOOT_MEAS_CMD.go : Fld := ⟨.BOOT_MEAS_CMD, 31, 31, .wo, .s⟩
def BOOT_MEAS_CMD.busy : Fld := ⟨.BOOT_MEAS_CMD, 30, 30, .ro, .none⟩
def BOOT_MEAS_CMD.op : Fld := ⟨.BOOT_MEAS_CMD, 29, 28, .rw, .s⟩
def BOOT_MEAS_CMD.result : Fld := ⟨.BOOT_MEAS_CMD, 27, 20, .ro, .none⟩
def BOOT_MEAS_CMD.log_full : Fld := ⟨.BOOT_MEAS_CMD, 19, 19, .ro, .none⟩
def BOOT_MEAS_CMD.n : Fld := ⟨.BOOT_MEAS_CMD, 9, 0, .rw, .s⟩
/-! BOOT_MEAS_DATA (spec/16, near R484) -/
def BOOT_MEAS_DATA.data : Fld := ⟨.BOOT_MEAS_DATA, 63, 0, .rw, .s⟩
/-! UPD_CMD (spec/16, near R484) -/
def UPD_CMD.go : Fld := ⟨.UPD_CMD, 63, 63, .wo, .s⟩
def UPD_CMD.busy : Fld := ⟨.UPD_CMD, 62, 62, .ro, .none⟩
def UPD_CMD.op : Fld := ⟨.UPD_CMD, 61, 58, .rw, .s⟩
def UPD_CMD.result : Fld := ⟨.UPD_CMD, 57, 50, .ro, .none⟩
def UPD_CMD.reason : Fld := ⟨.UPD_CMD, 49, 46, .ro, .none⟩
def UPD_CMD.force : Fld := ⟨.UPD_CMD, 45, 45, .rw, .s⟩
def UPD_CMD.downgrade : Fld := ⟨.UPD_CMD, 44, 44, .rw, .s⟩
def UPD_CMD.slot : Fld := ⟨.UPD_CMD, 43, 43, .rw, .s⟩
def UPD_CMD.addr : Fld := ⟨.UPD_CMD, 37, 6, .rw, .s⟩
/-! UPD_ARG (spec/16, near R484) -/
def UPD_ARG.offset : Fld := ⟨.UPD_ARG, 63, 32, .rw, .s⟩
def UPD_ARG.length : Fld := ⟨.UPD_ARG, 31, 0, .rw, .s⟩
/-! UPD_STATUS (spec/16, near R484) -/
def UPD_STATUS.phase : Fld := ⟨.UPD_STATUS, 63, 61, .ro, .none⟩
def UPD_STATUS.inactive : Fld := ⟨.UPD_STATUS, 60, 60, .ro, .none⟩
def UPD_STATUS.last_result : Fld := ⟨.UPD_STATUS, 59, 52, .ro, .none⟩
def UPD_STATUS.last_reason : Fld := ⟨.UPD_STATUS, 51, 48, .ro, .none⟩
def UPD_STATUS.activations : Fld := ⟨.UPD_STATUS, 47, 32, .ro, .none⟩
/-! UPD_NONCE (spec/16, near R484) -/
def UPD_NONCE.nonce : Fld := ⟨.UPD_NONCE, 63, 0, .ro, .none⟩
/-! ODF_CFG (spec/17, near R500) -/
def ODF_CFG.n_minus_1 : Fld := ⟨.ODF_CFG, 63, 62, .rw, .d⟩
def ODF_CFG.deepen : Fld := ⟨.ODF_CFG, 61, 61, .rw, .d⟩
def ODF_CFG.repartition_hold : Fld := ⟨.ODF_CFG, 47, 32, .rw, .s⟩
def ODF_CFG.queue_base : Fld := ⟨.ODF_CFG, 16, 0, .rw, .s⟩
/-! ODF_STATUS (spec/17, near R500) -/
def ODF_STATUS.active : Fld := ⟨.ODF_STATUS, 63, 63, .ro, .none⟩
def ODF_STATUS.master : Fld := ⟨.ODF_STATUS, 62, 62, .ro, .none⟩
def ODF_STATUS.master_id : Fld := ⟨.ODF_STATUS, 61, 60, .ro, .none⟩
def ODF_STATUS.own_id : Fld := ⟨.ODF_STATUS, 59, 58, .ro, .none⟩
def ODF_STATUS.live : Fld := ⟨.ODF_STATUS, 57, 54, .ro, .none⟩
def ODF_STATUS.in_service : Fld := ⟨.ODF_STATUS, 53, 50, .ro, .none⟩
def ODF_STATUS.hold_reason : Fld := ⟨.ODF_STATUS, 49, 46, .ro, .none⟩
def ODF_STATUS.time_uncertain : Fld := ⟨.ODF_STATUS, 45, 45, .ro, .none⟩
def ODF_STATUS.promotions : Fld := ⟨.ODF_STATUS, 15, 0, .ro, .none⟩
/-! ODF_LINK_STATUS (spec/17, near R500) -/
def ODF_LINK_STATUS.state : Fld := ⟨.ODF_LINK_STATUS, 31, 30, .ro, .none⟩
def ODF_LINK_STATUS.peer_id : Fld := ⟨.ODF_LINK_STATUS, 29, 28, .ro, .none⟩
def ODF_LINK_STATUS.peer_link : Fld := ⟨.ODF_LINK_STATUS, 27, 27, .ro, .none⟩
def ODF_LINK_STATUS.delay : Fld := ⟨.ODF_LINK_STATUS, 23, 0, .ro, .none⟩
/-! ODF_CMD (spec/17, near R500) -/
def ODF_CMD.go : Fld := ⟨.ODF_CMD, 63, 63, .wo, .s⟩
def ODF_CMD.busy : Fld := ⟨.ODF_CMD, 62, 62, .ro, .none⟩
def ODF_CMD.op : Fld := ⟨.ODF_CMD, 61, 59, .rw, .s⟩
def ODF_CMD.result : Fld := ⟨.ODF_CMD, 58, 51, .ro, .none⟩
def ODF_CMD.refused : Fld := ⟨.ODF_CMD, 50, 47, .ro, .none⟩
/-! ODF_REC_CFG (spec/17, near R500) -/
def ODF_REC_CFG.value : Fld := ⟨.ODF_REC_CFG, 63, 0, .rw, .s⟩
/-! ODF_MEMBER_REC (spec/17, near R500) -/
def ODF_MEMBER_REC.data : Fld := ⟨.ODF_MEMBER_REC, 63, 0, .ro, .none⟩
/-! ODF_CNT (spec/17, near R500) -/
def ODF_CNT.count : Fld := ⟨.ODF_CNT, 63, 0, .ro, .none⟩
/-! PWR_STATUS (spec/18, near R503) -/
def PWR_STATUS.ac_good : Fld := ⟨.PWR_STATUS, 63, 63, .ro, .none⟩
def PWR_STATUS.ac_fail : Fld := ⟨.PWR_STATUS, 62, 62, .ro, .none⟩
def PWR_STATUS.reserve_full : Fld := ⟨.PWR_STATUS, 61, 61, .ro, .none⟩
def PWR_STATUS.psu_fault : Fld := ⟨.PWR_STATUS, 60, 60, .ro, .none⟩
def PWR_STATUS.reserve_pct : Fld := ⟨.PWR_STATUS, 59, 52, .ro, .none⟩
def PWR_STATUS.ac_input_w : Fld := ⟨.PWR_STATUS, 47, 32, .ro, .none⟩
def PWR_STATUS.dc_load_w : Fld := ⟨.PWR_STATUS, 31, 16, .ro, .none⟩
def PWR_STATUS.ac_vrms : Fld := ⟨.PWR_STATUS, 15, 7, .ro, .none⟩
/-! PWR_HOST_CTL (spec/18, near R509) -/
def PWR_HOST_CTL.go : Fld := ⟨.PWR_HOST_CTL, 31, 31, .wo, .s⟩
def PWR_HOST_CTL.busy : Fld := ⟨.PWR_HOST_CTL, 30, 30, .ro, .none⟩
def PWR_HOST_CTL.op : Fld := ⟨.PWR_HOST_CTL, 29, 27, .rw, .s⟩
def PWR_HOST_CTL.result : Fld := ⟨.PWR_HOST_CTL, 26, 19, .ro, .none⟩
def PWR_HOST_CTL.aux_en : Fld := ⟨.PWR_HOST_CTL, 18, 18, .ro, .none⟩
def PWR_HOST_CTL.pwr_good : Fld := ⟨.PWR_HOST_CTL, 17, 17, .ro, .none⟩
def PWR_HOST_CTL.wake : Fld := ⟨.PWR_HOST_CTL, 16, 16, .w1c, .s⟩
def PWR_HOST_CTL.wake_fwd : Fld := ⟨.PWR_HOST_CTL, 10, 10, .rw, .s⟩
def PWR_HOST_CTL.off_timeout : Fld := ⟨.PWR_HOST_CTL, 9, 0, .rw, .s⟩
/-! MGT_ETH_MAC (spec/18, near R515) -/
def MGT_ETH_MAC.mac : Fld := ⟨.MGT_ETH_MAC, 47, 0, .rw, .s⟩
/-! MGT_ETH_CFG (spec/18, near R515) -/
def MGT_ETH_CFG.enable : Fld := ⟨.MGT_ETH_CFG, 31, 31, .rw, .s⟩
def MGT_ETH_CFG.promisc : Fld := ⟨.MGT_ETH_CFG, 30, 30, .rw, .s⟩
def MGT_ETH_CFG.mcast_all : Fld := ⟨.MGT_ETH_CFG, 29, 29, .rw, .s⟩
def MGT_ETH_CFG.rx_irq : Fld := ⟨.MGT_ETH_CFG, 28, 28, .rw, .s⟩
def MGT_ETH_CFG.tx_irq : Fld := ⟨.MGT_ETH_CFG, 27, 27, .rw, .s⟩
def MGT_ETH_CFG.no_1000 : Fld := ⟨.MGT_ETH_CFG, 26, 26, .rw, .s⟩
/-! MGT_ETH_STATUS (spec/18, near R515) -/
def MGT_ETH_STATUS.link_up : Fld := ⟨.MGT_ETH_STATUS, 31, 31, .ro, .none⟩
def MGT_ETH_STATUS.speed : Fld := ⟨.MGT_ETH_STATUS, 30, 30, .ro, .none⟩
def MGT_ETH_STATUS.tx_overrun : Fld := ⟨.MGT_ETH_STATUS, 29, 29, .ro, .none⟩
/-! MGT_ETH_RX (spec/18, near R515) -/
def MGT_ETH_RX.prod : Fld := ⟨.MGT_ETH_RX, 31, 16, .ro, .none⟩
def MGT_ETH_RX.cons : Fld := ⟨.MGT_ETH_RX, 15, 0, .rw, .s⟩
/-! MGT_ETH_TX (spec/18, near R515) -/
def MGT_ETH_TX.prod : Fld := ⟨.MGT_ETH_TX, 31, 16, .rw, .s⟩
def MGT_ETH_TX.cons : Fld := ⟨.MGT_ETH_TX, 15, 0, .ro, .none⟩
/-! MGT_ETH_CNT (spec/18, near R515) -/
def MGT_ETH_CNT.count : Fld := ⟨.MGT_ETH_CNT, 63, 0, .ro, .none⟩
/-! PWR_THERM (spec/18, near R516) -/
def PWR_THERM.alarm : Fld := ⟨.PWR_THERM, 63, 63, .ro, .none⟩
def PWR_THERM.tj : Fld := ⟨.PWR_THERM, 55, 48, .ro, .none⟩
def PWR_THERM.inlet : Fld := ⟨.PWR_THERM, 47, 40, .ro, .none⟩
def PWR_THERM.psu : Fld := ⟨.PWR_THERM, 39, 32, .ro, .none⟩
def PWR_THERM.osc : Fld := ⟨.PWR_THERM, 31, 24, .ro, .none⟩
def PWR_THERM.optics : Fld := ⟨.PWR_THERM, 23, 16, .ro, .none⟩
def PWR_THERM.tj_alarm : Fld := ⟨.PWR_THERM, 15, 8, .rw, .s⟩
/-! X_BLK_ID (spec/19, near R524) -/
def X_BLK_ID.code : Fld := ⟨.X_BLK_ID, 63, 56, .ro, .none⟩
def X_BLK_ID.size_log2 : Fld := ⟨.X_BLK_ID, 55, 48, .ro, .none⟩
def X_BLK_ID.rev : Fld := ⟨.X_BLK_ID, 47, 32, .ro, .none⟩
/-! X_BLK_STATUS (spec/19, near R524) -/
def X_BLK_STATUS.change_refused : Fld := ⟨.X_BLK_STATUS, 63, 63, .w1c, .s⟩
def X_BLK_STATUS.d_hold : Fld := ⟨.X_BLK_STATUS, 62, 62, .ro, .none⟩
def X_BLK_STATUS.pending : Fld := ⟨.X_BLK_STATUS, 55, 52, .ro, .none⟩
def X_BLK_STATUS.refused_offset : Fld := ⟨.X_BLK_STATUS, 31, 0, .ro, .none⟩
/-! X_BLK_ERR_CTL (spec/19, near R525) -/
def X_BLK_ERR_CTL.inject : Fld := ⟨.X_BLK_ERR_CTL, 63, 63, .wo, .d⟩
def X_BLK_ERR_CTL.kind : Fld := ⟨.X_BLK_ERR_CTL, 62, 62, .rw, .s⟩
def X_BLK_ERR_CTL.cls : Fld := ⟨.X_BLK_ERR_CTL, 61, 60, .rw, .s⟩
def X_BLK_ERR_CTL.slice : Fld := ⟨.X_BLK_ERR_CTL, 59, 46, .rw, .s⟩
def X_BLK_ERR_CTL.cause : Fld := ⟨.X_BLK_ERR_CTL, 31, 16, .rw, .s⟩
def X_BLK_ERR_CTL.detail : Fld := ⟨.X_BLK_ERR_CTL, 15, 0, .rw, .s⟩
/-! X_BLK_ERR_CNT (spec/19, near R526) -/
def X_BLK_ERR_CNT.faults : Fld := ⟨.X_BLK_ERR_CNT, 63, 32, .ro, .none⟩
def X_BLK_ERR_CNT.corrected : Fld := ⟨.X_BLK_ERR_CNT, 31, 0, .ro, .none⟩
/-! MODE_STATE (spec/19, near R526) -/
def MODE_STATE.booted : Fld := ⟨.MODE_STATE, 15, 15, .ro, .none⟩
def MODE_STATE.return_mode : Fld := ⟨.MODE_STATE, 10, 8, .ro, .none⟩
def MODE_STATE.mode : Fld := ⟨.MODE_STATE, 2, 0, .ro, .none⟩
/-! MGT_MODULE_ID (spec/19, near R527) -/
def MGT_MODULE_ID.part : Fld := ⟨.MGT_MODULE_ID, 63, 48, .ro, .none⟩
def MGT_MODULE_ID.grade : Fld := ⟨.MGT_MODULE_ID, 47, 40, .ro, .none⟩
def MGT_MODULE_ID.stepping : Fld := ⟨.MGT_MODULE_ID, 39, 32, .ro, .none⟩
/-! MGT_SERIAL (spec/19, near R527) -/
def MGT_SERIAL.serial : Fld := ⟨.MGT_SERIAL, 63, 0, .ro, .none⟩
/-! MGT_MEMBER_SEL (spec/19, near R528) -/
def MGT_MEMBER_SEL.error : Fld := ⟨.MGT_MEMBER_SEL, 31, 31, .w1c, .s⟩
def MGT_MEMBER_SEL.member : Fld := ⟨.MGT_MEMBER_SEL, 1, 0, .rw, .s⟩

/-- The fields of a register, from the most significant down. -/
def Reg.fields : Reg → List Fld
  | .MGT_MODE_REQ => [ MGT_MODE_REQ.result, MGT_MODE_REQ.busy, MGT_MODE_REQ.source_mode, MGT_MODE_REQ.go, MGT_MODE_REQ.target]
  | .MGT_START_CFG => [ MGT_START_CFG.host_power_policy, MGT_START_CFG.standby_port, MGT_START_CFG.test_allowed, MGT_START_CFG.cascade_enable, MGT_START_CFG.start_mode]
  | .PWR_RESET_CTRL => [ PWR_RESET_CTRL.key, PWR_RESET_CTRL.flushing, PWR_RESET_CTRL.datapath, PWR_RESET_CTRL.warm, PWR_RESET_CTRL.cold, PWR_RESET_CTRL.flush_first]
  | .PWR_RESET_CAUSE => [ PWR_RESET_CAUSE.l4_source, PWR_RESET_CAUSE.dp_retouch, PWR_RESET_CAUSE.dp_activate, PWR_RESET_CAUSE.dp_request, PWR_RESET_CAUSE.darkroom_retry, PWR_RESET_CAUSE.l4_fault, PWR_RESET_CAUSE.mgmt_request, PWR_RESET_CAUSE.fw_warm, PWR_RESET_CAUSE.fw_cold, PWR_RESET_CAUSE.ac_return, PWR_RESET_CAUSE.supercap_lost]
  | .TSV_RATE => [ TSV_RATE.rate]
  | .TSV_STATE => [ TSV_STATE.step_count, TSV_STATE.plaus_fault, TSV_STATE.compare_fault, TSV_STATE.temp_excursion, TSV_STATE.synce_qualified, TSV_STATE.freq_in_qualified, TSV_STATE.pps_in_qualified, TSV_STATE.phase_src_active, TSV_STATE.freq_src_active, TSV_STATE.state]
  | .TSV_HOLD_MODEL => [ TSV_HOLD_MODEL.max_rate_step, TSV_HOLD_MODEL.slew_ppm, TSV_HOLD_MODEL.beat_timeout, TSV_HOLD_MODEL.r, TSV_HOLD_MODEL.d]
  | .TSV_SERVO => [ TSV_SERVO.claim, TSV_SERVO.offset, TSV_SERVO.u_servo]
  | .TSV_ADJ => [ TSV_ADJ.go, TSV_ADJ.op, TSV_ADJ.amount]
  | .TSV_SET_SEC => [ TSV_SET_SEC.set_unc, TSV_SET_SEC.seconds]
  | .TSV_REF_SEL => [ TSV_REF_SEL.pps_in_comp, TSV_REF_SEL.phase_src, TSV_REF_SEL.freq_src, TSV_REF_SEL.synce_port]
  | .TSV_PORT_CAL => [ TSV_PORT_CAL.tx_offset, TSV_PORT_CAL.rx_offset]
  | .TSV_PPS_CFG => [ TSV_PPS_CFG.enable, TSV_PPS_CFG.force, TSV_PPS_CFG.squelch_limit, TSV_PPS_CFG.comp, TSV_PPS_CFG.width]
  | .TSV_SNAP_SEC => [ TSV_SNAP_SEC.state, TSV_SNAP_SEC.seconds]
  | .TSV_SNAP_NS => [ TSV_SNAP_NS.ns, TSV_SNAP_NS.frac, TSV_SNAP_NS.unc]
  | .TSV_SNAP_UNC => [ TSV_SNAP_UNC.unc32]
  | .TSV_MIRROR => [ TSV_MIRROR.data]
  | .TSV_ISLAND_RESET => [ TSV_ISLAND_RESET.key, TSV_ISLAND_RESET.go]
  | .TSV_TPG_ADDR => [ TSV_TPG_ADDR.addr]
  | .TSV_TPG_MULT => [ TSV_TPG_MULT.mult]
  | .TSV_TPG_OFFSET => [ TSV_TPG_OFFSET.offset]
  | .TSV_TPG_CTL => [ TSV_TPG_CTL.result, TSV_TPG_CTL.enable]
  | .FRM_CMD => [ FRM_CMD.go, FRM_CMD.busy, FRM_CMD.op, FRM_CMD.number, FRM_CMD.result, FRM_CMD.addr]
  | .FRM_STATE => [ FRM_STATE.lockup_seq, FRM_STATE.slot_state, FRM_STATE.current_valid, FRM_STATE.current, FRM_STATE.sweep_active, FRM_STATE.sweep_number]
  | .FRM_REF => [ FRM_REF.packets]
  | .FRM_TAGGED => [ FRM_TAGGED.entries]
  | .FRM_SLOT_ID => [ FRM_SLOT_ID.build_id]
  | .FRM_DROP => [ FRM_DROP.count]
  | .PAR_EXC_CNT => [ PAR_EXC_CNT.parse_deep, PAR_EXC_CNT.len_conflict]
  | .EML_HASH_SEED => [ EML_HASH_SEED.overflow_seed, EML_HASH_SEED.bucket_seed]
  | .FLT_HASH_SEED => [ FLT_HASH_SEED.overflow_seed, FLT_HASH_SEED.bucket_seed]
  | .X_CMD => [ X_CMD.go, X_CMD.busy, X_CMD.op, X_CMD.expect, X_CMD.result, X_CMD.evict, X_CMD.forme, X_CMD.new_vis, X_CMD.new_vf, X_CMD.target, X_CMD.idle, X_CMD.position]
  | .X_CMD_DATA => [ X_CMD_DATA.image]
  | .X_AGE_CFG => [ X_AGE_CFG.mode, X_AGE_CFG.age_time]
  | .EML_LEARN_CFG => [ EML_LEARN_CFG.mode, EML_LEARN_CFG.evict, EML_LEARN_CFG.evict_policy, EML_LEARN_CFG.profile, EML_LEARN_CFG.notify_hw, EML_LEARN_CFG.move_hold]
  | .EML_MEMBER_CFG => [ EML_MEMBER_CFG.learn_en, EML_MEMBER_CFG.excess_drop, EML_MEMBER_CFG.count, EML_MEMBER_CFG.action, EML_MEMBER_CFG.limit]
  | .FLT_LEARN_CFG => [ FLT_LEARN_CFG.mode, FLT_LEARN_CFG.evict, FLT_LEARN_CFG.evict_policy, FLT_LEARN_CFG.age_en, FLT_LEARN_CFG.slice, FLT_LEARN_CFG.limit, FLT_LEARN_CFG.action]
  | .FLT_LEARN_PROFILES => [ FLT_LEARN_PROFILES.mask]
  | .X_CNT => [ X_CNT.count]
  | .FLT_PART => [ FLT_PART.own, FLT_PART.n_minus_1]
  | .TMG_EPOCH => [ TMG_EPOCH.go, TMG_EPOCH.busy, TMG_EPOCH.result, TMG_EPOCH.bad_level, TMG_EPOCH.bad_index, TMG_EPOCH.epoch_seq]
  | .TMG_NODE_ADDR => [ TMG_NODE_ADDR.view, TMG_NODE_ADDR.level, TMG_NODE_ADDR.index]
  | .TMG_NODE_CFG => [ TMG_NODE_CFG.word]
  | .TMG_NODE_STAT => [ TMG_NODE_STAT.bytes, TMG_NODE_STAT.packets]
  | .TMG_AGE => [ TMG_AGE.limit]
  | .TMG_BUF_CFG => [ TMG_BUF_CFG.spill_en, TMG_BUF_CFG.spill_reserve]
  | .TMG_GATE => [ TMG_GATE.closed_slices, TMG_GATE.module_closed]
  | .TMG_OUT_CFG => [ TMG_OUT_CFG.len_adjust]
  | .TMG_POL_CMD => [ TMG_POL_CMD.go, TMG_POL_CMD.busy, TMG_POL_CMD.op, TMG_POL_CMD.result, TMG_POL_CMD.index]
  | .TMG_POL_CFG => [ TMG_POL_CFG.rate, TMG_POL_CFG.burst, TMG_POL_CFG.mode, TMG_POL_CFG.colour_aware, TMG_POL_CFG.red_drop]
  | .TMG_DROP => [ TMG_DROP.count]
  | .MAC_CAGE_CFG => [ MAC_CAGE_CFG.an_en, MAC_CAGE_CFG.mode]
  | .MAC_PORT_CFG => [ MAC_PORT_CFG.enable, MAC_PORT_CFG.max_len]
  | .MAC_CNT => [ MAC_CNT.count]
  | .MAC_PORT_STATUS => [ MAC_PORT_STATUS.mode_active, MAC_PORT_STATUS.lane_fault, MAC_PORT_STATUS.lpi_rx, MAC_PORT_STATUS.lpi_tx, MAC_PORT_STATUS.fec_locked, MAC_PORT_STATUS.pcs_aligned, MAC_PORT_STATUS.link_up]
  | .MAC_IMP_CFG => [ MAC_IMP_CFG.enable, MAC_IMP_CFG.unknown_policy, MAC_IMP_CFG.lead, MAC_IMP_CFG.late_limit]
  | .MAC_IMP_BASE => [ MAC_IMP_BASE.base]
  | .MAC_IMP_CYCLE => [ MAC_IMP_CYCLE.count, MAC_IMP_CYCLE.cycle]
  | .MAC_IMP_CMD => [ MAC_IMP_CMD.go, MAC_IMP_CMD.busy, MAC_IMP_CMD.pending, MAC_IMP_CMD.result, MAC_IMP_CMD.swaps]
  | .MAC_IMP_STATUS => [ MAC_IMP_STATUS.gates, MAC_IMP_STATUS.entry, MAC_IMP_STATUS.cycles]
  | .MAC_IMP_ENTRY => [ MAC_IMP_ENTRY.gates, MAC_IMP_ENTRY.duration]
  | .MAC_LPI_CFG => [ MAC_LPI_CFG.enable, MAC_LPI_CFG.tw_tx, MAC_LPI_CFG.idle_time]
  | .MAC_LANE_MAP => [ MAC_LANE_MAP.spare_used, MAC_LANE_MAP.map]
  | .DRT_CFG => [ DRT_CFG.enable, DRT_CFG.salt, DRT_CFG.paths_log2, DRT_CFG.udp_port]
  | .DRT_TIMER => [ DRT_TIMER.rto_min, DRT_TIMER.rto_max, DRT_TIMER.lifetime, DRT_TIMER.max_age, DRT_TIMER.nb_max]
  | .DRT_CC_CFG => [ DRT_CC_CFG.target, DRT_CC_CFG.init_rate, DRT_CC_CFG.ai, DRT_CC_CFG.max_unc]
  | .DRT_SEQ => [ DRT_SEQ.incarnation, DRT_SEQ.count]
  | .DRT_CMD => [ DRT_CMD.go, DRT_CMD.busy, DRT_CMD.op, DRT_CMD.result, DRT_CMD.handle]
  | .DRT_CMD_DATA => [ DRT_CMD_DATA.data]
  | .DRT_STATUS => [ DRT_STATUS.out_used, DRT_STATUS.in_used, DRT_STATUS.tombstones, DRT_STATUS.settling]
  | .DRT_CNT => [ DRT_CNT.count]
  | .CPH_KEY_CMD => [ CPH_KEY_CMD.go, CPH_KEY_CMD.busy, CPH_KEY_CMD.op, CPH_KEY_CMD.result, CPH_KEY_CMD.slot, CPH_KEY_CMD.kek_slot]
  | .CPH_KEY_ATTR => [ CPH_KEY_ATTR.len256, CPH_KEY_ATTR.enc, CPH_KEY_ATTR.dec, CPH_KEY_ATTR.derive, CPH_KEY_ATTR.unwrap, CPH_KEY_ATTR.has_slice, CPH_KEY_ATTR.slice, CPH_KEY_ATTR.limit]
  | .CPH_KEY_USAGE => [ CPH_KEY_USAGE.exhausted, CPH_KEY_USAGE.rollover_posted, CPH_KEY_USAGE.valid, CPH_KEY_USAGE.counter]
  | .CPH_KEY_DATA => [ CPH_KEY_DATA.data]
  | .CPH_DRT_CORES => [ CPH_DRT_CORES.cores]
  | .CPH_STATUS => [ CPH_STATUS.units_active, CPH_STATUS.spares_used, CPH_STATUS.entropy_ok, CPH_STATUS.drbg_ok, CPH_STATUS.queued, CPH_STATUS.suspended]
  | .CPH_RNG => [ CPH_RNG.valid, CPH_RNG.value]
  | .CPH_CNT => [ CPH_CNT.count]
  | .HIF_LINK_CFG => [ HIF_LINK_CFG.sris, HIF_LINK_CFG.bifurcate, HIF_LINK_CFG.max_speed]
  | .HIF_PM_CFG => [ HIF_PM_CFG.l1_idle, HIF_PM_CFG.ltr_us, HIF_PM_CFG.l0p_down, HIF_PM_CFG.l0p_up, HIF_PM_CFG.l0p_window]
  | .HIF_LINK_STATUS => [ HIF_LINK_STATUS.dl_up, HIF_LINK_STATUS.speed, HIF_LINK_STATUS.width, HIF_LINK_STATUS.flit, HIF_LINK_STATUS.pm, HIF_LINK_STATUS.h_reset, HIF_LINK_STATUS.cfg_clipped, HIF_LINK_STATUS.retry]
  | .HIF_FUNC_CFG => [ HIF_FUNC_CFG.present, HIF_FUNC_CFG.personality, HIF_FUNC_CFG.vf_personality, HIF_FUNC_CFG.total_vfs, HIF_FUNC_CFG.slice_pages_log2, HIF_FUNC_CFG.msix_log2, HIF_FUNC_CFG.vf_msix_log2]
  | .HIF_CNT => [ HIF_CNT.count]
  | .DQM_RING_SEL => [ DQM_RING_SEL.cls, DQM_RING_SEL.number]
  | .DQM_RING_CTX => [ DQM_RING_CTX.word]
  | .DQM_RING_IDX => [ DQM_RING_IDX.module_index, DQM_RING_IDX.host_index]
  | .DQM_RING_CMD => [ DQM_RING_CMD.go, DQM_RING_CMD.busy, DQM_RING_CMD.op, DQM_RING_CMD.result, DQM_RING_CMD.state, DQM_RING_CMD.stop_status, DQM_RING_CMD.doorbell, DQM_RING_CMD.number]
  | .DQM_CNT => [ DQM_CNT.count]
  | .SLC_CMD => [ SLC_CMD.go, SLC_CMD.busy, SLC_CMD.op, SLC_CMD.result, SLC_CMD.slice]
  | .SLC_CMD_DATA => [ SLC_CMD_DATA.data]
  | .SLC_DONE => [ SLC_DONE.valid, SLC_DONE.destroy, SLC_DONE.result, SLC_DONE.slice]
  | .SLC_POOL => [ SLC_POOL.free]
  | .ACT_SEL => [ ACT_SEL.target, ACT_SEL.rule]
  | .ACT_RULE => [ ACT_RULE.word]
  | .ACT_CMD => [ ACT_CMD.go, ACT_CMD.busy, ACT_CMD.op, ACT_CMD.result]
  | .ACT_SEAL => [ ACT_SEAL.sealed]
  | .ACT_LOG => [ ACT_LOG.word]
  | .ACT_LOG_POP => [ ACT_LOG_POP.pop]
  | .ACT_CNT => [ ACT_CNT.count]
  | .NVE_CTRL_CFG => [ NVE_CTRL_CFG.fw_en, NVE_CTRL_CFG.max_ioq, NVE_CTRL_CFG.active, NVE_CTRL_CFG.link, NVE_CTRL_CFG.pf, NVE_CTRL_CFG.is_vf, NVE_CTRL_CFG.vf]
  | .NVE_NS_CMD => [ NVE_NS_CMD.go, NVE_NS_CMD.busy, NVE_NS_CMD.op, NVE_NS_CMD.result, NVE_NS_CMD.controller, NVE_NS_CMD.nsid, NVE_NS_CMD.ns]
  | .NVE_NS_DATA => [ NVE_NS_DATA.word]
  | .NVE_NS_STATUS => [ NVE_NS_STATUS.state, NVE_NS_STATUS.fault, NVE_NS_STATUS.buffered]
  | .NVE_BUF_STATUS => [ NVE_BUF_STATUS.used_mib, NVE_BUF_STATUS.destage_inflight, NVE_BUF_STATUS.faulted]
  | .NVE_CNT => [ NVE_CNT.count]
  | .FCX_LOAD => [ FCX_LOAD.go, FCX_LOAD.busy, FCX_LOAD.op, FCX_LOAD.result, FCX_LOAD.first, FCX_LOAD.last, FCX_LOAD.addr]
  | .FCX_STATUS => [ FCX_STATUS.cores_active, FCX_STATUS.spares_used, FCX_STATUS.handles]
  | .FCX_SYS_CORES => [ FCX_SYS_CORES.cores]
  | .FCX_DBG_CMD => [ FCX_DBG_CMD.go, FCX_DBG_CMD.busy, FCX_DBG_CMD.op, FCX_DBG_CMD.result, FCX_DBG_CMD.core, FCX_DBG_CMD.thread, FCX_DBG_CMD.index]
  | .FCX_DBG_DATA => [ FCX_DBG_DATA.data]
  | .FCX_GDL => [ FCX_GDL.valid, FCX_GDL.length, FCX_GDL.core_a, FCX_GDL.core_b, FCX_GDL.core_c, FCX_GDL.core_d]
  | .FCX_CNT => [ FCX_CNT.count]
  | .FCX_CORE_STATUS => [ FCX_CORE_STATUS.state, FCX_CORE_STATUS.exact, FCX_CORE_STATUS.deadlock, FCX_CORE_STATUS.faulted, FCX_CORE_STATUS.blocked, FCX_CORE_STATUS.stopped, FCX_CORE_STATUS.build]
  | .FCX_MAP => [ FCX_MAP.absent, FCX_MAP.physical]
  | .FCX_THREAD => [ FCX_THREAD.slice, FCX_THREAD.slice_en, FCX_THREAD.state, FCX_THREAD.cause, FCX_THREAD.fault_addr]
  | .PRF_LATCH => [ PRF_LATCH.fault]
  | .PRF_CORR_LATCH => [ PRF_CORR_LATCH.corrected]
  | .PRF_STATUS => [ PRF_STATUS.sl_running, PRF_STATUS.sl_stop, PRF_STATUS.contained, PRF_STATUS.module]
  | .PRF_SLICE_LIFT => [ PRF_SLICE_LIFT.go, PRF_SLICE_LIFT.result, PRF_SLICE_LIFT.slice]
  | .PRF_SL_CFG => [ PRF_SL_CFG.enable, PRF_SL_CFG.feed_timeout]
  | .PRF_SL_FEED => [ PRF_SL_FEED.value]
  | .PRF_LAST_FAULT => [ PRF_LAST_FAULT.source, PRF_LAST_FAULT.level, PRF_LAST_FAULT.cls, PRF_LAST_FAULT.cause, PRF_LAST_FAULT.time]
  | .PRF_LEVEL => [ PRF_LEVEL.l4_cold, PRF_LEVEL.lvl_m, PRF_LEVEL.lvl_s, PRF_LEVEL.lvl_a]
  | .PRF_REC => [ PRF_REC.valid, PRF_REC.level, PRF_REC.cls, PRF_REC.escalated, PRF_REC.slice_valid, PRF_REC.slice, PRF_REC.count, PRF_REC.cause, PRF_REC.detail]
  | .RTH_STATUS => [ RTH_STATUS.selftest_done, RTH_STATUS.fatal, RTH_STATUS.degraded, RTH_STATUS.log_full, RTH_STATUS.fc_spares, RTH_STATUS.apx_spares, RTH_STATUS.cph_spares, RTH_STATUS.serdes_spares, RTH_STATUS.pending]
  | .RTH_DEGRADE => [ RTH_DEGRADE.pipelines_out, RTH_DEGRADE.apx_active, RTH_DEGRADE.fenced, RTH_DEGRADE.hbm_retired]
  | .RTH_ROW_CFG => [ RTH_ROW_CFG.threshold, RTH_ROW_CFG.window]
  | .RTH_LOG_CMD => [ RTH_LOG_CMD.go, RTH_LOG_CMD.busy, RTH_LOG_CMD.result, RTH_LOG_CMD.index]
  | .RTH_LOG_DATA => [ RTH_LOG_DATA.data]
  | .BOOT_STATUS => [ BOOT_STATUS.store, BOOT_STATUS.path, BOOT_STATUS.wdog, BOOT_STATUS.rollback, BOOT_STATUS.fail_a, BOOT_STATUS.fail_b, BOOT_STATUS.fail_g]
  | .BOOT_VERSION => [ BOOT_VERSION.version]
  | .BOOT_FUSE => [ BOOT_FUSE.order_lock, BOOT_FUSE.order, BOOT_FUSE.rollback, BOOT_FUSE.key_revoked, BOOT_FUSE.key_present]
  | .BOOT_PERSIST => [ BOOT_PERSIST.owner_enrolled, BOOT_PERSIST.owner_lock, BOOT_PERSIST.dr_count, BOOT_PERSIST.preferred, BOOT_PERSIST.tries_g, BOOT_PERSIST.tries_b, BOOT_PERSIST.tries_a]
  | .BOOT_CTL => [ BOOT_CTL.done, BOOT_CTL.fail]
  | .BOOT_MEAS_CMD => [ BOOT_MEAS_CMD.go, BOOT_MEAS_CMD.busy, BOOT_MEAS_CMD.op, BOOT_MEAS_CMD.result, BOOT_MEAS_CMD.log_full, BOOT_MEAS_CMD.n]
  | .BOOT_MEAS_DATA => [ BOOT_MEAS_DATA.data]
  | .UPD_CMD => [ UPD_CMD.go, UPD_CMD.busy, UPD_CMD.op, UPD_CMD.result, UPD_CMD.reason, UPD_CMD.force, UPD_CMD.downgrade, UPD_CMD.slot, UPD_CMD.addr]
  | .UPD_ARG => [ UPD_ARG.offset, UPD_ARG.length]
  | .UPD_STATUS => [ UPD_STATUS.phase, UPD_STATUS.inactive, UPD_STATUS.last_result, UPD_STATUS.last_reason, UPD_STATUS.activations]
  | .UPD_NONCE => [ UPD_NONCE.nonce]
  | .ODF_CFG => [ ODF_CFG.n_minus_1, ODF_CFG.deepen, ODF_CFG.repartition_hold, ODF_CFG.queue_base]
  | .ODF_STATUS => [ ODF_STATUS.active, ODF_STATUS.master, ODF_STATUS.master_id, ODF_STATUS.own_id, ODF_STATUS.live, ODF_STATUS.in_service, ODF_STATUS.hold_reason, ODF_STATUS.time_uncertain, ODF_STATUS.promotions]
  | .ODF_LINK_STATUS => [ ODF_LINK_STATUS.state, ODF_LINK_STATUS.peer_id, ODF_LINK_STATUS.peer_link, ODF_LINK_STATUS.delay]
  | .ODF_CMD => [ ODF_CMD.go, ODF_CMD.busy, ODF_CMD.op, ODF_CMD.result, ODF_CMD.refused]
  | .ODF_REC_CFG => [ ODF_REC_CFG.value]
  | .ODF_MEMBER_REC => [ ODF_MEMBER_REC.data]
  | .ODF_CNT => [ ODF_CNT.count]
  | .PWR_STATUS => [ PWR_STATUS.ac_good, PWR_STATUS.ac_fail, PWR_STATUS.reserve_full, PWR_STATUS.psu_fault, PWR_STATUS.reserve_pct, PWR_STATUS.ac_input_w, PWR_STATUS.dc_load_w, PWR_STATUS.ac_vrms]
  | .PWR_HOST_CTL => [ PWR_HOST_CTL.go, PWR_HOST_CTL.busy, PWR_HOST_CTL.op, PWR_HOST_CTL.result, PWR_HOST_CTL.aux_en, PWR_HOST_CTL.pwr_good, PWR_HOST_CTL.wake, PWR_HOST_CTL.wake_fwd, PWR_HOST_CTL.off_timeout]
  | .MGT_ETH_MAC => [ MGT_ETH_MAC.mac]
  | .MGT_ETH_CFG => [ MGT_ETH_CFG.enable, MGT_ETH_CFG.promisc, MGT_ETH_CFG.mcast_all, MGT_ETH_CFG.rx_irq, MGT_ETH_CFG.tx_irq, MGT_ETH_CFG.no_1000]
  | .MGT_ETH_STATUS => [ MGT_ETH_STATUS.link_up, MGT_ETH_STATUS.speed, MGT_ETH_STATUS.tx_overrun]
  | .MGT_ETH_RX => [ MGT_ETH_RX.prod, MGT_ETH_RX.cons]
  | .MGT_ETH_TX => [ MGT_ETH_TX.prod, MGT_ETH_TX.cons]
  | .MGT_ETH_CNT => [ MGT_ETH_CNT.count]
  | .PWR_THERM => [ PWR_THERM.alarm, PWR_THERM.tj, PWR_THERM.inlet, PWR_THERM.psu, PWR_THERM.osc, PWR_THERM.optics, PWR_THERM.tj_alarm]
  | .X_BLK_ID => [ X_BLK_ID.code, X_BLK_ID.size_log2, X_BLK_ID.rev]
  | .X_BLK_STATUS => [ X_BLK_STATUS.change_refused, X_BLK_STATUS.d_hold, X_BLK_STATUS.pending, X_BLK_STATUS.refused_offset]
  | .X_BLK_ERR_CTL => [ X_BLK_ERR_CTL.inject, X_BLK_ERR_CTL.kind, X_BLK_ERR_CTL.cls, X_BLK_ERR_CTL.slice, X_BLK_ERR_CTL.cause, X_BLK_ERR_CTL.detail]
  | .X_BLK_ERR_CNT => [ X_BLK_ERR_CNT.faults, X_BLK_ERR_CNT.corrected]
  | .MODE_STATE => [ MODE_STATE.booted, MODE_STATE.return_mode, MODE_STATE.mode]
  | .MGT_MODULE_ID => [ MGT_MODULE_ID.part, MGT_MODULE_ID.grade, MGT_MODULE_ID.stepping]
  | .MGT_SERIAL => [ MGT_SERIAL.serial]
  | .MGT_MEMBER_SEL => [ MGT_MEMBER_SEL.error, MGT_MEMBER_SEL.member]

/-- The header of a register. -/
def Reg.row : Reg → RegRow
  | .MGT_MODE_REQ => ⟨24, 0x100, 1, 0x0, 1, 0, 32, [.p, .c, .w], false⟩
  | .MGT_START_CFG => ⟨24, 0x108, 1, 0x0, 1, 0, 32, [.p, .c, .w], true⟩
  | .PWR_RESET_CTRL => ⟨23, 0x40, 1, 0x0, 1, 0, 32, [.p, .c, .w], false⟩
  | .PWR_RESET_CAUSE => ⟨23, 0x48, 1, 0x0, 1, 0, 32, [.p], false⟩
  | .TSV_RATE => ⟨4, 0x8, 1, 0x0, 1, 0, 32, [.p], false⟩
  | .TSV_STATE => ⟨4, 0x0, 1, 0x0, 1, 0, 32, [.p], false⟩
  | .TSV_HOLD_MODEL => ⟨4, 0x40, 1, 0x0, 1, 0, 64, [.p], false⟩
  | .TSV_SERVO => ⟨4, 0x38, 1, 0x0, 1, 0, 64, [.p], false⟩
  | .TSV_ADJ => ⟨4, 0x28, 1, 0x0, 1, 0, 64, [.p], false⟩
  | .TSV_SET_SEC => ⟨4, 0x30, 1, 0x0, 1, 0, 64, [.p], false⟩
  | .TSV_REF_SEL => ⟨4, 0x4, 1, 0x0, 1, 0, 32, [.p], false⟩
  | .TSV_PORT_CAL => ⟨4, 0x100, 32, 0x8, 1, 0, 64, [.p], true⟩
  | .TSV_PPS_CFG => ⟨4, 0x48, 2, 0x8, 1, 0, 64, [.p], false⟩
  | .TSV_SNAP_SEC => ⟨4, 0x10, 1, 0x0, 1, 0, 64, [.p], false⟩
  | .TSV_SNAP_NS => ⟨4, 0x18, 1, 0x0, 1, 0, 64, [.p], false⟩
  | .TSV_SNAP_UNC => ⟨4, 0x20, 1, 0x0, 1, 0, 32, [.p], false⟩
  | .TSV_MIRROR => ⟨4, 0x400, 128, 0x8, 1, 0, 64, [.p], false⟩
  | .TSV_ISLAND_RESET => ⟨4, 0xC, 1, 0x0, 1, 0, 32, [.p], false⟩
  | .TSV_TPG_ADDR => ⟨26, 0x0, 1, 0x0, 1, 0, 64, [.p, .c, .w, .h, .f], false⟩
  | .TSV_TPG_MULT => ⟨26, 0x8, 1, 0x0, 1, 0, 64, [.p, .c, .w, .h, .f], false⟩
  | .TSV_TPG_OFFSET => ⟨26, 0x10, 1, 0x0, 1, 0, 64, [.p, .c, .w, .h, .f], false⟩
  | .TSV_TPG_CTL => ⟨26, 0x18, 1, 0x0, 1, 0, 32, [.p, .c, .w, .h, .f], false⟩
  | .FRM_CMD => ⟨7, 0x0, 1, 0x0, 1, 0, 64, [.p, .c, .w], false⟩
  | .FRM_STATE => ⟨7, 0x8, 1, 0x0, 1, 0, 64, [.p, .c, .w], false⟩
  | .FRM_REF => ⟨7, 0x40, 8, 0x4, 1, 0, 32, [.p, .c, .w, .d], false⟩
  | .FRM_TAGGED => ⟨7, 0x60, 8, 0x4, 1, 0, 32, [.p, .c, .w], false⟩
  | .FRM_SLOT_ID => ⟨7, 0x80, 8, 0x8, 1, 0, 64, [.p, .c, .w], false⟩
  | .FRM_DROP => ⟨7, 0x100, 4, 0x10, 4, 4, 32, [.p, .c, .w], false⟩
  | .PAR_EXC_CNT => ⟨6, 0x0, 16, 0x8, 1, 0, 64, [.p, .c, .w], false⟩
  | .EML_HASH_SEED => ⟨8, 0x80, 1, 0x0, 1, 0, 64, [.p, .c, .w], false⟩
  | .FLT_HASH_SEED => ⟨11, 0x80, 1, 0x0, 1, 0, 64, [.p, .c, .w], false⟩
  | .X_CMD => ⟨8, 0x0, 4, 0x100000, 1, 0, 64, [.p, .c, .w], false⟩
  | .X_CMD_DATA => ⟨8, 0x40, 4, 0x100000, 8, 8, 64, [.p, .c, .w], false⟩
  | .X_AGE_CFG => ⟨8, 0x88, 4, 0x100000, 1, 0, 32, [.p, .c, .w], false⟩
  | .EML_LEARN_CFG => ⟨8, 0x90, 1, 0x0, 1, 0, 64, [.p, .c, .w], false⟩
  | .EML_MEMBER_CFG => ⟨8, 0x200, 12, 0x8, 1, 0, 64, [.p, .c, .w], false⟩
  | .FLT_LEARN_CFG => ⟨11, 0x90, 1, 0x0, 1, 0, 64, [.p, .c, .w], false⟩
  | .FLT_LEARN_PROFILES => ⟨11, 0x98, 1, 0x0, 1, 0, 64, [.p, .c, .w], false⟩
  | .X_CNT => ⟨8, 0x100, 4, 0x100000, 16, 8, 64, [.p, .c, .w], false⟩
  | .FLT_PART => ⟨11, 0xA8, 1, 0x0, 1, 0, 32, [.p, .c, .w], false⟩
  | .TMG_EPOCH => ⟨12, 0x0, 1, 0x0, 1, 0, 64, [.p, .c, .w], false⟩
  | .TMG_NODE_ADDR => ⟨12, 0x8, 1, 0x0, 1, 0, 32, [.p, .c, .w], false⟩
  | .TMG_NODE_CFG => ⟨12, 0x10, 4, 0x8, 1, 0, 64, [.p, .c, .w], false⟩
  | .TMG_NODE_STAT => ⟨12, 0x30, 1, 0x0, 1, 0, 64, [.p, .c, .w, .d], false⟩
  | .TMG_AGE => ⟨12, 0x40, 1, 0x0, 1, 0, 32, [.p, .c, .w], false⟩
  | .TMG_BUF_CFG => ⟨12, 0x48, 1, 0x0, 1, 0, 32, [.p, .c, .w], false⟩
  | .TMG_GATE => ⟨12, 0x50, 1, 0x0, 1, 0, 32, [.p, .c, .w], false⟩
  | .TMG_OUT_CFG => ⟨12, 0x80, 18, 0x8, 1, 0, 32, [.p, .c, .w], false⟩
  | .TMG_POL_CMD => ⟨12, 0x200, 1, 0x0, 1, 0, 32, [.p, .c, .w], false⟩
  | .TMG_POL_CFG => ⟨12, 0x208, 2, 0x8, 1, 0, 64, [.p, .c, .w], false⟩
  | .TMG_DROP => ⟨12, 0x300, 16, 0x8, 1, 0, 64, [.p, .c, .w], false⟩
  | .MAC_CAGE_CFG => ⟨5, 0x20000, 2, 0x100, 1, 0, 32, [.p, .c, .w], false⟩
  | .MAC_PORT_CFG => ⟨5, 0x0, 8, 0x4000, 1, 0, 32, [.p, .c, .w], false⟩
  | .MAC_CNT => ⟨5, 0x100, 8, 0x4000, 19, 8, 64, [.p, .c, .w], false⟩
  | .MAC_PORT_STATUS => ⟨5, 0x8, 8, 0x4000, 1, 0, 32, [.p, .c, .w, .d], false⟩
  | .MAC_IMP_CFG => ⟨5, 0x10, 8, 0x4000, 1, 0, 64, [.p, .c, .w], false⟩
  | .MAC_IMP_BASE => ⟨5, 0x18, 8, 0x4000, 1, 0, 64, [.p, .c, .w], false⟩
  | .MAC_IMP_CYCLE => ⟨5, 0x20, 8, 0x4000, 1, 0, 64, [.p, .c, .w], false⟩
  | .MAC_IMP_CMD => ⟨5, 0x28, 8, 0x4000, 1, 0, 32, [.p, .c, .w], false⟩
  | .MAC_IMP_STATUS => ⟨5, 0x30, 8, 0x4000, 1, 0, 64, [.p, .c, .w, .d], false⟩
  | .MAC_IMP_ENTRY => ⟨5, 0x2000, 8, 0x4000, 1024, 8, 64, [.p, .c, .w], false⟩
  | .MAC_LPI_CFG => ⟨5, 0x38, 8, 0x4000, 1, 0, 32, [.p, .c, .w], false⟩
  | .MAC_LANE_MAP => ⟨5, 0x20008, 2, 0x100, 1, 0, 64, [.p, .c], false⟩
  | .DRT_CFG => ⟨14, 0x0, 1, 0x0, 1, 0, 32, [.p, .c, .w], false⟩
  | .DRT_TIMER => ⟨14, 0x8, 1, 0x0, 1, 0, 64, [.p, .c, .w], false⟩
  | .DRT_CC_CFG => ⟨14, 0x10, 1, 0x0, 1, 0, 64, [.p, .c, .w], false⟩
  | .DRT_SEQ => ⟨14, 0x18, 1, 0x0, 1, 0, 64, [.p, .c, .w, .d], true⟩
  | .DRT_CMD => ⟨14, 0x20, 1, 0x0, 1, 0, 64, [.p, .c, .w], false⟩
  | .DRT_CMD_DATA => ⟨14, 0x28, 6, 0x8, 1, 0, 64, [.p, .c, .w], false⟩
  | .DRT_STATUS => ⟨14, 0x60, 1, 0x0, 1, 0, 64, [.p, .c, .w], false⟩
  | .DRT_CNT => ⟨14, 0x100, 16, 0x8, 1, 0, 64, [.p, .c, .w], false⟩
  | .CPH_KEY_CMD => ⟨15, 0x0, 1, 0x0, 1, 0, 64, [.p, .c, .w], false⟩
  | .CPH_KEY_ATTR => ⟨15, 0x8, 1, 0x0, 1, 0, 64, [.p, .c, .w], false⟩
  | .CPH_KEY_USAGE => ⟨15, 0x10, 1, 0x0, 1, 0, 64, [.p, .c, .w], false⟩
  | .CPH_KEY_DATA => ⟨15, 0x20, 5, 0x8, 1, 0, 64, [.p, .c, .w], false⟩
  | .CPH_DRT_CORES => ⟨15, 0x48, 2, 0x8, 1, 0, 64, [.p, .c, .w], false⟩
  | .CPH_STATUS => ⟨15, 0x58, 1, 0x0, 1, 0, 64, [.p, .c, .w], false⟩
  | .CPH_RNG => ⟨15, 0x60, 1, 0x0, 1, 0, 64, [.p, .c, .w], false⟩
  | .CPH_CNT => ⟨15, 0x100, 8, 0x8, 1, 0, 64, [.p, .c, .w], false⟩
  | .HIF_LINK_CFG => ⟨16, 0x0, 2, 0x8, 1, 0, 32, [.p, .c, .w], true⟩
  | .HIF_PM_CFG => ⟨16, 0x10, 2, 0x8, 1, 0, 64, [.p, .c, .w], false⟩
  | .HIF_LINK_STATUS => ⟨16, 0x20, 4, 0x8, 1, 0, 32, [.p, .c, .w], false⟩
  | .HIF_FUNC_CFG => ⟨16, 0x100, 2, 0x20, 4, 8, 64, [.p, .c, .w], false⟩
  | .HIF_CNT => ⟨16, 0x200, 2, 0x100, 16, 8, 64, [.p, .c, .w], false⟩
  | .DQM_RING_SEL => ⟨27, 0x0, 1, 0x0, 1, 0, 32, [.p, .c, .w, .h, .f], false⟩
  | .DQM_RING_CTX => ⟨27, 0x8, 0, 0x0, 4, 8, 64, [.p, .c, .w, .h, .f], false⟩
  | .DQM_RING_IDX => ⟨27, 0x28, 1, 0x0, 1, 0, 64, [.p, .c, .w, .h, .f], false⟩
  | .DQM_RING_CMD => ⟨27, 0x30, 1, 0x0, 1, 0, 64, [.p, .c, .w, .h, .f], false⟩
  | .DQM_CNT => ⟨27, 0x100, 0, 0x0, 16, 8, 64, [.p, .c, .w, .h, .f], false⟩
  | .SLC_CMD => ⟨18, 0x0, 1, 0x0, 1, 0, 64, [.p, .c, .w], false⟩
  | .SLC_CMD_DATA => ⟨18, 0x8, 4, 0x8, 1, 0, 64, [.p, .c, .w], false⟩
  | .SLC_DONE => ⟨18, 0x30, 1, 0x0, 1, 0, 32, [.p, .c, .w], false⟩
  | .SLC_POOL => ⟨18, 0x40, 8, 0x8, 1, 0, 32, [.p, .c, .w], false⟩
  | .ACT_SEL => ⟨25, 0x0, 1, 0x0, 1, 0, 32, [.p, .c, .w], false⟩
  | .ACT_RULE => ⟨25, 0x8, 2, 0x8, 1, 0, 64, [.p, .c, .w], false⟩
  | .ACT_CMD => ⟨25, 0x18, 1, 0x0, 1, 0, 32, [.p, .c, .w], false⟩
  | .ACT_SEAL => ⟨25, 0x20, 1, 0x0, 1, 0, 64, [.p, .c, .w], false⟩
  | .ACT_LOG => ⟨25, 0x40, 2, 0x8, 1, 0, 64, [.p, .c, .w], false⟩
  | .ACT_LOG_POP => ⟨25, 0x50, 1, 0x0, 1, 0, 32, [.p, .c, .w], false⟩
  | .ACT_CNT => ⟨25, 0x80, 2, 0x8, 1, 0, 64, [.p, .c, .w], false⟩
  | .NVE_CTRL_CFG => ⟨19, 0x1000, 1024, 0x8, 1, 0, 64, [.p, .c, .w], false⟩
  | .NVE_NS_CMD => ⟨19, 0x0, 1, 0x0, 1, 0, 64, [.p, .c, .w], false⟩
  | .NVE_NS_DATA => ⟨19, 0x8, 4, 0x8, 1, 0, 64, [.p, .c, .w], false⟩
  | .NVE_NS_STATUS => ⟨19, 0x30, 1, 0x0, 1, 0, 64, [.p, .c, .w], false⟩
  | .NVE_BUF_STATUS => ⟨19, 0x40, 1, 0x0, 1, 0, 64, [.p, .c, .w], false⟩
  | .NVE_CNT => ⟨19, 0x100, 8, 0x8, 1, 0, 64, [.p, .c, .w], false⟩
  | .FCX_LOAD => ⟨20, 0x0, 1, 0x0, 1, 0, 64, [.p, .c, .w], false⟩
  | .FCX_STATUS => ⟨20, 0x8, 1, 0x0, 1, 0, 64, [.p, .c, .w], false⟩
  | .FCX_SYS_CORES => ⟨20, 0x10, 2, 0x8, 1, 0, 64, [.p, .c, .w], false⟩
  | .FCX_DBG_CMD => ⟨20, 0x20, 1, 0x0, 1, 0, 64, [.p, .c, .w], false⟩
  | .FCX_DBG_DATA => ⟨20, 0x28, 1, 0x0, 1, 0, 64, [.p, .c, .w], false⟩
  | .FCX_GDL => ⟨20, 0x30, 1, 0x0, 1, 0, 64, [.p, .c, .w, .d], false⟩
  | .FCX_CNT => ⟨20, 0x100, 8, 0x8, 1, 0, 64, [.p, .c, .w], false⟩
  | .FCX_CORE_STATUS => ⟨20, 0x1000, 128, 0x8, 1, 0, 64, [.p, .c, .w], false⟩
  | .FCX_MAP => ⟨20, 0x1800, 128, 0x4, 1, 0, 32, [.p, .c], false⟩
  | .FCX_THREAD => ⟨20, 0x2000, 128, 0x40, 8, 8, 64, [.p, .c, .w], false⟩
  | .PRF_LATCH => ⟨0, 0x0, 1, 0x0, 1, 0, 64, [.p, .c], false⟩
  | .PRF_CORR_LATCH => ⟨0, 0x8, 1, 0x0, 1, 0, 64, [.p, .c], false⟩
  | .PRF_STATUS => ⟨0, 0x10, 1, 0x0, 1, 0, 64, [.p, .c, .w], false⟩
  | .PRF_SLICE_LIFT => ⟨0, 0x18, 1, 0x0, 1, 0, 32, [.p, .c, .w], false⟩
  | .PRF_SL_CFG => ⟨0, 0x20, 1, 0x0, 1, 0, 32, [.p, .c, .w], true⟩
  | .PRF_SL_FEED => ⟨0, 0x28, 1, 0x0, 1, 0, 32, [.p, .c, .w], false⟩
  | .PRF_LAST_FAULT => ⟨0, 0x30, 1, 0x0, 1, 0, 64, [.p, .c, .w], true⟩
  | .PRF_LEVEL => ⟨0, 0x100, 45, 0x4, 1, 0, 32, [.p, .c, .w], true⟩
  | .PRF_REC => ⟨0, 0x200, 45, 0x8, 1, 0, 64, [.p, .c], false⟩
  | .RTH_STATUS => ⟨1, 0x0, 1, 0x0, 1, 0, 64, [.p, .c], false⟩
  | .RTH_DEGRADE => ⟨1, 0x8, 1, 0x0, 1, 0, 64, [.p, .c], false⟩
  | .RTH_ROW_CFG => ⟨1, 0x10, 1, 0x0, 1, 0, 32, [.p, .c, .w], false⟩
  | .RTH_LOG_CMD => ⟨1, 0x18, 1, 0x0, 1, 0, 32, [.p, .c, .w], false⟩
  | .RTH_LOG_DATA => ⟨1, 0x20, 2, 0x8, 1, 0, 64, [.p, .c, .w], false⟩
  | .BOOT_STATUS => ⟨2, 0x0, 1, 0x0, 1, 0, 64, [.p, .c], false⟩
  | .BOOT_VERSION => ⟨2, 0x8, 1, 0x0, 1, 0, 32, [.p, .c], false⟩
  | .BOOT_FUSE => ⟨2, 0x10, 1, 0x0, 1, 0, 64, [.p, .c, .w], false⟩
  | .BOOT_PERSIST => ⟨2, 0x18, 1, 0x0, 1, 0, 32, [.p, .c, .w], true⟩
  | .BOOT_CTL => ⟨2, 0x20, 1, 0x0, 1, 0, 32, [.p, .c, .w], false⟩
  | .BOOT_MEAS_CMD => ⟨2, 0x28, 1, 0x0, 1, 0, 32, [.p, .c, .w], false⟩
  | .BOOT_MEAS_DATA => ⟨2, 0x30, 8, 0x8, 1, 0, 64, [.p, .c, .w], false⟩
  | .UPD_CMD => ⟨3, 0x0, 1, 0x0, 1, 0, 64, [.p, .c, .w], false⟩
  | .UPD_ARG => ⟨3, 0x8, 1, 0x0, 1, 0, 64, [.p, .c, .w], false⟩
  | .UPD_STATUS => ⟨3, 0x10, 1, 0x0, 1, 0, 64, [.p, .c, .w], false⟩
  | .UPD_NONCE => ⟨3, 0x18, 1, 0x0, 1, 0, 64, [.p, .c, .w], false⟩
  | .ODF_CFG => ⟨22, 0x0, 1, 0x0, 1, 0, 64, [.p, .c, .w], true⟩
  | .ODF_STATUS => ⟨22, 0x8, 1, 0x0, 1, 0, 64, [.p, .c, .w], false⟩
  | .ODF_LINK_STATUS => ⟨22, 0x10, 2, 0x8, 1, 0, 32, [.p, .c, .w], false⟩
  | .ODF_CMD => ⟨22, 0x20, 1, 0x0, 1, 0, 64, [.p, .c, .w], false⟩
  | .ODF_REC_CFG => ⟨22, 0x28, 4, 0x8, 1, 0, 64, [.p, .c, .w], false⟩
  | .ODF_MEMBER_REC => ⟨22, 0x100, 4, 0x40, 8, 8, 64, [.p, .c, .w], false⟩
  | .ODF_CNT => ⟨22, 0x200, 8, 0x8, 1, 0, 64, [.p, .c, .w], false⟩
  | .PWR_STATUS => ⟨23, 0x0, 1, 0x0, 1, 0, 64, [], false⟩
  | .PWR_HOST_CTL => ⟨23, 0x10, 1, 0x0, 1, 0, 32, [.p, .c, .w], false⟩
  | .MGT_ETH_MAC => ⟨24, 0x400, 1, 0x0, 1, 0, 64, [.p, .c, .w], false⟩
  | .MGT_ETH_CFG => ⟨24, 0x408, 1, 0x0, 1, 0, 32, [.p, .c, .w], false⟩
  | .MGT_ETH_STATUS => ⟨24, 0x410, 1, 0x0, 1, 0, 32, [.p, .c, .w], false⟩
  | .MGT_ETH_RX => ⟨24, 0x418, 1, 0x0, 1, 0, 32, [.p, .c, .w], false⟩
  | .MGT_ETH_TX => ⟨24, 0x420, 1, 0x0, 1, 0, 32, [.p, .c, .w], false⟩
  | .MGT_ETH_CNT => ⟨24, 0x440, 8, 0x8, 1, 0, 64, [.p, .c, .w], false⟩
  | .PWR_THERM => ⟨23, 0x20, 1, 0x0, 1, 0, 64, [], false⟩
  | .X_BLK_ID => ⟨0, 0x0, 26, 0x0, 1, 0, 64, [.p, .c, .w], false⟩
  | .X_BLK_STATUS => ⟨0, 0x8, 26, 0x0, 1, 0, 64, [.p, .c, .w], false⟩
  | .X_BLK_ERR_CTL => ⟨0, 0x10, 26, 0x0, 1, 0, 64, [.p, .c, .w], false⟩
  | .X_BLK_ERR_CNT => ⟨0, 0x18, 26, 0x0, 1, 0, 64, [.p, .c, .w], false⟩
  | .MODE_STATE => ⟨24, 0x0, 1, 0x0, 1, 0, 32, [.p, .c, .w], false⟩
  | .MGT_MODULE_ID => ⟨24, 0x10, 1, 0x0, 1, 0, 64, [.p, .c, .w], false⟩
  | .MGT_SERIAL => ⟨24, 0x18, 1, 0x0, 1, 0, 64, [.p, .c, .w], false⟩
  | .MGT_MEMBER_SEL => ⟨24, 0x200, 32, 0x8, 1, 0, 32, [.p, .c, .w], false⟩

/-- The factory levels of PRF_LEVEL (R429, Table 15-1). -/
def prfLevelReset (s : Nat) : Nat :=
  if s = 2 then 0xB200
  else if s = 3 ∨ s = 4 then 0x1210
  else if s = 35 ∨ s = 36 ∨ s = 37 ∨ s = 41 ∨ s = 43 then 0xB210
  else if s = 40 then 0xC210
  else 0x3210

/-- The module pools of Table 12-1, in the order of SLC_POOL[k]. -/
def slcPoolSize (k : Nat) : Nat :=
  match k with
  | 0 => 65536
  | 1 => 65536
  | 2 => 32768
  | 3 => 131072
  | 4 => 65536
  | 5 => 1048576
  | 6 => 16384
  | 7 => 16384
  | _ => 0

/-- The size in bytes, as a power of two, of a block's range (Table 19-1). -/
def blockSizeLog2 (k : Nat) : Nat := if k = 4 ∨ k = 17 then 17 else if k = 5 then 18 else 16

/-- The reset value of a register, where it is one number for every index. -/
def Reg.resetConst : Reg → Nat
  | .MGT_START_CFG => 0x800
  | .PWR_RESET_CTRL => 0x1
  | .PWR_RESET_CAUSE => 0xFF000002
  | .TSV_SERVO => 0xFFFFFFFF
  | .TSV_SET_SEC => 0xFFFF000000000000
  | .TSV_REF_SEL => 0x100
  | .TSV_PPS_CFG => 0x8000FFFF000186A0
  | .TSV_SNAP_NS => 0xFFFF
  | .TSV_SNAP_UNC => 0xFFFFFFFF
  | .TSV_TPG_MULT => 0x100000000
  | .EML_HASH_SEED => 0x7B1D04C952E8A3F6
  | .FLT_HASH_SEED => 0x19F46CA2D83B507E
  | .EML_LEARN_CFG => 0x8000000000000558
  | .EML_MEMBER_CFG => 0x8000000000002000
  | .TMG_AGE => 0x2710
  | .TMG_BUF_CFG => 0x80004000
  | .MAC_PORT_CFG => 0x80002416
  | .MAC_IMP_CFG => 0x60000003E8
  | .MAC_LPI_CFG => 0x1400A
  | .MAC_LANE_MAP => 0x76543210
  | .DRT_CFG => 0x4C2DC
  | .DRT_TIMER => 0x803E8280320140
  | .DRT_CC_CFG => 0x13880640C80FA000
  | .DRT_STATUS => 0x40
  | .CPH_KEY_ATTR => 0xC000000100000000
  | .HIF_LINK_CFG => 0x30
  | .HIF_PM_CFG => 0x10000A193C0064
  | .PRF_SL_CFG => 0x8000000A
  | .PRF_LAST_FAULT => 0xFC00000000000000
  | .RTH_ROW_CFG => 0x4000018
  | .BOOT_STATUS => 0xA0A0A000000
  | .ODF_CFG => 0x400003E800000080
  | .PWR_HOST_CTL => 0x52C
  | .MGT_ETH_CFG => 0x80000000
  | .PWR_THERM => 0x6400
  | _ => 0

/-- The reset value of a register (its header's Reset value, by index and fuse contents where it says so). The values
that the spec leaves to the factory, the fuses or the live hardware are those of notes/assumptions. -/
def Reg.resetVal (fu : Fuse) (r : Reg) (i j : Nat) : Word :=
  match r with
  | .TSV_HOLD_MODEL => if fu.grade = 2 then 0x01AD7F0A10280019 else 0x01AD7F0A17D04A38
  | .TMG_OUT_CFG => if i < 8 then 0x14 else 0
  | .TMG_POL_CFG => if i = 0 then 0xC00 else 0
  | .HIF_FUNC_CFG => if j = 0 then 0x800005B000000000 else 0x000005B000000000
  | .X_AGE_CFG => if i = 0 then 0x400493E0 else 0
  | .X_BLK_ID => BitVec.ofNat 64 (i * 2 ^ 56 + blockSizeLog2 i * 2 ^ 48 + 2 ^ 32)
  | .PRF_LEVEL => BitVec.ofNat 64 (prfLevelReset i)
  | .SLC_POOL => BitVec.ofNat 64 (slcPoolSize i)
  | .FCX_MAP => BitVec.ofNat 64 i
  | .BOOT_FUSE => BitVec.ofNat 64 ((if fu.orderLock then 2 ^ 63 else 0) + fu.order % 8 * 2 ^ 60
      + fu.rollback % 64 * 2 ^ 48 + fu.keyRevoked % 256 * 2 ^ 40 + fu.keyPresent % 256 * 2 ^ 32)
  | .MGT_ETH_MAC => BitVec.ofNat 64 (fu.mac % 2 ^ 48)
  | .MGT_MODULE_ID => BitVec.ofNat 64 (0x8640 * 2 ^ 48 + fu.grade % 256 * 2 ^ 40 + fu.stepping % 256 * 2 ^ 32)
  | .MGT_SERIAL => fu.serial
  | .UPD_NONCE => BitVec.ofNat 64 Config.firstNonce
  | .PWR_STATUS => 0x8000000000000000
  | .PWR_THERM => 0x0000000000806400
  | r => BitVec.ofNat 64 r.resetConst

/-- Register names, part 0 of the list. -/
def allRegs0 : List Reg :=
  [.MGT_MODE_REQ, .MGT_START_CFG, .PWR_RESET_CTRL, .PWR_RESET_CAUSE, .TSV_RATE, .TSV_STATE, .TSV_HOLD_MODEL, .TSV_SERVO, .TSV_ADJ, .TSV_SET_SEC, .TSV_REF_SEL, .TSV_PORT_CAL, .TSV_PPS_CFG, .TSV_SNAP_SEC, .TSV_SNAP_NS, .TSV_SNAP_UNC, .TSV_MIRROR, .TSV_ISLAND_RESET, .TSV_TPG_ADDR, .TSV_TPG_MULT, .TSV_TPG_OFFSET, .TSV_TPG_CTL, .FRM_CMD, .FRM_STATE, .FRM_REF, .FRM_TAGGED, .FRM_SLOT_ID, .FRM_DROP, .PAR_EXC_CNT, .EML_HASH_SEED, .FLT_HASH_SEED, .X_CMD, .X_CMD_DATA, .X_AGE_CFG, .EML_LEARN_CFG, .EML_MEMBER_CFG, .FLT_LEARN_CFG, .FLT_LEARN_PROFILES, .X_CNT, .FLT_PART, .TMG_EPOCH, .TMG_NODE_ADDR]
/-- Register names, part 1 of the list. -/
def allRegs1 : List Reg :=
  [.TMG_NODE_CFG, .TMG_NODE_STAT, .TMG_AGE, .TMG_BUF_CFG, .TMG_GATE, .TMG_OUT_CFG, .TMG_POL_CMD, .TMG_POL_CFG, .TMG_DROP, .MAC_CAGE_CFG, .MAC_PORT_CFG, .MAC_CNT, .MAC_PORT_STATUS, .MAC_IMP_CFG, .MAC_IMP_BASE, .MAC_IMP_CYCLE, .MAC_IMP_CMD, .MAC_IMP_STATUS, .MAC_IMP_ENTRY, .MAC_LPI_CFG, .MAC_LANE_MAP, .DRT_CFG, .DRT_TIMER, .DRT_CC_CFG, .DRT_SEQ, .DRT_CMD, .DRT_CMD_DATA, .DRT_STATUS, .DRT_CNT, .CPH_KEY_CMD, .CPH_KEY_ATTR, .CPH_KEY_USAGE, .CPH_KEY_DATA, .CPH_DRT_CORES, .CPH_STATUS, .CPH_RNG, .CPH_CNT, .HIF_LINK_CFG, .HIF_PM_CFG, .HIF_LINK_STATUS, .HIF_FUNC_CFG, .HIF_CNT]
/-- Register names, part 2 of the list. -/
def allRegs2 : List Reg :=
  [.DQM_RING_SEL, .DQM_RING_CTX, .DQM_RING_IDX, .DQM_RING_CMD, .DQM_CNT, .SLC_CMD, .SLC_CMD_DATA, .SLC_DONE, .SLC_POOL, .ACT_SEL, .ACT_RULE, .ACT_CMD, .ACT_SEAL, .ACT_LOG, .ACT_LOG_POP, .ACT_CNT, .NVE_CTRL_CFG, .NVE_NS_CMD, .NVE_NS_DATA, .NVE_NS_STATUS, .NVE_BUF_STATUS, .NVE_CNT, .FCX_LOAD, .FCX_STATUS, .FCX_SYS_CORES, .FCX_DBG_CMD, .FCX_DBG_DATA, .FCX_GDL, .FCX_CNT, .FCX_CORE_STATUS, .FCX_MAP, .FCX_THREAD, .PRF_LATCH, .PRF_CORR_LATCH, .PRF_STATUS, .PRF_SLICE_LIFT, .PRF_SL_CFG, .PRF_SL_FEED, .PRF_LAST_FAULT, .PRF_LEVEL, .PRF_REC, .RTH_STATUS]
/-- Register names, part 3 of the list. -/
def allRegs3 : List Reg :=
  [.RTH_DEGRADE, .RTH_ROW_CFG, .RTH_LOG_CMD, .RTH_LOG_DATA, .BOOT_STATUS, .BOOT_VERSION, .BOOT_FUSE, .BOOT_PERSIST, .BOOT_CTL, .BOOT_MEAS_CMD, .BOOT_MEAS_DATA, .UPD_CMD, .UPD_ARG, .UPD_STATUS, .UPD_NONCE, .ODF_CFG, .ODF_STATUS, .ODF_LINK_STATUS, .ODF_CMD, .ODF_REC_CFG, .ODF_MEMBER_REC, .ODF_CNT, .PWR_STATUS, .PWR_HOST_CTL, .MGT_ETH_MAC, .MGT_ETH_CFG, .MGT_ETH_STATUS, .MGT_ETH_RX, .MGT_ETH_TX, .MGT_ETH_CNT, .PWR_THERM, .X_BLK_ID, .X_BLK_STATUS, .X_BLK_ERR_CTL, .X_BLK_ERR_CNT, .MODE_STATE, .MGT_MODULE_ID, .MGT_SERIAL, .MGT_MEMBER_SEL]
/-- Every register name, for reading the map by address. -/
def allRegs : List Reg := allRegs0 ++ allRegs1 ++ allRegs2 ++ allRegs3

/-- The base of a block's range in the management window (R519). -/
def blockBase (k : Nat) : Nat := 0x100000 * (k + 1)

/-- The common base of a block (R524). -/
def blockCommonBase (k : Nat) : Nat := blockBase k + 2 ^ blockSizeLog2 k - 0x100

/-- Is this an index pair that the register has? Function-window and time-page registers take the function as first
index, and the age registers exist for EML and FLT only. -/
def Reg.hasIndex (r : Reg) (i j : Nat) : Bool :=
  match r with
  | .X_AGE_CFG => decide ((i = 0 ∨ i = 3) ∧ j = 0)
  | .TSV_SNAP_SEC => decide (i < 42 ∧ j = 0)
  | .TSV_SNAP_NS => decide (i < 42 ∧ j = 0)
  | .TSV_SNAP_UNC => decide (i < 42 ∧ j = 0)
  | r => decide ((i < r.row.n0 ∨ 26 ≤ r.row.block) ∧ j < r.row.n1)

/-- The offset of a register in the management window (R519, R524). -/
def Reg.windowOffset (r : Reg) (i j : Nat) : Nat :=
  match r with
  | .X_BLK_ID => blockCommonBase i
  | .X_BLK_STATUS => blockCommonBase i + 0x08
  | .X_BLK_ERR_CTL => blockCommonBase i + 0x10
  | .X_BLK_ERR_CNT => blockCommonBase i + 0x18
  | r => blockBase r.row.block + r.row.offset + i * r.row.s0 + j * r.row.s1

/-- The key of a register and its indices in the register table. -/
def Reg.key (r : Reg) (i j : Nat) : Nat := (r.ctorIdx * 4096 + i) * 4096 + j

end Sys2Proof.Machine
end

