-- ==== Sys2Proof/Machine/Tab.lean ====
section
/-! DEFINITION. The one sparse table of the model: a list of (key, value) pairs with strictly rising keys. Registers,
memory and every block's records are held in it, so that equal contents are equal data. -/

namespace Sys2Proof.Machine

/-- A sparse table: pairs of a key and a value, keys strictly rising (`Tab.Sorted`). -/
abbrev Tab (α : Type) := List (Nat × α)

/-- The value at a key, if the table lists one. -/
def Tab.look {α : Type} : List (Nat × α) → Nat → Option α
  | [], _ => none
  | (k, v) :: t, q => if q = k then some v else if q < k then none else Tab.look t q

/-- The table with a value put at a key, in its place in the order. -/
def Tab.put {α : Type} : List (Nat × α) → Nat → α → List (Nat × α)
  | [], q, x => [(q, x)]
  | (k, v) :: t, q, x =>
    if q = k then (k, x) :: t else if q < k then (q, x) :: (k, v) :: t else (k, v) :: Tab.put t q x

/-- The table with a key no longer listed. -/
def Tab.del {α : Type} : List (Nat × α) → Nat → List (Nat × α)
  | [], _ => []
  | (k, v) :: t, q => if q = k then t else if q < k then (k, v) :: t else (k, v) :: Tab.del t q

/-- The value at a key, `d` where none is listed. -/
def Tab.getD {α : Type} (d : α) (t : List (Nat × α)) (k : Nat) : α := (Tab.look t k).getD d

/-- The table with `v` at a key, in the form that never lists the default `d`. -/
def Tab.setD {α : Type} [DecidableEq α] (d : α) (t : List (Nat × α)) (k : Nat) (v : α) : List (Nat × α) :=
  if v = d then Tab.del t k else Tab.put t k v

/-- The listed keys, from the lowest. -/
def Tab.keys {α : Type} (t : List (Nat × α)) : List Nat := t.map Prod.fst

/-- Is the key listed? -/
def Tab.has {α : Type} (t : List (Nat × α)) (k : Nat) : Bool := (Tab.look t k).isSome

/-- The table with the listed value at a key changed by `f`; unchanged where none is listed. -/
def Tab.modify {α : Type} (t : List (Nat × α)) (k : Nat) (f : α → α) : List (Nat × α) :=
  t.map fun p => if p.1 = k then (p.1, f p.2) else p

/-- The table with every listed value changed by `f`. -/
def Tab.mapVals {α : Type} (t : List (Nat × α)) (f : Nat → α → α) : List (Nat × α) := t.map fun p => (p.1, f p.1 p.2)

/-- The table with only the pairs that `p` keeps. -/
def Tab.keep {α : Type} (t : List (Nat × α)) (p : Nat → α → Bool) : List (Nat × α) := t.filter fun q => p q.1 q.2

/-- How many listed pairs `p` holds of. -/
def Tab.count {α : Type} (t : List (Nat × α)) (p : Nat → α → Bool) : Nat := (t.filter fun q => p q.1 q.2).length

/-- The lowest of `n` keys, counted from `k`, that is not listed. -/
def Tab.freeKey {α : Type} (t : List (Nat × α)) (k : Nat) : Nat → Option Nat
  | 0 => none
  | n + 1 => if Tab.has t k then Tab.freeKey t (k + 1) n else some k

/-- Keys strictly rise: the canonical form of a table. -/
def Tab.sorted {α : Type} : List (Nat × α) → Bool
  | [] => true
  | [_] => true
  | (k, _) :: (k', v') :: t => decide (k < k') && Tab.sorted ((k', v') :: t)

/-- No listed value equals the default. -/
def Tab.noDefault {α : Type} [DecidableEq α] (d : α) (t : List (Nat × α)) : Bool := t.all fun p => decide (p.2 ≠ d)

end Sys2Proof.Machine
end

