-- ==== Sys2Proof/Machine/State.lean ====
section
/-! DEFINITION. The state of the module, its reset value, and the reasons a step can stop. Registers live in one table;
what the spec gives a block beyond its registers stands in one record per block. -/

namespace Sys2Proof.Machine

/-- Why a step stops with a fault. The spec describes no command that stops the module. -/
inductive Fault where
  /-- Raised by nothing: every command of the table answers a next state, so that no access of a place that is absent stops a
  run (safe). -/
  | absent
deriving DecidableEq, Repr

/-- Why a step is refused. -/
inductive Refusal where
  /-- Raised by the dispatcher for a command that has no meaning yet; safe, because the machine stops. -/
  | notModelled (mnemonic : String)
deriving DecidableEq, Repr

/-! ### Modes and resets (spec/02) -/

/-- What triggered a mode request (R49). -/
inductive ReqTrigger where
  | firmware
  | claim (o : Origin)
  | release (o : Origin)
  | standbyEntry
  | standbyExit
  | safeHoldExit
  | cascade
deriving DecidableEq, Repr

/-- A mode request being prepared (R48, R49): its trigger, the mode it started from, its target and its start. -/
structure ModeReq where
  trigger : ReqTrigger
  source : Nat
  target : Nat
  started : Nat
deriving DecidableEq, Repr

/-- A reset that is asserted or waits for its flush (R59, R62): its kind, the PWR_RESET_CAUSE bit it sets, its start. -/
structure RstReq where
  kind : RstKind
  cause : Option Nat
  started : Nat
deriving DecidableEq, Repr

/-- Where the module stands between the release of a reset and service (R59, R462, R467): the Retouch self-test, the ROM
choosing and receiving an image, the image handed over to, and service. -/
inductive BootPhase where
  | selfTest | rom | handedOver | service
deriving DecidableEq, Repr

/-- Mode control and reset sequencing beyond the registers; `hostPush` says that the ROM waits for a host push (R305). -/
structure ModeSt where
  phase : BootPhase
  req : Option ModeReq
  heldStandby : Option Bool
  pwrGood : Bool
  pwrSince : Nat
  debounced : Bool
  mramClosed : Bool
  asserted : Option RstReq
  dReset : Option RstReq
  flush : Option RstReq
  hostPowerRecord : Bool
  hostPush : Bool
deriving DecidableEq, Repr

/-! ### Proofreader and Retouch (spec/15) -/

/-- One entry of the repair log (Table 15-7). -/
structure RepairEntry where
  kind : Nat
  state : Nat
  origin : Nat
  spare : Nat
  unit : Nat
  row : Nat
  time : Nat
deriving DecidableEq, Repr

/-- Proofreader and Retouch state beyond the registers: events waiting on each source (R424), standing faults (R433),
contained slices (R434), the Safelight (R436–R438: `slTimedOut` that the feed timeout has expired since the last feed), the
times of the corrected events of tracked rows (R449), the repair log in MRAM, the physical units known to have failed, the
maps of logical to physical units that differ from the identity (R446; kind × 65536 + logical, 65535 for none), spare rows
used by macro section, run-time failures that wait for a reset, and when the self-test last ended. -/
structure PrfSt where
  places : Tab (List ErrEvent)
  standing3 : List Nat
  standing4 : List (Nat × Bool)
  contained : List Nat
  slExpect : Nat
  slLastFeed : Option Nat
  slWrong : Bool
  slTimedOut : Bool
  slValidFeed : Bool
  slLevel : Bool
  slBoundary : Nat
  tracked : Tab (List Nat)
  log : Tab RepairEntry
  failedUnits : List (Nat × Nat)
  unitMap : Tab Nat
  rowSpares : Tab Nat
  dueUnits : List (Nat × Nat)
  testedAt : Option Nat
deriving DecidableEq, Repr

/-! ### PCIe endpoints (spec/10) -/

/-- One MSI-X table entry or interrupt message store entry (R297, R298). -/
structure MsgEntry where
  addr : Nat
  data : Nat
  mask : Bool
  pasid : Bool
deriving DecidableEq, Repr

/-- The personalities of Table 10-1. -/
inductive Personality where
  | native | nvme | mgmtOnly | virtioNet | recovery
deriving DecidableEq, Repr

/-- The configuration space and BAR4 state of one function, as far as the module acts on it (R290–R302, R307), and
DEVICE_NEEDS_RESET of a virtio device (R291). -/
structure FnSt where
  personality : Personality
  pages : Nat
  msixEntries : Nat
  totalVfs : Nat
  vfPersonality : Personality
  vfMsix : Nat
  numVfs : Nat
  vfEnable : Bool
  memorySpace : Bool
  busMaster : Bool
  pasidEnable : Bool
  d3 : Bool
  msixEnable : Bool
  msixMask : Bool
  msiEnable : Bool
  msiCount : Nat
  msiMask : Nat
  msix : Tab MsgEntry
  pendingVecs : List Nat
  cplTimeout : Nat
  aerUncor : Nat
  aerCor : Nat
  aerUncorMask : Nat
  aerCorMask : Nat
  aerSeverity : Nat
  windows : Tab (Bool × Bool × Nat × Nat)
  doe : List Nat
  needsReset : Bool
deriving DecidableEq, Repr

/-- One endpoint e = 2 × link + half (R288): idle since when, the enables of ASPM L1, its substates L1.1 and L1.2, L0p and
LTR, the trained width, the end of its L0p window, whether LTR last reported unserved work, whether the downstream port
takes Device Readiness Status, and the requests held by R301. -/
structure EpSt where
  present : Bool
  idleSince : Nat
  l1Enable : Bool
  l11 : Bool
  l12 : Bool
  l0pEnable : Bool
  l0pEnd : Nat
  trainedWidth : Nat
  ltrEnable : Bool
  ltrBusy : Bool
  drs : Bool
  heldRequests : Nat
deriving DecidableEq, Repr

/-- Host interface state beyond the registers: functions by initiator identifier (Table 12-7), endpoints. -/
structure HifSt where
  fns : Tab FnSt
  eps : Tab EpSt
  aerHeaderLog : Tab (List Nat)
deriving DecidableEq, Repr

/-! ### The time island and host time (spec/03) -/

/-- The time island beyond the registers. Counters are in units of 2^-40 ns and stood so at TCLK number `anchor`
(R70); `slewLeft` is unspent slew. FREERUN is described by `setAt`, `uSet` (ns) and `freeS`, ACQUIRING by the state it
came from and `acqS`, HOLDOVER by `holdAt`, `uEntry` (0.25 ns), `holdS`, the temperature at entry and since when it has been
exceeded (R74, R78; sums of magnitudes in 2^-40 ns, temperatures in 1/1000 °C). `uRef` is the held U_ref (R76), `snapTime` and `snapUnc` the
published snapshot (R96), `replicas` the time replicas out of alignment (R87; ports 0–7, links 8–9). -/
structure IslandSt where
  anchor : Nat
  ctrA : Nat
  ctrB : Nat
  slewLeft : Int
  slewStep : Nat
  baseRate : Int
  setAt : Nat
  uSet : Option Nat
  freeS : Nat
  wasSet : Bool
  servoAt : Nat
  beatAt : Nat
  acqFrom : Nat
  acqS : Nat
  holdAt : Nat
  uEntry : Option Nat
  holdS : Nat
  holdTemp : Int
  holdExc : Option Nat
  temp : Int
  slews : List (Nat × Nat)
  setArmed : Bool
  ppsRun : Nat
  ppsLast : Option Nat
  ppsCentre : Nat
  ppsMissed : Nat
  ppsQueue : List (Nat × Bool)
  ppsUntil : Tab Nat
  uRef : Option Nat
  uAt : Nat
  snapTime : Nat
  snapUnc : Option Nat
  replicas : List Nat
deriving DecidableEq, Repr

/-- The PTM relation of a link (R90, R93): the last 16 pairs of master and island time, the last dialogue, the bound of
the fit in 0.25 ns, and whether a dialogue completed within 100 ms. -/
structure PtmSt where
  enabled : Bool
  pairs : List (Nat × Nat)
  last : Nat
  term : Nat
  valid : Bool
deriving DecidableEq, Repr

/-- A registered time page (R92, R94): its seq, and the 64 bytes last written, which the mirror in BAR4 shows. -/
structure TimePage where
  seq : Nat
  content : List Byte
  nextAt : Nat
deriving DecidableEq, Repr

/-! ### Rings (spec/11) -/

/-- The states of a ring, coded as DQM_RING_CMD.state. -/
inductive RingState where
  | disabled | running | stopped | draining
deriving DecidableEq, Repr

/-- One ring (R312–R335). `fetched` lists entries fetched and not yet completed by index; `rxBufs` are the unused
receive buffers (index, address, length); `stash` holds at most 16 completions and `unitHeld` those that wait in the
units behind it (R330); `held` holds events (R333). -/
structure Ring where
  cls : Nat
  fn : Nat
  slice : Option Nat
  localNo : Nat
  kind : Nat
  cq : Nat
  base : Nat
  line : Nat
  size : Nat
  doorbell : Nat
  st : RingState
  modIdx : Nat
  hostIdx : Nat
  cWritten : Nat
  cWriteAt : Nat
  rung : Bool
  lineRead : Bool
  reads : Nat
  fetched : List (Nat × List Byte)
  posted : List (Nat × List Byte)
  rxBufs : List (Nat × Nat × Nat)
  stash : List (List Byte × Bool)
  unitHeld : List (List Byte × Bool)
  stalled : Bool
  held : List (Nat × Ev)
  lost : Nat
  evSeq : Nat
  stopStatus : Nat
  stopIndex : Nat
  irqEn : Bool
  useStore : Bool
  vector : Nat
  modCount : Nat
  modTime : Nat
  armed : Bool
  unsig : Nat
  oldest : Nat
  irqDue : Bool
deriving DecidableEq, Repr

/-! ### Slices and access tables (spec/12) -/

/-- The states of a slice (Table 12-2). -/
inductive SliceState where
  | free | stopped | running | resetting | removing
deriving DecidableEq, Repr

/-- A running reset sequence of a slice (R350): its step (6: absorbed into an F or H reset, R352), its start, the blocks that
have reported drained, the last report, and whether a block met an uncorrectable word. -/
structure SliceSeq where
  step : Nat
  t0 : Nat
  drained : List Nat
  lastReport : Nat
  degraded : Bool
deriving DecidableEq, Repr

/-- One slice: its binding (R340), quotas and use by resource (Table 12-1), its 8 DMA windows (R348; valid as listed,
then read, write, first and last page), its interrupt message store (R298) and its sequence. -/
structure SliceRec where
  st : SliceState
  fn : Nat
  localNo : Nat
  pasid : Nat
  sqRings : Nat
  cqRings : Nat
  keySlots : Nat
  endpoints : Nat
  regions : Nat
  queues : Nat
  fltEntries : Nat
  bufferKib : Nat
  bw : Nat
  windows : Tab (Bool × Bool × Nat × Nat)
  store : Tab MsgEntry
  storePending : List Nat
  seq : Option SliceSeq
  badWord : Bool
deriving DecidableEq, Repr

/-- One record of the denial log (R359, ACT_LOG). -/
structure Denial where
  kind : Nat
  window : Bool
  target : Nat
  init : Nat
  rule : Nat
  slice : Nat
  addr : Nat
deriving DecidableEq, Repr

/-- Slice and access-table state beyond the registers. `rules` lists the rules that differ from Table 12-9, keyed
target × 32 + rule; `badRules` are rules whose word is uncorrectable (R363). -/
structure SlcSt where
  slices : Tab SliceRec
  done : List (Nat × Bool × Nat)
  rules : Tab (Word × Word)
  badRules : List Nat
  denials : List Denial
deriving DecidableEq, Repr

/-! ### Packets, formes and tables (spec/04, spec/05) -/

/-- A resolved action, the fields of Table 4-10. -/
structure Act where
  final : Bool
  classSet : Bool
  cls : Nat
  colourSet : Bool
  colour : Nat
  queueMode : Nat
  queue : Nat
  kind : Nat
  dest : Nat
  meter : Bool
  policer : Nat
  rewrite : Nat
  encap : Nat
  fltReq : Bool
  fltProfile : Nat
  mirror : Bool
  session : Nat
  metaSet : Bool
  pmeta : Nat
  operand : Nat
deriving DecidableEq, Repr

/-- What is known of how a frame ended (R199, R200): still arriving, good, failed its FCS, or shorter than it claimed. -/
inductive EndSt where
  | arriving | good | badFcs | late
deriving DecidableEq, Repr

/-- One packet (R100). `bytes` is the frame without FCS, `flen` its frame length with it, `flim` what the parser
compares against (F_len, R114, R200). `hold` says that it counts in FRM_REF. `stamp` is the receive time and
uncertainty, `enqAt` its first enqueue, `launch` a launch time in ns (R212), `tx` the ring entry that waits for its
launch (R325), `cookie` the flow entry's cookie, `pipe` the ingress pipeline of its pass, `early` that it was handed
over before its end (R200), `due` when its present stage ends, `q` and `outp` the queue and output of its pass, `oneStep`
the offset of a one-step timestamp (R204), `far` that it came over an Odfer link (R493). -/
structure Pkt where
  bytes : List Byte
  flen : Nat
  flim : Nat
  src : Nat
  port : Nat
  pass : Nat
  forme : Nat
  hold : Bool
  trunc : Bool
  ended : EndSt
  claimed : Nat
  cls : Nat
  colour : Nat
  pmeta : Nat
  stamp : Nat × Nat
  enqAt : Option Nat
  act : Act
  launch : Option Nat
  tx : Option (Nat × Nat × Bool)
  cookie : Nat
  pipe : Nat
  spilled : Bool
  early : Bool
  due : Nat
  q : Nat
  outp : Nat
  oneStep : Option Nat
  far : Bool
deriving DecidableEq, Repr

/-- A loaded forme (Table 4-12). `bridge` marks the factory content of the standalone forme (R54), which no image
can express. -/
structure FormeImg where
  nodes : List Nat
  trans : List Nat
  profiles : List (List Nat)
  defaults : List Nat
  bridge : Bool
deriving DecidableEq, Repr

/-- A running settle or discard sweep (R106, Table 4-3): its number, its kind, its start and end in FCLK. -/
structure Sweep where
  num : Nat
  discard : Bool
  start : Nat
  ends : Nat
deriving DecidableEq, Repr

/-- Formes beyond the registers: live numbers from the oldest (R99), slot contents, numbers discarded or settled, sweeps
waiting and running, a lock-up in its check step since an instant, and the standalone forme in MRAM. -/
structure FrmSt where
  order : List Nat
  slots : Tab FormeImg
  discarded : List Nat
  settled : List Nat
  waiting : List (Nat × Bool)
  sweep : Option Sweep
  lockup : Option (Origin × Nat)
  installing : Bool
  standalone : FormeImg
deriving DecidableEq, Repr

/-- A write in the pending-write store (R36): position, the image before it, when it entered, the replicas not yet
written, and the last replica write. -/
structure PendW where
  pos : Nat
  old : Nat
  at_ : Nat
  left : List Nat
  last : Nat
deriving DecidableEq, Repr

/-- A table command held while a D reset stands (R158), or taken. -/
structure TblReq where
  op : Nat
  table : Nat
  expect : Nat
  evict : Bool
  forme : Nat
  newVis : Nat
  newVf : Nat
  pos : Nat
  image : Nat
  addr : Option Nat
  slice : Option Nat
  limited : Bool
  origin : Origin
deriving DecidableEq, Repr

/-- One learn event (R151, R157): key, source, and the cascade member it came from. -/
structure LearnEv where
  key : Nat
  src : Nat
  cas : Nat
deriving DecidableEq, Repr

/-- The lookup tables. An entry is its image with one bit above it that says hardware learning counts it (R155).
Keys are the positions of Table 5-7. `idle` is the FLT activity array, `bad` lists words that fail their check as
table, position and word. -/
structure TblSt where
  eml : Tab Nat
  lpm : Tab Nat
  rul : Tab Nat
  act : Tab Nat
  flt : Tab Nat
  idle : Tab Nat
  bad : List (Nat × Nat × Nat)
  pend : List PendW
  recent : List (Nat × Nat × Nat)
  lfsrE : Nat
  lfsrF : Nat
  emlFifo : List LearnEv
  fltFifo : List LearnEv
  emlNotes : List (Nat × Nat × Nat)
  fltNotes : List (Nat × Nat × Nat)
  held : List TblReq
  ageE : Nat
  ageF : Nat
  holdAt : Nat
deriving DecidableEq, Repr

/-! ### Traffic manager (spec/06) -/

/-- A node record (Table 6-3). -/
structure NodeRec where
  w0 : Word
  w1 : Word
  w2 : Word
  w3 : Word
deriving DecidableEq, Repr

/-- A node's running state: committed and peak bucket levels (2^-20 B) with their last refill in FCLK, start tag, last
finish tag, whether it was a candidate when last judged, and whether its record is uncorrectable (R190). -/
structure NodeRun where
  cl : Int
  ct : Nat
  pl : Int
  pt : Nat
  tagS : Nat
  tagF : Nat
  cand : Bool
  bad : Bool
deriving DecidableEq, Repr

/-- A policer: its two register words, bucket levels and their last refills (R171). -/
structure PolSt where
  w0 : Word
  w1 : Word
  c : Int
  ct : Nat
  e : Int
  et : Nat
deriving DecidableEq, Repr

/-- The traffic manager: live and shadow epochs by level × 2^18 + index, running state, virtual times by node and band,
policers, the output each egress pipeline served last and when it selected, and an epoch request validating since an instant
(R180, R182). -/
structure TmSt where
  live : Tab NodeRec
  shadow : Tab NodeRec
  run : Tab NodeRun
  vt : Tab Nat
  pols : Tab PolSt
  lastOut : Tab Nat
  selAt : Tab Nat
  epochAt : Option Nat
deriving DecidableEq, Repr

/-! ### Ports (spec/07) -/

/-- A gate schedule (R205): entries of gates and duration, base and cycle in ns. -/
structure Imp where
  entries : List (Nat × Nat)
  base : Nat
  cycle : Nat
deriving DecidableEq, Repr

/-- A port beyond its registers: the packet arriving, the max_len in force for it (R202) and its bytes so far, when its transmitter is
free, its operational and pending schedules (with T), a copy in progress, from when the operational schedule
governs its gates (`none`: at once) and whether they are closed until then (R210), its LPI state (0 active, 1 LPI, 2 waking)
with the times that drive it. -/
structure PortSt where
  rx : Option Nat
  rxMax : Nat
  rxBytes : List Byte
  txFree : Nat
  op : Option Imp
  pend : Option (Imp × Nat)
  copyAt : Option Nat
  startAt : Option Nat
  closed : Bool
  lpi : Nat
  lpiAt : Nat
  idleAt : Nat
deriving DecidableEq, Repr

/-- The data path: packets by number, the lists they stand in, formes, tables, traffic manager, ports, cages, and when
each pipeline last took a packet (R19). -/
structure DpSt where
  nextPkt : Nat
  pkts : Tab Pkt
  lists : Tab (List Nat)
  ports : Tab PortSt
  cages : Tab Cmis
  entered : Tab Nat
deriving DecidableEq, Repr

/-! ### Flow cores (spec/14) -/

/-- A message in a channel: its words, its source (R402) and when it is readable (R400). -/
structure Msg where
  words : List Nat
  src : Nat
  readyAt : Nat
deriving DecidableEq, Repr

/-- A bound receive channel (R398). -/
structure Chan where
  thread : Nat
  ext : Bool
  depth : Nat
  peer : Option Nat
deriving DecidableEq, Repr

/-- The channel operation in which a thread waits: none, its commit, or a receive on a set of channels. -/
inductive ThreadWait where
  | idle
  | commit
  | receive (mask : Nat)
deriving DecidableEq, Repr

/-- A hardware thread: enabled by its image, its entry, stopped by R408, FAULTED, stopped by the debugger since, whether
that stop has posted HELD, its staging buffer (open with a destination, and its words), the operation it waits in, and its
architectural state words as the debugger indexes them. -/
structure FThread where
  enabled : Bool
  entry : Nat
  halted : Bool
  faulted : Bool
  dbgSince : Option Nat
  heldPosted : Bool
  dest : Option Nat
  words : List Nat
  wait : ThreadWait
  arch : Tab Nat
deriving DecidableEq, Repr

/-- The states of FCX_CORE_STATUS; ABSENT is FCX_MAP's. -/
inductive CoreState where
  | empty | loading | startup | running | faulted | parked
deriving DecidableEq, Repr

/-- The image a core was last loaded from: none, one at an address, the virtio-net program of the manifest (R423), or one that
an activation put into module memory (R478). -/
inductive CoreImg where
  | none
  | addr (a : Nat)
  | manifest
  | image (bytes : List Byte)
deriving DecidableEq, Repr

/-- A request that a block endpoint has taken and not answered. -/
structure FReq where
  ep : Nat
  thread : Nat
  words : List Nat
deriving DecidableEq, Repr

/-- A TIMER that runs (Table 14-5). -/
structure FTimer where
  due : Nat
  thread : Nat
  chan : Nat
  tag : Nat
deriving DecidableEq, Repr

/-- One flow core: its state, the release (R394), its image, its threads, channels and their messages, stores, the requests
owed an answer, timers, notifications (R409) with those lost, since when every thread has been blocked, and whether a
DEADLOCK episode is in progress (R411). -/
structure FCore where
  st : CoreState
  released : Nat
  img : CoreImg
  build : Nat
  threads : Tab FThread
  chans : Tab Chan
  queues : Tab (List Msg)
  istore : Tab Byte
  lmem : Tab Byte
  reqs : List FReq
  timers : List FTimer
  notes : List Nat
  lost : Nat
  allSince : Option Nat
  episode : Bool
deriving DecidableEq, Repr

/-- A cycle of the wait-for graph: its cores from the lowest, the consecutive samples that showed it, and whether it is
reported (R412). -/
structure GdlCycle where
  cores : List Nat
  samples : Nat
  reported : Bool
deriving DecidableEq, Repr

/-- The flow cores: the cores that are not EMPTY, those that FCX_LOAD still loads with the result it will show, and the
global deadlock detector: its cycles, the cores to which a message came since the last sample, and that sample's time. -/
structure FcxSt where
  cores : Tab FCore
  loading : List Nat
  cycles : List GdlCycle
  delivered : List Nat
  gdlAt : Nat
deriving DecidableEq, Repr

/-! ### Cipher array (spec/09) -/

/-- A key slot (R272). -/
structure KeySlot where
  key : Nat
  len256 : Bool
  enc : Bool
  dec : Bool
  derive : Bool
  unwrap : Bool
  slice : Option Nat
  limit : Nat
  counter : Nat
  valid : Bool
  rollover : Bool
  exhausted : Bool
deriving DecidableEq, Repr

/-- Where a descriptor stands: waiting for a unit, issuing blocks on a unit from an instant on, or suspended (R269, R270). -/
inductive CphRun where
  | queued
  | running (unit issueFrom : Nat)
  | suspended
deriving DecidableEq, Repr

/-- An accepted descriptor (Table 9-1): the key it was accepted under, the blocks issued before its present run with the
last issue of one, when it last issued or was raised (R271), and since when it waits. -/
structure CphDesc where
  core : Nat
  thread : Nat
  op : Nat
  prio : Nat
  erase : Bool
  reply : Nat
  tag : Nat
  count : Nat
  inOff : Nat
  outOff : Nat
  ctr : Bool
  key : Nat
  long : Bool
  slot : Option Nat
  words : List Nat
  acceptAt : Nat
  waitAt : Nat
  idleAt : Nat
  done : Nat
  run : CphRun
deriving DecidableEq, Repr

/-- The cipher array: key slots, descriptors by acceptance number, transient keys by core × 8 + thread, and the DRBG instances
that have stopped (physical units 0–25, 26 the system instance) with the time of the last stop. -/
structure CphSt where
  keys : Tab KeySlot
  descs : Tab CphDesc
  nextDesc : Nat
  tkeys : Tab Nat
  stopped : List Nat
  stopAt : Nat
deriving DecidableEq, Repr

/-! ### Drugrim transport (spec/08) -/

/-- A local endpoint (R218). -/
structure DrtEp where
  slice : Nat
  domain : Nat
  jumbo : Bool
  tblBase : Nat
  tblCount : Nat
  ring : Nat
  addr : List Byte
deriving DecidableEq, Repr

/-- A key domain: its epochs as value and key slot (R219). -/
structure DrtDomain where
  cur : Option (Nat × Nat)
  next : Option (Nat × Nat)
  prev : Option (Nat × Nat)
deriving DecidableEq, Repr

/-- A registered region (R247); `bad` says that its word is uncorrectable (R261). -/
structure DrtRegion where
  base : Nat
  len : Nat
  slice : Nat
  domain : Nat
  wr : Bool
  rd : Bool
  bad : Bool
deriving DecidableEq, Repr

/-- The fields of the Drugrim header (Table 8-2). -/
structure DrtHdr where
  kind : Nat
  flags : Nat
  attempt : Nat
  status : Nat
  domain : Nat
  epoch : Nat
  src : Nat
  dst : Nat
  pktSeq : Nat
  msgSeq : Nat
  psn : Nat
  msgLen : Nat
  region : Nat
  offset : Nat
  txTime : Nat
  remaining : Nat
  uSrc : Nat
  outRec : Nat
deriving DecidableEq, Repr

/-- How a packet goes out: key, own and peer IP address (16 B each), UDP source port. -/
structure DrtVia where
  key : Nat
  mine : List Byte
  peer : List Byte
  port : Nat
deriving DecidableEq, Repr

/-- A packet that waits for its destination's token bucket: a packet of an outbound record, a READ_REQ, one READ_RESP of a
request, or an ACK or ERROR with its payload. -/
inductive DrtItem where
  | data (r psn round : Nat)
  | readReq (r first count round : Nat)
  | readResp (h : DrtHdr) (via : DrtVia) (psn : Nat)
  | ctl (h : DrtHdr) (via : DrtVia) (payload : List Byte)
deriving DecidableEq, Repr

/-- An outbound record (R220, R233): the work entry it serves, the message, the packets acknowledged (or READ responses
placed) as a bitmap, packets sent again, round, the start of the timer, the deadline in ns of island time, and the uncertainty
that each packet carried by its tx_time (R255). -/
structure OutRec where
  ep : Nat
  num : Nat
  idx : Nat
  irqNow : Bool
  op : Nat
  remote : Nat
  peer : List Byte
  domain : Nat
  epoch : Nat
  key : Option Nat
  msgSeq : Nat
  region : Nat
  offset : Nat
  len : Nat
  loc : Nat
  imm : Nat
  nb : Nat
  notify : Bool
  dscp : Nat
  size : Nat
  acked : Nat
  retx : Nat
  round : Nat
  timer : Option Nat
  deadline : Nat
  sentU : Tab Nat
deriving DecidableEq, Repr

/-- The states of an inbound record (Table 8-8). -/
inductive InState where
  | receiving | held | finished
deriving DecidableEq, Repr

/-- An inbound record: its index, message, bitmap, T_stale in 0.25 ns, what the last packet brought, the ACK it owes, the echo
of the packet placed most recently, and a finished record's status and reason. -/
structure InRec where
  idx : Nat
  st : InState
  last : DrtHdr
  via : DrtVia
  bits : Nat
  tStale : Nat
  imm : Nat
  nb : Nat
  notify : Bool
  sinceAck : Nat
  ackAt : Option Nat
  echoTx : Nat
  echoRx : Nat
  uRx : Nat
  filledAt : Nat
  status : Nat
  reason : Nat
deriving DecidableEq, Repr

/-- A tombstone (R244); `bad` says that its word is uncorrectable (R261). -/
structure DrtTomb where
  tStale : Nat
  status : Nat
  reason : Nat
  bad : Bool
deriving DecidableEq, Repr

/-- A congestion entry (R255–R257): rate in bit/s, srtt and base in ns, times of the base and of the last decrease, token
level in units of 1/(7 × 10^9) bit with its last refill, and when it was last used. -/
structure DrtCong where
  rate : Nat
  srtt : Option Int
  base : Option Int
  baseAt : Nat
  lastDec : Option Nat
  tokens : Int
  tokAt : Nat
  used : Nat
deriving DecidableEq, Repr

/-- The transport: endpoints, domains, regions by index with generations and the free list (fresh indices, then freed ones in
order), records, tombstones by source × 2^48 + msg_seq, congestion entries and waiting packets by destination, messages
started, whether the incarnation is due to increment (R226), the settle point in 0.25 ns, whether a P reset has yet to
set it (R245), the authentication failures not yet reported with the last report, and whether it runs. -/
structure DrtSt where
  eps : Tab DrtEp
  doms : Tab DrtDomain
  regions : Tab DrtRegion
  gens : Tab Nat
  fresh : Nat
  freed : List Nat
  outs : Tab OutRec
  ins : Tab InRec
  tombs : Tab DrtTomb
  cong : Tab DrtCong
  queues : Tab (List DrtItem)
  msgCount : Nat
  seqDue : Bool
  settle : Nat
  settleLater : Bool
  authFails : Nat
  authAt : Option Nat
  running : Bool
deriving DecidableEq, Repr

/-! ### NVMe functions (spec/13) -/

/-- An NVMe submission queue: base, size, the entry fetched next, the tail last written, its completion queue, and whether it is
being deleted (R372). -/
structure NvmeSq where
  base : Nat
  size : Nat
  head : Nat
  tail : Nat
  cq : Nat
  deleting : Bool
deriving DecidableEq, Repr

/-- An NVMe completion queue: base, size, head and tail, phase, vector and its enable, the stash of R373, and the entries
not yet signalled with the time of the first. -/
structure NvmeCq where
  base : Nat
  size : Nat
  head : Nat
  tail : Nat
  phase : Bool
  vec : Nat
  ien : Bool
  stash : List (List Byte)
  unsig : Nat
  since : Nat
deriving DecidableEq, Repr

/-- Where a command stands: fetched; a Write that waits for buffer space with its data; a command whose backend message
runs (a Read with its pinned writes and host segments); a Flush with the writes it still covers; an Asynchronous Event
Request; a Delete that waits for its queue; a Firmware Commit that waits for its ACTIVATE; or done, its completion waiting
for room. -/
inductive NvmeCmdSt where
  | fetched
  | waitBuf (data : List Byte) (dest : List Byte)
  | thru (msgs : List Nat)
  | reading (msg : Nat) (pins : List Nat) (segs : List (Nat × Nat))
  | flush (ids : List Nat)
  | event
  | deleting (qid : Nat)
  | activating
  | done (entry : List Byte)
deriving DecidableEq, Repr

/-- A command record: its submission queue, CID, 64 bytes and the number that stood next when it was fetched (R377). -/
structure NvmeCmd where
  sq : Nat
  cid : Nat
  sqe : List Byte
  mark : Nat
  st : NvmeCmdSt
deriving DecidableEq, Repr

/-- The features of a controller (Table 13-4). `grant` and `grantCq` are the I/O queues granted. -/
structure NvmeFeat where
  wce : Bool
  ps : Nat
  hotAt : Nat
  coldAt : Nat
  grant : Nat
  grantCq : Nat
  coal : Nat
  noCoal : List Nat
  aec : Nat
  apste : Bool
  apst : List Byte
deriving DecidableEq, Repr

/-- An entry of the error log: error count, queue, CID, status field, LBA and NSID. -/
structure NvmeErr where
  count : Nat
  sq : Nat
  cid : Nat
  status : Nat
  lba : Nat
  nsid : Nat
deriving DecidableEq, Repr

/-- A controller: its function, registers (Table 13-1), queues, commands, features, Critical Warning bits, held events by type
and types reported and not read (R387), error log, SMART counters (0 bytes read, 1 bytes written, 2 reads, 3 writes, 4 power
cycles, 5 unsafe shutdowns, 6 media errors, 7 error log entries), the power state it left for idle, when it last had a
command, when its reset began (R379), a shutdown in progress (normal or abrupt), what takes effect at CC.EN's rise, and
the pieces of a firmware image. -/
structure NvmeCtrl where
  fn : Nat
  cc : Nat
  rdy : Bool
  cfs : Bool
  shst : Nat
  aqa : Nat
  asq : Nat
  acq : Nat
  intms : Nat
  sqs : Tab NvmeSq
  cqs : Tab NvmeCq
  cmds : List NvmeCmd
  feat : NvmeFeat
  warn : Nat
  held : List Nat
  told : List Nat
  errs : List NvmeErr
  smart : Tab Nat
  psBack : Option Nat
  idleSince : Nat
  resetAt : Option Nat
  shut : Option Bool
  maxIoq : Nat
  fwEn : Bool
  pieces : List (Nat × List Byte)
deriving DecidableEq, Repr

/-- A namespace (R368): state FAULTED with the status, controller and NSID it is attached to, since when its destages fail. -/
structure NvmeNs where
  ep : Nat
  destRef : Nat
  big : Bool
  ro : Bool
  region : Nat
  limit : Nat
  offset : Nat
  size : Nat
  fault : Option Nat
  attached : Option (Nat × Nat)
  failSince : Option Nat
deriving DecidableEq, Repr

/-- What a backend message serves: a Read or a write-through Write of a controller's command, or a buffered write. -/
inductive NveUse where
  | read (c sq cid : Nat)
  | thru (c sq cid : Nat)
  | destage (buf : Nat)
deriving DecidableEq, Repr

/-- Where a backend message stands: waiting to start, in flight in an outbound record, or ended with a status. -/
inductive NveMsgSt where
  | waiting
  | inflight (r : Nat)
  | ended (status : Nat)
deriving DecidableEq, Repr

/-- A backend message (R369): its namespace and blocks, the data of a write or of a read so far, the destination record last
read, and whether its outcome is discarded. -/
structure NveMsg where
  ns : Nat
  slba : Nat
  nlb : Nat
  use : NveUse
  data : List Byte
  dest : List Byte
  st : NveMsgSt
  discard : Bool
deriving DecidableEq, Repr

/-- How far a buffered write is: to be destaged by a message, waiting to retry at a time with its next delay, or destaged and
held by pins. -/
inductive NveBufSt where
  | destaging (msg : Nat)
  | retry (at_ delay : Nat)
  | destaged
deriving DecidableEq, Repr

/-- A buffered write (R374, R375), with the destination record its last message used, and whether a word of it is
uncorrectable (R389). -/
structure NveBuf where
  ns : Nat
  slba : Nat
  nlb : Nat
  data : List Byte
  dest : List Byte
  pins : Nat
  delay : Nat
  st : NveBufSt
  bad : Bool
deriving DecidableEq, Repr

/-- The NVMe functions: controllers, namespaces, backend messages and buffered writes by number, the next number, whether an
ACTIVATE stops the fetch, the composite temperature in kelvin, and the SMART counters in MRAM by controller. -/
structure NveSt where
  ctrls : Tab NvmeCtrl
  nss : Tab NvmeNs
  msgs : Tab NveMsg
  bufs : Tab NveBuf
  next : Nat
  holdFetch : Bool
  temp : Nat
  saved : Tab (Tab Nat)
deriving DecidableEq, Repr

/-! ### Boot, measurement and update (spec/16) -/

/-- The sources of Table 16-5. -/
inductive BootSrc where
  | mram | golden | odfer | hostPush | management
deriving DecidableEq, Repr

/-- Boot and the contact sheet beyond the registers: the straps as sampled, the sources still to be tried, the source waited on
with the end of its wait, the transfer that runs with the time of its last piece, the recovery window or (`true`) the retry
wait with its end, the store chosen for handover with the path it came by, whether DARKROOM received the image that the next
boot takes, the store whose image runs and the version handed over to, the watchdog's expiry, the measurement registers that
are not zero, the event log, M0–M3 as the alias key was last derived from them, REC_STATUS's state and reason with REC_ADDR
and REC_LEN, and the owner's key hash in MRAM. -/
structure BootSt where
  straps : Nat
  left : List BootSrc
  wait : Option (BootSrc × Nat)
  transfer : Option (BootSrc × Nat)
  window : Option (Bool × Nat)
  chosen : Option (Nat × Nat)
  recovered : Bool
  running : Nat
  version : Nat
  watchdog : Option Nat
  sums : Tab (List Byte)
  log : List (List Byte)
  aliased : List Byte
  recState : Nat
  recReason : Nat
  recAddr : Nat
  recLen : Nat
  owner : List Byte
deriving DecidableEq, Repr

/-- An activation (R478–R483): whether the cascade's master asked for it, its slot (0 A, 1 B), since when NVMe submissions are
held, what preferred was and the images that the flow cores had, the store whose image it replaces where that is a downgrade,
the commit instant once it has passed, and whether it rolls back. -/
structure ActSt where
  member : Bool
  slot : Nat
  since : Nat
  oldPref : Nat
  oldImgs : Tab CoreImg
  replaced : Option Nat
  commit : Option Nat
  rolling : Bool
deriving DecidableEq, Repr

/-- A mode request that the control plane pause holds (R480). -/
inductive HeldReq where
  | go (init target : Nat)
  | claim (o : Origin)
  | release (o : Origin)
deriving DecidableEq, Repr

/-- Updates: the held header of an open sequence, an activation, and the mode requests held by its pause. -/
structure UpdSt where
  header : Option (List Byte)
  act : Option ActSt
  held : List HeldReq
deriving DecidableEq, Repr

/-! ### Cascade (spec/17) -/

/-- An access through the member window that has failed and is not yet answered (R523): the core, whether it is a read, its
width, and when it was issued. -/
structure MemberAccess where
  core : Nat
  read : Bool
  wide : Bool
  at_ : Nat
deriving DecidableEq, Repr

/-- The cascade beyond the registers: when each member's last valid record came (4: that of a duplicate with a lower serial
number), and each link's, until when the comparisons stand still, the measured offset from the master's time in 0.25 ns, the
agreed lock-up instant in ns, since when a partition's owner has not been live, the members that share the flow table in
the order of their partitions, and the failed accesses of the member window. -/
structure OdfSt where
  heard : Tab Nat
  linkHeard : Tab Nat
  activating : Option Nat
  offset : Int
  lockAt : Option Nat
  goneSince : Tab Nat
  partners : List Nat
  accesses : List MemberAccess
deriving DecidableEq, Repr

/-! ### Module hardware (spec/18) -/

/-- Where a host power operation stands: auxiliary settle time, a pulse, the wait for HOST_PWR_GOOD to reach a level, or CYCLE's
time with auxiliary power off. -/
inductive PowerStep where
  | settle | pulse | level (high : Bool) | auxOff
deriving DecidableEq, Repr

/-- A host power operation (Table 18-3): its code, the step of its sequence, when that ends at the latest, and whether it ends
there because of an ac_fail or, without a result, a reset. -/
structure PowerOp where
  op : Nat
  step : PowerStep
  ends : Option Nat
  squashed : Bool
  silent : Bool
deriving DecidableEq, Repr

/-- Supply, host power and the management port beyond the registers: when ac_fail was last raised, whether the SoC rails are up
and the island has power, the operation that runs, until when the host power policy may still wait (0 once it is due), when
a thermal trip took the rails, and MCTP messages received and not yet answered. -/
structure HwSt where
  failAt : Option Nat
  rails : Bool
  island : Bool
  op : Option PowerOp
  policy : Option Nat
  tripAt : Option Nat
  mctp : List (List Byte)
deriving DecidableEq, Repr

/-- The whole module. `now` counts ticks of 1/7 ns; `regs` and `mram` list the registers that differ from their reset
values and the MRAM copies of M registers; `mem` is module memory; `freeSeq` numbers the free values drawn; `out` is
what the module has put on its interfaces, newest first; `pending` is the queue of commands. -/
structure State where
  now : Nat
  fuse : Fuse
  regs : Tab Word
  mram : Tab Word
  mem : List Host.Cell
  freeSeq : Nat
  modes : ModeSt
  prf : PrfSt
  hif : HifSt
  island : IslandSt
  ptm : Tab PtmSt
  pages : Tab TimePage
  rings : Tab Ring
  slc : SlcSt
  dp : DpSt
  frm : FrmSt
  tbl : TblSt
  tm : TmSt
  fcx : FcxSt
  cph : CphSt
  drt : DrtSt
  nve : NveSt
  boot : BootSt
  upd : UpdSt
  odf : OdfSt
  hw : HwSt
  out : List Out
  pending : List Instr
deriving DecidableEq, Repr

/-! ### Reset -/

/-- The module at a P reset: power has come, every register holds its reset value and every table is empty; the C reset that comes
with power-up is still asserted, and RESET_RELEASE releases it (R59, R505). MRAM holds its factory contents, nothing but the
standalone forme of R54. The values that the spec leaves to the fuses and to the outside are those of notes/assumptions; the
seeds of R140 are free and not zero. -/
def State.reset : State :=
  let a := Config.freeValue 0 % 65536
  let b := Config.freeValue 1 % 65536
  { now := 0
    fuse := { grade := 1, stepping := 0, serial := 0, mac := 0, orderLock := false, order := 0, rollback := 0, keyRevoked := 0,
              keyPresent := 0xFF, keyHash := (List.range 8).map Config.keyHash }
    regs := []
    mram := []
    mem := []
    freeSeq := 2
    modes := { phase := .selfTest, req := none, heldStandby := none, pwrGood := false, pwrSince := 0, debounced := false,
               mramClosed := false, asserted := some ⟨.c, none, 0⟩, dReset := none, flush := none, hostPowerRecord := false,
               hostPush := false }
    prf := { places := [], standing3 := [], standing4 := [], contained := [], slExpect := 0x5A, slLastFeed := none,
             slWrong := false, slTimedOut := false, slValidFeed := false, slLevel := false, slBoundary := 0, tracked := [],
             log := [], failedUnits := [], unitMap := [], rowSpares := [], dueUnits := [], testedAt := none }
    hif := { fns := [], eps := [], aerHeaderLog := [] }
    island := { anchor := 0, ctrA := 0, ctrB := 0, slewLeft := 0, slewStep := 0, baseRate := 0, setAt := 0, uSet := none,
                freeS := 0, wasSet := false, servoAt := 0, beatAt := 0, acqFrom := 0, acqS := 0, holdAt := 0, uEntry := none,
                holdS := 0, holdTemp := 25000, holdExc := none, temp := 25000, slews := [], setArmed := false, ppsRun := 0,
                ppsLast := none, ppsCentre := 0, ppsMissed := 0, ppsQueue := [], ppsUntil := [], uRef := none, uAt := 0,
                snapTime := 0, snapUnc := none, replicas := [] }
    ptm := []
    pages := []
    rings := []
    slc := { slices := [], done := [], rules := [], badRules := [], denials := [] }
    dp := { nextPkt := 0, pkts := [], lists := [], ports := [], cages := [], entered := [] }
    frm := { order := [], slots := [], discarded := [], settled := [], waiting := [], sweep := none, lockup := none,
             installing := false, standalone := { nodes := [], trans := [], profiles := [], defaults := [], bridge := true } }
    tbl := { eml := [], lpm := [], rul := [], act := [], flt := [], idle := [], bad := [], pend := [], recent := [],
             lfsrE := if a = 0 then 1 else a, lfsrF := if b = 0 then 1 else b, emlFifo := [], fltFifo := [], emlNotes := [],
             fltNotes := [], held := [], ageE := 0, ageF := 0, holdAt := 0 }
    tm := { live := [], shadow := [], run := [], vt := [], pols := [], lastOut := [], selAt := [], epochAt := none }
    fcx := { cores := [], loading := [], cycles := [], delivered := [], gdlAt := 0 }
    cph := { keys := [], descs := [], nextDesc := 0, tkeys := [], stopped := [], stopAt := 0 }
    drt := { eps := [], doms := [], regions := [], gens := [], fresh := 0, freed := [], outs := [], ins := [], tombs := [],
             cong := [], queues := [], msgCount := 0, seqDue := true, settle := 0, settleLater := true, authFails := 0,
             authAt := none, running := false }
    nve := { ctrls := [], nss := [], msgs := [], bufs := [], next := 0, holdFetch := false, temp := 0, saved := [] }
    boot := { straps := 0, left := [], wait := none, transfer := none, window := none, chosen := none, recovered := false,
              running := 0, version := 0, watchdog := none, sums := [], log := [], aliased := [], recState := 0, recReason := 0,
              recAddr := 0, recLen := 0, owner := [] }
    upd := { header := none, act := none, held := [] }
    odf := { heard := [], linkHeard := [], activating := none, offset := 0, lockAt := none, goneSince := [], partners := [],
             accesses := [] }
    hw := { failAt := none, rails := true, island := true, op := none, policy := some (30 * 7000000000), tripAt := none,
            mctp := [] }
    out := []
    pending := [] }

end Sys2Proof.Machine
end

