-- ==== Sys2Proof/Machine/Ops.lean ====
section
/-! DEFINITION. The named operations that the meanings share: registers and their fields, counters, time, module memory,
error pins, access tables. -/

namespace Sys2Proof.Machine

/-- The outcome of a step. -/
abbrev Res := Host.Outcome State Fault Refusal

/-! ### Registers -/

/-- The value a register holds: what the table lists, its reset value otherwise (R2). -/
def State.reg (s : State) (r : Reg) (i : Nat := 0) (j : Nat := 0) : Word :=
  Tab.getD (r.resetVal s.fuse i j) s.regs (r.key i j)

/-- The MRAM copy of an M register, its factory content where nothing was written (R4). -/
def State.mramReg (s : State) (r : Reg) (i : Nat := 0) (j : Nat := 0) : Word :=
  Tab.getD (r.resetVal s.fuse i j) s.mram (r.key i j)

/-- A register takes a value. An M register is written through to its MRAM copy, except later than 15 ms after ac_fail,
when only the fault record still is (R4, R64). -/
def State.setReg (s : State) (r : Reg) (v : Word) (i : Nat := 0) (j : Nat := 0) : State :=
  { s with
    regs := Tab.setD (r.resetVal s.fuse i j) s.regs (r.key i j) v
    mram := if r.row.m && (!s.modes.mramClosed || decide (r = .PRF_LAST_FAULT))
      then Tab.setD (r.resetVal s.fuse i j) s.mram (r.key i j) v else s.mram }

/-- A field of a register, as a number. -/
def State.getF (s : State) (f : Fld) (i : Nat := 0) (j : Nat := 0) : Nat := (s.reg f.reg i j).bits f.hi f.lo

/-- A one-bit field of a register. -/
def State.flag (s : State) (f : Fld) (i : Nat := 0) (j : Nat := 0) : Bool := s.getF f i j == 1

/-- A register with one field replaced. -/
def State.setF (s : State) (f : Fld) (v : Nat) (i : Nat := 0) (j : Nat := 0) : State :=
  s.setReg f.reg ((s.reg f.reg i j).setBits f.hi f.lo v) i j

/-- A counter field plus `n`, wrapping at its width. -/
def State.bump (s : State) (f : Fld) (i : Nat := 0) (j : Nat := 0) (n : Nat := 1) : State :=
  s.setF f (s.getF f i j + n) i j

/-- One for true. -/
def b2n (b : Bool) : Nat := if b then 1 else 0

/-! ### Outputs and free values -/

/-- Something leaves the module. -/
def State.emit (s : State) (o : Out) : State := { s with out := o :: s.out }

/-- The next free value of `n` bits, and the state that has drawn it. -/
def State.draw (s : State) (n : Nat) : Nat × State :=
  (Config.freeValue s.freeSeq % 2 ^ n, { s with freeSeq := s.freeSeq + 1 })

/-! ### Time -/

/-- Ticks of 1/7 ns in one FCLK (R12: 1.40 GHz). -/
def fclk : Nat := 5
/-- Ticks in 1 ns, which is also one TCLK and one PCLK (R12). -/
def nsT : Nat := 7
/-- Ticks in 1 µs. -/
def usT : Nat := 7000
/-- Ticks in 1 ms. -/
def msT : Nat := 7000000
/-- Ticks in 1 s. -/
def secT : Nat := 7000000000

/-- Time has reached an instant: an event that its rule ties to an instant is taken there, or later where time has
already passed it. -/
def State.after (s : State) (t : Nat) : State := { s with now := if s.now < t then t else s.now }

/-! ### Ports and the mode (Table 2-1) -/

/-- The ports of a cage (R192): port p belongs to cage p mod 2. -/
def cagePorts (c : Nat) : List Nat := [c, c + 2, c + 4, c + 6]

def mStandalone : Nat := 0
def mManaged : Nat := 1
def mAutonomous : Nat := 2
def mMember : Nat := 3
def mStandby : Nat := 4
def mSafeHold : Nat := 5
def mDarkroom : Nat := 6
def mTest : Nat := 7

/-- MODE_STATE.mode. -/
def State.mode (s : State) : Nat := s.getF MODE_STATE.mode

/-- MODE_STATE.booted. -/
def State.booted (s : State) : Bool := s.flag MODE_STATE.booted

/-- Is this module in a cascade, as master or member (R46)? -/
def State.cascadeActive (s : State) : Bool := s.flag ODF_STATUS.active || s.mode == mMember

/-! ### Module memory -/

/-- The canonical form of module memory: addresses strictly rise, and no byte is listed that reads as an unlisted one does. -/
def Memory.wf (m : List Host.Cell) : Bool := Tab.sorted m && Tab.noDefault 0 m

/-- One byte of module memory; 0 where nothing was written. -/
def State.byte (s : State) (a : Nat) : Byte := Tab.getD 0 s.mem a

/-- One byte written. -/
def State.setByte (s : State) (a : Nat) (b : Byte) : State := { s with mem := Tab.setD 0 s.mem a b }

/-- `n` bytes of module memory from an address. -/
def State.bytes (s : State) (a n : Nat) : List Byte := (List.range n).map fun i => s.byte (a + i)

/-- Bytes written from an address. -/
def State.setBytes (s : State) (a : Nat) : List Byte → State
  | [] => s
  | b :: bs => State.setBytes (s.setByte a b) (a + 1) bs

/-- The access-table target and granule of a module memory address (Tables 12-8 and 19-2); `none` where the address is
not decoded as memory (R520). -/
def memTarget (a : Nat) : Option (Nat × Nat) :=
  if 0x10000000 ≤ a ∧ a < 0x20000000 then some (33, (a - 0x10000000) / 4096)
  else if 0x0100000000 ≤ a ∧ a < 0x0180000000 then some (26, (a - 0x0100000000) / 4096)
  else if 0x0180000000 ≤ a ∧ a < 0x0580000000 then some (27, (a - 0x0180000000) / 4096)
  else if 0x0580000000 ≤ a ∧ a < 0x0780000000 then some (28, (a - 0x0580000000) / 4096)
  else if 0x0780000000 ≤ a ∧ a < 0x0790000000 then some (29, (a - 0x0780000000) / 4096)
  else if 0x0790000000 ≤ a ∧ a < 0x07A0000000 then some (30, (a - 0x0790000000) / 4096)
  else if 0x07A0000000 ≤ a ∧ a < 0x08A0000000 then some (31, (a - 0x07A0000000) / 4096)
  else if 0x08A0000000 ≤ a ∧ a < 0x0D00000000 then some (32, (a - 0x08A0000000) / 4096)
  else none

/-- The first byte of a memory target. -/
def memTargetBase (t : Nat) : Nat :=
  if t = 33 then 0x10000000 else if t = 26 then 0x0100000000 else if t = 27 then 0x0180000000
  else if t = 28 then 0x0580000000 else if t = 29 then 0x0780000000 else if t = 30 then 0x0790000000
  else if t = 31 then 0x07A0000000 else 0x08A0000000

/-! ### Error pins (R424) -/

/-- The block of Table 19-1 whose status register counts the events waiting on a source's places; 26 for a source that
belongs to no block. Places 45 and 46 are the own places of UPD and MGT, which feed source 0. -/
def blockOfSource (q : Nat) : Nat :=
  if q = 0 then 0 else if q = 1 then 2 else if q = 2 then 1 else if q ≤ 4 then 4 else if q ≤ 6 then 16
  else if q = 7 then 17 else if q = 8 then 18 else if q = 9 then 19 else if q ≤ 13 then 6 else if q = 14 then 8
  else if q = 15 then 11 else if q = 16 then 10 else if q = 17 then 9 else if q = 18 then 12 else if q = 19 then 13
  else if q ≤ 27 then 5 else if q = 28 then 14 else if q = 29 then 15 else if q ≤ 33 then 20 else if q = 34 then 21
  else if q ≤ 37 then 26 else if q ≤ 39 then 22 else if q ≤ 41 then 23 else if q = 42 then 25 else if q = 43 then 26
  else if q = 44 then 15 else if q = 45 then 3 else if q = 46 then 24 else 26

/-- The PRF_LATCH position on which the events of a set of places are presented (R427, R526). -/
def sourceOfPlaces (q : Nat) : Nat := if q = 45 ∨ q = 46 then 0 else q

/-- The events waiting on a source's places. -/
def State.waiting (s : State) (q : Nat) : List ErrEvent := Tab.getD [] s.prf.places q

/-- The block's status register shows how many events wait for its sources, saturating at 15 (R524). -/
def State.showPending (s : State) (blk : Nat) : State :=
  if blk < 26 then
    let n := (s.prf.places.map fun p => if blockOfSource p.1 = blk then p.2.length else 0).sum
    s.setF X_BLK_STATUS.pending (if 15 < n then 15 else n) blk
  else s

/-- The waiting events of a source are replaced. -/
def State.setWaiting (s : State) (q : Nat) (l : List ErrEvent) : State :=
  ({ s with prf := { s.prf with places := Tab.setD [] s.prf.places q l } }).showPending (blockOfSource q)

/-- A block raises an event on its error pin: it takes one of the 8 places of its source and is counted by the block,
or finds them full and only increments the count of the source's record (R424, X_BLK_ERR_CNT). -/
def State.raiseAs (s : State) (q : Nat) (e : ErrEvent) (blk : Nat := blockOfSource q) : State :=
  if (s.waiting q).length < 8 then
    let s1 := s.setWaiting q (s.waiting q ++ [e])
    if blk < 26 then
      if e.fault then s1.bump X_BLK_ERR_CNT.faults blk else s1.bump X_BLK_ERR_CNT.corrected blk
    else s1
  else
    let n := s.getF PRF_REC.count (sourceOfPlaces q)
    s.setF PRF_REC.count (if n < 1023 then n + 1 else 1023) (sourceOfPlaces q)

/-- An event that the module raises itself: its detail is defined in no rule and is a free value. -/
def State.raise (s : State) (q : Nat) (e : ErrEvent) (blk : Nat := blockOfSource q) : State :=
  if e.fault then (s.draw 16).2.raiseAs q { e with detail := (s.draw 16).1 } blk else s.raiseAs q e blk

/-- A class A fault event with a cause of Table 15-3. -/
def faultA (cause : Nat) : ErrEvent := ⟨true, 0, cause, 0, none, 0⟩
/-- A class S fault event. -/
def faultS (cause : Nat) (slice : Option Nat) : ErrEvent := ⟨true, 1, cause, 0, slice, 0⟩
/-- A class M fault event. -/
def faultM (cause : Nat) : ErrEvent := ⟨true, 2, cause, 0, none, 0⟩
/-- A corrected event, with the row it passes to Retouch: its kind of row (Table 15-7; 0 where no spare row exists), unit and
row as one number (R425). -/
def correctedAt (d : Defect) : ErrEvent := ⟨false, 0, 0, 0, none, d.kind * 2 ^ 64 + d.unit % 2 ^ 32 * 2 ^ 32 + d.row % 2 ^ 32⟩

/-! ### Access tables (R356–R361) -/

/-- The kinds of access that a rule names. -/
inductive AccessKind where
  | read | write | exec
deriving DecidableEq, Repr

/-- The code of an access kind in a denial record (ACT_LOG). -/
def AccessKind.code : AccessKind → Nat
  | .read => 0
  | .write => 1
  | .exec => 2

/-- The two words of a rule (R357). -/
def actRule (rd wr ex deny : Bool) (lo hi base limit : Nat) : Word × Word :=
  (BitVec.ofNat 64 (2 ^ 63 + b2n rd * 2 ^ 62 + b2n wr * 2 ^ 61 + b2n ex * 2 ^ 60 + b2n deny * 2 ^ 59 + lo * 2 ^ 12 + hi),
   BitVec.ofNat 64 (limit * 2 ^ 32 + base))

/-- An allow rule over a whole target. -/
def actAllow (rd wr ex : Bool) (lo hi : Nat) : Word × Word := actRule rd wr ex false lo hi 0 0xFFFFFFFF

/-- The four H0 rules of Table 12-9. -/
def actH0 (wr : Bool) : List (Word × Word) :=
  [0x800, 0x802, 0xC00, 0xC02].map fun h => actAllow true wr false h h

/-- The default rules of a target, from rule 0 (Table 12-9). -/
def actDefaults (t : Nat) : List (Word × Word) :=
  if t = 2 ∨ t = 3 ∨ t = 25 then [actAllow true true false 0x000 0x020]
  else if t = 0 ∨ t = 1 ∨ t = 4 ∨ t = 23 then actAllow true true false 0x000 0x043 :: actH0 false
  else if t = 24 then
    actRule false true false true 0x020 0xFFF 0x20 0x21 :: actRule true true false true 0x021 0xFFF 0x80 0x8F
      :: actAllow true true false 0x000 0x043 :: actH0 true
  else if t ≤ 25 then actAllow true true false 0x000 0x043 :: actH0 true
  else if t = 26 then [actAllow true true true 0x000 0x021, actAllow true true false 0x028 0x028]
  else if t = 27 then [actAllow true true true 0x000 0x021, actAllow true true false 0x026 0x026]
  else if t = 28 then [actAllow true true true 0x000 0x021, actAllow true true false 0x027 0x027]
  else if t = 29 then [actAllow true true true 0x000 0x021, actAllow true true false 0x025 0x025]
  else if t = 30 then [actAllow true true true 0x000 0x021, actAllow true true false 0x024 0x024]
  else if t = 31 then
    [actAllow true true false 0x000 0x021, actAllow true true false 0x400 0x7FF, actAllow true true false 0x023 0x023,
     actAllow true true false 0x025 0x026, actAllow true false false 0x02B 0x02B]
  else if t = 32 then
    [actAllow true true true 0x000 0x021, actAllow true true false 0x025 0x025, actAllow true false false 0x02B 0x02B]
  else if t = 33 then [actAllow true true false 0x000 0x023]
  else if t = 34 then
    [actAllow false true false 0x000 0x020, actAllow true false false 0x400 0x7FF, actAllow false true false 0x800 0xFFF]
  else if t = 35 then
    [actAllow true true false 0x000 0x021, actAllow false true false 0x02B 0x02B, actAllow false false true 0x400 0x7FF]
  else []

/-- The rule in force at a place of a target's table. -/
def State.ruleAt (s : State) (t n : Nat) : Word × Word :=
  Tab.getD ((actDefaults t).getD n (0, 0)) s.slc.rules (t * 32 + n)

/-- Does a rule match an access (R357)? -/
def ruleMatches (w : Word × Word) (k : AccessKind) (init g : Nat) : Bool :=
  natBit w.1.toNat 63
    && (match k with | .read => natBit w.1.toNat 62 | .write => natBit w.1.toNat 61 | .exec => natBit w.1.toNat 60)
    && decide (w.1.bits 23 12 ≤ init) && decide (init ≤ w.1.bits 11 0)
    && decide (w.2.bits 31 0 ≤ g) && decide (g ≤ w.2.bits 63 32)

/-- The lowest-numbered rule from `n` on that decides an access, and whether it denies; an uncorrectable rule denies
everything (R363), and 32 says that no rule matched. -/
def State.decidingRule (s : State) (t : Nat) (k : AccessKind) (init g : Nat) : Nat → Nat → Nat × Bool
  | _, 0 => (32, true)
  | n, fuel + 1 =>
    if s.slc.badRules.contains (t * 32 + n) then (n, true)
    else if ruleMatches (s.ruleAt t n) k init g then (n, natBit (s.ruleAt t n).1.toNat 59)
    else State.decidingRule s t k init g (n + 1) fuel

/-- The rule that denies an access to granules `gLo` to `gHi` of a target, if one is denied: every granule must be
allowed, and the ACT block always admits registers from 0x000 to 0x020 (R357, R360). -/
def State.actDenies (s : State) (t : Nat) (k : AccessKind) (init gLo gHi : Nat) : Option Nat :=
  if t = 25 ∧ init ≤ 0x020 ∧ k ≠ .exec then none
  else
    ((List.range (gHi + 1 - gLo)).findSome? fun d =>
      let r := s.decidingRule t k init (gLo + d) 0 32
      if r.2 then some r.1 else none)

/-- ACT_LOG shows the head of the denial FIFO. -/
def State.showDenials (s : State) : State :=
  match s.slc.denials with
  | [] => (s.setReg .ACT_LOG 0 0).setReg .ACT_LOG 0 1
  | d :: _ =>
    let w := 2 ^ 63 + d.kind % 4 * 2 ^ 61 + b2n d.window * 2 ^ 60 + d.target % 64 * 2 ^ 54 + d.init % 4096 * 2 ^ 42
      + d.rule % 64 * 2 ^ 36 + d.slice % 16384 * 2 ^ 22
    (s.setReg .ACT_LOG (BitVec.ofNat 64 w) 0).setReg .ACT_LOG (BitVec.ofNat 64 d.addr) 1

/-- A denial is counted and logged; a record that enters an empty FIFO drives the ACT pin (R359). -/
def State.deny (s : State) (d : Denial) : State :=
  let s1 := s.bump ACT_CNT.count 0
  if s1.slc.denials.length < 64 then
    let s2 := ({ s1 with slc := { s1.slc with denials := s1.slc.denials ++ [d] } }).showDenials
    if s1.slc.denials.isEmpty then s2.raise 42 (faultA 0x0005) else s2
  else s1.bump ACT_CNT.count 1

/-- An access of an application core that is denied or reaches no address ends in an abort; that of any other initiator
does not (R358, R520). -/
def State.abortCore (s : State) (init : Nat) : State := if init ≤ 0x020 then s.emit (.coreAbort init) else s

/-- The answer to a denied read: data 0 for every initiator but an application core, which gets no data (R296, R358). -/
def State.deniedRead (s : State) (init : Nat) : State := if init ≤ 0x020 then s else s.emit (.readData init 0)

/-- One check of an access to a register block at a block offset (granules of 8 B, R356): the state after it and
whether it is allowed. -/
def State.blockAccess (s : State) (blk : Nat) (k : AccessKind) (init off : Nat) : State × Bool :=
  match s.actDenies blk k init (off / 8) (off / 8) with
  | none => (s, true)
  | some r => ((s.deny ⟨k.code, false, blk, init, r, 0, off⟩).abortCore init, false)

/-- One check of an access to module memory. An address that is not decoded is not allowed and not logged (R520). -/
def State.memAccess (s : State) (k : AccessKind) (init a n : Nat) : State × Bool :=
  match memTarget a, memTarget (a + (n - 1)) with
  | some (t, g), some (t', g') =>
    if t = t' then
      match s.actDenies t k init g g' with
      | none => (s, true)
      | some r => (s.deny ⟨k.code, false, t, init, r, 0, a - memTargetBase t⟩, false)
    else (s, false)
  | _, _ => (s, false)

/-- A refused register write sets the block's change-refused flag and records its offset (R11, X_BLK_STATUS). -/
def State.refuseWrite (s : State) (blk off : Nat) : State :=
  (s.setF X_BLK_STATUS.change_refused 1 blk).setF X_BLK_STATUS.refused_offset off blk

end Sys2Proof.Machine
end

