-- ==== Sys2Proof/Machine/CoreOps.lean ====
section
/-! DEFINITION. The flow cores as other blocks see them: threads and channels, what the registers show, notifications, thread
faults, and the settling of waiting channel operations (spec/14 R391–R414). -/

namespace Sys2Proof.Machine

/-! ### Cores and threads -/

/-- A thread that its image does not enable. -/
def FThread.off : FThread :=
  { enabled := false, entry := 0, halted := false, faulted := false, dbgSince := none, heldPosted := false, dest := none,
    words := [], wait := .idle, arch := [] }

/-- An EMPTY core. -/
def FCore.off : FCore :=
  { st := .empty, released := 0, img := .none, build := 0, threads := [], chans := [], queues := [], istore := [],
    lmem := [], reqs := [], timers := [], notes := [], lost := 0, allSince := none, episode := false }

/-- A core. -/
def State.core (s : State) (c : Nat) : FCore := Tab.getD FCore.off s.fcx.cores c

/-- A core replaced. -/
def State.setCore (s : State) (c : Nat) (x : FCore) : State :=
  { s with fcx := { s.fcx with cores := Tab.setD FCore.off s.fcx.cores c x } }

/-- A thread of a core. -/
def FCore.thread (x : FCore) (t : Nat) : FThread := Tab.getD FThread.off x.threads t

/-- A thread replaced. -/
def FCore.setThread (x : FCore) (t : Nat) (h : FThread) : FCore :=
  { x with threads := Tab.setD FThread.off x.threads t h }

/-- A thread of the module replaced. -/
def State.setThread (s : State) (c t : Nat) (h : FThread) : State := s.setCore c ((s.core c).setThread t h)

/-- Has a logical core no physical core (R422)? -/
def State.coreAbsent (s : State) (c : Nat) : Bool := s.flag FCX_MAP.absent c

/-- Does a core run: in start-up or RUNNING? -/
def State.coreLive (s : State) (c : Nat) : Bool :=
  !s.coreAbsent c && ((s.core c).st == .startup || (s.core c).st == .running)

/-- FCX_CORE_STATUS.state of a core. -/
def State.coreCode (s : State) (c : Nat) : Nat :=
  if s.coreAbsent c then 6
  else match (s.core c).st with
    | .empty => 0
    | .loading => 1
    | .startup => 2
    | .running => 3
    | .faulted => 4
    | .parked => 5

/-- Does a core send commits to it away with NO_RECEIVER (R401)? -/
def State.noReceiver (s : State) (c : Nat) : Bool := let k := s.coreCode c; k == 1 || decide (4 ≤ k)

/-- Does a thread run or wait, and is not stopped (R394)? -/
def FThread.active (h : FThread) : Bool := h.enabled && !h.halted && !h.faulted && h.dbgSince.isNone

/-- Is a thread ready: it may issue an instruction (R394)? -/
def State.threadReady (s : State) (c t : Nat) : Bool :=
  s.coreLive c && ((s.core c).thread t).active && ((s.core c).thread t).wait == .idle

/-- A thread's initiator identifier (R391). -/
def threadInit (c t : Nat) : Nat := 0x400 + 8 * c + t

/-! ### Channels -/

/-- The messages of a channel, the oldest first. -/
def FCore.queue (x : FCore) (ch : Nat) : List Msg := Tab.getD [] x.queues ch

/-- A channel's messages replaced. -/
def FCore.setQueue (x : FCore) (ch : Nat) (l : List Msg) : FCore := { x with queues := Tab.setD [] x.queues ch l }

/-- Free words of a channel (R399). -/
def FCore.room (x : FCore) (ch : Nat) : Nat :=
  ((Tab.look x.chans ch).map Chan.depth).getD 0 - ((x.queue ch).map fun m => m.words.length).sum

/-- A message takes its place in the order in which messages reach a channel (R400). -/
def insertMsg (m : Msg) : List Msg → List Msg
  | [] => [m]
  | a :: l => if m.readyAt < a.readyAt then m :: a :: l else a :: insertMsg m l

/-- A message enters a channel of a core. -/
def State.deliverMsg (s : State) (c ch : Nat) (m : Msg) : State :=
  let x := s.core c
  let s1 := s.setCore c (x.setQueue ch (insertMsg m (x.queue ch)))
  { s1 with fcx := { s1.fcx with delivered := if s1.fcx.delivered.contains c then s1.fcx.delivered else c :: s1.fcx.delivered } }

/-- Is a channel bound to a thread (R398)? -/
def FCore.boundTo (x : FCore) (ch t : Nat) : Bool :=
  match Tab.look x.chans ch with
  | some k => k.thread == t
  | none => false

/-- The channels a receive set names. -/
def maskChans (mask : Nat) : List Nat := (List.range 16).filter fun ch => natBit mask ch

/-- Does a thread count as blocked (R410)? -/
def FCore.blocked (x : FCore) (t : Nat) : Bool :=
  let h := x.thread t
  if !h.enabled || h.faulted || h.halted then true
  else if h.dbgSince.isSome then false
  else match h.wait with
    | .idle => false
    | .commit => true
    | .receive mask => (maskChans mask).all fun ch =>
        (x.queue ch).isEmpty && !(((Tab.look x.chans ch).map Chan.ext).getD false)

/-- FCX_THREAD.state of a thread. -/
def FCore.threadCode (x : FCore) (t : Nat) : Nat :=
  let h := x.thread t
  if !h.enabled then 0 else if h.faulted then 5 else if h.halted then 6 else if h.dbgSince.isSome then 4
  else if h.wait == .idle then 1 else if x.blocked t then 2 else 3

/-- Descriptors of a thread that the cipher array has accepted and not completed. -/
def State.descsOf (s : State) (c t : Nat) : Nat := Tab.count s.cph.descs fun _ d => d.core == c && d.thread == t

/-- When the last message on its way to a core is delivered; `none` while a reply is owed (R410). -/
def State.transitEnd (s : State) (c : Nat) : Option Nat :=
  let x := s.core c
  if x.reqs.isEmpty && x.timers.isEmpty && !s.cph.descs.any (fun p => p.2.core == c) then
    some ((x.queues.flatMap fun q => q.2.map Msg.readyAt).foldl Nat.max 0)
  else none

/-- The transient key of a thread is erased (R279). -/
def State.dropTransient (s : State) (c t : Nat) : State :=
  { s with cph := { s.cph with tkeys := Tab.del s.cph.tkeys (c * 8 + t) } }

/-! ### What the registers show -/

/-- A mask of the threads that a test holds of. -/
def threadMask (p : Nat → Bool) : Nat := ((List.range 8).map fun t => if p t then 2 ^ t else 0).sum

/-- FCX_CORE_STATUS and FCX_THREAD show a core. -/
def State.showCore (s : State) (c : Nat) : State :=
  let x := s.core c
  let live := s.coreLive c
  let exact := live && (x.st == .startup || s.mode == mDarkroom || s.mode == mTest)
  let v := s.coreCode c * 2 ^ 61 + b2n exact * 2 ^ 60 + b2n x.episode * 2 ^ 59 + threadMask (fun t => (x.thread t).faulted) * 2 ^ 48
    + (if live then threadMask x.blocked else 0) * 2 ^ 40 + threadMask (fun t => (x.thread t).dbgSince.isSome) * 2 ^ 32 + x.build % 2 ^ 32
  (List.range 8).foldl (fun t k => t.setF FCX_THREAD.state (x.threadCode k) c k)
    (s.setReg .FCX_CORE_STATUS (BitVec.ofNat 64 v) c)

/-- FCX_CNT. -/
def State.fcxCount (s : State) (k : Nat) : State := s.bump FCX_CNT.count k

/-! ### Notifications and faults (R407, R409) -/

/-- A notification enters the queue of a core's supervisor, behind a LOST entry where some were lost; a wait of thread 0 ends
with EVENT (R409). -/
def State.postNote (s : State) (c n : Nat) : State :=
  if !s.coreLive c then s
  else
    let x := s.core c
    let add := (if 0 < x.lost then [6 * 2 ^ 56 + x.lost % 2 ^ 16] else []) ++ [n]
    let room := 16 - x.notes.length
    let x1 := if room = 0 then { x with lost := x.lost + 1 }
      else { x with notes := x.notes ++ add.take room, lost := add.length - min room add.length }
    let h := x1.thread 0
    if h.wait == .idle then s.setCore c x1
    else (s.setCore c (x1.setThread 0 { h with wait := .idle })).emit (.threadMsg c 0 .event)

/-- A core leaves RUNNING: messages still in transit to it are discarded (R401). -/
def FCore.cutTransit (x : FCore) (now : Nat) : FCore :=
  { x with queues := (Tab.mapVals x.queues fun _ l => l.filter fun m => decide (m.readyAt ≤ now)).filter fun p => !p.2.isEmpty }

/-- A thread faults with a cause of Table 14-4 (R407). -/
def State.threadFault (s : State) (c t cause addr : Nat) : State :=
  let x := s.core c
  let x1 := x.setThread t { x.thread t with faulted := true, wait := .idle, dest := none, words := [] }
  let s1 := ((((s.setCore c x1).dropTransient c t).fcxCount 5).setF FCX_THREAD.cause cause c t).setF FCX_THREAD.fault_addr addr c t
  if t = 0 then
    let s2 := s1.setCore c { x1.cutTransit s.now with st := .faulted }
    s2.raise (30 + c / 32) (faultA 0x0003)
  else s1.postNote c (2 ^ 56 + t % 8 * 2 ^ 53 + cause % 16 * 2 ^ 48 + addr % 2 ^ 32)

/-- A fault that the module itself finds: where the thread stands in its program is a free value. -/
def State.threadFaults (s : State) (c t cause : Nat) : State := (s.draw 32).2.threadFault c t cause ((s.draw 32).1 / 8 * 8)

/-! ### Block endpoints (R404) -/

/-- Word `i` of a message, 0 where it has none. -/
def wordAt (l : List Nat) (i : Nat) : Nat := l.getD i 0 % 2 ^ 64

/-- The op of a request. -/
def FReq.op (r : FReq) : Nat := wordAt r.words 0 / 2 ^ 60
/-- The reply channel of a request. -/
def FReq.chan (r : FReq) : Nat := wordAt r.words 0 / 2 ^ 32 % 16
/-- The tag of a request. -/
def FReq.tag (r : FReq) : Nat := wordAt r.words 0 / 2 ^ 16 % 2 ^ 16

/-- An endpoint's reply reaches a channel of a core that runs, 6 FCLK on; its status, tag, the low bits of word 0 and
further words. -/
def State.replyOn (s : State) (c ep chan status tag low : Nat) (rest : List Nat) : State :=
  if s.coreLive c then
    s.deliverMsg c chan ⟨(status % 256 * 2 ^ 56 + tag % 2 ^ 16 * 2 ^ 40 + low % 2 ^ 40) :: rest, 2 ^ 15 + ep, s.now + 6 * fclk⟩
  else s

/-- A reply to a request. -/
def State.reply (s : State) (c : Nat) (r : FReq) (status low : Nat) (rest : List Nat) : State :=
  s.replyOn c r.ep r.chan status r.tag low rest

/-- The oldest request of a thread that an endpoint holds. -/
def State.request? (s : State) (c t ep : Nat) : Option FReq := (s.core c).reqs.find? fun r => r.ep == ep && r.thread == t

/-- A list without the first element equal to one. -/
def dropFirst {α : Type} [DecidableEq α] (a : α) : List α → List α
  | [] => []
  | b :: l => if a = b then l else b :: dropFirst a l

/-- A request is taken out of its endpoint. -/
def State.takeReq (s : State) (c : Nat) (r : FReq) : State :=
  let x := s.core c
  s.setCore c { x with reqs := dropFirst r x.reqs }

/-- Is a CORE request malformed: an op that the table does not list or that is thread 0's, a missing word, a delay beyond
2^32 (Table 14-5)? -/
def FReq.coreBad (r : FReq) : Bool :=
  r.op == 0 || decide (6 < r.op) || (decide (3 ≤ r.op) && r.thread != 0)
    || ((r.op == 2 || r.op == 4 || r.op == 5) && decide (r.words.length < 2))
    || (r.op == 2 && decide (2 ^ 32 < wordAt r.words 1))

/-- Is a CPH, PBF or MEM request malformed in its op or its number of words (R264, R405, R406)? -/
def FReq.blockBad (r : FReq) : Bool :=
  if r.ep = 2 then
    r.op == 0 || decide (5 < r.op) || decide (r.words.length < (if r.op = 5 then 1 else if r.op = 4 then 2 else if r.op = 3 then 4 else 3))
  else if r.ep = 1 then r.op == 0 || decide (3 < r.op) || decide (r.words.length ≠ 3)
  else if r.ep = 3 then r.op == 0 || decide (2 < r.op) || decide (r.words.length < 3)
  else false

/-- May a core use endpoints 4 to 6 (FCX_SYS_CORES)? -/
def State.sysCore (s : State) (c : Nat) : Bool := natBit (s.getF FCX_SYS_CORES.cores (c / 64)) (c % 64)

/-- May a core send to an endpoint (Table 14-3)? -/
def State.epOk (s : State) (c ep : Nat) : Bool := decide (ep < 4) || (decide (ep < 7) && s.sysCore c)

/-! ### Commits and receives (R399–R402) -/

/-- The staging buffer of a thread empties and its operation ends. -/
def State.endCommit (s : State) (c t : Nat) (r : ChanResult) : State :=
  (s.setThread c t { (s.core c).thread t with dest := none, words := [], wait := .idle }).emit (.threadMsg c t r)

/-- A commit to a block endpoint that takes it: an endpoint that the core may not use or a malformed CORE request is a fault, a
malformed request elsewhere is answered MALFORMED, and DRT and NVE answer as their programs do. -/
def State.commitBlock (s : State) (c t ep : Nat) (r : FReq) : State :=
  if !s.epOk c ep then s.threadFaults c t 8
  else if ep = 0 ∧ r.coreBad = true then s.threadFaults c t 8
  else if !(s.core c).boundTo r.chan t then s.threadFaults c t 5
  else
    let s1 := s.endCommit c t .committed
    if ep = 4 ∨ ep = 5 then (s1.draw 8).2.reply c r (s1.draw 8).1 0 []
    else if r.blockBad then (if ep = 1 then s1.bump CPH_CNT.count 5 else s1).reply c r stMalformed 0 []
    else let x := s1.core c; s1.setCore c { x with reqs := x.reqs ++ [r] }

/-- A thread's commit is tried; it keeps waiting while its destination has no room. -/
def State.tryCommit (s : State) (c t : Nat) : State :=
  let h := (s.core c).thread t
  match h.dest with
  | none => s
  | some d =>
    if 2 ^ 15 ≤ d then
      let ep := d % 16
      let r : FReq := ⟨ep, t, h.words⟩
      if d % 2 ^ 15 ≠ ep then s.threadFaults c t 8
      else if 4 ≤ ((s.core c).reqs.filter fun q => q.ep == ep && q.thread == t).length + (if ep = 1 then s.descsOf c t
          else if ep = 0 then (s.core c).timers.countP fun k => k.thread == t else 0) then s
      else s.commitBlock c t ep r
    else
      let b := d / 128 % 128
      if s.noReceiver b then ((s.fcxCount 4).endCommit c t .noReceiver)
      else if decide (2 ^ 14 ≤ d) || !(s.core b).boundTo (d % 16) (d / 16 % 8) then s.threadFaults c t 5
      else if h.words.length ≤ (s.core b).room (d % 16) then
        (s.endCommit c t .committed).deliverMsg b (d % 16)
          ⟨h.words, c * 128 + t * 16, s.now + (if b = c then 2 else 6) * fclk⟩
      else s

/-- A thread's receive is tried: the oldest complete message of the lowest channel of its set that holds one (R402). -/
def State.tryReceive (s : State) (c t mask : Nat) : State :=
  let x := s.core c
  let full (ch : Nat) : Bool := match x.queue ch with
    | m :: _ => decide (m.readyAt ≤ s.now)
    | [] => false
  match (maskChans mask).find? full with
  | none => s
  | some ch =>
    match x.queue ch with
    | [] => s
    | m :: rest =>
      (s.setCore c ((x.setQueue ch rest).setThread t { x.thread t with wait := .idle })).emit
        (.threadMsg c t (.received m.words m.src))

/-- A thread's waiting operation is tried, receives or commits. -/
def State.tryThread (s : State) (c t : Nat) (receives : Bool) : State :=
  let h := (s.core c).thread t
  if !s.coreLive c || !h.active then s
  else match h.wait with
    | .idle => s
    | .commit => if receives then s else s.tryCommit c t
    | .receive mask => if receives then s.tryReceive c t mask else s

/-- Since when all threads of a core are blocked, and the end of a DEADLOCK episode (R411). -/
def State.trackBlocked (s : State) (c : Nat) : State :=
  let x := s.core c
  if s.coreLive c && (List.range 8).all x.blocked then
    s.setCore c { x with allSince := some (x.allSince.getD s.now) }
  else s.setCore c { x with allSince := none, episode := false }

/-- Waiting operations that can now end do, in order of core and thread (R400), and the registers show the cores. -/
def State.settleCores (s : State) : State :=
  let cs := Tab.keys s.fcx.cores
  let all (u : State) (receives : Bool) : State :=
    cs.foldl (fun v c => (List.range 8).foldl (fun w t => w.tryThread c t receives) v) u
  let s1 := all (all s true) false
  cs.foldl (fun v c => (v.trackBlocked c).showCore c) s1

/-- A slice starts its reset sequence: SLICE_RESET goes to the supervisor of every core with a thread bound to it (R423). -/
def State.noteSliceReset (s : State) (g : Nat) : State :=
  ((Tab.keys s.fcx.cores).filter fun c => (List.range 8).any fun t =>
      s.flag FCX_THREAD.slice_en c t && s.getF FCX_THREAD.slice c t == g).foldl
    (fun u c => (u.postNote c (5 * 2 ^ 56 + g % 2 ^ 14))) s

end Sys2Proof.Machine
end

