-- ==== Sys2Proof/Machine/Crypto.lean ====
section
/-! DEFINITION. The published algorithms that the spec names: AES and its modes CMAC, GCM and KW, the KDF of R253, GF(2^128)
arithmetic (R415), SHA-384 and ECDSA on P-384 (spec/09, spec/16). A block is its bytes, first byte first. The spec names these
standards and does not print them, so their text here is PRESUMED (notes/assumptions). -/

namespace Sys2Proof.Machine

/-! ### AES (FIPS 197) -/

/-- Multiplication by x in GF(2^8). -/
def gf8x (a : Nat) : Nat := if a < 128 then 2 * a else (2 * a - 256) ^^^ 0x1B

/-- Multiplication in GF(2^8), over the low `n` bits of the second factor. -/
def gf8mul (a b : Nat) : Nat → Nat
  | 0 => 0
  | n + 1 => (if b % 2 = 1 then a else 0) ^^^ gf8mul (gf8x a) (b / 2) n

/-- The `n`-th power in GF(2^8). -/
def gf8pow (a : Nat) : Nat → Nat
  | 0 => 1
  | n + 1 => gf8mul a (gf8pow a n) 8

/-- A byte rotated left. -/
def rotl8 (a n : Nat) : Nat := (a * 2 ^ n) % 256 + a / 2 ^ (8 - n)

/-- The substitution of one byte: the inverse in GF(2^8), then the affine map. -/
def aesSub (a : Nat) : Nat :=
  let b := gf8pow a 254
  b ^^^ rotl8 b 1 ^^^ rotl8 b 2 ^^^ rotl8 b 3 ^^^ rotl8 b 4 ^^^ 0x63

/-- The inverse substitution. -/
def aesSubInv (a : Nat) : Nat := ((List.range 256).find? fun x => aesSub x == a).getD 0

/-- Byte strings combined by exclusive or. -/
def xorL (a b : List Nat) : List Nat := List.zipWith (· ^^^ ·) a b

/-- One more word of the key schedule, from the words so far. -/
def aesNextWord (nk : Nat) (ws : List (List Nat)) : List Nat :=
  let i := ws.length
  let t := ws.getD (i - 1) []
  let t' := if i % nk = 0 then xorL ((t.drop 1 ++ t.take 1).map aesSub) [gf8pow 2 (i / nk - 1), 0, 0, 0]
    else if nk = 8 ∧ i % 8 = 4 then t.map aesSub else t
  xorL (ws.getD (i - nk) []) t'

/-- `n` further words of the key schedule. -/
def aesExpand (nk : Nat) : Nat → List (List Nat) → List (List Nat)
  | 0, ws => ws
  | n + 1, ws => aesExpand nk n (ws ++ [aesNextWord nk ws])

/-- A string cut into pieces of `n`. -/
def chunksN {α : Type} (n : Nat) : Nat → List α → List (List α)
  | 0, _ => []
  | k + 1, l => l.take n :: chunksN n k (l.drop n)

/-- The round keys of a key of 16 or 32 bytes, 16 bytes each. -/
def aesRoundKeys (key : List Nat) : List (List Nat) :=
  let nk := key.length / 4
  let ws := aesExpand nk (4 * (nk + 7) - nk) (chunksN 4 nk key)
  chunksN 16 (nk + 7) ws.flatten

/-- The row shift: byte i comes from byte (i + 4·(i mod 4)) mod 16. -/
def aesShift (b : List Nat) : List Nat := (List.range 16).map fun i => b.getD ((i + 4 * (i % 4)) % 16) 0

/-- The inverse row shift. -/
def aesShiftInv (b : List Nat) : List Nat := (List.range 16).map fun i => b.getD ((i + 16 - 4 * (i % 4)) % 16) 0

/-- The columns mixed by the circulant of four coefficients. -/
def aesMix (c : List Nat) (b : List Nat) : List Nat :=
  (List.range 16).map fun i =>
    (List.range 4).foldl (fun a j => a ^^^ gf8mul (b.getD (i / 4 * 4 + (i + j) % 4) 0) (c.getD j 0) 4) 0

/-- AES encryption of one block. -/
def aesEnc (key blk : List Nat) : List Nat :=
  let rk := aesRoundKeys key
  let n := rk.length - 1
  let mid := (List.range (n - 1)).foldl (fun st i => xorL (aesMix [2, 3, 1, 1] (aesShift (st.map aesSub))) (rk.getD (i + 1) []))
    (xorL blk (rk.getD 0 []))
  xorL (aesShift (mid.map aesSub)) (rk.getD n [])

/-- AES decryption of one block. -/
def aesDec (key blk : List Nat) : List Nat :=
  let rk := aesRoundKeys key
  let n := rk.length - 1
  let mid := (List.range (n - 1)).foldl (fun st i =>
      aesMix [14, 11, 13, 9] (xorL ((aesShiftInv st).map aesSubInv) (rk.getD (n - 1 - i) []))) (xorL blk (rk.getD n []))
  xorL ((aesShiftInv mid).map aesSubInv) (rk.getD 0 [])

/-- Bytes as numbers. -/
def natsOf (b : List Byte) : List Nat := b.map BitVec.toNat

/-- Numbers as bytes. -/
def bytesOf (l : List Nat) : List Byte := l.map (BitVec.ofNat 8)

/-- A key held as a number, as 16 or 32 bytes, the first most significant. -/
def keyOf (long : Bool) (k : Nat) : List Nat := natsOf (beBytes (if long then 32 else 16) k)

/-! ### CMAC and the pair key (SP 800-38B, R253) -/

/-- A CMAC subkey: a doubling in GF(2^128). -/
def cmacDouble (b : List Nat) : List Nat :=
  let v := beNat (bytesOf b)
  natsOf (beBytes 16 (if v < 2 ^ 127 then 2 * v else (2 * v - 2 ^ 128) ^^^ 0x87))

/-- AES-CMAC of a message. -/
def aesCmac (key msg : List Nat) : List Nat :=
  let k1 := cmacDouble (aesEnc key (List.replicate 16 0))
  let n := if msg.isEmpty then 1 else ceilDiv msg.length 16
  let last := msg.drop (16 * (n - 1))
  let m := if last.length = 16 then xorL last k1
    else xorL ((last ++ [0x80] ++ List.replicate 16 0).take 16) (cmacDouble k1)
  aesEnc key (xorL ((chunksN 16 (n - 1) msg).foldl (fun x b => aesEnc key (xorL x b)) (List.replicate 16 0)) m)

/-- The Drugrim pair key of a domain key, domain, epoch and two endpoints, as a number of 256 bits (R253). -/
def pairKey (domainKey domain epoch a b : Nat) : Nat :=
  let ctx := beBytes 2 domain ++ beBytes 2 epoch ++ beBytes 3 (min a b) ++ beBytes 3 (max a b)
  let k (i : Nat) : List Nat := aesCmac (keyOf true domainKey)
    ([i, 0x44, 0x52, 0x47, 0x50, 0] ++ natsOf ctx ++ [1, 0])
  beNat (bytesOf (k 1 ++ k 2))

/-! ### GF(2^128) and GCM (SP 800-38D, IEEE 1619, R415) -/

/-- The product of two elements held as numbers whose most significant bit is the coefficient of x^0, over `n` further bits. -/
def ghashMul (x y : Nat) : Nat → Nat → Nat
  | 0, z => z
  | n + 1, z => ghashMul x (if y % 2 = 1 then (y / 2) ^^^ (0xE1 * 2 ^ 120) else y / 2) n (if natBit x n then z ^^^ y else z)

/-- GMUL of two 16-byte elements. -/
def gmul (x y : List Byte) : List Byte := beBytes 16 (ghashMul (beNat x) (beNat y) 128 0)

/-- XMUL: a tweak multiplied by α. -/
def xmul (x : List Byte) : List Byte :=
  let v := leNat x
  leBytes 16 (if v < 2 ^ 127 then 2 * v else (2 * v - 2 ^ 128) ^^^ 0x87)

/-- A string padded with zero bytes to whole blocks. -/
def pad16 (b : List Byte) : List Byte := b ++ zeroBytes ((16 - b.length % 16) % 16)

/-- GHASH of whole blocks. -/
def ghash (h : Nat) (b : List Byte) : Nat :=
  (chunksN 16 (b.length / 16) b).foldl (fun z x => ghashMul (z ^^^ beNat x) h 128 0) 0

/-- The counter block with its low 32 bits advanced (R266). -/
def ctrBlock (seed : List Byte) (i : Nat) : List Byte := seed.take 12 ++ beBytes 4 ((beNat (seed.drop 12) + i) % 2 ^ 32)

/-- The keystream exclusive-ored over data, from counter 1 after the seed. -/
def gcmCtr (key : List Nat) (j0 data : List Byte) : List Byte :=
  let n := ceilDiv data.length 16
  let ks := ((List.range n).map fun i => bytesOf (aesEnc key (natsOf (ctrBlock j0 (i + 1))))).flatten
  List.zipWith (· ^^^ ·) data ks

/-- The GCM tag. -/
def gcmTag (key : List Nat) (j0 aad ct : List Byte) : List Byte :=
  let h := beNat (bytesOf (aesEnc key (List.replicate 16 0)))
  let g := ghash h (pad16 aad ++ pad16 ct ++ beBytes 8 (8 * aad.length) ++ beBytes 8 (8 * ct.length))
  List.zipWith (· ^^^ ·) (beBytes 16 g) (bytesOf (aesEnc key (natsOf j0)))

/-- AES-256-GCM sealing with a 96-bit IV: ciphertext and tag. -/
def gcmSeal (key : Nat) (iv aad pt : List Byte) : List Byte :=
  let k := keyOf true key
  let j0 := iv ++ [0, 0, 0, 1]
  let ct := gcmCtr k j0 pt
  ct ++ gcmTag k j0 aad ct

/-- AES-256-GCM opening: the plaintext, where the tag holds. -/
def gcmOpen (key : Nat) (iv aad sealed : List Byte) : Option (List Byte) :=
  let k := keyOf true key
  let j0 := iv ++ [0, 0, 0, 1]
  let ct := sealed.take (sealed.length - 16)
  if sealed.length < 16 ∨ gcmTag k j0 aad ct ≠ sealed.drop (sealed.length - 16) then none else some (gcmCtr k j0 ct)

/-! ### Key wrapping (SP 800-38F, KW) -/

/-- One step of the unwrapping of `n` halves: step `t`, from the highest. -/
def kwSteps (kek : List Nat) (n : Nat) : Nat → List Nat × List (List Nat) → List Nat × List (List Nat)
  | 0, s => s
  | t + 1, (a, r) =>
    let i := t % n
    let a' := xorL a (natsOf (beBytes 8 (t + 1)))
    let b := aesDec kek (a' ++ r.getD i [])
    kwSteps kek n t (b.take 8, r.set i (b.drop 8))

/-- The key that a wrapped string of 24 or 40 bytes holds, where its integrity value is right. -/
def kwUnwrap (kek : List Nat) (w : List Byte) : Option Nat :=
  let n := w.length / 8 - 1
  let s := kwSteps kek n (6 * n) (natsOf (w.take 8), chunksN 8 n (natsOf (w.drop 8)))
  if s.1 = List.replicate 8 0xA6 then some (beNat (bytesOf s.2.flatten)) else none

/-! ### SHA-384 (FIPS 180-4) -/

/-- The largest number whose `k`-th power is at most `n`, bit by bit from bit `b`. -/
def rootOf (k n : Nat) : Nat → Nat → Nat
  | 0, r => r
  | b + 1, r => rootOf k n b (if (r + 2 ^ b) ^ k ≤ n then r + 2 ^ b else r)

/-- The first 80 primes. -/
def shaPrimes : List Nat := (List.range 410).filter fun n => decide (2 ≤ n) && (List.range n).all fun d => d < 2 || n % d != 0

/-- A constant of the round function: 64 fraction bits of a cube root. -/
def shaK (i : Nat) : Nat := rootOf 3 (shaPrimes.getD i 0 * 2 ^ 192) 68 0 % 2 ^ 64

/-- The initial hash: 64 fraction bits of the square roots of the ninth to sixteenth primes. -/
def sha384Init : List Nat := (List.range 8).map fun i => rootOf 2 (shaPrimes.getD (i + 8) 0 * 2 ^ 128) 68 0 % 2 ^ 64

/-- A 64-bit word rotated right. -/
def ror64 (x n : Nat) : Nat := x / 2 ^ n + x % 2 ^ n * 2 ^ (64 - n)

/-- The message schedule: `n` further words. -/
def shaSchedule : Nat → List Nat → List Nat
  | 0, w => w
  | n + 1, w =>
    let t := w.length
    let a := w.getD (t - 15) 0
    let b := w.getD (t - 2) 0
    let s0 := ror64 a 1 ^^^ ror64 a 8 ^^^ a / 2 ^ 7
    let s1 := ror64 b 19 ^^^ ror64 b 61 ^^^ b / 2 ^ 6
    shaSchedule n (w ++ [(w.getD (t - 16) 0 + s0 + w.getD (t - 7) 0 + s1) % 2 ^ 64])

/-- One round. -/
def shaRound (h : List Nat) (k w : Nat) : List Nat :=
  let v (i : Nat) : Nat := h.getD i 0
  let s1 := ror64 (v 4) 14 ^^^ ror64 (v 4) 18 ^^^ ror64 (v 4) 41
  let ch := (v 4 &&& v 5) ^^^ ((2 ^ 64 - 1 - v 4) &&& v 6)
  let t1 := v 7 + s1 + ch + k + w
  let s0 := ror64 (v 0) 28 ^^^ ror64 (v 0) 34 ^^^ ror64 (v 0) 39
  let maj := (v 0 &&& v 1) ^^^ (v 0 &&& v 2) ^^^ (v 1 &&& v 2)
  [(t1 + s0 + maj) % 2 ^ 64, v 0, v 1, v 2, (v 3 + t1) % 2 ^ 64, v 4, v 5, v 6]

/-- One block of 128 bytes. -/
def shaBlock (h : List Nat) (b : List Byte) : List Nat :=
  let w := shaSchedule 64 ((chunksN 8 16 b).map beNat)
  let r := (List.range 80).foldl (fun x i => shaRound x (shaK i) (w.getD i 0)) h
  List.zipWith (fun x y => (x + y) % 2 ^ 64) h r

/-- SHA-384 of a string, as a number of 384 bits. -/
def sha384 (m : List Byte) : Nat :=
  let p := m ++ [0x80] ++ zeroBytes ((239 - m.length % 128) % 128) ++ beBytes 16 (8 * m.length)
  let h := (chunksN 128 (p.length / 128) p).foldl shaBlock sha384Init
  beNat (((h.take 6).map (beBytes 8)).flatten)

/-! ### ECDSA on P-384 (FIPS 186-4) -/

/-- The field prime, group order, curve constant and base point of P-384. -/
def p384P : Nat := 2 ^ 384 - 2 ^ 128 - 2 ^ 96 + 2 ^ 32 - 1
def p384N : Nat := 0xFFFFFFFFFFFFFFFFFFFFFFFFFFFFFFFFFFFFFFFFFFFFFFFFC7634D81F4372DDF581A0DB248B0A77AECEC196ACCC52973
def p384B : Nat := 0xB3312FA7E23EE7E4988E056BE3F82D19181D9C6EFE8141120314088F5013875AC656398D8A2ED19D2A85C8EDD3EC2AEF
def p384Gx : Nat := 0xAA87CA22BE8B05378EB1C71EF320AD746E1D3B628BA79B9859F741E082542A385502F25DBF55296C3A545E3872760AB7
def p384Gy : Nat := 0x3617DE4A96262C6F5D9E98BF9292DC29F8F41DBD289A147CE9DA3113B5F0B8C00A60B1CE1D7E819D7A431D7C90EA0E5F

/-- A power modulo `m`, over `n` bits of the exponent. -/
def powMod (m a e : Nat) : Nat → Nat
  | 0 => 1 % m
  | n + 1 => let h := powMod m (a * a % m) (e / 2) n; if e % 2 = 1 then a * h % m else h

/-- The inverse modulo a prime. -/
def invMod (p a : Nat) : Nat := powMod p (a % p) (p - 2) 384

/-- A point of the curve by x, y and z: (x / z², y / z³), and the point at infinity where z is 0. -/
abbrev P384Point := Nat × Nat × Nat

/-- A difference modulo the prime. -/
def p384Sub (a b : Nat) : Nat := (a + p384P - b % p384P) % p384P

/-- A point twice. -/
def p384Double (q : P384Point) : P384Point :=
  let d := q.2.2 * q.2.2 % p384P
  let g := q.2.1 * q.2.1 % p384P
  let b := q.1 * g % p384P
  let a := 3 * p384Sub q.1 d * (q.1 + d) % p384P
  let x := p384Sub (a * a) (8 * b)
  (x, p384Sub (a * p384Sub (4 * b) x) (8 * g * g), 2 * q.2.1 * q.2.2 % p384P)

/-- The sum of two points. -/
def p384Add (a b : P384Point) : P384Point :=
  if a.2.2 = 0 then b
  else if b.2.2 = 0 then a
  else
    let za := a.2.2 * a.2.2 % p384P
    let zb := b.2.2 * b.2.2 % p384P
    let u := a.1 * zb % p384P
    let v := a.2.1 * zb % p384P * b.2.2 % p384P
    let h := p384Sub (b.1 * za) u
    let r := p384Sub (b.2.1 * za % p384P * a.2.2) v
    if h = 0 then (if r = 0 then p384Double a else (1, 1, 0))
    else
      let hh := h * h % p384P
      let c := hh * h % p384P
      let m := u * hh % p384P
      let x := p384Sub (r * r) (c + 2 * m)
      (x, p384Sub (r * p384Sub m x) (v * c), h * a.2.2 % p384P * b.2.2 % p384P)

/-- A multiple of a point, over `n` bits. -/
def p384Mul (k : Nat) (q : P384Point) : Nat → P384Point
  | 0 => (1, 1, 0)
  | n + 1 => let h := p384Mul (k / 2) (p384Double q) n; if k % 2 = 1 then p384Add q h else h

/-- The coordinates of a point; none of the point at infinity. -/
def p384Affine (q : P384Point) : Option (Nat × Nat) :=
  if q.2.2 = 0 then none
  else
    let i := invMod p384P q.2.2
    some (q.1 * (i * i % p384P) % p384P, q.2.1 * (i * i % p384P * i % p384P) % p384P)

/-- Does a signature of 96 bytes over a SHA-384 digest hold under a public key of 96 bytes (x then y)? -/
def ecdsaOk (pub : List Byte) (digest : Nat) (sig : List Byte) : Bool :=
  let qx := beNat (pub.take 48)
  let qy := beNat (sliceBytes pub 48 48)
  let r := beNat (sig.take 48)
  let s := beNat (sliceBytes sig 48 48)
  let onCurve := decide (qx < p384P ∧ qy < p384P ∧ qy * qy % p384P = (qx * qx * qx + (p384P - 3) * qx + p384B) % p384P)
  let w := invMod p384N s
  let pt := p384Add (p384Mul (digest * w % p384N) (p384Gx, p384Gy, 1) 384) (p384Mul (r * w % p384N) (qx, qy, 1) 384)
  onCurve && decide (0 < r ∧ r < p384N ∧ 0 < s ∧ s < p384N)
    && (match p384Affine pt with | some (x, _) => x % p384N == r | none => false)

/-- The points of the curve with an x coordinate: the prime is 3 modulo 4. -/
def p384Lift (x : Nat) : List P384Point :=
  let v := (x * x * x + (p384P - 3) * x + p384B) % p384P
  let y := powMod p384P v ((p384P + 1) / 4) 384
  if x < p384P ∧ y * y % p384P = v then [(x, y, 1), (x, (p384P - y) % p384P, 1)] else []

/-- The public keys under which a signature holds over a digest: r⁻¹ (s R − e G) for each point R that r stands for. -/
def ecdsaKeys (digest : Nat) (sig : List Byte) : List (List Byte) :=
  let r := beNat (sig.take 48)
  let s := beNat (sliceBytes sig 48 48)
  let w := invMod p384N r
  let e := (p384N - digest % p384N) % p384N
  let pts := (p384Lift r ++ p384Lift (r + p384N)).filterMap fun p =>
    p384Affine (p384Add (p384Mul (s * w % p384N) p 384) (p384Mul (e * w % p384N) (p384Gx, p384Gy, 1) 384))
  (pts.map fun q => beBytes 48 q.1 ++ beBytes 48 q.2).filter fun k => ecdsaOk k digest sig

end Sys2Proof.Machine
end

