-- ==== Sys2Proof/Machine/Image.lean ====
section
/-! DEFINITION. Firmware images: the stores of Table 16-1, the header and manifest of R455 and R456, and the checks of Table 16-4. -/

namespace Sys2Proof.Machine

/-! ### Stores (Table 16-1) -/

/-- The capacity of a slot. -/
def slotSize : Nat := 0x6000000

/-- The module address of slot A (0) or B (1). -/
def slotBase (slot : Nat) : Nat := 0x10000000 + slot * slotSize

/-- The bytes of a store (BOOT_STATUS.store: 1 slot A, 2 slot B, 3 golden) from an offset. -/
def State.storeBytes (s : State) (store o n : Nat) : List Byte :=
  if store = 3 then fitBytes n (sliceBytes Config.goldenImage o n) else s.bytes (slotBase (store - 1) + o) n

/-- A reader of an image: `n` bytes from an offset. -/
abbrev ImageReader := Nat → Nat → List Byte

/-- A little-endian number of an image. -/
def imageLe (rd : ImageReader) (o n : Nat) : Nat := leNat (rd o n)

/-- A reader of an image held as bytes. -/
def readerOf (b : List Byte) : ImageReader := fun o n => fitBytes n (sliceBytes b o n)

/-! ### Header and manifest (R455, R456) -/

def imageLength (rd : ImageReader) : Nat := imageLe rd 8 4
def imageVersion (rd : ImageReader) : Nat := imageLe rd 12 4
def imageSvn (rd : ImageReader) : Nat := imageLe rd 16 2
def imageKeySlot (rd : ImageReader) : Nat := imageLe rd 18 1
def imageBuild (rd : ImageReader) : Nat := imageLe rd 20 8

/-- Are `n` bytes zero? -/
def zerosAt (rd : ImageReader) (o n : Nat) : Bool := (rd o n).all (· == 0)

/-- The rules of Table 16-2 beyond the magic, for a slot or the golden store. -/
def headerForm (rd : ImageReader) (golden : Bool) : Bool :=
  decide (imageLe rd 4 2 = 1 ∧ imageLe rd 6 2 = 0x8640 ∧ imageLength rd % 4096 = 0 ∧ 8192 ≤ imageLength rd)
    && decide (imageLength rd ≤ if golden then slotSize / 2 else slotSize)
    && decide (imageSvn rd ≤ 63 ∧ imageKeySlot rd ≤ 7 ∧ imageLe rd 19 1 = b2n golden)
    && zerosAt rd 28 4 && zerosAt rd 80 16 && zerosAt rd 288 224

/-- A manifest entry. -/
structure ImagePart where
  typ : Nat
  index : Nat
  pad : Nat
  version : Nat
  off : Nat
  len : Nat
  digest : Nat
deriving DecidableEq, Repr

/-- The manifest's part count. -/
def partCount (rd : ImageReader) : Nat := imageLe rd 512 4

/-- The manifest's entries, at most 32. -/
def imageParts (rd : ImageReader) : List ImagePart :=
  (List.range (min (partCount rd) 32)).map fun i =>
    let o := 520 + 64 * i
    ⟨imageLe rd o 1, imageLe rd (o + 1) 1, imageLe rd (o + 2) 2, imageLe rd (o + 4) 4, imageLe rd (o + 8) 4,
      imageLe rd (o + 12) 4, beNat (rd (o + 16) 48)⟩

/-- The index rule of a part's type (Table 16-3). -/
def partIndexOk (p : ImagePart) : Bool :=
  if p.typ = 1 ∨ p.typ = 3 ∨ p.typ = 4 then p.index == 0
  else if p.typ = 2 then decide (p.index ≤ 15)
  else if p.typ = 5 then decide (1 ≤ p.index ∧ p.index ≤ 3)
  else false

/-- Does a part list hold a part of a type and index? -/
def hasPart (ps : List ImagePart) (t i : Nat) : Bool := ps.any fun p => p.typ == t && p.index == i

/-- The rules of R456 and Table 16-3: entries well formed, inside the image and apart, none duplicated, none required missing. -/
def manifestForm (rd : ImageReader) : Bool :=
  let ps := imageParts rd
  let n := partCount rd
  let apart (a b : ImagePart) : Bool := decide (a.off + a.len ≤ b.off ∨ b.off + b.len ≤ a.off)
  let pairs := (List.range ps.length).all fun i => (ps.drop (i + 1)).all fun b =>
    match ps[i]? with
    | some a => apart a b && !(a.typ == b.typ && a.index == b.index)
    | none => true
  decide (1 ≤ n ∧ n ≤ 32) && zerosAt rd 516 4
    && ps.all (fun p => partIndexOk p && p.pad == 0 && decide (p.off % 64 = 0 ∧ 1 ≤ p.len ∧ p.off + p.len ≤ imageLength rd))
    && pairs && hasPart ps 1 0 && hasPart ps 2 0 && hasPart ps 2 1 && hasPart ps 3 0

/-! ### Validity (R457, Table 16-4) -/

/-- The names of Table 16-4's reasons. -/
def rsnAbsent : Nat := 1
def rsnForm : Nat := 2
def rsnKeyAbsent : Nat := 3
def rsnKeyRevoked : Nat := 4
def rsnKeyHash : Nat := 5
def rsnSignature : Nat := 6
def rsnSvn : Nat := 7
def rsnPart : Nat := 8
def rsnTries : Nat := 9
def rsnNotTried : Nat := 10

/-- Checks 1 and 3 to 5 and 7 with check 2 over the header, the signature being checked where `sign` says so. -/
def headerCheck (fu : Fuse) (rd : ImageReader) (golden sign : Bool) (form : Bool) : Nat :=
  if imageLe rd 0 4 ≠ 0x4D494648 then rsnAbsent
  else if !headerForm rd golden || !form then rsnForm
  else if !natBit fu.keyPresent (imageKeySlot rd) then rsnKeyAbsent
  else if natBit fu.keyRevoked (imageKeySlot rd) then rsnKeyRevoked
  else if sha384 (rd 96 96) ≠ fu.keyHash.getD (imageKeySlot rd) 0 then rsnKeyHash
  else if sign && !ecdsaOk (rd 96 96) (sha384 (rd 0 192)) (rd 192 96) then rsnSignature
  else if imageSvn rd < fu.rollback then rsnSvn
  else 0

/-- Checks 1 to 7 and 9, of a store whose tries count stands at `tries`. -/
def imageCheck (fu : Fuse) (rd : ImageReader) (golden : Bool) (tries : Nat) : Nat :=
  let r := headerCheck fu rd golden true (manifestForm rd)
  if r ≠ 0 then r else if 3 ≤ tries then rsnTries else 0

/-- Check 8: the manifest digest, and the digest of every part but a member requirement, whose digest is another image's. -/
def digestsOk (rd : ImageReader) : Bool :=
  decide (sha384 (rd 512 (imageLength rd - 512)) = beNat (rd 32 48))
    && (imageParts rd).all fun p => p.typ == 5 || decide (sha384 (rd p.off p.len) = p.digest)

/-- Checks 1 to 8 in reason order. -/
def imageValid (fu : Fuse) (rd : ImageReader) (golden : Bool) : Bool :=
  headerCheck fu rd golden true (manifestForm rd) == 0 && digestsOk rd

/-- The tries count of a store (BOOT_PERSIST). -/
def triesField (store : Nat) : Fld :=
  if store = 1 then BOOT_PERSIST.tries_a else if store = 2 then BOOT_PERSIST.tries_b else BOOT_PERSIST.tries_g

/-- The reason field of a store (BOOT_STATUS). -/
def failField (store : Nat) : Fld :=
  if store = 1 then BOOT_STATUS.fail_a else if store = 2 then BOOT_STATUS.fail_b else BOOT_STATUS.fail_g

/-- All nine checks of a store as it stands, in reason order. -/
def State.storeReason (s : State) (store : Nat) : Nat :=
  let rd := s.storeBytes store
  let r := headerCheck s.fuse rd (store == 3) true (manifestForm rd)
  if r ≠ 0 then r else if !digestsOk rd then rsnPart else if 3 ≤ s.getF (triesField store) then rsnTries else 0

/-- The content of a part of the image in a store; nothing where the manifest lists none. -/
def State.storePart (s : State) (store t i : Nat) : List Byte :=
  match (imageParts (s.storeBytes store)).find? fun p => p.typ == t && p.index == i with
  | some p => s.storeBytes store p.off p.len
  | none => []

/-- A slot's header is erased (R476). -/
def State.eraseHeader (s : State) (slot : Nat) : State := s.setBytes (slotBase slot) (zeroBytes 512)

end Sys2Proof.Machine
end

