-- ==== Sys2Proof/Machine/Hash.lean ====
section
/-! DEFINITION. The two cyclic redundancy checks of the spec: CRC-32C with a seed (R127, image checks) and the FCS of
IEEE 802.3 (R198). -/

namespace Sys2Proof.Machine

/-- `n` shifts of a reflected CRC register. -/
def crcShift (poly : Nat) : Nat → Nat → Nat
  | 0, r => r
  | n + 1, r => crcShift poly n (if r % 2 = 1 then (r / 2) ^^^ poly else r / 2)

/-- A reflected CRC register after a string of bytes. -/
def crcRun (poly : Nat) (bs : List Byte) (r : Nat) : Nat := bs.foldl (fun a b => crcShift poly 8 (a ^^^ b.toNat)) r

/-- CRC-32C from a seed, as R127 gives it. -/
def crc32c (seed : Nat) (key : List Byte) : Nat := crcRun 0x82F63B78 key seed ^^^ 0xFFFFFFFF

/-- The FCS of a frame, as a number whose least significant byte is sent first. -/
def fcsOf (bs : List Byte) : Nat := crcRun 0xEDB88320 bs 0xFFFFFFFF ^^^ 0xFFFFFFFF

/-- Do the last four bytes of a frame hold its FCS? -/
def fcsGood (bs : List Byte) : Bool :=
  decide (leNat (bs.drop (bs.length - 4)) = fcsOf (bs.take (bs.length - 4)))

/-- One step of the engines' 16-bit LFSR (R140). -/
def lfsrStep (x : Nat) : Nat :=
  let b := (x ^^^ (x / 4) ^^^ (x / 8) ^^^ (x / 32)) % 2
  x / 2 + b * 2 ^ 15

/-- The field `[hi:lo]` of a number. -/
def nbits (v hi lo : Nat) : Nat := v / 2 ^ lo % 2 ^ (hi + 1 - lo)

/-- A number with its field `[hi:lo]` replaced. -/
def nset (v hi lo x : Nat) : Nat := v - nbits v hi lo * 2 ^ lo + x % 2 ^ (hi + 1 - lo) * 2 ^ lo

/-- Bytes of a number of `n` bytes, most significant first, as a key's byte order. -/
def keyBytes (n v : Nat) : List Byte := beBytes n v

end Sys2Proof.Machine
end

