-- ==== Sys2Proof/Machine/Parser.lean ====
section
/-! DEFINITION. Forme images, the parser, key profiles and actions (spec/04, R113–R124). -/

namespace Sys2Proof.Machine

/-! ### The parser (R113–R116) -/

/-- A recorded header: type, offset in the window, tunnel level, length. -/
structure Hdr where
  typ : Nat
  off : Nat
  level : Nat
deriving DecidableEq, Repr

/-- The parse result (Table 4-7), with the outermost claimed end. -/
structure ParseRes where
  hdrs : List Hdr
  deep : Bool
  conflict : Bool
  payloadOff : Nat
  claimed : Option Nat
deriving DecidableEq, Repr

/-- The 16-bit big-endian word at an offset of the window; bytes past it read as zero. -/
def be16 (win : List Byte) (o : Nat) : Nat := (win.getD o 0).toNat * 256 + (win.getD (o + 1) 0).toNat

/-- A word shifted right and masked to a width, 0 meaning 16 (Table 4-6). -/
def fieldOf (w shift width : Nat) : Nat := w / 2 ^ shift % 2 ^ (if width = 0 then 16 else width)

/-- The header length that a node computes at an offset. -/
def nodeLen (n : Nat) (win : List Byte) (S : Nat) : Nat :=
  let base := nbits n 117 110
  if nbits n 119 118 = 1 then
    base + fieldOf (be16 win (S + nbits n 109 104)) (nbits n 103 100) (nbits n 99 96) * 2 ^ nbits n 95 94
  else base

/-- The next node: the first transition that matches, or default_next. -/
def nodeNext (img : FormeImg) (n : Nat) (win : List Byte) (S : Nat) : Nat :=
  let N := fieldOf (be16 win (S + nbits n 93 88)) (nbits n 87 84) (nbits n 83 80)
  let ts := (img.trans.drop (nbits n 55 45)).take (nbits n 44 40)
  match ts.find? fun t => N &&& nbits t 47 32 == nbits t 63 48 &&& nbits t 47 32 with
  | some t => nbits t 31 24
  | none => nbits n 63 56

/-- The walk over the parse graph, from a node at offset `S` and tunnel level `lv`; `enc` is the claimed end of the enclosing header
that has a length check. Limits of R114 are tested in their order; 17 nodes exhaust every walk. -/
def parseWalk (img : FormeImg) (win : List Byte) (flim : Nat) (trunc : Bool) :
    Nat → Nat → Nat → Nat → Option Nat → ParseRes → ParseRes
  | 0, _, _, _, _, r => r
  | fuel + 1, node, S, lv, enc, r =>
    let n := img.nodes.getD node 0
    let len := nodeLen n win S
    let E := S + len
    let lv' := lv + nbits n 79 79
    let chk := nbits n 78 77
    let W := be16 win (S + nbits n 76 71)
    let C := if chk = 1 then S + W else E + W
    let checks := chk == 1 || chk == 2
    let beyond := match enc with
      | some e => decide (e < C)
      | none => false
    let bad := checks && ((chk == 1 && decide (W < len)) || beyond || (!trunc && decide (flim < C)))
    if nbits n 127 120 = 0 then r
    else if len = 0 ∨ flim < E then { r with conflict := true }
    else if 512 < E ∨ r.hdrs.length = 16 ∨ 4 ≤ lv' then { r with deep := true }
    else if bad then { r with conflict := true }
    else
      let r' := { r with hdrs := r.hdrs ++ [⟨nbits n 127 120, S, lv⟩], payloadOff := E,
                         claimed := if checks && r.claimed.isNone then some C else r.claimed }
      let nx := nodeNext img n win S
      if nx = 0xFF then r'
      else parseWalk img win flim trunc fuel nx E lv' (if checks then some C else enc) r'

/-- The parse of a packet under a forme, from the start node of its source's default (R113). A header that opens a
tunnel is recorded at the level outside it. -/
def parsePkt (img : FormeImg) (p : Pkt) : ParseRes :=
  parseWalk img (p.bytes.take 512) p.flim p.trunc 17 (nbits (img.defaults.getD p.src 0) 63 56) 0 0 none
    ⟨[], false, false, 0, none⟩

/-- The metadata block of a packet (Table 4-9). -/
def metaBlock (p : Pkt) : List Byte :=
  leBytes 1 p.src ++ leBytes 1 p.pass ++ leBytes 1 (b2n p.trunc) ++ leBytes 1 (p.cls % 16 + p.colour % 4 * 16)
    ++ zeroBytes 4 ++ beBytes 8 p.pmeta ++ zeroBytes 48

/-- The bytes that one key segment adds (R117); a segment whose header is absent, or whose bytes lie past the window, is
zero bytes. -/
def segBytes (p : Pkt) (r : ParseRes) (seg : Nat) : List Byte :=
  let len := nbits seg 15 10
  let o := nbits seg 21 16
  let from_ (src : List Byte) (a : Nat) := if a + len ≤ src.length then sliceBytes src a len else zeroBytes len
  if nbits seg 31 24 = 0 then from_ (metaBlock p) o
  else
    match r.hdrs.find? fun h => h.typ == nbits seg 31 24 && h.level == nbits seg 23 22 with
    | some h => from_ (p.bytes.take 512) (h.off + o)
    | none => zeroBytes len

/-- The key that a profile builds, padded or cut to a table's key width (R117). -/
def buildKey (img : FormeImg) (prof width : Nat) (p : Pkt) (r : ParseRes) : List Byte :=
  fitBytes width ((img.profiles.getD prof []).flatMap (segBytes p r))

/-! ### Actions (R119, R120) -/

/-- The action that sets nothing. -/
def Act.none : Act :=
  { final := false, classSet := false, cls := 0, colourSet := false, colour := 0, queueMode := 0, queue := 0, kind := 0,
    dest := 0, meter := false, policer := 0, rewrite := 0, encap := 0, fltReq := false, fltProfile := 63,
    mirror := false, session := 0, metaSet := false, pmeta := 0, operand := 0 }

/-- The fields of an action entry (Table 4-10). -/
def Act.ofImage (v : Nat) : Act :=
  { final := natBit v 250, classSet := natBit v 249, cls := nbits v 248 245, colourSet := natBit v 244,
    colour := nbits v 243 242, queueMode := if nbits v 241 240 = 3 then 0 else nbits v 241 240, queue := nbits v 239 223,
    kind := if 5 < nbits v 222 219 then 4 else nbits v 222 219, dest := nbits v 218 195, meter := natBit v 194,
    policer := nbits v 193 178, rewrite := nbits v 177 166, encap := nbits v 165 154, fltReq := natBit v 153,
    fltProfile := nbits v 152 147, mirror := natBit v 146, session := nbits v 145 142, metaSet := natBit v 141,
    pmeta := nbits v 127 64, operand := nbits v 63 0 }

/-- A hit's action overlaid on what is resolved so far: only the fields whose set condition holds in it, and nothing once
final is 1 (R120). -/
def Act.overlay (a b : Act) : Act :=
  if a.final then a
  else
    { final := b.final
      classSet := a.classSet || b.classSet
      cls := if b.classSet then b.cls else a.cls
      colourSet := a.colourSet || b.colourSet
      colour := if b.colourSet then b.colour else a.colour
      queueMode := if b.queueMode = 0 then a.queueMode else b.queueMode
      queue := if b.queueMode = 0 then a.queue else b.queue
      kind := if b.kind = 0 then a.kind else b.kind
      dest := if b.kind = 0 then a.dest else b.dest
      meter := a.meter || b.meter
      policer := if b.meter then b.policer else a.policer
      rewrite := if b.rewrite = 0 then a.rewrite else b.rewrite
      operand := if b.rewrite = 0 then a.operand else b.operand
      encap := if b.encap = 0 then a.encap else b.encap
      fltReq := a.fltReq || b.fltReq
      fltProfile := if b.fltReq then b.fltProfile else a.fltProfile
      mirror := a.mirror || b.mirror
      session := if b.mirror then b.session else a.session
      metaSet := a.metaSet || b.metaSet
      pmeta := if b.metaSet then b.pmeta else a.pmeta }

/-- The queue of a resolved action: with queue_mode 2 the class resolved at the end of the pass is added (Table 4-10). -/
def Act.outQueue (a : Act) (cls : Nat) : Nat :=
  if a.queueMode = 1 then a.queue else if a.queueMode = 2 then (a.queue + cls) % 2 ^ 17 else 0

/-! ### Forme images (R123, R124) -/

/-- One section of an image: type, offset, byte length, count. -/
structure Section where
  typ : Nat
  off : Nat
  len : Nat
  count : Nat
deriving DecidableEq, Repr

/-- A little-endian number in an image. -/
def imgLe (img : List Byte) (o n : Nat) : Nat := leNat (sliceBytes img o n)

/-- The section table of an image. -/
def imgSections (img : List Byte) : List Section :=
  (List.range (imgLe img 26 2)).map fun i =>
    let o := 64 + 16 * i
    ⟨imgLe img o 2, imgLe img (o + 4) 4, imgLe img (o + 8) 4, imgLe img (o + 12) 4⟩

/-- Record size of a section type (Table 4-12). -/
def sectionRecord (t : Nat) : Nat :=
  if t = 1 then 16 else if t = 2 then 8 else if t = 3 then 64 else if t = 4 then 8 else 40

/-- Is the record count of a section in its range (Table 4-12)? -/
def sectionCountOk (s : Section) : Bool :=
  if s.typ = 1 then decide (1 ≤ s.count ∧ s.count ≤ 255) else if s.typ = 2 then decide (s.count ≤ 2048)
  else if s.typ = 3 then decide (1 ≤ s.count ∧ s.count ≤ 64) else if s.typ = 4 then decide (s.count = 16)
  else decide (s.typ = 5 ∧ s.count ≤ 65536)

/-- Does the header of an image keep the rules of Table 4-11? `img` is the whole image as read. -/
def imgHeaderOk (img : List Byte) : Bool :=
  let len := imgLe img 8 4
  decide (imgLe img 0 4 = 0x4D524648) && decide (imgLe img 4 2 = 1) && decide (imgLe img 6 2 = 0)
    && decide (len % 64 = 0 ∧ 64 ≤ len ∧ len ≤ 4194304) && decide (img.length = len)
    && decide (imgLe img 12 4 = crc32c 0xFFFFFFFF (img.drop 64)) && decide (imgLe img 24 2 = 0x8640)
    && (decide (imgLe img 26 2 = 4) || decide (imgLe img 26 2 = 5)) && decide (imgLe img 28 36 = 0)

/-- Are the sections well placed: right counts and lengths, inside the image, none over another, the header or the
table; types 1 to 4 once each and type 5 at most once? -/
def imgSectionsOk (img : List Byte) : Bool :=
  let ss := imgSections img
  let top := 64 + 16 * ss.length
  let once (t : Nat) := decide (ss.countP (fun s => s.typ == t) = 1)
  ss.all (fun s => sectionCountOk s && decide (s.len = s.count * sectionRecord s.typ) && decide (top ≤ s.off)
      && decide (s.off + s.len ≤ imgLe img 8 4))
    && once 1 && once 2 && once 3 && once 4 && decide (ss.countP (fun s => s.typ == 5) ≤ 1)
    && ss.all fun a => decide ((ss.filter fun b => decide (a.off < b.off + b.len) && decide (b.off < a.off + a.len)
        && decide (0 < a.len) && decide (0 < b.len) && decide (a.typ ≠ b.typ)).isEmpty)

/-- The records of a section type, as numbers. -/
def imgRecords (img : List Byte) (t : Nat) : List Nat :=
  match (imgSections img).find? fun s => s.typ == t with
  | none => []
  | some s => (List.range s.count).map fun i => imgLe img (s.off + i * sectionRecord t) (sectionRecord t)

/-- The 16 segments of a key profile record. -/
def profileSegs (v : Nat) : List Nat := (List.range 16).map fun i => nbits v (32 * i + 31) (32 * i)

/-- The forme that an image holds. -/
def imgForme (img : List Byte) : FormeImg :=
  { nodes := imgRecords img 1, trans := imgRecords img 2, profiles := (imgRecords img 3).map profileSegs,
    defaults := imgRecords img 4, bridge := false }

/-- The action records of an image: index and entry. -/
def imgActions (img : List Byte) : List (Nat × Nat) :=
  (imgRecords img 5).map fun v => (nbits v 31 0, nbits v 319 64)

/-- Do nodes and source defaults name only what the image holds (R124)? Profile 63 selects no lookup and needs no
record. Where the image has action records, a source default's action index is one of theirs (DEDUCED). -/
def imgRefsOk (img : List Byte) : Bool :=
  let f := imgForme img
  let acts := imgActions img
  let node (n : Nat) := decide (n = 0xFF ∨ n < f.nodes.length)
  let prof (n : Nat) := decide (n = 63 ∨ n < f.profiles.length)
  f.nodes.all (fun n => node (nbits n 63 56) && decide (nbits n 44 40 ≤ 16)
      && decide (nbits n 55 45 + nbits n 44 40 ≤ f.trans.length))
    && f.trans.all (fun t => node (nbits t 31 24))
    && f.defaults.all fun d => decide (nbits d 63 56 < f.nodes.length) && prof (nbits d 55 50) && prof (nbits d 49 44) && prof (nbits d 43 38)
        && (acts.isEmpty || acts.any fun a => a.1 == nbits d 31 16)

end Sys2Proof.Machine
end

