-- ==== Sys2Proof/Machine/RingOps.lean ====
section
/-! DEFINITION. The operations of the host side that many commands share: DMA windows, interrupts, completions and events
(spec/10 R297–R298, spec/11 R315–R336, spec/12 R348–R349). -/

namespace Sys2Proof.Machine

/-! ### Functions -/

/-- A function that is absent or as its reset leaves it (R348: window 0 passes everything). -/
def FnSt.reset : FnSt :=
  { personality := .native, pages := 1, msixEntries := 0, totalVfs := 0,
    vfPersonality := .native, vfMsix := 1, numVfs := 0, vfEnable := false,
    memorySpace := false, busMaster := false, pasidEnable := false, d3 := false, msixEnable := false, msixMask := false,
    msiEnable := false, msiCount := 1, msiMask := 0, msix := [], pendingVecs := [], cplTimeout := 0, aerUncor := 0,
    aerCor := 0, aerUncorMask := 0x00400000, aerCorMask := 0x0000E000, aerSeverity := 0x00462030,
    windows := [(0, (true, true, 0, 2 ^ 52 - 1))], doe := [], needsReset := false }

/-- The state of a function, by its initiator identifier; `none` where it does not exist. -/
def State.fn? (s : State) (f : Nat) : Option FnSt := Tab.look s.hif.fns f

/-- A function's state replaced. -/
def State.setFn (s : State) (f : Nat) (x : FnSt) : State := { s with hif := { s.hif with fns := Tab.put s.hif.fns f x } }

/-- The link of a host function's initiator (Table 12-7). -/
def fnLink (f : Nat) : Nat := if f < 0xC00 then 0 else 1

/-- Is this initiator a virtual function (Table 12-7)? -/
def fnIsVf (f : Nat) : Bool := decide (0x10 ≤ f % 0x400)

/-- The PF number of a PF initiator. -/
def fnPf (f : Nat) : Nat := f % 0x400

/-- An endpoint that nothing has trained. -/
def EpSt.reset : EpSt :=
  { present := false, idleSince := 0, l1Enable := false, l11 := false, l12 := false, l0pEnable := false, l0pEnd := 0,
    trainedWidth := 0, ltrEnable := false, ltrBusy := false, drs := false, heldRequests := 0 }

/-- An endpoint e = 2 × link + half. -/
def State.ep (s : State) (e : Nat) : EpSt := Tab.getD EpSt.reset s.hif.eps e

/-- An endpoint's state replaced. -/
def State.setEp (s : State) (e : Nat) (x : EpSt) : State :=
  { s with hif := { s.hif with eps := Tab.setD EpSt.reset s.hif.eps e x } }

/-- Is the link bifurcated, in the setting its last H reset took (R288)? Half 1 is present only then. -/
def State.bifurcated (s : State) (l : Nat) : Bool := (s.ep (2 * l + 1)).present

/-- The PF whose virtual function an initiator is: VFs are counted in Routing ID order, the lowest PF first. -/
def State.parentPf (s : State) (f : Nat) : Nat :=
  let l := f / 0x400 * 0x400
  let v := f % 0x400 - 0x10
  let n (k : Nat) : Nat := ((s.fn? (l + k)).map FnSt.totalVfs).getD 0
  if v < n 0 then 0 else if v < n 0 + n 1 then 1 else if v < n 0 + n 1 + n 2 then 2 else 3

/-- The first initiator of a PF's VFs. -/
def State.firstVf (s : State) (pf : Nat) : Nat :=
  let l := pf / 0x400 * 0x400
  l + 0x10 + ((List.range (fnPf pf)).map fun k => ((s.fn? (l + k)).map FnSt.totalVfs).getD 0).sum

/-- The endpoint of a host function. -/
def State.fnEndpoint (s : State) (f : Nat) : Nat :=
  let l := fnLink f
  let pf := if fnIsVf f then s.parentPf f else fnPf f
  if s.bifurcated l && decide (2 ≤ pf) then 2 * l + 1 else 2 * l

/-- A TLP passes on the endpoint of a function: it is idle no longer and leaves L1 (R308). -/
def State.touchFn (s : State) (f : Nat) : State :=
  if f < 0x800 then s
  else
    let e := s.fnEndpoint f
    let s1 := s.setEp e { s.ep e with idleSince := s.now }
    if 2 ≤ s1.getF HIF_LINK_STATUS.pm e then s1.setF HIF_LINK_STATUS.pm 0 e else s1

/-! ### Slices -/

/-- A slice, by its global identifier; `none` while it is FREE. -/
def State.slice? (s : State) (g : Nat) : Option SliceRec := Tab.look s.slc.slices g

/-- A slice's record replaced. -/
def State.setSlice (s : State) (g : Nat) (x : SliceRec) : State :=
  { s with slc := { s.slc with slices := Tab.put s.slc.slices g x } }

/-- Is the slice RUNNING? -/
def State.sliceRunning (s : State) (g : Nat) : Bool :=
  match s.slice? g with
  | some x => decide (x.st = .running)
  | none => false

/-- The global identifier of a function's slice with a local number. -/
def State.sliceOfLocal (s : State) (f l : Nat) : Option Nat :=
  (s.slc.slices.find? fun p => decide (p.2.fn = f ∧ p.2.localNo = l)).map Prod.fst

/-! ### Request issue and DMA windows -/

/-- Is the issue of requests held for a function and slice: module or slice containment (R434), a reset of the
function, its endpoint or the slice (R302, R304, R350), or a mode without request issue (Table 2-3)? -/
def State.issueHeld (s : State) (f : Nat) (g : Option Nat) : Bool :=
  s.flag PRF_STATUS.module || s.mode == mSafeHold
    || (decide (0x800 ≤ f) && (s.mode == mStandby || s.flag HIF_LINK_STATUS.h_reset (s.fnEndpoint f)
        || (s.fn? f).isNone))
    || (match g with | some g => s.prf.contained.contains g || !s.sliceRunning g | none => false)

/-- Does a window set pass a request for bytes `a` to `a + n − 1` (R349)? -/
def windowsPass (ws : Tab (Bool × Bool × Nat × Nat)) (wr : Bool) (a n : Nat) : Bool :=
  ws.any fun p => (if wr then p.2.2.1 else p.2.1) && decide (p.2.2.2.1 ≤ a / 4096)
    && decide ((a + (n - 1)) / 4096 ≤ p.2.2.2.2)

/-- The check of a host request at issue against the DMA windows of its slice or function (R342, R349): the state after
it, with a failed request logged under target 63, and whether it passes. Requests of firmware's rings name module
memory and are checked by its access tables. -/
def State.dmaCheck (s : State) (f : Nat) (g : Option Nat) (wr : Bool) (a n : Nat) : State × Bool :=
  if f < 0x800 then s.memAccess (if wr then .write else .read) f a n
  else
    let ok := match s.fn? f, g with
      | some x, none => windowsPass x.windows wr a n
      | some x, some g => x.pasidEnable && (match s.slice? g with
          | some sl => !sl.badWord && windowsPass sl.windows wr a n
          | none => false)
      | none, _ => false
    if ok then (s, true) else (s.deny ⟨b2n wr, true, 63, f, 32, g.getD 0x3FFF, a⟩, false)

/-- A write that has passed its check goes out; firmware's goes to module memory. -/
def State.issueWrite (s : State) (f : Nat) (g : Option Nat) (a : Nat) (d : List Byte) : State :=
  if f < 0x800 then s.setBytes a d
  else ((s.touchFn f).emit (.hostWrite f g a d)).bump HIF_CNT.count (fnLink f) 3

/-- A read request that has passed its check goes out. -/
def State.issueRead (s : State) (f : Nat) (g : Option Nat) (a n : Nat) : State :=
  if f < 0x800 then s else ((s.touchFn f).emit (.hostRead f g a n)).bump HIF_CNT.count (fnLink f) 2

/-- What a read of a function's memory returns: what the outside supplies for a host function, module memory for
firmware, whose rings lie there. -/
def State.dmaData (s : State) (f a n : Nat) (given : List Byte) : List Byte := if f < 0x800 then s.bytes a n else given

/-! ### Interrupts (R297, R298) -/

/-- A list of numbers with one more, kept in rising order without repeats. -/
def insertNat : List Nat → Nat → List Nat
  | [], n => [n]
  | m :: l, n => if n = m then m :: l else if n < m then n :: m :: l else m :: insertNat l n

/-- Can vector `v` of a function be sent now: MSI-X enabled and unmasked, or MSI enabled and unmasked? -/
def FnSt.canSend (x : FnSt) (v : Nat) : Bool :=
  if x.msixEnable then !x.msixMask && !((Tab.getD ⟨0, 0, true, false⟩ x.msix v).mask)
  else if x.msiEnable then !natBit x.msiMask (v % x.msiCount)
  else false

/-- The interrupt of a function vector (R297): sent as MSI-X entry or MSI message, or kept pending while neither is
enabled, the vector is masked or request issue is held. Firmware's vectors interrupt the application cores. -/
def State.sendVector (s : State) (f v : Nat) : State :=
  let s := s.bump DQM_CNT.count f 10
  if f < 0x800 then s.emit (.coreIrq 17)
  else
    match s.fn? f with
    | none => s
    | some x =>
      if x.canSend v && !s.issueHeld f none then
        (s.touchFn f).emit (.interrupt f (if x.msixEnable then v else v % x.msiCount) x.msixEnable)
      else s.setFn f { x with pendingVecs := insertNat x.pendingVecs v }

/-- An interrupt message of a slice's store (R298): sent, kept pending while masked or held, or dropped and logged where
the slice's windows deny the write. -/
def State.sendStore (s : State) (g e : Nat) : State :=
  match s.slice? g with
  | none => s
  | some sl =>
    let s := s.bump DQM_CNT.count sl.fn 10
    let m := Tab.getD ⟨0, 0, true, false⟩ sl.store e
    if m.mask || s.issueHeld sl.fn (some g) then s.setSlice g { sl with storePending := insertNat sl.storePending e }
    else
      let c := s.dmaCheck sl.fn (some g) true m.addr 4
      if c.2 then (c.1.touchFn sl.fn).emit (.storeMessage g e m.addr m.data m.pasid) else c.1

/-! ### Rings -/

/-- The key of a ring: class (0 submission, 1 completion, 2 event) and number. -/
def ringKey (cls num : Nat) : Nat := cls * 65536 + num

/-- A ring by class and number. -/
def State.ring? (s : State) (cls num : Nat) : Option Ring := Tab.look s.rings (ringKey cls num)

/-- A ring's state replaced. -/
def State.setRing (s : State) (cls num : Nat) (r : Ring) : State :=
  { s with rings := Tab.put s.rings (ringKey cls num) r }

/-- The code of a ring state (DQM_RING_CMD.state). -/
def RingState.code : RingState → Nat
  | .disabled => 0
  | .running => 1
  | .stopped => 2
  | .draining => 3

/-- D of R317. -/
def idxDiff (p c : Nat) : Nat := (p + 2 ^ 32 - c % 2 ^ 32) % 2 ^ 32

/-- An index plus `n`, modulo 2^32. -/
def idxAdd (p n : Nat) : Nat := (p + n) % 2 ^ 32

/-- Is there room for one more entry, by the host's index as last read? -/
def Ring.hasRoom (r : Ring) : Bool := decide (idxDiff r.modIdx r.hostIdx < r.size)

/-- The bytes 8–15 of an index line (Table 11-3). -/
def Ring.lineStatus (r : Ring) : List Byte :=
  leBytes 1 r.st.code ++ leBytes 1 r.stopStatus ++ zeroBytes 2 ++ leBytes 4 r.stopIndex

/-- A ring stops with a status: its state, stop_status and stop_index are set and written to the index line (R317,
R322). The event that reports it is `State.stopRing`'s. -/
def State.stopRaw (s : State) (cls num : Nat) (status : Nat) : State :=
  match s.ring? cls num with
  | none => s
  | some r =>
    let r' := { r with st := .stopped, stopStatus := status, stopIndex := r.modIdx }
    let s1 := s.setRing cls num r'
    if s1.issueHeld r.fn r.slice then s1
    else
      let c := s1.dmaCheck r.fn r.slice true (r.line + 8) 8
      if c.2 then c.1.issueWrite r.fn r.slice (r.line + 8) r'.lineStatus else c.1

/-- The signal decision of R335: an armed ring with irq_en that has mod_count entries, a zero mod_time or an irq_now entry
signals, which disarms it. -/
def State.maybeSignal (s : State) (cls num : Nat) (now : Bool) : State :=
  match s.ring? cls num with
  | none => s
  | some r =>
    if r.armed && r.irqEn && (now || r.irqDue || decide ((if r.modCount = 0 then 1 else r.modCount) ≤ r.unsig)
        || (decide (0 < r.unsig) && decide (r.modTime = 0))) then
      let s1 := s.setRing cls num { r with armed := false, unsig := 0, irqDue := false }
      if r.useStore then
        match r.slice with
        | some g => s1.sendStore g (r.vector % 32)
        | none => s1.sendVector r.fn r.vector
      else s1.sendVector r.fn r.vector
    else s

/-- One entry is written to a completion or event ring with room: the entry, then P, then the interrupt it causes
(R315, R336). The flag says that the write was denied, which stops the ring with ACCESS_VIOLATION (R322). -/
def State.ringPost (s : State) (cls num : Nat) (entry : List Byte) (irqNow : Bool) : State × Bool :=
  match s.ring? cls num with
  | none => (s, false)
  | some r =>
    let a := r.base + (r.modIdx % r.size) * 32
    let c := s.dmaCheck r.fn r.slice true a 32
    if c.2 then
      let p := idxAdd r.modIdx 1
      let s1 := c.1.issueWrite r.fn r.slice a entry
      let s2 := s1.issueWrite r.fn r.slice r.line (leBytes 4 p)
      let s3 := s2.setRing cls num { r with modIdx := p, unsig := r.unsig + 1, irqDue := r.irqDue || irqNow,
                                            oldest := if r.unsig = 0 then s.now else r.oldest }
      (s3.maybeSignal cls num false, false)
    else (c.1.stopRaw cls num stAccessViolation, true)

/-! ### Events (R332–R334) -/

/-- The function-level event ring of a function. -/
def State.fnEventRing (s : State) (f : Nat) : Option Nat :=
  (s.rings.find? fun p => decide (p.1 / 65536 = 2 ∧ p.2.fn = f ∧ p.2.slice = none)).map fun p => p.1 % 65536

/-- The event ring of a slice. -/
def State.sliceEventRing (s : State) (g : Nat) : Option Nat :=
  (s.rings.find? fun p => decide (p.1 / 65536 = 2 ∧ p.2.slice = some g)).map fun p => p.1 % 65536

/-- The mode whose configuration owner stands: the return mode in STANDBY, the mode itself otherwise (Table 2-1). -/
def State.ownerMode (s : State) : Nat := if s.mode = mStandby then s.getF MODE_STATE.return_mode else s.mode

/-- The mode whose owner's ring takes the owner's events: in SAFE_HOLD too that of the return mode (R314). -/
def State.eventMode (s : State) : Nat :=
  if s.mode = mStandby ∨ s.mode = mSafeHold then s.getF MODE_STATE.return_mode else s.mode

/-- The function that an event destination belongs to, and its ring. The configuration owner's is the function-level
event ring of PF0 of link 0 in MANAGED, and firmware's in AUTONOMOUS and TEST (R314). -/
def State.eventRing (s : State) : EvDest → Nat × Option Nat
  | .owner =>
    if s.eventMode = mManaged then (0x800, s.fnEventRing 0x800)
    else if s.eventMode = mAutonomous ∨ s.eventMode = mTest then (0, s.fnEventRing 0)
    else (0, none)
  | .slice g => (((s.slice? g).map SliceRec.fn).getD 0, s.sliceEventRing g)
  | .fn f => (f, s.fnEventRing f)

/-- The bytes of an event entry (Table 11-10): type, slice (the local number, R341, 0xFFFF for none), sequence, body. -/
def State.eventBytes (s : State) (seq : Nat) (e : Ev) : List Byte :=
  let sl := match e.slice with
    | some g => ((s.slice? g).map SliceRec.localNo).getD g
    | none => 0xFFFF
  leBytes 1 e.typ ++ zeroBytes 1 ++ leBytes 2 sl ++ leBytes 4 seq ++ fitBytes 24 e.body

/-- An event is posted (R333): written to its ring, held while the ring is full, stopped or held back, counted when 64 are
held already, and discarded where there is no ring. A function in D3hot sends PME (R307). -/
def State.postEvent (s : State) (d : EvDest) (e : Ev) : State :=
  match s.eventRing d with
  | (f, none) => s.bump DQM_CNT.count f 8
  | (f, some num) =>
    match s.ring? 2 num with
    | none => s.bump DQM_CNT.count f 8
    | some r =>
      let r' := { r with evSeq := idxAdd r.evSeq 1 }
      let s1 := (s.setRing 2 num r').bump DQM_CNT.count f 2
      let s1 := match s1.fn? f with
        | some x => if x.d3 then s1.emit (.linkMessage (s1.fnEndpoint f) 0 f) else s1
        | none => s1
      if decide (r.st = .running) && r.hasRoom && r.held.isEmpty && decide (r.lost = 0)
          && !s.issueHeld r.fn r.slice then
        (s1.ringPost 2 num (s1.eventBytes r.evSeq e) false).1
      else if r.held.length < 64 then s1.setRing 2 num { r' with held := r.held ++ [(r.evSeq, e)] }
      else s1.setRing 2 num { r' with lost := r.lost + 1 }

/-- The held events of a ring are written while there is room, EVENTS_LOST first (R333). `fuel` bounds the number
written by the most that a ring holds. -/
def State.drainHeld (s : State) (num : Nat) : Nat → State
  | 0 => s
  | fuel + 1 =>
    match s.ring? 2 num with
    | none => s
    | some r =>
      if decide (r.st = .running) && r.hasRoom && !s.issueHeld r.fn r.slice then
        if 0 < r.lost then
          let s1 := s.setRing 2 num { r with lost := 0, evSeq := idxAdd r.evSeq 1 }
          State.drainHeld (s1.ringPost 2 num (s1.eventBytes r.evSeq ⟨0x04, r.slice, leBytes 4 r.lost⟩) false).1 num fuel
        else
          match r.held with
          | [] => s
          | (q, e) :: rest =>
            let s1 := s.setRing 2 num { r with held := rest }
            State.drainHeld (s1.ringPost 2 num (s1.eventBytes q e) false).1 num fuel
      else s

/-- The event ring that reports on a ring: its slice's, or its function's (R322, R330). -/
def Ring.reportTo (r : Ring) : EvDest :=
  match r.slice with
  | some g => .slice g
  | none => .fn r.fn

/-- A ring stops and RING_STOPPED reports it, except for an event ring (R322). -/
def State.stopRing (s : State) (cls num : Nat) (status : Nat) : State :=
  match s.ring? cls num with
  | none => s
  | some r =>
    let s1 := s.stopRaw cls num status
    if cls = 2 then s1
    else s1.postEvent r.reportTo
      ⟨0x03, r.slice, leBytes 1 cls ++ leBytes 1 status ++ leBytes 2 num ++ leBytes 4 r.modIdx⟩

/-! ### Completions (R328–R330) -/

/-- A completion goes to a completion ring: written if it fits and nothing waits ahead of it, else into the stash of 16
entries, else it waits in its unit; a stash that fills is reported once (R330). -/
def State.postCompletion (s : State) (cq : Nat) (entry : List Byte) (irqNow : Bool) : State :=
  match s.ring? 1 cq with
  | none => s
  | some r =>
    if r.st = .disabled then s
    else
      let s := s.bump DQM_CNT.count r.fn 1
      let canWrite := decide (r.st = .running) && r.hasRoom && r.stash.isEmpty && !s.issueHeld r.fn r.slice
      let c := if canWrite then s.ringPost 1 cq entry irqNow else (s, true)
      if c.2 then
        match c.1.ring? 1 cq with
        | none => c.1
        | some r1 =>
          let s1 := if canWrite then c.1.postEvent r1.reportTo
              ⟨0x03, r1.slice, leBytes 1 1 ++ leBytes 1 stAccessViolation ++ leBytes 2 cq ++ leBytes 4 r1.modIdx⟩
            else c.1
          if r1.stash.length < 16 then
            let r2 := { r1 with stash := r1.stash ++ [(entry, irqNow)] }
            if r2.stash.length = 16 ∧ r1.stalled = false then
              (s1.setRing 1 cq { r2 with stalled := true }).postEvent r1.reportTo
                ⟨0x02, r1.slice, leBytes 2 cq ++ leBytes 1 1⟩
            else s1.setRing 1 cq r2
          else s1.setRing 1 cq { r1 with unitHeld := r1.unitHeld ++ [(entry, irqNow)] }
      else c.1

/-- Stashed completions that now fit are written in order; those that waited in units move up into the stash. A stash that
falls back to empty is reported (R330). -/
def State.drainStash (s : State) (cq : Nat) : Nat → State
  | 0 => s
  | fuel + 1 =>
    match s.ring? 1 cq with
    | none => s
    | some r =>
      match r.stash with
      | [] => s
      | (e, now) :: rest =>
        if decide (r.st = .running) && r.hasRoom && !s.issueHeld r.fn r.slice then
          let c := s.ringPost 1 cq e now
          if c.2 then c.1
          else
            match c.1.ring? 1 cq with
            | none => c.1
            | some r1 =>
              let up := r.unitHeld.take 1
              let r2 := { r1 with stash := rest ++ up, unitHeld := r.unitHeld.drop 1 }
              if r2.stash.isEmpty && r.stalled then
                (c.1.setRing 1 cq { r2 with stalled := false }).postEvent r.reportTo
                  ⟨0x02, r.slice, leBytes 2 cq ++ leBytes 1 0⟩
              else State.drainStash (c.1.setRing 1 cq r2) cq fuel
        else s

/-- The 32 bytes of a completion (Table 11-9). -/
def completionBytes (status kind num idx : Nat) (body : List Byte) : List Byte :=
  leBytes 1 status ++ leBytes 1 (kind % 8) ++ leBytes 2 num ++ leBytes 4 idx ++ fitBytes 24 body

/-- Completions of one CONTROL or RX ring are posted in index order: those finished that no older fetched entry holds back
(R329). -/
def State.releaseInOrder (s : State) (num : Nat) : Nat → State
  | 0 => s
  | fuel + 1 =>
    match s.ring? 0 num with
    | none => s
    | some r =>
      match r.fetched with
      | [] => s
      | (i, _) :: rest =>
        match r.posted.find? (fun p => p.1 == i) with
        | none => s
        | some (_, e) =>
          let s1 := s.setRing 0 num { r with fetched := rest, posted := r.posted.filter fun p => p.1 != i }
          State.releaseInOrder (s1.postCompletion r.cq (e.take 32) (e.getD 32 0 == 1)) num fuel

/-! ### Latency reporting (R310) -/

/-- Has an endpoint a ring with unserved work: a rung one, or entries known to be unfetched or uncompleted? -/
def State.unserved (s : State) (e : Nat) : Bool :=
  s.rings.any fun p => decide (0x800 ≤ p.2.fn) && s.fnEndpoint p.2.fn == e && decide (p.2.st = .running)
    && (p.2.rung || (decide (p.1 / 65536 = 0) && (decide (p.2.hostIdx ≠ p.2.modIdx) || !p.2.fetched.isEmpty)))

/-- LTR reports 1 µs while work is unserved and ltr_us otherwise, when that changes (R310). -/
def State.showLtr (s : State) (e : Nat) : State :=
  let x := s.ep e
  let busy := s.unserved e
  if x.ltrEnable && busy != x.ltrBusy then
    (s.setEp e { x with ltrBusy := busy }).emit (.linkMessage e 2 (if busy then 1 else s.getF HIF_PM_CFG.ltr_us (e / 2)))
  else s

/-- An entry of a submission ring completes, once (R328, R329): one that is not waiting, its ring reset since, does not. -/
def State.completeEntry (s : State) (num idx : Nat) (irqNow : Bool) (status : Nat) (body : List Byte) : State :=
  match s.ring? 0 num with
  | none => s
  | some r =>
    if !r.fetched.any (fun p => p.1 == idx) then s else
    let e := completionBytes status r.kind num idx body
    if r.kind = 1 ∨ r.kind = 3 then
      ((s.setRing 0 num { r with posted := r.posted ++ [(idx, e ++ [if irqNow then 1 else 0])] }).releaseInOrder num
        (r.fetched.length + 1)).showLtr (s.fnEndpoint r.fn)
    else ((s.setRing 0 num { r with fetched := r.fetched.filter fun p => p.1 != idx }).postCompletion r.cq e
      irqNow).showLtr (s.fnEndpoint r.fn)

/-- The outcome of a command that came through a ring; a register form shows its outcome in its result field. -/
def State.complete (s : State) (o : Origin) (status : Nat) (body : List Byte := []) : State :=
  match o with
  | .reg _ => s
  | .ring num idx irqNow => s.completeEntry num idx irqNow status body

/-- The function whose ring a command came through, or the initiator of its register form (R355). -/
def State.originInit (s : State) : Origin → Nat
  | .reg i => i
  | .ring num _ _ => ((s.ring? 0 num).map Ring.fn).getD 0

/-- The slice of the ring a command came through. -/
def State.originSlice (s : State) : Origin → Option Nat
  | .reg _ => none
  | .ring num _ _ => ((s.ring? 0 num).bind Ring.slice)

/-- Is the initiator the configuration owner of the current mode (R110): PF0 of link 0 in MANAGED, firmware in
AUTONOMOUS and TEST, the cascade master in CASCADE_MEMBER, and in STANDBY the owner of the return mode? -/
def State.isOwner (s : State) (init : Nat) : Bool :=
  let m := s.ownerMode
  if m = mManaged then init == 0x800
  else if m = mAutonomous ∨ m = mTest then decide (init < 0x20)
  else if m = mMember then init == 0x040 + s.getF ODF_STATUS.master_id
  else false

end Sys2Proof.Machine
end

