-- ==== Sys2Proof/Machine/IslandOps.lean ====
section
/-! DEFINITION. The time island's counters, time states and uncertainty, as other blocks use them (spec/03). -/

namespace Sys2Proof.Machine

/-- Ticks in one TCLK. -/
def tclk : Nat := 7

/-- The number of the TCLK in progress. -/
def State.tnow (s : State) : Nat := s.now / tclk

/-! ### Counters (R70) -/

/-- 1 ns in counter units. -/
def ctrOne : Nat := 2 ^ 40

/-- The island as its reset leaves it: counters 0, state UNKNOWN (R97). -/
def IslandSt.reset (t : Nat) : IslandSt :=
  { anchor := t, ctrA := 0, ctrB := 0, slewLeft := 0, slewStep := 0, baseRate := 0, setAt := 0, uSet := none, freeS := 0,
    wasSet := false, servoAt := 0, beatAt := 0, acqFrom := 0, acqS := 0, holdAt := 0, uEntry := none, holdS := 0,
    holdTemp := 25000, holdExc := none, temp := 25000, slews := [], setArmed := false, ppsRun := 0, ppsLast := none, ppsCentre := 0,
    ppsMissed := 0, ppsQueue := [], ppsUntil := [], uRef := none, uAt := t, snapTime := 0, snapUnc := none,
    replicas := [] }

/-- What `n` TCLKs of slew add. -/
def IslandSt.slewIn (i : IslandSt) (n : Nat) : Int :=
  let m : Nat := if i.slewLeft.natAbs < n * i.slewStep then i.slewLeft.natAbs else n * i.slewStep
  if i.slewLeft < 0 then -(m : Int) else m

/-- What one TCLK adds apart from a slew: 1 ns, TSV_RATE, and with a frequency reference selected the loop's base
rate (R70, R84). -/
def State.ctrStep (s : State) : Int :=
  (ctrOne : Int) + signedOf 32 (s.getF TSV_RATE.rate)
    + (if s.getF TSV_REF_SEL.freq_src = 1 ∨ s.getF TSV_REF_SEL.freq_src = 2 then s.island.baseRate else 0)

/-- A counter that stood at `c` at the anchor, at TCLK number `t`. -/
def State.ctrAt (s : State) (c t : Nat) : Nat :=
  let n := t - s.island.anchor
  (((c : Int) + n * s.ctrStep + s.island.slewIn n) % (2 ^ 104 : Int)).toNat

/-- Counter A now. -/
def State.ctrNow (s : State) : Nat := s.ctrAt s.island.ctrA s.tnow

/-- Island time now, in 2^-16 ns: counter A truncated (R71). -/
def State.timeNow (s : State) : Nat := s.ctrNow / 2 ^ 24

/-- Both counters brought up to date, before anything that changes how they go on. While a frequency reference is in
use its loop sets the base rate anew, to a value the spec does not give (R84). -/
def State.syncIsland (s : State) : State :=
  let i := s.island
  let n := s.tnow - i.anchor
  let s1 := { s with island := { i with
    anchor := if i.anchor < s.tnow then s.tnow else i.anchor
    ctrA := s.ctrAt i.ctrA s.tnow
    ctrB := s.ctrAt i.ctrB s.tnow
    slewLeft := i.slewLeft - i.slewIn n } }
  if s.getF TSV_STATE.freq_src_active = 1 ∨ s.getF TSV_STATE.freq_src_active = 2 then
    let d := s1.draw 32
    { d.2 with island := { d.2.island with baseRate := signedOf 32 d.1 } }
  else s1

/-- A time service command crosses to TCLK in 2 TCLK and 0 to 1 TCLK of phase (Table 1-2, R73): it lands at the edge that
ends them. -/
def State.crossTclk (s : State) : State :=
  let d := s.draw 1
  (d.2.after ((s.tnow + 2 + d.1) * tclk)).syncIsland

/-- The TCLK number at which counter A next stands at `target` (2^-40 ns) or beyond. -/
def State.whenReached (s : State) (target : Nat) : Nat :=
  let i := s.island
  let rest := (target : Int) - i.ctrA
  if rest ≤ 0 then i.anchor
  else
    let fullSlews := if i.slewStep = 0 then 0 else i.slewLeft.natAbs / i.slewStep
    let step := s.ctrStep + (if i.slewLeft < 0 then -(i.slewStep : Int) else i.slewStep)
    if rest ≤ fullSlews * step then i.anchor + ceilDiv rest.toNat step.toNat
    else
      let k := ceilDiv (rest - i.slewLeft).toNat s.ctrStep.toNat
      i.anchor + (if k < fullSlews + 1 then fullSlews + 1 else k)

/-! ### Time states and uncertainty (R74–R78) -/

def tsUnknown : Nat := 0
def tsFreerun : Nat := 1
def tsAcquiring : Nat := 2
def tsLocked : Nat := 3
def tsHoldover : Nat := 4

/-- The time state. -/
def State.tstate (s : State) : Nat := s.getF TSV_STATE.state

/-- The denominator in which every term of U_ref is a whole number of ns (R76: full precision). -/
def uDen : Nat := 2 * 10 ^ 25 * 2 ^ 40

/-- A magnitude of the counters (2^-40 ns) over `uDen`. -/
def uOfCtr (m : Nat) : Nat := m * (2 * 10 ^ 25)

/-- U_servo over `uDen`. -/
def State.uServo (s : State) : Option Nat :=
  let u := s.getF TSV_SERVO.u_servo
  if u = 0xFFFFFFFF then none else some (u * (uDen / 4))

/-- U_ref at TCLK number `t` by the formula of a state (Table 3-1), over `uDen`; `none` is unknown. In HOLDOVER r counts four times
from the instant at which the temperature was found too far from that at entry (R78: for the remainder of the holdover). -/
def State.uFormula (s : State) (st t : Nat) : Option Nat :=
  let i := s.island
  let r := s.getF TSV_HOLD_MODEL.r
  let d := s.getF TSV_HOLD_MODEL.d
  if st = tsFreerun then
    let f := if s.fuse.grade = 2 then 50 else 4600
    i.uSet.map fun u => u * uDen + f * (t - i.setAt) * (uDen / 10 ^ 9) + uOfCtr i.freeS
  else if st = tsLocked then s.uServo.map fun u => u + r * (t - i.servoAt) * (uDen / 10 ^ 13)
  else if st = tsHoldover then
    let since := match i.holdExc with
      | some x => x - i.holdAt + 4 * (t - x)
      | none => t - i.holdAt
    i.uEntry.map fun u => u * (uDen / 4) + r * since * (uDen / 10 ^ 13)
      + d * (t - i.holdAt) ^ 2 * (uDen / (2 * 10 ^ 25)) + uOfCtr i.holdS
  else none

/-- U_ref at TCLK number `t` in the state in force. -/
def State.uRefAt (s : State) (t : Nat) : Option Nat :=
  if s.tstate = tsAcquiring then
    match s.uServo, s.uFormula s.island.acqFrom t with
    | some a, some b => some ((if a < b then b else a) + uOfCtr s.island.acqS)
    | _, _ => none
  else s.uFormula s.tstate t

/-- A sum over `uDen` rounded up to 0.25 ns; a result that would reach 0xFFFF_FFFF is unknown (R76). -/
def uRound : Option Nat → Option Nat
  | none => none
  | some u => if ceilDiv (4 * u) uDen < 0xFFFFFFFF then some (ceilDiv (4 * u) uDen) else none

/-- The uncertainty published with a reading, in 0.25 ns: the held U_ref plus a delivery term, unknown in UNKNOWN and in
SAFE_HOLD (R72, R75, R77, Table 2-3), and while the module's time disagrees with its cascade's (Table 17-2). -/
def State.pubUnc (s : State) (term : Nat) : Option Nat :=
  if s.mode = mSafeHold ∨ s.tstate = tsUnknown ∨ s.flag ODF_STATUS.time_uncertain then none else s.island.uRef.map (· + term)

/-- The 32-bit form. -/
def unc32 : Option Nat → Nat
  | none => 0xFFFFFFFF
  | some u => if u < 0xFFFFFFFF then u else 0xFFFFFFFF

/-- The 16-bit form (R77). -/
def unc16 : Option Nat → Nat
  | none => 0xFFFF
  | some u => if u < 0xFFFF then u else 0xFFFF

/-- TSTAMP96 of a time in 2^-16 ns and a 16-bit uncertainty, as a number (R17). -/
def tstamp96 (t u : Nat) : Nat := t * 2 ^ 16 + u

/-- TIME80 seconds of a time in 2^-16 ns. -/
def secondsOf (t : Nat) : Nat := t / 2 ^ 16 / 10 ^ 9

/-- A timestamp a port takes now (R86, Table 3-3): island time with an error within 0.5 ns that the spec leaves open,
plus the port's calibration offset, and its 16-bit uncertainty, unknown while the replica is out of alignment. -/
def State.portStamp (s : State) (port : Nat) (cal : Nat) : Nat × Nat × State :=
  let d := s.draw 16
  let t := ((s.timeNow : Int) + signedOf 16 d.1 + signedOf 32 cal).toNat % 2 ^ 80
  let u := if s.island.replicas.contains port then 0xFFFF else unc16 (s.pubUnc 2)
  (t, u, d.2)

/-- TSV_STATE shows the references in use: the selected phase source, PPS_IN only while it is qualified, and the selected
frequency source, SyncE and FREQ_IN only while qualified (R84). -/
def State.showRefs (s : State) : State :=
  let p := s.getF TSV_REF_SEL.phase_src
  let f := s.getF TSV_REF_SEL.freq_src
  let p' := if 3 < p ∨ (p = 2 ∧ s.flag TSV_STATE.pps_in_qualified = false) then 0 else p
  let f' := if 3 < f ∨ (f = 1 ∧ s.flag TSV_STATE.synce_qualified = false)
      ∨ (f = 2 ∧ s.flag TSV_STATE.freq_in_qualified = false) then 0 else f
  (s.setF TSV_STATE.phase_src_active p').setF TSV_STATE.freq_src_active f'

end Sys2Proof.Machine
end

