-- ==== Sys2Proof/Machine/TableOps.lean ====
section
/-! DEFINITION. The lookup tables as lookups, commands, learning and sweeps share them (spec/04 R105–R109, spec/05). Tables are
numbered as R156 numbers them: 0 EML, 1 LPM, 2 RUL, 3 actions, 4 FLT. -/

namespace Sys2Proof.Machine

/-! ### Formes and visibility (R98, R99, R105) -/

/-- The FCLK in progress. -/
def State.fnow (s : State) : Nat := s.now / fclk

/-- The state of a forme number (FRM_STATE.slot_state, Table 4-1). -/
def State.formeState (s : State) (n : Nat) : Nat := nbits (s.getF FRM_STATE.slot_state) (3 * n + 2) (3 * n)

/-- A forme number takes a state. -/
def State.setFormeState (s : State) (n v : Nat) : State :=
  s.setF FRM_STATE.slot_state (nset (s.getF FRM_STATE.slot_state) (3 * n + 2) (3 * n) v)

/-- The chase: the number that is CHASE or READY. -/
def State.chase? (s : State) : Option Nat :=
  (List.range 8).find? fun n => s.formeState n == 1 || s.formeState n == 2

/-- The rank of a forme number in lock-up order (R99): a retired number is below every live one, the chase above them, and a
discarded number above everything, since nothing that is stamped ever follows it. -/
def State.formeRank (s : State) (n : Nat) : Nat :=
  if s.frm.discarded.contains n then 30
  else match s.frm.order.findIdx? (· == n) with
    | some i => i + 1
    | none => if s.chase? = some n then 20 else 0

/-- A rank above every forme that exists, as a forme locked up later has. -/
def futureRank : Nat := 25

/-- Is an entry tagged (vis, vf) visible at a rank (Table 4-2)? -/
def State.visAt (s : State) (vis vf r : Nat) : Bool :=
  if vis = 1 then true
  else if vis = 2 then decide (s.formeRank vf ≤ r)
  else if vis = 3 then decide (r < s.formeRank vf)
  else false

/-! ### Entries -/

/-- The width of a table's entry image. -/
def tblWidth (t : Nat) : Nat :=
  if t = 0 then 128 else if t = 1 then 192 else if t = 4 then 512 else 256

/-- A table's entries by position. -/
def State.tab (s : State) (t : Nat) : Tab Nat :=
  if t = 0 then s.tbl.eml else if t = 1 then s.tbl.lpm else if t = 2 then s.tbl.rul else if t = 3 then s.tbl.act
  else s.tbl.flt

/-- A table's entries replaced. -/
def State.setTab (s : State) (t : Nat) (x : Tab Nat) : State :=
  if t = 0 then { s with tbl := { s.tbl with eml := x } } else if t = 1 then { s with tbl := { s.tbl with lpm := x } }
  else if t = 2 then { s with tbl := { s.tbl with rul := x } } else if t = 3 then { s with tbl := { s.tbl with act := x } }
  else { s with tbl := { s.tbl with flt := x } }

/-- The stored entry at a position; 0 is free. -/
def State.entry (s : State) (t pos : Nat) : Nat := Tab.getD 0 (s.tab t) pos

/-- The image of a stored entry. -/
def imgOf (t e : Nat) : Nat := e % 2 ^ tblWidth t

/-- Does hardware learning count the entry (R155)? -/
def hwOf (t e : Nat) : Bool := natBit e (tblWidth t)

/-- The visibility code of an image. -/
def imgVis (t v : Nat) : Nat := nbits v (tblWidth t - 1) (tblWidth t - 2)

/-- The forme number of an image. -/
def imgVf (t v : Nat) : Nat := nbits v (tblWidth t - 3) (tblWidth t - 5)

/-- An image with another visibility. -/
def imgTag (t v vis vf : Nat) : Nat :=
  nset (nset v (tblWidth t - 1) (tblWidth t - 2) vis) (tblWidth t - 3) (tblWidth t - 5) vf

/-- The key of an image for R108; the action table's key is its position. -/
def imgKey (t v : Nat) : Nat :=
  if t = 0 then nbits v 61 0 else if t = 1 then nbits v 186 178 * 2 ^ 144 + nbits v 143 0
  else if t = 2 then nbits v 250 234 else if t = 4 then nbits v 319 0 else 0

/-- Is an image visible to a forme? -/
def State.imgVisible (s : State) (t v forme : Nat) : Bool := s.visAt (imgVis t v) (imgVf t v) (s.formeRank forme)

/-- The action index of an image. -/
def imgAction (t v : Nat) : Nat :=
  if t = 0 then nbits v 79 64 else if t = 1 then nbits v 177 162 else if t = 2 then nbits v 233 218 else nbits v 489 474

/-- Words of an entry that fail their check. -/
def State.badWords (s : State) (t pos : Nat) : List Nat :=
  (s.tbl.bad.filter fun b => b.1 == t && b.2.1 == pos).map fun b => b.2.2

/-- Does a word of the entry fail its check? -/
def State.posBad (s : State) (t pos : Nat) : Bool := s.tbl.bad.any fun b => b.1 == t && b.2.1 == pos

/-- A position is in an overflow store (Table 5-7). -/
def isOvf (pos : Nat) : Bool := natBit pos 23

/-- The pending-write store has a free entry, or the next one waits for a release, which comes at most 240 FCLK after
the write entered (R36). -/
def State.pendRoom (s : State) : State :=
  match s.tbl.pend with
  | [] => s
  | p :: ps =>
    if 128 ≤ s.tbl.pend.length then { s.after ((p.at_ + 240) * fclk) with tbl := { s.tbl with pend := ps } } else s

/-- A position takes an entry, or is freed by 0, in one full-width write: what was bad there is gone (R135), and an FLT write
enters the pending-write store, or the overflow store, where it is visible from the next FCLK on (R36, R134). -/
def State.writeEntry (s : State) (t pos e : Nat) : State :=
  let s := if t = 4 ∧ isOvf pos = false then s.pendRoom else s
  let old := s.entry t pos
  let s1 := s.setTab t (Tab.setD 0 (s.tab t) pos e)
  let b := s1.tbl.bad.filter fun b => !(b.1 == t && b.2.1 == pos)
  let s2 := { s1 with tbl := { s1.tbl with bad := b } }
  if t = 4 then
    if isOvf pos then
      let r := (s2.tbl.recent.filter fun x => x.2.2 == s2.fnow) ++ [(pos, old, s2.fnow)]
      { s2 with tbl := { s2.tbl with recent := r } }
    else { s2 with tbl := { s2.tbl with pend := s2.tbl.pend ++ [⟨pos, old, s2.fnow, List.range 8, s2.fnow⟩] } }
  else s2

/-- The FLT entry that a merge in this FCLK sees: a write of the same FCLK is not seen yet (R36, R134). -/
def State.fltMerged (s : State) (pos : Nat) : Nat :=
  if isOvf pos then
    match s.tbl.recent.find? fun x => x.1 == pos && x.2.2 == s.fnow with
    | some x => x.2.1
    | none => s.entry 4 pos
  else
    match s.tbl.pend.find? fun x => x.pos == pos && x.at_ == s.fnow with
    | some x => x.old
    | none => s.entry 4 pos

/-- FRM_TAGGED, the members' counts and the FLT learned-entry count show what the tables hold. -/
def State.showTables (s : State) : State :=
  let tagged (n : Nat) : Nat := ((List.range 5).map fun t => Tab.count (s.tab t) fun _ e =>
    decide (2 ≤ imgVis t e % 4) && imgVf t e == n).sum
  let s1 := (List.range 8).foldl (fun u n => u.setF FRM_TAGGED.entries (tagged n) n) s
  let members := (List.range 12).foldl (fun u m => u.setF EML_MEMBER_CFG.count
    (Tab.count s.tbl.eml fun _ e => hwOf 0 e && nbits e 96 93 == m) m) s1
  members.setF X_CNT.count (Tab.count s.tbl.flt fun _ e => hwOf 4 e) 3 13

/-- Every entry of EML or FLT is freed. -/
def State.clearHashTable (s : State) (t : Nat) : State :=
  let s1 := s.setTab t []
  let tb := { s1.tbl with bad := s1.tbl.bad.filter fun b => b.1 != t }
  if t = 0 then { s1 with tbl := tb }.showTables
  else { s1 with tbl := { tb with idle := [], pend := [], recent := [] } }.showTables

/-! ### Hashing and search (R127, R128, R133–R135) -/

/-- Key width of a table in bytes (Table 5-1). -/
def keyWidth (t : Nat) : Nat :=
  if t = 0 then 8 else if t = 1 then 20 else if t = 2 then 13 else 40

/-- h1 and h2 of a key (R128). -/
def State.hashes (s : State) (t key : Nat) : Nat × Nat :=
  let w := if t = 0 then s.reg .EML_HASH_SEED else s.reg .FLT_HASH_SEED
  (crc32c (w.bits 31 0) (keyBytes (keyWidth t) key), crc32c (w.bits 63 32) (keyBytes (keyWidth t) key))

/-- The owner's partition of an FLT key while the table is partitioned (R159). -/
def State.fltOwner (s : State) (key : Nat) : Nat :=
  (s.hashes 4 key).1 / 2 ^ 24 * (s.getF FLT_PART.n_minus_1 + 1) / 256

/-- Does another member own an FLT key? -/
def State.fltForeign (s : State) (key : Nat) : Bool :=
  s.getF FLT_PART.n_minus_1 != 0 && s.fltOwner key != s.getF FLT_PART.own

/-- The member that owns an FLT key (R159, R496). -/
def State.fltMember (s : State) (key : Nat) : Nat := s.odf.partners.getD (s.fltOwner key) (s.fltOwner key)

/-- The four ways of a key's home bucket. -/
def State.homeWays (s : State) (t key : Nat) : List Nat :=
  let b := (s.hashes t key).1 % (if t = 0 then 2 ^ 16 else 2 ^ 20)
  (List.range 4).map fun w => b * 4 + w

/-- The eight ways of a key's overflow set. -/
def State.ovfWays (s : State) (t key : Nat) : List Nat :=
  let b := (s.hashes t key).2 % (if t = 0 then 2 ^ 8 else 2 ^ 11)
  (List.range 8).map fun w => 2 ^ 23 + b * 8 + w

/-- What a lookup found: a position and image, and the positions of bad words that count against it (R135). -/
structure Found where
  hit : Option (Nat × Nat)
  bad : List Nat
deriving DecidableEq, Repr

/-- The image with the words that fail their check cleared, and the mask of the good bits. -/
def State.goodMask (s : State) (t pos : Nat) : Nat :=
  (s.badWords t pos).foldl (fun m w => nset m (64 * w + 63) (64 * w) 0) (2 ^ tblWidth t - 1)

/-- Do the good words of an entry show that a forme does not see it? -/
def State.shownHidden (s : State) (t pos v forme : Nat) : Bool :=
  !(s.badWords t pos).contains (tblWidth t / 64 - 1) && !s.imgVisible t v forme

/-- A lookup in EML or FLT (R133, R135); `img` gives the entry at a position. -/
def State.hashLookup (s : State) (t key forme : Nat) (img : Nat → Nat) : Found :=
  let ways := s.homeWays t key ++ s.ovfWays t key
  let width := if t = 0 then 64 else 320
  let counts (pos : Nat) : Bool :=
    s.posBad t pos && !s.shownHidden t pos (img pos) forme
      && decide ((imgOf t (img pos) % 2 ^ width ^^^ key) &&& (s.goodMask t pos % 2 ^ width) = 0)
  let hits (pos : Nat) : Bool := s.imgVisible t (img pos) forme && imgOf t (img pos) % 2 ^ width == key
  let bad := ways.filter counts
  ⟨if bad.isEmpty then (ways.find? hits).map fun p => (p, imgOf t (img p)) else none, bad⟩

/-- Does a prefix image cover an address (R130)? -/
def lpmCovers (v vrf af addr : Nat) : Bool :=
  decide (nbits v 143 128 = vrf) && decide (nbits v 186 186 = af)
    && decide (nbits v 127 0 / 2 ^ (128 - nbits v 185 178) = addr / 2 ^ (128 - nbits v 185 178))

/-- A lookup in LPM by a key of 20 bytes: the longest visible prefix (Table 5-1, R130, R135). -/
def State.lpmLookup (s : State) (key : List Byte) (forme : Nat) : Found :=
  let vrf := beNat (key.take 2)
  let af := (key.getD 2 0).toNat
  let addr := if af = 0 then beNat (sliceBytes key 4 4) * 2 ^ 96 else beNat (sliceBytes key 4 16)
  let len (v : Nat) := nbits v 185 178
  if 1 < af then ⟨none, []⟩
  else
    let good := s.tbl.lpm.filter fun p => !s.posBad 1 p.1 && s.imgVisible 1 p.2 forme && lpmCovers p.2 vrf af addr
    let best := good.foldl (fun (b : Option (Nat × Nat)) p =>
      match b with
      | some q => if len q.2 < len p.2 then some p else b
      | none => some p) none
    let counts (p : Nat × Nat) : Bool :=
      let bw := s.badWords 1 p.1
      !bw.isEmpty && (bw.contains 2 || (s.imgVisible 1 p.2 forme && decide (nbits p.2 143 128 = vrf)
          && decide (nbits p.2 186 186 = af) && (match best with | some q => decide (len q.2 < len p.2) | none => true)
          && decide ((nbits p.2 127 0 ^^^ addr) &&& (s.goodMask 1 p.1 % 2 ^ 128) / 2 ^ (128 - len p.2) * 2 ^ (128 - len p.2) = 0)))
    let bad := (s.tbl.lpm.filter counts).map Prod.fst
    ⟨if bad.isEmpty then best.map fun p => (p.1, imgOf 1 p.2) else none, bad⟩

/-- Does a rule match a key (R131)? -/
def rulMatches (v key : Nat) : Bool := key &&& nbits v 103 0 == nbits v 207 104

/-- A lookup in RUL: the matching visible rule with the lowest identifier (R131, R135). -/
def State.rulLookup (s : State) (key forme : Nat) : Found :=
  let id (v : Nat) := nbits v 250 234
  let good := s.tbl.rul.filter fun p => !s.posBad 2 p.1 && s.imgVisible 2 p.2 forme && rulMatches p.2 key
  let best := good.foldl (fun (b : Option (Nat × Nat)) p =>
    match b with
    | some q => if id p.2 < id q.2 then some p else b
    | none => some p) none
  let counts (p : Nat × Nat) : Bool :=
    let g := s.goodMask 2 p.1
    let headGood := !(s.badWords 2 p.1).contains 3
    s.posBad 2 p.1 && !s.shownHidden 2 p.1 p.2 forme
      && decide ((key ^^^ nbits p.2 207 104) &&& nbits p.2 103 0 &&& nbits g 103 0 &&& nbits g 207 104 = 0)
      && !(headGood && (match best with | some q => decide (id q.2 < id p.2) | none => false))
  let bad := (s.tbl.rul.filter counts).map Prod.fst
  ⟨if bad.isEmpty then best.map fun p => (p.1, imgOf 2 p.2) else none, bad⟩

/-- A lookup in one of the four tables by a key in byte order. -/
def State.tblLookup (s : State) (t : Nat) (key : List Byte) (forme : Nat) : Found :=
  if t = 0 then s.hashLookup 0 (beNat key) forme (s.entry 0)
  else if t = 1 then s.lpmLookup key forme
  else if t = 2 then s.rulLookup (beNat key) forme
  else s.hashLookup 4 (beNat key) forme s.fltMerged

/-- The block index of a table's registers (X_CMD, X_CNT). -/
def tblBlk (t : Nat) : Nat := if t = 0 then 0 else if t = 1 then 1 else if t = 4 then 3 else 2

/-- The error source of a table (R135). -/
def tblPin (t : Nat) : Nat := if t = 0 then 14 else if t = 1 then 17 else if t = 4 then 15 else 16

/-- The body of a table event (R156). -/
def tblBody (t flags first second pos key hash learn : Nat) : List Byte :=
  leBytes 1 t ++ leBytes 1 flags ++ leBytes 1 first ++ leBytes 1 second ++ leBytes 4 pos
    ++ (if t = 0 then beBytes 8 key else leBytes 4 hash ++ zeroBytes 4) ++ leBytes 4 learn ++ zeroBytes 4

/-- A table event to the configuration owner (R156). -/
def State.tblEvent (s : State) (typ : Nat) (body : List Byte) : State := s.postEvent .owner ⟨typ, none, body⟩

/-- A bad word met by a lookup or by action resolution: counted, the table's pin driven, and TABLE_ENTRY_BAD posted
(R135). -/
def State.metBad (s : State) (t pos : Nat) : State :=
  ((s.bump X_CNT.count (tblBlk t) 0).raise (tblPin t) (faultA 0x0001)).tblEvent 0x46
    (tblBody t 0 0 0 pos 0 0 0)

/-- The entry image of an action index as a forme's packets see it; none where it is hidden, and none with the bad word
reported where one of its words fails (R120, R135). -/
def State.actionFor (s : State) (idx forme : Nat) : Option Act × State :=
  let v := s.entry 3 idx
  if s.posBad 3 idx then (none, s.metBad 3 idx)
  else if s.imgVisible 3 v forme then (some (Act.ofImage v), s) else (none, s)

/-! ### Sweeps (R106, R107, Table 4-3) -/

/-- The FCLK after a sweep's start in which its walk passes a position. -/
def sweepPasses (t pos : Nat) : Nat :=
  if t = 0 then (if isOvf pos then 65536 + (pos - 2 ^ 23) / 4 else pos / 4)
  else if t = 1 then pos / 8
  else if t = 2 then pos
  else if t = 3 then 131072 + pos
  else if isOvf pos then 3145728 + (pos - 2 ^ 23) / 4 else pos / 4 / 8 * 24

/-- The length of an engine's walk. -/
def sweepWalk (t : Nat) : Nat :=
  if t = 0 then 66048 else if t = 1 then 131072 else if t = 4 then 3149824 else 196608

/-- Is an entry tagged with a number? -/
def tagged (t e n : Nat) : Bool := decide (2 ≤ imgVis t e) && imgVf t e == n

/-- Does a table engine hold an entry tagged with a number (RUL and actions share one engine)? -/
def State.engineTagged (s : State) (t n : Nat) : Bool := (s.tab t).any fun p => tagged t p.2 n

/-- When the sweep of a number started now ends: the longest of the walks of the engines that hold a tagged entry. -/
def State.sweepEnd (s : State) (n : Nat) : Nat :=
  [0, 1, 2, 3, 4].foldl (fun m t => if s.engineTagged t n ∧ m < s.fnow + sweepWalk t then s.fnow + sweepWalk t else m)
    s.fnow

/-- An entry as a sweep of `n` leaves it. A settle sweep makes FROM entries ALL and frees UNTIL entries; a discard sweep does
the reverse (Table 4-4). -/
def sweepEntry (t n : Nat) (discard : Bool) (e : Nat) : Nat :=
  if tagged t e n then
    if (imgVis t e = 2) = (discard = false) then imgTag t e 1 (imgVf t e) else 0
  else e

/-- The running sweep has rewritten every entry that its walk has passed by now. -/
def State.advanceSweep (s : State) : State :=
  match s.frm.sweep with
  | none => s
  | some w =>
    let f (t : Nat) (u : State) : State :=
      let ps := (u.tab t).filter fun p => tagged t p.2 w.num && decide (sweepPasses t p.1 < u.fnow - w.start)
      ps.foldl (fun v p => v.writeEntry t p.1 (sweepEntry t w.num w.discard p.2)) u
    (f 4 (f 3 (f 2 (f 1 (f 0 s))))).showTables

/-- The next waiting sweep starts if none runs (R106: one at a time, in lock-up order). -/
def State.startSweep (s : State) : State :=
  match s.frm.sweep, s.frm.waiting with
  | none, (n, d) :: rest =>
    let w : Sweep := ⟨n, d, s.fnow, s.sweepEnd n⟩
    let frm := { s.frm with sweep := some w, waiting := rest, settled := if d then s.frm.settled else insertNat s.frm.settled n }
    ({ s with frm := frm }.setF FRM_STATE.sweep_active 1).setF FRM_STATE.sweep_number n
  | _, _ => s

/-- A sweep of a number is due. -/
def State.queueSweep (s : State) (n : Nat) (discard : Bool) : State :=
  { s with frm := { s.frm with waiting := s.frm.waiting ++ [(n, discard)] } }.startSweep

/-! ### Insertion (R137–R140) -/

/-- Do two tags clash (R108): a live forme, the chase, or a forme locked up later sees both? -/
def State.tagsClash (s : State) (v1 f1 v2 f2 : Nat) : Bool :=
  let ranks := futureRank :: (s.frm.order ++ s.chase?.toList).map s.formeRank
  ranks.any fun r => s.visAt v1 f1 r && s.visAt v2 f2 r

/-- Would an image clash with an entry of the same key, other than the one at `skip`? -/
def State.imgClash (s : State) (t v : Nat) (actPos : Nat) (skip : Option Nat) : Bool :=
  (s.tab t).any fun p => decide (skip ≠ some p.1) && (if t = 3 then p.1 == actPos else imgKey t p.2 == imgKey t v)
    && (t == 3 || s.tagsClash (imgVis t p.2) (imgVf t p.2) (imgVis t v) (imgVf t v))

/-- Is an image well formed for its table (R130, R131, Table 5-6)? -/
def imgFormatOk (t v : Nat) : Bool :=
  if t = 1 then
    let len := nbits v 185 178
    let six := natBit v 186
    (if six then decide (len ≤ 128) else decide (len ≤ 32)) && decide (nbits v 127 0 % 2 ^ (128 - len) = 0)
  else if t = 2 then nbits v 207 104 &&& nbits v 103 0 == nbits v 207 104
  else true

/-- Slots an LPM entry takes. -/
def lpmSlots (v : Nat) : Nat := if natBit v 186 then 2 else 1

/-- The first position at or after `k` that is free, wrapping at `n`: where an LPM or RUL engine places an entry is its
own choice, so `k` is a free value. -/
def placeFrom (t : Tab Nat) (k n : Nat) : Option Nat :=
  match Tab.freeKey t k (n - k) with
  | some p => some p
  | none => Tab.freeKey t 0 k

/-- The idle state of an EML or FLT position. -/
def State.idleOf (s : State) (t pos : Nat) : Nat :=
  if t = 0 then nbits (s.entry 0 pos) 120 119 else if t = 4 then Tab.getD 0 s.tbl.idle pos else 0

/-- The idle state of a position set. -/
def State.setIdle (s : State) (t pos v : Nat) : State :=
  if t = 0 then s.setTab 0 (Tab.setD 0 s.tbl.eml pos (nset (s.entry 0 pos) 120 119 v))
  else { s with tbl := { s.tbl with idle := Tab.setD 0 s.tbl.idle pos v } }

/-- Is an entry static? -/
def imgStatic (t v : Nat) : Bool := if t = 0 then natBit v 122 else natBit v 505

/-- May an entry be evicted (R137): not static, and learned or, in FLT, ageing; a way with a bad word is never chosen? -/
def State.evictable (s : State) (t pos : Nat) : Bool :=
  let v := s.entry t pos
  decide (v ≠ 0) && !s.posBad t pos && !imgStatic t v
    && (if t = 0 then natBit v 121 else natBit v 504 || natBit v 506)

/-- The victim among positions, by the table's policy (R140), and the state after the LFSR step that random takes. -/
def State.chooseVictim (s : State) (t : Nat) (ways : List Nat) : Option Nat × State :=
  let el := ways.filter (s.evictable t)
  match el with
  | [] => (none, s)
  | e0 :: _ =>
    if (if t = 0 then s.flag EML_LEARN_CFG.evict_policy else s.flag FLT_LEARN_CFG.evict_policy) then
      let x := lfsrStep (if t = 0 then s.tbl.lfsrE else s.tbl.lfsrF)
      let s1 := if t = 0 then { s with tbl := { s.tbl with lfsrE := x } } else { s with tbl := { s.tbl with lfsrF := x } }
      (el[x % el.length]?, s1)
    else
      (some (el.foldl (fun b p => if s.idleOf t b < s.idleOf t p then p else b) e0), s)

/-- Is a way free? -/
def State.wayFree (s : State) (t pos : Nat) : Bool := decide (s.entry t pos = 0) && !s.posBad t pos

/-- A relocation (R138): the entry and its idle state move, and the source takes new content. -/
def State.relocate (s : State) (t src dst e : Nat) : State :=
  let old := s.entry t src
  let idle := s.idleOf t src
  let s1 := s.writeEntry t dst old
  let s2 := if t = 4 then s1.setIdle 4 dst idle else s1
  let s3 := s2.writeEntry t src e
  if t = 4 then s3.setIdle 4 src 0 else s3

/-- The placement of R137 in EML or FLT, after the clash check: position or TABLE_FULL. -/
def State.hashInsert (s : State) (t e : Nat) (evict : Bool) : Option Nat × State :=
  let home := s.homeWays t (imgKey t e)
  let ovf := s.ovfWays t (imgKey t e)
  let put (u : State) (p : Nat) : Option Nat × State :=
    let u1 := u.writeEntry t p e
    (some p, if t = 4 then u1.setIdle 4 p 0 else u1)
  match (home ++ ovf).find? (s.wayFree t) with
  | some p => put s p
  | none =>
    let move (w : Nat) : Option (Nat × Nat) :=
      if s.posBad t w then none
      else ((s.ovfWays t (imgKey t (s.entry t w))).find? (s.wayFree t)).map fun v => (w, v)
    match home.findSome? move with
    | some (w, v) => (some w, s.relocate t w v e)
    | none =>
      if evict then
        let c := s.chooseVictim t (home ++ ovf)
        match c.1 with
        | none => (none, c.2)
        | some p =>
          let old := s.entry t p
          let h := (s.hashes t (imgKey t old)).1
          let s1 := (c.2.bump X_CNT.count (tblBlk t) 9).tblEvent 0x45
            (tblBody t 0 (if t = 0 then nbits old 96 93 + nbits old 92 91 * 16 else 0) 0 p (imgKey t old) h 0)
          put s1 p
      else (none, s)

end Sys2Proof.Machine
end

