-- ==== Sys2Proof/Machine/TableCmd.lean ====
section
/-! DEFINITION. The table command engine (spec/05 R143–R147, Table 5-6): a request from a register or a ring, its outcome, and
where the outcome goes. -/

namespace Sys2Proof.Machine

def stTableFull : Nat := 0x80
def stNotFound : Nat := 0x81
def stQuotaExceeded : Nat := 0x82

/-- What a table command answers: status, position, idle, and the image that LOOKUP and READ_POS return. -/
structure TblAns where
  status : Nat
  pos : Option Nat
  idle : Nat
  image : Option Nat
deriving DecidableEq, Repr

/-- An answer with a status alone. -/
def ansOf (st : Nat) : TblAns := ⟨st, none, 0, none⟩

/-- R109: a forme number named in a visibility field must exist and be in the expected state. -/
def State.formeGuard (s : State) (vis vf expect : Nat) : Option Nat :=
  let st := s.formeState vf
  if vis < 2 then none
  else if st = 0 ∨ st = 5 then some stMalformed
  else if (expect = 1 ∧ st ≠ 1 ∧ st ≠ 2) ∨ (expect = 2 ∧ st ≠ 3) then some stFormeBusy
  else none

/-- A visibility as the tables store it once the settle sweep of its number has started (R106): FROM becomes ALL, and
UNTIL leaves nothing. -/
def State.settledVis (s : State) (vis vf : Nat) : Nat :=
  if s.frm.settled.contains vf then (if vis = 2 then 1 else if vis = 3 then 0 else vis) else vis

/-- The range of positions of a table (Table 5-7). -/
def posValid (t pos : Nat) : Bool :=
  if t = 0 then decide (pos < 2 ^ 18) || (decide (2 ^ 23 ≤ pos) && decide (pos < 2 ^ 23 + 2 ^ 11))
  else if t = 1 then decide (pos < 2 ^ 20)
  else if t = 2 then decide (pos < 2 ^ 17)
  else if t = 3 then decide (pos < 2 ^ 16)
  else decide (pos < 2 ^ 22) || (decide (2 ^ 23 ≤ pos) && decide (pos < 2 ^ 23 + 2 ^ 14))

/-- May the requesting ring see an entry: a slice's ring only its own (R147)? -/
def TblReq.sees (q : TblReq) (v : Nat) : Bool :=
  match q.slice with
  | some g => !q.limited || nbits v 503 490 == g
  | none => true

/-- The position of the entry that DELETE, MODIFY and RETAG match: same key, same vis, and the same forme number where vis names
one (Table 5-6). -/
def State.matchEntry (s : State) (q : TblReq) (v : Nat) : Option Nat :=
  ((s.tab q.table).find? fun p =>
    (if q.table = 3 then p.1 == q.pos else imgKey q.table p.2 == imgKey q.table v) && !s.posBad q.table p.1
      && imgVis q.table p.2 == imgVis q.table v
      && (imgVis q.table v == 1 || imgVf q.table p.2 == imgVf q.table v) && q.sees p.2).map Prod.fst

/-- FLT entries that count against a slice (R147, R157: learned ones do not). -/
def State.sliceFltUse (s : State) (g : Nat) : Nat :=
  Tab.count s.tbl.flt fun _ e => nbits e 503 490 == g && !hwOf 4 e

/-- INSERT (Table 5-6, R137): the clash check, then a place for the image. -/
def State.tblInsert (s : State) (q : TblReq) (v : Nat) : State × TblAns :=
  let t := q.table
  let vis := s.settledVis (imgVis t v) (imgVf t v)
  let v := imgTag t v vis (imgVf t v)
  let full (g : Nat) : Bool := q.limited && decide (((s.slice? g).map SliceRec.fltEntries).getD 0 ≤ s.sliceFltUse g)
  if vis = 0 then (s, ansOf stOk)
  else if s.imgClash t v q.pos none then (s, ansOf stMalformed)
  else if (match q.slice with | some g => full g | none => false) then (s, ansOf stQuotaExceeded)
  else if t = 0 ∨ t = 4 then
    match s.hashInsert t v q.evict with
    | (some p, s1) => (s1, ⟨stOk, some p, 0, none⟩)
    | (none, s1) => (s1, ansOf stTableFull)
  else if t = 3 then (s.writeEntry 3 q.pos v, ⟨stOk, some q.pos, 0, none⟩)
  else
    let used := (s.tab t).foldl (fun n p => n + (if t = 1 then lpmSlots p.2 else 1)) 0
    let cap := if t = 1 then 2 ^ 20 else 2 ^ 17
    if cap < used + (if t = 1 then lpmSlots v else 1) then (s, ansOf stTableFull)
    else
      let d := s.draw (if t = 1 then 20 else 17)
      match placeFrom (d.2.tab t) d.1 cap with
      | some p => (d.2.writeEntry t p v, ⟨stOk, some p, 0, none⟩)
      | none => (d.2, ansOf stTableFull)

/-- MODIFY of a matched entry (Table 5-6): every field of the image but vis and vf; hardware learning counts the entry
on only while learned stays 1 and, in EML, static stays 0. -/
def State.tblModify (s : State) (q : TblReq) (p v : Nat) : State :=
  let t := q.table
  let old := s.entry t p
  let v := imgTag t v (imgVis t old) (imgVf t old)
  let keep := hwOf t old && (if t = 0 then natBit v 121 && !natBit v 122 else natBit v 504)
  s.writeEntry t p (v + (if keep then 2 ^ tblWidth t else 0))

/-- The key in byte order that LOOKUP takes from an image (Table 5-6). -/
def lookupKey (t v : Nat) : List Byte :=
  if t = 0 then beBytes 8 (nbits v 63 0)
  else if t = 1 then beBytes 2 (nbits v 143 128) ++ leBytes 1 (nbits v 186 186) ++ zeroBytes 1 ++ beBytes 16 (nbits v 127 0)
  else if t = 2 then beBytes 13 (nbits v 207 104)
  else beBytes 40 (nbits v 319 0)

/-- LOOKUP (Table 5-6): what a lookup of a forme's view would return. -/
def State.tblFind (s : State) (q : TblReq) (v : Nat) : TblAns :=
  let t := q.table
  if !(s.frm.order.contains q.forme || s.chase? = some q.forme) then ansOf stMalformed
  else
    let f : Found := if t = 3 then
        (if s.posBad 3 q.pos then ⟨none, [q.pos]⟩
         else if s.imgVisible 3 (s.entry 3 q.pos) q.forme then ⟨some (q.pos, s.entry 3 q.pos), []⟩ else ⟨none, []⟩)
      else s.tblLookup t (lookupKey t v) q.forme
    match f.bad, f.hit with
    | _ :: _, _ => ansOf stParityMiss
    | [], some (p, w) => if q.sees w then ⟨stOk, some p, s.idleOf t p, some (imgOf t w)⟩ else ansOf stNotFound
    | [], none => ansOf stNotFound

/-- INSERT (op 1). -/
def State.tblInsertOp (s : State) (q : TblReq) (v : Nat) : State × TblAns :=
  let vis := imgVis q.table v
  if vis = 0 ∨ imgFormatOk q.table v = false then (s, ansOf stMalformed)
  else match s.formeGuard vis (imgVf q.table v) q.expect with
    | some e => (s, ansOf e)
    | none => s.tblInsert q v

/-- DELETE (op 2). -/
def State.tblDeleteOp (s : State) (q : TblReq) (v : Nat) : State × TblAns :=
  match s.formeGuard (imgVis q.table v) (imgVf q.table v) q.expect, s.matchEntry q v with
  | some e, _ => (s, ansOf e)
  | none, some p => (s.writeEntry q.table p 0, ⟨stOk, some p, 0, none⟩)
  | none, none => (s, ansOf stNotFound)

/-- MODIFY (op 3). -/
def State.tblModifyOp (s : State) (q : TblReq) (v : Nat) : State × TblAns :=
  match s.formeGuard (imgVis q.table v) (imgVf q.table v) q.expect, s.matchEntry q v with
  | some e, _ => (s, ansOf e)
  | none, some p => if imgFormatOk q.table v then (s.tblModify q p v, ⟨stOk, some p, 0, none⟩) else (s, ansOf stMalformed)
  | none, none => (s, ansOf stNotFound)

/-- RETAG (op 4): both the entry's visibility and the new one pass the guard. -/
def State.tblRetagOp (s : State) (q : TblReq) (v : Nat) : State × TblAns :=
  let t := q.table
  let g := match s.formeGuard (imgVis t v) (imgVf t v) q.expect with
    | some e => some e
    | none => s.formeGuard q.newVis q.newVf q.expect
  match g, s.matchEntry q v with
  | some e, _ => (s, ansOf e)
  | none, some p =>
    let nv := s.settledVis q.newVis q.newVf
    let w := s.entry t p
    if q.newVis = 0 then (s, ansOf stMalformed)
    else if nv = 0 then (s.writeEntry t p 0, ⟨stOk, some p, 0, none⟩)
    else if t ≠ 3 ∧ s.imgClash t (imgTag t w nv q.newVf) q.pos (some p) then (s, ansOf stMalformed)
    else (s.writeEntry t p (imgTag t w nv q.newVf), ⟨stOk, some p, 0, none⟩)
  | none, none => (s, ansOf (if q.newVis = 0 then stMalformed else stNotFound))

/-- READ_POS (op 6). -/
def State.tblReadOp (s : State) (q : TblReq) : State × TblAns :=
  let t := q.table
  let w := s.entry t q.pos
  if !posValid t q.pos then (s, ansOf stMalformed)
  else if w ≠ 0 ∧ q.sees w = false then (s, ansOf stNotFound)
  else (s, ⟨if s.posBad t q.pos then stParityMiss else stOk, some q.pos, s.idleOf t q.pos, some (imgOf t w)⟩)

/-- DELETE_POS (op 7). -/
def State.tblEraseOp (s : State) (q : TblReq) : State × TblAns :=
  let t := q.table
  let w := s.entry t q.pos
  if !posValid t q.pos then (s, ansOf stMalformed)
  else if w ≠ 0 ∧ q.sees w = false then (s, ansOf stNotFound)
  else (s.writeEntry t q.pos 0, ⟨stOk, some q.pos, 0, none⟩)

/-- The operation of an accepted request (Table 5-6). -/
def State.tblOp (s : State) (q : TblReq) (v : Nat) : State × TblAns :=
  match q.op with
  | 1 => s.tblInsertOp q v
  | 2 => s.tblDeleteOp q v
  | 3 => s.tblModifyOp q v
  | 4 => s.tblRetagOp q v
  | 5 => (s, s.tblFind q v)
  | 6 => s.tblReadOp q
  | 7 => s.tblEraseOp q
  | _ => (s, ansOf stMalformed)

/-- One table command is decided and makes its write (Table 5-6, R109, R147). One for an FLT key of another member goes there, and
its status is what that member answers (R159). -/
def State.tblRun (s : State) (q : TblReq) : State × TblAns :=
  let t := q.table
  let v0 := q.image % 2 ^ tblWidth t
  let v := match q.slice with
    | some g => if q.limited ∧ q.op = 1 then nset v0 503 490 g else v0
    | none => v0
  let vis := imgVis t v
  if 4 < t then (s, ansOf stMalformed)
  else if q.limited ∧ (t ≠ 4 ∨ (q.op ≤ 4 ∧ 2 ≤ vis) ∨ (q.op = 4 ∧ 2 ≤ q.newVis)) then (s, ansOf stAccessViolation)
  else if t = 3 ∧ posValid 3 q.pos = false then (s, ansOf stMalformed)
  else if t = 4 ∧ 1 ≤ q.op ∧ q.op ≤ 5 ∧ s.fltForeign (imgKey 4 v) then
    let d := s.draw 8
    (d.2.emit (.fltCommand (s.fltMember (imgKey 4 v)) q.op v), ansOf d.1)
  else s.tblOp q v

/-! ### Requests and answers -/

/-- The image in the data registers of a table block. -/
def State.cmdImage (s : State) (blk : Nat) : Nat :=
  (List.range 8).foldl (fun v i => v + (s.reg .X_CMD_DATA blk i).toNat * 2 ^ (64 * i)) 0

/-- The request of a register command: the fields of the written X_CMD and the image registers (R143). -/
def State.regReq (s : State) (init blk op : Nat) (w : Word) : TblReq :=
  { op := op, table := if blk = 3 then 4 else if blk = 2 ∧ w.bits 38 38 = 1 then 3 else blk,
    expect := w.bits 57 56, evict := w.bits 47 47 == 1, forme := w.bits 46 44, newVis := w.bits 43 42,
    newVf := w.bits 41 39, pos := w.bits 23 0, image := s.cmdImage blk, addr := none, slice := none, limited := false,
    origin := .reg init }

/-- The request of a ring entry (Table 5-9), with the image read from its address where it is not inline. -/
def ringReq (e : List Byte) (img : List Byte) (slice : Option Nat) (o : Origin) : TblReq :=
  let b (i : Nat) : Nat := (e.getD i 0).toNat
  let inl := natBit (b 1) 3
  { op := b 0 % 16, table := b 0 / 16, expect := b 1 % 4, evict := natBit (b 1) 2, forme := b 1 / 32,
    newVis := b 2 % 4, newVf := b 2 / 4 % 8, pos := leNat (sliceBytes e 4 3),
    image := if inl then leNat (sliceBytes e 16 48) else leNat (img.take 64),
    addr := some (leNat (sliceBytes e 8 8)), slice := slice, limited := slice.isSome, origin := o }

/-- The bytes of a fetched entry of a submission ring that has not completed. -/
def State.fetchedEntry (s : State) (num idx : Nat) : Option (List Byte) :=
  (s.ring? 0 num).bind fun r => ((r.fetched.find? fun p => p.1 == idx)).map Prod.snd

/-- May a table command entry be taken (R146): no older entry of its ring goes to the same table or is fenced off, and
a fenced entry waits for every older one? -/
def State.tblOrderOk (s : State) (num idx : Nat) : Bool :=
  match s.ring? 0 num, s.fetchedEntry num idx with
  | some r, some e =>
    let older := r.fetched.takeWhile fun p => p.1 != idx
    let tbl (x : List Byte) : Nat := (x.getD 0 0).toNat / 16
    let fence (x : List Byte) : Bool := natBit (x.getD 1 0).toNat 4
    older.all fun p => !fence e && !fence p.2 && tbl p.2 != tbl e
  | _, _ => false

/-- A finished command answers where it came from: X_CMD and X_CMD_DATA, or the ring's result buffer and completion. -/
def State.tblAnswer (s : State) (q : TblReq) (a : TblAns) : State :=
  match q.origin with
  | .reg _ =>
    let blk := tblBlk q.table
    let s1 := (s.setF X_CMD.result a.status blk).setF X_CMD.busy 0 blk
    let s2 := match a.pos with
      | some p => if q.op = 1 ∨ q.op = 5 then s1.setF X_CMD.position p blk else s1
      | none => s1
    let s3 := if q.op = 6 ∨ (q.op = 5 ∧ a.pos.isSome) then s2.setF X_CMD.idle a.idle blk else s2
    match a.image with
    | some v => (List.range 8).foldl (fun u i => u.setReg .X_CMD_DATA (BitVec.ofNat 64 (nbits v (64 * i + 63) (64 * i))) blk i) s3
    | none => s3
  | .ring num idx irq =>
    let done (u : State) (st : Nat) :=
      u.completeEntry num idx irq st (leBytes 4 (a.pos.getD 0) ++ leBytes 1 a.idle)
    match a.image, s.ring? 0 num with
    | some v, some r =>
      let c := s.dmaCheck r.fn r.slice true (q.addr.getD 0) 64
      if c.2 then done (c.1.issueWrite r.fn r.slice (q.addr.getD 0) (leBytes 64 v)) a.status
      else done c.1 stAccessViolation
    | _, _ => done s a.status

/-- A taken command runs to its end (R143). -/
def State.tblExec (s : State) (q : TblReq) : State :=
  let s0 := s.advanceSweep
  let r := s0.tblRun q
  r.1.showTables.tblAnswer q r.2

/-- A command that arrives while a D reset stands is held until its release (R158). -/
def State.tblTake (s : State) (q : TblReq) : State :=
  if s.modes.dReset.isSome then
    let s1 := { s with tbl := { s.tbl with held := s.tbl.held ++ [q] } }
    match q.origin with
    | .reg _ => s1.setF X_CMD.busy 1 (tblBlk q.table)
    | .ring _ _ _ => s1
  else s.tblExec q

/-- X_CMD as a register command stores it: its operation and the fields that the sender writes (R143). -/
def tblCmdWord (old : Word) (op : Nat) (w : Word) : Word :=
  ((((((((old.setBits 61 58 op).setBits 57 56 (w.bits 57 56)).setBits 47 47 (w.bits 47 47)).setBits 46 44
    (w.bits 46 44)).setBits 43 42 (w.bits 43 42)).setBits 41 39 (w.bits 41 39)).setBits 38 38 (w.bits 38 38)).setBits 23 0
    (w.bits 23 0))

/-- A table command of one operation, by register or by ring (R143, R146): the register form stores its fields, and is ignored
while busy; the ring form reads its image where it is not inline, and an image too wide to be inline is MALFORMED. -/
def State.tableCommand (s : State) (op : Nat) (o : Origin) (blk : Nat) (w : Word) (img : List Byte) : State :=
  match o with
  | .reg init =>
    let a := s.blockAccess (8 + blk) .write init 0
    if !a.2 ∨ a.1.flag X_CMD.busy blk then a.1
    else
      let s1 := a.1.setReg .X_CMD (tblCmdWord (a.1.reg .X_CMD blk) op w) blk
      s1.tblTake (s1.regReq init blk op w)
  | .ring num idx irq =>
    match s.ring? 0 num, s.fetchedEntry num idx with
    | some r, some e =>
      if r.kind ≠ 4 ∨ (e.getD 0 0).toNat % 16 ≠ op ∨ s.tblOrderOk num idx = false then s
      else
        let q0 := ringReq e img r.slice (.ring num idx irq)
        let q := ringReq e (s.dmaData r.fn (q0.addr.getD 0) 64 img) r.slice (.ring num idx irq)
        let inl := natBit (e.getD 1 0).toNat 3
        let reads := !inl && (decide (op ≤ 5))
        let c := if reads then s.dmaCheck r.fn r.slice false (q.addr.getD 0) 64 else (s, true)
        if !c.2 then c.1.completeEntry num idx irq stAccessViolation []
        else
          let s1 := if reads then c.1.issueRead r.fn r.slice (q.addr.getD 0) 64 else c.1
          if inl ∧ q.table = 4 ∧ op ≤ 5 then s1.completeEntry num idx irq stMalformed []
          else s1.tblTake q
    | _, _ => s

end Sys2Proof.Machine
end

