-- ==== Sys2Proof/Machine/PktOps.lean ====
section
/-! DEFINITION. Packets as the whole data path handles them: the lists they stand in, the end of their hold on a forme, their
drop, and free bytes (spec/04 R100–R104). -/

namespace Sys2Proof.Machine

/-! ### Lists of packets -/

/-- The places where packets stand: arrivals of a pipeline, its loop FIFO, its injections, packets waiting for a flow-table
result, packets at the enqueue hand-off, a queue, an egress pipeline, a port's transmit FIFO, a host link's hand-off, the
delivery FIFO of a half of the flow cores, far lookups out and returned, and the packets a flow core holds. -/
inductive PktPlace where
  | arrival | loop | inject | flt | handoff | queue | egress | txFifo | toHost | toCore | far | farBack | held
deriving DecidableEq, Repr

/-- The number of a kind of list. -/
def PktPlace.code : PktPlace → Nat
  | .arrival => 0
  | .loop => 1
  | .inject => 2
  | .flt => 3
  | .handoff => 4
  | .queue => 5
  | .egress => 6
  | .txFifo => 7
  | .toHost => 8
  | .toCore => 9
  | .far => 10
  | .farBack => 11
  | .held => 12

/-- The key of a list. -/
def lstKey (k : PktPlace) (i : Nat) : Nat := k.code * 2 ^ 20 + i

/-- A list of packet numbers, the first in front. -/
def State.lst (s : State) (k : PktPlace) (i : Nat) : List Nat := Tab.getD [] s.dp.lists (lstKey k i)

/-- A list replaced. -/
def State.setLst (s : State) (k : PktPlace) (i : Nat) (l : List Nat) : State :=
  { s with dp := { s.dp with lists := Tab.setD [] s.dp.lists (lstKey k i) l } }

/-- A packet joins the end of a list. -/
def State.pushLst (s : State) (k : PktPlace) (i id : Nat) : State := s.setLst k i (s.lst k i ++ [id])

/-- A packet leaves a list. -/
def State.popLst (s : State) (k : PktPlace) (i id : Nat) : State := s.setLst k i ((s.lst k i).filter (· != id))

/-! ### Packets -/

/-- A packet by number. -/
def State.pkt? (s : State) (id : Nat) : Option Pkt := Tab.look s.dp.pkts id

/-- A packet's descriptor replaced. -/
def State.setPkt (s : State) (id : Nat) (p : Pkt) : State := { s with dp := { s.dp with pkts := Tab.put s.dp.pkts id p } }

/-- A new packet takes the next number. -/
def State.newPkt (s : State) (p : Pkt) : Nat × State :=
  (s.dp.nextPkt, { s with dp := { s.dp with nextPkt := s.dp.nextPkt + 1, pkts := Tab.put s.dp.pkts s.dp.nextPkt p } })

/-- A packet that carries a frame without FCS, from a source into a pipeline. -/
def Pkt.ofFrame (src pipe : Nat) (bytes : List Byte) : Pkt :=
  { bytes := bytes, flen := bytes.length + 4, flim := bytes.length, src := src, port := 0, pass := 1, forme := 0,
    hold := false, trunc := false, ended := .good, claimed := 0, cls := 0, colour := 0, pmeta := 0, stamp := (0, 0xFFFF),
    enqAt := none, act := Act.none, launch := none, tx := none, cookie := 0, pipe := pipe, spilled := false,
    early := false, due := 0, q := 0, outp := 0, oneStep := none, far := false }

/-- A packet's hold on its forme ends, once (R101); a count that would go below 0 drives the pipeline's pin (R125). -/
def State.endHold (s : State) (id : Nat) : State :=
  match s.pkt? id with
  | none => s
  | some p =>
    if !p.hold then s
    else
      let s1 := s.setPkt id { p with hold := false }
      let n := s1.getF FRM_REF.packets p.forme
      if n = 0 then s1.raise (10 + p.pipe) (faultM 0x0023) else s1.setF FRM_REF.packets (n - 1) p.forme

/-- A packet leaves the module's books. -/
def State.freePkt (s : State) (id : Nat) : State := { s with dp := { s.dp with pkts := Tab.del s.dp.pkts id } }

/-- The completion of a TX entry whose frame is dropped before launch (R325). -/
def stTxDropped : Nat := 0x80

/-- The TX entry that waits for a packet completes (R325). -/
def State.completeTx (s : State) (p : Pkt) (status : Nat) (body : List Byte) : State :=
  match p.tx with
  | some (num, idx, irq) => s.completeEntry num idx irq status body
  | none => s

/-- A packet is dropped: its hold ends and a waiting TX entry learns of it. -/
def State.dropPkt (s : State) (id : Nat) : State :=
  match s.pkt? id with
  | none => s
  | some p => ((s.endHold id).freePkt id).completeTx p stTxDropped []

/-- Packets in a list, with their descriptors. -/
def State.pktsIn (s : State) (k : PktPlace) (i : Nat) : List (Nat × Pkt) :=
  (s.lst k i).filterMap fun id => (s.pkt? id).map fun p => (id, p)

/-- The packet of a list whose stage ends first; the earlier one in the list on a tie. -/
def firstDue (l : List (Nat × Pkt)) : Option (Nat × Pkt) :=
  l.foldl (fun (b : Option (Nat × Pkt)) p => match b with
    | some q => if p.2.due < q.2.due then some p else b
    | none => some p) none

/-! ### Free bytes -/

/-- `n` free bytes. -/
def State.drawBytes (s : State) : Nat → List Byte × State
  | 0 => ([], s)
  | n + 1 =>
    let d := s.draw 8
    let r := State.drawBytes d.2 n
    (BitVec.ofNat 8 d.1 :: r.1, r.2)

/-- A frame as the egress pipeline leaves it: unchanged, or, where a rewrite program or an encapsulation template applies,
bytes and length that the spec does not give (the programs are defined nowhere in it). -/
def State.rewritten (s : State) (p : Pkt) : List Byte × State :=
  if p.far || (decide (p.act.rewrite = 0) && decide (p.act.encap = 0)) then (p.bytes, s)
  else
    let d := s.draw 14
    d.2.drawBytes d.1

/-- MAC_CNT of a port. -/
def State.macCount (s : State) (port k : Nat) (n : Nat := 1) : State := s.bump MAC_CNT.count port k n

/-- A packet whose frame ended badly is dropped when it is next selected: counted for the port it came on (R199, R200). -/
def State.dropEnded (s : State) (id : Nat) (p : Pkt) : State :=
  (s.macCount p.port (if p.ended = .late then 5 else 2)).dropPkt id

/-- Is this module held out of the cascade: its gates closed and what its ports receive dropped (R491)? -/
def State.heldOut (s : State) : Bool := s.flag ODF_STATUS.active && s.getF ODF_STATUS.hold_reason != 0

end Sys2Proof.Machine
end

