-- ==== Sys2Proof/Machine/FcxOps.lean ====
section
/-! DEFINITION. Flow programs and local memory: images and loading, reloads at resets and mode changes, what endpoints read and
write, and the graph of the global deadlock detector (spec/14 R393, R403–R406, R412, R416–R423). -/

namespace Sys2Proof.Machine

/-! ### Local memory (R393) -/

/-- Do `n` bytes from an offset lie within a thread's slice? -/
def inSlice (off n : Nat) : Bool := decide (off + n ≤ 32768)

/-- Bytes of a thread's slice of local memory. -/
def FCore.lmemBytes (x : FCore) (t off n : Nat) : List Byte :=
  (List.range n).map fun i => Tab.getD 0 x.lmem (t * 32768 + off + i)

/-- Bytes placed in a table, from a key on. -/
def putBytes (m : Tab Byte) (a : Nat) : List Byte → Tab Byte
  | [] => m
  | b :: bs => putBytes (Tab.setD 0 m a b) (a + 1) bs

/-- Bytes written into a thread's slice. -/
def State.lmemWrite (s : State) (c t off : Nat) (bs : List Byte) : State :=
  let x := s.core c
  s.setCore c { x with lmem := putBytes x.lmem (t * 32768 + off) bs }

/-! ### Packet handles (R403, R405) -/

/-- FCX_STATUS.handles counts the packets that flow cores hold. -/
def State.showHandles (s : State) : State :=
  s.setF FCX_STATUS.handles ((List.range 128).map fun c => (s.lst .held c).length).sum

/-- The packet that a handle names on a core. -/
def State.handle? (s : State) (c h : Nat) : Option (Nat × Pkt) :=
  (s.pktsIn .held c).find? fun p => p.1 % 2 ^ 32 == h

/-- A core gives up every packet it holds. -/
def State.freeHandles (s : State) (c : Nat) : State :=
  ((s.lst .held c).foldl (fun t id => t.dropPkt id) (s.setLst .held c [])).showHandles

/-! ### Images (R416, R417) -/

/-- Record size of a section type (Table 14-8). -/
def fcxRecord (t : Nat) : Nat := if t = 2 then 16 else if t = 3 then 8 else 1

/-- Is the count of a section as Table 14-8 says? -/
def fcxCountOk (x : Section) : Bool :=
  if x.typ = 1 then decide (8 ≤ x.count ∧ x.count ≤ 65536 ∧ x.count % 8 = 0) else if x.typ = 2 then decide (x.count = 8)
  else if x.typ = 3 then decide (x.count = 16) else decide (x.typ = 4 ∧ x.count ≤ 262144)

/-- The header rules of Table 14-7. -/
def fcxHeaderOk (img : List Byte) : Bool :=
  let len := imgLe img 8 4
  decide (imgLe img 0 4 = 0x58434648) && decide (imgLe img 4 2 = 1) && decide (imgLe img 6 2 = 1)
    && decide (len % 64 = 0 ∧ 64 ≤ len ∧ len ≤ 524288) && decide (img.length = len)
    && decide (imgLe img 12 4 = crc32c 0xFFFFFFFF (img.drop 64)) && decide (imgLe img 24 2 = 0x8640)
    && (decide (imgLe img 26 2 = 3) || decide (imgLe img 26 2 = 4)) && decide (imgLe img 28 36 = 0)

/-- Are the sections well placed, types 1 to 3 once and type 4 at most once (R417)? -/
def fcxSectionsOk (img : List Byte) : Bool :=
  let ss := imgSections img
  let top := 64 + 16 * ss.length
  let once (t : Nat) := decide (ss.countP (fun x => x.typ == t) = 1)
  ss.all (fun x => fcxCountOk x && decide (x.len = x.count * fcxRecord x.typ) && decide (top ≤ x.off)
      && decide (x.off + x.len ≤ imgLe img 8 4))
    && once 1 && once 2 && once 3 && decide (ss.countP (fun x => x.typ == 4) ≤ 1)
    && ss.all fun a => ss.all fun b => decide (a.typ = b.typ) || !(decide (a.off < b.off + b.len) && decide (b.off < a.off + a.len)
        && decide (0 < a.len) && decide (0 < b.len))

/-- The bytes of a section. -/
def fcxSection (img : List Byte) (t : Nat) : List Byte :=
  match (imgSections img).find? fun x => x.typ == t with
  | some x => sliceBytes img x.off x.len
  | none => []

/-- The threads an image gives, by number. -/
def fcxThreads (img : List Byte) : Tab FThread :=
  let b := fcxSection img 2
  ((List.range 8).filter fun t => natBit (imgLe b (16 * t + 4) 1) 0).map fun t =>
    (t, { FThread.off with enabled := true, entry := imgLe b (16 * t) 4 })

/-- The channels an image binds, by number. -/
def fcxChans (img : List Byte) : Tab Chan :=
  let b := fcxSection img 3
  ((List.range 16).filter fun ch => imgLe b (8 * ch) 1 != 0xFF).map fun ch =>
    let peer := imgLe b (8 * ch + 4) 1
    (ch, { thread := imgLe b (8 * ch) 1, ext := natBit (imgLe b (8 * ch + 1) 1) 0, depth := imgLe b (8 * ch + 2) 2,
           peer := if peer = 0xFF then none else some peer })

/-- Does an image keep every rule of R417? -/
def fcxImageOk (img : List Byte) : Bool :=
  let ts := fcxThreads img
  let cs := fcxChans img
  fcxHeaderOk img && fcxSectionsOk img && Tab.has ts 0
    && ts.all (fun p => decide (p.2.entry < (fcxSection img 1).length) && decide (p.2.entry % 8 = 0))
    && cs.all (fun p => decide (8 ≤ p.2.depth ∧ p.2.depth ≤ 256) && Tab.has ts p.2.thread)
    && decide ((cs.map fun p => p.2.depth).sum ≤ 512)

/-- A core that an image has been written to; it is released when its group is done (R418). -/
def FCore.ofImage (src : CoreImg) (img : List Byte) : FCore :=
  { FCore.off with st := .loading, img := src, build := imgLe img 16 8 % 2 ^ 32, threads := fcxThreads img,
                   chans := fcxChans img, istore := putBytes [] 0 (fcxSection img 1), lmem := putBytes [] 0 (fcxSection img 4) }

/-! ### Loading (R418–R423) -/

/-- The image loader. -/
def loaderInit : Nat := 0x02B

/-- The loader's read of an image at an address; `none` where an access table denies it. -/
def State.readImage (s : State) (a : Nat) : State × Option (List Byte) :=
  let n0 := imgLe (s.bytes a 64) 8 4
  let n := if n0 < 64 ∨ 524288 < n0 then 64 else n0
  let c := s.memAccess .read loaderInit a n
  (c.1, if c.2 then some (s.bytes a n) else none)

/-- May the loader write the instruction store of a core (target 35)? -/
def State.storeAllowed (s : State) (c : Nat) : Bool := (s.actDenies 35 .write loaderInit (16 * c) (16 * c + 15)).isNone

/-- The binding of a core's threads to slices and their last faults: reset with the block only. -/
def State.clearFaults (s : State) (c : Nat) : State :=
  (List.range 8).foldl (fun t k => (t.setF FCX_THREAD.cause 0 c k).setF FCX_THREAD.fault_addr 0 c k) s

/-- A core starts to load an image that has been checked. -/
def State.startLoad (s : State) (c : Nat) (src : CoreImg) (img : List Byte) : State :=
  let s0 := (List.range 8).foldl (fun t k => t.dropTransient c k) (s.freeHandles c)
  let s1 := (s0.clearFaults c).setCore c (FCore.ofImage src img)
  { s1 with fcx := { s1.fcx with loading := s1.fcx.loading.filter (· != c) ++ [c] } }.showCore c

/-- A reload fails: the core is FAULTED with cause ISTORE_ECC (R420). -/
def State.failLoad (s : State) (c : Nat) (src : CoreImg) : State :=
  let s1 := (s.freeHandles c).setCore c { FCore.off with img := src }
  { s1 with fcx := { s1.fcx with loading := s1.fcx.loading.filter (· != c) } }.threadFaults c 0 4 |>.showCore c

/-- A core is reloaded from its recorded image; one never loaded stays EMPTY (R419, R420, R423). -/
def State.reloadCore (s : State) (c : Nat) : State :=
  match (s.core c).img with
  | .none => (s.freeHandles c).showCore c
  | .addr a =>
    match s.readImage a with
    | (s1, some img) => if fcxImageOk img && s1.storeAllowed c then s1.startLoad c (.addr a) img else s1.failLoad c (.addr a)
    | (s1, none) => s1.failLoad c (.addr a)
  | .manifest =>
    let img := s.storePart s.boot.running 2 0
    if fcxImageOk img then s.startLoad c .manifest img else s.failLoad c .manifest
  | .image img => if fcxImageOk img then s.startLoad c (.image img) img else s.failLoad c (.image img)

/-- Every core is reloaded: a D reset and the exit from STANDBY (R423). -/
def State.reloadCores (s : State) : State :=
  let s1 := { s with fcx := { s.fcx with cycles := [], delivered := [] } }
  (List.range 128).foldl (fun t c => t.reloadCore c) s1

/-- Every core becomes EMPTY and forgets its image. -/
def State.emptyCores (s : State) : State :=
  let s1 := (List.range 128).foldl (fun t c => t.freeHandles c) s
  (List.range 128).foldl (fun t c => t.showCore c) { s1 with fcx := ⟨[], [], [], [], s1.now⟩ }

/-- STANDBY parks every core and loses its local memory (R423). -/
def State.parkCores (s : State) : State :=
  let park (_ : Nat) (x : FCore) : FCore := if x.st = .empty then x else { FCore.off with st := .parked, img := x.img, build := x.build }
  let s1 := (List.range 128).foldl (fun t c => t.freeHandles c) s
  (List.range 128).foldl (fun t c => t.showCore c)
    { s1 with fcx := { s1.fcx with cores := Tab.mapVals s1.fcx.cores park, loading := [], cycles := [], delivered := [] } }

/-- STANDALONE entry: cores 0 to 7 take the virtio-net program, the others are EMPTY (R423). -/
def State.standaloneCores (s : State) : State :=
  (List.range 8).foldl (fun t c => (t.setCore c { FCore.off with img := .manifest }).reloadCore c) s.emptyCores

/-- Does a core serve a slice whose reset sequence runs (R419)? -/
def State.coreInSequence (s : State) (c : Nat) : Bool :=
  (List.range 8).any fun t => s.flag FCX_THREAD.slice_en c t
    && (match Tab.look s.slc.slices (s.getF FCX_THREAD.slice c t) with | some x => x.seq.isSome | none => false)

/-! ### The global detector (R412) -/

/-- The cores that a core's blocked threads wait for. -/
def State.waitEdges (s : State) (c : Nat) : List Nat :=
  let x := s.core c
  if !s.coreLive c then []
  else (List.range 8).flatMap fun t =>
    let h := x.thread t
    if !x.blocked t || !h.active then []
    else match h.wait, h.dest with
      | .commit, some d => if d < 2 ^ 15 then [d / 128 % 128] else []
      | .receive mask, _ => (maskChans mask).filterMap fun ch => (Tab.look x.chans ch).bind Chan.peer
      | _, _ => []

/-- The shortest cycle through a core whose other cores are above it, among paths grown for at most `fuel` rounds. A path is
held from its end back to the core. -/
def findCycle (edges : Nat → List Nat) (a : Nat) : Nat → List (List Nat) → List Nat → Option (List Nat)
  | 0, _, _ => none
  | fuel + 1, paths, seen =>
    match paths.find? fun p => (edges (p.headD a)).contains a with
    | some p => some p.reverse
    | none =>
      let r := paths.foldl (fun (acc : List (List Nat) × List Nat) p =>
        (edges (p.headD a)).foldl (fun (b : List (List Nat) × List Nat) n =>
          if n ≤ a ∨ b.2.contains n = true then b else (b.1 ++ [n :: p], n :: b.2)) acc) ([], seen)
      findCycle edges a fuel r.1 r.2

/-- The cycles of the wait-for graph: for each core, the shortest one of which it is the lowest. -/
def State.waitCycles (s : State) : List (List Nat) :=
  (Tab.keys s.fcx.cores).filterMap fun c => findCycle s.waitEdges c 128 [[c]] []

/-- A cycle is reported: its supervisors are told, FCX_GDL is written and the lowest core's group drives its pin (R412). -/
def State.reportCycle (s : State) (cs : List Nat) : State :=
  let n := min cs.length 127
  let k (i : Nat) : Nat := cs.getD (i % cs.length) 0
  let s1 := cs.foldl (fun t c => t.postNote c (4 * 2 ^ 56 + n)) s
  let v := 2 ^ 63 + n * 2 ^ 56 + k 0 * 2 ^ 49 + k 1 * 2 ^ 42 + k 2 * 2 ^ 35 + k 3 * 2 ^ 28
  ((s1.setReg .FCX_GDL (BitVec.ofNat 64 v)).fcxCount 7).raise (30 + k 0 / 32) (faultA 0x0003)

end Sys2Proof.Machine
end

