-- ==== Sys2Proof/Machine/BlockResets.lean ====
section
/-! DEFINITION. What each reset, and the entry to STANDALONE and STANDBY, does to the state of the blocks (Table 2-5,
Table 2-6, R53, R58, R60, R66). -/

namespace Sys2Proof.Machine

/-- Does a reset's letter stand in the header of the register with this key? -/
def keyResetBy (l : Rst) (k : Nat) : Bool :=
  match allRegs[k / 16777216]? with
  | some r => r.row.resets.contains l
  | none => false

/-- Every register whose header lists a reset returns to its reset value, an M register to its MRAM copy (R2, R4). -/
def State.resetRegs (s : State) (l : Rst) : State :=
  let kept := s.regs.filter fun p => !keyResetBy l p.1
  let copies := s.mram.filter fun p => keyResetBy l p.1
  { s with regs := copies.foldl (fun t p => Tab.put t p.1 p.2) kept }

/-- The registers of one function's windows return to their reset values on its H or F reset. -/
def State.resetFnRegs (s : State) (l : Rst) (f : Nat) : State :=
  { s with regs := s.regs.filter fun p => !(keyResetBy l p.1 && decide (p.1 / 4096 % 4096 = f)) }

/-- A ring as a reset of its scope leaves it: disabled but defined, its stash, held events and pending completions
discarded (R66, R331, R338). -/
def Ring.resetDisable (r : Ring) : Ring :=
  { r with st := .disabled, rung := false, lineRead := false, reads := 0, fetched := [], posted := [], rxBufs := [], stash := [],
           unitHeld := [], stalled := false, held := [], lost := 0, armed := false, unsig := 0, irqDue := false }

/-- A packet of a TX entry that waits for its launch, when the ring of the entry is reset: no completion is due any more. -/
def Pkt.forgetTx (gone : Nat → Bool) (k : Pkt) : Pkt :=
  match k.tx with
  | some (n, _, _) => if gone n then { k with tx := none } else k
  | none => k

/-- Every ring that `p` names is disabled as a reset does it. -/
def State.disableRings (s : State) (p : Ring → Bool) : State :=
  let gone (n : Nat) : Bool := match s.ring? 0 n with
    | some r => p r
    | none => false
  { s with
    rings := Tab.mapVals s.rings fun _ r => if p r then r.resetDisable else r
    dp := { s.dp with pkts := Tab.mapVals s.dp.pkts fun _ k => k.forgetTx gone } }

end Sys2Proof.Machine
end

