-- ==== Sys2Proof/Machine/PrfOps.lean ====
section
/-! DEFINITION. What the Proofreader and Retouch share with resets and mode changes: the Safelight's stop conditions, the
repair log, spares and what their use shows (spec/15 R436–R438, R446–R452). -/

namespace Sys2Proof.Machine

/-! ### The Safelight (R438) -/

/-- The first stop condition of R438 that holds; 0 for none. Between an activation's commit and its end the Safelight stops as if
enable were 0 (R479). -/
def State.slStopReason (s : State) : Nat :=
  if !s.prf.standing3.isEmpty || !s.prf.standing4.isEmpty then 1
  else if s.prf.slTimedOut || s.prf.slWrong then 2
  else if s.flag PRF_SL_CFG.enable = false || (s.upd.act.bind ActSt.commit).isSome then 3
  else if !s.booted || s.mode == mDarkroom then 4
  else if !s.prf.slValidFeed then 5
  else 0

/-- PRF_STATUS shows the stop condition, 0 while the Safelight toggles. -/
def State.showSafelight (s : State) : State :=
  s.setF PRF_STATUS.sl_stop (if s.flag PRF_STATUS.sl_running then 0 else s.slStopReason)

/-! ### The repair log (R448) -/

/-- Entries the repair log holds. -/
def logSize : Nat := 4096

/-- RTH_STATUS.pending counts the PENDING entries. -/
def State.showLog (s : State) : State :=
  s.setF RTH_STATUS.pending (Tab.count s.prf.log fun _ e => e.state == 1)

/-- An entry takes the lowest empty place; a full log is flagged and takes nothing (R448). -/
def State.logAdd (s : State) (e : RepairEntry) : State × Bool :=
  match Tab.freeKey s.prf.log 0 logSize with
  | some k => ({ s with prf := { s.prf with log := Tab.put s.prf.log k e } }.showLog, true)
  | none => (s.setF RTH_STATUS.log_full 1, false)

/-- The entries of one defect take a new state and spare. -/
def State.logResolve (s : State) (d : Defect) (state spare : Nat) : State :=
  { s with prf := { s.prf with log := Tab.mapVals s.prf.log fun _ e =>
      if e.kind = d.kind ∧ e.unit = d.unit ∧ e.row = d.row ∧ e.state = 1 then { e with state := state, spare := spare }
      else e } }.showLog

/-- Is a defect in the log? -/
def State.logged (s : State) (d : Defect) : Bool :=
  s.prf.log.any fun p => decide (p.2.kind = d.kind ∧ p.2.unit = d.unit ∧ p.2.row = d.row)

/-- Is a defect PENDING? -/
def State.logPending (s : State) (d : Defect) : Bool :=
  s.prf.log.any fun p => decide (p.2.kind = d.kind ∧ p.2.unit = d.unit ∧ p.2.row = d.row ∧ p.2.state = 1)

/-- The RTH event of R449 to R452. -/
def State.raiseRth (s : State) : State := s.raise 2 (faultA 0x0007)

/-! ### Replicated units and their spares (Table 15-5) -/

/-- Kinds of unit as Table 15-7 numbers them. -/
def kFlowCore : Nat := 3
def kAppCore : Nat := 4
def kCipher : Nat := 5
def kSerDes : Nat := 6

/-- The logical units of a kind: 128 flow cores, 32 application cores, 24 cipher units, 8 lanes of each cage. -/
def logicalUnits (kind : Nat) : List Nat :=
  if kind = kFlowCore then List.range 128 else if kind = kAppCore then List.range 32
  else if kind = kCipher then List.range 24
  else if kind = kSerDes then List.range 8 ++ (List.range 8).map (· + 16) else []

/-- The spare physical units that may replace one. -/
def spareUnits (kind phys : Nat) : List Nat :=
  if kind = kFlowCore then (List.range 8).map (· + 128) else if kind = kAppCore then [32, 33]
  else if kind = kCipher then [24, 25] else if kind = kSerDes then [phys / 16 * 16 + 8] else []

/-- No physical unit is mapped. -/
def unitAbsent : Nat := 65535

/-- The physical unit that serves a logical one. -/
def State.unitOf (s : State) (kind l : Nat) : Nat := Tab.getD l s.prf.unitMap (kind * 65536 + l)

/-- The logical unit that a physical one serves. -/
def State.logicalOf (s : State) (kind phys : Nat) : Option Nat :=
  (logicalUnits kind).find? fun l => s.unitOf kind l == phys

/-- The lowest spare that can replace a unit: whole and not in use. -/
def State.freeSpare (s : State) (kind phys : Nat) : Option Nat :=
  (spareUnits kind phys).find? fun x => !s.prf.failedUnits.contains (kind, x) && (s.logicalOf kind x).isNone

/-- A logical unit is mapped. -/
def State.setUnit (s : State) (kind l phys : Nat) : State :=
  { s with prf := { s.prf with unitMap := Tab.setD l s.prf.unitMap (kind * 65536 + l) phys } }

/-- A physical unit is known to have failed. -/
def State.markFailed (s : State) (kind phys : Nat) : State :=
  if s.prf.failedUnits.contains (kind, phys) then s
  else { s with prf := { s.prf with failedUnits := s.prf.failedUnits ++ [(kind, phys)] } }

/-- Spares of a kind in use. -/
def State.sparesUsed (s : State) (kind : Nat) : Nat :=
  (logicalUnits kind).countP fun l => decide (s.unitOf kind l ≠ l ∧ s.unitOf kind l ≠ unitAbsent)

/-- Logical units of a kind that are served. -/
def State.unitsActive (s : State) (kind : Nat) : Nat :=
  (logicalUnits kind).countP fun l => decide (s.unitOf kind l ≠ unitAbsent)

/-- Is any kind short of a unit? -/
def State.unitsShort (s : State) : Bool :=
  [kFlowCore, kAppCore, kCipher, kSerDes].any fun k => decide (s.unitsActive k < (logicalUnits k).length)

/-- MAC_LANE_MAP of a cage shows its lanes; an absent lane shows 15. -/
def State.showLanes (s : State) (c : Nat) : State :=
  let v := ((List.range 8).map fun l => (s.unitOf kSerDes (16 * c + l)) % 16 * 2 ^ (4 * l)).sum
  let spare := (List.range 8).any fun l => s.unitOf kSerDes (16 * c + l) == 16 * c + 8
  (s.setF MAC_LANE_MAP.map v c).setF MAC_LANE_MAP.spare_used (b2n spare) c

/-- The registers that show the spares in use and what is missing (R446, R452). -/
def State.showUnits (s : State) : State :=
  let s1 := (List.range 128).foldl (fun t c =>
    let u := t.unitOf kFlowCore c
    if u = unitAbsent then (t.setF FCX_MAP.absent 1 c).setF FCX_MAP.physical 0 c
    else (t.setF FCX_MAP.absent 0 c).setF FCX_MAP.physical u c) s
  let s2 := ((s1.showLanes 0).showLanes 1).setF RTH_STATUS.fc_spares (s1.sparesUsed kFlowCore)
  let s3 := (s2.setF RTH_STATUS.apx_spares (s2.sparesUsed kAppCore)).setF RTH_STATUS.cph_spares (s2.sparesUsed kCipher)
  let s4 := s3.setF RTH_STATUS.serdes_spares
    (s3.getF MAC_LANE_MAP.spare_used 0 + 2 * s3.getF MAC_LANE_MAP.spare_used 1)
  let s5 := (s4.setF FCX_STATUS.cores_active (s4.unitsActive kFlowCore)).setF FCX_STATUS.spares_used
    (s4.sparesUsed kFlowCore)
  let s6 := (s5.setF CPH_STATUS.units_active (s5.unitsActive kCipher)).setF CPH_STATUS.spares_used (s5.sparesUsed kCipher)
  let s7 := s6.setF RTH_DEGRADE.apx_active (s6.unitsActive kAppCore)
  s7.setF RTH_STATUS.degraded (b2n (s7.unitsShort || decide (0 < s7.getF RTH_DEGRADE.pipelines_out)
    || decide (0 < s7.getF RTH_DEGRADE.fenced) || decide (0 < s7.getF RTH_DEGRADE.hbm_retired)))

/-- The index of a spare among those of its kind. -/
def spareIndex (kind x : Nat) : Nat :=
  if kind = kFlowCore then x - 128 else if kind = kAppCore then x - 32 else if kind = kCipher then x - 24 else 0

/-- A failed physical unit gives up its logical number to a spare, or leaves it absent; the log and the RTH event say
which (R446, R450–R452). -/
def State.replaceUnit (s : State) (kind phys : Nat) : State :=
  let s1 := s.markFailed kind phys
  let d : Defect := ⟨kind, phys, 0⟩
  match s1.logicalOf kind phys with
  | none => s1.logResolve d 2 0xFF
  | some l =>
    match s1.freeSpare kind phys with
    | some x => ((s1.setUnit kind l x).logResolve d 2 (spareIndex kind x)).raiseRth
    | none => ((s1.setUnit kind l unitAbsent).logResolve d 3 0xFF).raiseRth

/-- A D reset maps spares in for the flow cores, cipher units and SerDes that failed at run time; application cores wait for
a C reset (R450). -/
def State.swapFailed (s : State) : State :=
  let now := s.prf.dueUnits.filter fun u => u.1 != kAppCore
  let s1 := { s with prf := { s.prf with dueUnits := s.prf.dueUnits.filter fun u => u.1 == kAppCore } }
  if now.isEmpty then s1 else (now.foldl (fun t u => t.replaceUnit u.1 u.2) s1).showUnits

/-- A unit fails at run time: logged with origin 4 for the reset that replaces it (R450). -/
def State.unitFails (s : State) (tai kind phys : Nat) : State :=
  if s.prf.failedUnits.contains (kind, phys) then s
  else
    let s1 := (s.markFailed kind phys).logAdd ⟨kind, 1, 4, 0xFF, phys, 0, tai⟩
    { s1.1 with prf := { s1.1.prf with dueUnits := s1.1.prf.dueUnits ++ [(kind, phys)] } }

end Sys2Proof.Machine
end

