-- ==== Sys2Proof/Machine/CphOps.lean ====
section
/-! DEFINITION. The cipher array as its commands and the rest of the module share it: key slots and their use, descriptors and
the units they run on, completion, and what slices, resets and modes do to it (spec/09). -/

namespace Sys2Proof.Machine

/-! ### Key slots (R272–R277) -/

/-- An empty slot. -/
def KeySlot.empty : KeySlot :=
  { key := 0, len256 := false, enc := false, dec := false, derive := false, unwrap := false, slice := none, limit := 0,
    counter := 0, valid := false, rollover := false, exhausted := false }

/-- A key slot. -/
def State.keySlot (s : State) (n : Nat) : KeySlot := Tab.getD KeySlot.empty s.cph.keys n

/-- A key slot replaced. -/
def State.setKeySlot (s : State) (n : Nat) (k : KeySlot) : State :=
  { s with cph := { s.cph with keys := Tab.setD KeySlot.empty s.cph.keys n k } }

/-- CPH_CNT. -/
def State.cphCount (s : State) (k : Nat) (n : Nat := 1) : State := s.bump CPH_CNT.count k 0 n

/-- One check of the key store's access table (target 34, one granule a slot). -/
def State.keyAccess (s : State) (k : AccessKind) (init slot : Nat) : State × Bool :=
  match s.actDenies 34 k init slot slot with
  | none => (s, true)
  | some r => (s.deny ⟨k.code, false, 34, init, r, 0, slot⟩, false)

/-- A cipher event about a slot goes to the ring of its slice, or to the configuration owner (Table 9-5). -/
def State.keyEvent (s : State) (n typ : Nat) : State :=
  let k := s.keySlot n
  let body := leBytes 2 n ++ leBytes 6 k.counter ++ leBytes 6 k.limit
  s.postEvent (match k.slice with | some g => .slice g | none => .owner) ⟨typ, k.slice, body⟩

/-- A slot becomes exhausted; the transition is reported once (R277). -/
def State.exhaustKey (s : State) (n : Nat) : State :=
  let k := s.keySlot n
  if k.exhausted then s else (s.setKeySlot n { k with exhausted := true }).keyEvent n 0x61

/-- A use of a slot reserves blocks (R276, R277): whether it is granted, and the state. -/
def State.reserveKey (s : State) (n blocks : Nat) : State × Bool :=
  let k := s.keySlot n
  if k.exhausted ∨ k.limit < k.counter + blocks then ((s.exhaustKey n).cphCount 3, false)
  else
    let c := k.counter + blocks
    let roll := !k.rollover && decide (k.limit * 7 / 8 ≤ c)
    let s1 := s.setKeySlot n { k with counter := c, rollover := k.rollover || roll }
    let s2 := if roll then s1.keyEvent n 0x60 else s1
    (if c = k.limit then s2.exhaustKey n else s2, true)

/-- The pair key of two endpoints under a domain key slot (R253, R278): 5 blocks of the slot are reserved. -/
def State.derivePair (s : State) (slot domain epoch a b : Nat) : State × Option Nat :=
  let k := s.keySlot slot
  if !k.valid || !k.derive || !k.len256 then (s, none)
  else
    let r := s.reserveKey slot 5
    if r.2 then (r.1, some (pairKey k.key domain epoch a b)) else (r.1, none)

/-! ### Units (R263, R283) -/

/-- Does a physical unit take part in dispatch: it serves a logical unit, has not failed, and its DRBG instance runs? -/
def State.unitServes (s : State) (u : Nat) : Bool :=
  (s.logicalOf kCipher u).isSome && !s.prf.failedUnits.contains (kCipher, u)

/-- The units that dispatch may use now, from the lowest. -/
def State.cipherUnits (s : State) : List Nat :=
  (List.range 26).filter fun u => s.unitServes u && !s.cph.stopped.contains u

/-- The unit a descriptor runs on. -/
def CphRun.unit? : CphRun → Option Nat
  | .running u _ => some u
  | _ => none

/-- Blocks of a descriptor that have issued by an instant. -/
def CphDesc.issued (d : CphDesc) (t : Nat) : Nat :=
  match d.run with
  | .running _ f => min d.count (d.done + (if f ≤ t then (t - f) / fclk + 1 else 0))
  | _ => d.done

/-- The FCLK after a running descriptor's last issue. -/
def CphDesc.freeAt (d : CphDesc) : Nat :=
  match d.run with
  | .running _ f => f + (d.count - d.done) * fclk
  | _ => 0

/-- When the unit of a descriptor is free for the next one's first block; 0 for a unit that runs none. -/
def State.unitFreeAt (s : State) (u : Nat) : Nat :=
  (s.cph.descs.map fun p => match p.2.run with
    | .running v _ => if v = u then p.2.freeAt else 0
    | _ => 0).foldl Nat.max 0

/-- When a running descriptor's completion message commits (Table 9-2). -/
def CphDesc.endsAt (d : CphDesc) : Nat := d.freeAt + ((if d.long then 16 else 12) + 2) * fclk

/-- CPH_STATUS shows what the array holds. -/
def State.showCipher (s : State) : State :=
  let susp := Tab.count s.cph.descs fun _ d => d.run == .suspended
  ((s.setF CPH_STATUS.queued s.cph.descs.length).setF CPH_STATUS.suspended susp).setF CPH_STATUS.drbg_ok
    (b2n (s.cph.stopped.isEmpty))

/-- A descriptor replaced. -/
def State.setDesc (s : State) (n : Nat) (d : CphDesc) : State :=
  { s with cph := { s.cph with descs := Tab.put s.cph.descs n d } }.showCipher

/-! ### Results (R266, R267) -/

/-- One block under a key. -/
def cipherBlock (d : CphDesc) (b : List Byte) : List Byte :=
  let k := keyOf d.long d.key
  bytesOf (if d.op = 2 then aesDec k (natsOf b) else aesEnc k (natsOf b))

/-- Input block `i` of a descriptor. -/
def State.cipherInput (s : State) (d : CphDesc) (i : Nat) : List Byte :=
  let x := s.core d.core
  if d.ctr then ctrBlock (x.lmemBytes d.thread d.inOff 16) i else x.lmemBytes d.thread (d.inOff + 16 * i) 16

/-- The outputs of the first `n` blocks are written. -/
def State.cipherOutput (s : State) (d : CphDesc) (n : Nat) : State :=
  s.lmemWrite d.core d.thread d.outOff (((List.range n).map fun i => cipherBlock d (s.cipherInput d i)).flatten)

/-- A completion message (R267). -/
def State.cipherReply (s : State) (core chan status tag blocks : Nat) : State :=
  s.replyOn core 1 chan status tag (blocks % 2 ^ 12 * 2 ^ 28) []

/-- A descriptor leaves the array with a status and the number of blocks written: its message, and the erasure of a transient
key that it asks for. -/
def State.endDesc (s : State) (n status blocks : Nat) : State :=
  match Tab.look s.cph.descs n with
  | none => s
  | some d =>
    let s1 := { s with cph := { s.cph with descs := Tab.del s.cph.descs n } }
    let s2 := if d.erase then s1.dropTransient d.core d.thread else s1
    let s3 := if status = stSquashed then s2.cphCount 6 else s2
    ((s3.cphCount 0 blocks).cipherReply d.core d.reply status d.tag blocks).showCipher

/-- A derived key is written to where the descriptor says: an outbound record, an inbound record or the thread's transient
key (R278, R279). -/
def State.writeDerived (s : State) (d : CphDesc) (key : Nat) : State :=
  let w1 := wordAt d.words 1
  let dst := w1 / 2 ^ 62
  let r := w1 / 2 ^ 46 % 2 ^ 16
  if dst = 1 then
    { s with drt := { s.drt with outs := Tab.modify s.drt.outs r fun x => { x with key := some key } } }
  else if dst = 2 then
    { s with drt := { s.drt with ins := Tab.mapVals s.drt.ins fun _ x => if x.idx = r then { x with via := { x.via with key := key } } else x } }
  else { s with cph := { s.cph with tkeys := Tab.put s.cph.tkeys (d.core * 8 + d.thread) key } }

/-- A descriptor ends OK: its outputs, or its derived key, then its message. -/
def State.finishDesc (s : State) (n : Nat) : State :=
  match Tab.look s.cph.descs n with
  | none => s
  | some d =>
    if d.op = 3 then
      let w1 := wordAt d.words 1
      let w2 := wordAt d.words 2
      let key := pairKey d.key (w2 / 2 ^ 48) (w2 / 2 ^ 32 % 2 ^ 16) (w1 / 2 ^ 22 % 2 ^ 24) (w2 / 2 ^ 8 % 2 ^ 24)
      (s.writeDerived d key).endDesc n stOk 0
    else (s.cipherOutput d d.count).endDesc n stOk d.count

/-- A descriptor stops at its next block boundary: the blocks it has issued are written and it ends SQUASHED (R286). -/
def State.squashDesc (s : State) (n : Nat) : State :=
  match Tab.look s.cph.descs n with
  | none => s
  | some d =>
    let k := if d.op = 3 then 0 else d.issued s.now
    (if d.op = 3 then s else s.cipherOutput d k).endDesc n stSquashed k

/-- Running descriptors of some units stop where they are and wait. -/
def State.suspendUnits (s : State) (us : List Nat) : State :=
  let halt (_ : Nat) (d : CphDesc) : CphDesc := match d.run with
    | .running u _ => if us.contains u && decide (d.issued s.now < d.count)
        then { d with run := .suspended, done := d.issued s.now, idleAt := s.now, waitAt := s.now } else d
    | _ => d
  { s with cph := { s.cph with descs := Tab.mapVals s.cph.descs halt } }.showCipher

/-! ### Slices and resets (R285, R286) -/

/-- Slots of a slice. -/
def State.sliceKeys (s : State) (g : Nat) : Nat := Tab.count s.cph.keys fun _ k => k.slice == some g

/-- Is a descriptor under a slot of a slice, or of a thread bound to it? -/
def State.descOfSlice (s : State) (g : Nat) (d : CphDesc) : Bool :=
  (match d.slot with | some n => (s.keySlot n).slice == some g | none => false)
    || (s.flag FCX_THREAD.slice_en d.core d.thread && s.getF FCX_THREAD.slice d.core d.thread == g)

/-- A slice reset in the array (R286). -/
def State.cipherDrain (s : State) (g : Nat) : State :=
  let ns := (s.cph.descs.filter fun p => s.descOfSlice g p.2).map Prod.fst
  let s1 := ns.foldl (fun t n => t.squashDesc n) s
  { s1 with cph := { s1.cph with keys := Tab.keep s1.cph.keys fun _ k => k.slice != some g } }

/-- A D reset discards every descriptor without a completion and erases every transient key. -/
def State.cipherDReset (s : State) : State := { s with cph := { s.cph with descs := [], tkeys := [] } }.showCipher

/-- The store is cleared. -/
def State.clearKeys (s : State) : State := { s with cph := { s.cph with keys := [] } }

/-- The array as a C, W or P reset leaves it. -/
def CphSt.reset : CphSt := { keys := [], descs := [], nextDesc := 0, tkeys := [], stopped := [], stopAt := 0 }

/-- The array as such a reset releases it: every instance instantiated and seeded after its known-answer test (R281). -/
def State.releaseCipher (s : State) : State := (s.setF CPH_STATUS.entropy_ok 1).showCipher

end Sys2Proof.Machine
end

