-- ==== Sys2Proof/Machine/DrtOps.lean ====
section
/-! DEFINITION. The Drugrim transport as its commands and the rest of the module share it: packets on the wire, records,
completions and events, congestion, and what slices, resets and modes do to it (spec/08). -/

namespace Sys2Proof.Machine

/-! ### Status codes (Table 8-7) and times -/

def stTimeUnknown : Nat := 0x80
def stNbRange : Nat := 0x81
def stNoEndpoint : Nat := 0x82
def stStaleHandle : Nat := 0x83
def stDrtQuota : Nat := 0x84
def stDrtFull : Nat := 0x85

/-- DRT_CNT. -/
def State.drtCount (s : State) (k : Nat) (n : Nat := 1) : State := s.bump DRT_CNT.count k 0 n

/-- The earliest-possible time of the held snapshot in 0.25 ns (R96); `none` while it is not valid. -/
def State.earliest (s : State) : Option Nat := s.island.snapUnc.map fun u => s.island.snapTime / 2 ^ 14 - u

/-- The latest-possible time in 0.25 ns. -/
def State.latest (s : State) : Option Nat := (s.pubUnc 0).map fun u => s.timeNow / 2 ^ 14 + 1 + u

/-- Has a time in 0.25 ns passed under R96? -/
def State.hasPassed (s : State) (t : Nat) : Bool :=
  match s.earliest with
  | some e => decide (t < e)
  | none => false

/-- Island time in whole ns. -/
def State.islandNs (s : State) : Nat := s.timeNow / 2 ^ 16

/-- Time passes until the island reads a number of ns, at its nominal rate. -/
def State.afterNs (s : State) (ns : Nat) : State := s.after (s.now + (ns - s.islandNs) * nsT)

/-- Does the transport run (R258, R60): in MANAGED, AUTONOMOUS or CASCADE_MEMBER, enabled, outside a D reset? -/
def State.drtRuns (s : State) : Bool :=
  (s.mode == mManaged || s.mode == mAutonomous || s.mode == mMember) && s.flag DRT_CFG.enable && s.modes.dReset.isNone

/-- A replaced transport state. -/
def State.setDrt (s : State) (d : DrtSt) : State := { s with drt := d }

/-- DRT_STATUS shows the records and tombstones held. -/
def State.showDrt (s : State) : State :=
  ((s.setF DRT_STATUS.out_used s.drt.outs.length).setF DRT_STATUS.in_used s.drt.ins.length).setF DRT_STATUS.tombstones
    s.drt.tombs.length

/-! ### The wire (R222–R225) -/

/-- The bytes of a header, in network order (Table 8-2). -/
def DrtHdr.bytes (h : DrtHdr) : List Byte :=
  beBytes 1 (16 + h.kind % 16) ++ beBytes 1 h.flags ++ beBytes 1 h.attempt ++ beBytes 1 h.status ++ beBytes 2 h.domain
    ++ beBytes 2 h.epoch ++ beBytes 3 h.src ++ [0] ++ beBytes 3 h.dst ++ [0] ++ beBytes 8 h.pktSeq ++ beBytes 6 h.msgSeq
    ++ beBytes 2 h.psn ++ beBytes 4 h.msgLen ++ beBytes 4 h.region ++ beBytes 8 h.offset ++ beBytes 8 h.txTime
    ++ beBytes 4 h.remaining ++ beBytes 2 h.uSrc ++ beBytes 2 h.outRec

/-- The header that 64 bytes hold. -/
def drtHdrOf (b : List Byte) : DrtHdr :=
  let f (o n : Nat) : Nat := beNat (sliceBytes b o n)
  { kind := f 0 1 % 16, flags := f 1 1, attempt := f 2 1, status := f 3 1, domain := f 4 2, epoch := f 6 2, src := f 8 3,
    dst := f 12 3, pktSeq := f 16 8, msgSeq := f 24 6, psn := f 30 2 % 2 ^ 12, msgLen := f 32 4, region := f 36 4,
    offset := f 40 8, txTime := f 48 8, remaining := f 56 4, uSrc := f 60 2, outRec := f 62 2 }

/-- Header flags: last, ext, jumbo, imm_msg, nb_notify. -/
def DrtHdr.flag (h : DrtHdr) (i : Nat) : Bool := natBit h.flags i

/-- Packet size of a message. -/
def DrtHdr.size (h : DrtHdr) : Nat := if h.flag 2 then 8192 else 4096

/-- Packets of a message of a length (R231). -/
def drtPackets (len size : Nat) : Nat := max 1 (ceilDiv len size)

/-- Data bytes of packet `psn`. -/
def drtDataLen (len size psn : Nat) : Nat := min size (len - psn * size)

/-- The IV of a packet (R225). -/
def DrtHdr.iv (h : DrtHdr) : List Byte := beBytes 1 (if h.dst < h.src then 128 else 0) ++ zeroBytes 3 ++ beBytes 8 h.pktSeq

/-- The sum of 16-bit words of a string, carries folded in: the Internet checksum before its complement. -/
def inetSum (bs : List Byte) : Nat :=
  let t := ((chunksN 2 ((bs.length + 1) / 2) bs).map fun w => beNat (fitBytes 2 w)).sum
  let u := t % 65536 + t / 65536
  u % 65536 + u / 65536

/-- The IPv4 address of an IPv4-mapped one. -/
def mapped4 (a : List Byte) : Option (List Byte) :=
  if a.take 12 = zeroBytes 10 ++ [0xFF, 0xFF] then some (a.drop 12) else none

/-- The IPv6 form of an IPv4 address. -/
def map4 (a : List Byte) : List Byte := zeroBytes 10 ++ [0xFF, 0xFF] ++ a

/-- The pseudo-header of a UDP datagram. -/
def udpPseudo (src dst : List Byte) (n : Nat) : List Byte :=
  src ++ dst ++ (if src.length = 4 then [0, 17] ++ beBytes 2 n else beBytes 4 n ++ [0, 0, 0, 17])

/-- A datagram with its checksum. -/
def udpBytes (src dst : List Byte) (sport dport : Nat) (pay : List Byte) : List Byte :=
  let n := 8 + pay.length
  let h := beBytes 2 sport ++ beBytes 2 dport ++ beBytes 2 n
  let c := 65535 - inetSum (udpPseudo src dst n ++ h ++ [0, 0] ++ pay)
  h ++ beBytes 2 (if c = 0 then 65535 else c) ++ pay

/-- A frame without FCS (R222): the MAC addresses and the IPv4 identification are given, as the spec gives neither. -/
def drtFrame (macs : List Byte) (ident dscp : Nat) (mine peer : List Byte) (sport dport : Nat) (pay : List Byte) : List Byte :=
  match mapped4 peer with
  | some p4 =>
    let m4 := mine.drop 12
    let u := udpBytes m4 p4 sport dport pay
    let h := beBytes 1 0x45 ++ beBytes 1 (dscp * 4) ++ beBytes 2 (20 + u.length) ++ beBytes 2 ident ++ beBytes 2 0x4000 ++ [64, 17]
    macs ++ [0x08, 0x00] ++ h ++ beBytes 2 (65535 - inetSum (h ++ [0, 0] ++ m4 ++ p4)) ++ m4 ++ p4 ++ u
  | none =>
    let u := udpBytes mine peer sport dport pay
    macs ++ [0x86, 0xDD] ++ beBytes 4 (6 * 2 ^ 28 + dscp * 4 * 2 ^ 20 + sport) ++ beBytes 2 u.length ++ [17, 64] ++ mine ++ peer ++ u

/-- A received Drugrim packet: header, its bytes, what follows them, addresses and UDP source port. -/
structure DrtRx where
  hdr : DrtHdr
  aad : List Byte
  body : List Byte
  mine : List Byte
  peer : List Byte
  port : Nat
deriving DecidableEq, Repr

/-- The IP source, destination, protocol and payload of a frame without FCS, behind at most one VLAN tag. -/
def ipOf (f : List Byte) : Option (List Byte × List Byte × Nat × List Byte) :=
  let o := if sliceBytes f 12 2 = [0x81, 0x00] then 16 else 12
  let t := beNat (sliceBytes f o 2)
  let p := f.drop (o + 2)
  if t = 0x0800 then
    let n := beNat (sliceBytes p 2 2)
    if (p.getD 0 0) = 0x45 ∧ 20 ≤ n ∧ n ≤ p.length then
      some (sliceBytes p 12 4, sliceBytes p 16 4, (p.getD 9 0).toNat, sliceBytes p 20 (n - 20))
    else none
  else if t = 0x86DD then
    let n := beNat (sliceBytes p 4 2)
    if (p.getD 0 0).toNat / 16 = 6 ∧ n + 40 ≤ p.length then
      some (sliceBytes p 8 16, sliceBytes p 24 16, (p.getD 6 0).toNat, sliceBytes p 40 n)
    else none
  else none

/-- Does the length behind the header fit the kind (R227 check 1)? -/
def DrtHdr.lengthOk (h : DrtHdr) (n : Nat) : Bool :=
  let d := drtDataLen h.msgLen h.size h.psn
  let psnOk := decide (h.psn < drtPackets h.msgLen h.size)
  if h.kind = 1 then psnOk && decide (n = (if h.flag 1 then 16 else 0) + d + 16)
  else if h.kind = 3 then psnOk && decide (n = d + 16)
  else if h.kind = 4 then decide (n = 56 + 16)
  else decide (n = 8 + 16)

/-- A frame as a Drugrim packet: `none` where version, kind or lengths do not agree, or its checksum is wrong. -/
def drtParse (udpPort : Nat) (f : List Byte) : Option DrtRx :=
  match ipOf f with
  | none => none
  | some (src, dst, proto, u) =>
    let n := beNat (sliceBytes u 4 2)
    let ck := beNat (sliceBytes u 6 2)
    let dg := u.take n
    let sumOk := if ck = 0 then decide (src.length = 4) else decide (inetSum (udpPseudo src dst n ++ dg) = 65535)
    let p := dg.drop 8
    let h := drtHdrOf (p.take 64)
    let wide (a : List Byte) : List Byte := if a.length = 4 then map4 a else a
    if proto = 17 ∧ 72 ≤ n ∧ n ≤ u.length ∧ beNat (sliceBytes u 2 2) = udpPort ∧ sumOk = true
        ∧ (p.getD 0 0).toNat / 16 = 1 ∧ 1 ≤ h.kind ∧ h.kind ≤ 5 ∧ h.lengthOk (n - 72) = true then
      some ⟨h, p.take 64, p.drop 64, wide dst, wide src, beNat (sliceBytes u 0 2)⟩
    else none

/-! ### Slices, functions and events -/

/-- The code by which endpoints and regions of firmware name no slice. -/
def noSlice : Nat := 0x3FFF

/-- The function and slice that a transport slice field stands for; firmware's is the transport's own initiator. -/
def State.drtFn (s : State) (g : Nat) : Nat × Option Nat :=
  match s.slice? g with
  | some x => (x.fn, some g)
  | none => (if g = noSlice then 0x025 else 0xFFF, some g)

/-- The slice operand of a DMA: none for firmware. -/
def drtDma (f : Nat × Option Nat) : Option Nat := if f.1 < 0x800 then none else f.2

/-- The body of a Drugrim event (R252). -/
def drtBody (status reason port remote msgSeq region loc : Nat) : List Byte :=
  leBytes 1 status ++ leBytes 1 reason ++ leBytes 1 port ++ [0] ++ leBytes 3 remote ++ [0] ++ leBytes 6 msgSeq ++ zeroBytes 2
    ++ leBytes 4 region ++ leBytes 3 loc ++ [0]

/-- An event on the ring of an endpoint. -/
def State.drtEvent (s : State) (ep typ : Nat) (body : List Byte) : State :=
  match Tab.look s.drt.eps ep with
  | none => s
  | some e => s.postEvent (if e.slice = noSlice then .owner else .slice e.slice) ⟨typ, if e.slice = noSlice then none else some e.slice, body⟩

/-- An event to every local endpoint, or to those of a domain (Table 8-9). -/
def State.drtTellAll (s : State) (typ status sub port : Nat) (dom : Option Nat) : State :=
  (s.drt.eps.filter fun p => match dom with | some d => p.2.domain == d | none => true).foldl
    (fun t p => t.drtEvent p.1 typ (drtBody status sub port 0 0 0 p.1)) s

/-- PORT_CHANGED follows a LINK_CHANGED: link-up, or link-down and a lane fault (R252). -/
def State.portChanged (s : State) (port : Nat) (up : Bool) : State := s.drtTellAll 0x53 (if up then stOk else stDegraded) port port none

/-- TRANSPORT_CHANGED follows the transport as it pauses and runs again (R252). -/
def State.showTransport (s : State) : State :=
  if s.drtRuns = s.drt.running then s
  else ({ s with drt := { s.drt with running := s.drtRuns } }).drtTellAll 0x54 stOk (if s.drtRuns then 2 else 1) 0 none

/-! ### Sequences (R226) -/

/-- The incarnation increments where a reset has made it due; beyond 0xF000 every endpoint is told. -/
def State.bumpIncarnation (s : State) : State :=
  let i := s.getF DRT_SEQ.incarnation
  if i = 0xFFFF then s
  else
    let s1 := (s.setF DRT_SEQ.incarnation (i + 1)).setF DRT_SEQ.count 0
    if 0xF000 < i + 1 then s1.drtTellAll 0x54 stOk 4 0 none else s1

/-- The incarnation is due to be used: a reset's increment is made first. -/
def State.freshSeq (s : State) : State :=
  if s.drt.seqDue then ({ s with drt := { s.drt with seqDue := false } }).bumpIncarnation else s

/-- Has the incarnation ended the transport's packets, an increment that is due counted? -/
def State.seqOver (s : State) : Bool := s.getF DRT_SEQ.incarnation + b2n s.drt.seqDue == 0xFFFF || s.getF DRT_SEQ.incarnation == 0xFFFF

/-- The next packet sequence. -/
def State.nextPktSeq (s : State) : Nat × State :=
  let s1 := s.freshSeq
  let c := s1.getF DRT_SEQ.count
  let v := s1.getF DRT_SEQ.incarnation * 2 ^ 48 + c
  (v, if c + 1 = 2 ^ 48 then s1.bumpIncarnation else s1.setF DRT_SEQ.count (c + 1))

/-- The next message sequence. -/
def State.nextMsgSeq (s : State) : Nat × State :=
  let s1 := s.freshSeq
  (s1.getF DRT_SEQ.incarnation % 256 * 2 ^ 40 + s1.drt.msgCount % 2 ^ 40,
    { s1 with drt := { s1.drt with msgCount := s1.drt.msgCount + 1 } })

/-! ### Congestion (R255–R257) -/

/-- Tokens per bit. -/
def tokenBit : Nat := 7 * 10 ^ 9

/-- The burst of 65,536 B. -/
def tokenCap : Int := 65536 * 8 * tokenBit

/-- A destination without an entry: its bucket starts with no token (the trace of R257's chapter paces from the first packet on). -/
def State.newCong (s : State) : DrtCong :=
  { rate := s.getF DRT_CC_CFG.init_rate * 10 ^ 9, srtt := none, base := none, baseAt := 0, lastDec := none, tokens := 0,
    tokAt := s.now, used := s.now }

/-- A destination's entry. -/
def State.cong (s : State) (d : Nat) : DrtCong := (Tab.look s.drt.cong d).getD s.newCong

/-- A destination's entry is kept; in a set of four that is full the least recently used one gives way (R221). -/
def State.setCong (s : State) (d : Nat) (c : DrtCong) : State :=
  let set := s.drt.cong.filter fun p => Config.congSet p.1 == Config.congSet d && p.1 != d
  let oldest := set.foldl (fun (b : Option (Nat × DrtCong)) p => match b with
    | some q => if p.2.used < q.2.used then some p else b
    | none => some p) none
  let t := match oldest with
    | some o => if 4 ≤ set.length then Tab.del s.drt.cong o.1 else s.drt.cong
    | none => s.drt.cong
  { s with drt := { s.drt with cong := Tab.put t d { c with used := s.now } } }

/-- The tokens of an entry now. -/
def DrtCong.level (c : DrtCong) (now : Nat) : Int := min tokenCap (c.tokens + (((now - c.tokAt) * c.rate : Nat) : Int))

/-- The rate after a timer expiry (R256). -/
def State.congTimeout (s : State) (d : Nat) : State :=
  let c := s.cong d
  s.setCong d { c with tokens := c.level s.now, tokAt := s.now, rate := max (c.rate / 2) (10 ^ 9) }

/-- An ACK's samples update the destination (R255, R256): rtt and owd in ns. -/
def State.congAck (s : State) (d : Nat) (rtt owd : Int) : State :=
  let c := s.cong d
  let srtt := match c.srtt with | some v => v + (rtt - v) / 8 | none => rtt
  let old := decide (10 * secT < s.now - c.baseAt)
  let base0 := match c.base with | some b => if old then owd else b | none => owd
  let base := if owd < base0 then owd else base0
  let fresh := c.base.isNone || old
  let q := owd - base
  let target : Int := s.getF DRT_CC_CFG.target
  let c1 := { c with srtt := some srtt, base := some base, baseAt := if fresh then s.now else c.baseAt,
                     tokens := c.level s.now, tokAt := s.now }
  let may := match c.lastDec with
    | some t => decide (srtt ≤ (((s.now - t) / nsT : Nat) : Int))
    | none => true
  let c2 := if q ≤ target then { c1 with rate := min (c.rate + s.getF DRT_CC_CFG.ai * 10 ^ 7) (800 * 10 ^ 9) }
    else if may then
      let cut : Int := (c.rate : Int) * (10 * q - 8 * (q - target)) / (10 * q)
      let half : Int := (c.rate : Int) / 2
      { c1 with rate := max (if cut < half then half else cut).toNat (10 ^ 9), lastDec := some s.now }
    else c1
  s.setCong d c2

/-! ### Waiting packets -/

/-- Packets that wait for a destination. -/
def State.drtQueue (s : State) (d : Nat) : List DrtItem := Tab.getD [] s.drt.queues d

/-- A destination's waiting packets replaced. -/
def State.setDrtQueue (s : State) (d : Nat) (l : List DrtItem) : State :=
  { s with drt := { s.drt with queues := Tab.setD [] s.drt.queues d l } }

/-- Packets join the packets that wait for a destination. -/
def State.drtPush (s : State) (d : Nat) (l : List DrtItem) : State := s.setDrtQueue d (s.drtQueue d ++ l)

/-- Is a waiting packet one of an outbound record? -/
def DrtItem.ofRec (i : DrtItem) (r : Nat) : Bool :=
  match i with
  | .data k _ _ => k == r
  | .readReq k _ _ _ => k == r
  | _ => false

/-- The waiting packets of a record are dropped. -/
def State.drtUnqueue (s : State) (r : Nat) : State :=
  { s with drt := { s.drt with queues := (Tab.mapVals s.drt.queues fun _ l => l.filter fun i => !i.ofRec r).filter fun p => !p.2.isEmpty } }

/-- The reply header to a received packet (R223): what an ACK or ERROR copies and swaps. -/
def DrtHdr.answer (h : DrtHdr) (kind status : Nat) : DrtHdr :=
  { h with kind := kind, flags := 0, attempt := 0, status := status, src := h.dst, dst := h.src, remaining := 0 }

/-- An ERROR to the packet's sender, from the port that the packet came from (R232). -/
def State.sendError (s : State) (h : DrtHdr) (via : DrtVia) (status reason : Nat) : State :=
  s.drtPush h.src [.ctl (h.answer 5 status) via (leBytes 1 reason ++ zeroBytes 7)]

/-! ### Outbound records (R230, R233, R260) -/

/-- Records of backend messages name no ring: their number stands behind every ring's (R369). -/
def nveRing : Nat := 65536

/-- An outbound record is freed with its waiting packets; its key is erased with it. -/
def State.dropOut (s : State) (r : Nat) : State :=
  let s1 := s.drtUnqueue r
  { s1 with drt := { s1.drt with outs := Tab.del s1.drt.outs r } }.showDrt

/-- TSTAMP96 of now, as 12 bytes. -/
def State.stampNow (s : State) : List Byte := leBytes 12 (tstamp96 s.timeNow (unc16 (s.pubUnc 0)))

/-- A message completes (R230). -/
def State.endOut (s : State) (r status reason : Nat) : State :=
  match Tab.look s.drt.outs r with
  | none => s
  | some x =>
    let s1 := s.dropOut r
    let s2 := if status = stTimeout then s1.drtCount 11 else if status = stSquashed then s1.drtCount 15 else s1
    if nveRing ≤ x.num then
      { s2 with nve := { s2.nve with msgs := Tab.modify s2.nve.msgs (x.num - nveRing) fun m => { m with st := .ended status } } }
    else s2.completeEntry x.num x.idx x.irqNow status (leBytes 1 reason ++ zeroBytes 3 ++ leBytes 4 x.retx ++ s2.stampNow)

/-! ### Inbound records (R236, R244) -/

/-- The key of a message at its receiver. -/
def msgKey (src msgSeq : Nat) : Nat := src * 2 ^ 48 + msgSeq

/-- The number of tombstones that the store holds (Table 8-1). -/
def tombCap : Nat := 4194304

/-- A finished message becomes a tombstone, or waits in its record while the store is full. -/
def State.bury (s : State) (k : Nat) (t : DrtTomb) (x : Option InRec) : State :=
  if s.drt.tombs.length < tombCap then
    { s with drt := { s.drt with tombs := Tab.put s.drt.tombs k t, ins := Tab.del s.drt.ins k } }.showDrt
  else
    match x with
    | some y => ({ s with drt := { s.drt with ins := Tab.put s.drt.ins k { y with st := .finished, status := t.status, reason := t.reason } } }.drtCount
        10).showDrt
    | none => s.drtCount 10

/-- A message fails at its target: tombstone, ERROR to the sender, and the event that reports a violation (R250, R251). -/
def State.failIn (s : State) (h : DrtHdr) (via : DrtVia) (tStale status reason : Nat) (x : Option InRec) : State :=
  let s1 := (s.bury (msgKey h.src h.msgSeq) ⟨tStale, status, reason, false⟩ x).sendError h via status reason
  if status = stNbRange then s1
  else (s1.drtCount 8).drtEvent h.dst 0x50 (drtBody stRemoteAccessViolation reason 0 h.src h.msgSeq h.region h.dst)

/-- The completion of a WRITE_IMM at its target (R230): on the completion ring of the endpoint. The index it names is stated
nowhere and is free. -/
def State.targetCompletion (s : State) (x : InRec) (status : Nat) : State :=
  match Tab.look s.drt.eps x.last.dst with
  | none => s
  | some e =>
    match s.ring? 0 e.ring with
    | none => s
    | some r =>
      let d := s.draw 32
      let body := leBytes 8 x.imm ++ leBytes 3 x.last.src ++ leBytes 1 (b2n (x.nb != 0)) ++ d.2.stampNow
      d.2.postCompletion r.cq (completionBytes status 5 e.ring d.1 body) false

/-- A full message is done: a WRITE_IMM posts its completion, and a tombstone remains (R236). -/
def State.finishIn (s : State) (k : Nat) (x : InRec) (status : Nat) : State :=
  let s1 := if x.last.flag 3 then s.targetCompletion x status else s
  s1.bury k ⟨x.tStale, stOk, 0, false⟩ (some x)

/-- An inbound record is freed without a tombstone. -/
def State.dropIn (s : State) (k : Nat) : State := { s with drt := { s.drt with ins := Tab.del s.drt.ins k } }.showDrt

/-! ### Regions (R247–R249) -/

/-- A region's generation. -/
def State.regionGen (s : State) (i : Nat) : Nat := Tab.getD 0 s.drt.gens i

/-- The region that a handle names, if its generation is current. -/
def State.region? (s : State) (handle : Nat) : Option DrtRegion :=
  if s.regionGen (handle / 2 ^ 12) = handle % 2 ^ 12 then Tab.look s.drt.regions (handle / 2 ^ 12) else none

/-- A region is revoked (R248): its index is free again under the next generation, READ_RESPs still waiting are dropped, and
messages that have placed bytes in it and are not full fail with REVOKED. -/
def State.revokeRegion (s : State) (i : Nat) : State :=
  let handle := i * 2 ^ 12 + s.regionGen i
  let ofRegion (k : DrtItem) : Bool := match k with | .readResp h _ _ => h.region == handle | _ => false
  let d := s.drt
  let s1 := s.setDrt { d with
    regions := Tab.del d.regions i
    gens := Tab.setD 0 d.gens i ((s.regionGen i + 1) % 4096)
    freed := d.freed ++ [i]
    queues := (Tab.mapVals d.queues fun _ l => l.filter fun k => !ofRegion k).filter fun p => !p.2.isEmpty }
  (d.ins.filter fun p => p.2.st == .receiving && p.2.last.region == handle && p.2.bits != 0).foldl
    (fun t p => t.failIn p.2.last p.2.via p.2.tStale stRemoteAccessViolation 6 (some p.2)) s1

/-! ### Endpoints, slices and resets (R258–R260) -/

/-- Endpoints of a slice. -/
def State.sliceEps (s : State) (g : Nat) : Nat := Tab.count s.drt.eps fun _ e => e.slice == g

/-- Regions of a slice. -/
def State.sliceRegions (s : State) (g : Nat) : Nat := Tab.count s.drt.regions fun _ r => r.slice == g

/-- Messages of some endpoints end: outbound ones SQUASHED, or without completion, inbound ones posting nothing. -/
def State.squashEps (s : State) (p : Nat → Bool) (complete : Bool) : State :=
  let s1 := (s.drt.outs.filter fun q => p q.2.ep).foldl (fun t q => if complete then t.endOut q.1 stSquashed 0 else t.dropOut q.1) s
  (s.drt.ins.filter fun q => p q.2.last.dst).foldl (fun t q => t.dropIn q.1) s1

/-- Is an endpoint one of a slice? -/
def State.epOfSlice (s : State) (g ep : Nat) : Bool :=
  match Tab.look s.drt.eps ep with
  | some e => e.slice == g
  | none => false

/-- A slice reset in the transport (R260). -/
def State.drtDrain (s : State) (g : Nat) : State :=
  let s1 := s.squashEps (s.epOfSlice g) true
  ((s1.drt.regions.filter fun p => p.2.slice == g).map Prod.fst).foldl (fun t i => t.revokeRegion i) s1

/-- A removed slice leaves no endpoint. -/
def State.drtRemove (s : State) (g : Nat) : State :=
  { s with drt := { s.drt with eps := Tab.keep s.drt.eps fun _ e => e.slice != g } }

/-- An H or F reset, or the entry to STANDBY with `revoke`, of the functions that hold some slices (R258, R259). -/
def State.drtLoseSlices (s : State) (gs : List Nat) (revoke : Bool) : State :=
  let s1 := s.squashEps (fun ep => gs.any fun g => s.epOfSlice g ep) false
  if revoke then ((s1.drt.regions.filter fun p => gs.contains p.2.slice).map Prod.fst).foldl (fun t i => t.revokeRegion i) s1
  else s1

/-- A D reset in the transport (R259). -/
def State.drtDReset (s : State) : State :=
  let s1 := s.drt.outs.foldl (fun t q => t.endOut q.1 stSquashed 0) s
  let s2 := s1.drt.ins.foldl (fun t q => match q.2.st with
    | .held => t.finishIn q.1 q.2 stSquashed
    | .receiving => t.dropIn q.1
    | .finished => t) s1
  { s2 with drt := { s2.drt with cong := [], queues := [], seqDue := true } }.showDrt

/-- The transport as a P, C or W reset leaves it. -/
def DrtSt.reset : DrtSt :=
  { eps := [], doms := [], regions := [], gens := [], fresh := 0, freed := [], outs := [], ins := [], tombs := [], cong := [],
    queues := [], msgCount := 0, seqDue := true, settle := 0, settleLater := false, authFails := 0, authAt := none,
    running := false }

/-- The settle point of a C or W reset: latest-possible time plus 100 ms plus max_age, or still to be set where time is unknown,
as after a P reset (R245). -/
def State.drtReset (s : State) (old : State) : State :=
  let d := DrtSt.reset
  match old.latest with
  | some t => s.setDrt { d with settle := t + 4 * (100 * 10 ^ 6 + old.getF DRT_TIMER.max_age * 1000) }
  | none => s.setDrt { d with settleLater := true }

/-- Time has become known: a settle point that a P reset left open is set (R245). -/
def State.setSettle (s : State) : State :=
  if s.drt.settleLater then
    match s.latest with
    | some t =>
      s.setDrt { s.drt with settleLater := false, settle := t + 4 * (100 * 10 ^ 6 + s.getF DRT_TIMER.max_age * 1000) }
    | none => s
  else s

end Sys2Proof.Machine
end

