-- ==== Sys2Proof/Machine/RegOps.lean ====
section
/-! DEFINITION. Reading and writing a register by its place: the map of R519–R522, the access codes and change classes of
R6–R11, the quiesced states of R42, and the values that fields store in place of what is written. -/

namespace Sys2Proof.Machine

/-! ### The register at a place -/

/-- The register whose first byte or upper half lies at an offset of a range of `rows`, with its indices and whether the
offset is that of the upper half. -/
def regAt (off : Nat) : List (Reg × Nat × Nat) → Option (Reg × Nat × Nat × Bool)
  | [] => none
  | (r, i, j) :: t =>
    let a := r.windowOffset i j
    if a = off then some (r, i, j, false)
    else if a + 4 = off ∧ r.row.width = 64 then some (r, i, j, true)
    else regAt off t

/-- The index of an offset in a run of `n` places with a stride, and the rest of the offset. -/
def strideIndex (off n stride : Nat) : Nat × Nat :=
  if stride = 0 then (0, off) else (if off / stride < n then off / stride else n - 1, off % stride)

/-- The candidate for one register name at an offset of the management window: its index pair nearest below. -/
def regCandidate (r : Reg) (off : Nat) : Nat × Nat :=
  let d := off - (blockBase r.row.block + r.row.offset)
  let d := d / 4 * 4
  if r.row.s1 ≤ r.row.s0 then
    let p := strideIndex d r.row.n0 r.row.s0
    (p.1, (strideIndex p.2 r.row.n1 r.row.s1).1)
  else
    let p := strideIndex d r.row.n1 r.row.s1
    ((strideIndex p.2 r.row.n0 r.row.s0).1, p.1)

/-- The register at an offset of the management window, outside the ranges that depend on the initiator (R519, R524):
`none` for an unassigned offset. -/
def windowReg (off : Nat) : Option (Reg × Nat × Nat × Bool) :=
  let blk := off / 0x100000 - 1
  let own := allRegs.filterMap fun r =>
    if r.row.block < 26 ∧ r ≠ .X_BLK_ID ∧ r ≠ .X_BLK_STATUS ∧ r ≠ .X_BLK_ERR_CTL ∧ r ≠ .X_BLK_ERR_CNT
        ∧ blockBase r.row.block + r.row.offset ≤ off then
      let c := regCandidate r off
      if r.hasIndex c.1 c.2 then some (r, c.1, c.2) else none
    else none
  let common := if 1 ≤ off / 0x100000 ∧ blk < 26 then
      [(Reg.X_BLK_ID, blk, 0), (Reg.X_BLK_STATUS, blk, 0), (Reg.X_BLK_ERR_CTL, blk, 0), (Reg.X_BLK_ERR_CNT, blk, 0)]
    else []
  regAt off (common ++ own)

/-- The register at an offset of a function window (Table 11-2), for a function. -/
def fnWindowReg (f off : Nat) : Option (Reg × Nat × Nat × Bool) :=
  if off = 0x0000 then some (.DQM_RING_SEL, f, 0, false)
  else if 0x0008 ≤ off ∧ off < 0x0028 ∧ off % 4 = 0 then some (.DQM_RING_CTX, f, (off - 8) / 8, off % 8 == 4)
  else if off = 0x0028 ∨ off = 0x002C then some (.DQM_RING_IDX, f, 0, off == 0x2C)
  else if off = 0x0030 ∨ off = 0x0034 then some (.DQM_RING_CMD, f, 0, off == 0x34)
  else if 0x0100 ≤ off ∧ off < 0x0180 ∧ off % 4 = 0 then some (.DQM_CNT, f, (off - 0x100) / 8, off % 8 == 4)
  else none

/-- The register at an offset of a function's time page control area (Table 10-4). -/
def tpgReg (f off : Nat) : Option (Reg × Nat × Nat × Bool) :=
  if off = 0x00 ∨ off = 0x04 then some (.TSV_TPG_ADDR, f, 0, off == 0x04)
  else if off = 0x08 ∨ off = 0x0C then some (.TSV_TPG_MULT, f, 0, off == 0x0C)
  else if off = 0x10 ∨ off = 0x14 then some (.TSV_TPG_OFFSET, f, 0, off == 0x14)
  else if off = 0x18 then some (.TSV_TPG_CTL, f, 0, false)
  else none

/-- The snapshot view that an initiator owns (R522). -/
def ownView (init : Nat) : Option Nat :=
  if init ≤ 0x020 then some init
  else if init = 0x800 then some 33
  else if init = 0x802 then some 34
  else if init = 0xC00 then some 35
  else if init = 0xC02 then some 36
  else if 0x040 ≤ init ∧ init ≤ 0x043 then some (37 + (init - 0x040))
  else none

/-- The register at an offset of a snapshot view. -/
def viewReg (v off : Nat) : Option (Reg × Nat × Nat × Bool) :=
  if off = 0x10 ∨ off = 0x14 then some (.TSV_SNAP_SEC, v, 0, off == 0x14)
  else if off = 0x18 ∨ off = 0x1C then some (.TSV_SNAP_NS, v, 0, off == 0x1C)
  else if off = 0x20 then some (.TSV_SNAP_UNC, v, 0, false)
  else none

/-- The register that an initiator reaches at a place, with the block and block offset that its access table checks
(`none` where no table is asked). The DQM range acts as the initiator's own function window (R521). The snapshot
registers at the TSV base are shared (R95, kept under index 41), and a view answers only to its owner (R522). -/
def placeReg (init : Nat) : Place → Option (Nat × Nat) × Option (Reg × Nat × Nat × Bool)
  | .fnWindow f off => (none, fnWindowReg f off)
  | .tpg f off => (none, tpgReg f off)
  | .memory _ => (none, none)
  | .window off =>
    let blk := off / 0x100000 - 1
    let bo := off % 0x100000
    if 0x1200000 ≤ off ∧ off < 0x1210000 then
      (some (17, bo), fnWindowReg (if init < 0x800 then 0 else init) bo)
    else if 0x510000 ≤ off ∧ off < 0x512900 then
      (some (4, bo), if ownView init = some ((bo - 0x10000) / 0x100) then viewReg ((bo - 0x10000) / 0x100) (bo % 0x100)
        else none)
    else if 0x500010 ≤ off ∧ off < 0x500024 then (some (4, bo), viewReg 41 bo)
    else if 0x100000 ≤ off ∧ off < 0x1B00000 then (some (blk, bo), windowReg off)
    else (none, none)

/-! ### What a field stores -/

/-- The value a field stores for a value written, where its meaning states another (the "stored as" clauses of the
field tables; R73 for the rate). -/
def Fld.stored (s : State) (f : Fld) (v : Nat) : Nat :=
  let top (m : Nat) := if m < v then m else v
  let bot (m : Nat) := if v < m then m else v
  match f.reg with
  | .TSV_HOLD_MODEL => if f.lo = TSV_HOLD_MODEL.r.lo then bot (if s.fuse.grade = 2 then 0x028 else 0x7D0) else if f.lo = TSV_HOLD_MODEL.d.lo then bot (if s.fuse.grade = 2 then 0x0019 else 0x4A38) else v
  | .TSV_PPS_CFG => if f.lo = TSV_PPS_CFG.width.lo then top 500000 else v
  | .X_AGE_CFG => if f.lo = X_AGE_CFG.age_time.lo then (if v = 1 then 2 else v) else v
  | .EML_LEARN_CFG => if f.lo = EML_LEARN_CFG.move_hold.lo then top 1367188 else v
  | .EML_MEMBER_CFG => if f.lo = EML_MEMBER_CFG.limit.lo then top 262144 else v
  | .FLT_LEARN_CFG => if f.lo = FLT_LEARN_CFG.limit.lo then top 4210688 else v
  | .TMG_AGE => if f.lo = TMG_AGE.limit.lo then clampNat 100 100000 v else v
  | .MAC_PORT_CFG => if f.lo = MAC_PORT_CFG.max_len.lo then bot 64 else v
  | .MAC_LPI_CFG => if f.lo = MAC_LPI_CFG.tw_tx.lo then bot 4 else if f.lo = MAC_LPI_CFG.idle_time.lo then bot 1 else v
  | .DRT_CFG => if f.lo = DRT_CFG.paths_log2.lo then top 8 else v
  | .DRT_TIMER => if f.lo = DRT_TIMER.rto_min.lo then bot 8 else if f.lo = DRT_TIMER.lifetime.lo then clampNat 1 100 v else if f.lo = DRT_TIMER.max_age.lo then clampNat 10 10000 v else if f.lo = DRT_TIMER.nb_max.lo then clampNat 1 1000 v else v
  | .DRT_CC_CFG => if f.lo = DRT_CC_CFG.init_rate.lo then clampNat 1 800 v else v
  | .CPH_KEY_ATTR => if f.lo = CPH_KEY_ATTR.limit.lo then top (2 ^ 40) else v
  | .HIF_PM_CFG => if f.lo = HIF_PM_CFG.l1_idle.lo then bot 1 else if f.lo = HIF_PM_CFG.l0p_window.lo then bot 1 else v
  | .HIF_FUNC_CFG => if f.lo = HIF_FUNC_CFG.total_vfs.lo then top 512 else if f.lo = HIF_FUNC_CFG.slice_pages_log2.lo then top 14 else if f.lo = HIF_FUNC_CFG.msix_log2.lo then top 11 else if f.lo = HIF_FUNC_CFG.vf_msix_log2.lo then top 6 else v
  | .PRF_LEVEL => if f.lo = PRF_LEVEL.lvl_m.lo then top 4 else if f.lo = PRF_LEVEL.lvl_s.lo then top 4 else if f.lo = PRF_LEVEL.lvl_a.lo then top 4 else v
  | .PRF_SL_CFG => if f.lo = PRF_SL_CFG.feed_timeout.lo then clampNat 1 1000 v else v
  | .RTH_ROW_CFG => if f.lo = RTH_ROW_CFG.threshold.lo then bot 1 else if f.lo = RTH_ROW_CFG.window.lo then clampNat 1 8760 v else v
  | .PWR_HOST_CTL => if f.lo = PWR_HOST_CTL.off_timeout.lo then bot 1 else v
  | .PWR_THERM => if f.lo = PWR_THERM.tj_alarm.lo then clampNat 85 105 v else v
  | _ => v

/-! ### Quiesced states (Table 1-13) -/

/-- Is a D reset asserted and not yet released (Datapath held)? -/
def State.datapathHeld (s : State) : Bool := s.modes.dReset.isSome

/-- Does the quiesced state named for a class D field hold (R42)? `ports` says of a port that its FIFOs are empty. -/
def State.quiesced (s : State) (ports : Nat → Bool) (f : Fld) (i : Nat) : Bool :=
  if f.reg = .EML_HASH_SEED ∨ f.reg = .FLT_HASH_SEED ∨ f = DRT_CFG.udp_port ∨ f.reg = .ODF_CFG then s.datapathHeld
  else if f.reg = .MAC_CAGE_CFG then (cagePorts i).all fun p => !s.flag MAC_PORT_CFG.enable p && ports p
  else if f = X_BLK_ERR_CTL.inject then s.mode == mTest
  else if f.reg = .TSV_TPG_ADDR ∨ f.reg = .TSV_TPG_MULT ∨ f.reg = .TSV_TPG_OFFSET then !s.flag TSV_TPG_CTL.enable i
  else true

/-! ### Reads and writes -/

/-- Does the access reach a field: a 64-bit access every field, a 32-bit access those wholly in its half (R8)? -/
def Fld.reached (f : Fld) (wide upper : Bool) : Bool :=
  wide || (if upper then decide (32 ≤ f.lo) else decide (f.hi < 32))

/-- One field of a register write (R6, R10, R11): the new register value and whether a class D change was refused. `v`
is the whole written value at the register's own bit positions. -/
def State.writeField (s : State) (ports : Nat → Bool) (f : Fld) (i : Nat) (v old : Word) : Word × Bool :=
  let x := v.bits f.hi f.lo
  let cur := old.bits f.hi f.lo
  let put (n : Nat) := old.setBits f.hi f.lo n
  match f.acc with
  | .rw =>
    let n := f.stored s x
    if f.cls = .d ∧ n ≠ cur ∧ s.quiesced ports f i = false then (old, true) else (put n, false)
  | .rwl => if s.flag BOOT_PERSIST.owner_lock then (old, false) else (put (f.stored s x), false)
  | .w1c => (put (cur &&& (x ^^^ (2 ^ (f.hi + 1 - f.lo) - 1))), false)
  | .w1s => (put (cur ||| x), false)
  | .wo =>
    if f.reg = .CPH_KEY_DATA then (put x, false)
    else (old, f.cls == .d && x != 0 && !s.quiesced ports f i)
  | _ => (old, false)

/-- All fields of a register write in turn. -/
def State.writeFields (s : State) (ports : Nat → Bool) (wide upper : Bool) (i : Nat) (v : Word) :
    List Fld → Word → Word × Bool
  | [], old => (old, false)
  | f :: fs, old =>
    let p := if f.reached wide upper then s.writeField ports f i v old else (old, false)
    let q := State.writeFields s ports wide upper i v fs p.1
    (q.1, p.2 || q.2)

/-- A register write that has passed its access check: the held data path discards one to a register that a D reset
reaches (R525), each reached field takes the value its access code gives, and a refused class D change sets the
change-refused flag of the block (R11, R42). -/
def State.storeReg (s : State) (ports : Nat → Bool) (blk bo : Nat) (r : Reg) (i j : Nat) (wide upper : Bool)
    (v : Word) : State :=
  if s.flag X_BLK_STATUS.d_hold blk && r.row.resets.contains .d then s.refuseWrite blk bo
  else
    let p := s.writeFields ports wide upper i v r.fields (s.reg r i j)
    let s1 := s.setReg r p.1 i j
    if p.2 then s1.refuseWrite (if r.row.block = 26 then 4 else blk) bo else s1

/-- The value a read of a register returns (R6, R7, R525): WO fields read 0, and while the data path is held a register
that a D reset reaches reads its reset value. -/
def State.readReg (s : State) (blk : Nat) (r : Reg) (i j : Nat) : Word :=
  if s.flag X_BLK_STATUS.d_hold blk && r.row.resets.contains .d then r.resetVal s.fuse i j
  else r.fields.foldl (fun w f => if f.acc = .wo then w.setBits f.hi f.lo 0 else w) (s.reg r i j)

/-- The part of a read value that an access returns (R8). -/
def readPart (w : Word) (wide upper : Bool) : Word :=
  if wide then w else if upper then BitVec.ofNat 64 (w.bits 63 32) else BitVec.ofNat 64 (w.bits 31 0)

end Sys2Proof.Machine
end

