-- ==== Sys2Proof/Machine/Island.lean ====
section
/-! DEFINITION. The time service: the meanings of its commands (spec/03). -/

namespace Sys2Proof.Machine

/-! ### State changes (Table 3-2, R83) -/

/-- The island enters a time state; compare_fault ends in LOCKED and temp_excursion shows only in HOLDOVER. -/
def State.enterTState (s : State) (st : Nat) : State :=
  let s1 := (s.setF TSV_STATE.state st).setF TSV_STATE.temp_excursion (b2n (st == tsHoldover && s.island.holdExc.isSome))
  if st = tsLocked then s1.setF TSV_STATE.compare_fault 0 else s1

/-- HOLDOVER is entered with the held U_ref as U_entry (Table 3-1, R78). -/
def State.enterHoldover (s : State) : State :=
  let i := { s.island with holdAt := s.tnow, uEntry := s.island.uRef, holdS := 0, holdTemp := s.island.temp,
                           holdExc := none }
  { s with island := i }.enterTState tsHoldover

/-- A failed acquisition returns to where it came from, and to HOLDOVER from LOCKED. The steps made meanwhile stay in the
sum of the formula that resumes. -/
def State.fallBack (s : State) : State :=
  let i := s.island
  if i.acqFrom = tsLocked then s.enterHoldover
  else if i.acqFrom = tsHoldover then
    { s with island := { i with holdS := i.holdS + i.acqS } }.enterTState tsHoldover
  else if i.acqFrom = tsFreerun then
    { s with island := { i with freeS := i.freeS + i.acqS } }.enterTState tsFreerun
  else s.enterTState tsUnknown

/-- A plausibility fault: the offending write is rejected by its caller, LOCKED enters HOLDOVER, ACQUIRING falls back, and
the TSV error pin is driven (R83). -/
def State.plausFault (s : State) : State :=
  let s1 := if s.tstate = tsLocked then s.enterHoldover else if s.tstate = tsAcquiring then s.fallBack else s
  (s1.setF TSV_STATE.plaus_fault 1).raise 3 (faultM 0x0021)

/-! ### Frequency and the servo (R73, R80) -/

/-- TSV_RATE_WRITE (R73, R83): both counters take the clamped rate when the write lands; a change beyond max_rate_step
while LOCKED is a plausibility fault and rejected. -/
def execTsvRateWrite (init : Nat) (v : BitVec 32) (s : State) : Res :=
  let a := s.blockAccess 4 .write init 0x0008
  if !a.2 then .next a.1
  else
    let s1 := a.1.crossTclk
    let x := signedOf 32 v.toNat
    let lim : Int := 549755814
    let x := if lim < x then lim else if x < -lim then -lim else x
    let old := signedOf 32 (s1.getF TSV_RATE.rate)
    if s1.tstate = tsLocked ∧ s1.getF TSV_HOLD_MODEL.max_rate_step < (x - old).natAbs then .next s1.plausFault
    else .next (s1.setF TSV_RATE.rate (ofSigned 32 x))

/-- An accepted claim moves the time state as Table 3-2 gives. -/
def State.applyClaim (s : State) (claim : Nat) : State :=
  if claim = 1 then
    if s.tstate = tsAcquiring then s
    else { s with island := { s.island with acqFrom := s.tstate, acqS := 0 } }.enterTState tsAcquiring
  else if claim = 2 then (if s.tstate = tsAcquiring ∧ s.island.wasSet then s.enterTState tsLocked else s)
  else if s.tstate = tsLocked then s.enterHoldover else s

/-- TSV_SERVO_WRITE (R80, R83): a heartbeat; rejected as a plausibility fault where |offset| exceeds u_servo, else stored
with its claim applied. -/
def execTsvServoWrite (init : Nat) (wide upper : Bool) (v : Word) (s : State) : Res :=
  let a := s.blockAccess 4 .write init 0x0038
  if !a.2 then .next a.1
  else
    let s1 := a.1.crossTclk
    let s1 := { s1 with island := { s1.island with beatAt := s1.tnow } }
    let w := (s1.writeFields (fun _ => true) wide upper 0 v Reg.TSV_SERVO.fields (s1.reg .TSV_SERVO)).1
    if w.bits 31 0 < (signedOf 24 (w.bits 55 32)).natAbs then .next s1.plausFault
    else
      let s2 := { s1.setReg .TSV_SERVO w with island := { s1.island with servoAt := s1.tnow } }
      .next (s2.applyClaim (w.bits 63 62))

/-! ### Phase (R81, R82) -/

/-- A write of TSV_ADJ with go lands: op and amount are stored and a pending set-at-PPS is disarmed (R81). -/
def State.adjLand (s : State) (op : Nat) (amount : Option (BitVec 48)) : State :=
  let s1 := s.crossTclk.setF TSV_ADJ.op op
  let s2 := match amount with
    | some m => s1.setF TSV_ADJ.amount m.toNat
    | none => s1
  { s2 with island := { s2.island with setArmed := false } }

/-- The amount in force, signed, in 2^-16 ns. -/
def State.adjAmount (s : State) : Int := signedOf 48 (s.getF TSV_ADJ.amount)

/-- A refused TSV_ADJ command (R81, R82). -/
def State.adjRefuse (s : State) : State := s.refuseWrite 4 0x0028

/-- A step or set has been executed with this magnitude (2^-40 ns): the slew is cancelled, step_count counts, and the sum
of the state in force grows (Table 3-1). -/
def State.adjDone (s : State) (mag : Nat) : State :=
  let i := { s.island with slewLeft := 0 }
  let i := if s.tstate = tsAcquiring then { i with acqS := i.acqS + mag }
    else if s.tstate = tsFreerun then { i with freeS := i.freeS + mag }
    else if s.tstate = tsHoldover then { i with holdS := i.holdS + mag } else i
  { s with island := i }.bump TSV_STATE.step_count

/-- Both counters take a value (R81 op 2 and 3): refused while LOCKED; FREERUN starts afresh except in ACQUIRING, and in
UNKNOWN only with claim 0 (Table 3-2). -/
def State.loadCounters (s : State) (value : Nat) : State :=
  if s.tstate = tsLocked then s.adjRefuse
  else
    let v : Nat := value % (2 ^ 104 : Nat)
    let mag := ((v : Int) - s.island.ctrA).natAbs
    let s1 := { s with island := { s.island with ctrA := v, ctrB := v, wasSet := true } }.adjDone mag
    let claim := s.getF TSV_SERVO.claim
    if s.tstate = tsFreerun ∨ s.tstate = tsHoldover ∨ (s.tstate = tsUnknown ∧ (claim = 0 ∨ claim = 3)) then
      let u := s.getF TSV_SET_SEC.set_unc
      let i := { s1.island with setAt := s1.tnow, uSet := if u = 0xFFFF then none else some u, freeS := 0 }
      { s1 with island := i }.enterTState tsFreerun
    else s1

/-- SLEW (R81, R83): amount is spent at slew_ppm and replaces an unspent slew; refused while slew_ppm is 0; a
plausibility fault where the slews of the last 1 ms would pass 50 ns while LOCKED. How slew_ppm rounds to whole units
per TCLK is left open by one free bit. -/
def execTsvSlew (init : Nat) (amount : Option (BitVec 48)) (s : State) : Res :=
  let a := s.blockAccess 4 .write init 0x0028
  if !a.2 then .next a.1
  else
    let s1 := a.1.adjLand 0 amount
    let m := s1.adjAmount
    let ppm := s1.getF TSV_HOLD_MODEL.slew_ppm
    let recent := s1.island.slews.filter fun p => decide (s1.tnow < p.1 + 10 ^ 6)
    if ppm = 0 then .next s1.adjRefuse
    else if s1.tstate = tsLocked ∧ 50 * 2 ^ 16 < (recent.map Prod.snd).sum + m.natAbs then .next s1.plausFault
    else
      let d := s1.draw 1
      let i := { d.2.island with slewLeft := m * 2 ^ 24, slewStep := ppm * ctrOne / 10 ^ 6 + d.1,
                                 slews := if m = 0 then recent else recent ++ [(s1.tnow, m.natAbs)] }
      .next { d.2 with island := i }

/-- STEP (R81, R82): amount is added in one TCLK; refused while LOCKED; a step of 0 only cancels the slew. -/
def execTsvStep (init : Nat) (amount : Option (BitVec 48)) (s : State) : Res :=
  let a := s.blockAccess 4 .write init 0x0028
  if !a.2 then .next a.1
  else
    let s1 := a.1.adjLand 1 amount
    let m := s1.adjAmount
    if s1.tstate = tsLocked then .next s1.adjRefuse
    else if m = 0 then .next { s1 with island := { s1.island with slewLeft := 0 } }
    else
      let add (c : Nat) : Nat := (((c : Int) + m * 2 ^ 24) % (2 ^ 104 : Int)).toNat
      let s2 := { s1 with island := { s1.island with ctrA := add s1.island.ctrA, ctrB := add s1.island.ctrB } }
      .next (s2.adjDone (m.natAbs * 2 ^ 24))

/-- SET (R81, R82): the counters load seconds and amount; refused for a negative amount or one of 10^9 ns or more, and
while LOCKED. -/
def execTsvSet (init : Nat) (amount : Option (BitVec 48)) (s : State) : Res :=
  let a := s.blockAccess 4 .write init 0x0028
  if !a.2 then .next a.1
  else
    let s1 := a.1.adjLand 2 amount
    let m := s1.adjAmount
    if m < 0 ∨ 10 ^ 9 * 2 ^ 16 ≤ m then .next s1.adjRefuse
    else .next (s1.loadCounters (s1.getF TSV_SET_SEC.seconds * 10 ^ 9 * ctrOne + m.toNat * 2 ^ 24))

/-- SET_AT_PPS (R81, R82): arms a set at the next qualified PPS_IN edge; refused while LOCKED. -/
def execSetAtPps (init : Nat) (amount : Option (BitVec 48)) (s : State) : Res :=
  let a := s.blockAccess 4 .write init 0x0028
  if !a.2 then .next a.1
  else
    let s1 := a.1.adjLand 3 amount
    if s1.tstate = tsLocked then .next s1.adjRefuse
    else .next { s1 with island := { s1.island with setArmed := true } }

/-! ### References (R84, R85) -/

/-- A qualified PPS_IN edge performs an armed set with the input's compensation applied (R81). -/
def State.qualifiedEdge (s : State) : State :=
  if s.island.setArmed then
    let s1 := { s with island := { s.island with setArmed := false } }.syncIsland
    let v := (s1.getF TSV_SET_SEC.seconds : Int) * 10 ^ 9 * ctrOne + signedOf 16 (s1.getF TSV_REF_SEL.pps_in_comp) * 2 ^ 38
    s1.loadCounters (v % (2 ^ 104 : Int)).toNat
  else s

/-- PPS_IN_EDGE (R85, Table 3-5): a rising edge at time `t` that stays high for `highNs`. It is timestamped to 2^-16 ns
with an error within 0.5 ns and queued. While PPS_IN is qualified the first long enough edge within 1 µs of the window's
centre is the expected one, and an edge outside every window carries the out-of-window mark. Otherwise the third of a
run of edges 1 s ± 1 µs apart qualifies the input. -/
def execPpsInEdge (t highNs : Nat) (s : State) : Res :=
  let d := (s.after t).syncIsland.draw 16
  let s1 := d.2
  let i := s1.island
  let comp := signedOf 16 (s1.getF TSV_REF_SEL.pps_in_comp)
  let stamp := ((s1.timeNow : Int) + signedOf 16 d.1 - comp * 2 ^ 14).toNat
  let near (a b : Nat) : Bool := decide (a ≤ b + usT) && decide (b ≤ a + usT)
  if s1.flag TSV_STATE.pps_in_qualified then
    let inWindow := near s1.now i.ppsCentre
    let q := i.ppsQueue ++ [(stamp, !inWindow)]
    if inWindow && decide (100 ≤ highNs) then
      let i' := { i with ppsQueue := q, ppsLast := some s1.now, ppsCentre := s1.now + secT, ppsMissed := 0 }
      .next { s1 with island := i' }.qualifiedEdge
    else .next { s1 with island := { i with ppsQueue := q } }
  else
    let run := if highNs < 100 then 0
      else match i.ppsLast with
        | some l => if 0 < i.ppsRun ∧ near s1.now (l + secT) then i.ppsRun + 1 else 1
        | none => 1
    let i' := { i with ppsQueue := i.ppsQueue ++ [(stamp, false)], ppsLast := some s1.now, ppsRun := run }
    let s2 := { s1 with island := i' }
    if 3 ≤ run then
      let i3 := { i' with ppsCentre := s1.now + secT, ppsMissed := 0 }
      .next ({ s2 with island := i3 }.setF TSV_STATE.pps_in_qualified 1).showRefs.qualifiedEdge
    else .next s2

/-- PPS_WINDOW_MISSED (R85, Table 3-5): the window closes 1 µs after its centre with no expected edge; the second such
window in a row disqualifies PPS_IN. -/
def execPpsWindowMissed (s : State) : Res :=
  if s.flag TSV_STATE.pps_in_qualified then
    let s1 := s.after (s.island.ppsCentre + usT)
    let i : IslandSt := { s1.island with ppsCentre := s1.island.ppsCentre + secT, ppsMissed := s1.island.ppsMissed + 1 }
    if 2 ≤ i.ppsMissed then
      let i' := { i with ppsRun := 0, ppsLast := none, ppsMissed := 0 }
      .next ({ s1 with island := i' }.setF TSV_STATE.pps_in_qualified 0).showRefs
    else .next { s1 with island := i }
  else .next s

/-- The bit of TSV_STATE that shows a reference qualified. -/
def refBit : TimeRef → Fld
  | .syncE => TSV_STATE.synce_qualified
  | .freqIn => TSV_STATE.freq_in_qualified
  | .ppsIn => TSV_STATE.pps_in_qualified

/-- REFERENCE_QUALIFIED (R84, Table 3-5): a reference meets its criteria, PPS_IN after its run of three edges. -/
def execReferenceQualified (r : TimeRef) (s : State) : Res :=
  if r = .ppsIn ∧ s.island.ppsRun < 3 then .next s else .next (s.syncIsland.setF (refBit r) 1).showRefs

/-- REFERENCE_DISQUALIFIED (R84): the reference is lost; where it was in use, the loop holds its base rate, averaged over the last
10 s, a value the spec does not give. -/
def execReferenceDisqualified (r : TimeRef) (s : State) : Res :=
  let active := s.getF TSV_STATE.freq_src_active
  let s1 := ((s.syncIsland).setF (refBit r) 0).showRefs
  if r = .ppsIn then .next { s1 with island := { s1.island with ppsRun := 0, ppsLast := none, ppsMissed := 0 } }
  else if active ≠ (if r = .syncE then 1 else 2) then .next s1
  else
    let d := s1.draw 32
    .next { d.2 with island := { d.2.island with baseRate := signedOf 32 d.1 } }

/-! ### Checks (R72, R76, R83, R87) -/

/-- COUNTER_MISMATCH (R71, R72): counter B stands at `b`, which differs from counter A: UNKNOWN, compare_fault, B takes A, and the compare
pin is driven. The held U_ref is unknown from then on, and a set is needed again before LOCKED. -/
def execCounterMismatch (b : Nat) (s : State) : Res :=
  let s1 := s.syncIsland
  if b % 2 ^ 104 = s1.island.ctrA then .next s1
  else
    let s2 := { s1 with island := { s1.island with ctrB := s1.island.ctrA, wasSet := false, uRef := none } }
    .next (((s2.enterTState tsUnknown).setF TSV_STATE.compare_fault 1).raise 4 (faultM 0x0021))

/-- SERVO_BEAT_TIMEOUT (R83, Table 3-2): beat_timeout has passed without a TSV_SERVO write: a plausibility fault in
LOCKED, a plain fall-back in ACQUIRING. -/
def execServoBeatTimeout (s : State) : Res :=
  let ms := s.getF TSV_HOLD_MODEL.beat_timeout
  let ms := if ms = 0 then 1 else ms
  let due := (s.island.beatAt + ms * 10 ^ 6) * tclk
  if s.tstate = tsLocked then .next (s.after due).syncIsland.plausFault
  else if s.tstate = tsAcquiring then .next (s.after due).syncIsland.fallBack
  else .next s

/-- Since when r is four times itself: the first evaluation in HOLDOVER that found the oscillator more than 5 °C from its
temperature at holdover entry (R76). -/
def State.excursion (s : State) (temp : Int) (k : Nat) : Option Nat :=
  match s.island.holdExc with
  | some x => some x
  | none => if s.tstate = tsHoldover ∧ 5000 < (temp - s.island.holdTemp).natAbs then some k else none

/-- What an evaluation at TCLK `k` found. -/
def State.noteRef (s : State) (temp : Int) (exc : Option Nat) (k : Nat) : State :=
  { s with island := { s.island with temp := temp, holdExc := exc, uAt := k } }

/-- U_ref for an instant. -/
def State.putRef (s : State) (k : Nat) : State := { s with island := { s.island with uRef := uRound (s.uRefAt k) } }

/-- U_REF_EVALUATION (R76, R78): every 1,000 TCLK U_ref is computed for the end of the next 1,000 TCLK, which no reading
that uses it can pass; the oscillator's temperature `temp` more than 5 °C from that at holdover entry makes r four times
itself from then on. The first known time fixes a settle point that waits for it (R245). -/
def execURefEvaluation (temp : Int) (s : State) : Res :=
  let s1 := s.after ((s.island.uAt / 1000 + 1) * 1000 * tclk)
  let k := s1.tnow / 1000 * 1000
  let exc := s1.excursion temp k
  let s2 := s1.noteRef temp exc k
  let s3 := s2.setF TSV_STATE.temp_excursion (b2n (s2.tstate == tsHoldover && exc.isSome))
  .next (s3.putRef (k + 1000)).setSettle

/-- REPLICA_CHECK (R87): a replica that differs from counter A by `diff` (2^-16 ns), more than 1 ns, is marked and the
TSV pin driven. -/
def execReplicaCheck (r : Fin 10) (diff : Nat) (s : State) : Res :=
  let s1 := s.after ((s.tnow / 1000 + 1) * 1000 * tclk)
  if 2 ^ 16 < diff then
    .next ({ s1 with island := { s1.island with replicas := insertNat s1.island.replicas r.val } }.raise 3 (faultM 0x0021))
  else .next s1

/-- REPLICA_REALIGNED (R87): the replica's timestamps carry their normal term again. -/
def execReplicaRealigned (r : Fin 10) (s : State) : Res :=
  .next { s with island := { s.island with replicas := s.island.replicas.filter (· != r.val) } }

/-! ### Snapshots and pulses (R88, R89, R95, R96) -/

/-- TIME_SNAPSHOT_PUBLISH (R96): every 8 TCLK counter A and the uncertainty are held for the FCLK domain. -/
def execTimeSnapshotPublish (s : State) : Res :=
  let s1 := s.after ((s.tnow / 8 + 1) * 8 * tclk)
  .next { s1 with island := { s1.island with snapTime := s1.timeNow, snapUnc := s1.pubUnc 0 } }

/-- SNAPSHOT_LATCH (R95, R522): a read of a TSV_SNAP_SEC latches time and uncertainty in one TCLK; a view of another
initiator returns 0 and latches nothing. -/
def execSnapshotLatch (init off : Nat) (wide : Bool) (s : State) : Res :=
  match placeReg init (.window off) with
  | (some (blk, bo), some (.TSV_SNAP_SEC, v, _, upper)) =>
    let a := s.blockAccess blk .read init bo
    if !a.2 then .next (a.1.deniedRead init)
    else
      let t := a.1.timeNow
      let u := a.1.pubUnc 0
      let s1 := (a.1.setF TSV_SNAP_SEC.state a.1.tstate v).setF TSV_SNAP_SEC.seconds (secondsOf t) v
      let s2 := (s1.setF TSV_SNAP_NS.ns (t / 2 ^ 16 % 10 ^ 9) v).setF TSV_SNAP_NS.frac t v
      let s3 := (s2.setF TSV_SNAP_NS.unc (unc16 u) v).setF TSV_SNAP_UNC.unc32 (unc32 u) v
      .next (s3.emit (.readData init (readPart (s3.reg .TSV_SNAP_SEC v) wide upper)))
  | (some (blk, bo), _) =>
    let a := s.blockAccess blk .read init bo
    .next (if a.2 then a.1.emit (.readData init 0) else a.1.deniedRead init)
  | _ => .next (s.emit (.readData init 0))

/-- PPS_OUTPUT_EDGE (R88, R89): output 0 PPS_OUT or 1 PPS_HOST rises where island time, less its compensation, crosses
the next whole second, unless it is disabled, its width is 0, or its uncertainty reaches squelch_limit without force. -/
def execPpsOutputEdge (o : Fin 2) (s : State) : Res :=
  let s0 := s.syncIsland
  let comp := signedOf 12 (s0.getF TSV_PPS_CFG.comp o.val) * 2 ^ 38
  let sec := ((s0.island.ctrA : Int) + comp) / (10 ^ 9 * ctrOne : Int) + 1
  let s1 := s0.after (s0.whenReached (sec * (10 ^ 9 * ctrOne : Int) - comp).toNat * tclk)
  let u := unc16 (s1.pubUnc (if o.val = 0 then 6 else 12))
  let squelched := !s1.flag TSV_PPS_CFG.force o.val && decide (s1.getF TSV_PPS_CFG.squelch_limit o.val ≤ u)
  let width := s1.getF TSV_PPS_CFG.width o.val
  if s1.flag TSV_PPS_CFG.enable o.val && decide (0 < width) && !squelched then
    let s2 := s1.emit (.pin (if o.val = 0 then .ppsOut else .ppsHost) true)
    .next { s2 with island := { s2.island with ppsUntil := Tab.put s2.island.ppsUntil o.val (s2.now + width * usT) } }
  else .next s1

/-- The output pulses whose width has run out fall (R88). -/
def State.endPulses (s : State) : State :=
  let s1 := { s with island := { s.island with ppsUntil := Tab.keep s.island.ppsUntil fun _ t => decide (s.now < t) } }
  (s.island.ppsUntil.filter fun p => decide (p.2 ≤ s.now)).foldl (fun u p =>
    u.emit (.pin (if p.1 = 0 then .ppsOut else .ppsHost) false)) s1

/-! ### Time at the host (R90–R94) -/

/-- A link's PTM state. -/
def State.ptmOf (s : State) (l : Nat) : PtmSt := Tab.getD ⟨false, [], 0, 0, false⟩ s.ptm l

/-- A link's PTM state replaced. -/
def State.setPtm (s : State) (l : Nat) (p : PtmSt) : State :=
  { s with ptm := Tab.setD ⟨false, [], 0, 0, false⟩ s.ptm l p }

/-- PTM_DIALOGUE (R90, R93): a dialogue on a link gives a pair of master time and island time. The bound of the new fit is
a free value, within 15 ns while the root keeps the bounds of R93. -/
def execPtmDialogue (link : Fin 2) (master : Nat) (rootBound : Bool) (s : State) : Res :=
  let p := s.ptmOf link.val
  if p.enabled then
    let s1 := s.after (p.last + 100 * usT)
    let d := s1.draw 16
    let term := if rootBound then d.1 % 61 else d.1
    .next (d.2.setPtm link.val ⟨true, ((master, s1.timeNow) :: p.pairs).take 16, s1.now, term, true⟩)
  else .next s

/-- PTM_STALE (R93): no dialogue for 100 ms, so ctr_valid clears. -/
def execPtmStale (link : Fin 2) (s : State) : Res :=
  let p := s.ptmOf link.val
  if p.valid then .next ((s.after (p.last + 100 * msT)).setPtm link.val { p with valid := false }) else .next s

/-- Registered pages of a link. -/
def State.pagesOnLink (s : State) (l : Nat) : Nat := Tab.count s.pages fun f _ => decide (fnLink f = l)

/-- TIME_PAGE_ENABLE (R91, R92, TSV_TPG_CTL): a write of enable = 1 by the function's host. -/
def execTimePageEnable (fn : Nat) (s : State) : Res :=
  match s.fn? fn with
  | none => .next s
  | some x =>
    let fail (st : Nat) := (s.setF TSV_TPG_CTL.enable 0 fn).setF TSV_TPG_CTL.result st fn
    if s.getF TSV_TPG_MULT.mult fn = 0 then .next { fail stMalformed with pages := Tab.del s.pages fn }
    else if Tab.has s.pages fn then .next (s.setF TSV_TPG_CTL.result stOk fn)
    else if 16 ≤ s.pagesOnLink (fnLink fn) ∨ x.busMaster = false ∨ (s.ptmOf (fnLink fn)).enabled = false then
      .next (fail stRefusedState)
    else
      let s1 := (s.setF TSV_TPG_CTL.enable 1 fn).setF TSV_TPG_CTL.result stOk fn
      .next { s1 with pages := Tab.put s1.pages fn ⟨0, zeroBytes 64, s.now + usT⟩ }

/-- TIME_PAGE_DISABLE (R94): a write of enable = 0 stops the page's writes. -/
def execTimePageDisable (fn : Nat) (s : State) : Res :=
  .next { s.setF TSV_TPG_CTL.enable 0 fn with pages := Tab.del s.pages fn }

/-- The 64 bytes of a page (Table 3-6) with an even seq. The fitted host relation is not given by the spec: the PTM master
time at the base instant `m` and the rate `mult` are free values. -/
def State.pageBytes (s : State) (fn seq m mult : Nat) (utc : Option (Nat × Bool × Bool)) : List Byte :=
  let p := s.ptmOf (fnLink fn)
  let age := (s.now - p.last) / nsT
  let term := p.term + ceilDiv (age * 8) (10 ^ 7)
  let u := if s.island.replicas.contains (8 + fnLink fn) then none else s.pubUnc term
  let base := (m * s.getF TSV_TPG_MULT.mult fn / 2 ^ 32 + s.getF TSV_TPG_OFFSET.offset fn) % 2 ^ 64
  let flags := b2n p.valid + (match utc with | some (_, a, b) => 2 * b2n a + 4 * b2n b + 8 | none => 0)
  leBytes 4 seq ++ leBytes 2 1 ++ leBytes 1 (if u.isNone then 0 else s.tstate) ++ leBytes 1 flags
    ++ leBytes 8 base ++ leBytes 12 (tstamp96 s.timeNow (unc16 u))
    ++ leBytes 4 (ceilDiv (s.getF TSV_HOLD_MODEL.r) 10 + 200000) ++ leBytes 8 mult
    ++ leBytes 8 (base + (if mult = 0 then 0 else 100000 * 2 ^ 48 / mult))
    ++ leBytes 2 (match utc with | some (o, _, _) => o | none => 0)
    ++ leBytes 2 (s.getF TSV_STATE.step_count) ++ leBytes 4 (unc32 u) ++ zeroBytes 8

/-- One posted write of a page; `none` where its check denies it. -/
def State.pageWrite (s : State) (fn off : Nat) (d : List Byte) : State × Bool :=
  let a := s.getF TSV_TPG_ADDR.addr fn * 64 + off
  let c := s.dmaCheck fn none true a d.length
  if c.2 then (c.1.issueWrite fn none a d, true) else (c.1, false)

/-- A denied write stops the page, clears enable and raises the link's host interface error. -/
def State.pageDenied (s : State) (fn : Nat) : State :=
  let s1 := { s.setF TSV_TPG_CTL.enable 0 fn with pages := Tab.del s.pages fn }
  s1.raise (5 + fnLink fn) (faultM 0x0020)

/-- TIME_PAGE_WRITE (R94): every 1 µs, seq made odd, the body, seq made even again; the mirror in BAR4 takes the same
content. While request issue is held only the mirror changes. -/
def execTimePageWrite (fn : Nat) (utc : Option (Nat × Bool × Bool)) (s : State) : Res :=
  match Tab.look s.pages fn with
  | none => .next s
  | some p =>
    let d := (s.after p.nextAt).draw 64
    let e := d.2.draw 64
    let s1 := e.2
    let seq := (p.seq + 2) % 2 ^ 32
    let body := s1.pageBytes fn seq d.1 e.1 utc
    let s2 := { s1 with pages := Tab.put s1.pages fn ⟨seq, body, p.nextAt + usT⟩ }
    if s2.issueHeld fn none then .next s2
    else
      let w1 := s2.pageWrite fn 0 (leBytes 4 (p.seq + 1))
      if !w1.2 then .next (w1.1.pageDenied fn)
      else
        let w2 := w1.1.pageWrite fn 4 (body.drop 4)
        if !w2.2 then .next (w2.1.pageDenied fn)
        else
          let w3 := w2.1.pageWrite fn 0 (leBytes 4 seq)
          .next (if w3.2 then w3.1 else w3.1.pageDenied fn)

/-! ### The island's own reset (R97) -/

/-- The island as R97 or a P reset leaves it: its registers, counters and mirror at reset, the calibration kept. -/
def State.islandReset (s : State) : State :=
  let kept (k : Nat) : Bool := match allRegs[k / 16777216]? with
    | some r => !(decide (r.row.block = 4) && decide (r.row.resets = [.p]) && !r.row.m)
    | none => true
  { s with regs := s.regs.filter fun p => kept p.1, island := IslandSt.reset s.tnow }

/-- ISLAND_RESET (R97): a write of TSV_ISLAND_RESET with go acts only with the key. -/
def execIslandReset (init : Nat) (key : BitVec 16) (s : State) : Res :=
  let a := s.blockAccess 4 .write init 0x000C
  if !a.2 then .next a.1
  else if key = 0xC35A then .next a.1.crossTclk.islandReset else .next a.1

end Sys2Proof.Machine
end

