-- ==== Sys2Proof/Machine/Drt.lean ====
section
/-! DEFINITION. The meanings of the Drugrim commands: work entries, packets sent and received, timers, and the commands of
Table 8-10 (spec/08). -/

namespace Sys2Proof.Machine

/-! ### Work entries (R228, R229, R231, R233) -/

/-- The endpoint that a ring serves. -/
def State.ringEp (s : State) (num : Nat) : Option (Nat × DrtEp) := s.drt.eps.find? fun p => p.2.ring == num

/-- Is an entry of a ring already served by a record? -/
def State.entryTaken (s : State) (num idx : Nat) : Bool := s.drt.outs.any fun p => p.2.num == num && p.2.idx == idx

/-- May an entry start now (R233): every older entry of its ring has started, and a fenced one waits for their completion? -/
def State.workOrderOk (s : State) (num idx : Nat) (fence : Bool) : Bool :=
  match s.ring? 0 num with
  | none => false
  | some r =>
    let older := r.fetched.takeWhile fun p => p.1 != idx
    if fence then older.isEmpty else older.all fun p => s.entryTaken num p.1

/-- The whole message as waiting packets of a round: DATA packets not acknowledged, or one READ_REQ for each missing run of a
READ, at most 16, the last of which covers everything to the end (R231, R241, R246). -/
def missingRuns (acked n : Nat) : Nat → Nat → List (Nat × Nat)
  | 0, _ => []
  | k + 1, from_ =>
    match ((List.range n).drop from_).find? fun i => !natBit acked i with
    | none => []
    | some a =>
      if k = 0 then [(a, n - a)]
      else
        let e := (((List.range n).drop a).find? fun i => natBit acked i).getD n
        (a, e - a) :: missingRuns acked n k e

/-- Packets of an outbound message. -/
def OutRec.packets (x : OutRec) : Nat := drtPackets x.len x.size

/-- What a round sends. -/
def OutRec.roundItems (x : OutRec) (r round : Nat) : List DrtItem :=
  if x.op = 3 then (missingRuns x.acked x.packets 16 0).map fun q => .readReq r q.1 q.2 round
  else ((List.range x.packets).filter fun i => !natBit x.acked i).map fun i => .data r i round

/-- A message starts: an outbound record, its sequence and its packets of round 0 (R226, R231, R233). -/
def State.startMessage (s : State) (x : OutRec) (r : Nat) : State :=
  let q := s.nextMsgSeq
  let y := { x with msgSeq := q.1 }
  let s1 := { q.2 with drt := { q.2.drt with outs := Tab.put q.2.drt.outs r y } }.showDrt
  s1.drtPush y.remote (y.roundItems r 0)

/-- A work entry is taken (R228–R233): it completes at once, waits for its turn or a free record, or starts its message. `dest`
is what the read of its destination record returns. -/
def State.workEntry (s : State) (op num idx : Nat) (dest : List Byte) : State :=
  match s.ring? 0 num, s.fetchedEntry num idx with
  | some r, some e =>
    let b (i : Nat) : Nat := (e.getD i 0).toNat
    let irq := natBit (b 1) 0
    let eop := b 8
    let valid := eop == 1 || eop == 2 || eop == 3
    let done (u : State) (st : Nat) := u.completeEntry num idx irq st (zeroBytes 8 ++ u.stampNow)
    if r.kind ≠ 5 ∨ (valid = true ∧ eop ≠ op) ∨ s.entryTaken num idx = true ∨ s.mode = mSafeHold ∨ s.modes.dReset.isSome = true
        ∨ s.workOrderOk num idx (natBit (b 9) 2) = false ∨ s.issueHeld r.fn r.slice = true then s
    else
      match s.ringEp num with
      | none => done s stRefusedState
      | some (epId, ep) =>
        let size := if ep.jumbo then 8192 else 4096
        let len := leNat (sliceBytes e 20 4)
        let ref := leNat (sliceBytes e 12 4)
        if !valid || (natBit (b 9) 0 && eop != 2) || decide (4096 * size < len) || decide (ep.tblCount ≤ ref) then done s stMalformed
        else
          let a := ep.tblBase + 32 * ref
          let c := s.dmaCheck r.fn r.slice false a 32
          if !c.2 then done c.1 stAccessViolation
          else
            let s1 := c.1.issueRead r.fn r.slice a 32
            let d := fitBytes 32 (s1.dmaData r.fn a 32 dest)
            if !natBit (leNat (sliceBytes d 16 4)) 31 then done s1 stMalformed
            else if len = 0 ∧ eop ≠ 2 then done s1 stLenZero
            else if (s1.pubUnc 0).isNone then done s1 stTimeUnknown
            else if s1.seqOver then done s1 stKeyExhausted
            else if !s1.drtRuns then done s1 stRefusedState
            else
              match (Tab.look s1.drt.doms ep.domain).bind DrtDomain.cur, Tab.freeKey s1.drt.outs 0 65536 with
              | some (epoch, slot), some rec =>
                let remote := leNat (sliceBytes d 16 3)
                match s1.derivePair slot ep.domain epoch epId remote with
                | (s2, none) => done s2 (if (s2.keySlot slot).exhausted then stKeyExhausted else stAccessViolation)
                | (s2, some key) =>
                  s2.startMessage
                    { ep := epId, num := num, idx := idx, irqNow := irq, op := eop, remote := remote, peer := d.take 16,
                      domain := ep.domain, epoch := epoch, key := some key, msgSeq := 0, region := leNat (sliceBytes e 16 4),
                      offset := leNat (sliceBytes e 24 8), len := len, loc := leNat (sliceBytes e 32 8),
                      imm := leNat (sliceBytes e 40 8), nb := if natBit (b 9) 0 then leNat (sliceBytes e 48 8) else 0,
                      notify := natBit (b 9) 1, dscp := b 10 % 64, size := size, acked := 0, retx := 0, round := 0, timer := none,
                      deadline := s2.islandNs + s2.getF DRT_TIMER.lifetime * 10 ^ 6, sentU := [] } rec
              | none, _ => done s1 stMalformed
              | _, none => s
  | _, _ => s

/-- WRITE (R231). -/
def execDrtWrite (num idx : Nat) (dest : List Byte) (s : State) : Res := .next (s.workEntry 1 num idx dest)

/-- WRITE_IMM (R231). -/
def execDrtWriteImm (num idx : Nat) (dest : List Byte) (s : State) : Res := .next (s.workEntry 2 num idx dest)

/-- READ (R246). -/
def execDrtRead (num idx : Nat) (dest : List Byte) (s : State) : Res := .next (s.workEntry 3 num idx dest)

/-! ### Sending (R222–R226, R232, R257) -/

/-- The UDP source port of a packet of a message (R222, R232). -/
def State.drtPort (s : State) (msgSeq psn round : Nat) : Nat :=
  let p := 2 ^ min (s.getF DRT_CFG.paths_log2) 8
  0xC000 + s.getF DRT_CFG.salt % 64 * 256 + (msgSeq + psn + 17 * round) % p

/-- The header of a packet of an outbound message. -/
def OutRec.hdr (x : OutRec) (r kind psn round flags offset : Nat) : DrtHdr :=
  { kind := kind, flags := flags, attempt := round, status := 0, domain := x.domain, epoch := x.epoch, src := x.ep,
    dst := x.remote, pktSeq := 0, msgSeq := x.msgSeq, psn := psn, msgLen := x.len, region := x.region, offset := offset,
    txTime := 0, remaining := 0, uSrc := 0, outRec := r }

/-- The flags of DATA packet `psn` (R231, Table 8-2). -/
def OutRec.dataFlags (x : OutRec) (psn : Nat) : Nat :=
  let last := decide (psn + 1 = x.packets)
  b2n last + 2 * b2n (last && x.op == 2) + 4 * b2n (x.size == 8192) + 8 * b2n (x.op == 2) + 16 * b2n (last && x.op == 2 && x.notify)

/-- The size of the frame, with FCS, that carries a payload to an address. -/
def drtFrameLen (peer : List Byte) (n : Nat) : Nat := 14 + (if (mapped4 peer).isSome then 20 else 40) + 8 + 64 + n + 16 + 4

/-- Time passes until the token bucket of a destination is at 0 or above, which lets a packet of any length go (R257). -/
def State.paced (s : State) (d : Nat) : State :=
  let c := s.cong d
  let lvl := c.level s.now
  if 0 ≤ lvl then s else s.after (s.now + ceilDiv (-lvl).toNat (max c.rate 1))

/-- A frame is charged to its destination's bucket. -/
def State.payTokens (s : State) (d len : Nat) : State :=
  let c := s.cong d
  s.setCong d { c with tokens := c.level s.now - ((len * 8 * tokenBit : Nat) : Int), tokAt := s.now }

/-- A packet leaves: its sequence, times and uncertainty are filled in, it is sealed and injected (R222, R223, R225, R226). The
MAC addresses, the IPv4 identification, the half that injects and the DSCP of a reply are stated nowhere and are free. -/
def State.drtEmit (s : State) (h : DrtHdr) (via : DrtVia) (dscp : Option Nat) (deadline : Option Nat) (payload : List Byte) : State :=
  let s0 := s.payTokens h.dst (drtFrameLen via.peer payload.length)
  let q := s0.nextPktSeq
  let tx := q.2.islandNs
  let h1 := { h with pktSeq := q.1, txTime := tx, uSrc := unc16 (q.2.pubUnc 0),
                     remaining := (deadline.map fun d => d - tx).getD h.remaining }
  let ds := q.2.draw 6
  let m := ds.2.drawBytes 12
  let i := m.2.draw 16
  let half := i.2.draw 1
  let sealed := gcmSeal via.key h1.iv h1.bytes payload
  let f := drtFrame m.1 i.1 (dscp.getD ds.1) via.mine via.peer via.port (s.getF DRT_CFG.udp_port) (h1.bytes ++ sealed)
  let k := half.2.newPkt (Pkt.ofFrame (10 + half.1) (2 + half.1) f)
  (k.2.pushLst .inject (2 + half.1) k.1).drtCount 0

/-- A record notes a packet that it has sent: the timer of the round starts with its first, and a retransmission is counted. -/
def State.noteSent (s : State) (r round : Nat) : State :=
  match Tab.look s.drt.outs r with
  | none => s
  | some x =>
    let y := { x with timer := some (x.timer.getD s.now), retx := x.retx + (if round = 0 then 0 else 1),
                      sentU := Tab.put x.sentU s.islandNs (unc16 (s.pubUnc 0)) }
    let s1 := { s with drt := { s.drt with outs := Tab.put s.drt.outs r y } }
    if round = 0 then s1 else s1.drtCount 1

/-- DATA packet `psn` of a record is sent with the bytes that the read of the local buffer returns. -/
def State.sendData (s : State) (r psn round : Nat) (x : OutRec) (given : List Byte) : State :=
  let n := drtDataLen x.len x.size psn
  let a := x.loc + psn * x.size
  let f := s.drtFn (((Tab.look s.drt.eps x.ep).map DrtEp.slice).getD noSlice)
  let backend := (if nveRing ≤ x.num then Tab.look s.nve.msgs (x.num - nveRing) else none).map NveMsg.data
  let c := if n = 0 ∨ backend.isSome = true then (s, true) else s.dmaCheck f.1 (drtDma f) false a n
  if !c.2 then c.1.endOut r stAccessViolation 0
  else
    let s1 := if n = 0 ∨ backend.isSome = true then c.1 else c.1.issueRead f.1 (drtDma f) a n
    let d := match backend with
      | some m => fitBytes n (m.drop (psn * x.size))
      | none => fitBytes n (s1.dmaData f.1 a n given)
    let flags := x.dataFlags psn
    let ext := if natBit flags 1 then beBytes 8 x.imm ++ beBytes 8 x.nb else []
    let h := x.hdr r 1 psn round flags (x.offset + psn * x.size)
    let mine := ((Tab.look s.drt.eps x.ep).map DrtEp.addr).getD []
    let via : DrtVia := ⟨x.key.getD 0, mine, x.peer, s.drtPort x.msgSeq psn round⟩
    (s1.drtEmit h via (some x.dscp) (some x.deadline) (ext ++ d)).noteSent r round

/-- A READ_REQ of a record is sent. -/
def State.sendReadReq (s : State) (r first count round : Nat) (x : OutRec) : State :=
  let h := x.hdr r 2 first round (4 * b2n (x.size == 8192)) x.offset
  let mine := ((Tab.look s.drt.eps x.ep).map DrtEp.addr).getD []
  let via : DrtVia := ⟨x.key.getD 0, mine, x.peer, s.drtPort x.msgSeq first round⟩
  (s.drtEmit h via (some x.dscp) (some x.deadline) (beBytes 2 count ++ zeroBytes 6)).noteSent r round

/-- One READ_RESP of a request is sent with the bytes that the read of the region returns; a denied read ends the request with
an ERROR (R246, R250). -/
def State.sendReadResp (s : State) (h : DrtHdr) (via : DrtVia) (psn : Nat) (given : List Byte) : State :=
  match s.region? h.region with
  | none => s
  | some g =>
    let n := drtDataLen h.msgLen h.size psn
    let a := g.base + h.offset + psn * h.size
    let f := s.drtFn g.slice
    let c := if g.bad then (s, false) else s.dmaCheck f.1 (drtDma f) false a n
    if !c.2 then
      let st := if g.bad then stRemoteAccessViolation else stAccessViolation
      let reason := if g.bad then 1 else 7
      let rest := (c.1.drtQueue h.src).filter fun i => match i with | .readResp k _ _ => k != h | _ => true
      let s1 := ((c.1.setDrtQueue h.src rest).sendError h via st reason).drtCount 8
      s1.drtEvent h.dst 0x50 (drtBody stRemoteAccessViolation reason 0 h.src h.msgSeq h.region h.dst)
    else
      let s1 := c.1.issueRead f.1 (drtDma f) a n
      let last := decide (psn + 1 = drtPackets h.msgLen h.size)
      let h1 := { h with kind := 3, flags := b2n last + 4 * b2n (h.flag 2), status := 0, src := h.dst, dst := h.src, psn := psn,
                         offset := h.offset + psn * h.size }
      s1.drtEmit h1 { via with port := s.drtPort h.msgSeq psn h.attempt } none (some (h.txTime + h.remaining))
        (fitBytes n (s1.dmaData f.1 a n given))

/-- DRUGRIM_PACKET_SEND (R257): the packet that waits first for a destination is sent when its token bucket allows; `given` is
what a read of memory for it returns. A packet of a finished message, one already acknowledged and one past its deadline
are dropped; a message's packets wait while time is unknown (R233). -/
def execDrugrimPacketSend (dst : BitVec 24) (given : List Byte) (s : State) : Res :=
  if !s.drtRuns || s.seqOver then .next s
  else match (s.paced dst.toNat).drtQueue dst.toNat with
  | [] => .next s
  | i :: rest =>
    let s := s.paced dst.toNat
    let s1 := s.setDrtQueue dst.toNat rest
    let ofRec (r : Nat) (f : OutRec → State) : Res :=
      match Tab.look s.drt.outs r with
      | none => .next s1
      | some x =>
        if x.deadline < s.islandNs then .next s1
        else if (s.pubUnc 0).isNone then .next s
        else .next (f x)
    match i with
    | .data r psn round => ofRec r fun x => if natBit x.acked psn then s1 else s1.sendData r psn round x given
    | .readReq r first count round => ofRec r fun x => s1.sendReadReq r first count round x
    | .readResp h via psn => .next (s1.sendReadResp h via psn given)
    | .ctl h via payload => .next (s1.drtEmit h via none none payload)

/-! ### Receiving (R227) -/

/-- T_stale of a packet in 0.25 ns (R243). -/
def State.staleAt (s : State) (h : DrtHdr) : Nat := 4 * (h.txTime + h.remaining + s.getF DRT_TIMER.max_age * 1000) + h.uSrc

/-- Check 2: the DRT_CNT kind under which a DATA or READ_REQ packet is dropped. -/
def State.timeCheck (s : State) (h : DrtHdr) : Option Nat :=
  if s.earliest.isNone then some 9
  else if h.uSrc = 0xFFFF ∨ 100000000 < h.remaining then some 14
  else if s.hasPassed (s.staleAt h) then some 4
  else none

/-- The key slot of a domain's epoch (check 3). -/
def State.epochSlot (s : State) (dom epoch : Nat) : Option Nat :=
  (Tab.look s.drt.doms dom).bind fun d => ([d.cur, d.next, d.prev].filterMap id).findSome? fun p => if p.1 = epoch then some p.2 else none

/-- A failed integrity check is counted and reported to the configuration owner, at most once per ms (R252). -/
def State.authFail (s : State) (h : DrtHdr) : State :=
  let s1 := s.drtCount 6
  let n := s.drt.authFails + 1
  let due := match s.drt.authAt with | some t => decide (t + msT ≤ s.now) | none => true
  if due then
    ({ s1 with drt := { s1.drt with authFails := 0, authAt := some s.now } }).postEvent .owner
      ⟨0x55, none, drtBody 0 0 0 h.src n h.region h.dst⟩
  else { s1 with drt := { s1.drt with authFails := n } }

/-- A packet of one kind is received: outside the modes that run the transport it is dropped as rx_malformed, as is one that
fails check 1; SAFE_HOLD and a D reset take nothing. -/
def State.drtArrive (s : State) (kind : Nat) (frame : List Byte) (trunc : Bool) (f : State → DrtRx → State) : Res :=
  if s.mode = mSafeHold ∨ s.modes.dReset.isSome = true then .next s
  else
    match drtParse (s.getF DRT_CFG.udp_port) frame with
    | none => .next ((s.drtCount 2).drtCount 14)
    | some x =>
      if !s.drtRuns || trunc then .next ((s.drtCount 2).drtCount 14)
      else if x.hdr.kind ≠ kind then .next s
      else .next (f (s.drtCount 2) x)

/-- Checks 2 to 5 of a DATA or READ_REQ packet: the key is that of its record, or derived; the payload and the endpoint go on. -/
def State.admitPacket (s : State) (x : DrtRx) (f : State → DrtVia → List Byte → DrtEp → State) : State :=
  let h := x.hdr
  match s.timeCheck h with
  | some k => s.drtCount k
  | none =>
    match s.epochSlot h.domain h.epoch with
    | none => s.drtCount 7
    | some slot =>
      let known := if h.kind = 1 then ((Tab.look s.drt.ins (msgKey h.src h.msgSeq)).filter fun y =>
          y.last.domain == h.domain && y.last.epoch == h.epoch && y.last.dst == h.dst).map fun y => y.via.key else none
      let d := match known with
        | some k => (s, some k)
        | none => s.derivePair slot h.domain h.epoch h.src h.dst
      match d with
      | (s1, none) => s1.drtCount 7
      | (s1, some key) =>
        match gcmOpen key h.iv x.aad x.body with
        | none => s1.authFail h
        | some pay =>
          let via : DrtVia := ⟨key, x.mine, x.peer, x.port⟩
          match Tab.look s1.drt.eps h.dst with
          | some e => if e.domain = h.domain then f s1 via pay e else (s1.drtCount 13).sendError h via stNoEndpoint 0
          | none => (s1.drtCount 13).sendError h via stNoEndpoint 0

/-- The region check of a packet for a range from its offset: 0, or the reason of Table 8-8. -/
def State.regionReason (s : State) (h : DrtHdr) (e : DrtEp) (write : Bool) (n : Nat) : Nat :=
  match s.region? h.region with
  | none => 1
  | some g =>
    if g.bad then 1 else if g.domain ≠ h.domain then 2 else if g.slice ≠ e.slice then 3
    else if (if write then g.wr else g.rd) = false then 4
    else if g.len < h.offset + n then 5 else 0

/-! ### DATA (R234–R239) -/

/-- The payload of an ACK (Table 8-4). -/
def ackPayload (cum : Nat) (complete : Bool) (uRx echoTx echoRx map : Nat) : List Byte :=
  beBytes 2 cum ++ beBytes 1 (b2n complete) ++ [0] ++ beBytes 2 uRx ++ [0, 0] ++ beBytes 8 echoTx ++ beBytes 8 echoRx ++ leBytes 32 map

/-- The first packet of a bitmap that is missing. -/
def firstMissing (bits n : Nat) : Nat := ((List.range n).find? fun i => !natBit bits i).getD n

/-- Packets of an inbound message. -/
def InRec.packets (x : InRec) : Nat := drtPackets x.last.msgLen x.last.size

/-- Is every packet of a message received? -/
def InRec.full (x : InRec) : Bool := firstMissing x.bits x.packets == x.packets

/-- A record sends an ACK (R239): what it owes is covered. -/
def State.sendAck (s : State) (k : Nat) (x : InRec) : State :=
  let cum := firstMissing x.bits x.packets
  let pay := ackPayload cum x.full x.uRx x.echoTx x.echoRx (x.bits / 2 ^ (cum + 1) % 2 ^ 256)
  let s1 := s.drtPush x.last.src [.ctl (x.last.answer 4 0) x.via pay]
  if Tab.has s1.drt.ins k then
    { s1 with drt := { s1.drt with ins := Tab.put s1.drt.ins k { x with sinceAck := 0, ackAt := none } } }
  else s1

/-- A packet that matches a tombstone is answered with what became of its message (R239, R244), or dropped where the tombstone's word is bad (R261). The echo of an ACK for a message
that is gone is stated nowhere and is free. -/
def State.tombReply (s : State) (h : DrtHdr) (via : DrtVia) (t : DrtTomb) : State :=
  if t.bad then s
  else if t.status = stOk then
    let a := s.draw 16
    let b := a.2.draw 64
    let c := b.2.draw 64
    c.2.drtPush h.src [.ctl (h.answer 4 0) via (ackPayload (drtPackets h.msgLen h.size) true a.1 b.1 c.1 0)]
  else s.sendError h via t.status t.reason

/-- A record that an admitted DATA packet creates. -/
def State.newIn (s : State) (h : DrtHdr) (via : DrtVia) (idx : Nat) : InRec :=
  { idx := idx, st := .receiving, last := h, via := via, bits := 0, tStale := s.staleAt h, imm := 0, nb := 0, notify := false,
    sinceAck := 0, ackAt := none, echoTx := 0, echoRx := 0, uRx := 0, filledAt := 0, status := 0, reason := 0 }

/-- The bitmap has filled: the ACK goes at once, and the message is done or HELD (R236–R239). -/
def State.fillIn (s : State) (k : Nat) (x : InRec) : State :=
  let s1 := s.sendAck k x
  let y := { x with sinceAck := 0, ackAt := none, filledAt := s.now }
  if x.last.flag 3 && x.nb != 0 && !s.hasPassed (4 * x.nb) then
    let s2 := { s1 with drt := { s1.drt with ins := Tab.put s1.drt.ins k { y with st := .held } } }
    if x.notify then s2.drtEvent x.last.dst 0x52
      (drtBody stNotBeforePending 0 0 x.last.src x.last.msgSeq x.last.region x.last.dst) else s2
  else s1.finishIn k y stOk

/-- An admitted packet is placed in its record's message: not-before range, placement, and the ACK it causes (R235–R239). -/
def State.placeData (s : State) (k : Nat) (x0 : InRec) (h : DrtHdr) (via : DrtVia) (pay : List Byte) (e : DrtEp) : State :=
  let ext := h.flag 1
  let data := if ext then pay.drop 16 else pay
  let imm := if ext then beNat (pay.take 8) else x0.imm
  let nb := if ext then beNat (sliceBytes pay 8 8) else x0.nb
  let stale := max x0.tStale (s.staleAt h)
  let x := { x0 with last := h, via := via, tStale := stale, imm := imm, nb := nb,
                     notify := if h.flag 0 then h.flag 4 else x0.notify }
  let late := ext && nb != 0 && decide (s.latest.getD 0 + 4 * 10 ^ 6 * s.getF DRT_TIMER.nb_max < 4 * nb)
  if late then s.failIn h via stale stNbRange 0 (some x)
  else
    let a := ((s.region? h.region).map DrtRegion.base).getD 0 + h.offset
    let f := s.drtFn e.slice
    let c := if data.isEmpty then (s, true) else s.dmaCheck f.1 (drtDma f) true a data.length
    if !c.2 then c.1.failIn h via stale stAccessViolation 7 (some x)
    else
      let s1 := if data.isEmpty then c.1 else c.1.issueWrite f.1 (drtDma f) a data
      let dup := natBit x0.bits h.psn
      let y := { x with bits := natSetBit x0.bits h.psn true, sinceAck := x0.sinceAck + 1,
                        ackAt := some (x0.ackAt.getD s.now), echoTx := h.txTime, echoRx := s.islandNs, uRx := unc16 (s.pubUnc 0) }
      let s2 := { s1 with drt := { s1.drt with ins := Tab.put s1.drt.ins k y } }.showDrt
      let s3 := if dup then s2.drtCount 3 else s2
      if !dup && y.full then s3.fillIn k y
      else if 16 ≤ y.sinceAck then s3.sendAck k y
      else s3

/-- An admitted DATA packet is matched to a record or a tombstone, or creates a record (R234, R244, R245, R247). -/
def State.matchData (s : State) (h : DrtHdr) (via : DrtVia) (pay : List Byte) (e : DrtEp) : State :=
  let k := msgKey h.src h.msgSeq
  let n := drtDataLen h.msgLen h.size h.psn
  let reason := if n = 0 then 0 else s.regionReason h e true n
  match Tab.look s.drt.ins k with
  | some x =>
    match x.st with
    | .finished => s.tombReply h via ⟨x.tStale, x.status, x.reason, false⟩
    | .held => if reason ≠ 0 then s.sendAck k x else s.placeData k x h via pay e
    | .receiving =>
      if reason ≠ 0 then s.failIn h via (max x.tStale (s.staleAt h)) stRemoteAccessViolation reason (some x)
      else s.placeData k x h via pay e
  | none =>
    match Tab.look s.drt.tombs k with
    | some t => s.tombReply h via t
    | none =>
      match Tab.freeKey (s.drt.ins.foldl (fun (t : Tab Unit) p => Tab.put t p.2.idx ()) []) 0 65536 with
      | none => s.drtCount 5
      | some idx =>
        if s.flag DRT_STATUS.settling then s.drtCount 5
        else if reason ≠ 0 then s.failIn h via (s.staleAt h) stRemoteAccessViolation reason (some (s.newIn h via idx))
        else s.placeData k (s.newIn h via idx) h via pay e

/-- DATA_RECEIVE (R227, R234–R239, R247, R250). -/
def execDataReceive (frame : List Byte) (trunc : Bool) (s : State) : Res :=
  s.drtArrive 1 frame trunc fun u x => u.admitPacket x fun v via pay e => v.matchData x.hdr via pay e

/-- READ_REQ_RECEIVE (R246): the range is checked, and one READ_RESP for each requested packet waits to be sent. -/
def execReadReqReceive (frame : List Byte) (trunc : Bool) (s : State) : Res :=
  s.drtArrive 2 frame trunc fun u x => u.admitPacket x fun v via pay e =>
    let h := x.hdr
    let reason := v.regionReason h e false h.msgLen
    if reason ≠ 0 then
      ((v.sendError h via stRemoteAccessViolation reason).drtCount 8).drtEvent h.dst 0x50
        (drtBody stRemoteAccessViolation reason 0 h.src h.msgSeq h.region h.dst)
    else
      let n := drtPackets h.msgLen h.size
      let psns := (List.range n).filter fun i => decide (h.psn ≤ i ∧ i < h.psn + beNat (pay.take 2))
      v.drtPush h.src (psns.map fun i => .readResp h via i)

/-- ACK_TIMER (R239): 2 µs after the earliest placement that no ACK covers. -/
def execAckTimer (src : BitVec 24) (msgSeq : BitVec 48) (s : State) : Res :=
  let k := msgKey src.toNat msgSeq.toNat
  match Tab.look s.drt.ins k with
  | none => .next s
  | some x =>
    match x.ackAt with
    | none => .next s
    | some t => if s.drtRuns then .next ((s.after (t + 2 * usT)).sendAck k x) else .next s

/-! ### ACK, ERROR and READ_RESP (R240, R246, R255) -/

/-- The outbound record that a packet answers, if its key proves the packet. -/
def State.answered (s : State) (x : DrtRx) (f : State → OutRec → List Byte → State) : State :=
  if (s.epochSlot x.hdr.domain x.hdr.epoch).isNone then s.drtCount 7
  else match Tab.look s.drt.outs x.hdr.outRec with
  | none => s
  | some r =>
    if r.msgSeq ≠ x.hdr.msgSeq ∨ r.ep ≠ x.hdr.dst ∨ r.remote ≠ x.hdr.src then s
    else if r.domain ≠ x.hdr.domain ∨ r.epoch ≠ x.hdr.epoch then s.authFail x.hdr
    else
      match gcmOpen (r.key.getD 0) x.hdr.iv x.aad x.body with
      | none => s.authFail x.hdr
      | some pay => f s r pay

/-- A record that has made progress: its timer restarts. -/
def State.setOut (s : State) (r : Nat) (x : OutRec) (progress : Bool) : State :=
  let y := { x with timer := if progress && x.timer.isSome then some s.now else x.timer }
  { s with drt := { s.drt with outs := Tab.put s.drt.outs r y } }

/-- ACK_RECEIVE (R240, R255). -/
def execAckReceive (frame : List Byte) (trunc : Bool) (s : State) : Res :=
  s.drtArrive 4 frame trunc fun u x => u.answered x fun v r pay =>
    if r.op = 3 then v
    else
      let cum := beNat (pay.take 2)
      let complete := natBit (pay.getD 2 0).toNat 0
      let uRx := beNat (sliceBytes pay 4 2)
      let echoTx := beNat (sliceBytes pay 8 8)
      let echoRx := beNat (sliceBytes pay 16 8)
      let got := (2 ^ cum - 1) ||| leNat (sliceBytes pay 24 32) * 2 ^ (cum + 1)
      let acked := (r.acked ||| got) % 2 ^ r.packets
      let rtt : Int := (v.islandNs : Int) - echoTx
      let unc := Tab.getD 0xFFFF r.sentU echoTx + uRx
      let owd : Int := if 4 * v.getF DRT_CC_CFG.max_unc < unc then rtt / 2 else (echoRx : Int) - echoTx
      let v1 := (v.congAck r.remote rtt owd).setOut x.hdr.outRec { r with acked := acked } (acked != r.acked)
      if complete then v1.endOut x.hdr.outRec stOk 0 else v1

/-- ERROR_RECEIVE (R240). -/
def execErrorReceive (frame : List Byte) (trunc : Bool) (s : State) : Res :=
  s.drtArrive 5 frame trunc fun u x => u.answered x fun v _ pay => v.endOut x.hdr.outRec x.hdr.status (pay.getD 0 0).toNat

/-- READ_RESP_RECEIVE (R246): a response of the record's message is placed; the READ completes when every packet has come. -/
def execReadRespReceive (frame : List Byte) (trunc : Bool) (s : State) : Res :=
  s.drtArrive 3 frame trunc fun u x => u.answered x fun v r pay =>
    if r.op ≠ 3 ∨ r.packets ≤ x.hdr.psn then v
    else
      let a := r.loc + x.hdr.psn * r.size
      let f := v.drtFn (((Tab.look v.drt.eps r.ep).map DrtEp.slice).getD noSlice)
      let own := decide (nveRing ≤ r.num)
      let c := if own then (v, true) else v.dmaCheck f.1 (drtDma f) true a pay.length
      if !c.2 then c.1.endOut x.hdr.outRec stAccessViolation 0
      else
        let acked := natSetBit r.acked x.hdr.psn true
        let place (m : NveMsg) : NveMsg :=
          { m with data := m.data.take (x.hdr.psn * r.size) ++ pay ++ m.data.drop (x.hdr.psn * r.size + pay.length) }
        let v0 := if own then { c.1 with nve := { c.1.nve with msgs := Tab.modify c.1.nve.msgs (r.num - nveRing) place } }
          else c.1.issueWrite f.1 (drtDma f) a pay
        let v1 := v0.setOut x.hdr.outRec { r with acked := acked } (acked != r.acked)
        if firstMissing acked r.packets = r.packets then v1.endOut x.hdr.outRec stOk 0 else v1

/-! ### Timers (R233, R238, R241, R243–R245) -/

/-- The timeout of a record's round in ns (R241). -/
def State.roundTimeout (s : State) (x : OutRec) : Nat :=
  let lo := s.getF DRT_TIMER.rto_min * 1000
  let hi := max lo (s.getF DRT_TIMER.rto_max * 1000)
  let rto := match (Tab.look s.drt.cong x.remote).bind DrtCong.srtt with
    | some v => max lo (2 * v).toNat
    | none => lo
  min hi (rto * 2 ^ x.round)

/-- RETRANSMIT_TIMEOUT (R241, R256): a record's timer expires; a new round, or TIMEOUT after round 16. -/
def execRetransmitTimeout (r : Fin 65536) (s : State) : Res :=
  match Tab.look s.drt.outs r.val with
  | none => .next s
  | some x =>
    match x.timer with
    | none => .next s
    | some t =>
      if !s.drtRuns then .next s
      else
        let s1 := (s.after (t + s.roundTimeout x * nsT)).congTimeout x.remote
        if 16 ≤ x.round then .next (s1.endOut r.val stTimeout 0)
        else
          let y := { x with round := x.round + 1, timer := none }
          let s2 := s1.drtUnqueue r.val
          .next ({ s2 with drt := { s2.drt with outs := Tab.put s2.drt.outs r.val y } }.drtPush x.remote (y.roundItems r.val y.round))

/-- MESSAGE_DEADLINE (R233): the deadline of a message ends it with TIMEOUT. -/
def execMessageDeadline (r : Fin 65536) (s : State) : Res :=
  match Tab.look s.drt.outs r.val with
  | none => .next s
  | some x => if s.drtRuns then .next ((s.afterNs x.deadline).endOut r.val stTimeout 0) else .next s

/-- RECORD_EXPIRE (R236): T_stale has passed for a message still RECEIVING. -/
def execRecordExpire (src : BitVec 24) (msgSeq : BitVec 48) (s : State) : Res :=
  let k := msgKey src.toNat msgSeq.toNat
  match Tab.look s.drt.ins k with
  | none => .next s
  | some x =>
    if x.st = .receiving ∧ s.hasPassed x.tStale = true ∧ s.drtRuns = true then
      let s1 := (s.dropIn k).drtCount 12
      .next (if x.last.flag 3 then s1.drtEvent x.last.dst 0x51
        (drtBody stTimeout 0 0 x.last.src x.last.msgSeq x.last.region x.last.dst) else s1)
    else .next s

/-- NOT_BEFORE_RELEASE (R237): the not-before time of a HELD message has passed. -/
def execNotBeforeRelease (src : BitVec 24) (msgSeq : BitVec 48) (s : State) : Res :=
  let k := msgKey src.toNat msgSeq.toNat
  match Tab.look s.drt.ins k with
  | none => .next s
  | some x =>
    if x.st = .held ∧ s.hasPassed (4 * x.nb) = true ∧ s.drtRuns = true then .next (s.finishIn k x stOk) else .next s

/-- HELD_TIMEOUT (R238): 2 × nb_max after its bitmap filled, a message that time has not released is released with TIMEOUT. -/
def execHeldTimeout (src : BitVec 24) (msgSeq : BitVec 48) (s : State) : Res :=
  let k := msgKey src.toNat msgSeq.toNat
  match Tab.look s.drt.ins k with
  | none => .next s
  | some x =>
    if x.st = .held ∧ s.drtRuns = true then
      let s1 := s.after (x.filledAt + 2 * s.getF DRT_TIMER.nb_max * msT)
      let passed := match s1.pubUnc 0 with
        | some u => decide (4 * x.nb + u < s1.timeNow / 2 ^ 14)
        | none => false
      .next (s1.finishIn k x (if passed then stOk else stTimeout))
    else .next s

/-- TOMBSTONE_FREE (R244): a tombstone whose T_stale has passed is freed, and a finished record that waits takes its place. -/
def execTombstoneFree (src : BitVec 24) (msgSeq : BitVec 48) (s : State) : Res :=
  let k := msgKey src.toNat msgSeq.toNat
  match Tab.look s.drt.tombs k with
  | none => .next s
  | some t =>
    if !s.hasPassed t.tStale then .next s
    else
      let s1 := { s with drt := { s.drt with tombs := Tab.del s.drt.tombs k } }.showDrt
      match s1.drt.ins.find? fun p => p.2.st == .finished with
      | some (j, x) => .next (s1.bury j ⟨x.tStale, x.status, x.reason, false⟩ (some x))
      | none => .next s1

/-- SETTLE_END (R245): the earliest-possible time passes the settle point, which a P reset leaves open until time
is known. -/
def execSettleEnd (s : State) : Res :=
  if !s.flag DRT_STATUS.settling || s.drt.settleLater then .next s
  else if s.hasPassed s.drt.settle then .next (s.setF DRT_STATUS.settling 0)
  else .next s

/-! ### Commands (R262, Table 8-10) -/

/-- A Drugrim command's inputs: words d0 to d5 and a handle. -/
structure DrtArgs where
  d : List Nat
  handle : Nat
deriving DecidableEq, Repr

/-- A field of an input word. -/
def DrtArgs.f (a : DrtArgs) (w hi lo : Nat) : Nat := nbits (a.d.getD w 0) hi lo

/-- A Drugrim command is taken from DRT_CMD or from a fetched CONTROL entry (Table 11-5). -/
def State.drtTake (s : State) (o : Origin) (op : Nat) : State × Option DrtArgs :=
  match o with
  | .reg init =>
    let a := s.blockAccess 14 .write init 0x20
    if !a.2 || a.1.flag DRT_CMD.busy then (a.1, none)
    else (a.1.setF DRT_CMD.op op, some ⟨(List.range 6).map fun i => (a.1.reg .DRT_CMD_DATA i).toNat, a.1.getF DRT_CMD.handle⟩)
  | .ring num idx _ =>
    match s.ring? 0 num, s.fetchedEntry num idx with
    | some r, some e =>
      if r.kind ≠ 1 ∨ (e.getD 8 0).toNat ≠ 0x30 ∨ (e.getD 9 0).toNat ≠ op then (s, none)
      else (s, some ⟨(List.range 6).map fun i => leNat (sliceBytes e (16 + 8 * i) 8), leNat (sliceBytes e 12 4)⟩)
    | _, _ => (s, none)

/-- A Drugrim command completes. -/
def State.drtEnd (s : State) (o : Origin) (status : Nat) (body : List Byte := []) : State :=
  match o with
  | .reg _ => s.setF DRT_CMD.result status
  | .ring _ _ _ => s.complete o status body

/-- May an origin give an operation at all (R262)? A slice's ring has only those on regions. -/
def State.drtMay (s : State) (o : Origin) (op : Nat) : Bool :=
  match o with
  | .reg init => s.isOwner init || decide (init < 0x20)
  | .ring _ _ _ =>
    match s.originSlice o with
    | some _ => op == 3 || op == 4 || op == 5
    | none => s.isOwner (s.originInit o) || decide (s.originInit o < 0x20)

/-- A Drugrim command: taken, permitted, then what it does. -/
def State.drtCommand (s : State) (o : Origin) (op : Nat) (f : State → DrtArgs → State) : Res :=
  match s.drtTake o op with
  | (s1, none) => .next s1
  | (s1, some a) => if s1.drtMay o op then .next (f s1 a) else .next (s1.drtEnd o stAccessViolation)

/-- EP_CREATE. -/
def execEpCreate (o : Origin) (s : State) : Res :=
  s.drtCommand o 1 fun u a =>
    let ep := a.f 0 63 40
    let g := a.f 0 39 26
    let dom := a.f 0 25 10
    let n := a.f 2 63 32
    let ring := a.f 2 31 16
    let kindOk := match u.ring? 0 ring with | some r => r.kind == 5 | none => false
    let domSet := ((Tab.look u.drt.doms dom).bind DrtDomain.cur).isSome
    if Tab.has u.drt.eps ep || !domSet || !kindOk || a.f 1 5 0 != 0 || n == 0 || decide (16777216 < n) then u.drtEnd o stMalformed
    else if 16384 ≤ u.drt.eps.length then u.drtEnd o stDrtFull
    else if g ≠ noSlice ∧ ((u.slice? g).map SliceRec.endpoints).getD 0 ≤ u.sliceEps g then u.drtEnd o stDrtQuota
    else
      let e : DrtEp := { slice := g, domain := dom, jumbo := natBit (a.f 0 63 0) 9, tblBase := a.f 1 63 0, tblCount := n, ring := ring,
                         addr := leBytes 8 (a.d.getD 3 0) ++ leBytes 8 (a.d.getD 4 0) }
      { u with drt := { u.drt with eps := Tab.put u.drt.eps ep e } }.drtEnd o stOk

/-- EP_DESTROY: its messages are squashed and it is removed. -/
def execEpDestroy (o : Origin) (s : State) : Res :=
  s.drtCommand o 2 fun u a =>
    let ep := a.f 0 63 40
    if !Tab.has u.drt.eps ep then u.drtEnd o stMalformed
    else
      let u1 := u.squashEps (fun e => e == ep) true
      { u1 with drt := { u1.drt with eps := Tab.del u1.drt.eps ep } }.drtEnd o stOk

/-- May a slice's ring act on regions of a slice and domain (R262)? -/
def State.regionMay (s : State) (o : Origin) (g dom : Nat) : Bool :=
  match s.originSlice o with
  | none => true
  | some m => m == g && s.drt.eps.any fun p => p.2.slice == m && p.2.domain == dom

/-- REGION_REG: a region takes the next free index; its handle is answered. -/
def execRegionReg (o : Origin) (s : State) : Res :=
  s.drtCommand o 3 fun u a =>
    let g := a.f 0 63 50
    let dom := a.f 0 49 34
    let len := a.d.getD 2 0
    let idx := if u.drt.fresh < 2 ^ 20 then some u.drt.fresh else u.drt.freed.head?
    if !u.regionMay o g dom then u.drtEnd o stAccessViolation
    else if len = 0 ∨ 2 ^ 48 < len then u.drtEnd o stMalformed
    else if g ≠ noSlice ∧ ((u.slice? g).map SliceRec.regions).getD 0 ≤ u.sliceRegions g then u.drtEnd o stDrtQuota
    else
      match idx with
      | none => u.drtEnd o stDrtFull
      | some i =>
        let d := u.drt
        let fresh := decide (d.fresh < 2 ^ 20)
        let r : DrtRegion := { base := a.d.getD 1 0, len := len, slice := g, domain := dom, wr := natBit (a.d.getD 0 0) 33,
                               rd := natBit (a.d.getD 0 0) 32, bad := false }
        let u1 := u.setDrt { d with regions := Tab.put d.regions i r, fresh := if fresh then d.fresh + 1 else d.fresh,
                                    freed := if fresh then d.freed else d.freed.drop 1 }
        let handle := i * 2 ^ 12 + u.regionGen i
        match o with
        | .reg _ => (u1.setF DRT_CMD.handle handle).drtEnd o stOk
        | .ring _ _ _ => u1.drtEnd o stOk (leBytes 4 handle)

/-- REGION_REVOKE (R248). -/
def execRegionRevoke (o : Origin) (s : State) : Res :=
  s.drtCommand o 4 fun u a =>
    match u.region? a.handle with
    | none => u.drtEnd o stStaleHandle
    | some r => if u.regionMay o r.slice r.domain then (u.revokeRegion (a.handle / 2 ^ 12)).drtEnd o stOk else u.drtEnd o stAccessViolation

/-- REGION_READ; a region with an uncorrectable word reads as INVALID (R261). -/
def execRegionRead (o : Origin) (s : State) : Res :=
  s.drtCommand o 5 fun u a =>
    match u.region? a.handle with
    | none => u.drtEnd o stStaleHandle
    | some r =>
      let d0 := r.slice % 2 ^ 14 * 2 ^ 50 + r.domain % 2 ^ 16 * 2 ^ 34 + b2n r.wr * 2 ^ 33 + b2n r.rd * 2 ^ 32
      if !u.regionMay o r.slice r.domain then u.drtEnd o stAccessViolation
      else if r.bad then u.drtEnd o stStaleHandle
      else
        match o with
        | .reg _ =>
          (((u.setReg .DRT_CMD_DATA (BitVec.ofNat 64 d0) 0).setReg .DRT_CMD_DATA (BitVec.ofNat 64 r.base) 1).setReg .DRT_CMD_DATA
            (BitVec.ofNat 64 r.len) 2).drtEnd o stOk
        | .ring _ _ _ => u.drtEnd o stOk (leBytes 8 d0 ++ leBytes 8 r.base ++ leBytes 8 r.len)

/-- A domain. -/
def State.domain (s : State) (d : Nat) : DrtDomain := Tab.getD ⟨none, none, none⟩ s.drt.doms d

/-- A domain replaced. -/
def State.setDomain (s : State) (d : Nat) (x : DrtDomain) : State :=
  { s with drt := { s.drt with doms := Tab.setD ⟨none, none, none⟩ s.drt.doms d x } }

/-- Does a slot hold an AES-256 key? -/
def State.holdsAes256 (s : State) (n : Nat) : Bool := (s.keySlot n).valid && (s.keySlot n).len256

/-- DOMAIN_SET (R254). -/
def execDomainSet (o : Origin) (s : State) : Res :=
  s.drtCommand o 6 fun u a =>
    if u.holdsAes256 (a.f 0 31 16) then
      (u.setDomain (a.f 0 63 48) ⟨some (a.f 0 47 32, a.f 0 31 16), none, none⟩).drtEnd o stOk
    else u.drtEnd o stMalformed

/-- DOMAIN_NEXT (R254). -/
def execDomainNext (o : Origin) (s : State) : Res :=
  s.drtCommand o 7 fun u a =>
    let d := u.domain (a.f 0 63 48)
    let e := a.f 0 47 32
    if !u.holdsAes256 (a.f 0 31 16) || d.cur.map Prod.fst == some e || d.prev.map Prod.fst == some e then u.drtEnd o stMalformed
    else (u.setDomain (a.f 0 63 48) { d with next := some (e, a.f 0 31 16) }).drtEnd o stOk

/-- DOMAIN_PROMOTE (R254). -/
def execDomainPromote (o : Origin) (s : State) : Res :=
  s.drtCommand o 8 fun u a =>
    let n := a.f 0 63 48
    let d := u.domain n
    if d.next.isNone then u.drtEnd o stRefusedState
    else
      let u1 := u.setDomain n ⟨d.next, none, if natBit (a.d.getD 0 0) 0 then d.cur else d.prev⟩
      (u1.drtTellAll 0x54 stOk 3 0 (some n)).drtEnd o stOk

/-- DOMAIN_DROP_PREV (R254). -/
def execDomainDropPrev (o : Origin) (s : State) : Res :=
  s.drtCommand o 9 fun u a =>
    (u.setDomain (a.f 0 63 48) { u.domain (a.f 0 63 48) with prev := none }).drtEnd o stOk

/-- Replies that wait are never sent. -/
def State.dropReplies (s : State) : State := { s with drt := { s.drt with queues := [] } }

/-- TRANSPORT_DISABLE (R258): DRT_CFG.enable is written 0; outbound messages complete SQUASHED, inbound records are freed and
every endpoint is told. -/
def execTransportDisable (init : Nat) (s : State) : Res :=
  let a := s.blockAccess 14 .write init 0
  if !a.2 then .next a.1
  else .next ((a.1.setF DRT_CFG.enable 0).squashEps (fun _ => true) true).dropReplies.showTransport

end Sys2Proof.Machine
end

