-- ==== Sys2Proof/Machine/NveOps.lean ====
section
/-! DEFINITION. The NVMe functions as their commands and the rest of the module share them: controllers, completions, events,
the write buffer, and what resets, slices and modes do to them (spec/13). -/

namespace Sys2Proof.Machine

/-! ### Status (status code type × 256 + status code) -/

def nvOk : Nat := 0
def nvInvalidOpcode : Nat := 0x001
def nvInvalidField : Nat := 0x002
def nvCidConflict : Nat := 0x003
def nvTransferError : Nat := 0x004
def nvInternal : Nat := 0x006
def nvAbortRequested : Nat := 0x007
def nvSqDeleted : Nat := 0x008
def nvInvalidNs : Nat := 0x00B
def nvSequence : Nat := 0x00C
def nvPrpOffset : Nat := 0x013
def nvWriteProtected : Nat := 0x020
def nvLbaRange : Nat := 0x080
def nvCqInvalid : Nat := 0x100
def nvQid : Nat := 0x101
def nvQueueSize : Nat := 0x102
def nvAbortLimit : Nat := 0x103
def nvAerLimit : Nat := 0x105
def nvFwSlot : Nat := 0x106
def nvFwImage : Nat := 0x107
def nvVector : Nat := 0x108
def nvFwReset : Nat := 0x10B
def nvQueueDeletion : Nat := 0x10C
def nvNotSaveable : Nat := 0x10D
def nvFwProhibited : Nat := 0x113
def nvOverlap : Nat := 0x114
def nvWriteFault : Nat := 0x280
def nvReadError : Nat := 0x281

/-! ### Records -/

/-- A controller. -/
def State.ctrl? (s : State) (c : Nat) : Option NvmeCtrl := Tab.look s.nve.ctrls c

/-- A controller replaced. -/
def State.setCtrl (s : State) (c : Nat) (x : NvmeCtrl) : State := { s with nve := { s.nve with ctrls := Tab.put s.nve.ctrls c x } }

/-- NVE_CNT. -/
def State.nveCount (s : State) (k : Nat) (n : Nat := 1) : State := s.bump NVE_CNT.count k 0 n

/-- One KiB times 2^10: the unit of the buffer registers. -/
def mib : Nat := 1048576

/-- Bytes of a namespace's buffered writes. -/
def State.nsBuffered (s : State) (n : Nat) : Nat := ((s.nve.bufs.filter fun p => p.2.ns == n).map fun p => p.2.data.length).sum

/-- NVE_BUF_STATUS shows the buffer. -/
def State.showNve (s : State) : State :=
  let used := (s.nve.bufs.map fun p => p.2.data.length).sum
  let infl := Tab.count s.nve.msgs fun _ m => (match m.use with | .destage _ => true | _ => false)
    && (match m.st with | .inflight _ => true | _ => false)
  ((s.setF NVE_BUF_STATUS.used_mib (ceilDiv used mib)).setF NVE_BUF_STATUS.destage_inflight infl).setF NVE_BUF_STATUS.faulted
    (Tab.count s.nve.nss fun _ n => n.fault.isSome)

/-- A number of 4 bytes in a command or an entry. -/
def dwordAt (b : List Byte) (i : Nat) : Nat := leNat (sliceBytes b (4 * i) 4)

/-- Features as a reset leaves them (Table 13-4); the over-temperature threshold is that of the part, which no rule states. -/
def NvmeFeat.reset (hot maxIoq : Nat) : NvmeFeat :=
  { wce := true, ps := 0, hotAt := hot, coldAt := 0, grant := maxIoq, grantCq := maxIoq, coal := 0, noCoal := [], aec := 0,
    apste := false, apst := [] }

/-- A controller as an F or H reset leaves it. -/
def NvmeCtrl.reset (fn hot : Nat) : NvmeCtrl :=
  { fn := fn, cc := 0, rdy := false, cfs := false, shst := 0, aqa := 0, asq := 0, acq := 0, intms := 0, sqs := [], cqs := [],
    cmds := [], feat := NvmeFeat.reset hot 1, warn := 0, held := [], told := [], errs := [], smart := [], psBack := none,
    idleSince := 0, resetAt := none, shut := none, maxIoq := 1, fwEn := false, pieces := [] }

/-- CC.EN. -/
def NvmeCtrl.enabled (x : NvmeCtrl) : Bool := natBit x.cc 0

/-- The page size that CC.MPS selects. -/
def NvmeCtrl.page (x : NvmeCtrl) : Nat := 2 ^ (12 + x.cc / 128 % 16)

/-- A SMART counter plus `n`. -/
def NvmeCtrl.count (x : NvmeCtrl) (k n : Nat) : NvmeCtrl := { x with smart := Tab.put x.smart k (Tab.getD 0 x.smart k + n) }

/-- An entry in the error log of 64, the newest first (Table 13-5). -/
def NvmeCtrl.logError (x : NvmeCtrl) (sq cid status lba nsid : Nat) : NvmeCtrl :=
  let y := x.count 7 1
  { y with errs := (⟨Tab.getD 0 y.smart 7, sq, cid, status, lba, nsid⟩ :: x.errs).take 64 }

/-! ### Interrupts and completions (R371, R373) -/

/-- The interrupt of a completion queue (Table 13-1): a vector that INTMS masks waits while MSI is in use. -/
def State.cqSignal (s : State) (c q : Nat) : State :=
  match s.ctrl? c with
  | none => s
  | some x =>
    match Tab.look x.cqs q with
    | none => s
    | some k =>
      let s1 := s.setCtrl c { x with cqs := Tab.put x.cqs q { k with unsig := 0 } }
      let msix := ((s.fn? x.fn).map FnSt.msixEnable).getD false
      if !k.ien || k.unsig == 0 then s
      else if !msix && natBit x.intms (k.vec % 32) then s
      else s1.sendVector x.fn k.vec

/-- Does a completion queue's coalescing let it signal now (Table 13-4, FIDs 0x08 and 0x09)? -/
def NvmeCtrl.mustSignal (x : NvmeCtrl) (q : Nat) (k : NvmeCq) (now : Nat) : Bool :=
  q == 0 || x.feat.coal / 256 % 256 == 0 || x.feat.noCoal.contains k.vec || decide (x.feat.coal % 256 + 1 ≤ k.unsig)
    || decide (k.since + x.feat.coal / 256 % 256 * 100 * usT ≤ now)

/-- Completion queues whose entries may be signalled now signal: a coalescing time has run out, or a mask is gone. -/
def State.signalQueues (s : State) : State :=
  s.nve.ctrls.foldl (fun t p => p.2.cqs.foldl (fun u q =>
    if 0 < q.2.unsig ∧ p.2.mustSignal q.1 q.2 u.now = true then u.cqSignal p.1 q.1 else u) t) s

/-- Is there room for one more entry in a completion queue? -/
def NvmeCq.hasRoom (k : NvmeCq) : Bool := decide ((k.tail + 1) % k.size ≠ k.head)

/-- An entry is written to a queue with room, with its phase, and signalled. A write that the windows deny reaches nothing. -/
def State.cqWrite (s : State) (c q : Nat) (entry : List Byte) : State :=
  match s.ctrl? c with
  | none => s
  | some x =>
    match Tab.look x.cqs q with
    | none => s
    | some k =>
      let e := entry.take 14 ++ leBytes 2 (leNat (entry.drop 14) / 2 * 2 + b2n k.phase)
      let a := k.base + k.tail * 16
      let d := s.dmaCheck x.fn none true a 16
      let s1 := if d.2 then d.1.issueWrite x.fn none a e else d.1
      let t := (k.tail + 1) % k.size
      let k1 := { k with tail := t, phase := if t = 0 then !k.phase else k.phase, unsig := k.unsig + 1,
                         since := if k.unsig = 0 then s.now else k.since }
      let s2 := s1.setCtrl c { x with cqs := Tab.put x.cqs q k1 }
      if x.mustSignal q k1 s.now then s2.cqSignal c q else s2

/-- May a completion queue be written now, room apart? -/
def State.cqOpen (s : State) (c : Nat) : Bool :=
  match s.ctrl? c with
  | none => false
  | some x => !s.issueHeld x.fn none

/-- Is this the command of a queue and CID? -/
def NvmeCmd.is (m : NvmeCmd) (sq cid : Nat) : Bool := m.sq == sq && m.cid == cid

/-- The completion queue of a submission queue. -/
def NvmeCtrl.cqOf (x : NvmeCtrl) (sq : Nat) : Nat := ((Tab.look x.sqs sq).map NvmeSq.cq).getD 0

/-- An entry goes to its completion queue or to the stash of 16 behind it; not where the stash is full (R373). -/
def State.cqPost (s : State) (c q : Nat) (entry : List Byte) : Option State :=
  match s.ctrl? c with
  | none => some s
  | some x =>
    match Tab.look x.cqs q with
    | none => some s
    | some k =>
      if k.hasRoom && k.stash.isEmpty && s.cqOpen c then some (s.cqWrite c q entry)
      else if k.stash.length < 16 then some (s.setCtrl c { x with cqs := Tab.put x.cqs q { k with stash := k.stash ++ [entry] } })
      else none

/-- The 16 bytes of a completion, its phase still clear, and the state that has logged an error: every error but Invalid Command
Opcode. The M and DNR bits of an error are stated nowhere and are free. -/
def State.nvmeEntry (s : State) (c sq cid status dw0 : Nat) (sqe : List Byte) : List Byte × State :=
  match s.ctrl? c with
  | none => ([], s)
  | some x =>
    let d := if status = nvOk then (0, s) else s.draw 2
    let x1 := if status = nvOk ∨ status = nvInvalidOpcode then x
      else x.logError sq cid (status * 2) (leNat (sliceBytes sqe 40 8)) (dwordAt sqe 1)
    let x2 := if status = nvReadError then x1.count 6 1 else x1
    let head := ((Tab.look x.sqs sq).map NvmeSq.head).getD 0
    (leBytes 4 dw0 ++ zeroBytes 4 ++ leBytes 2 head ++ leBytes 2 sq ++ leBytes 2 cid ++ leBytes 2 (2 * status + 2 ^ 14 * d.1),
      d.2.setCtrl c { x2 with idleSince := s.now })

/-- A command completes (R371, R373): its entry is posted and its record freed, or waits in the record. -/
def State.nvmeEnd (s : State) (c sq cid status : Nat) (dw0 : Nat := 0) : State :=
  match s.ctrl? c with
  | none => s
  | some x =>
    let e := s.nvmeEntry c sq cid status dw0 (((x.cmds.find? fun m => m.is sq cid).map NvmeCmd.sqe).getD [])
    let on (u : State) (f : NvmeCtrl → NvmeCtrl) : State := match u.ctrl? c with
      | some y => u.setCtrl c (f y)
      | none => u
    match e.2.cqPost c (x.cqOf sq) e.1 with
    | some t => on t fun y => { y with cmds := y.cmds.filter fun m => !m.is sq cid }
    | none => on e.2 fun y => { y with cmds := y.cmds.map fun m => if m.is sq cid then { m with st := .done e.1 } else m }

/-- The first finished command of a completion queue that waits in its record. -/
def NvmeCtrl.firstDone (x : NvmeCtrl) (q : Nat) : Option (NvmeCmd × List Byte) :=
  x.cmds.findSome? fun m => match m.st with
    | .done e => if x.cqOf m.sq = q then some (m, e) else none
    | _ => none

/-- Stashed completions that fit are written, and finished commands move up behind them (R373). -/
def State.cqDrain (s : State) (c q : Nat) : Nat → State
  | 0 => s
  | fuel + 1 =>
    match s.ctrl? c with
    | none => s
    | some x =>
      match Tab.look x.cqs q with
      | none => s
      | some k =>
        match k.stash with
        | [] => s
        | e :: rest =>
          if k.hasRoom && s.cqOpen c then
            let k1 := { k with stash := rest }
            let x1 := match x.firstDone q with
              | some (m, e2) => { x with cmds := x.cmds.filter (fun n => !n.is m.sq m.cid),
                                         cqs := Tab.put x.cqs q { k1 with stash := rest ++ [e2] } }
              | none => { x with cqs := Tab.put x.cqs q k1 }
            State.cqDrain ((s.setCtrl c x1).cqWrite c q e) c q fuel
          else s

/-! ### Asynchronous events (R387) -/

/-- The DW0 of a temperature, reliability and firmware activation event. -/
def aerTemperature : Nat := 0x020101
def aerReliability : Nat := 0x020001
def aerFirmware : Nat := 0x030102

/-- The outstanding Asynchronous Event Request of a controller completes if it can. -/
def State.aerTry (s : State) (c : Nat) : State :=
  match s.ctrl? c with
  | none => s
  | some x =>
    match x.cmds.find? (fun m => m.st == .event), x.held.find? (fun d => !x.told.contains (d % 8)) with
    | some m, some d =>
      (s.setCtrl c { x with held := x.held.filter (· != d), told := d % 8 :: x.told }).nvmeEnd c m.sq m.cid nvOk d
    | _, _ => s

/-- An event occurs on a controller: nothing while its bit is clear in the Asynchronous Event Configuration, else it is held, one
for each type, until a request takes it. -/
def State.nvmeEvent (s : State) (c dw0 bit : Nat) : State :=
  match s.ctrl? c with
  | none => s
  | some x =>
    if !natBit x.feat.aec bit || x.held.any (fun d => d % 8 == dw0 % 8) then s
    else (s.setCtrl c { x with held := x.held ++ [dw0] }).aerTry c

/-- A Critical Warning bit takes a value; one that becomes set is an event. -/
def State.setWarn (s : State) (c bit : Nat) (on : Bool) : State :=
  match s.ctrl? c with
  | none => s
  | some x =>
    let s1 := s.setCtrl c { x with warn := natSetBit x.warn bit on }
    if on && !natBit x.warn bit then s1.nvmeEvent c (if bit = 1 then aerTemperature else aerReliability) bit else s1

/-- Namespaces attached to a controller: their indices and NSIDs. -/
def State.ctrlNss (s : State) (c : Nat) : List (Nat × Nat) :=
  s.nve.nss.filterMap fun p => match p.2.attached with
    | some (k, nsid) => if k = c then some (p.1, nsid) else none
    | none => none

/-- Bits 2 and 3 of the Critical Warning follow the namespaces of a controller; bit 2 becomes set only by its own event. -/
def State.showWarn (s : State) (c : Nat) : State :=
  let nss := (s.ctrlNss c).filterMap fun p => Tab.look s.nve.nss p.1
  let late := nss.any fun n => match n.failSince with | some t => decide (t + 10 * secT ≤ s.now) | none => false
  let s1 := if late then s else s.setWarn c 2 false
  s1.setWarn c 3 (nss.any fun n => n.fault.isSome || n.ro)

/-- Critical Warning bit 1 follows the composite temperature and the thresholds. -/
def State.showTemp (s : State) (c : Nat) : State :=
  match s.ctrl? c with
  | none => s
  | some x => s.setWarn c 1 (decide (x.feat.hotAt ≤ s.nve.temp) || decide (s.nve.temp ≤ x.feat.coldAt))

/-! ### Namespaces and the buffer (R368, R374–R376) -/

/-- A namespace. -/
def State.ns? (s : State) (n : Nat) : Option NvmeNs := Tab.look s.nve.nss n

/-- A namespace replaced. -/
def State.setNs (s : State) (n : Nat) (x : NvmeNs) : State := { s with nve := { s.nve with nss := Tab.put s.nve.nss n x } }.showNve

/-- Block size. -/
def NvmeNs.block (n : NvmeNs) : Nat := if n.big then 4096 else 512

/-- The namespace that an NSID of a controller names. -/
def State.nsOf (s : State) (c nsid : Nat) : Option (Nat × NvmeNs) :=
  s.nve.nss.find? fun p => p.2.attached == some (c, nsid)

/-- A namespace faults (R376, R381, R389). -/
def State.faultNs (s : State) (n status : Nat) : State :=
  match s.ns? n with
  | none => s
  | some x =>
    let s1 := s.setNs n { x with fault := some status }
    match x.attached with
    | none => s1
    | some (c, nsid) =>
      let s2 := match s1.ctrl? c with
        | some y => s1.setCtrl c (y.logError 0xFFFF 0xFFFF 0 0 nsid)
        | none => s1
      s2.showWarn c

/-- A buffered write is freed once it is destaged and nothing pins it. -/
def State.freeBufs (s : State) : State :=
  { s with nve := { s.nve with bufs := Tab.keep s.nve.bufs fun _ (b : NveBuf) => !(b.st == NveBufSt.destaged && b.pins == 0) } }.showNve

/-- Pins are taken off buffered writes. -/
def State.unpin (s : State) (ids : List Nat) : State :=
  { s with nve := { s.nve with bufs := Tab.mapVals s.nve.bufs fun i b => if ids.contains i then { b with pins := b.pins - 1 } else b } }.freeBufs

/-- A backend message leaves. -/
def State.dropMsg (s : State) (i : Nat) : State := { s with nve := { s.nve with msgs := Tab.del s.nve.msgs i } }.showNve

/-- The outcome of a backend message will be discarded: one that has not started is not sent (R378, R379). -/
def State.discardMsg (s : State) (i : Nat) : State :=
  match Tab.look s.nve.msgs i with
  | none => s
  | some m =>
    match m.st with
    | .inflight _ => { s with nve := { s.nve with msgs := Tab.put s.nve.msgs i { m with discard := true } } }
    | _ => s.dropMsg i

/-- The backend messages of a command. -/
def NvmeCmd.msgs (m : NvmeCmd) : List Nat :=
  match m.st with
  | .thru l => l
  | .reading i _ _ => [i]
  | _ => []

/-- A command stops without effect on the host: its messages are discarded and its pins released. -/
def State.cutCmd (s : State) (m : NvmeCmd) : State :=
  let s1 := m.msgs.foldl (fun t i => t.discardMsg i) s
  match m.st with
  | .reading _ pins _ => s1.unpin pins
  | _ => s1

/-- Has a command started a backend message? -/
def State.cmdStarted (s : State) (m : NvmeCmd) : Bool :=
  m.msgs.any fun i => match (Tab.look s.nve.msgs i).map NveMsg.st with
    | some .waiting => false
    | some _ => true
    | none => false

/-! ### Controller resets (R379) -/

/-- Do discarded messages of a controller still run? -/
def State.draining (s : State) (c : Nat) : Bool :=
  s.nve.msgs.any fun p => p.2.discard && (match p.2.use with | .read k _ _ => k == c | .thru k _ _ => k == c | .destage _ => false)

/-- The end of a controller reset: queues gone, features at reset, CSTS.RDY 0. An Enable written meanwhile is left in CC. -/
def State.endCtrlReset (s : State) (c : Nat) : State :=
  match s.ctrl? c with
  | none => s
  | some x =>
    let d := s.draw 16
    d.2.setCtrl c { x with sqs := [], cqs := [], cmds := [], feat := NvmeFeat.reset d.1 x.maxIoq, rdy := false, cfs := false,
                           shst := 0, shut := none, psBack := none, resetAt := none, pieces := [] }

/-- A controller reset begins: started commands drain, the others are squashed without completions; it ends at once where
nothing drains. -/
def State.startCtrlReset (s : State) (c : Nat) : State :=
  match s.ctrl? c with
  | none => s
  | some x =>
    let live := x.cmds.filter fun m => match m.st with | .done _ => false | _ => true
    let n := live.countP s.cmdStarted
    let s1 := (x.cmds.foldl (fun t m => t.cutCmd m) s).nveCount 6 n |>.nveCount 7 (live.length - n)
    match s1.ctrl? c with
    | none => s1
    | some y =>
      let s2 := s1.setCtrl c { y with cc := natSetBit y.cc 0 false, cmds := [], resetAt := some s.now, shut := none }
      if s2.draining c then s2 else s2.endCtrlReset c

/-- Does a controller's function lie in a reset's scope? -/
def State.ctrlsOf (s : State) (fs : List Nat) : List Nat := (s.nve.ctrls.filter fun p => fs.contains p.2.fn).map Prod.fst

/-- The SMART counters of a controller go to MRAM (Table 13-5). -/
def State.saveSmart (s : State) (c : Nat) : State :=
  match s.ctrl? c with
  | none => s
  | some x => if s.modes.mramClosed then s else { s with nve := { s.nve with saved := Tab.put s.nve.saved c x.smart } }

/-- An F or H reset of functions: their controllers are reset with their registers (R379). -/
def State.nveFnReset (s : State) (fs : List Nat) : State :=
  (s.ctrlsOf fs).foldl (fun t c =>
    let t1 := (t.saveSmart c).startCtrlReset c
    match t1.ctrl? c with
    | some x => t1.setCtrl c { x with cc := 0, aqa := 0, asq := 0, acq := 0, intms := 0 }
    | none => t1) s

/-! ### Assignment (R364) -/

/-- Queue pairs that the pool can still supply to a controller (R367). -/
def State.ioqRoom (s : State) (c : Nat) : Nat :=
  65536 - ((s.regs.filter fun p => p.1 / 16777216 == Reg.NVE_CTRL_CFG.key 0 0 / 16777216 && p.1 / 4096 % 4096 != c).map
    fun p => p.2.bits 51 41).sum

/-- A controller appears on a function; NVE_CTRL_CFG shows it. What the SMART counters, the error log and held events held stays. -/
def State.addCtrl (s : State) (c f : Nat) : State :=
  let pf := if fnIsVf f then s.parentPf f else fnPf f
  let vf := if fnIsVf f then f - s.firstVf (f / 0x400 * 0x400 + pf) else 0
  let d := s.draw 16
  let s1 := d.2.setReg .NVE_CTRL_CFG (BitVec.ofNat 64
    ((s.reg .NVE_CTRL_CFG c).toNat / 2 ^ 32 * 2 ^ 32 + 2 ^ 31 + b2n (decide (0xC00 ≤ f)) * 2 ^ 30 + pf % 4 * 2 ^ 28
      + b2n (fnIsVf f) * 2 ^ 27 + vf % 512 * 2 ^ 18)) c
  let x := NvmeCtrl.reset f d.1
  match s.ctrl? c with
  | some o => s1.setCtrl c { x with warn := o.warn, held := o.held, told := o.told, errs := o.errs, smart := o.smart }
  | none => s1.setCtrl c { x with smart := Tab.getD [] s.nve.saved c }

/-- The controllers of a link at the end of an H reset: its NVMe functions in Routing ID order, VFs as far as their PFs may have
them; one beyond the 512th is NATIVE, and the endpoint shows it. -/
def State.assignCtrls (s : State) (l : Nat) : State :=
  let base := 0x800 + l * 0x400
  let pfs := (List.range 4).filterMap fun k => (s.fn? (base + k)).map fun x => (base + k, x)
  let own := pfs.filterMap fun p => if p.2.personality = .nvme then some p.1 else none
  let vfs := (pfs.filter fun p => p.2.vfPersonality == .nvme && p.2.personality != .recovery).flatMap fun p =>
    (List.range p.2.totalVfs).map fun i => s.firstVf p.1 + i
  let fs := own ++ vfs
  let s1 := { s with nve := { s.nve with ctrls := Tab.keep s.nve.ctrls fun c _ => c / 512 != l || decide (c % 512 < fs.length) } }
  let s2 := (List.range 512).foldl (fun t i => t.setF NVE_CTRL_CFG.active 0 (512 * l + i)) s1
  let s3 := ((fs.take 512).zip (List.range 512)).foldl (fun t p => t.addCtrl (512 * l + p.2) p.1) s2
  if 512 < fs.length then
    (fs.drop 512).foldl (fun t f =>
      let t1 := t.setF HIF_LINK_STATUS.cfg_clipped 1 (t.fnEndpoint f)
      match t1.fn? f with
      | some x => t1.setFn f { x with personality := .native }
      | none => t1) s3
  else s3

/-- The controller of a function. -/
def State.ctrlOfFn (s : State) (f : Nat) : Option Nat := (s.nve.ctrls.find? fun p => p.2.fn == f).map Prod.fst

/-! ### Slices and whole-module events (R381, R383, R388) -/

/-- Namespaces whose endpoint belongs to a slice. -/
def State.sliceNss (s : State) (g : Nat) : List Nat :=
  (s.nve.nss.filter fun p => s.epOfSlice g p.2.ep).map Prod.fst

/-- The namespace of a command. -/
def State.cmdNs (s : State) (c : Nat) (m : NvmeCmd) : Option Nat := (s.nsOf c (dwordAt m.sqe 1)).map Prod.fst

/-- A slice reset in the NVMe functions: the started commands of its namespaces drain (R381). -/
def State.nveDrain (s : State) (g : Nat) : State :=
  let nss := s.sliceNss g
  (Tab.keys s.nve.ctrls).foldl (fun t c =>
    match t.ctrl? c with
    | none => t
    | some x =>
      let hit := x.cmds.filter fun m => t.cmdStarted m && (match t.cmdNs c m with | some n => nss.contains n | none => false)
      let t1 := (hit.foldl (fun u m => u.cutCmd m) t).nveCount 6 hit.length
      t1.setCtrl c { x with cmds := x.cmds.filter fun m => !hit.contains m }) s

/-- The endpoints of a removed slice are gone: their namespaces fault (R381). -/
def State.nveRemove (s : State) (nss : List Nat) : State := nss.foldl (fun t n => t.faultNs n stNoEndpoint) s

/-- A D reset squashes backend messages, which are issued again (R388); it comes before the transport's own. -/
def State.nveDReset (s : State) : State :=
  let again (_ : Nat) (m : NveMsg) : NveMsg := match m.st with
    | .inflight _ => { m with st := .waiting, data := match m.use with | .read _ _ _ => [] | _ => m.data }
    | _ => m
  let s1 := s.nve.msgs.foldl (fun t p => match p.2.st with
    | .inflight r => t.dropOut r
    | _ => t) s
  { s1 with nve := { s1.nve with msgs := Tab.mapVals (Tab.keep s1.nve.msgs fun _ m => !m.discard) again } }.showNve

/-- The loss of the write buffer through R62: every controller whose namespaces lose writes counts it and logs it (R381). -/
def State.nveLost (s : State) : State :=
  let lost := s.nve.bufs.filter fun p => p.2.st != NveBufSt.destaged
  let cs := (lost.filterMap fun p => ((s.ns? p.2.ns).bind NvmeNs.attached).map Prod.fst).eraseDups
  cs.foldl (fun t c =>
    match t.ctrl? c with
    | some x => (t.setCtrl c ((x.count 5 1).logError 0xFFFF 0xFFFF 0 0 0)).saveSmart c
    | none => t) s

/-- The NVMe functions as a P, C or W reset leaves them: what is in MRAM stays. -/
def NveSt.reset : NveSt :=
  { ctrls := [], nss := [], msgs := [], bufs := [], next := 0, holdFetch := false, temp := 0, saved := [] }

/-- A P, C or W reset in the NVMe functions. -/
def State.nveReset (s : State) : State :=
  let s1 := (Tab.keys s.nve.ctrls).foldl (fun t c => t.saveSmart c) s
  { s1 with nve := { NveSt.reset with saved := s1.nve.saved } }

/-- ACTIVATE stops the fetch on every controller, and tells each (R383, R387). -/
def State.nvePause (s : State) : State :=
  let s1 := { s with nve := { s.nve with holdFetch := true } }
  (Tab.keys s1.nve.ctrls).foldl (fun t c => t.nvmeEvent c aerFirmware 9) s1

/-- Firmware Commits that wait for their ACTIVATE complete (R383). -/
def State.nveActivated (s : State) (ok : Bool) : State :=
  s.nve.ctrls.foldl (fun t p =>
    (p.2.cmds.filter fun m => m.st == .activating).foldl (fun u m => u.nvmeEnd p.1 m.sq m.cid (if ok then nvOk else nvFwProhibited)) t) s

end Sys2Proof.Machine
end

