-- ==== Sys2Proof/Machine/Nve.lean ====
section
/-! DEFINITION. The meanings of the NVMe commands but those on firmware: controllers, admin and I/O commands, the write buffer
and its backend messages, and the namespace commands (spec/13). -/

namespace Sys2Proof.Machine

/-! ### Backend messages (R369, R388) -/

/-- Do commands and destages stand still: in SAFE_HOLD, STANDBY and a D reset (R388)? -/
def State.nveHeld (s : State) : Bool := s.mode == mSafeHold || s.mode == mStandby || s.modes.dReset.isSome

/-- Do two block ranges of one namespace overlap? -/
def rangesMeet (n1 a1 l1 n2 a2 l2 : Nat) : Bool := n1 == n2 && decide (a1 < a2 + l2) && decide (a2 < a1 + l1)

/-- Where a message stands in the order of its namespace: a destage stands where its write does. -/
def NveMsg.order (m : NveMsg) (i : Nat) : Nat := match m.use with
  | .destage b => b
  | _ => i

/-- The controller that a message counts for (Table 13-2). -/
def State.msgCtrl (s : State) (m : NveMsg) : Option Nat := match m.use with
  | .read c _ _ => some c
  | .thru c _ _ => some c
  | .destage _ => ((s.ns? m.ns).bind NvmeNs.attached).map Prod.fst

/-- Is the number of messages in flight of a controller below what its power state allows? -/
def State.powerRoom (s : State) (m : NveMsg) : Bool :=
  match s.msgCtrl m with
  | none => true
  | some c =>
    let n := Tab.count s.nve.msgs fun _ k => s.msgCtrl k == some c && (match k.st with | .inflight _ => true | _ => false)
    match (s.ctrl? c).map fun x => x.feat.ps with
    | some 1 => decide (n < 64)
    | some 2 => decide (n < 16)
    | _ => true

/-- May a waiting message start: no earlier one that overlaps it is unfinished, and no earlier write waits for its retry? -/
def State.msgReady (s : State) (i : Nat) (m : NveMsg) : Bool :=
  let o := m.order i
  let ahead := s.nve.msgs.any fun p => p.1 != i && rangesMeet p.2.ns p.2.slba p.2.nlb m.ns m.slba m.nlb
    && (p.2.st != .waiting || decide (p.2.order p.1 < o))
  let write := match m.use with | .read _ _ _ => false | _ => true
  let retry := s.nve.bufs.any fun p => decide (p.1 < o) && rangesMeet p.2.ns p.2.slba p.2.nlb m.ns m.slba m.nlb
    && (match p.2.st with | .retry _ _ => true | _ => false)
  m.st == .waiting && !ahead && !(write && retry) && s.powerRoom m

/-- A message changes. -/
def State.setMsg (s : State) (i : Nat) (m : NveMsg) : State := { s with nve := { s.nve with msgs := Tab.put s.nve.msgs i m } }.showNve

/-- A message starts: an outbound record is made as a work entry makes one, or the message ends at once with the status that the
entry would complete with. It waits while no record is free. The DSCP is stated nowhere and is free. -/
def State.startBackend (s : State) (i : Nat) (m : NveMsg) : State :=
  let stop (u : State) (st : Nat) := u.setMsg i { m with st := .ended st }
  match s.ns? m.ns with
  | none => stop s stNoEndpoint
  | some n =>
    match n.fault, Tab.look s.drt.eps n.ep with
    | some f, _ => (match m.use with | .destage _ => s | _ => stop s f)
    | none, none => stop s stNoEndpoint
    | none, some ep =>
      let f := s.drtFn ep.slice
      let a := ep.tblBase + 32 * n.destRef
      let len := m.nlb * n.block
      if ep.tblCount ≤ n.destRef then stop s stMalformed
      else
        let c := s.dmaCheck f.1 (drtDma f) false a 32
        if !c.2 then stop c.1 stAccessViolation
        else
          let s1 := c.1.issueRead f.1 (drtDma f) a 32
          let d := fitBytes 32 (s1.dmaData f.1 a 32 m.dest)
          if !natBit (leNat (sliceBytes d 16 4)) 31 then stop s1 stMalformed
          else if (s1.pubUnc 0).isNone then stop s1 stTimeUnknown
          else if s1.seqOver then stop s1 stKeyExhausted
          else if !s1.drtRuns then stop s1 stRefusedState
          else
            match (Tab.look s1.drt.doms ep.domain).bind DrtDomain.cur, Tab.freeKey s1.drt.outs 0 65536 with
            | some (epoch, slot), some rec =>
              let remote := leNat (sliceBytes d 16 3)
              match s1.derivePair slot ep.domain epoch n.ep remote with
              | (s2, none) => stop s2 (if (s2.keySlot slot).exhausted then stKeyExhausted else stAccessViolation)
              | (s2, some key) =>
                let ds := s2.draw 6
                (ds.2.setMsg i { m with st := .inflight rec }).startMessage
                  { ep := n.ep, num := nveRing + i, idx := 0, irqNow := false,
                    op := (match m.use with | .read _ _ _ => 3 | _ => 1), remote := remote, peer := d.take 16,
                    domain := ep.domain, epoch := epoch, key := some key, msgSeq := 0, region := n.region,
                    offset := n.offset + m.slba * n.block, len := len, loc := 0, imm := 0, nb := 0, notify := false,
                    dscp := ds.1, size := if ep.jumbo then 8192 else 4096, acked := 0, retx := 0, round := 0, timer := none,
                    deadline := s2.islandNs + s2.getF DRT_TIMER.lifetime * 10 ^ 6, sentU := [] } rec
            | none, _ => stop s1 stMalformed
            | _, none => s

/-- Waiting messages start in order where they may. -/
def State.nvmePump (s : State) : State :=
  if s.nveHeld then s
  else (Tab.keys s.nve.msgs).foldl (fun t i =>
    match Tab.look t.nve.msgs i with
    | some m => if t.msgReady i m then t.startBackend i m else t
    | none => t) s

/-- A new message, waiting. -/
def State.newMsg (s : State) (m : NveMsg) : State :=
  { s with nve := { s.nve with msgs := Tab.put s.nve.msgs s.nve.next m, next := s.nve.next + 1 } }

/-! ### The write buffer (R374) -/

/-- The pieces of a write of blocks, of at most 1 MiB each (R369): first block, blocks, data. -/
def writePieces (block slba : Nat) (data : List Byte) : List (Nat × Nat × List Byte) :=
  let per := mib / block
  (chunksN mib (ceilDiv data.length mib) data).zipIdx.map fun p => (slba + p.2 * per, p.1.length / block, p.1)

/-- Marked blocks of a buffered write that a later write replaces: their word is written anew, so that a write all of whose
blocks are replaced leaves the buffer (R389). -/
def State.dropReplaced (s : State) (ns slba nlb : Nat) : State :=
  { s with nve := { s.nve with bufs := Tab.keep s.nve.bufs fun _ (b : NveBuf) =>
    !(b.bad && b.ns == ns && decide (slba ≤ b.slba) && decide (b.slba + b.nlb ≤ slba + nlb) && b.pins == 0) } }

/-- A write enters the buffer with the message that will destage it. -/
def State.bufferWrite (s0 : State) (ns : Nat) (dest : List Byte) (p : Nat × Nat × List Byte) : State :=
  let s := s0.dropReplaced ns p.1 p.2.1
  let i := s.nve.next
  let b : NveBuf := { ns := ns, slba := p.1, nlb := p.2.1, data := p.2.2, dest := dest, pins := 0, delay := msT,
                      st := .destaging (i + 1), bad := false }
  let s1 := { s with nve := { s.nve with bufs := Tab.put s.nve.bufs i b, next := i + 1 } }
  s1.newMsg { ns := ns, slba := p.1, nlb := p.2.1, use := .destage i, data := p.2.2, dest := dest, st := .waiting, discard := false }

/-- Has the buffer room for a write of a namespace? -/
def State.bufferRoom (s : State) (ns : Nat) (n : NvmeNs) (len : Nat) : Bool :=
  decide ((s.nve.bufs.map fun p => p.2.data.length).sum + len ≤ 16384 * mib) && decide (s.nsBuffered ns < n.limit * mib)

/-- A command's state changes. -/
def State.setCmd (s : State) (c sq cid : Nat) (st : NvmeCmdSt) : State :=
  match s.ctrl? c with
  | none => s
  | some x => s.setCtrl c { x with cmds := x.cmds.map fun m => if m.is sq cid then { m with st := st } else m }

/-- SMART counters of a controller. -/
def State.smartCount (s : State) (c k n : Nat) : State :=
  match s.ctrl? c with
  | none => s
  | some x => s.setCtrl c (x.count k n)

/-- First block of a command. -/
def NvmeCmd.slba (m : NvmeCmd) : Nat := leNat (sliceBytes m.sqe 40 8)
/-- Blocks of a command. -/
def NvmeCmd.nlb (m : NvmeCmd) : Nat := dwordAt m.sqe 12 % 65536 + 1
/-- A command dword. -/
def NvmeCmd.dw (m : NvmeCmd) (i : Nat) : Nat := dwordAt m.sqe i
/-- Opcode of a command. -/
def NvmeCmd.op (m : NvmeCmd) : Nat := dwordAt m.sqe 0 % 256

/-- The data of a write is all in the buffer: it completes. -/
def State.completeBuffered (s : State) (c : Nat) (m : NvmeCmd) (ns : Nat) (n : NvmeNs) (data dest : List Byte) : State :=
  let s1 := (writePieces n.block m.slba data).foldl (fun t p => t.bufferWrite ns dest p) s
  (((s1.smartCount c 1 data.length).smartCount c 3 1).nvmeEnd c m.sq m.cid nvOk).showNve

/-- The waiting Writes of a controller that find room enter the buffer, in order; none passes an earlier one of its namespace. -/
def State.admitWaiting (s : State) (c : Nat) : State :=
  let ms := ((s.ctrl? c).map NvmeCtrl.cmds).getD []
  (ms.foldl (fun (p : State × List Nat) m =>
    match m.st, p.1.nsOf c (m.dw 1) with
    | .waitBuf data dest, some (i, n) =>
      if p.2.contains i then p
      else if n.fault.isSome then (p.1.nvmeEnd c m.sq m.cid nvWriteFault, p.2)
      else if p.1.bufferRoom i n data.length then (p.1.completeBuffered c m i n data dest, p.2)
      else (p.1, i :: p.2)
    | _, _ => p) (s, [])).1

/-! ### What follows from a change: flushes, deletions, shutdowns, resets -/

/-- Flushes that are covered complete, and those whose namespace has faulted fail (R376, R377, R389). -/
def State.settleFlushes (s : State) (c : Nat) : State :=
  let ms := ((s.ctrl? c).map NvmeCtrl.cmds).getD []
  ms.foldl (fun t m =>
    match m.st with
    | .flush ids =>
      let left := t.nve.bufs.filter fun p => ids.contains p.1 && p.2.st != NveBufSt.destaged
      if left.isEmpty then t.nvmeEnd c m.sq m.cid nvOk
      else if left.any (fun p => p.2.bad || ((t.ns? p.2.ns).bind NvmeNs.fault).isSome) then t.nvmeEnd c m.sq m.cid nvWriteFault
      else t
    | _ => t) s

/-- Deleted submission queues without commands go, and their Deletes complete (R372). -/
def State.settleDeletes (s : State) (c : Nat) : State :=
  match s.ctrl? c with
  | none => s
  | some x =>
    (x.sqs.filter fun p => p.2.deleting && !x.cmds.any (fun m => m.sq == p.1)).foldl (fun t p =>
      let t1 := match t.ctrl? c with
        | some y => t.setCtrl c { y with sqs := Tab.del y.sqs p.1 }
        | none => t
      match x.cmds.find? fun m => m.st == .deleting p.1 with
      | some m => t1.nvmeEnd c m.sq m.cid nvOk
      | none => t1) s

/-- A shutdown ends once its commands have completed and, a normal one, its namespaces are destaged as far as they can be (R380). -/
def State.settleShutdown (s : State) (c : Nat) : State :=
  match s.ctrl? c with
  | none => s
  | some x =>
    match x.shut with
    | none => s
    | some normal =>
      let nss := (s.ctrlNss c).map Prod.fst
      let bad := nss.filter fun n => ((s.ns? n).bind NvmeNs.fault).isSome && s.nve.bufs.any fun p => p.2.ns == n
      let left := s.nve.bufs.any fun p => nss.contains p.2.ns && !bad.contains p.2.ns && !p.2.bad && p.2.st != NveBufSt.destaged
      if x.cmds.any (fun m => m.st != .event) || (normal && left) then s
      else
        let y := if normal then bad.foldl (fun (z : NvmeCtrl) n => z.logError 0xFFFF 0xFFFF 0 0
          ((((s.ns? n).bind NvmeNs.attached).map Prod.snd).getD 0)) x else x
        s.setCtrl c { y with shst := 2, shut := none }

/-- Discarded messages that have ended leave, and resets with nothing left to drain end. -/
def State.settleResets (s : State) : State :=
  let gone := s.nve.msgs.filter fun p => p.2.discard && (match p.2.st with | .ended _ => true | _ => false)
  let s1 := gone.foldl (fun t p => t.dropMsg p.1) s
  (Tab.keys s1.nve.ctrls).foldl (fun t c =>
    match t.ctrl? c with
    | some x => if x.resetAt.isSome && !t.draining c then t.endCtrlReset c else t
    | none => t) s1

/-- The NVMe functions go on after a change. -/
def State.nvmeSettle (s : State) : State :=
  if s.nveHeld then s.settleResets
  else
    let s1 := (Tab.keys s.nve.ctrls).foldl (fun t c =>
      (((t.admitWaiting c).settleFlushes c).settleDeletes c).settleShutdown c) s.settleResets
    s1.nvmePump

/-! ### Controllers (R366, R379, R380) -/

/-- CC.EN rises in a controller whose CC.EN was 0 (R366): a field of CC that it does not support sets CFS; otherwise it is ready
at a free instant within 10 ms, with its admin queues and the fields of NVE_CTRL_CFG. -/
def State.enableCtrl (s : State) (c : Nat) (x : NvmeCtrl) (cc : Nat) : State :=
  let f (hi lo : Nat) : Nat := cc / 2 ^ lo % 2 ^ (hi + 1 - lo)
  if f 6 4 ≠ 0 ∨ 4 < f 10 7 ∨ f 13 11 ≠ 0 ∨ f 19 16 ≠ 6 ∨ f 23 20 ≠ 4 then s.setCtrl c { x with cc := cc, cfs := true }
  else
    let d := s.draw 27
    let n := max 1 (s.getF NVE_CTRL_CFG.max_ioq c)
    let s1 := d.2.after (s.now + d.1 % (10 * msT))
    s1.setCtrl c { x with
      cc := cc
      rdy := true
      maxIoq := n
      fwEn := s.flag NVE_CTRL_CFG.fw_en c && !fnIsVf x.fn
      feat := { x.feat with grant := n, grantCq := n }
      sqs := [(0, ⟨x.asq, x.aqa % 4096 + 1, 0, 0, 0, false⟩)]
      cqs := [(0, ⟨x.acq, x.aqa / 65536 % 4096 + 1, 0, 0, true, 0, true, [], 0, 0⟩)]
      idleSince := s1.now }

/-- CONTROLLER_ENABLE. -/
def execControllerEnable (c : Fin 1024) (cc : BitVec 32) (s : State) : Res :=
  match s.ctrl? c.val with
  | none => .next s
  | some x =>
    if x.enabled ∨ natBit cc.toNat 0 = false ∨ x.resetAt.isSome = true then .next s
    else .next (s.enableCtrl c.val x cc.toNat)

/-- CONTROLLER_RESET: CC.EN falls. -/
def execControllerReset (c : Fin 1024) (s : State) : Res :=
  match s.ctrl? c.val with
  | none => .next s
  | some x => if x.enabled then .next (s.startCtrlReset c.val).nvmeSettle else .next s

/-- CONTROLLER_RESET_TIMEOUT: 2 s after a reset began its messages are squashed, and it ends. -/
def execControllerResetTimeout (c : Fin 1024) (s : State) : Res :=
  match s.ctrl? c.val with
  | none => .next s
  | some x =>
    match x.resetAt with
    | none => .next s
    | some t0 =>
      let s1 := s.after (t0 + 2 * secT)
      let mine := s1.nve.msgs.filter fun p => p.2.discard && s1.msgCtrl p.2 == some c.val
      let s2 := mine.foldl (fun t p =>
        (match p.2.st with | .inflight r => t.dropOut r | _ => t).dropMsg p.1) s1
      .next ((s2.nveCount 7 mine.length).endCtrlReset c.val).nvmeSettle

/-- CC.SHN is written: fetching stops and SHST shows a shutdown in progress until it ends (R380). -/
def State.shutCtrl (s : State) (c : Nat) (normal : Bool) : State :=
  match s.ctrl? c with
  | none => s
  | some x =>
    if !x.enabled || !x.rdy || x.shst != 0 then s
    else
      let cc := x.cc - x.cc / 2 ^ 14 % 4 * 2 ^ 14 + (if normal then 1 else 2) * 2 ^ 14
      (s.setCtrl c { x with cc := cc, shst := 1, shut := some normal }).nvmeSettle

/-- NORMAL_SHUTDOWN. -/
def execNormalShutdown (c : Fin 1024) (s : State) : Res := .next (s.shutCtrl c.val true)

/-- ABRUPT_SHUTDOWN. -/
def execAbruptShutdown (c : Fin 1024) (s : State) : Res := .next (s.shutCtrl c.val false)

/-! ### Fetch (R365, R370–R373) -/

/-- Is the fetch of a controller open: ready, not in a reset or shutdown, no ACTIVATE under way, requests not held? -/
def State.nvmeFetches (s : State) (c : Nat) (x : NvmeCtrl) : Bool :=
  x.rdy && !x.cfs && x.resetAt.isNone && x.shst == 0 && !s.nve.holdFetch && !s.nveHeld && s.cqOpen c

/-- Is a CID of a submission queue outstanding: its completion not yet posted (R371)? -/
def NvmeCtrl.outstanding (x : NvmeCtrl) (sq cid : Nat) : Bool :=
  x.cmds.any (fun m => m.is sq cid) ||
    x.cqs.any fun p => p.2.stash.any fun e => leNat (sliceBytes e 10 2) == sq && leNat (sliceBytes e 12 2) == cid

/-- Does a controller know an opcode on a queue (Table 13-3)? The firmware commands only on the firmware controller (R382). -/
def NvmeCtrl.knows (x : NvmeCtrl) (sq op : Nat) : Bool :=
  if sq = 0 then [0, 1, 2, 4, 5, 6, 8, 9, 10, 12].contains op || (x.fwEn && (op == 16 || op == 17))
  else [0, 1, 2, 8].contains op

/-- One command is fetched: what the read of its queue entry returns becomes a record, or completes at once where its CID, its
opcode, a fused or SGL form, or the limit of 4 Aborts forbids it. -/
def State.fetchCmd (s : State) (c : Nat) (q : Nat) (given : List Byte) : State :=
  match s.ctrl? c with
  | none => s
  | some x =>
    match Tab.look x.sqs q with
    | none => s
    | some k =>
      let full := match Tab.look x.cqs k.cq with | some e => decide (16 ≤ e.stash.length) | none => true
      if !s.nvmeFetches c x || k.head == k.tail || k.deleting || full then s
      else
        let a := k.base + 64 * k.head
        let d := s.dmaCheck x.fn none false a 64
        if !d.2 then d.1.setCtrl c { x with cfs := true }
        else
          let sqe := fitBytes 64 given
          let cid := leNat (sliceBytes sqe 2 2)
          let m : NvmeCmd := ⟨q, cid, sqe, s.nve.next, .fetched⟩
          let x1 := { x with sqs := Tab.put x.sqs q { k with head := (k.head + 1) % k.size }, psBack := none, idleSince := s.now,
                             feat := { x.feat with ps := x.psBack.getD x.feat.ps } }
          let s1 := ((d.1.issueRead x.fn none a 64).setCtrl c x1).nveCount 0
          let s2 := s1.setCtrl c { x1 with cmds := x1.cmds ++ [m] }
          let aborts := x.cmds.countP fun n => n.sq == 0 && n.op == 8
          if x.outstanding q cid then
            let e := s1.nvmeEntry c q cid nvCidConflict 0 sqe
            (e.2.cqPost c k.cq e.1).getD e.2
          else if !x.knows q m.op then s2.nvmeEnd c q cid nvInvalidOpcode
          else if m.dw 0 / 256 % 4 ≠ 0 ∨ m.dw 0 / 2 ^ 14 % 4 ≠ 0 then s2.nvmeEnd c q cid nvInvalidField
          else if q = 0 ∧ m.op = 8 ∧ 4 ≤ aborts then s2.nvmeEnd c q cid nvAbortLimit
          else s2

/-- NVME_DOORBELL: a tail or head doorbell takes a value, room in a completion queue lets stashed completions go, and the commands
that fetching may read are fetched: `reads` names the queue of each read in order, with what it returns. A doorbell of no queue
and a value beyond its queue are discarded. -/
def execNvmeDoorbell (c : Fin 1024) (cq : Bool) (qid value : Nat) (reads : List (Nat × List Byte)) (s : State) : Res :=
  match s.ctrl? c.val with
  | none => .next s
  | some x =>
    let s1 := if cq then
        (match Tab.look x.cqs qid with
        | some k => if value < k.size then
            let u := s.setCtrl c.val { x with cqs := Tab.put x.cqs qid { k with head := value } }
            u.cqDrain c.val qid (k.stash.length + x.cmds.length)
          else s
        | none => s)
      else
        (match Tab.look x.sqs qid with
        | some k => if value < k.size then s.setCtrl c.val { x with sqs := Tab.put x.sqs qid { k with tail := value } } else s
        | none => s)
    .next (reads.foldl (fun t r => t.fetchCmd c.val r.1 r.2) s1).nvmeSettle

/-! ### Host memory (R365) -/

/-- Data segments of a transfer of `n` bytes over pages that begin at some addresses. -/
def prpSegs (page : Nat) : List Nat → Nat → List (Nat × Nat)
  | [], _ => []
  | a :: l, n => if n = 0 then [] else
    let k := min n (page - a % page)
    (a, k) :: prpSegs page l (n - k)

/-- The entries of a PRP list at an address, and the reads that bring them: the last entry of a full page of the list points on.
`given` is what the reads return. -/
def prpList (page : Nat) : Nat → List Nat → Nat → Nat → List (Nat × Nat) × List Nat
  | 0, _, _, _ => ([], [])
  | fuel + 1, given, a, n =>
    let cap := (page - a % page) / 8
    let e (i : Nat) : Nat := given.getD i 0
    if n ≤ cap then ([(a, 8 * n)], (List.range n).map e)
    else
      let r := prpList page fuel (given.drop cap) (e (cap - 1)) (n - (cap - 1))
      ((a, 8 * cap) :: r.1, (List.range (cap - 1)).map e ++ r.2)

/-- Reads of host memory by a controller: all pass the windows, or none is made. -/
def State.hostReads (s : State) (f : Nat) (l : List (Nat × Nat)) : State × Bool :=
  let c := l.foldl (fun (p : State × Bool) q => if p.2 then p.1.dmaCheck f none false q.1 q.2 else p) (s, true)
  if c.2 then (l.foldl (fun t q => t.issueRead f none q.1 q.2) c.1, true) else c

/-- Data written to the segments of a transfer. -/
def State.hostWrites (s : State) (f : Nat) : List (Nat × Nat) → List Byte → State × Bool
  | [], _ => (s, true)
  | q :: l, data =>
    let c := s.dmaCheck f none true q.1 q.2
    if c.2 then State.hostWrites (c.1.issueWrite f none q.1 (data.take q.2)) f l (data.drop q.2) else c

/-- The segments of a command's transfer of `n` bytes, or the status that stops it. -/
def State.cmdSegs (s : State) (x : NvmeCtrl) (m : NvmeCmd) (n : Nat) (given : List Nat) : State × Nat × List (Nat × Nat) :=
  let page := x.page
  let p1 := leNat (sliceBytes m.sqe 24 8)
  let p2 := leNat (sliceBytes m.sqe 32 8)
  let first := page - p1 % page
  let rest := ceilDiv (n - first) page
  if n = 0 then (s, nvOk, [])
  else
    let l := if rest ≤ 1 then ([], if rest = 0 then [] else [p2]) else prpList page 4 given p2 rest
    let c := s.hostReads x.fn l.1
    if !c.2 then (c.1, nvTransferError, [])
    else if l.2.any (fun a => a % page != 0) then (c.1, nvPrpOffset, [])
    else (c.1, nvOk, prpSegs page (p1 :: l.2) n)

/-- A command on the front of its queue, if it is the one that is meant and commands are not held. -/
def State.onCmd (s : State) (c sq op : Nat) (f : NvmeCtrl → NvmeCmd → State) : Res :=
  match s.ctrl? c with
  | none => .next s
  | some x =>
    match x.cmds.find? (fun m => m.sq == sq && m.st == .fetched) with
    | some m => if m.op == op && !s.nveHeld then .next (f x m).nvmeSettle else .next s
    | none => .next s

/-- A command completes with data to the host. -/
def State.endWithData (s : State) (c : Nat) (x : NvmeCtrl) (m : NvmeCmd) (data : List Byte) (given : List Nat) (dw0 : Nat := 0) :
    State :=
  let g := s.cmdSegs x m data.length given
  if g.2.1 ≠ nvOk then g.1.nvmeEnd c m.sq m.cid g.2.1
  else
    let w := g.1.hostWrites x.fn g.2.2 data
    w.1.nvmeEnd c m.sq m.cid (if w.2 then nvOk else nvTransferError) dw0

/-! ### Queue commands (R367, R370, R372) -/

/-- DELETE_IO_SUBMISSION_QUEUE (R372). -/
def execDeleteIoSubmissionQueue (c : Fin 1024) (s : State) : Res :=
  s.onCmd c.val 0 0 fun x m =>
    let q := m.dw 10 % 65536
    match Tab.look x.sqs q with
    | none => s.nvmeEnd c.val 0 m.cid nvQid
    | some k =>
      if q = 0 ∨ k.deleting = true then s.nvmeEnd c.val 0 m.cid nvQid
      else
        let s1 := (s.setCtrl c.val { x with sqs := Tab.put x.sqs q { k with deleting := true } }).setCmd c.val 0 m.cid (.deleting q)
        let cut := x.cmds.filter fun n => n.sq == q && (match n.st with
          | .fetched => true
          | .waitBuf _ _ => true
          | .flush _ => true
          | .thru _ => !s.cmdStarted n
          | .reading _ _ _ => !s.cmdStarted n
          | _ => false)
        cut.foldl (fun t n => (t.cutCmd n).nvmeEnd c.val q n.cid nvSqDeleted) s1

/-- CREATE_IO_SUBMISSION_QUEUE (R367). -/
def execCreateIoSubmissionQueue (c : Fin 1024) (s : State) : Res :=
  s.onCmd c.val 0 1 fun x m =>
    let q := m.dw 10 % 65536
    let size := m.dw 10 / 65536 + 1
    let base := leNat (sliceBytes m.sqe 24 8)
    let cq := m.dw 11 / 65536
    let done (st : Nat) := s.nvmeEnd c.val 0 m.cid st
    if q = 0 ∨ x.feat.grant < q ∨ Tab.has x.sqs q = true then done nvQid
    else if size < 2 ∨ 4096 < size then done nvQueueSize
    else if cq = 0 ∨ Tab.has x.cqs cq = false then done nvCqInvalid
    else if m.dw 11 % 2 = 0 then done nvInvalidField
    else if base % x.page ≠ 0 then done nvPrpOffset
    else (s.setCtrl c.val { x with sqs := Tab.put x.sqs q ⟨base, size, 0, 0, cq, false⟩ }).nvmeEnd c.val 0 m.cid nvOk

/-- DELETE_IO_COMPLETION_QUEUE. -/
def execDeleteIoCompletionQueue (c : Fin 1024) (s : State) : Res :=
  s.onCmd c.val 0 4 fun x m =>
    let q := m.dw 10 % 65536
    if q = 0 ∨ Tab.has x.cqs q = false then s.nvmeEnd c.val 0 m.cid nvQid
    else if x.sqs.any (fun p => p.2.cq == q) then s.nvmeEnd c.val 0 m.cid nvQueueDeletion
    else (s.setCtrl c.val { x with cqs := Tab.del x.cqs q }).nvmeEnd c.val 0 m.cid nvOk

/-- CREATE_IO_COMPLETION_QUEUE (R367). -/
def execCreateIoCompletionQueue (c : Fin 1024) (s : State) : Res :=
  s.onCmd c.val 0 5 fun x m =>
    let q := m.dw 10 % 65536
    let size := m.dw 10 / 65536 + 1
    let base := leNat (sliceBytes m.sqe 24 8)
    let iv := m.dw 11 / 65536
    let f := s.fn? x.fn
    let vectors := if ((f.map FnSt.msixEnable).getD false) then (f.map FnSt.msixEntries).getD 1 else (f.map FnSt.msiCount).getD 1
    let done (st : Nat) := s.nvmeEnd c.val 0 m.cid st
    if q = 0 ∨ x.feat.grantCq < q ∨ Tab.has x.cqs q = true then done nvQid
    else if size < 2 ∨ 4096 < size then done nvQueueSize
    else if m.dw 11 % 2 = 0 then done nvInvalidField
    else if vectors ≤ iv then done nvVector
    else if base % x.page ≠ 0 then done nvPrpOffset
    else (s.setCtrl c.val { x with cqs := Tab.put x.cqs q ⟨base, size, 0, 0, true, iv, natBit (m.dw 11) 1, [], 0, 0⟩ }).nvmeEnd
      c.val 0 m.cid nvOk

/-! ### Identify, logs and features (R370, R386, Tables 13-4 and 13-5) -/

/-- Bytes with others put at an offset. -/
def patchBytes (b : List Byte) (o : Nat) (v : List Byte) : List Byte := b.take o ++ v ++ b.drop (o + v.length)

/-- An ASCII text in a field of `n` bytes, padded with spaces. -/
def asciiField (n : Nat) (t : String) : List Byte :=
  ((t.toList.map fun (ch : Char) => BitVec.ofNat 8 ch.toNat) ++ List.replicate n 32).take n

/-- The power state descriptors of Table 13-2: power in 0.01 W, non-operational, entry and exit latency in µs. -/
def powerTable : List (Nat × Bool × Nat × Nat) :=
  [(600, false, 0, 0), (400, false, 5, 5), (300, false, 10, 10), (100, true, 100, 200), (10, true, 2000, 5000)]

/-- The serial number in NVMe form: 16 and 4 hexadecimal digits (R528). -/
def nvmeSerial (serial c : Nat) : List Byte :=
  let digit (d : Nat) : Byte := BitVec.ofNat 8 (if d < 10 then 48 + d else 55 + d)
  ((List.range 16).map fun i => digit (serial / 16 ^ (15 - i) % 16)) ++ ((List.range 4).map fun i => digit (c / 16 ^ (3 - i) % 16))

/-- Identify Controller. What R370 does not list is stated nowhere and stays as drawn in `fill`. -/
def identifyCtrl (x : NvmeCtrl) (serial c : Nat) (fill : List Byte) : List Byte :=
  let put (b : List Byte) (p : Nat × List Byte) : List Byte := patchBytes b p.1 p.2
  let fields : List (Nat × List Byte) :=
    [(0, leBytes 2 0x1D9C), (2, leBytes 2 0x1D9C), (4, nvmeSerial serial c), (24, asciiField 40 "Holhal Soranac SN8640 NVMe"), (76, [0]), (77, [8]),
     (78, leBytes 2 c), (80, leBytes 4 0x20000), (84, leBytes 4 10000), (88, leBytes 4 2000000),
     (256, leBytes 2 (if x.fwEn then 4 else 0)), (258, [3]), (259, [0]), (260, [if x.fwEn then 0x17 else 0x07]), (262, [63]),
     (263, [4]), (265, [1]), (270, leBytes 2 2), (319, [1]), (320, [0, 0]), (512, [0x66]), (513, [0x44]), (516, leBytes 4 256),
     (520, leBytes 2 8), (525, [7]), (536, zeroBytes 4)]
  let power : List (Nat × List Byte) := powerTable.zipIdx.map fun p =>
    (2048 + 32 * p.2, leBytes 2 p.1.1 ++ [0, if p.1.2.1 then 2 else 0] ++ leBytes 4 p.1.2.2.1 ++ leBytes 4 p.1.2.2.2)
  (fields ++ power).foldl put fill

/-- Identify Namespace of an attached namespace. -/
def identifyNs (n : NvmeNs) (used : Nat) (fill : List Byte) : List Byte :=
  let put (b : List Byte) (p : Nat × List Byte) : List Byte := patchBytes b p.1 p.2
  [(0, leBytes 8 n.size), (8, leBytes 8 n.size), (16, leBytes 8 used), (25, [1]), (26, [if n.big then 1 else 0]),
   (27, [0, 0, 0, 0]), (99, [if n.ro then 1 else 0]), (128, [0, 0, 9]), (132, [0, 0, 12])].foldl put fill

/-- IDENTIFY (R370). -/
def execNvmeIdentify (c : Fin 1024) (prps : List Nat) (s : State) : Res :=
  s.onCmd c.val 0 6 fun x m =>
    let nsid := m.dw 1
    let d := s.drawBytes 4096
    let send (t : State) (b : List Byte) := t.endWithData c.val x m b prps
    match m.dw 10 % 256 with
    | 0 =>
      if nsid = 0 ∨ 256 < nsid then s.nvmeEnd c.val 0 m.cid nvInvalidNs
      else
        match s.nsOf c.val nsid with
        | some (_, n) =>
          let u := d.2.draw 64
          send u.2 (identifyNs n u.1 d.1)
        | none => send s (zeroBytes 4096)
    | 1 => send d.2 (identifyCtrl x s.fuse.serial.toNat c.val d.1)
    | 2 =>
      if 0xFFFFFFFE ≤ nsid then s.nvmeEnd c.val 0 m.cid nvInvalidNs
      else
        let ids := ((s.ctrlNss c.val).map Prod.snd).filter fun i => decide (nsid < i)
        let sorted := ids.foldl insertNat []
        send s (fitBytes 4096 ((sorted.map (leBytes 4)).flatten))
    | 3 =>
      match s.nsOf c.val nsid with
      | some _ => send d.2 d.1
      | none => s.nvmeEnd c.val 0 m.cid nvInvalidNs
    | _ => s.nvmeEnd c.val 0 m.cid nvInvalidField

/-- The NVMe slot of the running image: 1 golden, 2 slot A, 3 slot B (R382); BOOT_STATUS.store names it. -/
def State.nvmeActiveSlot (s : State) : Nat :=
  match s.getF BOOT_STATUS.store with
  | 1 => 2
  | 2 => 3
  | _ => 1

/-- An entry of the error log as Get Log Page shows it. The parameter error location is stated nowhere. -/
def NvmeErr.bytes (e : NvmeErr) (loc : Nat) : List Byte :=
  fitBytes 64 (leBytes 8 e.count ++ leBytes 2 e.sq ++ leBytes 2 e.cid ++ leBytes 2 e.status ++ leBytes 2 loc ++ leBytes 8 e.lba
    ++ leBytes 4 e.nsid)

/-- Units of 1,000 blocks of 512 bytes, rounded up. -/
def dataUnits (bytes : Nat) : Nat := ceilDiv bytes 512000

/-- The pages of Table 13-5, with `fill` where nothing states a byte. -/
def State.logPage (s : State) (x : NvmeCtrl) (lid : Nat) (fill : List Byte) : Option (List Byte) :=
  let put (b : List Byte) (p : Nat × List Byte) : List Byte := patchBytes b p.1 p.2
  let k (i : Nat) : Nat := Tab.getD 0 x.smart i
  if lid = 1 then some (fitBytes 4096 ((x.errs.map fun e => e.bytes (leNat (fill.take 2))).flatten))
  else if lid = 2 then
    some ([(0, leBytes 1 x.warn ++ leBytes 2 s.nve.temp ++ [100]), (5, [0]), (32, leBytes 16 (dataUnits (k 0))),
      (48, leBytes 16 (dataUnits (k 1))), (64, leBytes 16 (k 2)), (80, leBytes 16 (k 3)), (112, leBytes 16 (k 4)),
      (144, leBytes 16 (k 5)), (160, leBytes 16 (k 6)), (176, leBytes 16 (k 7))].foldl put (fill.take 512))
  else if lid = 3 then
    some ([(0, [BitVec.ofNat 8 (s.nvmeActiveSlot + leNat (fill.take 1) / 16 % 8 * 16)])].foldl put (fill.take 512))
  else none

/-- GET_LOG_PAGE (R386, R387): with RAE 0 it lets further events of the page's type be reported. -/
def execGetLogPage (c : Fin 1024) (prps : List Nat) (s : State) : Res :=
  s.onCmd c.val 0 2 fun x m =>
    let lid := m.dw 10 % 256
    let n := 4 * (m.dw 11 % 65536 * 65536 + m.dw 10 / 65536 + 1)
    let off := leNat (sliceBytes m.sqe 48 8)
    let d := s.drawBytes 512
    match s.logPage x lid d.1 with
    | none => s.nvmeEnd c.val 0 m.cid nvInvalidField
    | some p =>
      if p.length < off ∨ mib < n then s.nvmeEnd c.val 0 m.cid nvInvalidField
      else
        let body := (p.drop off).take n
        let more := d.2.drawBytes (n - body.length)
        let told := if natBit (m.dw 10) 15 then x.told else x.told.filter (· != (if lid = 2 then 1 else if lid = 3 then 2 else 0))
        ((more.2.setCtrl c.val { x with told := told }).endWithData c.val { x with told := told } m (body ++ more.1) prps).aerTry c.val

/-- The value of a feature that Get Features returns in DW0; `none` for a feature that does not exist. -/
def NvmeCtrl.feature (x : NvmeCtrl) (fid dw11 : Nat) : Option Nat :=
  let f := x.feat
  match fid with
  | 0x01 => some 0
  | 0x02 => some f.ps
  | 0x04 => if dw11 / 2 ^ 16 % 16 ≠ 0 ∨ 1 < dw11 / 2 ^ 20 % 4 then none else some (if dw11 / 2 ^ 20 % 4 = 0 then f.hotAt else f.coldAt)
  | 0x06 => some (b2n f.wce)
  | 0x07 => some ((f.grantCq - 1) * 65536 + (f.grant - 1))
  | 0x08 => some f.coal
  | 0x09 => some (dw11 % 65536 + b2n (f.noCoal.contains (dw11 % 65536)) * 65536)
  | 0x0B => some f.aec
  | 0x0C => some (b2n f.apste)
  | _ => none

/-- GET_FEATURES. -/
def execGetFeatures (c : Fin 1024) (prps : List Nat) (s : State) : Res :=
  s.onCmd c.val 0 10 fun x m =>
    match x.feature (m.dw 10 % 256) (m.dw 11) with
    | none => s.nvmeEnd c.val 0 m.cid nvInvalidField
    | some v =>
      if m.dw 10 % 256 = 0x0C then s.endWithData c.val x m (fitBytes 256 x.feat.apst) prps v
      else s.nvmeEnd c.val 0 m.cid nvOk v

/-- SET_FEATURES (Table 13-4). `data` is what the read of an APST table returns. -/
def execSetFeatures (c : Fin 1024) (prps : List Nat) (data : List Byte) (s : State) : Res :=
  s.onCmd c.val 0 9 fun x m =>
    let v := m.dw 11
    let f := x.feat
    let bad := s.nvmeEnd c.val 0 m.cid nvInvalidField
    let put (g : NvmeFeat) (dw0 : Nat) := (s.setCtrl c.val { x with feat := g, psBack := none }).nvmeEnd c.val 0 m.cid nvOk dw0
    if natBit (m.dw 10) 31 then s.nvmeEnd c.val 0 m.cid nvNotSaveable
    else
      match m.dw 10 % 256 with
      | 0x01 => if v / 2 ^ 8 ≠ 0 ∨ v % 8 ≠ 0 then bad else put f 0
      | 0x02 => if 4 < v % 32 then bad else put { f with ps := v % 32 } 0
      | 0x04 =>
        if v / 2 ^ 16 % 16 ≠ 0 ∨ 1 < v / 2 ^ 20 % 4 then bad
        else (put (if v / 2 ^ 20 % 4 = 0 then { f with hotAt := v % 65536 } else { f with coldAt := v % 65536 }) 0).showTemp c.val
      | 0x06 => put { f with wce := natBit v 0 } 0
      | 0x07 =>
        if 1 < x.sqs.length ∨ 1 < x.cqs.length then s.nvmeEnd c.val 0 m.cid nvSequence
        else if v % 65536 = 65535 ∨ v / 65536 = 65535 then bad
        else
          let a := min (v % 65536 + 1) x.maxIoq
          let b := min (v / 65536 + 1) x.maxIoq
          put { f with grant := a, grantCq := b } ((b - 1) * 65536 + (a - 1))
      | 0x08 => put { f with coal := v % 65536 } 0
      | 0x09 =>
        let rest := f.noCoal.filter (· != v % 65536)
        put { f with noCoal := if natBit v 16 then insertNat rest (v % 65536) else rest } 0
      | 0x0B => put { f with aec := v % 256 + b2n (natBit v 9) * 512 } 0
      | 0x0C =>
        let g := s.cmdSegs x m 256 prps
        if g.2.1 ≠ nvOk then g.1.nvmeEnd c.val 0 m.cid g.2.1
        else
          let r := g.1.hostReads x.fn g.2.2
          if !r.2 then r.1.nvmeEnd c.val 0 m.cid nvTransferError
          else (r.1.setCtrl c.val { x with feat := { f with apste := natBit v 0, apst := fitBytes 256 data },
                                           psBack := if natBit v 0 then x.psBack else none }).nvmeEnd c.val 0 m.cid nvOk
      | _ => bad

/-! ### Abort and events (R378, R387) -/

/-- ABORT (R378): the order of commands is the order at the completion arbiter. -/
def execNvmeAbort (c : Fin 1024) (s : State) : Res :=
  s.onCmd c.val 0 8 fun x m =>
    let sq := m.dw 10 % 65536
    let cid := m.dw 10 / 65536
    let lost := (s.nveCount 5).nvmeEnd c.val 0 m.cid nvOk 1
    match x.cmds.find? fun n => n.is sq cid && !n.is 0 m.cid with
    | none => lost
    | some n =>
      match n.st with
      | .done _ => lost
      | _ => (((s.cutCmd n).nvmeEnd c.val sq cid nvAbortRequested).nveCount 4).nvmeEnd c.val 0 m.cid nvOk 0

/-- ASYNCHRONOUS_EVENT_REQUEST (R387). -/
def execAsynchronousEventRequest (c : Fin 1024) (s : State) : Res :=
  s.onCmd c.val 0 12 fun x m =>
    if x.cmds.any (fun n => n.st == .event) then s.nvmeEnd c.val 0 m.cid nvAerLimit
    else (s.setCmd c.val 0 m.cid .event).aerTry c.val

/-- TEMPERATURE_THRESHOLD (R386, R387): the composite temperature, in kelvin, as a controller meets it. -/
def execTemperatureThreshold (c : Fin 1024) (kelvin : BitVec 16) (s : State) : Res :=
  .next ({ s with nve := { s.nve with temp := kelvin.toNat } }.showTemp c.val)

/-- APST_IDLE (R385): the idle time of the table's entry has passed with no command outstanding but an Asynchronous Event Request. -/
def execApstIdle (c : Fin 1024) (s : State) : Res :=
  match s.ctrl? c.val with
  | none => .next s
  | some x =>
    let e := leNat (sliceBytes x.feat.apst (8 * x.feat.ps) 8)
    let itps := e / 8 % 32
    let itpt := e / 256 % 2 ^ 24
    if !x.rdy || !x.feat.apste || decide (2 < x.feat.ps) || itpt == 0 || decide (4 < itps) || x.cmds.any (fun m => m.st != .event) then
      .next s
    else .next ((s.after (x.idleSince + itpt * msT)).setCtrl c.val { x with psBack := some x.feat.ps, feat := { x.feat with ps := itps } })

/-- SMART_COUNTER_UPDATE (Table 13-5): at the next multiple of 60 s the counters go to MRAM. -/
def execSmartCounterUpdate (s : State) : Res :=
  let s1 := s.after ((s.now / (60 * secT) + 1) * (60 * secT))
  .next ((Tab.keys s1.nve.ctrls).foldl (fun t c => t.saveSmart c) s1)

/-! ### I/O commands (R371, R374–R377) -/

/-- The namespace of an I/O command on blocks, or the status that stops the command. -/
def State.ioNs (s : State) (c : Nat) (m : NvmeCmd) (write : Bool) : Nat ⊕ (Nat × NvmeNs) :=
  match s.nsOf c (m.dw 1) with
  | none => .inl nvInvalidNs
  | some (i, n) =>
    if n.size < m.slba + m.nlb then .inl nvLbaRange
    else if write && n.ro then .inl nvWriteProtected
    else if n.fault.isSome then .inl (if write then nvWriteFault else nvReadError)
    else .inr (i, n)

/-- A write with its data: to the buffer, in wait for room, or through to the backend (R374). -/
def State.writeData (s : State) (c : Nat) (x : NvmeCtrl) (m : NvmeCmd) (i : Nat) (n : NvmeNs) (data dest : List Byte) : State :=
  if x.feat.wce ∧ n.limit ≠ 0 then
    let waits := x.cmds.any fun k => (match k.st with | .waitBuf _ _ => k.dw 1 == m.dw 1 | _ => false)
    if s.bufferRoom i n data.length && !waits then s.completeBuffered c m i n data dest
    else s.setCmd c m.sq m.cid (.waitBuf data dest)
  else
    let ps := writePieces n.block m.slba data
    let s1 := ps.foldl (fun t p => t.newMsg { ns := i, slba := p.1, nlb := p.2.1, use := .thru c m.sq m.cid, data := p.2.2,
                                              dest := dest, st := .waiting, discard := false }) s
    s1.setCmd c m.sq m.cid (.thru ((List.range ps.length).map fun k => s.nve.next + k))

/-- NVME_WRITE: `prps` and `data` are what the reads of the PRP list and of the data return, `dest` what that of the destination
record will. -/
def execNvmeWrite (c : Fin 1024) (sq : Nat) (prps : List Nat) (data dest : List Byte) (s : State) : Res :=
  if sq = 0 then .next s
  else s.onCmd c.val sq 1 fun x m =>
    match s.ioNs c.val m true with
    | .inl st => s.nvmeEnd c.val sq m.cid st
    | .inr (i, n) =>
      let len := m.nlb * n.block
      if mib < len then s.nvmeEnd c.val sq m.cid nvInvalidField
      else
        let g := s.cmdSegs x m len prps
        if g.2.1 ≠ nvOk then g.1.nvmeEnd c.val sq m.cid g.2.1
        else
          let r := g.1.hostReads x.fn g.2.2
          if r.2 then r.1.writeData c.val x m i n (fitBytes len data) dest else r.1.nvmeEnd c.val sq m.cid nvTransferError

/-- NVME_WRITE_ZEROES. -/
def execNvmeWriteZeroes (c : Fin 1024) (sq : Nat) (dest : List Byte) (s : State) : Res :=
  if sq = 0 then .next s
  else s.onCmd c.val sq 8 fun x m =>
    match s.ioNs c.val m true with
    | .inl st => s.nvmeEnd c.val sq m.cid st
    | .inr (i, n) => s.writeData c.val x m i n (zeroBytes (m.nlb * n.block)) dest

/-- The newest of some buffered writes that holds a block. -/
def State.newestBuf (s : State) (pins : List Nat) (lba : Nat) : Option NveBuf :=
  ((s.nve.bufs.filter fun p => pins.contains p.1 && decide (p.2.slba ≤ lba) && decide (lba < p.2.slba + p.2.nlb)).getLast?).map Prod.snd

/-- A Read has all its data: each block from its newest pinned write or from the backend; a marked word is unrecovered (R375, R389). -/
def State.finishRead (s : State) (c : Nat) (m : NvmeCmd) (n : NvmeNs) (pins : List Nat) (segs : List (Nat × Nat))
    (backend : List Byte) : State :=
  let lbas := (List.range m.nlb).map fun k => m.slba + k
  let data := (lbas.map fun l => match s.newestBuf pins l with
    | some b => sliceBytes b.data ((l - b.slba) * n.block) n.block
    | none => fitBytes n.block (sliceBytes backend ((l - m.slba) * n.block) n.block)).flatten
  let f := ((s.ctrl? c).map NvmeCtrl.fn).getD 0
  let s1 := s.unpin pins
  if lbas.any (fun l => ((s.newestBuf pins l).map NveBuf.bad).getD false) then s1.nvmeEnd c m.sq m.cid nvReadError
  else
    let w := s1.hostWrites f segs data
    if w.2 then (((w.1.smartCount c 0 data.length).smartCount c 2 1)).nvmeEnd c m.sq m.cid nvOk
    else w.1.nvmeEnd c m.sq m.cid nvTransferError

/-- NVME_READ (R375): it pins the buffered writes that overlap it and were there when it was fetched, and asks the backend for the blocks if they do not cover it. -/
def execNvmeRead (c : Fin 1024) (sq : Nat) (prps : List Nat) (dest : List Byte) (s : State) : Res :=
  if sq = 0 then .next s
  else s.onCmd c.val sq 2 fun x m =>
    match s.ioNs c.val m false with
    | .inl st => s.nvmeEnd c.val sq m.cid st
    | .inr (i, n) =>
      let len := m.nlb * n.block
      if mib < len then s.nvmeEnd c.val sq m.cid nvInvalidField
      else
        let g := s.cmdSegs x m len prps
        if g.2.1 ≠ nvOk then g.1.nvmeEnd c.val sq m.cid g.2.1
        else
          let pins := (g.1.nve.bufs.filter fun p => decide (p.1 < m.mark) && rangesMeet p.2.ns p.2.slba p.2.nlb i m.slba m.nlb).map
            Prod.fst
          let pin (k : Nat) (b : NveBuf) : NveBuf := if pins.contains k then { b with pins := b.pins + 1 } else b
          let s1 := { g.1 with nve := { g.1.nve with bufs := Tab.mapVals g.1.nve.bufs pin } }
          if (List.range m.nlb).all fun k => (s1.newestBuf pins (m.slba + k)).isSome then
            (s1.nveCount 1).finishRead c.val m n pins g.2.2 []
          else
            let id := s1.nve.next
            (s1.newMsg { ns := i, slba := m.slba, nlb := m.nlb, use := .read c.val sq m.cid, data := [], dest := dest, st := .waiting,
                         discard := false }).setCmd c.val sq m.cid (.reading id pins g.2.2)

/-- NVME_FLUSH (R377): the buffered writes that were there when it was fetched. -/
def execNvmeFlush (c : Fin 1024) (sq : Nat) (s : State) : Res :=
  if sq = 0 then .next s
  else s.onCmd c.val sq 0 fun _ m =>
    let all := m.dw 1 == 0xFFFFFFFF
    let nss := if all then (s.ctrlNss c.val).map Prod.fst else ((s.nsOf c.val (m.dw 1)).map Prod.fst).toList
    if !all && nss.isEmpty then s.nvmeEnd c.val sq m.cid nvInvalidNs
    else if nss.any (fun n => ((s.ns? n).bind NvmeNs.fault).isSome) then s.nvmeEnd c.val sq m.cid nvWriteFault
    else
      s.setCmd c.val sq m.cid (.flush ((s.nve.bufs.filter fun p => nss.contains p.2.ns && decide (p.1 < m.mark)).map Prod.fst))

/-! ### Ends of backend messages (R375, R376) -/

/-- The status with which a message of a kind has ended. -/
def NveMsg.ended? (m : NveMsg) : Option Nat := match m.st with
  | .ended st => some st
  | _ => none

/-- BACKEND_READ_DONE. -/
def execBackendReadDone (msg : Nat) (s : State) : Res :=
  match Tab.look s.nve.msgs msg with
  | none => .next s
  | some m =>
    match m.use, m.ended? with
    | .read c sq cid, some st =>
      let s1 := s.dropMsg msg
      match (s.ctrl? c).bind fun x => x.cmds.find? fun k => k.is sq cid && k.msgs.contains msg with
      | none => .next s1.nvmeSettle
      | some k =>
        match k.st, s.ns? m.ns with
        | .reading _ pins segs, some n =>
          if st = stOk then .next (s1.finishRead c k n pins segs m.data).nvmeSettle
          else .next ((s1.unpin pins).nvmeEnd c sq cid nvReadError).nvmeSettle
        | _, _ => .next (s1.nvmeEnd c sq cid nvReadError).nvmeSettle
    | _, _ => .next s

/-- BACKEND_WRITE_DONE (R374): the write completes with the last of its messages, or fails with one. -/
def execBackendWriteDone (msg : Nat) (s : State) : Res :=
  match Tab.look s.nve.msgs msg with
  | none => .next s
  | some m =>
    match m.use, m.ended? with
    | .thru c sq cid, some st =>
      let s1 := s.dropMsg msg
      match (s.ctrl? c).bind fun x => x.cmds.find? fun k => k.is sq cid && k.msgs.contains msg with
      | none => .next s1.nvmeSettle
      | some k =>
        let left := k.msgs.filter (· != msg)
        if st ≠ stOk then .next ((left.foldl (fun t i => t.discardMsg i) s1).nvmeEnd c sq cid nvWriteFault).nvmeSettle
        else if left.isEmpty then
          let len := k.nlb * ((s.ns? m.ns).map NvmeNs.block).getD 512
          .next (((s1.smartCount c 1 len).smartCount c 3 1).nvmeEnd c sq cid nvOk).nvmeSettle
        else .next (s1.setCmd c sq cid (.thru left)).nvmeSettle
    | _, _ => .next s

/-- Does a destage with this status fault the namespace (R376)? -/
def destageFaults (st : Nat) : Bool := st == stRemoteAccessViolation || st == stNoEndpoint || st == stNbRange || st == stKeyExhausted

/-- A buffered write replaced. -/
def State.setBuf (s : State) (i : Nat) (b : NveBuf) : State := { s with nve := { s.nve with bufs := Tab.put s.nve.bufs i b } }

/-- DESTAGE_DONE (R376): the write leaves the buffer unless it is pinned, waits for its retry, or faults the namespace. -/
def execDestageDone (msg : Nat) (s : State) : Res :=
  match Tab.look s.nve.msgs msg with
  | none => .next s
  | some m =>
    match m.use, m.ended? with
    | .destage i, some st =>
      let s1 := s.dropMsg msg
      if m.discard then .next s1.nvmeSettle
      else match Tab.look s1.nve.bufs i, s1.ns? m.ns with
      | some b, some n =>
        let c := n.attached.map Prod.fst
        let warn (t : State) : State := match c with | some k => t.showWarn k | none => t
        if st = stOk then
          .next (warn (((s1.setBuf i { b with st := .destaged }).nveCount 2).setNs m.ns { n with failSince := none }).freeBufs).nvmeSettle
        else
          let s2 := s1.setBuf i { b with st := .retry (s.now + b.delay) (min (2 * b.delay) secT), delay := min (2 * b.delay) secT }
          if destageFaults st then .next (s2.faultNs m.ns st).nvmeSettle
          else .next (s2.setNs m.ns { n with failSince := some (n.failSince.getD s.now) }).nvmeSettle
      | _, _ => .next s1.nvmeSettle
    | _, _ => .next s

/-- DESTAGE_RETRY: the delay of a buffered write has passed and its namespace is in service; `dest` is what the read of its
destination record returns. -/
def execDestageRetry (buf : Nat) (dest : List Byte) (s : State) : Res :=
  match Tab.look s.nve.bufs buf with
  | none => .next s
  | some b =>
    match b.st with
    | .retry t _ =>
      if s.nveHeld || b.bad || ((s.ns? b.ns).bind NvmeNs.fault).isSome then .next s
      else
        let s1 := (s.after t).nveCount 3
        let s2 := s1.setBuf buf { b with st := .destaging s1.nve.next, dest := dest }
        .next (s2.newMsg { ns := b.ns, slba := b.slba, nlb := b.nlb, use := .destage buf, data := b.data, dest := dest, st := .waiting,
                           discard := false }).nvmeSettle
    | _ => .next s

/-- DESTAGE_FAILURE_WARNING: destages of a namespace have failed for 10 s. -/
def execDestageFailureWarning (ns : Fin 8192) (s : State) : Res :=
  match s.ns? ns.val with
  | none => .next s
  | some n =>
    match n.failSince, n.attached with
    | some t, some (c, _) => .next ((s.after (t + 10 * secT)).setWarn c 2 true)
    | _, _ => .next s

/-! ### Namespace commands (R368, R390) -/

/-- A namespace command is written to NVE_NS_CMD by the configuration owner or firmware, and done; another initiator that the
tables admit completes ACCESS_VIOLATION. -/
def State.nsCommand (s : State) (init op : Nat) (ns : Fin 8192) (f : State → Nat × State) : Res :=
  let a := s.blockAccess 19 .write init 0
  if !a.2 || a.1.flag NVE_NS_CMD.busy then .next a.1
  else
    let s1 := (a.1.setF NVE_NS_CMD.op op).setF NVE_NS_CMD.ns ns.val
    let r := if s1.isOwner init || decide (init < 0x20) then f s1 else (stAccessViolation, s1)
    .next (r.2.setF NVE_NS_CMD.result r.1).nvmeSettle

/-- Is a namespace attached to a controller with CC.EN at 1? -/
def State.nsBusy (s : State) (n : NvmeNs) : Bool :=
  match n.attached with
  | some (c, _) => ((s.ctrl? c).map NvmeCtrl.enabled).getD false
  | none => false

/-- NS_CREATE. -/
def execNsCreate (init : Nat) (ns : Fin 8192) (s : State) : Res :=
  s.nsCommand init 1 ns fun u =>
    let w (i : Nat) : Word := u.reg .NVE_NS_DATA i
    let ep := (w 0).bits 63 40
    let limit := (w 1).bits 31 0
    if (w 3).toNat = 0 ∨ Tab.has u.drt.eps ep = false ∨ (w 1).bits 63 32 = 0 ∨ 16384 < limit then (stMalformed, u)
    else if Tab.has u.nve.nss ns.val then (stRefusedState, u)
    else
      (stOk, u.setNs ns.val { ep := ep, destRef := (w 0).bits 39 8, big := natBit (w 0).toNat 7, ro := natBit (w 0).toNat 6,
                              region := (w 1).bits 63 32, limit := limit, offset := (w 2).toNat, size := (w 3).toNat, fault := none,
                              attached := none, failSince := none })

/-- NS_DELETE: the buffered writes go with it; messages of theirs that run on are discarded. -/
def execNsDelete (init : Nat) (ns : Fin 8192) (s : State) : Res :=
  s.nsCommand init 2 ns fun u =>
    match u.ns? ns.val with
    | none => (stMalformed, u)
    | some n =>
      if u.nsBusy n then (stRefusedState, u)
      else
        let ids := (u.nve.msgs.filter fun p => p.2.ns == ns.val).map Prod.fst
        let u1 := ids.foldl (fun t i => t.discardMsg i) u
        (stOk, { u1 with nve := { u1.nve with bufs := Tab.keep u1.nve.bufs fun _ b => b.ns != ns.val,
                                              nss := Tab.del u1.nve.nss ns.val } }.showNve)

/-- NS_ATTACH. -/
def execNsAttach (init : Nat) (ns : Fin 8192) (controller : Fin 1024) (nsid : BitVec 8) (s : State) : Res :=
  s.nsCommand init 3 ns fun u =>
    let u := (u.setF NVE_NS_CMD.controller controller.val).setF NVE_NS_CMD.nsid nsid.toNat
    match u.ns? ns.val, u.ctrl? controller.val with
    | some n, some _ =>
      if n.attached.isSome ∨ (u.nsOf controller.val (nsid.toNat + 1)).isSome = true then (stRefusedState, u)
      else (stOk, (u.setNs ns.val { n with attached := some (controller.val, nsid.toNat + 1) }).showWarn controller.val)
    | _, _ => (stMalformed, u)

/-- NS_DETACH. -/
def execNsDetach (init : Nat) (ns : Fin 8192) (s : State) : Res :=
  s.nsCommand init 4 ns fun u =>
    match u.ns? ns.val with
    | none => (stMalformed, u)
    | some n =>
      if u.nsBusy n then (stRefusedState, u)
      else
        let u1 := u.setNs ns.val { n with attached := none }
        (stOk, match n.attached with | some (c, _) => u1.showWarn c | none => u1)

/-- NS_QUERY. -/
def execNsQuery (init : Nat) (ns : Fin 8192) (s : State) : Res :=
  s.nsCommand init 5 ns fun u =>
    let n := u.ns? ns.val
    let st := match n with | none => 0 | some x => if x.fault.isSome then 2 else 1
    (stOk, ((u.setF NVE_NS_STATUS.state st).setF NVE_NS_STATUS.fault ((n.bind NvmeNs.fault).getD 0)).setF NVE_NS_STATUS.buffered
      (ceilDiv (u.nsBuffered ns.val) mib))

/-- CLEAR_FAULT. -/
def execClearFault (init : Nat) (ns : Fin 8192) (s : State) : Res :=
  s.nsCommand init 6 ns fun u =>
    match u.ns? ns.val with
    | none => (stMalformed, u)
    | some n =>
      let u1 := u.setNs ns.val { n with fault := none }
      (stOk, match n.attached with | some (c, _) => u1.showWarn c | none => u1)

end Sys2Proof.Machine
end

