-- ==== Sys2Proof/Machine/Clock.lean ====
section
/-! DEFINITION. What time brings by itself: one tick of 1/7 ns, with the work that waits for nothing else. -/

namespace Sys2Proof.Machine

/-- A tick: time passes by 1/7 ns; output pulses whose width has run out fall (R88), channel operations and
delays of the flow cores that are due come true (R400, R404), NVMe queues whose coalescing time has run out signal, and the
NVMe functions go on with what waits (R373–R377). -/
def State.tick (s : State) : State := ({ s with now := s.now + 1 }.endPulses.settleCores.signalQueues).nvmeSettle

end Sys2Proof.Machine
end

