-- ==== Sys2Proof/Machine/Formes.lean ====
section
/-! DEFINITION. Composing, locking up and retiring formes: the meanings of the forme commands (spec/04, R98–R111, R123,
R124). -/

namespace Sys2Proof.Machine

/-! ### The command unit (R110) -/

/-- May forme commands be given at all in this mode, and by this origin: the configuration owner's function-level ring or
register (R110)? -/
def State.formeOwner (s : State) (o : Origin) : Bool :=
  !(s.mode == mStandalone || s.mode == mSafeHold || s.mode == mDarkroom) && s.isOwner (s.originInit o)
    && (s.originSlice o).isNone

/-- A forme command is taken: a register form passes its access check, is ignored while busy and stores its fields; a ring
form waits while the unit is busy. The flag says that the command runs in the state given. -/
def State.formeTake (s : State) (o : Origin) (op : Nat) (addr : Nat) : State × Bool :=
  match o with
  | .reg init =>
    let a := s.blockAccess 7 .write init 0
    if !a.2 || a.1.flag FRM_CMD.busy then (a.1, false)
    else ((a.1.setF FRM_CMD.op op).setF FRM_CMD.addr (addr / 64), true)
  | .ring _ _ _ => (s, !s.flag FRM_CMD.busy)

/-- A forme command completes: FRM_CMD for the register form, the completion of Table 11-5 for a ring entry. -/
def State.formeEnd (s : State) (o : Origin) (status number : Nat) (seq : Nat := 0) : State :=
  match o with
  | .reg _ => ((s.setF FRM_CMD.result status).setF FRM_CMD.number number).setF FRM_CMD.busy 0
  | .ring _ _ _ => s.complete o status (leBytes 1 number ++ zeroBytes 3 ++ leBytes 4 seq)

/-- The chase shows as number of the commands that act on it. -/
def State.chaseNumber (s : State) : Nat := s.chase?.getD 0

/-- OPEN (R110, Table 4-4): the lowest FREE number becomes the chase. -/
def execFormeOpen (o : Origin) (s : State) : Res :=
  let b := s.formeTake o 1 (s.getF FRM_CMD.addr * 64)
  let s := b.1
  if !b.2 then .next s
  else if !s.formeOwner o then .next (s.formeEnd o stRefusedState 0)
  else if s.chase?.isSome then .next (s.formeEnd o stRefusedState s.chaseNumber)
  else
    match (List.range 8).find? fun n => s.formeState n == 0 with
    | none => .next (s.formeEnd o stFormeBusy 0)
    | some n => .next ((s.setFormeState n 1).formeEnd o stOk n)

/-! ### LOAD (R123, R124) -/

/-- Do the action records of an image keep the rules of R124: tagged FROM the chase, each naming a slot that holds no
entry, none twice? -/
def State.imgActionsOk (s : State) (acts : List (Nat × Nat)) (chase : Nat) : Bool :=
  (acts.all fun a => decide (a.1 < 65536) && imgVis 3 a.2 == 2 && imgVf 3 a.2 == chase && s.entry 3 a.1 == 0)
    && decide (acts.map Prod.fst).Nodup

/-- A checked image is written: its action records, then the slot, which becomes READY. -/
def State.installForme (s : State) (n : Nat) (img : List Byte) : State :=
  let s1 := (imgActions img).foldl (fun u a => u.writeEntry 3 a.1 a.2) s
  let s2 := { s1 with frm := { s1.frm with slots := Tab.put s1.frm.slots n (imgForme img) } }
  ((s2.setReg .FRM_SLOT_ID (BitVec.ofNat 64 (imgLe img 16 8)) n).setFormeState n 2).showTables

/-- An image loaded into the chase: whether it keeps every rule, and the state it leaves (R124). -/
def State.loadForme (s : State) (n : Nat) (img : List Byte) : State × Nat :=
  let s1 := s.setFormeState n 1
  if imgHeaderOk img && imgSectionsOk img && imgRefsOk img && s1.imgActionsOk (imgActions img) n then
    (s1.installForme n img, stOk)
  else (s1, stMalformed)

/-- LOAD (R124): the image at an address of module memory, or at a host bus address whose content is `img`, is checked
whole and then written into the chase slot and the action table. -/
def execFormeLoad (o : Origin) (addr : Nat) (img : List Byte) (s : State) : Res :=
  let b := s.formeTake o 2 addr
  let s := b.1
  if !b.2 then .next s
  else if !s.formeOwner o then .next (s.formeEnd o stRefusedState 0)
  else
    match s.chase? with
    | none => .next (s.formeEnd o stRefusedState 0)
    | some n =>
      match o with
      | .reg _ =>
        let a := addr % 2 ^ 48 / 64 * 64
        let r := s.loadForme n (s.bytes a (imgLe (s.bytes a 64) 8 4))
        .next (r.1.formeEnd o r.2 n)
      | .ring _ _ _ =>
        let f := s.originInit o
        let img := if f < 0x800 then s.bytes addr (imgLe (s.bytes addr 64) 8 4) else img
        let c := s.dmaCheck f none false addr img.length
        if !c.2 then .next (c.1.formeEnd o stAccessViolation n)
        else if addr % 64 ≠ 0 then .next (c.1.formeEnd o stMalformed n)
        else
          let r := (c.1.issueRead f none addr img.length).loadForme n img
          .next (r.1.formeEnd o r.2 n)

/-! ### Lock-up (R111) -/

/-- LOCK-UP is taken (R111, FCLK W): refused unless a number is READY; it then stands in its check step until
LOCK_UP_COMMIT. -/
def execFormeLockUp (o : Origin) (s : State) : Res :=
  let b := s.formeTake o 3 (s.getF FRM_CMD.addr * 64)
  let s := b.1
  if !b.2 then .next s
  else if !s.formeOwner o then .next (s.formeEnd o stRefusedState 0)
  else
    match s.chase? with
    | some n =>
      if s.formeState n = 2 then
        let s1 := (s.setF FRM_CMD.busy 1).setF FRM_CMD.number n
        .next { s1 with frm := { s1.frm with lockup := some (o, s1.now) } }
      else .next (s.formeEnd o stRefusedState n)
    | none => .next (s.formeEnd o stRefusedState 0)

/-- The commit of a lock-up (R111): the READY number becomes CURRENT, the old CURRENT becomes RETIRING, lockup_seq counts,
and without an older live forme the settle sweep starts. -/
def State.lockUpNumber (s : State) (n : Nat) : State :=
  let s0 := if s.flag FRM_STATE.current_valid then s.setFormeState (s.getF FRM_STATE.current) 4 else s
  let s1 := (((s0.setFormeState n 3).setF FRM_STATE.current n).setF FRM_STATE.current_valid 1).bump FRM_STATE.lockup_seq
  let s2 := { s1 with frm := { s1.frm with order := s1.frm.order ++ [n] } }
  if s.frm.order.isEmpty then s2.queueSweep n false else s2

/-- A lock-up ends for whoever asked: FRM_CMD or the ring, or on a cascade's master ODF_CMD (R498). -/
def State.lockUpEnd (s : State) (o : Origin) (status number seq : Nat) : State :=
  match s.odf.lockAt with
  | none => (s.setF FRM_CMD.busy 0).formeEnd o status number seq
  | some _ =>
    let s1 := { s with odf := { s.odf with lockAt := none } }
    if s1.flag ODF_CMD.busy then
      (s1.setF ODF_CMD.result (if s1.getF ODF_CMD.refused = 0 then status else stFormeBusy)).setF ODF_CMD.busy 0
    else s1

/-- LOCK_UP_COMMIT (R111, R498): two FCLK after the command was taken, and in a cascade once island time has reached the agreed
instant, the CURRENT register takes the READY number in one FCLK; the command completes in the next. -/
def execLockUpCommit (s : State) : Res :=
  match s.frm.lockup, s.chase? with
  | some (o, at_), some n =>
    let s0 := { s with frm := { s.frm with lockup := none } }
    if s.formeState n = 2 then
      let due := match s0.odf.lockAt with
        | some t => s0.now + (t - s0.timeNow / 2 ^ 16) * nsT
        | none => at_ + 2 * fclk
      let s1 := (s0.after due).lockUpNumber n
      .next (s1.lockUpEnd o stOk n (s1.getF FRM_STATE.lockup_seq))
    else .next (s0.lockUpEnd o stRefusedState n 0)
  | _, _ => .next s

/-! ### Discard -/

/-- A chase is discarded: it becomes SETTLING and its discard sweep is due (Table 4-4). -/
def State.discardForme (s : State) (n : Nat) : State :=
  let s1 := s.setFormeState n 5
  { s1 with frm := { s1.frm with discarded := insertNat s1.frm.discarded n } }.queueSweep n true

/-- DISCARD (R110, Table 4-4). -/
def execFormeDiscard (o : Origin) (s : State) : Res :=
  let b := s.formeTake o 4 (s.getF FRM_CMD.addr * 64)
  let s := b.1
  if !b.2 then .next s
  else if !s.formeOwner o then .next (s.formeEnd o stRefusedState 0)
  else
    match s.chase? with
    | none => .next (s.formeEnd o stRefusedState 0)
    | some n => .next ((s.discardForme n).formeEnd o stOk n)

/-! ### The standalone forme (R53, R54, R110) -/

/-- The module installs the standalone forme: a chase is discarded first, the lowest free number is opened, loaded and
locked up. While no number is free it waits for the next retirement. -/
def State.installStandalone (s : State) : State :=
  let s1 := match s.chase? with
    | some n => s.discardForme n
    | none => s
  match (List.range 8).find? fun n => s1.formeState n == 0 with
  | none => { s1 with frm := { s1.frm with installing := true } }
  | some n =>
    let s2 := { s1 with frm := { s1.frm with installing := false, slots := Tab.put s1.frm.slots n s1.frm.standalone } }
    (s2.setFormeState n 2).lockUpNumber n

/-- A waiting installation goes on once a number may be free. -/
def State.resumeInstall (s : State) : State := if s.frm.installing then s.installStandalone else s

/-! ### Retirement -/

/-- FORME_RETIRED and FORME_FREE to the configuration owner (R102, Table 11-11). -/
def State.formeEvent (s : State) (typ n : Nat) : State :=
  s.postEvent .owner ⟨typ, none, leBytes 1 n ++ zeroBytes 3 ++ leBytes 4 (s.getF FRM_STATE.lockup_seq)⟩

/-- A number returns to FREE: its slot is empty and it is no longer settled or discarded. -/
def State.freeForme (s : State) (n : Nat) : State :=
  let s1 := (s.setFormeState n 0).setReg .FRM_SLOT_ID 0 n
  { s1 with frm := { s1.frm with slots := Tab.del s1.frm.slots n, settled := s1.frm.settled.filter (· != n),
                                 discarded := s1.frm.discarded.filter (· != n) } }

/-- Is the settle sweep of a number still to run or running? -/
def State.sweepOpen (s : State) (n : Nat) : Bool :=
  (s.frm.waiting.any fun p => p.1 == n) || (match s.frm.sweep with | some w => w.num == n | none => false)

/-- FORME_RETIRED (R102): the oldest live forme, RETIRING with no packet left, retires; it is FREE if its settle sweep has
finished, SETTLING otherwise, and the sweep of the next oldest starts (R106). -/
def execFormeRetired (s : State) : Res :=
  match s.frm.order with
  | [] => .next s
  | n :: rest =>
    if s.formeState n ≠ 4 ∨ s.getF FRM_REF.packets n ≠ 0 then .next s
    else
      let s1 := { s with frm := { s.frm with order := rest } }
      let s2 := if s.sweepOpen n then (s1.setFormeState n 5).formeEvent 0x05 n
        else ((s1.freeForme n).formeEvent 0x05 n).formeEvent 0x06 n
      match rest with
      | [] => .next s2.resumeInstall
      | m :: _ => .next (s2.queueSweep m false).resumeInstall

/-- The running sweep is over: every engine has finished its walk (R107). -/
def State.finishSweep (s : State) (w : Sweep) : State :=
  let s1 := (s.after ((w.ends + 1) * fclk)).advanceSweep
  { s1 with frm := { s1.frm with sweep := none } }.setF FRM_STATE.sweep_active 0

/-- SETTLE_SWEEP_DONE (R102, R106): a number that has retired meanwhile becomes FREE, and the next sweep starts. -/
def execSettleSweepDone (s : State) : Res :=
  match s.frm.sweep with
  | none => .next s
  | some w =>
    if w.discard then .next s
    else
      let s1 := s.finishSweep w
      let s2 := if s1.formeState w.num = 5 then (s1.freeForme w.num).formeEvent 0x06 w.num else s1
      .next s2.startSweep.resumeInstall

/-- DISCARD_SWEEP_DONE (R110): the discarded number becomes FREE. -/
def execDiscardSweepDone (s : State) : Res :=
  match s.frm.sweep with
  | none => .next s
  | some w =>
    if !w.discard then .next s
    else .next (((s.finishSweep w).freeForme w.num).formeEvent 0x06 w.num).startSweep.resumeInstall

end Sys2Proof.Machine
end

