-- ==== Sys2Proof/Machine/TmOps.lean ====
section
/-! DEFINITION. The traffic manager's nodes, shapers, admission and drops, as its commands share them (spec/06). -/

namespace Sys2Proof.Machine

/-! ### Nodes (R160–R163) -/

/-- Nodes on a level (Table 6-1). -/
def levelSize (l : Nat) : Nat :=
  if l = 1 then 18 else if l = 2 then 1024 else if l = 3 then 16384 else if l = 4 then 32768 else if l = 5 then 131072 else 0

/-- The key of a node. -/
def nodeKey (l i : Nat) : Nat := l * 2 ^ 18 + i

/-- The record of a node that nothing has written; outputs are always valid. -/
def NodeRec.reset (l : Nat) : NodeRec := ⟨if l = 1 then BitVec.ofNat 64 (2 ^ 63) else 0, 0, 0, 0⟩

/-- A node's record in a copy. -/
def nodeIn (t : Tab NodeRec) (l i : Nat) : NodeRec := Tab.getD (NodeRec.reset l) t (nodeKey l i)

/-- A node's live record. -/
def State.node (s : State) (l i : Nat) : NodeRec := nodeIn s.tm.live l i

def NodeRec.valid (n : NodeRec) : Bool := n.w0.bits 63 63 == 1
def NodeRec.priority (n : NodeRec) : Nat := n.w0.bits 62 60
def NodeRec.weight (n : NodeRec) : Nat := if n.w0.bits 59 52 = 0 then 1 else n.w0.bits 59 52
def NodeRec.slice (n : NodeRec) : Nat := n.w0.bits 51 38
def NodeRec.parent (n : NodeRec) : Nat := n.w0.bits 37 21
def NodeRec.hasSlice (n : NodeRec) : Bool := n.w0.bits 20 20 == 1
def NodeRec.cir (n : NodeRec) : Nat := n.w1.bits 63 36
def NodeRec.cbs (n : NodeRec) : Nat := n.w1.bits 35 12
def NodeRec.pir (n : NodeRec) : Nat := n.w2.bits 63 36
def NodeRec.pbs (n : NodeRec) : Nat := n.w2.bits 35 12
def NodeRec.maxKib (n : NodeRec) : Nat := n.w3.bits 63 44
def NodeRec.yellowKib (n : NodeRec) : Nat := n.w3.bits 43 24
def NodeRec.redKib (n : NodeRec) : Nat := n.w3.bits 23 4

/-- The node exists in a copy: outputs always do (R163). -/
def nodeExists (t : Tab NodeRec) (l i : Nat) : Bool := decide (i < levelSize l) && (l == 1 || (nodeIn t l i).valid)

/-- The chain of a queue in a copy, from the queue up to its output; `none` where a node of it is not valid (R160). -/
def chainIn (t : Tab NodeRec) (q : Nat) : Option (List (Nat × Nat)) :=
  let c := (nodeIn t 5 q).parent
  let n := (nodeIn t 4 c).parent
  let g := (nodeIn t 3 n).parent
  let o := (nodeIn t 2 g).parent
  if nodeExists t 5 q && nodeExists t 4 c && nodeExists t 3 n && nodeExists t 2 g && nodeExists t 1 o then
    some [(5, q), (4, c), (3, n), (2, g), (1, o)]
  else none

/-- The chain of a queue in the live epoch. -/
def State.chain (s : State) (q : Nat) : Option (List (Nat × Nat)) := chainIn s.tm.live q

/-- The node of a level on a chain. -/
def chainAt (c : List (Nat × Nat)) (l : Nat) : Nat := ((c.find? fun n => n.1 == l).map Prod.snd).getD 0

/-- The slice that a queue's level-3 ancestor carries, if it carries one. -/
def State.queueSlice (s : State) (q : Nat) : Option Nat :=
  match s.chain q with
  | some c => let n := s.node 3 (chainAt c 3); if n.hasSlice then some n.slice else none
  | none => none

/-- The egress pipeline that an output feeds (Table 6-2). -/
def outputPipe (o : Nat) : Nat :=
  if o < 8 then o % 2 else if o < 12 then 2 + o % 2 else if o < 16 then o - 12 else o - 16

/-- The outputs that an egress pipeline considers (Table 6-2). -/
def pipeOutputs (ep : Nat) : List Nat := (List.range 18).filter fun o => outputPipe o == ep

/-! ### Shapers (R168–R170) -/

/-- The rate that means unshaped. -/
def unshaped : Nat := 0x0FFFFFFF

/-- A node that nothing has charged: buckets empty until they are filled, tags 0. -/
def NodeRun.reset : NodeRun :=
  { cl := 0, ct := 0, pl := 0, pt := 0, tagS := 0, tagF := 0, cand := false, bad := false }

/-- A node's running state. -/
def State.nrun (s : State) (l i : Nat) : NodeRun := Tab.getD NodeRun.reset s.tm.run (nodeKey l i)

/-- A node's running state replaced. -/
def State.setNrun (s : State) (l i : Nat) (r : NodeRun) : State :=
  { s with tm := { s.tm with run := Tab.setD NodeRun.reset s.tm.run (nodeKey l i) r } }

/-- A bucket refilled to an FCLK (R168). -/
def refill (level : Int) (last rate burst t : Nat) : Int :=
  min ((burst : Int) * 2 ^ 20) (level + (rate : Int) * ((t : Int) - last))

/-- A bucket charged; a level that would fall below −2^47 is held there (R168). -/
def charge (level : Int) (amount : Nat) : Int := max (-(2 ^ 47 : Int)) (level - (amount : Int) * 2 ^ 20)

/-- A node's buckets refilled to now; an unshaped one is never consulted. -/
def State.refillNode (s : State) (l i : Nat) : NodeRun :=
  let n := s.node l i
  let r := s.nrun l i
  let c := if n.cir = unshaped then r.cl else refill r.cl r.ct n.cir n.cbs s.fnow
  let p := if n.pir = unshaped then r.pl else refill r.pl r.pt n.pir n.pbs s.fnow
  { r with cl := c, ct := s.fnow, pl := p, pt := s.fnow }

/-- The shaper states. -/
inductive Shape where
  | blocked | committed | excess
deriving DecidableEq, Repr

/-- A node's shaper state (R169); an uncorrectable record makes it BLOCKED (R190). -/
def State.shape (s : State) (l i : Nat) : Shape :=
  let n := s.node l i
  let r := s.refillNode l i
  if r.bad ∨ n.pir = 0 ∨ (n.pir ≠ unshaped ∧ r.pl < 0) then .blocked
  else if n.cir ≠ 0 ∧ (n.cir = unshaped ∨ 0 ≤ r.cl) then .committed
  else .excess

/-- Every shaped bucket of a node is charged for `len` bytes (R170). -/
def State.chargeNode (s : State) (len : Nat) (x : Nat × Nat) : State :=
  let n := s.node x.1 x.2
  let r := s.refillNode x.1 x.2
  s.setNrun x.1 x.2 { r with
    cl := if n.cir = unshaped then r.cl else charge r.cl len
    pl := if n.pir = unshaped then r.pl else charge r.pl len }

/-! ### Tags (R166, R167) -/

/-- Is tag `a` before tag `b`: the sign of their difference modulo 2^48? -/
def tagBefore (a b : Nat) : Bool := decide (2 ^ 47 ≤ (a % 2 ^ 48 + 2 ^ 48 - b % 2 ^ 48) % 2 ^ 48)

/-- The later of two tags. -/
def tagMax (a b : Nat) : Nat := if tagBefore a b then b else a

/-- The key of a priority band of a node. -/
def bandKey (l i pr : Nat) : Nat := nodeKey l i * 8 + pr

/-- The virtual time of a node's band. -/
def State.vtime (s : State) (l i pr : Nat) : Nat := Tab.getD 0 s.tm.vt (bandKey l i pr)

/-- The virtual time of a node's band replaced. -/
def State.setVtime (s : State) (l i pr v : Nat) : State :=
  { s with tm := { s.tm with vt := Tab.setD 0 s.tm.vt (bandKey l i pr) v } }

/-- The queues that hold packets. -/
def State.busyQueues (s : State) : List Nat :=
  s.dp.lists.filterMap fun p => if p.1 / 2 ^ 20 = PktPlace.queue.code then some (p.1 % 2 ^ 20) else none

/-- Does a node hold a packet below it (or, on level 5, in it)? -/
def State.holdsBelow (s : State) (l i : Nat) : Bool :=
  s.busyQueues.any fun q => match s.chain q with
    | some c => c.contains (l, i)
    | none => false

/-- A queue's chain before a packet joins it: each node that held nothing takes S = max(V, F_last) (R167). -/
def State.wakeChain (s : State) (c : List (Nat × Nat)) : State :=
  c.foldl (fun u x =>
    if x.1 = 1 ∨ s.holdsBelow x.1 x.2 then u
    else
      let n := s.node x.1 x.2
      let r := u.nrun x.1 x.2
      u.setNrun x.1 x.2 { r with tagS := tagMax (s.vtime (x.1 - 1) n.parent n.priority) r.tagF, cand := true }) s

/-! ### Queues and drops -/

/-- The depth of a queue in bytes. -/
def State.queueBytes (s : State) (q : Nat) : Nat := ((s.pktsIn .queue q).map fun p => p.2.flen).sum

/-- Cells a packet takes (R176). -/
def Pkt.cells (p : Pkt) : Nat := ceilDiv p.flen 256

/-- Queued packets. -/
def State.queued (s : State) : List (Nat × Pkt) := s.busyQueues.flatMap fun q => s.pktsIn .queue q

/-- On-die cells that are free (R176). -/
def State.freeCells (s : State) : Nat := 262144 - ((s.queued.filter fun p => !p.2.spilled).map fun p => p.2.cells).sum

/-- Cells of the spill region that are free (R176, Table 1-9). -/
def State.freeSpill (s : State) : Nat := 2 ^ 33 / 256 - ((s.queued.filter fun p => p.2.spilled).map fun p => p.2.cells).sum

/-- TMG_NODE_STAT shows the addressed queue. -/
def State.showQueue (s : State) : State :=
  let q := s.getF TMG_NODE_ADDR.index
  if s.getF TMG_NODE_ADDR.level = 5 then
    (s.setF TMG_NODE_STAT.bytes (s.queueBytes q)).setF TMG_NODE_STAT.packets (s.lst .queue q).length
  else s.setReg .TMG_NODE_STAT 0

/-- TMG_NODE_CFG shows the addressed record; an invalid level or index reads 0. -/
def State.showNode (s : State) : State :=
  let l := s.getF TMG_NODE_ADDR.level
  let i := s.getF TMG_NODE_ADDR.index
  let n := if i < levelSize l then nodeIn (if s.flag TMG_NODE_ADDR.view then s.tm.live else s.tm.shadow) l i
    else ⟨0, 0, 0, 0⟩
  ((((s.setReg .TMG_NODE_CFG n.w0 0).setReg .TMG_NODE_CFG n.w1 1).setReg .TMG_NODE_CFG n.w2 2).setReg .TMG_NODE_CFG n.w3
    3).showQueue

/-- A write of TMG_NODE_CFG[i] reaches the shadow record that TMG_NODE_ADDR names: discarded with view 1 or an invalid
address, refused while an epoch request runs (R180, R182). -/
def State.writeNode (s : State) (i : Nat) (v : Word) : State :=
  let l := s.getF TMG_NODE_ADDR.level
  let k := s.getF TMG_NODE_ADDR.index
  if s.flag TMG_EPOCH.busy then s.refuseWrite 12 (0x10 + 8 * i)
  else if s.flag TMG_NODE_ADDR.view ∨ levelSize l ≤ k then s
  else
    let n := nodeIn s.tm.shadow l k
    let m := if i = 0 then { n with w0 := if v.bits 59 52 = 0 then v.setBits 59 52 1 else v } else if i = 1 then { n with w1 := v }
      else if i = 2 then { n with w2 := v } else { n with w3 := v }
    { s with tm := { s.tm with shadow := Tab.setD (NodeRec.reset l) s.tm.shadow (nodeKey l k) m } }.showNode

/-- A packet is dropped in the traffic manager, counted as kind `k` (TMG_DROP). -/
def State.tmDrop (s : State) (id k : Nat) : State := (s.bump TMG_DROP.count k).dropPkt id

/-- A queued packet is dropped, counted as kind `k`. -/
def State.dropQueued (s : State) (q id k : Nat) : State := (s.popLst .queue q id).tmDrop id k

/-- The packets of a set of queues are dropped, counted as kind `k`. -/
def State.dropQueues (s : State) (k : Nat) (qs : List Nat) : State :=
  (qs.foldl (fun u q => (u.lst .queue q).foldl (fun w id => w.dropQueued q id k) u) s).showQueue

/-- The queues below a slice's nodes. -/
def State.sliceQueues (s : State) (g : Nat) : List Nat := s.busyQueues.filter fun q => s.queueSlice q == some g

/-- Bytes of a slice's queued packets (R344). -/
def State.sliceQueuedBytes (s : State) (g : Nat) : Nat := ((s.sliceQueues g).map s.queueBytes).sum

/-- The age limit A in FCLK (R178; 1 µs is 1,400 FCLK). -/
def State.ageLimit (s : State) : Nat := s.getF TMG_AGE.limit * 1400

/-- A packet's age in FCLK. -/
def State.pktAge (s : State) (p : Pkt) : Nat := s.fnow - p.enqAt.getD s.fnow

/-! ### Outputs (R162) -/

/-- Does a direction of the ring reach a member: the link is up and every module on the way, the member included, is in
service (R492)? -/
def State.ringReaches (s : State) (l d : Nat) : Bool :=
  let n := (if s.getF ODF_CFG.n_minus_1 = 0 then 1 else s.getF ODF_CFG.n_minus_1) + 1
  let self := s.getF ODF_STATUS.own_id
  let hop (k : Nat) : Nat := if l = 0 then (self + k + 1) % n else (self + n * 4 - (k + 1)) % n
  s.getF ODF_LINK_STATUS.state l == 2
    && (List.range d).all fun k => natBit (s.getF ODF_STATUS.in_service) (hop k)

/-- The link towards another member (R492): the shorter way, by the parity of the resolved queue on a tie, the other
way where that one does not reach. -/
def State.memberLink (s : State) (m q : Nat) : Option Nat :=
  let n := (if s.getF ODF_CFG.n_minus_1 = 0 then 1 else s.getF ODF_CFG.n_minus_1) + 1
  let d := (m + n - s.getF ODF_STATUS.own_id % n) % n
  let first := if d < n - d then 0 else if n - d < d then 1 else q % 2
  let len (l : Nat) : Nat := if l = 0 then d else n - d
  if !s.flag ODF_STATUS.active ∨ n ≤ m ∨ d = 0 then none
  else if s.ringReaches first (len first) then some first
  else if s.ringReaches (1 - first) (len (1 - first)) then some (1 - first) else none

/-- The link that owns a host receive queue; link 0 where no such ring is defined. -/
def State.queueLink (s : State) (q : Nat) : Nat :=
  match s.ring? 0 q with
  | some r => fnLink r.fn
  | none => 0

/-- The output and queue that a packet's resolved destination uses (R162, R492); `none` where no path reaches the member. -/
def State.outputOf (s : State) (p : Pkt) : Option (Nat × Nat) :=
  let a := p.act
  if a.kind = 1 then
    let m := a.dest / 8 % 4
    if m = s.getF ODF_STATUS.own_id then some (a.dest % 8, p.q)
    else (s.memberLink m p.q).map fun l => (16 + l, s.getF ODF_CFG.queue_base + 8 * l + p.cls % 8)
  else if a.kind = 2 then some (8 + s.queueLink (a.dest % 2 ^ 16), p.q)
  else if a.kind = 3 then some (10 + a.dest / 2 ^ 13 % 2, p.q)
  else some (12 + p.pipe, p.q)

/-! ### Policers (R171–R174) -/

/-- A policer as reset leaves it: mode 3, bursts 0. -/
def PolSt.reset : PolSt := ⟨BitVec.ofNat 64 0xC00, 0, 0, 0, 0, 0⟩

/-- A policer. -/
def State.pol (s : State) (i : Nat) : PolSt := Tab.getD PolSt.reset s.tm.pols i

/-- A policer replaced. -/
def State.setPol (s : State) (i : Nat) (x : PolSt) : State :=
  { s with tm := { s.tm with pols := Tab.setD PolSt.reset s.tm.pols i x } }

/-- Metering of `len` bytes of an input colour by a policer (R171): the colour out, `none` for a drop, and the policer
after it. -/
def PolSt.meter (x : PolSt) (len cin t : Nat) : Option Nat × PolSt :=
  let cir := x.w0.bits 63 36
  let pir := x.w1.bits 63 36
  let mode := x.w0.bits 11 10
  let c0 := if cin = 3 then 2 else cin
  let need : Int := (len : Int) * 2 ^ 20
  let C := if cir = unshaped then need else refill x.c x.ct cir (x.w0.bits 35 12) t
  let E := if pir = unshaped then need else refill x.e x.et pir (x.w1.bits 35 12) t
  let takeC := if cir = unshaped then x.c else charge C len
  let takeE := if pir = unshaped then x.e else charge E len
  let keepC := if cir = unshaped then x.c else C
  let keepE := if pir = unshaped then x.e else E
  let c := if x.w0.bits 9 9 = 1 then c0 else 0
  let after (c e : Int) : PolSt := { x with c := c, ct := t, e := e, et := t }
  if mode = 0 then
    if c = 2 ∨ pir = 0 ∨ E < need then (some 2, after keepC keepE)
    else if c = 1 ∨ cir = 0 ∨ C < need then (some 1, after keepC takeE)
    else (some 0, after takeC takeE)
  else if mode = 1 then
    if c = 0 ∧ cir ≠ 0 ∧ need ≤ C then (some 0, after takeC keepE)
    else if c ≠ 2 ∧ pir ≠ 0 ∧ need ≤ E then (some 1, after keepC takeE)
    else (some 2, after keepC keepE)
  else if mode = 2 then
    if cir ≠ 0 ∧ need ≤ C then (some c0, after takeC keepE) else (none, after keepC keepE)
  else (some c0, x)

/-- The meter stage (R171, R172): the colour a packet continues with, `none` where it is dropped. -/
def State.meterPkt (s : State) (i len cin : Nat) : Option Nat × State :=
  let x := s.pol i
  let r := x.meter len cin s.fnow
  let s1 := s.setPol i r.2
  let mode := x.w0.bits 11 10
  if r.1 = some 2 ∧ mode ≤ 1 ∧ x.w0.bits 8 8 = 1 then (none, s1) else (r.1, s1)

/-! ### The default epoch and resets (R188, R189) -/

/-- The default epoch (R188). -/
def defaultEpoch : Tab NodeRec :=
  let w0 (pr parent : Nat) : Word := BitVec.ofNat 64 (2 ^ 63 + pr * 2 ^ 60 + 2 ^ 52 + parent * 2 ^ 21)
  let w1 : Word := BitVec.ofNat 64 (65535 * 2 ^ 12)
  let w2 : Word := BitVec.ofNat 64 (unshaped * 2 ^ 36 + 65535 * 2 ^ 12)
  let lim : Word := BitVec.ofNat 64 (4096 * 2 ^ 44 + 2048 * 2 ^ 24 + 1024 * 2 ^ 4)
  let outs := (List.range 18).map fun o => (nodeKey 1 o, (⟨w0 0 0, w1, w2, 0⟩ : NodeRec))
  let groups := (List.range 18).map fun o => (nodeKey 2 o, (⟨w0 0 o, w1, w2, 0⟩ : NodeRec))
  let slices := (List.range 18).map fun o => (nodeKey 3 o, (⟨w0 0 o, w1, w2, 0⟩ : NodeRec))
  let classes := (List.range 144).map fun k => (nodeKey 4 k, (⟨w0 (7 - k % 8) (k / 8), w1, w2, 0⟩ : NodeRec))
  let queues := (List.range 144).map fun k => (nodeKey 5 k, (⟨w0 0 k, w1, w2, lim⟩ : NodeRec))
  outs ++ groups ++ slices ++ classes ++ queues

/-- Buckets full at the configured burst, virtual times and tags 0 (Table 2-6, R189). -/
def State.resetBuckets (s : State) : State :=
  let full (k : Nat) (n : NodeRec) : NodeRun :=
    { NodeRun.reset with cl := (n.cbs : Int) * 2 ^ 20, ct := s.fnow, pl := (n.pbs : Int) * 2 ^ 20, pt := s.fnow,
                         bad := (Tab.getD NodeRun.reset s.tm.run k).bad }
  let run := Tab.keep (s.tm.live.map fun p => (p.1, full p.1 p.2)) fun _ r => decide (r ≠ NodeRun.reset)
  let pol (_ : Nat) (x : PolSt) : PolSt :=
    { x with c := (x.w0.bits 35 12 : Int) * 2 ^ 20, ct := s.fnow, e := (x.w1.bits 35 12 : Int) * 2 ^ 20, et := s.fnow }
  { s with tm := { s.tm with run := run, vt := [], pols := Tab.mapVals s.tm.pols pol } }

/-! ### The swap (R183) -/

/-- A node's running state across a swap: full and empty where it becomes valid, its tag moved to its new band where parent
or priority change, its levels cut to new bursts. -/
def State.swapNode (s : State) (l i : Nat) (n : NodeRec) : State :=
  let old := s.node l i
  let r := s.refillNode l i
  let cutTo (level : Int) (b : Nat) : Int := min level ((b : Int) * 2 ^ 20)
  if !n.valid && l != 1 then s
  else if !old.valid && l != 1 then
    s.setNrun l i { NodeRun.reset with cl := (n.cbs : Int) * 2 ^ 20, ct := s.fnow, pl := (n.pbs : Int) * 2 ^ 20,
                                       pt := s.fnow }
  else
    let tag := if l = 1 ∨ (n.parent = old.parent ∧ n.priority = old.priority) then r.tagS
      else s.vtime (l - 1) n.parent n.priority
    let c := if old.cir = unshaped ∧ n.cir ≠ unshaped then (n.cbs : Int) * 2 ^ 20 else cutTo r.cl n.cbs
    let p := if old.pir = unshaped ∧ n.pir ≠ unshaped then (n.pbs : Int) * 2 ^ 20 else cutTo r.pl n.pbs
    s.setNrun l i { r with tagS := tag, cl := c, pl := p, bad := false }

/-- The shadow becomes live in one FCLK (R180, R183). Packets of queues that no longer have a chain are dropped as
epoch_removed. -/
def State.swapEpoch (s : State) (shadow : Tab NodeRec) : State :=
  let lvl (k : Nat) : Nat := k / 2 ^ 18
  let s1 := shadow.foldl (fun u p => u.swapNode (lvl p.1) (p.1 % 2 ^ 18) p.2) s
  let gone := s.tm.run.filter fun p => !nodeExists shadow (lvl p.1) (p.1 % 2 ^ 18)
  let s2 := gone.foldl (fun u p => u.setNrun (lvl p.1) (p.1 % 2 ^ 18) NodeRun.reset) s1
  let s3 := { s2 with tm := { s2.tm with live := shadow, shadow := shadow } }
  (s3.dropQueues 8 (s3.busyQueues.filter fun q => (s3.chain q).isNone)).showNode

/-! ### What slices use (R181, R344) -/

/-- The level-3 nodes of a slice in a copy. -/
def sliceNodes (t : Tab NodeRec) (g : Nat) : List NodeRec :=
  t.filterMap fun p => if p.1 / 2 ^ 18 = 3 ∧ p.2.valid ∧ p.2.hasSlice ∧ p.2.slice = g then some p.2 else none

/-- The queues below a slice's nodes in a copy. -/
def sliceQueueCount (t : Tab NodeRec) (g : Nat) : Nat :=
  t.countP fun p => decide (p.1 / 2 ^ 18 = 5) && p.2.valid && (match chainIn t (p.1 % 2 ^ 18) with
    | some c => let n := nodeIn t 3 (chainAt c 3); n.hasSlice && n.slice == g
    | none => false)

/-- Do the nodes and rates under a slice's nodes keep its quotas (R181, R344)? A slice that is not defined has none. -/
def State.sliceNodesOk (s : State) (t : Tab NodeRec) (g : Nat) : Bool :=
  let ns := sliceNodes t g
  let q := ((s.slice? g).map SliceRec.queues).getD 0
  let bw := ((s.slice? g).map SliceRec.bw).getD 0
  decide (sliceQueueCount t g ≤ q) && decide ((ns.map NodeRec.cir).sum ≤ bw) && ns.all fun n => decide (n.pir ≤ bw)

/-- The first node of a copy, in level then index order, that breaks a rule of R181. -/
def State.badNode (s : State) (t : Tab NodeRec) : Option (Nat × Nat) :=
  let breaks (p : Nat × NodeRec) : Bool :=
    let l := p.1 / 2 ^ 18
    let n := p.2
    (n.valid || l == 1)
      && ((decide (2 ≤ l) && !nodeExists t (l - 1) n.parent) || decide (n.cbs = 0) || decide (n.pbs = 0)
          || (l == 5 && (decide (n.maxKib < n.yellowKib) || decide (n.yellowKib < n.redKib)))
          || (l == 3 && n.hasSlice && !s.sliceNodesOk t n.slice))
  let outs := (List.range 18).map fun o => (nodeKey 1 o, nodeIn t 1 o)
  ((outs ++ t.filter fun p => decide (2 ^ 19 ≤ p.1)).find? breaks).map fun p => (p.1 / 2 ^ 18, p.1 % 2 ^ 18)

end Sys2Proof.Machine
end

