-- ==== Sys2Proof/Machine/SliceOps.lean ====
section
/-! DEFINITION. What slices share with resets and with the other blocks: gates, quotas and their pools, the steps of a reset
sequence, and removal (spec/12). -/

namespace Sys2Proof.Machine

/-- The resources of Table 12-1 that are pooled, numbered as SLC_POOL[k]. -/
inductive Pooled where
  | sqRings | cqRings | queues | keySlots | regions | endpoints
deriving DecidableEq, Repr

/-- The pool's index in SLC_POOL. -/
def Pooled.pool : Pooled → Nat
  | .sqRings => 0
  | .cqRings => 1
  | .queues => 3
  | .keySlots => 4
  | .regions => 5
  | .endpoints => 6

/-- A slice's quota of a pooled resource. -/
def SliceRec.quota (x : SliceRec) : Pooled → Nat
  | .sqRings => x.sqRings
  | .cqRings => x.cqRings
  | .queues => x.queues
  | .keySlots => x.keySlots
  | .regions => x.regions
  | .endpoints => x.endpoints

/-- The pooled resources, each once. -/
def allPooled : List Pooled := [.sqRings, .cqRings, .queues, .keySlots, .regions, .endpoints]

/-- Units of a pool that are free. -/
def State.pool (s : State) (k : Nat) : Nat := s.getF SLC_POOL.free k

/-- A pool gains units. -/
def State.poolAdd (s : State) (k n : Nat) : State := s.setF SLC_POOL.free (s.pool k + n) k

/-- A pool loses units. -/
def State.poolSub (s : State) (k n : Nat) : State := s.setF SLC_POOL.free (s.pool k - n) k

/-- Are a slice's gates closed (R185): it is not RUNNING, or it is contained? -/
def State.gateClosed (s : State) (g : Nat) : Bool := !s.sliceRunning g || s.prf.contained.contains g

/-- TMG_GATE.closed_slices and PRF_STATUS.contained show the slices whose gates are closed and that are contained. -/
def State.showGates (s : State) : State :=
  let n := (s.slc.slices.filter fun p => s.gateClosed p.1).length
  (s.setF TMG_GATE.closed_slices n).setF PRF_STATUS.contained s.prf.contained.length

/-- A record enters the SLC_DONE FIFO of 64, and the register shows its head. -/
def State.showDone (s : State) : State :=
  match s.slc.done with
  | [] => s.setReg .SLC_DONE 0
  | (g, d, st) :: _ =>
    s.setReg .SLC_DONE (BitVec.ofNat 64 (2 ^ 31 + b2n d * 2 ^ 30 + st % 256 * 2 ^ 22 + g % 2 ^ 14))

/-- A sequence's end is reported through SLC_DONE (R347). -/
def State.postDone (s : State) (g : Nat) (destroy : Bool) (status : Nat) : State :=
  if s.slc.done.length < 64 then
    ({ s with slc := { s.slc with done := s.slc.done ++ [(g, destroy, status)] } }).showDone
  else s

/-- Rings of a class that a slice holds. -/
def State.sliceRings (s : State) (g cls : Nat) : Nat :=
  s.rings.countP fun p => decide (p.1 / 65536 = cls ∧ p.2.slice = some g)

/-- Units of a pooled resource that a slice uses (Table 12-1). -/
def State.sliceUse (s : State) (g : Nat) : Pooled → Nat
  | .sqRings => s.sliceRings g 0
  | .cqRings => s.sliceRings g 1
  | .queues => sliceQueueCount s.tm.live g
  | .keySlots => s.sliceKeys g
  | .regions => s.sliceRegions g
  | .endpoints => s.sliceEps g

/-- What a pool holds reserved for a slice: its quota, or its use while that is above it (R345). -/
def State.reserved (s : State) (g : Nat) (x : SliceRec) (k : Pooled) : Nat :=
  if x.quota k < s.sliceUse g k then s.sliceUse g k else x.quota k

/-- Sequences that run (R347: at most 64). -/
def State.seqCount (s : State) : Nat := s.slc.slices.countP fun p => p.2.seq.isSome

/-- Step 1 of the reset sequence (R350): every ring of the slice leaves RUNNING, its gates close and its requests are
held; the sequence waits for the blocks' reports. -/
def State.sliceClose (s : State) (g : Nat) (st : SliceState) : State :=
  match s.slice? g with
  | none => s
  | some x =>
    let s1 := s.setSlice g { x with st := st, seq := some ⟨2, s.now, [], s.now, false⟩ }
    let leave (_ : Nat) (r : Ring) : Ring :=
      if r.slice = some g ∧ r.st = .running then { r with st := .draining, rung := false, lineRead := false, reads := 0 } else r
    ({ s1 with rings := Tab.mapVals s1.rings leave }.noteSliceReset g).showGates

/-- Step 4 of the reset sequence (R350): rings DISABLED, stashes, held events and pending completions discarded, interrupt
message store entries and pending bits back at reset. -/
def State.sliceClear (s : State) (g : Nat) : State :=
  match s.slice? g with
  | none => s
  | some x => (s.setSlice g { x with store := [], storePending := [] }).disableRings fun r => decide (r.slice = some g)

/-- Bytes of a slice's queued packets (R344). -/
def State.sliceBufferUse (s : State) (g : Nat) : Nat := s.sliceQueuedBytes g

/-- The sum of cir over the slice's level-3 nodes (R344). -/
def State.sliceBwUse (s : State) (g : Nat) : Nat := ((sliceNodes s.tm.live g).map NodeRec.cir).sum

/-- Does DQM hold a fetched entry of the slice that runs to completion: a CONTROL or TABLE_COMMAND entry, or a TX entry whose
buffer is not read yet (Table 12-6)? -/
def State.sliceFetched (s : State) (g : Nat) : Bool :=
  s.rings.any fun p => decide (p.1 / 65536 = 0 ∧ p.2.slice = some g) && p.2.fetched.any fun e =>
    decide (p.2.kind = 1 ∨ p.2.kind = 4)
      || (decide (p.2.kind = 2) && !s.dp.pkts.any fun k => k.2.tx.any fun w => w.1 == p.1 % 65536 && w.2.1 == e.1)

/-- What a block does in step 2 of the reset sequence (Table 12-6): 0 DQM, 1 TMG, 2 DRT, 3 CPH, 4 NVE. -/
def State.sliceDrain (s : State) (g blk : Nat) : State :=
  match blk with
  | 1 => s.dropQueues 10 (s.sliceQueues g)
  | 0 => { s with rings := Tab.mapVals s.rings fun _ r => if r.slice = some g then { r with rxBufs := [] } else r }
  | 2 => s.drtDrain g
  | 3 => s.cipherDrain g
  | 4 => s.nveDrain g
  | _ => s

/-- Every FLT entry whose slice field names a slice is deleted (R353). -/
def State.sliceFltFree (s : State) (g : Nat) : State :=
  ((s.tbl.flt.filter fun p => nbits p.2 503 490 == g).foldl (fun t p => t.writeEntry 4 p.1 0) s).showTables

/-- Removal of a slice (R353). -/
def State.sliceRemove (s : State) (g : Nat) : State :=
  match s.slice? g with
  | none => s
  | some x =>
    let s1 := allPooled.foldl (fun t k => t.poolAdd k.pool (s.reserved g x k)) s
    let s2 := (s1.poolAdd 2 1).poolAdd 7 1
    let s3 := { s2 with rings := Tab.keep s2.rings fun _ r => !decide (r.slice = some g) }
    let nss := s3.sliceNss g
    let s4 := ((((s3.drtDrain g).cipherDrain g).sliceFltFree g).drtRemove g).nveRemove nss
    let s5 := { s4 with slc := { s4.slc with slices := Tab.del s4.slc.slices g } }
    { s5 with prf := { s5.prf with contained := s5.prf.contained.filter (· != g) } }.showGates

end Sys2Proof.Machine
end

