-- ==== Sys2Proof/Machine/HifOps.lean ====
section
/-! DEFINITION. The PCIe endpoints as resets, modes and the host commands share them: error logging, H and F resets, and the
functions an endpoint takes at the end of an H reset (spec/10 R288–R311). -/

namespace Sys2Proof.Machine

/-! ### Error logging (R299) -/

/-- Bits of the AER uncorrectable and correctable status registers. -/
def aerCompletionTimeout : Nat := 14
def aerCompleterAbort : Nat := 15
def aerPoisoned : Nat := 12
def aerEcrc : Nat := 19
def aerUnsupported : Nat := 20
def aerInternal : Nat := 22
def aerAdvisory : Nat := 13
def aerHeaderOverflow : Nat := 15

/-- The AER masks and severities that hold for a function: a VF's are those of its PF. -/
def State.aerMasks (s : State) (f : Nat) : Nat × Nat × Nat :=
  match s.fn? (if fnIsVf f then f / 0x400 * 0x400 + s.parentPf f else f) with
  | some x => (x.aerUncorMask, x.aerCorMask, x.aerSeverity)
  | none => (0, 0, 0)

/-- A correctable error is logged in a function; `send` asks for its message unless it is masked. -/
def State.aerCorrectable (s : State) (f bit : Nat) (send : Bool := true) : State :=
  match s.fn? f with
  | none => s
  | some x =>
    let s1 := s.setFn f { x with aerCor := natSetBit x.aerCor bit true }
    if send && !natBit (s.aerMasks f).2.1 bit then s1.emit (.errMessage (s.fnEndpoint f) 0) else s1

/-- An uncorrectable error is logged in a function with the header of its TLP, and its message sent unless it is masked. An error
that is advisory while it is non-fatal goes as a correctable one (Table 10-6). -/
def State.aerUncorrectable (s : State) (f bit : Nat) (advisory : Bool) (hdr : List Nat) (send : Bool := true) : State :=
  match s.fn? f with
  | none => s
  | some x =>
    let m := s.aerMasks f
    let fatal := natBit m.2.2 bit
    let s1 := s.setFn f { x with aerUncor := natSetBit x.aerUncor bit true }
    let s2 := if hdr.isEmpty || natBit m.1 bit then s1
      else if Tab.has s1.hif.aerHeaderLog f then s1.aerCorrectable f aerHeaderOverflow
      else { s1 with hif := { s1.hif with aerHeaderLog := Tab.put s1.hif.aerHeaderLog f hdr } }
    if advisory && !fatal then s2.aerCorrectable f aerAdvisory (send && !natBit m.1 bit)
    else if send && !natBit m.1 bit then s2.emit (.errMessage (s.fnEndpoint f) (if fatal then 2 else 1)) else s2

/-- The functions of an endpoint. -/
def State.epFns (s : State) (e : Nat) : List Nat := (Tab.keys s.hif.fns).filter fun f => s.fnEndpoint f == e

/-- The function number 0 of an endpoint. -/
def epFn0 (e : Nat) : Nat := 0x800 + e / 2 * 0x400 + e % 2 * 2

/-- An error that belongs to no function is logged in every function of the endpoint, and sent once (R299). -/
def State.aerEndpoint (s : State) (e bit : Nat) (uncor : Bool) (hdr : List Nat) : State :=
  (s.epFns e).foldl (fun t f =>
    if uncor then t.aerUncorrectable f bit false hdr (f == epFn0 e) else t.aerCorrectable f bit (f == epFn0 e)) s

/-! ### H and F resets (R302–R304, R352, Table 2-5) -/

/-- Slices of the functions in a reset's scope: a running sequence is absorbed, any other slice is STOPPED; messages and
their store return to reset (R298, R352, R362). -/
def State.absorbSlices (s : State) (fs : List Nat) : State :=
  let slices := Tab.mapVals s.slc.slices fun _ x =>
    if fs.contains x.fn then
      let y := { x with store := [], storePending := [] }
      match x.seq with
      | some q => { y with seq := some { q with step := 6 } }
      | none => { y with st := .stopped }
    else x
  { s with slc := { s.slc with slices := slices } }.showGates

/-- The reset that absorbed a slice's sequence is over: the slice is STOPPED or removed, and the record is posted (R352). -/
def State.finishAbsorbed (s : State) (fs : List Nat) : State :=
  s.slc.slices.foldl (fun t p =>
    match p.2.seq with
    | some q =>
      if q.step = 6 ∧ fs.contains p.2.fn = true then
        let st := if q.degraded then stDegraded else stOk
        if p.2.st = .removing then (t.sliceRemove p.1).postDone p.1 true st
        else ((t.setSlice p.1 { p.2 with st := .stopped, seq := none }).showGates).postDone p.1 false st
      else t
    | none => t) s

/-- A function's configuration space as a reset leaves it; its identity stays (R302). -/
def FnSt.resetConfig (x : FnSt) : FnSt :=
  { FnSt.reset with personality := x.personality, pages := x.pages, msixEntries := x.msixEntries, totalVfs := x.totalVfs,
                    vfPersonality := x.vfPersonality, vfMsix := x.vfMsix }

/-- What an H or F reset does to the functions in its scope: rings disabled, slices as R362 leaves them, configuration
space, tables and windows at reset, time page registrations dropped (R302, Table 2-5, Table 2-6). -/
def State.fnReset (s : State) (l : Rst) (fs : List Nat) : State :=
  let gs := (s.slc.slices.filter fun p => fs.contains p.2.fn).map Prod.fst
  let s0 := ((s.disableRings fun r => fs.contains r.fn).nveFnReset fs).drtLoseSlices gs true
  let s1 := s0.absorbSlices fs
  fs.foldl (fun t f =>
    let t1 := t.resetFnRegs l f
    match t1.fn? f with
    | some x =>
      { t1.setFn f x.resetConfig with
        pages := Tab.del t1.pages f
        hif := { (t1.setFn f x.resetConfig).hif with aerHeaderLog := Tab.del t1.hif.aerHeaderLog f } }
    | none => t1) s1

/-- The VFs of a PF, by initiator. -/
def State.vfsOf (s : State) (pf : Nat) : List Nat :=
  (Tab.keys s.hif.fns).filter fun f => fnIsVf f && (f / 0x400 * 0x400 + s.parentPf f == pf)

/-- Functions are gone. -/
def State.dropFns (s : State) (fs : List Nat) : State :=
  { s with hif := { s.hif with fns := Tab.keep s.hif.fns fun f _ => !fs.contains f } }

/-- An endpoint enters H reset (R289, R304): its functions are reset, its VFs go, its link is down. -/
def State.enterHReset (s : State) (e : Nat) : State :=
  if s.flag HIF_LINK_STATUS.h_reset e then s
  else
    let fs := s.epFns e
    let s1 := (s.fnReset .h fs).dropFns (fs.filter fnIsVf)
    let s2 := { s1.setEp e { EpSt.reset with present := (s1.ep e).present, idleSince := s1.now } with
      ptm := if e % 2 = 0 then Tab.del s1.ptm (e / 2) else s1.ptm }
    let s3 := s2.setReg .HIF_LINK_STATUS 0 e
    (s3.setF HIF_LINK_STATUS.h_reset 1 e).bump HIF_CNT.count (e / 2) 11

/-- Every endpoint that a link has. -/
def linkEndpoints (l : Nat) : List Nat := [2 * l, 2 * l + 1]

/-- Both endpoints of a link enter H reset, half 1 where the link is bifurcated. -/
def State.enterLinkReset (s : State) (l : Nat) : State :=
  let b := s.bifurcated l
  let s1 := s.enterHReset (2 * l)
  if b then s1.enterHReset (2 * l + 1) else s1

/-! ### The functions of an endpoint (R291, R292, R311) -/

/-- The PFs of an endpoint. -/
def State.epPfs (s : State) (e : Nat) : List Nat :=
  if s.bifurcated (e / 2) then (if e % 2 = 0 then [0, 1] else [2, 3]) else [0, 1, 2, 3]

/-- Does PF `k` of link `l` carry function number 0 of its endpoint? -/
def State.isFn0 (s : State) (l k : Nat) : Bool := k == 0 || (k == 2 && s.bifurcated l)

/-- The personality a PF takes (R291). -/
def State.newPersonality (s : State) (l k : Nat) : Personality :=
  let p := s.getF HIF_FUNC_CFG.personality l k
  if l = 0 ∧ k = 0 then (if s.mode = mStandalone then .virtioNet else .native)
  else if p = 1 then (if s.isFn0 l k then .native else .nvme)
  else if p = 2 then .mgmtOnly else .native

/-- The VFs a PF asks for: none in STANDALONE, and none for a personality without VFs (Table 10-1, R311). -/
def State.wantedVfs (s : State) (l k : Nat) : Nat :=
  let p := s.newPersonality l k
  if s.mode = mStandalone ∨ (p ≠ .native ∧ p ≠ .nvme) then 0 else s.getF HIF_FUNC_CFG.total_vfs l k

/-- Does a PF exist (HIF_FUNC_CFG.present, R288, R311)? -/
def State.pfPresent (s : State) (l k : Nat) : Bool :=
  s.isFn0 l k || (s.flag HIF_FUNC_CFG.present l k && s.mode != mStandalone)

/-- VFs granted in PF order up to a limit, and whether any PF got fewer than it asked for (R292). -/
def grantVfs (limit : Nat) : List (Nat × Nat) → List (Nat × Nat) × Bool
  | [] => ([], false)
  | (k, n) :: t =>
    let g := min n limit
    let r := grantVfs (limit - g) t
    ((k, g) :: r.1, r.2 || decide (g < n))

/-- An endpoint takes the identity and functions that the registers give it (R291, R292, R305, R311). -/
def State.takeIdentity (s : State) (e : Nat) : State :=
  let l := e / 2
  let base := 0x800 + l * 0x400
  let recovery := s.modes.hostPush || s.mode == mDarkroom
  let ks := if recovery then [0] else (s.epPfs e).filter (s.pfPresent l)
  let g := grantVfs (if s.bifurcated l then 256 else 512) (ks.map fun k => (k, if recovery then 0 else s.wantedVfs l k))
  let s1 := s.dropFns (s.epFns e)
  let s2 := g.1.foldl (fun t p =>
    let k := p.1
    let pers := if recovery then Personality.recovery else s.newPersonality l k
    let x := { FnSt.reset with
      personality := pers
      pages := if pers = .native then 2 ^ s.getF HIF_FUNC_CFG.slice_pages_log2 l k else 0
      msixEntries := 2 ^ s.getF HIF_FUNC_CFG.msix_log2 l k
      totalVfs := p.2
      vfPersonality := if s.getF HIF_FUNC_CFG.vf_personality l k = 1 then .nvme else .native
      vfMsix := 2 ^ s.getF HIF_FUNC_CFG.vf_msix_log2 l k }
    t.setFn (base + k) x) s1
  s2.setF HIF_LINK_STATUS.cfg_clipped (b2n g.2) e

/-- VF Enable of a PF with a number of VFs: the VFs appear, or go as by their reset (R302). -/
def State.setVfs (s : State) (pf : Nat) (x : FnSt) (on : Bool) (n : Nat) : State :=
  let gone := s.vfsOf pf
  let s1 := ((s.fnReset .f gone).finishAbsorbed gone).dropFns gone
  let k := if on then min n x.totalVfs else 0
  let s2 := s1.setFn pf { x with vfEnable := on, numVfs := k }
  (List.range k).foldl (fun t i =>
    t.setFn (s.firstVf pf + i) { FnSt.reset with
      personality := x.vfPersonality
      pages := if x.vfPersonality = .native then x.pages else 0
      msixEntries := x.vfMsix
      pasidEnable := x.pasidEnable }) s2

/-! ### Readiness (R305) -/

/-- The endpoints leave retry status when the module is in service, and report readiness (R305). -/
def State.hostReady (s : State) : State :=
  [0, 1, 2, 3].foldl (fun t e =>
    if t.flag HIF_LINK_STATUS.retry e then
      let t1 := t.setF HIF_LINK_STATUS.retry 0 e
      if (t1.ep e).drs then t1.emit (.linkMessage e 1 0) else t1
    else t) s

end Sys2Proof.Machine
end

