-- ==== Sys2Proof/Machine/OdfOps.lean ====
section
/-! DEFINITION. The cascade as its commands and the modes share it: the agreement record, roles, what ODF_STATUS shows, and the
partitions of the flow table (spec/17). -/

namespace Sys2Proof.Machine

/-! ### Records (Table 17-1) -/

/-- A little-endian number of a record. -/
def recLe (r : List Byte) (o n : Nat) : Nat := leNat (sliceBytes r o n)

/-- The last valid record from a member, as ODF_MEMBER_REC holds it. -/
def State.memberRec (s : State) (m : Nat) : List Byte :=
  ((List.range 8).map fun w => leBytes 8 (s.reg .ODF_MEMBER_REC m w).toNat).flatten

/-- A record's fields. -/
def recOrigin (r : List Byte) : Nat := recLe r 1 1 % 4
def recMaster (r : List Byte) : Bool := natBit (recLe r 1 1) 2
def recHops (r : List Byte) : Nat := recLe r 1 1 / 8 % 4
def recMode (r : List Byte) : Nat := recLe r 2 1
def recHeldOut (r : List Byte) : Bool := natBit (recLe r 3 1) 2
def recActivating (r : List Byte) : Bool := natBit (recLe r 3 1) 3
def recSerial (r : List Byte) : Nat := recLe r 60 4

/-- Is a record valid: 64 bytes of version 1, its reserved bits 0? -/
def recValid (r : List Byte) : Bool := decide (r.length = 64 ∧ recLe r 0 1 = 1 ∧ recLe r 1 1 < 32)

/-- Bytes 4 to 8 and 12 to 47 that R491 compares: version, configuration, forme and lock-ups. -/
def State.ownVersion (s : State) : Nat := s.getF BOOT_VERSION.version
def State.ownForme (s : State) : Nat := s.getF FRM_STATE.current + 128 * s.getF FRM_STATE.current_valid

/-- What of a record disagrees with this module (Table 17-2): 0 nothing, else the hold reason. -/
def State.recDiffers (s : State) (r : List Byte) : Nat :=
  if recLe r 4 4 ≠ s.ownVersion then 1
  else if recLe r 16 8 ≠ (s.reg .ODF_REC_CFG 0).toNat
      ∨ (List.range 3).any (fun i => recLe r (24 + 8 * i) 8 != (s.reg .ODF_REC_CFG (i + 1)).toNat) then 2
  else if recLe r 8 1 ≠ s.ownForme ∨ recLe r 12 4 ≠ s.getF FRM_STATE.lockup_seq then 3
  else 0

/-! ### Roles (R487–R489) -/

/-- The modules of the ring. -/
def State.odfN (s : State) : Nat := (if s.getF ODF_CFG.n_minus_1 = 0 then 1 else s.getF ODF_CFG.n_minus_1) + 1

/-- The mode that a module in SAFE_HOLD would return to, the mode in force otherwise. -/
def State.roleMode (s : State) : Nat := if s.mode = mSafeHold then s.getF MODE_STATE.return_mode else s.mode

/-- Do the Odfer links run (R486)? -/
def State.odfOn (s : State) : Bool :=
  s.booted && s.flag MGT_START_CFG.cascade_enable && s.mode != mStandby && s.mode != mTest && s.mode != mDarkroom

/-- The time for which silence is borne. -/
def odfSilence : Nat := 10 * msT

/-- Has a record of a member (4: of a duplicate of this module with a lower serial number) come within the last 10 ms? -/
def State.heardLately (s : State) (m : Nat) : Bool :=
  match Tab.look s.odf.heard m with
  | some t => decide (s.now ≤ t + odfSilence)
  | none => false

/-- Another module that acts as master: the one accepted, or else the lowest whose record has the master bit. -/
def State.actingMaster (s : State) : Option Nat :=
  let me := s.getF ODF_STATUS.own_id
  let c := (List.range 4).filter fun m => m != me && s.heardLately m && recMaster (s.memberRec m)
  if c.contains (s.getF ODF_STATUS.master_id) then some (s.getF ODF_STATUS.master_id) else c.head?

/-- Is this module the master (R487–R489)? -/
def State.leads (s : State) : Bool :=
  let m := s.roleMode
  s.odfOn && !s.heardLately 4
    && (if s.getF ODF_STATUS.own_id = 0 then decide (m = mManaged ∨ m = mAutonomous) && (s.flag ODF_STATUS.master || s.actingMaster.isNone)
        else s.flag ODF_STATUS.master && decide (m = mManaged ∨ m = mAutonomous ∨ m = mMember))

/-- Do the comparisons of R491 stand still? -/
def State.comparesFrozen (s : State) : Bool :=
  match s.odf.activating with
  | some t => decide (s.now < t)
  | none => false

/-- A bit vector of the members that `p` holds of. -/
def memberBits (p : Nat → Bool) : Nat := ((List.range 4).map fun m => b2n (p m) * 2 ^ m).sum

/-- ODF_STATUS shows role, members and hold; a change of any field interrupts the application cores. The time since when each
owner of a partition has not been live goes with it (R496). -/
def State.showCascade (s : State) : State :=
  let me := s.getF ODF_STATUS.own_id
  let lead := s.leads
  let member := decide (s.roleMode = mMember) && !lead && s.odfOn
  let joined := lead || member
  let live (m : Nat) : Bool := joined && (m == me
    || (s.heardLately m && (recMaster (s.memberRec m) || recMode (s.memberRec m) == mMember || recMode (s.memberRec m) == mSafeHold)))
  let mid := if lead then me else s.actingMaster.getD (s.getF ODF_STATUS.master_id)
  let old := s.getF ODF_STATUS.hold_reason
  let reason :=
    if s.heardLately 4 then 5
    else if lead then 0
    else if me = 0 ∧ s.actingMaster.isSome ∧ (s.roleMode = mManaged ∨ s.roleMode = mAutonomous) then 6
    else if !member then 0
    else if s.mode = mSafeHold then 4
    else if s.comparesFrozen || !s.heardLately mid then old
    else s.recDiffers (s.memberRec mid)
  let served (m : Nat) : Bool := live m && (if m = me then s.mode != mSafeHold && reason == 0
    else !recHeldOut (s.memberRec m) && recMode (s.memberRec m) != mSafeHold
      && (!lead || s.comparesFrozen || s.recDiffers (s.memberRec m) == 0))
  let others := (List.range 4).any fun m => m != me && live m
  let s1 := ((s.setF ODF_STATUS.active (b2n (member || (lead && others)))).setF ODF_STATUS.master (b2n lead)).setF
    ODF_STATUS.master_id mid
  let s2 := ((s1.setF ODF_STATUS.live (memberBits live)).setF ODF_STATUS.in_service (memberBits served)).setF
    ODF_STATUS.hold_reason reason
  let gone := s.odf.partners.foldl (fun (t : Tab Nat) m =>
    if live m then Tab.del t m else if Tab.has t m then t else Tab.put t m s.now) s.odf.goneSince
  let s3 := { s2 with odf := { s2.odf with goneSince := gone } }
  if s3.reg .ODF_STATUS = s.reg .ODF_STATUS then s3 else s3.emit (.coreIrq 22)

/-- The record that this module sends (R490). -/
def State.ownRecord (s : State) : List Byte :=
  let flags := b2n s.booted + 2 * s.getF ODF_STATUS.time_uncertain + 4 * b2n (s.getF ODF_STATUS.hold_reason != 0)
    + 8 * b2n s.upd.act.isSome + 16 * s.getF ODF_STATUS.hold_reason
  leBytes 1 1 ++ leBytes 1 (s.getF ODF_STATUS.own_id + 4 * s.getF ODF_STATUS.master) ++ leBytes 1 s.mode ++ leBytes 1 flags
    ++ leBytes 4 s.ownVersion ++ leBytes 1 s.ownForme ++ leBytes 1 (s.getF ODF_STATUS.live) ++ leBytes 2 (unc16 (s.pubUnc 0))
    ++ leBytes 4 (s.getF FRM_STATE.lockup_seq) ++ ((List.range 4).map fun i => leBytes 8 (s.reg .ODF_REC_CFG i).toNat).flatten
    ++ leBytes 8 (s.timeNow / 2 ^ 16) ++ leBytes 4 (if s.flag ODF_STATUS.master then 0 else ofSigned 32 s.odf.offset)
    ++ leBytes 4 s.fuse.serial.toNat

/-- The master's activating flag: the comparisons stop while it stands and for 1 ms after it clears (R491). -/
def State.noteActivating (s : State) (on : Bool) : State :=
  let t := match s.odf.activating with
    | some t => if on then some (s.now + odfSilence + msT) else some (min t (s.now + msT))
    | none => if on then some (s.now + odfSilence + msT) else none
  { s with odf := { s.odf with activating := t } }

/-! ### Partitions of the flow table (R159, R494, R496) -/

/-- The partition this module holds of a table shared by `ms`, in order. -/
def State.takePartition (s : State) (own : Nat) (ms : List Nat) : State :=
  let s1 := { s with odf := { s.odf with partners := if ms.length < 2 then [] else ms, goneSince := [] } }
  (s1.setF FLT_PART.own own).setF FLT_PART.n_minus_1 (ms.length - 1)

end Sys2Proof.Machine
end

