-- ==== Sys2Proof/Machine/PortOps.lean ====
section
/-! DEFINITION. Ports and impositions, as selection, launch and the port commands share them (spec/07). Times inside an imposition
are in ps of island time. -/

namespace Sys2Proof.Machine

/-! ### Ports -/

/-- A port as reset leaves it. -/
def PortSt.reset : PortSt :=
  { rx := none, rxMax := 9238, rxBytes := [], txFree := 0, op := none, pend := none, copyAt := none, startAt := none,
    closed := false, lpi := 0, lpiAt := 0, idleAt := 0 }

/-- A port. -/
def State.port (s : State) (p : Nat) : PortSt := Tab.getD PortSt.reset s.dp.ports p

/-- A port replaced. -/
def State.setPort (s : State) (p : Nat) (x : PortSt) : State :=
  { s with dp := { s.dp with ports := Tab.setD PortSt.reset s.dp.ports p x } }

/-- The mode of a port's cage (Table 7-1; 4 to 7 are treated as 0). -/
def State.cageMode (s : State) (p : Nat) : Nat :=
  let m := s.getF MAC_CAGE_CFG.mode (p % 2)
  if 3 < m then 0 else m

/-- Does the port exist in its cage's mode (R192)? -/
def State.portExists (s : State) (p : Nat) : Bool :=
  let m := s.cageMode p
  decide (p < 8) && (if m = 1 then decide (p / 2 = 0) else if m = 2 then decide (p / 2 < 2) else decide (m = 3))

/-- Is the port link-down for the traffic manager: not up, or disabled (R196, MAC_PORT_CFG.enable)? -/
def State.portDown (s : State) (p : Nat) : Bool := !s.flag MAC_PORT_STATUS.link_up p || !s.flag MAC_PORT_CFG.enable p

/-- The connector lanes that a port uses (R192). -/
def State.portLanes (s : State) (p : Nat) : List Nat :=
  let m := s.cageMode p
  let w := if m = 1 then 8 else if m = 2 then 4 else 2
  (List.range w).map fun i => w * (p / 2) + i

/-- Picoseconds per byte at a port's rate: 800, 400, 200, or 100 Gb/s in one-lane standby (R206). -/
def State.psPerByte (s : State) (p : Nat) : Nat :=
  let m := s.getF MAC_PORT_STATUS.mode_active p
  if m = 1 then 10 else if m = 2 then 20 else if m = 4 then 80 else 40

/-- The fixed part of the path from the PCS to pipeline entry, and the count from egress exit to the transmit FIFO, in FCLK
(Table 1-5); one-lane standby takes those of 200GbE. -/
def State.pathCounts (s : State) (p : Nat) : Nat × Nat :=
  let m := s.getF MAC_PORT_STATUS.mode_active p
  if m = 1 then (56, 40) else if m = 2 then (62, 44) else (80, 52)

/-- When a frame of `n` bytes whose start crossed the PCS at `t` has its header window at its pipeline: the fixed part, the fill of
min(n, 512) bytes and the phase of the crossing, which is free (R26, Table 1-5). -/
def State.rxReady (s : State) (p n t : Nat) : Nat × State :=
  let d := s.draw 8
  let fill := ceilDiv ((if n < 512 then n else 512) * 7 * s.psPerByte p) 5000
  (t + ((s.pathCounts p).1 + fill) * fclk + d.1 % (fclk + 1), d.2)

/-- When a frame that leaves its egress pipeline now reaches the PCS: the transmit count, the phase of the crossing, which is free,
and 6.0 ns (R26, Table 1-5). -/
def State.txReady (s : State) (p : Nat) : Nat × State :=
  let d := s.draw 8
  (s.now + (s.pathCounts p).2 * fclk + d.1 % (fclk + 1) + 6 * nsT, d.2)

/-- The calibration index of a port's mode; one-lane standby uses that of 200GbE (R197). -/
def State.calIndex (s : State) (p : Nat) : Nat :=
  let m := s.getF MAC_PORT_STATUS.mode_active p
  4 * p + (if m = 1 then 0 else if m = 2 then 1 else 2)

/-- LINK_CHANGED to the configuration owner, and PORT_CHANGED to the endpoints (R196, R216, R252). -/
def State.linkChanged (s : State) (p status : Nat) : State :=
  let up := b2n (!s.portDown p)
  (s.postEvent .owner ⟨0x07, none, leBytes 1 p ++ leBytes 1 status ++ leBytes 1 up⟩).portChanged p
    (decide (up = 1 ∧ status = stOk))

/-- Frames in a port's transmit FIFO are discarded there, counted in tx_link_down (R196). -/
def State.drainTx (s : State) (p : Nat) : State :=
  (s.lst .txFifo p).foldl (fun u id => ((u.popLst .txFifo p id).macCount p 14).dropPkt id) s

/-- A packet that was still arriving on a port ends with a bad FCS. -/
def State.cutRx (s : State) (p : Nat) : State :=
  match (s.port p).rx with
  | none => s
  | some id =>
    let s1 := s.setPort p { s.port p with rx := none, rxBytes := [] }
    match s1.pkt? id with
    | some k => s1.setPkt id { k with ended := .badFcs }
    | none => s1

/-- A frame still in transmission on a port ends with an invalid FCS (R203). -/
def State.cutTx (s : State) (p : Nat) : State :=
  if s.now + 20 * s.psPerByte p * nsT / 1000 < (s.port p).txFree then
    (s.emit (.frameCut p)).setPort p { s.port p with txFree := s.now }
  else s

/-- A port goes link-down (R196, R203). -/
def State.portToDown (s0 : State) (p : Nat) : State :=
  let s := s0.cutTx p
  let s1 := (((s.setF MAC_PORT_STATUS.link_up 0 p).setF MAC_PORT_STATUS.pcs_aligned 0 p).setF MAC_PORT_STATUS.fec_locked 0
    p).setF MAC_PORT_STATUS.mode_active 0 p
  let s2 := (s1.drainTx p).cutRx p
  let s3 := (s2.setF MAC_PORT_STATUS.lpi_tx 0 p).setF MAC_PORT_STATUS.lpi_rx 0 p
  s3.setPort p { s3.port p with lpi := 0 }

/-- Has a connector lane of the port no SerDes (R216)? -/
def State.laneLost (s : State) (p : Nat) : Bool :=
  (s.portLanes p).any fun l => s.unitOf kSerDes (16 * (p % 2) + l) == unitAbsent

/-- MAC_PORT_STATUS.lane_fault of every port shows whether a lane of it is lost; a port that loses one is held down and reported
DEGRADED (R216, R217). -/
def State.checkLanes (s : State) : State :=
  (List.range 8).foldl (fun t p =>
    let lost := t.portExists p && t.laneLost p
    if lost && !t.flag MAC_PORT_STATUS.lane_fault p then
      (((t.portToDown p).setF MAC_PORT_STATUS.lane_fault 1 p).raise (20 + p) (faultA 0x0004)).linkChanged p stDegraded
    else t.setF MAC_PORT_STATUS.lane_fault (b2n lost) p) s

/-- Is a port's transmit FIFO of 64 words of 64 B still open to another frame, and its transmitter awake (R164, R214)? A
link-down port always has room (R196). -/
def State.txRoom (s : State) (p : Nat) : Bool :=
  s.portDown p
    || (decide ((s.port p).lpi = 0)
        && decide (((s.pktsIn .txFifo p).map fun k => ceilDiv (k.2.bytes.length + 4) 64).sum < 64))

/-! ### Schedules (R205, R206, R208) -/

/-- Island time in ps. -/
def State.timePs (s : State) : Nat := s.timeNow * 1000 / 2 ^ 16

/-- The held snapshot in ps (R96). -/
def State.snapPs (s : State) : Nat := s.island.snapTime * 1000 / 2 ^ 16

/-- The entry that holds at offset `c` (ps) of a cycle, and the offset at which it ends; the last entry of a duration other
than 0 holds to the end of the cycle. -/
def entryAt (c cyc : Nat) : List (Nat × Nat) → Nat → Nat → Nat × Nat × Nat → Nat × Nat × Nat
  | [], _, _, last => (last.1, last.2.1, cyc)
  | (g, d) :: es, n, acc, last =>
    if d = 0 then entryAt c cyc es (n + 1) acc last
    else if c < acc + d * 1000 then (g, n, if acc + d * 1000 < cyc then acc + d * 1000 else cyc)
    else entryAt c cyc es (n + 1) (acc + d * 1000) (g, n, 0)

/-- The gates of a schedule at a time, the entry in force and when it ends (R205). -/
def Imp.slot (m : Imp) (t : Nat) : Nat × Nat × Nat :=
  let cyc := m.cycle * 1000
  let c := (((t : Int) - (m.base : Int) * 1000) % (cyc : Int)).toNat
  let e := entryAt c cyc m.entries 0 0 (0, 0, 0)
  (e.1, e.2.1, t - c + e.2.2)

/-- The start of the cycle in progress, and of the next one, in ps. -/
def Imp.nextCycle (m : Imp) (t : Nat) : Nat :=
  let cyc := m.cycle * 1000
  t - (((t : Int) - (m.base : Int) * 1000) % (cyc : Int)).toNat + cyc

/-- Every gate open. -/
def gatesOpen : Nat := 0xFFFF

/-- The gates that a port's schedule gives at a time, with the entry and the time until which they hold (`none`: for ever):
the pending schedule rules from T, the operational one from its start; before it the gates are open, or closed after a D
reset (R209, R210). -/
def PortSt.gates (x : PortSt) (t : Nat) : Nat × Nat × Option Nat :=
  let cut (e : Option Nat) (u : Nat) : Option Nat := match e with
    | some v => some (if v < u then v else u)
    | none => some u
  let opPart : Nat × Nat × Option Nat :=
    match x.op, x.startAt with
    | none, _ => (if x.closed then 0 else gatesOpen, 0, none)
    | some m, some a => if t < a then (if x.closed then 0 else gatesOpen, 0, some a) else
        let e := m.slot t; (e.1, e.2.1, some e.2.2)
    | some m, none => let e := m.slot t; (e.1, e.2.1, some e.2.2)
  match x.pend with
  | some (m, T) =>
    if T ≤ t then let e := m.slot t; (e.1, e.2.1, some e.2.2) else (opPart.1, opPart.2.1, cut opPart.2.2 T)
  | none => opPart

/-- The gates of a port at a time, as enable and unknown_policy leave them (R210, R211). -/
def State.portGates (s : State) (p t : Nat) : Nat × Nat × Option Nat :=
  let pol := s.getF MAC_IMP_CFG.unknown_policy p
  if !s.flag MAC_IMP_CFG.enable p then (gatesOpen, 0, none)
  else if s.pubUnc 0 = none ∧ pol = 1 then (gatesOpen, 0, none)
  else if s.pubUnc 0 = none ∧ pol = 2 then (0, 0, none)
  else (s.port p).gates t

/-- Is gate `c` of a port open at every instant of [t, stop) (R206)? The fuel bounds the entries that the interval can
cross. -/
def State.openOver (s : State) (p c stop : Nat) : Nat → Nat → Bool
  | 0, _ => false
  | fuel + 1, t =>
    let g := s.portGates p t
    natBit g.1 c && (match g.2.2 with
      | none => true
      | some e => decide (stop ≤ e) || State.openOver s p c stop fuel e)

/-- The time a frame of `n` bytes (with FCS) occupies its port, in ps (R206). -/
def State.occupancy (s : State) (p n : Nat) : Nat := (n + 1) * s.psPerByte p

/-- May a frame of class `c` and `n` bytes go at a time (R206)? -/
def State.fits (s : State) (p c n t : Nat) : Bool := s.openOver p c (t + s.occupancy p n) 2048 t

/-- The next time not before `t` at which a frame fits, tried at word boundaries: at `t`, then at the first boundary of each
following entry. `ph` is the phase of the boundaries, `w` a word. -/
def State.launchAt (s : State) (p c n w ph : Nat) : Nat → Nat → Option Nat
  | 0, _ => none
  | fuel + 1, t =>
    let t' := t + (ph + w - t % w) % w
    if s.fits p c n t' then some t'
    else match (s.portGates p t').2.2 with
      | none => none
      | some e => State.launchAt s p c n w ph fuel e

/-- The longest open run of gate `c` in a list of (gates, length) segments, taken in order; `acc` is the run so far. -/
def longestRun (c : Nat) : List (Nat × Nat) → Nat → Nat → Nat
  | [], _, best => best
  | (g, d) :: t, acc, best =>
    let acc' := if natBit g c then acc + d else 0
    longestRun c t acc' (if best < acc' then acc' else best)

/-- The segments of one cycle, in ps (R205). -/
def Imp.segments (m : Imp) : List (Nat × Nat) :=
  let es := m.entries.filter fun e => e.2 != 0
  let cyc := m.cycle * 1000
  let r := es.foldl (fun (a : Nat × List (Nat × Nat)) e =>
    let d := if a.1 + e.2 * 1000 < cyc then e.2 * 1000 else cyc - a.1
    (a.1 + d, if d = 0 then a.2 else a.2 ++ [(e.1, d)])) (0, [])
  let lastG := (es.getLast?.map Prod.fst).getD 0
  if r.1 < cyc then r.2 ++ [(lastG, cyc - r.1)] else r.2

/-- Is every open run of gate `c` in a schedule, counted across the cycle wrap, shorter than a time (R208)? A gate that is
open all the cycle never is. -/
def Imp.noWindow (m : Imp) (c need : Nat) : Bool :=
  let segs := m.segments
  !(segs.all fun g => natBit g.1 c) && decide (longestRun c (segs ++ segs) 0 0 < need)

/-- The port drops the frame at its FIFO head as one that no window takes (R208). -/
def State.noWindow (s : State) (p c n : Nat) : Bool :=
  match (s.port p).op with
  | some m => s.flag MAC_IMP_CFG.enable p && !(s.pubUnc 0 == none && (s.getF MAC_IMP_CFG.unknown_policy p == 1))
      && m.noWindow c (s.occupancy p n)
  | none => false

/-- May the traffic manager select a packet for a port: its launch time is near enough (R212) and it would fit at the
snapshot plus lead (R207)? -/
def State.selectable (s : State) (p : Nat) (k : Pkt) : Bool :=
  let t := s.snapPs + s.getF MAC_IMP_CFG.lead p * 1000
  (match k.launch with | some L => decide (L * 1000 ≤ t) | none => true) && s.fits p k.cls k.flen t

/-- MAC_IMP_STATUS shows the gates and the entry in force. -/
def State.showImp (s : State) (p : Nat) : State :=
  let g := s.portGates p s.timePs
  (s.setF MAC_IMP_STATUS.gates g.1 p).setF MAC_IMP_STATUS.entry g.2.1 p

/-! ### Cage modes (R194) -/

/-- The rank of a host interface of Table 7-1 by rate; 0 for anything else. -/
def appRank (a : Nat) : Nat := if a = 1 then 3 else if a = 2 then 2 else if a = 3 then 1 else 0

/-- The cage mode that a module's advertised applications give, that of AppSel code 1 first (R194). -/
def cmisMode (c : Cmis) : Nat :=
  match c.apps with
  | [] => 0
  | a :: _ =>
    if appRank a ≠ 0 then a
    else c.apps.foldl (fun b x => if appRank b < appRank x then x else b) 0

/-- LINK_CHANGED where the port counts as link-up otherwise than before: a disabled port counts as link-down (R196,
MAC_PORT_CFG.enable). -/
def State.reportLink (s : State) (p : Nat) (wasDown : Bool) : State :=
  if s.portDown p = wasDown then s else s.linkChanged p stOk

/-- A port that was up goes down and reports it. -/
def State.portLost (s : State) (p : Nat) : State :=
  if s.flag MAC_PORT_STATUS.link_up p then (s.portToDown p).reportLink p (s.portDown p) else s

/-- The module chooses a cage's mode itself (R194), and its ports train anew where the mode changes; a module above 20 W keeps its cage
disabled (R195). -/
def State.chooseCage (s : State) (c : Nat) : State :=
  let m := match Tab.look s.dp.cages c with
    | some x => if 20 < x.watts then 0 else if appRank (cmisMode x) = 0 then 0 else cmisMode x
    | none => 0
  let s1 := if m = s.getF MAC_CAGE_CFG.mode c then s else (cagePorts c).foldl State.portLost s
  s1.setF MAC_CAGE_CFG.mode m c

end Sys2Proof.Machine
end

