-- ==== Sys2Proof/Machine/Scopes.lean ====
section
/-! DEFINITION. The wide resets, the entry to STANDALONE and STANDBY, and the mode requests that lead to them (spec/02). -/

namespace Sys2Proof.Machine

/-! ### C and W resets (Table 2-4, Table 2-5) -/

/-- The live fields of a register keep what they show through a reset, the others return to their reset values. -/
def State.keepLive (s s0 : State) : State :=
  let s1 := (s.setF PWR_HOST_CTL.aux_en (s0.getF PWR_HOST_CTL.aux_en)).setF PWR_HOST_CTL.pwr_good (s0.getF PWR_HOST_CTL.pwr_good)
  ((s1.setReg .PWR_STATUS (s0.reg .PWR_STATUS)).setReg .PWR_THERM (s0.reg .PWR_THERM)).setF PWR_THERM.tj_alarm 100

/-- The Proofreader across a C or W reset: W keeps PRF_LATCH and the records and so what stands by them (R433), C clears
them; both end every containment (R435) and stop the Safelight. -/
def PrfSt.afterReset (p : PrfSt) (cold : Bool) (latched : Nat → Bool) : PrfSt :=
  { p with
    places := []
    standing3 := if cold then [] else p.standing3.filter latched
    standing4 := if cold then [] else (p.standing4.filter fun q => latched q.1).map fun q => (q.1, true)
    contained := []
    slExpect := 0x5A, slLastFeed := none, slWrong := false, slTimedOut := false, slValidFeed := false,
    slLevel := false
    tracked := if cold then [] else p.tracked }


/-- The blocks' states as a P, C or W reset leaves them, beyond the registers. -/
def PrfSt.reset : PrfSt :=
  { places := [], standing3 := [], standing4 := [], contained := [], slExpect := 0x5A, slLastFeed := none,
    slWrong := false, slTimedOut := false, slValidFeed := false, slLevel := false, slBoundary := 0, tracked := [],
    log := [], failedUnits := [], unitMap := [], rowSpares := [], dueUnits := [], testedAt := none }

/-- Formes: every number FREE; the standalone forme stays in MRAM (R69, R104). -/
def FrmSt.reset (m : FormeImg) : FrmSt :=
  { order := [], slots := [], discarded := [], settled := [], waiting := [], sweep := none, lockup := none,
    installing := false, standalone := m }

/-- The tables: empty (R104). -/
def TblSt.reset : TblSt :=
  { eml := [], lpm := [], rul := [], act := [], flt := [], idle := [], bad := [], pend := [], recent := [], lfsrE := 1,
    lfsrF := 1, emlFifo := [], fltFifo := [], emlNotes := [], fltNotes := [], held := [], ageE := 0, ageF := 0, holdAt := 0 }

/-- The traffic manager: no node and no policer written (R189). -/
def TmSt.reset : TmSt :=
  { live := [], shadow := [], run := [], vt := [], pols := [], lastOut := [], selAt := [], epochAt := none }

/-- The data path: no packet, ports at reset, the optical modules still in their cages. -/
def DpSt.reset (cages : Tab Cmis) : DpSt := { nextPkt := 0, pkts := [], lists := [], ports := [], cages := cages, entered := [] }

/-- Boot and measurement (R472–R474): every measurement register zero, the log empty; the owner's key hash is in MRAM. -/
def BootSt.reset (owner : List Byte) (recovered : Bool := false) : BootSt :=
  { straps := 0, left := [], wait := none, transfer := none, window := none, chosen := none, recovered := recovered,
    running := 0, version := 0, watchdog := none, sums := [],
    log := [], aliased := [], recState := 0, recReason := 0, recAddr := 0, recLen := 0, owner := owner }

/-- The cascade: nothing heard. -/
def OdfSt.reset : OdfSt :=
  { heard := [], linkHeard := [], activating := none, offset := 0, lockAt := none, goneSince := [], partners := [], accesses := [] }

/-- Module memory that keeps its contents: MRAM (Table 19-2). -/
def mramCells (m : List Host.Cell) : List Host.Cell :=
  m.filter fun c => decide (0x10000000 ≤ c.1 ∧ c.1 < 0x20000000)

/-- The seeds of the tables' replacement registers are free, and not zero (R140). -/
def State.seedTables (s : State) : State :=
  let a := s.draw 16
  let b := a.2.draw 16
  let tbl := { b.2.tbl with lfsrE := if a.1 = 0 then 1 else a.1, lfsrF := if b.1 = 0 then 1 else b.1,
                            ageE := s.now, ageF := s.now, holdAt := s.now }
  { b.2 with tbl := tbl }

/-- A host power operation outlives the SoC only to the end of its pulse, and posts nothing (R507). -/
def HwSt.silence (h : HwSt) : HwSt :=
  match h.op with
  | some o => { h with op := if o.step = PowerStep.pulse then some { o with silent := true } else none }
  | none => h

/-- The blocks that a C or W reset clears, with the memory of the module but MRAM. -/
def State.clearBlocks (s : State) (cold : Bool) : State :=
  let latched (n : Nat) : Bool := natBit (s.getF PRF_LATCH.fault) n
  { s with
    mem := mramCells s.mem
    modes := { s.modes with req := none, heldStandby := none, debounced := false, dReset := none, flush := none,
                            hostPush := false, phase := if cold then .selfTest else .rom }
    prf := s.prf.afterReset cold latched
    hif := ⟨[], [], []⟩
    ptm := []
    pages := []
    rings := []
    slc := ⟨[], [], [], [], []⟩
    dp := DpSt.reset s.dp.cages
    frm := FrmSt.reset s.frm.standalone
    tbl := TblSt.reset
    tm := TmSt.reset
    fcx := ⟨[], [], [], [], s.now⟩
    cph := CphSt.reset
    boot := BootSt.reset s.boot.owner s.boot.recovered
    upd := ⟨none, none, []⟩
    odf := OdfSt.reset
    hw := s.hw.silence }

/-- Everything that a C reset (`cold`) or a W reset takes back to its reset state: all but MRAM, fuses and the time
island, and for W the repair state (Table 2-4). Writes in the NVMe buffer are lost (R62). -/
def State.socReset (s : State) (cold : Bool) : State :=
  let s0 := s.nveLost.nveReset
  let kept := (s0.resetRegs (if cold then Rst.c else Rst.w)).keepLive s
  let s1 := if cold then kept.setF PWR_STATUS.psu_fault 0 else kept
  let d := (((s1.clearBlocks cold).drtReset s).seedTables).draw 64
  (d.2.setReg .UPD_NONCE (BitVec.ofNat 64 d.1)).showSafelight

/-! ### D resets (R60) -/

/-- The blocks whose status shows d_hold (X_BLK_STATUS.d_hold). -/
def dHoldBlocks : List Nat := [5, 6, 7, 8, 9, 10, 11, 12, 13, 14, 15, 20]

/-- d_hold of every such block. -/
def State.setDHold (s : State) (v : Nat) : State := dHoldBlocks.foldl (fun t b => t.setF X_BLK_STATUS.d_hold v b) s

/-- Ring entries already fetched whose work was in the data path complete SQUASHED (R60 step 3): TX entries, and DRUGRIM entries with
the body of R230. Table commands already taken complete (R158); receive buffers and control commands keep their places. -/
def State.squashFetched (s : State) : State :=
  let s1 := (s.drt.outs.filter fun q => decide (q.2.num < nveRing)).foldl (fun t q => t.endOut q.1 stSquashed 0) s
  (s1.rings.filter fun p => p.1 / 65536 == 0 && (p.2.kind == 2 || p.2.kind == 5)).foldl (fun t p =>
    let body := if p.2.kind = 5 then zeroBytes 8 ++ t.stampNow else []
    p.2.fetched.foldl (fun u e => u.completeEntry p.1 e.1 (natBit (e.2.getD 1 0).toNat 0) stSquashed body) t) s1

/-- Every packet is discarded, with the arriving frames and those in transmission, and no forme counts one any more (R60 step 2, R104,
R203). -/
def State.discardPackets (s0 : State) : State :=
  let s := (List.range 8).foldl State.cutTx s0
  let cut (_ : Nat) (x : PortSt) : PortSt := { x with rx := none, rxBytes := [] }
  let s1 := { s with dp := { s.dp with pkts := [], lists := [], ports := Tab.mapVals s.dp.ports cut } }
  (List.range 8).foldl (fun t n => t.setF FRM_REF.packets 0 n) s1

/-- The cages with a SerDes that a D reset replaces: their ports go down meanwhile (R215). -/
def State.dropSwapped (s : State) : State :=
  let cs := (s.prf.dueUnits.filter fun u => u.1 == kSerDes).map fun u => u.2 / 16
  ((List.range 8).filter fun p => cs.contains (p % 2) && s.flag MAC_PORT_STATUS.link_up p).foldl (fun t p =>
    (t.portToDown p).linkChanged p stOk) s

/-- What a D reset discards, squashes and reloads from its start (R60 steps 1 to 4, Table 2-6). -/
def State.dataReset (s : State) : State :=
  let s1 := ((s.resetRegs .d).setDHold 1).squashFetched
  let s2 := s1.discardPackets.dropSwapped.swapFailed.checkLanes.showHandles
  let s3 := s2.nveDReset.drtDReset.cipherDReset.resetBuckets
  let s4 := { s3 with tbl := { s3.tbl with emlFifo := [], fltFifo := [] } }
  s4.reloadCores.showTransport

/-- Gates stay closed after a D reset until the next cycle of the operational schedule (R210). -/
def State.holdGates (s : State) : State :=
  (List.range 8).foldl (fun t p =>
    match (t.port p).op with
    | some m =>
      if t.flag MAC_IMP_CFG.enable p then
        (t.setPort p { t.port p with closed := true, startAt := some (m.nextCycle t.timePs) }).showImp p
      else t
    | none => t) s

/-- Interrupt moderation timers have expired: an armed ring with entries not yet signalled signals (R67, R338). -/
def State.expireModeration (s : State) : State :=
  (s.rings.filter fun p => decide (0 < p.2.unsig) && p.2.armed).foldl (fun t p =>
    match Tab.look t.rings p.1 with
    | some r => { t with rings := Tab.put t.rings p.1 { r with irqDue := true } }.maybeSignal (p.1 / 65536) (p.1 % 65536) false
    | none => t) s

/-- The release of the data path (R60 step 5, R158, R182, Table 2-6): held table commands run, every replica holds every write,
move-hold timers have expired, a held epoch request starts to validate, NVMe fetching resumes in an activation (R383), and
the transport runs again. -/
def State.dataRelease (s : State) : State :=
  let s1 := s.setDHold 0
  let clear (_ : Nat) (v : Nat) : Nat := nset v 118 118 0
  let tbl := { s1.tbl with held := [], pend := [], eml := Tab.mapVals s1.tbl.eml clear }
  let tm := if s1.tm.epochAt.isSome then { s1.tm with epochAt := some s1.now } else s1.tm
  let nve := { s1.nve with holdFetch := s1.nve.holdFetch && (s1.upd.act.bind ActSt.commit).isNone }
  let s2 := { s1 with tbl := tbl, tm := tm, nve := nve, modes := { s1.modes with dReset := none } }
  ((s.tbl.held.foldl (fun t q => t.tblExec q) s2).holdGates.expireModeration).showTransport

/-! ### Requesting a reset (R59, R61–R63) -/

/-- A reset begins, with its PWR_RESET_CAUSE bit where it has one. A wider reset takes a narrower one over, and a narrower one is absorbed
by a reset in progress (R61). -/
def State.beginReset (s : State) (k : RstKind) (causeBit : Option Nat) : State :=
  let cause := match causeBit with
    | some b => s.setReg .PWR_RESET_CAUSE (s.reg .PWR_RESET_CAUSE ||| BitVec.ofNat 64 (2 ^ b))
    | none => s
  match k with
  | .d =>
    if s.modes.asserted.isSome ∨ s.modes.dReset.isSome then s
    else .dataReset { cause with modes := { cause.modes with dReset := some ⟨.d, causeBit, s.now⟩ } }
  | _ =>
    let wider := match s.modes.asserted with
      | none => true
      | some r => (k == RstKind.c && r.kind == RstKind.w)
    if wider then
      let t := (cause.socReset (k == .c)).setF BOOT_STATUS.wdog 0
      { t with modes := { t.modes with asserted := some ⟨k, causeBit, s.now⟩ } }
    else s

/-- A write of PWR_RESET_CTRL (R62, R63): ignored while a flush runs; stores flush_first; with the key, the widest reset it
names is flushed for first or begins. -/
def State.resetRequest (s : State) (init : Nat) (v : Nat) : State :=
  let a := s.blockAccess 23 .write init 0x40
  if !a.2 then a.1
  else if s.flag PWR_RESET_CTRL.flushing then a.1
  else
    let s1 := a.1.setF PWR_RESET_CTRL.flush_first (v % 2)
    if v / 2 ^ 16 % 2 ^ 16 ≠ 0xA5C3 then s1
    else
      let req := if natBit v 1 then some (RstKind.c, 3) else if natBit v 2 then some (RstKind.w, 4)
        else if natBit v 3 then some (RstKind.d, 8) else none
      match req with
      | none => s1
      | some (k, c) =>
        if natBit v 0 then
          let s2 := s1.setF PWR_RESET_CTRL.flushing 1
          { s2 with modes := { s2.modes with flush := some ⟨k, some c, s2.now⟩ } }
        else s1.beginReset k (some c)

/-! ### Mode requests (R46, R49) -/

/-- Is an L3 fault in PRF_LATCH still unacknowledged (Table 2-2): a set bit whose record stands at level 3 or above? -/
def State.unackedL3 (s : State) : Bool :=
  (List.range 45).any fun n => natBit (s.getF PRF_LATCH.fault) n && decide (3 ≤ s.getF PRF_REC.level n)

/-- Is STANDBY entry allowed in the mode in force (Table 2-2)? -/
def State.standbyAllowed (s : State) : Bool := decide (s.mode ≤ 2) && !s.cascadeActive

/-- Does Table 2-2 list the change that firmware requests, with no refusal condition? -/
def State.firmwareChangeOk (s : State) (target : Nat) : Bool :=
  let m := s.mode
  let ret := s.getF MODE_STATE.return_mode
  if m ≤ 2 ∧ target = mStandby then s.standbyAllowed && !s.modes.pwrGood
  else if m = mStandalone then
    decide (target = mAutonomous)
      || (decide (target = mTest) && s.flag MGT_START_CFG.test_allowed && !s.cascadeActive)
  else if m = mManaged then decide (target = mStandalone ∨ target = mAutonomous)
  else if m = mAutonomous then decide (target = mStandalone)
  else if m = mSafeHold then
    !s.unackedL3 && (if ret = mTest then decide (target = mTest) else decide (target = ret ∨ target = mStandalone))
  else if m = mTest then decide (target ≤ 2)
  else false

/-- A mode request is triggered: the module prepares it (R48, R49). -/
def State.beginMode (s : State) (t : ReqTrigger) (target : Nat) : State :=
  let s1 := s.setF MGT_MODE_REQ.busy 1
  { s1 with modes := { s1.modes with req := some ⟨t, s.mode, target, s.now⟩ } }

/-- The outcome of a request goes to whoever made it: a firmware write of go shows it in MGT_MODE_REQ.result, a ring command
completes with it (R46); CLAIM carries the configuration epoch (R47). -/
def State.answerMode (s : State) (t : ReqTrigger) (status : Nat) : State :=
  match t with
  | .firmware => s.setF MGT_MODE_REQ.result status
  | .safeHoldExit => s.setF MGT_MODE_REQ.result status
  | .claim o => s.complete o status (if status = stOk then leBytes 8 (s.reg .ODF_REC_CFG 0).toNat else [])
  | .release o => s.complete o status
  | _ => s

/-- The request in preparation ends with a status; busy clears (R49). -/
def State.endMode (s : State) (status : Nat) : State :=
  match s.modes.req with
  | none => s
  | some q =>
    let s1 := s.setF MGT_MODE_REQ.busy 0
    { s1 with modes := { s1.modes with req := none } }.answerMode q.trigger status

/-- A STANDBY change that a debounce has earned: prepared if the mode in force allows it (Table 2-2). -/
def State.startStandby (s : State) (entry : Bool) : State :=
  if entry then (if s.standbyAllowed then s.beginMode .standbyEntry mStandby else s)
  else if s.mode = mStandby then s.beginMode .standbyExit (s.getF MODE_STATE.return_mode) else s

/-- A STANDBY change held behind a request starts when that request ends, if HOST_PWR_GOOD has stayed (R50; a change of the
pin drops what is held). -/
def State.resumeHeldStandby (s : State) : State :=
  match s.modes.heldStandby with
  | none => s
  | some e => { s with modes := { s.modes with heldStandby := none } }.startStandby e

/-- Learning returns to the bridge's settings; the members' counts stay (R154). -/
def State.bridgeLearning (s : State) : State :=
  let s1 := (s.setReg .EML_LEARN_CFG (Reg.EML_LEARN_CFG.resetVal s.fuse 0 0)).setReg .X_AGE_CFG
    (Reg.X_AGE_CFG.resetVal s.fuse 0 0) 0
  (List.range 16).foldl (fun t i =>
    let n := t.getF EML_MEMBER_CFG.count i
    (t.setReg .EML_MEMBER_CFG (Reg.EML_MEMBER_CFG.resetVal t.fuse i 0) i).setF EML_MEMBER_CFG.count n i) s1

/-- STANDALONE entry (R53, R188, R194, R285, R423): cage modes from CMIS, the standalone forme, the default epoch, no slices, no
transport messages, an empty key store, and the virtio-net program on cores 0 to 7. -/
def State.standaloneEntry (s : State) : State :=
  let s1 := ((s.chooseCage 0).chooseCage 1).bridgeLearning.installStandalone
  let s2 := { s1 with tm := { s1.tm with shadow := defaultEpoch } }.swapEpoch defaultEpoch
  let s3 := s2.slc.slices.foldl (fun t p => t.sliceRemove p.1) s2
  (s3.squashEps (fun _ => true) true).clearKeys.showCipher.standaloneCores

/-- The standby port alone stays up, on one lane where its module lists that (R58, R197); the other ports go dark. -/
def State.standbyPorts (s : State) : State :=
  let sp := s.getF MGT_START_CFG.standby_port
  (List.range 8).foldl (fun t p =>
    if t.flag MAC_PORT_STATUS.link_up p = false then t
    else if p = sp then
      (match Tab.look t.dp.cages (p % 2) with
        | some c => if c.oneLane then t.setF MAC_PORT_STATUS.mode_active 4 p else t
        | none => t)
    else (t.portToDown p).linkChanged p stOk) s

/-- Leaving STANDBY, at once or through SAFE_HOLD, brings the standby port back to its cage's mode. -/
def State.standbyPortBack (s : State) : State :=
  let sp := s.getF MGT_START_CFG.standby_port
  if s.getF MAC_PORT_STATUS.mode_active sp = 4 then (s.portToDown sp).linkChanged sp stOk else s

/-- STANDBY entry (R58, R66, R306, R423): both links as by an H reset, rings and regions of host functions lost with their
slices STOPPED, packets and flow-core memory lost, the standby port alone up. -/
def State.standbyEntry (s : State) : State :=
  let s1 := (s.enterLinkReset 0).enterLinkReset 1
  let s2 := s1.discardPackets.resetBuckets.showHandles
  (s2.suspendUnits (List.range 26)).parkCores.standbyPorts

/-- What follows the mode in force in the registers of other blocks: the Safelight's stop reason, the cores' status, the transport,
the role in a cascade. -/
def State.showMode (s : State) : State :=
  ((Tab.keys s.fcx.cores).foldl (fun t c => t.showCore c) s).showSafelight.showTransport.showCascade

/-- A mode commits: MODE_STATE changes in one FCLK, with what entering or leaving the mode does (R43, R45). STANDBY exit reloads the
flow cores from their recorded images (R58, R423), and goes back to a STANDALONE that was left as it stood. -/
def State.commitMode (s : State) (target : Nat) : State :=
  let old := s.mode
  let s1 := if target = mStandby then s.setF MODE_STATE.return_mode old else s
  let s2 := s1.setF MODE_STATE.mode target
  let s3 := if target = mStandalone ∧ old ≠ mStandby then s2.standaloneEntry else s2
  let s4 := if target = mStandby then s3.standbyEntry else s3
  let s5 := if old = mStandby then s4.reloadCores else s4
  (if target = mStandby then s5 else s5.standbyPortBack).showMode

/-- On SAFE_HOLD entry each enabled endpoint reports an Uncorrectable Internal Error, unless it is masked, as its severity
bit selects (R301). -/
def State.reportInternalError (s : State) : State :=
  [0, 1, 2, 3].foldl (fun t e => t.aerEndpoint e aerInternal true []) s

/-- UPD shows the result and reason of an operation that ends. -/
def State.updEnd (s : State) (status reason : Nat) : State :=
  ((s.setF UPD_CMD.result status).setF UPD_CMD.reason reason).setF UPD_CMD.busy 0

/-- An activation ends before its commit, with nothing changed (R478, R483): NVMe fetching resumes, and Firmware Commits that wait
for it fail. -/
def State.abandonAct (s : State) (reason : Nat) : State :=
  match s.upd.act with
  | none => s
  | some a =>
    if a.commit.isSome then s
    else
      let s1 := { s with upd := { s.upd with act := none }, nve := { s.nve with holdFetch := false } }
      let s2 := if a.member then s1 else s1.updEnd stRefusedState reason
      (((s2.setF UPD_STATUS.last_result stRefusedState).setF UPD_STATUS.last_reason reason).setF UPD_STATUS.phase
        (if s2.upd.header.isSome then 1 else 0)).nveActivated false

/-- Is the control plane paused: between an activation's commit and BOOT_CTL.done (R480)? -/
def State.controlPaused (s : State) : Bool :=
  match s.upd.act with
  | some a => a.commit.isSome
  | none => false

/-- A mode request waits for the end of the pause. -/
def State.holdReq (s : State) (q : HeldReq) : State := { s with upd := { s.upd with held := s.upd.held ++ [q] } }

/-- SAFE_HOLD is entered by an L3 fault (R45, R50): a request in preparation is abandoned with REFUSED_STATE, and the mode
being left becomes the return mode unless it is STANDBY. In SAFE_HOLD the mode and return_mode stay; DARKROOM commits
nothing (R434). -/
def State.enterSafeHold (s : State) : State :=
  let s0 := (s.endMode stRefusedState).abandonAct 5
  let s1 := { s0 with modes := { s0.modes with heldStandby := none } }
  if s.mode = mSafeHold ∨ s.mode = mDarkroom then s1
  else
    let s2 := if s.mode = mStandby then s1 else s1.setF MODE_STATE.return_mode s.mode
    ((s2.setF MODE_STATE.mode mSafeHold).suspendUnits (List.range 26)).reportInternalError.showMode

end Sys2Proof.Machine
end

