-- ==== Sys2Proof/Machine/Modes.lean ====
section
/-! DEFINITION. Operating modes, resets and the flush before them: the meanings of their commands (spec/02). -/

namespace Sys2Proof.Machine

/-- A firmware request (R46, R49, R51): a write of MGT_MODE_REQ with go = 1 and a target. While a request is in progress the
go is ignored; a change that Table 2-2 does not list or that is refused ends with REFUSED_STATE; a change out of SAFE_HOLD
begins with a D reset, and the exit from TEST is a C reset recorded as fw_cold. -/
def State.modeGo (s : State) (init target : Nat) : State :=
  let a := s.blockAccess 24 .write init 0x100
  if !a.2 then a.1
  else
    let s1 := a.1.setF MGT_MODE_REQ.target target
    if s1.flag MGT_MODE_REQ.busy then s1
    else
      let s2 := s1.setF MGT_MODE_REQ.source_mode s1.mode
      if !s2.booted || !s2.firmwareChangeOk target then (s2.setF MGT_MODE_REQ.result stRefusedState)
      else if s2.mode = mTest then (s2.beginReset .c (some 3))
      else if s2.mode = mSafeHold then ((s2.beginMode .safeHoldExit target).beginReset .d (some 8))
      else (s2.beginMode .firmware target)

/-- MODE_REQUEST_GO: held while the control plane pauses (R480). -/
def execModeRequestGo (init : Nat) (target : Fin 8) (s : State) : Res :=
  .next (if s.controlPaused then s.holdReq (.go init target.val) else s.modeGo init target.val)

/-- May CLAIM and RELEASE come through this ring: the function-level CONTROL ring of PF0 of link 0 (R46, Table 11-5)? -/
def State.claimRing (s : State) (o : Origin) : Bool :=
  match o with
  | .ring num _ _ =>
    match s.ring? 0 num with
    | some r => decide (r.fn = 0x800 ∧ r.slice = none ∧ r.kind = 1)
    | none => false
  | .reg _ => false

/-- A claim (R46, R47, R49): requests MANAGED from STANDALONE, completes OK with the configuration epoch in MANAGED, and is
refused while a request is in progress, before boot completes, and in any other mode. -/
def State.claimMode (s : State) (o : Origin) : State :=
  if !s.claimRing o then s.complete o stMalformed
  else if s.flag MGT_MODE_REQ.busy || !s.booted then s.complete o stRefusedState
  else if s.mode = mManaged then s.answerMode (.claim o) stOk
  else if s.mode = mStandalone then s.beginMode (.claim o) mManaged
  else s.complete o stRefusedState

/-- CLAIM: held while the control plane pauses (R480). -/
def execClaim (o : Origin) (s : State) : Res := .next (if s.controlPaused then s.holdReq (.claim o) else s.claimMode o)

/-- A release (R46, R49): requests STANDALONE from MANAGED, and is refused otherwise. -/
def State.releaseMode (s : State) (o : Origin) : State :=
  if !s.claimRing o then s.complete o stMalformed
  else if s.flag MGT_MODE_REQ.busy || !s.booted then s.complete o stRefusedState
  else if s.mode = mManaged then s.beginMode (.release o) mStandalone
  else s.complete o stRefusedState

/-- RELEASE: held while the control plane pauses (R480). -/
def execRelease (o : Origin) (s : State) : Res := .next (if s.controlPaused then s.holdReq (.release o) else s.releaseMode o)

/-- The mode requests that the pause held run, in order. -/
def State.runHeld (s : State) : State :=
  s.upd.held.foldl (fun t q => match q with
    | .go init target => t.modeGo init target
    | .claim o => t.claimMode o
    | .release o => t.releaseMode o) { s with upd := { s.upd with held := [] } }

/-- After a SAFE_HOLD exit the module-wide stop bath is lifted (R51, R435), and L3 faults that are acknowledged no longer
stand (R433). -/
def State.liftModule (s : State) : State :=
  let s1 := (s.setF PRF_STATUS.module 0).setF TMG_GATE.module_closed 0
  let latched (n : Nat) : Bool := natBit (s1.getF PRF_LATCH.fault) n
  { s1 with prf := { s1.prf with standing3 := s1.prf.standing3.filter latched } }

/-- A CLAIM has committed while PF0 of link 0 presents VIRTIO_NET: the device asks for its reset (R291). -/
def State.virtioNeedsReset (s : State) : State :=
  match s.fn? 0x800 with
  | some x => if x.personality = .virtioNet then s.setFn 0x800 { x with needsReset := true } else s
  | none => s

/-- MODE_COMMIT (R43, R47, R50, R51): the prepared change commits in one FCLK. A SAFE_HOLD exit waits for its D reset and
lifts the stop bath first; MANAGED to AUTONOMOUS posts MODE_CHANGED on PF0's event ring; a held STANDBY change is then
judged afresh, and an exit to a mode with HOST_PWR_GOOD low goes on to STANDBY. -/
def execModeCommit (s : State) : Res :=
  match s.modes.req with
  | none => .next s
  | some q =>
    if q.trigger = .safeHoldExit ∧ s.modes.dReset.isSome then .next s
    else
      let s1 := if q.trigger = .safeHoldExit then s.liftModule else s
      let s2 := (s1.commitMode q.target).endMode stOk
      let s3 := if q.source = mManaged ∧ q.target = mAutonomous then
          s2.postEvent (.fn 0x800) ⟨0x01, none, leBytes 1 mAutonomous ++ leBytes 1 mManaged⟩
        else s2
      let s3 := match q.trigger with
        | .claim _ => s3.virtioNeedsReset
        | _ => s3
      if q.trigger = .safeHoldExit then
        .next (if s3.modes.pwrGood then s3 else s3.startStandby true)
      else .next s3.resumeHeldStandby

/-- HOST_PWR_GOOD_CHANGE (R509, R50): a level of the pin that has held for 1 µs is seen, which starts a debounce and drops
one that ran or was held. -/
def execHostPwrGoodChange (level : Bool) (s : State) : Res :=
  if s.modes.pwrGood = level then .next s
  else
    let s1 := s.setF PWR_HOST_CTL.pwr_good (b2n level)
    .next { s1 with modes := { s1.modes with pwrGood := level, pwrSince := s.now, debounced := false,
                                             heldStandby := none } }

/-- The end of a STANDBY debounce: its change is held behind a request in progress, or starts (R50). In SAFE_HOLD and TEST
HOST_PWR_GOOD is ignored for mode purposes (R51). -/
def State.endDebounce (s : State) (entry : Bool) : State :=
  let s1 := { s with modes := { s.modes with debounced := true } }
  if s.mode = mSafeHold ∨ s.mode = mTest then s1
  else if s1.modes.req.isSome then { s1 with modes := { s1.modes with heldStandby := some entry } }
  else s1.startStandby entry

/-- STANDBY_ENTRY_DEBOUNCE (R50, Table 2-2): HOST_PWR_GOOD has been low for 100 ms since it fell or since the start mode
committed (R49). -/
def execStandbyEntryDebounce (s : State) : Res :=
  if s.modes.pwrGood || s.modes.debounced || !s.booted then .next s
  else .next ((s.after (s.modes.pwrSince + 100 * msT)).endDebounce true)

/-- STANDBY_EXIT_DEBOUNCE (R50, Table 2-2): HOST_PWR_GOOD has been high for 10 ms. -/
def execStandbyExitDebounce (s : State) : Res :=
  if !s.modes.pwrGood || s.modes.debounced || !s.booted then .next s
  else .next ((s.after (s.modes.pwrSince + 10 * msT)).endDebounce false)

/-- RESET_COLD_REQUEST (R62, R63): a write of PWR_RESET_CTRL that sets cold. -/
def execResetColdRequest (init : Nat) (v : BitVec 32) (s : State) : Res := .next (s.resetRequest init v.toNat)

/-- RESET_WARM_REQUEST (R62, R63): a write of PWR_RESET_CTRL that sets warm and not cold. -/
def execResetWarmRequest (init : Nat) (v : BitVec 32) (s : State) : Res := .next (s.resetRequest init v.toNat)

/-- RESET_DATAPATH_REQUEST (R62, R63): a write of PWR_RESET_CTRL that sets datapath alone. -/
def execResetDatapathRequest (init : Nat) (v : BitVec 32) (s : State) : Res := .next (s.resetRequest init v.toNat)

/-- The flush before a reset is over and the reset begins. -/
def State.afterFlush (s : State) (q : RstReq) : State :=
  let s1 := s.setF PWR_RESET_CTRL.flushing 0
  { s1 with modes := { s1.modes with flush := none } }.beginReset q.kind q.cause

/-- FLUSH_DONE (R62): every buffered write of a namespace that is not FAULTED is destaged, and the requested reset begins. -/
def execFlushDone (s : State) : Res :=
  match s.modes.flush with
  | none => .next s
  | some q =>
    let left := s.nve.bufs.any fun p => p.2.st != NveBufSt.destaged && (match s.ns? p.2.ns with
      | some n => n.fault.isNone
      | none => false)
    if left then .next s else .next (s.afterFlush q)

/-- FLUSH_TIMEOUT (R62): 10 s after the flush started the reset begins anyway. -/
def execFlushTimeout (s : State) : Res :=
  match s.modes.flush with
  | none => .next s
  | some q => .next ((s.after (q.started + 10 * secT)).afterFlush q)

/-- RESET_RELEASE (R59): a C or W reset held for 100 µs is released once the SoC has power (R505); C goes on to the self-test, W to
the ROM with the repairs kept. The phase of the Safelight's boundaries is free. -/
def execResetRelease (s : State) : Res :=
  match s.modes.asserted with
  | none => .next s
  | some q =>
    if !s.hw.rails then .next s
    else
      let s1 := s.after (q.started + 100 * usT)
      let d := s1.draw 17
      let s2 := { d.2 with
        modes := { d.2.modes with asserted := none, phase := if q.kind == RstKind.w then BootPhase.rom else BootPhase.selfTest }
        prf := { d.2.prf with slBoundary := d.2.now + d.1 % 70000 * fclk } }
      .next (if q.kind == RstKind.w then s2.showUnits.releaseCipher else s2.releaseCipher)

/-- D_RESET_DONE (R60 step 5): the D reset completes and the data path is released. -/
def execDResetDone (s : State) : Res :=
  match s.modes.dReset with
  | none => .next s
  | some _ => .next s.dataRelease

end Sys2Proof.Machine
end

