-- ==== Sys2Proof/Machine/Boot.lean ====
section
/-! DEFINITION. The ROM, DARKROOM, boot completion and the contact sheet: the meanings of their commands (spec/16, R454–R474). -/

namespace Sys2Proof.Machine

/-! ### The contact sheet (R472–R474) -/

/-- A measurement register, 48 bytes. -/
def State.measure (s : State) (i : Nat) : List Byte := Tab.getD (zeroBytes 48) s.boot.sums i

/-- An event log entry (R473). -/
def measEntry (i event typ index version build : Nat) (d : List Byte) : List Byte :=
  leBytes 1 i ++ leBytes 1 event ++ leBytes 1 typ ++ leBytes 1 index ++ leBytes 4 version ++ leBytes 8 build ++ fitBytes 48 d

/-- The log takes an entry unless it is full; log_full shows that it is. -/
def State.logMeasure (s : State) (e : List Byte) : State :=
  if 1024 ≤ s.boot.log.length then s.setF BOOT_MEAS_CMD.log_full 1
  else
    let s1 := { s with boot := { s.boot with log := s.boot.log ++ [e] } }
    s1.setF BOOT_MEAS_CMD.log_full (b2n (decide (1024 ≤ s1.boot.log.length)))

/-- An extension (R472): M_i becomes SHA-384(M_i ‖ d), and the log takes an entry. -/
def State.extend (s : State) (i event typ index version build : Nat) (d : List Byte) : State :=
  let v := beBytes 48 (sha384 (s.measure i ++ fitBytes 48 d))
  { s with boot := { s.boot with sums := Tab.setD (zeroBytes 48) s.boot.sums i v } }.logMeasure
    (measEntry i event typ index version build d)

/-- An extension with a digest whose input the spec names and does not lay out: the digest is free. -/
def State.extendFree (s : State) (i event : Nat) : State :=
  let d := s.draw 384
  d.2.extend i event 0 0 0 0 (beBytes 48 d.1)

/-- The alias key is derived again from M0 to M3 (R474). -/
def State.deriveAlias (s : State) : State :=
  { s with boot := { s.boot with aliased := s.measure 0 ++ s.measure 1 ++ s.measure 2 ++ s.measure 3 } }

/-- The parts of a type, in index order. -/
def partsOf (ps : List ImagePart) (t : Nat) : List ImagePart :=
  (List.range 16).filterMap fun i => ps.find? fun p => p.typ == t && p.index == i

/-- The extensions of M2 to M6 for the image of a store (Table 16-8), and the alias key derived after M3. -/
def State.measureImage (s : State) (store event : Nat) : State :=
  let rd := s.storeBytes store
  let ps := imageParts rd
  let v := imageVersion rd
  let b := imageBuild rd
  let one (t : State) (m : Nat) (p : ImagePart) : State := t.extend m event p.typ p.index p.version b (beBytes 48 p.digest)
  let s1 := (s.extend 2 event 0 0 v b (beBytes 48 (sha384 (rd 0 192)))).extend 2 event 0 0 v b (rd 32 48)
  let s2 := ((partsOf ps 1).foldl (fun t p => one t 3 p) s1).deriveAlias
  let s3 := (partsOf ps 2).foldl (fun t p => one t 4 p) s2
  (partsOf ps 4).foldl (fun t p => one t 6 p) ((partsOf ps 3).foldl (fun t p => one t 5 p) s3)

/-! ### Choosing a source (R458–R461) -/

/-- The boot record changed. -/
def State.setBoot (s : State) (b : BootSt) : State := { s with boot := b }

/-- The orders of Table 16-5. -/
def bootOrder (code : Nat) : List BootSrc :=
  match code with
  | 1 => [.mram, .golden, .hostPush, .management]
  | 2 => [.mram, .odfer, .golden, .management]
  | 3 => [.hostPush, .mram, .golden, .management]
  | 4 => [.management, .mram, .golden]
  | 5 => [.mram, .hostPush, .golden, .management]
  | 6 => [.odfer, .mram, .golden, .management]
  | _ => [.mram, .golden, .management]

/-- A store's reason recorded (R457). -/
def State.setFail (s : State) (store reason : Nat) : State := s.setF (failField store) reason

/-- The first of the candidate stores whose digests hold; one whose digests do not gets PART_DIGEST. -/
def State.firstWhole (s : State) : List Nat → State × Option Nat
  | [] => (s, none)
  | st :: t => if digestsOk (s.storeBytes st) then (s, some st) else (s.setFail st rsnPart).firstWhole t

/-- The choice between the slots (R461). -/
def State.chooseMram (s : State) : State × Option Nat :=
  let check (st : Nat) : Nat := imageCheck s.fuse (s.storeBytes st) false (s.getF (triesField st))
  let s1 := (s.setFail 1 (check 1)).setFail 2 (check 2)
  let va := imageVersion (s.storeBytes 1)
  let vb := imageVersion (s.storeBytes 2)
  let bFirst := decide (va < vb) || (va == vb && s.flag BOOT_PERSIST.preferred)
  let order := if bFirst then [2, 1] else [1, 2]
  s1.firstWhole (order.filter fun st => check st == 0)

/-- The golden image is examined. -/
def State.tryGolden (s : State) : State × Bool :=
  let r := imageCheck s.fuse (s.storeBytes 3) true (s.getF BOOT_PERSIST.tries_g)
  if r ≠ 0 then (s.setFail 3 r, false)
  else if digestsOk (s.storeBytes 3) then (s.setFail 3 0, true) else (s.setFail 3 rsnPart, false)

/-- A store is chosen for handover, with the path its image came by. -/
def State.choose (s : State) (store path : Nat) : State :=
  s.setBoot { s.boot with left := [], wait := none, transfer := none, chosen := some (store, path), recovered := false }

/-- The RECOVERY function appears or goes: link 0 is retrained, and link 1 held in Detect (R305). -/
def State.setHostPush (s : State) (on : Bool) : State :=
  if s.modes.hostPush = on then s
  else
    let s1 := (s.enterLinkReset 0).enterLinkReset 1
    { s1 with modes := { s1.modes with hostPush := on } }

/-- DARKROOM (R468): mode 6, and a recovery window of 120 s. -/
def State.enterDarkroom (s : State) : State :=
  let s1 := ((s.setF MODE_STATE.mode mDarkroom).enterLinkReset 0).enterLinkReset 1
  (s1.setBoot { s1.boot with left := [], wait := none, transfer := none, window := some (false, s1.now + 120 * secT),
                             recState := 0, recReason := 0 }).showMode

/-- The ROM takes the sources from a list in turn, up to the first that yields an image or has to be waited for (R458, R459). -/
def State.bootFrom (s : State) : List BootSrc → State
  | [] => s.enterDarkroom
  | .mram :: t =>
    match s.chooseMram with
    | (s1, some st) => s1.choose st (if s.boot.recovered then 4 else 0)
    | (s1, none) => s1.bootFrom t
  | .golden :: t =>
    match s.tryGolden with
    | (s1, true) => s1.choose 3 0
    | (s1, false) => s1.bootFrom t
  | .odfer :: t =>
    if s.getF ODF_STATUS.own_id = 0 || !s.flag MGT_START_CFG.cascade_enable then s.bootFrom t
    else s.setBoot { s.boot with left := t, wait := some (.odfer, s.now + 5 * secT), transfer := none }
  | .hostPush :: t =>
    let s1 := s.setHostPush true
    s1.setBoot { s1.boot with left := t, wait := some (.hostPush, s1.now + 10 * secT), transfer := none, recState := 0,
                              recReason := 0 }
  | .management :: t => s.setBoot { s.boot with left := t, wait := some (.management, s.now + 20 * secT), transfer := none }

/-- The source waited on has failed: the next one is tried; in DARKROOM only its transfer ends (R459, R468). -/
def State.sourceFailed (s : State) : State :=
  if s.mode = mDarkroom then s.setBoot { s.boot with transfer := none }
  else
    let s1 := s.setHostPush false
    (s1.setBoot { s1.boot with wait := none, transfer := none }).bootFrom s1.boot.left

/-- Is the ROM running, as opposed to a reset, the self-test or firmware? -/
def State.inRom (s : State) : Bool := s.modes.phase == .rom && s.modes.asserted.isNone

/-- ROM_START (R458, R460, R472): the ROM samples the straps (CAS_ID [1:0], BOOTSEL [4:2]), extends M0, M1, M7 and M9, and tries
the sources in order. The digests of M1, M7 and M9 have no stated layout and are free. -/
def execRomStart (straps : BitVec 5) (s : State) : Res :=
  if !s.inRom || !s.boot.log.isEmpty then .next s
  else
    let s1 := (s.setBoot { s.boot with straps := straps.toNat }).setF ODF_STATUS.own_id (straps.toNat % 4)
    let s2 := s1.extend 0 1 0 0 0 0 (beBytes 48 Config.romHash)
    let s3 := ((s2.extendFree 1 1).extendFree 7 1).extendFree 9 1
    let code := if s3.fuse.orderLock then s3.fuse.order else straps.toNat / 4
    .next (s3.bootFrom (bootOrder code))

/-- SOURCE_WAIT_TIMEOUT (R459, Table 16-6): the source's wait limit has passed with nothing started, or 5 s have passed without a
block of a management transfer; the next source is tried. -/
def execSourceWaitTimeout (s : State) : Res :=
  if !s.inRom then .next s
  else
    match s.boot.transfer, s.boot.wait with
    | some (src, t), _ =>
      if src = BootSrc.management then .next (s.after (t + 5 * secT)).sourceFailed else .next s
    | none, some (_, t) => .next (s.after t).sourceFailed
    | none, none => .next s

/-- May a transfer from a source start: the ROM waits on that source, or DARKROOM's services are open, and none runs (R468,
R470)? -/
def State.transferOpen (s : State) (src : BootSrc) : Bool :=
  s.inRom && s.boot.transfer.isNone
    && (if s.mode = mDarkroom then s.boot.window.isSome
        else match s.boot.wait with
          | some w => decide (w.1 = src)
          | none => false)

/-- A transfer starts. -/
def State.startTransfer (s : State) (src : BootSrc) : State := s.setBoot { s.boot with transfer := some (src, s.now) }

/-- REC_GO (R471, Table 16-7): a write of 1 to the RECOVERY function's REC_GO starts the ROM's DMA read, which needs Bus Master
Enable. -/
def execRecGo (fn : Nat) (v : BitVec 32) (s : State) : Res :=
  match s.fn? fn with
  | none => .next s
  | some x =>
    if x.personality ≠ .recovery || v ≠ 1 || !(s.boot.recState == 0 || s.boot.recState == 4) || !s.transferOpen .hostPush
        || !x.busMaster then .next s
    else
      let s1 := s.startTransfer .hostPush
      .next ((s1.setBoot { s1.boot with recState := 1, recReason := 0 }).emit
        (.hostRead fn none s1.boot.recAddr s1.boot.recLen))

/-- TFTP_IMAGE_WRITE (R471): a TFTP write of "image" starts on the management port, or its next block arrives. -/
def execTftpImageWrite (s : State) : Res :=
  match s.boot.transfer with
  | some (src, _) => if src = BootSrc.management && s.inRom then .next (s.startTransfer .management) else .next s
  | none => if s.transferOpen .management then .next (s.startTransfer .management) else .next s

/-- ODFER_IMAGE_OFFER (R459, R468, R500): the master offers an image on a link; DARKROOM listens on link 0. -/
def execOdferImageOffer (link : Fin 2) (s : State) : Res :=
  if s.transferOpen .odfer && !(s.mode == mDarkroom && link == 1) then .next (s.startTransfer .odfer) else .next s

/-! ### A received image (R463, R469) -/

/-- The slot that a received image goes to: A where slot A is recorded as failed, B otherwise. -/
def State.receiveSlot (s : State) : Nat :=
  let f := s.getF BOOT_STATUS.fail_a
  if f ≠ 0 ∧ f ≠ rsnNotTried then 0 else 1

/-- The path code of a source (BOOT_STATUS.path). -/
def BootSrc.path : BootSrc → Nat
  | .odfer => 1
  | .hostPush => 2
  | .management => 3
  | _ => 0

/-- The outcome of a host push shows in REC_STATUS. -/
def State.recEnd (s : State) (src : BootSrc) (reason : Nat) : State :=
  if src = BootSrc.hostPush then
    s.setBoot { s.boot with recState := if reason = 0 then 3 else 4, recReason := reason }
  else s

/-- A received image is written to its slot, unless MRAM takes no writes (R64). -/
def State.putImage (s : State) (slot : Nat) (image : List Byte) : State :=
  if s.modes.mramClosed then s else s.setBytes (slotBase slot) (image.take slotSize)

/-- IMAGE_RECEIVED (R463, R469): the image of the running transfer is in its slot and has been verified. A host push whose REC_LEN
is not the header's length is of the wrong form. -/
def execImageReceived (image : List Byte) (s : State) : Res :=
  match s.boot.transfer with
  | none => .next s
  | some (src, _) =>
    if !s.inRom then .next s
    else
      let slot := s.receiveSlot
      let s1 := s.putImage slot image
      let r0 := s1.storeReason (slot + 1)
      let short := src == BootSrc.hostPush && imageLength (readerOf image) != s.boot.recLen
      let r := if short && (r0 == 0 || decide (rsnForm < r0)) then rsnForm else r0
      let s2 := (s1.setFail (slot + 1) r).recEnd src r
      if s.mode = mDarkroom then
        let s3 := s2.setBoot { s2.boot with transfer := none }
        if r = 0 then .next ((s3.setBoot { s3.boot with recovered := true }).beginReset .c (some 7)) else .next s3
      else if r = 0 then .next ((s2.setHostPush false).choose (slot + 1) src.path)
      else .next s2.sourceFailed

/-! ### Handover and boot completion (R462, R467) -/

/-- UPD_STATUS.inactive: the slot the ROM did not boot from, slot A for the golden image (R476). -/
def State.showInactive (s : State) : State := s.setF UPD_STATUS.inactive (b2n (s.getF BOOT_STATUS.store == 1))

/-- ROM_HANDOVER (R462, R472): the tries count goes up, the image is measured, the watchdog armed, and the image runs. -/
def execRomHandover (s : State) : Res :=
  match s.boot.chosen with
  | none => .next s
  | some (store, path) =>
    if !s.inRom then .next s
    else
      let v := imageVersion (s.storeBytes store)
      let s1 := s.setF (triesField store) (s.getF (triesField store) + 1)
      let s2 := ((s1.setF BOOT_STATUS.store store).setF BOOT_STATUS.path path).setF BOOT_VERSION.version v
      let s3 := (s2.measureImage store 1).showInactive
      .next { s3 with
        boot := { s3.boot with chosen := none, running := store, version := v, watchdog := some (s3.now + 60 * secT) }
        modes := { s3.modes with phase := .handedOver } }

/-- BOOT_WATCHDOG (R462): 60 s after handover without boot completion, a W reset. -/
def execBootWatchdog (s : State) : Res :=
  match s.boot.watchdog with
  | none => .next s
  | some t =>
    if s.modes.asserted.isSome then .next s
    else .next (((s.after t).beginReset .w none).setF BOOT_STATUS.wdog 1)

/-- The start mode (R44). -/
def State.startMode (s : State) : Nat :=
  if s.flag MGT_START_CFG.cascade_enable && s.getF ODF_STATUS.own_id != 0 then mStandalone
  else if s.getF MGT_START_CFG.start_mode = 2 then mAutonomous else mStandalone

/-- Boot completes (R467, R44, R305): booted, no watchdog, the store's counts cleared, the start mode committed, and with
HOST_PWR_GOOD low and no cascade STANDBY entry begun. -/
def State.completeBoot (s : State) : State :=
  let s1 := ((s.setF MODE_STATE.booted 1).setF (triesField s.boot.running) 0).setF BOOT_PERSIST.dr_count 0
  let s2 := { s1 with boot := { s1.boot with watchdog := none },
                      modes := { s1.modes with phase := .service, pwrSince := s1.now } }
  let s3 := (s2.commitMode s2.startMode).hostReady
  if !s3.modes.pwrGood && !s3.cascadeActive then s3.startStandby true else s3

/-- An activation's own end (R479 step 5, R481): the pause ends and its result is shown; a downgrade erases the header of the slot
it replaced. -/
def State.finishAct (s : State) (a : ActSt) : State :=
  let status := if a.rolling then stDegraded else stOk
  let reason := if a.rolling then 11 else 0
  let s1 := { s with upd := { s.upd with act := none }, nve := { s.nve with holdFetch := false } }
  let s2 := ((s1.setF UPD_STATUS.last_result status).setF UPD_STATUS.last_reason reason).setF UPD_STATUS.phase
    (if s1.upd.header.isSome then 1 else 0)
  let s3 := if a.member then s2 else s2.updEnd status reason
  let s4 := match a.replaced with
    | some slot => if a.rolling then s3 else s3.eraseHeader slot
    | none => s3
  (s4.nveActivated (!a.rolling)).showSafelight.runHeld

/-- BOOT_DONE (R467, R479): a write of BOOT_CTL with done. It completes boot once, and during an activation ends that; the ROM's
own write, and one before handover, are ignored. -/
def execBootDone (init : Nat) (s : State) : Res :=
  let c := s.blockAccess 2 .write init 0x20
  let s1 := c.1
  if !c.2 || init == 0x020 then .next s1
  else
    match s1.upd.act with
    | some a =>
      if a.commit.isSome && s1.modes.dReset.isNone then .next (s1.finishAct a) else .next s1
    | none => if s1.modes.phase == .handedOver && s1.modes.asserted.isNone && !s1.booted then .next s1.completeBoot else .next s1

/-! ### DARKROOM's retries (R470) -/

/-- RECOVERY_WINDOW_CLOSE (R470): the window closes with no valid image; the retry wait starts with the services still open. -/
def execRecoveryWindowClose (s : State) : Res :=
  match s.boot.window with
  | some (false, t) =>
    let s1 := s.after t
    .next (s1.setBoot { s1.boot with window := some (true, s1.now + min 64 (2 ^ s1.getF BOOT_PERSIST.dr_count) * secT) })
  | _ => .next s

/-- DARKROOM_RETRY (R470, R462): the wait ends, dr_count goes up to at most 255, every tries count is cleared, and a C reset starts
again. -/
def execDarkroomRetry (s : State) : Res :=
  match s.boot.window with
  | some (true, t) =>
    let s1 := s.after t
    let s2 := s1.setF BOOT_PERSIST.dr_count (min 255 (s1.getF BOOT_PERSIST.dr_count + 1))
    let s3 := ((s2.setF BOOT_PERSIST.tries_a 0).setF BOOT_PERSIST.tries_b 0).setF BOOT_PERSIST.tries_g 0
    .next (s3.beginReset .c (some 7))
  | _ => .next s

/-! ### The contact sheet's command (BOOT_MEAS_CMD) -/

/-- A write of BOOT_MEAS_CMD with go: its fields are stored and the operation gives a result. -/
def State.measOp (s : State) (init op n : Nat) (f : State → State × Nat) : State :=
  let a := s.blockAccess 2 .write init 0x28
  if !a.2 then a.1
  else
    let r := f ((a.1.setF BOOT_MEAS_CMD.op op).setF BOOT_MEAS_CMD.n n)
    r.1.setF BOOT_MEAS_CMD.result r.2

/-- BOOT_MEAS_DATA takes up to 64 bytes. -/
def State.putMeasData (s : State) (b : List Byte) (words : Nat) : State :=
  (List.range words).foldl (fun t i => t.setReg .BOOT_MEAS_DATA (BitVec.ofNat 64 (leNat (sliceBytes b (8 * i) 8))) i) s

/-- MEAS_READ (R472): a register into BOOT_MEAS_DATA words 0 to 5. -/
def execMeasRead (init : Nat) (n : BitVec 10) (s : State) : Res :=
  .next (s.measOp init 1 n.toNat fun t =>
    if 15 < n.toNat then (t, stMalformed) else (t.putMeasData (t.measure n.toNat) 6, stOk))

/-- MEAS_EXTEND (R472): firmware extends M12 to M15 with BOOT_MEAS_DATA words 0 to 5. -/
def execMeasExtend (init : Nat) (n : BitVec 10) (s : State) : Res :=
  .next (s.measOp init 2 n.toNat fun t =>
    if n.toNat < 12 ∨ 15 < n.toNat then (t, stMalformed)
    else
      let d := ((List.range 6).map fun i => leBytes 8 (t.reg .BOOT_MEAS_DATA i).toNat).flatten
      (t.extend n.toNat 5 0 0 0 0 d, stOk))

/-- MEAS_LOG_READ (R473): an entry of the event log into BOOT_MEAS_DATA. -/
def execMeasLogRead (init : Nat) (n : BitVec 10) (s : State) : Res :=
  .next (s.measOp init 3 n.toNat fun t =>
    match t.boot.log[n.toNat]? with
    | some e => (t.putMeasData e 8, stOk)
    | none => (t, stMalformed))

end Sys2Proof.Machine
end

