-- ==== Sys2Proof/Machine/Cph.lean ====
section
/-! DEFINITION. The meanings of the cipher array's commands: descriptors, dispatch, key commands and randomness (spec/09). -/

namespace Sys2Proof.Machine

/-! ### Accepting a descriptor (R264, R265) -/

/-- A request of the cipher endpoint as a descriptor, before its key is known. -/
def descOf (s : State) (core thread : Nat) (r : FReq) : CphDesc :=
  let w0 := wordAt r.words 0
  let w1 := wordAt r.words 1
  { core := core, thread := thread, op := r.op, prio := w0 / 2 ^ 58 % 4, erase := natBit w0 38, reply := r.chan,
    tag := r.tag, count := if r.op = 3 then 5 else w1 / 2 ^ 52, inOff := w1 / 2 ^ 41 % 2 ^ 11 * 16, outOff := w1 / 2 ^ 30 % 2 ^ 11 * 16,
    ctr := natBit w0 39, key := 0, long := true, slot := none, words := r.words, acceptAt := s.now, waitAt := s.now,
    idleAt := s.now, done := 0, run := .queued }

/-- Check 1, the format: the status of the first failure (R265, R278). -/
def descFormat (d : CphDesc) : Option Nat :=
  let src := wordAt d.words 0 / 2 ^ 56 % 4
  if d.op = 3 then (if src ≠ 0 ∨ wordAt d.words 1 / 2 ^ 62 = 0 then some stMalformed else none)
  else
    let nIn := if d.ctr then 16 else d.count * 16
    let nOut := d.count * 16
    if d.count = 0 then some stLenZero
    else if 2048 < d.count ∨ 32768 < d.inOff + nIn ∨ 32768 < d.outOff + nOut then some stMalformed
    else if (d.inOff = d.outOff ∧ nIn = nOut) ∨ d.inOff + nIn ≤ d.outOff ∨ d.outOff + nOut ≤ d.inOff then none
    else some stMalformed

/-- May a core name record keys (CPH_DRT_CORES)? -/
def State.recordCore (s : State) (c : Nat) : Bool := natBit (s.getF CPH_DRT_CORES.cores (c / 64)) (c % 64)

/-- Check 2, the key: its value and length, and the slot it counts against (R265, R272, R279). -/
def State.descKey (s : State) (d : CphDesc) : State × Option (Nat × Bool × Option Nat) :=
  let w0 := wordAt d.words 0
  let src := w0 / 2 ^ 56 % 4
  let ref := w0 / 2 ^ 40 % 2 ^ 16
  let found (k : Option Nat) : Option (Nat × Bool × Option Nat) := k.map fun v => (v, true, none)
  if src = 0 then
    let k := s.keySlot ref
    let allows := if d.op = 1 then k.enc else if d.op = 2 then k.dec else k.derive
    let dst := wordAt d.words 1 / 2 ^ 62
    if !k.valid || !allows || (d.op == 3 && decide (dst < 3) && !s.recordCore d.core) then (s, none)
    else
      let a := s.keyAccess .read (threadInit d.core d.thread) ref
      (a.1, if a.2 then some (k.key, k.len256, some ref) else none)
  else if src = 3 then (s, found (Tab.look s.cph.tkeys (d.core * 8 + d.thread)))
  else if !s.recordCore d.core then (s, none)
  else if src = 1 then (s, found ((Tab.look s.drt.outs ref).bind OutRec.key))
  else (s, found ((s.drt.ins.find? fun p => p.2.idx == ref).map fun p => p.2.via.key))

/-- A descriptor that fails a check completes at once: nothing is processed or counted against a key. -/
def State.refuseDesc (s : State) (d : CphDesc) (status : Nat) : State :=
  let s1 := if d.erase then s.dropTransient d.core d.thread else s
  let s2 := if status = stAccessViolation then s1.cphCount 4 else if status = stMalformed then s1.cphCount 5 else s1
  s2.cipherReply d.core d.reply status d.tag 0

/-- A descriptor is accepted: the checks of R265, the reservation of R276, and its place among the descriptors held. -/
def State.acceptDesc (s : State) (d : CphDesc) : State :=
  let s := s.cphCount 1
  match descFormat d with
  | some st => s.refuseDesc d st
  | none =>
    match s.descKey d with
    | (s1, none) => s1.refuseDesc d stAccessViolation
    | (s1, some (k, long, slot)) =>
      let r := match slot with
        | some n => s1.reserveKey n d.count
        | none => (s1, true)
      if !r.2 then r.1.refuseDesc d stKeyExhausted
      else
        let n := r.1.cph.nextDesc
        let s2 := { r.1 with cph := { r.1.cph with nextDesc := n + 1 } }
        s2.setDesc n { d with key := k, long := long, slot := slot }

/-- The descriptor that a thread's oldest request of the endpoint asks for, if the array accepts descriptors now. -/
def State.takeDesc (s : State) (core thread op : Nat) : Res :=
  match s.request? core thread 1 with
  | none => .next s
  | some r =>
    if r.op ≠ op ∨ s.mode = mSafeHold ∨ s.mode = mStandby ∨ 4096 ≤ s.cph.descs.length then .next s
    else .next ((s.takeReq core r).acceptDesc (descOf s core thread r)).settleCores

/-- ENCRYPT (R264, R265). -/
def execEncrypt (core : Fin 128) (thread : Fin 8) (s : State) : Res := s.takeDesc core thread 1

/-- DECRYPT (R264, R265). -/
def execDecrypt (core : Fin 128) (thread : Fin 8) (s : State) : Res := s.takeDesc core thread 2

/-- DERIVE (R278). -/
def execDerive (core : Fin 128) (thread : Fin 8) (s : State) : Res := s.takeDesc core thread 3

/-! ### Dispatch (R268–R271) -/

/-- Does descriptor `a` come before `b`: by priority, then by acceptance? -/
def descBefore (a b : Nat × CphDesc) : Bool :=
  decide (a.2.prio < b.2.prio) || (decide (a.2.prio = b.2.prio) && decide (a.1 < b.1))

/-- The first of some descriptors in that order. -/
def firstDesc (l : List (Nat × CphDesc)) : Option (Nat × CphDesc) :=
  l.foldl (fun (b : Option (Nat × CphDesc)) p => match b with
    | some q => if descBefore p q then some p else b
    | none => some p) none

/-- Descriptors in a given standing. -/
def State.descsIn (s : State) (r : CphRun) : List (Nat × CphDesc) := s.cph.descs.filter fun p => p.2.run == r

/-- Does the array issue: not in SAFE_HOLD or STANDBY? -/
def State.cipherRuns (s : State) : Bool := s.mode != mSafeHold && s.mode != mStandby

/-- The victim that a descriptor of a priority suspends (R269): of the running ones of lower priority with blocks still to issue,
the lowest priority, then the most blocks to issue, then the lowest unit. -/
def State.victim (s : State) (prio : Nat) : Option (Nat × CphDesc × Nat) :=
  let stop := s.now + 3 * fclk
  let cands : List (Nat × CphDesc × Nat) := s.cph.descs.filterMap fun p => match p.2.run with
    | .running u _ => if prio < p.2.prio ∧ p.2.issued stop < p.2.count then some (p.1, p.2, u) else none
    | _ => none
  let left (d : CphDesc) : Nat := d.count - d.issued s.now
  cands.foldl (fun (b : Option (Nat × CphDesc × Nat)) x => match b with
    | none => some x
    | some y =>
      if decide (y.2.1.prio < x.2.1.prio) || (decide (y.2.1.prio = x.2.1.prio)
          && (decide (left y.2.1 < left x.2.1) || (decide (left y.2.1 = left x.2.1) && decide (x.2.2 < y.2.2)))) then some x
      else b) none

/-- The unit that is free for a first block at the earliest, the lowest-numbered on a tie. -/
def State.nextUnit (s : State) : Option Nat :=
  s.cipherUnits.foldl (fun (b : Option Nat) u => match b with
    | some v => if s.unitFreeAt u < s.unitFreeAt v then some u else b
    | none => some u) none

/-- CIPHER_DISPATCH (R268, R269): the first queued descriptor takes a free unit, suspends a victim, or takes the unit that
becomes free first; a suspended descriptor that stands before it goes first. -/
def execCipherDispatch (s : State) : Res :=
  match firstDesc (s.descsIn .queued), s.nextUnit with
  | some (n, d), some u =>
    let start := max (d.acceptAt + 4 * fclk) (s.now + (if s.now = d.acceptAt then 4 * fclk else 0))
    let blocked := match firstDesc (s.descsIn .suspended) with
      | some q => descBefore q (n, d)
      | none => false
    if !s.cipherRuns then .next s
    else if s.unitFreeAt u ≤ start ∧ blocked = false then .next (s.setDesc n { d with run := .running u start })
    else
      match s.victim d.prio with
      | some (m, v, w) =>
        let stop := s.now + 3 * fclk
        let s1 := (s.setDesc m { v with run := .suspended, done := v.issued stop, idleAt := stop, waitAt := stop }).cphCount 2
        .next (s1.setDesc n { d with run := .running w (stop + fclk) })
      | none =>
        if blocked then .next s
        else .next ((s.after (s.unitFreeAt u)).setDesc n { d with run := .running u (max start (s.unitFreeAt u)) })
  | _, _ => .next s

/-- CIPHER_RESUME (R270): the first suspended descriptor resumes on the unit that becomes free first, after 3 FCLK of setup,
unless a more urgent one is queued. -/
def execCipherResume (s : State) : Res :=
  match firstDesc (s.descsIn .suspended), s.nextUnit with
  | some (n, d), some u =>
    let urgent := (s.descsIn .queued).any fun q => decide (q.2.prio < d.prio)
    if !s.cipherRuns || urgent then .next s
    else
      let s1 := s.after (s.unitFreeAt u)
      .next (s1.setDesc n { d with run := .running u (s1.now + 3 * fclk) })
  | _, _ => .next s

/-- CIPHER_COMPLETE (R267, Table 9-2): the running descriptor whose completion comes first completes OK. -/
def execCipherComplete (s : State) : Res :=
  let running := s.cph.descs.filter fun p => p.2.run.unit?.isSome
  match running.foldl (fun (b : Option (Nat × CphDesc)) p => match b with
      | some q => if p.2.endsAt < q.2.endsAt then some p else b
      | none => some p) none with
  | none => .next s
  | some (n, d) => .next ((s.after d.endsAt).finishDesc n).settleCores

/-- DESCRIPTOR_PRIORITY_RAISE (R271): a waiting descriptor that has issued nothing for 65,536 FCLK gains a level, never above 1. -/
def execDescriptorPriorityRaise (s : State) : Res :=
  let waiting := s.cph.descs.filter fun p => decide (1 < p.2.prio) && (p.2.run == .queued || p.2.run == .suspended)
  match waiting.foldl (fun (b : Option (Nat × CphDesc)) p => match b with
      | some q => if p.2.idleAt < q.2.idleAt then some p else b
      | none => some p) none with
  | none => .next s
  | some (n, d) =>
    let s1 := s.after (d.idleAt + 65536 * fclk)
    .next (s1.setDesc n { d with prio := d.prio - 1, idleAt := s1.now })

/-! ### Key commands (R273–R277) -/

/-- What a key command works with: slot, wrapping slot, the attribute word and the key data of 40 bytes. -/
structure KeyArgs where
  slot : Nat
  kek : Nat
  attr : Word
  data : List Byte
deriving DecidableEq, Repr

/-- CPH_KEY_DATA as bytes: byte 0 in word 0 [63:56]. -/
def State.keyData (s : State) : List Byte := (List.range 5).flatMap fun i => beBytes 8 (s.reg .CPH_KEY_DATA i).toNat

/-- A key command is taken: by register with go, which stores its fields and is ignored while busy, or from a fetched CONTROL
entry (Table 11-5). `none` where it does not run. -/
def State.keyTake (s : State) (o : Origin) (op slot kek : Nat) : State × Option KeyArgs :=
  match o with
  | .reg init =>
    let a := s.blockAccess 15 .write init 0
    if !a.2 || a.1.flag CPH_KEY_CMD.busy then (a.1, none)
    else
      let s1 := ((a.1.setF CPH_KEY_CMD.op op).setF CPH_KEY_CMD.slot slot).setF CPH_KEY_CMD.kek_slot kek
      (s1, some ⟨slot, kek, s1.reg .CPH_KEY_ATTR, s1.keyData⟩)
  | .ring num idx _ =>
    match s.ring? 0 num, s.fetchedEntry num idx with
    | some r, some e =>
      if r.kind ≠ 1 ∨ (e.getD 8 0).toNat ≠ 0x20 ∨ (e.getD 9 0).toNat ≠ op then (s, none)
      else
        let w (i : Nat) : List Byte := (sliceBytes e (24 + 8 * i) 8).reverse
        (s, some ⟨leNat (sliceBytes e 10 2), leNat (sliceBytes e 12 2), BitVec.ofNat 64 (leNat (sliceBytes e 16 8)),
          (List.range 5).flatMap w⟩)
    | _, _ => (s, none)

/-- A key command completes, and CPH_KEY_DATA is cleared (R274). -/
def State.keyEnd (s : State) (o : Origin) (status : Nat) (body : List Byte := []) : State :=
  let s1 := (List.range 5).foldl (fun t i => t.setReg .CPH_KEY_DATA 0 i) s
  match o with
  | .reg _ => s1.setF CPH_KEY_CMD.result status
  | .ring _ _ _ => s1.complete o status body

/-- May an origin give a key command (R274): the configuration owner and firmware any, a slice's ring only UNWRAP, ERASE and QUERY
of its own slots; and the key store's table lets it (target 34)? -/
def State.keyAllowed (s : State) (o : Origin) (op : Nat) (a : KeyArgs) : State × Bool :=
  let init := s.originInit o
  let own (n : Nat) (g : Nat) : Bool := (s.keySlot n).slice == some g
  let may := match s.originSlice o with
    | some g => (op == 2 || op == 3 || op == 5) && own a.slot g
        && (op != 2 || (own a.kek g && a.attr.bits 58 58 == 1 && a.attr.bits 57 44 == g))
    | none => s.isOwner init || decide (init < 0x20)
  if may then s.keyAccess .write init a.slot else (s, false)

/-- Descriptors accepted under a slot complete under the old key before a command changes it (R275). -/
def State.flushSlot (s : State) (n : Nat) : State :=
  ((s.cph.descs.filter fun p => p.2.slot == some n).map Prod.fst).foldl (fun t k => t.finishDesc k) s

/-- Must a command wait for descriptors of its slot that cannot run now? -/
def State.slotWaits (s : State) (n : Nat) : Bool :=
  s.cph.descs.any (fun p => p.2.slot == some n) && (!s.cipherRuns || s.cipherUnits.isEmpty)

/-- The slice that an attribute word names. -/
def attrSlice (w : Word) : Option Nat := if w.bits 58 58 = 1 then some (w.bits 57 44) else none

/-- Would a slot with these attributes take its slice beyond its quota (R274)? -/
def State.keyOverQuota (s : State) (n : Nat) (w : Word) : Bool :=
  match attrSlice w with
  | none => false
  | some g => (s.keySlot n).slice != some g && decide (((s.slice? g).map SliceRec.keySlots).getD 0 < s.sliceKeys g + 1)

/-- The uses, slice and limit of a slot as an attribute word gives them. -/
def KeySlot.withAttr (k : KeySlot) (w : Word) : KeySlot :=
  { k with enc := w.bits 62 62 == 1, dec := w.bits 61 61 == 1, derive := w.bits 60 60 == 1, unwrap := w.bits 59 59 == 1,
           slice := attrSlice w, limit := min (w.bits 40 0) (2 ^ 40) }

/-- A slot that takes a new key: counter 0, no flags. -/
def KeySlot.loaded (w : Word) (key : Nat) : KeySlot :=
  { KeySlot.empty.withAttr w with key := key, len256 := w.bits 63 63 == 1, valid := true }

/-- A key command: taken, allowed, and then what it does; it waits while descriptors of its slot cannot run. -/
def State.keyCommand (s : State) (o : Origin) (op slot kek : Nat) (f : State → KeyArgs → Res) : Res :=
  match s.keyTake o op slot kek with
  | (s1, none) => .next s1
  | (s1, some a) =>
    if s1.slotWaits a.slot then .next s
    else
      let c := s1.keyAllowed o op a
      if c.2 then f c.1 a else .next (c.1.keyEnd o stAccessViolation)

/-- KEY_LOAD (R273, R274, R275). -/
def execKeyLoad (o : Origin) (slot : BitVec 16) (s : State) : Res :=
  s.keyCommand o 1 slot.toNat (s.getF CPH_KEY_CMD.kek_slot) fun u a =>
    if a.attr.bits 40 0 = 0 then .next (u.keyEnd o stMalformed)
    else if u.keyOverQuota a.slot a.attr then .next (u.keyEnd o 0x80)
    else
      let key := beNat (a.data.take (if a.attr.bits 63 63 = 1 then 32 else 16))
      .next (((u.flushSlot a.slot).setKeySlot a.slot (KeySlot.loaded a.attr key)).keyEnd o stOk).settleCores

/-- KEY_UNWRAP (R273, R274): the key comes wrapped under kek_slot, which pays 12 or 24 blocks. -/
def execKeyUnwrap (o : Origin) (slot kek : BitVec 16) (s : State) : Res :=
  s.keyCommand o 2 slot.toNat kek.toNat fun u a =>
    let long := a.attr.bits 63 63 == 1
    let w := u.keySlot a.kek
    if a.attr.bits 40 0 = 0 then .next (u.keyEnd o stMalformed)
    else if u.keyOverQuota a.slot a.attr then .next (u.keyEnd o 0x80)
    else
      let c := u.keyAccess .read (u.originInit o) a.kek
      if !w.valid || !w.unwrap || !c.2 then .next (c.1.keyEnd o stAccessViolation)
      else
        let r := (c.1.flushSlot a.slot).reserveKey a.kek (if long then 24 else 12)
        if !r.2 then .next (r.1.keyEnd o stKeyExhausted).settleCores
        else
          match kwUnwrap (keyOf w.len256 w.key) (a.data.take (if long then 40 else 24)) with
          | some key => .next ((r.1.setKeySlot a.slot (KeySlot.loaded a.attr key)).keyEnd o stOk).settleCores
          | none => .next (r.1.keyEnd o stDegraded).settleCores

/-- KEY_ERASE (R273): the slot is zeroised. -/
def execKeyErase (o : Origin) (slot : BitVec 16) (s : State) : Res :=
  s.keyCommand o 3 slot.toNat (s.getF CPH_KEY_CMD.kek_slot) fun u a =>
    .next (((u.flushSlot a.slot).setKeySlot a.slot KeySlot.empty).keyEnd o stOk).settleCores

/-- KEY_ATTR (R273, R277): uses, slice and limit change; a limit at or below the counter exhausts the slot, one that lifts the
counter below the 7/8 point clears rollover_posted. -/
def execKeyAttr (o : Origin) (slot : BitVec 16) (s : State) : Res :=
  match s.keyTake o 4 slot.toNat (s.getF CPH_KEY_CMD.kek_slot) with
  | (s1, none) => .next s1
  | (s1, some a) =>
    let c := s1.keyAllowed o 4 a
    if !c.2 then .next (c.1.keyEnd o stAccessViolation)
    else if a.attr.bits 40 0 = 0 then .next (c.1.keyEnd o stMalformed)
    else if c.1.keyOverQuota a.slot a.attr then .next (c.1.keyEnd o 0x80)
    else
      let k := (c.1.keySlot a.slot).withAttr a.attr
      let s2 := c.1.setKeySlot a.slot { k with rollover := k.rollover && decide (k.limit * 7 / 8 ≤ k.counter) }
      .next ((if k.limit ≤ k.counter then s2.exhaustKey a.slot else s2).keyEnd o stOk)

/-- The attribute word of a slot, as CPH_KEY_ATTR holds it. -/
def KeySlot.attrWord (k : KeySlot) : Nat :=
  b2n k.len256 * 2 ^ 63 + b2n k.enc * 2 ^ 62 + b2n k.dec * 2 ^ 61 + b2n k.derive * 2 ^ 60 + b2n k.unwrap * 2 ^ 59
    + b2n k.slice.isSome * 2 ^ 58 + k.slice.getD 0 % 2 ^ 14 * 2 ^ 44 + k.limit % 2 ^ 41

/-- The usage word of a slot, as CPH_KEY_USAGE holds it. -/
def KeySlot.usageWord (k : KeySlot) : Nat :=
  b2n k.exhausted * 2 ^ 63 + b2n k.rollover * 2 ^ 62 + b2n k.valid * 2 ^ 61 + k.counter % 2 ^ 41

/-- KEY_QUERY (R273, Table 11-5): attributes, counter and flags. -/
def execKeyQuery (o : Origin) (slot : BitVec 16) (s : State) : Res :=
  match s.keyTake o 5 slot.toNat (s.getF CPH_KEY_CMD.kek_slot) with
  | (s1, none) => .next s1
  | (s1, some a) =>
    let c := s1.keyAllowed o 5 a
    if !c.2 then .next (c.1.keyEnd o stAccessViolation)
    else
      let k := c.1.keySlot a.slot
      let s2 := match o with
        | .reg _ => (c.1.setReg .CPH_KEY_ATTR (BitVec.ofNat 64 k.attrWord)).setReg .CPH_KEY_USAGE (BitVec.ofNat 64 k.usageWord)
        | .ring _ _ _ => c.1
      .next (s2.keyEnd o stOk (leBytes 8 k.attrWord ++ leBytes 8 k.usageWord))

/-! ### Randomness (R281, R282) -/

/-- CPH_RNG_READ: a fresh output of the system instance; 0 while it is stopped. -/
def execCphRngRead (init : Nat) (wide upper : Bool) (s : State) : Res :=
  let a := s.blockAccess 15 .read init 0x60
  if !a.2 then .next (a.1.deniedRead init)
  else if a.1.cph.stopped.contains 26 then .next (a.1.emit (.readData init 0))
  else
    let d := a.1.draw 63
    let w : Word := BitVec.ofNat 64 (2 ^ 63 + d.1)
    .next (d.2.emit (.readData init (if wide then w else if upper then BitVec.ofNat 64 (w.bits 63 32) else BitVec.ofNat 64 (w.bits 31 0))))

/-- DRBG_RESEED: an instance whose reseed falls due reseeds, or stops with its unit while the entropy source has failed. -/
def execDrbgReseed (inst : Fin 27) (s : State) : Res :=
  if s.flag CPH_STATUS.entropy_ok ∨ s.cph.stopped.contains inst.val = true then .next s
  else
    let s1 := { s with cph := { s.cph with stopped := insertNat s.cph.stopped inst.val, stopAt := s.now } }
    .next (s1.suspendUnits [inst.val])

/-- ENTROPY_FAILURE (R282): test 0 repetition count, 1 adaptive proportion, 2 startup. -/
def execEntropyFailure (test : Fin 3) (s : State) : Res :=
  let s1 := (s.raise 44 (faultA 0x0006)).setF CPH_STATUS.entropy_ok 0
  .next (s1.postEvent .owner ⟨0x62, none, leBytes 1 1 ++ leBytes 1 (test.val + 1)⟩)

/-- ENTROPY_RECOVERED (R282): the startup test passes; instances reseed and units resume. -/
def execEntropyRecovered (s : State) : Res :=
  if s.flag CPH_STATUS.entropy_ok then .next s
  else
    let s1 := { s with cph := { s.cph with stopped := [] } }.setF CPH_STATUS.entropy_ok 1
    .next (s1.showCipher.postEvent .owner ⟨0x62, none, zeroBytes 2⟩)

/-- CIPHER_ENTROPY_TIMEOUT (R282): with no unit running, the descriptor that has waited longest has waited 10 ms and completes
DEGRADED. -/
def execCipherEntropyTimeout (s : State) : Res :=
  let waiting := s.cph.descs.filter fun p => p.2.run == .queued || p.2.run == .suspended
  if s.cph.stopped.isEmpty || !s.cipherUnits.isEmpty then .next s
  else
    match waiting.foldl (fun (b : Option (Nat × CphDesc)) p => match b with
        | some q => if p.2.waitAt < q.2.waitAt then some p else b
        | none => some p) none with
    | none => .next s
    | some (n, d) => .next ((s.after (max d.waitAt s.cph.stopAt + 10 * msT)).endDesc n stDegraded 0).settleCores

/-- UNIT_KNOWN_ANSWER_TEST (R283): a unit in dispatch passes, or leaves dispatch and ends its descriptor DEGRADED; what a failed unit
has written is free. -/
def execUnitKnownAnswerTest (unit : Fin 26) (pass : Bool) (s : State) : Res :=
  if pass || !s.unitServes unit.val then .next s
  else
    let s1 := ((s.raise 29 (faultA 0x0003)).cphCount 7).unitFails (secondsOf s.timeNow % 2 ^ 32) kCipher unit.val
    let s2 := s1.setF CPH_STATUS.units_active ((List.range 26).filter s1.unitServes).length
    let mine := s2.cph.descs.filter fun p => p.2.run.unit? == some unit.val
    .next (mine.foldl (fun t p =>
      let k := if p.2.op = 3 then 0 else p.2.issued t.now
      let b := t.drawBytes (16 * k)
      (b.2.lmemWrite p.2.core p.2.thread p.2.outOff b.1).endDesc p.1 stDegraded k) s2).settleCores

end Sys2Proof.Machine
end

