-- ==== Sys2Proof/Machine/Fcx.lean ====
section
/-! DEFINITION. The meanings of the flow-core commands: channels, block endpoints, faults, deadlock, debugging and loading
(spec/14). What a thread does is a command of that thread; the instruction that does it is defined in another document. -/

namespace Sys2Proof.Machine

/-! ### Channels (R399–R403) -/

/-- CHANNEL_OPEN (R399): the staging buffer opens with a destination; an uncommitted message is discarded. -/
def execChannelOpen (core : Fin 128) (thread : Fin 8) (dest : BitVec 16) (s : State) : Res :=
  if !s.threadReady core thread then .next s
  else .next (s.setThread core thread { (s.core core).thread thread with dest := some dest.toNat, words := [] })

/-- CHANNEL_WRITE (R399): a word enters the staging buffer; a ninth is a fault. -/
def execChannelWrite (core : Fin 128) (thread : Fin 8) (word : Word) (s : State) : Res :=
  if !s.threadReady core thread then .next s
  else
    let h := (s.core core).thread thread
    if 8 ≤ h.words.length then .next (s.threadFaults core thread 6).settleCores
    else .next (s.setThread core thread { h with words := h.words ++ [word.toNat] })

/-- Is thread 0 turned away by a waiting notification: every operation but a request to CORE (R409)? -/
def State.eventFirst (s : State) (c t : Nat) (toCore : Bool) : Bool :=
  t == 0 && !toCore && !(s.core c).notes.isEmpty

/-- CHANNEL_COMMIT (R399, R401, R404, R409): the staged message is committed, or the thread waits. -/
def execChannelCommit (core : Fin 128) (thread : Fin 8) (s : State) : Res :=
  if !s.threadReady core thread then .next s
  else
    let h := (s.core core).thread thread
    if h.words.isEmpty ∨ h.dest = none then .next (s.threadFaults core thread 6).settleCores
    else if s.eventFirst core thread (h.dest == some (2 ^ 15)) then .next (s.emit (.threadMsg core thread .event))
    else .next (s.setThread core thread { h with wait := .commit }).settleCores

/-- CHANNEL_RECEIVE (R402, R409): the thread takes a message of a set of its channels, or waits for one. -/
def execChannelReceive (core : Fin 128) (thread : Fin 8) (mask : BitVec 16) (s : State) : Res :=
  if !s.threadReady core thread then .next s
  else
    let x := s.core core
    if !(maskChans mask.toNat).all fun ch => x.boundTo ch thread then .next (s.threadFaults core thread 5).settleCores
    else if s.eventFirst core thread false then .next (s.emit (.threadMsg core thread .event))
    else .next (s.setThread core thread { x.thread thread with wait := .receive mask.toNat }).settleCores

/-- The message of a packet delivery (Table 14-2). -/
def deliveryWords (id : Nat) (p : Pkt) : List Nat :=
  let ts := tstamp96 p.stamp.1 p.stamp.2
  [p.bytes.length % 2 ^ 16 * 2 ^ 48 + p.src % 16 * 2 ^ 44 + p.cls % 16 * 2 ^ 40 + p.colour % 4 * 2 ^ 38 + b2n p.trunc * 2 ^ 37 + id % 2 ^ 32,
   p.cookie % 2 ^ 64, nbits ts 95 32, nbits ts 31 0 * 2 ^ 32 + p.pmeta % 2 ^ 32]

/-- PACKET_DELIVERY (R403, R398, R422): the delivery that a half's FIFO holds first reaches its core. -/
def execPacketDelivery (half : Fin 2) (s : State) : Res :=
  match (s.pktsIn .toCore half).head? with
  | none => .next s
  | some (id, p) =>
    let s1 := s.popLst .toCore half id
    let d := p.act.dest % 2 ^ 15
    let c := d / 128 % 128
    let drop (k : Nat) : Res := .next ((s1.fcxCount k).dropPkt id)
    if s1.coreAbsent c then drop 3
    else if s1.noReceiver c then drop 4
    else if decide (2 ^ 14 ≤ d) || !(s1.core c).boundTo (d % 16) (d / 16 % 8) then drop 2
    else if (s1.core c).room (d % 16) < 4 then drop 1
    else
      let s2 := ((s1.pushLst .held c id).showHandles).fcxCount 0
      .next (s2.deliverMsg c (d % 16) ⟨deliveryWords id p, 2 ^ 15 + 2, s2.now⟩).settleCores

/-! ### The CORE endpoint (Table 14-5) -/

/-- The request of an op that an endpoint holds first for a thread, once it is taken. -/
def State.serve (s : State) (c t ep op : Nat) (f : State → FReq → State) : Res :=
  match s.request? c t ep with
  | some r => if r.op = op then .next (f (s.takeReq c r) r).settleCores else .next s
  | none => .next s

/-- TIME: island time in ns from the held snapshot, its uncertainty and validity (R404, R96). -/
def execCoreTime (core : Fin 128) (thread : Fin 8) (s : State) : Res :=
  s.serve core thread 0 1 fun u r =>
    u.reply core r stOk 0 [u.island.snapTime / 2 ^ 16 % 2 ^ 64, unc32 u.island.snapUnc * 2 ^ 32 + b2n u.island.snapUnc.isSome]

/-- TIMER: a reply after a delay in FCLK; a delay of 0 completes LEN_ZERO. -/
def execCoreTimer (core : Fin 128) (thread : Fin 8) (s : State) : Res :=
  s.serve core thread 0 2 fun u r =>
    let d := wordAt r.words 1
    if d = 0 then u.reply core r stLenZero 0 []
    else
      let x := u.core core
      u.setCore core { x with timers := x.timers ++ [⟨u.now + d * fclk, thread, r.chan, r.tag⟩] }

/-- TIMER_EXPIRE: the delay of a core's timer that ends first has passed. -/
def execTimerExpire (core : Fin 128) (s : State) : Res :=
  let x := s.core core
  match x.timers.foldl (fun (b : Option FTimer) k => match b with
      | some q => if k.due < q.due then some k else b
      | none => some k) none with
  | none => .next s
  | some k =>
    let s1 := (s.setCore core { x with timers := dropFirst k x.timers }).after k.due
    .next (s1.replyOn core 0 k.chan stOk k.tag 0 []).settleCores

/-- START_DONE (R421): start-up ends; from the next slot 0 the core is RUNNING. -/
def execStartDone (core : Fin 128) (thread : Fin 8) (s : State) : Res :=
  s.serve core thread 0 3 fun u r =>
    let x := u.core core
    let u1 := if x.st = .startup
      then (u.after (x.released + ceilDiv (u.now - x.released) (8 * fclk) * (8 * fclk))).setCore core { x with st := .running }
      else u
    u1.reply core r stOk 0 []

/-- RESTART (R408): a thread's fault or stop ends and it starts at an entry; MALFORMED for thread 0 or a disabled one. -/
def execThreadRestart (core : Fin 128) (thread : Fin 8) (s : State) : Res :=
  s.serve core thread 0 4 fun u r =>
    let t := wordAt r.words 1 / 2 ^ 61
    let h := (u.core core).thread t
    if t = 0 ∨ h.enabled = false then u.reply core r stMalformed 0 []
    else
      let e := wordAt r.words 1 % 2 ^ 32
      (u.setThread core t { h with faulted := false, halted := false, entry := e, wait := .idle, dest := none, words := [], arch := [] }).reply
        core r stOk 0 []

/-- STOP (R408): a thread is disabled until the next RESTART. -/
def execThreadStop (core : Fin 128) (thread : Fin 8) (s : State) : Res :=
  s.serve core thread 0 5 fun u r =>
    let t := wordAt r.words 1 / 2 ^ 61
    (u.setThread core t { (u.core core).thread t with halted := true, wait := .idle, dest := none, words := [] }).reply
      core r stOk 0 []

/-- READ_EVENTS (R409): up to 7 notifications, the oldest first. -/
def execReadEvents (core : Fin 128) (thread : Fin 8) (s : State) : Res :=
  s.serve core thread 0 6 fun u r =>
    let x := u.core core
    let n := x.notes.take 7
    (u.setCore core { x with notes := x.notes.drop 7 }).reply core r stOk n.length n

/-! ### The PBF endpoint (R405) -/

/-- Handle, packet offset, length and local offset of a PBF request. -/
def pbfArgs (r : FReq) : Nat × Nat × Nat × Nat :=
  (wordAt r.words 1 / 2 ^ 32, wordAt r.words 1 % 2 ^ 32, wordAt r.words 2 / 2 ^ 48, wordAt r.words 2 / 2 ^ 32 % 2 ^ 16)

/-- A request that takes a handle: MALFORMED where the core does not hold it. -/
def State.withHandle (s : State) (c : Nat) (r : FReq) (f : Nat → Pkt → State) : State :=
  match s.handle? c (wordAt r.words 1 / 2 ^ 32) with
  | some (id, p) => f id p
  | none => s.reply c r stMalformed 0 []

/-- READ: bytes of the packet are copied into local memory; beyond its end they are free values. -/
def execPbfRead (core : Fin 128) (thread : Fin 8) (s : State) : Res :=
  s.serve core thread 2 1 fun u r =>
    let (_, off, n, loc) := pbfArgs r
    if n = 0 then u.reply core r stLenZero 0 []
    else if 8192 < n then u.reply core r stMalformed 0 []
    else if !inSlice loc n then u.threadFaults core thread 2
    else u.withHandle core r fun _ p =>
      let got := sliceBytes p.bytes off n
      let d := u.drawBytes (n - got.length)
      (d.2.lmemWrite core thread loc (got ++ d.1)).reply core r stOk 0 []

/-- A packet whose bytes change. -/
def Pkt.withBytes (p : Pkt) (bs : List Byte) : Pkt := { p with bytes := bs, flen := bs.length + 4, flim := bs.length }

/-- WRITE: bytes of local memory are copied into the packet, which grows as needed to at most 16,380 B. -/
def execPbfWrite (core : Fin 128) (thread : Fin 8) (s : State) : Res :=
  s.serve core thread 2 2 fun u r =>
    let (_, off, n, loc) := pbfArgs r
    if n = 0 then u.reply core r stLenZero 0 []
    else if 16380 < off + n then u.reply core r stMalformed 0 []
    else if !inSlice loc n then u.threadFaults core thread 2
    else u.withHandle core r fun id p =>
      let d := u.drawBytes (off - p.bytes.length)
      let bs := (p.bytes ++ d.1).take off ++ (u.core core).lmemBytes thread loc n ++ p.bytes.drop (off + n)
      (d.2.setPkt id (p.withBytes bs)).reply core r stOk 0 []

/-- INJECT: the packet enters the pipeline of the core's half as a new packet; the handle is consumed. -/
def execPbfInject (core : Fin 128) (thread : Fin 8) (s : State) : Res :=
  s.serve core thread 2 3 fun u r =>
    let (_, _, n, _) := pbfArgs r
    let half := core.val / 64
    if 16380 < n then u.reply core r stMalformed 0 []
    else u.withHandle core r fun id p =>
      let d := u.drawBytes (n - p.bytes.length)
      let l := wordAt r.words 3
      let q := { Pkt.ofFrame (10 + half) (2 + half) ((p.bytes ++ d.1).take n) with launch := if l = 0 then none else some l }
      let k := (((d.2.popLst .held core id).endHold id).freePkt id).newPkt q
      (k.2.pushLst .inject (2 + half) k.1).showHandles.reply core r stOk 0 []

/-- FREE: the packet is freed; the handle is consumed. -/
def execPbfFree (core : Fin 128) (thread : Fin 8) (s : State) : Res :=
  s.serve core thread 2 4 fun u r =>
    u.withHandle core r fun id _ => ((u.popLst .held core id).dropPkt id).showHandles.reply core r stOk 0 []

/-- Does the packet buffer admit nothing (R176)? -/
def State.bufferClosed (s : State) : Bool :=
  let spill := s.flag TMG_BUF_CFG.spill_en
  if spill && decide (s.freeCells < s.getF TMG_BUF_CFG.spill_reserve) then decide (s.freeSpill = 0)
  else decide (s.freeCells = 0) && (!spill || decide (s.freeSpill = 0))

/-- ALLOC: an empty packet, whose handle the reply carries, or NO_BUFFER. -/
def execPbfAlloc (core : Fin 128) (thread : Fin 8) (s : State) : Res :=
  s.serve core thread 2 5 fun u r =>
    if u.bufferClosed then u.reply core r 0x80 0 []
    else
      let k := u.newPkt (Pkt.ofFrame (10 + core.val / 64) (2 + core.val / 64) [])
      (k.2.pushLst .held core k.1).showHandles.reply core r stOk 0 [k.1 % 2 ^ 32]

/-! ### The MEM and HOST endpoints (R406, R404) -/

/-- Is an address in one of the HBM regions? -/
def inHbm (a : Nat) : Bool := decide (0x0100000000 ≤ a ∧ a < 0x0D00000000)

/-- A MEM request whose length and local range are in order, once its access is allowed; a denial is a fault ACCESS. -/
def State.memRequest (s : State) (c t : Nat) (r : FReq) (k : AccessKind) (f : State → Nat → Nat → Nat → State) : State :=
  let a := wordAt r.words 1
  let n := wordAt r.words 2 / 2 ^ 48
  let loc := wordAt r.words 2 / 2 ^ 32 % 2 ^ 16
  if n = 0 then s.reply c r stLenZero 0 []
  else if 4096 < n then s.reply c r stMalformed 0 []
  else if !inSlice loc n then s.threadFaults c t 2
  else if !inHbm a then s.threadFaults c t 7
  else
    let q := s.memAccess k (threadInit c t) a n
    if q.2 then (f q.1 a n loc).reply c r stOk 0 [] else q.1.threadFaults c t 7

/-- MEM READ: HBM bytes are copied into local memory. -/
def execMemRead (core : Fin 128) (thread : Fin 8) (s : State) : Res :=
  s.serve core thread 3 1 fun u r =>
    u.memRequest core thread r .read fun v a n loc => v.lmemWrite core thread loc (v.bytes a n)

/-- MEM WRITE: local memory is copied to HBM. -/
def execMemWrite (core : Fin 128) (thread : Fin 8) (s : State) : Res :=
  s.serve core thread 3 2 fun u r =>
    u.memRequest core thread r .write fun v a n loc => v.setBytes a ((v.core core).lmemBytes thread loc n)

/-- HOST_ENDPOINT_REQUEST (R404, R349, R27): the host access of the request that the HOST endpoint holds first for a thread, for a
function or one of its slices, after the DMA window check; held in SAFE_HOLD and under a stop bath of the slice. The message's
form belongs to the manifest's programs: what it asks for is given. -/
def execHostEndpointRequest (core : Fin 128) (thread : Fin 8) (fn : Nat) (slice : Option Nat) (wr : Bool) (addr len loc : Nat)
    (data : List Byte) (s : State) : Res :=
  match s.request? core thread 6 with
  | none => .next s
  | some r =>
    if s.issueHeld fn slice then .next s
    else
      let u := s.takeReq core r
      if len = 0 then .next (u.reply core r stLenZero 0 []).settleCores
      else if !inSlice loc len then .next (u.threadFaults core thread 2).settleCores
      else
        let c := u.dmaCheck fn slice wr addr len
        if !c.2 then .next (c.1.reply core r stAccessViolation 0 []).settleCores
        else if wr then
          .next ((c.1.issueWrite fn slice addr ((c.1.core core).lmemBytes thread loc len)).reply core r stOk 0 []).settleCores
        else
          let s1 := c.1.issueRead fn slice addr len
          .next ((s1.lmemWrite core thread loc (fitBytes len (s1.dmaData fn addr len data))).reply core r stOk 0 []).settleCores

/-! ### The GF unit (R415) -/

/-- GMUL: the product in GF(2^128), 4 FCLK after the operation issues. -/
def execGmul (core : Fin 128) (thread : Fin 8) (x y : BitVec 128) (s : State) : Res :=
  if !s.threadReady core thread then .next s
  else .next ((s.after (s.now + 4 * fclk)).emit (.gfResult core thread (gmul (beBytes 16 x.toNat) (beBytes 16 y.toNat))))

/-- XMUL: a tweak multiplied by α, 4 FCLK after the operation issues. -/
def execXmul (core : Fin 128) (thread : Fin 8) (x : BitVec 128) (s : State) : Res :=
  if !s.threadReady core thread then .next s
  else .next ((s.after (s.now + 4 * fclk)).emit (.gfResult core thread (xmul (beBytes 16 x.toNat))))

/-! ### Faults and deadlock (R407–R414) -/

/-- THREAD_FAULT (R407): an instruction of a thread faults with a cause of Table 14-4 at an address. -/
def execThreadFault (core : Fin 128) (thread : Fin 8) (cause : BitVec 4) (addr : BitVec 32) (s : State) : Res :=
  if !s.threadReady core thread || decide (cause.toNat = 0) || decide (8 < cause.toNat) then .next s
  else .next (s.threadFault core thread cause.toNat addr.toNat).settleCores

/-- DEADLOCK (R411): every thread of a core has been blocked for 1,024 FCLK with nothing in transit; posted once an episode. -/
def execDeadlock (core : Fin 128) (s : State) : Res :=
  let x := s.core core
  match x.allSince, s.transitEnd core with
  | some a, some e =>
    if x.episode || !s.coreLive core then .next s
    else
      let s1 := ((s.after ((if a < e then e else a) + 1024 * fclk)).setCore core { x with episode := true }).fcxCount 6
      .next (s1.postNote core (2 * 2 ^ 56 + threadMask x.blocked)).settleCores
  | _, _ => .next s

/-- A cycle present in a sample: one sample more where the last sample showed it and no message came to its cores since. -/
def State.sampleCycle (s : State) (cs : List Nat) : GdlCycle :=
  match s.fcx.cycles.find? fun k => k.cores == cs with
  | some k => if cs.any fun c => s.fcx.delivered.contains c then ⟨cs, 1, k.reported⟩ else { k with samples := k.samples + 1 }
  | none => ⟨cs, 1, false⟩

/-- GLOBAL_DEADLOCK_SAMPLE (R412): the graph is sampled every 8,192 FCLK; a cycle that four samples show is reported, while
FCX_GDL holds no earlier report. -/
def execGlobalDeadlockSample (s : State) : Res :=
  let s0 := s.after (s.fcx.gdlAt + 8192 * fclk)
  let cyc := s0.waitCycles.map s0.sampleCycle
  let s1 := { s0 with fcx := { s0.fcx with cycles := cyc, delivered := [], gdlAt := s0.now } }
  match if s1.flag FCX_GDL.valid then none else cyc.find? fun k => decide (4 ≤ k.samples) && !k.reported with
  | none => .next s1
  | some k =>
    let s2 := { s1 with fcx := { s1.fcx with cycles := cyc.map fun (q : GdlCycle) => if q.cores = k.cores then { q with reported := true } else q } }
    .next (s2.reportCycle k.cores).settleCores

/-- HELD (R414): a thread stopped by the debugger with a staged message for 65,536 FCLK is reported to the sending and the
receiving supervisor, once a stop. -/
def execThreadHeld (core : Fin 128) (thread : Fin 8) (s : State) : Res :=
  let h := (s.core core).thread thread
  match h.dbgSince, h.dest with
  | some t, some d =>
    if h.heldPosted then .next s
    else
      let s1 := (s.after (t + 65536 * fclk)).setThread core thread { h with heldPosted := true }
      let note (role : Nat) : Nat := 3 * 2 ^ 56 + thread.val * 2 ^ 53 + d % 2 ^ 16 * 2 ^ 32 + role
      let s2 := s1.postNote core (note 0)
      .next (if d < 2 ^ 15 then s2.postNote (d / 128 % 128) (note 1) else s2).settleCores
  | _, _ => .next s

/-! ### Debugging (R413) -/

/-- A debug command is taken: its access check, and the fields it stores. -/
def State.dbgTake (s : State) (init op core thread index : Nat) : State × Bool :=
  let a := s.blockAccess 20 .write init 0x20
  if !a.2 || a.1.flag FCX_DBG_CMD.busy then (a.1, false)
  else ((((a.1.setF FCX_DBG_CMD.op op).setF FCX_DBG_CMD.core core).setF FCX_DBG_CMD.thread thread).setF FCX_DBG_CMD.index index, true)

/-- A debug command on a thread of a core that runs; REFUSED_STATE on any other core. -/
def State.dbgRun (s : State) (init op : Nat) (core : Fin 128) (thread : Fin 8) (index : Nat)
    (f : State → FThread → State × Nat) : Res :=
  let b := s.dbgTake init op core thread index
  if !b.2 then .next b.1
  else
    let r := if b.1.coreLive core then f b.1 ((b.1.core core).thread thread) else (b.1, stRefusedState)
    .next (r.1.setF FCX_DBG_CMD.result r.2).settleCores

/-- STOP: the thread stops; an operation it waits in stays pending. -/
def execDbgStop (init : Nat) (core : Fin 128) (thread : Fin 8) (s : State) : Res :=
  s.dbgRun init 1 core thread 0 fun u h =>
    (u.setThread core thread { h with dbgSince := some (h.dbgSince.getD u.now), heldPosted := h.heldPosted && h.dbgSince.isSome }, stOk)

/-- RESUME: the thread runs on, with its pending operation. -/
def execDbgResume (init : Nat) (core : Fin 128) (thread : Fin 8) (s : State) : Res :=
  s.dbgRun init 2 core thread 0 fun u h =>
    (u.setThread core thread { h with dbgSince := none, heldPosted := false, arch := [] }, stOk)

/-- STEP: one instruction issues and the thread stops again. What the instruction does belongs to the instruction set
reference: the state words are free afterwards, and a pending operation is tried. -/
def execDbgStep (init : Nat) (core : Fin 128) (thread : Fin 8) (s : State) : Res :=
  s.dbgRun init 3 core thread 0 fun u h =>
    let u1 := (u.setThread core thread { h with dbgSince := none, arch := [] }).settleCores
    let h1 := (u1.core core).thread thread
    (u1.setThread core thread { h1 with dbgSince := some u1.now, heldPosted := false }, stOk)

/-- READ: a state word of a stopped thread enters FCX_DBG_DATA; a word that nothing has written since the thread stopped is a free
value. -/
def execDbgRead (init : Nat) (core : Fin 128) (thread : Fin 8) (index : BitVec 32) (s : State) : Res :=
  s.dbgRun init 4 core thread index.toNat fun u h =>
    if h.dbgSince.isNone then (u, stRefusedState)
    else
      match Tab.look h.arch index.toNat with
      | some v => (u.setReg .FCX_DBG_DATA (BitVec.ofNat 64 v), stOk)
      | none =>
        let d := u.draw 64
        let u1 := d.2.setThread core thread { h with arch := Tab.put h.arch index.toNat d.1 }
        (u1.setReg .FCX_DBG_DATA (BitVec.ofNat 64 d.1), stOk)

/-- WRITE: FCX_DBG_DATA enters a state word of a stopped thread. -/
def execDbgWrite (init : Nat) (core : Fin 128) (thread : Fin 8) (index : BitVec 32) (s : State) : Res :=
  s.dbgRun init 5 core thread index.toNat fun u h =>
    if h.dbgSince.isNone then (u, stRefusedState)
    else (u.setThread core thread { h with arch := Tab.put h.arch index.toNat (u.reg .FCX_DBG_DATA).toNat }, stOk)

/-! ### Loading (R416–R421) -/

/-- FCX_LOAD is written with go: the state and whether the command runs. -/
def State.loadTake (s : State) (init op first last addr : Nat) : State × Bool :=
  let a := s.blockAccess 20 .write init 0
  if !a.2 || a.1.flag FCX_LOAD.busy then (a.1, false)
  else ((((a.1.setF FCX_LOAD.op op).setF FCX_LOAD.first first).setF FCX_LOAD.last last).setF FCX_LOAD.addr (addr / 64), true)

/-- Does the module refuse a load of these cores now (R419)? -/
def State.loadRefused (s : State) (cs : List Nat) : Bool := s.modes.dReset.isSome || cs.any s.coreInSequence

/-- CORE_LOAD (R416–R418): one image is checked and loaded into a range of cores. -/
def execCoreLoad (init : Nat) (first last : Fin 128) (addr : Nat) (s : State) : Res :=
  let b := s.loadTake init 1 first last addr
  let a := addr % 2 ^ 38 / 64 * 64
  let cs := (List.range (last.val + 1)).drop first.val
  let done (u : State) (st : Nat) : Res := .next (u.setF FCX_LOAD.result st)
  if !b.2 then .next b.1
  else if decide (0x20 ≤ init) || b.1.loadRefused cs then done b.1 stRefusedState
  else if last < first then done b.1 stMalformed
  else
    match b.1.readImage a with
    | (s1, none) => done s1 stAccessViolation
    | (s1, some img) =>
      if !cs.all s1.storeAllowed then done s1 stAccessViolation
      else if !fcxImageOk img then done s1 stMalformed
      else .next ((cs.foldl (fun t c => t.startLoad c (.addr a) img) s1).setF FCX_LOAD.busy 1).settleCores

/-- RESET_CORE (R419, R420): one core is reloaded from its recorded image. The result after a reload that fails is stated
nowhere and is free. -/
def execResetCore (init : Nat) (core : Fin 128) (s : State) : Res :=
  let b := s.loadTake init 2 core (s.getF FCX_LOAD.last) (s.getF FCX_LOAD.addr * 64)
  if !b.2 then .next b.1
  else if b.1.loadRefused [core.val] then .next (b.1.setF FCX_LOAD.result stRefusedState)
  else if (b.1.core core).img = .none then .next (b.1.setF FCX_LOAD.result stMalformed)
  else
    let s1 := b.1.reloadCore core
    if s1.fcx.loading.contains core.val then .next (s1.setF FCX_LOAD.busy 1).settleCores
    else .next ((s1.draw 8).2.setF FCX_LOAD.result (s1.draw 8).1).settleCores

/-- CORE_LOAD_GROUP_DONE (R418, R394): the cores of a group that load are released into start-up; with the last of them the
command of FCX_LOAD completes. -/
def execCoreLoadGroupDone (group : Fin 16) (s : State) : Res :=
  let cs := s.fcx.loading.filter fun c => c / 8 == group.val
  if cs.isEmpty then .next s
  else
    let s1 := cs.foldl (fun t c => t.setCore c { t.core c with st := .startup, released := t.now }) s
    let rest := s1.fcx.loading.filter fun c => c / 8 != group.val
    let s2 := { s1 with fcx := { s1.fcx with loading := rest } }
    let s3 := if rest.isEmpty && s2.flag FCX_LOAD.busy then (s2.setF FCX_LOAD.busy 0).setF FCX_LOAD.result stOk else s2
    .next s3.settleCores

/-- STARTUP_TIMEOUT (R421): START_DONE has not come 10 ms after release. -/
def execStartupTimeout (core : Fin 128) (s : State) : Res :=
  if (s.core core).st = .startup then
    .next ((s.after ((s.core core).released + 10 * msT)).threadFaults core 0 9).settleCores
  else .next s

end Sys2Proof.Machine
end

