-- ==== Sys2Proof/Machine/Hardware.lean ====
section
/-! DEFINITION. Mains input, host power, thermal responses, the management port, SMBus and LEDs: the meanings of their commands
(spec/18, and R64 of spec/02). -/

namespace Sys2Proof.Machine

/-! ### Loss of AC (R64, R502–R505) -/

/-- A replaced hardware state. -/
def State.setHw (s : State) (h : HwSt) : State := { s with hw := h }

/-- HOST_AUX_EN takes a level. -/
def State.setAux (s : State) (on : Bool) : State :=
  if s.flag PWR_HOST_CTL.aux_en = on then s else (s.setF PWR_HOST_CTL.aux_en (b2n on)).emit (.pin .hostAuxEn on)

/-- The pin that an operation's pulse drives low. -/
def pulsePin (op : Nat) : Pin := if op = 4 then .hostRstN else .pwrBtnN

/-- The SoC loses its power: what a C reset takes is gone, and C stays asserted (R64, R505). -/
def State.railsDown (s : State) : State :=
  let s1 := s.socReset true
  { s1 with modes := { s1.modes with asserted := some ⟨.c, none, s1.now⟩ }, hw := { s1.hw with rails := false } }

/-- The SoC gets its power back, and C is released 100 µs later at the earliest, with a PWR_RESET_CAUSE bit where it has one. -/
def State.railsUp (s : State) (cause : Option Nat) : State :=
  let s1 := match cause with
    | some b => s.setReg .PWR_RESET_CAUSE (s.reg .PWR_RESET_CAUSE ||| BitVec.ofNat 64 (2 ^ b))
    | none => s
  { s1 with modes := { s1.modes with asserted := some ⟨.c, cause, s1.now⟩ }, hw := { s1.hw with rails := true } }

/-- A P reset: everything but fuses and MRAM (Table 2-4). -/
def State.powerReset (s : State) : State := (((s.socReset true).resetRegs .p).keepLive s).islandReset

/-- The result of an operation is posted, unless a reset has silenced it (R507). -/
def State.powerResult (s : State) (o : PowerOp) (status : Nat) : State :=
  let s1 := s.setHw { s.hw with op := none }
  if o.silent then s1 else (s1.setF PWR_HOST_CTL.result status).setF PWR_HOST_CTL.busy 0

/-- An ac_fail abandons the operation that runs: at once, or after its pulse (R507, R508). -/
def State.abandonPower (s : State) : State :=
  match s.hw.op with
  | none => s
  | some o =>
    if o.step = PowerStep.pulse then s.setHw { s.hw with op := some { o with squashed := true } } else s.powerResult o stSquashed

/-- AC_FAIL (R502, R508): ac_fail is raised, the host power state is recorded in MRAM and an operation abandoned; a further loss
counts its own times. -/
def execAcFail (s : State) : Res :=
  let s1 := (s.setF PWR_STATUS.ac_fail 1).setF PWR_STATUS.ac_good 0
  let on := s1.flag PWR_HOST_CTL.aux_en && s1.modes.pwrGood
  let s2 := { s1 with modes := { s1.modes with hostPowerRecord := on } }
  .next (s2.setHw { s2.hw with failAt := some s2.now }).abandonPower

/-- AC_FAIL_MRAM_WINDOW_END (R64): from 15 ms after ac_fail the MRAM writer takes only the repair log and the fault record. -/
def execAcFailMramWindowEnd (s : State) : Res :=
  match s.hw.failAt with
  | none => .next s
  | some t =>
    let s1 := s.after (t + 15 * msT)
    .next { s1 with modes := { s1.modes with mramClosed := true } }

/-- AC_RAILS_DOWN (R502, R507): still without AC 20 ms after ac_fail, the SoC loses its power, and the host power outputs go
as for a module without power. -/
def execAcRailsDown (s : State) : Res :=
  match s.hw.failAt with
  | none => .next s
  | some t =>
    if !s.hw.rails && s.hw.tripAt.isNone then .next s
    else
      let s1 := s.after (t + 20 * msT)
      let s2 := match s1.hw.op with
        | some o => if o.step = PowerStep.pulse then s1.emit (.pin (pulsePin o.op) true) else s1
        | none => s1
      let s3 := (s2.setAux false).railsDown
      .next (s3.setHw { s3.hw with op := none, tripAt := none })

/-- AC_FAIL_CLEAR (R502): the input has been in range for 1 s with the rails up. -/
def execAcFailClear (s : State) : Res :=
  match s.hw.failAt with
  | none => .next s
  | some t =>
    if !s.hw.rails && s.hw.tripAt.isNone then .next s
    else
      let s1 := s.after (t + secT)
      let s2 := ((s1.setF PWR_STATUS.ac_fail 0).setF PWR_STATUS.ac_good 1).setHw { s1.hw with failAt := none }
      .next { s2 with modes := { s2.modes with mramClosed := false } }

/-- AC_RETURN (R64, R503, R505): AC is back after the rails went down. With the island alive the SoC starts by a C reset with
ac_return and the reserve charges from what it holds, which is free; otherwise the island starts afresh and the reserve
from empty. The host power policy becomes due within 30 s (R506). -/
def execAcReturn (s : State) : Res :=
  if s.hw.rails || s.hw.tripAt.isSome then .next s
  else
    let s1 := (s.setF PWR_STATUS.ac_fail 0).setF PWR_STATUS.ac_good 1
    let s2 := { s1 with modes := { s1.modes with mramClosed := false } }.setHw
      { s1.hw with failAt := none, policy := some (s1.now + 30 * secT) }
    if s2.hw.island then
      let a := s2.draw 7
      let b := a.2.draw 1
      let s3 := (b.2.setF PWR_STATUS.reserve_pct (min a.1 100)).setF PWR_STATUS.reserve_full b.1
      .next (s3.railsUp (some 2))
    else
      let s3 := (s2.setF PWR_STATUS.reserve_pct 0).setF PWR_STATUS.reserve_full 0
      .next ((s3.setHw { s3.hw with island := true }).railsUp none)

/-- RESERVE_EXHAUSTED (R503): the reserve runs out before AC returns, which is a P reset. -/
def execReserveExhausted (s : State) : Res :=
  if s.hw.rails || s.hw.tripAt.isSome || !s.hw.island then .next s
  else
    let s1 := (s.powerReset.setF PWR_STATUS.reserve_pct 0).setF PWR_STATUS.reserve_full 0
    .next (s1.setHw { s1.hw with island := false })

/-- RESERVE_FULL (R503): the reserve holds 30 s at the present load of the island. -/
def execReserveFull (s : State) : Res :=
  if s.flag PWR_STATUS.ac_good then .next ((s.setF PWR_STATUS.reserve_full 1).setF PWR_STATUS.reserve_pct 100) else .next s

/-- REDFISH_RESET (Table 2-4): a reset asked for over Redfish, C for ForceRestart and W for GracefulRestart, is recorded as
mgmt_request. -/
def execRedfishReset (force : Bool) (s : State) : Res := .next (s.beginReset (if force then .c else .w) (some 5))

/-! ### Host power operations (R507–R509, Table 18-3) -/

/-- A pulse starts. -/
def State.startPulse (s : State) (o : PowerOp) (len : Nat) : State :=
  (s.setHw { s.hw with op := some { o with step := .pulse, ends := some (s.now + len) } }).emit (.pin (pulsePin o.op) false)

/-- The part of ON after auxiliary power has settled. -/
def State.pressOn (s : State) (o : PowerOp) : State :=
  if s.modes.pwrGood then s.powerResult o stOk else s.startPulse o (200 * msT)

/-- ON. -/
def State.powerOn (s : State) (o : PowerOp) : State :=
  if s.flag PWR_HOST_CTL.aux_en then s.pressOn o
  else
    let s1 := s.setAux true
    s1.setHw { s1.hw with op := some { o with step := .settle, ends := some (s1.now + 500 * msT) } }

/-- An operation starts; busy reads 1 until its result is posted. -/
def State.startPower (s : State) (op : Nat) : State :=
  let o : PowerOp := ⟨op, .settle, none, false, false⟩
  let s1 := (s.setF PWR_HOST_CTL.busy 1).setHw { s.hw with op := some o }
  if op = 1 then s1.powerOn o
  else if op = 2 then (if s1.modes.pwrGood then s1.startPulse o (200 * msT) else s1.powerResult o stOk)
  else if op = 3 ∨ op = 5 then s1.startPulse o (6 * secT)
  else if op = 4 then (if s1.modes.pwrGood then s1.startPulse o (100 * msT) else s1.powerResult o stRefusedState)
  else if op = 6 then (s1.setAux false).powerResult o stOk
  else s1.powerResult o stMalformed

/-- CYCLE goes on to its time without auxiliary power; FORCE_OFF ends. -/
def State.forcedOff (s : State) (o : PowerOp) : State :=
  if o.op = 5 then
    let s1 := s.setAux false
    s1.setHw { s1.hw with op := some { o with step := .auxOff, ends := some (s1.now + 5 * secT) } }
  else s.powerResult o stOk

/-- The end of a pulse. In CYCLE the first pulse is that of FORCE_OFF, told from ON's by auxiliary power. -/
def State.pulseOver (s : State) (o : PowerOp) : State :=
  let s1 := s.emit (.pin (pulsePin o.op) true)
  let wait (t : State) (high : Bool) (ends : Option Nat) : State :=
    t.setHw { t.hw with op := some { o with step := .level high, ends := ends } }
  if o.silent || o.squashed then s1.powerResult o stSquashed
  else if o.op = 4 then s1.powerResult o stOk
  else if o.op = 1 then wait s1 true (some (s1.now + 10 * secT))
  else if o.op = 2 then wait s1 false (some (s1.now + s1.getF PWR_HOST_CTL.off_timeout * secT))
  else if s1.modes.pwrGood then wait (s1.setAux false) false none
  else s1.forcedOff o

/-- The host power policy is applied: ON for on, or the recorded state where it was on; auxiliary power off otherwise (R65). -/
def State.applyPolicy (s : State) : State :=
  let p := s.getF MGT_START_CFG.host_power_policy
  let s1 := s.setHw { s.hw with policy := none }
  if p = 1 ∨ (p = 2 ∧ s1.modes.hostPowerRecord = true) then s1.startPower 1 else s1.setAux false

/-- A policy that fell due during an operation is applied when that has posted its result (R506). -/
def State.policyAfter (s : State) : State := if s.hw.op.isNone && s.hw.policy == some 0 then s.applyPolicy else s

/-- HOST_POWER_OP_END (R507, Table 18-3): the running operation's pulse or wait ends; its next step starts, or its result is
posted. -/
def execHostPowerOpEnd (s : State) : Res :=
  match s.hw.op with
  | none => .next s
  | some o =>
    let at_ := match o.ends with
      | some t => s.after t
      | none => s
    match o.step with
    | .pulse => .next (at_.pulseOver o).policyAfter
    | .settle => .next (at_.pressOn o).policyAfter
    | .auxOff => .next (at_.powerOn { o with op := 1 }).policyAfter
    | .level high =>
      if s.modes.pwrGood = high then
        .next (if o.op = 1 ∨ o.op = 2 then s.powerResult o stOk else s.forcedOff o).policyAfter
      else if o.ends.isSome then .next (at_.powerResult o stTimeout).policyAfter
      else .next s

/-- A write of PWR_HOST_CTL: its fields, and with go the operation unless one is busy. -/
def State.hostCtl (s : State) (init : Nat) (v : Nat) : State :=
  let a := s.blockAccess 23 .write init 0x10
  if !a.2 then a.1
  else
    let s1 := a.1.storeReg (fun _ => true) 23 0x10 .PWR_HOST_CTL 0 0 false false (BitVec.ofNat 64 v)
    if natBit v 31 && !s1.flag PWR_HOST_CTL.busy && s1.hw.op.isNone then s1.startPower (s1.getF PWR_HOST_CTL.op) else s1

/-- The value written with go set and an operation named. -/
def ctlWord (v : BitVec 32) (op : Nat) : Nat :=
  ((Word.setBits (BitVec.ofNat 64 v.toNat) 29 27 op).setBits 31 31 1).toNat

/-- HOST_ON (Table 18-3, op 1). -/
def execHostOn (init : Nat) (v : BitVec 32) (s : State) : Res := .next (s.hostCtl init (ctlWord v 1))

/-- HOST_OFF (Table 18-3, op 2). -/
def execHostOff (init : Nat) (v : BitVec 32) (s : State) : Res := .next (s.hostCtl init (ctlWord v 2))

/-- HOST_FORCE_OFF (Table 18-3, op 3). -/
def execHostForceOff (init : Nat) (v : BitVec 32) (s : State) : Res := .next (s.hostCtl init (ctlWord v 3))

/-- HOST_RESET (Table 18-3, op 4). -/
def execHostReset (init : Nat) (v : BitVec 32) (s : State) : Res := .next (s.hostCtl init (ctlWord v 4))

/-- HOST_CYCLE (Table 18-3, op 5). -/
def execHostCycle (init : Nat) (v : BitVec 32) (s : State) : Res := .next (s.hostCtl init (ctlWord v 5))

/-- HOST_AUX_OFF (Table 18-3, op 6). -/
def execHostAuxOff (init : Nat) (v : BitVec 32) (s : State) : Res := .next (s.hostCtl init (ctlWord v 6))

/-- HOST_WAKE (R509): a falling edge of HOST_WAKE_N sets wake, interrupts the application cores, and with wake_fwd runs ON unless an
operation is busy or the host is on. -/
def execHostWake (s : State) : Res :=
  let s1 := (s.setF PWR_HOST_CTL.wake 1).emit (.coreIrq 23)
  if s1.flag PWR_HOST_CTL.wake_fwd && s1.hw.op.isNone && !s1.modes.pwrGood then .next (s1.startPower 1) else .next s1

/-- HOST_POWER_POLICY_APPLY (R506): after a power-up that follows AC loss, at boot or 30 s after ac_good, or when the operation
that runs then posts its result. -/
def execHostPowerPolicyApply (s : State) : Res :=
  match s.hw.policy with
  | none => .next s
  | some t =>
    let s1 := if s.booted then s else s.after t
    if s1.hw.op.isSome then .next (s1.setHw { s1.hw with policy := some 0 }) else .next s1.applyPolicy

/-! ### Thermal responses (R516, Table 18-8) -/

/-- PWR_THERM shows the sensors. -/
def State.showThermal (s : State) (x : Thermal) : State :=
  let deg (z : Int) : Nat := ofSigned 8 z
  let s1 := ((s.setF PWR_THERM.tj (deg x.tj)).setF PWR_THERM.inlet (deg x.inlet)).setF PWR_THERM.psu (deg x.psu)
  (s1.setF PWR_THERM.optics (deg x.optics)).setF PWR_THERM.osc (deg (s.island.temp / 1000))

/-- THERMAL_ALARM (Table 18-8): a sensor reaches its alarm point. -/
def execThermalAlarm (x : Thermal) (s : State) : Res :=
  let s1 := s.showThermal x
  let hot := decide ((s1.getF PWR_THERM.tj_alarm : Int) ≤ x.tj) || decide (45 ≤ x.inlet) || decide (95 ≤ x.psu) || x.opticsAlarm
  if hot && !s1.flag PWR_THERM.alarm then .next ((s1.setF PWR_THERM.alarm 1).raise 41 (faultA 0x0100)) else .next s1

/-- THERMAL_ALARM_CLEAR (Table 18-8): every sensor has been 5 °C below its point for 10 s. -/
def execThermalAlarmClear (x : Thermal) (s : State) : Res :=
  let s1 := s.showThermal x
  let cool := decide (x.tj + 5 ≤ (s1.getF PWR_THERM.tj_alarm : Int)) && decide (x.inlet + 5 ≤ 45) && decide (x.psu + 5 ≤ 95)
    && !x.opticsAlarm
  .next (if cool then s1.setF PWR_THERM.alarm 0 else s1)

/-- THERMAL_CRITICAL (Table 18-8): Tj reaches 110 °C. -/
def execThermalCritical (x : Thermal) (s : State) : Res :=
  let s1 := s.showThermal x
  .next (if 110 ≤ x.tj then s1.raise 41 (faultM 0x0025) else s1)

/-- THERMAL_TRIP (Table 18-8): Tj or the PSU reaches its trip point, and the SoC loses its power. -/
def execThermalTrip (x : Thermal) (s : State) : Res :=
  let s1 := s.showThermal x
  if (120 ≤ x.tj ∨ 110 ≤ x.psu) ∧ s1.hw.rails = true then
    let s2 := s1.railsDown
    .next (s2.setHw { s2.hw with tripAt := some s2.now })
  else .next s1

/-- THERMAL_RESTART (Table 18-8): Tj is at most 80 °C and 60 s have passed since the trip: a C reset recorded as an L4 fault of the
thermal source. -/
def execThermalRestart (x : Thermal) (s : State) : Res :=
  let s1 := s.showThermal x
  match s1.hw.tripAt with
  | none => .next s1
  | some t =>
    if 80 < x.tj then .next s1
    else
      let s2 := s1.after (t + 60 * secT)
      .next (((s2.setHw { s2.hw with tripAt := none }).setF PWR_RESET_CAUSE.l4_source 41).railsUp (some 6))

/-- PSU_FAULT (R516): a PSU output out of regulation or a failed controller check. -/
def execPsuFault (s : State) : Res := .next ((s.setF PWR_STATUS.psu_fault 1).raise 40 (faultM 0x0025))

/-! ### The management port (R513–R515) -/

/-- The management frame memory (Table 18-11). -/
def mgtMem : Nat := 0x08000000

/-- MGT_ETH_CNT. -/
def State.mgtCount (s : State) (k : Nat) (n : Nat := 1) : State := s.bump MGT_ETH_CNT.count k 0 n

/-- Does the port take a frame by its size and address (R513)? -/
def State.mgtWants (s : State) (f : List Byte) : Bool :=
  let da := beNat (f.take 6)
  decide (64 ≤ f.length ∧ f.length ≤ 1522)
    && (s.flag MGT_ETH_CFG.promisc || da == s.getF MGT_ETH_MAC.mac || da == 2 ^ 48 - 1
      || (s.flag MGT_ETH_CFG.mcast_all && natBit da 40))

/-- A descriptor (Table 18-12). -/
def mgtDesc (len status : Nat) : List Byte := leBytes 2 len ++ leBytes 1 status ++ zeroBytes 13

/-- The port meets a corrected or an uncorrectable word of its frame memory (R514). -/
def State.mgtWord (s : State) (word : Fin 3) : State :=
  if word = 1 then s.raiseAs 46 (correctedAt ⟨0, 0, 0⟩) else if word = 2 then s.raise 46 (faultA 0x0100) else s

/-- MGMT_FRAME_RECEIVE (R513–R515): a frame with its FCS is counted out, or goes to the next receive buffer. `word` says whether a
word of that buffer was found corrected (1) or uncorrectable (2), which drops the frame. -/
def execMgmtFrameReceive (frame : List Byte) (word : Fin 3) (s : State) : Res :=
  if !s.flag MGT_ETH_STATUS.link_up || s.modes.asserted.isSome then .next s
  else if !fcsGood frame then .next (s.mgtCount 4)
  else if !s.mgtWants frame then .next (s.mgtCount 5)
  else
    let prod := s.getF MGT_ETH_RX.prod
    if 64 ≤ (prod + 65536 - s.getF MGT_ETH_RX.cons) % 65536 then .next (s.mgtCount 6)
    else if word = 2 then .next (s.mgtWord word)
    else
      let s := s.mgtWord word
      let k := prod % 64
      let s1 := (s.setBytes (mgtMem + 2048 * k) (frame.take (frame.length - 4))).setBytes (mgtMem + 0x28000 + 16 * k)
        (mgtDesc (frame.length - 4) stOk)
      let s2 := ((s1.setF MGT_ETH_RX.prod (prod + 1)).mgtCount 0).mgtCount 1 frame.length
      .next (if s2.flag MGT_ETH_CFG.rx_irq then s2.emit (.coreIrq 24) else s2)

/-- One transmit entry is sent or skipped (R515); where a word of it is uncorrectable, its frame ends with an invalid FCS (R514). -/
def State.mgtSendOne (s : State) (word : Fin 3) : State :=
  let cons := s.getF MGT_ETH_TX.cons
  let k := cons % 16
  let desc := mgtMem + 0x28400 + 16 * k
  let len := leNat (s.bytes desc 2)
  let st := if len = 0 then stLenZero else if 1518 < len then stMalformed else stOk
  let s1 := (s.setByte (desc + 2) (BitVec.ofNat 8 st)).setF MGT_ETH_TX.cons (cons + 1)
  let body := s.bytes (mgtMem + 0x20000 + 2048 * k) len
  let padded := if len < 60 then fitBytes 60 body else body
  let out := padded ++ leBytes 4 (if word = 2 then 2 ^ 32 - 1 - fcsOf padded else fcsOf padded)
  let s2 := if st = stOk then (((s1.mgtWord word).emit (.mgmtFrame out)).mgtCount 2).mgtCount 3 out.length else s1.mgtCount 7
  if s2.flag MGT_ETH_CFG.tx_irq then s2.emit (.coreIrq 24) else s2

/-- The port sends the transmit entries up to prod in order; a prod more than 16 ahead stops it (R515). `word` is how a word of the
last of them was found. -/
def State.mgtSend (s : State) (word : Fin 3 := 0) : State :=
  let n := (s.getF MGT_ETH_TX.prod + 65536 - s.getF MGT_ETH_TX.cons) % 65536
  if 16 < n then s.setF MGT_ETH_STATUS.tx_overrun 1
  else
    let s1 := s.setF MGT_ETH_STATUS.tx_overrun 0
    if s1.flag MGT_ETH_STATUS.link_up then (List.range n).foldl (fun t i => t.mgtSendOne (if i + 1 = n then word else 0)) s1
    else s1

/-- MGMT_TRANSMIT (R515): a write of MGT_ETH_TX.prod. -/
def execMgmtTransmit (init : Nat) (prod : BitVec 16) (word : Fin 3) (s : State) : Res :=
  let a := s.blockAccess 24 .write init 0x420
  if a.2 then .next ((a.1.setF MGT_ETH_TX.prod prod.toNat).mgtSend word) else .next a.1

/-- MGMT_LINK_CHANGE (R513): the link comes up at 1000BASE-T, unless no_1000 stood at the negotiation, or 100BASE-TX, or goes down. -/
def execMgmtLinkChange (up gigabit : Bool) (s : State) : Res :=
  if s.modes.asserted.isSome then .next s
  else if up && s.flag MGT_ETH_CFG.enable then
    .next ((s.setF MGT_ETH_STATUS.link_up 1).setF MGT_ETH_STATUS.speed
      (b2n (gigabit && !s.flag MGT_ETH_CFG.no_1000))).mgtSend
  else .next ((s.setF MGT_ETH_STATUS.link_up 0).setF MGT_ETH_STATUS.speed 0)

/-- MGT_ETH_CFG.enable at 0 powers the PHY down. -/
def State.mgtEnabled (s : State) : State :=
  if s.flag MGT_ETH_CFG.enable then s else (s.setF MGT_ETH_STATUS.link_up 0).setF MGT_ETH_STATUS.speed 0

/-! ### SMBus (R510) -/

/-- SMBUS_TRANSACTION (R510, R483): at address 0x3A a write delivers an MCTP message to firmware, and a read returns the bytes that firmware
answers with. Without its control plane, in a reset or between an activation's commit and BOOT_CTL.done, the module does
not answer. -/
def execSmbusTransaction (addr : BitVec 7) (write : Bool) (bytes : List Byte) (s : State) : Res :=
  let paused := s.modes.asserted.isSome || s.controlPaused
  if addr ≠ 0x3A ∨ paused then .next s
  else if write then .next ((s.setHw { s.hw with mctp := s.hw.mctp ++ [bytes] }).emit (.coreIrq 24))
  else .next ((s.setHw { s.hw with mctp := s.hw.mctp.drop 1 }).emit (.smbus bytes))

/-! ### LEDs (R517, Table 18-9) -/

/-- What an LED shows. -/
inductive Led where
  | off | amber | amberBlink | amberFast | green | greenBlink
deriving DecidableEq, Repr

/-- The POWER LED. -/
def State.ledPower (s : State) : Led :=
  if !s.flag PWR_STATUS.ac_good && !s.hw.rails then .off
  else if !s.hw.rails then .amber
  else if s.mode = mDarkroom then .amberBlink
  else if !s.booted then .greenBlink
  else .green

/-- The TIME LED. -/
def State.ledTime (s : State) : Led :=
  if !s.hw.island || s.tstate == tsUnknown then .off
  else if (s.pubUnc 0).isNone then .amber
  else if s.tstate == tsFreerun || s.tstate == tsAcquiring then .amberBlink
  else if s.tstate == tsHoldover then .greenBlink
  else .green

/-- The FAULT LED. -/
def State.ledFault (s : State) : Led :=
  if s.flag RTH_STATUS.fatal then .amberFast
  else if !s.prf.standing3.isEmpty || !s.prf.standing4.isEmpty || decide (110 ≤ signedOf 8 (s.getF PWR_THERM.tj)) then .amber
  else if s.flag RTH_STATUS.degraded || s.flag PWR_THERM.alarm then .amberBlink
  else .off

end Sys2Proof.Machine
end

