-- ==== Sys2Proof/Machine/ConfigSpace.lean ====
section
/-! DEFINITION. What configuration space reads (R290–R294, R300, R307, R308): the fields that the spec states, at the offsets of
Table 10-2. The spec gives no layout inside a capability: PRESUMED those of the PCI Express Base Specification, with the
capability identifiers. Every other bit is free. -/

namespace Sys2Proof.Machine

/-- A stated field: the offset of its 32-bit word, its high and low bit, its value. -/
abbrev CfgField := Nat × Nat × Nat × Nat

/-- The device identifiers of Table 10-1 for a PF and for its VFs. -/
def Personality.device : Personality → Nat × Nat
  | .native => (0x8640, 0x8641)
  | .nvme => (0x8642, 0x8643)
  | .mgmtOnly => (0x8644, 0)
  | .virtioNet => (0x1041, 0)
  | .recovery => (0x864F, 0)

/-- The class codes of Table 10-1. -/
def Personality.classCode : Personality → Nat
  | .native => 0x028000
  | .nvme => 0x010802
  | .mgmtOnly | .recovery => 0x088000
  | .virtioNet => 0x020000

/-- The capabilities below 0x100 that a function has, by offset and identifier (Table 10-2). -/
def cfgCaps (pf : Bool) (x : FnSt) : List (Nat × Nat) :=
  (if pf then [(0x40, 0x01), (0x50, 0x05)] else []) ++ [(0x70, 0x10), (0xB0, 0x11)]
    ++ (if x.personality = .virtioNet then [(0xC0, 0x09)] else [])

/-- The extended capabilities that a function has (Table 10-2). -/
def cfgExtCaps (pf fn0 : Bool) (x : FnSt) : List (Nat × Nat) :=
  [(0x100, 0x01)] ++ (if fn0 then [(0x148, 0x03)] else []) ++ [(0x158, 0x0E)]
    ++ (if pf && decide (0 < x.totalVfs) then [(0x168, 0x10)] else []) ++ (if pf then [(0x1A8, 0x1B)] else [])
    ++ (if fn0 then [(0x1B0, 0x1F), (0x1C0, 0x1E), (0x1D0, 0x18), (0x1E0, 0x19), (0x200, 0x25), (0x210, 0x26), (0x240, 0x2A),
        (0x270, 0x31), (0x290, 0x27), (0x2E0, 0x2E)] else [])

/-- The headers of a list of capabilities: identifier, and the next one's offset from bit `lo` on. The five chained virtio
structures end the list, and where they stand inside 0x0C0–0x0F8 is free. -/
def cfgChain (idHi nextHi nextLo : Nat) : List (Nat × Nat) → List CfgField
  | [] => []
  | (o, i) :: t =>
    let next := match t with | (o', _) :: _ => o' | [] => 0
    (o, idHi, 0, i) :: (if i = 0x09 then [] else [(o, nextHi, nextLo, next)]) ++ cfgChain idHi nextHi nextLo t

/-- The header of configuration space (Table 10-1, R290). -/
def State.cfgHeader (s : State) (pf : Bool) (x : FnSt) : List CfgField :=
  let p := x.personality
  let virtio := p == .virtioNet
  [ (0x00, 15, 0, if virtio then 0x1AF4 else 0x1D9C), (0x00, 31, 16, if pf then p.device.1 else p.device.2),
    (0x04, 1, 1, b2n x.memorySpace), (0x04, 2, 2, b2n x.busMaster), (0x04, 20, 20, 1),
    (0x08, 7, 0, s.getF MGT_MODULE_ID.stepping), (0x08, 31, 8, p.classCode),
    (0x2C, 15, 0, 0x1D9C), (0x2C, 31, 16, if virtio then 0x8640 else s.getF MGT_MODULE_ID.grade),
    (0x34, 7, 0, if pf then 0x40 else 0x70), (0x3C, 15, 8, 0) ]

/-- Power Management and MSI of a PF, PCI Express and MSI-X (R293, R294, R297, R300, R302, R307, Table 10-4). -/
def State.cfgBasic (s : State) (fn : Nat) (pf fn0 : Bool) (x : FnSt) : List CfgField :=
  let e := s.ep (s.fnEndpoint fn)
  (if pf then
    [ (0x40, 27, 27, 1), (0x40, 28, 28, 0), (0x40, 29, 29, 0), (0x40, 30, 30, 1), (0x44, 1, 0, if x.d3 then 3 else 0),
      (0x44, 3, 3, 1), (0x50, 16, 16, b2n x.msiEnable), (0x50, 19, 17, 5), (0x50, 22, 20, Nat.log2 x.msiCount), (0x50, 23, 23, 1),
      (0x50, 24, 24, 1), (0x60, 31, 0, x.msiMask) ] else [])
  ++ [ (0x74, 2, 0, 2), (0x74, 28, 28, 1), (0x94, 3, 0, 15), (0x94, 4, 4, 0), (0x98, 3, 0, x.cplTimeout) ]
  ++ (if fn0 then [ (0x80, 1, 1, b2n e.l1Enable), (0x98, 10, 10, b2n e.ltrEnable) ] else [])
  ++ [ (0xB0, 26, 16, x.msixEntries - 1), (0xB0, 30, 30, b2n x.msixMask), (0xB0, 31, 31, b2n x.msixEnable), (0xB4, 31, 0, 4),
       (0xB8, 31, 0, 0x8004) ]

/-- The extended capabilities (R292–R294, R299, R308, R528). -/
def State.cfgExt (s : State) (fn : Nat) (pf fn0 : Bool) (x : FnSt) : List CfgField :=
  let e := s.ep (s.fnEndpoint fn)
  let ks := (s.epPfs (s.fnEndpoint fn)).filter fun k => (s.fn? (fn / 0x400 * 0x400 + k)).isSome
  let before := ks.takeWhile fun k => k != fnPf fn
  let sum := (before.map fun k => ((s.fn? (fn / 0x400 * 0x400 + k)).map FnSt.totalVfs).getD 0).sum
  [ (0x104, 31, 0, x.aerUncor), (0x108, 31, 0, x.aerUncorMask), (0x10C, 31, 0, x.aerSeverity), (0x110, 31, 0, x.aerCor),
    (0x114, 31, 0, x.aerCorMask) ]
  ++ (if fn0 then [ (0x14C, 31, 0, s.getF MGT_SERIAL.serial % 2 ^ 32), (0x150, 31, 0, s.getF MGT_SERIAL.serial / 2 ^ 32) ] else [])
  ++ (if pf && decide (0 < x.totalVfs) then
    [ (0x170, 0, 0, b2n x.vfEnable), (0x174, 31, 16, x.totalVfs), (0x178, 15, 0, x.numVfs),
      (0x17C, 15, 0, ks.length - before.length + sum), (0x17C, 31, 16, 1), (0x180, 31, 16, x.vfPersonality.device.2) ] else [])
  ++ (if pf then [ (0x1AC, 2, 1, 0), (0x1AC, 12, 8, 20), (0x1AC, 16, 16, b2n x.pasidEnable) ] else [])
  ++ (if fn0 then
    [ (0x1B4, 2, 0, 1), (0x1B8, 0, 0, b2n (Tab.getD ⟨false, [], 0, 0, false⟩ s.ptm (fnLink fn)).enabled), (0x1C4, 4, 0, 31),
      (0x1C4, 15, 8, 10), (0x1C4, 17, 16, 1), (0x1C4, 23, 19, 4), (0x1C8, 2, 2, b2n e.l12), (0x1C8, 3, 3, b2n e.l11) ] else [])

/-- A 32-bit word of a function's configuration space. -/
def State.configWord (s : State) (fn : Nat) (x : FnSt) (dword : Nat) : Nat × State :=
  let pf := !fnIsVf fn
  let fn0 := pf && s.isFn0 (fnLink fn) (fnPf fn)
  let fields := s.cfgHeader pf x ++ s.cfgBasic fn pf fn0 x ++ s.cfgExt fn pf fn0 x
    ++ cfgChain 7 15 8 (cfgCaps pf x) ++ cfgChain 15 31 20 (cfgExtCaps pf fn0 x)
  let d := s.draw 32
  (fields.foldl (fun v (f : CfgField) => if f.1 = 4 * dword then nset v f.2.1 f.2.2.1 f.2.2.2 else v) d.1, d.2)

end Sys2Proof.Machine
end

