-- ==== Sys2Proof/Machine/Hif.lean ====
section
/-! DEFINITION. The PCIe endpoints: the meanings of their commands (spec/10), but for MMIO requests and failed reads, which meet
every block and stand in files of their own. -/

namespace Sys2Proof.Machine

/-! ### Link resets (R289, R304, R305) -/

/-- PERST_ASSERT (R289): PERST# of link 0 or 1 goes low, or HOST_PERST_N of both (`links` 2). -/
def execPerstAssert (links : Fin 3) (s : State) : Res :=
  if links = 2 then .next ((s.enterLinkReset 0).enterLinkReset 1) else .next (s.enterLinkReset links.val)

/-- HOT_RESET (R289): a hot reset, or the loss of DL_Up, at one endpoint. -/
def execHotReset (e : Fin 4) (s : State) : Res :=
  if s.flag HIF_LINK_STATUS.dl_up e.val then .next (s.enterHReset e.val) else .next s

/-- May an endpoint train: the controllers are up, the links are not held down by STANDBY, and link 1 not in Detect beside a
recovery window (R305, R306)? -/
def State.mayTrain (s : State) (e : Nat) : Bool :=
  s.modes.asserted.isNone && s.modes.phase != .selfTest && s.mode != mStandby
    && (!(s.modes.hostPush || s.mode == mDarkroom) || decide (e = 0))

/-- LINK_TRAINED (R287, R288, R291, R304): PERST# is high and the LTSSM reaches L0 at a speed and width common to both ends. The
H reset ends: the link takes bifurcation anew once neither half is up, and the endpoint its identity and functions. -/
def execLinkTrained (e : Fin 4) (speed : Fin 7) (width : Fin 17) (flit drs : Bool) (s : State) : Res :=
  let l := e.val / 2
  let up := (linkEndpoints l).any fun x => s.flag HIF_LINK_STATUS.dl_up x
  let halves := if up then s.bifurcated l else s.flag HIF_LINK_CFG.bifurcate l
  if !s.mayTrain e.val || s.flag HIF_LINK_STATUS.dl_up e.val || (e.val % 2 == 1 && !halves) || speed.val == 0 || width.val == 0
  then .next s
  else
    let cap := s.getF HIF_LINK_CFG.max_speed l
    let sp := min speed.val (if cap = 0 ∨ cap = 7 then 6 else cap)
    let w := min width.val (if halves then 8 else 16)
    let s1 := if up then s
      else (s.setEp (2 * l) { s.ep (2 * l) with present := true }).setEp (2 * l + 1) { s.ep (2 * l + 1) with present := halves }
    let s2 := s1.takeIdentity e.val
    let s3 := s2.setEp e.val { s2.ep e.val with trainedWidth := w, drs := drs, idleSince := s2.now, l0pEnd := s2.now }
    let s4 := (((s3.setF HIF_LINK_STATUS.dl_up 1 e.val).setF HIF_LINK_STATUS.speed sp e.val).setF HIF_LINK_STATUS.width w
      e.val).setF HIF_LINK_STATUS.flit (b2n (flit || sp == 6)) e.val
    let s5 := ((s4.setF HIF_LINK_STATUS.pm 0 e.val).setF HIF_LINK_STATUS.h_reset 0 e.val).setF HIF_LINK_STATUS.retry
      (b2n (!s.booted && !(s.modes.hostPush || s.mode == mDarkroom))) e.val
    .next ((s5.finishAbsorbed (s5.epFns e.val)).assignCtrls l)

/-- FLR (R302, R303): a function, and with a PF its VFs, are silenced and reset, and VF Enable is cleared. -/
def execFlr (fn : Nat) (s : State) : Res :=
  match s.fn? fn with
  | none => .next s
  | some _ =>
    let e := s.fnEndpoint fn
    if s.flag HIF_LINK_STATUS.h_reset e || s.flag HIF_LINK_STATUS.retry e then .next s
    else
      let vfs := if fnIsVf fn then [] else s.vfsOf fn
      let fs := fn :: vfs
      let s1 := ((s.touchFn fn).fnReset .f fs).finishAbsorbed fs
      .next ((s1.dropFns vfs).bump HIF_CNT.count (fnLink fn) 10)

/-! ### Errors (R299–R301) -/

/-- TRANSLATION_MISMATCH (R301): the two computations of a request's PASID, function and address differ at issue: the request is held
for good and the link's pin driven. -/
def execTranslationMismatch (fn : Nat) (s : State) : Res :=
  match s.fn? fn with
  | none => .next s
  | some _ =>
    let e := s.fnEndpoint fn
    let s1 := s.setEp e { s.ep e with heldRequests := (s.ep e).heldRequests + 1 }
    let s2 := (s1.bump HIF_CNT.count (fnLink fn) 14).raise (5 + fnLink fn) (faultM 0x0020)
    .next (s2.aerEndpoint e aerInternal true [])

/-- RECEIVED_TLP_ERROR (R294, R299, R300, Table 10-6): an error of the link or of a received TLP at an endpoint, in the function that a
function-specific one names, with the header of its TLP. -/
def execReceivedTlpError (e : Fin 4) (err : TlpError) (fn : Nat) (hdr : List Nat) (s : State) : Res :=
  let l := e.val / 2
  if !s.flag HIF_LINK_STATUS.dl_up e.val then .next s
  else
    let cor (bit : Nat) : State := (s.aerEndpoint e.val bit false []).bump HIF_CNT.count l 8
    match err with
    | .receiverError => .next (cor 0)
    | .badTlp => .next (cor 6)
    | .badDllp => .next (cor 7)
    | .replayRollover => .next (cor 8)
    | .replayTimer => .next (cor 12)
    | .correctedInternal => .next ((s.aerEndpoint e.val 14 false []).raise (5 + l) (correctedAt ⟨0, 0, 0⟩))
    | .uncorrectedInternal => .next ((s.aerEndpoint e.val aerInternal true []).raise (5 + l) (faultM 0x0020))
    | .dlProtocol => .next (s.aerEndpoint e.val 4 true hdr)
    | .fcProtocol => .next (s.aerEndpoint e.val 13 true hdr)
    | .receiverOverflow => .next (s.aerEndpoint e.val 17 true hdr)
    | .malformedTlp => .next (s.aerEndpoint e.val 18 true hdr)
    | .poisoned => .next ((s.aerUncorrectable fn aerPoisoned false hdr).bump HIF_CNT.count l 6)
    | .ecrc => .next ((s.aerUncorrectable fn aerEcrc false hdr).bump HIF_CNT.count l 7)
    | .unexpectedCompletion => .next (s.aerUncorrectable fn 16 false hdr)
    | .atomicOp => .next (s.aerUncorrectable fn aerUnsupported true hdr)

/-! ### Interrupts and configuration (R297, R307–R310) -/

/-- INTERRUPT_UNMASK (R297, R298): a pending vector of a function, or a pending entry of a slice's store, can be sent again and goes
out. -/
def execInterruptUnmask (fn vec : Nat) (slice : Option Nat) (s : State) : Res :=
  match slice with
  | some g =>
    match s.slice? g with
    | none => .next s
    | some x =>
      if x.storePending.contains vec && !(Tab.getD ⟨0, 0, true, false⟩ x.store vec).mask && !s.issueHeld x.fn (some g) then
        let m := Tab.getD ⟨0, 0, true, false⟩ x.store vec
        let s1 := s.setSlice g { x with storePending := x.storePending.filter (· != vec) }
        let c := s1.dmaCheck x.fn (some g) true m.addr 4
        .next (if c.2 then (c.1.touchFn x.fn).emit (.storeMessage g vec m.addr m.data m.pasid) else c.1)
      else .next s
  | none =>
    match s.fn? fn with
    | none => .next s
    | some x =>
      if x.pendingVecs.contains vec && x.canSend vec && !s.issueHeld fn none then
        let s1 := (s.setFn fn { x with pendingVecs := x.pendingVecs.filter (· != vec) }).touchFn fn
        .next (s1.emit (.interrupt fn (if x.msixEnable then vec else vec % x.msiCount) x.msixEnable))
      else .next s

/-- CONFIGURATION_REQUEST (R290, R293, R302, R305, R307–R310): a configuration write that reaches its function changes what it names,
and a read returns what configuration space holds. While the endpoint answers with retry status nothing changes. PASID
Enable of a PF holds for its VFs. -/
def execConfigurationRequest (fn : Nat) (c : CfgChange) (s : State) : Res :=
  match s.fn? fn with
  | none => .next s
  | some x =>
    let e := s.fnEndpoint fn
    let l := fnLink fn
    let s := s.touchFn fn
    let pf := !fnIsVf fn
    let fn0 := pf && s.isFn0 l (fnPf fn)
    if s.flag HIF_LINK_STATUS.h_reset e then .next s
    else if s.flag HIF_LINK_STATUS.retry e then .next (s.emit (.cfgReply fn true 0))
    else
      match c with
      | .read dword => let r := s.configWord fn x dword; .next (r.2.emit (.cfgReply fn false r.1))
      | .memorySpace on => .next (s.setFn fn { x with memorySpace := on })
      | .dState d => .next (if pf then s.setFn fn { x with d3 := d } else s)
      | .busMaster on => .next (s.setFn fn { x with busMaster := on })
      | .pasidEnable on =>
        if pf then
          .next ((s.vfsOf fn).foldl (fun t f => match t.fn? f with
            | some y => t.setFn f { y with pasidEnable := on }
            | none => t) (s.setFn fn { x with pasidEnable := on }))
        else .next s
      | .vfEnable on n => .next (if pf && decide (0 < x.totalVfs) then s.setVfs fn x on n else s)
      | .msixControl en mask => .next (s.setFn fn { x with msixEnable := en, msixMask := mask })
      | .msiControl en n => .next (if pf then s.setFn fn { x with msiEnable := en, msiCount := clampNat 1 32 n } else s)
      | .msiMask m => .next (if pf then s.setFn fn { x with msiMask := m % 2 ^ 32 } else s)
      | .ltrEnable on =>
        if fn0 then
          let busy := s.unserved e
          let s1 := s.setEp e { s.ep e with ltrEnable := on, ltrBusy := busy }
          .next (if on then s1.emit (.linkMessage e 2 (if busy then 1 else s.getF HIF_PM_CFG.ltr_us l)) else s1)
        else .next s
      | .aspmL1 on l11 l12 => .next (if fn0 then s.setEp e { s.ep e with l1Enable := on, l11 := l11, l12 := l12 } else s)
      | .l0pEnable on => .next (if fn0 then s.setEp e { s.ep e with l0pEnable := on } else s)
      | .cplTimeout r => .next (s.setFn fn { x with cplTimeout := r % 16 })
      | .aerMask u c => .next (if pf then s.setFn fn { x with aerUncorMask := u % 2 ^ 32, aerCorMask := c % 2 ^ 32 } else s)
      | .aerSeverity v => .next (if pf then s.setFn fn { x with aerSeverity := v % 2 ^ 32 } else s)
      | .aerClear u c =>
        let y := { x with aerUncor := x.aerUncor &&& (u % 2 ^ 32 ^^^ (2 ^ 32 - 1)),
                          aerCor := x.aerCor &&& (c % 2 ^ 32 ^^^ (2 ^ 32 - 1)) }
        let s1 := s.setFn fn y
        .next (if y.aerUncor = 0 then { s1 with hif := { s1.hif with aerHeaderLog := Tab.del s1.hif.aerHeaderLog fn } }
          else s1)
      | .ptmEnable on =>
        if fn0 ∧ e % 2 = 0 then
          let p := { Tab.getD ⟨false, [], 0, 0, false⟩ s.ptm l with enabled := on }
          .next { s with ptm := Tab.setD ⟨false, [], 0, 0, false⟩ s.ptm l p }
        else .next s
      | .doe dw => .next (if fn0 then (s.setFn fn { x with doe := dw }).emit (.coreIrq 16) else s)

/-! ### Link power (R308, R309) -/

/-- L1_ENTRY (R308): an endpoint has been idle for l1_idle with ASPM L1 enabled and requests L1; it rests in L1.2 where the host
enabled that and the link goes so deep (`deep`). A registered time page, or unserved work, keeps it out. -/
def execL1Entry (e : Fin 4) (deep : Bool) (s : State) : Res :=
  let x := s.ep e.val
  let pageOn := s.pages.any fun p => s.fnEndpoint p.1 == e.val
  if !x.l1Enable || !s.flag HIF_LINK_STATUS.dl_up e.val || decide (2 ≤ s.getF HIF_LINK_STATUS.pm e.val) || pageOn
      || s.unserved e.val then .next s
  else
    let s1 := s.after (x.idleSince + s.getF HIF_PM_CFG.l1_idle (e.val / 2) * usT)
    .next ((s1.setF HIF_LINK_STATUS.pm (if deep && x.l12 then 3 else 2) e.val).bump HIF_CNT.count (e.val / 2) 12)

/-- L0P_WINDOW (R309): at the end of each l0p_window the larger utilisation of the two directions, in percent of the current width, decides
on half the width, the full trained width, or neither. -/
def execL0pWindow (e : Fin 4) (util : Fin 101) (s : State) : Res :=
  let x := s.ep e.val
  let l := e.val / 2
  if !x.l0pEnable || !s.flag HIF_LINK_STATUS.flit e.val || decide (x.trainedWidth < 8) || !s.flag HIF_LINK_STATUS.dl_up e.val
      || decide (2 ≤ s.getF HIF_LINK_STATUS.pm e.val) then .next s
  else
    let s1 := s.after x.l0pEnd
    let s2 := s1.setEp e.val { x with l0pEnd := s1.now + s.getF HIF_PM_CFG.l0p_window l * usT }
    let down := s.getF HIF_PM_CFG.l0p_down l
    let up := if s.getF HIF_PM_CFG.l0p_up l ≤ down then down + 1 else s.getF HIF_PM_CFG.l0p_up l
    let w := s.getF HIF_LINK_STATUS.width e.val
    let w' := if util.val < down ∧ 4 ≤ w then w / 2 else if up < util.val then x.trainedWidth else w
    if w' = w then .next s2
    else
      .next (((s2.setF HIF_LINK_STATUS.width w' e.val).setF HIF_LINK_STATUS.pm (if w' < x.trainedWidth then 1 else 0)
        e.val).bump HIF_CNT.count l 13)

end Sys2Proof.Machine
end

