-- ==== Sys2Proof/Machine/HostPackets.lean ====
section
/-! DEFINITION. The meanings of TX_ENTRY and HOST_RX_DELIVERY: packets from and to the host's rings (spec/11, R325–R327). -/

namespace Sys2Proof.Machine

/-- Is a TX entry's read held: as any request of its ring, but one fetched before its slice's reset sequence began still runs
(R350, Table 12-6)? -/
def State.txHeld (s : State) (r : Ring) : Bool :=
  match r.slice with
  | some g =>
    match s.slice? g with
    | some x => if x.seq.isSome ∧ s.prf.contained.contains g = false then s.issueHeld r.fn none else s.issueHeld r.fn (some g)
    | none => true
  | none => s.issueHeld r.fn none

/-- TX_ENTRY (R325): the frame of a fetched TX entry is read and injected into its link's pipeline; the entry completes now,
or at launch where it asks for a timestamp. `frame` is what the read returns. -/
def execTxEntry (num idx : Nat) (frame : List Byte) (s : State) : Res :=
  match s.ring? 0 num, s.fetchedEntry num idx with
  | some r, some e =>
    let irq := natBit (e.getD 1 0).toNat 0
    let waits := s.dp.pkts.any fun p => match p.2.tx with | some (n, i, _) => n == num && i == idx | none => false
    if r.kind ≠ 2 ∨ waits ∨ s.modes.dReset.isSome ∨ s.txHeld r then .next s
    else
      let n := leNat (sliceBytes e 16 2)
      let a := leNat (sliceBytes e 8 8)
      let fl := (e.getD 18 0).toNat
      let c := s.dmaCheck r.fn r.slice false a n
      if !c.2 then .next (c.1.completeEntry num idx irq stAccessViolation [])
      else
        let s1 := c.1.issueRead r.fn r.slice a n
        let body := fitBytes n (if r.fn < 0x800 then s1.bytes a n else frame)
        let l := fnLink r.fn
        let p := { Pkt.ofFrame (8 + l) (2 + l) (body ++ zeroBytes (60 - n)) with
          launch := if natBit fl 1 then some (leNat (sliceBytes e 20 8)) else none
          tx := if natBit fl 0 then some (num, idx, irq) else none }
        let k := s1.newPkt p
        let s2 := k.2.pushLst .inject (2 + l) k.1
        .next (if natBit fl 0 then s2 else s2.completeEntry num idx irq stOk [])
  | _, _ => .next s

/-- Why a packet for a receive queue finds no buffer: rx_cq_stalled or rx_no_buffer as DQM_CNT kinds (R327). -/
def State.rxRefused (s : State) (q : Nat) : Option Nat :=
  match s.ring? 0 q with
  | none => some 6
  | some r =>
    if r.kind ≠ 3 ∨ r.st ≠ .running ∨ r.rxBufs.isEmpty then some 6
    else match s.ring? 1 r.cq with
      | some c => if 16 ≤ c.stash.length then some 7 else none
      | none => some 6

/-- The body of a receive completion (R326). -/
def rxBody (p : Pkt) : List Byte :=
  leBytes 2 p.bytes.length ++ leBytes 1 p.src ++ leBytes 1 (p.cls % 16 + p.colour % 4 * 16)
    ++ leBytes 12 (tstamp96 p.stamp.1 p.stamp.2) ++ leBytes 8 p.cookie

/-- A packet is written to the oldest unused buffer of a receive queue and completed (R326). -/
def State.deliverRx (s : State) (q id : Nat) (p : Pkt) : State :=
  match s.ring? 0 q with
  | none => s
  | some r =>
    match r.rxBufs with
    | [] => s
    | (idx, a, len) :: rest =>
      let irq := match s.fetchedEntry q idx with
        | some e => natBit (e.getD 1 0).toNat 0
        | none => false
      let data := p.bytes.take len
      let s1 := (s.setRing 0 q { r with rxBufs := rest }).freePkt id
      let c := s1.dmaCheck r.fn r.slice true a data.length
      if !c.2 then c.1.completeEntry q idx irq stAccessViolation (rxBody p)
      else (c.1.issueWrite r.fn r.slice a data).completeEntry q idx irq
        (if p.trunc ∨ len < p.bytes.length then stTruncated else stOk) (rxBody p)

/-- HOST_RX_DELIVERY (R326, R327, R304, R55): the packet that a host link's hand-off holds first is written to its receive
queue, handed to the virtio-net device that PF0 of link 0 presents in STANDALONE, or dropped. -/
def execHostRxDelivery (link : Fin 2) (s : State) : Res :=
  let l := link.val
  match (s.pktsIn .toHost l).head? with
  | none => .next s
  | some (id, p) =>
    let q := p.act.dest % 2 ^ 16
    let s1 := s.popLst .toHost l id
    let f := ((s1.ring? 0 q).map Ring.fn).getD 0
    if s1.mode = mStandalone ∧ l = 0 then .next ((s1.emit (.virtioNet p.bytes)).freePkt id)
    else if 0x800 ≤ f ∧ s1.flag HIF_LINK_STATUS.h_reset (s1.fnEndpoint f) then
      .next ((s1.bump HIF_CNT.count (fnLink f) 9).freePkt id)
    else
      match s1.rxRefused q with
      | some k => .next ((s1.bump DQM_CNT.count f k).freePkt id)
      | none =>
        if s1.issueHeld f ((s1.ring? 0 q).bind Ring.slice) then .next s
        else .next (s1.deliverRx q id p)

end Sys2Proof.Machine
end

