-- ==== Sys2Proof/Machine/Update.lean ====
section
/-! DEFINITION. Updates, keys, the owner lock and activation: the meanings of their commands (spec/16, R464–R466, R475–R484). -/

namespace Sys2Proof.Machine

/-! ### Conditions (R477) -/

/-- The initiator as which UPD reads and writes module memory (R478, Table 12-9). -/
def updInit : Nat := 0x023

/-- Do the records of the live members of an active cascade disagree with this module's own values of version, configuration and
forme (R477 reason 4)? -/
def State.recordsDisagree (s : State) : Bool :=
  s.flag ODF_STATUS.active && (List.range 4).any fun m =>
    m != s.getF ODF_STATUS.own_id && natBit (s.getF ODF_STATUS.live) m && s.recDiffers (s.memberRec m) != 0

/-- The reason for which R477 refuses an operation; `prepare` says that the master asks. A forced operation needs an owner lock
that is open (R466). -/
def State.updReason (s : State) (op : Nat) (prepare : Bool) : Nat :=
  if 9 ≤ op then 0
  else if s.flag BOOT_PERSIST.owner_lock then 1
  else if !s.flag PWR_STATUS.ac_good || !s.flag PWR_STATUS.reserve_full then 2
  else if s.flag PWR_THERM.alarm then 3
  else if s.recordsDisagree then 4
  else if s.mode = mSafeHold ∨ s.mode = mDarkroom then 5
  else if op = 4 ∧ (s.mode = mStandby ∨ s.mode = mTest ∨ (s.mode = mMember ∧ prepare = false)) then 5
  else 0

/-- UPD_CMD as a write of it by an initiator stores it. -/
def State.updTaken (s : State) (init op : Nat) (v : Word) : State :=
  [UPD_CMD.force, UPD_CMD.downgrade, UPD_CMD.slot, UPD_CMD.addr].foldl (fun t x => t.setF x (v.bits x.hi x.lo))
    ((s.blockAccess 3 .write init 0).1.setF UPD_CMD.op op)

/-- A write of UPD_CMD by an initiator: its fields are stored, a go while busy is ignored, and an operation that R477 lets through
runs. DARKROOM has UPD idle (R484). -/
def State.updOp (s : State) (init op : Nat) (v : Word) (f : State → State) (prepare : Bool := false) : State :=
  let a := s.blockAccess 3 .write init 0
  if !a.2 then a.1
  else
    let s1 := s.updTaken init op v
    if s1.flag UPD_CMD.busy then s1
    else
      let r := s1.updReason op prepare
      if r ≠ 0 then s1.updEnd stRefusedState r else if s1.mode = mDarkroom then s1.updEnd stRefusedState 5 else f s1

/-- The inactive slot: 0 A, 1 B (R476). -/
def State.inactiveSlot (s : State) : Nat := s.getF UPD_STATUS.inactive

/-- UPD's held header and the phase that shows it. -/
def State.setSequence (s : State) (h : Option (List Byte)) : State :=
  { s with upd := { s.upd with header := h } }.setF UPD_STATUS.phase (if h.isSome then 1 else 0)

/-- UPD reads module memory at UPD_CMD.addr; `none` where an access table denies it or nothing is there. -/
def State.updRead (s : State) (n : Nat) : State × Option (List Byte) :=
  let a := s.getF UPD_CMD.addr * 64
  let c := s.memAccess .read updInit a n
  (c.1, if c.2 then some (s.bytes a n) else none)

/-! ### Writing (Table 16-9) -/

/-- UPD_OPEN (R476): erases the inactive slot's header and starts a write sequence. -/
def execUpdOpen (init : Nat) (v : Word) (s : State) : Res :=
  .next (s.updOp init 1 v fun t =>
    if t.upd.header.isSome then t.updEnd stRefusedState 6
    else ((t.eraseHeader t.inactiveSlot).setSequence (some (zeroBytes 512))).updEnd stOk 0)

/-- Bytes put into the open sequence's slot: those of the header are held back. -/
def State.updPut (s : State) (h : List Byte) (off : Nat) (b : List Byte) : State :=
  let inHead := if off < 512 then b.take (512 - off) else []
  let rest := b.drop inHead.length
  let h' := if inHead.isEmpty then h else h.take off ++ inHead ++ h.drop (off + inHead.length)
  (s.setBytes (slotBase s.inactiveSlot + off + inHead.length) rest).setSequence (some h')

/-- UPD_WRITE (R476): copies UPD_ARG.length bytes to slot offset UPD_ARG.offset. -/
def execUpdWrite (init : Nat) (v : Word) (s : State) : Res :=
  .next (s.updOp init 2 v fun t =>
    let n := t.getF UPD_ARG.length
    let o := t.getF UPD_ARG.offset
    if n = 0 ∨ slotSize < o + n then t.updEnd stMalformed 0
    else
      match t.upd.header with
      | none => t.updEnd stRefusedState 6
      | some h =>
        match t.updRead n with
        | (t1, some b) => (t1.updPut h o b).updEnd stOk 0
        | (t1, none) => t1.updEnd stMalformed 0)

/-- The held header's checks 1 to 5 and 7. -/
def State.heldReason (s : State) (h : List Byte) : Nat := headerCheck s.fuse (readerOf h) false false true

/-- UPD_CLOSE (R476): a header that passes is written, and the slot's tries count cleared. -/
def execUpdClose (init : Nat) (v : Word) (s : State) : Res :=
  .next (s.updOp init 3 v fun t =>
    match t.upd.header with
    | none => t.updEnd stRefusedState 6
    | some h =>
      let r := t.heldReason h
      if r ≠ 0 then (t.setF UPD_ARG.length (t.getF UPD_ARG.length / 16 * 16 + r)).updEnd stMalformed 0
      else
        let slot := t.inactiveSlot
        (((t.setBytes (slotBase slot) h).setF (triesField (slot + 1)) 0).setSequence none).updEnd stOk 0)

/-- PREFER (R476): the slot preferred at the next boot, unless the other slot is valid and of a higher version. -/
def execUpdPrefer (init : Nat) (v : Word) (s : State) : Res :=
  .next (s.updOp init 5 v fun t =>
    let slot := t.getF UPD_CMD.slot
    let other := 1 - slot
    if t.storeReason (other + 1) = 0 ∧ imageVersion (t.storeBytes (slot + 1)) < imageVersion (t.storeBytes (other + 1)) then
      t.updEnd stRefusedState 9
    else (t.setF BOOT_PERSIST.preferred slot).updEnd stOk 0)

/-- INVALIDATE (R476): ends an open sequence and erases the inactive slot's header. -/
def execUpdInvalidate (init : Nat) (v : Word) (s : State) : Res :=
  .next (s.updOp init 6 v fun t => ((t.eraseHeader t.inactiveSlot).setSequence none).updEnd stOk 0)

/-! ### Fuses (R464–R466) -/

/-- Would a slot be valid against checks 1 to 8 under these fuses? -/
def State.slotValidUnder (s : State) (fu : Fuse) : Bool :=
  imageValid fu (s.storeBytes 1) false || imageValid fu (s.storeBytes 2) false

/-- The guard, and the fuses blown (R466): a forced operation needs no valid slot. -/
def State.blow (s : State) (fu : Fuse) : State :=
  if s.slotValidUnder fu || s.flag UPD_CMD.force then { s with fuse := fu }.updEnd stOk 0 else s.updEnd stRefusedState 7

/-- REVOKE_KEY (R464, R466): key slot UPD_ARG.length[2:0]. -/
def execRevokeKey (init : Nat) (v : Word) (s : State) : Res :=
  .next (s.updOp init 7 v fun t =>
    t.blow { t.fuse with keyRevoked := natSetBit t.fuse.keyRevoked (t.getF UPD_ARG.length % 8) true })

/-- ADVANCE_SVN (R465, R466): the counter to UPD_ARG.length[5:0], never down. -/
def execAdvanceSvn (init : Nat) (v : Word) (s : State) : Res :=
  .next (s.updOp init 8 v fun t =>
    let n := t.getF UPD_ARG.length % 64
    if n < t.fuse.rollback then t.updEnd stMalformed 0 else t.blow { t.fuse with rollback := n })

/-! ### The owner (R475) -/

/-- ENROLL_OWNER (R475): the SHA-384 of a public key of 96 bytes. -/
def execEnrollOwner (init : Nat) (v : Word) (s : State) : Res :=
  .next (s.updOp init 9 v fun t =>
    if t.flag BOOT_PERSIST.owner_lock then t.updEnd stRefusedState 1
    else
      match t.updRead 96 with
      | (t1, some b) =>
        let t2 := { t1 with boot := { t1.boot with owner := beBytes 48 (sha384 b) } }
        (t2.setF BOOT_PERSIST.owner_enrolled 1).updEnd stOk 0
      | (t1, none) => t1.updEnd stMalformed 0)

/-- LOCK (R475). -/
def execOwnerLock (init : Nat) (v : Word) (s : State) : Res :=
  .next (s.updOp init 10 v fun t =>
    if !t.flag BOOT_PERSIST.owner_enrolled then t.updEnd stRefusedState 5
    else (t.setF BOOT_PERSIST.owner_lock 1).updEnd stOk 0)

/-- What an UNLOCK signature is over: SHA-384 of UPD_NONCE and the serial number, each as 8 bytes, most significant first. -/
def State.unlockDigest (s : State) : Nat := sha384 (beBytes 8 (s.reg .UPD_NONCE).toNat ++ beBytes 8 s.fuse.serial.toNat)

/-- A fresh UPD_NONCE. -/
def State.freshNonce (s : State) : State :=
  let d := s.draw 64
  d.2.setReg .UPD_NONCE (BitVec.ofNat 64 d.1)

/-- UNLOCK (R475): a signature of 96 bytes by the enrolled key; the nonce changes after every attempt. -/
def execOwnerUnlock (init : Nat) (v : Word) (s : State) : Res :=
  .next (s.updOp init 11 v fun t =>
    match t.updRead 96 with
    | (t1, some sig) =>
      let good := t1.flag BOOT_PERSIST.owner_enrolled
        && (ecdsaKeys t1.unlockDigest sig).any fun k => beBytes 48 (sha384 k) == t1.boot.owner
      let t2 := t1.freshNonce
      if good then (t2.setF BOOT_PERSIST.owner_lock 0).updEnd stOk 0 else t2.updEnd stRefusedState 12
    | (t1, none) => t1.freshNonce.updEnd stMalformed 0)

/-! ### Activation (R478–R483) -/

/-- The members of the cascade that are live, but for this module. -/
def State.liveOthers (s : State) : List Nat :=
  (List.range 4).filter fun m => natBit (s.getF ODF_STATUS.live) m && m != s.getF ODF_STATUS.own_id

/-- An order to every live member. -/
def State.orderMembers (s : State) (kind a b : Nat) : State :=
  s.liveOthers.foldl (fun t m => t.emit (.memberOrder m kind a b)) s

/-- A preparation that fails at its start: result, reason and what stands of the activation (R478). -/
def State.actRefused (s : State) (member : Bool) (reason : Nat) : State :=
  let s1 := if member then s else s.updEnd stRefusedState reason
  (s1.setF UPD_STATUS.last_result stRefusedState).setF UPD_STATUS.last_reason reason

/-- The preparation of an activation of the inactive slot (R478, R482), which leaves the second banks and the flow-core images loaded
and NVMe submissions held. A master whose image names no requirement for a live member has no image for it. -/
def State.prepareAct (s : State) (member : Bool) : State :=
  let slot := s.inactiveSlot
  let rd := s.storeBytes (slot + 1)
  let master := s.flag ODF_STATUS.master
  let down := decide (imageVersion rd < s.getF BOOT_VERSION.version)
  if !imageValid s.fuse rd false then s.actRefused member 8
  else if down && !s.flag UPD_CMD.downgrade then s.actRefused member 9
  else if master && s.liveOthers.any (fun m => !hasPart (imageParts rd) 5 m) then s.actRefused member 10
  else
    let imgs := s.fcx.cores.map fun p => (p.1, p.2.img)
    let a : ActSt := { member := member, slot := slot, since := s.now, oldPref := s.getF BOOT_PERSIST.preferred, oldImgs := imgs,
                       replaced := if down ∧ s.boot.running ≠ slot + 1 ∧ s.boot.running ≤ 2 then some (s.boot.running - 1)
                         else none,
                       commit := none, rolling := false }
    let s1 := if member then s else s.setF UPD_CMD.busy 1
    let s2 := { s1 with upd := { s1.upd with act := some a } }.setF UPD_STATUS.phase 3
    (if master then s2.orderMembers 2 0 0 else s2).nvePause

/-- ACTIVATE (R478, R482): the preparation of the inactive slot; `prepare` says that it comes as the master's prepare. -/
def execUpdActivate (init : Nat) (v : Word) (prepare : Bool) (s : State) : Res :=
  .next (s.updOp init 4 v (fun t => t.prepareAct prepare) prepare)

/-- The flow-core images that an activation gives: a core with an image at an address takes whichever program of the new manifest
the spec does not say, or keeps its own; one with the manifest's program takes the new manifest's. -/
def State.newCoreImages (s : State) (store : Nat) : State :=
  let ps := partsOf (imageParts (s.storeBytes store)) 2
  s.fcx.cores.foldl (fun t p =>
    match p.2.img with
    | .none => t
    | .manifest => t
    | _ =>
      let d := t.draw 5
      match ps[d.1]? with
      | some q => d.2.setCore p.1 { d.2.core p.1 with img := .image (d.2.storeBytes store q.off q.len) }
      | none => d.2) s

/-- Ports whose SerDes firmware changes re-adapt and are link-down meanwhile (R479 step 3). -/
def State.readapt (s : State) (old new : Nat) : State :=
  let dig (st : Nat) : List Nat := (partsOf (imageParts (s.storeBytes st)) 3).map ImagePart.digest
  if dig old = dig new then s
  else
    ((List.range 8).filter fun p => s.flag MAC_PORT_STATUS.link_up p).foldl (fun t p => (t.portToDown p).linkChanged p stOk) s

/-- The D reset of an activation: where one is asserted already, what it reloads is loaded again. -/
def State.actReset (s : State) : State := if s.modes.dReset.isSome then s.reloadCores else s.beginReset .d (some 9)

/-- The commit at instant C (Table 16-10): the new slot is preferred and runs, the Safelight and the application cores stop, the D
reset begins, and the contact sheet takes the new image. -/
def State.commitAct (s : State) (a : ActSt) : State :=
  let store := a.slot + 1
  let old := s.boot.running
  let s1 := { s with upd := { s.upd with act := some { a with commit := some s.now } },
                     boot := { s.boot with running := store } }
  let s2 := ((s1.setF BOOT_PERSIST.preferred a.slot).setF UPD_STATUS.phase 4).showSafelight
  let s3 := (((s2.newCoreImages store).readapt old store).actReset).setF BOOT_VERSION.version (imageVersion (s2.storeBytes store))
  let s4 := s3.measureImage store 2
  let s5 := if a.member || !s.flag ODF_STATUS.master then s4
    else ((partsOf (imageParts (s4.storeBytes store)) 5).filter fun p => s4.liveOthers.contains p.index).foldl (fun t p =>
      t.extend 8 4 5 p.index p.version 0 (beBytes 48 p.digest)) s4
  (s5.extendFree 10 2).bump UPD_STATUS.activations

/-- NVMe commands that R383 waits for: those in progress, but for event requests. -/
def State.nveBusy (s : State) : Bool :=
  s.nve.ctrls.any fun p => p.2.cmds.any fun m =>
    match m.st with
    | .event => false
    | .activating => false
    | .done _ => false
    | _ => true

/-- ACTIVATE_COMMIT (R478, R479, R482): with every module ready the commit follows, on a cascade's master 20 ms later by its own time;
NVMe commands in progress hold it for at most 2 s. A load or a member that failed ends the activation with nothing changed. -/
def execActivateCommit (outcome : ActPrepared) (s : State) : Res :=
  match s.upd.act with
  | none => .next s
  | some a =>
    if a.commit.isSome then .next s
    else
      let abort (reason : Nat) : State :=
        let t := if s.flag ODF_STATUS.master then s.orderMembers 4 0 0 else s
        t.abandonAct reason
      match outcome with
      | .failed => .next (abort 8)
      | .memberFailed => .next (abort 10)
      | .ready =>
        let s1 := if s.nveBusy then s.after (a.since + 2 * secT) else s
        if s1.flag ODF_STATUS.master then
          let c := s1.islandNs + 20000000
          .next (((s1.orderMembers 3 c 0).after (s1.now + 20 * msT)).commitAct a)
        else .next (s1.commitAct a)

/-- The roll-back (R481): the slot preferred before, the old banks and images, a second D reset, and the image that the ROM had
booted started again. -/
def State.rollBack (s : State) (a : ActSt) : State :=
  let store := s.getF BOOT_STATUS.store
  let s1 := if s.flag ODF_STATUS.master then s.orderMembers 4 1 0 else s
  let cores := Tab.mapVals s1.fcx.cores fun c (x : FCore) => { x with img := Tab.getD CoreImg.none a.oldImgs c }
  let s2 := { s1 with fcx := { s1.fcx with cores := cores },
                      boot := { s1.boot with running := store },
                      upd := { s1.upd with act := some { a with rolling := true, commit := some s1.now } } }
  let s3 := ((s2.setF BOOT_PERSIST.preferred a.oldPref).setF UPD_STATUS.phase 5).setF BOOT_STATUS.rollback 1
  ((s3.readapt (a.slot + 1) store).actReset.setF BOOT_VERSION.version s3.boot.version).deriveAlias.extendFree 10 3

/-- BOOT_FAIL (R481, R482): a write of BOOT_CTL with fail during an activation, or a cascade's own failure, rolls it back. -/
def execBootFail (by_ : FailBy) (s : State) : Res :=
  let c := match by_ with
    | .firmware init => s.blockAccess 2 .write init 0x20
    | .cascade => (s, true)
  if !c.2 then .next c.1
  else
    match c.1.upd.act with
    | some a => if a.commit.isSome && !a.rolling then .next (c.1.rollBack a) else .next c.1
    | none => .next c.1

/-- ACTIVATE_TIMEOUT (R481): BOOT_CTL.done has not come within 180 ms of C. -/
def execActivateTimeout (s : State) : Res :=
  match s.upd.act with
  | some a =>
    match a.commit with
    | some c => if a.rolling then .next s else .next ((s.after (c + 180 * msT)).rollBack a)
    | none => .next s
  | none => .next s

end Sys2Proof.Machine
end

