-- ==== Sys2Proof/Machine/NveFirmware.lean ====
section
/-! DEFINITION. The firmware commands of the NVMe functions: the meanings of Firmware Image Download and Firmware Commit (spec/13
R382, R383). -/

namespace Sys2Proof.Machine

/-- The granularity of a piece (FWUG, R382). -/
def fwGranule : Nat := 4096

/-- FIRMWARE_IMAGE_DOWNLOAD (R382): a piece of an image joins the staging area of 96 MiB. -/
def execFirmwareImageDownload (c : Fin 1024) (prps : List Nat) (data : List Byte) (s : State) : Res :=
  s.onCmd c.val 0 0x11 fun x m =>
    let n := 4 * (m.dw 10 % 2 ^ 32 + 1)
    let o := 4 * (m.dw 11 % 2 ^ 32)
    let stop (t : State) (st : Nat) := t.nvmeEnd c.val 0 m.cid st
    if !x.fwEn then stop s nvInvalidOpcode
    else if mib < n ∨ n % fwGranule ≠ 0 ∨ o % fwGranule ≠ 0 ∨ slotSize < o + n then stop s nvInvalidField
    else if x.pieces.any (fun p => decide (p.1 < o + n) && decide (o < p.1 + p.2.length)) then stop s nvOverlap
    else
      let g := s.cmdSegs x m n prps
      if g.2.1 ≠ nvOk then stop g.1 g.2.1
      else
        let r := g.1.hostReads x.fn g.2.2
        if !r.2 then stop r.1 nvTransferError
        else stop (r.1.setCtrl c.val { x with pieces := x.pieces ++ [(o, fitBytes n data)] }) nvOk

/-- The bytes of the staging area: what no piece covers reads 0. -/
def stagedImage (ps : List (Nat × List Byte)) : List Byte :=
  let n := (ps.map fun p => p.1 + p.2.length).foldl max 0
  ps.foldl (fun b p => patchBytes b p.1 p.2) (zeroBytes n)

/-- A staged image written to a slot as OPEN, WRITE and CLOSE would do it. -/
def State.stageToSlot (s : State) (slot : Nat) (img : List Byte) : State :=
  (s.setBytes (slotBase slot) img).setF (triesField (slot + 1)) 0

/-- FIRMWARE_COMMIT (R382, R383): actions 0 and 1 write the staged image, 2 prefers a slot, 3 writes it and issues ACTIVATE. While UPD
runs another operation it waits. -/
def execFirmwareCommit (c : Fin 1024) (s : State) : Res :=
  s.onCmd c.val 0 0x10 fun x m =>
    let fs := m.dw 10 % 8
    let action := m.dw 10 / 8 % 8
    let stop (t : State) (st : Nat) := t.nvmeEnd c.val 0 m.cid st
    let target := if fs = 0 then s.inactiveSlot + 2 else fs
    let slot := target - 2
    if !x.fwEn then stop s nvInvalidOpcode
    else if 3 < action then stop s nvInvalidField
    else if target < 2 ∨ 3 < target ∨ target = s.nvmeActiveSlot then stop s nvFwSlot
    else if s.flag UPD_CMD.busy then s
    else if action = 2 then
      let other := 1 - slot
      if s.updReason 5 false ≠ 0 then stop s nvFwProhibited
      else if s.storeReason (other + 1) = 0
          ∧ imageVersion (s.storeBytes (slot + 1)) < imageVersion (s.storeBytes (other + 1)) then stop s nvFwProhibited
      else stop (s.setF BOOT_PERSIST.preferred slot) nvFwReset
    else
      let img := stagedImage x.pieces
      if slot ≠ s.inactiveSlot then stop s nvFwSlot
      else if s.heldReason img ≠ 0 then stop s nvFwImage
      else if s.updReason 1 false ≠ 0 ∨ s.upd.header.isSome then stop s nvFwProhibited
      else
        let s1 := (s.setCtrl c.val { x with pieces := [] }).stageToSlot slot img
        if action = 0 then stop s1 nvOk
        else if action = 1 then stop s1 nvFwReset
        else if s1.updReason 4 false ≠ 0 then stop s1 nvFwProhibited
        else
          let s2 := ((s1.setCmd c.val 0 m.cid .activating).setF UPD_CMD.downgrade 0).prepareAct false
          if s2.upd.act.isNone then stop s2 nvFwProhibited else s2

end Sys2Proof.Machine
end

