-- ==== Sys2Proof/Machine/Pipeline.lean ====
section
/-! DEFINITION. Frames into the ingress pipelines and through them: reception, the forme stamp, parsing, lookups, action
resolution, metering, and the flow-table result (spec/04, spec/05, R198–R202). -/

namespace Sys2Proof.Machine

/-! ### Reception (R198–R202) -/

/-- The pipeline that a port's frames enter (R192); pipeline 0 alone runs in STANDBY (Table 2-3). -/
def State.portPipe (s : State) (port : Nat) : Nat := if s.mode = mStandby then 0 else port % 2

/-- Is a frame a MAC control frame (R193)? -/
def macControl (bytes : List Byte) : Bool := beNat (sliceBytes bytes 12 2) == 0x8808

/-- How a frame ended, once its last byte is in: its FCS, and for a frame handed over early, its length against the claimed
end of its parse (R199, R200). A truncated frame keeps what was compared already. -/
def endStatus (good : Bool) (kept claimed : Nat) (early trunc : Bool) : EndSt :=
  if !good then .badFcs else if early && !trunc && decide (kept < claimed) then .late else .good

/-- A frame whose start crosses the PCS now is handed to its pipeline, with its receive timestamp, and stands there once its header
window has come (R26, R86, R198). `all` is what the MAC sees of it first, `last` that it is all of it. -/
def State.handOver (s : State) (port : Nat) (all : List Byte) (last err : Bool) : State :=
  let m := s.getF MAC_PORT_CFG.max_len port
  let st := s.portStamp port (s.getF TSV_PORT_CAL.rx_offset (s.calIndex port))
  let rdy := st.2.2.rxReady port all.length s.now
  let s1 := rdy.2
  let cut := decide (m < all.length)
  let good := !err && fcsGood all
  let keep := (if last ∧ all.length ≤ m then all.length else m) - 4
  let base := Pkt.ofFrame port (s.portPipe port) (all.take keep)
  let p : Pkt := { base with
    flen := keep + 4, flim := keep, port := port, stamp := (st.1, st.2.1), early := !last, due := rdy.1
    trunc := cut && (!last || good)
    ended := if last then endStatus good keep 0 false cut else .arriving }
  let n := s1.newPkt p
  let s2 := ((n.2.pushLst .arrival p.pipe n.1).macCount port 0).macCount port 1 all.length
  let s3 := if last ∧ cut ∧ good then s2.macCount port 4 else s2
  if last then s3 else s3.setPort port { s3.port port with rx := some n.1, rxMax := m, rxBytes := all }

/-- FRAME_RECEIVE (R198, R201, R202): at instant `t` the start of a frame crosses the PCS of a port; it is given as far as its
header window (`last` false) or whole; `err` says that it met a PCS error or an uncorrectable codeword before its handover. -/
def execFrameReceive (port : Fin 8) (t : Nat) (bytes : List Byte) (last err : Bool) (s : State) : Res :=
  let p := port.val
  let s := s.after t
  let m := s.getF MAC_PORT_CFG.max_len p
  if !s.flag MAC_PORT_STATUS.link_up p || (s.port p).rx.isSome || s.mode == mDarkroom
      || (!last && decide (bytes.length < 512) && decide (bytes.length ≤ m))
      || (last && decide (512 < bytes.length) && decide (512 ≤ m)) then .next s
  else if !s.flag MAC_PORT_CFG.enable p || s.modes.dReset.isSome || s.heldOut
      || (s.mode == mStandby && p != s.getF MGT_START_CFG.standby_port) then .next (s.macCount p 7)
  else if last ∧ bytes.length < 64 then .next (s.macCount p 3)
  else if err then .next (s.macCount p 2)
  else if macControl bytes then .next (s.macCount p 6)
  else .next (s.handOver p bytes last err)

/-- FRAME_END (R199–R201): the rest of a frame that was handed over early arrives. -/
def execFrameEnd (port : Fin 8) (t : Nat) (rest : List Byte) (err : Bool) (s : State) : Res :=
  let p := port.val
  let s := s.after t
  let x := s.port p
  match x.rx with
  | none => .next s
  | some id =>
    let all := x.rxBytes ++ rest
    let cut := decide (x.rxMax < all.length)
    let good := !err && fcsGood all
    let keep := (if cut then x.rxMax else all.length) - 4
    let s1 := ((s.setPort p { x with rx := none, rxBytes := [] }).macCount p 1 rest.length)
    let s2 := if cut ∧ good then s1.macCount p 4 else s1
    match s2.pkt? id with
    | none => .next s2
    | some k =>
      .next (s2.setPkt id { k with bytes := all.take keep, flen := keep + 4, trunc := cut && good,
                                   ended := endStatus good keep k.claimed true cut })

/-! ### Entry (R19, R100, R104) -/

/-- The packets that could enter a pipeline, in the order in which it prefers them among those ready in one FCLK: the oldest arrival of
each port, lower ports first; a far lookup's return; a recirculated packet; an injection (R19, R20, R494). -/
def State.pipeHeads (s : State) (p : Nat) : List (PktPlace × Nat × Nat) :=
  let arr := s.pktsIn .arrival p
  ((List.range 8).filterMap fun port => (arr.find? fun k => k.2.port == port).map fun k => (PktPlace.arrival, k.1, k.2.due))
    ++ [PktPlace.farBack, .loop, .inject].filterMap fun pl => (s.pktsIn pl p).head?.map fun k => (pl, k.1, k.2.due)

/-- The packet that a pipeline takes next, and when: as soon as one is ready, an FCLK after the last at the earliest (R19). -/
def State.pipeNext (s : State) (p : Nat) : Option (Nat × PktPlace × Nat) :=
  match s.pipeHeads p with
  | [] => none
  | h :: hs =>
    let free := match Tab.look s.dp.entered p with | some t => t + fclk | none => 0
    let ready := hs.foldl (fun m x => min m x.2.2) h.2.2
    let at_ := max s.now (max free ready)
    ((h :: hs).find? fun x => decide (x.2.2 ≤ at_)).map fun x => (at_, x.1, x.2.1)

/-- A packet takes the CURRENT forme and counts in its FRM_REF (R100). -/
def State.stamp (s : State) (id : Nat) (p : Pkt) : Pkt × State :=
  let n := s.getF FRM_STATE.current
  let q := { p with forme := n, hold := true }
  (q, (s.setPkt id q).bump FRM_REF.packets n)

/-! ### Resolution (R120) -/

/-- Base and carried class and colour (R120 step 1). -/
def State.baseAct (s : State) (img : FormeImg) (p : Pkt) : Act × State :=
  let r := s.actionFor (nbits (img.defaults.getD p.src 0) 31 16) p.forme
  let b := Act.none.overlay (r.1.getD Act.none)
  (if p.pass = 1 then b else { b with cls := p.cls, colour := p.colour }, r.2)

/-- The overlay of one table's hit, or of nothing. -/
def State.overlayHit (s : State) (t : Nat) (f : Found) (forme : Nat) (a : Act) : Act × State :=
  let s1 := f.bad.foldl (fun u pos => u.metBad t pos) s
  match f.hit with
  | none => (a, s1)
  | some (pos, v) =>
    let s2 := if t = 0 ∨ t = 4 then s1.setIdle t pos 0 else s1
    let r := s2.actionFor (imgAction t v) forme
    (match r.1 with | some b => a.overlay b | none => a, r.2)

/-- One lookup of a pass in EML, LPM or RUL, by the key profile of the source's default. -/
def State.passLookup (s : State) (t prof : Nat) (img : FormeImg) (p : Pkt) (r : ParseRes) (a : Act) : Act × State :=
  if prof = 63 then (a, s)
  else s.overlayHit t (s.tblLookup t (buildKey img prof (keyWidth t) p r) p.forme) p.forme a

/-! ### Learn events (R150, R151, R155, R157) -/

/-- An EML event enters the learn FIFO, or is dropped there; a member of a cascade sends it to its master (R150, R159). -/
def State.queueEml (s : State) (e : LearnEv) : State :=
  if s.mode = mMember then s.emit (.learnEvent 0 e.key e.src)
  else if s.tbl.emlFifo.any fun x => x.key == e.key && x.src == e.src then s
  else if 64 ≤ s.tbl.emlFifo.length then s.bump X_CNT.count 0 6
  else { s with tbl := { s.tbl with emlFifo := s.tbl.emlFifo ++ [e] } }

/-- A flow event enters the learn FIFO, or is dropped there, or goes to the key's owner (R150, R157, R159). -/
def State.queueFlt (s : State) (e : LearnEv) : State :=
  if s.fltForeign e.key then s.emit (.learnEvent 4 e.key e.src)
  else if s.tbl.fltFifo.any fun x => x.key == e.key then s
  else if 64 ≤ s.tbl.fltFifo.length then s.bump X_CNT.count 3 6
  else { s with tbl := { s.tbl with fltFifo := s.tbl.fltFifo ++ [e] } }

/-- The source lookup of a key (R151): only entries tagged ALL. The flag says that excess_drop takes the packet (R155). -/
def State.sourceLookup (s : State) (key src : Nat) : Bool × State :=
  let all (pos : Nat) : Nat := if imgVis 0 (s.entry 0 pos) = 1 then s.entry 0 pos else 0
  let f := s.hashLookup 0 key 0 all
  let s1 := f.bad.foldl (fun u pos => u.metBad 0 pos) s
  let me := s.getF ODF_STATUS.own_id
  match f.hit with
  | none =>
    let full := decide (s.getF EML_MEMBER_CFG.limit src ≤ s.getF EML_MEMBER_CFG.count src)
    (full && s.flag EML_MEMBER_CFG.excess_drop src, s1.queueEml ⟨key, src, me⟩)
  | some (pos, v) =>
    if nbits v 96 93 = src ∧ nbits v 92 91 = me then (false, s1.setIdle 0 pos 0)
    else if natBit v 122 then (false, s1.bump X_CNT.count 0 4)
    else (false, s1.queueEml ⟨key, src, me⟩)

/-- The source lookup of a packet in pass 1 (R151). -/
def State.passSource (s : State) (img : FormeImg) (p : Pkt) (r : ParseRes) : Bool × State :=
  let prof := s.getF EML_LEARN_CFG.profile
  if p.pass ≠ 1 ∨ 12 ≤ p.src ∨ prof = 63 ∨ s.flag EML_MEMBER_CFG.learn_en p.src = false then (false, s)
  else s.sourceLookup (beNat (buildKey img prof 8 p r)) p.src

/-! ### The end of a pass -/

/-- The end of a pass: metering, the outcome of R120 step 5 and R122, and the way to the enqueue hand-off, which the packet
reaches at `due`. -/
def State.endPass (s : State) (id : Nat) (p : Pkt) (a : Act) (due : Nat) : State :=
  let m : Option Nat × State := if a.meter then s.meterPkt a.policer p.flen a.colour else (some a.colour, s)
  match m.1 with
  | none => (m.2.bump TMG_DROP.count 9).dropPkt id
  | some col =>
    let s1 := m.2
    let q := if a.queueMode = 0 then p.q else a.outQueue a.cls
    let k := { p with cls := a.cls, colour := col, q := q, act := { a with queue := q }, due := due
                      pmeta := if a.metaSet then a.pmeta else p.pmeta }
    if a.kind = 0 then (s1.bump FRM_DROP.count p.pipe 2).dropPkt id
    else if a.kind = 4 then s1.dropPkt id
    else if a.kind = 5 ∧ 4 ≤ p.pass then (s1.bump FRM_DROP.count p.pipe 1).dropPkt id
    else (s1.setPkt id k).pushLst .handoff p.pipe id

/-- The key of a packet's flow-table lookup. -/
def Pkt.fltKey (p : Pkt) (img : FormeImg) : List Byte := buildKey img p.act.fltProfile 40 p (parsePkt img p)

/-- Does deepen mode run (R494)? -/
def State.deepens (s : State) : Bool := s.flag ODF_CFG.deepen && s.flag ODF_STATUS.active

/-- A far lookup (R494, R495): the packet waits in the far buffer of 2,048, is dropped where it is full, and takes the miss
result at once where the owner is out of service. -/
def State.farLookup (s : State) (id : Nat) (p : Pkt) (key : Nat) : State :=
  let owner := s.fltMember key
  let s1 := s.bump ODF_CNT.count 4
  if s.fltForeign key ∧ natBit (s.getF ODF_STATUS.in_service) owner = false then
    ((s1.bump ODF_CNT.count 6).setPkt id { p with act := { p.act with fltReq := false } }).pushLst .farBack p.pipe id
  else if 2048 ≤ (s.lst .far p.pipe).length then (s1.bump ODF_CNT.count 7).dropPkt id
  else
    let s2 := (s1.setPkt id p).pushLst .far p.pipe id
    if s.fltForeign key then s2.emit (.farRequest owner id p.forme key) else s2

/-- A pass resolved up to RUL: it requests the flow table, whose result comes 192 FCLK after its issue at FCLK 62, or ends
(R24, R120 step 4). A packet in STANDBY takes the miss result (Table 2-3). -/
def State.afterRul (s : State) (id : Nat) (p : Pkt) (img : FormeImg) (a : Act) (flagged : Bool) : State :=
  if a.fltReq && !flagged then
    let k := { p with act := a, due := s.now + 264 * fclk }
    if s.deepens then s.farLookup id { k with due := s.now + 66 * fclk } (beNat (k.fltKey img))
    else (s.setPkt id k).pushLst .flt p.pipe id
  else s.endPass id p a (s.now + 80 * fclk)

/-- A pass through the parser, EML, LPM, RUL and resolution (R113–R120). -/
def State.runPass (s : State) (id : Nat) (p0 : Pkt) (img : FormeImg) : State :=
  let r := parsePkt img p0
  let ended := if p0.pass = 1 ∧ p0.early ∧ p0.ended = .good ∧ p0.trunc = false ∧ p0.bytes.length < r.claimed.getD 0
    then EndSt.late else p0.ended
  let p := if p0.pass = 1 then { p0 with claimed := r.claimed.getD 0, ended := ended } else p0
  let s0 := s.setPkt id p
  let d := img.defaults.getD p.src 0
  let b := s0.baseAct img p
  if r.deep ∨ r.conflict then
    let s1 := b.2.bump (if r.deep then PAR_EXC_CNT.parse_deep else PAR_EXC_CNT.len_conflict) p.src
    s1.afterRul id p img b.1 true
  else
    let e := b.2.passLookup 0 (nbits d 55 50) img p r b.1
    let l := e.2.passSource img p r
    if l.1 then (l.2.bump X_CNT.count 0 10).dropPkt id
    else
      let m := l.2.passLookup 1 (nbits d 49 44) img p r e.1
      let u := m.2.passLookup 2 (nbits d 43 38) img p r m.1
      u.2.afterRul id p img u.1 false

/-! ### The factory bridge forme (R54) -/

/-- The member that a learned address belongs to. -/
def State.bridgeMember (s : State) (dst : Nat) : Option Nat :=
  ((s.hashLookup 0 dst 0 fun pos => if imgVis 0 (s.entry 0 pos) = 1 then s.entry 0 pos else 0).hit).map fun h =>
    nbits h.2 96 93

/-- The action of a bridged copy: a port, or the host member as receive queue 0; the queue is 8 × output + class (R188). -/
def bridgeAct (out : Nat) : Act :=
  { Act.none with kind := if out < 8 then 1 else 2, dest := if out < 8 then out else 0, queueMode := 2, queue := 8 * out }

/-- The members other than the source: every enabled port that is up, and the host member, PF0 of link 0. -/
def State.bridgeMembers (s : State) (src : Nat) : List Nat :=
  ((List.range 8).filter fun p => decide (p ≠ src) && s.portExists p && !s.portDown p)
    ++ (if src = 8 then [] else [8])

/-- A packet under the factory content of the standalone forme: its source is learned, frames to the reserved group
addresses are consumed, a known address gets the frame, and anything else floods, one copy per member. -/
def State.bridgePass (s : State) (id : Nat) (p : Pkt) : State :=
  let dst := beNat (p.bytes.take 6)
  let src := beNat (sliceBytes p.bytes 6 6)
  let port (m : Nat) : Act := { bridgeAct m with dest := if m < 8 then s.getF ODF_STATUS.own_id * 8 + m else 0 }
  if dst / 16 = 0x0180C200000 then s.dropPkt id
  else
    let l := if s.flag EML_MEMBER_CFG.learn_en p.src then s.sourceLookup src p.src else (false, s)
    if l.1 then (l.2.bump X_CNT.count 0 10).dropPkt id
    else
      let due := s.now + 80 * fclk
      let known := if natBit (dst / 2 ^ 40) 0 then none else l.2.bridgeMember dst
      match known with
      | some m => if m = p.src then l.2.dropPkt id else l.2.endPass id p (port m) due
      | none =>
        match l.2.bridgeMembers p.src with
        | [] => l.2.dropPkt id
        | m :: ms =>
          let copies := ms.foldl (fun u m' =>
            let n := u.newPkt { p with tx := none }
            (n.2.bump FRM_REF.packets p.forme).endPass n.1 { p with tx := none } (port m') due) l.2
          copies.endPass id p (port m) due

/-- PIPELINE_ENTRY (R19, R100, R104, R113–R122): the pipeline takes the next packet and runs its pass. `bads` names words of
table entries newly found bad, `slotBad` says that a forme slot word read for it is uncorrectable (R125). -/
def execPipelineEntry (p : Fin 4) (bads : List (Nat × Nat × Nat)) (slotBad : Bool) (s : State) : Res :=
  if s.modes.dReset.isSome || s.mode == mDarkroom || (s.mode == mStandby && p.val != 0) then .next s
  else
    match s.pipeNext p.val with
    | none => .next s
    | some (at_, place, id) =>
      let sa := s.after at_
      let s0 := { sa with dp := { sa.dp with entered := Tab.put sa.dp.entered p.val sa.now } }.popLst place p.val id |>.advanceSweep
      let s1 := { s0 with tbl := { s0.tbl with bad := s0.tbl.bad ++ bads } }
      match s1.pkt? id with
      | none => .next s1
      | some k =>
        if place = .farBack then .next (s1.endPass id k k.act (s1.now + 80 * fclk))
        else if k.pass = 1 ∧ s1.flag FRM_STATE.current_valid = false then
          .next ((s1.bump FRM_DROP.count p.val 0).dropPkt id)
        else
          let k0 := { k with pipe := p.val }
          let st := if k.pass = 1 then s1.stamp id k0 else (k0, s1.setPkt id k0)
          if slotBad then
            .next (((st.2.bump FRM_DROP.count p.val 3).raise (10 + p.val) (faultM 0x0023)).dropPkt id)
          else
            match Tab.look st.2.frm.slots st.1.forme with
            | none => .next (st.2.dropPkt id)
            | some img => .next (if img.bridge then st.2.bridgePass id st.1 else st.2.runPass id st.1 img)

/-! ### The flow-table result (R134, R157) -/

/-- The result of a flow-table lookup joins a pass (R120 step 4): the action unless final is set, the cookie, or a learn
event on a miss under a learning profile (R157). -/
def State.mergeFlt (s : State) (id : Nat) (p : Pkt) (img : FormeImg) : Pkt × State :=
  let a := p.act
  let key := p.fltKey img
  if a.fltProfile = 63 ∨ s.mode = mStandby then (p, s)
  else
    let f := s.tblLookup 4 key p.forme
    let r := s.overlayHit 4 f p.forme a
    match f.hit with
    | some (_, v) => let k := { p with act := r.1, cookie := nbits v 447 384 }; (k, r.2.setPkt id k)
    | none =>
      (p, if natBit (s.reg .FLT_LEARN_PROFILES).toNat a.fltProfile then r.2.queueFlt ⟨beNat key, p.src, s.getF ODF_STATUS.own_id⟩
          else r.2)

/-- FLT_LOOKUP_RESULT (R24, R134): 192 FCLK after its issue the flow-table read of a pipeline's oldest waiting packet
returns, its action is applied, and the pass ends 264 FCLK after entry. -/
def execFltLookupResult (p : Fin 4) (bads : List (Nat × Nat × Nat)) (s : State) : Res :=
  match firstDue (s.pktsIn .flt p.val) with
  | none => .next s
  | some (id, k) =>
    let s0 := ((s.after (k.due - 10 * fclk)).popLst .flt p.val id).advanceSweep
    let s1 := { s0 with tbl := { s0.tbl with bad := s0.tbl.bad ++ bads } }
    match Tab.look s1.frm.slots k.forme with
    | none => .next (s1.dropPkt id)
    | some img =>
      let r := s1.mergeFlt id k img
      .next (r.2.endPass id r.1 r.1.act k.due)

end Sys2Proof.Machine
end

