-- ==== Sys2Proof/Machine/Traffic.lean ====
section
/-! DEFINITION. The meanings of the traffic manager's commands: admission, spill, selection, egress hand-off, recirculation,
the age drop, the parameter epoch and the policers (spec/06). -/

namespace Sys2Proof.Machine

/-! ### Enqueue (R162, R175, R176) -/

/-- A packet is linked at the tail of its queue; a node that held nothing wakes (R167), and a port in LPI starts to wake
(R214). -/
def State.linkTail (s : State) (id : Nat) (p : Pkt) (c : List (Nat × Nat)) (spill : Bool) : State :=
  let q := chainAt c 5
  let s1 := s.wakeChain c
  let s2 := (s1.setPkt id { p with spilled := spill, due := s1.now + 12 * fclk }).pushLst .queue q id
  let o := chainAt c 1
  let s3 := if o < 8 ∧ (s2.port o).lpi = 1 then s2.setPort o { s2.port o with lpi := 2, lpiAt := s2.now } else s2
  s3.showQueue

/-- The admission checks from the slice quota on (R175 checks 2 to 4, R176). -/
def State.admission (s : State) (id : Nat) (p : Pkt) (c : List (Nat × Nat)) : State :=
  let q := chainAt c 5
  let n := s.node 5 q
  let col := if 2 ≤ p.colour then 2 else p.colour
  let lim := if col = 0 then n.maxKib else if col = 1 then n.yellowKib else n.redKib
  let overQuota := match s.queueSlice q with
    | some g => decide (((s.slice? g).map SliceRec.bufferKib).getD 0 * 1024 ≤ s.sliceQueuedBytes g)
    | none => false
  let free := s.freeCells
  let wantSpill := s.flag TMG_BUF_CFG.spill_en && (decide (free < s.getF TMG_BUF_CFG.spill_reserve) || decide (free < p.cells))
  if overQuota then s.tmDrop id 2
  else if lim * 1024 ≤ s.queueBytes q then s.tmDrop id (3 + col)
  else if wantSpill then
    if s.freeSpill < p.cells then s.tmDrop id 6 else s.linkTail id p c true
  else if free < p.cells then s.tmDrop id 6
  else s.linkTail id p c false

/-- A packet in STANDBY that would go to a flow core, a host ring or a port that is down (R58). -/
def State.standbyDrops (s : State) (p : Pkt) : Bool :=
  s.mode == mStandby && (p.act.kind == 2 || p.act.kind == 3 || (p.act.kind == 1 && s.portDown (p.act.dest % 8)))

/-- A packet at the enqueue hand-off with its output and queue resolved (R162, R175 check 1, R178). -/
def State.enqueuePkt (s : State) (id : Nat) (p0 : Pkt) (o q : Nat) : State :=
  let p := { p0 with outp := o, q := q, enqAt := some (p0.enqAt.getD s.fnow) }
  let s := s.setPkt id p
  match s.chain q with
  | none => s.tmDrop id 0
  | some c =>
    if chainAt c 1 ≠ o then s.tmDrop id 1
    else if s.mode ≠ mSafeHold ∧ s.ageLimit < s.pktAge p + 2048 then s.tmDrop id 7
    else s.admission id p c

/-- ENQUEUE (R162, R175): the packet of a pipeline that reaches the enqueue hand-off first. -/
def execEnqueue (p : Fin 4) (s : State) : Res :=
  match firstDue (s.pktsIn .handoff p.val) with
  | none => .next s
  | some (id, k) =>
    let s1 := (s.after k.due).popLst .handoff p.val id
    if s1.standbyDrops k then .next ((s1.macCount (s1.getF MGT_START_CFG.standby_port) 8).dropPkt id)
    else
      match s1.outputOf k with
      | none => .next ((s1.bump ODF_CNT.count 3).dropPkt id)
      | some (o, q) => .next (s1.enqueuePkt id k o q)

/-- SPILL_FETCH (R177): the first spilled packet among the first two of a queue comes back on-die. -/
def execSpillFetch (q : Nat) (s : State) : Res :=
  match ((s.pktsIn .queue q).take 2).find? fun p => p.2.spilled with
  | none => .next s
  | some (id, k) => .next (s.setPkt id { k with spilled := false })

/-! ### Selection (R164–R170, R184) -/

/-- May the head of a queue be selected: on-die, its end known, and ready for its port (R177, R199, R207, R212)? A head
that ended badly is taken to be dropped, whatever its gate. -/
def State.headReady (s : State) (o q : Nat) : Bool :=
  match (s.pktsIn .queue q).head? with
  | none => false
  | some (_, k) =>
    !k.spilled && decide (k.due ≤ s.now) && decide (k.ended ≠ .arriving) && (decide (8 ≤ o) || s.portDown o || s.selectable o k)

/-- Is the egress gate of a node open (R184, R185): an output's unless the module's stop bath, STANDBY or a hold from the
cascade closes it, a slice node's unless its slice is not RUNNING or contained? -/
def State.gateOpen (s : State) (l i : Nat) : Bool :=
  if l = 1 then
    !s.flag TMG_GATE.module_closed && !s.heldOut && s.mode != mDarkroom
      && (s.mode != mStandby || i == s.getF MGT_START_CFG.standby_port)
  else if l = 3 then let n := s.node 3 i; !(n.hasSlice && s.gateClosed n.slice)
  else true

/-- Is a queue a candidate all the way up to its output `o` (R165)? -/
def State.queueCandidate (s : State) (o q : Nat) : Bool :=
  match s.chain q with
  | none => false
  | some c => chainAt c 1 == o && s.headReady o q && c.all fun x => s.gateOpen x.1 x.2 && decide (s.shape x.1 x.2 ≠ .blocked)

/-- The candidate children of a node that lead to candidate queues, without repeats, in index order. -/
def candChildren (chains : List (List (Nat × Nat))) (l i : Nat) : List Nat :=
  (chains.filter fun c => c.contains (l, i)).foldl (fun a c => insertNat a (chainAt c (l + 1))) []

/-- Children that hold packets but are out of the candidate set, or return to it: the latter take S = max(S, V) (R167). -/
def State.markCandidates (s : State) (l i : Nat) (cands : List Nat) : State :=
  let held := s.busyQueues.filterMap fun q => (s.chain q).bind fun c =>
    if c.contains (l, i) then some (chainAt c (l + 1)) else none
  (held.foldl insertNat []).foldl (fun u c =>
    let r := u.nrun (l + 1) c
    if cands.contains c then
      (if r.cand then u
       else u.setNrun (l + 1) c { r with cand := true, tagS := tagMax r.tagS (u.vtime l i (u.node (l + 1) c).priority) })
    else u.setNrun (l + 1) c { r with cand := false }) s

/-- The choice of R165 among candidate children of a node. -/
def State.chooseChild (s : State) (l : Nat) (cands : List Nat) : Option Nat :=
  let comm := cands.filter fun c => decide (s.shape (l + 1) c = .committed)
  let c1 := if comm.isEmpty then cands else comm
  let pr := c1.foldl (fun m c => min m (s.node (l + 1) c).priority) 7
  let c2 := c1.filter fun c => (s.node (l + 1) c).priority == pr
  c2.foldl (fun (b : Option Nat) c =>
    match b with
    | none => some c
    | some x => if tagBefore (s.nrun (l + 1) c).tagS (s.nrun (l + 1) x).tagS then some c else b) none

/-- The descent from a node of level `l` to a queue: the state with tags of returning children, and the path below. -/
def State.descend (s : State) (chains : List (List (Nat × Nat))) : Nat → Nat → Nat → State × List (Nat × Nat)
  | 0, _, _ => (s, [])
  | fuel + 1, l, i =>
    let cands := candChildren chains l i
    let s1 := s.markCandidates l i cands
    match s1.chooseChild l cands with
    | none => (s1, [])
    | some c =>
      let r := State.descend s1 chains fuel (l + 1) c
      (r.1, (l + 1, c) :: r.2)

/-- The tag updates of R166 for one chosen child, for `len` charged bytes. `more` says that it still holds a packet. -/
def State.tagChild (s : State) (len : Nat) (more : Bool) (x : Nat × Nat) : State :=
  if x.1 = 1 then s
  else
    let n := s.node x.1 x.2
    let r := s.nrun x.1 x.2
    let f := (r.tagS + ceilDiv (len * 2 ^ 16) n.weight) % 2 ^ 48
    (s.setVtime (x.1 - 1) n.parent n.priority r.tagS).setNrun x.1 x.2
      { r with tagF := f, tagS := if more then f else r.tagS }

/-- The charged length of a packet (R170): its frame length plus the output's signed adjustment, at least 1. -/
def State.chargedLen (s : State) (o : Nat) (p : Pkt) : Nat :=
  let n : Int := (p.flen : Int) + signedOf 8 (s.getF TMG_OUT_CFG.len_adjust o)
  if n < 1 then 1 else n.toNat

/-- A queue is chosen: its head leaves it, and the chain is charged and tagged, unless the head's frame ended badly, which
drops it uncharged (R166, R170, R199). An uncorrectable word in the frame drops it after the charge (R190). -/
def State.takeHead (s : State) (ep : Nat) (chain : List (Nat × Nat)) (upset : Bool) : State :=
  let q := chainAt chain 5
  let o := chainAt chain 1
  match (s.pktsIn .queue q).head? with
  | none => s
  | some (id, p) =>
    let s1 := s.popLst .queue q id
    if p.ended = .badFcs ∨ p.ended = .late then (s1.dropEnded id p).showQueue
    else
      let len := s.chargedLen o p
      let s2 := chain.foldl (fun u x => u.chargeNode len x) s1
      let s3 := chain.foldl (fun u x => u.tagChild len (s1.holdsBelow x.1 x.2) x) s2
      let s4 := { s3 with tm := { s3.tm with lastOut := Tab.put s3.tm.lastOut ep o } }
      if upset then ((s4.raise 19 (faultS 0x0010 (s.queueSlice q))).tmDrop id 11).showQueue
      else ((s4.setPkt id { p with due := s4.now + (8 + 60) * fclk }).pushLst .egress ep id).showQueue

/-- Has an output's destination room (R164): port FIFO, loop FIFO of 256, or the credit that `noRoom` denies? -/
def State.outRoom (s : State) (noRoom : List Nat) (o : Nat) : Bool :=
  !noRoom.contains o
    && (if o < 8 then s.txRoom o
        else if o < 12 then true
        else if o < 16 then decide ((s.lst .loop (o - 12)).length
          + ((s.pktsIn .egress (o - 12)).countP fun p => p.2.outp == o) < 256)
        else true)

/-- The outputs of an egress pipeline in round-robin order, after the one served last (R164). -/
def State.outOrder (s : State) (ep : Nat) : List Nat :=
  match Tab.look s.tm.lastOut ep with
  | none => pipeOutputs ep
  | some l => (pipeOutputs ep).filter (fun o => decide (l < o)) ++ (pipeOutputs ep).filter fun o => decide (o ≤ l)

/-- Time has reached the first FCLK in which a queue head of an egress pipeline has been in its queue for 12 FCLK
(Table 1-4), one FCLK after the pipeline's last selection at the earliest (R164). -/
def State.toFirstHead (s : State) (ep : Nat) : State :=
  let heads := s.busyQueues.filterMap fun q => match s.chain q, (s.pktsIn .queue q).head? with
    | some c, some (_, k) => if outputPipe (chainAt c 1) = ep then some k.due else none
    | _, _ => none
  match heads with
  | [] => s
  | d :: ds => (s.after (ds.foldl min d)).after (match Tab.look s.tm.selAt ep with | some t => t + fclk | none => 0)

/-- Every queued packet whose age is within `margin` FCLK of the limit A is dropped; none in SAFE_HOLD (R178, R179). -/
def State.dropOld (s : State) (margin : Nat) : State :=
  if s.mode = mSafeHold then s
  else
    let old := s.busyQueues.flatMap fun q =>
      ((s.pktsIn .queue q).filter fun p => decide (s.ageLimit ≤ s.pktAge p.2 + margin)).map fun p => (q, p.1)
    old.foldl (fun u x => u.dropQueued x.1 x.2 7) s

/-- SCHEDULER_SELECTION (R164): an egress pipeline serves the first output in order that has an eligible packet and room.
`noRoom` names outputs whose destination reports no credit, `badNodes` node records newly found uncorrectable (R190),
`upset` an uncorrectable word in the frame taken. A packet whose age has reached A is never taken (R178). -/
def execSchedulerSelection (ep : Fin 4) (noRoom : List Nat) (badNodes : List (Nat × Nat)) (upset : Bool) (s : State) :
    Res :=
  if s.modes.dReset.isSome then .next s
  else
    let s0 := badNodes.foldl (fun u n => (u.setNrun n.1 n.2 { u.nrun n.1 n.2 with bad := true }).raise 18 (faultA 0x0001)) s
    let s1 := (s0.toFirstHead ep.val).dropOld 0
    let chains (o : Nat) : List (List (Nat × Nat)) := (s1.busyQueues.filter (s1.queueCandidate o)).filterMap s1.chain
    match (s1.outOrder ep.val).find? fun o => s1.outRoom noRoom o && !(chains o).isEmpty with
    | none => .next s1
    | some o =>
      let d := s1.descend (chains o) 4 1 o
      if d.2.length = 4 then
        let u := d.1.takeHead ep.val ((1, o) :: d.2).reverse upset
        .next { u with tm := { u.tm with selAt := Tab.put u.tm.selAt ep.val u.now } }
      else .next d.1

/-! ### Egress (R101, R121, Table 1-4) -/

/-- A packet leaves the fixed path at a port FIFO: discarded while the port is link-down, dropped where it is longer than
max_len, queued for launch otherwise (R196, R203). -/
def State.toPort (s : State) (id port : Nat) (p : Pkt) : State :=
  if s.portDown port then (s.macCount port 14).dropPkt id
  else if s.getF MAC_PORT_CFG.max_len port < p.bytes.length + 4 then (s.macCount port 11).dropPkt id
  else
    let d := s.txReady port
    (d.2.setPkt id { p with due := d.1 }).pushLst .txFifo port id

/-- EGRESS_HANDOFF (R101): the packet whose egress pass ends first leaves the fixed path, and its hold ends. A TX entry
that waits completes at once where the destination is not a port (R325). -/
def execEgressHandoff (ep : Fin 4) (s : State) : Res :=
  match firstDue ((s.pktsIn .egress ep.val).filter fun p => !(decide (12 ≤ p.2.outp) && decide (p.2.outp < 16))) with
  | none => .next s
  | some (id, k) =>
    let s1 := (s.after k.due).popLst .egress ep.val id
    let w := s1.rewritten k
    let k1 := { k with bytes := w.1 }
    let s2 := (w.2.setPkt id k1).endHold id
    let k2 := { k1 with hold := false }
    let o := k.outp
    if o < 8 then .next (s2.toPort id o k2)
    else
      let s3 := (s2.setPkt id { k2 with tx := none }).completeTx k stOk (zeroBytes 13)
      if o < 10 then .next (s3.pushLst .toHost (o - 8) id)
      else if o < 12 then .next (s3.pushLst .toCore (o - 10) id)
      else if s3.getF ODF_LINK_STATUS.state (o - 16) ≠ 2 then .next ((s3.bump ODF_CNT.count 2).dropPkt id)
      else
        let f : Out := .odferFrame (o - 16) (k.act.dest / 8 % 4) k.act.queue k.cls k.colour (s3.pktAge k) k.trunc k.launch k.oneStep w.1
        .next (((s3.bump ODF_CNT.count 0).emit f).freePkt id)

/-- RECIRCULATE (R121, R18): a packet resolved to recirculate reaches the loop FIFO of the pipeline that produced it, and
its pass number counts. -/
def execRecirculate (p : Fin 4) (s : State) : Res :=
  match firstDue ((s.pktsIn .egress p.val).filter fun k => k.2.outp == 12 + p.val) with
  | none => .next s
  | some (id, k) =>
    if 256 ≤ (s.lst .loop p.val).length then .next s
    else
      let s1 := (s.after (k.due + 8 * fclk)).popLst .egress p.val id
      let w := s1.rewritten k
      let k1 := { k with bytes := w.1, flen := w.1.length + 4, flim := w.1.length, pass := k.pass + 1 }
      .next ((w.2.setPkt id k1).pushLst .loop p.val id)

/-! ### The age drop (R178, R179) -/

/-- AGE_DROP (R178): every queued packet whose age is at least A − 2,048 FCLK is dropped; none in SAFE_HOLD (R179). -/
def execAgeDrop (s : State) : Res := .next (s.dropOld 2048).showQueue

/-! ### The parameter epoch (R180–R183) -/

/-- EPOCH_GO (R180, R182): the shadow's validation starts; ignored while busy, and held by a D reset until its release. -/
def execEpochGo (init : Nat) (s : State) : Res :=
  let a := s.blockAccess 12 .write init 0
  if !a.2 || a.1.flag TMG_EPOCH.busy then .next a.1
  else
    let s1 := a.1.setF TMG_EPOCH.busy 1
    .next { s1 with tm := { s1.tm with epochAt := some s1.now } }

/-- EPOCH_SWAP (R181, R183): validation, 22,659 FCLK after its start at the latest, ends in the swap or in MALFORMED with
the failing node; the result is posted one FCLK later. -/
def execEpochSwap (s : State) : Res :=
  match s.tm.epochAt with
  | none => .next s
  | some t =>
    if s.modes.dReset.isSome then .next s
    else
      let s1 := s.after (t + 22659 * fclk)
      let s2 := { s1 with tm := { s1.tm with epochAt := none } }
      match s2.badNode s2.tm.shadow with
      | some (l, i) =>
        .next ((((s2.setF TMG_EPOCH.bad_level l).setF TMG_EPOCH.bad_index i).setF TMG_EPOCH.result stMalformed).setF
          TMG_EPOCH.busy 0)
      | none =>
        .next ((((s2.swapEpoch s2.tm.shadow).bump TMG_EPOCH.epoch_seq).setF TMG_EPOCH.result stOk).setF TMG_EPOCH.busy 0)

/-! ### Policer commands (R174, R191) -/

/-- The record that a write commits, with the levels of R174. -/
def State.polWritten (s : State) (x : PolSt) : PolSt :=
  let w0 := s.reg .TMG_POL_CFG 0
  let w1 := s.reg .TMG_POL_CFG 1
  let cb : Int := (w0.bits 35 12 : Int) * 2 ^ 20
  let eb : Int := (w1.bits 35 12 : Int) * 2 ^ 20
  let same := x.w0.bits 11 10 = w0.bits 11 10
  let c := if x.w0.bits 63 36 = unshaped then x.c else refill x.c x.ct (x.w0.bits 63 36) (x.w0.bits 35 12) s.fnow
  let e := if x.w1.bits 63 36 = unshaped then x.e else refill x.e x.et (x.w1.bits 63 36) (x.w1.bits 35 12) s.fnow
  ⟨w0, w1, if same then min c cb else cb, s.fnow, if same then min e eb else eb, s.fnow⟩

/-- POLICER_WRITE (R174): the record commits in one FCLK, or is refused for a burst of 0. -/
def execPolicerWrite (init : Nat) (index : Fin 65536) (s : State) : Res :=
  let a := s.blockAccess 12 .write init 0x200
  if !a.2 || a.1.flag TMG_POL_CMD.busy then .next a.1
  else
    let s1 := (a.1.setF TMG_POL_CMD.op 1).setF TMG_POL_CMD.index index.val
    if (s1.reg .TMG_POL_CFG 0).bits 35 12 = 0 ∨ (s1.reg .TMG_POL_CFG 1).bits 35 12 = 0 then
      .next ((s1.setF TMG_POL_CMD.result stChangeRefused).refuseWrite 12 0x200)
    else .next ((s1.setPol index.val (s1.polWritten (s1.pol index.val))).setF TMG_POL_CMD.result stOk)

/-- POLICER_READ (R191): the record reads back into TMG_POL_CFG. -/
def execPolicerRead (init : Nat) (index : Fin 65536) (s : State) : Res :=
  let a := s.blockAccess 12 .write init 0x200
  if !a.2 || a.1.flag TMG_POL_CMD.busy then .next a.1
  else
    let s1 := (a.1.setF TMG_POL_CMD.op 2).setF TMG_POL_CMD.index index.val
    let x := s1.pol index.val
    .next (((s1.setReg .TMG_POL_CFG x.w0 0).setReg .TMG_POL_CFG x.w1 1).setF TMG_POL_CMD.result stOk)

end Sys2Proof.Machine
end

