-- ==== Sys2Proof/Machine/Odfer.lean ====
section
/-! DEFINITION. The Odfer cascade: agreement records, roles, lock-ups and partitions shared over the links, cross-member frames and
far lookups: the meanings of their commands (spec/17, and CASCADE_LINKS_SILENT of spec/02). -/

namespace Sys2Proof.Machine

/-! ### Agreement records (R486, R490, R491) -/

/-- A link's state is shown. -/
def State.setLinkState (s : State) (l v : Nat) : State := s.setF ODF_LINK_STATUS.state v l

/-- AGREEMENT_RECORD_SEND (R490): the module's own record leaves on both links but one that is MISWIRED. A link that was down
trains. -/
def execAgreementRecordSend (s : State) : Res :=
  if !s.odfOn then .next s
  else
    let s1 := (if s.flag ODF_STATUS.master then s.noteActivating s.upd.act.isSome else s).showCascade
    .next ([0, 1].foldl (fun t l =>
      let st := t.getF ODF_LINK_STATUS.state l
      if st = 3 then t else (if st = 0 then t.setLinkState l 1 else t).emit (.odfer l t.ownRecord)) s1)

/-- A record passed on to the other link unless it has made 3 hops; a module in SAFE_HOLD relays nothing (R490, R500). -/
def State.relayRecord (s : State) (l : Nat) (r : List Byte) : State :=
  if 3 ≤ recHops r ∨ s.mode = mSafeHold ∨ s.getF ODF_LINK_STATUS.state (1 - l) ≠ 2 then s
  else s.emit (.odfer (1 - l) (r.take 1 ++ leBytes 1 (recLe r 1 1 + 8) ++ r.drop 2))

/-- A record's bytes shown in ODF_MEMBER_REC, with the time it came. -/
def State.storeRecord (s : State) (m : Nat) (r : List Byte) : State :=
  let s1 := (List.range 8).foldl (fun t w => t.setReg .ODF_MEMBER_REC (BitVec.ofNat 64 (recLe r (8 * w) 8)) m w) s
  { s1 with odf := { s1.odf with heard := Tab.put s1.odf.heard m s1.now } }

/-- The measured offset from the master's time: above 20 ns it makes the module's time uncertain, until it is at most 5 ns
(Table 17-2). -/
def State.noteOffset (s : State) (offset : Int) : State :=
  let s1 := { s with odf := { s.odf with offset := offset } }
  if 80 < offset.natAbs then s1.setF ODF_STATUS.time_uncertain 1
  else if offset.natAbs ≤ 20 then s1.setF ODF_STATUS.time_uncertain 0 else s1

/-- A STANDALONE module accepts a master's record of its own version and is to commit CASCADE_MEMBER (R491, R44). -/
def State.joinCascade (s : State) (r : List Byte) : State :=
  if s.mode = mStandalone ∧ s.getF ODF_STATUS.own_id ≠ 0 ∧ recMaster r ∧ recLe r 4 4 = s.ownVersion ∧ s.heardLately 4 = false
      ∧ s.modes.req.isNone then s.beginMode .cascade mMember
  else s

/-- What a valid record of another module does: kept, compared, relayed (R490, R491). -/
def State.takeRecord (s : State) (l : Nat) (r : List Byte) (offset : Int) : State :=
  let m := recOrigin r
  let me := s.getF ODF_STATUS.own_id
  if m = me then
    if recSerial r < s.fuse.serial.toNat % 2 ^ 32 then
      ({ s with odf := { s.odf with heard := Tab.put s.odf.heard 4 s.now } }.relayRecord l r).showCascade
    else if recSerial r = s.fuse.serial.toNat % 2 ^ 32 then s else s.relayRecord l r
  else
    let s1 := (s.storeRecord m r).relayRecord l r
    let mine := decide (s1.roleMode = mMember) && (s1.actingMaster == some m)
    let s2 := if mine then (s1.noteActivating (recActivating r)).noteOffset offset else s1
    s2.showCascade.joinCascade r

/-- AGREEMENT_RECORD_RECEIVE (R486, R490, R491, R499): a record comes over a link whose other end is link `peerLink` of module `peer`,
with the link's measured delay and this module's measured offset from the master's time, both in 0.25 ns. The same link
number at both ends is MISWIRED. -/
def execAgreementRecordReceive (link : Fin 2) (peer : Fin 4) (peerLink : Fin 2) (delay : BitVec 24) (offset : Int)
    (r : List Byte) (s : State) : Res :=
  let l := link.val
  if !s.odfOn then .next s
  else if peerLink = link then .next (s.setLinkState l 3)
  else if !recValid r then .next s
  else
    let s1 := (((s.setLinkState l 2).setF ODF_LINK_STATUS.peer_id peer.val l).setF ODF_LINK_STATUS.peer_link peerLink.val
      l).setF ODF_LINK_STATUS.delay delay.toNat l
    let s2 := { s1 with odf := { s1.odf with linkHeard := Tab.put s1.odf.linkHeard l s1.now } }
    .next (s2.takeRecord l r offset)

/-! ### Silence (R486, R488) -/

/-- When a table's keys were last heard; 0 for none. -/
def lastHeard (t : Tab Nat) (p : Nat → Bool) : Nat := ((t.filter fun q => p q.1).map Prod.snd).foldl max 0

/-- ODFER_LINK_DOWN (R486, R500): no valid record for 10 ms; the frames in flight, `lost` of them, are counted, and the link's pin is
driven. An image that the ROM was receiving is lost with its source. -/
def execOdferLinkDown (link : Fin 2) (lost : Nat) (s : State) : Res :=
  let l := link.val
  if s.inRom then
    match s.boot.transfer with
    | some (src, _) => if src = BootSrc.odfer then .next s.sourceFailed else .next s
    | none => .next s
  else if s.getF ODF_LINK_STATUS.state l ≠ 2 then .next s
  else
    let s1 := s.after (lastHeard s.odf.linkHeard (· == l) + odfSilence)
    .next (((s1.setLinkState l 0).bump ODF_CNT.count 2 0 lost).raise (38 + l) (faultA 0x0100)).showCascade

/-- Is this module the one to be promoted: the lowest of the live members, which are more than half of the ring (R488)? -/
def State.promotable (s : State) (master : Nat) : Bool :=
  let me := s.getF ODF_STATUS.own_id
  let ms := (List.range 4).filter fun m => m == me || (m != master && s.heardLately m && recMode (s.memberRec m) == mMember)
  ms.head? == some me && decide (s.odfN < 2 * ms.length)

/-- MASTER_SILENT (R488, Table 17-2): no record from the master for 10 ms, or a last one without the master bit. The lowest live member
of a majority is promoted and is to commit the mode in the master's last record. -/
def execMasterSilent (s : State) : Res :=
  let m := s.getF ODF_STATUS.master_id
  let r := s.memberRec m
  if s.mode ≠ mMember ∨ s.flag ODF_STATUS.master ∨ s.modes.req.isSome then .next s
  else
    let s1 := if recMaster r then s.after (lastHeard s.odf.heard (· == m) + odfSilence + 1) else s
    let mode := recMode r
    if s1.actingMaster.isNone && s1.promotable m && (mode == mManaged || mode == mAutonomous) then
      let s2 := ((s1.bump ODF_STATUS.promotions).setF ODF_STATUS.master 1).setF ODF_STATUS.master_id (s1.getF ODF_STATUS.own_id)
      .next (s2.showCascade.beginMode .cascade mode)
    else .next s1.showCascade

/-- MEMBER_SILENT (R488): the master has had no member's record for 10 ms and ends the cascade on its side. -/
def execMemberSilent (s : State) : Res :=
  if !s.flag ODF_STATUS.master || !s.flag ODF_STATUS.active then .next s
  else
    let s1 := s.after (lastHeard s.odf.heard (fun m => decide (m < 4)) + odfSilence + 1)
    .next (s1.setF ODF_STATUS.master 0).showCascade

/-- CASCADE_LINKS_SILENT (R46, Table 2-2): both links of a member have been silent for 10 ms, and it moves to STANDALONE. -/
def execCascadeLinksSilent (s : State) : Res :=
  if s.mode ≠ mMember ∨ s.modes.req.isSome then .next s
  else .next ((s.after (lastHeard s.odf.linkHeard (fun _ => true) + odfSilence)).beginMode .cascade mStandalone)

/-! ### The master's commands (R489, R496, R498) -/

/-- A write of ODF_CMD with go: its op is stored, a go while busy ignored, and one not on the master or by another initiator than a
core refused. -/
def State.odfOp (s : State) (init op : Nat) (f : State → State) : State :=
  let a := s.blockAccess 22 .write init 0x20
  if !a.2 then a.1
  else
    let s1 := a.1.setF ODF_CMD.op op
    if s1.flag ODF_CMD.busy then s1
    else if !s1.flag ODF_STATUS.master || decide (0x01F < init) then s1.setF ODF_CMD.result stRefusedState
    else f s1

/-- The lock-up of the chase at an agreed instant (R498): taken where a number is READY. -/
def State.takeLockUp (s : State) (o : Origin) (t : Nat) : State :=
  { s with frm := { s.frm with lockup := some (o, s.now) }, odf := { s.odf with lockAt := some t } }

/-- The READY number. -/
def State.readyForme (s : State) : Option Nat := s.chase?.filter fun n => s.formeState n == 2

/-- ODF_LOCKUP (R498): the master sets T to its time plus 50 µs and orders every member in service, of which `refused` refuse; on a
member the order names the master's number and T. A module that is not READY with that number refuses. -/
def execOdfLockup (by_ : OdfBy) (refused : BitVec 4) (s : State) : Res :=
  match by_ with
  | .reg init => .next (s.odfOp init 1 fun t =>
      match t.readyForme with
      | none => (t.setF ODF_CMD.refused (2 ^ t.getF ODF_STATUS.own_id)).setF ODF_CMD.result stFormeBusy
      | some n =>
        let at_ := t.timeNow / 2 ^ 16 + 50000
        let ms := (List.range 4).filter fun m => natBit (t.getF ODF_STATUS.in_service) m && m != t.getF ODF_STATUS.own_id
        let t1 := ms.foldl (fun u m => u.emit (.memberOrder m 0 n at_)) t
        let t2 := (t1.setF ODF_CMD.busy 1).setF ODF_CMD.refused (memberBits fun m => ms.contains m && natBit refused.toNat m)
        t2.takeLockUp (.reg init) at_)
  | .master n at_ =>
    if s.readyForme = some n ∧ s.frm.lockup.isNone ∧ s.flag ODF_STATUS.active ∧ s.flag ODF_STATUS.master = false then
      .next (s.takeLockUp (.reg (0x040 + s.getF ODF_STATUS.master_id)) at_)
    else .next s

/-- The flow table is shared afresh by the members in service (R496): every entry is freed, and each takes the partition of its rank. -/
def State.repartition (s : State) : State :=
  let ms := (List.range 4).filter fun m => natBit (s.getF ODF_STATUS.in_service) m
  let me := s.getF ODF_STATUS.own_id
  let rank (m : Nat) : Nat := (ms.filter (· < m)).length
  let s1 := (ms.filter (· != me)).foldl (fun t m => t.emit (.memberOrder m 1 ms.length (rank m))) s
  (s1.clearHashTable 4).takePartition (rank me) ms

/-- REPARTITION (R496): on the master by ODF_CMD; on a member by its order, which gives how many share the table and this module's
rank. -/
def execRepartition (by_ : OdfBy) (s : State) : Res :=
  match by_ with
  | .reg init => .next (s.odfOp init 2 fun t => t.repartition.setF ODF_CMD.result stOk)
  | .master a b =>
    if s.flag ODF_STATUS.active ∧ s.flag ODF_STATUS.master = false then
      let ms := (List.range 4).filter fun m => natBit (s.getF ODF_STATUS.in_service) m
      .next ((s.clearHashTable 4).takePartition b (ms.take a))
    else .next s

/-- HANDBACK (R489): the acting master's records name member 0 from now on. -/
def execHandback (init : Nat) (s : State) : Res :=
  .next (s.odfOp init 3 fun t =>
    let t1 := t.setF ODF_CMD.result stOk
    if t.getF ODF_STATUS.own_id = 0 then t1 else ((t1.setF ODF_STATUS.master 0).setF ODF_STATUS.master_id 0).showCascade)

/-- REPARTITION_HOLD_EXPIRE (R496): a partition's owner has not been live for repartition_hold, and the master shares the table
afresh. -/
def execRepartitionHoldExpire (s : State) : Res :=
  match s.odf.goneSince with
  | [] => .next s
  | p :: _ =>
    let hold := s.getF ODF_CFG.repartition_hold
    if hold = 0 ∨ s.flag ODF_STATUS.master = false then .next s
    else .next (s.after (p.2 + hold * msT)).repartition

/-! ### Cross-member frames (R493) -/

/-- The age that a forwarded frame gains on its way from link to link, in FCLK. -/
def odfForward : Nat := 24

/-- A frame for another member goes on over the other link, or is lost where that is not up. -/
def State.forwardFrame (s : State) (l : Nat) (f : OdfFrame) : State :=
  if s.mode = mSafeHold ∨ s.getF ODF_LINK_STATUS.state (1 - l) ≠ 2 then s.bump ODF_CNT.count 2
  else (s.bump ODF_CNT.count 0).emit
    (.odferFrame (1 - l) f.member f.queue f.cls f.colour (f.age + odfForward) f.trunc f.launch f.oneStep f.bytes)

/-- A frame that has come over a link, as a packet: it holds no forme, and its age goes on. -/
def State.farPacket (s : State) (f : OdfFrame) : Pkt :=
  let p := Pkt.ofFrame 15 0 f.bytes
  { p with far := true, trunc := f.trunc, cls := f.cls, colour := f.colour, launch := f.launch, oneStep := f.oneStep,
           q := f.queue, enqAt := some (s.fnow - f.age), act := { Act.none with kind := 1, queue := f.queue } }

/-- ODFER_FRAME_RECEIVE (R493, R500): a cross-member frame is forwarded, or enqueued in the queue it carries. A bad word in the link
buffer drops it. -/
def execOdferFrameReceive (link : Fin 2) (f : OdfFrame) (s : State) : Res :=
  let l := link.val
  if !s.flag ODF_STATUS.active || s.getF ODF_LINK_STATUS.state l != 2 then .next s
  else
    let s1 := s.bump ODF_CNT.count 1
    if f.word = 2 then .next (s1.raise (38 + l) (faultA 0x0003))
    else
      let s2 := if f.word = 1 then s1.raise (38 + l) (correctedAt ⟨0, 0, 0⟩) else s1
      if f.member % 4 ≠ s.getF ODF_STATUS.own_id then .next (s2.forwardFrame l f)
      else if s2.heldOut then .next s2
      else
        let n := s2.newPkt (s2.farPacket f)
        let o := match n.2.chain f.queue with
          | some c => chainAt c 1
          | none => 0
        let p := { s2.farPacket f with act := { (s2.farPacket f).act with dest := o % 8 } }
        .next (n.2.enqueuePkt n.1 p o f.queue)

/-! ### Far lookups (R494, R495) -/

/-- FAR_LOOKUP_REQUEST (R494): the owner serves a member's lookup of a key for a packet of a forme, and answers with what it found. -/
def execFarLookupRequest (member : Fin 4) (id : Nat) (forme : Fin 8) (key : List Byte) (bads : List (Nat × Nat × Nat))
    (s : State) : Res :=
  if !s.flag ODF_STATUS.active || s.heldOut then .next s
  else
    let s0 := s.advanceSweep
    let s1 := { s0 with tbl := { s0.tbl with bad := s0.tbl.bad ++ bads } }
    let f := s1.tblLookup 4 key forme.val
    let s2 := f.bad.foldl (fun u pos => u.metBad 4 pos) s1
    let s3 := match f.hit with
      | some (pos, _) => s2.setIdle 4 pos 0
      | none => s2
    .next (s3.emit (.farResult member.val id (f.hit.map Prod.snd)))

/-- The result of a far lookup merged: another member's entry, or a miss, which is a learn event under a learning profile. -/
def State.mergeFar (s : State) (id : Nat) (p : Pkt) (img : FormeImg) (hit : Option Nat) : State :=
  match hit with
  | some v =>
    let r := s.actionFor (imgAction 4 v) p.forme
    r.2.setPkt id { p with act := (match r.1 with | some b => p.act.overlay b | none => p.act), cookie := nbits v 447 384 }
  | none =>
    if natBit (s.reg .FLT_LEARN_PROFILES).toNat p.act.fltProfile then
      s.queueFlt ⟨beNat (p.fltKey img), p.src, s.getF ODF_STATUS.own_id⟩
    else s

/-- FAR_LOOKUP_RESULT (R494): the result of a packet's far lookup is back, from this module's own tables where it owns the key, and the
packet waits to re-enter its pipeline. -/
def execFarLookupResult (p : Fin 4) (id : Nat) (hit : Option Nat) (bads : List (Nat × Nat × Nat)) (s : State) : Res :=
  if !(s.lst .far p.val).contains id then .next s
  else
    match s.pkt? id with
    | none => .next s
    | some k =>
      let s0 := ((s.after k.due).popLst .far p.val id).advanceSweep
      let s1 := { s0 with tbl := { s0.tbl with bad := s0.tbl.bad ++ bads } }
      match Tab.look s1.frm.slots k.forme with
      | none => .next (s1.dropPkt id)
      | some img =>
        let s2 := if s1.fltForeign (beNat (k.fltKey img)) then s1.mergeFar id k img hit
          else
            let r := (s1.after (k.due + 196 * fclk)).mergeFlt id k img
            r.2.setPkt id r.1
        .next (s2.pushLst .farBack p.val id)

/-- FAR_LOOKUP_TIMEOUT (R495): 20 µs after it entered the far buffer a packet takes the miss result. -/
def execFarLookupTimeout (p : Fin 4) (s : State) : Res :=
  match firstDue (s.pktsIn .far p.val) with
  | none => .next s
  | some (id, k) =>
    let s1 := ((s.after (k.due + 20 * usT)).popLst .far p.val id).bump ODF_CNT.count 5
    .next ((s1.setPkt id { k with act := { k.act with fltReq := false } }).pushLst .farBack p.val id)

end Sys2Proof.Machine
end

