-- ==== Sys2Proof/Machine/Ports.lean ====
section
/-! DEFINITION. The meanings of the port commands: cages and links, launch, impositions, Low Power Idle, lanes (spec/07). -/

namespace Sys2Proof.Machine

/-! ### Cages and links (R194–R196) -/

/-- CAGE_CHANGED to the configuration owner (R195). -/
def State.cageChanged (s : State) (c : Nat) : State :=
  s.postEvent .owner ⟨0x08, none, leBytes 1 c ++ leBytes 1 (b2n (Tab.has s.dp.cages c))⟩

/-- A write of MAC_PORT_CFG may have changed enable: a port disabled discards what its transmit FIFO holds and what arrives, and
either change is one of the link's (R196, R198). -/
def State.portEnabled (s : State) (p : Nat) (wasDown : Bool) : State :=
  (if s.flag MAC_PORT_CFG.enable p then s else (s.drainTx p).cutRx p).reportLink p wasDown

/-- Are a port's FIFOs empty: nothing received stands before its parse, and nothing waits to be sent (Table 1-13)? -/
def State.portFifosEmpty (s : State) (p : Nat) : Bool :=
  (s.lst .txFifo p).isEmpty && (s.port p).rx.isNone && (List.range 4).all fun i => (s.pktsIn .arrival i).all fun k => k.2.port != p

/-- OPTICAL_MODULE_REMOVED (R195). -/
def execOpticalModuleRemoved (cage : Fin 2) (s : State) : Res :=
  let s1 := { s with dp := { s.dp with cages := Tab.del s.dp.cages cage.val } }
  let s2 := (cagePorts cage.val).foldl State.portLost s1
  .next (if s.mode = mStandalone then s2 else s2.cageChanged cage.val)

/-- OPTICAL_MODULE_INSERTED (R194, R195). -/
def execOpticalModuleInserted (cage : Fin 2) (info : Cmis) (s : State) : Res :=
  let s1 := { s with dp := { s.dp with cages := Tab.put s.dp.cages cage.val info } }
  .next (if s.mode = mStandalone then s1.chooseCage cage.val else s1.cageChanged cage.val)

/-- LINK_UP (R196, R197): a port's PCS aligns and its FEC locks, and training is done where an_en asks for it. In STANDBY
only the standby port trains, on one lane where its module lists that. -/
def execLinkUp (port : Fin 8) (s : State) : Res :=
  let p := port.val
  let standby := s.mode == mStandby
  match Tab.look s.dp.cages (p % 2) with
  | none => .next s
  | some c =>
    if !s.portExists p || s.flag MAC_PORT_STATUS.lane_fault p || s.mode == mDarkroom || s.flag MAC_PORT_STATUS.link_up p
        || (standby && p != s.getF MGT_START_CFG.standby_port) then .next s
    else
      let m := if standby && c.oneLane then 4 else s.cageMode p
      let s1 := (((s.setF MAC_PORT_STATUS.pcs_aligned 1 p).setF MAC_PORT_STATUS.fec_locked 1 p).setF
        MAC_PORT_STATUS.mode_active m p).setF MAC_PORT_STATUS.link_up 1 p
      .next ((s1.setPort p { s1.port p with idleAt := s1.now, lpi := 0 }).reportLink p true)

/-- LINK_DOWN (R196). -/
def execLinkDown (port : Fin 8) (s : State) : Res := .next (s.portLost port.val)

/-- LINK_PARTNER_LPI (R214): the port's receiver follows its partner into Low Power Idle or out of it. -/
def execLinkPartnerLpi (port : Fin 8) (on : Bool) (s : State) : Res :=
  if s.flag MAC_PORT_STATUS.link_up port.val then .next (s.setF MAC_PORT_STATUS.lpi_rx (b2n on) port.val) else .next s

/-- OPTICAL_MODULE_FAULT (R217): a power or fault indication of a cage's module drives the pins of its ports. -/
def execOpticalModuleFault (cage : Fin 2) (s : State) : Res :=
  .next (((cagePorts cage.val).filter s.portExists).foldl (fun u p => u.raise (20 + p) (faultA 0x0004)) s)

/-- LANE_FAULT (R215, R216, R450): the SerDes of a connector lane fails. While the cage's spare is free it is logged for the next
D reset; with the spare in use the port on the lane is held link-down and reported DEGRADED. -/
def execLaneFault (cage : Fin 2) (lane : Fin 8) (s : State) : Res :=
  let x := s.unitOf kSerDes (16 * cage.val + lane.val)
  if x = unitAbsent then .next s
  else
    let s1 := s.unitFails (secondsOf s.timeNow % 2 ^ 32) kSerDes x
    if (s.freeSpare kSerDes x).isSome then .next s1
    else .next ((s1.replaceUnit kSerDes x).showUnits.checkLanes)

/-! ### Launch (R203, R204, R206, R208, R212) -/

/-- The sum of 16-bit words in one's complement. -/
def onesSum (bs : List Byte) : Nat :=
  let w := (List.range ((bs.length + 1) / 2)).foldl (fun a i => a + beNat (fitBytes 2 (sliceBytes bs (2 * i) 2))) 0
  let f := w % 65536 + w / 65536
  f % 65536 + f / 65536

/-- A one-step event message with its transmit timestamp (80 bits, big-endian) written at its offset; over UDP and IPv6 the
trailing 2 octets make up for the change (R204). -/
def oneStepWrite (bs : List Byte) (o t : Nat) : List Byte :=
  let ts := beBytes 6 (t / 2 ^ 16 / 10 ^ 9) ++ beBytes 4 (t / 2 ^ 16 % 10 ^ 9)
  let old := onesSum (sliceBytes bs o 10)
  let new := onesSum ts
  let w := bs.take o ++ ts ++ bs.drop (o + 10)
  if beNat (sliceBytes bs 12 2) = 0x86DD ∧ (bs.getD 20 0).toNat = 17 then
    let tail := beNat (w.drop (w.length - 2))
    let v := tail + old + (65535 - new)
    let f := v % 65536 + v / 65536
    w.take (w.length - 2) ++ beBytes 2 (f % 65536 + f / 65536)
  else w

/-- The frame at a port's FIFO head goes out at time `at` (ps of island time), with its new FCS and transmit timestamp; the
TX entry that asked for it completes (R203, R204, R325). -/
def State.launch (s : State) (p id : Nat) (k : Pkt) (at_ : Nat) : State :=
  let wait := if s.timePs < at_ then ceilDiv ((at_ - s.timePs) * nsT) 1000 else 0
  let s1 := (s.after (s.now + wait)).popLst .txFifo p id
  let st := s1.portStamp p (s1.getF TSV_PORT_CAL.tx_offset (s1.calIndex p))
  let bytes := match k.oneStep with
    | some o => if o + 10 ≤ k.bytes.length then oneStepWrite k.bytes o st.1 else k.bytes
    | none => k.bytes
  let n := bytes.length + 4
  let s2 := ((st.2.2.macCount p 9).macCount p 10 n).emit
    (.frame p (bytes ++ leBytes 4 (fcsOf bytes)) (st.1 / 2 ^ 16) (st.1 % 2 ^ 16) st.2.1)
  let done := s2.now + ceilDiv ((n + 20) * s2.psPerByte p * nsT) 1000
  let s3 := (s2.setPort p { s2.port p with txFree := done, idleAt := done }).freePkt id
  s3.completeTx k stOk (leBytes 12 (tstamp96 st.1 st.2.1) ++ leBytes 1 p)

/-- The frame at a port's FIFO head is dropped there, counted as kind `k`. -/
def State.dropHead (s : State) (p id k : Nat) : State := ((s.popLst .txFifo p id).macCount p k).dropPkt id

/-- A word of a port's transmitter in ps (R206). -/
def State.txWord (s : State) (p : Nat) : Nat := 64 * s.psPerByte p

/-- FRAME_LAUNCH (R206, R208, R212): the head frame of a port launches at the first word boundary at which its gate stays
open and its launch time has come, or is dropped as late or without a window; with its gate closed for ever it waits. The
phase of the word boundaries is free. -/
def execFrameLaunch (port : Fin 8) (s : State) : Res :=
  let p := port.val
  match (s.pktsIn .txFifo p).head? with
  | none => .next s
  | some (id, k) =>
    if s.portDown p then .next (s.dropHead p id 14)
    else
      let s0 := s.after (max k.due (s.port p).txFree)
      let t := s0.timePs
      let late := match k.launch with
        | some L => decide ((L + s0.getF MAC_IMP_CFG.late_limit p) * 1000 < t)
        | none => false
      if late then .next (s0.dropHead p id 12)
      else if s0.noWindow p k.cls (k.bytes.length + 4) then .next (s0.dropHead p id 13)
      else
        let d := s0.draw 16
        let from_ := match k.launch with
          | some L => if t < L * 1000 then L * 1000 else t
          | none => t
        match d.2.launchAt p k.cls (k.bytes.length + 4) (d.2.txWord p) (d.1 % d.2.txWord p) 4096 from_ with
        | none => .next s0
        | some at_ => .next (d.2.launch p id k at_)

/-! ### Impositions (R205, R209, R210) -/

/-- The shadow schedule of a port. -/
def State.shadowImp (s : State) (p : Nat) : Imp :=
  { entries := (List.range (s.getF MAC_IMP_CYCLE.count p)).map fun n =>
      (s.getF MAC_IMP_ENTRY.gates p n, s.getF MAC_IMP_ENTRY.duration p n)
    base := (s.reg .MAC_IMP_BASE p).toNat
    cycle := s.getF MAC_IMP_CYCLE.cycle p }

/-- IMPOSITION_GO (R209): the shadow is checked and its copy starts; ignored while busy. -/
def execImpositionGo (init : Nat) (port : Fin 8) (s : State) : Res :=
  let p := port.val
  let a := s.blockAccess 5 .write init (0x4000 * p + 0x28)
  if !a.2 || a.1.flag MAC_IMP_CMD.busy p then .next a.1
  else
    let s1 := a.1
    let n := s1.getF MAC_IMP_CYCLE.count p
    let cyc := s1.getF MAC_IMP_CYCLE.cycle p
    if n = 0 ∨ 1024 < n ∨ cyc < 1000 ∨ 1000000000 < cyc ∨ (s1.shadowImp p).entries.all (fun e => e.2 == 0) then
      .next (s1.setF MAC_IMP_CMD.result stMalformed p)
    else
      let x := s1.port p
      .next ((s1.setF MAC_IMP_CMD.busy 1 p).setPort p { x with copyAt := some (s1.timeNow / 2 ^ 16) })

/-- The swap instant T of a schedule whose go landed at `go` (R209). -/
def Imp.swapAt (m : Imp) (go : Nat) : Nat :=
  let t0 := go + 2000
  if t0 ≤ m.base then m.base else m.base + ceilDiv (t0 - m.base) m.cycle * m.cycle

/-- IMPOSITION_COPY_DONE (R209): the pending schedule holds the shadow and waits for T. -/
def execImpositionCopyDone (port : Fin 8) (s : State) : Res :=
  let p := port.val
  let x := s.port p
  match x.copyAt with
  | none => .next s
  | some go =>
    let m := s.shadowImp p
    let s1 := ((s.setF MAC_IMP_CMD.busy 0 p).setF MAC_IMP_CMD.pending 1 p).setF MAC_IMP_CMD.result stOk p
    .next (s1.setPort p { x with copyAt := none, pend := some (m, m.swapAt go * 1000) })

/-- The tick at which island time reaches a time in ps. -/
def State.tickOfPs (s : State) (t : Nat) : Nat := s.whenReached (t * 2 ^ 40 / 1000) * tclk

/-- IMPOSITION_SWAP (R209): at T the pending schedule becomes operational, at its entry 0. -/
def execImpositionSwap (port : Fin 8) (s : State) : Res :=
  let p := port.val
  let x := s.port p
  match x.pend with
  | none => .next s
  | some (m, T) =>
    let s1 := s.after (s.tickOfPs T)
    let s2 := (s1.setF MAC_IMP_CMD.pending 0 p).bump MAC_IMP_CMD.swaps p
    .next ((s2.setPort p { x with op := some m, pend := none, startAt := none, closed := false }).showImp p)

/-- A write of MAC_IMP_CFG has changed enable (R210): on 1 the operational schedule starts at its next cycle start, on 0
every gate opens. -/
def State.impEnabled (s : State) (p : Nat) (was : Bool) : State :=
  let x := s.port p
  let now := s.flag MAC_IMP_CFG.enable p
  if now = was then s
  else if now then (s.setPort p { x with closed := false, startAt := x.op.map fun m => m.nextCycle s.timePs }).showImp p
  else (s.setPort p { x with closed := false, startAt := none }).showImp p

/-- IMPOSITION_ENABLE (R210): a write of MAC_IMP_CFG. -/
def execImpositionEnable (init : Nat) (port : Fin 8) (wide upper : Bool) (v : Word) (s : State) : Res :=
  let p := port.val
  let off := 0x4000 * p + 0x10 + (if upper && !wide then 4 else 0)
  let a := s.blockAccess 5 .write init off
  if !a.2 then .next a.1
  else .next ((a.1.storeReg (fun _ => true) 5 off .MAC_IMP_CFG p 0 wide upper v).impEnabled p (a.1.flag MAC_IMP_CFG.enable p))

/-- IMPOSITION_CYCLE_START (R205, R210): the next cycle of the operational schedule starts at entry 0, and gates closed since
a D reset follow it again. -/
def execImpositionCycleStart (port : Fin 8) (s : State) : Res :=
  let p := port.val
  let x := s.port p
  match x.op with
  | none => .next s
  | some m =>
    if s.flag MAC_IMP_CFG.enable p = false then .next s
    else
      let t := match x.startAt with
        | some a => a
        | none => m.nextCycle s.timePs
      let s1 := (s.after (s.tickOfPs t)).bump MAC_IMP_STATUS.cycles p
      .next ((s1.setPort p { x with startAt := none, closed := false }).showImp p)

/-! ### Low Power Idle (R213, R214) -/

/-- May a port use LPI (R213)? -/
def State.lpiAllowed (s : State) (p : Nat) : Bool :=
  s.flag MAC_LPI_CFG.enable p && (match Tab.look s.dp.cages (p % 2) with | some c => c.optical && c.lpi | none => false)
    && s.getF MAC_PORT_STATUS.mode_active p != 4 && !s.flag MAC_IMP_CFG.enable p
    && !(s.getF TSV_REF_SEL.freq_src == 1 && s.getF TSV_REF_SEL.synce_port == p) && !s.portDown p

/-- Do a port's output and transmit path hold nothing? -/
def State.outputIdle (s : State) (p : Nat) : Bool :=
  !s.holdsBelow 1 p && (s.lst .txFifo p).isEmpty && !((s.pktsIn .egress (p % 2)).any fun k => k.2.outp == p)

/-- LPI_ENTER (R214): idle_time after the port fell idle its transmitter enters LPI. -/
def execLpiEnter (port : Fin 8) (s : State) : Res :=
  let p := port.val
  let x := s.port p
  if x.lpi ≠ 0 ∨ s.lpiAllowed p = false ∨ s.outputIdle p = false then .next s
  else
    let s1 := s.after (x.idleAt + s.getF MAC_LPI_CFG.idle_time p * usT)
    .next (((s1.setPort p { x with lpi := 1, idleAt := s1.now }).setF MAC_PORT_STATUS.lpi_tx 1 p).macCount p 17)

/-- LPI_WAKE_DONE (R214): tw_tx after a wake started the output reports room again. -/
def execLpiWakeDone (port : Fin 8) (s : State) : Res :=
  let p := port.val
  let x := s.port p
  if x.lpi ≠ 2 then .next s
  else
    let s1 := s.after (x.lpiAt + s.getF MAC_LPI_CFG.tw_tx p * usT)
    let s2 := s1.macCount p 18 ((s1.now - x.idleAt) / usT)
    .next ((s2.setPort p { x with lpi := 0, idleAt := s1.now }).setF MAC_PORT_STATUS.lpi_tx 0 p)

end Sys2Proof.Machine
end

