-- ==== Sys2Proof/Machine/BadWords.lean ====
section
/-! DEFINITION. What an uncorrectable SEC-DED word does in the unit that meets it (R217, R261, R284, R339, R363, R389). -/

namespace Sys2Proof.Machine

/-- The slice of an endpoint's records; firmware's have none. -/
def State.badSliceOfEp (s : State) (ep : Nat) : Option Nat :=
  (Tab.look s.drt.eps ep).bind fun e => if e.slice = noSlice then none else some e.slice

/-! ### Ports (R217) -/

/-- The oldest frame of a port that its pipeline has not taken is dropped; one that is still arriving ends badly. -/
def State.badRx (s : State) (p : Nat) : State :=
  let pipe := (List.range 4).find? fun i => (s.pktsIn .arrival i).any fun k => k.2.port == p
  match pipe with
  | none => s
  | some i =>
    match (s.pktsIn .arrival i).find? fun k => k.2.port == p with
    | none => s
    | some (id, _) => if (s.port p).rx = some id then s.cutRx p else (s.popLst .arrival i id).dropPkt id

/-- The frame that a port sends, or else the next one in its FIFO, ends with an invalid FCS. -/
def State.badTx (s : State) (p : Nat) : State :=
  if s.now < (s.port p).txFree then (s.emit (.frameCut p)).setPort p { s.port p with txFree := s.now }
  else
    match s.lst .txFifo p with
    | [] => s
    | id :: _ => ((s.popLst .txFifo p id).emit (.frameCut p)).dropPkt id

/-! ### Keys (R284) -/

/-- A key slot loses its valid flag: the descriptor that met the word completes DEGRADED, those under the slot that no unit runs
ACCESS_VIOLATION. -/
def State.badKey (s : State) (k : Nat) (desc : Option Nat) : State :=
  let s1 := { s with cph := { s.cph with keys := Tab.setD KeySlot.empty s.cph.keys k { s.keySlot k with valid := false } } }
  let under (p : Nat × CphDesc) : Bool := p.2.slot == some k
  let met := s.cph.descs.filter fun p => under p && desc == some p.1
  let idle := s.cph.descs.filter fun p => under p && desc != some p.1 && (match p.2.run with
    | .running _ _ => false
    | _ => true)
  let s2 := met.foldl (fun t p => t.endDesc p.1 stDegraded 0) s1
  idle.foldl (fun t p => (t.cipherOutput p.2 p.2.done).endDesc p.1 stAccessViolation p.2.done) s2

/-! ### Rings (R339) -/

/-- A stashed completion carries DEGRADED for its status, its header otherwise intact. -/
def Ring.badStash (r : Ring) (i : Nat) : Ring :=
  { r with stash := r.stash.zipIdx.map fun p =>
    if p.2 = i then (leBytes 1 stDegraded ++ p.1.1.drop 1, p.1.2) else p.1 }

/-- A held event keeps its header; where its body carries a status is stated nowhere, and its body is free. -/
def State.badHeld (s : State) (num i : Nat) (r : Ring) : State :=
  let d := s.drawBytes 24
  d.2.setRing 2 num { r with held := r.held.zipIdx.map fun p =>
    if p.2 = i then (p.1.1, { p.1.2 with body := d.1 }) else p.1 }

/-! ### NVMe (R389) -/

/-- A buffered write is marked: its destage is not sent. -/
def State.badBuf (s : State) (i : Nat) (b : NveBuf) : State :=
  match b.st with
  | .destaging m => (s.discardMsg m).setBuf i { b with bad := true, st := .retry s.now b.delay }
  | _ => s.setBuf i { b with bad := true }

/-! ### The word -/

/-- An uncorrectable word is met: the places of the source that its unit drives, the event, and the state that its effect leaves;
none where the word belongs to nothing that the unit holds. -/
def State.wordEffect (s : State) : BadWord → Option (Nat × ErrEvent × State)
  | .rxFifo p => some (20 + p, faultA 0x0003, s.badRx p)
  | .txFifo p => some (20 + p, faultA 0x0003, s.badTx p)
  | .outRec r =>
    (Tab.look s.drt.outs r).map fun x => (28, faultS 0x0011 (s.badSliceOfEp x.ep), (s.endOut r stDegraded 0).nvmeSettle)
  | .inRec k => (Tab.look s.drt.ins k).map fun x => (28, faultS 0x0011 (s.badSliceOfEp x.last.dst), s.dropIn k)
  | .tomb k g =>
    (Tab.look s.drt.tombs k).map fun x =>
      (28, faultS 0x0011 g, { s with drt := { s.drt with tombs := Tab.put s.drt.tombs k { x with bad := true } } })
  | .region i =>
    (Tab.look s.drt.regions i).map fun x =>
      (28, faultS 0x0011 (if x.slice = noSlice then none else some x.slice),
        { s with drt := { s.drt with regions := Tab.put s.drt.regions i { x with bad := true } } })
  | .keySlot k desc => some (29, faultS 0x0012 (s.keySlot k).slice, s.badKey k desc)
  | .ringContext cls num => (s.ring? cls num).map fun r => (7, faultS 0x0011 r.slice, s.stopRing cls num stDegraded)
  | .stashed num i => (s.ring? 1 num).map fun r => (7, faultS 0x0011 r.slice, s.setRing 1 num (r.badStash i))
  | .heldEvent num i => (s.ring? 2 num).map fun r => (7, faultS 0x0011 r.slice, s.badHeld num i r)
  | .sliceRec g => (s.slice? g).map fun x => (8, faultS 0x0012 (some g), s.setSlice g { x with badWord := true })
  | .rule t n =>
    some (42, faultA 0x0005, { s with slc := { s.slc with badRules := insertNat s.slc.badRules (t * 32 + n) } })
  | .nvmeCmd c sq cid =>
    (s.ctrl? c).bind fun x => (x.cmds.find? fun m => m.is sq cid).map fun m =>
      (9, faultS 0x0011 ((s.nsOf c (m.dw 1)).bind fun p => s.badSliceOfEp p.2.ep),
        ((s.cutCmd m).nvmeEnd c sq cid nvInternal).nvmeSettle)
  | .nvmeQueue c => (s.ctrl? c).map fun x => (9, faultS 0x0011 none, s.setCtrl c { x with cfs := true })
  | .nvmeNs n => (s.ns? n).map fun x => (9, faultS 0x0011 (s.badSliceOfEp x.ep), (s.faultNs n stDegraded).nvmeSettle)
  | .nvmeData i =>
    (Tab.look s.nve.bufs i).map fun b =>
      (9, faultS 0x0011 ((s.ns? b.ns).bind fun x => s.badSliceOfEp x.ep), (s.badBuf i b).nvmeSettle)

/-- A unit meets an uncorrectable word: its effect, and the event on the places `q` of its source. -/
def State.badWord (s : State) (q : Nat) (w : BadWord) : State :=
  match s.wordEffect w with
  | some (q', e, t) => if q' = q then t.raise q e else s
  | none => s

end Sys2Proof.Machine
end

