-- ==== Sys2Proof/Machine/Prf.lean ====
section
/-! DEFINITION. Proofreader, Safelight and Retouch: the meanings of their commands (spec/15). -/

namespace Sys2Proof.Machine

/-- TAI seconds [31:0] of island time. -/
def State.taiLow (s : State) : Nat := secondsOf s.timeNow % 2 ^ 32

/-! ### Rows (R449) -/

/-- A row is scheduled for repair: a PENDING entry and the RTH event, or nothing where it is PENDING already or the log is
full (R448, R449). -/
def State.scheduleRow (s : State) (d : Defect) (origin : Nat) : State :=
  if s.logPending d then s
  else
    let a := s.logAdd ⟨d.kind, 1, origin, 0xFF, d.unit, d.row, s.taiLow⟩
    if a.2 then a.1.raiseRth else a.1

/-- The row that a corrected event names. -/
def rowOf (n : Nat) : Defect := ⟨n / 2 ^ 64, n / 2 ^ 32 % 2 ^ 32, n % 2 ^ 32⟩

/-- Rows that Retouch tracks at once (R449). -/
def trackedRows : Nat := 512

/-- The tracked row that a new one replaces: the fewest events, the oldest first on a tie. -/
def trackVictim (t : Tab (List Nat)) : Option Nat :=
  (t.foldl (fun (b : Option (Nat × List Nat)) p => match b with
    | none => some p
    | some q => if p.2.length < q.2.length ∨ (p.2.length = q.2.length ∧ p.2.headD 0 < q.2.headD 0) then some p else b)
    none).map Prod.fst

/-- A corrected event of a row is counted, and the row scheduled at the threshold within the window (R449). -/
def State.trackRow (s : State) (n : Nat) : State :=
  if n / 2 ^ 64 = 0 ∨ s.logPending (rowOf n) then s
  else
    let window := s.getF RTH_ROW_CFG.window * 3600 * secT
    let recent := ((Tab.getD [] s.prf.tracked n).filter fun t => decide (s.now ≤ t + window)) ++ [s.now]
    if s.getF RTH_ROW_CFG.threshold ≤ recent.length then
      { s with prf := { s.prf with tracked := Tab.del s.prf.tracked n } }.scheduleRow (rowOf n) 2
    else
      let t := s.prf.tracked
      let t' := if Tab.has t n || decide (t.length < trackedRows) then t
        else (match trackVictim t with | some v => Tab.del t v | none => t)
      { s with prf := { s.prf with tracked := Tab.put t' n recent } }

/-! ### Fault events (R424–R434) -/

/-- A source's configured level for a class; PRF_LEVEL holds 0 to 4. -/
def State.levelFor (s : State) (src cls : Nat) : Nat :=
  if cls = 0 then s.getF PRF_LEVEL.lvl_a src else if cls = 1 then s.getF PRF_LEVEL.lvl_s src
  else s.getF PRF_LEVEL.lvl_m src

/-- The level applied to an event after escalation (R428 steps 1 and 3, R430). -/
def State.escalated (s : State) (src conf : Nat) : Nat :=
  let r := s.getF PRF_REC.level src
  if 1 ≤ conf ∧ natBit (s.getF PRF_LATCH.fault) src = true ∧ 1 ≤ r then min 4 (max conf (r + 1)) else conf

/-- PRF_LATCH and PRF_REC of a source take a fault event of an applied level (R426). -/
def State.recordFault (s : State) (src cls level : Nat) (esc : Bool) (e : ErrEvent) : State :=
  let set := natBit (s.getF PRF_LATCH.fault) src
  let s1 := s.setF PRF_LATCH.fault (natSetBit (s.getF PRF_LATCH.fault) src true)
  let withSlice (t : State) : State := match e.slice with
    | some g => (t.setF PRF_REC.slice_valid 1 src).setF PRF_REC.slice g src
    | none => t
  if set then
    let s2 := if s1.flag PRF_REC.slice_valid src then s1 else withSlice s1
    let n := s2.getF PRF_REC.count src
    let s3 := s2.setF PRF_REC.count (if n < 1023 then n + 1 else 1023) src
    let s4 := s3.setF PRF_REC.level (max (s3.getF PRF_REC.level src) level) src
    if esc then s4.setF PRF_REC.escalated 1 src else s4
  else
    let s2 := (((s1.setReg .PRF_REC 0 src).setF PRF_REC.valid 1 src).setF PRF_REC.level level src).setF PRF_REC.cls cls src
    let s3 := (withSlice s2).setF PRF_REC.escalated (b2n esc) src
    ((s3.setF PRF_REC.count 1 src).setF PRF_REC.cause e.cause src).setF PRF_REC.detail e.detail src

/-- PRF_LAST_FAULT, with the time of the event or 0 where time was unknown (R431). -/
def State.writeLastFault (s : State) (src cls level cause secs : Nat) : State :=
  ((((s.setF PRF_LAST_FAULT.source src).setF PRF_LAST_FAULT.level level).setF PRF_LAST_FAULT.cls cls).setF
    PRF_LAST_FAULT.cause cause).setF PRF_LAST_FAULT.time secs

/-- Module containment: every output gate closes and all request issue is held (R434). -/
def State.containModule (s : State) : State := (s.setF PRF_STATUS.module 1).setF TMG_GATE.module_closed 1

/-- The reset that an L4 event requests (R431). -/
def State.faultReset (s : State) (src : Nat) : State :=
  (s.setF PWR_RESET_CAUSE.l4_source src).beginReset (if s.flag PRF_LEVEL.l4_cold src then .c else .w) (some 6)

/-- A level is acted on (Table 15-2, R434); DARKROOM has no stop bath. -/
def State.actOnLevel (s : State) (src cls level : Nat) (e : ErrEvent) : State :=
  let secs := if (s.pubUnc 0).isNone then 0 else s.taiLow
  let dark := s.mode == mDarkroom
  if level = 2 then
    match e.slice with
    | some g => if dark then s
        else { s with prf := { s.prf with contained := insertNat s.prf.contained g } }.showGates
    | none => s
  else if level = 3 then
    let s1 := s.writeLastFault src cls 3 e.cause secs
    let s2 := { s1 with prf := { s1.prf with standing3 := insertNat s1.prf.standing3 src } }
    if dark then s2 else s2.containModule.enterSafeHold
  else if level = 4 then
    let s1 := s.writeLastFault src cls 4 e.cause secs
    let still := s1.prf.standing4.filter fun (p : Nat × Bool) => p.1 != src
    let s2 := { s1 with prf := { s1.prf with standing4 := still ++ [(src, false)] } }
    (if dark then s2 else s2.containModule).faultReset src
  else s

/-- The event at the head of a source's places leaves them, if it is of the kind. -/
def State.popEvent (s : State) (q : Nat) (fault : Bool) : Option ErrEvent × State :=
  match s.waiting q with
  | e :: rest => if e.fault = fault then (some e, s.setWaiting q rest) else (none, s)
  | [] => (none, s)

/-- FAULT_EVENT (R424, R426–R431, R434): where `ev` is given, the block raises it first. The fault event at the head of
the source's places is presented: latched, recorded, levelled, acted on in the six cycles of the stop bath, and firmware
interrupted. `word` is an uncorrectable word that a unit meets, with its effect there and the event that it raises. `row` is
the row of the uncorrectable word that the event reports, which Retouch schedules (R449). -/
def execFaultEvent (q : Fin 47) (ev : Option ErrEvent) (word : Option BadWord) (row : Option Defect) (s : State) : Res :=
  let sw := match word with
    | some w => s.badWord q.val w
    | none => s
  let s0 := match ev with
    | some e => sw.raiseAs q.val { e with fault := true }
    | none => sw
  match s0.popEvent q.val true with
  | (none, t) => .next t
  | (some e, t) =>
    let src := sourceOfPlaces q.val
    let cls := if e.cls = 1 ∧ e.slice.isNone then 2 else min e.cls 2
    let conf := t.levelFor src cls
    let esc := t.escalated src conf
    let level := if esc = 2 ∧ e.slice.isNone then 3 else esc
    let s1 := (t.recordFault src cls level (decide (conf < esc)) e).emit (.coreIrq 0)
    let s2 := match row with
      | some d => s1.scheduleRow d 3
      | none => s1
    .next (s2.actOnLevel src cls level e).showSafelight

/-- CORRECTED_EVENT (R425, R426): latched in PRF_CORR_LATCH, firmware interrupted where the bit was clear, the row passed to
Retouch. -/
def execCorrectedEvent (q : Fin 47) (ev : Option ErrEvent) (s : State) : Res :=
  let s0 := match ev with
    | some e => s.raiseAs q.val { e with fault := false }
    | none => s
  match s0.popEvent q.val false with
  | (none, t) => .next t
  | (some e, t) =>
    let src := sourceOfPlaces q.val
    let old := t.getF PRF_CORR_LATCH.corrected
    let s1 := if natBit old src then t
      else (t.setF PRF_CORR_LATCH.corrected (natSetBit old src true)).emit (.coreIrq 0)
    .next (s1.trackRow e.row)

/-- FAULT_ACK (R432, R433): a write of PRF_LATCH clears the bits written 1 and their records' valid flags; an L3 that stands
outside SAFE_HOLD and an L4 whose reset has run end with it. The field straddles the halves, so that a 32-bit write leaves it
unchanged (R8). -/
def execFaultAck (init : Nat) (wide upper : Bool) (v : Word) (s : State) : Res :=
  let a := s.blockAccess 0 .write init (if upper && !wide then 4 else 0)
  if !a.2 || !wide then .next a.1
  else
    let old := a.1.getF PRF_LATCH.fault
    let acked (n : Nat) : Bool := natBit old n && natBit v.toNat n
    let bits := (List.range 45).filter acked
    let s1 := bits.foldl (fun t n =>
      (t.setF PRF_LATCH.fault (natSetBit (t.getF PRF_LATCH.fault) n false)).setF PRF_REC.valid 0 n) a.1
    let p := { s1.prf with
      standing3 := if s1.mode = mSafeHold then s1.prf.standing3 else s1.prf.standing3.filter fun n => !bits.contains n
      standing4 := s1.prf.standing4.filter fun x => !(bits.contains x.1 && x.2) }
    .next ({ s1 with prf := p }.showSafelight)

/-- PRF_SLICE_LIFT (R435): lifts the containment of a STOPPED slice that no set PRF_LATCH bit's record names at L2 or
above. -/
def execPrfSliceLift (init : Nat) (slice : BitVec 14) (s : State) : Res :=
  let a := s.blockAccess 0 .write init 0x18
  if !a.2 then .next a.1
  else
    let g := slice.toNat
    let s1 := a.1.setF PRF_SLICE_LIFT.slice g
    let named := (List.range 45).any fun n => natBit (s1.getF PRF_LATCH.fault) n && decide (2 ≤ s1.getF PRF_REC.level n)
      && s1.flag PRF_REC.slice_valid n && s1.getF PRF_REC.slice n == g
    let stopped := match s1.slice? g with
      | some x => decide (x.st = .stopped)
      | none => false
    if !s1.prf.contained.contains g then .next (s1.setF PRF_SLICE_LIFT.result stMalformed)
    else if named || !stopped then .next (s1.setF PRF_SLICE_LIFT.result stRefusedState)
    else
      .next ({ s1 with prf := { s1.prf with contained := s1.prf.contained.filter (· != g) } }.showGates.setF
        PRF_SLICE_LIFT.result stOk)

/-! ### The Safelight (R436–R439) -/

/-- SAFELIGHT_FEED (R437): a feed carries the expected value and turns it over, or is wrong; while the Safelight toggles a
wrong one before the timeout is a fault of PRF. -/
def execSafelightFeed (init : Nat) (v : BitVec 8) (s : State) : Res :=
  let a := s.blockAccess 0 .write init 0x28
  if !a.2 then .next a.1
  else
    let p := a.1.prf
    let good := v.toNat == p.slExpect
    let p' := { p with slTimedOut := false, slWrong := !good, slLastFeed := some a.1.now,
                       slValidFeed := p.slValidFeed || good,
                       slExpect := if good then (if p.slExpect = 0x5A then 0xA5 else 0x5A) else p.slExpect }
    let s1 := { a.1 with prf := p' }
    let s2 := if !good && !p.slTimedOut && s1.flag PRF_STATUS.sl_running then s1.raise 0 (faultM 0x0024) else s1
    .next s2.showSafelight

/-- SAFELIGHT_FEED_TIMEOUT (R437): feed_timeout expires after the last feed; a fault while the Safelight toggles. -/
def execSafelightFeedTimeout (s : State) : Res :=
  match s.prf.slLastFeed with
  | none => .next s
  | some t =>
    if s.prf.slTimedOut then .next s
    else
      let s1 := s.after (t + s.getF PRF_SL_CFG.feed_timeout * msT)
      let s2 := { s1 with prf := { s1.prf with slTimedOut := true } }
      let s3 := if s2.flag PRF_STATUS.sl_running then s2.raise 0 (faultM 0x0024) else s2
      .next s3.showSafelight

/-- A half-period of the Safelight: 70,000 FCLK (R436). -/
def slHalf : Nat := 70000 * fclk

/-- SAFELIGHT_BOUNDARY (R436, R438, R439): at each half-period boundary the output toggles, stops, or starts again; it is not
driven during a C or W reset. A stop sets the expected feed back. -/
def execSafelightBoundary (s : State) : Res :=
  if s.modes.asserted.isSome then .next s
  else
    let s1 := s.after s.prf.slBoundary
    let s2 := { s1 with prf := { s1.prf with slBoundary := s1.prf.slBoundary + slHalf } }
    let running := s2.flag PRF_STATUS.sl_running
    if s2.slStopReason = 0 then
      let lv := if running then !s2.prf.slLevel else true
      .next (({ s2 with prf := { s2.prf with slLevel := lv } }.setF PRF_STATUS.sl_running 1).emit
        (.pin .safelightP lv)).showSafelight
    else if running then
      let p := { s2.prf with slLevel := false, slExpect := 0x5A, slValidFeed := false }
      .next (({ s2 with prf := p }.setF PRF_STATUS.sl_running 0).emit (.pin .safelightP false)).showSafelight
    else .next s2.showSafelight

/-! ### Monitors (R444, R445) -/

/-- CLOCK_DEVIATION (R444). -/
def execClockDeviation (s : State) : Res := .next (s.raise 43 (faultM 0x0022))

/-- PATROL_SCRUB (R445): the scrub reads a word of on-die SRAM (`mem` 0), HBM (1) or MRAM (2) of the block of a source and
finds it whole (0), corrects it (1), or cannot (2), which raises the class A event and schedules the row. HBM is not
scrubbed in STANDBY. -/
def execPatrolScrub (q : Fin 45) (mem found : Fin 3) (unit row : Nat) (s : State) : Res :=
  let d : Defect := ⟨if mem = 2 then 0 else mem.val + 1, unit, row⟩
  if mem = 1 ∧ s.mode = mStandby then .next s
  else if found = 1 then .next (s.raise q.val (correctedAt d))
  else if found = 2 then
    let s1 := s.raise q.val (faultA 0x0002)
    .next (if mem = 2 then s1 else s1.scheduleRow d 3)
  else .next s

/-! ### Retouch (R446–R453) -/

/-- UNIT_FAILURE (R450): a physical unit of kind 3 to 6 meets its run-time criteria. -/
def execUnitFailure (kind : Fin 7) (unit : Nat) (s : State) : Res :=
  if kind.val < 3 then .next s else .next (s.unitFails s.taiLow kind.val unit)

/-- A defect is recorded at boot: its PENDING entry is resolved, one already resolved is kept, a new one takes an entry
unless the log is full (R448). -/
def State.bootRecord (s : State) (d : Defect) (state spare : Nat) : State :=
  if s.logPending d then s.logResolve d state spare
  else if s.logged d then s
  else (s.logAdd ⟨d.kind, state, 1, spare, d.unit, d.row, s.taiLow⟩).1

/-- Spare rows of an SRAM array's section, or repairs of an HBM stack, taken so far. -/
def State.rowsTaken (s : State) (k : Nat) : Nat := Tab.getD 0 s.prf.rowSpares k

/-- The key of the pool of spares that a row draws on: 512 rows of an array (Table 15-5), or an HBM stack. -/
def defectPool (d : Defect) : Nat :=
  if d.kind = 2 then 2 ^ 96 + d.unit / 65536 else d.unit * 2 ^ 32 + d.row / 512

/-- One more spare of a pool is in use. -/
def State.takeRow (s : State) (d : Defect) : State :=
  { s with prf := { s.prf with rowSpares := Tab.put s.prf.rowSpares (defectPool d) (s.rowsTaken (defectPool d) + 1) } }

/-- A unit is found defective: a spare takes its number, or it is left out (R446, R451). -/
def State.bootUnit (s : State) (kind phys : Nat) : State :=
  let s1 := s.markFailed kind phys
  let d : Defect := ⟨kind, phys, 0⟩
  match s1.logicalOf kind phys with
  | none => s1.bootRecord d 2 0xFF
  | some l =>
    match s1.freeSpare kind phys with
    | some x => ((s1.setUnit kind l x).bootRecord d 2 (spareIndex kind x)).raiseRth
    | none => ((s1.setUnit kind l unitAbsent).bootRecord d 3 0xFF).raiseRth

/-- A section is fenced (R451). -/
def State.fence (s : State) : State := s.bump RTH_DEGRADE.fenced

/-- A pipeline is mapped out (R451). -/
def State.pipelineOut (s : State) (p : Nat) : State :=
  s.setF RTH_DEGRADE.pipelines_out (natSetBit (s.getF RTH_DEGRADE.pipelines_out) p true)

/-- A row is found defective at boot, or was scheduled: a spare row replaces it, or what holds it is fenced, mapped out or
retired (R446, R451). -/
def State.bootRow (s : State) (d : Defect) : State :=
  let spares := if d.kind = 2 then Config.hbmRepairs (d.unit / 65536) else 2
  if s.rowsTaken (defectPool d) < spares then ((s.takeRow d).bootRecord d 2 (s.rowsTaken (defectPool d))).raiseRth
  else
    let s1 := (s.bootRecord d 3 0xFF).raiseRth
    if d.kind = 2 then s1.bump RTH_DEGRADE.hbm_retired
    else
      let w := Config.sramPlace d.unit
      if w < 4 then (s1.pipelineOut w).bootRecord ⟨8, w, 0⟩ 3 0xFF
      else if w = 4 then s1.fence.bootRecord ⟨7, d.unit, d.row / 512 * 512⟩ 3 0xFF
      else s1.bootUnit ((w - 5) / 65536) ((w - 5) % 65536)

/-- An entry of the log that an earlier boot resolved is applied again (Table 15-6). -/
def State.reapply (s : State) (e : RepairEntry) : State :=
  if e.state = 2 then
    if e.kind ≤ 2 then s.takeRow ⟨e.kind, e.unit, e.row⟩
    else
      match (s.markFailed e.kind e.unit).logicalOf e.kind e.unit with
      | some l => (s.markFailed e.kind e.unit).setUnit e.kind l ((spareUnits e.kind e.unit).getD e.spare unitAbsent)
      | none => s.markFailed e.kind e.unit
  else if e.state = 3 then
    if e.kind = 2 then s.bump RTH_DEGRADE.hbm_retired
    else if e.kind = 7 then s.fence
    else if e.kind = 8 then s.pipelineOut e.unit
    else if e.kind = 1 then s
    else
      match (s.markFailed e.kind e.unit).logicalOf e.kind e.unit with
      | some l => (s.markFailed e.kind e.unit).setUnit e.kind l unitAbsent
      | none => s.markFailed e.kind e.unit
  else s

/-- One defect is dealt with at boot. -/
def State.bootDefect (s : State) (d : Defect) : State :=
  if d.kind = 1 ∨ d.kind = 2 then s.bootRow d else if d.kind ≤ 6 ∧ 3 ≤ d.kind then s.bootUnit d.kind d.unit else s

/-- The rows that the repair log holds as PENDING. -/
def State.pendingRows (s : State) : List Defect :=
  ((s.prf.log.map Prod.snd).filter fun e => e.state == 1).map fun e => ⟨e.kind, e.unit, e.row⟩

/-- The self-test ends: after 40 ms, and up to 50 ms more for each stack with pending rows. -/
def State.selfTestTime (s : State) : State :=
  let nStacks := ((s.pendingRows.filter fun x => x.kind == 2).map fun x => x.unit / 65536).dedup.length
  let d := s.draw 32
  d.2.after (s.now + 40 * msT + d.1 % (50 * msT * nStacks + 1))

/-- Retouch applies the log, repairs what is PENDING and what the test finds, and shows the outcome. -/
def State.retouchUnits (s : State) (found : List Defect) : State :=
  let clean := { s with prf := { s.prf with unitMap := [], rowSpares := [], failedUnits := [], dueUnits := [] } }
  let s1 := (s.prf.log.map Prod.snd).foldl State.reapply clean
  let new := found.filter fun x => !s1.logged x
  (new.foldl State.bootDefect (s.pendingRows.foldl State.bootDefect s1)).showUnits

/-- The self-test has ended now. -/
def State.markTested (s : State) : State := { s with prf := { s.prf with testedAt := some s.now } }

/-- The start goes on with a phase. -/
def State.setPhase (s : State) (p : BootPhase) : State := { s with modes := { s.modes with phase := p } }

/-- SELF_TEST (R447, R451–R453): at C release Retouch applies the log, repairs what is PENDING and what the test finds, shows
the outcome, and hands over to the ROM after 40 ms, and up to 50 ms more for each stack with pending rows. A defect that nothing covers
in a unit the module cannot run without (`fatal`) stops the boot. -/
def execSelfTest (found : List Defect) (fatal : Bool) (s : State) : Res :=
  if s.modes.phase ≠ .selfTest ∨ s.modes.asserted.isSome then .next s
  else
    let s2 := s.selfTestTime.retouchUnits found
    let s3 := (s2.setF RTH_STATUS.selftest_done 1).setF RTH_STATUS.fatal (b2n fatal)
    let s4 := if s3.flag RTH_STATUS.degraded then s3.raiseRth else s3
    if fatal then .next (s4.markTested.emit (.pin .faultLed true))
    else .next (s4.markTested.setPhase .rom)

/-- SELF_TEST_FATAL_RETRY (R453): after a fatal result a C reset is repeated every 64 s. -/
def execSelfTestFatalRetry (s : State) : Res :=
  match s.prf.testedAt with
  | none => .next s
  | some t =>
    if s.flag RTH_STATUS.fatal then .next ((s.after (t + 64 * secT)).beginReset .c none) else .next s

/-- An entry of the repair log as its 16 bytes (Table 15-7). -/
def RepairEntry.bytes (e : RepairEntry) : List Byte :=
  leBytes 1 e.kind ++ leBytes 1 e.state ++ leBytes 1 e.origin ++ leBytes 1 e.spare ++ leBytes 4 e.unit ++ leBytes 4 e.row
    ++ leBytes 4 e.time

/-- REPAIR_LOG_READ (R448): RTH_LOG_CMD.go copies an entry into RTH_LOG_DATA. -/
def execRepairLogRead (init : Nat) (index : BitVec 12) (s : State) : Res :=
  let a := s.blockAccess 1 .write init 0x18
  if !a.2 then .next a.1
  else
    let b := match Tab.look a.1.prf.log index.toNat with
      | some e => e.bytes
      | none => zeroBytes 16
    let s1 := (a.1.setF RTH_LOG_CMD.index index.toNat).setReg .RTH_LOG_DATA (BitVec.ofNat 64 (leNat (b.take 8))) 0
    .next ((s1.setReg .RTH_LOG_DATA (BitVec.ofNat 64 (leNat (b.drop 8))) 1).setF RTH_LOG_CMD.result stOk)

/-- The set of places that a block injects on: the lowest-numbered of its sources (R526). -/
def injectPlaces (blk : Nat) : Nat :=
  [0, 2, 1, 45, 3, 20, 10, 10, 14, 17, 16, 15, 18, 19, 28, 29, 5, 7, 8, 9, 30, 34, 38, 40, 46, 42].getD blk 0

/-- ERROR_INJECT (R526, X_BLK_ERR_CTL): a 64-bit write of a block's X_BLK_ERR_CTL with inject stores the other fields and, in TEST,
raises the event they build; outside TEST the inject is refused. -/
def execErrorInject (init : Nat) (blk : Fin 26) (v : Word) (s : State) : Res :=
  let off := Reg.windowOffset .X_BLK_ERR_CTL blk.val 0 - blockBase blk.val
  let a := s.blockAccess blk.val .write init off
  if !a.2 then .next a.1
  else
    let s1 := a.1.storeReg (fun _ => true) blk.val off .X_BLK_ERR_CTL blk.val 0 true false v
    if !natBit v.toNat 63 ∨ s1.mode ≠ mTest then .next s1
    else
      let f (x : Fld) : Nat := s1.getF x blk.val
      let cls := min (f X_BLK_ERR_CTL.cls) 2
      .next (s1.raiseAs (injectPlaces blk.val) ⟨s1.flag X_BLK_ERR_CTL.kind blk.val, cls, f X_BLK_ERR_CTL.cause,
        f X_BLK_ERR_CTL.detail, if cls = 1 then some (f X_BLK_ERR_CTL.slice) else none, 0⟩ blk.val)

end Sys2Proof.Machine
end

