-- ==== Sys2Proof/Machine/Rings.lean ====
section
/-! DEFINITION. Rings, index lines and doorbells: the meanings of the ring commands (spec/11). -/

namespace Sys2Proof.Machine

/-! ### Doorbells -/

/-- The ring that holds doorbell `d` of a function's window, or of its slice page for a local slice number (R318). -/
def State.doorbellRing (s : State) (f : Nat) (page : Option Nat) (d : Nat) : Option (Nat × Nat) :=
  let g := match page with
    | none => some none
    | some l => (s.sliceOfLocal f l).map some
  match g with
  | none => none
  | some g =>
    (List.find? (fun p : Nat × Ring => decide (p.2.fn = f ∧ p.2.slice = g ∧ p.2.doorbell = d)) s.rings).map fun p =>
      (p.1 / 65536, p.1 % 65536)

/-- DOORBELL (R318, R319): sets the rung flag of its ring, and re-arms the interrupt of a completion or event ring. A
poisoned doorbell is discarded (R300); one for no ring, or for a ring that is not RUNNING, is counted. -/
def execDoorbell (fn : Nat) (page : Option Nat) (d : Nat) (poisoned : Bool) (s : State) : Res :=
  let reaches := match s.fn? fn with
    | some x => x.memorySpace && !x.d3 && !s.flag HIF_LINK_STATUS.h_reset (s.fnEndpoint fn)
    | none => decide (fn < 0x800)
  if !reaches then .next s
  else
    let s := if 0x800 ≤ fn then (s.touchFn fn).bump HIF_CNT.count (fnLink fn) 0 else s
    if poisoned then .next ((s.aerUncorrectable fn aerPoisoned false []).bump HIF_CNT.count (fnLink fn) 6)
    else
      match s.doorbellRing fn page d with
      | none => .next (s.bump DQM_CNT.count fn 5)
      | some (cls, num) =>
        match s.ring? cls num with
        | none => .next (s.bump DQM_CNT.count fn 5)
        | some r =>
          if r.st = .running then
            let s1 := s.setRing cls num { r with rung := true, armed := if cls = 0 then r.armed else true }
            .next ((if cls = 0 then s1 else s1.maybeSignal cls num false).showLtr (s.fnEndpoint fn))
          else .next (s.bump DQM_CNT.count fn 5)

/-! ### Index lines and fetching -/

/-- Is the fetch of a submission ring held: its completion ring's stash full, Bus Master Enable 0, D3hot, or request
issue held (R320, R330)? -/
def State.fetchHeld (s : State) (r : Ring) : Bool :=
  s.issueHeld r.fn r.slice
    || (match s.ring? 1 r.cq with | some c => decide (16 ≤ c.stash.length) | none => true)
    || (match s.fn? r.fn with | some x => !x.busMaster || x.d3 | none => decide (0x800 ≤ r.fn))

/-- How many entries the next fetch read takes: up to 8, up to P, never across the ring's end (R320). -/
def Ring.fetchCount (r : Ring) : Nat :=
  min 8 (min (idxDiff r.hostIdx r.modIdx) (r.size - r.modIdx % r.size))

/-- The next fetch read of a submission ring is issued, after its window check. -/
def State.issueFetch (s : State) (num : Nat) : State :=
  match s.ring? 0 num with
  | none => s
  | some r =>
    if r.st ≠ .running ∨ r.fetchCount = 0 ∨ s.fetchHeld r then s
    else
      let a := r.base + (r.modIdx % r.size) * 64
      let c := s.dmaCheck r.fn r.slice false a (r.fetchCount * 64)
      if c.2 then (c.1.issueRead r.fn r.slice a (r.fetchCount * 64)).setRing 0 num { r with reads := 1 }
      else c.1.stopRing 0 num stAccessViolation

/-- What a read of a completion or event ring's line does with the C it returns (R317, R330, R333, R335): an overrun stops
the ring; otherwise stashed and held entries that now fit are written, and a ring re-armed by its doorbell that holds
unconsumed entries signals. -/
def State.takeConsumerIndex (s : State) (cls num c : Nat) : State :=
  match s.ring? cls num with
  | none => s
  | some r =>
    if r.size < idxDiff r.modIdx c then (s.bump DQM_CNT.count r.fn 4).stopRing cls num stRingOverrun
    else
      let s1 := s.setRing cls num { r with hostIdx := c, rung := false }
      let s2 := if cls = 1 then s1.drainStash num (r.stash.length + r.unitHeld.length + 1)
        else s1.drainHeld num (r.held.length + 2)
      match s2.ring? cls num with
      | none => s2
      | some r2 => if r.rung && decide (c ≠ r2.modIdx) then s2.maybeSignal cls num true else s2

/-- The host's index as a line read returns it: P of a submission ring, C of the others (Table 11-3). -/
def State.lineIndex (s : State) (r : Ring) (cls given : Nat) : Nat :=
  leNat (s.dmaData r.fn (r.line + (if cls = 0 then 0 else 4)) 4 (leBytes 4 given))

/-- INDEX_LINE_READ (R317, R319, R320): a ring's index line read returns with the host's index, P of a submission ring and
C of the others. The read clears rung as it is issued; a line that its windows deny stops the ring (R322). The read that
ENABLE issued was checked then, and a doorbell since its issue keeps rung set. -/
def execIndexLineRead (cls num idx : Nat) (s : State) : Res :=
  match s.ring? cls num with
  | none => .next s
  | some r =>
    let idx := s.lineIndex r cls idx
    if r.st ≠ .running then .next s
    else if cls = 0 ∧ s.fetchHeld r then .next s
    else if s.issueHeld r.fn r.slice then .next s
    else
      let c := if r.lineRead then (s, true) else s.dmaCheck r.fn r.slice false r.line 64
      if !c.2 then .next (c.1.stopRing cls num stAccessViolation)
      else
        let s1 := if r.lineRead then s else c.1.issueRead r.fn r.slice r.line 64
        if cls = 0 then
          let r1 := { r with hostIdx := idx, rung := r.rung && r.lineRead, lineRead := false }
          if r.size < idxDiff idx r.modIdx then .next ((s1.bump DQM_CNT.count r.fn 4).stopRing 0 num stRingOverrun)
          else .next (((s1.setRing 0 num r1).issueFetch num).showLtr
            (s.fnEndpoint r.fn))
        else .next ((s1.takeConsumerIndex cls num idx).showLtr (s.fnEndpoint r.fn))

/-- STASH_RETRY (R330): a completion ring with a stash rereads its index line. -/
def execStashRetry (num idx : Nat) (s : State) : Res :=
  match s.ring? 1 num with
  | none => .next s
  | some r =>
    if r.st ≠ .running ∨ r.stash.isEmpty ∨ s.issueHeld r.fn r.slice then .next s
    else
      let c := s.dmaCheck r.fn r.slice false r.line 64
      if !c.2 then .next (c.1.stopRing 1 num stAccessViolation)
      else .next ((c.1.issueRead r.fn r.slice r.line 64).takeConsumerIndex 1 num (s.lineIndex r 1 idx))

/-- The status of an entry that is malformed as fetched (R323, R324, Tables 11-5 to 11-8, 4-4, 5-6, 8-5, 8-10, 9-4), if it is. -/
def entryStatus (r : Ring) (e : List Byte) : Option Nat :=
  let b (i : Nat) : Nat := (e.getD i 0).toNat
  if r.kind ≠ 4 ∧ b 0 ≠ r.kind then some stMalformed
  else if r.kind = 1 then
    if b 8 = 0x01 ∨ b 8 = 0x02 then (if r.fn = 0x800 ∧ r.slice = none then none else some stMalformed)
    else if b 8 = 0x10 then (if 1 ≤ b 9 ∧ b 9 ≤ 4 then none else some stMalformed)
    else if b 8 = 0x20 then (if 1 ≤ b 9 ∧ b 9 ≤ 5 then none else some stMalformed)
    else if b 8 = 0x30 then (if 1 ≤ b 9 ∧ b 9 ≤ 9 then none else some stMalformed)
    else some stMalformed
  else if r.kind = 2 then
    let n := leNat (sliceBytes e 16 2)
    if n = 0 then some stLenZero else if 16380 < n then some stMalformed else none
  else if r.kind = 3 then
    if leNat (sliceBytes e 16 4) = 0 then some stLenZero else none
  else if r.kind = 4 then (if 1 ≤ b 0 % 16 ∧ b 0 % 16 ≤ 7 then none else some stMalformed)
  else if r.kind = 5 then (if 1 ≤ b 8 ∧ b 8 ≤ 3 then none else some stMalformed)
  else none

/-- One fetched entry is acted on: a malformed one completes at once, a receive buffer is kept for a packet (R326), any
other waits for its command. -/
def State.takeEntry (s : State) (num i : Nat) (e : List Byte) : State :=
  match s.ring? 0 num with
  | none => s
  | some r =>
    match entryStatus r e with
    | some st =>
      (s.bump DQM_CNT.count r.fn 3).completeEntry num i (r.kind != 4 && natBit (e.getD 1 0).toNat 0) st []
    | none =>
      if r.kind = 3 then
        s.setRing 0 num { r with rxBufs := r.rxBufs ++ [(i, leNat (sliceBytes e 8 8), leNat (sliceBytes e 16 4))] }
      else s

/-- Fetched entries are acted on in index order (R320). -/
def State.takeEntries (s : State) (num i : Nat) : List (List Byte) → State
  | [] => s
  | e :: es => State.takeEntries (s.takeEntry num i e) num (idxAdd i 1) es

/-- ENTRY_FETCH (R320): a fetch read of up to 8 entries completes; C advances over them and they are acted on in index
order, and the next read is issued. -/
def execEntryFetch (num : Nat) (entries : List (List Byte)) (s : State) : Res :=
  match s.ring? 0 num with
  | none => .next s
  | some r =>
    let n := if r.fn < 0x800 then r.fetchCount else entries.length
    if r.st ≠ .running ∨ r.reads = 0 ∨ n = 0 ∨ r.fetchCount < n ∨ s.fetchHeld r then .next s
    else
      let es := (List.range n).map fun k =>
        fitBytes 64 (s.dmaData r.fn (r.base + ((r.modIdx + k) % r.size) * 64) 64 (entries.getD k []))
      let r1 := { r with
        reads := 0
        modIdx := idxAdd r.modIdx n
        fetched := r.fetched ++ (List.range n).map fun k => (idxAdd r.modIdx k, es.getD k []) }
      let s1 := (s.setRing 0 num r1).bump DQM_CNT.count r.fn 0 n
      .next ((s1.takeEntries num r.modIdx es).issueFetch num)

/-- CONSUMER_INDEX_WRITE (R321): an advanced C is written into the index line, at most once per 0.5 µs. -/
def execConsumerIndexWrite (num : Nat) (s : State) : Res :=
  match s.ring? 0 num with
  | none => .next s
  | some r =>
    if r.cWritten = r.modIdx ∨ r.st = .disabled ∨ s.issueHeld r.fn r.slice then .next s
    else
      let s := s.after (r.cWriteAt + usT / 2)
      let c := s.dmaCheck r.fn r.slice true (r.line + 4) 4
      if c.2 then
        .next ((c.1.issueWrite r.fn r.slice (r.line + 4) (leBytes 4 r.modIdx)).setRing 0 num
          { r with cWritten := r.modIdx, cWriteAt := s.now })
      else .next (c.1.stopRing 0 num stAccessViolation)

/-- MODERATION_TIMER (R335): the oldest unsignalled entry of an armed ring has waited mod_time and the ring signals. -/
def execModerationTimer (cls num : Nat) (s : State) : Res :=
  match s.ring? cls num with
  | none => .next s
  | some r =>
    if r.armed && r.irqEn && decide (0 < r.unsig) then
      .next ((s.after (r.oldest + r.modTime * usT)).maybeSignal cls num true)
    else .next s

/-! ### Ring operations (Table 11-12) -/

/-- Does a function reach its ring registers through the management window, where the DQM access table is asked
(R314, R521)? -/
def State.usesWindow (s : State) (f : Nat) : Bool :=
  decide (f < 0x800) || (!fnIsVf f && (fnPf f == 0 || (fnPf f == 2 && s.bifurcated (fnLink f))))
    || (match s.fn? f with | some x => x.personality == .mgmtOnly || x.personality == .virtioNet | none => false)

/-- A ring operation ends with a result; the ring's state, stop status, doorbell and number are shown where the ring is
named (DQM_RING_CMD). -/
def State.ringResult (s : State) (f op status : Nat) (r : Option (Nat × Ring)) : State :=
  let s1 := (s.setF DQM_RING_CMD.op op f).setF DQM_RING_CMD.result status f
  match r with
  | none => s1
  | some (num, r) =>
    let s2 := (s1.setF DQM_RING_CMD.state r.st.code f).setF DQM_RING_CMD.stop_status r.stopStatus f
    if op = 1 ∨ op = 5 then (s2.setF DQM_RING_CMD.doorbell r.doorbell f).setF DQM_RING_CMD.number num f else s2

/-- The access check of a ring operation: a write of DQM_RING_CMD through the management window meets the DQM block's
table (R356); a host function whose registers cannot be reached issues nothing. -/
def State.ringOpAccess (s : State) (f : Nat) : State × Bool :=
  if s.usesWindow f then s.blockAccess 17 .write f 0x30
  else (s, match s.fn? f with | some x => x.personality == .native | none => false)

/-- The ring that operations 2 to 6 act on: the selected class and number, of this function only (R337). -/
def State.selectedRing (s : State) (f : Nat) : Option (Nat × Nat × Ring) :=
  let cls := s.getF DQM_RING_SEL.cls f
  let num := s.getF DQM_RING_SEL.number f
  match s.ring? cls num with
  | some r => if cls < 3 ∧ r.fn = f then some (cls, num, r) else none
  | none => none

/-- The lowest free doorbell of a function's window or of a slice's page (R318, Table 12-1). -/
def State.freeDoorbell (s : State) (f : Nat) (g : Option Nat) : Option Nat :=
  (List.range 256).find? fun d =>
    !s.rings.any fun p => decide (p.2.fn = f ∧ p.2.slice = g ∧ p.2.doorbell = d)

/-- The lowest free ring number of a class. -/
def State.freeRing (s : State) (cls : Nat) : Option Nat :=
  (Tab.freeKey s.rings (ringKey cls 0) (if cls = 2 then 32768 else 65536)).map fun k => k - ringKey cls 0

/-- The reason that CREATE is malformed (Table 11-12), if it is: class, kind, slice, completion ring, a second event ring,
or a ring that a VIRTIO_NET or MGMT_ONLY window does not accept (R521). -/
def State.createMalformed (s : State) (f cls kind : Nat) (bound : Bool) (g : Option Nat) (cq : Nat) : Bool :=
  let limited := match s.fn? f with
    | some x => x.personality == .virtioNet || x.personality == .mgmtOnly
    | none => false
  decide (cls = 3)
    || (decide (cls = 0) && !(decide (1 ≤ kind) && decide (kind ≤ 5)))
    || (bound && g.isNone)
    || (decide (cls = 0) && (match s.ring? 1 cq with
        | some c => !(decide (c.fn = f) && (decide (c.slice = g) || c.slice.isNone))
        | none => true))
    || (decide (cls = 2) && (match g with
        | some g => (s.sliceEventRing g).isSome
        | none => (s.fnEventRing f).isSome))
    || (limited && (bound || (decide (cls = 0) && decide (kind ≠ 1))))

/-- A fresh ring as CREATE records it from the context registers. -/
def State.newRing (s : State) (f cls : Nat) (g : Option Nat) (d : Nat) : Ring :=
  { cls := cls, fn := f, slice := g, localNo := (s.reg .DQM_RING_CTX f 2).bits 42 29,
    kind := (s.reg .DQM_RING_CTX f 2).bits 46 44, cq := (s.reg .DQM_RING_CTX f 2).bits 28 13,
    base := (s.reg .DQM_RING_CTX f 0).bits 63 12 * 4096, line := (s.reg .DQM_RING_CTX f 1).bits 63 6 * 64,
    size := (s.reg .DQM_RING_CTX f 2).bits 63 47, doorbell := d, st := .disabled, modIdx := 0, hostIdx := 0,
    cWritten := 0, cWriteAt := 0, rung := false, lineRead := false, reads := 0, fetched := [], posted := [], rxBufs := [], stash := [],
    unitHeld := [], stalled := false, held := [], lost := 0, evSeq := 0, stopStatus := 0, stopIndex := 0,
    irqEn := natBit (s.reg .DQM_RING_CTX f 3).toNat 31, useStore := natBit (s.reg .DQM_RING_CTX f 3).toNat 30,
    vector := (s.reg .DQM_RING_CTX f 3).bits 29 19, modCount := (s.reg .DQM_RING_CTX f 3).bits 18 11,
    modTime := (s.reg .DQM_RING_CTX f 3).bits 10 0, armed := false, unsig := 0, oldest := 0, irqDue := false }

/-- RING_CREATE (R337): allocates the lowest free ring number and a doorbell and records the context. A slice's ring comes
out of its quota, any other out of the module's pool (R343). -/
def execRingCreate (fn : Nat) (s : State) : Res :=
  let a := s.ringOpAccess fn
  if !a.2 then .next a.1
  else
    let s := a.1
    let cls := s.getF DQM_RING_SEL.cls fn
    let bound := natBit (s.reg .DQM_RING_CTX fn 2).toNat 43
    let g := if bound then s.sliceOfLocal fn ((s.reg .DQM_RING_CTX fn 2).bits 42 29) else none
    let kind := (s.reg .DQM_RING_CTX fn 2).bits 46 44
    if s.createMalformed fn cls kind bound g ((s.reg .DQM_RING_CTX fn 2).bits 28 13) then
      .next (s.ringResult fn 1 stMalformed none)
    else
      let room := match g with
        | some g =>
          match s.slice? g with
          | some sl => decide (s.sliceRings g cls < (if cls = 0 then sl.sqRings else if cls = 1 then sl.cqRings else 1))
          | none => false
        | none => decide (0 < s.getF SLC_POOL.free cls)
      match room, s.freeRing cls, s.freeDoorbell fn g with
      | true, some num, some d =>
        let r := s.newRing fn cls g d
        let s1 := s.setRing cls num r
        let s2 := if g.isNone then s1.setF SLC_POOL.free (s1.getF SLC_POOL.free cls - 1) cls else s1
        .next (s2.ringResult fn 1 stOk (some (num, r)))
      | _, _, _ => .next (s.ringResult fn 1 0x81 none)

/-- Is a ring size one that ENABLE accepts (Table 11-12)? -/
def ringSizeOk (n : Nat) : Bool := [16, 32, 64, 128, 256, 512, 1024, 2048, 4096, 8192, 16384, 32768, 65536].contains n

/-- A ring's state bytes are written into its index line (Table 11-3); a denied write stops the ring (R322). -/
def State.writeLineStatus (s : State) (cls num : Nat) : State :=
  match s.ring? cls num with
  | none => s
  | some r =>
    if s.issueHeld r.fn r.slice then s
    else
      let c := s.dmaCheck r.fn r.slice true (r.line + 8) 8
      if c.2 then c.1.issueWrite r.fn r.slice (r.line + 8) r.lineStatus
      else c.1.stopRing cls num stAccessViolation

/-- The read of a submission ring's index line that ENABLE issues at once (Table 11-12): a line that its windows deny
stops the ring, and where issue is held the read goes out with INDEX_LINE_READ. -/
def State.issueLineRead (s : State) (num : Nat) : State :=
  match s.ring? 0 num with
  | none => s
  | some r =>
    if s.fetchHeld r then s.setRing 0 num { r with lineRead := false, rung := true }
    else
      let c := s.dmaCheck r.fn r.slice false r.line 64
      if c.2 then c.1.issueRead r.fn r.slice r.line 64 else c.1.stopRing 0 num stAccessViolation

/-- The current state of a ring, for a result. -/
def State.shown (s : State) (cls num : Nat) : Option (Nat × Ring) := (s.ring? cls num).map fun r => (num, r)

/-- RING_ENABLE (R337): sets the indices to start_index, arms the ring, clears rung and starts it; a submission ring is
read at once. No ring of a slice that is not RUNNING can be enabled (Table 12-2). -/
def execRingEnable (fn : Nat) (s : State) : Res :=
  let a := s.ringOpAccess fn
  if !a.2 then .next a.1
  else
    let s := a.1
    match s.selectedRing fn with
    | none => .next (s.ringResult fn 2 stMalformed none)
    | some (cls, num, r) =>
      if !ringSizeOk r.size then .next (s.ringResult fn 2 stMalformed (some (num, r)))
      else
        let bme := match s.fn? fn with | some x => x.busMaster | none => true
        let cqUp := decide (cls ≠ 0) || (match s.ring? 1 r.cq with | some c => decide (c.st = .running) | none => false)
        let slUp := match r.slice with | some g => s.sliceRunning g | none => true
        if (r.st == .disabled || r.st == .stopped) && bme && cqUp && slUp then
          let i := (s.reg .DQM_RING_CTX fn 3).bits 63 32
          let r1 := { r with st := .running, modIdx := i, hostIdx := i, cWritten := i, armed := true, rung := false,
                             lineRead := decide (cls = 0), reads := 0, stopStatus := 0, unsig := 0, irqDue := false }
          let s1 := (s.setRing cls num r1).writeLineStatus cls num
          let s2 := if cls = 0 then s1.issueLineRead num else s1
          .next (s2.ringResult fn 2 stOk (s2.shown cls num))
        else .next (s.ringResult fn 2 stRefusedState (some (num, r)))

/-- RING_DISABLE (R331, R337): a submission ring stops fetching and drains; a completion or event ring is disabled and its
stash discarded, unless a bound submission ring still runs or drains. -/
def execRingDisable (fn : Nat) (s : State) : Res :=
  let a := s.ringOpAccess fn
  if !a.2 then .next a.1
  else
    let s := a.1
    match s.selectedRing fn with
    | none => .next (s.ringResult fn 3 stMalformed none)
    | some (cls, num, r) =>
      if cls = 0 then
        let st := if r.fetched.isEmpty then RingState.disabled else .draining
        let s1 := s.setRing 0 num { r with st := st, rung := false, lineRead := false, reads := 0 }
        let s2 := s1.writeLineStatus 0 num
        .next (s2.ringResult fn 3 stOk (s2.shown 0 num))
      else if cls = 1 ∧ s.rings.any (fun p => decide (p.1 / 65536 = 0 ∧ p.2.cq = num
          ∧ (p.2.st = .running ∨ p.2.st = .draining))) then
        .next (s.ringResult fn 3 stRefusedState (some (num, r)))
      else
        let n := r.stash.length + r.unitHeld.length
        let s1 := s.bump DQM_CNT.count fn 9 n
        let s2 := (s1.setRing cls num { r with st := .disabled, rung := false, stash := [], unitHeld := [],
                                               stalled := false, armed := false }).writeLineStatus cls num
        .next (s2.ringResult fn 3 stOk (s2.shown cls num))

/-- RING_DRAINED (R337): a DRAINING submission ring whose last fetched entry has completed becomes DISABLED. -/
def execRingDrained (num : Nat) (s : State) : Res :=
  match s.ring? 0 num with
  | none => .next s
  | some r =>
    if r.st = .draining ∧ r.fetched.isEmpty then
      .next ((s.setRing 0 num { r with st := .disabled }).writeLineStatus 0 num)
    else .next s

/-- A ring is removed. A ring of no slice returns its unit to the pool, and so does one of a slice above its shrunken
quota (R343, R345). -/
def State.removeRing (s : State) (cls num : Nat) : State :=
  match s.ring? cls num with
  | none => s
  | some r =>
    let s1 := { s with rings := Tab.del s.rings (ringKey cls num) }
    match r.slice with
    | none => s1.poolAdd cls 1
    | some g =>
      let quota := match s.slice? g with
        | some x => if cls = 0 then x.sqRings else if cls = 1 then x.cqRings else 1
        | none => 0
      if quota < s.sliceRings g cls then s1.poolAdd cls 1 else s1

/-- RING_DESTROY (R337): frees a DISABLED ring, its number and its doorbell; a completion ring that a submission ring
still names is refused. -/
def execRingDestroy (fn : Nat) (s : State) : Res :=
  let a := s.ringOpAccess fn
  if !a.2 then .next a.1
  else
    let s := a.1
    match s.selectedRing fn with
    | none => .next (s.ringResult fn 4 stMalformed none)
    | some (cls, num, r) =>
      let named := decide (cls = 1) && s.rings.any fun p => decide (p.1 / 65536 = 0 ∧ p.2.cq = num)
      if r.st = .disabled ∧ named = false then .next ((s.removeRing cls num).ringResult fn 4 stOk (some (num, r)))
      else .next (s.ringResult fn 4 stRefusedState (some (num, r)))

/-- RING_QUERY (R337): loads a ring's context into DQM_RING_CTX and its indices into DQM_RING_IDX. -/
def execRingQuery (fn : Nat) (s : State) : Res :=
  let a := s.ringOpAccess fn
  if !a.2 then .next a.1
  else
    let s := a.1
    match s.selectedRing fn with
    | none => .next (s.ringResult fn 5 stMalformed none)
    | some (_, num, r) =>
      let w2 := r.size % 2 ^ 17 * 2 ^ 47 + r.kind % 8 * 2 ^ 44 + b2n r.slice.isSome * 2 ^ 43 + r.localNo % 2 ^ 14 * 2 ^ 29
        + r.cq % 2 ^ 16 * 2 ^ 13
      let w3 := s.getF ⟨.DQM_RING_CTX, 63, 32, .rw, .s⟩ fn 3 * 2 ^ 32 + b2n r.irqEn * 2 ^ 31 + b2n r.useStore * 2 ^ 30
        + r.vector % 2 ^ 11 * 2 ^ 19 + r.modCount % 256 * 2 ^ 11 + r.modTime % 2 ^ 11
      let s1 := (((s.setReg .DQM_RING_CTX (BitVec.ofNat 64 r.base) fn 0).setReg .DQM_RING_CTX (BitVec.ofNat 64 r.line) fn 1
        ).setReg .DQM_RING_CTX (BitVec.ofNat 64 w2) fn 2).setReg .DQM_RING_CTX (BitVec.ofNat 64 w3) fn 3
      let s2 := (s1.setF DQM_RING_IDX.module_index r.modIdx fn).setF DQM_RING_IDX.host_index r.hostIdx fn
      .next (s2.ringResult fn 5 stOk (some (num, r)))

/-- RING_MODIFY_IRQ (R337): replaces the interrupt settings of a completion or event ring. -/
def execRingModifyIrq (fn : Nat) (s : State) : Res :=
  let a := s.ringOpAccess fn
  if !a.2 then .next a.1
  else
    let s := a.1
    match s.selectedRing fn with
    | none => .next (s.ringResult fn 6 stMalformed none)
    | some (cls, num, r) =>
      if cls = 0 then .next (s.ringResult fn 6 stMalformed (some (num, r)))
      else
        let w := s.reg .DQM_RING_CTX fn 3
        let r1 := { r with irqEn := natBit w.toNat 31, useStore := natBit w.toNat 30, vector := w.bits 29 19,
                           modCount := w.bits 18 11, modTime := w.bits 10 0 }
        .next ((s.setRing cls num r1).ringResult fn 6 stOk (some (num, r1)))

end Sys2Proof.Machine
end

