-- ==== Sys2Proof/Machine/Slices.lean ====
section
/-! DEFINITION. Slices and per-master access tables: the meanings of the slice and access-table commands (spec/12). -/

namespace Sys2Proof.Machine

/-! ### Slice commands (Table 12-3) -/

/-- Word di of the command data. -/
def State.slcData (s : State) (i : Nat) : Word := s.reg .SLC_CMD_DATA i

/-- A write of SLC_CMD with go: its access check, its fields, and the owner's check (R346). `none`: the command is at an
end, in the state given; `some`: the command runs there. -/
def State.slcBegin (s : State) (init op g : Nat) : State × Bool :=
  let a := s.blockAccess 18 .write init 0x0
  if !a.2 then (a.1, false)
  else
    let s1 := (a.1.setF SLC_CMD.op op).setF SLC_CMD.slice g
    if s1.isOwner init then (s1, true) else (s1.setF SLC_CMD.result stRefusedState, false)

/-- A slice command completes. -/
def State.slcEnd (s : State) (status : Nat) : Res := .next (s.setF SLC_CMD.result status)

/-- The initiator identifier of the function that d0 names: link, PF, is_vf and VF index under the PF (Table 12-7); one that no
function has for an index that the PF does not offer. -/
def State.slcFunction (s : State) (d0 : Word) : Nat :=
  let l := 0x800 + d0.bits 63 63 * 0x400
  let pf := d0.bits 62 61
  if d0.bits 60 60 = 1 then
    let before := ((List.range pf).map fun k => ((s.fn? (l + k)).map FnSt.totalVfs).getD 0).sum
    if d0.bits 59 51 < ((s.fn? (l + pf)).map FnSt.totalVfs).getD 0 then l + 0x10 + before + d0.bits 59 51 else 0x1000
  else l + pf

/-- Is a function present and NATIVE? -/
def State.isNative (s : State) (f : Nat) : Bool :=
  match s.fn? f with
  | some x => x.personality == .native
  | none => false

/-- The quotas that d1 to d3 grant. -/
def State.slcQuotas (s : State) (x : SliceRec) : SliceRec :=
  { x with
    sqRings := (s.slcData 1).bits 63 48, cqRings := (s.slcData 1).bits 47 32, keySlots := (s.slcData 1).bits 31 16,
    endpoints := (s.slcData 1).bits 15 0, regions := (s.slcData 2).bits 63 44, queues := (s.slcData 2).bits 43 27,
    fltEntries := (s.slcData 2).bits 26 4, bufferKib := (s.slcData 3).bits 63 44, bw := (s.slcData 3).bits 43 16 }

/-- SLICE_CREATE (R346): binds the function, local number and PASID, grants the quotas from the pools, and leaves the
slice STOPPED with an empty window set. -/
def execSliceCreate (init slice : Nat) (s : State) : Res :=
  let b := s.slcBegin init 1 slice
  if !b.2 then .next b.1
  else
    let s := b.1
    let d0 := s.slcData 0
    let f := s.slcFunction d0
    let l := d0.bits 50 37
    let pasid := d0.bits 19 0
    let pages := ((s.fn? f).map FnSt.pages).getD 0
    if (s.slice? slice).isSome then s.slcEnd stRefusedState
    else if !s.isNative f || decide (pages ≤ l)
        || s.slc.slices.any fun p => decide (p.2.fn = f ∧ (p.2.localNo = l ∨ p.2.pasid = pasid)) then
      s.slcEnd stMalformed
    else
      let fresh : SliceRec :=
        { st := .stopped, fn := f, localNo := l, pasid := pasid, sqRings := 0, cqRings := 0,
          keySlots := 0, endpoints := 0, regions := 0, queues := 0, fltEntries := 0, bufferKib := 0, bw := 0,
          windows := [], store := [], storePending := [], seq := none, badWord := false }
      let x := s.slcQuotas fresh
      if (allPooled.all fun k => decide (x.quota k ≤ s.pool k.pool)) && decide (1 ≤ s.pool 2) && decide (1 ≤ s.pool 7) then
        let s1 := allPooled.foldl (fun t k => t.poolSub k.pool (x.quota k)) s
        (((s1.poolSub 2 1).poolSub 7 1).setSlice slice x).showGates.slcEnd stOk
      else s.slcEnd 0x81

/-- SLICE_START (R346): a STOPPED slice becomes RUNNING and its gates open, unless its function's PASID Enable or Bus Master
Enable is 0, its page is gone, or it is contained (R342, R354). -/
def execSliceStart (init slice : Nat) (s : State) : Res :=
  let b := s.slcBegin init 2 slice
  if !b.2 then .next b.1
  else
    let s := b.1
    match s.slice? slice with
    | none => s.slcEnd stRefusedState
    | some x =>
      let ok := match s.fn? x.fn with
        | some fs => fs.pasidEnable && fs.busMaster && fs.personality == .native && decide (x.localNo < fs.pages)
        | none => false
      if x.st = .stopped ∧ ok = true ∧ s.prf.contained.contains slice = false then
        (s.setSlice slice { x with st := .running }).showGates.slcEnd stOk
      else s.slcEnd stRefusedState

/-- SLICE_RESET (R346, R350): starts the reset sequence of a RUNNING or STOPPED slice. -/
def execSliceReset (init slice : Nat) (s : State) : Res :=
  let b := s.slcBegin init 3 slice
  if !b.2 then .next b.1
  else
    let s := b.1
    match s.slice? slice with
    | none => s.slcEnd stRefusedState
    | some x =>
      if x.st ≠ .running ∧ x.st ≠ .stopped then s.slcEnd stRefusedState
      else if 64 ≤ s.seqCount then s.slcEnd 0x80
      else (s.sliceClose slice .resetting).slcEnd stOk

/-- SLICE_DESTROY (R346, R347, R353): as RESET, followed by removal; a running reset sequence turns into a removal. -/
def execSliceDestroy (init slice : Nat) (s : State) : Res :=
  let b := s.slcBegin init 4 slice
  if !b.2 then .next b.1
  else
    let s := b.1
    match s.slice? slice with
    | none => s.slcEnd stRefusedState
    | some x =>
      if x.st = .resetting then (s.setSlice slice { x with st := .removing }).slcEnd stOk
      else if x.st ≠ .running ∧ x.st ≠ .stopped then s.slcEnd stRefusedState
      else if 64 ≤ s.seqCount then s.slcEnd 0x80
      else (s.sliceClose slice .removing).slcEnd stOk

/-- SLICE_RESIZE (R345): replaces every quota in one step, if the pools supply every growth; a shrunken quota returns
at once what is not in use. -/
def execSliceResize (init slice : Nat) (s : State) : Res :=
  let b := s.slcBegin init 5 slice
  if !b.2 then .next b.1
  else
    let s := b.1
    match s.slice? slice with
    | none => s.slcEnd stRefusedState
    | some x =>
      if x.st ≠ .running ∧ x.st ≠ .stopped then s.slcEnd stRefusedState
      else
        let y := s.slcQuotas x
        let have_ (k : Pooled) : Nat := s.pool k.pool + s.reserved slice x k
        if allPooled.all fun k => decide (s.reserved slice y k ≤ have_ k) then
          let s1 := allPooled.foldl (fun t k => t.setF SLC_POOL.free (have_ k - s.reserved slice y k) k.pool) s
          (s1.setSlice slice y).slcEnd stOk
        else s.slcEnd 0x81

/-- SET_WINDOW (R348): writes one DMA window of the slice, or of the function that d0 names when its func bit is 1. A
slice's uncorrectable window set is whole again when it is rewritten (R363). -/
def execSetWindow (init slice : Nat) (s : State) : Res :=
  let b := s.slcBegin init 6 slice
  if !b.2 then .next b.1
  else
    let s := b.1
    let d0 := s.slcData 0
    let first := (s.slcData 1).bits 63 12
    let last := (s.slcData 2).bits 63 12
    let put (t : Tab (Bool × Bool × Nat × Nat)) : Tab (Bool × Bool × Nat × Nat) :=
      if d0.bits 32 32 = 1 then Tab.put t (d0.bits 35 33) (d0.bits 31 31 == 1, d0.bits 30 30 == 1, first, last)
      else Tab.del t (d0.bits 35 33)
    if last < first then s.slcEnd stMalformed
    else if d0.bits 36 36 = 1 then
      match s.fn? (s.slcFunction d0) with
      | some x => (s.setFn (s.slcFunction d0) { x with windows := put x.windows }).slcEnd stOk
      | none => s.slcEnd stMalformed
    else
      match s.slice? slice with
      | some x =>
        if x.st = .running ∨ x.st = .stopped then
          (s.setSlice slice { x with windows := put x.windows, badWord := false }).slcEnd stOk
        else s.slcEnd stRefusedState
      | none => s.slcEnd stRefusedState

/-- The code of a slice state (Table 12-2). -/
def SliceState.code : SliceState → Nat
  | .free => 0
  | .stopped => 1
  | .running => 2
  | .resetting => 3
  | .removing => 4

/-- SLICE_QUERY (R346, Table 12-4): fills d0 to d3 with the binding, the state, and the quotas or, when d0[36] asks, their
use. A FREE identifier reads state 0. -/
def execSliceQuery (init slice : Nat) (s : State) : Res :=
  let b := s.slcBegin init 7 slice
  if !b.2 then .next b.1
  else
    let s := b.1
    let useBit := (s.slcData 0).bits 36 36
    match s.slice? slice with
    | none =>
      let s1 := (s.setReg .SLC_CMD_DATA (BitVec.ofNat 64 (useBit * 2 ^ 36)) 0).setReg .SLC_CMD_DATA 0 1
      ((s1.setReg .SLC_CMD_DATA 0 2).setReg .SLC_CMD_DATA 0 3).slcEnd stOk
    | some x =>
      let vf := fnIsVf x.fn
      let pf := if vf then s.parentPf x.fn else fnPf x.fn
      let l := x.fn / 0x400 * 0x400
      let before := ((List.range pf).map fun k => ((s.fn? (l + k)).map FnSt.totalVfs).getD 0).sum
      let d0 := fnLink x.fn * 2 ^ 63 + pf * 2 ^ 61 + b2n vf * 2 ^ 60
        + (if vf then x.fn % 0x400 - 0x10 - before else 0) % 512 * 2 ^ 51 + x.localNo * 2 ^ 37 + useBit * 2 ^ 36
        + x.st.code * 2 ^ 33 + x.pasid
      let v (k : Pooled) : Nat := if useBit = 1 then s.sliceUse slice k else x.quota k
      let flt := if useBit = 1 then s.sliceFltUse slice else x.fltEntries
      let buf := if useBit = 1 then ceilDiv (s.sliceBufferUse slice) 1024 else x.bufferKib
      let bw := if useBit = 1 then s.sliceBwUse slice else x.bw
      let d1 := v .sqRings * 2 ^ 48 + v .cqRings * 2 ^ 32 + v .keySlots * 2 ^ 16 + v .endpoints
      let d2 := v .regions * 2 ^ 44 + v .queues * 2 ^ 27 + flt % 2 ^ 23 * 2 ^ 4
      let d3 := buf % 2 ^ 20 * 2 ^ 44 + bw % 2 ^ 28 * 2 ^ 16
      let s1 := (s.setReg .SLC_CMD_DATA (BitVec.ofNat 64 d0) 0).setReg .SLC_CMD_DATA (BitVec.ofNat 64 d1) 1
      ((s1.setReg .SLC_CMD_DATA (BitVec.ofNat 64 d2) 2).setReg .SLC_CMD_DATA (BitVec.ofNat 64 d3) 3).slcEnd stOk

/-! ### The reset sequence (Table 12-5) -/

/-- SLICE_BLOCK_DRAINED (R350, Table 12-6): a block (0 DQM, 1 TMG, 2 DRT, 3 CPH, 4 NVE) has drained or squashed the
slice's work and reports; `degraded` says that it met an uncorrectable word. DQM does not report while it holds fetched entries of the
slice. In SAFE_HOLD the sequence is paused. -/
def execSliceBlockDrained (slice : Nat) (blk : Fin 5) (degraded : Bool) (s : State) : Res :=
  match s.slice? slice with
  | none => .next s
  | some x =>
    match x.seq with
    | none => .next s
    | some q =>
      if q.step ≠ 2 ∨ q.drained.contains blk.val ∨ s.mode = mSafeHold ∨ (blk.val = 0 ∧ s.sliceFetched slice) then .next s
      else
        let s1 := s.sliceDrain slice blk.val
        let q1 := { q with drained := insertNat q.drained blk.val, lastReport := s.now,
                           degraded := q.degraded || degraded,
                           step := if q.drained.length + 1 = 5 then 3 else 2 }
        match s1.slice? slice with
        | none => .next s1
        | some x1 => .next (s1.setSlice slice { x1 with seq := some q1 })

/-- SLICE_SILENCE_DONE (R350 step 3): 2 µs after the last report the slice's unissued requests are gone, and its rings and
interrupt messages are cleared (step 4). -/
def execSliceSilenceDone (slice : Nat) (s : State) : Res :=
  match s.slice? slice with
  | none => .next s
  | some x =>
    match x.seq with
    | none => .next s
    | some q =>
      if q.step ≠ 3 ∨ s.mode = mSafeHold then .next s
      else
        let s1 := (s.after (q.lastReport + 2 * usT)).sliceClear slice
        match s1.slice? slice with
        | none => .next s1
        | some x1 => .next (s1.setSlice slice { x1 with seq := some { q with step := 4 } })

/-- SLICE_RESET_END (R350 step 5): the clear step ends; the slice is STOPPED and a record goes to SLC_DONE, or its removal
begins. -/
def execSliceResetEnd (slice : Nat) (s : State) : Res :=
  match s.slice? slice with
  | none => .next s
  | some x =>
    match x.seq with
    | none => .next s
    | some q =>
      if q.step ≠ 4 ∨ s.mode = mSafeHold then .next s
      else if x.st = .removing then .next (s.setSlice slice { x with seq := some { q with step := 5 } })
      else
        let s1 := s.setSlice slice { x with st := .stopped, seq := none }
        .next (s1.showGates.postDone slice false (if q.degraded then stDegraded else stOk))

/-- SLICE_REMOVAL_DONE (R353): rings, endpoints, regions and key slots of the slice are freed, its FLT entries deleted,
its quotas returned to the pools; the identifier is FREE and SLC_DONE receives a record. Its containment ends (R435). -/
def execSliceRemovalDone (slice : Nat) (s : State) : Res :=
  match s.slice? slice with
  | none => .next s
  | some x =>
    match x.seq with
    | none => .next s
    | some q =>
      if q.step ≠ 5 then .next s
      else .next ((s.sliceRemove slice).postDone slice true (if q.degraded then stDegraded else stOk))

/-! ### Access tables -/

/-- A write of ACT_CMD with go: its access check and its op field. -/
def State.actBegin (s : State) (init op : Nat) : State × Bool :=
  let a := s.blockAccess 25 .write init 0x18
  if a.2 then (a.1.setF ACT_CMD.op op, true) else (a.1, false)

/-- ACT_WRITE (R360): commits both words of the selected rule in one FCLK; a reserved target is MALFORMED and a sealed one
refused. -/
def execActWrite (init : Nat) (s : State) : Res :=
  let b := s.actBegin init 1
  if !b.2 then .next b.1
  else
    let s := b.1
    let t := s.getF ACT_SEL.target
    let k := t * 32 + s.getF ACT_SEL.rule
    if 35 < t then .next (s.setF ACT_CMD.result stMalformed)
    else if natBit (s.getF ACT_SEAL.sealed) t then .next (s.setF ACT_CMD.result stRefusedState)
    else
      let w := (s.reg .ACT_RULE 0, s.reg .ACT_RULE 1)
      let d := (actDefaults t).getD (s.getF ACT_SEL.rule) (0, 0)
      let slc := { s.slc with rules := Tab.setD d s.slc.rules k w, badRules := s.slc.badRules.filter (· != k) }
      .next ({ s with slc := slc }.setF ACT_CMD.result stOk)

/-- ACT_READ (R360): reads the selected rule into ACT_RULE. -/
def execActRead (init : Nat) (s : State) : Res :=
  let b := s.actBegin init 2
  if !b.2 then .next b.1
  else
    let s := b.1
    let t := s.getF ACT_SEL.target
    if 35 < t then .next (s.setF ACT_CMD.result stMalformed)
    else
      let w := s.ruleAt t (s.getF ACT_SEL.rule)
      .next (((s.setReg .ACT_RULE w.1 0).setReg .ACT_RULE w.2 1).setF ACT_CMD.result stOk)

/-- ACT_SEAL_WRITE (R360): each 1 seals its target until the next P, C or W reset. A 32-bit write reaches no bit of the
sealed field, which straddles the halves (R8). -/
def execActSealWrite (init : Nat) (wide : Bool) (v : Nat) (s : State) : Res :=
  let a := s.blockAccess 25 .write init 0x20
  if !a.2 then .next a.1
  else if wide then .next (a.1.setF ACT_SEAL.sealed (a.1.getF ACT_SEAL.sealed ||| (v % 2 ^ 36)))
  else .next a.1

/-- ACT_LOG_POP (R359): removes the head record of the denial log. -/
def execActLogPop (init : Nat) (s : State) : Res :=
  let a := s.blockAccess 25 .write init 0x50
  if !a.2 then .next a.1
  else .next { a.1 with slc := { a.1.slc with denials := a.1.slc.denials.drop 1 } }.showDenials

end Sys2Proof.Machine
end

