-- ==== Sys2Proof/Machine/Tables.lean ====
section
/-! DEFINITION. The meanings of the table commands, of ageing, learning and the flow table's stores (spec/05). -/

namespace Sys2Proof.Machine

/-- INSERT (R137, R144). -/
def execTblInsert (o : Origin) (blk : Fin 4) (w : Word) (img : List Byte) (s : State) : Res :=
  .next (s.tableCommand 1 o blk.val w img)

/-- DELETE (R142, R144). -/
def execTblDelete (o : Origin) (blk : Fin 4) (w : Word) (img : List Byte) (s : State) : Res :=
  .next (s.tableCommand 2 o blk.val w img)

/-- MODIFY (R144). -/
def execTblModify (o : Origin) (blk : Fin 4) (w : Word) (img : List Byte) (s : State) : Res :=
  .next (s.tableCommand 3 o blk.val w img)

/-- RETAG (R144). -/
def execTblRetag (o : Origin) (blk : Fin 4) (w : Word) (img : List Byte) (s : State) : Res :=
  .next (s.tableCommand 4 o blk.val w img)

/-- LOOKUP (R144). -/
def execTblLookup (o : Origin) (blk : Fin 4) (w : Word) (img : List Byte) (s : State) : Res :=
  .next (s.tableCommand 5 o blk.val w img)

/-- READ_POS (R144). -/
def execTblReadPos (o : Origin) (blk : Fin 4) (w : Word) (s : State) : Res :=
  .next (s.tableCommand 6 o blk.val w [])

/-- DELETE_POS (R144). -/
def execTblDeletePos (o : Origin) (blk : Fin 4) (w : Word) (s : State) : Res :=
  .next (s.tableCommand 7 o blk.val w [])

/-- HASH_SEED_WRITE (R128): class D, accepted only while the data path is held; an accepted change frees every entry of
the table. -/
def execHashSeedWrite (init : Nat) (flt wide upper : Bool) (v : Word) (s : State) : Res :=
  let blk := if flt then 11 else 8
  let r : Reg := if flt then .FLT_HASH_SEED else .EML_HASH_SEED
  let off := if upper && !wide then 0x84 else 0x80
  let a := s.blockAccess blk .write init off
  if !a.2 then .next a.1
  else
    let s1 := a.1.storeReg (fun _ => true) blk off r 0 0 wide upper v
    if s1.reg r = a.1.reg r then .next s1 else .next (s1.clearHashTable (if flt then 4 else 0))

/-- OVERFLOW_PROMOTION (R141): the scan visits an overflow position whose home bucket has a free way and relocates the
entry to the lowest one. -/
def execOverflowPromotion (flt : Bool) (pos : Nat) (s : State) : Res :=
  let t := if flt then 4 else 0
  let e := s.entry t pos
  if isOvf pos = false ∨ e = 0 ∨ s.posBad t pos ∨ s.modes.dReset.isSome then .next s
  else
    match (s.homeWays t (imgKey t e)).find? (s.wayFree t) with
    | some p => .next (s.relocate t pos p 0).showTables
    | none => .next s

/-- One entry met by the ager (R148): idle grows, and at 2 the entry expires as the mode selects. -/
def State.ageEntry (s : State) (t mode : Nat) (pos e : Nat) : State :=
  let idle := s.idleOf t pos
  if imgStatic t e ∨ (t = 4 ∧ natBit e 506 = false) then s
  else if idle < 2 then s.setIdle t pos (idle + 1)
  else if idle = 2 then
    let h := (s.hashes t (imgKey t e)).1
    let body := tblBody t 0 0 0 pos (imgKey t e) h 0
    let s1 := if mode = 0 then s else s.bump X_CNT.count (tblBlk t) 8
    let s2 := if mode = 2 ∨ mode = 3 then s1.tblEvent 0x44 body else s1
    if mode = 1 ∨ mode = 2 then
      let s3 := s2.writeEntry t pos 0
      if t = 4 then s3.setIdle 4 pos 0 else s3
    else s2.setIdle t pos 3
  else s

/-- AGER_PASS (R148, R149): one pass over EML or FLT, every age_time / 2; none while age_time is 0, and in STANDBY none over FLT. -/
def execAgerPass (flt : Bool) (s : State) : Res :=
  let t := if flt then 4 else 0
  let b := if flt then 3 else 0
  let p := s.getF X_AGE_CFG.age_time b
  if p = 0 ∨ (flt ∧ s.mode = mStandby) then .next s
  else
    let s1 := s.after (if flt then s.tbl.ageF else s.tbl.ageE)
    let s2 := (s1.tab t).foldl (fun u q => u.ageEntry t (s.getF X_AGE_CFG.mode b) q.1 q.2) s1
    let next := s1.now + p * msT / 2
    let tb := if flt then { s2.tbl with ageF := next } else { s2.tbl with ageE := next }
    .next { s2 with tbl := tb }.showTables

/-! ### Learning (R150–R157) -/

/-- The learn timebase in units of 1,024 FCLK, modulo 2^21 (R152). -/
def State.learnNow (s : State) : Nat := s.fnow / 1024 % 2 ^ 21

/-- The member byte of a table event: source and cascade member (R156). -/
def memberByte (src cas : Nat) : Nat := src % 16 + cas % 4 * 16

/-- A notification, deduplicated over 1 µs (R154): the earlier one of the same key and source suppresses it, one of
another source is named as first with the conflict flag. -/
def State.learnNotify (s : State) (e : LearnEv) : State :=
  let me := memberByte e.src e.cas
  let recent := s.tbl.emlNotes.filter fun n => n.1 == e.key && decide (s.fnow ≤ n.2.2 + 1400)
  if recent.any fun n => n.2.1 == me then s.bump X_CNT.count 0 7
  else
    let notes := (s.tbl.emlNotes ++ [(e.key, me, s.fnow)]).drop (s.tbl.emlNotes.length + 1 - 512)
    let s1 := { s with tbl := { s.tbl with emlNotes := notes } }
    match recent.getLast? with
    | some n => s1.tblEvent 0x43 (tblBody 0 1 n.2.1 me 0 e.key 0 0)
    | none => s1.tblEvent 0x43 (tblBody 0 0 me 0 0 e.key 0 0)

/-- A learned EML image. -/
def State.learnedImage (s : State) (key src cas : Nat) : Nat :=
  2 ^ 128 + 2 ^ 126 + 2 ^ 121 + 2 ^ 118 + s.learnNow * 2 ^ 97 + src * 2 ^ 93 + cas % 4 * 2 ^ 91
    + s.getF EML_MEMBER_CFG.action src * 2 ^ 64 + key

/-- The count and limit of a member. -/
def State.memberFull (s : State) (src : Nat) : Bool :=
  decide (s.getF EML_MEMBER_CFG.limit src ≤ s.getF EML_MEMBER_CFG.count src)

/-- The learning of one event in hardware mode (R152). -/
def State.learnHw (s : State) (e : LearnEv) : State :=
  let cnt (u : State) (k : Nat) := u.bump X_CNT.count 0 k
  match s.tbl.eml.find? fun p => imgKey 0 p.2 == e.key && imgVis 0 p.2 == 1 with
  | none =>
    if s.memberFull e.src then cnt s 5
    else
      let v := s.learnedImage e.key e.src e.cas
      if s.imgClash 0 v 0 none then cnt s 14
      else
        match s.hashInsert 0 v (s.flag EML_LEARN_CFG.evict) with
        | (none, s1) => cnt s1 11
        | (some p, s1) =>
          let s2 := (cnt s1 1).showTables
          if s2.flag EML_LEARN_CFG.notify_hw then
            s2.tblEvent 0x40 (tblBody 0 0 (memberByte e.src e.cas) 0 p e.key 0 0)
          else s2
  | some (p, v) =>
    let old := memberByte (nbits v 96 93) (nbits v 92 91)
    let me := memberByte e.src e.cas
    if old = me then s
    else if natBit v 122 then cnt s 4
    else if natBit v 118 && decide ((s.learnNow + 2 ^ 21 - nbits v 117 97) % 2 ^ 21 < s.getF EML_LEARN_CFG.move_hold) then
      (cnt s 3).tblEvent 0x42 (tblBody 0 0 old me p e.key 0 (nbits v 117 97))
    else if s.memberFull e.src then cnt s 5
    else
      let v1 := nset (nset (nset (nset v 96 93 e.src) 92 91 e.cas) 79 64 (s.getF EML_MEMBER_CFG.action e.src)) 118 118 1
      let v2 := nset (nset (nset v1 117 97 s.learnNow) 121 121 1) 128 128 1
      ((cnt (s.writeEntry 0 p v2) 2).showTables).tblEvent 0x41 (tblBody 0 0 old me p e.key 0 0)

/-- EML_LEARN_EVENT (R150, R152, R154): the oldest queued event is executed as the mode selects. -/
def execEmlLearnEvent (s : State) : Res :=
  match s.tbl.emlFifo with
  | [] => .next s
  | e :: rest =>
    let s1 := { s with tbl := { s.tbl with emlFifo := rest } }.advanceSweep
    let m := s.getF EML_LEARN_CFG.mode
    .next (if m = 2 then s1.learnHw e else if m = 1 then s1.learnNotify e else s1)

/-- The learning of one flow in hardware mode (R157). -/
def State.flowLearn (s : State) (e : LearnEv) : State :=
  let v := 2 ^ 512 + 2 ^ 510 + s.getF FLT_LEARN_CFG.age_en * 2 ^ 506 + 2 ^ 504 + s.getF FLT_LEARN_CFG.slice * 2 ^ 490
    + s.getF FLT_LEARN_CFG.action * 2 ^ 474 + e.key
  if s.tbl.flt.any fun p => imgKey 4 p.2 == e.key && imgVis 4 p.2 == 1 then s
  else if s.getF FLT_LEARN_CFG.limit ≤ s.getF X_CNT.count 3 13 then s.bump X_CNT.count 3 11
  else if s.imgClash 4 v 0 none then s.bump X_CNT.count 3 14
  else
    match s.hashInsert 4 v (s.flag FLT_LEARN_CFG.evict) with
    | (none, s1) => s1.bump X_CNT.count 3 11
    | (some _, s1) => (s1.bump X_CNT.count 3 1).showTables

/-- FLOW_MISS, deduplicated by key over 1 µs (R157). -/
def State.flowNotify (s : State) (e : LearnEv) : State :=
  if s.tbl.fltNotes.any fun n => n.1 == e.key && decide (s.fnow ≤ n.2.2 + 1400) then s.bump X_CNT.count 3 7
  else
    let notes := (s.tbl.fltNotes ++ [(e.key, e.src, s.fnow)]).drop (s.tbl.fltNotes.length + 1 - 512)
    { s with tbl := { s.tbl with fltNotes := notes } }.tblEvent 0x47
      (tblBody 4 0 (memberByte e.src e.cas) 0 0 0 (s.hashes 4 e.key).1 0)

/-- FLT_LEARN_EVENT (R150, R157): the oldest flow event is executed; in STANDBY the unit stops (R158). -/
def execFltLearnEvent (s : State) : Res :=
  match s.tbl.fltFifo with
  | [] => .next s
  | e :: rest =>
    if s.mode = mStandby then .next s
    else
      let s1 := { s with tbl := { s.tbl with fltFifo := rest } }.advanceSweep
      let m := s.getF FLT_LEARN_CFG.mode
      .next (if m = 2 then s1.flowLearn e else if m = 1 then s1.flowNotify e else s1)

/-- HOLD_SWEEP (R153): every 1,024 learn units hold_valid clears where move_hold has elapsed. -/
def execHoldSweep (s : State) : Res :=
  let s1 := s.after s.tbl.holdAt
  let h := s1.getF EML_LEARN_CFG.move_hold
  let f (_ : Nat) (v : Nat) : Nat :=
    if natBit v 118 && decide (h ≤ (s1.learnNow + 2 ^ 21 - nbits v 117 97) % 2 ^ 21) then nset v 118 118 0 else v
  .next { s1 with tbl := { s1.tbl with eml := Tab.mapVals s1.tbl.eml f, holdAt := s1.now + 1024 * 1024 * fclk } }

/-! ### The flow table's stores (R36, R136) -/

/-- REPLICA_WRITE_BACK (R36): the `n`-th store entry is written to replica `g` in a write-back slot. -/
def execReplicaWriteBack (g : Fin 8) (n : Nat) (s : State) : Res :=
  match s.tbl.pend[n]? with
  | none => .next s
  | some p => .next { s with tbl := { s.tbl with
      pend := s.tbl.pend.set n { p with left := p.left.filter (· != g.val), last := s.fnow } } }

/-- PENDING_WRITE_RELEASE (R36): the oldest store entry that all replicas hold is released 192 FCLK after the last of
them was written. -/
def execPendingWriteRelease (s : State) : Res :=
  match s.tbl.pend.find? fun p => p.left.isEmpty with
  | none => .next s
  | some p => .next { s.after ((p.last + 192) * fclk) with tbl := { s.tbl with pend := s.tbl.pend.erase p } }

/-- REPLICA_REPAIR (R136): a word of a position is repaired from another replica and rewritten through the pending-write
store; if every replica is lost the entry is freed and reported. -/
def execReplicaRepair (pos word : Nat) (lost : Bool) (s : State) : Res :=
  let e := s.entry 4 pos
  if isOvf pos ∨ e = 0 then .next s
  else if lost then
    let s1 := ((s.writeEntry 4 pos 0).setIdle 4 pos 0).showTables
    .next ((s1.raise 15 (faultA 0x0001)).tblEvent 0x46 (tblBody 4 2 0 0 pos 0 0 0))
  else
    let s1 := s.pendRoom
    let bad := s1.tbl.bad.filter fun b => !(b.1 == 4 && b.2.1 == pos && b.2.2 == word)
    let p : PendW := ⟨pos, e, s1.fnow, List.range 8, s1.fnow⟩
    .next ({ s1 with tbl := { s1.tbl with bad := bad, pend := s1.tbl.pend ++ [p] } }.bump X_CNT.count 3 12)

end Sys2Proof.Machine
end

