-- ==== Sys2Proof/Machine/Access.lean ====
section
/-! DEFINITION. Accesses to registers and module memory by their place (R6–R11, R519–R526): what a write stores and what it
starts, and what a read returns and clears. An access that names a command of its own runs that command's meaning. -/

namespace Sys2Proof.Machine

/-- The state that a meaning leaves; a meaning that stops leaves the state as it was. -/
def Res.left (s : State) (r : Res) : State :=
  match r with
  | .next t => t
  | _ => s

/-! ### Writes that their own command does whole -/

/-- The value written, at the register's own bit positions: a 32-bit write to the upper half lands in bits 63–32 (R8). -/
def atHalf (wide upper : Bool) (v : Word) : Word :=
  if wide then v else BitVec.ofNat 64 (if upper then v.bits 31 0 * 2 ^ 32 else v.bits 31 0)

/-- NVE_CTRL_CFG (R367, R382): fw_en of a VF controller stays 0, and set it is cleared on every other controller; max_ioq is from
1 to 1,024 and no more than the pool still holds. -/
def State.writeCtrlCfg (s : State) (c : Nat) (wide upper : Bool) (v : Word) : State :=
  let old := s.reg .NVE_CTRL_CFG c
  let w := (s.writeFields (fun _ => true) wide upper c v Reg.NVE_CTRL_CFG.fields old).1
  let s1 := s.setReg .NVE_CTRL_CFG w c
  let s2 := if NVE_CTRL_CFG.max_ioq.reached wide upper then
      s1.setF NVE_CTRL_CFG.max_ioq (min (clampNat 1 1024 (w.bits 51 41)) (s1.ioqRoom c)) c
    else s1
  if s2.flag NVE_CTRL_CFG.is_vf c then s2.setF NVE_CTRL_CFG.fw_en 0 c
  else if s2.flag NVE_CTRL_CFG.fw_en c then
    (List.range 1024).foldl (fun t i => if i ≠ c ∧ t.flag NVE_CTRL_CFG.fw_en i then t.setF NVE_CTRL_CFG.fw_en 0 i else t) s2
  else s2

/-- A write that a command of its own does whole, or whose store is not that of its fields: the state after it; `none` for a
register that stores its fields first. -/
def State.ownWrite (s : State) (init bo : Nat) (r : Reg) (i : Nat) (wide upper : Bool) (v : Word) : Option Res :=
  let low : BitVec 32 := BitVec.ofNat 32 v.toNat
  match r with
  | .PRF_LATCH => some (execFaultAck init wide upper v s)
  | .PRF_SL_FEED => some (execSafelightFeed init (BitVec.ofNat 8 v.toNat) s)
  | .PWR_RESET_CTRL => some (.next (s.resetRequest init low.toNat))
  | .PWR_HOST_CTL => some (.next (s.hostCtl init low.toNat))
  | .TSV_RATE => some (execTsvRateWrite init low s)
  | .TSV_SERVO => some (execTsvServoWrite init wide upper v s)
  | .TSV_ISLAND_RESET => some (if natBit v.toNat 0 then execIslandReset init (BitVec.ofNat 16 (v.bits 31 16)) s else .next s)
  | .TSV_TPG_CTL => some (if natBit v.toNat 0 then execTimePageEnable i s else execTimePageDisable i s)
  | .EML_HASH_SEED => some (execHashSeedWrite init false wide upper v s)
  | .FLT_HASH_SEED => some (execHashSeedWrite init true wide upper v s)
  | .TMG_NODE_CFG =>
    some (.next (s.writeNode i (s.writeFields (fun _ => true) wide upper i v Reg.TMG_NODE_CFG.fields (s.reg .TMG_NODE_CFG i)).1))
  | .MAC_IMP_CFG => if h : i < 8 then some (execImpositionEnable init ⟨i, h⟩ wide upper v s) else none
  | .ACT_SEAL => some (execActSealWrite init wide v.toNat s)
  | .X_BLK_ERR_CTL =>
    if h : i < 26 then (if wide then some (execErrorInject init ⟨i, h⟩ v s) else none) else none
  | .NVE_CTRL_CFG => some (.next (s.writeCtrlCfg i wide upper v))
  | .MGT_MEMBER_SEL => if i = init then none else some (.next s)
  | .MAC_IMP_BASE | .MAC_IMP_CYCLE | .MAC_IMP_ENTRY => if s.flag MAC_IMP_CMD.busy i then some (.next (s.refuseWrite 5 bo)) else none
  | _ => none

/-! ### What a stored write starts -/

/-- A DRT_CMD operation (Table 8-10). -/
def State.drtOp (t : State) (o : Origin) : Res :=
  match t.getF DRT_CMD.op with
  | 1 => execEpCreate o t
  | 2 => execEpDestroy o t
  | 3 => execRegionReg o t
  | 4 => execRegionRevoke o t
  | 5 => execRegionRead o t
  | 6 => execDomainSet o t
  | 7 => execDomainNext o t
  | 8 => execDomainPromote o t
  | 9 => execDomainDropPrev o t
  | n => t.drtCommand o n fun u _ => u.drtEnd o stMalformed

/-- A CPH_KEY_CMD operation (Table 9-4). -/
def State.keyOp (t : State) (o : Origin) : Res :=
  let slot := BitVec.ofNat 16 (t.getF CPH_KEY_CMD.slot)
  match t.getF CPH_KEY_CMD.op with
  | 1 => execKeyLoad o slot t
  | 2 => execKeyUnwrap o slot (BitVec.ofNat 16 (t.getF CPH_KEY_CMD.kek_slot)) t
  | 3 => execKeyErase o slot t
  | 4 => execKeyAttr o slot t
  | 5 => execKeyQuery o slot t
  | _ => .next (if t.flag CPH_KEY_CMD.busy then t else t.keyEnd o stMalformed)

/-- A FRM_CMD operation (Table 4-4). -/
def State.formeOp (t : State) (o : Origin) : Res :=
  match t.getF FRM_CMD.op with
  | 1 => execFormeOpen o t
  | 2 => execFormeLoad o (t.getF FRM_CMD.addr * 64) [] t
  | 3 => execFormeLockUp o t
  | 4 => execFormeDiscard o t
  | _ => .next (if t.flag FRM_CMD.busy then t else t.formeEnd o stMalformed (t.getF FRM_CMD.number))

/-- A DQM_RING_CMD operation of a function window (Table 11-12). -/
def State.ringOp (t : State) (fn : Nat) : Res :=
  if t.flag DQM_RING_CMD.busy fn then .next t
  else
    match t.getF DQM_RING_CMD.op fn with
    | 1 => execRingCreate fn t
    | 2 => execRingEnable fn t
    | 3 => execRingDisable fn t
    | 4 => execRingDestroy fn t
    | 5 => execRingQuery fn t
    | 6 => execRingModifyIrq fn t
    | n => .next (t.ringResult fn n stMalformed none)

/-- An SLC_CMD operation (Table 12-3). -/
def State.slcOp (t : State) (init : Nat) : Res :=
  let g := t.getF SLC_CMD.slice
  match t.getF SLC_CMD.op with
  | 1 => execSliceCreate init g t
  | 2 => execSliceStart init g t
  | 3 => execSliceReset init g t
  | 4 => execSliceDestroy init g t
  | 5 => execSliceResize init g t
  | 6 => execSetWindow init g t
  | 7 => execSliceQuery init g t
  | n =>
    let b := t.slcBegin init n g
    if b.2 then b.1.slcEnd stMalformed else .next b.1

/-- An NVE_NS_CMD operation. -/
def State.nsOp (t : State) (init : Nat) : Res :=
  let ns : Fin 8192 := Fin.ofNat 8192 (t.getF NVE_NS_CMD.ns)
  match t.getF NVE_NS_CMD.op with
  | 1 => execNsCreate init ns t
  | 2 => execNsDelete init ns t
  | 3 => execNsAttach init ns (Fin.ofNat 1024 (t.getF NVE_NS_CMD.controller)) (BitVec.ofNat 8 (t.getF NVE_NS_CMD.nsid)) t
  | 4 => execNsDetach init ns t
  | 5 => execNsQuery init ns t
  | 6 => execClearFault init ns t
  | n => t.nsCommand init n ns fun u => (stMalformed, u)

/-- An FCX_LOAD operation. -/
def State.loadOp (t : State) (init : Nat) : Res :=
  let first : Fin 128 := Fin.ofNat 128 (t.getF FCX_LOAD.first)
  match t.getF FCX_LOAD.op with
  | 1 => execCoreLoad init first (Fin.ofNat 128 (t.getF FCX_LOAD.last)) (t.getF FCX_LOAD.addr * 64) t
  | 2 => execResetCore init first t
  | _ => .next (if t.flag FCX_LOAD.busy then t else t.setF FCX_LOAD.result stMalformed)

/-- An FCX_DBG_CMD operation (R413). -/
def State.dbgOp (t : State) (init : Nat) : Res :=
  let core : Fin 128 := Fin.ofNat 128 (t.getF FCX_DBG_CMD.core)
  let thread : Fin 8 := Fin.ofNat 8 (t.getF FCX_DBG_CMD.thread)
  let index := BitVec.ofNat 32 (t.getF FCX_DBG_CMD.index)
  match t.getF FCX_DBG_CMD.op with
  | 1 => execDbgStop init core thread t
  | 2 => execDbgResume init core thread t
  | 3 => execDbgStep init core thread t
  | 4 => execDbgRead init core thread index t
  | 5 => execDbgWrite init core thread index t
  | _ => .next (if t.flag FCX_DBG_CMD.busy then t else t.setF FCX_DBG_CMD.result stMalformed)

/-- A UPD_CMD operation (Table 16-9). -/
def State.updateOp (t : State) (init : Nat) : Res :=
  let v := t.reg .UPD_CMD
  match t.getF UPD_CMD.op with
  | 1 => execUpdOpen init v t
  | 2 => execUpdWrite init v t
  | 3 => execUpdClose init v t
  | 4 => execUpdActivate init v false t
  | 5 => execUpdPrefer init v t
  | 6 => execUpdInvalidate init v t
  | 7 => execRevokeKey init v t
  | 8 => execAdvanceSvn init v t
  | 9 => execEnrollOwner init v t
  | 10 => execOwnerLock init v t
  | 11 => execOwnerUnlock init v t
  | _ => .next (if t.flag UPD_CMD.busy then t else t.updEnd stMalformed 0)

/-- An ODF_CMD operation. Which members refuse a lock-up is told by them: a free value. -/
def State.cascadeOp (t : State) (init : Nat) : Res :=
  match t.getF ODF_CMD.op with
  | 1 =>
    let d := t.draw 4
    execOdfLockup (.reg init) (BitVec.ofNat 4 d.1) d.2
  | 2 => execRepartition (.reg init) t
  | 3 => execHandback init t
  | n => .next (t.odfOp init n fun u => u.setF ODF_CMD.result stMalformed)

/-- A TSV_ADJ operation; a 32-bit write leaves the amount, which straddles the halves, as it stands. -/
def State.adjOp (t : State) (init : Nat) (wide : Bool) : Res :=
  let amount : Option (BitVec 48) := if wide then some (BitVec.ofNat 48 (t.getF TSV_ADJ.amount)) else none
  match t.getF TSV_ADJ.op with
  | 0 => execTsvSlew init amount t
  | 1 => execTsvStep init amount t
  | 2 => execTsvSet init amount t
  | _ => execSetAtPps init amount t

/-- What a write starts once its fields are stored: the operation of a go field that took a 1 (R6), or what the new value of a
field brings at once. `s` is the state before the store, `t` after it. -/
def State.afterStore (s t : State) (init : Nat) (r : Reg) (i : Nat) (wide upper : Bool) (v : Word) : Res :=
  let go (f : Fld) (run : Res) : Res := if f.reached wide upper && v.bits f.hi f.lo == 1 then run else .next t
  let o := Origin.reg init
  match r with
  | .MGT_MODE_REQ => go MGT_MODE_REQ.go (execModeRequestGo init (Fin.ofNat 8 (t.getF MGT_MODE_REQ.target)) t)
  | .TSV_ADJ => go TSV_ADJ.go (t.adjOp init wide)
  | .TSV_REF_SEL => .next t.showRefs
  | .FRM_CMD => go FRM_CMD.go (t.formeOp o)
  | .X_CMD => go X_CMD.go (.next (t.tableCommand (t.getF X_CMD.op i) o i (t.reg .X_CMD i) []))
  | .TMG_EPOCH => go TMG_EPOCH.go (execEpochGo init t)
  | .TMG_NODE_ADDR => .next t.showNode
  | .TMG_POL_CMD =>
    let index : Fin 65536 := Fin.ofNat 65536 (t.getF TMG_POL_CMD.index)
    go TMG_POL_CMD.go (if t.getF TMG_POL_CMD.op = 1 then execPolicerWrite init index t
      else if t.getF TMG_POL_CMD.op = 2 then execPolicerRead init index t
      else .next (t.setF TMG_POL_CMD.result stMalformed))
  | .MAC_CAGE_CFG => .next t.checkLanes
  | .MAC_PORT_CFG => .next (t.portEnabled i (s.portDown i))
  | .MAC_IMP_CMD => go MAC_IMP_CMD.go (execImpositionGo init (Fin.ofNat 8 i) t)
  | .DRT_CFG =>
    if s.flag DRT_CFG.enable && !t.flag DRT_CFG.enable then execTransportDisable init t else .next t.showTransport
  | .DRT_CMD => go DRT_CMD.go (t.drtOp o)
  | .CPH_KEY_CMD => go CPH_KEY_CMD.go (t.keyOp o)
  | .DQM_RING_CMD => go DQM_RING_CMD.go (t.ringOp i)
  | .SLC_CMD => go SLC_CMD.go (t.slcOp init)
  | .ACT_CMD =>
    go ACT_CMD.go (if t.getF ACT_CMD.op = 1 then execActWrite init t else if t.getF ACT_CMD.op = 2 then execActRead init t
      else .next (t.setF ACT_CMD.result stMalformed))
  | .ACT_LOG_POP => go ACT_LOG_POP.pop (execActLogPop init t)
  | .NVE_NS_CMD => go NVE_NS_CMD.go (t.nsOp init)
  | .FCX_LOAD => go FCX_LOAD.go (t.loadOp init)
  | .FCX_DBG_CMD => go FCX_DBG_CMD.go (t.dbgOp init)
  | .PRF_SLICE_LIFT => go PRF_SLICE_LIFT.go (execPrfSliceLift init (BitVec.ofNat 14 (t.getF PRF_SLICE_LIFT.slice)) t)
  | .PRF_SL_CFG => .next t.showSafelight
  | .RTH_LOG_CMD => go RTH_LOG_CMD.go (execRepairLogRead init (BitVec.ofNat 12 (t.getF RTH_LOG_CMD.index)) t)
  | .BOOT_CTL =>
    if natBit v.toNat 31 then execBootDone init t else if natBit v.toNat 30 then execBootFail (.firmware init) t else .next t
  | .BOOT_MEAS_CMD =>
    let n := BitVec.ofNat 10 (t.getF BOOT_MEAS_CMD.n)
    go BOOT_MEAS_CMD.go (match t.getF BOOT_MEAS_CMD.op with
      | 1 => execMeasRead init n t
      | 2 => execMeasExtend init n t
      | 3 => execMeasLogRead init n t
      | _ => .next (t.setF BOOT_MEAS_CMD.result stMalformed))
  | .UPD_CMD => go UPD_CMD.go (t.updateOp init)
  | .ODF_CFG =>
    if s.flag ODF_CFG.deepen = t.flag ODF_CFG.deepen then .next t.showCascade
    else
      let own := t.getF ODF_STATUS.own_id
      .next ((t.clearHashTable 4).takePartition (if t.flag ODF_CFG.deepen then own else 0)
        (if t.flag ODF_CFG.deepen then List.range t.odfN else [])).showCascade
  | .ODF_CMD => go ODF_CMD.go (t.cascadeOp init)
  | .ODF_REC_CFG => .next t.showCascade
  | .X_BLK_ERR_CTL =>
    if h : i < 26 then
      go X_BLK_ERR_CTL.inject (if t.mode = mTest then
        execErrorInject init ⟨i, h⟩ (BitVec.ofNat 64 (2 ^ 63 + (t.reg .X_BLK_ERR_CTL i).toNat)) t else .next t)
    else .next t
  | .MGT_ETH_CFG => .next t.mgtEnabled
  | .MGT_ETH_TX => .next t.mgtSend
  | _ => .next t

/-! ### Whole accesses -/

/-- Does a module that another initiator names as 0x040–0x043 reach this one: a member's master (R487, Table 12-7)? -/
def State.masterReaches (s : State) (init : Nat) : Bool :=
  !(decide (0x040 ≤ init) && decide (init ≤ 0x043))
    || (s.flag ODF_STATUS.active && !s.flag ODF_STATUS.master && s.getF ODF_STATUS.master_id == init - 0x040)

/-- The function whose own BARs a place lies in. -/
def placeFn : Place → Option Nat
  | .fnWindow f _ => some f
  | .tpg f _ => some f
  | _ => none

/-- A place of the management window named by its module address (Table 19-2). -/
def placeNormal : Place → Place
  | .memory a => if a < 0x04000000 then .window a else .memory a
  | p => p

/-- The doorbell at a place of a function window (Table 11-2), with the function and the offset that the access table checks where
the place lies in the DQM block's range (R521). -/
def placeDoorbell (init : Nat) : Place → Option (Nat × Nat × Bool)
  | .fnWindow f off => if 0x1000 ≤ off ∧ off < 0x1800 then some (f, (off - 0x1000) / 8, false) else none
  | .window off =>
    if 0x1201000 ≤ off ∧ off < 0x1201800 then some (if init < 0x800 then 0 else init, (off - 0x1201000) / 8, true) else none
  | _ => none

/-- The block and offset at which a refused write is recorded where no access table is asked (R11, R525). -/
def placeBlock (init : Nat) (p : Place) : Nat × Nat :=
  match (placeReg init p).1, p with
  | some x, _ => x
  | none, .fnWindow _ off => (17, off)
  | none, .tpg _ off => (4, off)
  | none, _ => (26, 0)

/-- The access check of a place (R356): the state after it and whether the access goes on. A function reaches its own window and time
page area without a table. -/
def State.placeAccess (s : State) (k : AccessKind) (init : Nat) (p : Place) : State × Bool :=
  match (placeReg init p).1 with
  | some (blk, bo) => s.blockAccess blk k init bo
  | none => (s, placeFn p == some init && (s.fn? init).isSome)

/-- Is the width that of the register: a 32-bit register takes 32-bit accesses only, and a 64-bit access begins at a register (R8)? -/
def widthOk (r : Reg) (wide upper : Bool) : Bool := !wide || (decide (r.row.width = 64) && !upper)

/-- The bytes of an access to module memory, where the initiator reaches it: the frame memory belongs to initiators 0x000 to 0x020
(R514), the other ranges to their access tables. -/
def State.memoryAccess (s : State) (k : AccessKind) (init a n : Nat) : State × Bool :=
  if 0x08000000 ≤ a ∧ a + n ≤ 0x08030000 then (s, decide (init ≤ 0x020)) else s.memAccess k init a n

/-- A write of a register or of module memory by an initiator (R6–R11). `v` holds the written bits from bit 0 on. -/
def State.performWrite (s : State) (init : Nat) (place : Place) (wide : Bool) (v : Word) : Res :=
  let p := placeNormal place
  if !s.masterReaches init then .next s
  else
    match p with
    | .memory a =>
      let n := if wide then 8 else 4
      let c := s.memoryAccess .write init a n
      .next (if c.2 then c.1.setBytes a (leBytes n v.toNat) else c.1.abortCore init)
    | _ =>
      let c := s.placeAccess .write init p
      if !c.2 then .next c.1
      else
        match placeDoorbell init p with
        | some (f, d, _) => execDoorbell f none d false c.1
        | none =>
          match (placeReg init p).2 with
          | none => .next c.1
          | some (r, i, j, upper) =>
            let b := placeBlock init p
            let w := atHalf wide upper v
            if !widthOk r wide upper then .next c.1
            else if c.1.flag X_BLK_STATUS.d_hold b.1 && r.row.resets.contains .d then .next (c.1.refuseWrite b.1 b.2)
            else
              match c.1.ownWrite init b.2 r i wide upper w with
              | some x => x
              | none =>
                let s1 := if r = .TSV_REF_SEL then c.1.syncIsland else c.1
                s1.afterStore (s1.storeReg s1.portFifosEmpty b.1 b.2 r i j wide upper w) init r i wide upper w

/-- What a read clears: every RC field of which it returns any bit (R9). SLC_DONE then shows the next record of its FIFO. -/
def State.clearRead (s : State) (r : Reg) (i j : Nat) (wide upper : Bool) : State :=
  if r = .SLC_DONE then { s with slc := { s.slc with done := s.slc.done.drop 1 } }.showDone
  else
    let any (f : Fld) : Bool := wide || (if upper then decide (32 ≤ f.hi) else decide (f.lo < 32))
    r.fields.foldl (fun t f => if f.acc = .rc ∧ any f then t.setF f 0 i j else t) s

/-- The answer that a meaning has just given to a read, taken back out of the outputs. -/
def State.takeAnswer (s : State) : State × Option Word :=
  match s.out with
  | .readData _ d :: rest => ({ s with out := rest }, some d)
  | _ => (s, none)

/-- The sensors of PWR_STATUS as a read meets them: what they measure is free (spec/18 R503). -/
def State.sampleLive (s : State) (r : Reg) : State :=
  if r = .PWR_STATUS then
    let d := s.draw 41
    ((d.2.setF PWR_STATUS.ac_input_w d.1).setF PWR_STATUS.dc_load_w (d.1 / 2 ^ 16)).setF PWR_STATUS.ac_vrms (d.1 / 2 ^ 32)
  else s

/-- A read of a register or of module memory by an initiator: the state after it and the value returned; a denied read, and one of an
unassigned place, returns 0 (R7, R296, R519), but no data goes to an application core whose access ends in an abort (R358, R520). -/
def State.performRead (s : State) (init : Nat) (place : Place) (wide : Bool) : State × Option Word :=
  let p := placeNormal place
  if !s.masterReaches init then (s, some 0)
  else
    match p with
    | .memory a =>
      let n := if wide then 8 else 4
      let c := s.memoryAccess .read init a n
      if c.2 then (c.1, some (BitVec.ofNat 64 (leNat (c.1.bytes a n))))
      else (c.1.abortCore init, if init ≤ 0x020 then none else some 0)
    | _ =>
      match (placeReg init p).2, p with
      | some (.TSV_SNAP_SEC, _, _, _), .window off => (Res.left s (execSnapshotLatch init off wide s)).takeAnswer
      | some (.CPH_RNG, _, _, upper), _ => (Res.left s (execCphRngRead init wide upper s)).takeAnswer
      | found, _ =>
        let c := s.placeAccess .read init p
        match c.2, found with
        | true, some (r, i, j, upper) =>
          if !widthOk r wide upper then (c.1, some 0)
          else
            let s1 := c.1.sampleLive r
            let w := s1.readReg (placeBlock init p).1 r i j
            (s1.clearRead r i j wide upper, some (readPart w wide upper))
        | true, none => (c.1, some 0)
        | false, _ => (c.1, if init ≤ 0x020 ∧ (placeReg init p).1.isSome then none else some 0)

end Sys2Proof.Machine
end

