-- ==== Sys2Proof/Machine/Mmio.lean ====
section
/-! DEFINITION. MMIO requests of the host and the module's reads that fail (R295–R300): the BARs of Tables 10-3 to 10-5, the
controller registers of Table 13-1 and the recovery window of Table 16-7. -/

namespace Sys2Proof.Machine

/-! ### Answers -/

/-- An answer to a request: reads are answered, writes are posted. -/
def State.mmioAnswer (s : State) (m : Mmio) (status data : Nat) : State :=
  if m.write.isSome then s else s.emit (.mmioReply m.fn status (data % 2 ^ (8 * m.size)))

/-- A request that no register takes: a read is a Completer Abort, a write is discarded and counted (R296). -/
def State.mmioBad (s : State) (m : Mmio) : State :=
  if m.write.isSome then s.bump HIF_CNT.count (fnLink m.fn) 1
  else (s.aerUncorrectable m.fn aerCompleterAbort true []).mmioAnswer m 2 0

/-- Is a request of 4 or 8 bytes, naturally aligned (R296)? -/
def mmioPlain (m : Mmio) : Bool := (m.size == 4 || m.size == 8) && m.off % m.size == 0

/-- `n` bytes of a string from an offset, as a number, and the string with those bytes replaced. -/
def spliceBytes (bs : List Byte) (o n v : Nat) : List Byte := fitBytes bs.length (bs.take o ++ leBytes n v ++ bs.drop (o + n))

/-! ### The management and function windows -/

/-- The width that a request must not exceed: a register's own (R296). -/
def placeWidth (init : Nat) (p : Place) : Nat :=
  match (placeReg init p).2 with
  | some (r, _, _, _) => r.row.width / 8
  | none => 8

/-- A request to a place of registers: a doorbell takes a write of any size, any other request one of the sizes of R296. -/
def State.mmioPlace (s : State) (m : Mmio) (p : Place) : Res :=
  match placeDoorbell m.fn p, m.write with
  | some (f, d, checked), some _ =>
    let c := if checked then s.blockAccess 17 .write m.fn (m.off % 0x100000) else (s, true)
    if c.2 then execDoorbell f none d false c.1 else .next c.1
  | _, w =>
    if !mmioPlain m || decide (placeWidth m.fn p < m.size) then .next (s.mmioBad m)
    else
      match w with
      | some v => s.performWrite m.fn p (m.size == 8) (BitVec.ofNat 64 v)
      | none =>
        let r := s.performRead m.fn p (m.size == 8)
        .next (r.1.mmioAnswer m 0 (r.2.getD 0).toNat)

/-! ### Message tables -/

/-- A message table entry as its 16 bytes (R298; an MSI-X entry has no pasid_en). -/
def MsgEntry.bytes (e : MsgEntry) : List Byte := leBytes 8 e.addr ++ leBytes 4 e.data ++ leBytes 4 (b2n e.mask + 2 * b2n e.pasid)

/-- The entry that 16 bytes hold. -/
def msgOfBytes (store : Bool) (b : List Byte) : MsgEntry :=
  { addr := leNat (b.take 8)
    data := leNat (sliceBytes b 8 4)
    mask := natBit (leNat (sliceBytes b 12 4)) 0
    pasid := store && natBit (leNat (sliceBytes b 12 4)) 1 }

/-- An entry that nothing has written: masked (R298). -/
def msgReset : MsgEntry := ⟨0, 0, true, false⟩

/-- A request to a message table: the table after it, and the value read. -/
def msgTable (t : Tab MsgEntry) (store : Bool) (m : Mmio) (o : Nat) : Tab MsgEntry × Nat :=
  let b := (Tab.getD msgReset t (o / 16)).bytes
  match m.write with
  | some v => (Tab.setD msgReset t (o / 16) (msgOfBytes store (spliceBytes b (o % 16) m.size v)), 0)
  | none => (t, leNat (sliceBytes b (o % 16) m.size))

/-- Bits as a number: the sum over the listed bit numbers. -/
def bitsOf (l : List Nat) : Nat := (l.map fun n => 2 ^ n).sum

/-! ### BAR4 (Table 10-4) -/

/-- A request to the interrupt and time area. -/
def State.mmioBar4 (s : State) (m : Mmio) (x : FnSt) : Res :=
  if !mmioPlain m then .next (s.mmioBad m)
  else if m.off < 16 * x.msixEntries then
    let r := msgTable x.msix false m m.off
    .next ((s.setFn m.fn { x with msix := r.1 }).mmioAnswer m 0 r.2)
  else if 0x8000 ≤ m.off ∧ m.off < 0x8100 then
    .next (s.mmioAnswer m 0 (bitsOf x.pendingVecs / 2 ^ (8 * (m.off - 0x8000))))
  else if 0x9000 ≤ m.off ∧ m.off < 0x9020 then s.mmioPlace m (.tpg m.fn (m.off - 0x9000))
  else if 0x9040 ≤ m.off ∧ m.off < 0x9080 then
    let page := ((Tab.look s.pages m.fn).map TimePage.content).getD []
    .next (s.mmioAnswer m 0 (leNat (sliceBytes page (m.off - 0x9040) m.size)))
  else .next (s.mmioAnswer m 0 0)

/-! ### BAR2: slice pages (Table 10-5) and the virtio structures -/

/-- A request to a slice page of the function: doorbells, the interrupt message store and its pending bits. -/
def State.mmioSlicePage (s : State) (m : Mmio) : Res :=
  let page := m.off / 4096
  let o := m.off % 4096
  if o < 0x800 then
    if m.write.isSome then execDoorbell m.fn (some page) (o / 8) false s else .next (s.mmioAnswer m 0 0)
  else
    match s.sliceOfLocal m.fn page with
    | none => .next (s.mmioAnswer m 0 0)
    | some g =>
      match s.slice? g with
      | none => .next (s.mmioAnswer m 0 0)
      | some x =>
        if o < 0xA00 then
          let r := msgTable x.store true m (o - 0x800)
          .next ((s.setSlice g { x with store := r.1 }).mmioAnswer m 0 r.2)
        else if o < 0xA04 then .next (s.mmioAnswer m 0 (bitsOf x.storePending / 2 ^ (8 * (o - 0xA00))))
        else .next (s.mmioAnswer m 0 0)

/-- A request to the virtio structures. They belong to the virtio-net program of the flow cores (R55, R404): what a read returns is free,
but for DEVICE_NEEDS_RESET in the device status at 0x14 of the common configuration (R291). -/
def State.mmioVirtio (s : State) (m : Mmio) (x : FnSt) : Res :=
  let d := s.draw 64
  if m.write.isSome then .next s
  else .next (d.2.mmioAnswer m 0 (if m.off = 0x14 ∧ m.size = 1 ∧ x.needsReset = true then natSetBit (d.1 % 256) 6 true else d.1))

/-! ### NVMe controller registers (Table 13-1) -/

/-- CAP: MQES 4,095, CQR 1, TO 20, the NVM command set, MPSMAX 4. -/
def nvmeCap : Nat := 4095 + 2 ^ 16 + 20 * 2 ^ 24 + 2 ^ 37 + 4 * 2 ^ 52

/-- The controller registers as bytes, up to 0x37. INTMS and INTMC show the masks only while MSI is enabled. -/
def nvmeRegBytes (f : FnSt) (x : NvmeCtrl) : List Byte :=
  let im := if f.msiEnable && !f.msixEnable then x.intms else 0
  leBytes 8 nvmeCap ++ leBytes 4 0x00020000 ++ leBytes 4 im ++ leBytes 4 im ++ leBytes 4 x.cc ++ zeroBytes 4
    ++ leBytes 4 (b2n x.rdy + 2 * b2n x.cfs + 4 * x.shst) ++ zeroBytes 4 ++ leBytes 4 x.aqa ++ leBytes 8 x.asq ++ leBytes 8 x.acq

/-- A write of CC (R366, R379, R380): EN rising enables the controller and falling resets it; otherwise SHN asks for a shutdown. -/
def State.writeCc (s : State) (c : Fin 1024) (x : NvmeCtrl) (v : Nat) : Res :=
  let keep (en : Nat) : State := s.setCtrl c.val { x with cc := v / 2 * 2 + en }
  if x.enabled && v % 2 == 0 then execControllerReset c (keep 1)
  else if !x.enabled && v % 2 == 1 then execControllerEnable c (BitVec.ofNat 32 v) s
  else
    let shn := v / 2 ^ 14 % 4
    if x.enabled && shn == 1 then execNormalShutdown c (keep 1)
    else if x.enabled && shn == 2 then execAbruptShutdown c (keep 1)
    else .next (keep (v % 2))

/-- A write of 4 bytes of a controller register. -/
def State.writeNvme4 (s : State) (f : FnSt) (c : Fin 1024) (x : NvmeCtrl) (o v : Nat) : Res :=
  let put (y : NvmeCtrl) : Res := .next (s.setCtrl c.val y)
  let half (hi : Bool) (w : Nat) : Nat := if hi then w % 2 ^ 32 + v * 2 ^ 32 else w / 2 ^ 32 * 2 ^ 32 + v
  let msi := f.msiEnable && !f.msixEnable
  if o = 0x0C then (if msi then put { x with intms := x.intms ||| v } else .next s)
  else if o = 0x10 then
    (if msi then .next (s.setCtrl c.val { x with intms := x.intms &&& (v ^^^ (2 ^ 32 - 1)) }).signalQueues else .next s)
  else if o = 0x14 then s.writeCc c x v
  else if o = 0x24 then put { x with aqa := v }
  else if o = 0x28 then put { x with asq := half false x.asq }
  else if o = 0x2C then put { x with asq := half true x.asq }
  else if o = 0x30 then put { x with acq := half false x.acq }
  else if o = 0x34 then put { x with acq := half true x.acq }
  else .next s

/-- The controller of a function. -/
def State.ctrlAt (s : State) (f : Nat) : Option (Nat × NvmeCtrl) := s.nve.ctrls.find? fun p => p.2.fn == f

/-- A request to the controller registers; doorbells take a write of any size. -/
def State.mmioNvme (s : State) (m : Mmio) (f : FnSt) : Res :=
  match s.ctrlAt m.fn with
  | none => .next (s.mmioAnswer m 0 0)
  | some (k, x) =>
    let c : Fin 1024 := Fin.ofNat 1024 k
    match m.write with
    | none =>
      if !mmioPlain m || (m.size == 8 && !(m.off == 0 || m.off == 0x28 || m.off == 0x30 || decide (0x38 ≤ m.off))) then .next (s.mmioBad m)
      else .next (s.mmioAnswer m 0 (leNat (sliceBytes (nvmeRegBytes f x) m.off m.size)))
    | some v =>
      if 0x1000 ≤ m.off then
        let y := (m.off - 0x1000) / 8
        if y ≤ x.maxIoq then execNvmeDoorbell c (decide (m.off % 8 = 4)) y (v % 2 ^ 16) m.reads s else .next s
      else if !mmioPlain m || (m.size == 8 && !(m.off == 0 || m.off == 0x28 || m.off == 0x30 || decide (0x38 ≤ m.off))) then
        .next (s.mmioBad m)
      else if m.size = 8 then
        (if m.off = 0x28 then .next (s.setCtrl k { x with asq := v % 2 ^ 64 })
        else if m.off = 0x30 then .next (s.setCtrl k { x with acq := v % 2 ^ 64 }) else .next s)
      else s.writeNvme4 f c x m.off (v % 2 ^ 32)

/-! ### The recovery window (Table 16-7) -/

/-- Whole seconds left in the wait or the window, in 16 bits. -/
def State.recSeconds (s : State) : Nat :=
  let ends := match s.boot.window, s.boot.wait with
    | some (_, t), _ => t
    | none, some (_, t) => t
    | none, none => s.now
  min ((ends - s.now) / secT) 0xFFFF

/-- A request to the recovery window. -/
def State.mmioRecovery (s : State) (m : Mmio) : Res :=
  let status := s.boot.recState % 16 * 2 ^ 28 + s.boot.recReason % 16 * 2 ^ 24 + s.recSeconds
  let regs := leBytes 4 status ++ zeroBytes 4 ++ leBytes 8 s.boot.recAddr ++ leBytes 4 s.boot.recLen
  match m.write with
  | none => .next (s.mmioAnswer m 0 (leNat (sliceBytes regs m.off m.size)))
  | some v =>
    let half (hi : Bool) (w : Nat) : Nat := if hi then w % 2 ^ 32 + v % 2 ^ 32 * 2 ^ 32 else w / 2 ^ 32 * 2 ^ 32 + v % 2 ^ 32
    if !mmioPlain m then .next s
    else if m.off = 0x08 then
      .next (s.setBoot { s.boot with recAddr := (if m.size = 8 then v % 2 ^ 64 else half false s.boot.recAddr) / 4096 * 4096 })
    else if m.off = 0x0C ∧ m.size = 4 then .next (s.setBoot { s.boot with recAddr := half true s.boot.recAddr })
    else if m.off = 0x10 ∧ m.size = 4 then .next (s.setBoot { s.boot with recLen := v % 2 ^ 32 })
    else if m.off = 0x18 ∧ m.size = 4 then execRecGo m.fn (BitVec.ofNat 32 v) s
    else .next s

/-! ### Requests -/

/-- Does BAR0 of a function hold the management window (Table 10-3)? -/
def State.bar0Window (s : State) (f : Nat) (x : FnSt) : Bool :=
  x.personality == .mgmtOnly || x.personality == .virtioNet
    || (x.personality == .native && !fnIsVf f && s.isFn0 (fnLink f) (fnPf f))

/-- MMIO_REQUEST (R295, R296, R300): a request to a BAR of a function. -/
def execMmioRequest (m : Mmio) (s : State) : Res :=
  match s.fn? m.fn with
  | none => .next s
  | some x =>
    if s.flag HIF_LINK_STATUS.h_reset (s.fnEndpoint m.fn) then .next s
    else
      let s := (s.touchFn m.fn).bump HIF_CNT.count (fnLink m.fn) 0
      if !x.memorySpace || x.d3 then .next ((s.aerUncorrectable m.fn aerUnsupported true []).mmioAnswer m 1 0)
      else if m.poisoned && m.write.isSome then
        .next ((s.aerUncorrectable m.fn aerPoisoned false []).bump HIF_CNT.count (fnLink m.fn) 6)
      else if m.bar = 0 then
        if s.bar0Window m.fn x then
          (if m.off < 0x02000000 then s.mmioPlace m (.window m.off)
          else if mmioPlain m then .next (s.mmioAnswer m 0 0) else .next (s.mmioBad m))
        else if x.personality = .nvme then s.mmioNvme m x
        else if x.personality = .recovery then s.mmioRecovery m
        else s.mmioPlace m (.fnWindow m.fn m.off)
      else if m.bar = 2 ∧ x.personality = .native then s.mmioSlicePage m
      else if m.bar = 2 ∧ x.personality = .virtioNet then s.mmioVirtio m x
      else if m.bar = 4 ∧ x.personality ≠ .recovery then s.mmioBar4 m x
      else .next ((s.aerUncorrectable m.fn aerUnsupported true []).mmioAnswer m 1 0)

/-! ### Reads that fail (R300) -/

/-- The function that issued a read. -/
def State.workFn (s : State) : ReadWork → Nat
  | .fetch n | .entry n _ => ((s.ring? 0 n).map Ring.fn).getD 0
  | .indexLine cls n => ((s.ring? cls n).map Ring.fn).getD 0
  | .message r => ((((Tab.look s.drt.outs r).bind fun x => s.ring? 0 x.num)).map Ring.fn).getD 0
  | .nvmeFetch c _ | .nvme c _ _ => ((s.ctrl? c).map NvmeCtrl.fn).getD 0
  | .thread _ _ f => f
  | .recovery f => f

/-- The block that issued a read completes the work it belongs to with a status; `none` where there is no such work. -/
def State.failWork (s : State) (w : ReadWork) (st : Nat) : Option State :=
  match w with
  | .fetch num =>
    match s.ring? 0 num with
    | some r => if r.st = .running ∧ r.reads ≠ 0 then some ((s.setRing 0 num { r with reads := 0 }).stopRing 0 num st) else none
    | none => none
  | .indexLine cls num =>
    match s.ring? cls num with
    | some r => if r.st = .running then some (s.stopRing cls num st) else none
    | none => none
  | .entry num idx =>
    match s.ring? 0 num, s.fetchedEntry num idx with
    | some r, some e => some (s.completeEntry num idx (r.kind != 4 && natBit (e.getD 1 0).toNat 0) st [])
    | _, _ => none
  | .message r => if Tab.has s.drt.outs r then some (s.endOut r st 0).nvmeSettle else none
  | .nvmeFetch c sq =>
    match s.ctrl? c with
    | some x => if Tab.has x.sqs sq then some (s.setCtrl c { x with cfs := true }) else none
    | none => none
  | .nvme c sq cid =>
    match s.ctrl? c with
    | some x => if x.cmds.any (fun m => m.is sq cid) then some (s.nvmeEnd c sq cid nvTransferError).nvmeSettle else none
    | none => none
  | .thread core t _ =>
    match s.request? core t 6 with
    | some r => some ((s.takeReq core r).reply core r st 0 []).settleCores
    | none => none
  | .recovery _ =>
    match s.boot.transfer with
    | some (src, _) =>
      if src = BootSrc.hostPush then some (s.setBoot { s.boot with recState := 4, recReason := 0 }).sourceFailed else none
    | none => none

/-- A read of a host function fails: counted, logged in its function where the error has an AER bit, and its work completed. -/
def State.readFails (s : State) (w : ReadWork) (st count : Nat) (bit : Option Nat) : State :=
  let f := s.workFn w
  if f < 0x800 then s
  else
    match s.failWork w st with
    | none => s
    | some t =>
      let t1 := t.bump HIF_CNT.count (fnLink f) count
      match bit with
      | some b => t1.aerUncorrectable f b false []
      | none => t1

/-- COMPLETION_TIMEOUT (R300, Table 10-6): a read is not completed in the range of Device Control 2. -/
def execCompletionTimeout (w : ReadWork) (s : State) : Res := .next (s.readFails w stTimeout 4 (some aerCompletionTimeout))

/-- READ_FAILURE (R300, Table 10-6): a read ends in UR or CA, poison, or an ECRC error. -/
def execReadFailure (w : ReadWork) (k : ReadFail) (s : State) : Res :=
  match k with
  | .urCa => .next (s.readFails w stAccessViolation 5 none)
  | .poison => .next (s.readFails w stDegraded 6 (some aerPoisoned))
  | .ecrc => .next (s.readFails w stDegraded 7 (some aerEcrc))

end Sys2Proof.Machine
end

