-- ==== Sys2Proof/Machine/RegCmds.lean ====
section
/-! DEFINITION. The commands that reach a register without a row of their own (R6, R9), and the cascade's member window (R523). -/

namespace Sys2Proof.Machine

/-- REGISTER_WRITE (R6–R11, R525): a write of 32 or 64 bits at a place by an initiator; `v` holds the written bits from bit 0 on. -/
def execRegisterWrite (init : Nat) (place : Place) (wide : Bool) (v : Word) (s : State) : Res := s.performWrite init place wide v

/-- RC_READ (R6–R9): a read of 32 or 64 bits at a place by an initiator: the value goes back, and each RC field of which any bit is
returned is cleared. An access that ends in an abort returns no data (R358, R520). -/
def execRcRead (init : Nat) (place : Place) (wide : Bool) (s : State) : Res :=
  let r := s.performRead init place wide
  match r.2 with
  | some w => .next (r.1.emit (.readData init w))
  | none => .next r.1

/-! ### The member window (R523) -/

/-- Does a core's member window show a live member to which the master can carry an access? -/
def State.memberReached (s : State) (core : Nat) : Bool :=
  let m := s.getF MGT_MEMBER_SEL.member core
  s.flag ODF_STATUS.active && s.flag ODF_STATUS.master && m != s.getF ODF_STATUS.own_id && natBit (s.getF ODF_STATUS.live) m

/-- MEMBER_WINDOW_ACCESS (R523): an access at an offset of the member window. One of an application core goes out to the member that it
selects; `answer` is what the member sends back, `none` where the links lose it or the member denies it. A failed access waits for
its error. Other initiators read 0, and their writes are discarded. -/
def execMemberWindowAccess (init : Nat) (off : BitVec 25) (wide : Bool) (write answer : Option Word) (s : State) : Res :=
  if 0x020 ≤ init then .next (if write.isNone then s.emit (.readData init 0) else s)
  else
    let sent := s.memberReached init
    let s1 := if sent then
        s.emit (.memberAccess (s.getF MGT_MEMBER_SEL.member init) off.toNat wide (write.map fun w => (readPart w wide false).toNat))
      else s
    match answer with
    | some v =>
      if sent then .next (if write.isNone then s1.emit (.readData init (readPart v wide false)) else s1)
      else .next { s1 with odf := { s1.odf with accesses := s1.odf.accesses ++ [⟨init, write.isNone, wide, s1.now⟩] } }
    | none => .next { s1 with odf := { s1.odf with accesses := s1.odf.accesses ++ [⟨init, write.isNone, wide, s1.now⟩] } }

/-- MEMBER_ACCESS_TIMEOUT (R523): the oldest failed access ends, 20 µs after it was issued at the latest, at a free instant: a read
returns all ones at its width, and error is set for the core. -/
def execMemberAccessTimeout (s : State) : Res :=
  match s.odf.accesses with
  | [] => .next s
  | a :: rest =>
    let d := s.draw 18
    let s1 := d.2.after (a.at_ + d.1 % (20 * usT + 1))
    let s2 := { s1 with odf := { s1.odf with accesses := rest } }.setF MGT_MEMBER_SEL.error 1 a.core
    .next (if a.read then s2.emit (.readData a.core (readPart (BitVec.ofNat 64 (2 ^ 64 - 1)) a.wide false)) else s2)

end Sys2Proof.Machine
end

