-- ==== Sys2Proof/Machine/Dispatch.lean ====
section
/-! DEFINITION. One arm for each command of the table: its meaning, or its rejection by name. -/

namespace Sys2Proof.Machine

/-- The effect of a command on everything but the queue. -/
def exec (i : Instr) (s : State) : Host.Outcome State Fault Refusal :=
  match i with
  | .registerWrite init place wide v => Sys2Proof.Machine.execRegisterWrite init place wide v s
  | .rcRead init place wide => Sys2Proof.Machine.execRcRead init place wide s
  | .frameReceive port t bytes last err => Sys2Proof.Machine.execFrameReceive port t bytes last err s
  | .frameEnd port t rest err => Sys2Proof.Machine.execFrameEnd port t rest err s
  | .pipelineEntry p bads slotBad => Sys2Proof.Machine.execPipelineEntry p bads slotBad s
  | .fltLookupResult p bads => Sys2Proof.Machine.execFltLookupResult p bads s
  | .enqueue p => Sys2Proof.Machine.execEnqueue p s
  | .spillFetch q => Sys2Proof.Machine.execSpillFetch q s
  | .schedulerSelection ep noRoom badNodes upset => Sys2Proof.Machine.execSchedulerSelection ep noRoom badNodes upset s
  | .egressHandoff ep => Sys2Proof.Machine.execEgressHandoff ep s
  | .recirculate p => Sys2Proof.Machine.execRecirculate p s
  | .ageDrop => Sys2Proof.Machine.execAgeDrop s
  | .pendingWriteRelease => Sys2Proof.Machine.execPendingWriteRelease s
  | .replicaWriteBack g n => Sys2Proof.Machine.execReplicaWriteBack g n s
  | .replicaRepair pos word lost => Sys2Proof.Machine.execReplicaRepair pos word lost s
  | .modeRequestGo init target => Sys2Proof.Machine.execModeRequestGo init target s
  | .claim o => Sys2Proof.Machine.execClaim o s
  | .release o => Sys2Proof.Machine.execRelease o s
  | .modeCommit => Sys2Proof.Machine.execModeCommit s
  | .hostPwrGoodChange level => Sys2Proof.Machine.execHostPwrGoodChange level s
  | .standbyEntryDebounce => Sys2Proof.Machine.execStandbyEntryDebounce s
  | .standbyExitDebounce => Sys2Proof.Machine.execStandbyExitDebounce s
  | .cascadeLinksSilent => Sys2Proof.Machine.execCascadeLinksSilent s
  | .resetColdRequest init v => Sys2Proof.Machine.execResetColdRequest init v s
  | .resetWarmRequest init v => Sys2Proof.Machine.execResetWarmRequest init v s
  | .resetDatapathRequest init v => Sys2Proof.Machine.execResetDatapathRequest init v s
  | .flushDone => Sys2Proof.Machine.execFlushDone s
  | .flushTimeout => Sys2Proof.Machine.execFlushTimeout s
  | .resetRelease => Sys2Proof.Machine.execResetRelease s
  | .dResetDone => Sys2Proof.Machine.execDResetDone s
  | .acFail => Sys2Proof.Machine.execAcFail s
  | .acFailMramWindowEnd => Sys2Proof.Machine.execAcFailMramWindowEnd s
  | .acRailsDown => Sys2Proof.Machine.execAcRailsDown s
  | .acFailClear => Sys2Proof.Machine.execAcFailClear s
  | .acReturn => Sys2Proof.Machine.execAcReturn s
  | .reserveExhausted => Sys2Proof.Machine.execReserveExhausted s
  | .reserveFull => Sys2Proof.Machine.execReserveFull s
  | .tsvRateWrite init v => Sys2Proof.Machine.execTsvRateWrite init v s
  | .tsvServoWrite init wide upper v => Sys2Proof.Machine.execTsvServoWrite init wide upper v s
  | .tsvSlew init amount => Sys2Proof.Machine.execTsvSlew init amount s
  | .tsvStep init amount => Sys2Proof.Machine.execTsvStep init amount s
  | .tsvSet init amount => Sys2Proof.Machine.execTsvSet init amount s
  | .setAtPps init amount => Sys2Proof.Machine.execSetAtPps init amount s
  | .ppsInEdge t highNs => Sys2Proof.Machine.execPpsInEdge t highNs s
  | .ppsWindowMissed => Sys2Proof.Machine.execPpsWindowMissed s
  | .referenceQualified r => Sys2Proof.Machine.execReferenceQualified r s
  | .referenceDisqualified r => Sys2Proof.Machine.execReferenceDisqualified r s
  | .counterMismatch b => Sys2Proof.Machine.execCounterMismatch b s
  | .servoBeatTimeout => Sys2Proof.Machine.execServoBeatTimeout s
  | .uRefEvaluation temp => Sys2Proof.Machine.execURefEvaluation temp s
  | .replicaCheck r diff => Sys2Proof.Machine.execReplicaCheck r diff s
  | .replicaRealigned r => Sys2Proof.Machine.execReplicaRealigned r s
  | .timeSnapshotPublish => Sys2Proof.Machine.execTimeSnapshotPublish s
  | .snapshotLatch init off wide => Sys2Proof.Machine.execSnapshotLatch init off wide s
  | .ppsOutputEdge o => Sys2Proof.Machine.execPpsOutputEdge o s
  | .ptmDialogue link master rootBound => Sys2Proof.Machine.execPtmDialogue link master rootBound s
  | .ptmStale link => Sys2Proof.Machine.execPtmStale link s
  | .timePageEnable fn => Sys2Proof.Machine.execTimePageEnable fn s
  | .timePageDisable fn => Sys2Proof.Machine.execTimePageDisable fn s
  | .timePageWrite fn utc => Sys2Proof.Machine.execTimePageWrite fn utc s
  | .islandReset init key => Sys2Proof.Machine.execIslandReset init key s
  | .formeOpen o => Sys2Proof.Machine.execFormeOpen o s
  | .formeLoad o addr img => Sys2Proof.Machine.execFormeLoad o addr img s
  | .formeLockUp o => Sys2Proof.Machine.execFormeLockUp o s
  | .lockUpCommit => Sys2Proof.Machine.execLockUpCommit s
  | .formeDiscard o => Sys2Proof.Machine.execFormeDiscard o s
  | .formeRetired => Sys2Proof.Machine.execFormeRetired s
  | .settleSweepDone => Sys2Proof.Machine.execSettleSweepDone s
  | .discardSweepDone => Sys2Proof.Machine.execDiscardSweepDone s
  | .tblInsert o blk w img => Sys2Proof.Machine.execTblInsert o blk w img s
  | .tblDelete o blk w img => Sys2Proof.Machine.execTblDelete o blk w img s
  | .tblModify o blk w img => Sys2Proof.Machine.execTblModify o blk w img s
  | .tblRetag o blk w img => Sys2Proof.Machine.execTblRetag o blk w img s
  | .tblLookup o blk w img => Sys2Proof.Machine.execTblLookup o blk w img s
  | .tblReadPos o blk w => Sys2Proof.Machine.execTblReadPos o blk w s
  | .tblDeletePos o blk w => Sys2Proof.Machine.execTblDeletePos o blk w s
  | .hashSeedWrite init flt wide upper v => Sys2Proof.Machine.execHashSeedWrite init flt wide upper v s
  | .overflowPromotion flt pos => Sys2Proof.Machine.execOverflowPromotion flt pos s
  | .agerPass flt => Sys2Proof.Machine.execAgerPass flt s
  | .emlLearnEvent => Sys2Proof.Machine.execEmlLearnEvent s
  | .fltLearnEvent => Sys2Proof.Machine.execFltLearnEvent s
  | .holdSweep => Sys2Proof.Machine.execHoldSweep s
  | .epochGo init => Sys2Proof.Machine.execEpochGo init s
  | .epochSwap => Sys2Proof.Machine.execEpochSwap s
  | .policerWrite init index => Sys2Proof.Machine.execPolicerWrite init index s
  | .policerRead init index => Sys2Proof.Machine.execPolicerRead init index s
  | .opticalModuleRemoved cage => Sys2Proof.Machine.execOpticalModuleRemoved cage s
  | .opticalModuleInserted cage info => Sys2Proof.Machine.execOpticalModuleInserted cage info s
  | .linkUp port => Sys2Proof.Machine.execLinkUp port s
  | .linkDown port => Sys2Proof.Machine.execLinkDown port s
  | .frameLaunch port => Sys2Proof.Machine.execFrameLaunch port s
  | .impositionGo init port => Sys2Proof.Machine.execImpositionGo init port s
  | .impositionCopyDone port => Sys2Proof.Machine.execImpositionCopyDone port s
  | .impositionSwap port => Sys2Proof.Machine.execImpositionSwap port s
  | .impositionEnable init port wide upper v => Sys2Proof.Machine.execImpositionEnable init port wide upper v s
  | .impositionCycleStart port => Sys2Proof.Machine.execImpositionCycleStart port s
  | .lpiEnter port => Sys2Proof.Machine.execLpiEnter port s
  | .lpiWakeDone port => Sys2Proof.Machine.execLpiWakeDone port s
  | .laneFault cage lane => Sys2Proof.Machine.execLaneFault cage lane s
  | .drtWrite num idx dest => Sys2Proof.Machine.execDrtWrite num idx dest s
  | .drtWriteImm num idx dest => Sys2Proof.Machine.execDrtWriteImm num idx dest s
  | .drtRead num idx dest => Sys2Proof.Machine.execDrtRead num idx dest s
  | .drugrimPacketSend dst given => Sys2Proof.Machine.execDrugrimPacketSend dst given s
  | .dataReceive frame trunc => Sys2Proof.Machine.execDataReceive frame trunc s
  | .readReqReceive frame trunc => Sys2Proof.Machine.execReadReqReceive frame trunc s
  | .readRespReceive frame trunc => Sys2Proof.Machine.execReadRespReceive frame trunc s
  | .ackReceive frame trunc => Sys2Proof.Machine.execAckReceive frame trunc s
  | .errorReceive frame trunc => Sys2Proof.Machine.execErrorReceive frame trunc s
  | .ackTimer src msgSeq => Sys2Proof.Machine.execAckTimer src msgSeq s
  | .retransmitTimeout r => Sys2Proof.Machine.execRetransmitTimeout r s
  | .messageDeadline r => Sys2Proof.Machine.execMessageDeadline r s
  | .recordExpire src msgSeq => Sys2Proof.Machine.execRecordExpire src msgSeq s
  | .notBeforeRelease src msgSeq => Sys2Proof.Machine.execNotBeforeRelease src msgSeq s
  | .heldTimeout src msgSeq => Sys2Proof.Machine.execHeldTimeout src msgSeq s
  | .tombstoneFree src msgSeq => Sys2Proof.Machine.execTombstoneFree src msgSeq s
  | .settleEnd => Sys2Proof.Machine.execSettleEnd s
  | .epCreate o => Sys2Proof.Machine.execEpCreate o s
  | .epDestroy o => Sys2Proof.Machine.execEpDestroy o s
  | .regionReg o => Sys2Proof.Machine.execRegionReg o s
  | .regionRevoke o => Sys2Proof.Machine.execRegionRevoke o s
  | .regionRead o => Sys2Proof.Machine.execRegionRead o s
  | .domainSet o => Sys2Proof.Machine.execDomainSet o s
  | .domainNext o => Sys2Proof.Machine.execDomainNext o s
  | .domainPromote o => Sys2Proof.Machine.execDomainPromote o s
  | .domainDropPrev o => Sys2Proof.Machine.execDomainDropPrev o s
  | .transportDisable init => Sys2Proof.Machine.execTransportDisable init s
  | .encrypt core thread => Sys2Proof.Machine.execEncrypt core thread s
  | .decrypt core thread => Sys2Proof.Machine.execDecrypt core thread s
  | .derive core thread => Sys2Proof.Machine.execDerive core thread s
  | .cipherDispatch => Sys2Proof.Machine.execCipherDispatch s
  | .cipherResume => Sys2Proof.Machine.execCipherResume s
  | .cipherComplete => Sys2Proof.Machine.execCipherComplete s
  | .descriptorPriorityRaise => Sys2Proof.Machine.execDescriptorPriorityRaise s
  | .keyLoad o slot => Sys2Proof.Machine.execKeyLoad o slot s
  | .keyUnwrap o slot kek => Sys2Proof.Machine.execKeyUnwrap o slot kek s
  | .keyErase o slot => Sys2Proof.Machine.execKeyErase o slot s
  | .keyAttr o slot => Sys2Proof.Machine.execKeyAttr o slot s
  | .keyQuery o slot => Sys2Proof.Machine.execKeyQuery o slot s
  | .cphRngRead init wide upper => Sys2Proof.Machine.execCphRngRead init wide upper s
  | .drbgReseed inst => Sys2Proof.Machine.execDrbgReseed inst s
  | .entropyFailure test => Sys2Proof.Machine.execEntropyFailure test s
  | .entropyRecovered => Sys2Proof.Machine.execEntropyRecovered s
  | .cipherEntropyTimeout => Sys2Proof.Machine.execCipherEntropyTimeout s
  | .unitKnownAnswerTest unit pass => Sys2Proof.Machine.execUnitKnownAnswerTest unit pass s
  | .mmioRequest m => Sys2Proof.Machine.execMmioRequest m s
  | .perstAssert links => Sys2Proof.Machine.execPerstAssert links s
  | .hotReset e => Sys2Proof.Machine.execHotReset e s
  | .linkTrained e speed width flit drs => Sys2Proof.Machine.execLinkTrained e speed width flit drs s
  | .flr fn => Sys2Proof.Machine.execFlr fn s
  | .completionTimeout w => Sys2Proof.Machine.execCompletionTimeout w s
  | .readFailure w k => Sys2Proof.Machine.execReadFailure w k s
  | .translationMismatch fn => Sys2Proof.Machine.execTranslationMismatch fn s
  | .interruptUnmask fn vec slice => Sys2Proof.Machine.execInterruptUnmask fn vec slice s
  | .l1Entry e deep => Sys2Proof.Machine.execL1Entry e deep s
  | .l0pWindow e util => Sys2Proof.Machine.execL0pWindow e util s
  | .doorbell fn page d poisoned => Sys2Proof.Machine.execDoorbell fn page d poisoned s
  | .indexLineRead cls num idx => Sys2Proof.Machine.execIndexLineRead cls num idx s
  | .entryFetch num entries => Sys2Proof.Machine.execEntryFetch num entries s
  | .consumerIndexWrite num => Sys2Proof.Machine.execConsumerIndexWrite num s
  | .txEntry num idx frame => Sys2Proof.Machine.execTxEntry num idx frame s
  | .hostRxDelivery link => Sys2Proof.Machine.execHostRxDelivery link s
  | .stashRetry num idx => Sys2Proof.Machine.execStashRetry num idx s
  | .moderationTimer cls num => Sys2Proof.Machine.execModerationTimer cls num s
  | .ringCreate fn => Sys2Proof.Machine.execRingCreate fn s
  | .ringEnable fn => Sys2Proof.Machine.execRingEnable fn s
  | .ringDisable fn => Sys2Proof.Machine.execRingDisable fn s
  | .ringDrained num => Sys2Proof.Machine.execRingDrained num s
  | .ringDestroy fn => Sys2Proof.Machine.execRingDestroy fn s
  | .ringQuery fn => Sys2Proof.Machine.execRingQuery fn s
  | .ringModifyIrq fn => Sys2Proof.Machine.execRingModifyIrq fn s
  | .sliceCreate init slice => Sys2Proof.Machine.execSliceCreate init slice s
  | .sliceStart init slice => Sys2Proof.Machine.execSliceStart init slice s
  | .sliceReset init slice => Sys2Proof.Machine.execSliceReset init slice s
  | .sliceDestroy init slice => Sys2Proof.Machine.execSliceDestroy init slice s
  | .sliceResize init slice => Sys2Proof.Machine.execSliceResize init slice s
  | .setWindow init slice => Sys2Proof.Machine.execSetWindow init slice s
  | .sliceQuery init slice => Sys2Proof.Machine.execSliceQuery init slice s
  | .sliceBlockDrained slice blk degraded => Sys2Proof.Machine.execSliceBlockDrained slice blk degraded s
  | .sliceSilenceDone slice => Sys2Proof.Machine.execSliceSilenceDone slice s
  | .sliceResetEnd slice => Sys2Proof.Machine.execSliceResetEnd slice s
  | .sliceRemovalDone slice => Sys2Proof.Machine.execSliceRemovalDone slice s
  | .actWrite init => Sys2Proof.Machine.execActWrite init s
  | .actRead init => Sys2Proof.Machine.execActRead init s
  | .actSealWrite init wide v => Sys2Proof.Machine.execActSealWrite init wide v s
  | .actLogPop init => Sys2Proof.Machine.execActLogPop init s
  | .controllerEnable c cc => Sys2Proof.Machine.execControllerEnable c cc s
  | .controllerReset c => Sys2Proof.Machine.execControllerReset c s
  | .controllerResetTimeout c => Sys2Proof.Machine.execControllerResetTimeout c s
  | .normalShutdown c => Sys2Proof.Machine.execNormalShutdown c s
  | .abruptShutdown c => Sys2Proof.Machine.execAbruptShutdown c s
  | .nvmeDoorbell c cq qid value reads => Sys2Proof.Machine.execNvmeDoorbell c cq qid value reads s
  | .deleteIoSubmissionQueue c => Sys2Proof.Machine.execDeleteIoSubmissionQueue c s
  | .createIoSubmissionQueue c => Sys2Proof.Machine.execCreateIoSubmissionQueue c s
  | .getLogPage c prps => Sys2Proof.Machine.execGetLogPage c prps s
  | .deleteIoCompletionQueue c => Sys2Proof.Machine.execDeleteIoCompletionQueue c s
  | .createIoCompletionQueue c => Sys2Proof.Machine.execCreateIoCompletionQueue c s
  | .nvmeIdentify c prps => Sys2Proof.Machine.execNvmeIdentify c prps s
  | .nvmeAbort c => Sys2Proof.Machine.execNvmeAbort c s
  | .asynchronousEventRequest c => Sys2Proof.Machine.execAsynchronousEventRequest c s
  | .setFeatures c prps data => Sys2Proof.Machine.execSetFeatures c prps data s
  | .getFeatures c prps => Sys2Proof.Machine.execGetFeatures c prps s
  | .firmwareImageDownload c prps data => Sys2Proof.Machine.execFirmwareImageDownload c prps data s
  | .firmwareCommit c => Sys2Proof.Machine.execFirmwareCommit c s
  | .nvmeFlush c sq => Sys2Proof.Machine.execNvmeFlush c sq s
  | .nvmeWrite c sq prps data dest => Sys2Proof.Machine.execNvmeWrite c sq prps data dest s
  | .nvmeRead c sq prps dest => Sys2Proof.Machine.execNvmeRead c sq prps dest s
  | .nvmeWriteZeroes c sq dest => Sys2Proof.Machine.execNvmeWriteZeroes c sq dest s
  | .backendReadDone msg => Sys2Proof.Machine.execBackendReadDone msg s
  | .destageDone msg => Sys2Proof.Machine.execDestageDone msg s
  | .destageRetry buf dest => Sys2Proof.Machine.execDestageRetry buf dest s
  | .destageFailureWarning ns => Sys2Proof.Machine.execDestageFailureWarning ns s
  | .apstIdle c => Sys2Proof.Machine.execApstIdle c s
  | .smartCounterUpdate => Sys2Proof.Machine.execSmartCounterUpdate s
  | .nsCreate init ns => Sys2Proof.Machine.execNsCreate init ns s
  | .nsDelete init ns => Sys2Proof.Machine.execNsDelete init ns s
  | .nsAttach init ns controller nsid => Sys2Proof.Machine.execNsAttach init ns controller nsid s
  | .nsDetach init ns => Sys2Proof.Machine.execNsDetach init ns s
  | .nsQuery init ns => Sys2Proof.Machine.execNsQuery init ns s
  | .clearFault init ns => Sys2Proof.Machine.execClearFault init ns s
  | .channelOpen core thread dest => Sys2Proof.Machine.execChannelOpen core thread dest s
  | .channelWrite core thread word => Sys2Proof.Machine.execChannelWrite core thread word s
  | .channelCommit core thread => Sys2Proof.Machine.execChannelCommit core thread s
  | .channelReceive core thread mask => Sys2Proof.Machine.execChannelReceive core thread mask s
  | .packetDelivery half => Sys2Proof.Machine.execPacketDelivery half s
  | .coreTime core thread => Sys2Proof.Machine.execCoreTime core thread s
  | .coreTimer core thread => Sys2Proof.Machine.execCoreTimer core thread s
  | .timerExpire core => Sys2Proof.Machine.execTimerExpire core s
  | .startDone core thread => Sys2Proof.Machine.execStartDone core thread s
  | .threadRestart core thread => Sys2Proof.Machine.execThreadRestart core thread s
  | .threadStop core thread => Sys2Proof.Machine.execThreadStop core thread s
  | .readEvents core thread => Sys2Proof.Machine.execReadEvents core thread s
  | .pbfRead core thread => Sys2Proof.Machine.execPbfRead core thread s
  | .pbfWrite core thread => Sys2Proof.Machine.execPbfWrite core thread s
  | .pbfInject core thread => Sys2Proof.Machine.execPbfInject core thread s
  | .pbfFree core thread => Sys2Proof.Machine.execPbfFree core thread s
  | .pbfAlloc core thread => Sys2Proof.Machine.execPbfAlloc core thread s
  | .memRead core thread => Sys2Proof.Machine.execMemRead core thread s
  | .memWrite core thread => Sys2Proof.Machine.execMemWrite core thread s
  | .gmul core thread x y => Sys2Proof.Machine.execGmul core thread x y s
  | .xmul core thread x => Sys2Proof.Machine.execXmul core thread x s
  | .threadFault core thread cause addr => Sys2Proof.Machine.execThreadFault core thread cause addr s
  | .deadlock core => Sys2Proof.Machine.execDeadlock core s
  | .globalDeadlockSample => Sys2Proof.Machine.execGlobalDeadlockSample s
  | .threadHeld core thread => Sys2Proof.Machine.execThreadHeld core thread s
  | .dbgStop init core thread => Sys2Proof.Machine.execDbgStop init core thread s
  | .dbgResume init core thread => Sys2Proof.Machine.execDbgResume init core thread s
  | .dbgStep init core thread => Sys2Proof.Machine.execDbgStep init core thread s
  | .dbgRead init core thread index => Sys2Proof.Machine.execDbgRead init core thread index s
  | .dbgWrite init core thread index => Sys2Proof.Machine.execDbgWrite init core thread index s
  | .coreLoad init first last addr => Sys2Proof.Machine.execCoreLoad init first last addr s
  | .resetCore init core => Sys2Proof.Machine.execResetCore init core s
  | .coreLoadGroupDone group => Sys2Proof.Machine.execCoreLoadGroupDone group s
  | .startupTimeout core => Sys2Proof.Machine.execStartupTimeout core s
  | .faultEvent q ev word row => Sys2Proof.Machine.execFaultEvent q ev word row s
  | .correctedEvent q ev => Sys2Proof.Machine.execCorrectedEvent q ev s
  | .faultAck init wide upper v => Sys2Proof.Machine.execFaultAck init wide upper v s
  | .prfSliceLift init slice => Sys2Proof.Machine.execPrfSliceLift init slice s
  | .safelightFeed init v => Sys2Proof.Machine.execSafelightFeed init v s
  | .safelightFeedTimeout => Sys2Proof.Machine.execSafelightFeedTimeout s
  | .safelightBoundary => Sys2Proof.Machine.execSafelightBoundary s
  | .clockDeviation => Sys2Proof.Machine.execClockDeviation s
  | .patrolScrub q mem found unit row => Sys2Proof.Machine.execPatrolScrub q mem found unit row s
  | .unitFailure kind unit => Sys2Proof.Machine.execUnitFailure kind unit s
  | .selfTest found fatal => Sys2Proof.Machine.execSelfTest found fatal s
  | .selfTestFatalRetry => Sys2Proof.Machine.execSelfTestFatalRetry s
  | .repairLogRead init index => Sys2Proof.Machine.execRepairLogRead init index s
  | .errorInject init blk v => Sys2Proof.Machine.execErrorInject init blk v s
  | .romStart straps => Sys2Proof.Machine.execRomStart straps s
  | .sourceWaitTimeout => Sys2Proof.Machine.execSourceWaitTimeout s
  | .recGo fn v => Sys2Proof.Machine.execRecGo fn v s
  | .tftpImageWrite => Sys2Proof.Machine.execTftpImageWrite s
  | .odferImageOffer link => Sys2Proof.Machine.execOdferImageOffer link s
  | .imageReceived image => Sys2Proof.Machine.execImageReceived image s
  | .romHandover => Sys2Proof.Machine.execRomHandover s
  | .bootWatchdog => Sys2Proof.Machine.execBootWatchdog s
  | .bootDone init => Sys2Proof.Machine.execBootDone init s
  | .bootFail by_ => Sys2Proof.Machine.execBootFail by_ s
  | .recoveryWindowClose => Sys2Proof.Machine.execRecoveryWindowClose s
  | .darkroomRetry => Sys2Proof.Machine.execDarkroomRetry s
  | .measRead init n => Sys2Proof.Machine.execMeasRead init n s
  | .measExtend init n => Sys2Proof.Machine.execMeasExtend init n s
  | .measLogRead init n => Sys2Proof.Machine.execMeasLogRead init n s
  | .updOpen init v => Sys2Proof.Machine.execUpdOpen init v s
  | .updWrite init v => Sys2Proof.Machine.execUpdWrite init v s
  | .updClose init v => Sys2Proof.Machine.execUpdClose init v s
  | .updActivate init v prepare => Sys2Proof.Machine.execUpdActivate init v prepare s
  | .activateCommit outcome => Sys2Proof.Machine.execActivateCommit outcome s
  | .activateTimeout => Sys2Proof.Machine.execActivateTimeout s
  | .updPrefer init v => Sys2Proof.Machine.execUpdPrefer init v s
  | .updInvalidate init v => Sys2Proof.Machine.execUpdInvalidate init v s
  | .revokeKey init v => Sys2Proof.Machine.execRevokeKey init v s
  | .advanceSvn init v => Sys2Proof.Machine.execAdvanceSvn init v s
  | .enrollOwner init v => Sys2Proof.Machine.execEnrollOwner init v s
  | .ownerLock init v => Sys2Proof.Machine.execOwnerLock init v s
  | .ownerUnlock init v => Sys2Proof.Machine.execOwnerUnlock init v s
  | .agreementRecordSend => Sys2Proof.Machine.execAgreementRecordSend s
  | .agreementRecordReceive link peer peerLink delay offset r => Sys2Proof.Machine.execAgreementRecordReceive link peer peerLink delay offset r s
  | .odferLinkDown link lost => Sys2Proof.Machine.execOdferLinkDown link lost s
  | .masterSilent => Sys2Proof.Machine.execMasterSilent s
  | .memberSilent => Sys2Proof.Machine.execMemberSilent s
  | .odfLockup by_ refused => Sys2Proof.Machine.execOdfLockup by_ refused s
  | .repartition by_ => Sys2Proof.Machine.execRepartition by_ s
  | .handback init => Sys2Proof.Machine.execHandback init s
  | .repartitionHoldExpire => Sys2Proof.Machine.execRepartitionHoldExpire s
  | .odferFrameReceive link f => Sys2Proof.Machine.execOdferFrameReceive link f s
  | .farLookupRequest member id forme key bads => Sys2Proof.Machine.execFarLookupRequest member id forme key bads s
  | .farLookupResult p id hit bads => Sys2Proof.Machine.execFarLookupResult p id hit bads s
  | .farLookupTimeout p => Sys2Proof.Machine.execFarLookupTimeout p s
  | .memberWindowAccess init off wide write answer => Sys2Proof.Machine.execMemberWindowAccess init off wide write answer s
  | .memberAccessTimeout => Sys2Proof.Machine.execMemberAccessTimeout s
  | .hostOn init v => Sys2Proof.Machine.execHostOn init v s
  | .hostOff init v => Sys2Proof.Machine.execHostOff init v s
  | .hostForceOff init v => Sys2Proof.Machine.execHostForceOff init v s
  | .hostReset init v => Sys2Proof.Machine.execHostReset init v s
  | .hostCycle init v => Sys2Proof.Machine.execHostCycle init v s
  | .hostAuxOff init v => Sys2Proof.Machine.execHostAuxOff init v s
  | .hostPowerOpEnd => Sys2Proof.Machine.execHostPowerOpEnd s
  | .hostWake => Sys2Proof.Machine.execHostWake s
  | .hostPowerPolicyApply => Sys2Proof.Machine.execHostPowerPolicyApply s
  | .thermalAlarm x => Sys2Proof.Machine.execThermalAlarm x s
  | .thermalAlarmClear x => Sys2Proof.Machine.execThermalAlarmClear x s
  | .thermalCritical x => Sys2Proof.Machine.execThermalCritical x s
  | .thermalTrip x => Sys2Proof.Machine.execThermalTrip x s
  | .thermalRestart x => Sys2Proof.Machine.execThermalRestart x s
  | .psuFault => Sys2Proof.Machine.execPsuFault s
  | .mgmtFrameReceive frame word => Sys2Proof.Machine.execMgmtFrameReceive frame word s
  | .mgmtTransmit init prod word => Sys2Proof.Machine.execMgmtTransmit init prod word s
  | .opticalModuleFault cage => Sys2Proof.Machine.execOpticalModuleFault cage s
  | .configurationRequest fn c => Sys2Proof.Machine.execConfigurationRequest fn c s
  | .receivedTlpError e err fn hdr => Sys2Proof.Machine.execReceivedTlpError e err fn hdr s
  | .backendWriteDone msg => Sys2Proof.Machine.execBackendWriteDone msg s
  | .temperatureThreshold c kelvin => Sys2Proof.Machine.execTemperatureThreshold c kelvin s
  | .hostEndpointRequest core thread fn slice wr addr len loc data => Sys2Proof.Machine.execHostEndpointRequest core thread fn slice wr addr len loc data s
  | .mgmtLinkChange up gigabit => Sys2Proof.Machine.execMgmtLinkChange up gigabit s
  | .linkPartnerLpi port on => Sys2Proof.Machine.execLinkPartnerLpi port on s
  | .redfishReset force => Sys2Proof.Machine.execRedfishReset force s
  | .smbusTransaction addr write bytes => Sys2Proof.Machine.execSmbusTransaction addr write bytes s

end Sys2Proof.Machine
end

