-- ==== Sys2Proof/Safety.lean ====
section
/-! DEFINITION. What counts as a safe step, in the terms that claims use. -/

namespace Sys2Proof.Machine

/-- A step is safe where it answers a next state: the spec gives every command an effect, so that no command stops the module. -/
def Completes (o : Host.Outcome State Fault Refusal) : Prop := ∃ t, o = .next t

/-- What becomes of fuses: those of identity and boot order stay, the anti-rollback version never falls, a revoked key stays revoked
(R464–R466). -/
structure FuseKept (f g : Fuse) : Prop where
  grade : g.grade = f.grade
  stepping : g.stepping = f.stepping
  serial : g.serial = f.serial
  mac : g.mac = f.mac
  orderLock : g.orderLock = f.orderLock
  order : g.order = f.order
  keyPresent : g.keyPresent = f.keyPresent
  keyHash : g.keyHash = f.keyHash
  rollback : f.rollback ≤ g.rollback
  revoked : ∀ i, natBit f.keyRevoked i = true → natBit g.keyRevoked i = true

/-- The canonical form of the registers, their MRAM copies and module memory. -/
def State.Canon (s : State) : Prop := Tab.sorted s.regs = true ∧ Tab.sorted s.mram = true ∧ Memory.wf s.mem = true

/-- The parts of State that a command may change, beside the queue, the time and the count of free values: the registers, their MRAM copies,
module memory, modes and resets, the proofreader, the host interface, the time island, PTM, the time pages, the rings, the slices,
the data path, the formes, the tables, the traffic manager, the flow cores, the cipher hall, the transport, the NVMe functions, boot,
updates, the cascade, the hardware, the log of what left the module, the fuses. -/
inductive Part where
  | regs | mram | mem | modes | prf | hif | island | ptm | pages | rings | slc | dp | frm
  | tbl | tm | fcx | cph | drt | nve | boot | upd | odf | hw | out | fuse
deriving DecidableEq, Repr

/-- A part is the same in two states. -/
def Part.same (s t : State) : Part → Prop
  | .regs => t.regs = s.regs
  | .mram => t.mram = s.mram
  | .mem => t.mem = s.mem
  | .modes => t.modes = s.modes
  | .prf => t.prf = s.prf
  | .hif => t.hif = s.hif
  | .island => t.island = s.island
  | .ptm => t.ptm = s.ptm
  | .pages => t.pages = s.pages
  | .rings => t.rings = s.rings
  | .slc => t.slc = s.slc
  | .dp => t.dp = s.dp
  | .frm => t.frm = s.frm
  | .tbl => t.tbl = s.tbl
  | .tm => t.tm = s.tm
  | .fcx => t.fcx = s.fcx
  | .cph => t.cph = s.cph
  | .drt => t.drt = s.drt
  | .nve => t.nve = s.nve
  | .boot => t.boot = s.boot
  | .upd => t.upd = s.upd
  | .odf => t.odf = s.odf
  | .hw => t.hw = s.hw
  | .out => t.out = s.out
  | .fuse => t.fuse = s.fuse

/-- A command changes at most the parts listed, in every state and on every path. -/
def Changes (ps : List Part) (c : Instr) : Prop :=
  ∀ s t, exec c s = .next t → ∀ p, p ∉ ps → p.same s t

/-- The commands that write the time island's own state: its register writes and events (R68). -/
def movesIsland : Instr → Bool
  | .registerWrite .. | .reserveExhausted .. | .tsvRateWrite .. | .tsvServoWrite .. | .tsvSlew .. | .tsvStep .. | .tsvSet ..
  | .setAtPps .. | .ppsInEdge .. | .ppsWindowMissed .. | .referenceQualified .. | .referenceDisqualified .. | .counterMismatch .. | .servoBeatTimeout ..
  | .uRefEvaluation .. | .replicaCheck .. | .replicaRealigned .. | .timeSnapshotPublish .. | .ppsOutputEdge .. | .islandReset .. | .mmioRequest .. => true
  | _ => false

/-- The commands that can reach the fuse programmer: the two UPD operations (R466), and a register access that gives one of them. -/
def blowsFuses : Instr → Bool
  | .registerWrite .. | .mmioRequest .. | .revokeKey .. | .advanceSvn .. => true
  | _ => false

end Sys2Proof.Machine
end

