-- ==== Sys2Proof/Certificates/Slice0/Obligations.lean ====
section
/-! DEFINITION. The statements for the provers. -/

open Sys2Proof Sys2Proof.Machine

/-- The step runs the command at the front of the queue: step of a state with a command in front is exec of that command on the state
with the queue's rest. -/
def Obligations.StepRunsFront : Prop :=
  (∀ (c : Instr) (s : State), step { s with pending := c :: s.pending } = exec c s) ∧
  (∀ (c : Instr) (rest : List Instr) (s : State), s.pending = c :: rest → step s = exec c { s with pending := rest })

/-- With no command waiting the step lets one tick of time pass, with the work that waits for nothing else: output pulses that have run
out, channel work and delays of the flow cores that are due, NVMe queues that signal, NVMe work that can go on (the model's choice: log
entry 1). The rest of the module stays. -/
def Obligations.IdleStepTicks : Prop :=
  ∀ s : State, s.pending = [] → step s = .next s.tick ∧ s.now < s.tick.now ∧ s.tick.pending = [] ∧
    ∀ p : Part, p ∉ [.regs, .mram, .mem, .prf, .hif, .island, .rings, .slc, .fcx, .cph, .drt, .nve, .out] → p.same s s.tick

/-- The machine right after reset has its registers, MRAM copies and module memory in canonical form and no command waiting. -/
def Obligations.ResetIsCanonical : Prop :=
  State.reset.Canon ∧ State.reset.pending = []

/-- Every step keeps the canonical form of registers, MRAM copies and module memory, from every state that has it. -/
def Obligations.StepKeepsCanonicalForm : Prop :=
  ∀ s t : State, s.Canon → step s = .next t → t.Canon

/-- A step takes exactly the front of the queue, and neither time nor the count of free values used ever runs backwards. -/
def Obligations.StepTakesFrontOnly : Prop :=
  ∀ s t : State, step s = .next t → t.pending = s.pending.tail ∧ s.now ≤ t.now ∧ s.freeSeq ≤ t.freeSeq

/-- No command stops the module: every command answers a next state in every state, so every step does. -/
def Obligations.EveryCommandCompletes : Prop :=
  (∀ (c : Instr) (s : State), Completes (exec c s)) ∧ (∀ s : State, Completes (step s))

/-- Fuses only blow (R464-R466): a revoked key stays revoked, the rollback counter never falls, every other fuse stays; and only the UPD
operations, given as their own rows or by a register access, reach them at all. -/
def Obligations.FusesOnlyBlow : Prop :=
  (∀ (c : Instr) (s t : State), exec c s = .next t → FuseKept s.fuse t.fuse ∧ (blowsFuses c = false → t.fuse = s.fuse)) ∧
  (∀ s t : State, step s = .next t → FuseKept s.fuse t.fuse)

/-- The time island's own state (counters, discipline, servo mirror, holdover model) moves only by the commands of the time service, a register
access, and the loss of the reserve: no mode change, reset, fault, update or host event touches it (R68). -/
def Obligations.IslandKeptByAllElse : Prop :=
  ∀ (c : Instr) (s t : State), exec c s = .next t → movesIsland c = false → t.island = s.island

/-- A register-path store to module memory changes the stored bytes alone: each byte outside reads as before, each stored byte reads as
written where the access tables let the store through, and none changes where they do not. -/
def Obligations.MemoryStoreFrame : Prop :=
  ∀ (init a : Nat) (wide : Bool) (v : Word) (s t : State), 0x04000000 ≤ a → Memory.wf s.mem = true →
    exec (.registerWrite init (.memory a) wide v) s = .next t →
    let n := if wide then 8 else 4
    let ok := s.masterReaches init && (s.memoryAccess .write init a n).2
    (∀ b, b < a ∨ a + n ≤ b → t.byte b = s.byte b) ∧
    (ok = true → ∀ k, k < n → t.byte (a + k) = BitVec.ofNat 8 (v.toNat / 2 ^ (8 * k))) ∧
    (ok = false → ∀ b, t.byte b = s.byte b)

/-- The fault levels at reset, in the registers and in their MRAM copies (R429, Table 15-1). -/
def Obligations.FaultLevelsAtReset : Prop :=
  ∀ n : Nat, n < 45 →
    let level : Word := if n = 2 then 0xB200 else if n = 3 ∨ n = 4 then 0x1210
      else if n = 35 ∨ n = 36 ∨ n = 37 ∨ n = 41 ∨ n = 43 then 0xB210 else if n = 40 then 0xC210 else 0x3210
    State.reset.reg .PRF_LEVEL n = level ∧ State.reset.mramReg .PRF_LEVEL n = level

/-- The home bucket and overflow set of a key, from the two hashes (R128). -/
def Obligations.HashIndices : Prop :=
  ∀ (s : State) (key : Nat),
    let h (seed : Nat) (n : Nat) := crc32c seed (keyBytes n key)
    s.homeWays 0 key = ((List.range 4).map fun w => h ((s.reg .EML_HASH_SEED).bits 31 0) 8 % 2 ^ 16 * 4 + w) ∧
    s.ovfWays 0 key = ((List.range 8).map fun w => 2 ^ 23 + h ((s.reg .EML_HASH_SEED).bits 63 32) 8 % 2 ^ 8 * 8 + w) ∧
    s.homeWays 4 key = ((List.range 4).map fun w => h ((s.reg .FLT_HASH_SEED).bits 31 0) 40 % 2 ^ 20 * 4 + w) ∧
    s.ovfWays 4 key = ((List.range 8).map fun w => 2 ^ 23 + h ((s.reg .FLT_HASH_SEED).bits 63 32) 40 % 2 ^ 11 * 8 + w)

/-- A write of PWR_RESET_CTRL that sets more than one request applies the widest (R63): cold whatever else is set, warm where cold is not,
datapath where it stands alone. -/
def Obligations.WidestResetWins : Prop :=
  ∀ (init : Nat) (v : BitVec 32) (s : State),
    let a := s.blockAccess 23 .write init 0x40
    a.2 = true → s.flag PWR_RESET_CTRL.flushing = false → v.toNat / 2 ^ 16 = 0xA5C3 →
    let b := a.1.setF PWR_RESET_CTRL.flush_first (v.toNat % 2)
    let f := b.setF PWR_RESET_CTRL.flushing 1
    let begun (k : RstKind) (c : Nat) : State := if natBit v.toNat 0 then { f with modes := { f.modes with flush := some ⟨k, some c, f.now⟩ } }
      else b.beginReset k (some c)
    (natBit v.toNat 1 = true → exec (.resetColdRequest init v) s = .next (begun .c 3)) ∧
    (natBit v.toNat 1 = false → natBit v.toNat 2 = true → exec (.resetWarmRequest init v) s = .next (begun .w 4)) ∧
    (natBit v.toNat 1 = false → natBit v.toNat 2 = false → natBit v.toNat 3 = true →
      exec (.resetDatapathRequest init v) s = .next (begun .d 8))

/-- While an epoch request runs, TMG_NODE_CFG writes are discarded and flagged; a D reset holds a request until its release (R182). -/
def Obligations.BusyEpochRefusesNodes : Prop :=
  (∀ (init a : Nat) (wide : Bool) (v : Word) (s : State) (i j : Nat) (upper : Bool), s.masterReaches init = true →
    let c := s.placeAccess .write init (.window a)
    c.2 = true → placeDoorbell init (.window a) = none → (placeReg init (.window a)).2 = some (.TMG_NODE_CFG, i, j, upper) →
    widthOk .TMG_NODE_CFG wide upper = true → c.1.flag TMG_EPOCH.busy = true →
    exec (.registerWrite init (.window a) wide v) s
      = .next ((c.1.setF X_BLK_STATUS.change_refused 1 12).setF X_BLK_STATUS.refused_offset (0x10 + 8 * i) 12)) ∧
  (∀ (init : Nat) (s : State) (r : RstReq), s.modes.dReset = some r →
    let a := s.blockAccess 12 .write init 0
    a.2 = true → a.1.flag TMG_EPOCH.busy = false →
    ∃ t, exec (.epochGo init) s = .next t ∧ t.tm.epochAt = some s.now ∧ t.modes = s.modes ∧ exec .epochSwap t = .next t) ∧
  (∀ (s : State) (t : Nat), s.tm.epochAt = some t → s.modes.dReset = none → ∃ u, exec .epochSwap s = .next u ∧ u.tm.epochAt = none)

/-- The register part of a reset: a register whose header lists the letter returns to its reset value (an M register to its MRAM copy, R4), and
one whose header does not keeps its value (R2). -/
def Obligations.ResetLettersGovern : Prop :=
  ∀ (l : Rst) (s : State) (r : Reg) (i j : Nat), i < 4096 → j < 4096 → Tab.sorted s.regs = true → Tab.sorted s.mram = true →
    (∀ p ∈ s.mram, ∃ (q : Reg) (x y : Nat), x < 4096 ∧ y < 4096 ∧ p.1 = q.key x y ∧ q.row.m = true) →
    (s.resetRegs l).reg r i j = if r.row.resets.contains l then (if r.row.m then s.mramReg r i j else r.resetVal s.fuse i j) else s.reg r i j

/-- What acknowledging faults does to PRF_LATCH, the records, containment and the mode (R432). -/
def Obligations.AcknowledgedFaults : Prop :=
  ∀ (init : Nat) (upper : Bool) (v : Word) (s t : State), s.Canon → (s.blockAccess 0 .write init 0).2 = true →
    exec (.faultAck init true upper v) s = .next t →
    t.prf.contained = s.prf.contained ∧ t.modes = s.modes ∧ t.mode = s.mode ∧
    ∀ n, n < 45 →
      natBit (t.getF PRF_LATCH.fault) n = (natBit (s.getF PRF_LATCH.fault) n && !natBit v.toNat n) ∧
      (natBit (s.getF PRF_LATCH.fault) n = true → natBit v.toNat n = true → t.flag PRF_REC.valid n = false) ∧
      (natBit (s.getF PRF_LATCH.fault) n = false ∨ natBit v.toNat n = false → t.reg .PRF_REC n = s.reg .PRF_REC n)

/-- A frame received, entering and looked up: each of these commands, where the conditions its clause names hold, answers the next state
its rule gives, whole: FRAME_RECEIVE, FRAME_END, PIPELINE_ENTRY, FLT_LOOKUP_RESULT, EGRESS_HANDOFF, RECIRCULATE (R198, R199, R100,
R134, R101, R121). -/
def Obligations.CompleteReception : Prop :=
  (∀ (port : Fin 8) (t : Nat) (bytes : List Byte) (s : State),
    let a := s.after t
    a.flag MAC_PORT_STATUS.link_up port.val = true → a.flag MAC_PORT_CFG.enable port.val = true → (a.port port.val).rx = none →
    a.mode = mManaged → a.modes.dReset = none → a.heldOut = false → 64 ≤ bytes.length → bytes.length ≤ 512 →
    macControl bytes = false →
    exec (.frameReceive port t bytes true false) s = .next (a.handOver port.val bytes true false)) ∧
  (∀ (port : Fin 8) (t : Nat) (rest : List Byte) (s : State) (id : Nat) (k : Pkt),
    let u := s.after t
    let x := u.port port.val
    x.rx = some id →
    let all := x.rxBytes ++ rest
    all.length ≤ x.rxMax →
    let v := (u.setPort port.val { x with rx := none, rxBytes := [] }).macCount port.val 1 rest.length
    v.pkt? id = some k →
    let n := all.length - 4
    let k1 := { k with bytes := all.take n, flen := n + 4, trunc := false, ended := endStatus (fcsGood all) n k.claimed true false }
    exec (.frameEnd port t rest false) s = .next (v.setPkt id k1)) ∧
  (∀ (p : Fin 4) (bads : List (Nat × Nat × Nat)) (s : State) (at_ : Nat) (place : PktPlace) (id : Nat) (k : Pkt) (img : FormeImg),
    s.modes.dReset = none → s.mode = mManaged → s.pipeNext p.val = some (at_, place, id) → place ≠ .farBack →
    let a := s.after at_
    let b := (({ a with dp := { a.dp with entered := Tab.put a.dp.entered p.val a.now } }).popLst place p.val id).advanceSweep
    let c := { b with tbl := { b.tbl with bad := b.tbl.bad ++ bads } }
    c.pkt? id = some k → c.flag FRM_STATE.current_valid = true →
    let st := if k.pass = 1 then c.stamp id { k with pipe := p.val } else ({ k with pipe := p.val }, c.setPkt id { k with pipe := p.val })
    Tab.look st.2.frm.slots st.1.forme = some img → img.bridge = false →
    exec (.pipelineEntry p bads false) s = .next (st.2.runPass id st.1 img)) ∧
  (∀ (p : Fin 4) (bads : List (Nat × Nat × Nat)) (s : State) (id : Nat) (k : Pkt) (img : FormeImg),
    firstDue (s.pktsIn .flt p.val) = some (id, k) →
    let a := ((s.after (k.due - 10 * fclk)).popLst .flt p.val id).advanceSweep
    let b := { a with tbl := { a.tbl with bad := a.tbl.bad ++ bads } }
    Tab.look b.frm.slots k.forme = some img →
    exec (.fltLookupResult p bads) s
      = .next ((b.mergeFlt id k img).2.endPass id (b.mergeFlt id k img).1 (b.mergeFlt id k img).1.act k.due)) ∧
  (∀ (ep : Fin 4) (s : State) (id : Nat) (k : Pkt),
    firstDue ((s.pktsIn .egress ep.val).filter fun p => !(decide (12 ≤ p.2.outp) && decide (p.2.outp < 16))) = some (id, k) →
    k.outp < 8 →
    let a := (s.after k.due).popLst .egress ep.val id
    let w := a.rewritten k
    exec (.egressHandoff ep) s
      = .next (((w.2.setPkt id { k with bytes := w.1 }).endHold id).toPort id k.outp { k with bytes := w.1, hold := false })) ∧
  (∀ (p : Fin 4) (s : State) (id : Nat) (k : Pkt),
    firstDue ((s.pktsIn .egress p.val).filter fun k => k.2.outp == 12 + p.val) = some (id, k) →
    (s.lst .loop p.val).length < 256 →
    let w := ((s.after (k.due + 8 * fclk)).popLst .egress p.val id).rewritten k
    exec (.recirculate p) s
      = .next ((w.2.setPkt id { k with bytes := w.1, flen := w.1.length + 4, flim := w.1.length, pass := k.pass + 1 }).pushLst .loop p.val id))

/-- Selection, ageing, epochs and policers: each of these commands, where the conditions its clause names hold, answers the next state
its rule gives, whole: SCHEDULER_SELECTION, AGE_DROP, EPOCH_GO, EPOCH_SWAP, POLICER_WRITE, POLICER_READ, ENQUEUE, SPILL_FETCH (R164,
R178, R180, R181, R174, R191, R175, R177). -/
def Obligations.CompleteTraffic : Prop :=
  (∀ (ep : Fin 4) (noRoom : List Nat) (upset : Bool) (s : State) (o : Nat),
    s.modes.dReset = none →
    let a := (s.toFirstHead ep.val).dropOld 0
    let chains (o : Nat) : List (List (Nat × Nat)) := (a.busyQueues.filter (a.queueCandidate o)).filterMap a.chain
    (a.outOrder ep.val).find? (fun o => a.outRoom noRoom o && !(chains o).isEmpty) = some o →
    let d := a.descend (chains o) 4 1 o
    d.2.length = 4 →
    let u := d.1.takeHead ep.val ((1, o) :: d.2).reverse upset
    exec (.schedulerSelection ep noRoom [] upset) s = .next { u with tm := { u.tm with selAt := Tab.put u.tm.selAt ep.val u.now } }) ∧
  (∀ (s : State), exec .ageDrop s = .next (s.dropOld 2048).showQueue) ∧
  (∀ (init : Nat) (s : State),
    let a := s.blockAccess 12 .write init 0
    a.2 = true → a.1.flag TMG_EPOCH.busy = false →
    let u := a.1.setF TMG_EPOCH.busy 1
    exec (.epochGo init) s = .next { u with tm := { u.tm with epochAt := some u.now } }) ∧
  (∀ (s : State) (t : Nat), s.tm.epochAt = some t → s.modes.dReset = none →
    let b := s.after (t + 22659 * fclk)
    let a := { b with tm := { b.tm with epochAt := none } }
    (a.badNode a.tm.shadow = none → exec .epochSwap s
      = .next ((((a.swapEpoch a.tm.shadow).bump TMG_EPOCH.epoch_seq).setF TMG_EPOCH.result stOk).setF TMG_EPOCH.busy 0)) ∧
    (∀ l i, a.badNode a.tm.shadow = some (l, i) → exec .epochSwap s
      = .next ((((a.setF TMG_EPOCH.bad_level l).setF TMG_EPOCH.bad_index i).setF TMG_EPOCH.result stMalformed).setF TMG_EPOCH.busy 0))) ∧
  (∀ (init : Nat) (index : Fin 65536) (s : State),
    let c := s.blockAccess 12 .write init 0x200
    c.2 = true → c.1.flag TMG_POL_CMD.busy = false →
    let a := (c.1.setF TMG_POL_CMD.op 1).setF TMG_POL_CMD.index index.val
    (a.reg .TMG_POL_CFG 0).bits 35 12 ≠ 0 → (a.reg .TMG_POL_CFG 1).bits 35 12 ≠ 0 →
    exec (.policerWrite init index) s
      = .next ((a.setPol index.val (a.polWritten (a.pol index.val))).setF TMG_POL_CMD.result stOk)) ∧
  (∀ (init : Nat) (index : Fin 65536) (s : State),
    let c := s.blockAccess 12 .write init 0x200
    c.2 = true → c.1.flag TMG_POL_CMD.busy = false →
    let a := (c.1.setF TMG_POL_CMD.op 2).setF TMG_POL_CMD.index index.val
    exec (.policerRead init index) s
      = .next (((a.setReg .TMG_POL_CFG (a.pol index.val).w0 0).setReg .TMG_POL_CFG (a.pol index.val).w1 1).setF TMG_POL_CMD.result stOk)) ∧
  (∀ (p : Fin 4) (s : State) (id : Nat) (k : Pkt), firstDue (s.pktsIn .handoff p.val) = some (id, k) →
    let a := (s.after k.due).popLst .handoff p.val id
    a.standbyDrops k = false →
    (∀ o q, a.outputOf k = some (o, q) → exec (.enqueue p) s = .next (a.enqueuePkt id k o q)) ∧
    (a.outputOf k = none → exec (.enqueue p) s = .next ((a.bump ODF_CNT.count 3).dropPkt id))) ∧
  (∀ (q : Nat) (s : State) (id : Nat) (k : Pkt),
    ((s.pktsIn .queue q).take 2).find? (fun p => p.2.spilled) = some (id, k) →
    exec (.spillFetch q) s = .next (s.setPkt id { k with spilled := false }))

/-- The MAC ports, their cages and their impositions: each of these commands, where the conditions its clause names hold, answers the
next state its rule gives, whole: OPTICAL_MODULE_REMOVED, OPTICAL_MODULE_INSERTED, LINK_UP, LINK_DOWN, LINK_PARTNER_LPI,
OPTICAL_MODULE_FAULT, LANE_FAULT, FRAME_LAUNCH, IMPOSITION_GO, IMPOSITION_COPY_DONE, IMPOSITION_SWAP, IMPOSITION_ENABLE,
IMPOSITION_CYCLE_START, LPI_ENTER, LPI_WAKE_DONE (R195, R196, R214, R217, R216, R206, R209, R210, R205). -/
def Obligations.CompletePorts : Prop :=
  (∀ (cage : Fin 2) (s : State), s.mode ≠ mStandalone →
    exec (.opticalModuleRemoved cage) s
      = .next (((cagePorts cage.val).foldl State.portLost { s with dp := { s.dp with cages := Tab.del s.dp.cages cage.val } }).cageChanged cage.val)) ∧
  (∀ (cage : Fin 2) (info : Cmis) (s : State),
    let a := { s with dp := { s.dp with cages := Tab.put s.dp.cages cage.val info } }
    (s.mode = mStandalone → exec (.opticalModuleInserted cage info) s = .next (a.chooseCage cage.val)) ∧
    (s.mode ≠ mStandalone → exec (.opticalModuleInserted cage info) s = .next (a.cageChanged cage.val))) ∧
  (∀ (port : Fin 8) (s : State) (c : Cmis), Tab.look s.dp.cages (port.val % 2) = some c → s.portExists port.val = true →
    s.flag MAC_PORT_STATUS.lane_fault port.val = false → s.mode ≠ mDarkroom → s.mode ≠ mStandby →
    s.flag MAC_PORT_STATUS.link_up port.val = false →
    let a := (((s.setF MAC_PORT_STATUS.pcs_aligned 1 port.val).setF MAC_PORT_STATUS.fec_locked 1 port.val).setF
      MAC_PORT_STATUS.mode_active (s.cageMode port.val) port.val).setF MAC_PORT_STATUS.link_up 1 port.val
    exec (.linkUp port) s
      = .next ((a.setPort port.val { a.port port.val with idleAt := a.now, lpi := 0 }).reportLink port.val true)) ∧
  (∀ (port : Fin 8) (s : State), exec (.linkDown port) s = .next (s.portLost port.val)) ∧
  (∀ (port : Fin 8) (on : Bool) (s : State), s.flag MAC_PORT_STATUS.link_up port.val = true →
    exec (.linkPartnerLpi port on) s = .next (s.setF MAC_PORT_STATUS.lpi_rx (b2n on) port.val)) ∧
  (∀ (cage : Fin 2) (s : State),
    exec (.opticalModuleFault cage) s
      = .next (((cagePorts cage.val).filter s.portExists).foldl (fun u p => u.raise (20 + p) (faultA 0x0004)) s)) ∧
  (∀ (cage : Fin 2) (lane : Fin 8) (s : State),
    let x := s.unitOf kSerDes (16 * cage.val + lane.val)
    x ≠ unitAbsent →
    let a := s.unitFails (secondsOf s.timeNow % 2 ^ 32) kSerDes x
    ((s.freeSpare kSerDes x).isSome = true → exec (.laneFault cage lane) s = .next a) ∧
    (s.freeSpare kSerDes x = none → exec (.laneFault cage lane) s = .next ((a.replaceUnit kSerDes x).showUnits.checkLanes))) ∧
  (∀ (port : Fin 8) (s : State) (id : Nat) (k : Pkt) (at_ : Nat),
    (s.pktsIn .txFifo port.val).head? = some (id, k) → s.portDown port.val = false → k.launch = none →
    let a := s.after (max k.due (s.port port.val).txFree)
    a.noWindow port.val k.cls (k.bytes.length + 4) = false →
    let d := a.draw 16
    d.2.launchAt port.val k.cls (k.bytes.length + 4) (d.2.txWord port.val) (d.1 % d.2.txWord port.val) 4096 a.timePs = some at_ →
    exec (.frameLaunch port) s = .next (d.2.launch port.val id k at_)) ∧
  (∀ (init : Nat) (port : Fin 8) (s : State),
    let a := s.blockAccess 5 .write init (0x4000 * port.val + 0x28)
    a.2 = true → a.1.flag MAC_IMP_CMD.busy port.val = false →
    let n := a.1.getF MAC_IMP_CYCLE.count port.val
    let cyc := a.1.getF MAC_IMP_CYCLE.cycle port.val
    n ≠ 0 → n ≤ 1024 → 1000 ≤ cyc → cyc ≤ 1000000000 → (a.1.shadowImp port.val).entries.all (fun e => e.2 == 0) = false →
    exec (.impositionGo init port) s
      = .next ((a.1.setF MAC_IMP_CMD.busy 1 port.val).setPort port.val
          { a.1.port port.val with copyAt := some (a.1.timeNow / 2 ^ 16) })) ∧
  (∀ (port : Fin 8) (s : State) (go : Nat), (s.port port.val).copyAt = some go →
    let m := s.shadowImp port.val
    exec (.impositionCopyDone port) s
      = .next ((((s.setF MAC_IMP_CMD.busy 0 port.val).setF MAC_IMP_CMD.pending 1 port.val).setF MAC_IMP_CMD.result stOk port.val).setPort
          port.val { s.port port.val with copyAt := none, pend := some (m, m.swapAt go * 1000) })) ∧
  (∀ (port : Fin 8) (s : State) (m : Imp) (T : Nat), (s.port port.val).pend = some (m, T) →
    exec (.impositionSwap port) s
      = .next (((((s.after (s.tickOfPs T)).setF MAC_IMP_CMD.pending 0 port.val).bump MAC_IMP_CMD.swaps port.val).setPort port.val
          { s.port port.val with op := some m, pend := none, startAt := none, closed := false }).showImp port.val)) ∧
  (∀ (init : Nat) (port : Fin 8) (wide upper : Bool) (v : Word) (s : State),
    let off := 0x4000 * port.val + 0x10 + (if upper && !wide then 4 else 0)
    let a := s.blockAccess 5 .write init off
    a.2 = true →
    exec (.impositionEnable init port wide upper v) s
      = .next ((a.1.storeReg (fun _ => true) 5 off .MAC_IMP_CFG port.val 0 wide upper v).impEnabled port.val (a.1.flag MAC_IMP_CFG.enable port.val))) ∧
  (∀ (port : Fin 8) (s : State) (m : Imp), (s.port port.val).op = some m →
    s.flag MAC_IMP_CFG.enable port.val = true →
    let t := match (s.port port.val).startAt with
      | some a => a
      | none => m.nextCycle s.timePs
    exec (.impositionCycleStart port) s
      = .next ((((s.after (s.tickOfPs t)).bump MAC_IMP_STATUS.cycles port.val).setPort port.val
          { s.port port.val with startAt := none, closed := false }).showImp port.val)) ∧
  (∀ (port : Fin 8) (s : State), (s.port port.val).lpi = 0 → s.lpiAllowed port.val = true → s.outputIdle port.val = true →
    let a := s.after ((s.port port.val).idleAt + s.getF MAC_LPI_CFG.idle_time port.val * usT)
    exec (.lpiEnter port) s
      = .next (((a.setPort port.val { s.port port.val with lpi := 1, idleAt := a.now }).setF MAC_PORT_STATUS.lpi_tx 1 port.val).macCount port.val 17)) ∧
  (∀ (port : Fin 8) (s : State), (s.port port.val).lpi = 2 →
    let x := s.port port.val
    let a := s.after (x.lpiAt + s.getF MAC_LPI_CFG.tw_tx port.val * usT)
    let b := a.macCount port.val 18 ((a.now - x.idleAt) / usT)
    exec (.lpiWakeDone port) s
      = .next ((b.setPort port.val { x with lpi := 0, idleAt := a.now }).setF MAC_PORT_STATUS.lpi_tx 0 port.val))

/-- Register and memory accesses, host requests and their failures: each of these commands, where the conditions its clause names hold,
answers the next state its rule gives, whole: REGISTER_WRITE, RC_READ, MEMBER_WINDOW_ACCESS, MEMBER_ACCESS_TIMEOUT, MMIO_REQUEST,
COMPLETION_TIMEOUT, READ_FAILURE (R6, R9, R523, R296, R300). -/
def Obligations.CompleteAccesses : Prop :=
  (∀ (init a : Nat) (wide : Bool) (v : Word) (s : State) (i j : Nat) (upper : Bool),
    s.masterReaches init = true →
    (0x04000000 ≤ a →
      let c := s.memoryAccess .write init a (if wide then 8 else 4)
      c.2 = true → exec (.registerWrite init (.memory a) wide v) s = .next (c.1.setBytes a (leBytes (if wide then 8 else 4) v.toNat))) ∧
    (
      let c := s.placeAccess .write init (.window a)
      c.2 = true → placeDoorbell init (.window a) = none → (placeReg init (.window a)).2 = some (.TMG_AGE, i, j, upper) →
      widthOk .TMG_AGE wide upper = true → c.1.flag X_BLK_STATUS.d_hold (placeBlock init (.window a)).1 = false →
      exec (.registerWrite init (.window a) wide v) s
        = .next (c.1.storeReg c.1.portFifosEmpty (placeBlock init (.window a)).1 (placeBlock init (.window a)).2 .TMG_AGE i j wide upper
            (atHalf wide upper v)))) ∧
  (∀ (init a : Nat) (wide : Bool) (s : State), s.masterReaches init = true → 0x04000000 ≤ a →
    let c := s.memoryAccess .read init a (if wide then 8 else 4)
    c.2 = true →
    exec (.rcRead init (.memory a) wide) s
      = .next (c.1.emit (.readData init (BitVec.ofNat 64 (leNat (c.1.bytes a (if wide then 8 else 4))))))) ∧
  (∀ (init : Nat) (off : BitVec 25) (wide : Bool) (write : Option Word) (v : Word) (s : State), init < 0x020 →
    s.memberReached init = true →
    let a := s.emit (.memberAccess (s.getF MGT_MEMBER_SEL.member init) off.toNat wide (write.map fun w => (readPart w wide false).toNat))
    exec (.memberWindowAccess init off wide write (some v)) s
      = .next (if write.isNone then a.emit (.readData init (readPart v wide false)) else a)) ∧
  (∀ (s : State) (x : MemberAccess) (rest : List MemberAccess), s.odf.accesses = x :: rest →
    let d := s.draw 18
    let a := d.2.after (x.at_ + d.1 % (20 * usT + 1))
    let b := { a with odf := { a.odf with accesses := rest } }.setF MGT_MEMBER_SEL.error 1 x.core
    exec .memberAccessTimeout s
      = .next (if x.read then b.emit (.readData x.core (readPart (BitVec.ofNat 64 (2 ^ 64 - 1)) x.wide false)) else b)) ∧
  (∀ (fn off size : Nat) (reads : List (Nat × List Byte)) (s : State) (x : FnSt), s.fn? fn = some x →
    s.flag HIF_LINK_STATUS.h_reset (s.fnEndpoint fn) = false →
    let a := (s.touchFn fn).bump HIF_CNT.count (fnLink fn) 0
    x.memorySpace = true → x.d3 = false → a.bar0Window fn x = true → off < 0x02000000 → placeDoorbell fn (.window off) = none →
    let m : Mmio := ⟨fn, 0, off, size, none, false, reads⟩
    mmioPlain m = true → size ≤ placeWidth fn (.window off) →
    let r := a.performRead fn (.window off) (size == 8)
    exec (.mmioRequest m) s = .next (r.1.mmioAnswer m 0 (r.2.getD 0).toNat)) ∧
  (∀ (w : ReadWork) (s t : State), 0x800 ≤ s.workFn w → s.failWork w stTimeout = some t →
    exec (.completionTimeout w) s
      = .next ((t.bump HIF_CNT.count (fnLink (s.workFn w)) 4).aerUncorrectable (s.workFn w) aerCompletionTimeout false [])) ∧
  (∀ (w : ReadWork) (s t : State), 0x800 ≤ s.workFn w →
    (s.failWork w stAccessViolation = some t →
      exec (.readFailure w .urCa) s = .next (t.bump HIF_CNT.count (fnLink (s.workFn w)) 5)) ∧
    (s.failWork w stDegraded = some t →
      exec (.readFailure w .poison) s
        = .next ((t.bump HIF_CNT.count (fnLink (s.workFn w)) 6).aerUncorrectable (s.workFn w) aerPoisoned false [])) ∧
    (s.failWork w stDegraded = some t →
      exec (.readFailure w .ecrc) s
        = .next ((t.bump HIF_CNT.count (fnLink (s.workFn w)) 7).aerUncorrectable (s.workFn w) aerEcrc false [])))

/-- Table commands given through X_CMD: each of these commands, where the conditions its clause names hold, answers the next state its
rule gives, whole: INSERT, DELETE, MODIFY, RETAG, LOOKUP, READ_POS, DELETE_POS (R137, R142, R144). -/
def Obligations.CompleteTableCommands : Prop :=
  (∀ (init : Nat) (blk : Fin 4) (w : Word) (img : List Byte) (s : State),
    let a := s.blockAccess (8 + blk.val) .write init 0
    a.2 = true → a.1.flag X_CMD.busy blk.val = false → a.1.modes.dReset = none →
    let t := a.1.setReg .X_CMD (tblCmdWord (a.1.reg .X_CMD blk.val) 1 w) blk.val
    let q := t.regReq init blk.val 1 w
    let u := t.advanceSweep
    let v := q.image % 2 ^ tblWidth q.table
    (q.table = 3 → posValid 3 q.pos = true) → (q.table = 4 → u.fltForeign (imgKey 4 v) = false) →
    imgVis q.table v ≠ 0 → imgFormatOk q.table v = true → u.formeGuard (imgVis q.table v) (imgVf q.table v) q.expect = none →
    exec (.tblInsert (.reg init) blk w img) s
      = .next ((u.tblInsert q v).1.showTables.tblAnswer q (u.tblInsert q v).2)) ∧
  (∀ (init : Nat) (blk : Fin 4) (w : Word) (img : List Byte) (s : State),
    let a := s.blockAccess (8 + blk.val) .write init 0
    a.2 = true → a.1.flag X_CMD.busy blk.val = false → a.1.modes.dReset = none →
    let t := a.1.setReg .X_CMD (tblCmdWord (a.1.reg .X_CMD blk.val) 2 w) blk.val
    let q := t.regReq init blk.val 2 w
    let u := t.advanceSweep
    let v := q.image % 2 ^ tblWidth q.table
    (q.table = 3 → posValid 3 q.pos = true) → (q.table = 4 → u.fltForeign (imgKey 4 v) = false) →
    u.formeGuard (imgVis q.table v) (imgVf q.table v) q.expect = none → ∀ p, u.matchEntry q v = some p →
    exec (.tblDelete (.reg init) blk w img) s
      = .next ((u.writeEntry q.table p 0).showTables.tblAnswer q ⟨stOk, some p, 0, none⟩)) ∧
  (∀ (init : Nat) (blk : Fin 4) (w : Word) (img : List Byte) (s : State),
    let a := s.blockAccess (8 + blk.val) .write init 0
    a.2 = true → a.1.flag X_CMD.busy blk.val = false → a.1.modes.dReset = none →
    let t := a.1.setReg .X_CMD (tblCmdWord (a.1.reg .X_CMD blk.val) 3 w) blk.val
    let q := t.regReq init blk.val 3 w
    let u := t.advanceSweep
    let v := q.image % 2 ^ tblWidth q.table
    (q.table = 3 → posValid 3 q.pos = true) → (q.table = 4 → u.fltForeign (imgKey 4 v) = false) →
    u.formeGuard (imgVis q.table v) (imgVf q.table v) q.expect = none → imgFormatOk q.table v = true → ∀ p, u.matchEntry q v = some p →
    exec (.tblModify (.reg init) blk w img) s
      = .next ((u.tblModify q p v).showTables.tblAnswer q ⟨stOk, some p, 0, none⟩)) ∧
  (∀ (init : Nat) (blk : Fin 4) (w : Word) (img : List Byte) (s : State),
    let a := s.blockAccess (8 + blk.val) .write init 0
    a.2 = true → a.1.flag X_CMD.busy blk.val = false → a.1.modes.dReset = none →
    let t := a.1.setReg .X_CMD (tblCmdWord (a.1.reg .X_CMD blk.val) 4 w) blk.val
    let q := t.regReq init blk.val 4 w
    let u := t.advanceSweep
    let v := q.image % 2 ^ tblWidth q.table
    (q.table = 3 → posValid 3 q.pos = true) → (q.table = 4 → u.fltForeign (imgKey 4 v) = false) →
    u.formeGuard (imgVis q.table v) (imgVf q.table v) q.expect = none → u.formeGuard q.newVis q.newVf q.expect = none →
    ∀ p, u.matchEntry q v = some p → q.newVis ≠ 0 → let nv := u.settledVis q.newVis q.newVf
    nv ≠ 0 → (q.table ≠ 3 → u.imgClash q.table (imgTag q.table (u.entry q.table p) nv q.newVf) q.pos (some p) = false) →
    exec (.tblRetag (.reg init) blk w img) s
      = .next ((u.writeEntry q.table p (imgTag q.table (u.entry q.table p) nv q.newVf)).showTables.tblAnswer q ⟨stOk, some p, 0, none⟩)) ∧
  (∀ (init : Nat) (blk : Fin 4) (w : Word) (img : List Byte) (s : State),
    let a := s.blockAccess (8 + blk.val) .write init 0
    a.2 = true → a.1.flag X_CMD.busy blk.val = false → a.1.modes.dReset = none →
    let t := a.1.setReg .X_CMD (tblCmdWord (a.1.reg .X_CMD blk.val) 5 w) blk.val
    let q := t.regReq init blk.val 5 w
    let u := t.advanceSweep
    let v := q.image % 2 ^ tblWidth q.table
    (q.table = 3 → posValid 3 q.pos = true) → (q.table = 4 → u.fltForeign (imgKey 4 v) = false) →
    exec (.tblLookup (.reg init) blk w img) s
      = .next (u.showTables.tblAnswer q (u.tblFind q v))) ∧
  (∀ (init : Nat) (blk : Fin 4) (w : Word) (s : State),
    let a := s.blockAccess (8 + blk.val) .write init 0
    a.2 = true → a.1.flag X_CMD.busy blk.val = false → a.1.modes.dReset = none →
    let t := a.1.setReg .X_CMD (tblCmdWord (a.1.reg .X_CMD blk.val) 6 w) blk.val
    let q := t.regReq init blk.val 6 w
    let u := t.advanceSweep
    let v := q.image % 2 ^ tblWidth q.table
    (q.table = 3 → posValid 3 q.pos = true) →
    posValid q.table q.pos = true → u.posBad q.table q.pos = false →
    exec (.tblReadPos (.reg init) blk w) s
      = .next (u.showTables.tblAnswer q ⟨stOk, some q.pos, u.idleOf q.table q.pos, some (imgOf q.table (u.entry q.table q.pos))⟩)) ∧
  (∀ (init : Nat) (blk : Fin 4) (w : Word) (s : State),
    let a := s.blockAccess (8 + blk.val) .write init 0
    a.2 = true → a.1.flag X_CMD.busy blk.val = false → a.1.modes.dReset = none →
    let t := a.1.setReg .X_CMD (tblCmdWord (a.1.reg .X_CMD blk.val) 7 w) blk.val
    let q := t.regReq init blk.val 7 w
    let u := t.advanceSweep
    let v := q.image % 2 ^ tblWidth q.table
    (q.table = 3 → posValid 3 q.pos = true) →
    posValid q.table q.pos = true →
    exec (.tblDeletePos (.reg init) blk w) s
      = .next ((u.writeEntry q.table q.pos 0).showTables.tblAnswer q ⟨stOk, some q.pos, 0, none⟩))

/-- Seeds, promotion, ageing, learning, replicas: each of these commands, where the conditions its clause names hold, answers the next
state its rule gives, whole: HASH_SEED_WRITE, OVERFLOW_PROMOTION, AGER_PASS, EML_LEARN_EVENT, FLT_LEARN_EVENT, HOLD_SWEEP,
REPLICA_WRITE_BACK, PENDING_WRITE_RELEASE, REPLICA_REPAIR (R128, R141, R148, R152, R157, R153, R36, R136). -/
def Obligations.CompleteTableUpkeep : Prop :=
  (∀ (init : Nat) (flt wide upper : Bool) (v : Word) (s : State),
    let blk := if flt then 11 else 8
    let r : Reg := if flt then .FLT_HASH_SEED else .EML_HASH_SEED
    let off := if upper && !wide then 0x84 else 0x80
    let a := s.blockAccess blk .write init off
    a.2 = true →
    let t := a.1.storeReg (fun _ => true) blk off r 0 0 wide upper v
    (t.reg r ≠ a.1.reg r → exec (.hashSeedWrite init flt wide upper v) s = .next (t.clearHashTable (if flt then 4 else 0))) ∧
    (t.reg r = a.1.reg r → exec (.hashSeedWrite init flt wide upper v) s = .next t)) ∧
  (∀ (flt : Bool) (pos : Nat) (s : State),
    let t := if flt then 4 else 0
    isOvf pos = true → s.entry t pos ≠ 0 → s.posBad t pos = false → s.modes.dReset = none →
    ∀ p, (s.homeWays t (imgKey t (s.entry t pos))).find? (s.wayFree t) = some p →
    exec (.overflowPromotion flt pos) s = .next (s.relocate t pos p 0).showTables) ∧
  (∀ (s : State),
    let p := s.getF X_AGE_CFG.age_time 0
    p ≠ 0 →
    let a := s.after s.tbl.ageE
    let b := (a.tab 0).foldl (fun u q => u.ageEntry 0 (s.getF X_AGE_CFG.mode 0) q.1 q.2) a
    exec (.agerPass false) s = .next { b with tbl := { b.tbl with ageE := a.now + p * msT / 2 } }.showTables) ∧
  (∀ (s : State) (e : LearnEv) (rest : List LearnEv), s.tbl.emlFifo = e :: rest →
    let a := { s with tbl := { s.tbl with emlFifo := rest } }.advanceSweep
    (s.getF EML_LEARN_CFG.mode = 2 → exec .emlLearnEvent s = .next (a.learnHw e)) ∧
    (s.getF EML_LEARN_CFG.mode = 1 → exec .emlLearnEvent s = .next (a.learnNotify e))) ∧
  (∀ (s : State) (e : LearnEv) (rest : List LearnEv), s.tbl.fltFifo = e :: rest → s.mode ≠ mStandby →
    let a := { s with tbl := { s.tbl with fltFifo := rest } }.advanceSweep
    (s.getF FLT_LEARN_CFG.mode = 2 → exec .fltLearnEvent s = .next (a.flowLearn e)) ∧
    (s.getF FLT_LEARN_CFG.mode = 1 → exec .fltLearnEvent s = .next (a.flowNotify e))) ∧
  (∀ (s : State),
    let a := s.after s.tbl.holdAt
    let h := a.getF EML_LEARN_CFG.move_hold
    let f (_ : Nat) (v : Nat) : Nat :=
      if natBit v 118 && decide (h ≤ (a.learnNow + 2 ^ 21 - nbits v 117 97) % 2 ^ 21) then nset v 118 118 0 else v
    exec .holdSweep s = .next { a with tbl := { a.tbl with eml := Tab.mapVals a.tbl.eml f, holdAt := a.now + 1024 * 1024 * fclk } }) ∧
  (∀ (g : Fin 8) (n : Nat) (s : State) (p : PendW), s.tbl.pend[n]? = some p →
    exec (.replicaWriteBack g n) s = .next { s with tbl := { s.tbl with
      pend := s.tbl.pend.set n { p with left := p.left.filter (· != g.val), last := s.fnow } } }) ∧
  (∀ (s : State) (p : PendW), (s.tbl.pend.find? fun q => q.left.isEmpty) = some p →
    exec .pendingWriteRelease s = .next { s.after ((p.last + 192) * fclk) with tbl := { s.tbl with pend := s.tbl.pend.erase p } }) ∧
  (∀ (pos word : Nat) (s : State), isOvf pos = false → s.entry 4 pos ≠ 0 →
    let a := s.pendRoom
    let bad := a.tbl.bad.filter fun b => !(b.1 == 4 && b.2.1 == pos && b.2.2 == word)
    let p : PendW := ⟨pos, s.entry 4 pos, a.fnow, List.range 8, a.fnow⟩
    exec (.replicaRepair pos word false) s
      = .next ({ a with tbl := { a.tbl with bad := bad, pend := a.tbl.pend ++ [p] } }.bump X_CNT.count 3 12))

/-- Composing, locking up and retiring formes: each of these commands, where the conditions its clause names hold, answers the next
state its rule gives, whole: OPEN, LOAD, LOCK_UP, LOCK_UP_COMMIT, DISCARD, FORME_RETIRED, SETTLE_SWEEP_DONE, DISCARD_SWEEP_DONE
(R110, R124, R111, R102, R106). -/
def Obligations.CompleteFormes : Prop :=
  (∀ (o : Origin) (s : State),
    let b := s.formeTake o 1 (s.getF FRM_CMD.addr * 64)
    b.2 = true → b.1.formeOwner o = true → b.1.chase? = none →
    ∀ n, ((List.range 8).find? fun n => b.1.formeState n == 0) = some n →
    exec (.formeOpen o) s = .next ((b.1.setFormeState n 1).formeEnd o stOk n)) ∧
  (∀ (init addr : Nat) (img : List Byte) (s : State),
    let b := s.formeTake (.reg init) 2 addr
    b.2 = true → b.1.formeOwner (.reg init) = true → ∀ n, b.1.chase? = some n →
    let a := addr % 2 ^ 48 / 64 * 64
    let r := b.1.loadForme n (b.1.bytes a (imgLe (b.1.bytes a 64) 8 4))
    exec (.formeLoad (.reg init) addr img) s = .next (r.1.formeEnd (.reg init) r.2 n)) ∧
  (∀ (o : Origin) (s : State),
    let b := s.formeTake o 3 (s.getF FRM_CMD.addr * 64)
    b.2 = true → b.1.formeOwner o = true → ∀ n, b.1.chase? = some n → b.1.formeState n = 2 →
    let a := (b.1.setF FRM_CMD.busy 1).setF FRM_CMD.number n
    exec (.formeLockUp o) s = .next { a with frm := { a.frm with lockup := some (o, a.now) } }) ∧
  (∀ (s : State) (o : Origin) (t n : Nat), s.frm.lockup = some (o, t) → s.chase? = some n → s.formeState n = 2 →
    s.odf.lockAt = none →
    let a := ({ s with frm := { s.frm with lockup := none } }.after (t + 2 * fclk)).lockUpNumber n
    exec .lockUpCommit s = .next (a.lockUpEnd o stOk n (a.getF FRM_STATE.lockup_seq))) ∧
  (∀ (o : Origin) (s : State),
    let b := s.formeTake o 4 (s.getF FRM_CMD.addr * 64)
    b.2 = true → b.1.formeOwner o = true → ∀ n, b.1.chase? = some n →
    exec (.formeDiscard o) s = .next ((b.1.discardForme n).formeEnd o stOk n)) ∧
  (∀ (s : State) (n m : Nat) (rest : List Nat), s.frm.order = n :: m :: rest → s.formeState n = 4 →
    s.getF FRM_REF.packets n = 0 →
    let a := { s with frm := { s.frm with order := m :: rest } }
    (s.sweepOpen n = true →
      exec .formeRetired s = .next (((a.setFormeState n 5).formeEvent 0x05 n).queueSweep m false).resumeInstall) ∧
    (s.sweepOpen n = false →
      exec .formeRetired s = .next ((((a.freeForme n).formeEvent 0x05 n).formeEvent 0x06 n).queueSweep m false).resumeInstall)) ∧
  (∀ (s : State) (w : Sweep), s.frm.sweep = some w → w.discard = false →
    let a := s.finishSweep w
    exec .settleSweepDone s
      = .next (if a.formeState w.num = 5 then (a.freeForme w.num).formeEvent 0x06 w.num else a).startSweep.resumeInstall) ∧
  (∀ (s : State) (w : Sweep), s.frm.sweep = some w → w.discard = true →
    exec .discardSweepDone s
      = .next (((s.finishSweep w).freeForme w.num).formeEvent 0x06 w.num).startSweep.resumeInstall)

/-- Slice commands and the access tables: each of these commands, where the conditions its clause names hold, answers the next state its
rule gives, whole: SLICE_CREATE, SLICE_START, SLICE_RESET, SLICE_DESTROY, SLICE_RESIZE, SET_WINDOW, SLICE_QUERY,
SLICE_BLOCK_DRAINED, SLICE_SILENCE_DONE, SLICE_RESET_END, SLICE_REMOVAL_DONE, ACT_WRITE, ACT_READ, ACT_SEAL_WRITE, ACT_LOG_POP
(R346, R350, R353, R345, R348, R360, R359). -/
def Obligations.CompleteSlices : Prop :=
  (∀ (init slice : Nat) (s : State),
    let b := s.slcBegin init 1 slice
    b.2 = true →
    let d0 := b.1.slcData 0
    let f := b.1.slcFunction d0
    let l := d0.bits 50 37
    let pasid := d0.bits 19 0
    b.1.slice? slice = none → b.1.isNative f = true → l < ((b.1.fn? f).map FnSt.pages).getD 0 →
    (b.1.slc.slices.any fun p => decide (p.2.fn = f ∧ (p.2.localNo = l ∨ p.2.pasid = pasid))) = false →
    let fresh : SliceRec :=
      { st := .stopped, fn := f, localNo := l, pasid := pasid, sqRings := 0, cqRings := 0, keySlots := 0, endpoints := 0, regions := 0,
        queues := 0, fltEntries := 0, bufferKib := 0, bw := 0, windows := [], store := [], storePending := [], seq := none,
        badWord := false }
    let x := b.1.slcQuotas fresh
    (allPooled.all fun k => decide (x.quota k ≤ b.1.pool k.pool)) = true → 1 ≤ b.1.pool 2 → 1 ≤ b.1.pool 7 →
    exec (.sliceCreate init slice) s
      = .next ((((((allPooled.foldl (fun t k => t.poolSub k.pool (x.quota k)) b.1).poolSub 2 1).poolSub 7 1).setSlice slice x).showGates).setF
          SLC_CMD.result stOk)) ∧
  (∀ (init slice : Nat) (s : State),
    let b := s.slcBegin init 2 slice
    b.2 = true → ∀ (x : SliceRec) (f : FnSt), b.1.slice? slice = some x → b.1.fn? x.fn = some f →
    f.pasidEnable = true → f.busMaster = true → f.personality = .native → x.localNo < f.pages → x.st = .stopped →
    b.1.prf.contained.contains slice = false →
    exec (.sliceStart init slice) s
      = .next ((b.1.setSlice slice { x with st := .running }).showGates.setF SLC_CMD.result stOk)) ∧
  (∀ (init slice : Nat) (s : State),
    let b := s.slcBegin init 3 slice
    b.2 = true → ∀ x : SliceRec, b.1.slice? slice = some x → (x.st = .running ∨ x.st = .stopped) → b.1.seqCount < 64 →
    exec (.sliceReset init slice) s = .next ((b.1.sliceClose slice .resetting).setF SLC_CMD.result stOk)) ∧
  (∀ (init slice : Nat) (s : State),
    let b := s.slcBegin init 4 slice
    b.2 = true → ∀ x : SliceRec, b.1.slice? slice = some x →
    (x.st = .resetting → exec (.sliceDestroy init slice) s
      = .next ((b.1.setSlice slice { x with st := .removing }).setF SLC_CMD.result stOk)) ∧
    ((x.st = .running ∨ x.st = .stopped) → b.1.seqCount < 64 →
      exec (.sliceDestroy init slice) s = .next ((b.1.sliceClose slice .removing).setF SLC_CMD.result stOk))) ∧
  (∀ (init slice : Nat) (s : State),
    let b := s.slcBegin init 5 slice
    b.2 = true → ∀ x : SliceRec, b.1.slice? slice = some x → (x.st = .running ∨ x.st = .stopped) →
    let y := b.1.slcQuotas x
    let held (k : Pooled) : Nat := b.1.pool k.pool + b.1.reserved slice x k
    (allPooled.all fun k => decide (b.1.reserved slice y k ≤ held k)) = true →
    exec (.sliceResize init slice) s
      = .next (((allPooled.foldl (fun t k => t.setF SLC_POOL.free (held k - b.1.reserved slice y k) k.pool) b.1).setSlice slice y).setF
          SLC_CMD.result stOk)) ∧
  (∀ (init slice : Nat) (s : State),
    let b := s.slcBegin init 6 slice
    b.2 = true →
    let d0 := b.1.slcData 0
    let first := (b.1.slcData 1).bits 63 12
    let last := (b.1.slcData 2).bits 63 12
    first ≤ last → d0.bits 32 32 = 1 → d0.bits 36 36 ≠ 1 → ∀ x : SliceRec, b.1.slice? slice = some x →
    (x.st = .running ∨ x.st = .stopped) →
    let y := { x with windows := Tab.put x.windows (d0.bits 35 33) (d0.bits 31 31 == 1, d0.bits 30 30 == 1, first, last), badWord := false }
    exec (.setWindow init slice) s = .next ((b.1.setSlice slice y).setF SLC_CMD.result stOk)) ∧
  (∀ (init slice : Nat) (s : State),
    let b := s.slcBegin init 7 slice
    b.2 = true → b.1.slice? slice = none →
    let a := (b.1.setReg .SLC_CMD_DATA (BitVec.ofNat 64 ((b.1.slcData 0).bits 36 36 * 2 ^ 36)) 0).setReg .SLC_CMD_DATA 0 1
    exec (.sliceQuery init slice) s
      = .next (((a.setReg .SLC_CMD_DATA 0 2).setReg .SLC_CMD_DATA 0 3).setF SLC_CMD.result stOk)) ∧
  (∀ (slice : Nat) (blk : Fin 5) (degraded : Bool) (s : State) (x y : SliceRec) (q : SliceSeq),
    s.slice? slice = some x → x.seq = some q → q.step = 2 → q.drained.contains blk.val = false → s.mode ≠ mSafeHold →
    (blk.val = 0 → s.sliceFetched slice = false) →
    let a := s.sliceDrain slice blk.val
    a.slice? slice = some y →
    let n := { q with drained := insertNat q.drained blk.val, lastReport := s.now, degraded := q.degraded || degraded,
                      step := if q.drained.length + 1 = 5 then 3 else 2 }
    exec (.sliceBlockDrained slice blk degraded) s = .next (a.setSlice slice { y with seq := some n })) ∧
  (∀ (slice : Nat) (s : State) (x y : SliceRec) (q : SliceSeq),
    s.slice? slice = some x → x.seq = some q → q.step = 3 → s.mode ≠ mSafeHold →
    let a := (s.after (q.lastReport + 2 * usT)).sliceClear slice
    a.slice? slice = some y →
    exec (.sliceSilenceDone slice) s = .next (a.setSlice slice { y with seq := some { q with step := 4 } })) ∧
  (∀ (slice : Nat) (s : State) (x : SliceRec) (q : SliceSeq),
    s.slice? slice = some x → x.seq = some q → q.step = 4 → s.mode ≠ mSafeHold →
    (x.st = .removing → exec (.sliceResetEnd slice) s = .next (s.setSlice slice { x with seq := some { q with step := 5 } })) ∧
    (x.st ≠ .removing → exec (.sliceResetEnd slice) s
      = .next ((s.setSlice slice { x with st := .stopped, seq := none }).showGates.postDone slice false
          (if q.degraded then stDegraded else stOk)))) ∧
  (∀ (slice : Nat) (s : State) (x : SliceRec) (q : SliceSeq),
    s.slice? slice = some x → x.seq = some q → q.step = 5 →
    exec (.sliceRemovalDone slice) s
      = .next ((s.sliceRemove slice).postDone slice true (if q.degraded then stDegraded else stOk))) ∧
  (∀ (init : Nat) (s : State),
    let b := s.actBegin init 1
    b.2 = true →
    let t := b.1.getF ACT_SEL.target
    let k := t * 32 + b.1.getF ACT_SEL.rule
    t ≤ 35 → natBit (b.1.getF ACT_SEAL.sealed) t = false →
    let d := (actDefaults t).getD (b.1.getF ACT_SEL.rule) (0, 0)
    let slc := { b.1.slc with rules := Tab.setD d b.1.slc.rules k (b.1.reg .ACT_RULE 0, b.1.reg .ACT_RULE 1),
                              badRules := b.1.slc.badRules.filter (· != k) }
    exec (.actWrite init) s = .next ({ b.1 with slc := slc }.setF ACT_CMD.result stOk)) ∧
  (∀ (init : Nat) (s : State),
    let b := s.actBegin init 2
    b.2 = true → b.1.getF ACT_SEL.target ≤ 35 →
    let w := b.1.ruleAt (b.1.getF ACT_SEL.target) (b.1.getF ACT_SEL.rule)
    exec (.actRead init) s = .next (((b.1.setReg .ACT_RULE w.1 0).setReg .ACT_RULE w.2 1).setF ACT_CMD.result stOk)) ∧
  (∀ (init v : Nat) (s : State),
    let a := s.blockAccess 25 .write init 0x20
    a.2 = true →
    exec (.actSealWrite init true v) s = .next (a.1.setF ACT_SEAL.sealed (a.1.getF ACT_SEAL.sealed ||| (v % 2 ^ 36)))) ∧
  (∀ (init : Nat) (s : State),
    let a := s.blockAccess 25 .write init 0x50
    a.2 = true →
    exec (.actLogPop init) s = .next { a.1 with slc := { a.1.slc with denials := a.1.slc.denials.drop 1 } }.showDenials)

/-- Doorbells, index lines, fetches and packets of the rings: each of these commands, where the conditions its clause names hold,
answers the next state its rule gives, whole: DOORBELL, INDEX_LINE_READ, STASH_RETRY, ENTRY_FETCH, CONSUMER_INDEX_WRITE,
MODERATION_TIMER, TX_ENTRY, HOST_RX_DELIVERY (R318, R320, R330, R321, R335, R325, R326). -/
def Obligations.CompleteRingWork : Prop :=
  (∀ (fn d : Nat) (page : Option Nat) (s : State) (x : FnSt), s.fn? fn = some x → x.memorySpace = true → x.d3 = false →
    s.flag HIF_LINK_STATUS.h_reset (s.fnEndpoint fn) = false → 0x800 ≤ fn →
    let a := (s.touchFn fn).bump HIF_CNT.count (fnLink fn) 0
    (a.doorbellRing fn page d = none → exec (.doorbell fn page d false) s = .next (a.bump DQM_CNT.count fn 5)) ∧
    (∀ (cls num : Nat) (r : Ring), a.doorbellRing fn page d = some (cls, num) → a.ring? cls num = some r → r.st = .running →
      let b := a.setRing cls num { r with rung := true, armed := if cls = 0 then r.armed else true }
      exec (.doorbell fn page d false) s
        = .next ((if cls = 0 then b else b.maybeSignal cls num false).showLtr (a.fnEndpoint fn)))) ∧
  (∀ (num idx : Nat) (s : State) (r : Ring), s.ring? 0 num = some r → r.st = .running → s.fetchHeld r = false →
    s.issueHeld r.fn r.slice = false → r.lineRead = false →
    let c := s.dmaCheck r.fn r.slice false r.line 64
    (c.2 = false → exec (.indexLineRead 0 num idx) s = .next (c.1.stopRing 0 num stAccessViolation)) ∧
    (c.2 = true →
      let i := s.lineIndex r 0 idx
      let a := c.1.issueRead r.fn r.slice r.line 64
      (r.size < idxDiff i r.modIdx →
        exec (.indexLineRead 0 num idx) s = .next ((a.bump DQM_CNT.count r.fn 4).stopRing 0 num stRingOverrun)) ∧
      (idxDiff i r.modIdx ≤ r.size →
        exec (.indexLineRead 0 num idx) s
          = .next (((a.setRing 0 num { r with hostIdx := i, rung := false, lineRead := false }).issueFetch num).showLtr
              (s.fnEndpoint r.fn))))) ∧
  (∀ (num idx : Nat) (s : State) (r : Ring), s.ring? 1 num = some r → r.st = .running → r.stash ≠ [] →
    s.issueHeld r.fn r.slice = false →
    let c := s.dmaCheck r.fn r.slice false r.line 64
    c.2 = true →
    exec (.stashRetry num idx) s = .next ((c.1.issueRead r.fn r.slice r.line 64).takeConsumerIndex 1 num (s.lineIndex r 1 idx))) ∧
  (∀ (num : Nat) (entries : List (List Byte)) (s : State) (r : Ring), s.ring? 0 num = some r → r.st = .running →
    r.reads ≠ 0 → s.fetchHeld r = false →
    let n := if r.fn < 0x800 then r.fetchCount else entries.length
    n ≠ 0 → n ≤ r.fetchCount →
    let es := (List.range n).map fun k =>
      fitBytes 64 (s.dmaData r.fn (r.base + ((r.modIdx + k) % r.size) * 64) 64 (entries.getD k []))
    let y := { r with
      reads := 0
      modIdx := idxAdd r.modIdx n
      fetched := r.fetched ++ (List.range n).map fun k => (idxAdd r.modIdx k, es.getD k []) }
    exec (.entryFetch num entries) s
      = .next ((((s.setRing 0 num y).bump DQM_CNT.count r.fn 0 n).takeEntries num r.modIdx es).issueFetch num)) ∧
  (∀ (num : Nat) (s : State) (r : Ring), s.ring? 0 num = some r → r.cWritten ≠ r.modIdx → r.st ≠ .disabled →
    s.issueHeld r.fn r.slice = false →
    let a := s.after (r.cWriteAt + usT / 2)
    let c := a.dmaCheck r.fn r.slice true (r.line + 4) 4
    (c.2 = true → exec (.consumerIndexWrite num) s
      = .next ((c.1.issueWrite r.fn r.slice (r.line + 4) (leBytes 4 r.modIdx)).setRing 0 num
          { r with cWritten := r.modIdx, cWriteAt := a.now })) ∧
    (c.2 = false → exec (.consumerIndexWrite num) s = .next (c.1.stopRing 0 num stAccessViolation))) ∧
  (∀ (cls num : Nat) (s : State) (r : Ring), s.ring? cls num = some r → r.armed = true → r.irqEn = true → 0 < r.unsig →
    exec (.moderationTimer cls num) s = .next ((s.after (r.oldest + r.modTime * usT)).maybeSignal cls num true)) ∧
  (∀ (num idx : Nat) (frame : List Byte) (s : State) (r : Ring) (e : List Byte), s.ring? 0 num = some r →
    s.fetchedEntry num idx = some e → r.kind = 2 → s.modes.dReset = none → s.txHeld r = false →
    (s.dp.pkts.any fun p => match p.2.tx with | some (n, i, _) => n == num && i == idx | none => false) = false →
    let n := leNat (sliceBytes e 16 2)
    let addr := leNat (sliceBytes e 8 8)
    natBit (e.getD 18 0).toNat 0 = false → natBit (e.getD 18 0).toNat 1 = false →
    let c := s.dmaCheck r.fn r.slice false addr n
    c.2 = true →
    let a := c.1.issueRead r.fn r.slice addr n
    let body := fitBytes n (if r.fn < 0x800 then a.bytes addr n else frame)
    let k := a.newPkt { Pkt.ofFrame (8 + fnLink r.fn) (2 + fnLink r.fn) (body ++ zeroBytes (60 - n)) with launch := none, tx := none }
    exec (.txEntry num idx frame) s
      = .next ((k.2.pushLst .inject (2 + fnLink r.fn) k.1).completeEntry num idx (natBit (e.getD 1 0).toNat 0) stOk [])) ∧
  (∀ (link : Fin 2) (s : State) (id : Nat) (p : Pkt), (s.pktsIn .toHost link.val).head? = some (id, p) →
    let q := p.act.dest % 2 ^ 16
    let a := s.popLst .toHost link.val id
    ∀ r : Ring, a.ring? 0 q = some r → a.mode ≠ mStandalone → a.flag HIF_LINK_STATUS.h_reset (a.fnEndpoint r.fn) = false →
    (∀ k, a.rxRefused q = some k → exec (.hostRxDelivery link) s = .next ((a.bump DQM_CNT.count r.fn k).freePkt id)) ∧
    (a.rxRefused q = none → a.issueHeld r.fn r.slice = false → exec (.hostRxDelivery link) s = .next (a.deliverRx q id p)))

/-- Ring operations through DQM_RING_CMD: each of these commands, where the conditions its clause names hold, answers the next state its
rule gives, whole: RING_CREATE, RING_ENABLE, RING_DISABLE, RING_DRAINED, RING_DESTROY, RING_QUERY, RING_MODIFY_IRQ (R337, R331). -/
def Obligations.CompleteRingCommands : Prop :=
  (∀ (fn : Nat) (s : State),
    let a := s.ringOpAccess fn
    a.2 = true →
    let cls := a.1.getF DQM_RING_SEL.cls fn
    natBit (a.1.reg .DQM_RING_CTX fn 2).toNat 43 = false →
    a.1.createMalformed fn cls ((a.1.reg .DQM_RING_CTX fn 2).bits 46 44) false none ((a.1.reg .DQM_RING_CTX fn 2).bits 28 13) = false →
    0 < a.1.getF SLC_POOL.free cls →
    ∀ num d, a.1.freeRing cls = some num → a.1.freeDoorbell fn none = some d →
    let r := a.1.newRing fn cls none d
    let b := a.1.setRing cls num r
    exec (.ringCreate fn) s
      = .next ((b.setF SLC_POOL.free (b.getF SLC_POOL.free cls - 1) cls).ringResult fn 1 stOk (some (num, r)))) ∧
  (∀ (fn : Nat) (s : State),
    let a := s.ringOpAccess fn
    a.2 = true → ∀ (num : Nat) (r c : Ring) (x : FnSt), a.1.selectedRing fn = some (0, num, r) → ringSizeOk r.size = true →
    a.1.fn? fn = some x → x.busMaster = true → a.1.ring? 1 r.cq = some c → c.st = .running → r.slice = none →
    (r.st = .disabled ∨ r.st = .stopped) →
    let i := (a.1.reg .DQM_RING_CTX fn 3).bits 63 32
    let y := { r with st := .running, modIdx := i, hostIdx := i, cWritten := i, armed := true, rung := false,
                      lineRead := true, reads := 0, stopStatus := 0, unsig := 0, irqDue := false }
    let b := ((a.1.setRing 0 num y).writeLineStatus 0 num).issueLineRead num
    exec (.ringEnable fn) s = .next (b.ringResult fn 2 stOk (b.shown 0 num))) ∧
  (∀ (fn : Nat) (s : State),
    let a := s.ringOpAccess fn
    a.2 = true → ∀ (num : Nat) (r : Ring), a.1.selectedRing fn = some (0, num, r) →
    let st := if r.fetched.isEmpty then RingState.disabled else .draining
    let b := (a.1.setRing 0 num { r with st := st, rung := false, lineRead := false, reads := 0 }).writeLineStatus 0 num
    exec (.ringDisable fn) s = .next (b.ringResult fn 3 stOk (b.shown 0 num))) ∧
  (∀ (num : Nat) (s : State) (r : Ring), s.ring? 0 num = some r → r.st = .draining → r.fetched = [] →
    exec (.ringDrained num) s = .next ((s.setRing 0 num { r with st := .disabled }).writeLineStatus 0 num)) ∧
  (∀ (fn : Nat) (s : State),
    let a := s.ringOpAccess fn
    a.2 = true → ∀ (num : Nat) (r : Ring), a.1.selectedRing fn = some (0, num, r) → r.st = .disabled →
    exec (.ringDestroy fn) s = .next ((a.1.removeRing 0 num).ringResult fn 4 stOk (some (num, r)))) ∧
  (∀ (fn : Nat) (s : State),
    let a := s.ringOpAccess fn
    a.2 = true → ∀ (cls num : Nat) (r : Ring), a.1.selectedRing fn = some (cls, num, r) →
    let w2 := r.size % 2 ^ 17 * 2 ^ 47 + r.kind % 8 * 2 ^ 44 + b2n r.slice.isSome * 2 ^ 43 + r.localNo % 2 ^ 14 * 2 ^ 29
      + r.cq % 2 ^ 16 * 2 ^ 13
    let w3 := a.1.getF ⟨.DQM_RING_CTX, 63, 32, .rw, .s⟩ fn 3 * 2 ^ 32 + b2n r.irqEn * 2 ^ 31 + b2n r.useStore * 2 ^ 30
      + r.vector % 2 ^ 11 * 2 ^ 19 + r.modCount % 256 * 2 ^ 11 + r.modTime % 2 ^ 11
    let b := ((a.1.setReg .DQM_RING_CTX (BitVec.ofNat 64 r.base) fn 0).setReg .DQM_RING_CTX (BitVec.ofNat 64 r.line) fn 1).setReg
      .DQM_RING_CTX (BitVec.ofNat 64 w2) fn 2
    let c := ((b.setReg .DQM_RING_CTX (BitVec.ofNat 64 w3) fn 3).setF DQM_RING_IDX.module_index r.modIdx fn).setF
      DQM_RING_IDX.host_index r.hostIdx fn
    exec (.ringQuery fn) s = .next (c.ringResult fn 5 stOk (some (num, r)))) ∧
  (∀ (fn : Nat) (s : State),
    let a := s.ringOpAccess fn
    a.2 = true → ∀ (cls num : Nat) (r : Ring), a.1.selectedRing fn = some (cls, num, r) → cls ≠ 0 →
    let w := a.1.reg .DQM_RING_CTX fn 3
    let y := { r with irqEn := natBit w.toNat 31, useStore := natBit w.toNat 30, vector := w.bits 29 19,
                      modCount := w.bits 18 11, modTime := w.bits 10 0 }
    exec (.ringModifyIrq fn) s = .next ((a.1.setRing cls num y).ringResult fn 6 stOk (some (num, y))))

/-- Links, functions and their errors: each of these commands, where the conditions its clause names hold, answers the next state its
rule gives, whole: PERST_ASSERT, HOT_RESET, LINK_TRAINED, FLR, TRANSLATION_MISMATCH, RECEIVED_TLP_ERROR, INTERRUPT_UNMASK,
CONFIGURATION_REQUEST, L1_ENTRY, L0P_WINDOW (R289, R304, R302, R301, R299, R297, R307, R308, R309). -/
def Obligations.CompleteHost : Prop :=
  (∀ (links : Fin 3) (s : State),
    (links.val = 2 → exec (.perstAssert links) s = .next ((s.enterLinkReset 0).enterLinkReset 1)) ∧
    (links.val ≠ 2 → exec (.perstAssert links) s = .next (s.enterLinkReset links.val))) ∧
  (∀ (e : Fin 4) (s : State), s.flag HIF_LINK_STATUS.dl_up e.val = true →
    exec (.hotReset e) s = .next (s.enterHReset e.val)) ∧
  (∀ (e : Fin 4) (speed : Fin 7) (width : Fin 17) (flit drs : Bool) (s : State), s.mayTrain e.val = true →
    s.flag HIF_LINK_STATUS.dl_up e.val = false → speed.val ≠ 0 → width.val ≠ 0 →
    let l := e.val / 2
    (linkEndpoints l).any (fun x => s.flag HIF_LINK_STATUS.dl_up x) = false →
    let halves := s.flag HIF_LINK_CFG.bifurcate l
    (e.val % 2 = 1 → halves = true) →
    let cap := s.getF HIF_LINK_CFG.max_speed l
    let sp := min speed.val (if cap = 0 ∨ cap = 7 then 6 else cap)
    let w := min width.val (if halves then 8 else 16)
    let a := (s.setEp (2 * l) { s.ep (2 * l) with present := true }).setEp (2 * l + 1) { s.ep (2 * l + 1) with present := halves }
    let b := a.takeIdentity e.val
    let c := b.setEp e.val { b.ep e.val with trainedWidth := w, drs := drs, idleSince := b.now, l0pEnd := b.now }
    let d := (((c.setF HIF_LINK_STATUS.dl_up 1 e.val).setF HIF_LINK_STATUS.speed sp e.val).setF HIF_LINK_STATUS.width w
      e.val).setF HIF_LINK_STATUS.flit (b2n (flit || sp == 6)) e.val
    let f := ((d.setF HIF_LINK_STATUS.pm 0 e.val).setF HIF_LINK_STATUS.h_reset 0 e.val).setF HIF_LINK_STATUS.retry
      (b2n (!s.booted && !(s.modes.hostPush || s.mode == mDarkroom))) e.val
    exec (.linkTrained e speed width flit drs) s = .next ((f.finishAbsorbed (f.epFns e.val)).assignCtrls l)) ∧
  (∀ (fn : Nat) (s : State) (x : FnSt), s.fn? fn = some x → s.flag HIF_LINK_STATUS.h_reset (s.fnEndpoint fn) = false →
    s.flag HIF_LINK_STATUS.retry (s.fnEndpoint fn) = false →
    let vfs := if fnIsVf fn then [] else s.vfsOf fn
    exec (.flr fn) s
      = .next (((((s.touchFn fn).fnReset .f (fn :: vfs)).finishAbsorbed (fn :: vfs)).dropFns vfs).bump HIF_CNT.count (fnLink fn) 10)) ∧
  (∀ (fn : Nat) (s : State) (x : FnSt), s.fn? fn = some x →
    let e := s.fnEndpoint fn
    let a := s.setEp e { s.ep e with heldRequests := (s.ep e).heldRequests + 1 }
    exec (.translationMismatch fn) s
      = .next (((a.bump HIF_CNT.count (fnLink fn) 14).raise (5 + fnLink fn) (faultM 0x0020)).aerEndpoint e aerInternal true [])) ∧
  (∀ (e : Fin 4) (fn : Nat) (hdr : List Nat) (s : State), s.flag HIF_LINK_STATUS.dl_up e.val = true →
    exec (.receivedTlpError e .badTlp fn hdr) s = .next ((s.aerEndpoint e.val 6 false []).bump HIF_CNT.count (e.val / 2) 8) ∧
    exec (.receivedTlpError e .malformedTlp fn hdr) s = .next (s.aerEndpoint e.val 18 true hdr) ∧
    exec (.receivedTlpError e .poisoned fn hdr) s
      = .next ((s.aerUncorrectable fn aerPoisoned false hdr).bump HIF_CNT.count (e.val / 2) 6) ∧
    exec (.receivedTlpError e .ecrc fn hdr) s
      = .next ((s.aerUncorrectable fn aerEcrc false hdr).bump HIF_CNT.count (e.val / 2) 7)) ∧
  (∀ (fn vec : Nat) (s : State) (x : FnSt), s.fn? fn = some x → x.pendingVecs.contains vec = true →
    x.canSend vec = true → s.issueHeld fn none = false →
    exec (.interruptUnmask fn vec none) s
      = .next (((s.setFn fn { x with pendingVecs := x.pendingVecs.filter (· != vec) }).touchFn fn).emit
          (.interrupt fn (if x.msixEnable then vec else vec % x.msiCount) x.msixEnable))) ∧
  (∀ (fn : Nat) (s : State) (x : FnSt), s.fn? fn = some x →
    let a := s.touchFn fn
    a.flag HIF_LINK_STATUS.h_reset (s.fnEndpoint fn) = false →
    (a.flag HIF_LINK_STATUS.retry (s.fnEndpoint fn) = true →
      ∀ c, exec (.configurationRequest fn c) s = .next (a.emit (.cfgReply fn true 0))) ∧
    (a.flag HIF_LINK_STATUS.retry (s.fnEndpoint fn) = false →
      (∀ on, exec (.configurationRequest fn (.memorySpace on)) s = .next (a.setFn fn { x with memorySpace := on })) ∧
      (∀ on, exec (.configurationRequest fn (.busMaster on)) s = .next (a.setFn fn { x with busMaster := on })) ∧
      (∀ en mask, exec (.configurationRequest fn (.msixControl en mask)) s
        = .next (a.setFn fn { x with msixEnable := en, msixMask := mask })))) ∧
  (∀ (e : Fin 4) (deep : Bool) (s : State), (s.ep e.val).l1Enable = true → s.flag HIF_LINK_STATUS.dl_up e.val = true →
    s.getF HIF_LINK_STATUS.pm e.val < 2 → (s.pages.any fun p => s.fnEndpoint p.1 == e.val) = false → s.unserved e.val = false →
    let a := s.after ((s.ep e.val).idleSince + s.getF HIF_PM_CFG.l1_idle (e.val / 2) * usT)
    exec (.l1Entry e deep) s
      = .next ((a.setF HIF_LINK_STATUS.pm (if deep && (s.ep e.val).l12 then 3 else 2) e.val).bump HIF_CNT.count (e.val / 2) 12)) ∧
  (∀ (e : Fin 4) (util : Fin 101) (s : State), (s.ep e.val).l0pEnable = true → s.flag HIF_LINK_STATUS.flit e.val = true →
    8 ≤ (s.ep e.val).trainedWidth → s.flag HIF_LINK_STATUS.dl_up e.val = true → s.getF HIF_LINK_STATUS.pm e.val < 2 →
    let a := s.after (s.ep e.val).l0pEnd
    let b := a.setEp e.val { s.ep e.val with l0pEnd := a.now + s.getF HIF_PM_CFG.l0p_window (e.val / 2) * usT }
    let w := s.getF HIF_LINK_STATUS.width e.val
    util.val < s.getF HIF_PM_CFG.l0p_down (e.val / 2) → 4 ≤ w →
    exec (.l0pWindow e util) s
      = .next (((b.setF HIF_LINK_STATUS.width (w / 2) e.val).setF HIF_LINK_STATUS.pm
          (if w / 2 < (s.ep e.val).trainedWidth then 1 else 0) e.val).bump HIF_CNT.count (e.val / 2) 13))

/-- Rate, servo, slew, step and set of the time island: each of these commands, where the conditions its clause names hold, answers the
next state its rule gives, whole: TSV_RATE_WRITE, TSV_SERVO_WRITE, SLEW, STEP, SET, SET_AT_PPS, ISLAND_RESET, SNAPSHOT_LATCH (R73,
R80, R81, R97, R95). -/
def Obligations.CompleteIslandWrites : Prop :=
  (∀ (init : Nat) (v : BitVec 32) (s : State),
    let a := s.blockAccess 4 .write init 0x0008
    a.2 = true →
    let b := a.1.crossTclk
    let x := signedOf 32 v.toNat
    let y : Int := if 549755814 < x then 549755814 else if x < -549755814 then -549755814 else x
    (b.tstate ≠ tsLocked ∨ (y - signedOf 32 (b.getF TSV_RATE.rate)).natAbs ≤ b.getF TSV_HOLD_MODEL.max_rate_step →
      exec (.tsvRateWrite init v) s = .next (b.setF TSV_RATE.rate (ofSigned 32 y))) ∧
    (b.tstate = tsLocked → b.getF TSV_HOLD_MODEL.max_rate_step < (y - signedOf 32 (b.getF TSV_RATE.rate)).natAbs →
      exec (.tsvRateWrite init v) s = .next b.plausFault)) ∧
  (∀ (init : Nat) (wide upper : Bool) (v : Word) (s : State),
    let a := s.blockAccess 4 .write init 0x0038
    a.2 = true →
    let b := a.1.crossTclk
    let c := { b with island := { b.island with beatAt := b.tnow } }
    let w := (c.writeFields (fun _ => true) wide upper 0 v Reg.TSV_SERVO.fields (c.reg .TSV_SERVO)).1
    ((signedOf 24 (w.bits 55 32)).natAbs ≤ w.bits 31 0 →
      let d := { c.setReg .TSV_SERVO w with island := { c.island with servoAt := c.tnow } }
      exec (.tsvServoWrite init wide upper v) s = .next (d.applyClaim (w.bits 63 62))) ∧
    (w.bits 31 0 < (signedOf 24 (w.bits 55 32)).natAbs → exec (.tsvServoWrite init wide upper v) s = .next c.plausFault)) ∧
  (∀ (init : Nat) (amount : Option (BitVec 48)) (s : State),
    let a := s.blockAccess 4 .write init 0x0028
    a.2 = true →
    let b := a.1.adjLand 0 amount
    let m := b.adjAmount
    b.getF TSV_HOLD_MODEL.slew_ppm ≠ 0 → b.tstate ≠ tsLocked →
    let recent := b.island.slews.filter fun p => decide (b.tnow < p.1 + 10 ^ 6)
    let d := b.draw 1
    let i := { d.2.island with slewLeft := m * 2 ^ 24, slewStep := b.getF TSV_HOLD_MODEL.slew_ppm * ctrOne / 10 ^ 6 + d.1,
                               slews := if m = 0 then recent else recent ++ [(b.tnow, m.natAbs)] }
    exec (.tsvSlew init amount) s = .next { d.2 with island := i }) ∧
  (∀ (init : Nat) (amount : Option (BitVec 48)) (s : State),
    let a := s.blockAccess 4 .write init 0x0028
    a.2 = true →
    let b := a.1.adjLand 1 amount
    let m := b.adjAmount
    b.tstate ≠ tsLocked →
    let add (c : Nat) : Nat := (((c : Int) + m * 2 ^ 24) % (2 ^ 104 : Int)).toNat
    (m ≠ 0 → exec (.tsvStep init amount) s
      = .next ({ b with island := { b.island with ctrA := add b.island.ctrA, ctrB := add b.island.ctrB } }.adjDone (m.natAbs * 2 ^ 24))) ∧
    (m = 0 → exec (.tsvStep init amount) s = .next { b with island := { b.island with slewLeft := 0 } })) ∧
  (∀ (init : Nat) (amount : Option (BitVec 48)) (s : State),
    let a := s.blockAccess 4 .write init 0x0028
    a.2 = true →
    let b := a.1.adjLand 2 amount
    let m := b.adjAmount
    0 ≤ m → m < 10 ^ 9 * 2 ^ 16 → b.tstate ≠ tsLocked →
    exec (.tsvSet init amount) s = .next (b.loadCounters (b.getF TSV_SET_SEC.seconds * 10 ^ 9 * ctrOne + m.toNat * 2 ^ 24))) ∧
  (∀ (init : Nat) (amount : Option (BitVec 48)) (s : State),
    let a := s.blockAccess 4 .write init 0x0028
    a.2 = true →
    let b := a.1.adjLand 3 amount
    b.tstate ≠ tsLocked →
    exec (.setAtPps init amount) s = .next { b with island := { b.island with setArmed := true } }) ∧
  (∀ (init : Nat) (s : State),
    let a := s.blockAccess 4 .write init 0x000C
    a.2 = true → exec (.islandReset init 0xC35A) s = .next a.1.crossTclk.islandReset) ∧
  (∀ (init off v j blk bo : Nat) (wide upper : Bool) (s : State),
    placeReg init (.window off) = (some (blk, bo), some (.TSV_SNAP_SEC, v, j, upper)) →
    let a := s.blockAccess blk .read init bo
    a.2 = true →
    let t := a.1.timeNow
    let u := a.1.pubUnc 0
    let b := (a.1.setF TSV_SNAP_SEC.state a.1.tstate v).setF TSV_SNAP_SEC.seconds (secondsOf t) v
    let c := (b.setF TSV_SNAP_NS.ns (t / 2 ^ 16 % 10 ^ 9) v).setF TSV_SNAP_NS.frac t v
    let d := (c.setF TSV_SNAP_NS.unc (unc16 u) v).setF TSV_SNAP_UNC.unc32 (unc32 u) v
    exec (.snapshotLatch init off wide) s = .next (d.emit (.readData init (readPart (d.reg .TSV_SNAP_SEC v) wide upper))))

/-- References, counters, pulses and pages of the time island: each of these commands, where the conditions its clause names hold,
answers the next state its rule gives, whole: PPS_IN_EDGE, PPS_WINDOW_MISSED, REFERENCE_QUALIFIED, REFERENCE_DISQUALIFIED,
COUNTER_MISMATCH, SERVO_BEAT_TIMEOUT, U_REF_EVALUATION, REPLICA_CHECK, REPLICA_REALIGNED, TIME_SNAPSHOT_PUBLISH, PPS_OUTPUT_EDGE,
PTM_DIALOGUE, PTM_STALE, TIME_PAGE_ENABLE, TIME_PAGE_DISABLE, TIME_PAGE_WRITE (R85, R84, R72, R83, R76, R87, R96, R88, R90, R93,
R91, R94). -/
def Obligations.CompleteIslandEvents : Prop :=
  (∀ (t highNs : Nat) (s : State),
    let d := (s.after t).syncIsland.draw 16
    let i := d.2.island
    let stamp := ((d.2.timeNow : Int) + signedOf 16 d.1 - signedOf 16 (d.2.getF TSV_REF_SEL.pps_in_comp) * 2 ^ 14).toNat
    d.2.flag TSV_STATE.pps_in_qualified = true → d.2.now ≤ i.ppsCentre + usT → i.ppsCentre ≤ d.2.now + usT → 100 ≤ highNs →
    let j := { i with ppsQueue := i.ppsQueue ++ [(stamp, false)], ppsLast := some d.2.now, ppsCentre := d.2.now + secT, ppsMissed := 0 }
    exec (.ppsInEdge t highNs) s = .next { d.2 with island := j }.qualifiedEdge) ∧
  (∀ (s : State), s.flag TSV_STATE.pps_in_qualified = true →
    let a := s.after (s.island.ppsCentre + usT)
    let i : IslandSt := { a.island with ppsCentre := a.island.ppsCentre + secT, ppsMissed := a.island.ppsMissed + 1 }
    (i.ppsMissed < 2 → exec .ppsWindowMissed s = .next { a with island := i }) ∧
    (2 ≤ i.ppsMissed →
      exec .ppsWindowMissed s
        = .next ({ a with island := { i with ppsRun := 0, ppsLast := none, ppsMissed := 0 } }.setF TSV_STATE.pps_in_qualified 0).showRefs)) ∧
  (∀ (r : TimeRef) (s : State), r ≠ .ppsIn ∨ 3 ≤ s.island.ppsRun →
    exec (.referenceQualified r) s = .next (s.syncIsland.setF (refBit r) 1).showRefs) ∧
  (∀ (s : State),
    let a := (s.syncIsland.setF (refBit .ppsIn) 0).showRefs
    exec (.referenceDisqualified .ppsIn) s
      = .next { a with island := { a.island with ppsRun := 0, ppsLast := none, ppsMissed := 0 } }) ∧
  (∀ (b : Nat) (s : State),
    let a := s.syncIsland
    b % 2 ^ 104 ≠ a.island.ctrA →
    let c := { a with island := { a.island with ctrB := a.island.ctrA, wasSet := false, uRef := none } }
    exec (.counterMismatch b) s
      = .next (((c.enterTState tsUnknown).setF TSV_STATE.compare_fault 1).raise 4 (faultM 0x0021))) ∧
  (∀ (s : State),
    let ms := s.getF TSV_HOLD_MODEL.beat_timeout
    let due := (s.island.beatAt + (if ms = 0 then 1 else ms) * 10 ^ 6) * tclk
    (s.tstate = tsLocked → exec .servoBeatTimeout s = .next (s.after due).syncIsland.plausFault) ∧
    (s.tstate = tsAcquiring → exec .servoBeatTimeout s = .next (s.after due).syncIsland.fallBack)) ∧
  (∀ (temp : Int) (s : State),
    let a := s.after ((s.island.uAt / 1000 + 1) * 1000 * tclk)
    let k := a.tnow / 1000 * 1000
    a.island.holdExc = none → a.tstate ≠ tsHoldover →
    exec (.uRefEvaluation temp) s
      = .next (((a.noteRef temp none k).setF TSV_STATE.temp_excursion 0).putRef (k + 1000)).setSettle) ∧
  (∀ (r : Fin 10) (diff : Nat) (s : State),
    let a := s.after ((s.tnow / 1000 + 1) * 1000 * tclk)
    (diff ≤ 2 ^ 16 → exec (.replicaCheck r diff) s = .next a) ∧
    (2 ^ 16 < diff →
      exec (.replicaCheck r diff) s
        = .next ({ a with island := { a.island with replicas := insertNat a.island.replicas r.val } }.raise 3 (faultM 0x0021)))) ∧
  (∀ (r : Fin 10) (s : State),
    exec (.replicaRealigned r) s
      = .next { s with island := { s.island with replicas := s.island.replicas.filter (· != r.val) } }) ∧
  (∀ (s : State),
    let a := s.after ((s.tnow / 8 + 1) * 8 * tclk)
    exec .timeSnapshotPublish s = .next { a with island := { a.island with snapTime := a.timeNow, snapUnc := a.pubUnc 0 } }) ∧
  (∀ (o : Fin 2) (s : State),
    let a := s.syncIsland
    let comp := signedOf 12 (a.getF TSV_PPS_CFG.comp o.val) * 2 ^ 38
    let sec := ((a.island.ctrA : Int) + comp) / (10 ^ 9 * ctrOne : Int) + 1
    let b := a.after (a.whenReached (sec * (10 ^ 9 * ctrOne : Int) - comp).toNat * tclk)
    let width := b.getF TSV_PPS_CFG.width o.val
    b.flag TSV_PPS_CFG.enable o.val = true → 0 < width → b.flag TSV_PPS_CFG.force o.val = true →
    let c := b.emit (.pin (if o.val = 0 then .ppsOut else .ppsHost) true)
    exec (.ppsOutputEdge o) s
      = .next { c with island := { c.island with ppsUntil := Tab.put c.island.ppsUntil o.val (c.now + width * usT) } }) ∧
  (∀ (link : Fin 2) (master : Nat) (s : State), (s.ptmOf link.val).enabled = true →
    let p := s.ptmOf link.val
    let d := (s.after (p.last + 100 * usT)).draw 16
    exec (.ptmDialogue link master true) s
      = .next (d.2.setPtm link.val
          ⟨true, ((master, (s.after (p.last + 100 * usT)).timeNow) :: p.pairs).take 16, (s.after (p.last + 100 * usT)).now, d.1 % 61, true⟩)) ∧
  (∀ (link : Fin 2) (s : State), (s.ptmOf link.val).valid = true →
    exec (.ptmStale link) s
      = .next ((s.after ((s.ptmOf link.val).last + 100 * msT)).setPtm link.val { s.ptmOf link.val with valid := false })) ∧
  (∀ (fn : Nat) (s : State) (x : FnSt), s.fn? fn = some x → s.getF TSV_TPG_MULT.mult fn ≠ 0 →
    Tab.has s.pages fn = false → s.pagesOnLink (fnLink fn) < 16 → x.busMaster = true → (s.ptmOf (fnLink fn)).enabled = true →
    let a := (s.setF TSV_TPG_CTL.enable 1 fn).setF TSV_TPG_CTL.result stOk fn
    exec (.timePageEnable fn) s = .next { a with pages := Tab.put a.pages fn ⟨0, zeroBytes 64, s.now + usT⟩ }) ∧
  (∀ (fn : Nat) (s : State),
    exec (.timePageDisable fn) s = .next { s.setF TSV_TPG_CTL.enable 0 fn with pages := Tab.del s.pages fn }) ∧
  (∀ (fn : Nat) (utc : Option (Nat × Bool × Bool)) (s : State) (p : TimePage), Tab.look s.pages fn = some p →
    let d := (s.after p.nextAt).draw 64
    let e := d.2.draw 64
    let n := (p.seq + 2) % 2 ^ 32
    let body := e.2.pageBytes fn n d.1 e.1 utc
    let a := { e.2 with pages := Tab.put e.2.pages fn ⟨n, body, p.nextAt + usT⟩ }
    a.issueHeld fn none = false →
    let b : State × Bool := a.pageWrite fn 0 (leBytes 4 (p.seq + 1))
    let c : State × Bool := b.1.pageWrite fn 4 (body.drop 4)
    let f : State × Bool := c.1.pageWrite fn 0 (leBytes 4 n)
    b.2 = true → c.2 = true → f.2 = true →
    exec (.timePageWrite fn utc) s = .next f.1)

/-- Writing, preferring and revoking images: each of these commands, where the conditions its clause names hold, answers the next state
its rule gives, whole: UPD_OPEN, UPD_WRITE, UPD_CLOSE, ACTIVATE, PREFER, INVALIDATE, REVOKE_KEY, ADVANCE_SVN, ENROLL_OWNER, LOCK,
UNLOCK (R476, R478, R466, R475). -/
def Obligations.CompleteUpdates : Prop :=
  (∀ (init : Nat) (v : Word) (s : State),
    let a := s.blockAccess 3 .write init 0
    a.2 = true →
    let t := s.updTaken init 1 v
    t.flag UPD_CMD.busy = false → t.updReason 1 false = 0 → t.mode ≠ mDarkroom →
    t.upd.header = none →
    exec (.updOpen init v) s = .next (((t.eraseHeader t.inactiveSlot).setSequence (some (zeroBytes 512))).updEnd stOk 0)) ∧
  (∀ (init : Nat) (v : Word) (s : State),
    let a := s.blockAccess 3 .write init 0
    a.2 = true →
    let t := s.updTaken init 2 v
    t.flag UPD_CMD.busy = false → t.updReason 2 false = 0 → t.mode ≠ mDarkroom →
    let n := t.getF UPD_ARG.length
    let o := t.getF UPD_ARG.offset
    n ≠ 0 → o + n ≤ slotSize → ∀ (h b : List Byte) (u : State), t.upd.header = some h → t.updRead n = (u, some b) →
    exec (.updWrite init v) s = .next ((u.updPut h o b).updEnd stOk 0)) ∧
  (∀ (init : Nat) (v : Word) (s : State),
    let a := s.blockAccess 3 .write init 0
    a.2 = true →
    let t := s.updTaken init 3 v
    t.flag UPD_CMD.busy = false → t.updReason 3 false = 0 → t.mode ≠ mDarkroom →
    ∀ h : List Byte, t.upd.header = some h → t.heldReason h = 0 →
    exec (.updClose init v) s
      = .next ((((t.setBytes (slotBase t.inactiveSlot) h).setF (triesField (t.inactiveSlot + 1)) 0).setSequence none).updEnd stOk 0)) ∧
  (∀ (init : Nat) (v : Word) (prepare : Bool) (s : State),
    let a := s.blockAccess 3 .write init 0
    a.2 = true →
    let t := s.updTaken init 4 v
    t.flag UPD_CMD.busy = false → t.updReason 4 prepare = 0 → t.mode ≠ mDarkroom →
    exec (.updActivate init v prepare) s = .next (t.prepareAct prepare)) ∧
  (∀ (init : Nat) (v : Word) (s : State),
    let a := s.blockAccess 3 .write init 0
    a.2 = true →
    let t := s.updTaken init 5 v
    t.flag UPD_CMD.busy = false → t.updReason 5 false = 0 → t.mode ≠ mDarkroom →
    let slot := t.getF UPD_CMD.slot
    t.storeReason (1 - slot + 1) ≠ 0 ∨
      imageVersion (t.storeBytes (1 - slot + 1)) ≤ imageVersion (t.storeBytes (slot + 1)) →
    exec (.updPrefer init v) s = .next ((t.setF BOOT_PERSIST.preferred slot).updEnd stOk 0)) ∧
  (∀ (init : Nat) (v : Word) (s : State),
    let a := s.blockAccess 3 .write init 0
    a.2 = true →
    let t := s.updTaken init 6 v
    t.flag UPD_CMD.busy = false → t.updReason 6 false = 0 → t.mode ≠ mDarkroom →
    exec (.updInvalidate init v) s = .next (((t.eraseHeader t.inactiveSlot).setSequence none).updEnd stOk 0)) ∧
  (∀ (init : Nat) (v : Word) (s : State),
    let a := s.blockAccess 3 .write init 0
    a.2 = true →
    let t := s.updTaken init 7 v
    t.flag UPD_CMD.busy = false → t.updReason 7 false = 0 → t.mode ≠ mDarkroom →
    exec (.revokeKey init v) s
      = .next (t.blow { t.fuse with keyRevoked := natSetBit t.fuse.keyRevoked (t.getF UPD_ARG.length % 8) true })) ∧
  (∀ (init : Nat) (v : Word) (s : State),
    let a := s.blockAccess 3 .write init 0
    a.2 = true →
    let t := s.updTaken init 8 v
    t.flag UPD_CMD.busy = false → t.updReason 8 false = 0 → t.mode ≠ mDarkroom →
    let n := t.getF UPD_ARG.length % 64
    (t.fuse.rollback ≤ n → exec (.advanceSvn init v) s = .next (t.blow { t.fuse with rollback := n })) ∧
    (n < t.fuse.rollback → exec (.advanceSvn init v) s = .next (t.updEnd stMalformed 0))) ∧
  (∀ (init : Nat) (v : Word) (s : State),
    let a := s.blockAccess 3 .write init 0
    a.2 = true →
    let t := s.updTaken init 9 v
    t.flag UPD_CMD.busy = false → t.updReason 9 false = 0 → t.mode ≠ mDarkroom →
    t.flag BOOT_PERSIST.owner_lock = false → ∀ (u : State) (b : List Byte), t.updRead 96 = (u, some b) →
    let w := { u with boot := { u.boot with owner := beBytes 48 (sha384 b) } }
    exec (.enrollOwner init v) s = .next ((w.setF BOOT_PERSIST.owner_enrolled 1).updEnd stOk 0)) ∧
  (∀ (init : Nat) (v : Word) (s : State),
    let a := s.blockAccess 3 .write init 0
    a.2 = true →
    let t := s.updTaken init 10 v
    t.flag UPD_CMD.busy = false → t.updReason 10 false = 0 → t.mode ≠ mDarkroom →
    t.flag BOOT_PERSIST.owner_enrolled = true →
    exec (.ownerLock init v) s = .next ((t.setF BOOT_PERSIST.owner_lock 1).updEnd stOk 0)) ∧
  (∀ (init : Nat) (v : Word) (s : State),
    let a := s.blockAccess 3 .write init 0
    a.2 = true →
    let t := s.updTaken init 11 v
    t.flag UPD_CMD.busy = false → t.updReason 11 false = 0 → t.mode ≠ mDarkroom →
    ∀ (u : State) (sig : List Byte), t.updRead 96 = (u, some sig) →
    let good := u.flag BOOT_PERSIST.owner_enrolled
      && (ecdsaKeys u.unlockDigest sig).any fun k => beBytes 48 (sha384 k) == u.boot.owner
    (good = true → exec (.ownerUnlock init v) s = .next ((u.freshNonce.setF BOOT_PERSIST.owner_lock 0).updEnd stOk 0)) ∧
    (good = false → exec (.ownerUnlock init v) s = .next (u.freshNonce.updEnd stRefusedState 12)))

/-- Activation, its commit and its end: each of these commands, where the conditions its clause names hold, answers the next state its
rule gives, whole: ACTIVATE_COMMIT, BOOT_FAIL, ACTIVATE_TIMEOUT, BOOT_DONE, ROM_START, SOURCE_WAIT_TIMEOUT, REC_GO,
TFTP_IMAGE_WRITE, ODFER_IMAGE_OFFER, IMAGE_RECEIVED, ROM_HANDOVER, BOOT_WATCHDOG, RECOVERY_WINDOW_CLOSE, DARKROOM_RETRY (R479, R481,
R467, R458, R459, R471, R500, R463, R462, R470). -/
def Obligations.CompleteActivation : Prop :=
  (∀ (s : State) (a : ActSt), s.upd.act = some a → a.commit = none → s.nveBusy = false → s.flag ODF_STATUS.master = false →
    exec (.activateCommit .ready) s = .next (s.commitAct a)) ∧
  (∀ (s : State) (a : ActSt), s.upd.act = some a → a.commit.isSome = true → a.rolling = false →
    exec (.bootFail .cascade) s = .next (s.rollBack a)) ∧
  (∀ (s : State) (a : ActSt) (c : Nat), s.upd.act = some a → a.commit = some c → a.rolling = false →
    exec .activateTimeout s = .next ((s.after (c + 180 * msT)).rollBack a)) ∧
  (∀ (init : Nat) (s : State),
    let c := s.blockAccess 2 .write init 0x20
    c.2 = true → init ≠ 0x020 →
    (∀ a, c.1.upd.act = some a → a.commit.isSome = true → c.1.modes.dReset = none →
      exec (.bootDone init) s = .next (c.1.finishAct a)) ∧
    (c.1.upd.act = none → c.1.modes.phase = .handedOver → c.1.modes.asserted = none → c.1.booted = false →
      exec (.bootDone init) s = .next c.1.completeBoot)) ∧
  (∀ (straps : BitVec 5) (s : State), s.inRom = true → s.boot.log = [] →
    let a := (s.setBoot { s.boot with straps := straps.toNat }).setF ODF_STATUS.own_id (straps.toNat % 4)
    let b := ((a.extend 0 1 0 0 0 0 (beBytes 48 Config.romHash)).extendFree 1 1).extendFree 7 1
    let c := b.extendFree 9 1
    exec (.romStart straps) s
      = .next (c.bootFrom (bootOrder (if c.fuse.orderLock then c.fuse.order else straps.toNat / 4)))) ∧
  (∀ (s : State), s.inRom = true →
    (∀ t, s.boot.transfer = some (.management, t) → exec .sourceWaitTimeout s = .next (s.after (t + 5 * secT)).sourceFailed) ∧
    (∀ x t, s.boot.transfer = none → s.boot.wait = some (x, t) → exec .sourceWaitTimeout s = .next (s.after t).sourceFailed)) ∧
  (∀ (fn : Nat) (s : State) (x : FnSt), s.fn? fn = some x → x.personality = .recovery → s.boot.recState = 0 →
    s.transferOpen .hostPush = true → x.busMaster = true →
    let a := s.startTransfer .hostPush
    exec (.recGo fn 1) s
      = .next ((a.setBoot { a.boot with recState := 1, recReason := 0 }).emit (.hostRead fn none a.boot.recAddr a.boot.recLen))) ∧
  (∀ (s : State), s.boot.transfer = none → s.transferOpen .management = true →
    exec .tftpImageWrite s = .next (s.startTransfer .management)) ∧
  (∀ (link : Fin 2) (s : State), s.transferOpen .odfer = true → s.mode ≠ mDarkroom →
    exec (.odferImageOffer link) s = .next (s.startTransfer .odfer)) ∧
  (∀ (image : List Byte) (s : State) (n : Nat), s.boot.transfer = some (.odfer, n) → s.inRom = true →
    s.mode ≠ mDarkroom →
    let slot := s.receiveSlot
    let a := s.putImage slot image
    let r := a.storeReason (slot + 1)
    let b := (a.setFail (slot + 1) r).recEnd .odfer r
    (r = 0 → exec (.imageReceived image) s = .next ((b.setHostPush false).choose (slot + 1) BootSrc.odfer.path)) ∧
    (r ≠ 0 → exec (.imageReceived image) s = .next b.sourceFailed)) ∧
  (∀ (s : State) (store path : Nat), s.boot.chosen = some (store, path) → s.inRom = true →
    let v := imageVersion (s.storeBytes store)
    let a := s.setF (triesField store) (s.getF (triesField store) + 1)
    let b := ((a.setF BOOT_STATUS.store store).setF BOOT_STATUS.path path).setF BOOT_VERSION.version v
    let c := (b.measureImage store 1).showInactive
    exec .romHandover s = .next { c with
      boot := { c.boot with chosen := none, running := store, version := v, watchdog := some (c.now + 60 * secT) }
      modes := { c.modes with phase := .handedOver } }) ∧
  (∀ (s : State) (t : Nat), s.boot.watchdog = some t → s.modes.asserted = none →
    exec .bootWatchdog s = .next (((s.after t).beginReset .w none).setF BOOT_STATUS.wdog 1)) ∧
  (∀ (s : State) (t : Nat), s.boot.window = some (false, t) →
    let a := s.after t
    exec .recoveryWindowClose s
      = .next (a.setBoot { a.boot with window := some (true, a.now + min 64 (2 ^ a.getF BOOT_PERSIST.dr_count) * secT) })) ∧
  (∀ (s : State) (t : Nat), s.boot.window = some (true, t) →
    let a := s.after t
    let b := a.setF BOOT_PERSIST.dr_count (min 255 (a.getF BOOT_PERSIST.dr_count + 1))
    exec .darkroomRetry s
      = .next ((((b.setF BOOT_PERSIST.tries_a 0).setF BOOT_PERSIST.tries_b 0).setF BOOT_PERSIST.tries_g 0).beginReset .c (some 7)))

/-- Measurement registers and the event log: each of these commands, where the conditions its clause names hold, answers the next state
its rule gives, whole: MEAS_READ, MEAS_EXTEND, MEAS_LOG_READ (R472, R473). -/
def Obligations.CompleteMeasurement : Prop :=
  (∀ (init : Nat) (n : BitVec 10) (s : State),
    let a := s.blockAccess 2 .write init 0x28
    a.2 = true →
    let t := (a.1.setF BOOT_MEAS_CMD.op 1).setF BOOT_MEAS_CMD.n n.toNat
    n.toNat ≤ 15 →
    exec (.measRead init n) s = .next ((t.putMeasData (t.measure n.toNat) 6).setF BOOT_MEAS_CMD.result stOk)) ∧
  (∀ (init : Nat) (n : BitVec 10) (s : State),
    let a := s.blockAccess 2 .write init 0x28
    a.2 = true →
    let t := (a.1.setF BOOT_MEAS_CMD.op 2).setF BOOT_MEAS_CMD.n n.toNat
    12 ≤ n.toNat → n.toNat ≤ 15 →
    let d := ((List.range 6).map fun i => leBytes 8 (t.reg .BOOT_MEAS_DATA i).toNat).flatten
    exec (.measExtend init n) s = .next ((t.extend n.toNat 5 0 0 0 0 d).setF BOOT_MEAS_CMD.result stOk)) ∧
  (∀ (init : Nat) (n : BitVec 10) (s : State),
    let a := s.blockAccess 2 .write init 0x28
    a.2 = true →
    let t := (a.1.setF BOOT_MEAS_CMD.op 3).setF BOOT_MEAS_CMD.n n.toNat
    (∀ e, t.boot.log[n.toNat]? = some e →
      exec (.measLogRead init n) s = .next ((t.putMeasData e 8).setF BOOT_MEAS_CMD.result stOk)) ∧
    (t.boot.log[n.toNat]? = none → exec (.measLogRead init n) s = .next (t.setF BOOT_MEAS_CMD.result stMalformed)))

/-- Mode requests, host power presence and resets: each of these commands, where the conditions its clause names hold, answers the next
state its rule gives, whole: MODE_REQUEST_GO, CLAIM, RELEASE, MODE_COMMIT, HOST_PWR_GOOD_CHANGE, STANDBY_ENTRY_DEBOUNCE,
STANDBY_EXIT_DEBOUNCE, RESET_COLD_REQUEST, RESET_WARM_REQUEST, RESET_DATAPATH_REQUEST, FLUSH_DONE, FLUSH_TIMEOUT, RESET_RELEASE,
D_RESET_DONE (R49, R47, R46, R43, R509, R50, R62, R59, R60). -/
def Obligations.CompleteModes : Prop :=
  (∀ (init : Nat) (target : Fin 8) (s : State), s.controlPaused = false →
    let a := s.blockAccess 24 .write init 0x100
    a.2 = true →
    let b := a.1.setF MGT_MODE_REQ.target target.val
    b.flag MGT_MODE_REQ.busy = false →
    let c := b.setF MGT_MODE_REQ.source_mode b.mode
    c.booted = true → c.firmwareChangeOk target.val = true → c.mode ≠ mTest →
    (c.mode ≠ mSafeHold → exec (.modeRequestGo init target) s = .next (c.beginMode .firmware target.val)) ∧
    (c.mode = mSafeHold →
      exec (.modeRequestGo init target) s = .next ((c.beginMode .safeHoldExit target.val).beginReset .d (some 8)))) ∧
  (∀ (o : Origin) (s : State), s.controlPaused = false → s.claimRing o = true → s.flag MGT_MODE_REQ.busy = false → s.booted = true →
    (s.mode = mManaged → exec (.claim o) s = .next (s.answerMode (.claim o) stOk)) ∧
    (s.mode = mStandalone → exec (.claim o) s = .next (s.beginMode (.claim o) mManaged))) ∧
  (∀ (o : Origin) (s : State), s.controlPaused = false → s.claimRing o = true → s.flag MGT_MODE_REQ.busy = false → s.booted = true →
    s.mode = mManaged → exec (.release o) s = .next (s.beginMode (.release o) mStandalone)) ∧
  (∀ (s : State) (q : ModeReq), s.modes.req = some q → q.trigger = .firmware → q.source ≠ mManaged →
    exec .modeCommit s = .next ((s.commitMode q.target).endMode stOk).resumeHeldStandby) ∧
  (∀ (level : Bool) (s : State), s.modes.pwrGood ≠ level →
    let a := s.setF PWR_HOST_CTL.pwr_good (b2n level)
    exec (.hostPwrGoodChange level) s
      = .next { a with modes := { a.modes with pwrGood := level, pwrSince := s.now, debounced := false, heldStandby := none } }) ∧
  (∀ (s : State), s.modes.pwrGood = false → s.modes.debounced = false → s.booted = true →
    exec .standbyEntryDebounce s = .next ((s.after (s.modes.pwrSince + 100 * msT)).endDebounce true)) ∧
  (∀ (s : State), s.modes.pwrGood = true → s.modes.debounced = false → s.booted = true →
    exec .standbyExitDebounce s = .next ((s.after (s.modes.pwrSince + 10 * msT)).endDebounce false)) ∧
  (∀ (init : Nat) (v : BitVec 32) (s : State),
    let a := s.blockAccess 23 .write init 0x40
    a.2 = true → s.flag PWR_RESET_CTRL.flushing = false → v.toNat / 2 ^ 16 % 2 ^ 16 = 0xA5C3 → natBit v.toNat 1 = true →
    let b := a.1.setF PWR_RESET_CTRL.flush_first (v.toNat % 2)
    let c := b.setF PWR_RESET_CTRL.flushing 1
    (natBit v.toNat 0 = false → exec (.resetColdRequest init v) s = .next (b.beginReset .c (some 3))) ∧
    (natBit v.toNat 0 = true → exec (.resetColdRequest init v) s
      = .next { c with modes := { c.modes with flush := some ⟨.c, some 3, c.now⟩ } })) ∧
  (∀ (init : Nat) (v : BitVec 32) (s : State),
    let a := s.blockAccess 23 .write init 0x40
    a.2 = true → s.flag PWR_RESET_CTRL.flushing = false → v.toNat / 2 ^ 16 % 2 ^ 16 = 0xA5C3 → natBit v.toNat 1 = false →
    natBit v.toNat 2 = true → natBit v.toNat 0 = false →
    exec (.resetWarmRequest init v) s = .next ((a.1.setF PWR_RESET_CTRL.flush_first (v.toNat % 2)).beginReset .w (some 4))) ∧
  (∀ (init : Nat) (v : BitVec 32) (s : State),
    let a := s.blockAccess 23 .write init 0x40
    a.2 = true → s.flag PWR_RESET_CTRL.flushing = false → v.toNat / 2 ^ 16 % 2 ^ 16 = 0xA5C3 → natBit v.toNat 1 = false →
    natBit v.toNat 2 = false → natBit v.toNat 3 = true → natBit v.toNat 0 = false →
    exec (.resetDatapathRequest init v) s = .next ((a.1.setF PWR_RESET_CTRL.flush_first (v.toNat % 2)).beginReset .d (some 8))) ∧
  (∀ (s : State) (q : RstReq), s.modes.flush = some q →
    (s.nve.bufs.any fun p => p.2.st != NveBufSt.destaged && (match s.ns? p.2.ns with
      | some n => n.fault.isNone
      | none => false)) = false →
    exec .flushDone s = .next (s.afterFlush q)) ∧
  (∀ (s : State) (q : RstReq), s.modes.flush = some q →
    exec .flushTimeout s = .next ((s.after (q.started + 10 * secT)).afterFlush q)) ∧
  (∀ (s : State) (q : RstReq), s.modes.asserted = some q → s.hw.rails = true → q.kind = .w →
    let d := (s.after (q.started + 100 * usT)).draw 17
    let a := { d.2 with
      modes := { d.2.modes with asserted := none, phase := BootPhase.rom }
      prf := { d.2.prf with slBoundary := d.2.now + d.1 % 70000 * fclk } }
    exec .resetRelease s = .next a.showUnits.releaseCipher) ∧
  (∀ (s : State) (q : RstReq), s.modes.dReset = some q → exec .dResetDone s = .next s.dataRelease)

/-- Faults, their acknowledgement, the Safelight, scrubbing and repair: each of these commands, where the conditions its clause names
hold, answers the next state its rule gives, whole: FAULT_EVENT, CORRECTED_EVENT, FAULT_ACK, PRF_SLICE_LIFT, SAFELIGHT_FEED,
SAFELIGHT_FEED_TIMEOUT, SAFELIGHT_BOUNDARY, CLOCK_DEVIATION, PATROL_SCRUB, UNIT_FAILURE, SELF_TEST, SELF_TEST_FATAL_RETRY,
REPAIR_LOG_READ, ERROR_INJECT (R426, R425, R432, R435, R437, R438, R444, R445, R450, R447, R453, R448, R526). -/
def Obligations.CompleteProofreader : Prop :=
  (∀ (q : Fin 47) (e : ErrEvent) (ev : Option ErrEvent) (s t : State), e.cls = 2 →
    (match ev with
      | some x => s.raiseAs q.val { x with fault := true }
      | none => s).popEvent q.val true = (some e, t) →
    let src := sourceOfPlaces q.val
    let conf := t.levelFor src 2
    let esc := t.escalated src conf
    let level := if esc = 2 ∧ e.slice.isNone then 3 else esc
    exec (.faultEvent q ev none none) s
      = .next ((((t.recordFault src 2 level (decide (conf < esc)) e).emit (.coreIrq 0)).actOnLevel src 2 level e).showSafelight)) ∧
  (∀ (q : Fin 47) (e : ErrEvent) (ev : Option ErrEvent) (s t : State),
    (match ev with
      | some x => s.raiseAs q.val { x with fault := false }
      | none => s).popEvent q.val false = (some e, t) →
    let src := sourceOfPlaces q.val
    let old := t.getF PRF_CORR_LATCH.corrected
    (natBit old src = true → exec (.correctedEvent q ev) s = .next (t.trackRow e.row)) ∧
    (natBit old src = false → exec (.correctedEvent q ev) s
      = .next (((t.setF PRF_CORR_LATCH.corrected (natSetBit old src true)).emit (.coreIrq 0)).trackRow e.row))) ∧
  (∀ (init : Nat) (upper : Bool) (v : Word) (s : State),
    let a := s.blockAccess 0 .write init 0
    a.2 = true →
    let bits := (List.range 45).filter fun n => natBit (a.1.getF PRF_LATCH.fault) n && natBit v.toNat n
    let b := bits.foldl (fun t n =>
      (t.setF PRF_LATCH.fault (natSetBit (t.getF PRF_LATCH.fault) n false)).setF PRF_REC.valid 0 n) a.1
    let p := { b.prf with
      standing3 := if b.mode = mSafeHold then b.prf.standing3 else b.prf.standing3.filter fun n => !bits.contains n
      standing4 := b.prf.standing4.filter fun x => !(bits.contains x.1 && x.2) }
    exec (.faultAck init true upper v) s = .next ({ b with prf := p }.showSafelight)) ∧
  (∀ (init : Nat) (slice : BitVec 14) (s : State),
    let a := s.blockAccess 0 .write init 0x18
    a.2 = true →
    let b := a.1.setF PRF_SLICE_LIFT.slice slice.toNat
    b.prf.contained.contains slice.toNat = true →
    ((List.range 45).any fun n => natBit (b.getF PRF_LATCH.fault) n && decide (2 ≤ b.getF PRF_REC.level n)
      && b.flag PRF_REC.slice_valid n && b.getF PRF_REC.slice n == slice.toNat) = false →
    ∀ x : SliceRec, b.slice? slice.toNat = some x → x.st = .stopped →
    exec (.prfSliceLift init slice) s
      = .next ({ b with prf := { b.prf with contained := b.prf.contained.filter (· != slice.toNat) } }.showGates.setF
          PRF_SLICE_LIFT.result stOk)) ∧
  (∀ (init : Nat) (v : BitVec 8) (s : State),
    let a := s.blockAccess 0 .write init 0x28
    a.2 = true →
    let p := a.1.prf
    v.toNat = p.slExpect →
    let p' := { p with slTimedOut := false, slWrong := false, slLastFeed := some a.1.now, slValidFeed := true,
                       slExpect := if p.slExpect = 0x5A then 0xA5 else 0x5A }
    exec (.safelightFeed init v) s = .next { a.1 with prf := p' }.showSafelight) ∧
  (∀ (s : State) (t : Nat), s.prf.slLastFeed = some t → s.prf.slTimedOut = false →
    let a := s.after (t + s.getF PRF_SL_CFG.feed_timeout * msT)
    let b := { a with prf := { a.prf with slTimedOut := true } }
    exec .safelightFeedTimeout s
      = .next (if b.flag PRF_STATUS.sl_running then b.raise 0 (faultM 0x0024) else b).showSafelight) ∧
  (∀ (s : State), s.modes.asserted = none →
    let a := s.after s.prf.slBoundary
    let b := { a with prf := { a.prf with slBoundary := a.prf.slBoundary + slHalf } }
    b.slStopReason = 0 →
    let lv := if b.flag PRF_STATUS.sl_running then !b.prf.slLevel else true
    exec .safelightBoundary s
      = .next (({ b with prf := { b.prf with slLevel := lv } }.setF PRF_STATUS.sl_running 1).emit (.pin .safelightP lv)).showSafelight) ∧
  (∀ (s : State), exec .clockDeviation s = .next (s.raise 43 (faultM 0x0022))) ∧
  (∀ (q : Fin 45) (mem : Fin 3) (unit row : Nat) (s : State),
    let d : Defect := ⟨if mem = 2 then 0 else mem.val + 1, unit, row⟩
    mem ≠ 1 ∨ s.mode ≠ mStandby →
    exec (.patrolScrub q mem 1 unit row) s = .next (s.raise q.val (correctedAt d)) ∧
    (mem ≠ 2 → exec (.patrolScrub q mem 2 unit row) s = .next ((s.raise q.val (faultA 0x0002)).scheduleRow d 3)) ∧
    (mem = 2 → exec (.patrolScrub q mem 2 unit row) s = .next (s.raise q.val (faultA 0x0002)))) ∧
  (∀ (kind : Fin 7) (unit : Nat) (s : State), 3 ≤ kind.val →
    exec (.unitFailure kind unit) s = .next (s.unitFails s.taiLow kind.val unit)) ∧
  (∀ (found : List Defect) (s : State), s.modes.phase = .selfTest → s.modes.asserted = none →
    let a := ((s.selfTestTime.retouchUnits found).setF RTH_STATUS.selftest_done 1).setF RTH_STATUS.fatal 0
    let b := if a.flag RTH_STATUS.degraded then a.raiseRth else a
    exec (.selfTest found false) s = .next (b.markTested.setPhase .rom)) ∧
  (∀ (s : State) (t : Nat), s.prf.testedAt = some t → s.flag RTH_STATUS.fatal = true →
    exec .selfTestFatalRetry s = .next ((s.after (t + 64 * secT)).beginReset .c none)) ∧
  (∀ (init : Nat) (index : BitVec 12) (s : State),
    let a := s.blockAccess 1 .write init 0x18
    a.2 = true →
    let b := match Tab.look a.1.prf.log index.toNat with
      | some e => e.bytes
      | none => zeroBytes 16
    let c := (a.1.setF RTH_LOG_CMD.index index.toNat).setReg .RTH_LOG_DATA (BitVec.ofNat 64 (leNat (b.take 8))) 0
    exec (.repairLogRead init index) s
      = .next ((c.setReg .RTH_LOG_DATA (BitVec.ofNat 64 (leNat (b.drop 8))) 1).setF RTH_LOG_CMD.result stOk)) ∧
  (∀ (init : Nat) (blk : Fin 26) (v : Word) (s : State),
    let off := Reg.windowOffset .X_BLK_ERR_CTL blk.val 0 - blockBase blk.val
    let a := s.blockAccess blk.val .write init off
    a.2 = true →
    let b := a.1.storeReg (fun _ => true) blk.val off .X_BLK_ERR_CTL blk.val 0 true false v
    natBit v.toNat 63 = true → b.mode = mTest → b.getF X_BLK_ERR_CTL.cls blk.val ≠ 1 →
    let cls := min (b.getF X_BLK_ERR_CTL.cls blk.val) 2
    exec (.errorInject init blk v) s
      = .next (b.raiseAs (injectPlaces blk.val) ⟨b.flag X_BLK_ERR_CTL.kind blk.val, cls, b.getF X_BLK_ERR_CTL.cause blk.val,
          b.getF X_BLK_ERR_CTL.detail blk.val, none, 0⟩ blk.val))

/-- AC, the reserve, the host's power and the thermal points: each of these commands, where the conditions its clause names hold,
answers the next state its rule gives, whole: AC_FAIL, AC_FAIL_MRAM_WINDOW_END, AC_RAILS_DOWN, AC_FAIL_CLEAR, AC_RETURN,
RESERVE_EXHAUSTED, RESERVE_FULL, REDFISH_RESET, HOST_POWER_OP_END, HOST_ON, HOST_OFF, HOST_FORCE_OFF, HOST_RESET, HOST_CYCLE,
HOST_AUX_OFF, HOST_WAKE, HOST_POWER_POLICY_APPLY, THERMAL_ALARM, THERMAL_ALARM_CLEAR, THERMAL_CRITICAL, THERMAL_TRIP,
THERMAL_RESTART, PSU_FAULT (R502, R64, R505, R503, R59, R507, R509, R506, R516). -/
def Obligations.CompletePower : Prop :=
  (∀ (s : State),
    let a := (s.setF PWR_STATUS.ac_fail 1).setF PWR_STATUS.ac_good 0
    let b := { a with modes := { a.modes with hostPowerRecord := a.flag PWR_HOST_CTL.aux_en && a.modes.pwrGood } }
    exec .acFail s = .next (b.setHw { b.hw with failAt := some b.now }).abandonPower) ∧
  (∀ (s : State) (t : Nat), s.hw.failAt = some t →
    let a := s.after (t + 15 * msT)
    exec .acFailMramWindowEnd s = .next { a with modes := { a.modes with mramClosed := true } }) ∧
  (∀ (s : State) (t : Nat), s.hw.failAt = some t → s.hw.rails = true → s.hw.op = none →
    let a := s.after (t + 20 * msT)
    a.hw.op = none →
    let b := (a.setAux false).railsDown
    exec .acRailsDown s = .next (b.setHw { b.hw with op := none, tripAt := none })) ∧
  (∀ (s : State) (t : Nat), s.hw.failAt = some t → s.hw.rails = true →
    let a := s.after (t + secT)
    let b := ((a.setF PWR_STATUS.ac_fail 0).setF PWR_STATUS.ac_good 1).setHw { a.hw with failAt := none }
    exec .acFailClear s = .next { b with modes := { b.modes with mramClosed := false } }) ∧
  (∀ (s : State), s.hw.rails = false → s.hw.tripAt = none →
    let a := (s.setF PWR_STATUS.ac_fail 0).setF PWR_STATUS.ac_good 1
    let b := { a with modes := { a.modes with mramClosed := false } }.setHw
      { a.hw with failAt := none, policy := some (a.now + 30 * secT) }
    (b.hw.island = true →
      let d := (b.draw 7).2.draw 1
      exec .acReturn s
        = .next (((d.2.setF PWR_STATUS.reserve_pct (min (b.draw 7).1 100)).setF PWR_STATUS.reserve_full d.1).railsUp (some 2))) ∧
    (b.hw.island = false →
      let c := (b.setF PWR_STATUS.reserve_pct 0).setF PWR_STATUS.reserve_full 0
      exec .acReturn s = .next ((c.setHw { c.hw with island := true }).railsUp none))) ∧
  (∀ (s : State), s.hw.rails = false → s.hw.tripAt = none → s.hw.island = true →
    let a := (s.powerReset.setF PWR_STATUS.reserve_pct 0).setF PWR_STATUS.reserve_full 0
    exec .reserveExhausted s = .next (a.setHw { a.hw with island := false })) ∧
  (∀ (s : State), s.flag PWR_STATUS.ac_good = true →
    exec .reserveFull s = .next ((s.setF PWR_STATUS.reserve_full 1).setF PWR_STATUS.reserve_pct 100)) ∧
  (∀ (force : Bool) (s : State),
    exec (.redfishReset force) s = .next (s.beginReset (if force then .c else .w) (some 5))) ∧
  (∀ (s : State) (o : PowerOp) (t : Nat), s.hw.op = some o → o.ends = some t →
    (o.step = .pulse → exec .hostPowerOpEnd s = .next ((s.after t).pulseOver o).policyAfter) ∧
    (o.step = .settle → exec .hostPowerOpEnd s = .next ((s.after t).pressOn o).policyAfter) ∧
    (o.step = .auxOff → exec .hostPowerOpEnd s = .next ((s.after t).powerOn { o with op := 1 }).policyAfter)) ∧
  (∀ (init : Nat) (v : BitVec 32) (s : State),
    let a := s.blockAccess 23 .write init 0x10
    a.2 = true →
    let b := a.1.storeReg (fun _ => true) 23 0x10 .PWR_HOST_CTL 0 0 false false (BitVec.ofNat 64 (ctlWord v 1))
    natBit (ctlWord v 1) 31 = true → b.flag PWR_HOST_CTL.busy = false → b.hw.op = none →
    exec (.hostOn init v) s = .next (b.startPower (b.getF PWR_HOST_CTL.op))) ∧
  (∀ (init : Nat) (v : BitVec 32) (s : State),
    let a := s.blockAccess 23 .write init 0x10
    a.2 = true →
    let b := a.1.storeReg (fun _ => true) 23 0x10 .PWR_HOST_CTL 0 0 false false (BitVec.ofNat 64 (ctlWord v 2))
    natBit (ctlWord v 2) 31 = true → b.flag PWR_HOST_CTL.busy = false → b.hw.op = none →
    exec (.hostOff init v) s = .next (b.startPower (b.getF PWR_HOST_CTL.op))) ∧
  (∀ (init : Nat) (v : BitVec 32) (s : State),
    let a := s.blockAccess 23 .write init 0x10
    a.2 = true →
    let b := a.1.storeReg (fun _ => true) 23 0x10 .PWR_HOST_CTL 0 0 false false (BitVec.ofNat 64 (ctlWord v 3))
    natBit (ctlWord v 3) 31 = true → b.flag PWR_HOST_CTL.busy = false → b.hw.op = none →
    exec (.hostForceOff init v) s = .next (b.startPower (b.getF PWR_HOST_CTL.op))) ∧
  (∀ (init : Nat) (v : BitVec 32) (s : State),
    let a := s.blockAccess 23 .write init 0x10
    a.2 = true →
    let b := a.1.storeReg (fun _ => true) 23 0x10 .PWR_HOST_CTL 0 0 false false (BitVec.ofNat 64 (ctlWord v 4))
    natBit (ctlWord v 4) 31 = true → b.flag PWR_HOST_CTL.busy = false → b.hw.op = none →
    exec (.hostReset init v) s = .next (b.startPower (b.getF PWR_HOST_CTL.op))) ∧
  (∀ (init : Nat) (v : BitVec 32) (s : State),
    let a := s.blockAccess 23 .write init 0x10
    a.2 = true →
    let b := a.1.storeReg (fun _ => true) 23 0x10 .PWR_HOST_CTL 0 0 false false (BitVec.ofNat 64 (ctlWord v 5))
    natBit (ctlWord v 5) 31 = true → b.flag PWR_HOST_CTL.busy = false → b.hw.op = none →
    exec (.hostCycle init v) s = .next (b.startPower (b.getF PWR_HOST_CTL.op))) ∧
  (∀ (init : Nat) (v : BitVec 32) (s : State),
    let a := s.blockAccess 23 .write init 0x10
    a.2 = true →
    let b := a.1.storeReg (fun _ => true) 23 0x10 .PWR_HOST_CTL 0 0 false false (BitVec.ofNat 64 (ctlWord v 6))
    natBit (ctlWord v 6) 31 = true → b.flag PWR_HOST_CTL.busy = false → b.hw.op = none →
    exec (.hostAuxOff init v) s = .next (b.startPower (b.getF PWR_HOST_CTL.op))) ∧
  (∀ (s : State),
    let a := (s.setF PWR_HOST_CTL.wake 1).emit (.coreIrq 23)
    a.flag PWR_HOST_CTL.wake_fwd = true → a.hw.op = none → 
    (a.modes.pwrGood = false → exec .hostWake s = .next (a.startPower 1)) ∧ (a.modes.pwrGood = true → exec .hostWake s = .next a)) ∧
  (∀ (s : State) (t : Nat), s.hw.policy = some t →
    let a := if s.booted then s else s.after t
    (a.hw.op.isSome = true → exec .hostPowerPolicyApply s = .next (a.setHw { a.hw with policy := some 0 })) ∧
    (a.hw.op.isSome = false → exec .hostPowerPolicyApply s = .next a.applyPolicy)) ∧
  (∀ (x : Thermal) (s : State),
    let a := s.showThermal x
    ((a.getF PWR_THERM.tj_alarm : Int) ≤ x.tj ∨ 45 ≤ x.inlet ∨ 95 ≤ x.psu ∨ x.opticsAlarm = true) → a.flag PWR_THERM.alarm = false →
    exec (.thermalAlarm x) s = .next ((a.setF PWR_THERM.alarm 1).raise 41 (faultA 0x0100))) ∧
  (∀ (x : Thermal) (s : State),
    let a := s.showThermal x
    x.tj + 5 ≤ (a.getF PWR_THERM.tj_alarm : Int) → x.inlet + 5 ≤ 45 → x.psu + 5 ≤ 95 → x.opticsAlarm = false →
    exec (.thermalAlarmClear x) s = .next (a.setF PWR_THERM.alarm 0)) ∧
  (∀ (x : Thermal) (s : State), 110 ≤ x.tj →
    exec (.thermalCritical x) s = .next ((s.showThermal x).raise 41 (faultM 0x0025))) ∧
  (∀ (x : Thermal) (s : State), 120 ≤ x.tj ∨ 110 ≤ x.psu → (s.showThermal x).hw.rails = true →
    let a := (s.showThermal x).railsDown
    exec (.thermalTrip x) s = .next (a.setHw { a.hw with tripAt := some a.now })) ∧
  (∀ (x : Thermal) (s : State) (t : Nat),
    let a := s.showThermal x
    a.hw.tripAt = some t → x.tj ≤ 80 →
    let b := a.after (t + 60 * secT)
    exec (.thermalRestart x) s
      = .next (((b.setHw { b.hw with tripAt := none }).setF PWR_RESET_CAUSE.l4_source 41).railsUp (some 6))) ∧
  (∀ (s : State), exec .psuFault s = .next ((s.setF PWR_STATUS.psu_fault 1).raise 40 (faultM 0x0025)))

/-- The management port and the SMBus: each of these commands, where the conditions its clause names hold, answers the next state its
rule gives, whole: MGMT_FRAME_RECEIVE, MGMT_TRANSMIT, MGMT_LINK_CHANGE, SMBUS_TRANSACTION (R515, R513, R510). -/
def Obligations.CompleteManagement : Prop :=
  (∀ (frame : List Byte) (s : State), s.flag MGT_ETH_STATUS.link_up = true → s.modes.asserted = none →
    fcsGood frame = true → s.mgtWants frame = true →
    let p := s.getF MGT_ETH_RX.prod
    (p + 65536 - s.getF MGT_ETH_RX.cons) % 65536 < 64 →
    let a := s.mgtWord 0
    let b := (a.setBytes (mgtMem + 2048 * (p % 64)) (frame.take (frame.length - 4))).setBytes (mgtMem + 0x28000 + 16 * (p % 64))
      (mgtDesc (frame.length - 4) stOk)
    let c := ((b.setF MGT_ETH_RX.prod (p + 1)).mgtCount 0).mgtCount 1 frame.length
    exec (.mgmtFrameReceive frame 0) s = .next (if c.flag MGT_ETH_CFG.rx_irq then c.emit (.coreIrq 24) else c)) ∧
  (∀ (init : Nat) (prod : BitVec 16) (word : Fin 3) (s : State),
    let a := s.blockAccess 24 .write init 0x420
    a.2 = true → exec (.mgmtTransmit init prod word) s = .next ((a.1.setF MGT_ETH_TX.prod prod.toNat).mgtSend word)) ∧
  (∀ (gigabit : Bool) (s : State), s.modes.asserted = none →
    (s.flag MGT_ETH_CFG.enable = true → exec (.mgmtLinkChange true gigabit) s
      = .next ((s.setF MGT_ETH_STATUS.link_up 1).setF MGT_ETH_STATUS.speed (b2n (gigabit && !s.flag MGT_ETH_CFG.no_1000))).mgtSend) ∧
    exec (.mgmtLinkChange false gigabit) s = .next ((s.setF MGT_ETH_STATUS.link_up 0).setF MGT_ETH_STATUS.speed 0)) ∧
  (∀ (bytes : List Byte) (s : State), s.modes.asserted = none → s.controlPaused = false →
    exec (.smbusTransaction 0x3A true bytes) s = .next ((s.setHw { s.hw with mctp := s.hw.mctp ++ [bytes] }).emit (.coreIrq 24)) ∧
    exec (.smbusTransaction 0x3A false bytes) s = .next ((s.setHw { s.hw with mctp := s.hw.mctp.drop 1 }).emit (.smbus bytes)))

/-- Cascade records, masters, the shared flow table and far lookups: each of these commands, where the conditions its clause names hold,
answers the next state its rule gives, whole: AGREEMENT_RECORD_SEND, AGREEMENT_RECORD_RECEIVE, ODFER_LINK_DOWN, MASTER_SILENT,
MEMBER_SILENT, CASCADE_LINKS_SILENT, ODF_LOCKUP, REPARTITION, HANDBACK, REPARTITION_HOLD_EXPIRE, ODFER_FRAME_RECEIVE,
FAR_LOOKUP_REQUEST, FAR_LOOKUP_RESULT, FAR_LOOKUP_TIMEOUT (R490, R491, R486, R488, R46, R498, R496, R489, R493, R494, R495). -/
def Obligations.CompleteCascade : Prop :=
  (∀ (s : State), s.odfOn = true →
    let a := (if s.flag ODF_STATUS.master then s.noteActivating s.upd.act.isSome else s).showCascade
    exec .agreementRecordSend s = .next ([0, 1].foldl (fun t l =>
      let st := t.getF ODF_LINK_STATUS.state l
      if st = 3 then t else (if st = 0 then t.setLinkState l 1 else t).emit (.odfer l t.ownRecord)) a)) ∧
  (∀ (link peerLink : Fin 2) (peer : Fin 4) (delay : BitVec 24) (offset : Int) (r : List Byte) (s : State),
    s.odfOn = true →
    (peerLink = link → exec (.agreementRecordReceive link peer peerLink delay offset r) s = .next (s.setLinkState link.val 3)) ∧
    (peerLink ≠ link → recValid r = true →
      let a := (((s.setLinkState link.val 2).setF ODF_LINK_STATUS.peer_id peer.val link.val).setF ODF_LINK_STATUS.peer_link peerLink.val
        link.val).setF ODF_LINK_STATUS.delay delay.toNat link.val
      let b := { a with odf := { a.odf with linkHeard := Tab.put a.odf.linkHeard link.val a.now } }
      exec (.agreementRecordReceive link peer peerLink delay offset r) s = .next (b.takeRecord link.val r offset))) ∧
  (∀ (link : Fin 2) (lost : Nat) (s : State), s.inRom = false → s.getF ODF_LINK_STATUS.state link.val = 2 →
    let a := s.after (lastHeard s.odf.linkHeard (· == link.val) + odfSilence)
    exec (.odferLinkDown link lost) s
      = .next (((a.setLinkState link.val 0).bump ODF_CNT.count 2 0 lost).raise (38 + link.val) (faultA 0x0100)).showCascade) ∧
  (∀ (s : State), s.mode = mMember → s.flag ODF_STATUS.master = false → s.modes.req = none →
    let m := s.getF ODF_STATUS.master_id
    let r := s.memberRec m
    recMaster r = true →
    let a := s.after (lastHeard s.odf.heard (· == m) + odfSilence + 1)
    a.actingMaster = none → a.promotable m = true → recMode r = mManaged →
    let b := ((a.bump ODF_STATUS.promotions).setF ODF_STATUS.master 1).setF ODF_STATUS.master_id (a.getF ODF_STATUS.own_id)
    exec .masterSilent s = .next (b.showCascade.beginMode .cascade mManaged)) ∧
  (∀ (s : State), s.flag ODF_STATUS.master = true → s.flag ODF_STATUS.active = true →
    exec .memberSilent s
      = .next ((s.after (lastHeard s.odf.heard (fun m => decide (m < 4)) + odfSilence + 1)).setF ODF_STATUS.master 0).showCascade) ∧
  (∀ (s : State), s.mode = mMember → s.modes.req = none →
    exec .cascadeLinksSilent s
      = .next ((s.after (lastHeard s.odf.linkHeard (fun _ => true) + odfSilence)).beginMode .cascade mStandalone)) ∧
  (∀ (n t : Nat) (refused : BitVec 4) (s : State), s.readyForme = some n → s.frm.lockup = none →
    s.flag ODF_STATUS.active = true → s.flag ODF_STATUS.master = false →
    exec (.odfLockup (.master n t) refused) s = .next (s.takeLockUp (.reg (0x040 + s.getF ODF_STATUS.master_id)) t)) ∧
  (∀ (init : Nat) (s : State),
    let a := s.blockAccess 22 .write init 0x20
    a.2 = true →
    let b := a.1.setF ODF_CMD.op 2
    b.flag ODF_CMD.busy = false → b.flag ODF_STATUS.master = true → init ≤ 0x01F →
    exec (.repartition (.reg init)) s = .next (b.repartition.setF ODF_CMD.result stOk)) ∧
  (∀ (init : Nat) (s : State),
    let a := s.blockAccess 22 .write init 0x20
    a.2 = true →
    let b := a.1.setF ODF_CMD.op 3
    b.flag ODF_CMD.busy = false → b.flag ODF_STATUS.master = true → init ≤ 0x01F → b.getF ODF_STATUS.own_id ≠ 0 →
    exec (.handback init) s
      = .next (((b.setF ODF_CMD.result stOk).setF ODF_STATUS.master 0).setF ODF_STATUS.master_id 0).showCascade) ∧
  (∀ (s : State) (p : Nat × Nat) (rest : List (Nat × Nat)), s.odf.goneSince = p :: rest →
    s.getF ODF_CFG.repartition_hold ≠ 0 → s.flag ODF_STATUS.master = true →
    exec .repartitionHoldExpire s = .next (s.after (p.2 + s.getF ODF_CFG.repartition_hold * msT)).repartition) ∧
  (∀ (link : Fin 2) (f : OdfFrame) (s : State), s.flag ODF_STATUS.active = true →
    s.getF ODF_LINK_STATUS.state link.val = 2 → f.word = 0 →
    let a := s.bump ODF_CNT.count 1
    (f.member % 4 ≠ s.getF ODF_STATUS.own_id → exec (.odferFrameReceive link f) s = .next (a.forwardFrame link.val f)) ∧
    (f.member % 4 = s.getF ODF_STATUS.own_id → a.heldOut = false →
      let n := a.newPkt (a.farPacket f)
      let o := match n.2.chain f.queue with
        | some c => chainAt c 1
        | none => 0
      let p := { a.farPacket f with act := { (a.farPacket f).act with dest := o % 8 } }
      exec (.odferFrameReceive link f) s = .next (n.2.enqueuePkt n.1 p o f.queue))) ∧
  (∀ (member : Fin 4) (id : Nat) (forme : Fin 8) (key : List Byte) (bads : List (Nat × Nat × Nat)) (s : State),
    s.flag ODF_STATUS.active = true → s.heldOut = false →
    let a := s.advanceSweep
    let b := { a with tbl := { a.tbl with bad := a.tbl.bad ++ bads } }
    let f := b.tblLookup 4 key forme.val
    let c := f.bad.foldl (fun u pos => u.metBad 4 pos) b
    (f.hit = none → exec (.farLookupRequest member id forme key bads) s = .next (c.emit (.farResult member.val id none))) ∧
    (∀ pos v, f.hit = some (pos, v) → exec (.farLookupRequest member id forme key bads) s
      = .next ((c.setIdle 4 pos 0).emit (.farResult member.val id (some v))))) ∧
  (∀ (p : Fin 4) (id : Nat) (hit : Option Nat) (bads : List (Nat × Nat × Nat)) (s : State) (k : Pkt) (img : FormeImg),
    (s.lst .far p.val).contains id = true → s.pkt? id = some k →
    let a := ((s.after k.due).popLst .far p.val id).advanceSweep
    let b := { a with tbl := { a.tbl with bad := a.tbl.bad ++ bads } }
    Tab.look b.frm.slots k.forme = some img → b.fltForeign (beNat (k.fltKey img)) = true →
    exec (.farLookupResult p id hit bads) s = .next ((b.mergeFar id k img hit).pushLst .farBack p.val id)) ∧
  (∀ (p : Fin 4) (s : State) (id : Nat) (k : Pkt), firstDue (s.pktsIn .far p.val) = some (id, k) →
    let a := ((s.after (k.due + 20 * usT)).popLst .far p.val id).bump ODF_CNT.count 5
    exec (.farLookupTimeout p) s
      = .next ((a.setPkt id { k with act := { k.act with fltReq := false } }).pushLst .farBack p.val id))

/-- What a thread of an application core asks for: each of these commands, where the conditions its clause names hold, answers the next
state its rule gives, whole: CHANNEL_OPEN, CHANNEL_WRITE, CHANNEL_COMMIT, CHANNEL_RECEIVE, PACKET_DELIVERY, TIME, TIMER,
TIMER_EXPIRE, START_DONE, RESTART, STOP, READ_EVENTS (R399, R402, R403, R404, R421, R408, R409). -/
def Obligations.CompleteThreads : Prop :=
  (∀ (core : Fin 128) (thread : Fin 8) (dest : BitVec 16) (s : State), s.threadReady core thread = true →
    exec (.channelOpen core thread dest) s
      = .next (s.setThread core thread { (s.core core).thread thread with dest := some dest.toNat, words := [] })) ∧
  (∀ (core : Fin 128) (thread : Fin 8) (word : Word) (s : State), s.threadReady core thread = true →
    let h := (s.core core).thread thread
    (h.words.length < 8 → exec (.channelWrite core thread word) s
      = .next (s.setThread core thread { h with words := h.words ++ [word.toNat] })) ∧
    (8 ≤ h.words.length → exec (.channelWrite core thread word) s = .next (s.threadFaults core thread 6).settleCores)) ∧
  (∀ (core : Fin 128) (thread : Fin 8) (s : State) (d : Nat), s.threadReady core thread = true →
    let h := (s.core core).thread thread
    h.words ≠ [] → h.dest = some d → s.eventFirst core thread (d == 2 ^ 15) = false →
    exec (.channelCommit core thread) s = .next (s.setThread core thread { h with wait := .commit }).settleCores) ∧
  (∀ (core : Fin 128) (thread : Fin 8) (mask : BitVec 16) (s : State), s.threadReady core thread = true →
    (maskChans mask.toNat).all (fun ch => (s.core core).boundTo ch thread) = true → s.eventFirst core thread false = false →
    exec (.channelReceive core thread mask) s
      = .next (s.setThread core thread { (s.core core).thread thread with wait := .receive mask.toNat }).settleCores) ∧
  (∀ (half : Fin 2) (s : State) (id : Nat) (p : Pkt), (s.pktsIn .toCore half).head? = some (id, p) →
    let a := s.popLst .toCore half id
    let d := p.act.dest % 2 ^ 15
    let c := d / 128 % 128
    a.coreAbsent c = false → a.noReceiver c = false → d < 2 ^ 14 → (a.core c).boundTo (d % 16) (d / 16 % 8) = true →
    (4 ≤ (a.core c).room (d % 16) →
      let b := ((a.pushLst .held c id).showHandles).fcxCount 0
      exec (.packetDelivery half) s = .next (b.deliverMsg c (d % 16) ⟨deliveryWords id p, 2 ^ 15 + 2, b.now⟩).settleCores) ∧
    ((a.core c).room (d % 16) < 4 → exec (.packetDelivery half) s = .next ((a.fcxCount 1).dropPkt id))) ∧
  (∀ (core : Fin 128) (thread : Fin 8) (s : State) (r : FReq), s.request? core thread 0 = some r → r.op = 1 →
    let u := s.takeReq core r
    exec (.coreTime core thread) s = .next (u.reply core r stOk 0 [u.island.snapTime / 2 ^ 16 % 2 ^ 64, unc32 u.island.snapUnc * 2 ^ 32 + b2n u.island.snapUnc.isSome]).settleCores) ∧
  (∀ (core : Fin 128) (thread : Fin 8) (s : State) (r : FReq), s.request? core thread 0 = some r → r.op = 2 →
    let u := s.takeReq core r
    wordAt r.words 1 ≠ 0 →
    exec (.coreTimer core thread) s = .next (u.setCore core { u.core core with
        timers := (u.core core).timers ++ [⟨u.now + wordAt r.words 1 * fclk, thread, r.chan, r.tag⟩] }).settleCores) ∧
  (∀ (core : Fin 128) (s : State) (k : FTimer), (s.core core).timers = [k] →
    exec (.timerExpire core) s
      = .next ((((s.setCore core { s.core core with timers := dropFirst k [k] }).after k.due).replyOn core 0 k.chan stOk k.tag 0 []).settleCores)) ∧
  (∀ (core : Fin 128) (thread : Fin 8) (s : State) (r : FReq), s.request? core thread 0 = some r → r.op = 3 →
    let u := s.takeReq core r
    (u.core core).st = .startup →
    let rel := (u.core core).released
    let a := (u.after (rel + ceilDiv (u.now - rel) (8 * fclk) * (8 * fclk))).setCore core { u.core core with st := .running }
    exec (.startDone core thread) s = .next (a.reply core r stOk 0 []).settleCores) ∧
  (∀ (core : Fin 128) (thread : Fin 8) (s : State) (r : FReq), s.request? core thread 0 = some r → r.op = 4 →
    let u := s.takeReq core r
    let t := wordAt r.words 1 / 2 ^ 61
    let h := (u.core core).thread t
    t ≠ 0 → h.enabled = true →
    let y := { h with faulted := false, halted := false, entry := wordAt r.words 1 % 2 ^ 32, wait := .idle, dest := none, words := [], arch := [] }
    exec (.threadRestart core thread) s = .next ((u.setThread core t y).reply core r stOk 0 []).settleCores) ∧
  (∀ (core : Fin 128) (thread : Fin 8) (s : State) (r : FReq), s.request? core thread 0 = some r → r.op = 5 →
    let u := s.takeReq core r
    let t := wordAt r.words 1 / 2 ^ 61
    let y := { (u.core core).thread t with halted := true, wait := .idle, dest := none, words := [] }
    exec (.threadStop core thread) s = .next ((u.setThread core t y).reply core r stOk 0 []).settleCores) ∧
  (∀ (core : Fin 128) (thread : Fin 8) (s : State) (r : FReq), s.request? core thread 0 = some r → r.op = 6 →
    let u := s.takeReq core r
    let n := (u.core core).notes.take 7
    exec (.readEvents core thread) s = .next ((u.setCore core { u.core core with notes := (u.core core).notes.drop 7 }).reply core r stOk n.length n).settleCores)

/-- The packet buffer, memory and host endpoints of a core: each of these commands, where the conditions its clause names hold, answers
the next state its rule gives, whole: PBF_READ, PBF_WRITE, INJECT, FREE, ALLOC, MEM_READ, MEM_WRITE, HOST_ENDPOINT_REQUEST, GMUL,
XMUL (R405, R406, R404, R415). -/
def Obligations.CompletePackets : Prop :=
  (∀ (core : Fin 128) (thread : Fin 8) (s : State) (r : FReq), s.request? core thread 2 = some r → r.op = 1 →
    let u := s.takeReq core r
    let q := pbfArgs r
    q.2.2.1 ≠ 0 → q.2.2.1 ≤ 8192 → inSlice q.2.2.2 q.2.2.1 = true →
    ∀ (id : Nat) (p : Pkt), u.handle? core (wordAt r.words 1 / 2 ^ 32) = some (id, p) →
    let got := sliceBytes p.bytes q.2.1 q.2.2.1
    let d := u.drawBytes (q.2.2.1 - got.length)
    exec (.pbfRead core thread) s = .next ((d.2.lmemWrite core thread q.2.2.2 (got ++ d.1)).reply core r stOk 0 []).settleCores) ∧
  (∀ (core : Fin 128) (thread : Fin 8) (s : State) (r : FReq), s.request? core thread 2 = some r → r.op = 2 →
    let u := s.takeReq core r
    let q := pbfArgs r
    q.2.2.1 ≠ 0 → q.2.1 + q.2.2.1 ≤ 16380 → inSlice q.2.2.2 q.2.2.1 = true →
    ∀ (id : Nat) (p : Pkt), u.handle? core (wordAt r.words 1 / 2 ^ 32) = some (id, p) →
    let d := u.drawBytes (q.2.1 - p.bytes.length)
    let bs := (p.bytes ++ d.1).take q.2.1 ++ (u.core core).lmemBytes thread q.2.2.2 q.2.2.1 ++ p.bytes.drop (q.2.1 + q.2.2.1)
    exec (.pbfWrite core thread) s = .next ((d.2.setPkt id (p.withBytes bs)).reply core r stOk 0 []).settleCores) ∧
  (∀ (core : Fin 128) (thread : Fin 8) (s : State) (r : FReq), s.request? core thread 2 = some r → r.op = 3 →
    let u := s.takeReq core r
    let n := (pbfArgs r).2.2.1
    n ≤ 16380 → ∀ (id : Nat) (p : Pkt), u.handle? core (wordAt r.words 1 / 2 ^ 32) = some (id, p) → wordAt r.words 3 = 0 →
    let half := core.val / 64
    let d := u.drawBytes (n - p.bytes.length)
    let q := { Pkt.ofFrame (10 + half) (2 + half) ((p.bytes ++ d.1).take n) with launch := none }
    let k := (((d.2.popLst .held core id).endHold id).freePkt id).newPkt q
    exec (.pbfInject core thread) s = .next ((k.2.pushLst .inject (2 + half) k.1).showHandles.reply core r stOk 0 []).settleCores) ∧
  (∀ (core : Fin 128) (thread : Fin 8) (s : State) (r : FReq), s.request? core thread 2 = some r → r.op = 4 →
    let u := s.takeReq core r
    ∀ (id : Nat) (p : Pkt), u.handle? core (wordAt r.words 1 / 2 ^ 32) = some (id, p) →
    exec (.pbfFree core thread) s = .next (((u.popLst .held core id).dropPkt id).showHandles.reply core r stOk 0 []).settleCores) ∧
  (∀ (core : Fin 128) (thread : Fin 8) (s : State) (r : FReq), s.request? core thread 2 = some r → r.op = 5 →
    let u := s.takeReq core r
    u.bufferClosed = false →
    let k := u.newPkt (Pkt.ofFrame (10 + core.val / 64) (2 + core.val / 64) [])
    exec (.pbfAlloc core thread) s = .next ((k.2.pushLst .held core k.1).showHandles.reply core r stOk 0 [k.1 % 2 ^ 32]).settleCores) ∧
  (∀ (core : Fin 128) (thread : Fin 8) (s : State) (r : FReq), s.request? core thread 3 = some r → r.op = 1 →
    let u := s.takeReq core r
    let a := wordAt r.words 1
    let n := wordAt r.words 2 / 2 ^ 48
    let loc := wordAt r.words 2 / 2 ^ 32 % 2 ^ 16
    n ≠ 0 → n ≤ 4096 → inSlice loc n = true → inHbm a = true →
    let q := u.memAccess .read (threadInit core thread) a n
    q.2 = true →
    exec (.memRead core thread) s = .next ((q.1.lmemWrite core thread loc (q.1.bytes a n)).reply core r stOk 0 []).settleCores) ∧
  (∀ (core : Fin 128) (thread : Fin 8) (s : State) (r : FReq), s.request? core thread 3 = some r → r.op = 2 →
    let u := s.takeReq core r
    let a := wordAt r.words 1
    let n := wordAt r.words 2 / 2 ^ 48
    let loc := wordAt r.words 2 / 2 ^ 32 % 2 ^ 16
    n ≠ 0 → n ≤ 4096 → inSlice loc n = true → inHbm a = true →
    let q := u.memAccess .write (threadInit core thread) a n
    q.2 = true →
    exec (.memWrite core thread) s = .next ((q.1.setBytes a ((q.1.core core).lmemBytes thread loc n)).reply core r stOk 0 []).settleCores) ∧
  (∀ (core : Fin 128) (thread : Fin 8) (fn addr len loc : Nat) (slice : Option Nat) (data : List Byte) (s : State) (r : FReq),
    s.request? core thread 6 = some r → s.issueHeld fn slice = false → len ≠ 0 → inSlice loc len = true →
    (let c := (s.takeReq core r).dmaCheck fn slice true addr len;
      c.2 = true → exec (.hostEndpointRequest core thread fn slice true addr len loc data) s
        = .next ((c.1.issueWrite fn slice addr ((c.1.core core).lmemBytes thread loc len)).reply core r stOk 0 []).settleCores) ∧
    (
      let c := (s.takeReq core r).dmaCheck fn slice false addr len;
      let a := c.1.issueRead fn slice addr len;
      c.2 = true → exec (.hostEndpointRequest core thread fn slice false addr len loc data) s
        = .next ((a.lmemWrite core thread loc (fitBytes len (a.dmaData fn addr len data))).reply core r stOk 0 []).settleCores) ∧
    (∀ wr,
      let c := (s.takeReq core r).dmaCheck fn slice wr addr len;
      c.2 = false → exec (.hostEndpointRequest core thread fn slice wr addr len loc data) s
        = .next (c.1.reply core r stAccessViolation 0 []).settleCores)) ∧
  (∀ (core : Fin 128) (thread : Fin 8) (x y : BitVec 128) (s : State), s.threadReady core thread = true →
    exec (.gmul core thread x y) s
      = .next ((s.after (s.now + 4 * fclk)).emit (.gfResult core thread (Sys2Proof.Machine.gmul (beBytes 16 x.toNat) (beBytes 16 y.toNat))))) ∧
  (∀ (core : Fin 128) (thread : Fin 8) (x : BitVec 128) (s : State), s.threadReady core thread = true →
    exec (.xmul core thread x) s
      = .next ((s.after (s.now + 4 * fclk)).emit (.gfResult core thread (Sys2Proof.Machine.xmul (beBytes 16 x.toNat)))))

/-- Faults, deadlocks, the debugger and loading of the cores: each of these commands, where the conditions its clause names hold,
answers the next state its rule gives, whole: THREAD_FAULT, DEADLOCK, GLOBAL_DEADLOCK_SAMPLE, HELD, DBG_STOP, DBG_RESUME, DBG_STEP,
DBG_READ, DBG_WRITE, CORE_LOAD, RESET_CORE, CORE_LOAD_GROUP_DONE, STARTUP_TIMEOUT (R407, R411, R412, R414, R413, R418, R419, R421). -/
def Obligations.CompleteCores : Prop :=
  (∀ (core : Fin 128) (thread : Fin 8) (cause : BitVec 4) (addr : BitVec 32) (s : State), s.threadReady core thread = true →
    cause.toNat ≠ 0 → cause.toNat ≤ 8 →
    exec (.threadFault core thread cause addr) s = .next (s.threadFault core thread cause.toNat addr.toNat).settleCores) ∧
  (∀ (core : Fin 128) (s : State) (a e : Nat), (s.core core).allSince = some a → s.transitEnd core = some e →
    (s.core core).episode = false → s.coreLive core = true →
    let b := ((s.after ((if a < e then e else a) + 1024 * fclk)).setCore core { s.core core with episode := true }).fcxCount 6
    exec (.deadlock core) s = .next (b.postNote core (2 * 2 ^ 56 + threadMask (s.core core).blocked)).settleCores) ∧
  (∀ (s : State),
    let a := s.after (s.fcx.gdlAt + 8192 * fclk)
    let cyc := a.waitCycles.map a.sampleCycle
    let b := { a with fcx := { a.fcx with cycles := cyc, delivered := [], gdlAt := a.now } }
    (b.flag FCX_GDL.valid = true → exec .globalDeadlockSample s = .next b) ∧
    (b.flag FCX_GDL.valid = false → (cyc.find? fun k => decide (4 ≤ k.samples) && !k.reported) = none →
      exec .globalDeadlockSample s = .next b)) ∧
  (∀ (core : Fin 128) (thread : Fin 8) (s : State) (t d : Nat), ((s.core core).thread thread).dbgSince = some t →
    ((s.core core).thread thread).dest = some d → ((s.core core).thread thread).heldPosted = false →
    let a := (s.after (t + 65536 * fclk)).setThread core thread { (s.core core).thread thread with heldPosted := true }
    let note (role : Nat) : Nat := 3 * 2 ^ 56 + thread.val * 2 ^ 53 + d % 2 ^ 16 * 2 ^ 32 + role
    let b := a.postNote core (note 0)
    exec (.threadHeld core thread) s = .next (if d < 2 ^ 15 then b.postNote (d / 128 % 128) (note 1) else b).settleCores) ∧
  (∀ (init : Nat) (core : Fin 128) (thread : Fin 8) (s : State),
    let b := s.dbgTake init 1 core thread 0
    b.2 = true → b.1.coreLive core = true →
    let h := (b.1.core core).thread thread
    exec (.dbgStop init core thread) s = .next ((b.1.setThread core thread
        { h with dbgSince := some (h.dbgSince.getD b.1.now), heldPosted := h.heldPosted && h.dbgSince.isSome }).setF FCX_DBG_CMD.result stOk).settleCores) ∧
  (∀ (init : Nat) (core : Fin 128) (thread : Fin 8) (s : State),
    let b := s.dbgTake init 2 core thread 0
    b.2 = true → b.1.coreLive core = true →
    let h := (b.1.core core).thread thread
    exec (.dbgResume init core thread) s = .next ((b.1.setThread core thread { h with dbgSince := none, heldPosted := false, arch := [] }).setF FCX_DBG_CMD.result stOk).settleCores) ∧
  (∀ (init : Nat) (core : Fin 128) (thread : Fin 8) (s : State),
    let b := s.dbgTake init 3 core thread 0
    b.2 = true → b.1.coreLive core = true →
    let h := (b.1.core core).thread thread
    let a := (b.1.setThread core thread { h with dbgSince := none, arch := [] }).settleCores
    exec (.dbgStep init core thread) s = .next ((a.setThread core thread { (a.core core).thread thread with dbgSince := some a.now, heldPosted := false }).setF FCX_DBG_CMD.result stOk).settleCores) ∧
  (∀ (init : Nat) (core : Fin 128) (thread : Fin 8) (index : BitVec 32) (s : State),
    let b := s.dbgTake init 4 core thread index.toNat
    b.2 = true → b.1.coreLive core = true →
    let h := (b.1.core core).thread thread
    h.dbgSince.isSome = true → ∀ v, Tab.look h.arch index.toNat = some v →
    exec (.dbgRead init core thread index) s = .next ((b.1.setReg .FCX_DBG_DATA (BitVec.ofNat 64 v)).setF FCX_DBG_CMD.result stOk).settleCores) ∧
  (∀ (init : Nat) (core : Fin 128) (thread : Fin 8) (index : BitVec 32) (s : State),
    let b := s.dbgTake init 5 core thread index.toNat
    b.2 = true → b.1.coreLive core = true →
    let h := (b.1.core core).thread thread
    h.dbgSince.isSome = true →
    exec (.dbgWrite init core thread index) s = .next ((b.1.setThread core thread { h with arch := Tab.put h.arch index.toNat (b.1.reg .FCX_DBG_DATA).toNat }).setF FCX_DBG_CMD.result stOk).settleCores) ∧
  (∀ (init : Nat) (first last : Fin 128) (addr : Nat) (s : State),
    let b := s.loadTake init 1 first last addr
    let cs := (List.range (last.val + 1)).drop first.val
    b.2 = true → init < 0x20 → b.1.loadRefused cs = false → first ≤ last →
    ∀ (t : State) (img : List Byte), b.1.readImage (addr % 2 ^ 38 / 64 * 64) = (t, some img) → cs.all t.storeAllowed = true →
    (fcxImageOk img = true → exec (.coreLoad init first last addr) s
      = .next ((cs.foldl (fun t c => t.startLoad c (.addr (addr % 2 ^ 38 / 64 * 64)) img) t).setF FCX_LOAD.busy 1).settleCores) ∧
    (fcxImageOk img = false → exec (.coreLoad init first last addr) s = .next (t.setF FCX_LOAD.result stMalformed))) ∧
  (∀ (init : Nat) (core : Fin 128) (s : State),
    let b := s.loadTake init 2 core (s.getF FCX_LOAD.last) (s.getF FCX_LOAD.addr * 64)
    b.2 = true → b.1.loadRefused [core.val] = false → (b.1.core core).img ≠ .none →
    (b.1.reloadCore core).fcx.loading.contains core.val = true →
    exec (.resetCore init core) s = .next ((b.1.reloadCore core).setF FCX_LOAD.busy 1).settleCores) ∧
  (∀ (group : Fin 16) (s : State),
    let cs := s.fcx.loading.filter fun c => c / 8 == group.val
    cs ≠ [] →
    let a := cs.foldl (fun t c => t.setCore c { t.core c with st := .startup, released := t.now }) s
    let rest := a.fcx.loading.filter fun c => c / 8 != group.val
    rest ≠ [] →
    exec (.coreLoadGroupDone group) s = .next ({ a with fcx := { a.fcx with loading := rest } }).settleCores) ∧
  (∀ (core : Fin 128) (s : State), (s.core core).st = .startup →
    exec (.startupTimeout core) s = .next ((s.after ((s.core core).released + 10 * msT)).threadFaults core 0 9).settleCores)

/-- Descriptors of the cipher hall and its units: each of these commands, where the conditions its clause names hold, answers the next
state its rule gives, whole: ENCRYPT, DECRYPT, DERIVE, CIPHER_DISPATCH, CIPHER_RESUME, CIPHER_COMPLETE, DESCRIPTOR_PRIORITY_RAISE,
DRBG_RESEED, ENTROPY_FAILURE, ENTROPY_RECOVERED, CIPHER_ENTROPY_TIMEOUT, UNIT_KNOWN_ANSWER_TEST (R265, R278, R269, R270, R267, R271,
R281, R282, R283). -/
def Obligations.CompleteCipher : Prop :=
  (∀ (core : Fin 128) (thread : Fin 8) (s : State) (r : FReq), s.request? core thread 1 = some r → r.op = 1 →
    s.mode ≠ mSafeHold → s.mode ≠ mStandby → s.cph.descs.length < 4096 →
    exec (.encrypt core thread) s = .next ((s.takeReq core r).acceptDesc (descOf s core thread r)).settleCores) ∧
  (∀ (core : Fin 128) (thread : Fin 8) (s : State) (r : FReq), s.request? core thread 1 = some r → r.op = 2 →
    s.mode ≠ mSafeHold → s.mode ≠ mStandby → s.cph.descs.length < 4096 →
    exec (.decrypt core thread) s = .next ((s.takeReq core r).acceptDesc (descOf s core thread r)).settleCores) ∧
  (∀ (core : Fin 128) (thread : Fin 8) (s : State) (r : FReq), s.request? core thread 1 = some r → r.op = 3 →
    s.mode ≠ mSafeHold → s.mode ≠ mStandby → s.cph.descs.length < 4096 →
    exec (.derive core thread) s = .next ((s.takeReq core r).acceptDesc (descOf s core thread r)).settleCores) ∧
  (∀ (s : State) (n u : Nat) (d : CphDesc), firstDesc (s.descsIn .queued) = some (n, d) → s.nextUnit = some u →
    firstDesc (s.descsIn .suspended) = none → s.cipherRuns = true →
    let start := max (d.acceptAt + 4 * fclk) (s.now + (if s.now = d.acceptAt then 4 * fclk else 0))
    s.unitFreeAt u ≤ start →
    exec .cipherDispatch s = .next (s.setDesc n { d with run := .running u start })) ∧
  (∀ (s : State) (n u : Nat) (d : CphDesc), firstDesc (s.descsIn .suspended) = some (n, d) → s.nextUnit = some u →
    s.cipherRuns = true → ((s.descsIn .queued).any fun q => decide (q.2.prio < d.prio)) = false →
    let a := s.after (s.unitFreeAt u)
    exec .cipherResume s = .next (a.setDesc n { d with run := .running u (a.now + 3 * fclk) })) ∧
  (∀ (s : State) (n : Nat) (d : CphDesc),
    (s.cph.descs.filter fun p => p.2.run.unit?.isSome) = [(n, d)] →
    exec .cipherComplete s = .next ((s.after d.endsAt).finishDesc n).settleCores) ∧
  (∀ (s : State) (n : Nat) (d : CphDesc),
    (s.cph.descs.filter fun p => decide (1 < p.2.prio) && (p.2.run == .queued || p.2.run == .suspended)) = [(n, d)] →
    let a := s.after (d.idleAt + 65536 * fclk)
    exec .descriptorPriorityRaise s = .next (a.setDesc n { d with prio := d.prio - 1, idleAt := a.now })) ∧
  (∀ (inst : Fin 27) (s : State),
    (s.flag CPH_STATUS.entropy_ok = true → exec (.drbgReseed inst) s = .next s) ∧
    (s.flag CPH_STATUS.entropy_ok = false → s.cph.stopped.contains inst.val = false →
      let a := { s with cph := { s.cph with stopped := insertNat s.cph.stopped inst.val, stopAt := s.now } }
      exec (.drbgReseed inst) s = .next (a.suspendUnits [inst.val]))) ∧
  (∀ (test : Fin 3) (s : State),
    exec (.entropyFailure test) s
      = .next (((s.raise 44 (faultA 0x0006)).setF CPH_STATUS.entropy_ok 0).postEvent .owner
          ⟨0x62, none, leBytes 1 1 ++ leBytes 1 (test.val + 1)⟩)) ∧
  (∀ (s : State), s.flag CPH_STATUS.entropy_ok = false →
    let a := { s with cph := { s.cph with stopped := [] } }.setF CPH_STATUS.entropy_ok 1
    exec .entropyRecovered s = .next (a.showCipher.postEvent .owner ⟨0x62, none, zeroBytes 2⟩)) ∧
  (∀ (s : State) (n : Nat) (d : CphDesc), s.cph.stopped ≠ [] → s.cipherUnits = [] →
    (s.cph.descs.filter fun p => p.2.run == .queued || p.2.run == .suspended) = [(n, d)] →
    exec .cipherEntropyTimeout s = .next ((s.after (max d.waitAt s.cph.stopAt + 10 * msT)).endDesc n stDegraded 0).settleCores) ∧
  (∀ (unit : Fin 26) (s : State),
    exec (.unitKnownAnswerTest unit true) s = .next s ∧
    (s.unitServes unit.val = true →
      let a := ((s.raise 29 (faultA 0x0003)).cphCount 7).unitFails (secondsOf s.timeNow % 2 ^ 32) kCipher unit.val
      let b := a.setF CPH_STATUS.units_active ((List.range 26).filter a.unitServes).length
      let mine := b.cph.descs.filter fun p => p.2.run.unit? == some unit.val
      mine = [] → exec (.unitKnownAnswerTest unit false) s = .next b.settleCores))

/-- Key commands: each of these commands, where the conditions its clause names hold, answers the next state its rule gives, whole:
KEY_LOAD, KEY_UNWRAP, KEY_ERASE, KEY_ATTR, KEY_QUERY, CPH_RNG_READ (R273, R281). -/
def Obligations.CompleteKeys : Prop :=
  (∀ (o : Origin) (slot : BitVec 16) (s u : State) (a : KeyArgs), s.keyTake o 1 slot.toNat (s.getF CPH_KEY_CMD.kek_slot) = (u, some a) →
    u.slotWaits a.slot = false →
    let c := u.keyAllowed o 1 a
    c.2 = true →
    a.attr.bits 40 0 ≠ 0 → c.1.keyOverQuota a.slot a.attr = false →
    let key := beNat (a.data.take (if a.attr.bits 63 63 = 1 then 32 else 16))
    exec (.keyLoad o slot) s = .next (((c.1.flushSlot a.slot).setKeySlot a.slot (KeySlot.loaded a.attr key)).keyEnd o stOk).settleCores) ∧
  (∀ (o : Origin) (slot : BitVec 16) (kek : BitVec 16) (s u : State) (a : KeyArgs), s.keyTake o 2 slot.toNat kek.toNat = (u, some a) →
    u.slotWaits a.slot = false →
    let c := u.keyAllowed o 2 a
    c.2 = true →
    a.attr.bits 40 0 ≠ 0 → c.1.keyOverQuota a.slot a.attr = false →
    let w := c.1.keySlot a.kek
    let d := c.1.keyAccess .read (c.1.originInit o) a.kek
    w.valid = true → w.unwrap = true → d.2 = true →
    let r := (d.1.flushSlot a.slot).reserveKey a.kek (if a.attr.bits 63 63 == 1 then 24 else 12)
    r.2 = true → ∀ key, kwUnwrap (keyOf w.len256 w.key) (a.data.take (if a.attr.bits 63 63 == 1 then 40 else 24)) = some key →
    exec (.keyUnwrap o slot kek) s = .next ((r.1.setKeySlot a.slot (KeySlot.loaded a.attr key)).keyEnd o stOk).settleCores) ∧
  (∀ (o : Origin) (slot : BitVec 16) (s u : State) (a : KeyArgs), s.keyTake o 3 slot.toNat (s.getF CPH_KEY_CMD.kek_slot) = (u, some a) →
    u.slotWaits a.slot = false →
    let c := u.keyAllowed o 3 a
    c.2 = true →
    exec (.keyErase o slot) s = .next (((c.1.flushSlot a.slot).setKeySlot a.slot KeySlot.empty).keyEnd o stOk).settleCores) ∧
  (∀ (o : Origin) (slot : BitVec 16) (s u : State) (a : KeyArgs), s.keyTake o 4 slot.toNat (s.getF CPH_KEY_CMD.kek_slot) = (u, some a) →
    let c := u.keyAllowed o 4 a
    c.2 = true →
    a.attr.bits 40 0 ≠ 0 → c.1.keyOverQuota a.slot a.attr = false →
    let k := (c.1.keySlot a.slot).withAttr a.attr
    let b := c.1.setKeySlot a.slot { k with rollover := k.rollover && decide (k.limit * 7 / 8 ≤ k.counter) }
    exec (.keyAttr o slot) s = .next ((if k.limit ≤ k.counter then b.exhaustKey a.slot else b).keyEnd o stOk)) ∧
  (∀ (o : Origin) (slot : BitVec 16) (s u : State) (a : KeyArgs), s.keyTake o 5 slot.toNat (s.getF CPH_KEY_CMD.kek_slot) = (u, some a) →
    let c := u.keyAllowed o 5 a
    c.2 = true →
    let k := c.1.keySlot a.slot
    ∀ init, o = .reg init →
    let b := (c.1.setReg .CPH_KEY_ATTR (BitVec.ofNat 64 k.attrWord)).setReg .CPH_KEY_USAGE (BitVec.ofNat 64 k.usageWord)
    exec (.keyQuery o slot) s = .next (b.keyEnd o stOk (leBytes 8 k.attrWord ++ leBytes 8 k.usageWord))) ∧
  (∀ (init : Nat) (s : State),
    let a := s.blockAccess 15 .read init 0x60
    a.2 = true →
    (a.1.cph.stopped.contains 26 = true → ∀ wide upper, exec (.cphRngRead init wide upper) s = .next (a.1.emit (.readData init 0))) ∧
    (a.1.cph.stopped.contains 26 = false →
      let d := a.1.draw 63
      exec (.cphRngRead init true false) s = .next (d.2.emit (.readData init (BitVec.ofNat 64 (2 ^ 63 + d.1))))))

/-- Drugrim work entries and what its packets bring: each of these commands, where the conditions its clause names hold, answers the
next state its rule gives, whole: WRITE, WRITE_IMM, READ, DATA_RECEIVE, READ_REQ_RECEIVE, ACK_RECEIVE, ERROR_RECEIVE,
READ_RESP_RECEIVE, DRUGRIM_PACKET_SEND (R231, R246, R234, R240, R257). -/
def Obligations.CompleteTransfers : Prop :=
  (∀ (num idx : Nat) (dest e : List Byte) (s : State) (r : Ring) (epId : Nat) (ep : DrtEp), s.ring? 0 num = some r →
    s.fetchedEntry num idx = some e → r.kind = 5 → (e.getD 8 0).toNat = 1 → s.entryTaken num idx = false → s.mode ≠ mSafeHold →
    s.modes.dReset = none → s.workOrderOk num idx (natBit (e.getD 9 0).toNat 2) = true → s.issueHeld r.fn r.slice = false →
    s.ringEp num = some (epId, ep) →
    let size := if ep.jumbo then 8192 else 4096
    let len := leNat (sliceBytes e 20 4)
    let ref := leNat (sliceBytes e 12 4)
    natBit (e.getD 9 0).toNat 0 = false →
    len ≤ 4096 * size → ref < ep.tblCount →
    len ≠ 0 →
    let c := s.dmaCheck r.fn r.slice false (ep.tblBase + 32 * ref) 32
    c.2 = true →
    let a := c.1.issueRead r.fn r.slice (ep.tblBase + 32 * ref) 32
    let d := fitBytes 32 (a.dmaData r.fn (ep.tblBase + 32 * ref) 32 dest)
    natBit (leNat (sliceBytes d 16 4)) 31 = true → (a.pubUnc 0).isSome = true → a.seqOver = false → a.drtRuns = true →
    ∀ (epoch slot rec key : Nat) (b : State), (Tab.look a.drt.doms ep.domain).bind DrtDomain.cur = some (epoch, slot) →
    Tab.freeKey a.drt.outs 0 65536 = some rec →
    a.derivePair slot ep.domain epoch epId (leNat (sliceBytes d 16 3)) = (b, some key) →
    ∃ x : OutRec, x.ep = epId ∧ x.num = num ∧ x.idx = idx ∧ x.op = 1 ∧ x.remote = leNat (sliceBytes d 16 3) ∧ x.peer = d.take 16 ∧
      x.domain = ep.domain ∧ x.epoch = epoch ∧ x.key = some key ∧ x.region = leNat (sliceBytes e 16 4) ∧
      x.offset = leNat (sliceBytes e 24 8) ∧ x.len = len ∧ x.loc = leNat (sliceBytes e 32 8) ∧ x.size = size ∧ x.acked = 0 ∧ x.round = 0 ∧
      x.deadline = b.islandNs + b.getF DRT_TIMER.lifetime * 10 ^ 6 ∧
      exec (.drtWrite num idx dest) s = .next (b.startMessage x rec)) ∧
  (∀ (num idx : Nat) (dest e : List Byte) (s : State) (r : Ring) (epId : Nat) (ep : DrtEp), s.ring? 0 num = some r →
    s.fetchedEntry num idx = some e → r.kind = 5 → (e.getD 8 0).toNat = 2 → s.entryTaken num idx = false → s.mode ≠ mSafeHold →
    s.modes.dReset = none → s.workOrderOk num idx (natBit (e.getD 9 0).toNat 2) = true → s.issueHeld r.fn r.slice = false →
    s.ringEp num = some (epId, ep) →
    let size := if ep.jumbo then 8192 else 4096
    let len := leNat (sliceBytes e 20 4)
    let ref := leNat (sliceBytes e 12 4)
    len ≤ 4096 * size → ref < ep.tblCount →
    let c := s.dmaCheck r.fn r.slice false (ep.tblBase + 32 * ref) 32
    c.2 = true →
    let a := c.1.issueRead r.fn r.slice (ep.tblBase + 32 * ref) 32
    let d := fitBytes 32 (a.dmaData r.fn (ep.tblBase + 32 * ref) 32 dest)
    natBit (leNat (sliceBytes d 16 4)) 31 = true → (a.pubUnc 0).isSome = true → a.seqOver = false → a.drtRuns = true →
    ∀ (epoch slot rec key : Nat) (b : State), (Tab.look a.drt.doms ep.domain).bind DrtDomain.cur = some (epoch, slot) →
    Tab.freeKey a.drt.outs 0 65536 = some rec →
    a.derivePair slot ep.domain epoch epId (leNat (sliceBytes d 16 3)) = (b, some key) →
    ∃ x : OutRec, x.ep = epId ∧ x.num = num ∧ x.idx = idx ∧ x.op = 2 ∧ x.remote = leNat (sliceBytes d 16 3) ∧ x.peer = d.take 16 ∧
      x.domain = ep.domain ∧ x.epoch = epoch ∧ x.key = some key ∧ x.region = leNat (sliceBytes e 16 4) ∧
      x.offset = leNat (sliceBytes e 24 8) ∧ x.len = len ∧ x.loc = leNat (sliceBytes e 32 8) ∧ x.size = size ∧ x.acked = 0 ∧ x.round = 0 ∧
      x.deadline = b.islandNs + b.getF DRT_TIMER.lifetime * 10 ^ 6 ∧
      exec (.drtWriteImm num idx dest) s = .next (b.startMessage x rec)) ∧
  (∀ (num idx : Nat) (dest e : List Byte) (s : State) (r : Ring) (epId : Nat) (ep : DrtEp), s.ring? 0 num = some r →
    s.fetchedEntry num idx = some e → r.kind = 5 → (e.getD 8 0).toNat = 3 → s.entryTaken num idx = false → s.mode ≠ mSafeHold →
    s.modes.dReset = none → s.workOrderOk num idx (natBit (e.getD 9 0).toNat 2) = true → s.issueHeld r.fn r.slice = false →
    s.ringEp num = some (epId, ep) →
    let size := if ep.jumbo then 8192 else 4096
    let len := leNat (sliceBytes e 20 4)
    let ref := leNat (sliceBytes e 12 4)
    natBit (e.getD 9 0).toNat 0 = false →
    len ≤ 4096 * size → ref < ep.tblCount →
    len ≠ 0 →
    let c := s.dmaCheck r.fn r.slice false (ep.tblBase + 32 * ref) 32
    c.2 = true →
    let a := c.1.issueRead r.fn r.slice (ep.tblBase + 32 * ref) 32
    let d := fitBytes 32 (a.dmaData r.fn (ep.tblBase + 32 * ref) 32 dest)
    natBit (leNat (sliceBytes d 16 4)) 31 = true → (a.pubUnc 0).isSome = true → a.seqOver = false → a.drtRuns = true →
    ∀ (epoch slot rec key : Nat) (b : State), (Tab.look a.drt.doms ep.domain).bind DrtDomain.cur = some (epoch, slot) →
    Tab.freeKey a.drt.outs 0 65536 = some rec →
    a.derivePair slot ep.domain epoch epId (leNat (sliceBytes d 16 3)) = (b, some key) →
    ∃ x : OutRec, x.ep = epId ∧ x.num = num ∧ x.idx = idx ∧ x.op = 3 ∧ x.remote = leNat (sliceBytes d 16 3) ∧ x.peer = d.take 16 ∧
      x.domain = ep.domain ∧ x.epoch = epoch ∧ x.key = some key ∧ x.region = leNat (sliceBytes e 16 4) ∧
      x.offset = leNat (sliceBytes e 24 8) ∧ x.len = len ∧ x.loc = leNat (sliceBytes e 32 8) ∧ x.size = size ∧ x.acked = 0 ∧ x.round = 0 ∧
      x.deadline = b.islandNs + b.getF DRT_TIMER.lifetime * 10 ^ 6 ∧
      exec (.drtRead num idx dest) s = .next (b.startMessage x rec)) ∧
  (∀ (frame : List Byte) (s b : State) (x : DrtRx) (slot key : Nat) (pay : List Byte) (e : DrtEp), s.mode ≠ mSafeHold →
    s.modes.dReset = none → drtParse (s.getF DRT_CFG.udp_port) frame = some x → s.drtRuns = true → x.hdr.kind = 1 →
    let a := s.drtCount 2
    let h := x.hdr
    a.timeCheck h = none → a.epochSlot h.domain h.epoch = some slot → Tab.look a.drt.ins (msgKey h.src h.msgSeq) = none →
    a.derivePair slot h.domain h.epoch h.src h.dst = (b, some key) → gcmOpen key h.iv x.aad x.body = some pay →
    Tab.look b.drt.eps h.dst = some e → e.domain = h.domain →
    let via : DrtVia := ⟨key, x.mine, x.peer, x.port⟩
    exec (.dataReceive frame false) s = .next (b.matchData h via pay e)) ∧
  (∀ (frame : List Byte) (s b : State) (x : DrtRx) (slot key : Nat) (pay : List Byte) (e : DrtEp), s.mode ≠ mSafeHold →
    s.modes.dReset = none → drtParse (s.getF DRT_CFG.udp_port) frame = some x → s.drtRuns = true → x.hdr.kind = 2 →
    let a := s.drtCount 2
    let h := x.hdr
    a.timeCheck h = none → a.epochSlot h.domain h.epoch = some slot →
    a.derivePair slot h.domain h.epoch h.src h.dst = (b, some key) → gcmOpen key h.iv x.aad x.body = some pay →
    Tab.look b.drt.eps h.dst = some e → e.domain = h.domain →
    let via : DrtVia := ⟨key, x.mine, x.peer, x.port⟩
    b.regionReason h e false h.msgLen = 0 →
    let psns := (List.range (drtPackets h.msgLen h.size)).filter fun i => decide (h.psn ≤ i ∧ i < h.psn + beNat (pay.take 2))
    exec (.readReqReceive frame false) s = .next (b.drtPush h.src (psns.map fun i => .readResp h via i))) ∧
  (∀ (frame : List Byte) (s : State) (x : DrtRx) (slot : Nat) (r : OutRec) (pay : List Byte), s.mode ≠ mSafeHold →
    s.modes.dReset = none → drtParse (s.getF DRT_CFG.udp_port) frame = some x → s.drtRuns = true → x.hdr.kind = 4 →
    let a := s.drtCount 2
    a.epochSlot x.hdr.domain x.hdr.epoch = some slot → Tab.look a.drt.outs x.hdr.outRec = some r → r.msgSeq = x.hdr.msgSeq →
    r.ep = x.hdr.dst → r.remote = x.hdr.src → r.domain = x.hdr.domain → r.epoch = x.hdr.epoch →
    gcmOpen (r.key.getD 0) x.hdr.iv x.aad x.body = some pay →
    r.op ≠ 3 → natBit (pay.getD 2 0).toNat 0 = true →
    let cum := beNat (pay.take 2)
    let got := (2 ^ cum - 1) ||| leNat (sliceBytes pay 24 32) * 2 ^ (cum + 1)
    let acked := (r.acked ||| got) % 2 ^ r.packets
    let rtt : Int := (a.islandNs : Int) - beNat (sliceBytes pay 8 8)
    let unc := Tab.getD 0xFFFF r.sentU (beNat (sliceBytes pay 8 8)) + beNat (sliceBytes pay 4 2)
    let owd : Int := if 4 * a.getF DRT_CC_CFG.max_unc < unc then rtt / 2
      else (beNat (sliceBytes pay 16 8) : Int) - beNat (sliceBytes pay 8 8)
    let b := (a.congAck r.remote rtt owd).setOut x.hdr.outRec { r with acked := acked } (acked != r.acked)
    exec (.ackReceive frame false) s = .next (b.endOut x.hdr.outRec stOk 0)) ∧
  (∀ (frame : List Byte) (s : State) (x : DrtRx) (slot : Nat) (r : OutRec) (pay : List Byte), s.mode ≠ mSafeHold →
    s.modes.dReset = none → drtParse (s.getF DRT_CFG.udp_port) frame = some x → s.drtRuns = true → x.hdr.kind = 5 →
    let a := s.drtCount 2
    a.epochSlot x.hdr.domain x.hdr.epoch = some slot → Tab.look a.drt.outs x.hdr.outRec = some r → r.msgSeq = x.hdr.msgSeq →
    r.ep = x.hdr.dst → r.remote = x.hdr.src → r.domain = x.hdr.domain → r.epoch = x.hdr.epoch →
    gcmOpen (r.key.getD 0) x.hdr.iv x.aad x.body = some pay →
    exec (.errorReceive frame false) s = .next (a.endOut x.hdr.outRec x.hdr.status (pay.getD 0 0).toNat)) ∧
  (∀ (frame : List Byte) (s : State) (x : DrtRx) (slot : Nat) (r : OutRec) (pay : List Byte), s.mode ≠ mSafeHold →
    s.modes.dReset = none → drtParse (s.getF DRT_CFG.udp_port) frame = some x → s.drtRuns = true → x.hdr.kind = 3 →
    let a := s.drtCount 2
    a.epochSlot x.hdr.domain x.hdr.epoch = some slot → Tab.look a.drt.outs x.hdr.outRec = some r → r.msgSeq = x.hdr.msgSeq →
    r.ep = x.hdr.dst → r.remote = x.hdr.src → r.domain = x.hdr.domain → r.epoch = x.hdr.epoch →
    gcmOpen (r.key.getD 0) x.hdr.iv x.aad x.body = some pay →
    r.op = 3 → x.hdr.psn < r.packets → r.num < nveRing →
    let loc := r.loc + x.hdr.psn * r.size
    let f := a.drtFn (((Tab.look a.drt.eps r.ep).map DrtEp.slice).getD noSlice)
    let c := a.dmaCheck f.1 (drtDma f) true loc pay.length
    c.2 = true →
    let acked := natSetBit r.acked x.hdr.psn true
    let b := (c.1.issueWrite f.1 (drtDma f) loc pay).setOut x.hdr.outRec { r with acked := acked } (acked != r.acked)
    exec (.readRespReceive frame false) s
      = .next (if firstMissing acked r.packets = r.packets then b.endOut x.hdr.outRec stOk 0 else b)) ∧
  (∀ (dst : BitVec 24) (given : List Byte) (s : State) (h : DrtHdr) (via : DrtVia) (payload : List Byte) (rest : List DrtItem),
    s.drtRuns = true → s.seqOver = false → (s.paced dst.toNat).drtQueue dst.toNat = .ctl h via payload :: rest →
    exec (.drugrimPacketSend dst given) s
      = .next (((s.paced dst.toNat).setDrtQueue dst.toNat rest).drtEmit h via none none payload))

/-- Drugrim timers, settling and shutting down: each of these commands, where the conditions its clause names hold, answers the next
state its rule gives, whole: ACK_TIMER, RETRANSMIT_TIMEOUT, MESSAGE_DEADLINE, RECORD_EXPIRE, NOT_BEFORE_RELEASE, HELD_TIMEOUT,
TOMBSTONE_FREE, SETTLE_END, TRANSPORT_DISABLE (R239, R241, R233, R236, R237, R238, R244, R245, R258). -/
def Obligations.CompleteTransport : Prop :=
  (∀ (src : BitVec 24) (msgSeq : BitVec 48) (s : State) (x : InRec) (t : Nat),
    Tab.look s.drt.ins (msgKey src.toNat msgSeq.toNat) = some x → x.ackAt = some t → s.drtRuns = true →
    exec (.ackTimer src msgSeq) s = .next ((s.after (t + 2 * usT)).sendAck (msgKey src.toNat msgSeq.toNat) x)) ∧
  (∀ (r : Fin 65536) (s : State) (x : OutRec) (t : Nat), Tab.look s.drt.outs r.val = some x → x.timer = some t →
    s.drtRuns = true →
    let a := (s.after (t + s.roundTimeout x * nsT)).congTimeout x.remote
    (16 ≤ x.round → exec (.retransmitTimeout r) s = .next (a.endOut r.val stTimeout 0)) ∧
    (x.round < 16 →
      let y := { x with round := x.round + 1, timer := none }
      let b := a.drtUnqueue r.val
      exec (.retransmitTimeout r) s
        = .next ({ b with drt := { b.drt with outs := Tab.put b.drt.outs r.val y } }.drtPush x.remote (y.roundItems r.val y.round)))) ∧
  (∀ (r : Fin 65536) (s : State) (x : OutRec), Tab.look s.drt.outs r.val = some x → s.drtRuns = true →
    exec (.messageDeadline r) s = .next ((s.afterNs x.deadline).endOut r.val stTimeout 0)) ∧
  (∀ (src : BitVec 24) (msgSeq : BitVec 48) (s : State) (x : InRec),
    Tab.look s.drt.ins (msgKey src.toNat msgSeq.toNat) = some x → x.st = .receiving → s.hasPassed x.tStale = true → s.drtRuns = true →
    let a := (s.dropIn (msgKey src.toNat msgSeq.toNat)).drtCount 12
    exec (.recordExpire src msgSeq) s
      = .next (if x.last.flag 3 then a.drtEvent x.last.dst 0x51
          (drtBody stTimeout 0 0 x.last.src x.last.msgSeq x.last.region x.last.dst) else a)) ∧
  (∀ (src : BitVec 24) (msgSeq : BitVec 48) (s : State) (x : InRec),
    Tab.look s.drt.ins (msgKey src.toNat msgSeq.toNat) = some x → x.st = .held → s.hasPassed (4 * x.nb) = true → s.drtRuns = true →
    exec (.notBeforeRelease src msgSeq) s = .next (s.finishIn (msgKey src.toNat msgSeq.toNat) x stOk)) ∧
  (∀ (src : BitVec 24) (msgSeq : BitVec 48) (s : State) (x : InRec),
    Tab.look s.drt.ins (msgKey src.toNat msgSeq.toNat) = some x → x.st = .held → s.drtRuns = true →
    let a := s.after (x.filledAt + 2 * s.getF DRT_TIMER.nb_max * msT)
    a.pubUnc 0 = none →
    exec (.heldTimeout src msgSeq) s = .next (a.finishIn (msgKey src.toNat msgSeq.toNat) x stTimeout)) ∧
  (∀ (src : BitVec 24) (msgSeq : BitVec 48) (s : State) (t : DrtTomb),
    Tab.look s.drt.tombs (msgKey src.toNat msgSeq.toNat) = some t → s.hasPassed t.tStale = true →
    let a := { s with drt := { s.drt with tombs := Tab.del s.drt.tombs (msgKey src.toNat msgSeq.toNat) } }.showDrt
    ((a.drt.ins.find? fun p => p.2.st == .finished) = none → exec (.tombstoneFree src msgSeq) s = .next a) ∧
    (∀ j x, (a.drt.ins.find? fun p => p.2.st == .finished) = some (j, x) →
      exec (.tombstoneFree src msgSeq) s = .next (a.bury j ⟨x.tStale, x.status, x.reason, false⟩ (some x)))) ∧
  (∀ (s : State), s.flag DRT_STATUS.settling = true → s.drt.settleLater = false → s.hasPassed s.drt.settle = true →
    exec .settleEnd s = .next (s.setF DRT_STATUS.settling 0)) ∧
  (∀ (init : Nat) (s : State),
    let a := s.blockAccess 14 .write init 0
    a.2 = true →
    exec (.transportDisable init) s
      = .next (((a.1.setF DRT_CFG.enable 0).squashEps (fun _ => true) true).dropReplies.showTransport))

/-- Endpoints, regions and domains: each of these commands, where the conditions its clause names hold, answers the next state its rule
gives, whole: EP_CREATE, EP_DESTROY, REGION_REG, REGION_REVOKE, REGION_READ, DOMAIN_SET, DOMAIN_NEXT, DOMAIN_PROMOTE,
DOMAIN_DROP_PREV (R262, R247, R248, R254). -/
def Obligations.CompleteTransportCommands : Prop :=
  (∀ (o : Origin) (s u : State) (a : DrtArgs), s.drtTake o 1 = (u, some a) → u.drtMay o 1 = true →
    let ep := a.f 0 63 40
    Tab.has u.drt.eps ep = false → ((Tab.look u.drt.doms (a.f 0 25 10)).bind DrtDomain.cur).isSome = true →
    ∀ r : Ring, u.ring? 0 (a.f 2 31 16) = some r → r.kind = 5 → a.f 1 5 0 = 0 → a.f 2 63 32 ≠ 0 → a.f 2 63 32 ≤ 16777216 →
    u.drt.eps.length < 16384 → a.f 0 39 26 = noSlice →
    let e : DrtEp := { slice := noSlice, domain := a.f 0 25 10, jumbo := natBit (a.f 0 63 0) 9, tblBase := a.f 1 63 0,
                       tblCount := a.f 2 63 32, ring := a.f 2 31 16, addr := leBytes 8 (a.d.getD 3 0) ++ leBytes 8 (a.d.getD 4 0) }
    exec (.epCreate o) s = .next ({ u with drt := { u.drt with eps := Tab.put u.drt.eps ep e } }.drtEnd o stOk)) ∧
  (∀ (o : Origin) (s u : State) (a : DrtArgs), s.drtTake o 2 = (u, some a) → u.drtMay o 2 = true →
    Tab.has u.drt.eps (a.f 0 63 40) = true →
    let b := u.squashEps (fun e => e == a.f 0 63 40) true
    exec (.epDestroy o) s = .next ({ b with drt := { b.drt with eps := Tab.del b.drt.eps (a.f 0 63 40) } }.drtEnd o stOk)) ∧
  (∀ (o : Origin) (s u : State) (a : DrtArgs), s.drtTake o 3 = (u, some a) → u.drtMay o 3 = true →
    u.drt.fresh < 2 ^ 20 → u.regionMay o (a.f 0 63 50) (a.f 0 49 34) = true → a.d.getD 2 0 ≠ 0 → a.d.getD 2 0 ≤ 2 ^ 48 →
    a.f 0 63 50 = noSlice →
    let r : DrtRegion := { base := a.d.getD 1 0, len := a.d.getD 2 0, slice := noSlice, domain := a.f 0 49 34,
                           wr := natBit (a.d.getD 0 0) 33, rd := natBit (a.d.getD 0 0) 32, bad := false }
    let b := u.setDrt { u.drt with regions := Tab.put u.drt.regions u.drt.fresh r, fresh := u.drt.fresh + 1, freed := u.drt.freed }
    ∀ init, o = .reg init →
    exec (.regionReg o) s = .next ((b.setF DRT_CMD.handle (u.drt.fresh * 2 ^ 12 + u.regionGen u.drt.fresh)).drtEnd o stOk)) ∧
  (∀ (o : Origin) (s u : State) (a : DrtArgs), s.drtTake o 4 = (u, some a) → u.drtMay o 4 = true →
    ∀ r, u.region? a.handle = some r → u.regionMay o r.slice r.domain = true →
    exec (.regionRevoke o) s = .next ((u.revokeRegion (a.handle / 2 ^ 12)).drtEnd o stOk)) ∧
  (∀ (o : Origin) (s u : State) (a : DrtArgs), s.drtTake o 5 = (u, some a) → u.drtMay o 5 = true →
    ∀ r, u.region? a.handle = some r → u.regionMay o r.slice r.domain = true → r.bad = false → ∀ init, o = .reg init →
    let d0 := r.slice % 2 ^ 14 * 2 ^ 50 + r.domain % 2 ^ 16 * 2 ^ 34 + b2n r.wr * 2 ^ 33 + b2n r.rd * 2 ^ 32
    let b := (u.setReg .DRT_CMD_DATA (BitVec.ofNat 64 d0) 0).setReg .DRT_CMD_DATA (BitVec.ofNat 64 r.base) 1
    exec (.regionRead o) s = .next ((b.setReg .DRT_CMD_DATA (BitVec.ofNat 64 r.len) 2).drtEnd o stOk)) ∧
  (∀ (o : Origin) (s u : State) (a : DrtArgs), s.drtTake o 6 = (u, some a) → u.drtMay o 6 = true →
    u.holdsAes256 (a.f 0 31 16) = true →
    exec (.domainSet o) s = .next ((u.setDomain (a.f 0 63 48) ⟨some (a.f 0 47 32, a.f 0 31 16), none, none⟩).drtEnd o stOk)) ∧
  (∀ (o : Origin) (s u : State) (a : DrtArgs), s.drtTake o 7 = (u, some a) → u.drtMay o 7 = true →
    let d := u.domain (a.f 0 63 48)
    u.holdsAes256 (a.f 0 31 16) = true → d.cur.map Prod.fst ≠ some (a.f 0 47 32) → d.prev.map Prod.fst ≠ some (a.f 0 47 32) →
    exec (.domainNext o) s = .next ((u.setDomain (a.f 0 63 48) { d with next := some (a.f 0 47 32, a.f 0 31 16) }).drtEnd o stOk)) ∧
  (∀ (o : Origin) (s u : State) (a : DrtArgs), s.drtTake o 8 = (u, some a) → u.drtMay o 8 = true →
    let d := u.domain (a.f 0 63 48)
    d.next.isSome = true →
    let b := u.setDomain (a.f 0 63 48) ⟨d.next, none, if natBit (a.d.getD 0 0) 0 then d.cur else d.prev⟩
    exec (.domainPromote o) s = .next ((b.drtTellAll 0x54 stOk 3 0 (some (a.f 0 63 48))).drtEnd o stOk)) ∧
  (∀ (o : Origin) (s u : State) (a : DrtArgs), s.drtTake o 9 = (u, some a) → u.drtMay o 9 = true →
    exec (.domainDropPrev o) s = .next ((u.setDomain (a.f 0 63 48) { u.domain (a.f 0 63 48) with prev := none }).drtEnd o stOk))

/-- NVMe controllers, doorbells and their own events: each of these commands, where the conditions its clause names hold, answers the
next state its rule gives, whole: CONTROLLER_ENABLE, CONTROLLER_RESET, CONTROLLER_RESET_TIMEOUT, NORMAL_SHUTDOWN, ABRUPT_SHUTDOWN,
NVME_DOORBELL, TEMPERATURE_THRESHOLD, APST_IDLE, SMART_COUNTER_UPDATE (R366, R379, R380, R365, R387, R385, R386). -/
def Obligations.CompleteControllers : Prop :=
  (∀ (c : Fin 1024) (cc : BitVec 32) (s : State) (x : NvmeCtrl), s.ctrl? c.val = some x → x.enabled = false →
    natBit cc.toNat 0 = true → x.resetAt = none → exec (.controllerEnable c cc) s = .next (s.enableCtrl c.val x cc.toNat)) ∧
  (∀ (c : Fin 1024) (s : State) (x : NvmeCtrl), s.ctrl? c.val = some x → x.enabled = true →
    exec (.controllerReset c) s = .next (s.startCtrlReset c.val).nvmeSettle) ∧
  (∀ (c : Fin 1024) (s : State) (x : NvmeCtrl) (t : Nat), s.ctrl? c.val = some x → x.resetAt = some t →
    let a := s.after (t + 2 * secT)
    let mine := a.nve.msgs.filter fun p => p.2.discard && a.msgCtrl p.2 == some c.val
    let b := mine.foldl (fun t p => (match p.2.st with | .inflight r => t.dropOut r | _ => t).dropMsg p.1) a
    exec (.controllerResetTimeout c) s = .next ((b.nveCount 7 mine.length).endCtrlReset c.val).nvmeSettle) ∧
  (∀ (c : Fin 1024) (s : State), exec (.normalShutdown c) s = .next (s.shutCtrl c.val true)) ∧
  (∀ (c : Fin 1024) (s : State), exec (.abruptShutdown c) s = .next (s.shutCtrl c.val false)) ∧
  (∀ (c : Fin 1024) (qid value : Nat) (reads : List (Nat × List Byte)) (s : State) (x : NvmeCtrl), s.ctrl? c.val = some x →
    (∀ k, Tab.look x.sqs qid = some k → value < k.size →
      exec (.nvmeDoorbell c false qid value reads) s
        = .next (reads.foldl (fun t r => t.fetchCmd c.val r.1 r.2)
            (s.setCtrl c.val { x with sqs := Tab.put x.sqs qid { k with tail := value } })).nvmeSettle) ∧
    (∀ k, Tab.look x.cqs qid = some k → value < k.size →
      let u := s.setCtrl c.val { x with cqs := Tab.put x.cqs qid { k with head := value } }
      exec (.nvmeDoorbell c true qid value reads) s
        = .next (reads.foldl (fun t r => t.fetchCmd c.val r.1 r.2) (u.cqDrain c.val qid (k.stash.length + x.cmds.length))).nvmeSettle)) ∧
  (∀ (c : Fin 1024) (kelvin : BitVec 16) (s : State),
    exec (.temperatureThreshold c kelvin) s = .next ({ s with nve := { s.nve with temp := kelvin.toNat } }.showTemp c.val)) ∧
  (∀ (c : Fin 1024) (s : State) (x : NvmeCtrl), s.ctrl? c.val = some x →
    let e := leNat (sliceBytes x.feat.apst (8 * x.feat.ps) 8)
    x.rdy = true → x.feat.apste = true → x.feat.ps ≤ 2 → e / 256 % 2 ^ 24 ≠ 0 → e / 8 % 32 ≤ 4 →
    x.cmds.any (fun m => m.st != .event) = false →
    exec (.apstIdle c) s
      = .next ((s.after (x.idleSince + e / 256 % 2 ^ 24 * msT)).setCtrl c.val
          { x with psBack := some x.feat.ps, feat := { x.feat with ps := e / 8 % 32 } })) ∧
  (∀ (s : State),
    let a := s.after ((s.now / (60 * secT) + 1) * (60 * secT))
    exec .smartCounterUpdate s = .next ((Tab.keys a.nve.ctrls).foldl (fun t c => t.saveSmart c) a))

/-- NVMe admin commands: each of these commands, where the conditions its clause names hold, answers the next state its rule gives,
whole: DELETE_IO_SUBMISSION_QUEUE, CREATE_IO_SUBMISSION_QUEUE, DELETE_IO_COMPLETION_QUEUE, CREATE_IO_COMPLETION_QUEUE, IDENTIFY,
GET_LOG_PAGE, GET_FEATURES, SET_FEATURES, ABORT, ASYNCHRONOUS_EVENT_REQUEST, FIRMWARE_IMAGE_DOWNLOAD, FIRMWARE_COMMIT (R372, R367,
R370, R386, R378, R387, R382). -/
def Obligations.CompleteAdminCommands : Prop :=
  (∀ (c : Fin 1024) (s : State) (x : NvmeCtrl) (m : NvmeCmd), s.ctrl? c.val = some x →
    x.cmds.find? (fun k => k.sq == 0 && k.st == .fetched) = some m → m.op = 0 → s.nveHeld = false →
    let q := m.dw 10 % 65536
    ∀ k, Tab.look x.sqs q = some k → q ≠ 0 → k.deleting = false →
    let a := (s.setCtrl c.val { x with sqs := Tab.put x.sqs q { k with deleting := true } }).setCmd c.val 0 m.cid (.deleting q)
    x.cmds.all (fun n => n.sq != q) = true →
    exec (.deleteIoSubmissionQueue c) s = .next (a).nvmeSettle) ∧
  (∀ (c : Fin 1024) (s : State) (x : NvmeCtrl) (m : NvmeCmd), s.ctrl? c.val = some x →
    x.cmds.find? (fun k => k.sq == 0 && k.st == .fetched) = some m → m.op = 1 → s.nveHeld = false →
    let q := m.dw 10 % 65536
    let size := m.dw 10 / 65536 + 1
    let base := leNat (sliceBytes m.sqe 24 8)
    let cq := m.dw 11 / 65536
    q ≠ 0 → q ≤ x.feat.grant → Tab.has x.sqs q = false → 2 ≤ size → size ≤ 4096 → cq ≠ 0 → Tab.has x.cqs cq = true →
    m.dw 11 % 2 ≠ 0 → base % x.page = 0 →
    exec (.createIoSubmissionQueue c) s = .next ((s.setCtrl c.val { x with sqs := Tab.put x.sqs q ⟨base, size, 0, 0, cq, false⟩ }).nvmeEnd c.val 0 m.cid nvOk).nvmeSettle) ∧
  (∀ (c : Fin 1024) (s : State) (x : NvmeCtrl) (m : NvmeCmd), s.ctrl? c.val = some x →
    x.cmds.find? (fun k => k.sq == 0 && k.st == .fetched) = some m → m.op = 4 → s.nveHeld = false →
    let q := m.dw 10 % 65536
    q ≠ 0 → Tab.has x.cqs q = true → x.sqs.any (fun p => p.2.cq == q) = false →
    exec (.deleteIoCompletionQueue c) s = .next ((s.setCtrl c.val { x with cqs := Tab.del x.cqs q }).nvmeEnd c.val 0 m.cid nvOk).nvmeSettle) ∧
  (∀ (c : Fin 1024) (s : State) (x : NvmeCtrl) (m : NvmeCmd), s.ctrl? c.val = some x →
    x.cmds.find? (fun k => k.sq == 0 && k.st == .fetched) = some m → m.op = 5 → s.nveHeld = false →
    let q := m.dw 10 % 65536
    let size := m.dw 10 / 65536 + 1
    let base := leNat (sliceBytes m.sqe 24 8)
    let iv := m.dw 11 / 65536
    ∀ f, s.fn? x.fn = some f → f.msixEnable = true → iv < f.msixEntries → q ≠ 0 → q ≤ x.feat.grantCq → Tab.has x.cqs q = false →
    2 ≤ size → size ≤ 4096 → m.dw 11 % 2 ≠ 0 → base % x.page = 0 →
    exec (.createIoCompletionQueue c) s = .next ((s.setCtrl c.val
          { x with cqs := Tab.put x.cqs q ⟨base, size, 0, 0, true, iv, natBit (m.dw 11) 1, [], 0, 0⟩ }).nvmeEnd c.val 0 m.cid nvOk).nvmeSettle) ∧
  (∀ (c : Fin 1024) (prps : List Nat) (s : State) (x : NvmeCtrl) (m : NvmeCmd), s.ctrl? c.val = some x →
    x.cmds.find? (fun k => k.sq == 0 && k.st == .fetched) = some m → m.op = 6 → s.nveHeld = false →
    let d := s.drawBytes 4096
    m.dw 10 % 256 = 1 →
    exec (.nvmeIdentify c prps) s = .next (d.2.endWithData c.val x m (identifyCtrl x s.fuse.serial.toNat c.val d.1) prps).nvmeSettle) ∧
  (∀ (c : Fin 1024) (prps : List Nat) (s : State) (x : NvmeCtrl) (m : NvmeCmd), s.ctrl? c.val = some x →
    x.cmds.find? (fun k => k.sq == 0 && k.st == .fetched) = some m → m.op = 2 → s.nveHeld = false →
    let lid := m.dw 10 % 256
    let n := 4 * (m.dw 11 % 65536 * 65536 + m.dw 10 / 65536 + 1)
    let off := leNat (sliceBytes m.sqe 48 8)
    let d := s.drawBytes 512
    ∀ p, s.logPage x lid d.1 = some p → off ≤ p.length → n ≤ mib → natBit (m.dw 10) 15 = true →
    let body := (p.drop off).take n
    let e := d.2.drawBytes (n - body.length)
    exec (.getLogPage c prps) s = .next (((e.2.setCtrl c.val { x with told := x.told }).endWithData c.val { x with told := x.told } m (body ++ e.1) prps).aerTry c.val).nvmeSettle) ∧
  (∀ (c : Fin 1024) (prps : List Nat) (s : State) (x : NvmeCtrl) (m : NvmeCmd), s.ctrl? c.val = some x →
    x.cmds.find? (fun k => k.sq == 0 && k.st == .fetched) = some m → m.op = 10 → s.nveHeld = false →
    ∀ v, x.feature (m.dw 10 % 256) (m.dw 11) = some v → m.dw 10 % 256 ≠ 0x0C →
    exec (.getFeatures c prps) s = .next (s.nvmeEnd c.val 0 m.cid nvOk v).nvmeSettle) ∧
  (∀ (c : Fin 1024) (prps : List Nat) (data : List Byte) (s : State) (x : NvmeCtrl) (m : NvmeCmd), s.ctrl? c.val = some x →
    x.cmds.find? (fun k => k.sq == 0 && k.st == .fetched) = some m → m.op = 9 → s.nveHeld = false →
    natBit (m.dw 10) 31 = false → m.dw 10 % 256 = 0x02 → m.dw 11 % 32 ≤ 4 →
    exec (.setFeatures c prps data) s = .next ((s.setCtrl c.val { x with feat := { x.feat with ps := m.dw 11 % 32 }, psBack := none }).nvmeEnd c.val 0 m.cid nvOk 0).nvmeSettle) ∧
  (∀ (c : Fin 1024) (s : State) (x : NvmeCtrl) (m : NvmeCmd), s.ctrl? c.val = some x →
    x.cmds.find? (fun k => k.sq == 0 && k.st == .fetched) = some m → m.op = 8 → s.nveHeld = false →
    let sq := m.dw 10 % 65536
    let cid := m.dw 10 / 65536
    ∀ n, x.cmds.find? (fun n => n.is sq cid && !n.is 0 m.cid) = some n → n.st = .fetched →
    exec (.nvmeAbort c) s = .next ((((s.cutCmd n).nvmeEnd c.val sq cid nvAbortRequested).nveCount 4).nvmeEnd c.val 0 m.cid nvOk 0).nvmeSettle) ∧
  (∀ (c : Fin 1024) (s : State) (x : NvmeCtrl) (m : NvmeCmd), s.ctrl? c.val = some x →
    x.cmds.find? (fun k => k.sq == 0 && k.st == .fetched) = some m → m.op = 12 → s.nveHeld = false →
    x.cmds.any (fun n => n.st == .event) = false →
    exec (.asynchronousEventRequest c) s = .next ((s.setCmd c.val 0 m.cid .event).aerTry c.val).nvmeSettle) ∧
  (∀ (c : Fin 1024) (prps : List Nat) (data : List Byte) (s : State) (x : NvmeCtrl) (m : NvmeCmd), s.ctrl? c.val = some x →
    x.cmds.find? (fun k => k.sq == 0 && k.st == .fetched) = some m → m.op = 17 → s.nveHeld = false →
    let n := 4 * (m.dw 10 % 2 ^ 32 + 1)
    let off := 4 * (m.dw 11 % 2 ^ 32)
    x.fwEn = true → n ≤ mib → n % fwGranule = 0 → off % fwGranule = 0 → off + n ≤ slotSize →
    x.pieces.any (fun p => decide (p.1 < off + n) && decide (off < p.1 + p.2.length)) = false →
    let g := s.cmdSegs x m n prps
    g.2.1 = nvOk →
    let r := g.1.hostReads x.fn g.2.2
    r.2 = true →
    exec (.firmwareImageDownload c prps data) s = .next ((r.1.setCtrl c.val { x with pieces := x.pieces ++ [(off, fitBytes n data)] }).nvmeEnd c.val 0 m.cid nvOk).nvmeSettle) ∧
  (∀ (c : Fin 1024) (s : State) (x : NvmeCtrl) (m : NvmeCmd), s.ctrl? c.val = some x →
    x.cmds.find? (fun k => k.sq == 0 && k.st == .fetched) = some m → m.op = 16 → s.nveHeld = false →
    let target := m.dw 10 % 8
    target ≠ 0 → m.dw 10 / 8 % 8 = 0 → x.fwEn = true → 2 ≤ target → target ≤ 3 → target ≠ s.nvmeActiveSlot →
    s.flag UPD_CMD.busy = false → target - 2 = s.inactiveSlot → s.heldReason (stagedImage x.pieces) = 0 → s.updReason 1 false = 0 →
    s.upd.header = none →
    exec (.firmwareCommit c) s = .next (((s.setCtrl c.val { x with pieces := [] }).stageToSlot (target - 2) (stagedImage x.pieces)).nvmeEnd c.val 0 m.cid nvOk).nvmeSettle)

/-- NVMe reads, writes, flushes and their backend messages: each of these commands, where the conditions its clause names hold, answers
the next state its rule gives, whole: NVME_WRITE, NVME_WRITE_ZEROES, NVME_READ, NVME_FLUSH, BACKEND_READ_DONE, BACKEND_WRITE_DONE,
DESTAGE_DONE, DESTAGE_RETRY, DESTAGE_FAILURE_WARNING (R374, R370, R375, R377, R376). -/
def Obligations.CompleteIoCommands : Prop :=
  (∀ (c : Fin 1024) (sq : Nat) (prps : List Nat) (data dest : List Byte) (s : State) (x : NvmeCtrl) (m : NvmeCmd), sq ≠ 0 → s.ctrl? c.val = some x →
    x.cmds.find? (fun k => k.sq == sq && k.st == .fetched) = some m → m.op = 1 → s.nveHeld = false →
    ∀ (i : Nat) (n : NvmeNs), s.ioNs c.val m true = .inr (i, n) → m.nlb * n.block ≤ mib →
    let g := s.cmdSegs x m (m.nlb * n.block) prps
    g.2.1 = nvOk →
    let r := g.1.hostReads x.fn g.2.2
    r.2 = true →
    exec (.nvmeWrite c sq prps data dest) s = .next (r.1.writeData c.val x m i n (fitBytes (m.nlb * n.block) data) dest).nvmeSettle) ∧
  (∀ (c : Fin 1024) (sq : Nat) (dest : List Byte) (s : State) (x : NvmeCtrl) (m : NvmeCmd), sq ≠ 0 → s.ctrl? c.val = some x →
    x.cmds.find? (fun k => k.sq == sq && k.st == .fetched) = some m → m.op = 8 → s.nveHeld = false →
    ∀ (i : Nat) (n : NvmeNs), s.ioNs c.val m true = .inr (i, n) →
    exec (.nvmeWriteZeroes c sq dest) s = .next (s.writeData c.val x m i n (zeroBytes (m.nlb * n.block)) dest).nvmeSettle) ∧
  (∀ (c : Fin 1024) (sq : Nat) (prps : List Nat) (dest : List Byte) (s : State) (x : NvmeCtrl) (m : NvmeCmd), sq ≠ 0 → s.ctrl? c.val = some x →
    x.cmds.find? (fun k => k.sq == sq && k.st == .fetched) = some m → m.op = 2 → s.nveHeld = false →
    ∀ (i : Nat) (n : NvmeNs), s.ioNs c.val m false = .inr (i, n) → m.nlb * n.block ≤ mib →
    let g := s.cmdSegs x m (m.nlb * n.block) prps
    g.2.1 = nvOk →
    let pins := (g.1.nve.bufs.filter fun p => decide (p.1 < m.mark) && rangesMeet p.2.ns p.2.slba p.2.nlb i m.slba m.nlb).map Prod.fst
    let pin (k : Nat) (b : NveBuf) : NveBuf := if pins.contains k then { b with pins := b.pins + 1 } else b
    let a := { g.1 with nve := { g.1.nve with bufs := Tab.mapVals g.1.nve.bufs pin } }
    let msg : NveMsg := { ns := i, slba := m.slba, nlb := m.nlb, use := .read c.val sq m.cid, data := [], dest := dest, st := .waiting,
                          discard := false }
    ((List.range m.nlb).all fun k => (a.newestBuf pins (m.slba + k)).isSome) = false →
    exec (.nvmeRead c sq prps dest) s = .next ((a.newMsg msg).setCmd c.val sq m.cid (.reading a.nve.next pins g.2.2)).nvmeSettle) ∧
  (∀ (c : Fin 1024) (sq : Nat) (s : State) (x : NvmeCtrl) (m : NvmeCmd), sq ≠ 0 → s.ctrl? c.val = some x →
    x.cmds.find? (fun k => k.sq == sq && k.st == .fetched) = some m → m.op = 0 → s.nveHeld = false →
    m.dw 1 = 0xFFFFFFFF →
    let nss := (s.ctrlNss c.val).map Prod.fst
    nss.any (fun n => ((s.ns? n).bind NvmeNs.fault).isSome) = false →
    exec (.nvmeFlush c sq) s = .next (s.setCmd c.val sq m.cid (.flush ((s.nve.bufs.filter fun p => nss.contains p.2.ns && decide (p.1 < m.mark)).map Prod.fst))).nvmeSettle) ∧
  (∀ (msg c sq cid : Nat) (s : State) (m : NveMsg) (x : NvmeCtrl) (k : NvmeCmd) (own : Nat) (pins : List Nat)
      (segs : List (Nat × Nat)) (n : NvmeNs), Tab.look s.nve.msgs msg = some m → m.use = .read c sq cid → m.ended? = some stOk →
    s.ctrl? c = some x → x.cmds.find? (fun k => k.is sq cid && k.msgs.contains msg) = some k → k.st = .reading own pins segs →
    s.ns? m.ns = some n →
    exec (.backendReadDone msg) s = .next ((s.dropMsg msg).finishRead c k n pins segs m.data).nvmeSettle) ∧
  (∀ (msg c sq cid : Nat) (s : State) (m : NveMsg) (x : NvmeCtrl) (k : NvmeCmd) (n : NvmeNs),
    Tab.look s.nve.msgs msg = some m → m.use = .thru c sq cid → m.ended? = some stOk → s.ctrl? c = some x →
    x.cmds.find? (fun k => k.is sq cid && k.msgs.contains msg) = some k → s.ns? m.ns = some n →
    (k.msgs.filter (· != msg)) = [] →
    exec (.backendWriteDone msg) s
      = .next (((((s.dropMsg msg).smartCount c 1 (k.nlb * n.block)).smartCount c 3 1).nvmeEnd c sq cid nvOk)).nvmeSettle) ∧
  (∀ (msg i st : Nat) (s : State) (m : NveMsg) (b : NveBuf) (n : NvmeNs), Tab.look s.nve.msgs msg = some m → m.use = .destage i →
    m.ended? = some st → m.discard = false →
    let a := s.dropMsg msg
    Tab.look a.nve.bufs i = some b → a.ns? m.ns = some n →
    (st = stOk → n.attached = none → exec (.destageDone msg) s
      = .next ((((a.setBuf i { b with st := .destaged }).nveCount 2).setNs m.ns { n with failSince := none }).freeBufs).nvmeSettle) ∧
    (st ≠ stOk →
      let d := a.setBuf i { b with st := .retry (s.now + b.delay) (min (2 * b.delay) secT), delay := min (2 * b.delay) secT }
      (destageFaults st = true → exec (.destageDone msg) s = .next (d.faultNs m.ns st).nvmeSettle) ∧
      (destageFaults st = false → exec (.destageDone msg) s
        = .next (d.setNs m.ns { n with failSince := some (n.failSince.getD s.now) }).nvmeSettle))) ∧
  (∀ (buf t d : Nat) (dest : List Byte) (s : State) (b : NveBuf) (n : NvmeNs), Tab.look s.nve.bufs buf = some b →
    b.st = .retry t d → s.nveHeld = false → b.bad = false → s.ns? b.ns = some n → n.fault = none →
    let a := (s.after t).nveCount 3
    let e := a.setBuf buf { b with st := .destaging a.nve.next, dest := dest }
    let msg : NveMsg := { ns := b.ns, slba := b.slba, nlb := b.nlb, use := .destage buf, data := b.data, dest := dest, st := .waiting,
                          discard := false }
    exec (.destageRetry buf dest) s = .next (e.newMsg msg).nvmeSettle) ∧
  (∀ (ns : Fin 8192) (s : State) (n : NvmeNs) (t c : Nat) (i : Nat), s.ns? ns.val = some n → n.failSince = some t →
    n.attached = some (c, i) → exec (.destageFailureWarning ns) s = .next ((s.after (t + 10 * secT)).setWarn c 2 true))

/-- Namespace commands: each of these commands, where the conditions its clause names hold, answers the next state its rule gives,
whole: NS_CREATE, NS_DELETE, NS_ATTACH, NS_DETACH, NS_QUERY, CLEAR_FAULT (R390). -/
def Obligations.CompleteNamespaces : Prop :=
  (∀ (init : Nat) (ns : Fin 8192) (s : State),
    let a := s.blockAccess 19 .write init 0
    a.2 = true → a.1.flag NVE_NS_CMD.busy = false →
    let u := (a.1.setF NVE_NS_CMD.op 1).setF NVE_NS_CMD.ns ns.val
    init < 0x20 →
    let w (i : Nat) : Word := u.reg .NVE_NS_DATA i
    (w 3).toNat ≠ 0 → Tab.has u.drt.eps ((w 0).bits 63 40) = true → (w 1).bits 63 32 ≠ 0 → (w 1).bits 31 0 ≤ 16384 →
    Tab.has u.nve.nss ns.val = false →
    let n : NvmeNs := { ep := (w 0).bits 63 40, destRef := (w 0).bits 39 8, big := natBit (w 0).toNat 7, ro := natBit (w 0).toNat 6,
                        region := (w 1).bits 63 32, limit := (w 1).bits 31 0, offset := (w 2).toNat, size := (w 3).toNat, fault := none,
                        attached := none, failSince := none }
    exec (.nsCreate init ns) s = .next ((u.setNs ns.val n).setF NVE_NS_CMD.result stOk).nvmeSettle) ∧
  (∀ (init : Nat) (ns : Fin 8192) (s : State),
    let a := s.blockAccess 19 .write init 0
    a.2 = true → a.1.flag NVE_NS_CMD.busy = false →
    let u := (a.1.setF NVE_NS_CMD.op 2).setF NVE_NS_CMD.ns ns.val
    init < 0x20 →
    ∀ n : NvmeNs, u.ns? ns.val = some n → u.nsBusy n = false →
    let ids := (u.nve.msgs.filter fun p => p.2.ns == ns.val).map Prod.fst
    let b := ids.foldl (fun t i => t.discardMsg i) u
    let e := { b.nve with bufs := Tab.keep b.nve.bufs (fun _ x => x.ns != ns.val), nss := Tab.del b.nve.nss ns.val }
    exec (.nsDelete init ns) s = .next (({ b with nve := e }.showNve).setF NVE_NS_CMD.result stOk).nvmeSettle) ∧
  (∀ (init : Nat) (ns : Fin 8192) (controller : Fin 1024) (nsid : BitVec 8) (s : State),
    let a := s.blockAccess 19 .write init 0
    a.2 = true → a.1.flag NVE_NS_CMD.busy = false →
    let u := (a.1.setF NVE_NS_CMD.op 3).setF NVE_NS_CMD.ns ns.val
    init < 0x20 →
    let t := (u.setF NVE_NS_CMD.controller controller.val).setF NVE_NS_CMD.nsid nsid.toNat
    ∀ (n : NvmeNs) (x : NvmeCtrl), t.ns? ns.val = some n → t.ctrl? controller.val = some x → n.attached = none →
    t.nsOf controller.val (nsid.toNat + 1) = none →
    exec (.nsAttach init ns controller nsid) s = .next (((t.setNs ns.val { n with attached := some (controller.val, nsid.toNat + 1) }).showWarn controller.val).setF NVE_NS_CMD.result stOk).nvmeSettle) ∧
  (∀ (init : Nat) (ns : Fin 8192) (s : State),
    let a := s.blockAccess 19 .write init 0
    a.2 = true → a.1.flag NVE_NS_CMD.busy = false →
    let u := (a.1.setF NVE_NS_CMD.op 4).setF NVE_NS_CMD.ns ns.val
    init < 0x20 →
    ∀ (n : NvmeNs), u.ns? ns.val = some n → u.nsBusy n = false → n.attached = none →
    exec (.nsDetach init ns) s = .next ((u.setNs ns.val { n with attached := none }).setF NVE_NS_CMD.result stOk).nvmeSettle) ∧
  (∀ (init : Nat) (ns : Fin 8192) (s : State),
    let a := s.blockAccess 19 .write init 0
    a.2 = true → a.1.flag NVE_NS_CMD.busy = false →
    let u := (a.1.setF NVE_NS_CMD.op 5).setF NVE_NS_CMD.ns ns.val
    init < 0x20 →
    u.ns? ns.val = none →
    exec (.nsQuery init ns) s = .next ((((u.setF NVE_NS_STATUS.state 0).setF NVE_NS_STATUS.fault 0).setF NVE_NS_STATUS.buffered (ceilDiv (u.nsBuffered ns.val) mib)).setF NVE_NS_CMD.result stOk).nvmeSettle) ∧
  (∀ (init : Nat) (ns : Fin 8192) (s : State),
    let a := s.blockAccess 19 .write init 0
    a.2 = true → a.1.flag NVE_NS_CMD.busy = false →
    let u := (a.1.setF NVE_NS_CMD.op 6).setF NVE_NS_CMD.ns ns.val
    init < 0x20 →
    ∀ (n : NvmeNs) (c i : Nat), u.ns? ns.val = some n → n.attached = some (c, i) →
    exec (.clearFault init ns) s = .next (((u.setNs ns.val { n with fault := none }).showWarn c).setF NVE_NS_CMD.result stOk).nvmeSettle)

/-- What the commands and upkeep of the lookup tables leave unchanged: a command that answers a next state has changed at most the parts
of State in its list, whatever its operands and the state; every other part is as it was. -/
def Obligations.FrameTableCommands : Prop :=
(Changes [.tbl] .pendingWriteRelease) ∧
(∀ a b, Changes [.tbl] (.replicaWriteBack a b)) ∧
(Changes [.tbl] .holdSweep) ∧
(∀ a b c, Changes [.regs, .mram, .mem, .prf, .hif, .rings, .slc, .tbl, .out] (.replicaRepair a b c)) ∧
(∀ a b c d, Changes [.regs, .mram, .mem, .prf, .hif, .rings, .slc, .tbl, .out] (.tblInsert a b c d)) ∧
(∀ a b c d, Changes [.regs, .mram, .mem, .prf, .hif, .rings, .slc, .tbl, .out] (.tblDelete a b c d)) ∧
(∀ a b c d, Changes [.regs, .mram, .mem, .prf, .hif, .rings, .slc, .tbl, .out] (.tblModify a b c d)) ∧
(∀ a b c d, Changes [.regs, .mram, .mem, .prf, .hif, .rings, .slc, .tbl, .out] (.tblRetag a b c d)) ∧
(∀ a b c d, Changes [.regs, .mram, .mem, .prf, .hif, .rings, .slc, .tbl, .out] (.tblLookup a b c d)) ∧
(∀ a b c, Changes [.regs, .mram, .mem, .prf, .hif, .rings, .slc, .tbl, .out] (.tblReadPos a b c)) ∧
(∀ a b c, Changes [.regs, .mram, .mem, .prf, .hif, .rings, .slc, .tbl, .out] (.tblDeletePos a b c)) ∧
(∀ a, Changes [.regs, .mram, .mem, .prf, .hif, .rings, .slc, .tbl, .out] (.agerPass a)) ∧
(Changes [.regs, .mram, .mem, .prf, .hif, .rings, .slc, .tbl, .out] .emlLearnEvent) ∧
(Changes [.regs, .mram, .mem, .prf, .hif, .rings, .slc, .tbl, .out] .fltLearnEvent) ∧
(∀ a b c d e, Changes [.regs, .mram, .prf, .slc, .tbl, .out] (.hashSeedWrite a b c d e)) ∧
(∀ a b, Changes [.regs, .mram, .tbl] (.overflowPromotion a b))

/-- What packets, the traffic manager, the ports and the formes leave unchanged: a command that answers a next state has changed at most
the parts of State in its list, whatever its operands and the state; every other part is as it was. -/
def Obligations.FramePackets : Prop :=
(∀ a b c d e, Changes [.regs, .mram, .dp] (.frameReceive a b c d e)) ∧
(∀ a b c d, Changes [.regs, .mram, .dp] (.frameEnd a b c d)) ∧
(∀ a, Changes [.regs, .mram, .dp] (.impositionCopyDone a)) ∧
(∀ a, Changes [.regs, .mram, .dp] (.impositionSwap a)) ∧
(∀ a, Changes [.regs, .mram, .dp] (.impositionCycleStart a)) ∧
(∀ a, Changes [.regs, .mram, .dp] (.lpiEnter a)) ∧
(∀ a, Changes [.regs, .mram, .dp] (.lpiWakeDone a)) ∧
(∀ a b c, Changes [.regs, .mram, .mem, .prf, .hif, .rings, .slc, .dp, .tbl, .tm, .out] (.pipelineEntry a b c)) ∧
(∀ a b, Changes [.regs, .mram, .mem, .prf, .hif, .rings, .slc, .dp, .tbl, .tm, .out] (.fltLookupResult a b)) ∧
(∀ a, Changes [.regs, .mram, .mem, .prf, .hif, .rings, .slc, .dp, .tm, .out] (.enqueue a)) ∧
(∀ a b c d, Changes [.regs, .mram, .mem, .prf, .hif, .rings, .slc, .dp, .tm, .out] (.schedulerSelection a b c d)) ∧
(Changes [.regs, .mram, .mem, .prf, .hif, .rings, .slc, .dp, .tm, .out] .epochSwap) ∧
(∀ a, Changes [.dp] (.spillFetch a)) ∧
(∀ a, Changes [.dp] (.recirculate a)) ∧
(∀ a, Changes [.regs, .mram, .mem, .prf, .hif, .rings, .slc, .dp, .out] (.egressHandoff a)) ∧
(Changes [.regs, .mram, .mem, .prf, .hif, .rings, .slc, .dp, .out] .ageDrop) ∧
(∀ a, Changes [.regs, .mram, .mem, .prf, .hif, .rings, .slc, .dp, .out] (.opticalModuleRemoved a)) ∧
(∀ a b, Changes [.regs, .mram, .mem, .prf, .hif, .rings, .slc, .dp, .out] (.opticalModuleInserted a b)) ∧
(∀ a, Changes [.regs, .mram, .mem, .prf, .hif, .rings, .slc, .dp, .out] (.linkUp a)) ∧
(∀ a, Changes [.regs, .mram, .mem, .prf, .hif, .rings, .slc, .dp, .out] (.linkDown a)) ∧
(∀ a, Changes [.regs, .mram, .mem, .prf, .hif, .rings, .slc, .dp, .out] (.frameLaunch a)) ∧
(∀ a b, Changes [.regs, .mram, .mem, .prf, .hif, .rings, .slc, .dp, .out] (.laneFault a b)) ∧
(∀ a b c, Changes [.regs, .mram, .mem, .prf, .hif, .rings, .slc, .dp, .out] (.txEntry a b c)) ∧
(∀ a, Changes [.regs, .mram, .mem, .prf, .hif, .rings, .slc, .dp, .out] (.hostRxDelivery a)) ∧
(∀ a, Changes [.regs, .mram, .mem, .prf, .hif, .rings, .slc, .out] (.formeOpen a)) ∧
(∀ a b c, Changes [.regs, .mram, .mem, .prf, .hif, .rings, .slc, .frm, .tbl, .out] (.formeLoad a b c)) ∧
(Changes [.regs, .mram, .mem, .prf, .hif, .rings, .slc, .frm, .tbl, .out] .settleSweepDone) ∧
(Changes [.regs, .mram, .mem, .prf, .hif, .rings, .slc, .frm, .tbl, .out] .discardSweepDone) ∧
(∀ a, Changes [.regs, .mram, .mem, .prf, .hif, .rings, .slc, .frm, .out] (.formeLockUp a)) ∧
(∀ a, Changes [.regs, .mram, .mem, .prf, .hif, .rings, .slc, .frm, .out] (.formeDiscard a)) ∧
(Changes [.regs, .mram, .mem, .prf, .hif, .rings, .slc, .frm, .out] .formeRetired) ∧
(Changes [.regs, .mram, .mem, .prf, .hif, .rings, .slc, .frm, .odf, .out] .lockUpCommit) ∧
(∀ a, Changes [.regs, .mram, .prf, .slc, .tm, .out] (.epochGo a)) ∧
(∀ a b, Changes [.regs, .mram, .prf, .slc, .tm, .out] (.policerWrite a b)) ∧
(∀ a b, Changes [.regs, .mram, .prf, .slc, .out] (.policerRead a b)) ∧
(∀ a b, Changes [.regs, .mram, .prf, .slc, .dp, .out] (.impositionGo a b)) ∧
(∀ a b c d e, Changes [.regs, .mram, .prf, .slc, .dp, .out] (.impositionEnable a b c d e)) ∧
(∀ a, Changes [.regs, .mram, .prf] (.opticalModuleFault a)) ∧
(∀ a b, Changes [.regs, .mram] (.linkPartnerLpi a b))

/-- What the rings and the host links leave unchanged: a command that answers a next state has changed at most the parts of State in its
list, whatever its operands and the state; every other part is as it was. -/
def Obligations.FrameRings : Prop :=
(∀ a, Changes [.regs, .mram, .mem, .prf, .hif, .ptm, .pages, .rings, .slc, .dp, .drt, .nve, .out] (.perstAssert a)) ∧
(∀ a, Changes [.regs, .mram, .mem, .prf, .hif, .ptm, .pages, .rings, .slc, .dp, .drt, .nve, .out] (.hotReset a)) ∧
(∀ a b c d e, Changes [.regs, .mram, .mem, .prf, .hif, .rings, .slc, .tbl, .fcx, .cph, .drt, .nve, .out] (.linkTrained a b c d e)) ∧
(∀ a, Changes [.regs, .mram, .mem, .prf, .hif, .pages, .rings, .slc, .dp, .tbl, .fcx, .cph, .drt, .nve, .out] (.flr a)) ∧
(∀ a, Changes [.regs, .mram, .prf, .hif, .out] (.translationMismatch a)) ∧
(∀ a b c d, Changes [.regs, .mram, .prf, .hif, .out] (.receivedTlpError a b c d)) ∧
(∀ a b c, Changes [.regs, .mram, .prf, .hif, .slc, .out] (.interruptUnmask a b c)) ∧
(∀ a b, Changes [.regs, .mram] (.l1Entry a b)) ∧
(∀ a b, Changes [.regs, .mram, .hif] (.l0pWindow a b)) ∧
(∀ a b c d, Changes [.regs, .mram, .prf, .hif, .rings, .slc, .out] (.doorbell a b c d)) ∧
(∀ a b, Changes [.regs, .mram, .prf, .hif, .rings, .slc, .out] (.moderationTimer a b)) ∧
(∀ a b c, Changes [.regs, .mram, .mem, .prf, .hif, .rings, .slc, .out] (.indexLineRead a b c)) ∧
(∀ a b, Changes [.regs, .mram, .mem, .prf, .hif, .rings, .slc, .out] (.entryFetch a b)) ∧
(∀ a, Changes [.regs, .mram, .mem, .prf, .hif, .rings, .slc, .out] (.consumerIndexWrite a)) ∧
(∀ a b, Changes [.regs, .mram, .mem, .prf, .hif, .rings, .slc, .out] (.stashRetry a b)) ∧
(∀ a, Changes [.regs, .mram, .mem, .prf, .hif, .rings, .slc, .out] (.ringEnable a)) ∧
(∀ a, Changes [.regs, .mram, .mem, .prf, .hif, .rings, .slc, .out] (.ringDisable a)) ∧
(∀ a, Changes [.regs, .mram, .mem, .prf, .hif, .rings, .slc, .out] (.ringDrained a)) ∧
(∀ a, Changes [.regs, .mram, .prf, .rings, .slc, .out] (.ringCreate a)) ∧
(∀ a, Changes [.regs, .mram, .prf, .rings, .slc, .out] (.ringDestroy a)) ∧
(∀ a, Changes [.regs, .mram, .prf, .rings, .slc, .out] (.ringModifyIrq a)) ∧
(∀ a, Changes [.regs, .mram, .prf, .slc, .out] (.ringQuery a)) ∧
(∀ a b, Changes [.regs, .mram, .mem, .prf, .hif, .ptm, .pages, .rings, .slc, .dp, .tbl, .fcx, .cph, .drt, .nve, .out]
    (.configurationRequest a b))

/-- What slice commands and register accesses leave unchanged: a command that answers a next state has changed at most the parts of
State in its list, whatever its operands and the state; every other part is as it was. -/
def Obligations.FrameAccesses : Prop :=
(∀ a b c d, Changes [.regs, .mram, .mem, .modes, .prf, .hif, .island, .ptm, .pages, .rings, .slc, .dp, .frm, .tbl, .tm, .fcx, .cph,
    .drt, .nve, .boot, .upd, .odf, .hw, .out, .fuse] (.registerWrite a b c d)) ∧
(∀ a, Changes [.regs, .mram, .mem, .modes, .prf, .hif, .island, .ptm, .pages, .rings, .slc, .dp, .frm, .tbl, .tm, .fcx, .cph, .drt,
    .nve, .boot, .upd, .odf, .hw, .out, .fuse] (.mmioRequest a)) ∧
(∀ a b c, Changes [.regs, .mram, .prf, .slc, .out] (.rcRead a b c)) ∧
(∀ a b, Changes [.regs, .mram, .prf, .slc, .out] (.sliceCreate a b)) ∧
(∀ a b, Changes [.regs, .mram, .prf, .slc, .out] (.sliceStart a b)) ∧
(∀ a b, Changes [.regs, .mram, .prf, .slc, .out] (.sliceResize a b)) ∧
(∀ a b, Changes [.regs, .mram, .prf, .slc, .out] (.sliceQuery a b)) ∧
(∀ a, Changes [.regs, .mram, .prf, .slc, .out] (.actWrite a)) ∧
(∀ a, Changes [.regs, .mram, .prf, .slc, .out] (.actRead a)) ∧
(∀ a b c, Changes [.regs, .mram, .prf, .slc, .out] (.actSealWrite a b c)) ∧
(∀ a, Changes [.regs, .mram, .prf, .slc, .out] (.actLogPop a)) ∧
(∀ a, Changes [.regs, .mram, .mem, .modes, .prf, .hif, .ptm, .pages, .rings, .slc, .dp, .fcx, .cph, .drt, .nve, .boot, .odf, .out]
    (.completionTimeout a)) ∧
(∀ a b, Changes [.regs, .mram, .mem, .modes, .prf, .hif, .ptm, .pages, .rings, .slc, .dp, .fcx, .cph, .drt, .nve, .boot, .odf, .out]
    (.readFailure a b)) ∧
(∀ a b, Changes [.regs, .mram, .prf, .rings, .slc, .fcx, .out] (.sliceReset a b)) ∧
(∀ a b, Changes [.regs, .mram, .prf, .rings, .slc, .fcx, .out] (.sliceDestroy a b)) ∧
(∀ a b, Changes [.regs, .mram, .prf, .hif, .slc, .out] (.setWindow a b)) ∧
(∀ a b c, Changes [.regs, .mram, .mem, .prf, .hif, .rings, .slc, .dp, .fcx, .cph, .drt, .nve, .out] (.sliceBlockDrained a b c)) ∧
(∀ a, Changes [.rings, .slc, .dp] (.sliceSilenceDone a)) ∧
(∀ a, Changes [.regs, .mram, .slc] (.sliceResetEnd a)) ∧
(∀ a, Changes [.regs, .mram, .mem, .prf, .hif, .rings, .slc, .tbl, .fcx, .cph, .drt, .nve, .out] (.sliceRemovalDone a)) ∧
(∀ a b c d e, Changes [.odf, .out] (.memberWindowAccess a b c d e)) ∧
(Changes [.regs, .mram, .odf, .out] .memberAccessTimeout)

/-- What the commands and events of the time service leave unchanged: a command that answers a next state has changed at most the parts
of State in its list, whatever its operands and the state; every other part is as it was. -/
def Obligations.FrameIsland : Prop :=
(∀ a b, Changes [.regs, .mram, .prf, .island, .slc, .out] (.tsvRateWrite a b)) ∧
(∀ a b c d, Changes [.regs, .mram, .prf, .island, .slc, .out] (.tsvServoWrite a b c d)) ∧
(∀ a b, Changes [.regs, .mram, .prf, .island, .slc, .out] (.tsvSlew a b)) ∧
(∀ a b, Changes [.regs, .mram, .prf, .island, .slc, .out] (.tsvStep a b)) ∧
(∀ a b, Changes [.regs, .mram, .prf, .island, .slc, .out] (.tsvSet a b)) ∧
(∀ a b, Changes [.regs, .mram, .prf, .island, .slc, .out] (.setAtPps a b)) ∧
(∀ a b, Changes [.regs, .mram, .prf, .island, .slc, .out] (.islandReset a b)) ∧
(∀ a b, Changes [.regs, .mram, .island] (.ppsInEdge a b)) ∧
(Changes [.regs, .mram, .island] .ppsWindowMissed) ∧
(∀ a, Changes [.regs, .mram, .island] (.referenceQualified a)) ∧
(∀ a, Changes [.regs, .mram, .island] (.referenceDisqualified a)) ∧
(∀ a, Changes [.regs, .mram, .prf, .island] (.counterMismatch a)) ∧
(Changes [.regs, .mram, .prf, .island] .servoBeatTimeout) ∧
(∀ a b, Changes [.regs, .mram, .prf, .island] (.replicaCheck a b)) ∧
(∀ a, Changes [.regs, .mram, .island, .drt] (.uRefEvaluation a)) ∧
(∀ a, Changes [.island] (.replicaRealigned a)) ∧
(Changes [.island] .timeSnapshotPublish) ∧
(∀ a b c, Changes [.regs, .mram, .prf, .slc, .out] (.snapshotLatch a b c)) ∧
(∀ a, Changes [.island, .out] (.ppsOutputEdge a)) ∧
(∀ a b c, Changes [.ptm] (.ptmDialogue a b c)) ∧
(∀ a, Changes [.ptm] (.ptmStale a)) ∧
(∀ a, Changes [.regs, .mram, .pages] (.timePageEnable a)) ∧
(∀ a, Changes [.regs, .mram, .pages] (.timePageDisable a)) ∧
(∀ a b, Changes [.regs, .mram, .mem, .prf, .hif, .pages, .slc, .out] (.timePageWrite a b))

/-- What modes, resets and the Proofreader leave unchanged: a command that answers a next state has changed at most the parts of State
in its list, whatever its operands and the state; every other part is as it was. -/
def Obligations.FrameModes : Prop :=
(∀ a b, Changes [.regs, .mram, .mem, .modes, .prf, .hif, .ptm, .pages, .rings, .slc, .dp, .frm, .tbl, .tm, .fcx, .cph, .drt, .nve,
    .boot, .upd, .odf, .hw, .out] (.modeRequestGo a b)) ∧
(∀ a b, Changes [.regs, .mram, .mem, .modes, .prf, .hif, .ptm, .pages, .rings, .slc, .dp, .frm, .tbl, .tm, .fcx, .cph, .drt, .nve,
    .boot, .upd, .odf, .hw, .out] (.resetColdRequest a b)) ∧
(∀ a b, Changes [.regs, .mram, .mem, .modes, .prf, .hif, .ptm, .pages, .rings, .slc, .dp, .frm, .tbl, .tm, .fcx, .cph, .drt, .nve,
    .boot, .upd, .odf, .hw, .out] (.resetWarmRequest a b)) ∧
(∀ a b, Changes [.regs, .mram, .mem, .modes, .prf, .hif, .ptm, .pages, .rings, .slc, .dp, .frm, .tbl, .tm, .fcx, .cph, .drt, .nve,
    .boot, .upd, .odf, .hw, .out] (.resetDatapathRequest a b)) ∧
(Changes [.regs, .mram, .mem, .modes, .prf, .hif, .ptm, .pages, .rings, .slc, .dp, .frm, .tbl, .tm, .fcx, .cph, .drt, .nve, .boot, .upd,
    .odf, .hw, .out] .flushDone) ∧
(Changes [.regs, .mram, .mem, .modes, .prf, .hif, .ptm, .pages, .rings, .slc, .dp, .frm, .tbl, .tm, .fcx, .cph, .drt, .nve, .boot, .upd,
    .odf, .hw, .out] .flushTimeout) ∧
(∀ a b c d, Changes [.regs, .mram, .mem, .modes, .prf, .hif, .ptm, .pages, .rings, .slc, .dp, .frm, .tbl, .tm, .fcx, .cph, .drt, .nve,
    .boot, .upd, .odf, .hw, .out] (.faultEvent a b c d)) ∧
(Changes [.regs, .mram, .mem, .modes, .prf, .hif, .ptm, .pages, .rings, .slc, .dp, .frm, .tbl, .tm, .fcx, .cph, .drt, .nve, .boot, .upd,
    .odf, .hw, .out] .selfTestFatalRetry) ∧
(∀ a, Changes [.regs, .mram, .mem, .modes, .prf, .hif, .rings, .slc, .upd, .out] (.claim a)) ∧
(∀ a, Changes [.regs, .mram, .mem, .modes, .prf, .hif, .rings, .slc, .upd, .out] (.release a)) ∧
(Changes [.regs, .mram, .mem, .modes, .prf, .hif, .ptm, .pages, .rings, .slc, .dp, .frm, .tbl, .tm, .fcx, .cph, .drt, .nve, .odf, .out]
    .modeCommit) ∧
(∀ a, Changes [.regs, .mram, .modes] (.hostPwrGoodChange a)) ∧
(Changes [.regs, .mram, .modes] .standbyEntryDebounce) ∧
(Changes [.regs, .mram, .modes] .standbyExitDebounce) ∧
(Changes [.regs, .mram, .modes, .prf] .resetRelease) ∧
(Changes [.regs, .mram, .mem, .modes, .prf, .hif, .rings, .slc, .dp, .tbl, .tm, .drt, .nve, .out] .dResetDone) ∧
(∀ a b, Changes [.regs, .mram, .prf, .out] (.correctedEvent a b)) ∧
(Changes [.regs, .mram, .prf, .out] .safelightBoundary) ∧
(∀ a b c d, Changes [.regs, .mram, .prf, .slc, .out] (.faultAck a b c d)) ∧
(∀ a b, Changes [.regs, .mram, .prf, .slc, .out] (.prfSliceLift a b)) ∧
(∀ a b, Changes [.regs, .mram, .prf, .slc, .out] (.safelightFeed a b)) ∧
(∀ a b, Changes [.regs, .mram, .prf, .slc, .out] (.repairLogRead a b)) ∧
(∀ a b c, Changes [.regs, .mram, .prf, .slc, .out] (.errorInject a b c)) ∧
(Changes [.regs, .mram, .prf] .safelightFeedTimeout) ∧
(Changes [.regs, .mram, .prf] .clockDeviation) ∧
(∀ a b c d e, Changes [.regs, .mram, .prf] (.patrolScrub a b c d e)) ∧
(∀ a b, Changes [.regs, .mram, .prf] (.unitFailure a b)) ∧
(∀ a b, Changes [.regs, .mram, .modes, .prf, .out] (.selfTest a b))

/-- What boot, measurement and update leave unchanged: a command that answers a next state has changed at most the parts of State in its
list, whatever its operands and the state; every other part is as it was. -/
def Obligations.FrameImages : Prop :=
(∀ a, Changes [.regs, .mram, .mem, .modes, .prf, .hif, .ptm, .pages, .rings, .slc, .dp, .drt, .nve, .boot, .odf, .out] (.romStart a)) ∧
(Changes [.regs, .mram, .mem, .modes, .prf, .hif, .ptm, .pages, .rings, .slc, .dp, .drt, .nve, .boot, .odf, .out] .sourceWaitTimeout) ∧
(∀ a b, Changes [.boot, .out] (.recGo a b)) ∧
(Changes [.boot] .tftpImageWrite) ∧
(∀ a, Changes [.boot] (.odferImageOffer a)) ∧
(Changes [.boot] .recoveryWindowClose) ∧
(∀ a, Changes [.regs, .mram, .mem, .modes, .prf, .hif, .ptm, .pages, .rings, .slc, .dp, .frm, .tbl, .tm, .fcx, .cph, .drt, .nve, .boot,
    .upd, .odf, .hw, .out] (.imageReceived a)) ∧
(Changes [.regs, .mram, .mem, .modes, .prf, .hif, .ptm, .pages, .rings, .slc, .dp, .frm, .tbl, .tm, .fcx, .cph, .drt, .nve, .boot, .upd,
    .odf, .hw, .out] .bootWatchdog) ∧
(∀ a, Changes [.regs, .mram, .mem, .modes, .prf, .hif, .ptm, .pages, .rings, .slc, .dp, .frm, .tbl, .tm, .fcx, .cph, .drt, .nve, .boot,
    .upd, .odf, .hw, .out] (.bootDone a)) ∧
(∀ a, Changes [.regs, .mram, .mem, .modes, .prf, .hif, .ptm, .pages, .rings, .slc, .dp, .frm, .tbl, .tm, .fcx, .cph, .drt, .nve, .boot,
    .upd, .odf, .hw, .out] (.bootFail a)) ∧
(Changes [.regs, .mram, .mem, .modes, .prf, .hif, .ptm, .pages, .rings, .slc, .dp, .frm, .tbl, .tm, .fcx, .cph, .drt, .nve, .boot, .upd,
    .odf, .hw, .out] .darkroomRetry) ∧
(∀ a, Changes [.regs, .mram, .mem, .modes, .prf, .hif, .ptm, .pages, .rings, .slc, .dp, .frm, .tbl, .tm, .fcx, .cph, .drt, .nve, .boot,
    .upd, .odf, .hw, .out] (.activateCommit a)) ∧
(Changes [.regs, .mram, .mem, .modes, .prf, .hif, .ptm, .pages, .rings, .slc, .dp, .frm, .tbl, .tm, .fcx, .cph, .drt, .nve, .boot, .upd,
    .odf, .hw, .out] .activateTimeout) ∧
(Changes [.regs, .mram, .modes, .boot] .romHandover) ∧
(∀ a b, Changes [.regs, .mram, .prf, .slc, .out] (.measRead a b)) ∧
(∀ a b, Changes [.regs, .mram, .prf, .slc, .out] (.measLogRead a b)) ∧
(∀ a b, Changes [.regs, .mram, .prf, .slc, .out] (.updPrefer a b)) ∧
(∀ a b, Changes [.regs, .mram, .prf, .slc, .out] (.ownerLock a b)) ∧
(∀ a b, Changes [.regs, .mram, .prf, .slc, .out] (.ownerUnlock a b)) ∧
(∀ a b, Changes [.regs, .mram, .prf, .slc, .boot, .out] (.measExtend a b)) ∧
(∀ a b, Changes [.regs, .mram, .prf, .slc, .boot, .out] (.enrollOwner a b)) ∧
(∀ a b, Changes [.regs, .mram, .mem, .prf, .slc, .upd, .out] (.updOpen a b)) ∧
(∀ a b, Changes [.regs, .mram, .mem, .prf, .slc, .upd, .out] (.updWrite a b)) ∧
(∀ a b, Changes [.regs, .mram, .mem, .prf, .slc, .upd, .out] (.updClose a b)) ∧
(∀ a b, Changes [.regs, .mram, .mem, .prf, .slc, .upd, .out] (.updInvalidate a b)) ∧
(∀ a b c, Changes [.regs, .mram, .mem, .prf, .hif, .slc, .nve, .upd, .out] (.updActivate a b c)) ∧
(∀ a b, Changes [.regs, .mram, .prf, .slc, .out, .fuse] (.revokeKey a b)) ∧
(∀ a b, Changes [.regs, .mram, .prf, .slc, .out, .fuse] (.advanceSvn a b))

/-- What power, the host control, the management port and the cascade leave unchanged: a command that answers a next state has changed
at most the parts of State in its list, whatever its operands and the state; every other part is as it was. -/
def Obligations.FrameHardware : Prop :=
(Changes [.regs, .mram, .modes] .cascadeLinksSilent) ∧
(Changes [.regs, .mram, .modes, .hw] .acFail) ∧
(Changes [.regs, .mram, .modes, .hw] .acFailClear) ∧
(Changes [.regs, .mram, .modes, .hw] .acReturn) ∧
(∀ a, Changes [.regs, .mram, .modes, .hw] (.thermalRestart a)) ∧
(Changes [.modes] .acFailMramWindowEnd) ∧
(Changes [.regs, .mram, .mem, .modes, .prf, .hif, .ptm, .pages, .rings, .slc, .dp, .frm, .tbl, .tm, .fcx, .cph, .drt, .nve, .boot, .upd,
    .odf, .hw, .out] .acRailsDown) ∧
(∀ a, Changes [.regs, .mram, .mem, .modes, .prf, .hif, .ptm, .pages, .rings, .slc, .dp, .frm, .tbl, .tm, .fcx, .cph, .drt, .nve, .boot,
    .upd, .odf, .hw, .out] (.redfishReset a)) ∧
(Changes [.regs, .mram, .mem, .modes, .prf, .hif, .island, .ptm, .pages, .rings, .slc, .dp, .frm, .tbl, .tm, .fcx, .cph, .drt, .nve,
    .boot, .upd, .odf, .hw] .reserveExhausted) ∧
(Changes [.regs, .mram] .reserveFull) ∧
(∀ a, Changes [.regs, .mram] (.thermalAlarmClear a)) ∧
(Changes [.regs, .mram, .odf, .out] .agreementRecordSend) ∧
(Changes [.regs, .mram, .odf, .out] .memberSilent) ∧
(∀ a b c d e f, Changes [.regs, .mram, .modes, .odf, .out] (.agreementRecordReceive a b c d e f)) ∧
(Changes [.regs, .mram, .modes, .odf, .out] .masterSilent) ∧
(∀ a b, Changes [.regs, .mram, .mem, .modes, .prf, .hif, .ptm, .pages, .rings, .slc, .dp, .drt, .nve, .boot, .odf, .out] (.odferLinkDown
    a b)) ∧
(∀ a b, Changes [.regs, .mram, .prf, .slc, .frm, .odf, .out] (.odfLockup a b)) ∧
(∀ a, Changes [.regs, .mram, .prf, .slc, .tbl, .odf, .out] (.repartition a)) ∧
(∀ a, Changes [.regs, .mram, .prf, .slc, .odf, .out] (.handback a)) ∧
(Changes [.regs, .mram, .tbl, .odf, .out] .repartitionHoldExpire) ∧
(∀ a b, Changes [.regs, .mram, .mem, .prf, .hif, .rings, .slc, .dp, .tm, .out] (.odferFrameReceive a b)) ∧
(∀ a b c d e, Changes [.regs, .mram, .mem, .prf, .hif, .rings, .slc, .tbl, .out] (.farLookupRequest a b c d e)) ∧
(∀ a b c d, Changes [.regs, .mram, .mem, .prf, .hif, .rings, .slc, .dp, .tbl, .out] (.farLookupResult a b c d)) ∧
(∀ a, Changes [.regs, .mram, .dp] (.farLookupTimeout a)) ∧
(∀ a b, Changes [.regs, .mram, .prf, .slc, .hw, .out] (.hostOn a b)) ∧
(∀ a b, Changes [.regs, .mram, .prf, .slc, .hw, .out] (.hostOff a b)) ∧
(∀ a b, Changes [.regs, .mram, .prf, .slc, .hw, .out] (.hostForceOff a b)) ∧
(∀ a b, Changes [.regs, .mram, .prf, .slc, .hw, .out] (.hostReset a b)) ∧
(∀ a b, Changes [.regs, .mram, .prf, .slc, .hw, .out] (.hostCycle a b)) ∧
(∀ a b, Changes [.regs, .mram, .prf, .slc, .hw, .out] (.hostAuxOff a b)) ∧
(Changes [.regs, .mram, .hw, .out] .hostPowerOpEnd) ∧
(Changes [.regs, .mram, .hw, .out] .hostWake) ∧
(Changes [.regs, .mram, .hw, .out] .hostPowerPolicyApply) ∧
(∀ a, Changes [.regs, .mram, .prf] (.thermalAlarm a)) ∧
(∀ a, Changes [.regs, .mram, .prf] (.thermalCritical a)) ∧
(Changes [.regs, .mram, .prf] .psuFault) ∧
(∀ a, Changes [.regs, .mram, .mem, .modes, .prf, .hif, .ptm, .pages, .rings, .slc, .dp, .frm, .tbl, .tm, .fcx, .cph, .drt, .nve, .boot,
    .upd, .odf, .hw] (.thermalTrip a)) ∧
(∀ a b, Changes [.regs, .mram, .mem, .prf, .out] (.mgmtFrameReceive a b)) ∧
(∀ a b, Changes [.regs, .mram, .mem, .prf, .out] (.mgmtLinkChange a b)) ∧
(∀ a b c, Changes [.regs, .mram, .mem, .prf, .slc, .out] (.mgmtTransmit a b c)) ∧
(∀ a b c, Changes [.hw, .out] (.smbusTransaction a b c))

/-- What the flow cores leave unchanged: a command that answers a next state has changed at most the parts of State in its list,
whatever its operands and the state; every other part is as it was. -/
def Obligations.FrameCores : Prop :=
(∀ a b c, Changes [.fcx] (.channelOpen a b c)) ∧
(∀ a b c, Changes [.regs, .mram, .prf, .fcx, .cph, .out] (.channelWrite a b c)) ∧
(∀ a b, Changes [.regs, .mram, .prf, .fcx, .cph, .out] (.channelCommit a b)) ∧
(∀ a b c, Changes [.regs, .mram, .prf, .fcx, .cph, .out] (.channelReceive a b c)) ∧
(∀ a b, Changes [.regs, .mram, .prf, .fcx, .cph, .out] (.coreTime a b)) ∧
(∀ a b, Changes [.regs, .mram, .prf, .fcx, .cph, .out] (.coreTimer a b)) ∧
(∀ a, Changes [.regs, .mram, .prf, .fcx, .cph, .out] (.timerExpire a)) ∧
(∀ a b, Changes [.regs, .mram, .prf, .fcx, .cph, .out] (.startDone a b)) ∧
(∀ a b, Changes [.regs, .mram, .prf, .fcx, .cph, .out] (.threadRestart a b)) ∧
(∀ a b, Changes [.regs, .mram, .prf, .fcx, .cph, .out] (.threadStop a b)) ∧
(∀ a b, Changes [.regs, .mram, .prf, .fcx, .cph, .out] (.readEvents a b)) ∧
(∀ a b, Changes [.regs, .mram, .prf, .fcx, .cph, .out] (.pbfRead a b)) ∧
(∀ a b c d, Changes [.regs, .mram, .prf, .fcx, .cph, .out] (.threadFault a b c d)) ∧
(∀ a, Changes [.regs, .mram, .prf, .fcx, .cph, .out] (.deadlock a)) ∧
(Changes [.regs, .mram, .prf, .fcx, .cph, .out] .globalDeadlockSample) ∧
(∀ a b, Changes [.regs, .mram, .prf, .fcx, .cph, .out] (.threadHeld a b)) ∧
(∀ a, Changes [.regs, .mram, .prf, .fcx, .cph, .out] (.coreLoadGroupDone a)) ∧
(∀ a, Changes [.regs, .mram, .prf, .fcx, .cph, .out] (.startupTimeout a)) ∧
(∀ a, Changes [.regs, .mram, .mem, .prf, .hif, .rings, .slc, .dp, .fcx, .cph, .out] (.packetDelivery a)) ∧
(∀ a b, Changes [.regs, .mram, .mem, .prf, .hif, .rings, .slc, .dp, .fcx, .cph, .out] (.pbfFree a b)) ∧
(∀ a b c d, Changes [.regs, .mram, .mem, .prf, .hif, .rings, .slc, .dp, .fcx, .cph, .out] (.coreLoad a b c d)) ∧
(∀ a b, Changes [.regs, .mram, .mem, .prf, .hif, .rings, .slc, .dp, .fcx, .cph, .out] (.resetCore a b)) ∧
(∀ a b, Changes [.regs, .mram, .prf, .dp, .fcx, .cph, .out] (.pbfWrite a b)) ∧
(∀ a b, Changes [.regs, .mram, .prf, .dp, .fcx, .cph, .out] (.pbfInject a b)) ∧
(∀ a b, Changes [.regs, .mram, .prf, .dp, .fcx, .cph, .out] (.pbfAlloc a b)) ∧
(∀ a b, Changes [.regs, .mram, .prf, .slc, .fcx, .cph, .out] (.memRead a b)) ∧
(∀ a b c, Changes [.regs, .mram, .prf, .slc, .fcx, .cph, .out] (.dbgStop a b c)) ∧
(∀ a b c, Changes [.regs, .mram, .prf, .slc, .fcx, .cph, .out] (.dbgResume a b c)) ∧
(∀ a b c, Changes [.regs, .mram, .prf, .slc, .fcx, .cph, .out] (.dbgStep a b c)) ∧
(∀ a b c d, Changes [.regs, .mram, .prf, .slc, .fcx, .cph, .out] (.dbgRead a b c d)) ∧
(∀ a b c d, Changes [.regs, .mram, .prf, .slc, .fcx, .cph, .out] (.dbgWrite a b c d)) ∧
(∀ a b, Changes [.regs, .mram, .mem, .prf, .slc, .fcx, .cph, .out] (.memWrite a b)) ∧
(∀ a b c d, Changes [.out] (.gmul a b c d)) ∧
(∀ a b c, Changes [.out] (.xmul a b c)) ∧
(∀ a b c d e f g h i, Changes [.regs, .mram, .mem, .prf, .hif, .slc, .fcx, .cph, .out] (.hostEndpointRequest a b c d e f g h i))

/-- What the cipher array leaves unchanged: a command that answers a next state has changed at most the parts of State in its list,
whatever its operands and the state; every other part is as it was. -/
def Obligations.FrameCipher : Prop :=
(∀ a b, Changes [.regs, .mram, .mem, .prf, .hif, .rings, .slc, .fcx, .cph, .out] (.encrypt a b)) ∧
(∀ a b, Changes [.regs, .mram, .mem, .prf, .hif, .rings, .slc, .fcx, .cph, .out] (.decrypt a b)) ∧
(∀ a b, Changes [.regs, .mram, .mem, .prf, .hif, .rings, .slc, .fcx, .cph, .out] (.derive a b)) ∧
(Changes [.regs, .mram, .cph] .cipherDispatch) ∧
(Changes [.regs, .mram, .cph] .cipherResume) ∧
(Changes [.regs, .mram, .cph] .descriptorPriorityRaise) ∧
(∀ a, Changes [.regs, .mram, .cph] (.drbgReseed a)) ∧
(Changes [.regs, .mram, .prf, .fcx, .cph, .drt, .out] .cipherComplete) ∧
(∀ a b, Changes [.regs, .mram, .mem, .prf, .hif, .rings, .slc, .fcx, .cph, .drt, .out] (.keyLoad a b)) ∧
(∀ a b c, Changes [.regs, .mram, .mem, .prf, .hif, .rings, .slc, .fcx, .cph, .drt, .out] (.keyUnwrap a b c)) ∧
(∀ a b, Changes [.regs, .mram, .mem, .prf, .hif, .rings, .slc, .fcx, .cph, .drt, .out] (.keyErase a b)) ∧
(∀ a b, Changes [.regs, .mram, .mem, .prf, .hif, .rings, .slc, .cph, .out] (.keyAttr a b)) ∧
(Changes [.regs, .mram, .mem, .prf, .hif, .rings, .slc, .cph, .out] .entropyRecovered) ∧
(∀ a b, Changes [.regs, .mram, .mem, .prf, .hif, .rings, .slc, .out] (.keyQuery a b)) ∧
(∀ a, Changes [.regs, .mram, .mem, .prf, .hif, .rings, .slc, .out] (.entropyFailure a)) ∧
(∀ a b c, Changes [.regs, .mram, .prf, .slc, .out] (.cphRngRead a b c)) ∧
(Changes [.regs, .mram, .prf, .fcx, .cph, .out] .cipherEntropyTimeout) ∧
(∀ a b, Changes [.regs, .mram, .prf, .fcx, .cph, .out] (.unitKnownAnswerTest a b))

/-- What the Drugrim transport leaves unchanged: a command that answers a next state has changed at most the parts of State in its list,
whatever its operands and the state; every other part is as it was. -/
def Obligations.FrameTransport : Prop :=
(∀ a b c, Changes [.regs, .mram, .mem, .prf, .hif, .rings, .slc, .cph, .drt, .out] (.drtWrite a b c)) ∧
(∀ a b c, Changes [.regs, .mram, .mem, .prf, .hif, .rings, .slc, .cph, .drt, .out] (.drtWriteImm a b c)) ∧
(∀ a b c, Changes [.regs, .mram, .mem, .prf, .hif, .rings, .slc, .cph, .drt, .out] (.drtRead a b c)) ∧
(∀ a b, Changes [.regs, .mram, .mem, .prf, .hif, .rings, .slc, .cph, .drt, .out] (.dataReceive a b)) ∧
(∀ a b, Changes [.regs, .mram, .mem, .prf, .hif, .rings, .slc, .cph, .drt, .out] (.readReqReceive a b)) ∧
(∀ a b, Changes [.regs, .mram, .mem, .prf, .hif, .rings, .slc, .dp, .drt, .nve, .out] (.drugrimPacketSend a b)) ∧
(∀ a b, Changes [.regs, .mram, .mem, .prf, .hif, .rings, .slc, .drt, .nve, .out] (.readRespReceive a b)) ∧
(∀ a b, Changes [.regs, .mram, .mem, .prf, .hif, .rings, .slc, .drt, .nve, .out] (.ackReceive a b)) ∧
(∀ a b, Changes [.regs, .mram, .mem, .prf, .hif, .rings, .slc, .drt, .nve, .out] (.errorReceive a b)) ∧
(∀ a, Changes [.regs, .mram, .mem, .prf, .hif, .rings, .slc, .drt, .nve, .out] (.retransmitTimeout a)) ∧
(∀ a, Changes [.regs, .mram, .mem, .prf, .hif, .rings, .slc, .drt, .nve, .out] (.messageDeadline a)) ∧
(∀ a, Changes [.regs, .mram, .mem, .prf, .hif, .rings, .slc, .drt, .nve, .out] (.epDestroy a)) ∧
(∀ a, Changes [.regs, .mram, .mem, .prf, .hif, .rings, .slc, .drt, .nve, .out] (.transportDisable a)) ∧
(∀ a b, Changes [.drt] (.ackTimer a b)) ∧
(∀ a b, Changes [.regs, .mram, .mem, .prf, .hif, .rings, .slc, .drt, .out] (.recordExpire a b)) ∧
(∀ a b, Changes [.regs, .mram, .mem, .prf, .hif, .rings, .slc, .drt, .out] (.notBeforeRelease a b)) ∧
(∀ a b, Changes [.regs, .mram, .mem, .prf, .hif, .rings, .slc, .drt, .out] (.heldTimeout a b)) ∧
(∀ a, Changes [.regs, .mram, .mem, .prf, .hif, .rings, .slc, .drt, .out] (.epCreate a)) ∧
(∀ a, Changes [.regs, .mram, .mem, .prf, .hif, .rings, .slc, .drt, .out] (.regionReg a)) ∧
(∀ a, Changes [.regs, .mram, .mem, .prf, .hif, .rings, .slc, .drt, .out] (.regionRevoke a)) ∧
(∀ a, Changes [.regs, .mram, .mem, .prf, .hif, .rings, .slc, .drt, .out] (.domainSet a)) ∧
(∀ a, Changes [.regs, .mram, .mem, .prf, .hif, .rings, .slc, .drt, .out] (.domainNext a)) ∧
(∀ a, Changes [.regs, .mram, .mem, .prf, .hif, .rings, .slc, .drt, .out] (.domainPromote a)) ∧
(∀ a, Changes [.regs, .mram, .mem, .prf, .hif, .rings, .slc, .drt, .out] (.domainDropPrev a)) ∧
(∀ a b, Changes [.regs, .mram, .drt] (.tombstoneFree a b)) ∧
(Changes [.regs, .mram] .settleEnd) ∧
(∀ a, Changes [.regs, .mram, .mem, .prf, .hif, .rings, .slc, .out] (.regionRead a))

/-- What the NVMe functions leave unchanged: a command that answers a next state has changed at most the parts of State in its list,
whatever its operands and the state; every other part is as it was. -/
def Obligations.FrameNvme : Prop :=
(∀ a b, Changes [.nve] (.controllerEnable a b)) ∧
(∀ a, Changes [.nve] (.apstIdle a)) ∧
(Changes [.nve] .smartCounterUpdate) ∧
(∀ a, Changes [.regs, .mram, .mem, .prf, .hif, .rings, .slc, .cph, .drt, .nve, .out] (.controllerReset a)) ∧
(∀ a, Changes [.regs, .mram, .mem, .prf, .hif, .rings, .slc, .cph, .drt, .nve, .out] (.controllerResetTimeout a)) ∧
(∀ a, Changes [.regs, .mram, .mem, .prf, .hif, .rings, .slc, .cph, .drt, .nve, .out] (.normalShutdown a)) ∧
(∀ a, Changes [.regs, .mram, .mem, .prf, .hif, .rings, .slc, .cph, .drt, .nve, .out] (.abruptShutdown a)) ∧
(∀ a b c d e, Changes [.regs, .mram, .mem, .prf, .hif, .rings, .slc, .cph, .drt, .nve, .out] (.nvmeDoorbell a b c d e)) ∧
(∀ a, Changes [.regs, .mram, .mem, .prf, .hif, .rings, .slc, .cph, .drt, .nve, .out] (.deleteIoSubmissionQueue a)) ∧
(∀ a, Changes [.regs, .mram, .mem, .prf, .hif, .rings, .slc, .cph, .drt, .nve, .out] (.createIoSubmissionQueue a)) ∧
(∀ a b, Changes [.regs, .mram, .mem, .prf, .hif, .rings, .slc, .cph, .drt, .nve, .out] (.getLogPage a b)) ∧
(∀ a, Changes [.regs, .mram, .mem, .prf, .hif, .rings, .slc, .cph, .drt, .nve, .out] (.deleteIoCompletionQueue a)) ∧
(∀ a, Changes [.regs, .mram, .mem, .prf, .hif, .rings, .slc, .cph, .drt, .nve, .out] (.createIoCompletionQueue a)) ∧
(∀ a b, Changes [.regs, .mram, .mem, .prf, .hif, .rings, .slc, .cph, .drt, .nve, .out] (.nvmeIdentify a b)) ∧
(∀ a, Changes [.regs, .mram, .mem, .prf, .hif, .rings, .slc, .cph, .drt, .nve, .out] (.nvmeAbort a)) ∧
(∀ a, Changes [.regs, .mram, .mem, .prf, .hif, .rings, .slc, .cph, .drt, .nve, .out] (.asynchronousEventRequest a)) ∧
(∀ a b c, Changes [.regs, .mram, .mem, .prf, .hif, .rings, .slc, .cph, .drt, .nve, .out] (.setFeatures a b c)) ∧
(∀ a b, Changes [.regs, .mram, .mem, .prf, .hif, .rings, .slc, .cph, .drt, .nve, .out] (.getFeatures a b)) ∧
(∀ a b c, Changes [.regs, .mram, .mem, .prf, .hif, .rings, .slc, .cph, .drt, .nve, .out] (.firmwareImageDownload a b c)) ∧
(∀ a b, Changes [.regs, .mram, .mem, .prf, .hif, .rings, .slc, .cph, .drt, .nve, .out] (.nvmeFlush a b)) ∧
(∀ a b c d e, Changes [.regs, .mram, .mem, .prf, .hif, .rings, .slc, .cph, .drt, .nve, .out] (.nvmeWrite a b c d e)) ∧
(∀ a b c d, Changes [.regs, .mram, .mem, .prf, .hif, .rings, .slc, .cph, .drt, .nve, .out] (.nvmeRead a b c d)) ∧
(∀ a b c, Changes [.regs, .mram, .mem, .prf, .hif, .rings, .slc, .cph, .drt, .nve, .out] (.nvmeWriteZeroes a b c)) ∧
(∀ a, Changes [.regs, .mram, .mem, .prf, .hif, .rings, .slc, .cph, .drt, .nve, .out] (.backendReadDone a)) ∧
(∀ a, Changes [.regs, .mram, .mem, .prf, .hif, .rings, .slc, .cph, .drt, .nve, .out] (.destageDone a)) ∧
(∀ a b, Changes [.regs, .mram, .mem, .prf, .hif, .rings, .slc, .cph, .drt, .nve, .out] (.destageRetry a b)) ∧
(∀ a b, Changes [.regs, .mram, .mem, .prf, .hif, .rings, .slc, .cph, .drt, .nve, .out] (.nsCreate a b)) ∧
(∀ a b, Changes [.regs, .mram, .mem, .prf, .hif, .rings, .slc, .cph, .drt, .nve, .out] (.nsDelete a b)) ∧
(∀ a b c d, Changes [.regs, .mram, .mem, .prf, .hif, .rings, .slc, .cph, .drt, .nve, .out] (.nsAttach a b c d)) ∧
(∀ a b, Changes [.regs, .mram, .mem, .prf, .hif, .rings, .slc, .cph, .drt, .nve, .out] (.nsDetach a b)) ∧
(∀ a b, Changes [.regs, .mram, .mem, .prf, .hif, .rings, .slc, .cph, .drt, .nve, .out] (.nsQuery a b)) ∧
(∀ a b, Changes [.regs, .mram, .mem, .prf, .hif, .rings, .slc, .cph, .drt, .nve, .out] (.clearFault a b)) ∧
(∀ a, Changes [.regs, .mram, .mem, .prf, .hif, .rings, .slc, .cph, .drt, .nve, .out] (.backendWriteDone a)) ∧
(∀ a, Changes [.regs, .mram, .mem, .prf, .hif, .rings, .slc, .cph, .drt, .nve, .upd, .out] (.firmwareCommit a)) ∧
(∀ a, Changes [.regs, .mram, .mem, .prf, .hif, .slc, .nve, .out] (.destageFailureWarning a)) ∧
(∀ a b, Changes [.regs, .mram, .mem, .prf, .hif, .slc, .nve, .out] (.temperatureThreshold a b))
end

