-- ==== Sys2Proof/Laws/Tab.lean ====
section
/-! SUPPORT. The laws of the sparse table: what is read after a write, and that every operation keeps the keys rising. -/

namespace Sys2Proof.Machine

variable {α : Type}

/-! ### Reading after writing -/

@[simp] theorem Tab.look_nil (q : Nat) : Tab.look ([] : Tab α) q = none := rfl

@[simp] theorem Tab.look_put_same (t : Tab α) (q : Nat) (x : α) : Tab.look (Tab.put t q x) q = some x := by
  induction t with
  | nil => simp [Tab.put, Tab.look]
  | cons p t ih =>
    simp only [Tab.put]
    split
    · simp_all [Tab.look]
    · split
      · simp [Tab.look]
      · simp_all [Tab.look]

theorem Tab.look_put_other (t : Tab α) {q q' : Nat} (x : α) (h : q' ≠ q) : Tab.look (Tab.put t q x) q' = Tab.look t q' := by
  induction t with
  | nil => simp [Tab.put, Tab.look, h]
  | cons p t ih =>
    simp only [Tab.put]
    split
    · subst_vars; simp [Tab.look, h]
    · split
      · simp only [Tab.look, h, if_false]
        grind
      · simp [Tab.look, ih]

/-! ### Rising keys -/

theorem Tab.sorted_iff (t : Tab α) : Tab.sorted t = true ↔ (t.map Prod.fst).Pairwise (· < ·) := by
  induction t with
  | nil => simp [Tab.sorted]
  | cons p t ih =>
    cases t with
    | nil => simp [Tab.sorted]
    | cons p' t' =>
      simp only [Tab.sorted, Bool.and_eq_true, decide_eq_true_eq, ih, List.map_cons, List.pairwise_cons]
      refine ⟨fun h => ⟨fun a ha => ?_, h.2⟩, fun h => ⟨h.1 _ (by simp), h.2⟩⟩
      simp only [List.mem_cons] at ha
      rcases ha with rfl | ha
      · exact h.1
      · exact Nat.lt_trans h.1 (h.2.1 a ha)

theorem Tab.sorted_cons (k : Nat) (v : α) (t : Tab α) :
    Tab.sorted ((k, v) :: t) = true ↔ (∀ p ∈ t, k < p.1) ∧ Tab.sorted t = true := by
  simp [Tab.sorted_iff]

theorem Tab.mem_put (t : Tab α) (q : Nat) (x : α) (p : Nat × α) (h : p ∈ Tab.put t q x) : p = (q, x) ∨ p ∈ t := by
  induction t with
  | nil => simpa [Tab.put] using h
  | cons a t ih =>
    simp only [Tab.put] at h
    split at h
    · subst_vars; simp only [List.mem_cons] at h ⊢; tauto
    · split at h
      · simp only [List.mem_cons] at h ⊢; tauto
      · simp only [List.mem_cons] at h ⊢
        rcases h with h | h
        · tauto
        · have := ih h; tauto

theorem Tab.del_sublist (t : Tab α) (q : Nat) : (Tab.del t q).Sublist t := by
  induction t with
  | nil => simp [Tab.del]
  | cons a t ih =>
    simp only [Tab.del]
    split
    · exact List.sublist_cons_self _ _
    · split
      · exact List.Sublist.refl _
      · exact ih.cons_cons _

theorem Tab.sorted_put (t : Tab α) (q : Nat) (x : α) (h : Tab.sorted t = true) : Tab.sorted (Tab.put t q x) = true := by
  induction t with
  | nil => simp [Tab.put, Tab.sorted]
  | cons a t ih =>
    obtain ⟨k, v⟩ := a
    rw [Tab.sorted_cons] at h
    simp only [Tab.put]
    split
    · subst_vars; exact (Tab.sorted_cons _ _ _).2 h
    · split
      · rename_i h1 h2
        refine (Tab.sorted_cons _ _ _).2 ⟨fun p hp => ?_, (Tab.sorted_cons _ _ _).2 h⟩
        simp only [List.mem_cons] at hp
        rcases hp with rfl | hp
        · exact h2
        · exact Nat.lt_trans h2 (h.1 p hp)
      · rename_i h1 h2
        refine (Tab.sorted_cons _ _ _).2 ⟨fun p hp => ?_, ih h.2⟩
        rcases Tab.mem_put t q x p hp with rfl | hp
        · simp only; omega
        · exact h.1 p hp

theorem Tab.sorted_sublist {t u : Tab α} (h : Tab.sorted t = true) (hs : u.Sublist t) : Tab.sorted u = true := by
  rw [Tab.sorted_iff] at h ⊢
  exact h.sublist (hs.map _)

theorem Tab.sorted_del (t : Tab α) (q : Nat) (h : Tab.sorted t = true) : Tab.sorted (Tab.del t q) = true :=
  Tab.sorted_sublist h (Tab.del_sublist t q)

theorem Tab.sorted_filter (t : Tab α) (f : Nat × α → Bool) (h : Tab.sorted t = true) : Tab.sorted (t.filter f) = true :=
  Tab.sorted_sublist h List.filter_sublist

theorem Tab.sorted_setD [DecidableEq α] (d : α) (t : Tab α) (q : Nat) (x : α) (h : Tab.sorted t = true) :
    Tab.sorted (Tab.setD d t q x) = true := by
  unfold Tab.setD
  split
  · exact Tab.sorted_del t q h
  · exact Tab.sorted_put t q x h

theorem Tab.sorted_foldl_put {β : Type} (l : List β) (f : β → Nat × α) (t : Tab α) (h : Tab.sorted t = true) :
    Tab.sorted (l.foldl (fun u p => Tab.put u (f p).1 (f p).2) t) = true := by
  induction l generalizing t with
  | nil => exact h
  | cons a l ih => exact ih _ (Tab.sorted_put t _ _ h)

/-! ### Deleting and defaults -/

theorem Tab.look_none_of_lt {t : Tab α} {q : Nat} (h : ∀ p ∈ t, q < p.1) : Tab.look t q = none := by
  cases t with
  | nil => rfl
  | cons a t =>
    have := h a (by simp)
    simp only [Tab.look]
    split
    · omega
    · simp [this]

theorem Tab.look_del_same (t : Tab α) (q : Nat) (h : Tab.sorted t = true) : Tab.look (Tab.del t q) q = none := by
  induction t with
  | nil => rfl
  | cons a t ih =>
    obtain ⟨k, v⟩ := a
    rw [Tab.sorted_cons] at h
    simp only [Tab.del]
    split
    · subst_vars; exact Tab.look_none_of_lt h.1
    · split
      · simp_all [Tab.look]
      · simp_all [Tab.look]

theorem Tab.look_del_other (t : Tab α) {q q' : Nat} (h : Tab.sorted t = true) (hq : q' ≠ q) :
    Tab.look (Tab.del t q) q' = Tab.look t q' := by
  induction t with
  | nil => rfl
  | cons a t ih =>
    obtain ⟨k, v⟩ := a
    rw [Tab.sorted_cons] at h
    simp only [Tab.del]
    split
    · rename_i hk
      subst hk
      simp only [Tab.look, hq, if_false]
      split
      · exact Tab.look_none_of_lt fun p hp => Nat.lt_trans ‹_› (h.1 p hp)
      · rfl
    · split
      · rfl
      · simp [Tab.look, ih h.2]

theorem Tab.getD_setD_same [DecidableEq α] (d : α) (t : Tab α) (q : Nat) (x : α) (h : Tab.sorted t = true) :
    Tab.getD d (Tab.setD d t q x) q = x := by
  unfold Tab.getD Tab.setD
  split
  · simp [Tab.look_del_same t q h, *]
  · simp

theorem Tab.getD_setD_other [DecidableEq α] (d d' : α) (t : Tab α) {q q' : Nat} (x : α) (h : Tab.sorted t = true) (hq : q' ≠ q) :
    Tab.getD d' (Tab.setD d t q x) q' = Tab.getD d' t q' := by
  unfold Tab.getD Tab.setD
  split
  · rw [Tab.look_del_other t h hq]
  · rw [Tab.look_put_other t x hq]

theorem Tab.noDefault_setD [DecidableEq α] (d : α) (t : Tab α) (q : Nat) (x : α) (h : Tab.noDefault d t = true) :
    Tab.noDefault d (Tab.setD d t q x) = true := by
  simp only [Tab.noDefault, List.all_eq_true, decide_eq_true_eq] at h ⊢
  intro p hp
  unfold Tab.setD at hp
  split at hp
  · exact h p ((Tab.del_sublist t q).mem hp)
  · rcases Tab.mem_put t q x p hp with rfl | hp
    · assumption
    · exact h p hp

/-! ### Memory -/

theorem Memory.wf_setD (m : List Host.Cell) (a : Nat) (b : Byte) (h : Memory.wf m = true) :
    Memory.wf (Tab.setD 0 m a b) = true := by
  simp only [Memory.wf, Bool.and_eq_true] at h ⊢
  exact ⟨Tab.sorted_setD 0 m a b h.1, Tab.noDefault_setD 0 m a b h.2⟩

theorem Memory.wf_filter (m : List Host.Cell) (f : Host.Cell → Bool) (h : Memory.wf m = true) :
    Memory.wf (m.filter f) = true := by
  simp only [Memory.wf, Bool.and_eq_true] at h ⊢
  refine ⟨Tab.sorted_filter m f h.1, ?_⟩
  simp only [Tab.noDefault, List.all_eq_true, decide_eq_true_eq] at h ⊢
  exact fun p hp => h.2 p (List.mem_of_mem_filter hp)

/-- Reset memory lists nothing. -/
theorem reset_mem_wf : Memory.wf State.reset.mem = true := rfl

/-- A byte reads as it was last written. -/
theorem State.byte_setByte_same (s : State) (a : Nat) (b : Byte) (h : Memory.wf s.mem = true) : (s.setByte a b).byte a = b := by
  simp only [Memory.wf, Bool.and_eq_true] at h
  exact Tab.getD_setD_same 0 s.mem a b h.1

/-- A write leaves every other byte alone. -/
theorem State.byte_setByte_other (s : State) {a a' : Nat} (b : Byte) (h : Memory.wf s.mem = true) (ha : a' ≠ a) :
    (s.setByte a b).byte a' = s.byte a' := by
  simp only [Memory.wf, Bool.and_eq_true] at h
  exact Tab.getD_setD_other 0 0 s.mem b h.1 ha

/-- Writing a byte keeps the canonical form. -/
theorem State.setByte_wf (s : State) (a : Nat) (b : Byte) (h : Memory.wf s.mem = true) : Memory.wf (s.setByte a b).mem = true :=
  Memory.wf_setD s.mem a b h

/-- Writing bytes keeps the canonical form. -/
theorem State.setBytes_wf (s : State) (a : Nat) (l : List Byte) (h : Memory.wf s.mem = true) :
    Memory.wf (s.setBytes a l).mem = true := by
  induction l generalizing s a with
  | nil => exact h
  | cons b l ih => exact ih (s.setByte a b) (a + 1) (s.setByte_wf a b h)

end Sys2Proof.Machine
end

