-- ==== Sys2Proof/Laws/Word.lean ====
section
/-! SUPPORT. Laws of bits held in a number. -/

namespace Sys2Proof

theorem natBit_eq (v i : Nat) : natBit v i = v.testBit i := by
  simp [natBit, Nat.testBit_eq_decide_div_mod_eq]
  rfl

/-- A clear bit that is added leaves the set bits set. -/
theorem testBit_add_clear {v i j : Nat} (hi : v.testBit i = false) (hj : v.testBit j = true) : (v + 2 ^ i).testBit j = true := by
  have hlt : v % 2 ^ i < 2 ^ i := Nat.mod_lt _ (Nat.two_pow_pos i)
  have hv : v = 2 ^ i * (v / 2 ^ i) + v % 2 ^ i := (Nat.div_add_mod v (2 ^ i)).symm
  have heven : v / 2 ^ i % 2 = 0 := by
    rw [Nat.testBit_eq_decide_div_mod_eq] at hi
    simp at hi
    omega
  have hw : v + 2 ^ i = 2 ^ i * (v / 2 ^ i + 1) + v % 2 ^ i := by rw [Nat.mul_add]; omega
  rw [hw, Nat.two_pow_add_eq_or_of_lt hlt, Nat.testBit_or, Nat.testBit_two_pow_mul]
  rw [hv, Nat.two_pow_add_eq_or_of_lt hlt, Nat.testBit_or, Nat.testBit_two_pow_mul] at hj
  rcases Bool.or_eq_true_iff.1 hj with h | h
  · simp only [Bool.and_eq_true, decide_eq_true_eq] at h
    rw [Bool.or_eq_true]
    left
    simp only [Bool.and_eq_true, decide_eq_true_eq]
    refine ⟨h.1, ?_⟩
    generalize j - i = n at h
    generalize v / 2 ^ i = q at h heven
    cases n with
    | zero => simp [Nat.testBit_zero] at h; omega
    | succ n =>
      rw [Nat.testBit_succ] at h ⊢
      have : (q + 1) / 2 = q / 2 := by omega
      rw [this]; exact h.2
  · simp [h]

/-- Setting one bit clears no other. -/
theorem natBit_natSetBit (v i j : Nat) (h : natBit v j = true) : natBit (natSetBit v i true) j = true := by
  unfold natSetBit
  rw [natBit_eq] at *
  simp only [natBit_eq, if_true]
  split
  · rename_i hi
    have : 2 ^ i ≤ v := Nat.ge_two_pow_of_testBit hi
    rw [Nat.sub_add_cancel this]; exact h
  · rename_i hi
    exact testBit_add_clear (by simpa using hi) h

end Sys2Proof
end

