-- ==== Sys2Proof/Laws/Keeps.lean ====
section
/-! SUPPORT. What an operation may do to a state, said once: `Keeps m s₀ s` says that `s` comes from `s₀` by operations that change no
part of the state outside the mask `m`, never the queue, and that time, the count of free values, the fuses and the canonical
form of the stores go the only way they may. -/

namespace Sys2Proof.Machine

theorem FuseKept.rfl' (f : Fuse) : FuseKept f f := ⟨rfl, rfl, rfl, rfl, rfl, rfl, rfl, rfl, Nat.le_refl _, fun _ h => h⟩

theorem FuseKept.trans {f g h : Fuse} (a : FuseKept f g) (b : FuseKept g h) : FuseKept f h :=
  ⟨b.grade.trans a.grade, b.stepping.trans a.stepping, b.serial.trans a.serial, b.mac.trans a.mac, b.orderLock.trans a.orderLock,
    b.order.trans a.order, b.keyPresent.trans a.keyPresent,
    b.keyHash.trans a.keyHash, Nat.le_trans a.rollback b.rollback, fun i h => b.revoked i (a.revoked i h)⟩

/-- A mask of parts lies within another. -/
def Sub (a m : Nat) : Prop := a &&& m = a

theorem Sub.trans {a b m : Nat} (h : Sub a b) (h' : Sub b m) : Sub a m := by
  unfold Sub at *
  calc a &&& m = (a &&& b) &&& m := by rw [h]
    _ = a &&& (b &&& m) := Nat.and_assoc a b m
    _ = a := by rw [h', h]

/-- A mask within one that lies within `m`. -/
theorem Sub.of {a b m : Nat} (h : Sub b m) (e : a &&& b = a) : Sub a m := Sub.trans e h

theorem Sub.rfl' (a : Nat) : Sub a a := Nat.and_self a

theorem Sub.bit {k m : Nat} (h : Sub (2 ^ k) m) : m.testBit k = true := by
  have h1 := congrArg (fun v => v.testBit k) h
  simpa [Nat.testBit_and] using h1

/-- The relation: the parts by their bits of the mask. -/
structure Keeps (m : Nat) (s₀ s : State) : Prop where
  pending : s.pending = s₀.pending
  now : s₀.now ≤ s.now
  freeSeq : s₀.freeSeq ≤ s.freeSeq
  fuseKept : FuseKept s₀.fuse s.fuse
  canon : s₀.Canon → s.Canon
  regs : m.testBit 0 = false → s.regs = s₀.regs
  mram : m.testBit 1 = false → s.mram = s₀.mram
  mem : m.testBit 2 = false → s.mem = s₀.mem
  modes : m.testBit 3 = false → s.modes = s₀.modes
  prf : m.testBit 4 = false → s.prf = s₀.prf
  hif : m.testBit 5 = false → s.hif = s₀.hif
  island : m.testBit 6 = false → s.island = s₀.island
  ptm : m.testBit 7 = false → s.ptm = s₀.ptm
  pages : m.testBit 8 = false → s.pages = s₀.pages
  rings : m.testBit 9 = false → s.rings = s₀.rings
  slc : m.testBit 10 = false → s.slc = s₀.slc
  dp : m.testBit 11 = false → s.dp = s₀.dp
  frm : m.testBit 12 = false → s.frm = s₀.frm
  tbl : m.testBit 13 = false → s.tbl = s₀.tbl
  tm : m.testBit 14 = false → s.tm = s₀.tm
  fcx : m.testBit 15 = false → s.fcx = s₀.fcx
  cph : m.testBit 16 = false → s.cph = s₀.cph
  drt : m.testBit 17 = false → s.drt = s₀.drt
  nve : m.testBit 18 = false → s.nve = s₀.nve
  boot : m.testBit 19 = false → s.boot = s₀.boot
  upd : m.testBit 20 = false → s.upd = s₀.upd
  odf : m.testBit 21 = false → s.odf = s₀.odf
  hw : m.testBit 22 = false → s.hw = s₀.hw
  out : m.testBit 23 = false → s.out = s₀.out
  fuse : m.testBit 24 = false → s.fuse = s₀.fuse

theorem Keeps.rfl' (m : Nat) (s : State) : Keeps m s s where
  pending := rfl
  now := Nat.le_refl _
  freeSeq := Nat.le_refl _
  fuseKept := FuseKept.rfl' _
  canon := id
  regs := fun _ => rfl
  mram := fun _ => rfl
  mem := fun _ => rfl
  modes := fun _ => rfl
  prf := fun _ => rfl
  hif := fun _ => rfl
  island := fun _ => rfl
  ptm := fun _ => rfl
  pages := fun _ => rfl
  rings := fun _ => rfl
  slc := fun _ => rfl
  dp := fun _ => rfl
  frm := fun _ => rfl
  tbl := fun _ => rfl
  tm := fun _ => rfl
  fcx := fun _ => rfl
  cph := fun _ => rfl
  drt := fun _ => rfl
  nve := fun _ => rfl
  boot := fun _ => rfl
  upd := fun _ => rfl
  odf := fun _ => rfl
  hw := fun _ => rfl
  out := fun _ => rfl
  fuse := fun _ => rfl

/-- An outcome that keeps: one that is a next state. -/
def KeepsR (m : Nat) (s₀ : State) : Res → Prop
  | .next t => Keeps m s₀ t
  | _ => False

theorem KeepsR.next {m : Nat} {s₀ t : State} (h : Keeps m s₀ t) : KeepsR m s₀ (.next t) := h

/-- An outcome that keeps is a next state. -/
theorem KeepsR.out {m : Nat} {s₀ : State} {r : Res} (h : KeepsR m s₀ r) : ∃ t, r = .next t ∧ Keeps m s₀ t := by
  cases r with
  | next t => exact ⟨t, rfl, h⟩
  | fault _ => exact h.elim
  | refused _ => exact h.elim

/-- The bit of a part in a mask. -/
def Part.bit : Part → Nat
  | .regs => 0
  | .mram => 1
  | .mem => 2
  | .modes => 3
  | .prf => 4
  | .hif => 5
  | .island => 6
  | .ptm => 7
  | .pages => 8
  | .rings => 9
  | .slc => 10
  | .dp => 11
  | .frm => 12
  | .tbl => 13
  | .tm => 14
  | .fcx => 15
  | .cph => 16
  | .drt => 17
  | .nve => 18
  | .boot => 19
  | .upd => 20
  | .odf => 21
  | .hw => 22
  | .out => 23
  | .fuse => 24

/-- The parts outside the mask are the same. -/
theorem Keeps.same {m : Nat} {s₀ s : State} (h : Keeps m s₀ s) : ∀ p : Part, m.testBit p.bit = false → p.same s₀ s
  | .regs => h.regs
  | .mram => h.mram
  | .mem => h.mem
  | .modes => h.modes
  | .prf => h.prf
  | .hif => h.hif
  | .island => h.island
  | .ptm => h.ptm
  | .pages => h.pages
  | .rings => h.rings
  | .slc => h.slc
  | .dp => h.dp
  | .frm => h.frm
  | .tbl => h.tbl
  | .tm => h.tm
  | .fcx => h.fcx
  | .cph => h.cph
  | .drt => h.drt
  | .nve => h.nve
  | .boot => h.boot
  | .upd => h.upd
  | .odf => h.odf
  | .hw => h.hw
  | .out => h.out
  | .fuse => h.fuse

/-- A command whose outcome keeps a mask changes at most the parts in it. -/
theorem KeepsR.changes {m : Nat} {c : Instr} (ps : List Part) (h : ∀ s, KeepsR m s (exec c s))
    (hp : ∀ p : Part, p ∉ ps → m.testBit p.bit = false) : Changes ps c := by
  intro s t e p hn
  have k := h s
  rw [e] at k
  exact Keeps.same k p (hp p hn)

/-! ### One part replaced -/

theorem Keeps.set_modes {m : Nat} {s₀ s : State} (h : Keeps m s₀ s) (hm : Sub 8 m) (x) : Keeps m s₀ { s with modes := x } :=
  { h with modes := fun hb => absurd (Sub.bit (k := 3) hm) (by simp [hb]) }
theorem Keeps.set_prf {m : Nat} {s₀ s : State} (h : Keeps m s₀ s) (hm : Sub 16 m) (x) : Keeps m s₀ { s with prf := x } :=
  { h with prf := fun hb => absurd (Sub.bit (k := 4) hm) (by simp [hb]) }
theorem Keeps.set_hif {m : Nat} {s₀ s : State} (h : Keeps m s₀ s) (hm : Sub 32 m) (x) : Keeps m s₀ { s with hif := x } :=
  { h with hif := fun hb => absurd (Sub.bit (k := 5) hm) (by simp [hb]) }
theorem Keeps.set_island {m : Nat} {s₀ s : State} (h : Keeps m s₀ s) (hm : Sub 64 m) (x) : Keeps m s₀ { s with island := x } :=
  { h with island := fun hb => absurd (Sub.bit (k := 6) hm) (by simp [hb]) }
theorem Keeps.set_ptm {m : Nat} {s₀ s : State} (h : Keeps m s₀ s) (hm : Sub 128 m) (x) : Keeps m s₀ { s with ptm := x } :=
  { h with ptm := fun hb => absurd (Sub.bit (k := 7) hm) (by simp [hb]) }
theorem Keeps.set_pages {m : Nat} {s₀ s : State} (h : Keeps m s₀ s) (hm : Sub 256 m) (x) : Keeps m s₀ { s with pages := x } :=
  { h with pages := fun hb => absurd (Sub.bit (k := 8) hm) (by simp [hb]) }
theorem Keeps.set_rings {m : Nat} {s₀ s : State} (h : Keeps m s₀ s) (hm : Sub 512 m) (x) : Keeps m s₀ { s with rings := x } :=
  { h with rings := fun hb => absurd (Sub.bit (k := 9) hm) (by simp [hb]) }
theorem Keeps.set_slc {m : Nat} {s₀ s : State} (h : Keeps m s₀ s) (hm : Sub 1024 m) (x) : Keeps m s₀ { s with slc := x } :=
  { h with slc := fun hb => absurd (Sub.bit (k := 10) hm) (by simp [hb]) }
theorem Keeps.set_dp {m : Nat} {s₀ s : State} (h : Keeps m s₀ s) (hm : Sub 2048 m) (x) : Keeps m s₀ { s with dp := x } :=
  { h with dp := fun hb => absurd (Sub.bit (k := 11) hm) (by simp [hb]) }
theorem Keeps.set_frm {m : Nat} {s₀ s : State} (h : Keeps m s₀ s) (hm : Sub 4096 m) (x) : Keeps m s₀ { s with frm := x } :=
  { h with frm := fun hb => absurd (Sub.bit (k := 12) hm) (by simp [hb]) }
theorem Keeps.set_tbl {m : Nat} {s₀ s : State} (h : Keeps m s₀ s) (hm : Sub 8192 m) (x) : Keeps m s₀ { s with tbl := x } :=
  { h with tbl := fun hb => absurd (Sub.bit (k := 13) hm) (by simp [hb]) }
theorem Keeps.set_tm {m : Nat} {s₀ s : State} (h : Keeps m s₀ s) (hm : Sub 16384 m) (x) : Keeps m s₀ { s with tm := x } :=
  { h with tm := fun hb => absurd (Sub.bit (k := 14) hm) (by simp [hb]) }
theorem Keeps.set_fcx {m : Nat} {s₀ s : State} (h : Keeps m s₀ s) (hm : Sub 32768 m) (x) : Keeps m s₀ { s with fcx := x } :=
  { h with fcx := fun hb => absurd (Sub.bit (k := 15) hm) (by simp [hb]) }
theorem Keeps.set_cph {m : Nat} {s₀ s : State} (h : Keeps m s₀ s) (hm : Sub 65536 m) (x) : Keeps m s₀ { s with cph := x } :=
  { h with cph := fun hb => absurd (Sub.bit (k := 16) hm) (by simp [hb]) }
theorem Keeps.set_drt {m : Nat} {s₀ s : State} (h : Keeps m s₀ s) (hm : Sub 131072 m) (x) : Keeps m s₀ { s with drt := x } :=
  { h with drt := fun hb => absurd (Sub.bit (k := 17) hm) (by simp [hb]) }
theorem Keeps.set_nve {m : Nat} {s₀ s : State} (h : Keeps m s₀ s) (hm : Sub 262144 m) (x) : Keeps m s₀ { s with nve := x } :=
  { h with nve := fun hb => absurd (Sub.bit (k := 18) hm) (by simp [hb]) }
theorem Keeps.set_boot {m : Nat} {s₀ s : State} (h : Keeps m s₀ s) (hm : Sub 524288 m) (x) : Keeps m s₀ { s with boot := x } :=
  { h with boot := fun hb => absurd (Sub.bit (k := 19) hm) (by simp [hb]) }
theorem Keeps.set_upd {m : Nat} {s₀ s : State} (h : Keeps m s₀ s) (hm : Sub 1048576 m) (x) : Keeps m s₀ { s with upd := x } :=
  { h with upd := fun hb => absurd (Sub.bit (k := 20) hm) (by simp [hb]) }
theorem Keeps.set_odf {m : Nat} {s₀ s : State} (h : Keeps m s₀ s) (hm : Sub 2097152 m) (x) : Keeps m s₀ { s with odf := x } :=
  { h with odf := fun hb => absurd (Sub.bit (k := 21) hm) (by simp [hb]) }
theorem Keeps.set_hw {m : Nat} {s₀ s : State} (h : Keeps m s₀ s) (hm : Sub 4194304 m) (x) : Keeps m s₀ { s with hw := x } :=
  { h with hw := fun hb => absurd (Sub.bit (k := 22) hm) (by simp [hb]) }
theorem Keeps.set_out {m : Nat} {s₀ s : State} (h : Keeps m s₀ s) (hm : Sub 8388608 m) (x) : Keeps m s₀ { s with out := x } :=
  { h with out := fun hb => absurd (Sub.bit (k := 23) hm) (by simp [hb]) }
theorem Keeps.set_regs {m : Nat} {s₀ s : State} (h : Keeps m s₀ s) (hm : Sub 1 m) (x) (hx : Tab.sorted s.regs = true → Tab.sorted x = true) :
    Keeps m s₀ { s with regs := x } :=
  { h with regs := fun hb => absurd (Sub.bit (k := 0) hm) (by simp [hb]), canon := fun hc => ⟨hx (h.canon hc).1, (h.canon hc).2⟩ }
theorem Keeps.set_mram {m : Nat} {s₀ s : State} (h : Keeps m s₀ s) (hm : Sub 2 m) (x) (hx : Tab.sorted s.mram = true → Tab.sorted x = true) :
    Keeps m s₀ { s with mram := x } :=
  { h with mram := fun hb => absurd (Sub.bit (k := 1) hm) (by simp [hb]), canon := fun hc => ⟨(h.canon hc).1, hx (h.canon hc).2.1, (h.canon hc).2.2⟩ }
theorem Keeps.set_mem {m : Nat} {s₀ s : State} (h : Keeps m s₀ s) (hm : Sub 4 m) (x) (hx : Memory.wf s.mem = true → Memory.wf x = true) :
    Keeps m s₀ { s with mem := x } :=
  { h with mem := fun hb => absurd (Sub.bit (k := 2) hm) (by simp [hb]), canon := fun hc => ⟨(h.canon hc).1, (h.canon hc).2.1, hx (h.canon hc).2.2⟩ }
theorem Keeps.set_boot_upd {m : Nat} {s₀ s : State} (h : Keeps m s₀ s) (hm : Sub 1572864 m) (x_boot x_upd) :
    Keeps m s₀ { s with boot := x_boot, upd := x_upd } :=
  ((h).set_boot (Sub.of hm (by decide)) x_boot).set_upd (Sub.of hm (by decide)) x_upd
theorem Keeps.set_fcx_boot_upd {m : Nat} {s₀ s : State} (h : Keeps m s₀ s) (hm : Sub 1605632 m) (x_fcx x_boot x_upd) :
    Keeps m s₀ { s with fcx := x_fcx, boot := x_boot, upd := x_upd } :=
  (((h).set_fcx (Sub.of hm (by decide)) x_fcx).set_boot (Sub.of hm (by decide)) x_boot).set_upd (Sub.of hm (by decide)) x_upd
theorem Keeps.set_frm_odf {m : Nat} {s₀ s : State} (h : Keeps m s₀ s) (hm : Sub 2101248 m) (x_frm x_odf) :
    Keeps m s₀ { s with frm := x_frm, odf := x_odf } :=
  ((h).set_frm (Sub.of hm (by decide)) x_frm).set_odf (Sub.of hm (by decide)) x_odf
theorem Keeps.set_hif_pages {m : Nat} {s₀ s : State} (h : Keeps m s₀ s) (hm : Sub 288 m) (x_hif x_pages) :
    Keeps m s₀ { s with hif := x_hif, pages := x_pages } :=
  ((h).set_hif (Sub.of hm (by decide)) x_hif).set_pages (Sub.of hm (by decide)) x_pages
theorem Keeps.set_modes_boot {m : Nat} {s₀ s : State} (h : Keeps m s₀ s) (hm : Sub 524296 m) (x_modes x_boot) :
    Keeps m s₀ { s with modes := x_modes, boot := x_boot } :=
  ((h).set_modes (Sub.of hm (by decide)) x_modes).set_boot (Sub.of hm (by decide)) x_boot
theorem Keeps.set_modes_hw {m : Nat} {s₀ s : State} (h : Keeps m s₀ s) (hm : Sub 4194312 m) (x_modes x_hw) :
    Keeps m s₀ { s with modes := x_modes, hw := x_hw } :=
  ((h).set_modes (Sub.of hm (by decide)) x_modes).set_hw (Sub.of hm (by decide)) x_hw
theorem Keeps.set_modes_prf {m : Nat} {s₀ s : State} (h : Keeps m s₀ s) (hm : Sub 24 m) (x_modes x_prf) :
    Keeps m s₀ { s with modes := x_modes, prf := x_prf } :=
  ((h).set_modes (Sub.of hm (by decide)) x_modes).set_prf (Sub.of hm (by decide)) x_prf
theorem Keeps.set_modes_tbl_tm_nve {m : Nat} {s₀ s : State} (h : Keeps m s₀ s) (hm : Sub 286728 m) (x_modes x_tbl x_tm x_nve) :
    Keeps m s₀ { s with modes := x_modes, tbl := x_tbl, tm := x_tm, nve := x_nve } :=
  ((((h).set_modes (Sub.of hm (by decide)) x_modes).set_tbl (Sub.of hm (by decide)) x_tbl).set_tm (Sub.of hm (by decide)) x_tm).set_nve (Sub.of hm (by decide)) x_nve
theorem Keeps.set_nve_upd {m : Nat} {s₀ s : State} (h : Keeps m s₀ s) (hm : Sub 1310720 m) (x_nve x_upd) :
    Keeps m s₀ { s with nve := x_nve, upd := x_upd } :=
  ((h).set_nve (Sub.of hm (by decide)) x_nve).set_upd (Sub.of hm (by decide)) x_upd
theorem Keeps.set_rings_dp {m : Nat} {s₀ s : State} (h : Keeps m s₀ s) (hm : Sub 2560 m) (x_rings x_dp) :
    Keeps m s₀ { s with rings := x_rings, dp := x_dp } :=
  ((h).set_rings (Sub.of hm (by decide)) x_rings).set_dp (Sub.of hm (by decide)) x_dp
theorem Keeps.set_slc_prf {m : Nat} {s₀ s : State} (h : Keeps m s₀ s) (hm : Sub 1040 m) (x_slc x_prf) :
    Keeps m s₀ { s with slc := x_slc, prf := x_prf } :=
  ((h).set_slc (Sub.of hm (by decide)) x_slc).set_prf (Sub.of hm (by decide)) x_prf
theorem Keeps.set_fuse {m : Nat} {s₀ s : State} (h : Keeps m s₀ s) (hm : Sub 16777216 m) (x : Fuse) (hx : FuseKept s.fuse x) :
    Keeps m s₀ { s with fuse := x } :=
  { h with fuse := fun hb => absurd (Sub.bit (k := 24) hm) (by simp [hb]), fuseKept := h.fuseKept.trans hx }
theorem Keeps.set_now {m : Nat} {s₀ s : State} (h : Keeps m s₀ s) (x : Nat) (hx : s.now ≤ x) : Keeps m s₀ { s with now := x } :=
  { h with now := Nat.le_trans h.now hx }
theorem Keeps.set_freeSeq {m : Nat} {s₀ s : State} (h : Keeps m s₀ s) (x : Nat) (hx : s.freeSeq ≤ x) :
    Keeps m s₀ { s with freeSeq := x } :=
  { h with freeSeq := Nat.le_trans h.freeSeq hx }

/-! ### Through the shapes of definitions -/

theorem Keeps.ite {m : Nat} {s₀ a b : State} {c : Prop} [Decidable c] (ha : Keeps m s₀ a) (hb : Keeps m s₀ b) :
    Keeps m s₀ (if c then a else b) := by split <;> assumption
theorem Keeps.ite1 {m : Nat} {α : Type} {s₀ : State} {a b : State × α} {c : Prop} [Decidable c] (ha : Keeps m s₀ a.1)
    (hb : Keeps m s₀ b.1) : Keeps m s₀ (if c then a else b).1 := by split <;> assumption
theorem Keeps.ite2 {m : Nat} {α : Type} {s₀ : State} {a b : α × State} {c : Prop} [Decidable c] (ha : Keeps m s₀ a.2)
    (hb : Keeps m s₀ b.2) : Keeps m s₀ (if c then a else b).2 := by split <;> assumption
theorem KeepsR.ite {m : Nat} {s₀ : State} {a b : Res} {c : Prop} [Decidable c] (ha : KeepsR m s₀ a) (hb : KeepsR m s₀ b) :
    KeepsR m s₀ (if c then a else b) := by split <;> assumption
theorem Keeps.mk1 {m : Nat} {α : Type} {s₀ s : State} {x : α} (h : Keeps m s₀ s) : Keeps m s₀ (s, x).1 := h
theorem Keeps.mk2 {m : Nat} {α : Type} {s₀ s : State} {x : α} (h : Keeps m s₀ s) : Keeps m s₀ (x, s).2 := h
theorem Keeps.of1 {m : Nat} {α : Type} {s₀ s : State} {x : α} {p : State × α} (e : p = (s, x)) (h : Keeps m s₀ p.1) : Keeps m s₀ s := by
  subst e; exact h
theorem Keeps.of2 {m : Nat} {α : Type} {s₀ s : State} {x : α} {p : α × State} (e : p = (x, s)) (h : Keeps m s₀ p.2) : Keeps m s₀ s := by
  subst e; exact h
theorem Keeps.getD {m : Nat} {s₀ d : State} {o : Option State} (h : Keeps m s₀ d) (ho : ∀ t, o = some t → Keeps m s₀ t) :
    Keeps m s₀ (o.getD d) := by
  cases o with
  | none => exact h
  | some t => exact ho t rfl
theorem Keeps.foldl {m : Nat} {β : Type} {s₀ s : State} {f : State → β → State} {l : List β} (hs : Keeps m s₀ s)
    (hf : ∀ t x, Keeps m s₀ t → Keeps m s₀ (f t x)) : Keeps m s₀ (l.foldl f s) := by
  induction l generalizing s with
  | nil => exact hs
  | cons a l ih => exact ih (hf s a hs)
theorem Keeps.foldl1 {m : Nat} {α β : Type} {s₀ : State} {p : State × α} {f : State × α → β → State × α} {l : List β}
    (hs : Keeps m s₀ p.1) (hf : ∀ t x, Keeps m s₀ t.1 → Keeps m s₀ (f t x).1) : Keeps m s₀ (l.foldl f p).1 := by
  induction l generalizing p with
  | nil => exact hs
  | cons a l ih => exact ih (hf p a hs)
theorem Keeps.foldl2 {m : Nat} {α β : Type} {s₀ : State} {p : α × State} {f : α × State → β → α × State} {l : List β}
    (hs : Keeps m s₀ p.2) (hf : ∀ t x, Keeps m s₀ t.2 → Keeps m s₀ (f t x).2) : Keeps m s₀ (l.foldl f p).2 := by
  induction l generalizing p with
  | nil => exact hs
  | cons a l ih => exact ih (hf p a hs)

end Sys2Proof.Machine
end

