-- ==== Sys2Proof/Laws/KeepOps.lean ====
section
/-! SUPPORT. What the operations of Machine/Ops.lean can change: each keeps every part of the state that its number does not name,
and the standing properties of `Keeps`. -/

namespace Sys2Proof.Machine

theorem State.emit_keeps {m : Nat} {s₀ : State} (s : State) (o : Out) (h : Keeps m s₀ s) (hm : Sub 8388608 m) :
    Keeps m s₀ (State.emit s o) := by
  unfold State.emit
  repeat' first
    | with_reducible assumption
    | (with_reducible refine Sub.of hm ?_); decide
    | with_reducible apply Keeps.set_out

theorem State.setReg_keeps {m : Nat} {s₀ : State} (s : State) (r : Reg) (v : Word) (i : Nat) (j : Nat) (h : Keeps m s₀ s) (hm : Sub 3 m) :
    Keeps m s₀ (State.setReg s r v i j) := by
  have hm1 : Sub 1 m := Sub.of hm (by decide)
  have hm2 : Sub 2 m := Sub.of hm (by decide)
  have h1 := h.set_regs hm1 (Tab.setD (r.resetVal s.fuse i j) s.regs (r.key i j) v) (Tab.sorted_setD _ _ _ _)
  refine h1.set_mram hm2 _ fun hs => ?_
  split
  · exact Tab.sorted_setD _ _ _ _ hs
  · exact hs

theorem State.setF_keeps {m : Nat} {s₀ : State} (s : State) (f : Fld) (v : Nat) (i : Nat) (j : Nat) (h : Keeps m s₀ s) (hm : Sub 3 m) :
    Keeps m s₀ (State.setF s f v i j) := by
  unfold State.setF
  repeat' first
    | with_reducible assumption
    | (with_reducible refine Sub.of hm ?_); decide
    | with_reducible apply State.setReg_keeps

theorem State.bump_keeps {m : Nat} {s₀ : State} (s : State) (f : Fld) (i : Nat) (j : Nat) (n : Nat) (h : Keeps m s₀ s) (hm : Sub 3 m) :
    Keeps m s₀ (State.bump s f i j n) := by
  unfold State.bump
  repeat' first
    | with_reducible assumption
    | (with_reducible refine Sub.of hm ?_); decide
    | with_reducible apply State.setF_keeps

theorem State.showDenials_keeps {m : Nat} {s₀ : State} (s : State) (h : Keeps m s₀ s) (hm : Sub 3 m) :
    Keeps m s₀ (State.showDenials s) := by
  unfold State.showDenials
  repeat' first
    | with_reducible assumption
    | (with_reducible refine Sub.of hm ?_); decide
    | with_reducible apply State.setReg_keeps
    | split

theorem State.showPending_keeps {m : Nat} {s₀ : State} (s : State) (blk : Nat) (h : Keeps m s₀ s) (hm : Sub 3 m) :
    Keeps m s₀ (State.showPending s blk) := by
  unfold State.showPending
  repeat' first
    | with_reducible assumption
    | (with_reducible refine Sub.of hm ?_); decide
    | with_reducible apply State.setF_keeps
    | with_reducible apply Keeps.ite

theorem State.setWaiting_keeps {m : Nat} {s₀ : State} (s : State) (q : Nat) (l : List ErrEvent) (h : Keeps m s₀ s) (hm : Sub 19 m) :
    Keeps m s₀ (State.setWaiting s q l) := by
  unfold State.setWaiting
  repeat' first
    | with_reducible assumption
    | (with_reducible refine Sub.of hm ?_); decide
    | with_reducible apply State.showPending_keeps
    | with_reducible apply Keeps.set_prf

theorem State.raiseAs_keeps {m : Nat} {s₀ : State} (s : State) (q : Nat) (e : ErrEvent) (blk : Nat) (h : Keeps m s₀ s) (hm : Sub 19 m) :
    Keeps m s₀ (State.raiseAs s q e blk) := by
  unfold State.raiseAs
  repeat' first
    | with_reducible assumption
    | (with_reducible refine Sub.of hm ?_); decide
    | with_reducible apply State.setWaiting_keeps
    | with_reducible apply State.bump_keeps
    | with_reducible apply State.setF_keeps
    | with_reducible apply Keeps.ite

theorem State.draw_keeps {m : Nat} {s₀ : State} (s : State) (n : Nat) (h : Keeps m s₀ s) :
    Keeps m s₀ (State.draw s n).2 := by
  exact h.set_freeSeq _ (Nat.le_succ _)

theorem State.raise_keeps {m : Nat} {s₀ : State} (s : State) (q : Nat) (e : ErrEvent) (blk : Nat) (h : Keeps m s₀ s) (hm : Sub 19 m) :
    Keeps m s₀ (State.raise s q e blk) := by
  unfold State.raise
  repeat' first
    | with_reducible assumption
    | (with_reducible refine Sub.of hm ?_); decide
    | with_reducible apply State.raiseAs_keeps
    | with_reducible apply State.draw_keeps
    | with_reducible apply Keeps.ite

theorem State.deny_keeps {m : Nat} {s₀ : State} (s : State) (d : Denial) (h : Keeps m s₀ s) (hm : Sub 1043 m) :
    Keeps m s₀ (State.deny s d) := by
  unfold State.deny
  repeat' first
    | with_reducible assumption
    | (with_reducible refine Sub.of hm ?_); decide
    | with_reducible apply State.bump_keeps
    | with_reducible apply State.showDenials_keeps
    | with_reducible apply State.raise_keeps
    | with_reducible apply Keeps.ite
    | with_reducible apply Keeps.set_slc

theorem State.memAccess_keeps {m : Nat} {s₀ : State} (s : State) (k : AccessKind) (init : Nat) (a : Nat) (n : Nat) (h : Keeps m s₀ s) (hm : Sub 1043 m) :
    Keeps m s₀ (State.memAccess s k init a n).1 := by
  unfold State.memAccess
  repeat' first
    | with_reducible assumption
    | (with_reducible refine Sub.of hm ?_); decide
    | with_reducible apply State.deny_keeps
    | with_reducible apply Keeps.ite
    | split

theorem State.setByte_keeps {m : Nat} {s₀ : State} (s : State) (a : Nat) (b : Byte) (h : Keeps m s₀ s) (hm : Sub 4 m) :
    Keeps m s₀ (State.setByte s a b) := by
  exact h.set_mem hm _ (Memory.wf_setD s.mem a b)

theorem State.setBytes_keeps {m : Nat} {s₀ : State} (s : State) (a : Nat) (y_ : List Byte) (h : Keeps m s₀ s) (hm : Sub 4 m) :
    Keeps m s₀ (State.setBytes s a y_) := by
  induction y_ generalizing s a with
  | nil => exact h
  | cons b l ih => exact ih _ _ (State.setByte_keeps s a b h hm)

theorem State.abortCore_keeps {m : Nat} {s₀ : State} (s : State) (init : Nat) (h : Keeps m s₀ s) (hm : Sub 8388608 m) :
    Keeps m s₀ (State.abortCore s init) := by
  unfold State.abortCore
  repeat' first
    | with_reducible assumption
    | (with_reducible refine Sub.of hm ?_); decide
    | with_reducible apply State.emit_keeps
    | with_reducible apply Keeps.ite

theorem State.blockAccess_keeps {m : Nat} {s₀ : State} (s : State) (blk : Nat) (k : AccessKind) (init : Nat) (off : Nat) (h : Keeps m s₀ s) (hm : Sub 8389651 m) :
    Keeps m s₀ (State.blockAccess s blk k init off).1 := by
  unfold State.blockAccess
  repeat' first
    | with_reducible assumption
    | (with_reducible refine Sub.of hm ?_); decide
    | with_reducible apply State.abortCore_keeps
    | with_reducible apply State.deny_keeps
    | with_reducible apply Keeps.ite
    | split

theorem State.refuseWrite_keeps {m : Nat} {s₀ : State} (s : State) (blk : Nat) (off : Nat) (h : Keeps m s₀ s) (hm : Sub 3 m) :
    Keeps m s₀ (State.refuseWrite s blk off) := by
  unfold State.refuseWrite
  repeat' first
    | with_reducible assumption
    | (with_reducible refine Sub.of hm ?_); decide
    | with_reducible apply State.setF_keeps

theorem State.after_keeps {m : Nat} {s₀ : State} (s : State) (t : Nat) (h : Keeps m s₀ s) :
    Keeps m s₀ (State.after s t) := by
  refine h.set_now _ ?_
  split <;> omega

theorem State.deniedRead_keeps {m : Nat} {s₀ : State} (s : State) (init : Nat) (h : Keeps m s₀ s) (hm : Sub 8388608 m) :
    Keeps m s₀ (State.deniedRead s init) := by
  unfold State.deniedRead
  repeat' first
    | with_reducible assumption
    | (with_reducible refine Sub.of hm ?_); decide
    | with_reducible apply State.emit_keeps
    | with_reducible apply Keeps.ite

end Sys2Proof.Machine
end

