-- ==== Sys2Proof/Laws/KeepCoreOps.lean ====
section
/-! SUPPORT. What the operations of Machine/CoreOps.lean can change: each keeps every part of the state that its number does not name,
and the standing properties of `Keeps`. -/

namespace Sys2Proof.Machine

theorem State.showCore_keeps {m : Nat} {s₀ : State} (s : State) (c : Nat) (h : Keeps m s₀ s) (hm : Sub 3 m) :
    Keeps m s₀ (State.showCore s c) := by
  unfold State.showCore
  repeat' first
    | intro _
    | with_reducible assumption
    | (with_reducible refine Sub.of hm ?_); decide
    | with_reducible apply State.setF_keeps
    | with_reducible apply State.setReg_keeps
    | with_reducible apply Keeps.ite
    | with_reducible apply Keeps.foldl

theorem State.dropTransient_keeps {m : Nat} {s₀ : State} (s : State) (c : Nat) (t : Nat) (h : Keeps m s₀ s) (hm : Sub 65536 m) :
    Keeps m s₀ (State.dropTransient s c t) := by
  unfold State.dropTransient
  repeat' first
    | with_reducible assumption
    | (with_reducible refine Sub.of hm ?_); decide
    | with_reducible apply Keeps.set_cph

theorem State.setCore_keeps {m : Nat} {s₀ : State} (s : State) (c : Nat) (x : FCore) (h : Keeps m s₀ s) (hm : Sub 32768 m) :
    Keeps m s₀ (State.setCore s c x) := by
  unfold State.setCore
  repeat' first
    | with_reducible assumption
    | (with_reducible refine Sub.of hm ?_); decide
    | with_reducible apply Keeps.set_fcx

theorem State.fcxCount_keeps {m : Nat} {s₀ : State} (s : State) (k : Nat) (h : Keeps m s₀ s) (hm : Sub 3 m) :
    Keeps m s₀ (State.fcxCount s k) := by
  unfold State.fcxCount
  repeat' first
    | with_reducible assumption
    | (with_reducible refine Sub.of hm ?_); decide
    | with_reducible apply State.bump_keeps

theorem State.postNote_keeps {m : Nat} {s₀ : State} (s : State) (c : Nat) (n : Nat) (h : Keeps m s₀ s) (hm : Sub 8421376 m) :
    Keeps m s₀ (State.postNote s c n) := by
  unfold State.postNote
  repeat' first
    | with_reducible assumption
    | (with_reducible refine Sub.of hm ?_); decide
    | with_reducible apply State.setCore_keeps
    | with_reducible apply State.emit_keeps
    | with_reducible apply Keeps.ite

theorem State.threadFault_keeps {m : Nat} {s₀ : State} (s : State) (c : Nat) (t : Nat) (cause : Nat) (addr : Nat) (h : Keeps m s₀ s) (hm : Sub 8486931 m) :
    Keeps m s₀ (State.threadFault s c t cause addr) := by
  unfold State.threadFault
  repeat' first
    | with_reducible assumption
    | (with_reducible refine Sub.of hm ?_); decide
    | with_reducible apply State.setF_keeps
    | with_reducible apply State.fcxCount_keeps
    | with_reducible apply State.dropTransient_keeps
    | with_reducible apply State.setCore_keeps
    | with_reducible apply State.raise_keeps
    | with_reducible apply State.postNote_keeps
    | with_reducible apply Keeps.ite

theorem State.threadFaults_keeps {m : Nat} {s₀ : State} (s : State) (c : Nat) (t : Nat) (cause : Nat) (h : Keeps m s₀ s) (hm : Sub 8486931 m) :
    Keeps m s₀ (State.threadFaults s c t cause) := by
  unfold State.threadFaults
  repeat' first
    | with_reducible assumption
    | (with_reducible refine Sub.of hm ?_); decide
    | with_reducible apply State.threadFault_keeps
    | with_reducible apply State.draw_keeps

theorem State.setThread_keeps {m : Nat} {s₀ : State} (s : State) (c : Nat) (t : Nat) (h1 : FThread) (h : Keeps m s₀ s) (hm : Sub 32768 m) :
    Keeps m s₀ (State.setThread s c t h1) := by
  unfold State.setThread
  repeat' first
    | with_reducible assumption
    | (with_reducible refine Sub.of hm ?_); decide
    | with_reducible apply State.setCore_keeps

theorem State.endCommit_keeps {m : Nat} {s₀ : State} (s : State) (c : Nat) (t : Nat) (r : ChanResult) (h : Keeps m s₀ s) (hm : Sub 8421376 m) :
    Keeps m s₀ (State.endCommit s c t r) := by
  unfold State.endCommit
  repeat' first
    | with_reducible assumption
    | (with_reducible refine Sub.of hm ?_); decide
    | with_reducible apply State.emit_keeps
    | with_reducible apply State.setThread_keeps

theorem State.deliverMsg_keeps {m : Nat} {s₀ : State} (s : State) (c : Nat) (ch : Nat) (m1 : Msg) (h : Keeps m s₀ s) (hm : Sub 32768 m) :
    Keeps m s₀ (State.deliverMsg s c ch m1) := by
  unfold State.deliverMsg
  repeat' first
    | with_reducible assumption
    | (with_reducible refine Sub.of hm ?_); decide
    | with_reducible apply State.setCore_keeps
    | with_reducible apply Keeps.ite
    | with_reducible apply Keeps.set_fcx

theorem State.replyOn_keeps {m : Nat} {s₀ : State} (s : State) (c : Nat) (ep : Nat) (chan : Nat) (status : Nat) (tag : Nat) (low : Nat) (rest : List Nat) (h : Keeps m s₀ s) (hm : Sub 32768 m) :
    Keeps m s₀ (State.replyOn s c ep chan status tag low rest) := by
  unfold State.replyOn
  repeat' first
    | with_reducible assumption
    | (with_reducible refine Sub.of hm ?_); decide
    | with_reducible apply State.deliverMsg_keeps
    | with_reducible apply Keeps.ite

theorem State.reply_keeps {m : Nat} {s₀ : State} (s : State) (c : Nat) (r : FReq) (status : Nat) (low : Nat) (rest : List Nat) (h : Keeps m s₀ s) (hm : Sub 32768 m) :
    Keeps m s₀ (State.reply s c r status low rest) := by
  unfold State.reply
  repeat' first
    | with_reducible assumption
    | (with_reducible refine Sub.of hm ?_); decide
    | with_reducible apply State.replyOn_keeps

theorem State.commitBlock_keeps {m : Nat} {s₀ : State} (s : State) (c : Nat) (t : Nat) (ep : Nat) (r : FReq) (h : Keeps m s₀ s) (hm : Sub 8486931 m) :
    Keeps m s₀ (State.commitBlock s c t ep r) := by
  unfold State.commitBlock
  repeat' first
    | with_reducible assumption
    | (with_reducible refine Sub.of hm ?_); decide
    | with_reducible apply State.threadFaults_keeps
    | with_reducible apply State.endCommit_keeps
    | with_reducible apply State.reply_keeps
    | with_reducible apply State.draw_keeps
    | with_reducible apply State.bump_keeps
    | with_reducible apply State.setCore_keeps
    | with_reducible apply Keeps.ite

theorem State.tryCommit_keeps {m : Nat} {s₀ : State} (s : State) (c : Nat) (t : Nat) (h : Keeps m s₀ s) (hm : Sub 8486931 m) :
    Keeps m s₀ (State.tryCommit s c t) := by
  unfold State.tryCommit
  repeat' first
    | with_reducible assumption
    | (with_reducible refine Sub.of hm ?_); decide
    | with_reducible apply State.threadFaults_keeps
    | with_reducible apply State.commitBlock_keeps
    | with_reducible apply State.endCommit_keeps
    | with_reducible apply State.fcxCount_keeps
    | with_reducible apply State.deliverMsg_keeps
    | with_reducible apply Keeps.ite
    | split
    | dsimp only

theorem State.tryReceive_keeps {m : Nat} {s₀ : State} (s : State) (c : Nat) (t : Nat) (mask : Nat) (h : Keeps m s₀ s) (hm : Sub 8421376 m) :
    Keeps m s₀ (State.tryReceive s c t mask) := by
  unfold State.tryReceive
  repeat' first
    | with_reducible assumption
    | (with_reducible refine Sub.of hm ?_); decide
    | with_reducible apply State.emit_keeps
    | with_reducible apply State.setCore_keeps
    | split
    | dsimp only

theorem State.tryThread_keeps {m : Nat} {s₀ : State} (s : State) (c : Nat) (t : Nat) (receives : Bool) (h : Keeps m s₀ s) (hm : Sub 8486931 m) :
    Keeps m s₀ (State.tryThread s c t receives) := by
  unfold State.tryThread
  repeat' first
    | with_reducible assumption
    | (with_reducible refine Sub.of hm ?_); decide
    | with_reducible apply State.tryCommit_keeps
    | with_reducible apply State.tryReceive_keeps
    | with_reducible apply Keeps.ite
    | split

theorem State.trackBlocked_keeps {m : Nat} {s₀ : State} (s : State) (c : Nat) (h : Keeps m s₀ s) (hm : Sub 32768 m) :
    Keeps m s₀ (State.trackBlocked s c) := by
  unfold State.trackBlocked
  repeat' first
    | with_reducible assumption
    | (with_reducible refine Sub.of hm ?_); decide
    | with_reducible apply State.setCore_keeps
    | with_reducible apply Keeps.ite

theorem State.settleCores_keeps {m : Nat} {s₀ : State} (s : State) (h : Keeps m s₀ s) (hm : Sub 8486931 m) :
    Keeps m s₀ (State.settleCores s) := by
  unfold State.settleCores
  repeat' first
    | intro _
    | with_reducible assumption
    | (with_reducible refine Sub.of hm ?_); decide
    | with_reducible apply State.tryThread_keeps
    | with_reducible apply State.showCore_keeps
    | with_reducible apply State.trackBlocked_keeps
    | with_reducible apply Keeps.foldl

theorem State.takeReq_keeps {m : Nat} {s₀ : State} (s : State) (c : Nat) (r : FReq) (h : Keeps m s₀ s) (hm : Sub 32768 m) :
    Keeps m s₀ (State.takeReq s c r) := by
  unfold State.takeReq
  repeat' first
    | with_reducible assumption
    | (with_reducible refine Sub.of hm ?_); decide
    | with_reducible apply State.setCore_keeps

theorem State.noteSliceReset_keeps {m : Nat} {s₀ : State} (s : State) (g : Nat) (h : Keeps m s₀ s) (hm : Sub 8421376 m) :
    Keeps m s₀ (State.noteSliceReset s g) := by
  unfold State.noteSliceReset
  repeat' first
    | intro _
    | with_reducible assumption
    | (with_reducible refine Sub.of hm ?_); decide
    | with_reducible apply State.postNote_keeps
    | with_reducible apply Keeps.foldl

end Sys2Proof.Machine
end

