-- ==== Sys2Proof/Laws/KeepImage.lean ====
section
/-! SUPPORT. What the operations of Machine/Image.lean can change: each keeps every part of the state that its number does not name,
and the standing properties of `Keeps`. -/

namespace Sys2Proof.Machine

theorem State.eraseHeader_keeps {m : Nat} {s₀ : State} (s : State) (slot : Nat) (h : Keeps m s₀ s) (hm : Sub 4 m) :
    Keeps m s₀ (State.eraseHeader s slot) := by
  unfold State.eraseHeader
  repeat' first
    | with_reducible assumption
    | (with_reducible refine Sub.of hm ?_); decide
    | with_reducible apply State.setBytes_keeps

end Sys2Proof.Machine
end

