-- ==== Sys2Proof/Laws/KeepRingOps.lean ====
section
/-! SUPPORT. What the operations of Machine/RingOps.lean can change: each keeps every part of the state that its number does not name,
and the standing properties of `Keeps`. -/

namespace Sys2Proof.Machine

theorem State.setEp_keeps {m : Nat} {s₀ : State} (s : State) (e : Nat) (x : EpSt) (h : Keeps m s₀ s) (hm : Sub 32 m) :
    Keeps m s₀ (State.setEp s e x) := by
  unfold State.setEp
  repeat' first
    | with_reducible assumption
    | (with_reducible refine Sub.of hm ?_); decide
    | with_reducible apply Keeps.set_hif

theorem State.showLtr_keeps {m : Nat} {s₀ : State} (s : State) (e : Nat) (h : Keeps m s₀ s) (hm : Sub 8388640 m) :
    Keeps m s₀ (State.showLtr s e) := by
  unfold State.showLtr
  repeat' first
    | with_reducible assumption
    | (with_reducible refine Sub.of hm ?_); decide
    | with_reducible apply State.emit_keeps
    | with_reducible apply State.setEp_keeps
    | with_reducible apply Keeps.ite

theorem State.setRing_keeps {m : Nat} {s₀ : State} (s : State) (cls : Nat) (num : Nat) (r : Ring) (h : Keeps m s₀ s) (hm : Sub 512 m) :
    Keeps m s₀ (State.setRing s cls num r) := by
  unfold State.setRing
  repeat' first
    | with_reducible assumption
    | (with_reducible refine Sub.of hm ?_); decide
    | with_reducible apply Keeps.set_rings

theorem State.dmaCheck_keeps {m : Nat} {s₀ : State} (s : State) (f : Nat) (g : Option Nat) (wr : Bool) (a : Nat) (n : Nat) (h : Keeps m s₀ s) (hm : Sub 1043 m) :
    Keeps m s₀ (State.dmaCheck s f g wr a n).1 := by
  unfold State.dmaCheck
  repeat' first
    | with_reducible assumption
    | (with_reducible refine Sub.of hm ?_); decide
    | with_reducible apply State.memAccess_keeps
    | with_reducible apply State.deny_keeps
    | with_reducible apply Keeps.ite
    | with_reducible apply Keeps.ite1
    | with_reducible apply Keeps.ite2

theorem State.touchFn_keeps {m : Nat} {s₀ : State} (s : State) (f : Nat) (h : Keeps m s₀ s) (hm : Sub 35 m) :
    Keeps m s₀ (State.touchFn s f) := by
  unfold State.touchFn
  repeat' first
    | with_reducible assumption
    | (with_reducible refine Sub.of hm ?_); decide
    | with_reducible apply State.setEp_keeps
    | with_reducible apply State.setF_keeps
    | with_reducible apply Keeps.ite

theorem State.issueWrite_keeps {m : Nat} {s₀ : State} (s : State) (f : Nat) (g : Option Nat) (a : Nat) (d : List Byte) (h : Keeps m s₀ s) (hm : Sub 8388647 m) :
    Keeps m s₀ (State.issueWrite s f g a d) := by
  unfold State.issueWrite
  repeat' first
    | with_reducible assumption
    | (with_reducible refine Sub.of hm ?_); decide
    | with_reducible apply State.setBytes_keeps
    | with_reducible apply State.bump_keeps
    | with_reducible apply State.emit_keeps
    | with_reducible apply State.touchFn_keeps
    | with_reducible apply Keeps.ite

theorem State.setSlice_keeps {m : Nat} {s₀ : State} (s : State) (g : Nat) (x : SliceRec) (h : Keeps m s₀ s) (hm : Sub 1024 m) :
    Keeps m s₀ (State.setSlice s g x) := by
  unfold State.setSlice
  repeat' first
    | with_reducible assumption
    | (with_reducible refine Sub.of hm ?_); decide
    | with_reducible apply Keeps.set_slc

theorem State.sendStore_keeps {m : Nat} {s₀ : State} (s : State) (g : Nat) (e : Nat) (h : Keeps m s₀ s) (hm : Sub 8389683 m) :
    Keeps m s₀ (State.sendStore s g e) := by
  unfold State.sendStore
  repeat' first
    | with_reducible assumption
    | (with_reducible refine Sub.of hm ?_); decide
    | with_reducible apply State.bump_keeps
    | with_reducible apply State.setSlice_keeps
    | with_reducible apply State.dmaCheck_keeps
    | with_reducible apply State.emit_keeps
    | with_reducible apply State.touchFn_keeps
    | with_reducible apply Keeps.ite
    | split

theorem State.setFn_keeps {m : Nat} {s₀ : State} (s : State) (f : Nat) (x : FnSt) (h : Keeps m s₀ s) (hm : Sub 32 m) :
    Keeps m s₀ (State.setFn s f x) := by
  unfold State.setFn
  repeat' first
    | with_reducible assumption
    | (with_reducible refine Sub.of hm ?_); decide
    | with_reducible apply Keeps.set_hif

theorem State.sendVector_keeps {m : Nat} {s₀ : State} (s : State) (f : Nat) (v : Nat) (h : Keeps m s₀ s) (hm : Sub 8388643 m) :
    Keeps m s₀ (State.sendVector s f v) := by
  unfold State.sendVector
  repeat' first
    | with_reducible assumption
    | (with_reducible refine Sub.of hm ?_); decide
    | with_reducible apply State.bump_keeps
    | with_reducible apply State.emit_keeps
    | with_reducible apply State.touchFn_keeps
    | with_reducible apply State.setFn_keeps
    | with_reducible apply Keeps.ite
    | split

theorem State.maybeSignal_keeps {m : Nat} {s₀ : State} (s : State) (cls : Nat) (num : Nat) (now : Bool) (h : Keeps m s₀ s) (hm : Sub 8390195 m) :
    Keeps m s₀ (State.maybeSignal s cls num now) := by
  unfold State.maybeSignal
  repeat' first
    | with_reducible assumption
    | (with_reducible refine Sub.of hm ?_); decide
    | with_reducible apply State.setRing_keeps
    | with_reducible apply State.sendStore_keeps
    | with_reducible apply State.sendVector_keeps
    | with_reducible apply Keeps.ite
    | split

theorem State.stopRaw_keeps {m : Nat} {s₀ : State} (s : State) (cls : Nat) (num : Nat) (status : Nat) (h : Keeps m s₀ s) (hm : Sub 8390199 m) :
    Keeps m s₀ (State.stopRaw s cls num status) := by
  unfold State.stopRaw
  repeat' first
    | with_reducible assumption
    | (with_reducible refine Sub.of hm ?_); decide
    | with_reducible apply State.setRing_keeps
    | with_reducible apply State.dmaCheck_keeps
    | with_reducible apply State.issueWrite_keeps
    | with_reducible apply Keeps.ite
    | split

theorem State.ringPost_keeps {m : Nat} {s₀ : State} (s : State) (cls : Nat) (num : Nat) (entry : List Byte) (irqNow : Bool) (h : Keeps m s₀ s) (hm : Sub 8390199 m) :
    Keeps m s₀ (State.ringPost s cls num entry irqNow).1 := by
  unfold State.ringPost
  repeat' first
    | with_reducible assumption
    | (with_reducible refine Sub.of hm ?_); decide
    | with_reducible apply State.dmaCheck_keeps
    | with_reducible apply State.issueWrite_keeps
    | with_reducible apply State.setRing_keeps
    | with_reducible apply State.maybeSignal_keeps
    | with_reducible apply State.stopRaw_keeps
    | with_reducible apply Keeps.ite
    | split
    | dsimp only

theorem State.postEvent_keeps {m : Nat} {s₀ : State} (s : State) (d : EvDest) (e : Ev) (h : Keeps m s₀ s) (hm : Sub 8390199 m) :
    Keeps m s₀ (State.postEvent s d e) := by
  unfold State.postEvent
  repeat' first
    | with_reducible assumption
    | (with_reducible refine Sub.of hm ?_); decide
    | with_reducible apply State.bump_keeps
    | with_reducible apply State.setRing_keeps
    | with_reducible apply State.emit_keeps
    | with_reducible apply State.ringPost_keeps
    | with_reducible apply Keeps.ite
    | split

theorem State.postCompletion_keeps {m : Nat} {s₀ : State} (s : State) (cq : Nat) (entry : List Byte) (irqNow : Bool) (h : Keeps m s₀ s) (hm : Sub 8390199 m) :
    Keeps m s₀ (State.postCompletion s cq entry irqNow) := by
  unfold State.postCompletion
  repeat' first
    | with_reducible assumption
    | (with_reducible refine Sub.of hm ?_); decide
    | with_reducible apply State.bump_keeps
    | with_reducible apply State.ringPost_keeps
    | with_reducible apply State.postEvent_keeps
    | with_reducible apply State.setRing_keeps
    | with_reducible apply Keeps.ite
    | split

theorem State.releaseInOrder_keeps {m : Nat} {s₀ : State} (s : State) (num : Nat) (y_ : Nat) (h : Keeps m s₀ s) (hm : Sub 8390199 m) :
    Keeps m s₀ (State.releaseInOrder s num y_) := by
  induction y_ generalizing s with
  | zero => exact h
  | succ k ih =>
    unfold State.releaseInOrder
    repeat' first
      | with_reducible assumption
      | (with_reducible refine Sub.of hm ?_); decide
      | with_reducible apply ih
      | with_reducible apply State.setRing_keeps
      | with_reducible apply State.postCompletion_keeps
      | split

theorem State.completeEntry_keeps {m : Nat} {s₀ : State} (s : State) (num : Nat) (idx : Nat) (irqNow : Bool) (status : Nat) (body : List Byte) (h : Keeps m s₀ s) (hm : Sub 8390199 m) :
    Keeps m s₀ (State.completeEntry s num idx irqNow status body) := by
  unfold State.completeEntry
  repeat' first
    | with_reducible assumption
    | (with_reducible refine Sub.of hm ?_); decide
    | with_reducible apply State.showLtr_keeps
    | with_reducible apply State.releaseInOrder_keeps
    | with_reducible apply State.setRing_keeps
    | with_reducible apply State.postCompletion_keeps
    | with_reducible apply Keeps.ite
    | split

theorem State.stopRing_keeps {m : Nat} {s₀ : State} (s : State) (cls : Nat) (num : Nat) (status : Nat) (h : Keeps m s₀ s) (hm : Sub 8390199 m) :
    Keeps m s₀ (State.stopRing s cls num status) := by
  unfold State.stopRing
  repeat' first
    | with_reducible assumption
    | (with_reducible refine Sub.of hm ?_); decide
    | with_reducible apply State.stopRaw_keeps
    | with_reducible apply State.postEvent_keeps
    | with_reducible apply Keeps.ite
    | split

theorem State.complete_keeps {m : Nat} {s₀ : State} (s : State) (o : Origin) (status : Nat) (body : List Byte) (h : Keeps m s₀ s) (hm : Sub 8390199 m) :
    Keeps m s₀ (State.complete s o status body) := by
  unfold State.complete
  repeat' first
    | with_reducible assumption
    | (with_reducible refine Sub.of hm ?_); decide
    | with_reducible apply State.completeEntry_keeps
    | split

theorem State.issueRead_keeps {m : Nat} {s₀ : State} (s : State) (f : Nat) (g : Option Nat) (a : Nat) (n : Nat) (h : Keeps m s₀ s) (hm : Sub 8388643 m) :
    Keeps m s₀ (State.issueRead s f g a n) := by
  unfold State.issueRead
  repeat' first
    | with_reducible assumption
    | (with_reducible refine Sub.of hm ?_); decide
    | with_reducible apply State.bump_keeps
    | with_reducible apply State.emit_keeps
    | with_reducible apply State.touchFn_keeps
    | with_reducible apply Keeps.ite

theorem State.drainStash_keeps {m : Nat} {s₀ : State} (s : State) (cq : Nat) (y_ : Nat) (h : Keeps m s₀ s) (hm : Sub 8390199 m) :
    Keeps m s₀ (State.drainStash s cq y_) := by
  induction y_ generalizing s with
  | zero => exact h
  | succ k ih =>
    unfold State.drainStash
    repeat' first
      | with_reducible assumption
      | (with_reducible refine Sub.of hm ?_); decide
      | with_reducible apply ih
      | with_reducible apply State.ringPost_keeps
      | with_reducible apply State.postEvent_keeps
      | with_reducible apply State.setRing_keeps
      | with_reducible apply Keeps.ite
      | split

theorem State.drainHeld_keeps {m : Nat} {s₀ : State} (s : State) (num : Nat) (y_ : Nat) (h : Keeps m s₀ s) (hm : Sub 8390199 m) :
    Keeps m s₀ (State.drainHeld s num y_) := by
  induction y_ generalizing s with
  | zero => exact h
  | succ k ih =>
    unfold State.drainHeld
    repeat' first
      | with_reducible assumption
      | (with_reducible refine Sub.of hm ?_); decide
      | with_reducible apply ih
      | with_reducible apply State.setRing_keeps
      | with_reducible apply State.ringPost_keeps
      | with_reducible apply Keeps.ite
      | split

end Sys2Proof.Machine
end

