-- ==== Sys2Proof/Laws/KeepIslandOps.lean ====
section
/-! SUPPORT. What the operations of Machine/IslandOps.lean can change: each keeps every part of the state that its number does not name,
and the standing properties of `Keeps`. -/

namespace Sys2Proof.Machine

theorem State.syncIsland_keeps {m : Nat} {s₀ : State} (s : State) (h : Keeps m s₀ s) (hm : Sub 64 m) :
    Keeps m s₀ (State.syncIsland s) := by
  unfold State.syncIsland
  repeat' first
    | with_reducible assumption
    | (with_reducible refine Sub.of hm ?_); decide
    | with_reducible apply State.draw_keeps
    | with_reducible apply Keeps.ite
    | with_reducible apply Keeps.set_island

theorem State.crossTclk_keeps {m : Nat} {s₀ : State} (s : State) (h : Keeps m s₀ s) (hm : Sub 64 m) :
    Keeps m s₀ (State.crossTclk s) := by
  unfold State.crossTclk
  repeat' first
    | with_reducible assumption
    | (with_reducible refine Sub.of hm ?_); decide
    | with_reducible apply State.draw_keeps
    | with_reducible apply State.syncIsland_keeps
    | with_reducible apply State.after_keeps

theorem State.portStamp_keeps {m : Nat} {s₀ : State} (s : State) (port : Nat) (cal : Nat) (h : Keeps m s₀ s) :
    Keeps m s₀ (State.portStamp s port cal).2.2 := by
  unfold State.portStamp
  repeat' first
    | with_reducible assumption
    | with_reducible apply State.draw_keeps
    | with_reducible apply Keeps.ite

theorem State.showRefs_keeps {m : Nat} {s₀ : State} (s : State) (h : Keeps m s₀ s) (hm : Sub 3 m) :
    Keeps m s₀ (State.showRefs s) := by
  unfold State.showRefs
  repeat' first
    | with_reducible assumption
    | (with_reducible refine Sub.of hm ?_); decide
    | with_reducible apply State.setF_keeps
    | with_reducible apply Keeps.ite

end Sys2Proof.Machine
end

