-- ==== Sys2Proof/Laws/KeepTableOps.lean ====
section
/-! SUPPORT. What the operations of Machine/TableOps.lean can change: each keeps every part of the state that its number does not name,
and the standing properties of `Keeps`. -/

namespace Sys2Proof.Machine

theorem State.showTables_keeps {m : Nat} {s₀ : State} (s : State) (h : Keeps m s₀ s) (hm : Sub 3 m) :
    Keeps m s₀ (State.showTables s) := by
  unfold State.showTables
  repeat' first
    | intro _
    | with_reducible assumption
    | (with_reducible refine Sub.of hm ?_); decide
    | with_reducible apply State.setF_keeps
    | with_reducible apply Keeps.ite
    | with_reducible apply Keeps.foldl

theorem State.pendRoom_keeps {m : Nat} {s₀ : State} (s : State) (h : Keeps m s₀ s) (hm : Sub 8192 m) :
    Keeps m s₀ (State.pendRoom s) := by
  unfold State.pendRoom
  repeat' first
    | with_reducible assumption
    | (with_reducible refine Sub.of hm ?_); decide
    | with_reducible apply State.after_keeps
    | with_reducible apply Keeps.ite
    | split
    | with_reducible apply Keeps.set_tbl

theorem State.setTab_keeps {m : Nat} {s₀ : State} (s : State) (t : Nat) (x : Tab Nat) (h : Keeps m s₀ s) (hm : Sub 8192 m) :
    Keeps m s₀ (State.setTab s t x) := by
  unfold State.setTab
  repeat' first
    | with_reducible assumption
    | (with_reducible refine Sub.of hm ?_); decide
    | with_reducible apply Keeps.ite
    | with_reducible apply Keeps.set_tbl

theorem State.writeEntry_keeps {m : Nat} {s₀ : State} (s : State) (t : Nat) (pos : Nat) (e : Nat) (h : Keeps m s₀ s) (hm : Sub 8192 m) :
    Keeps m s₀ (State.writeEntry s t pos e) := by
  unfold State.writeEntry
  repeat' first
    | with_reducible assumption
    | (with_reducible refine Sub.of hm ?_); decide
    | with_reducible apply State.pendRoom_keeps
    | with_reducible apply State.setTab_keeps
    | with_reducible apply Keeps.ite
    | with_reducible apply Keeps.set_tbl

theorem State.advanceSweep_keeps {m : Nat} {s₀ : State} (s : State) (h : Keeps m s₀ s) (hm : Sub 8195 m) :
    Keeps m s₀ (State.advanceSweep s) := by
  unfold State.advanceSweep
  repeat' first
    | intro _
    | with_reducible assumption
    | (with_reducible refine Sub.of hm ?_); decide
    | with_reducible apply State.writeEntry_keeps
    | with_reducible apply State.showTables_keeps
    | with_reducible apply Keeps.ite
    | with_reducible apply Keeps.foldl
    | split

theorem State.setFormeState_keeps {m : Nat} {s₀ : State} (s : State) (n : Nat) (v : Nat) (h : Keeps m s₀ s) (hm : Sub 3 m) :
    Keeps m s₀ (State.setFormeState s n v) := by
  unfold State.setFormeState
  repeat' first
    | with_reducible assumption
    | (with_reducible refine Sub.of hm ?_); decide
    | with_reducible apply State.setF_keeps

theorem State.startSweep_keeps {m : Nat} {s₀ : State} (s : State) (h : Keeps m s₀ s) (hm : Sub 4099 m) :
    Keeps m s₀ (State.startSweep s) := by
  unfold State.startSweep
  repeat' first
    | with_reducible assumption
    | (with_reducible refine Sub.of hm ?_); decide
    | with_reducible apply State.setF_keeps
    | with_reducible apply Keeps.ite
    | with_reducible apply Keeps.foldl
    | split
    | with_reducible apply Keeps.set_frm

theorem State.queueSweep_keeps {m : Nat} {s₀ : State} (s : State) (n : Nat) (discard : Bool) (h : Keeps m s₀ s) (hm : Sub 4099 m) :
    Keeps m s₀ (State.queueSweep s n discard) := by
  unfold State.queueSweep
  repeat' first
    | with_reducible assumption
    | (with_reducible refine Sub.of hm ?_); decide
    | with_reducible apply State.startSweep_keeps
    | with_reducible apply Keeps.set_frm

theorem State.setIdle_keeps {m : Nat} {s₀ : State} (s : State) (t : Nat) (pos : Nat) (v : Nat) (h : Keeps m s₀ s) (hm : Sub 8192 m) :
    Keeps m s₀ (State.setIdle s t pos v) := by
  unfold State.setIdle
  repeat' first
    | with_reducible assumption
    | (with_reducible refine Sub.of hm ?_); decide
    | with_reducible apply State.setTab_keeps
    | with_reducible apply Keeps.ite
    | with_reducible apply Keeps.set_tbl

theorem State.relocate_keeps {m : Nat} {s₀ : State} (s : State) (t : Nat) (src : Nat) (dst : Nat) (e : Nat) (h : Keeps m s₀ s) (hm : Sub 8192 m) :
    Keeps m s₀ (State.relocate s t src dst e) := by
  unfold State.relocate
  repeat' first
    | with_reducible assumption
    | (with_reducible refine Sub.of hm ?_); decide
    | with_reducible apply State.writeEntry_keeps
    | with_reducible apply State.setIdle_keeps
    | with_reducible apply Keeps.ite

theorem State.chooseVictim_keeps {m : Nat} {s₀ : State} (s : State) (t : Nat) (ways : List Nat) (h : Keeps m s₀ s) (hm : Sub 8192 m) :
    Keeps m s₀ (State.chooseVictim s t ways).2 := by
  unfold State.chooseVictim
  try dsimp only
  repeat' first
    | with_reducible assumption
    | (with_reducible refine Sub.of hm ?_); decide
    | with_reducible apply Keeps.ite
    | with_reducible apply Keeps.foldl
    | split
    | with_reducible apply Keeps.set_tbl

theorem State.tblEvent_keeps {m : Nat} {s₀ : State} (s : State) (typ : Nat) (body : List Byte) (h : Keeps m s₀ s) (hm : Sub 8390199 m) :
    Keeps m s₀ (State.tblEvent s typ body) := by
  unfold State.tblEvent
  repeat' first
    | with_reducible assumption
    | (with_reducible refine Sub.of hm ?_); decide
    | with_reducible apply State.postEvent_keeps

theorem State.hashInsert_keeps {m : Nat} {s₀ : State} (s : State) (t : Nat) (e : Nat) (evict : Bool) (h : Keeps m s₀ s) (hm : Sub 8398391 m) :
    Keeps m s₀ (State.hashInsert s t e evict).2 := by
  unfold State.hashInsert
  try dsimp only
  repeat' first
    | with_reducible assumption
    | (with_reducible refine Sub.of hm ?_); decide
    | with_reducible apply State.writeEntry_keeps
    | with_reducible apply State.setIdle_keeps
    | with_reducible apply State.relocate_keeps
    | with_reducible apply State.chooseVictim_keeps
    | with_reducible apply State.tblEvent_keeps
    | with_reducible apply State.bump_keeps
    | with_reducible apply Keeps.ite
    | split

theorem State.clearHashTable_keeps {m : Nat} {s₀ : State} (s : State) (t : Nat) (h : Keeps m s₀ s) (hm : Sub 8195 m) :
    Keeps m s₀ (State.clearHashTable s t) := by
  unfold State.clearHashTable
  repeat' first
    | with_reducible assumption
    | (with_reducible refine Sub.of hm ?_); decide
    | with_reducible apply State.setTab_keeps
    | with_reducible apply State.showTables_keeps
    | with_reducible apply Keeps.ite
    | with_reducible apply Keeps.set_tbl

theorem State.metBad_keeps {m : Nat} {s₀ : State} (s : State) (t : Nat) (pos : Nat) (h : Keeps m s₀ s) (hm : Sub 8390199 m) :
    Keeps m s₀ (State.metBad s t pos) := by
  unfold State.metBad
  repeat' first
    | with_reducible assumption
    | (with_reducible refine Sub.of hm ?_); decide
    | with_reducible apply State.tblEvent_keeps
    | with_reducible apply State.raise_keeps
    | with_reducible apply State.bump_keeps

theorem State.actionFor_keeps {m : Nat} {s₀ : State} (s : State) (idx : Nat) (forme : Nat) (h : Keeps m s₀ s) (hm : Sub 8390199 m) :
    Keeps m s₀ (State.actionFor s idx forme).2 := by
  unfold State.actionFor
  repeat' first
    | with_reducible assumption
    | (with_reducible refine Sub.of hm ?_); decide
    | with_reducible apply State.metBad_keeps
    | with_reducible apply Keeps.ite
    | with_reducible apply Keeps.ite1
    | with_reducible apply Keeps.ite2

end Sys2Proof.Machine
end

