-- ==== Sys2Proof/Laws/KeepTableCmd.lean ====
section
/-! SUPPORT. What the operations of Machine/TableCmd.lean can change: each keeps every part of the state that its number does not name,
and the standing properties of `Keeps`. -/

namespace Sys2Proof.Machine

theorem State.tblInsert_keeps {m : Nat} {s₀ : State} (s : State) (q : TblReq) (v : Nat) (h : Keeps m s₀ s) (hm : Sub 8398391 m) :
    Keeps m s₀ (State.tblInsert s q v).1 := by
  unfold State.tblInsert
  repeat' first
    | with_reducible assumption
    | (with_reducible refine Sub.of hm ?_); decide
    | with_reducible apply State.hashInsert_keeps
    | with_reducible apply State.writeEntry_keeps
    | with_reducible apply State.draw_keeps
    | with_reducible apply Keeps.ite
    | with_reducible apply Keeps.ite1
    | with_reducible apply Keeps.ite2
    | with_reducible apply Keeps.foldl
    | with_reducible apply Keeps.foldl1
    | with_reducible apply Keeps.foldl2
    | split
    | with_reducible apply Keeps.of2 ‹_›
    | dsimp only

theorem State.tblInsertOp_keeps {m : Nat} {s₀ : State} (s : State) (q : TblReq) (v : Nat) (h : Keeps m s₀ s) (hm : Sub 8398391 m) :
    Keeps m s₀ (State.tblInsertOp s q v).1 := by
  unfold State.tblInsertOp
  try dsimp only
  repeat' first
    | with_reducible assumption
    | (with_reducible refine Sub.of hm ?_); decide
    | with_reducible apply State.tblInsert_keeps
    | with_reducible apply Keeps.ite
    | with_reducible apply Keeps.ite1
    | with_reducible apply Keeps.ite2
    | split
    | with_reducible apply Keeps.of1 ‹_›
    | dsimp only

theorem State.tblDeleteOp_keeps {m : Nat} {s₀ : State} (s : State) (q : TblReq) (v : Nat) (h : Keeps m s₀ s) (hm : Sub 8192 m) :
    Keeps m s₀ (State.tblDeleteOp s q v).1 := by
  unfold State.tblDeleteOp
  try dsimp only
  repeat' first
    | with_reducible assumption
    | (with_reducible refine Sub.of hm ?_); decide
    | with_reducible apply State.writeEntry_keeps
    | with_reducible apply Keeps.ite
    | with_reducible apply Keeps.ite1
    | with_reducible apply Keeps.ite2
    | split
    | dsimp only

theorem State.tblModify_keeps {m : Nat} {s₀ : State} (s : State) (q : TblReq) (p : Nat) (v : Nat) (h : Keeps m s₀ s) (hm : Sub 8192 m) :
    Keeps m s₀ (State.tblModify s q p v) := by
  unfold State.tblModify
  repeat' first
    | with_reducible assumption
    | (with_reducible refine Sub.of hm ?_); decide
    | with_reducible apply State.writeEntry_keeps
    | with_reducible apply Keeps.ite

theorem State.tblModifyOp_keeps {m : Nat} {s₀ : State} (s : State) (q : TblReq) (v : Nat) (h : Keeps m s₀ s) (hm : Sub 8192 m) :
    Keeps m s₀ (State.tblModifyOp s q v).1 := by
  unfold State.tblModifyOp
  try dsimp only
  repeat' first
    | with_reducible assumption
    | (with_reducible refine Sub.of hm ?_); decide
    | with_reducible apply State.tblModify_keeps
    | with_reducible apply Keeps.ite
    | with_reducible apply Keeps.ite1
    | with_reducible apply Keeps.ite2
    | split
    | dsimp only

theorem State.tblRetagOp_keeps {m : Nat} {s₀ : State} (s : State) (q : TblReq) (v : Nat) (h : Keeps m s₀ s) (hm : Sub 8192 m) :
    Keeps m s₀ (State.tblRetagOp s q v).1 := by
  unfold State.tblRetagOp
  try dsimp only
  repeat' first
    | with_reducible assumption
    | (with_reducible refine Sub.of hm ?_); decide
    | with_reducible apply State.writeEntry_keeps
    | with_reducible apply Keeps.ite
    | with_reducible apply Keeps.ite1
    | with_reducible apply Keeps.ite2
    | split
    | dsimp only

theorem State.tblReadOp_keeps {m : Nat} {s₀ : State} (s : State) (q : TblReq) (h : Keeps m s₀ s) :
    Keeps m s₀ (State.tblReadOp s q).1 := by
  unfold State.tblReadOp
  try dsimp only
  repeat' first
    | with_reducible assumption
    | with_reducible apply Keeps.ite
    | with_reducible apply Keeps.ite1
    | with_reducible apply Keeps.ite2
    | split
    | dsimp only

theorem State.tblEraseOp_keeps {m : Nat} {s₀ : State} (s : State) (q : TblReq) (h : Keeps m s₀ s) (hm : Sub 8192 m) :
    Keeps m s₀ (State.tblEraseOp s q).1 := by
  unfold State.tblEraseOp
  try dsimp only
  repeat' first
    | with_reducible assumption
    | (with_reducible refine Sub.of hm ?_); decide
    | with_reducible apply State.writeEntry_keeps
    | with_reducible apply Keeps.ite
    | with_reducible apply Keeps.ite1
    | with_reducible apply Keeps.ite2
    | split
    | dsimp only

theorem State.tblOp_keeps {m : Nat} {s₀ : State} (s : State) (q : TblReq) (v : Nat) (h : Keeps m s₀ s) (hm : Sub 8398391 m) :
    Keeps m s₀ (State.tblOp s q v).1 := by
  unfold State.tblOp
  try dsimp only
  repeat' first
    | intro _
    | with_reducible assumption
    | (with_reducible refine Sub.of hm ?_); decide
    | with_reducible apply State.tblInsertOp_keeps
    | with_reducible apply State.tblDeleteOp_keeps
    | with_reducible apply State.tblModifyOp_keeps
    | with_reducible apply State.tblRetagOp_keeps
    | with_reducible apply State.tblReadOp_keeps
    | with_reducible apply State.tblEraseOp_keeps
    | with_reducible apply Keeps.ite
    | with_reducible apply Keeps.ite1
    | with_reducible apply Keeps.ite2
    | with_reducible apply Keeps.foldl
    | with_reducible apply Keeps.foldl1
    | with_reducible apply Keeps.foldl2
    | split
    | with_reducible apply Keeps.of1 ‹_›
    | dsimp only

theorem State.tblRun_keeps {m : Nat} {s₀ : State} (s : State) (q : TblReq) (h : Keeps m s₀ s) (hm : Sub 8398391 m) :
    Keeps m s₀ (State.tblRun s q).1 := by
  unfold State.tblRun
  repeat' first
    | with_reducible assumption
    | (with_reducible refine Sub.of hm ?_); decide
    | with_reducible apply State.draw_keeps
    | with_reducible apply State.emit_keeps
    | with_reducible apply State.tblOp_keeps
    | with_reducible apply Keeps.ite
    | with_reducible apply Keeps.ite1
    | with_reducible apply Keeps.ite2
    | split
    | dsimp only

theorem State.tblAnswer_keeps {m : Nat} {s₀ : State} (s : State) (q : TblReq) (a : TblAns) (h : Keeps m s₀ s) (hm : Sub 8390199 m) :
    Keeps m s₀ (State.tblAnswer s q a) := by
  unfold State.tblAnswer
  repeat' first
    | intro _
    | with_reducible assumption
    | (with_reducible refine Sub.of hm ?_); decide
    | with_reducible apply State.setF_keeps
    | with_reducible apply State.setReg_keeps
    | with_reducible apply State.completeEntry_keeps
    | with_reducible apply State.dmaCheck_keeps
    | with_reducible apply State.issueWrite_keeps
    | with_reducible apply Keeps.ite
    | with_reducible apply Keeps.foldl
    | split

theorem State.tblExec_keeps {m : Nat} {s₀ : State} (s : State) (q : TblReq) (h : Keeps m s₀ s) (hm : Sub 8398391 m) :
    Keeps m s₀ (State.tblExec s q) := by
  unfold State.tblExec
  repeat' first
    | with_reducible assumption
    | (with_reducible refine Sub.of hm ?_); decide
    | with_reducible apply State.advanceSweep_keeps
    | with_reducible apply State.tblRun_keeps
    | with_reducible apply State.tblAnswer_keeps
    | with_reducible apply State.showTables_keeps

theorem State.tblTake_keeps {m : Nat} {s₀ : State} (s : State) (q : TblReq) (h : Keeps m s₀ s) (hm : Sub 8398391 m) :
    Keeps m s₀ (State.tblTake s q) := by
  unfold State.tblTake
  repeat' first
    | with_reducible assumption
    | (with_reducible refine Sub.of hm ?_); decide
    | with_reducible apply State.setF_keeps
    | with_reducible apply State.tblExec_keeps
    | with_reducible apply Keeps.ite
    | split
    | with_reducible apply Keeps.set_tbl

theorem State.tableCommand_keeps {m : Nat} {s₀ : State} (s : State) (op : Nat) (o : Origin) (blk : Nat) (w : Word) (img : List Byte) (h : Keeps m s₀ s) (hm : Sub 8398391 m) :
    Keeps m s₀ (State.tableCommand s op o blk w img) := by
  unfold State.tableCommand
  repeat' first
    | with_reducible assumption
    | (with_reducible refine Sub.of hm ?_); decide
    | with_reducible apply State.blockAccess_keeps
    | with_reducible apply State.setReg_keeps
    | with_reducible apply State.tblTake_keeps
    | with_reducible apply State.dmaCheck_keeps
    | with_reducible apply State.completeEntry_keeps
    | with_reducible apply State.issueRead_keeps
    | with_reducible apply Keeps.ite
    | with_reducible apply Keeps.foldl
    | split

end Sys2Proof.Machine
end

