-- ==== Sys2Proof/Laws/KeepPktOps.lean ====
section
/-! SUPPORT. What the operations of Machine/PktOps.lean can change: each keeps every part of the state that its number does not name,
and the standing properties of `Keeps`. -/

namespace Sys2Proof.Machine

theorem State.completeTx_keeps {m : Nat} {s₀ : State} (s : State) (p : Pkt) (status : Nat) (body : List Byte) (h : Keeps m s₀ s) (hm : Sub 8390199 m) :
    Keeps m s₀ (State.completeTx s p status body) := by
  unfold State.completeTx
  repeat' first
    | with_reducible assumption
    | (with_reducible refine Sub.of hm ?_); decide
    | with_reducible apply State.completeEntry_keeps
    | split

theorem State.setPkt_keeps {m : Nat} {s₀ : State} (s : State) (id : Nat) (p : Pkt) (h : Keeps m s₀ s) (hm : Sub 2048 m) :
    Keeps m s₀ (State.setPkt s id p) := by
  unfold State.setPkt
  repeat' first
    | with_reducible assumption
    | (with_reducible refine Sub.of hm ?_); decide
    | with_reducible apply Keeps.set_dp

theorem State.freePkt_keeps {m : Nat} {s₀ : State} (s : State) (id : Nat) (h : Keeps m s₀ s) (hm : Sub 2048 m) :
    Keeps m s₀ (State.freePkt s id) := by
  unfold State.freePkt
  repeat' first
    | with_reducible assumption
    | (with_reducible refine Sub.of hm ?_); decide
    | with_reducible apply Keeps.set_dp

theorem State.endHold_keeps {m : Nat} {s₀ : State} (s : State) (id : Nat) (h : Keeps m s₀ s) (hm : Sub 2067 m) :
    Keeps m s₀ (State.endHold s id) := by
  unfold State.endHold
  repeat' first
    | with_reducible assumption
    | (with_reducible refine Sub.of hm ?_); decide
    | with_reducible apply State.setPkt_keeps
    | with_reducible apply State.raise_keeps
    | with_reducible apply State.setF_keeps
    | with_reducible apply Keeps.ite
    | split

theorem State.dropPkt_keeps {m : Nat} {s₀ : State} (s : State) (id : Nat) (h : Keeps m s₀ s) (hm : Sub 8392247 m) :
    Keeps m s₀ (State.dropPkt s id) := by
  unfold State.dropPkt
  repeat' first
    | with_reducible assumption
    | (with_reducible refine Sub.of hm ?_); decide
    | with_reducible apply State.completeTx_keeps
    | with_reducible apply State.freePkt_keeps
    | with_reducible apply State.endHold_keeps
    | split

theorem State.macCount_keeps {m : Nat} {s₀ : State} (s : State) (port : Nat) (k : Nat) (n : Nat) (h : Keeps m s₀ s) (hm : Sub 3 m) :
    Keeps m s₀ (State.macCount s port k n) := by
  unfold State.macCount
  repeat' first
    | with_reducible assumption
    | (with_reducible refine Sub.of hm ?_); decide
    | with_reducible apply State.bump_keeps

theorem State.setLst_keeps {m : Nat} {s₀ : State} (s : State) (k : PktPlace) (i : Nat) (l : List Nat) (h : Keeps m s₀ s) (hm : Sub 2048 m) :
    Keeps m s₀ (State.setLst s k i l) := by
  unfold State.setLst
  repeat' first
    | with_reducible assumption
    | (with_reducible refine Sub.of hm ?_); decide
    | with_reducible apply Keeps.set_dp

theorem State.popLst_keeps {m : Nat} {s₀ : State} (s : State) (k : PktPlace) (i : Nat) (id : Nat) (h : Keeps m s₀ s) (hm : Sub 2048 m) :
    Keeps m s₀ (State.popLst s k i id) := by
  unfold State.popLst
  repeat' first
    | with_reducible assumption
    | (with_reducible refine Sub.of hm ?_); decide
    | with_reducible apply State.setLst_keeps

theorem State.drawBytes_keeps {m : Nat} {s₀ : State} (s : State) (y_ : Nat) (h : Keeps m s₀ s) :
    Keeps m s₀ (State.drawBytes s y_).2 := by
  induction y_ generalizing s with
  | zero => exact h
  | succ n ih => exact ih _ (State.draw_keeps s 8 h)

theorem State.newPkt_keeps {m : Nat} {s₀ : State} (s : State) (p : Pkt) (h : Keeps m s₀ s) (hm : Sub 2048 m) :
    Keeps m s₀ (State.newPkt s p).2 := by
  unfold State.newPkt
  repeat' first
    | with_reducible assumption
    | (with_reducible refine Sub.of hm ?_); decide
    | with_reducible apply Keeps.set_dp

theorem State.pushLst_keeps {m : Nat} {s₀ : State} (s : State) (k : PktPlace) (i : Nat) (id : Nat) (h : Keeps m s₀ s) (hm : Sub 2048 m) :
    Keeps m s₀ (State.pushLst s k i id) := by
  unfold State.pushLst
  repeat' first
    | with_reducible assumption
    | (with_reducible refine Sub.of hm ?_); decide
    | with_reducible apply State.setLst_keeps

theorem State.rewritten_keeps {m : Nat} {s₀ : State} (s : State) (p : Pkt) (h : Keeps m s₀ s) :
    Keeps m s₀ (State.rewritten s p).2 := by
  unfold State.rewritten
  repeat' first
    | with_reducible assumption
    | with_reducible apply State.draw_keeps
    | with_reducible apply State.drawBytes_keeps
    | with_reducible apply Keeps.ite
    | with_reducible apply Keeps.ite1
    | with_reducible apply Keeps.ite2

theorem State.dropEnded_keeps {m : Nat} {s₀ : State} (s : State) (id : Nat) (p : Pkt) (h : Keeps m s₀ s) (hm : Sub 8392247 m) :
    Keeps m s₀ (State.dropEnded s id p) := by
  unfold State.dropEnded
  repeat' first
    | with_reducible assumption
    | (with_reducible refine Sub.of hm ?_); decide
    | with_reducible apply State.dropPkt_keeps
    | with_reducible apply State.macCount_keeps
    | with_reducible apply Keeps.ite

end Sys2Proof.Machine
end

