-- ==== Sys2Proof/Laws/KeepFcxOps.lean ====
section
/-! SUPPORT. What the operations of Machine/FcxOps.lean can change: each keeps every part of the state that its number does not name,
and the standing properties of `Keeps`. -/

namespace Sys2Proof.Machine

theorem State.showHandles_keeps {m : Nat} {s₀ : State} (s : State) (h : Keeps m s₀ s) (hm : Sub 3 m) :
    Keeps m s₀ (State.showHandles s) := by
  unfold State.showHandles
  repeat' first
    | with_reducible assumption
    | (with_reducible refine Sub.of hm ?_); decide
    | with_reducible apply State.setF_keeps

theorem State.freeHandles_keeps {m : Nat} {s₀ : State} (s : State) (c : Nat) (h : Keeps m s₀ s) (hm : Sub 8392247 m) :
    Keeps m s₀ (State.freeHandles s c) := by
  unfold State.freeHandles
  repeat' first
    | intro _
    | with_reducible assumption
    | (with_reducible refine Sub.of hm ?_); decide
    | with_reducible apply State.showHandles_keeps
    | with_reducible apply State.dropPkt_keeps
    | with_reducible apply State.setLst_keeps
    | with_reducible apply Keeps.foldl

theorem State.readImage_keeps {m : Nat} {s₀ : State} (s : State) (a : Nat) (h : Keeps m s₀ s) (hm : Sub 1043 m) :
    Keeps m s₀ (State.readImage s a).1 := by
  unfold State.readImage
  repeat' first
    | with_reducible assumption
    | (with_reducible refine Sub.of hm ?_); decide
    | with_reducible apply State.memAccess_keeps
    | with_reducible apply Keeps.ite

theorem State.clearFaults_keeps {m : Nat} {s₀ : State} (s : State) (c : Nat) (h : Keeps m s₀ s) (hm : Sub 3 m) :
    Keeps m s₀ (State.clearFaults s c) := by
  unfold State.clearFaults
  repeat' first
    | intro _
    | with_reducible assumption
    | (with_reducible refine Sub.of hm ?_); decide
    | with_reducible apply State.setF_keeps
    | with_reducible apply Keeps.foldl

theorem State.startLoad_keeps {m : Nat} {s₀ : State} (s : State) (c : Nat) (src : CoreImg) (img : List Byte) (h : Keeps m s₀ s) (hm : Sub 8490551 m) :
    Keeps m s₀ (State.startLoad s c src img) := by
  unfold State.startLoad
  repeat' first
    | intro _
    | with_reducible assumption
    | (with_reducible refine Sub.of hm ?_); decide
    | with_reducible apply State.dropTransient_keeps
    | with_reducible apply State.freeHandles_keeps
    | with_reducible apply State.setCore_keeps
    | with_reducible apply State.clearFaults_keeps
    | with_reducible apply State.showCore_keeps
    | with_reducible apply Keeps.foldl
    | with_reducible apply Keeps.set_fcx

theorem State.failLoad_keeps {m : Nat} {s₀ : State} (s : State) (c : Nat) (src : CoreImg) (h : Keeps m s₀ s) (hm : Sub 8490551 m) :
    Keeps m s₀ (State.failLoad s c src) := by
  unfold State.failLoad
  repeat' first
    | with_reducible assumption
    | (with_reducible refine Sub.of hm ?_); decide
    | with_reducible apply State.setCore_keeps
    | with_reducible apply State.freeHandles_keeps
    | with_reducible apply State.showCore_keeps
    | with_reducible apply State.threadFaults_keeps
    | with_reducible apply Keeps.set_fcx

theorem State.reloadCore_keeps {m : Nat} {s₀ : State} (s : State) (c : Nat) (h : Keeps m s₀ s) (hm : Sub 8490551 m) :
    Keeps m s₀ (State.reloadCore s c) := by
  unfold State.reloadCore
  repeat' first
    | with_reducible assumption
    | (with_reducible refine Sub.of hm ?_); decide
    | with_reducible apply State.showCore_keeps
    | with_reducible apply State.freeHandles_keeps
    | with_reducible apply State.readImage_keeps
    | with_reducible apply State.startLoad_keeps
    | with_reducible apply State.failLoad_keeps
    | with_reducible apply Keeps.ite
    | split
    | with_reducible apply Keeps.of1 ‹_›

theorem State.reloadCores_keeps {m : Nat} {s₀ : State} (s : State) (h : Keeps m s₀ s) (hm : Sub 8490551 m) :
    Keeps m s₀ (State.reloadCores s) := by
  unfold State.reloadCores
  repeat' first
    | intro _
    | with_reducible assumption
    | (with_reducible refine Sub.of hm ?_); decide
    | with_reducible apply State.reloadCore_keeps
    | with_reducible apply Keeps.foldl
    | with_reducible apply Keeps.set_fcx

theorem State.lmemWrite_keeps {m : Nat} {s₀ : State} (s : State) (c : Nat) (t : Nat) (off : Nat) (bs : List Byte) (h : Keeps m s₀ s) (hm : Sub 32768 m) :
    Keeps m s₀ (State.lmemWrite s c t off bs) := by
  unfold State.lmemWrite
  repeat' first
    | with_reducible assumption
    | (with_reducible refine Sub.of hm ?_); decide
    | with_reducible apply State.setCore_keeps

theorem State.emptyCores_keeps {m : Nat} {s₀ : State} (s : State) (h : Keeps m s₀ s) (hm : Sub 8425015 m) :
    Keeps m s₀ (State.emptyCores s) := by
  unfold State.emptyCores
  repeat' first
    | intro _
    | with_reducible assumption
    | (with_reducible refine Sub.of hm ?_); decide
    | with_reducible apply State.freeHandles_keeps
    | with_reducible apply State.showCore_keeps
    | with_reducible apply Keeps.foldl
    | with_reducible apply Keeps.set_fcx

theorem State.standaloneCores_keeps {m : Nat} {s₀ : State} (s : State) (h : Keeps m s₀ s) (hm : Sub 8490551 m) :
    Keeps m s₀ (State.standaloneCores s) := by
  unfold State.standaloneCores
  repeat' first
    | intro _
    | with_reducible assumption
    | (with_reducible refine Sub.of hm ?_); decide
    | with_reducible apply State.reloadCore_keeps
    | with_reducible apply State.setCore_keeps
    | with_reducible apply State.emptyCores_keeps
    | with_reducible apply Keeps.foldl

theorem State.parkCores_keeps {m : Nat} {s₀ : State} (s : State) (h : Keeps m s₀ s) (hm : Sub 8425015 m) :
    Keeps m s₀ (State.parkCores s) := by
  unfold State.parkCores
  repeat' first
    | intro _
    | with_reducible assumption
    | (with_reducible refine Sub.of hm ?_); decide
    | with_reducible apply State.freeHandles_keeps
    | with_reducible apply State.showCore_keeps
    | with_reducible apply Keeps.ite
    | with_reducible apply Keeps.foldl
    | with_reducible apply Keeps.set_fcx

theorem State.reportCycle_keeps {m : Nat} {s₀ : State} (s : State) (cs : List Nat) (h : Keeps m s₀ s) (hm : Sub 8421395 m) :
    Keeps m s₀ (State.reportCycle s cs) := by
  unfold State.reportCycle
  repeat' first
    | intro _
    | with_reducible assumption
    | (with_reducible refine Sub.of hm ?_); decide
    | with_reducible apply State.postNote_keeps
    | with_reducible apply State.raise_keeps
    | with_reducible apply State.fcxCount_keeps
    | with_reducible apply State.setReg_keeps
    | with_reducible apply Keeps.foldl

end Sys2Proof.Machine
end

