-- ==== Sys2Proof/Laws/KeepPrfOps.lean ====
section
/-! SUPPORT. What the operations of Machine/PrfOps.lean can change: each keeps every part of the state that its number does not name,
and the standing properties of `Keeps`. -/

namespace Sys2Proof.Machine

theorem State.showLanes_keeps {m : Nat} {s₀ : State} (s : State) (c : Nat) (h : Keeps m s₀ s) (hm : Sub 3 m) :
    Keeps m s₀ (State.showLanes s c) := by
  unfold State.showLanes
  repeat' first
    | with_reducible assumption
    | (with_reducible refine Sub.of hm ?_); decide
    | with_reducible apply State.setF_keeps

theorem State.showUnits_keeps {m : Nat} {s₀ : State} (s : State) (h : Keeps m s₀ s) (hm : Sub 3 m) :
    Keeps m s₀ (State.showUnits s) := by
  unfold State.showUnits
  repeat' first
    | intro _
    | with_reducible assumption
    | (with_reducible refine Sub.of hm ?_); decide
    | with_reducible apply State.setF_keeps
    | with_reducible apply State.showLanes_keeps
    | with_reducible apply Keeps.ite
    | with_reducible apply Keeps.foldl

theorem State.markFailed_keeps {m : Nat} {s₀ : State} (s : State) (kind : Nat) (phys : Nat) (h : Keeps m s₀ s) (hm : Sub 16 m) :
    Keeps m s₀ (State.markFailed s kind phys) := by
  unfold State.markFailed
  repeat' first
    | with_reducible assumption
    | (with_reducible refine Sub.of hm ?_); decide
    | with_reducible apply Keeps.ite
    | with_reducible apply Keeps.set_prf

theorem State.showLog_keeps {m : Nat} {s₀ : State} (s : State) (h : Keeps m s₀ s) (hm : Sub 3 m) :
    Keeps m s₀ (State.showLog s) := by
  unfold State.showLog
  repeat' first
    | with_reducible assumption
    | (with_reducible refine Sub.of hm ?_); decide
    | with_reducible apply State.setF_keeps

theorem State.logResolve_keeps {m : Nat} {s₀ : State} (s : State) (d : Defect) (state : Nat) (spare : Nat) (h : Keeps m s₀ s) (hm : Sub 19 m) :
    Keeps m s₀ (State.logResolve s d state spare) := by
  unfold State.logResolve
  repeat' first
    | with_reducible assumption
    | (with_reducible refine Sub.of hm ?_); decide
    | with_reducible apply State.showLog_keeps
    | with_reducible apply Keeps.ite
    | with_reducible apply Keeps.set_prf

theorem State.raiseRth_keeps {m : Nat} {s₀ : State} (s : State) (h : Keeps m s₀ s) (hm : Sub 19 m) :
    Keeps m s₀ (State.raiseRth s) := by
  unfold State.raiseRth
  repeat' first
    | with_reducible assumption
    | (with_reducible refine Sub.of hm ?_); decide
    | with_reducible apply State.raise_keeps

theorem State.setUnit_keeps {m : Nat} {s₀ : State} (s : State) (kind : Nat) (l : Nat) (phys : Nat) (h : Keeps m s₀ s) (hm : Sub 16 m) :
    Keeps m s₀ (State.setUnit s kind l phys) := by
  unfold State.setUnit
  repeat' first
    | with_reducible assumption
    | (with_reducible refine Sub.of hm ?_); decide
    | with_reducible apply Keeps.set_prf

theorem State.replaceUnit_keeps {m : Nat} {s₀ : State} (s : State) (kind : Nat) (phys : Nat) (h : Keeps m s₀ s) (hm : Sub 19 m) :
    Keeps m s₀ (State.replaceUnit s kind phys) := by
  unfold State.replaceUnit
  repeat' first
    | with_reducible assumption
    | (with_reducible refine Sub.of hm ?_); decide
    | with_reducible apply State.markFailed_keeps
    | with_reducible apply State.logResolve_keeps
    | with_reducible apply State.raiseRth_keeps
    | with_reducible apply State.setUnit_keeps
    | split
    | dsimp only

theorem State.swapFailed_keeps {m : Nat} {s₀ : State} (s : State) (h : Keeps m s₀ s) (hm : Sub 19 m) :
    Keeps m s₀ (State.swapFailed s) := by
  unfold State.swapFailed
  repeat' first
    | intro _
    | with_reducible assumption
    | (with_reducible refine Sub.of hm ?_); decide
    | with_reducible apply State.showUnits_keeps
    | with_reducible apply State.replaceUnit_keeps
    | with_reducible apply Keeps.ite
    | with_reducible apply Keeps.foldl
    | with_reducible apply Keeps.set_prf

theorem State.logAdd_keeps {m : Nat} {s₀ : State} (s : State) (e : RepairEntry) (h : Keeps m s₀ s) (hm : Sub 19 m) :
    Keeps m s₀ (State.logAdd s e).1 := by
  unfold State.logAdd
  repeat' first
    | with_reducible assumption
    | (with_reducible refine Sub.of hm ?_); decide
    | with_reducible apply State.showLog_keeps
    | with_reducible apply State.setF_keeps
    | split
    | with_reducible apply Keeps.set_prf

theorem State.showSafelight_keeps {m : Nat} {s₀ : State} (s : State) (h : Keeps m s₀ s) (hm : Sub 3 m) :
    Keeps m s₀ (State.showSafelight s) := by
  unfold State.showSafelight
  repeat' first
    | with_reducible assumption
    | (with_reducible refine Sub.of hm ?_); decide
    | with_reducible apply State.setF_keeps
    | with_reducible apply Keeps.ite

theorem State.unitFails_keeps {m : Nat} {s₀ : State} (s : State) (tai : Nat) (kind : Nat) (phys : Nat) (h : Keeps m s₀ s) (hm : Sub 19 m) :
    Keeps m s₀ (State.unitFails s tai kind phys) := by
  unfold State.unitFails
  repeat' first
    | with_reducible assumption
    | (with_reducible refine Sub.of hm ?_); decide
    | with_reducible apply State.logAdd_keeps
    | with_reducible apply State.markFailed_keeps
    | with_reducible apply Keeps.ite
    | with_reducible apply Keeps.set_prf

end Sys2Proof.Machine
end

