-- ==== Sys2Proof/Laws/KeepCphOps.lean ====
section
/-! SUPPORT. What the operations of Machine/CphOps.lean can change: each keeps every part of the state that its number does not name,
and the standing properties of `Keeps`. -/

namespace Sys2Proof.Machine

theorem State.showCipher_keeps {m : Nat} {s₀ : State} (s : State) (h : Keeps m s₀ s) (hm : Sub 3 m) :
    Keeps m s₀ (State.showCipher s) := by
  unfold State.showCipher
  repeat' first
    | with_reducible assumption
    | (with_reducible refine Sub.of hm ?_); decide
    | with_reducible apply State.setF_keeps

theorem State.cipherDReset_keeps {m : Nat} {s₀ : State} (s : State) (h : Keeps m s₀ s) (hm : Sub 65539 m) :
    Keeps m s₀ (State.cipherDReset s) := by
  unfold State.cipherDReset
  repeat' first
    | with_reducible assumption
    | (with_reducible refine Sub.of hm ?_); decide
    | with_reducible apply State.showCipher_keeps
    | with_reducible apply Keeps.set_cph

theorem State.cphCount_keeps {m : Nat} {s₀ : State} (s : State) (k : Nat) (n : Nat) (h : Keeps m s₀ s) (hm : Sub 3 m) :
    Keeps m s₀ (State.cphCount s k n) := by
  unfold State.cphCount
  repeat' first
    | with_reducible assumption
    | (with_reducible refine Sub.of hm ?_); decide
    | with_reducible apply State.bump_keeps

theorem State.cipherReply_keeps {m : Nat} {s₀ : State} (s : State) (core : Nat) (chan : Nat) (status : Nat) (tag : Nat) (blocks : Nat) (h : Keeps m s₀ s) (hm : Sub 32768 m) :
    Keeps m s₀ (State.cipherReply s core chan status tag blocks) := by
  unfold State.cipherReply
  repeat' first
    | with_reducible assumption
    | (with_reducible refine Sub.of hm ?_); decide
    | with_reducible apply State.replyOn_keeps

theorem State.endDesc_keeps {m : Nat} {s₀ : State} (s : State) (n : Nat) (status : Nat) (blocks : Nat) (h : Keeps m s₀ s) (hm : Sub 98307 m) :
    Keeps m s₀ (State.endDesc s n status blocks) := by
  unfold State.endDesc
  repeat' first
    | with_reducible assumption
    | (with_reducible refine Sub.of hm ?_); decide
    | with_reducible apply State.dropTransient_keeps
    | with_reducible apply State.cphCount_keeps
    | with_reducible apply State.showCipher_keeps
    | with_reducible apply State.cipherReply_keeps
    | with_reducible apply Keeps.ite
    | split
    | with_reducible apply Keeps.set_cph

theorem State.cipherOutput_keeps {m : Nat} {s₀ : State} (s : State) (d : CphDesc) (n : Nat) (h : Keeps m s₀ s) (hm : Sub 32768 m) :
    Keeps m s₀ (State.cipherOutput s d n) := by
  unfold State.cipherOutput
  repeat' first
    | with_reducible assumption
    | (with_reducible refine Sub.of hm ?_); decide
    | with_reducible apply State.lmemWrite_keeps
    | with_reducible apply Keeps.ite

theorem State.squashDesc_keeps {m : Nat} {s₀ : State} (s : State) (n : Nat) (h : Keeps m s₀ s) (hm : Sub 98307 m) :
    Keeps m s₀ (State.squashDesc s n) := by
  unfold State.squashDesc
  repeat' first
    | with_reducible assumption
    | (with_reducible refine Sub.of hm ?_); decide
    | with_reducible apply State.endDesc_keeps
    | with_reducible apply State.cipherOutput_keeps
    | with_reducible apply Keeps.ite
    | split

theorem State.cipherDrain_keeps {m : Nat} {s₀ : State} (s : State) (g : Nat) (h : Keeps m s₀ s) (hm : Sub 98307 m) :
    Keeps m s₀ (State.cipherDrain s g) := by
  unfold State.cipherDrain
  repeat' first
    | intro _
    | with_reducible assumption
    | (with_reducible refine Sub.of hm ?_); decide
    | with_reducible apply State.squashDesc_keeps
    | with_reducible apply Keeps.foldl
    | with_reducible apply Keeps.set_cph

theorem State.setKeySlot_keeps {m : Nat} {s₀ : State} (s : State) (n : Nat) (k : KeySlot) (h : Keeps m s₀ s) (hm : Sub 65536 m) :
    Keeps m s₀ (State.setKeySlot s n k) := by
  unfold State.setKeySlot
  repeat' first
    | with_reducible assumption
    | (with_reducible refine Sub.of hm ?_); decide
    | with_reducible apply Keeps.set_cph

theorem State.keyEvent_keeps {m : Nat} {s₀ : State} (s : State) (n : Nat) (typ : Nat) (h : Keeps m s₀ s) (hm : Sub 8390199 m) :
    Keeps m s₀ (State.keyEvent s n typ) := by
  unfold State.keyEvent
  repeat' first
    | with_reducible assumption
    | (with_reducible refine Sub.of hm ?_); decide
    | with_reducible apply State.postEvent_keeps

theorem State.exhaustKey_keeps {m : Nat} {s₀ : State} (s : State) (n : Nat) (h : Keeps m s₀ s) (hm : Sub 8455735 m) :
    Keeps m s₀ (State.exhaustKey s n) := by
  unfold State.exhaustKey
  repeat' first
    | with_reducible assumption
    | (with_reducible refine Sub.of hm ?_); decide
    | with_reducible apply State.keyEvent_keeps
    | with_reducible apply State.setKeySlot_keeps
    | with_reducible apply Keeps.ite

theorem State.reserveKey_keeps {m : Nat} {s₀ : State} (s : State) (n : Nat) (blocks : Nat) (h : Keeps m s₀ s) (hm : Sub 8455735 m) :
    Keeps m s₀ (State.reserveKey s n blocks).1 := by
  unfold State.reserveKey
  repeat' first
    | with_reducible assumption
    | (with_reducible refine Sub.of hm ?_); decide
    | with_reducible apply State.cphCount_keeps
    | with_reducible apply State.exhaustKey_keeps
    | with_reducible apply State.setKeySlot_keeps
    | with_reducible apply State.keyEvent_keeps
    | with_reducible apply Keeps.ite
    | with_reducible apply Keeps.ite1
    | with_reducible apply Keeps.ite2

theorem State.derivePair_keeps {m : Nat} {s₀ : State} (s : State) (slot : Nat) (domain : Nat) (epoch : Nat) (a : Nat) (b : Nat) (h : Keeps m s₀ s) (hm : Sub 8455735 m) :
    Keeps m s₀ (State.derivePair s slot domain epoch a b).1 := by
  unfold State.derivePair
  repeat' first
    | with_reducible assumption
    | (with_reducible refine Sub.of hm ?_); decide
    | with_reducible apply State.reserveKey_keeps
    | with_reducible apply Keeps.ite
    | with_reducible apply Keeps.ite1
    | with_reducible apply Keeps.ite2

theorem State.clearKeys_keeps {m : Nat} {s₀ : State} (s : State) (h : Keeps m s₀ s) (hm : Sub 65536 m) :
    Keeps m s₀ (State.clearKeys s) := by
  unfold State.clearKeys
  repeat' first
    | with_reducible assumption
    | (with_reducible refine Sub.of hm ?_); decide
    | with_reducible apply Keeps.set_cph

theorem State.suspendUnits_keeps {m : Nat} {s₀ : State} (s : State) (us : List Nat) (h : Keeps m s₀ s) (hm : Sub 65539 m) :
    Keeps m s₀ (State.suspendUnits s us) := by
  unfold State.suspendUnits
  repeat' first
    | with_reducible assumption
    | (with_reducible refine Sub.of hm ?_); decide
    | with_reducible apply State.showCipher_keeps
    | with_reducible apply Keeps.ite
    | with_reducible apply Keeps.set_cph

theorem State.keyAccess_keeps {m : Nat} {s₀ : State} (s : State) (k : AccessKind) (init : Nat) (slot : Nat) (h : Keeps m s₀ s) (hm : Sub 1043 m) :
    Keeps m s₀ (State.keyAccess s k init slot).1 := by
  unfold State.keyAccess
  repeat' first
    | with_reducible assumption
    | (with_reducible refine Sub.of hm ?_); decide
    | with_reducible apply State.deny_keeps
    | with_reducible apply Keeps.ite
    | split

theorem State.setDesc_keeps {m : Nat} {s₀ : State} (s : State) (n : Nat) (d : CphDesc) (h : Keeps m s₀ s) (hm : Sub 65539 m) :
    Keeps m s₀ (State.setDesc s n d) := by
  unfold State.setDesc
  repeat' first
    | with_reducible assumption
    | (with_reducible refine Sub.of hm ?_); decide
    | with_reducible apply State.showCipher_keeps
    | with_reducible apply Keeps.set_cph

theorem State.writeDerived_keeps {m : Nat} {s₀ : State} (s : State) (d : CphDesc) (key : Nat) (h : Keeps m s₀ s) (hm : Sub 196608 m) :
    Keeps m s₀ (State.writeDerived s d key) := by
  unfold State.writeDerived
  repeat' first
    | with_reducible assumption
    | (with_reducible refine Sub.of hm ?_); decide
    | with_reducible apply Keeps.ite
    | with_reducible apply Keeps.set_cph
    | with_reducible apply Keeps.set_drt

theorem State.finishDesc_keeps {m : Nat} {s₀ : State} (s : State) (n : Nat) (h : Keeps m s₀ s) (hm : Sub 229379 m) :
    Keeps m s₀ (State.finishDesc s n) := by
  unfold State.finishDesc
  repeat' first
    | with_reducible assumption
    | (with_reducible refine Sub.of hm ?_); decide
    | with_reducible apply State.endDesc_keeps
    | with_reducible apply State.writeDerived_keeps
    | with_reducible apply State.cipherOutput_keeps
    | with_reducible apply Keeps.ite
    | split

theorem State.releaseCipher_keeps {m : Nat} {s₀ : State} (s : State) (h : Keeps m s₀ s) (hm : Sub 3 m) :
    Keeps m s₀ (State.releaseCipher s) := by
  unfold State.releaseCipher
  repeat' first
    | with_reducible assumption
    | (with_reducible refine Sub.of hm ?_); decide
    | with_reducible apply State.showCipher_keeps
    | with_reducible apply State.setF_keeps

end Sys2Proof.Machine
end

