-- ==== Sys2Proof/Laws/KeepCph.lean ====
section
/-! SUPPORT. What the operations of Machine/Cph.lean can change: each keeps every part of the state that its number does not name,
and the standing properties of `Keeps`. -/

namespace Sys2Proof.Machine

theorem execCphRngRead_keeps {m : Nat} {s₀ : State} (init : Nat) (wide : Bool) (upper : Bool) (s : State) (h : Keeps m s₀ s) (hm : Sub 8389651 m) :
    KeepsR m s₀ (execCphRngRead init wide upper s) := by
  unfold execCphRngRead
  repeat' first
    | with_reducible assumption
    | (with_reducible refine Sub.of hm ?_); decide
    | with_reducible apply State.blockAccess_keeps
    | with_reducible apply State.deniedRead_keeps
    | with_reducible apply State.emit_keeps
    | with_reducible apply State.draw_keeps
    | with_reducible apply KeepsR.ite
    | with_reducible apply Keeps.ite
    | with_reducible apply KeepsR.next

theorem State.keyAllowed_keeps {m : Nat} {s₀ : State} (s : State) (o : Origin) (op : Nat) (a : KeyArgs) (h : Keeps m s₀ s) (hm : Sub 1043 m) :
    Keeps m s₀ (State.keyAllowed s o op a).1 := by
  unfold State.keyAllowed
  repeat' first
    | with_reducible assumption
    | (with_reducible refine Sub.of hm ?_); decide
    | with_reducible apply State.keyAccess_keeps
    | with_reducible apply Keeps.ite
    | with_reducible apply Keeps.ite1
    | with_reducible apply Keeps.ite2

theorem State.refuseDesc_keeps {m : Nat} {s₀ : State} (s : State) (d : CphDesc) (status : Nat) (h : Keeps m s₀ s) (hm : Sub 98307 m) :
    Keeps m s₀ (State.refuseDesc s d status) := by
  unfold State.refuseDesc
  repeat' first
    | with_reducible assumption
    | (with_reducible refine Sub.of hm ?_); decide
    | with_reducible apply State.dropTransient_keeps
    | with_reducible apply State.cphCount_keeps
    | with_reducible apply State.cipherReply_keeps
    | with_reducible apply Keeps.ite

theorem State.descKey_keeps {m : Nat} {s₀ : State} (s : State) (d : CphDesc) (h : Keeps m s₀ s) (hm : Sub 1043 m) :
    Keeps m s₀ (State.descKey s d).1 := by
  unfold State.descKey
  repeat' first
    | with_reducible assumption
    | (with_reducible refine Sub.of hm ?_); decide
    | with_reducible apply State.keyAccess_keeps
    | with_reducible apply Keeps.ite
    | with_reducible apply Keeps.ite1
    | with_reducible apply Keeps.ite2

theorem State.acceptDesc_keeps {m : Nat} {s₀ : State} (s : State) (d : CphDesc) (h : Keeps m s₀ s) (hm : Sub 8488503 m) :
    Keeps m s₀ (State.acceptDesc s d) := by
  unfold State.acceptDesc
  repeat' first
    | with_reducible assumption
    | (with_reducible refine Sub.of hm ?_); decide
    | with_reducible apply State.cphCount_keeps
    | with_reducible apply State.refuseDesc_keeps
    | with_reducible apply State.descKey_keeps
    | with_reducible apply State.reserveKey_keeps
    | with_reducible apply State.setDesc_keeps
    | with_reducible apply Keeps.ite
    | split
    | with_reducible apply Keeps.of1 ‹_›
    | with_reducible apply Keeps.set_cph

theorem State.takeDesc_keeps {m : Nat} {s₀ : State} (s : State) (core : Nat) (thread : Nat) (op : Nat) (h : Keeps m s₀ s) (hm : Sub 8488503 m) :
    KeepsR m s₀ (State.takeDesc s core thread op) := by
  unfold State.takeDesc
  repeat' first
    | with_reducible assumption
    | (with_reducible refine Sub.of hm ?_); decide
    | with_reducible apply State.settleCores_keeps
    | with_reducible apply State.acceptDesc_keeps
    | with_reducible apply State.takeReq_keeps
    | with_reducible apply KeepsR.ite
    | with_reducible apply Keeps.ite
    | with_reducible apply KeepsR.next
    | split

theorem execDecrypt_keeps {m : Nat} {s₀ : State} (core : Fin 128) (thread : Fin 8) (s : State) (h : Keeps m s₀ s) (hm : Sub 8488503 m) :
    KeepsR m s₀ (execDecrypt core thread s) := by
  unfold execDecrypt
  repeat' first
    | with_reducible assumption
    | (with_reducible refine Sub.of hm ?_); decide
    | with_reducible apply State.takeDesc_keeps
    | with_reducible apply KeepsR.next

theorem execDerive_keeps {m : Nat} {s₀ : State} (core : Fin 128) (thread : Fin 8) (s : State) (h : Keeps m s₀ s) (hm : Sub 8488503 m) :
    KeepsR m s₀ (execDerive core thread s) := by
  unfold execDerive
  repeat' first
    | with_reducible assumption
    | (with_reducible refine Sub.of hm ?_); decide
    | with_reducible apply State.takeDesc_keeps
    | with_reducible apply KeepsR.next

theorem State.keyTake_keeps {m : Nat} {s₀ : State} (s : State) (o : Origin) (op : Nat) (slot : Nat) (kek : Nat) (h : Keeps m s₀ s) (hm : Sub 8389651 m) :
    Keeps m s₀ (State.keyTake s o op slot kek).1 := by
  unfold State.keyTake
  repeat' first
    | with_reducible assumption
    | (with_reducible refine Sub.of hm ?_); decide
    | with_reducible apply State.blockAccess_keeps
    | with_reducible apply State.setF_keeps
    | with_reducible apply Keeps.ite
    | split
    | dsimp only

theorem State.keyEnd_keeps {m : Nat} {s₀ : State} (s : State) (o : Origin) (status : Nat) (body : List Byte) (h : Keeps m s₀ s) (hm : Sub 8390199 m) :
    Keeps m s₀ (State.keyEnd s o status body) := by
  unfold State.keyEnd
  repeat' first
    | intro _
    | with_reducible assumption
    | (with_reducible refine Sub.of hm ?_); decide
    | with_reducible apply State.setReg_keeps
    | with_reducible apply State.setF_keeps
    | with_reducible apply State.complete_keeps
    | with_reducible apply Keeps.foldl
    | split

theorem State.keyCommand_keeps {m : Nat} {s₀ : State} (s : State) (o : Origin) (op : Nat) (slot : Nat) (kek : Nat) (f : State → KeyArgs → Res) (h : Keeps m s₀ s) (hf : ∀ x0 x1, Keeps m s₀ x0 → KeepsR m s₀ (f x0 x1)) (hm : Sub 8390199 m) :
    KeepsR m s₀ (State.keyCommand s o op slot kek f) := by
  unfold State.keyCommand
  repeat' first
    | with_reducible assumption
    | (with_reducible refine Sub.of hm ?_); decide
    | with_reducible apply hf
    | with_reducible apply State.keyTake_keeps
    | with_reducible apply State.keyAllowed_keeps
    | with_reducible apply State.keyEnd_keeps
    | with_reducible apply KeepsR.ite
    | with_reducible apply Keeps.ite
    | with_reducible apply KeepsR.next
    | split
    | with_reducible apply Keeps.of1 ‹_›

theorem State.flushSlot_keeps {m : Nat} {s₀ : State} (s : State) (n : Nat) (h : Keeps m s₀ s) (hm : Sub 229379 m) :
    Keeps m s₀ (State.flushSlot s n) := by
  unfold State.flushSlot
  repeat' first
    | intro _
    | with_reducible assumption
    | (with_reducible refine Sub.of hm ?_); decide
    | with_reducible apply State.finishDesc_keeps
    | with_reducible apply Keeps.foldl

theorem execKeyLoad_keeps {m : Nat} {s₀ : State} (o : Origin) (slot : BitVec 16) (s : State) (h : Keeps m s₀ s) (hm : Sub 8619575 m) :
    KeepsR m s₀ (execKeyLoad o slot s) := by
  unfold execKeyLoad
  repeat' first
    | intro _
    | with_reducible assumption
    | (with_reducible refine Sub.of hm ?_); decide
    | with_reducible apply State.keyCommand_keeps
    | with_reducible apply State.keyEnd_keeps
    | with_reducible apply State.settleCores_keeps
    | with_reducible apply State.setKeySlot_keeps
    | with_reducible apply State.flushSlot_keeps
    | with_reducible apply KeepsR.ite
    | with_reducible apply Keeps.ite
    | with_reducible apply KeepsR.next

theorem execKeyUnwrap_keeps {m : Nat} {s₀ : State} (o : Origin) (slot : BitVec 16) (kek : BitVec 16) (s : State) (h : Keeps m s₀ s) (hm : Sub 8619575 m) :
    KeepsR m s₀ (execKeyUnwrap o slot kek s) := by
  unfold execKeyUnwrap
  repeat' first
    | intro _
    | with_reducible assumption
    | (with_reducible refine Sub.of hm ?_); decide
    | with_reducible apply State.keyCommand_keeps
    | with_reducible apply State.keyEnd_keeps
    | with_reducible apply State.keyAccess_keeps
    | with_reducible apply State.reserveKey_keeps
    | with_reducible apply State.flushSlot_keeps
    | with_reducible apply State.settleCores_keeps
    | with_reducible apply State.setKeySlot_keeps
    | with_reducible apply KeepsR.ite
    | with_reducible apply Keeps.ite
    | with_reducible apply KeepsR.next
    | split

theorem execKeyErase_keeps {m : Nat} {s₀ : State} (o : Origin) (slot : BitVec 16) (s : State) (h : Keeps m s₀ s) (hm : Sub 8619575 m) :
    KeepsR m s₀ (execKeyErase o slot s) := by
  unfold execKeyErase
  repeat' first
    | intro _
    | with_reducible assumption
    | (with_reducible refine Sub.of hm ?_); decide
    | with_reducible apply State.keyCommand_keeps
    | with_reducible apply State.settleCores_keeps
    | with_reducible apply State.keyEnd_keeps
    | with_reducible apply State.setKeySlot_keeps
    | with_reducible apply State.flushSlot_keeps
    | with_reducible apply KeepsR.next

theorem execKeyAttr_keeps {m : Nat} {s₀ : State} (o : Origin) (slot : BitVec 16) (s : State) (h : Keeps m s₀ s) (hm : Sub 8455735 m) :
    KeepsR m s₀ (execKeyAttr o slot s) := by
  unfold execKeyAttr
  repeat' first
    | with_reducible assumption
    | (with_reducible refine Sub.of hm ?_); decide
    | with_reducible apply State.keyTake_keeps
    | with_reducible apply State.keyAllowed_keeps
    | with_reducible apply State.keyEnd_keeps
    | with_reducible apply State.setKeySlot_keeps
    | with_reducible apply State.exhaustKey_keeps
    | with_reducible apply KeepsR.ite
    | with_reducible apply Keeps.ite
    | with_reducible apply KeepsR.next
    | split
    | with_reducible apply Keeps.of1 ‹_›

theorem execKeyQuery_keeps {m : Nat} {s₀ : State} (o : Origin) (slot : BitVec 16) (s : State) (h : Keeps m s₀ s) (hm : Sub 8390199 m) :
    KeepsR m s₀ (execKeyQuery o slot s) := by
  unfold execKeyQuery
  repeat' first
    | with_reducible assumption
    | (with_reducible refine Sub.of hm ?_); decide
    | with_reducible apply State.keyTake_keeps
    | with_reducible apply State.keyAllowed_keeps
    | with_reducible apply State.keyEnd_keeps
    | with_reducible apply State.setReg_keeps
    | with_reducible apply KeepsR.ite
    | with_reducible apply Keeps.ite
    | with_reducible apply KeepsR.next
    | split
    | with_reducible apply Keeps.of1 ‹_›

theorem execCipherComplete_keeps {m : Nat} {s₀ : State} (s : State) (h : Keeps m s₀ s) (hm : Sub 8618003 m) :
    KeepsR m s₀ (execCipherComplete s) := by
  unfold execCipherComplete
  repeat' first
    | with_reducible assumption
    | (with_reducible refine Sub.of hm ?_); decide
    | with_reducible apply State.settleCores_keeps
    | with_reducible apply State.finishDesc_keeps
    | with_reducible apply State.after_keeps
    | with_reducible apply KeepsR.ite
    | with_reducible apply Keeps.ite
    | with_reducible apply KeepsR.next
    | with_reducible apply Keeps.foldl
    | split
    | dsimp only

theorem execEntropyFailure_keeps {m : Nat} {s₀ : State} (test : Fin 3) (s : State) (h : Keeps m s₀ s) (hm : Sub 8390199 m) :
    KeepsR m s₀ (execEntropyFailure test s) := by
  unfold execEntropyFailure
  repeat' first
    | with_reducible assumption
    | (with_reducible refine Sub.of hm ?_); decide
    | with_reducible apply State.setF_keeps
    | with_reducible apply State.raise_keeps
    | with_reducible apply State.postEvent_keeps
    | with_reducible apply KeepsR.next

theorem execCipherDispatch_keeps {m : Nat} {s₀ : State} (s : State) (h : Keeps m s₀ s) (hm : Sub 65539 m) :
    KeepsR m s₀ (execCipherDispatch s) := by
  unfold execCipherDispatch
  repeat' first
    | with_reducible assumption
    | (with_reducible refine Sub.of hm ?_); decide
    | with_reducible apply State.setDesc_keeps
    | with_reducible apply State.cphCount_keeps
    | with_reducible apply State.after_keeps
    | with_reducible apply KeepsR.ite
    | with_reducible apply Keeps.ite
    | with_reducible apply KeepsR.next
    | with_reducible apply Keeps.foldl
    | split

theorem execDescriptorPriorityRaise_keeps {m : Nat} {s₀ : State} (s : State) (h : Keeps m s₀ s) (hm : Sub 65539 m) :
    KeepsR m s₀ (execDescriptorPriorityRaise s) := by
  unfold execDescriptorPriorityRaise
  repeat' first
    | with_reducible assumption
    | (with_reducible refine Sub.of hm ?_); decide
    | with_reducible apply State.after_keeps
    | with_reducible apply State.setDesc_keeps
    | with_reducible apply KeepsR.ite
    | with_reducible apply Keeps.ite
    | with_reducible apply KeepsR.next
    | with_reducible apply Keeps.foldl
    | split
    | dsimp only

theorem execDrbgReseed_keeps {m : Nat} {s₀ : State} (inst : Fin 27) (s : State) (h : Keeps m s₀ s) (hm : Sub 65539 m) :
    KeepsR m s₀ (execDrbgReseed inst s) := by
  unfold execDrbgReseed
  repeat' first
    | with_reducible assumption
    | (with_reducible refine Sub.of hm ?_); decide
    | with_reducible apply State.suspendUnits_keeps
    | with_reducible apply KeepsR.ite
    | with_reducible apply Keeps.ite
    | with_reducible apply KeepsR.next
    | with_reducible apply Keeps.set_cph

theorem execCipherEntropyTimeout_keeps {m : Nat} {s₀ : State} (s : State) (h : Keeps m s₀ s) (hm : Sub 8486931 m) :
    KeepsR m s₀ (execCipherEntropyTimeout s) := by
  unfold execCipherEntropyTimeout
  repeat' first
    | with_reducible assumption
    | (with_reducible refine Sub.of hm ?_); decide
    | with_reducible apply State.settleCores_keeps
    | with_reducible apply State.endDesc_keeps
    | with_reducible apply State.after_keeps
    | with_reducible apply KeepsR.ite
    | with_reducible apply Keeps.ite
    | with_reducible apply KeepsR.next
    | with_reducible apply Keeps.foldl
    | split

theorem execUnitKnownAnswerTest_keeps {m : Nat} {s₀ : State} (unit : Fin 26) (pass : Bool) (s : State) (h : Keeps m s₀ s) (hm : Sub 8486931 m) :
    KeepsR m s₀ (execUnitKnownAnswerTest unit pass s) := by
  unfold execUnitKnownAnswerTest
  repeat' first
    | intro _
    | with_reducible assumption
    | (with_reducible refine Sub.of hm ?_); decide
    | with_reducible apply State.unitFails_keeps
    | with_reducible apply State.cphCount_keeps
    | with_reducible apply State.raise_keeps
    | with_reducible apply State.setF_keeps
    | with_reducible apply State.settleCores_keeps
    | with_reducible apply State.drawBytes_keeps
    | with_reducible apply State.endDesc_keeps
    | with_reducible apply State.lmemWrite_keeps
    | with_reducible apply KeepsR.ite
    | with_reducible apply Keeps.ite
    | with_reducible apply KeepsR.next
    | with_reducible apply Keeps.foldl

theorem execEntropyRecovered_keeps {m : Nat} {s₀ : State} (s : State) (h : Keeps m s₀ s) (hm : Sub 8455735 m) :
    KeepsR m s₀ (execEntropyRecovered s) := by
  unfold execEntropyRecovered
  repeat' first
    | with_reducible assumption
    | (with_reducible refine Sub.of hm ?_); decide
    | with_reducible apply State.setF_keeps
    | with_reducible apply State.postEvent_keeps
    | with_reducible apply State.showCipher_keeps
    | with_reducible apply KeepsR.ite
    | with_reducible apply Keeps.ite
    | with_reducible apply KeepsR.next
    | with_reducible apply Keeps.set_cph

theorem execCipherResume_keeps {m : Nat} {s₀ : State} (s : State) (h : Keeps m s₀ s) (hm : Sub 65539 m) :
    KeepsR m s₀ (execCipherResume s) := by
  unfold execCipherResume
  repeat' first
    | with_reducible assumption
    | (with_reducible refine Sub.of hm ?_); decide
    | with_reducible apply State.after_keeps
    | with_reducible apply State.setDesc_keeps
    | with_reducible apply KeepsR.ite
    | with_reducible apply Keeps.ite
    | with_reducible apply KeepsR.next
    | with_reducible apply Keeps.foldl
    | split

theorem execEncrypt_keeps {m : Nat} {s₀ : State} (core : Fin 128) (thread : Fin 8) (s : State) (h : Keeps m s₀ s) (hm : Sub 8488503 m) :
    KeepsR m s₀ (execEncrypt core thread s) := by
  unfold execEncrypt
  repeat' first
    | with_reducible assumption
    | (with_reducible refine Sub.of hm ?_); decide
    | with_reducible apply State.takeDesc_keeps
    | with_reducible apply KeepsR.next

end Sys2Proof.Machine
end

