-- ==== Sys2Proof/Laws/KeepRegOps.lean ====
section
/-! SUPPORT. What the operations of Machine/RegOps.lean can change: each keeps every part of the state that its number does not name,
and the standing properties of `Keeps`. -/

namespace Sys2Proof.Machine

theorem State.storeReg_keeps {m : Nat} {s₀ : State} (s : State) (ports : Nat → Bool) (blk : Nat) (bo : Nat) (r : Reg) (i : Nat) (j : Nat) (wide : Bool) (upper : Bool) (v : Word) (h : Keeps m s₀ s) (hm : Sub 3 m) :
    Keeps m s₀ (State.storeReg s ports blk bo r i j wide upper v) := by
  unfold State.storeReg
  repeat' first
    | with_reducible assumption
    | (with_reducible refine Sub.of hm ?_); decide
    | with_reducible apply State.refuseWrite_keeps
    | with_reducible apply State.setReg_keeps
    | with_reducible apply Keeps.ite

end Sys2Proof.Machine
end

