-- ==== Sys2Proof/Laws/KeepTmOps.lean ====
section
/-! SUPPORT. What the operations of Machine/TmOps.lean can change: each keeps every part of the state that its number does not name,
and the standing properties of `Keeps`. -/

namespace Sys2Proof.Machine

theorem State.resetBuckets_keeps {m : Nat} {s₀ : State} (s : State) (h : Keeps m s₀ s) (hm : Sub 16384 m) :
    Keeps m s₀ (State.resetBuckets s) := by
  unfold State.resetBuckets
  repeat' first
    | with_reducible assumption
    | (with_reducible refine Sub.of hm ?_); decide
    | with_reducible apply Keeps.set_tm

theorem State.showQueue_keeps {m : Nat} {s₀ : State} (s : State) (h : Keeps m s₀ s) (hm : Sub 3 m) :
    Keeps m s₀ (State.showQueue s) := by
  unfold State.showQueue
  repeat' first
    | with_reducible assumption
    | (with_reducible refine Sub.of hm ?_); decide
    | with_reducible apply State.setF_keeps
    | with_reducible apply State.setReg_keeps
    | with_reducible apply Keeps.ite

theorem State.tmDrop_keeps {m : Nat} {s₀ : State} (s : State) (id : Nat) (k : Nat) (h : Keeps m s₀ s) (hm : Sub 8392247 m) :
    Keeps m s₀ (State.tmDrop s id k) := by
  unfold State.tmDrop
  repeat' first
    | with_reducible assumption
    | (with_reducible refine Sub.of hm ?_); decide
    | with_reducible apply State.dropPkt_keeps
    | with_reducible apply State.bump_keeps

theorem State.dropQueued_keeps {m : Nat} {s₀ : State} (s : State) (q : Nat) (id : Nat) (k : Nat) (h : Keeps m s₀ s) (hm : Sub 8392247 m) :
    Keeps m s₀ (State.dropQueued s q id k) := by
  unfold State.dropQueued
  repeat' first
    | with_reducible assumption
    | (with_reducible refine Sub.of hm ?_); decide
    | with_reducible apply State.tmDrop_keeps
    | with_reducible apply State.popLst_keeps

theorem State.dropQueues_keeps {m : Nat} {s₀ : State} (s : State) (k : Nat) (qs : List Nat) (h : Keeps m s₀ s) (hm : Sub 8392247 m) :
    Keeps m s₀ (State.dropQueues s k qs) := by
  unfold State.dropQueues
  repeat' first
    | intro _
    | with_reducible assumption
    | (with_reducible refine Sub.of hm ?_); decide
    | with_reducible apply State.showQueue_keeps
    | with_reducible apply State.dropQueued_keeps
    | with_reducible apply Keeps.foldl

theorem State.setNrun_keeps {m : Nat} {s₀ : State} (s : State) (l : Nat) (i : Nat) (r : NodeRun) (h : Keeps m s₀ s) (hm : Sub 16384 m) :
    Keeps m s₀ (State.setNrun s l i r) := by
  unfold State.setNrun
  repeat' first
    | with_reducible assumption
    | (with_reducible refine Sub.of hm ?_); decide
    | with_reducible apply Keeps.set_tm

theorem State.swapNode_keeps {m : Nat} {s₀ : State} (s : State) (l : Nat) (i : Nat) (n : NodeRec) (h : Keeps m s₀ s) (hm : Sub 16384 m) :
    Keeps m s₀ (State.swapNode s l i n) := by
  unfold State.swapNode
  repeat' first
    | with_reducible assumption
    | (with_reducible refine Sub.of hm ?_); decide
    | with_reducible apply State.setNrun_keeps
    | with_reducible apply Keeps.ite

theorem State.showNode_keeps {m : Nat} {s₀ : State} (s : State) (h : Keeps m s₀ s) (hm : Sub 3 m) :
    Keeps m s₀ (State.showNode s) := by
  unfold State.showNode
  repeat' first
    | with_reducible assumption
    | (with_reducible refine Sub.of hm ?_); decide
    | with_reducible apply State.showQueue_keeps
    | with_reducible apply State.setReg_keeps
    | with_reducible apply Keeps.ite

theorem State.swapEpoch_keeps {m : Nat} {s₀ : State} (s : State) (shadow : Tab NodeRec) (h : Keeps m s₀ s) (hm : Sub 8408631 m) :
    Keeps m s₀ (State.swapEpoch s shadow) := by
  unfold State.swapEpoch
  repeat' first
    | intro _
    | with_reducible assumption
    | (with_reducible refine Sub.of hm ?_); decide
    | with_reducible apply State.swapNode_keeps
    | with_reducible apply State.setNrun_keeps
    | with_reducible apply State.showNode_keeps
    | with_reducible apply State.dropQueues_keeps
    | with_reducible apply Keeps.ite
    | with_reducible apply Keeps.foldl
    | with_reducible apply Keeps.set_tm

theorem State.writeNode_keeps {m : Nat} {s₀ : State} (s : State) (i : Nat) (v : Word) (h : Keeps m s₀ s) (hm : Sub 16387 m) :
    Keeps m s₀ (State.writeNode s i v) := by
  unfold State.writeNode
  repeat' first
    | with_reducible assumption
    | (with_reducible refine Sub.of hm ?_); decide
    | with_reducible apply State.refuseWrite_keeps
    | with_reducible apply State.showNode_keeps
    | with_reducible apply Keeps.ite
    | with_reducible apply Keeps.set_tm

theorem State.setPol_keeps {m : Nat} {s₀ : State} (s : State) (i : Nat) (x : PolSt) (h : Keeps m s₀ s) (hm : Sub 16384 m) :
    Keeps m s₀ (State.setPol s i x) := by
  unfold State.setPol
  repeat' first
    | with_reducible assumption
    | (with_reducible refine Sub.of hm ?_); decide
    | with_reducible apply Keeps.set_tm

theorem State.wakeChain_keeps {m : Nat} {s₀ : State} (s : State) (c : List (Nat × Nat)) (h : Keeps m s₀ s) (hm : Sub 16384 m) :
    Keeps m s₀ (State.wakeChain s c) := by
  unfold State.wakeChain
  repeat' first
    | intro _
    | with_reducible assumption
    | (with_reducible refine Sub.of hm ?_); decide
    | with_reducible apply State.setNrun_keeps
    | with_reducible apply Keeps.ite
    | with_reducible apply Keeps.foldl

theorem State.meterPkt_keeps {m : Nat} {s₀ : State} (s : State) (i : Nat) (len : Nat) (cin : Nat) (h : Keeps m s₀ s) (hm : Sub 16384 m) :
    Keeps m s₀ (State.meterPkt s i len cin).2 := by
  unfold State.meterPkt
  repeat' first
    | with_reducible assumption
    | (with_reducible refine Sub.of hm ?_); decide
    | with_reducible apply State.setPol_keeps
    | with_reducible apply Keeps.ite
    | with_reducible apply Keeps.ite1
    | with_reducible apply Keeps.ite2

theorem State.setVtime_keeps {m : Nat} {s₀ : State} (s : State) (l : Nat) (i : Nat) (pr : Nat) (v : Nat) (h : Keeps m s₀ s) (hm : Sub 16384 m) :
    Keeps m s₀ (State.setVtime s l i pr v) := by
  unfold State.setVtime
  repeat' first
    | with_reducible assumption
    | (with_reducible refine Sub.of hm ?_); decide
    | with_reducible apply Keeps.set_tm

theorem State.chargeNode_keeps {m : Nat} {s₀ : State} (s : State) (len : Nat) (x : Nat × Nat) (h : Keeps m s₀ s) (hm : Sub 16384 m) :
    Keeps m s₀ (State.chargeNode s len x) := by
  unfold State.chargeNode
  repeat' first
    | with_reducible assumption
    | (with_reducible refine Sub.of hm ?_); decide
    | with_reducible apply State.setNrun_keeps
    | with_reducible apply Keeps.ite

end Sys2Proof.Machine
end

