-- ==== Sys2Proof/Laws/KeepFcx.lean ====
section
/-! SUPPORT. What the operations of Machine/Fcx.lean can change: each keeps every part of the state that its number does not name,
and the standing properties of `Keeps`. -/

namespace Sys2Proof.Machine

theorem execXmul_keeps {m : Nat} {s₀ : State} (core : Fin 128) (thread : Fin 8) (x : BitVec 128) (s : State) (h : Keeps m s₀ s) (hm : Sub 8388608 m) :
    KeepsR m s₀ (execXmul core thread x s) := by
  unfold execXmul
  repeat' first
    | with_reducible assumption
    | (with_reducible refine Sub.of hm ?_); decide
    | with_reducible apply State.emit_keeps
    | with_reducible apply State.after_keeps
    | with_reducible apply KeepsR.ite
    | with_reducible apply Keeps.ite
    | with_reducible apply KeepsR.next

theorem execChannelWrite_keeps {m : Nat} {s₀ : State} (core : Fin 128) (thread : Fin 8) (word : Word) (s : State) (h : Keeps m s₀ s) (hm : Sub 8486931 m) :
    KeepsR m s₀ (execChannelWrite core thread word s) := by
  unfold execChannelWrite
  repeat' first
    | with_reducible assumption
    | (with_reducible refine Sub.of hm ?_); decide
    | with_reducible apply State.settleCores_keeps
    | with_reducible apply State.threadFaults_keeps
    | with_reducible apply State.setThread_keeps
    | with_reducible apply KeepsR.ite
    | with_reducible apply Keeps.ite
    | with_reducible apply KeepsR.next

theorem State.serve_keeps {m : Nat} {s₀ : State} (s : State) (c : Nat) (t : Nat) (ep : Nat) (op : Nat) (f : State → FReq → State) (h : Keeps m s₀ s) (hf : ∀ x0 x1, Keeps m s₀ x0 → Keeps m s₀ (f x0 x1)) (hm : Sub 8486931 m) :
    KeepsR m s₀ (State.serve s c t ep op f) := by
  unfold State.serve
  repeat' first
    | with_reducible assumption
    | (with_reducible refine Sub.of hm ?_); decide
    | with_reducible apply hf
    | with_reducible apply State.settleCores_keeps
    | with_reducible apply State.takeReq_keeps
    | with_reducible apply KeepsR.ite
    | with_reducible apply Keeps.ite
    | with_reducible apply KeepsR.next
    | split

theorem execCoreTime_keeps {m : Nat} {s₀ : State} (core : Fin 128) (thread : Fin 8) (s : State) (h : Keeps m s₀ s) (hm : Sub 8486931 m) :
    KeepsR m s₀ (execCoreTime core thread s) := by
  unfold execCoreTime
  repeat' first
    | intro _
    | with_reducible assumption
    | (with_reducible refine Sub.of hm ?_); decide
    | with_reducible apply State.serve_keeps
    | with_reducible apply State.reply_keeps
    | with_reducible apply KeepsR.next

theorem State.dbgTake_keeps {m : Nat} {s₀ : State} (s : State) (init : Nat) (op : Nat) (core : Nat) (thread : Nat) (index : Nat) (h : Keeps m s₀ s) (hm : Sub 8389651 m) :
    Keeps m s₀ (State.dbgTake s init op core thread index).1 := by
  unfold State.dbgTake
  repeat' first
    | with_reducible assumption
    | (with_reducible refine Sub.of hm ?_); decide
    | with_reducible apply State.blockAccess_keeps
    | with_reducible apply State.setF_keeps
    | with_reducible apply Keeps.ite
    | with_reducible apply Keeps.ite1
    | with_reducible apply Keeps.ite2

theorem State.dbgRun_keeps {m : Nat} {s₀ : State} (s : State) (init : Nat) (op : Nat) (core : Fin 128) (thread : Fin 8) (index : Nat) (f : State → FThread → State × Nat) (h : Keeps m s₀ s) (hf : ∀ x0 x1, Keeps m s₀ x0 → Keeps m s₀ (f x0 x1).1) (hm : Sub 8487955 m) :
    KeepsR m s₀ (State.dbgRun s init op core thread index f) := by
  unfold State.dbgRun
  repeat' first
    | with_reducible assumption
    | (with_reducible refine Sub.of hm ?_); decide
    | with_reducible apply hf
    | with_reducible apply State.dbgTake_keeps
    | with_reducible apply State.settleCores_keeps
    | with_reducible apply State.setF_keeps
    | with_reducible apply KeepsR.ite
    | with_reducible apply Keeps.ite
    | with_reducible apply Keeps.ite1
    | with_reducible apply Keeps.ite2
    | with_reducible apply KeepsR.next

theorem execDbgStep_keeps {m : Nat} {s₀ : State} (init : Nat) (core : Fin 128) (thread : Fin 8) (s : State) (h : Keeps m s₀ s) (hm : Sub 8487955 m) :
    KeepsR m s₀ (execDbgStep init core thread s) := by
  unfold execDbgStep
  repeat' first
    | intro _
    | with_reducible assumption
    | (with_reducible refine Sub.of hm ?_); decide
    | with_reducible apply State.dbgRun_keeps
    | with_reducible apply State.settleCores_keeps
    | with_reducible apply State.setThread_keeps
    | with_reducible apply KeepsR.next

theorem execPacketDelivery_keeps {m : Nat} {s₀ : State} (half : Fin 2) (s : State) (h : Keeps m s₀ s) (hm : Sub 8490551 m) :
    KeepsR m s₀ (execPacketDelivery half s) := by
  unfold execPacketDelivery
  repeat' first
    | with_reducible assumption
    | (with_reducible refine Sub.of hm ?_); decide
    | with_reducible apply State.popLst_keeps
    | with_reducible apply State.dropPkt_keeps
    | with_reducible apply State.fcxCount_keeps
    | with_reducible apply State.showHandles_keeps
    | with_reducible apply State.pushLst_keeps
    | with_reducible apply State.settleCores_keeps
    | with_reducible apply State.deliverMsg_keeps
    | with_reducible apply KeepsR.ite
    | with_reducible apply Keeps.ite
    | with_reducible apply KeepsR.next
    | split

theorem State.memRequest_keeps {m : Nat} {s₀ : State} (s : State) (c : Nat) (t : Nat) (r : FReq) (k : AccessKind) (f : State → Nat → Nat → Nat → State) (h : Keeps m s₀ s) (hf : ∀ x0 x1 x2 x3, Keeps m s₀ x0 → Keeps m s₀ (f x0 x1 x2 x3)) (hm : Sub 8487955 m) :
    Keeps m s₀ (State.memRequest s c t r k f) := by
  unfold State.memRequest
  repeat' first
    | with_reducible assumption
    | (with_reducible refine Sub.of hm ?_); decide
    | with_reducible apply hf
    | with_reducible apply State.reply_keeps
    | with_reducible apply State.threadFaults_keeps
    | with_reducible apply State.memAccess_keeps
    | with_reducible apply Keeps.ite

theorem execMemWrite_keeps {m : Nat} {s₀ : State} (core : Fin 128) (thread : Fin 8) (s : State) (h : Keeps m s₀ s) (hm : Sub 8487959 m) :
    KeepsR m s₀ (execMemWrite core thread s) := by
  unfold execMemWrite
  repeat' first
    | intro _
    | with_reducible assumption
    | (with_reducible refine Sub.of hm ?_); decide
    | with_reducible apply State.serve_keeps
    | with_reducible apply State.memRequest_keeps
    | with_reducible apply State.setBytes_keeps
    | with_reducible apply KeepsR.next

theorem State.loadTake_keeps {m : Nat} {s₀ : State} (s : State) (init : Nat) (op : Nat) (first : Nat) (last : Nat) (addr : Nat) (h : Keeps m s₀ s) (hm : Sub 8389651 m) :
    Keeps m s₀ (State.loadTake s init op first last addr).1 := by
  unfold State.loadTake
  repeat' first
    | with_reducible assumption
    | (with_reducible refine Sub.of hm ?_); decide
    | with_reducible apply State.blockAccess_keeps
    | with_reducible apply State.setF_keeps
    | with_reducible apply Keeps.ite
    | with_reducible apply Keeps.ite1
    | with_reducible apply Keeps.ite2

theorem execCoreLoad_keeps {m : Nat} {s₀ : State} (init : Nat) (first : Fin 128) (last : Fin 128) (addr : Nat) (s : State) (h : Keeps m s₀ s) (hm : Sub 8490551 m) :
    KeepsR m s₀ (execCoreLoad init first last addr s) := by
  unfold execCoreLoad
  repeat' first
    | intro _
    | with_reducible assumption
    | (with_reducible refine Sub.of hm ?_); decide
    | with_reducible apply State.loadTake_keeps
    | with_reducible apply State.setF_keeps
    | with_reducible apply State.readImage_keeps
    | with_reducible apply State.settleCores_keeps
    | with_reducible apply State.startLoad_keeps
    | with_reducible apply KeepsR.ite
    | with_reducible apply Keeps.ite
    | with_reducible apply KeepsR.next
    | with_reducible apply Keeps.foldl
    | split
    | with_reducible apply Keeps.of1 ‹_›

theorem execResetCore_keeps {m : Nat} {s₀ : State} (init : Nat) (core : Fin 128) (s : State) (h : Keeps m s₀ s) (hm : Sub 8490551 m) :
    KeepsR m s₀ (execResetCore init core s) := by
  unfold execResetCore
  repeat' first
    | with_reducible assumption
    | (with_reducible refine Sub.of hm ?_); decide
    | with_reducible apply State.loadTake_keeps
    | with_reducible apply State.setF_keeps
    | with_reducible apply State.reloadCore_keeps
    | with_reducible apply State.settleCores_keeps
    | with_reducible apply State.draw_keeps
    | with_reducible apply KeepsR.ite
    | with_reducible apply Keeps.ite
    | with_reducible apply KeepsR.next

theorem execDbgStop_keeps {m : Nat} {s₀ : State} (init : Nat) (core : Fin 128) (thread : Fin 8) (s : State) (h : Keeps m s₀ s) (hm : Sub 8487955 m) :
    KeepsR m s₀ (execDbgStop init core thread s) := by
  unfold execDbgStop
  repeat' first
    | intro _
    | with_reducible assumption
    | (with_reducible refine Sub.of hm ?_); decide
    | with_reducible apply State.dbgRun_keeps
    | with_reducible apply State.setThread_keeps
    | with_reducible apply KeepsR.next

theorem execDbgResume_keeps {m : Nat} {s₀ : State} (init : Nat) (core : Fin 128) (thread : Fin 8) (s : State) (h : Keeps m s₀ s) (hm : Sub 8487955 m) :
    KeepsR m s₀ (execDbgResume init core thread s) := by
  unfold execDbgResume
  repeat' first
    | intro _
    | with_reducible assumption
    | (with_reducible refine Sub.of hm ?_); decide
    | with_reducible apply State.dbgRun_keeps
    | with_reducible apply State.setThread_keeps
    | with_reducible apply KeepsR.next

theorem execDbgRead_keeps {m : Nat} {s₀ : State} (init : Nat) (core : Fin 128) (thread : Fin 8) (index : BitVec 32) (s : State) (h : Keeps m s₀ s) (hm : Sub 8487955 m) :
    KeepsR m s₀ (execDbgRead init core thread index s) := by
  unfold execDbgRead
  repeat' first
    | intro _
    | with_reducible assumption
    | (with_reducible refine Sub.of hm ?_); decide
    | with_reducible apply State.dbgRun_keeps
    | with_reducible apply State.setReg_keeps
    | with_reducible apply State.draw_keeps
    | with_reducible apply State.setThread_keeps
    | with_reducible apply KeepsR.ite
    | with_reducible apply Keeps.ite
    | with_reducible apply KeepsR.next
    | split

theorem execDbgWrite_keeps {m : Nat} {s₀ : State} (init : Nat) (core : Fin 128) (thread : Fin 8) (index : BitVec 32) (s : State) (h : Keeps m s₀ s) (hm : Sub 8487955 m) :
    KeepsR m s₀ (execDbgWrite init core thread index s) := by
  unfold execDbgWrite
  repeat' first
    | intro _
    | with_reducible assumption
    | (with_reducible refine Sub.of hm ?_); decide
    | with_reducible apply State.dbgRun_keeps
    | with_reducible apply State.setThread_keeps
    | with_reducible apply KeepsR.ite
    | with_reducible apply Keeps.ite
    | with_reducible apply Keeps.ite1
    | with_reducible apply Keeps.ite2
    | with_reducible apply KeepsR.next

theorem execThreadStop_keeps {m : Nat} {s₀ : State} (core : Fin 128) (thread : Fin 8) (s : State) (h : Keeps m s₀ s) (hm : Sub 8486931 m) :
    KeepsR m s₀ (execThreadStop core thread s) := by
  unfold execThreadStop
  repeat' first
    | intro _
    | with_reducible assumption
    | (with_reducible refine Sub.of hm ?_); decide
    | with_reducible apply State.serve_keeps
    | with_reducible apply State.reply_keeps
    | with_reducible apply State.setThread_keeps
    | with_reducible apply KeepsR.next

theorem execThreadFault_keeps {m : Nat} {s₀ : State} (core : Fin 128) (thread : Fin 8) (cause : BitVec 4) (addr : BitVec 32) (s : State) (h : Keeps m s₀ s) (hm : Sub 8486931 m) :
    KeepsR m s₀ (execThreadFault core thread cause addr s) := by
  unfold execThreadFault
  repeat' first
    | with_reducible assumption
    | (with_reducible refine Sub.of hm ?_); decide
    | with_reducible apply State.settleCores_keeps
    | with_reducible apply State.threadFault_keeps
    | with_reducible apply KeepsR.ite
    | with_reducible apply Keeps.ite
    | with_reducible apply KeepsR.next

theorem execChannelOpen_keeps {m : Nat} {s₀ : State} (core : Fin 128) (thread : Fin 8) (dest : BitVec 16) (s : State) (h : Keeps m s₀ s) (hm : Sub 32768 m) :
    KeepsR m s₀ (execChannelOpen core thread dest s) := by
  unfold execChannelOpen
  repeat' first
    | with_reducible assumption
    | (with_reducible refine Sub.of hm ?_); decide
    | with_reducible apply State.setThread_keeps
    | with_reducible apply KeepsR.ite
    | with_reducible apply Keeps.ite
    | with_reducible apply KeepsR.next

theorem execStartDone_keeps {m : Nat} {s₀ : State} (core : Fin 128) (thread : Fin 8) (s : State) (h : Keeps m s₀ s) (hm : Sub 8486931 m) :
    KeepsR m s₀ (execStartDone core thread s) := by
  unfold execStartDone
  repeat' first
    | intro _
    | with_reducible assumption
    | (with_reducible refine Sub.of hm ?_); decide
    | with_reducible apply State.serve_keeps
    | with_reducible apply State.setCore_keeps
    | with_reducible apply State.after_keeps
    | with_reducible apply State.reply_keeps
    | with_reducible apply KeepsR.ite
    | with_reducible apply Keeps.ite
    | with_reducible apply KeepsR.next

theorem execCoreLoadGroupDone_keeps {m : Nat} {s₀ : State} (group : Fin 16) (s : State) (h : Keeps m s₀ s) (hm : Sub 8486931 m) :
    KeepsR m s₀ (execCoreLoadGroupDone group s) := by
  unfold execCoreLoadGroupDone
  repeat' first
    | intro _
    | with_reducible assumption
    | (with_reducible refine Sub.of hm ?_); decide
    | with_reducible apply State.setCore_keeps
    | with_reducible apply State.setF_keeps
    | with_reducible apply State.settleCores_keeps
    | with_reducible apply KeepsR.ite
    | with_reducible apply Keeps.ite
    | with_reducible apply KeepsR.next
    | with_reducible apply Keeps.foldl
    | with_reducible apply Keeps.set_fcx

theorem execChannelCommit_keeps {m : Nat} {s₀ : State} (core : Fin 128) (thread : Fin 8) (s : State) (h : Keeps m s₀ s) (hm : Sub 8486931 m) :
    KeepsR m s₀ (execChannelCommit core thread s) := by
  unfold execChannelCommit
  repeat' first
    | with_reducible assumption
    | (with_reducible refine Sub.of hm ?_); decide
    | with_reducible apply State.settleCores_keeps
    | with_reducible apply State.threadFaults_keeps
    | with_reducible apply State.emit_keeps
    | with_reducible apply State.setThread_keeps
    | with_reducible apply KeepsR.ite
    | with_reducible apply Keeps.ite
    | with_reducible apply KeepsR.next

theorem execGmul_keeps {m : Nat} {s₀ : State} (core : Fin 128) (thread : Fin 8) (x : BitVec 128) (y : BitVec 128) (s : State) (h : Keeps m s₀ s) (hm : Sub 8388608 m) :
    KeepsR m s₀ (execGmul core thread x y s) := by
  unfold execGmul
  repeat' first
    | with_reducible assumption
    | (with_reducible refine Sub.of hm ?_); decide
    | with_reducible apply State.emit_keeps
    | with_reducible apply State.after_keeps
    | with_reducible apply KeepsR.ite
    | with_reducible apply Keeps.ite
    | with_reducible apply KeepsR.next

theorem State.withHandle_keeps {m : Nat} {s₀ : State} (s : State) (c : Nat) (r : FReq) (f : Nat → Pkt → State) (h : Keeps m s₀ s) (hf : ∀ x0 x1, Keeps m s₀ (f x0 x1)) (hm : Sub 32768 m) :
    Keeps m s₀ (State.withHandle s c r f) := by
  unfold State.withHandle
  repeat' first
    | with_reducible assumption
    | (with_reducible refine Sub.of hm ?_); decide
    | with_reducible apply hf
    | with_reducible apply State.reply_keeps
    | split

theorem execHostEndpointRequest_keeps {m : Nat} {s₀ : State} (core : Fin 128) (thread : Fin 8) (fn : Nat) (slice : Option Nat) (wr : Bool) (addr : Nat) (len : Nat) (loc : Nat) (data : List Byte) (s : State) (h : Keeps m s₀ s) (hm : Sub 8487991 m) :
    KeepsR m s₀ (execHostEndpointRequest core thread fn slice wr addr len loc data s) := by
  unfold execHostEndpointRequest
  repeat' first
    | with_reducible assumption
    | (with_reducible refine Sub.of hm ?_); decide
    | with_reducible apply State.takeReq_keeps
    | with_reducible apply State.settleCores_keeps
    | with_reducible apply State.reply_keeps
    | with_reducible apply State.threadFaults_keeps
    | with_reducible apply State.dmaCheck_keeps
    | with_reducible apply State.issueWrite_keeps
    | with_reducible apply State.issueRead_keeps
    | with_reducible apply State.lmemWrite_keeps
    | with_reducible apply KeepsR.ite
    | with_reducible apply Keeps.ite
    | with_reducible apply KeepsR.next
    | split

theorem execPbfRead_keeps {m : Nat} {s₀ : State} (core : Fin 128) (thread : Fin 8) (s : State) (h : Keeps m s₀ s) (hm : Sub 8486931 m) :
    KeepsR m s₀ (execPbfRead core thread s) := by
  unfold execPbfRead
  repeat' first
    | intro _
    | with_reducible assumption
    | (with_reducible refine Sub.of hm ?_); decide
    | with_reducible apply State.serve_keeps
    | with_reducible apply State.reply_keeps
    | with_reducible apply State.threadFaults_keeps
    | with_reducible apply State.withHandle_keeps
    | with_reducible apply State.drawBytes_keeps
    | with_reducible apply State.lmemWrite_keeps
    | with_reducible apply KeepsR.ite
    | with_reducible apply Keeps.ite
    | with_reducible apply KeepsR.next

theorem execPbfWrite_keeps {m : Nat} {s₀ : State} (core : Fin 128) (thread : Fin 8) (s : State) (h : Keeps m s₀ s) (hm : Sub 8488979 m) :
    KeepsR m s₀ (execPbfWrite core thread s) := by
  unfold execPbfWrite
  repeat' first
    | intro _
    | with_reducible assumption
    | (with_reducible refine Sub.of hm ?_); decide
    | with_reducible apply State.serve_keeps
    | with_reducible apply State.reply_keeps
    | with_reducible apply State.threadFaults_keeps
    | with_reducible apply State.withHandle_keeps
    | with_reducible apply State.drawBytes_keeps
    | with_reducible apply State.setPkt_keeps
    | with_reducible apply KeepsR.ite
    | with_reducible apply Keeps.ite
    | with_reducible apply KeepsR.next

theorem execMemRead_keeps {m : Nat} {s₀ : State} (core : Fin 128) (thread : Fin 8) (s : State) (h : Keeps m s₀ s) (hm : Sub 8487955 m) :
    KeepsR m s₀ (execMemRead core thread s) := by
  unfold execMemRead
  repeat' first
    | intro _
    | with_reducible assumption
    | (with_reducible refine Sub.of hm ?_); decide
    | with_reducible apply State.serve_keeps
    | with_reducible apply State.memRequest_keeps
    | with_reducible apply State.lmemWrite_keeps
    | with_reducible apply KeepsR.next

theorem execChannelReceive_keeps {m : Nat} {s₀ : State} (core : Fin 128) (thread : Fin 8) (mask : BitVec 16) (s : State) (h : Keeps m s₀ s) (hm : Sub 8486931 m) :
    KeepsR m s₀ (execChannelReceive core thread mask s) := by
  unfold execChannelReceive
  repeat' first
    | with_reducible assumption
    | (with_reducible refine Sub.of hm ?_); decide
    | with_reducible apply State.settleCores_keeps
    | with_reducible apply State.threadFaults_keeps
    | with_reducible apply State.emit_keeps
    | with_reducible apply State.setThread_keeps
    | with_reducible apply KeepsR.ite
    | with_reducible apply Keeps.ite
    | with_reducible apply KeepsR.next

theorem execTimerExpire_keeps {m : Nat} {s₀ : State} (core : Fin 128) (s : State) (h : Keeps m s₀ s) (hm : Sub 8486931 m) :
    KeepsR m s₀ (execTimerExpire core s) := by
  unfold execTimerExpire
  repeat' first
    | with_reducible assumption
    | (with_reducible refine Sub.of hm ?_); decide
    | with_reducible apply State.after_keeps
    | with_reducible apply State.setCore_keeps
    | with_reducible apply State.settleCores_keeps
    | with_reducible apply State.replyOn_keeps
    | with_reducible apply KeepsR.ite
    | with_reducible apply Keeps.ite
    | with_reducible apply KeepsR.next
    | with_reducible apply Keeps.foldl
    | split
    | dsimp only

theorem execPbfAlloc_keeps {m : Nat} {s₀ : State} (core : Fin 128) (thread : Fin 8) (s : State) (h : Keeps m s₀ s) (hm : Sub 8488979 m) :
    KeepsR m s₀ (execPbfAlloc core thread s) := by
  unfold execPbfAlloc
  repeat' first
    | intro _
    | with_reducible assumption
    | (with_reducible refine Sub.of hm ?_); decide
    | with_reducible apply State.serve_keeps
    | with_reducible apply State.reply_keeps
    | with_reducible apply State.newPkt_keeps
    | with_reducible apply State.showHandles_keeps
    | with_reducible apply State.pushLst_keeps
    | with_reducible apply KeepsR.ite
    | with_reducible apply Keeps.ite
    | with_reducible apply KeepsR.next

theorem execThreadRestart_keeps {m : Nat} {s₀ : State} (core : Fin 128) (thread : Fin 8) (s : State) (h : Keeps m s₀ s) (hm : Sub 8486931 m) :
    KeepsR m s₀ (execThreadRestart core thread s) := by
  unfold execThreadRestart
  repeat' first
    | intro _
    | with_reducible assumption
    | (with_reducible refine Sub.of hm ?_); decide
    | with_reducible apply State.serve_keeps
    | with_reducible apply State.reply_keeps
    | with_reducible apply State.setThread_keeps
    | with_reducible apply KeepsR.ite
    | with_reducible apply Keeps.ite
    | with_reducible apply KeepsR.next

theorem execPbfFree_keeps {m : Nat} {s₀ : State} (core : Fin 128) (thread : Fin 8) (s : State) (h : Keeps m s₀ s) (hm : Sub 8490551 m) :
    KeepsR m s₀ (execPbfFree core thread s) := by
  unfold execPbfFree
  repeat' first
    | intro _
    | with_reducible assumption
    | (with_reducible refine Sub.of hm ?_); decide
    | with_reducible apply State.serve_keeps
    | with_reducible apply State.withHandle_keeps
    | with_reducible apply State.reply_keeps
    | with_reducible apply State.showHandles_keeps
    | with_reducible apply State.dropPkt_keeps
    | with_reducible apply State.popLst_keeps
    | with_reducible apply KeepsR.next

theorem execCoreTimer_keeps {m : Nat} {s₀ : State} (core : Fin 128) (thread : Fin 8) (s : State) (h : Keeps m s₀ s) (hm : Sub 8486931 m) :
    KeepsR m s₀ (execCoreTimer core thread s) := by
  unfold execCoreTimer
  repeat' first
    | intro _
    | with_reducible assumption
    | (with_reducible refine Sub.of hm ?_); decide
    | with_reducible apply State.serve_keeps
    | with_reducible apply State.reply_keeps
    | with_reducible apply State.setCore_keeps
    | with_reducible apply KeepsR.ite
    | with_reducible apply Keeps.ite
    | with_reducible apply KeepsR.next

theorem execReadEvents_keeps {m : Nat} {s₀ : State} (core : Fin 128) (thread : Fin 8) (s : State) (h : Keeps m s₀ s) (hm : Sub 8486931 m) :
    KeepsR m s₀ (execReadEvents core thread s) := by
  unfold execReadEvents
  repeat' first
    | intro _
    | with_reducible assumption
    | (with_reducible refine Sub.of hm ?_); decide
    | with_reducible apply State.serve_keeps
    | with_reducible apply State.reply_keeps
    | with_reducible apply State.setCore_keeps
    | with_reducible apply KeepsR.next

theorem execThreadHeld_keeps {m : Nat} {s₀ : State} (core : Fin 128) (thread : Fin 8) (s : State) (h : Keeps m s₀ s) (hm : Sub 8486931 m) :
    KeepsR m s₀ (execThreadHeld core thread s) := by
  unfold execThreadHeld
  repeat' first
    | with_reducible assumption
    | (with_reducible refine Sub.of hm ?_); decide
    | with_reducible apply State.setThread_keeps
    | with_reducible apply State.after_keeps
    | with_reducible apply State.postNote_keeps
    | with_reducible apply State.settleCores_keeps
    | with_reducible apply KeepsR.ite
    | with_reducible apply Keeps.ite
    | with_reducible apply KeepsR.next
    | split
    | dsimp only

theorem execPbfInject_keeps {m : Nat} {s₀ : State} (core : Fin 128) (thread : Fin 8) (s : State) (h : Keeps m s₀ s) (hm : Sub 8488979 m) :
    KeepsR m s₀ (execPbfInject core thread s) := by
  unfold execPbfInject
  repeat' first
    | intro _
    | with_reducible assumption
    | (with_reducible refine Sub.of hm ?_); decide
    | with_reducible apply State.serve_keeps
    | with_reducible apply State.reply_keeps
    | with_reducible apply State.withHandle_keeps
    | with_reducible apply State.drawBytes_keeps
    | with_reducible apply State.newPkt_keeps
    | with_reducible apply State.freePkt_keeps
    | with_reducible apply State.endHold_keeps
    | with_reducible apply State.popLst_keeps
    | with_reducible apply State.showHandles_keeps
    | with_reducible apply State.pushLst_keeps
    | with_reducible apply KeepsR.ite
    | with_reducible apply Keeps.ite
    | with_reducible apply KeepsR.next

theorem execStartupTimeout_keeps {m : Nat} {s₀ : State} (core : Fin 128) (s : State) (h : Keeps m s₀ s) (hm : Sub 8486931 m) :
    KeepsR m s₀ (execStartupTimeout core s) := by
  unfold execStartupTimeout
  repeat' first
    | with_reducible assumption
    | (with_reducible refine Sub.of hm ?_); decide
    | with_reducible apply State.settleCores_keeps
    | with_reducible apply State.threadFaults_keeps
    | with_reducible apply State.after_keeps
    | with_reducible apply KeepsR.ite
    | with_reducible apply Keeps.ite
    | with_reducible apply KeepsR.next

theorem execGlobalDeadlockSample_keeps {m : Nat} {s₀ : State} (s : State) (h : Keeps m s₀ s) (hm : Sub 8486931 m) :
    KeepsR m s₀ (execGlobalDeadlockSample s) := by
  unfold execGlobalDeadlockSample
  repeat' first
    | with_reducible assumption
    | (with_reducible refine Sub.of hm ?_); decide
    | with_reducible apply State.after_keeps
    | with_reducible apply State.settleCores_keeps
    | with_reducible apply State.reportCycle_keeps
    | with_reducible apply KeepsR.ite
    | with_reducible apply Keeps.ite
    | with_reducible apply KeepsR.next
    | split
    | with_reducible apply Keeps.set_fcx
    | dsimp only

theorem execDeadlock_keeps {m : Nat} {s₀ : State} (core : Fin 128) (s : State) (h : Keeps m s₀ s) (hm : Sub 8486931 m) :
    KeepsR m s₀ (execDeadlock core s) := by
  unfold execDeadlock
  repeat' first
    | with_reducible assumption
    | (with_reducible refine Sub.of hm ?_); decide
    | with_reducible apply State.fcxCount_keeps
    | with_reducible apply State.setCore_keeps
    | with_reducible apply State.after_keeps
    | with_reducible apply State.settleCores_keeps
    | with_reducible apply State.postNote_keeps
    | with_reducible apply KeepsR.ite
    | with_reducible apply Keeps.ite
    | with_reducible apply KeepsR.next
    | with_reducible apply Keeps.foldl
    | split
    | dsimp only

end Sys2Proof.Machine
end

