-- ==== Sys2Proof/Laws/KeepBlockResets.lean ====
section
/-! SUPPORT. What the operations of Machine/BlockResets.lean can change: each keeps every part of the state that its number does not name,
and the standing properties of `Keeps`. -/

namespace Sys2Proof.Machine

theorem State.resetRegs_keeps {m : Nat} {s₀ : State} (s : State) (l : Rst) (h : Keeps m s₀ s) (hm : Sub 1 m) :
    Keeps m s₀ (State.resetRegs s l) := by
  refine h.set_regs hm _ fun hs => ?_
  exact Tab.sorted_foldl_put _ id _ (Tab.sorted_filter _ _ hs)

theorem State.disableRings_keeps {m : Nat} {s₀ : State} (s : State) (p : Ring → Bool) (h : Keeps m s₀ s) (hm : Sub 2560 m) :
    Keeps m s₀ (State.disableRings s p) := by
  unfold State.disableRings
  repeat' first
    | with_reducible assumption
    | (with_reducible refine Sub.of hm ?_); decide
    | with_reducible apply Keeps.ite
    | with_reducible apply Keeps.set_rings_dp
    | with_reducible apply Keeps.set_dp
    | with_reducible apply Keeps.set_rings

theorem State.resetFnRegs_keeps {m : Nat} {s₀ : State} (s : State) (l : Rst) (f : Nat) (h : Keeps m s₀ s) (hm : Sub 1 m) :
    Keeps m s₀ (State.resetFnRegs s l f) := by
  exact h.set_regs hm _ fun hs => Tab.sorted_filter _ _ hs

end Sys2Proof.Machine
end

