-- ==== Sys2Proof/Laws/KeepDrtOps.lean ====
section
/-! SUPPORT. What the operations of Machine/DrtOps.lean can change: each keeps every part of the state that its number does not name,
and the standing properties of `Keeps`. -/

namespace Sys2Proof.Machine

theorem State.drtUnqueue_keeps {m : Nat} {s₀ : State} (s : State) (r : Nat) (h : Keeps m s₀ s) (hm : Sub 131072 m) :
    Keeps m s₀ (State.drtUnqueue s r) := by
  unfold State.drtUnqueue
  repeat' first
    | with_reducible assumption
    | (with_reducible refine Sub.of hm ?_); decide
    | with_reducible apply Keeps.set_drt

theorem State.showDrt_keeps {m : Nat} {s₀ : State} (s : State) (h : Keeps m s₀ s) (hm : Sub 3 m) :
    Keeps m s₀ (State.showDrt s) := by
  unfold State.showDrt
  repeat' first
    | with_reducible assumption
    | (with_reducible refine Sub.of hm ?_); decide
    | with_reducible apply State.setF_keeps

theorem State.dropOut_keeps {m : Nat} {s₀ : State} (s : State) (r : Nat) (h : Keeps m s₀ s) (hm : Sub 131075 m) :
    Keeps m s₀ (State.dropOut s r) := by
  unfold State.dropOut
  repeat' first
    | with_reducible assumption
    | (with_reducible refine Sub.of hm ?_); decide
    | with_reducible apply State.drtUnqueue_keeps
    | with_reducible apply State.showDrt_keeps
    | with_reducible apply Keeps.set_drt

theorem State.drtCount_keeps {m : Nat} {s₀ : State} (s : State) (k : Nat) (n : Nat) (h : Keeps m s₀ s) (hm : Sub 3 m) :
    Keeps m s₀ (State.drtCount s k n) := by
  unfold State.drtCount
  repeat' first
    | with_reducible assumption
    | (with_reducible refine Sub.of hm ?_); decide
    | with_reducible apply State.bump_keeps

theorem State.endOut_keeps {m : Nat} {s₀ : State} (s : State) (r : Nat) (status : Nat) (reason : Nat) (h : Keeps m s₀ s) (hm : Sub 8783415 m) :
    Keeps m s₀ (State.endOut s r status reason) := by
  unfold State.endOut
  repeat' first
    | with_reducible assumption
    | (with_reducible refine Sub.of hm ?_); decide
    | with_reducible apply State.dropOut_keeps
    | with_reducible apply State.drtCount_keeps
    | with_reducible apply State.completeEntry_keeps
    | with_reducible apply Keeps.ite
    | split
    | with_reducible apply Keeps.set_nve

theorem State.afterNs_keeps {m : Nat} {s₀ : State} (s : State) (ns : Nat) (h : Keeps m s₀ s) :
    Keeps m s₀ (State.afterNs s ns) := by
  unfold State.afterNs
  repeat' first
    | with_reducible assumption
    | with_reducible apply State.after_keeps
    | with_reducible apply Keeps.ite

theorem State.drtEvent_keeps {m : Nat} {s₀ : State} (s : State) (ep : Nat) (typ : Nat) (body : List Byte) (h : Keeps m s₀ s) (hm : Sub 8390199 m) :
    Keeps m s₀ (State.drtEvent s ep typ body) := by
  unfold State.drtEvent
  repeat' first
    | with_reducible assumption
    | (with_reducible refine Sub.of hm ?_); decide
    | with_reducible apply State.postEvent_keeps
    | with_reducible apply Keeps.ite
    | split

theorem State.drtTellAll_keeps {m : Nat} {s₀ : State} (s : State) (typ : Nat) (status : Nat) (sub : Nat) (port : Nat) (dom : Option Nat) (h : Keeps m s₀ s) (hm : Sub 8390199 m) :
    Keeps m s₀ (State.drtTellAll s typ status sub port dom) := by
  unfold State.drtTellAll
  repeat' first
    | intro _
    | with_reducible assumption
    | (with_reducible refine Sub.of hm ?_); decide
    | with_reducible apply State.drtEvent_keeps
    | with_reducible apply Keeps.foldl

theorem State.portChanged_keeps {m : Nat} {s₀ : State} (s : State) (port : Nat) (up : Bool) (h : Keeps m s₀ s) (hm : Sub 8390199 m) :
    Keeps m s₀ (State.portChanged s port up) := by
  unfold State.portChanged
  repeat' first
    | with_reducible assumption
    | (with_reducible refine Sub.of hm ?_); decide
    | with_reducible apply State.drtTellAll_keeps
    | with_reducible apply Keeps.ite

theorem State.targetCompletion_keeps {m : Nat} {s₀ : State} (s : State) (x : InRec) (status : Nat) (h : Keeps m s₀ s) (hm : Sub 8390199 m) :
    Keeps m s₀ (State.targetCompletion s x status) := by
  unfold State.targetCompletion
  repeat' first
    | with_reducible assumption
    | (with_reducible refine Sub.of hm ?_); decide
    | with_reducible apply State.draw_keeps
    | with_reducible apply State.postCompletion_keeps
    | with_reducible apply Keeps.ite
    | split

theorem State.bury_keeps {m : Nat} {s₀ : State} (s : State) (k : Nat) (t : DrtTomb) (x : Option InRec) (h : Keeps m s₀ s) (hm : Sub 131075 m) :
    Keeps m s₀ (State.bury s k t x) := by
  unfold State.bury
  repeat' first
    | with_reducible assumption
    | (with_reducible refine Sub.of hm ?_); decide
    | with_reducible apply State.showDrt_keeps
    | with_reducible apply State.drtCount_keeps
    | with_reducible apply Keeps.ite
    | split
    | with_reducible apply Keeps.set_drt

theorem State.finishIn_keeps {m : Nat} {s₀ : State} (s : State) (k : Nat) (x : InRec) (status : Nat) (h : Keeps m s₀ s) (hm : Sub 8521271 m) :
    Keeps m s₀ (State.finishIn s k x status) := by
  unfold State.finishIn
  repeat' first
    | with_reducible assumption
    | (with_reducible refine Sub.of hm ?_); decide
    | with_reducible apply State.targetCompletion_keeps
    | with_reducible apply State.bury_keeps
    | with_reducible apply Keeps.ite

theorem State.dropIn_keeps {m : Nat} {s₀ : State} (s : State) (k : Nat) (h : Keeps m s₀ s) (hm : Sub 131075 m) :
    Keeps m s₀ (State.dropIn s k) := by
  unfold State.dropIn
  repeat' first
    | with_reducible assumption
    | (with_reducible refine Sub.of hm ?_); decide
    | with_reducible apply State.showDrt_keeps
    | with_reducible apply Keeps.set_drt

theorem State.drtDReset_keeps {m : Nat} {s₀ : State} (s : State) (h : Keeps m s₀ s) (hm : Sub 8783415 m) :
    Keeps m s₀ (State.drtDReset s) := by
  unfold State.drtDReset
  repeat' first
    | intro _
    | with_reducible assumption
    | (with_reducible refine Sub.of hm ?_); decide
    | with_reducible apply State.endOut_keeps
    | with_reducible apply State.finishIn_keeps
    | with_reducible apply State.dropIn_keeps
    | with_reducible apply State.showDrt_keeps
    | with_reducible apply Keeps.foldl
    | split
    | with_reducible apply Keeps.set_drt

theorem State.showTransport_keeps {m : Nat} {s₀ : State} (s : State) (h : Keeps m s₀ s) (hm : Sub 8521271 m) :
    Keeps m s₀ (State.showTransport s) := by
  unfold State.showTransport
  repeat' first
    | with_reducible assumption
    | (with_reducible refine Sub.of hm ?_); decide
    | with_reducible apply State.drtTellAll_keeps
    | with_reducible apply Keeps.ite
    | with_reducible apply Keeps.set_drt

theorem State.drtRemove_keeps {m : Nat} {s₀ : State} (s : State) (g : Nat) (h : Keeps m s₀ s) (hm : Sub 131072 m) :
    Keeps m s₀ (State.drtRemove s g) := by
  unfold State.drtRemove
  repeat' first
    | with_reducible assumption
    | (with_reducible refine Sub.of hm ?_); decide
    | with_reducible apply Keeps.set_drt

theorem State.squashEps_keeps {m : Nat} {s₀ : State} (s : State) (p : Nat → Bool) (complete : Bool) (h : Keeps m s₀ s) (hm : Sub 8783415 m) :
    Keeps m s₀ (State.squashEps s p complete) := by
  unfold State.squashEps
  repeat' first
    | intro _
    | with_reducible assumption
    | (with_reducible refine Sub.of hm ?_); decide
    | with_reducible apply State.endOut_keeps
    | with_reducible apply State.dropOut_keeps
    | with_reducible apply State.dropIn_keeps
    | with_reducible apply Keeps.ite
    | with_reducible apply Keeps.foldl

theorem State.setDrt_keeps {m : Nat} {s₀ : State} (s : State) (d : DrtSt) (h : Keeps m s₀ s) (hm : Sub 131072 m) :
    Keeps m s₀ (State.setDrt s d) := by
  unfold State.setDrt
  repeat' first
    | with_reducible assumption
    | (with_reducible refine Sub.of hm ?_); decide
    | with_reducible apply Keeps.set_drt

theorem State.setDrtQueue_keeps {m : Nat} {s₀ : State} (s : State) (d : Nat) (l : List DrtItem) (h : Keeps m s₀ s) (hm : Sub 131072 m) :
    Keeps m s₀ (State.setDrtQueue s d l) := by
  unfold State.setDrtQueue
  repeat' first
    | with_reducible assumption
    | (with_reducible refine Sub.of hm ?_); decide
    | with_reducible apply Keeps.set_drt

theorem State.drtPush_keeps {m : Nat} {s₀ : State} (s : State) (d : Nat) (l : List DrtItem) (h : Keeps m s₀ s) (hm : Sub 131072 m) :
    Keeps m s₀ (State.drtPush s d l) := by
  unfold State.drtPush
  repeat' first
    | with_reducible assumption
    | (with_reducible refine Sub.of hm ?_); decide
    | with_reducible apply State.setDrtQueue_keeps

theorem State.sendError_keeps {m : Nat} {s₀ : State} (s : State) (h1 : DrtHdr) (via : DrtVia) (status : Nat) (reason : Nat) (h : Keeps m s₀ s) (hm : Sub 131072 m) :
    Keeps m s₀ (State.sendError s h1 via status reason) := by
  unfold State.sendError
  repeat' first
    | with_reducible assumption
    | (with_reducible refine Sub.of hm ?_); decide
    | with_reducible apply State.drtPush_keeps

theorem State.failIn_keeps {m : Nat} {s₀ : State} (s : State) (h1 : DrtHdr) (via : DrtVia) (tStale : Nat) (status : Nat) (reason : Nat) (x : Option InRec) (h : Keeps m s₀ s) (hm : Sub 8521271 m) :
    Keeps m s₀ (State.failIn s h1 via tStale status reason x) := by
  unfold State.failIn
  repeat' first
    | with_reducible assumption
    | (with_reducible refine Sub.of hm ?_); decide
    | with_reducible apply State.sendError_keeps
    | with_reducible apply State.bury_keeps
    | with_reducible apply State.drtEvent_keeps
    | with_reducible apply State.drtCount_keeps
    | with_reducible apply Keeps.ite

theorem State.revokeRegion_keeps {m : Nat} {s₀ : State} (s : State) (i : Nat) (h : Keeps m s₀ s) (hm : Sub 8521271 m) :
    Keeps m s₀ (State.revokeRegion s i) := by
  unfold State.revokeRegion
  repeat' first
    | intro _
    | with_reducible assumption
    | (with_reducible refine Sub.of hm ?_); decide
    | with_reducible apply State.setDrt_keeps
    | with_reducible apply State.failIn_keeps
    | with_reducible apply Keeps.foldl

theorem State.drtDrain_keeps {m : Nat} {s₀ : State} (s : State) (g : Nat) (h : Keeps m s₀ s) (hm : Sub 8783415 m) :
    Keeps m s₀ (State.drtDrain s g) := by
  unfold State.drtDrain
  repeat' first
    | intro _
    | with_reducible assumption
    | (with_reducible refine Sub.of hm ?_); decide
    | with_reducible apply State.squashEps_keeps
    | with_reducible apply State.revokeRegion_keeps
    | with_reducible apply Keeps.foldl

theorem State.setCong_keeps {m : Nat} {s₀ : State} (s : State) (d : Nat) (c : DrtCong) (h : Keeps m s₀ s) (hm : Sub 131072 m) :
    Keeps m s₀ (State.setCong s d c) := by
  unfold State.setCong
  repeat' first
    | with_reducible assumption
    | (with_reducible refine Sub.of hm ?_); decide
    | with_reducible apply Keeps.ite
    | with_reducible apply Keeps.foldl
    | with_reducible apply Keeps.set_drt

theorem State.bumpIncarnation_keeps {m : Nat} {s₀ : State} (s : State) (h : Keeps m s₀ s) (hm : Sub 8390199 m) :
    Keeps m s₀ (State.bumpIncarnation s) := by
  unfold State.bumpIncarnation
  repeat' first
    | with_reducible assumption
    | (with_reducible refine Sub.of hm ?_); decide
    | with_reducible apply State.setF_keeps
    | with_reducible apply State.drtTellAll_keeps
    | with_reducible apply Keeps.ite

theorem State.freshSeq_keeps {m : Nat} {s₀ : State} (s : State) (h : Keeps m s₀ s) (hm : Sub 8521271 m) :
    Keeps m s₀ (State.freshSeq s) := by
  unfold State.freshSeq
  repeat' first
    | with_reducible assumption
    | (with_reducible refine Sub.of hm ?_); decide
    | with_reducible apply State.bumpIncarnation_keeps
    | with_reducible apply Keeps.ite
    | with_reducible apply Keeps.set_drt

theorem State.nextPktSeq_keeps {m : Nat} {s₀ : State} (s : State) (h : Keeps m s₀ s) (hm : Sub 8521271 m) :
    Keeps m s₀ (State.nextPktSeq s).2 := by
  unfold State.nextPktSeq
  repeat' first
    | with_reducible assumption
    | (with_reducible refine Sub.of hm ?_); decide
    | with_reducible apply State.freshSeq_keeps
    | with_reducible apply State.bumpIncarnation_keeps
    | with_reducible apply State.setF_keeps
    | with_reducible apply Keeps.ite

theorem State.nextMsgSeq_keeps {m : Nat} {s₀ : State} (s : State) (h : Keeps m s₀ s) (hm : Sub 8521271 m) :
    Keeps m s₀ (State.nextMsgSeq s).2 := by
  unfold State.nextMsgSeq
  repeat' first
    | with_reducible assumption
    | (with_reducible refine Sub.of hm ?_); decide
    | with_reducible apply State.freshSeq_keeps
    | with_reducible apply Keeps.set_drt

theorem State.drtLoseSlices_keeps {m : Nat} {s₀ : State} (s : State) (gs : List Nat) (revoke : Bool) (h : Keeps m s₀ s) (hm : Sub 8783415 m) :
    Keeps m s₀ (State.drtLoseSlices s gs revoke) := by
  unfold State.drtLoseSlices
  repeat' first
    | intro _
    | with_reducible assumption
    | (with_reducible refine Sub.of hm ?_); decide
    | with_reducible apply State.squashEps_keeps
    | with_reducible apply State.revokeRegion_keeps
    | with_reducible apply Keeps.ite
    | with_reducible apply Keeps.foldl

theorem State.drtReset_keeps {m : Nat} {s₀ : State} (s : State) (old : State) (h : Keeps m s₀ s) (hm : Sub 131072 m) :
    Keeps m s₀ (State.drtReset s old) := by
  unfold State.drtReset
  repeat' first
    | with_reducible assumption
    | (with_reducible refine Sub.of hm ?_); decide
    | with_reducible apply State.setDrt_keeps
    | with_reducible apply Keeps.ite
    | split

theorem State.setSettle_keeps {m : Nat} {s₀ : State} (s : State) (h : Keeps m s₀ s) (hm : Sub 131072 m) :
    Keeps m s₀ (State.setSettle s) := by
  unfold State.setSettle
  repeat' first
    | with_reducible assumption
    | (with_reducible refine Sub.of hm ?_); decide
    | with_reducible apply State.setDrt_keeps
    | with_reducible apply Keeps.ite
    | split

theorem State.congTimeout_keeps {m : Nat} {s₀ : State} (s : State) (d : Nat) (h : Keeps m s₀ s) (hm : Sub 131072 m) :
    Keeps m s₀ (State.congTimeout s d) := by
  unfold State.congTimeout
  repeat' first
    | with_reducible assumption
    | (with_reducible refine Sub.of hm ?_); decide
    | with_reducible apply State.setCong_keeps

theorem State.congAck_keeps {m : Nat} {s₀ : State} (s : State) (d : Nat) (rtt : Int) (owd : Int) (h : Keeps m s₀ s) (hm : Sub 131072 m) :
    Keeps m s₀ (State.congAck s d rtt owd) := by
  unfold State.congAck
  repeat' first
    | with_reducible assumption
    | (with_reducible refine Sub.of hm ?_); decide
    | with_reducible apply State.setCong_keeps
    | with_reducible apply Keeps.ite

end Sys2Proof.Machine
end

