-- ==== Sys2Proof/Laws/KeepIsland.lean ====
section
/-! SUPPORT. What the operations of Machine/Island.lean can change: each keeps every part of the state that its number does not name,
and the standing properties of `Keeps`. -/

namespace Sys2Proof.Machine

theorem State.adjLand_keeps {m : Nat} {s₀ : State} (s : State) (op : Nat) (amount : Option (BitVec 48)) (h : Keeps m s₀ s) (hm : Sub 67 m) :
    Keeps m s₀ (State.adjLand s op amount) := by
  unfold State.adjLand
  repeat' first
    | with_reducible assumption
    | (with_reducible refine Sub.of hm ?_); decide
    | with_reducible apply State.setF_keeps
    | with_reducible apply State.crossTclk_keeps
    | split
    | with_reducible apply Keeps.set_island

theorem State.adjRefuse_keeps {m : Nat} {s₀ : State} (s : State) (h : Keeps m s₀ s) (hm : Sub 3 m) :
    Keeps m s₀ (State.adjRefuse s) := by
  unfold State.adjRefuse
  repeat' first
    | with_reducible assumption
    | (with_reducible refine Sub.of hm ?_); decide
    | with_reducible apply State.refuseWrite_keeps

theorem State.adjDone_keeps {m : Nat} {s₀ : State} (s : State) (mag : Nat) (h : Keeps m s₀ s) (hm : Sub 67 m) :
    Keeps m s₀ (State.adjDone s mag) := by
  unfold State.adjDone
  repeat' first
    | with_reducible assumption
    | (with_reducible refine Sub.of hm ?_); decide
    | with_reducible apply State.bump_keeps
    | with_reducible apply Keeps.ite
    | with_reducible apply Keeps.set_island

theorem execTsvStep_keeps {m : Nat} {s₀ : State} (init : Nat) (amount : Option (BitVec 48)) (s : State) (h : Keeps m s₀ s) (hm : Sub 8389715 m) :
    KeepsR m s₀ (execTsvStep init amount s) := by
  unfold execTsvStep
  repeat' first
    | with_reducible assumption
    | (with_reducible refine Sub.of hm ?_); decide
    | with_reducible apply State.blockAccess_keeps
    | with_reducible apply State.adjLand_keeps
    | with_reducible apply State.adjRefuse_keeps
    | with_reducible apply State.adjDone_keeps
    | with_reducible apply KeepsR.ite
    | with_reducible apply Keeps.ite
    | with_reducible apply KeepsR.next
    | with_reducible apply Keeps.set_island

theorem State.enterTState_keeps {m : Nat} {s₀ : State} (s : State) (st : Nat) (h : Keeps m s₀ s) (hm : Sub 3 m) :
    Keeps m s₀ (State.enterTState s st) := by
  unfold State.enterTState
  repeat' first
    | with_reducible assumption
    | (with_reducible refine Sub.of hm ?_); decide
    | with_reducible apply State.setF_keeps
    | with_reducible apply Keeps.ite

theorem execCounterMismatch_keeps {m : Nat} {s₀ : State} (b : Nat) (s : State) (h : Keeps m s₀ s) (hm : Sub 83 m) :
    KeepsR m s₀ (execCounterMismatch b s) := by
  unfold execCounterMismatch
  repeat' first
    | with_reducible assumption
    | (with_reducible refine Sub.of hm ?_); decide
    | with_reducible apply State.syncIsland_keeps
    | with_reducible apply State.raise_keeps
    | with_reducible apply State.setF_keeps
    | with_reducible apply State.enterTState_keeps
    | with_reducible apply KeepsR.ite
    | with_reducible apply Keeps.ite
    | with_reducible apply KeepsR.next
    | with_reducible apply Keeps.set_island

theorem execSnapshotLatch_keeps {m : Nat} {s₀ : State} (init : Nat) (off : Nat) (wide : Bool) (s : State) (h : Keeps m s₀ s) (hm : Sub 8389651 m) :
    KeepsR m s₀ (execSnapshotLatch init off wide s) := by
  unfold execSnapshotLatch
  repeat' first
    | with_reducible assumption
    | (with_reducible refine Sub.of hm ?_); decide
    | with_reducible apply State.blockAccess_keeps
    | with_reducible apply State.deniedRead_keeps
    | with_reducible apply State.setF_keeps
    | with_reducible apply State.emit_keeps
    | with_reducible apply KeepsR.ite
    | with_reducible apply Keeps.ite
    | with_reducible apply KeepsR.next
    | split

theorem execPpsOutputEdge_keeps {m : Nat} {s₀ : State} (o : Fin 2) (s : State) (h : Keeps m s₀ s) (hm : Sub 8388672 m) :
    KeepsR m s₀ (execPpsOutputEdge o s) := by
  unfold execPpsOutputEdge
  repeat' first
    | with_reducible assumption
    | (with_reducible refine Sub.of hm ?_); decide
    | with_reducible apply State.syncIsland_keeps
    | with_reducible apply State.after_keeps
    | with_reducible apply State.emit_keeps
    | with_reducible apply KeepsR.ite
    | with_reducible apply Keeps.ite
    | with_reducible apply KeepsR.next
    | with_reducible apply Keeps.set_island

theorem State.putRef_keeps {m : Nat} {s₀ : State} (s : State) (k : Nat) (h : Keeps m s₀ s) (hm : Sub 64 m) :
    Keeps m s₀ (State.putRef s k) := by
  unfold State.putRef
  try dsimp only
  repeat' first
    | with_reducible assumption
    | (with_reducible refine Sub.of hm ?_); decide
    | with_reducible apply Keeps.ite
    | split
    | with_reducible apply Keeps.set_island
    | dsimp only

theorem State.enterHoldover_keeps {m : Nat} {s₀ : State} (s : State) (h : Keeps m s₀ s) (hm : Sub 67 m) :
    Keeps m s₀ (State.enterHoldover s) := by
  unfold State.enterHoldover
  repeat' first
    | with_reducible assumption
    | (with_reducible refine Sub.of hm ?_); decide
    | with_reducible apply State.enterTState_keeps
    | with_reducible apply Keeps.set_island

theorem State.fallBack_keeps {m : Nat} {s₀ : State} (s : State) (h : Keeps m s₀ s) (hm : Sub 67 m) :
    Keeps m s₀ (State.fallBack s) := by
  unfold State.fallBack
  repeat' first
    | with_reducible assumption
    | (with_reducible refine Sub.of hm ?_); decide
    | with_reducible apply State.enterHoldover_keeps
    | with_reducible apply State.enterTState_keeps
    | with_reducible apply Keeps.ite
    | with_reducible apply Keeps.set_island

theorem State.plausFault_keeps {m : Nat} {s₀ : State} (s : State) (h : Keeps m s₀ s) (hm : Sub 83 m) :
    Keeps m s₀ (State.plausFault s) := by
  unfold State.plausFault
  repeat' first
    | with_reducible assumption
    | (with_reducible refine Sub.of hm ?_); decide
    | with_reducible apply State.enterHoldover_keeps
    | with_reducible apply State.fallBack_keeps
    | with_reducible apply State.raise_keeps
    | with_reducible apply State.setF_keeps
    | with_reducible apply Keeps.ite

theorem State.applyClaim_keeps {m : Nat} {s₀ : State} (s : State) (claim : Nat) (h : Keeps m s₀ s) (hm : Sub 67 m) :
    Keeps m s₀ (State.applyClaim s claim) := by
  unfold State.applyClaim
  repeat' first
    | with_reducible assumption
    | (with_reducible refine Sub.of hm ?_); decide
    | with_reducible apply State.enterTState_keeps
    | with_reducible apply State.enterHoldover_keeps
    | with_reducible apply Keeps.ite
    | with_reducible apply Keeps.set_island

theorem execTsvServoWrite_keeps {m : Nat} {s₀ : State} (init : Nat) (wide : Bool) (upper : Bool) (v : Word) (s : State) (h : Keeps m s₀ s) (hm : Sub 8389715 m) :
    KeepsR m s₀ (execTsvServoWrite init wide upper v s) := by
  unfold execTsvServoWrite
  repeat' first
    | with_reducible assumption
    | (with_reducible refine Sub.of hm ?_); decide
    | with_reducible apply State.blockAccess_keeps
    | with_reducible apply State.crossTclk_keeps
    | with_reducible apply State.plausFault_keeps
    | with_reducible apply State.setReg_keeps
    | with_reducible apply State.applyClaim_keeps
    | with_reducible apply KeepsR.ite
    | with_reducible apply Keeps.ite
    | with_reducible apply KeepsR.next
    | with_reducible apply Keeps.set_island

theorem execReferenceDisqualified_keeps {m : Nat} {s₀ : State} (r : TimeRef) (s : State) (h : Keeps m s₀ s) (hm : Sub 67 m) :
    KeepsR m s₀ (execReferenceDisqualified r s) := by
  unfold execReferenceDisqualified
  repeat' first
    | with_reducible assumption
    | (with_reducible refine Sub.of hm ?_); decide
    | with_reducible apply State.showRefs_keeps
    | with_reducible apply State.setF_keeps
    | with_reducible apply State.syncIsland_keeps
    | with_reducible apply State.draw_keeps
    | with_reducible apply KeepsR.ite
    | with_reducible apply Keeps.ite
    | with_reducible apply KeepsR.next
    | with_reducible apply Keeps.set_island

theorem execTsvRateWrite_keeps {m : Nat} {s₀ : State} (init : Nat) (v : BitVec 32) (s : State) (h : Keeps m s₀ s) (hm : Sub 8389715 m) :
    KeepsR m s₀ (execTsvRateWrite init v s) := by
  unfold execTsvRateWrite
  repeat' first
    | with_reducible assumption
    | (with_reducible refine Sub.of hm ?_); decide
    | with_reducible apply State.blockAccess_keeps
    | with_reducible apply State.crossTclk_keeps
    | with_reducible apply State.plausFault_keeps
    | with_reducible apply State.setF_keeps
    | with_reducible apply KeepsR.ite
    | with_reducible apply Keeps.ite
    | with_reducible apply KeepsR.next

theorem State.islandReset_keeps {m : Nat} {s₀ : State} (s : State) (h : Keeps m s₀ s) (hm : Sub 65 m) :
    Keeps m s₀ (State.islandReset s) := by
  exact (h.set_regs (Sub.of hm (by decide)) _ fun hs => Tab.sorted_filter _ _ hs).set_island (Sub.of hm (by decide)) _

theorem execIslandReset_keeps {m : Nat} {s₀ : State} (init : Nat) (key : BitVec 16) (s : State) (h : Keeps m s₀ s) (hm : Sub 8389715 m) :
    KeepsR m s₀ (execIslandReset init key s) := by
  unfold execIslandReset
  repeat' first
    | with_reducible assumption
    | (with_reducible refine Sub.of hm ?_); decide
    | with_reducible apply State.blockAccess_keeps
    | with_reducible apply State.islandReset_keeps
    | with_reducible apply State.crossTclk_keeps
    | with_reducible apply KeepsR.ite
    | with_reducible apply Keeps.ite
    | with_reducible apply KeepsR.next

theorem execTimePageEnable_keeps {m : Nat} {s₀ : State} (fn : Nat) (s : State) (h : Keeps m s₀ s) (hm : Sub 259 m) :
    KeepsR m s₀ (execTimePageEnable fn s) := by
  unfold execTimePageEnable
  repeat' first
    | with_reducible assumption
    | (with_reducible refine Sub.of hm ?_); decide
    | with_reducible apply State.setF_keeps
    | with_reducible apply KeepsR.ite
    | with_reducible apply Keeps.ite
    | with_reducible apply KeepsR.next
    | split
    | with_reducible apply Keeps.set_pages

theorem execTimePageDisable_keeps {m : Nat} {s₀ : State} (fn : Nat) (s : State) (h : Keeps m s₀ s) (hm : Sub 259 m) :
    KeepsR m s₀ (execTimePageDisable fn s) := by
  unfold execTimePageDisable
  repeat' first
    | with_reducible assumption
    | (with_reducible refine Sub.of hm ?_); decide
    | with_reducible apply State.setF_keeps
    | with_reducible apply KeepsR.next
    | with_reducible apply Keeps.set_pages

theorem execTsvSlew_keeps {m : Nat} {s₀ : State} (init : Nat) (amount : Option (BitVec 48)) (s : State) (h : Keeps m s₀ s) (hm : Sub 8389715 m) :
    KeepsR m s₀ (execTsvSlew init amount s) := by
  unfold execTsvSlew
  repeat' first
    | with_reducible assumption
    | (with_reducible refine Sub.of hm ?_); decide
    | with_reducible apply State.blockAccess_keeps
    | with_reducible apply State.adjLand_keeps
    | with_reducible apply State.adjRefuse_keeps
    | with_reducible apply State.plausFault_keeps
    | with_reducible apply State.draw_keeps
    | with_reducible apply KeepsR.ite
    | with_reducible apply Keeps.ite
    | with_reducible apply KeepsR.next
    | with_reducible apply Keeps.set_island

theorem State.loadCounters_keeps {m : Nat} {s₀ : State} (s : State) (value : Nat) (h : Keeps m s₀ s) (hm : Sub 67 m) :
    Keeps m s₀ (State.loadCounters s value) := by
  unfold State.loadCounters
  repeat' first
    | with_reducible assumption
    | (with_reducible refine Sub.of hm ?_); decide
    | with_reducible apply State.adjRefuse_keeps
    | with_reducible apply State.adjDone_keeps
    | with_reducible apply State.enterTState_keeps
    | with_reducible apply Keeps.ite
    | with_reducible apply Keeps.set_island

theorem execTsvSet_keeps {m : Nat} {s₀ : State} (init : Nat) (amount : Option (BitVec 48)) (s : State) (h : Keeps m s₀ s) (hm : Sub 8389715 m) :
    KeepsR m s₀ (execTsvSet init amount s) := by
  unfold execTsvSet
  repeat' first
    | with_reducible assumption
    | (with_reducible refine Sub.of hm ?_); decide
    | with_reducible apply State.blockAccess_keeps
    | with_reducible apply State.adjLand_keeps
    | with_reducible apply State.adjRefuse_keeps
    | with_reducible apply State.loadCounters_keeps
    | with_reducible apply KeepsR.ite
    | with_reducible apply Keeps.ite
    | with_reducible apply KeepsR.next

theorem execSetAtPps_keeps {m : Nat} {s₀ : State} (init : Nat) (amount : Option (BitVec 48)) (s : State) (h : Keeps m s₀ s) (hm : Sub 8389715 m) :
    KeepsR m s₀ (execSetAtPps init amount s) := by
  unfold execSetAtPps
  repeat' first
    | with_reducible assumption
    | (with_reducible refine Sub.of hm ?_); decide
    | with_reducible apply State.blockAccess_keeps
    | with_reducible apply State.adjLand_keeps
    | with_reducible apply State.adjRefuse_keeps
    | with_reducible apply KeepsR.ite
    | with_reducible apply Keeps.ite
    | with_reducible apply KeepsR.next
    | with_reducible apply Keeps.set_island

theorem State.setPtm_keeps {m : Nat} {s₀ : State} (s : State) (l : Nat) (p : PtmSt) (h : Keeps m s₀ s) (hm : Sub 128 m) :
    Keeps m s₀ (State.setPtm s l p) := by
  unfold State.setPtm
  repeat' first
    | with_reducible assumption
    | (with_reducible refine Sub.of hm ?_); decide
    | with_reducible apply Keeps.set_ptm

theorem State.noteRef_keeps {m : Nat} {s₀ : State} (s : State) (temp : Int) (exc : Option Nat) (k : Nat) (h : Keeps m s₀ s) (hm : Sub 64 m) :
    Keeps m s₀ (State.noteRef s temp exc k) := by
  unfold State.noteRef
  try dsimp only
  repeat' first
    | with_reducible assumption
    | (with_reducible refine Sub.of hm ?_); decide
    | split
    | with_reducible apply Keeps.set_island
    | dsimp only

theorem execURefEvaluation_keeps {m : Nat} {s₀ : State} (temp : Int) (s : State) (h : Keeps m s₀ s) (hm : Sub 131139 m) :
    KeepsR m s₀ (execURefEvaluation temp s) := by
  unfold execURefEvaluation
  repeat' first
    | with_reducible assumption
    | (with_reducible refine Sub.of hm ?_); decide
    | with_reducible apply State.after_keeps
    | with_reducible apply State.noteRef_keeps
    | with_reducible apply State.setF_keeps
    | with_reducible apply State.setSettle_keeps
    | with_reducible apply State.putRef_keeps
    | with_reducible apply KeepsR.ite
    | with_reducible apply Keeps.ite
    | with_reducible apply KeepsR.next

theorem State.endPulses_keeps {m : Nat} {s₀ : State} (s : State) (h : Keeps m s₀ s) (hm : Sub 8388672 m) :
    Keeps m s₀ (State.endPulses s) := by
  unfold State.endPulses
  repeat' first
    | intro _
    | with_reducible assumption
    | (with_reducible refine Sub.of hm ?_); decide
    | with_reducible apply State.emit_keeps
    | with_reducible apply Keeps.ite
    | with_reducible apply Keeps.foldl
    | with_reducible apply Keeps.set_island

theorem execPtmStale_keeps {m : Nat} {s₀ : State} (link : Fin 2) (s : State) (h : Keeps m s₀ s) (hm : Sub 128 m) :
    KeepsR m s₀ (execPtmStale link s) := by
  unfold execPtmStale
  repeat' first
    | with_reducible assumption
    | (with_reducible refine Sub.of hm ?_); decide
    | with_reducible apply State.setPtm_keeps
    | with_reducible apply State.after_keeps
    | with_reducible apply KeepsR.ite
    | with_reducible apply Keeps.ite
    | with_reducible apply KeepsR.next

theorem State.qualifiedEdge_keeps {m : Nat} {s₀ : State} (s : State) (h : Keeps m s₀ s) (hm : Sub 67 m) :
    Keeps m s₀ (State.qualifiedEdge s) := by
  unfold State.qualifiedEdge
  repeat' first
    | with_reducible assumption
    | (with_reducible refine Sub.of hm ?_); decide
    | with_reducible apply State.syncIsland_keeps
    | with_reducible apply State.loadCounters_keeps
    | with_reducible apply Keeps.ite
    | with_reducible apply Keeps.set_island

theorem execTimeSnapshotPublish_keeps {m : Nat} {s₀ : State} (s : State) (h : Keeps m s₀ s) (hm : Sub 64 m) :
    KeepsR m s₀ (execTimeSnapshotPublish s) := by
  unfold execTimeSnapshotPublish
  repeat' first
    | with_reducible assumption
    | (with_reducible refine Sub.of hm ?_); decide
    | with_reducible apply State.after_keeps
    | with_reducible apply KeepsR.ite
    | with_reducible apply Keeps.ite
    | with_reducible apply KeepsR.next
    | with_reducible apply Keeps.set_island

theorem execPtmDialogue_keeps {m : Nat} {s₀ : State} (link : Fin 2) (master : Nat) (rootBound : Bool) (s : State) (h : Keeps m s₀ s) (hm : Sub 128 m) :
    KeepsR m s₀ (execPtmDialogue link master rootBound s) := by
  unfold execPtmDialogue
  repeat' first
    | with_reducible assumption
    | (with_reducible refine Sub.of hm ?_); decide
    | with_reducible apply State.after_keeps
    | with_reducible apply State.draw_keeps
    | with_reducible apply State.setPtm_keeps
    | with_reducible apply KeepsR.ite
    | with_reducible apply Keeps.ite
    | with_reducible apply KeepsR.next

theorem execReplicaCheck_keeps {m : Nat} {s₀ : State} (r : Fin 10) (diff : Nat) (s : State) (h : Keeps m s₀ s) (hm : Sub 83 m) :
    KeepsR m s₀ (execReplicaCheck r diff s) := by
  unfold execReplicaCheck
  repeat' first
    | with_reducible assumption
    | (with_reducible refine Sub.of hm ?_); decide
    | with_reducible apply State.after_keeps
    | with_reducible apply State.raise_keeps
    | with_reducible apply KeepsR.ite
    | with_reducible apply Keeps.ite
    | with_reducible apply KeepsR.next
    | with_reducible apply Keeps.set_island

theorem execPpsWindowMissed_keeps {m : Nat} {s₀ : State} (s : State) (h : Keeps m s₀ s) (hm : Sub 67 m) :
    KeepsR m s₀ (execPpsWindowMissed s) := by
  unfold execPpsWindowMissed
  repeat' first
    | with_reducible assumption
    | (with_reducible refine Sub.of hm ?_); decide
    | with_reducible apply State.after_keeps
    | with_reducible apply State.showRefs_keeps
    | with_reducible apply State.setF_keeps
    | with_reducible apply KeepsR.ite
    | with_reducible apply Keeps.ite
    | with_reducible apply KeepsR.next
    | with_reducible apply Keeps.set_island

theorem State.pageWrite_keeps {m : Nat} {s₀ : State} (s : State) (fn : Nat) (off : Nat) (d : List Byte) (h : Keeps m s₀ s) (hm : Sub 8389687 m) :
    Keeps m s₀ (State.pageWrite s fn off d).1 := by
  unfold State.pageWrite
  repeat' first
    | with_reducible assumption
    | (with_reducible refine Sub.of hm ?_); decide
    | with_reducible apply State.dmaCheck_keeps
    | with_reducible apply State.issueWrite_keeps
    | with_reducible apply Keeps.ite
    | with_reducible apply Keeps.ite1
    | with_reducible apply Keeps.ite2

theorem execPpsInEdge_keeps {m : Nat} {s₀ : State} (t : Nat) (highNs : Nat) (s : State) (h : Keeps m s₀ s) (hm : Sub 67 m) :
    KeepsR m s₀ (execPpsInEdge t highNs s) := by
  unfold execPpsInEdge
  repeat' first
    | with_reducible assumption
    | (with_reducible refine Sub.of hm ?_); decide
    | with_reducible apply State.draw_keeps
    | with_reducible apply State.syncIsland_keeps
    | with_reducible apply State.after_keeps
    | with_reducible apply State.qualifiedEdge_keeps
    | with_reducible apply State.showRefs_keeps
    | with_reducible apply State.setF_keeps
    | with_reducible apply KeepsR.ite
    | with_reducible apply Keeps.ite
    | with_reducible apply KeepsR.next
    | with_reducible apply Keeps.set_island

theorem execReplicaRealigned_keeps {m : Nat} {s₀ : State} (r : Fin 10) (s : State) (h : Keeps m s₀ s) (hm : Sub 64 m) :
    KeepsR m s₀ (execReplicaRealigned r s) := by
  unfold execReplicaRealigned
  repeat' first
    | with_reducible assumption
    | (with_reducible refine Sub.of hm ?_); decide
    | with_reducible apply KeepsR.next
    | with_reducible apply Keeps.set_island

theorem execServoBeatTimeout_keeps {m : Nat} {s₀ : State} (s : State) (h : Keeps m s₀ s) (hm : Sub 83 m) :
    KeepsR m s₀ (execServoBeatTimeout s) := by
  unfold execServoBeatTimeout
  repeat' first
    | with_reducible assumption
    | (with_reducible refine Sub.of hm ?_); decide
    | with_reducible apply State.plausFault_keeps
    | with_reducible apply State.syncIsland_keeps
    | with_reducible apply State.after_keeps
    | with_reducible apply State.fallBack_keeps
    | with_reducible apply KeepsR.ite
    | with_reducible apply Keeps.ite
    | with_reducible apply KeepsR.next

theorem State.pageDenied_keeps {m : Nat} {s₀ : State} (s : State) (fn : Nat) (h : Keeps m s₀ s) (hm : Sub 275 m) :
    Keeps m s₀ (State.pageDenied s fn) := by
  unfold State.pageDenied
  repeat' first
    | with_reducible assumption
    | (with_reducible refine Sub.of hm ?_); decide
    | with_reducible apply State.setF_keeps
    | with_reducible apply State.raise_keeps
    | with_reducible apply Keeps.set_pages

theorem execReferenceQualified_keeps {m : Nat} {s₀ : State} (r : TimeRef) (s : State) (h : Keeps m s₀ s) (hm : Sub 67 m) :
    KeepsR m s₀ (execReferenceQualified r s) := by
  unfold execReferenceQualified
  repeat' first
    | with_reducible assumption
    | (with_reducible refine Sub.of hm ?_); decide
    | with_reducible apply State.showRefs_keeps
    | with_reducible apply State.setF_keeps
    | with_reducible apply State.syncIsland_keeps
    | with_reducible apply KeepsR.ite
    | with_reducible apply Keeps.ite
    | with_reducible apply KeepsR.next

theorem execTimePageWrite_keeps {m : Nat} {s₀ : State} (fn : Nat) (utc : Option (Nat × Bool × Bool)) (s : State) (h : Keeps m s₀ s) (hm : Sub 8389943 m) :
    KeepsR m s₀ (execTimePageWrite fn utc s) := by
  unfold execTimePageWrite
  repeat' first
    | with_reducible assumption
    | (with_reducible refine Sub.of hm ?_); decide
    | with_reducible apply State.draw_keeps
    | with_reducible apply State.after_keeps
    | with_reducible apply State.pageWrite_keeps
    | with_reducible apply State.pageDenied_keeps
    | with_reducible apply KeepsR.ite
    | with_reducible apply Keeps.ite
    | with_reducible apply KeepsR.next
    | split
    | with_reducible apply Keeps.set_pages

end Sys2Proof.Machine
end

