-- ==== Sys2Proof/Laws/KeepFormes.lean ====
section
/-! SUPPORT. What the operations of Machine/Formes.lean can change: each keeps every part of the state that its number does not name,
and the standing properties of `Keeps`. -/

namespace Sys2Proof.Machine

theorem State.finishSweep_keeps {m : Nat} {s₀ : State} (s : State) (w : Sweep) (h : Keeps m s₀ s) (hm : Sub 12291 m) :
    Keeps m s₀ (State.finishSweep s w) := by
  unfold State.finishSweep
  repeat' first
    | with_reducible assumption
    | (with_reducible refine Sub.of hm ?_); decide
    | with_reducible apply State.advanceSweep_keeps
    | with_reducible apply State.after_keeps
    | with_reducible apply State.setF_keeps
    | with_reducible apply Keeps.set_frm

theorem State.formeEvent_keeps {m : Nat} {s₀ : State} (s : State) (typ : Nat) (n : Nat) (h : Keeps m s₀ s) (hm : Sub 8390199 m) :
    Keeps m s₀ (State.formeEvent s typ n) := by
  unfold State.formeEvent
  repeat' first
    | with_reducible assumption
    | (with_reducible refine Sub.of hm ?_); decide
    | with_reducible apply State.postEvent_keeps

theorem State.freeForme_keeps {m : Nat} {s₀ : State} (s : State) (n : Nat) (h : Keeps m s₀ s) (hm : Sub 4099 m) :
    Keeps m s₀ (State.freeForme s n) := by
  unfold State.freeForme
  repeat' first
    | with_reducible assumption
    | (with_reducible refine Sub.of hm ?_); decide
    | with_reducible apply State.setReg_keeps
    | with_reducible apply State.setFormeState_keeps
    | with_reducible apply Keeps.set_frm

theorem State.discardForme_keeps {m : Nat} {s₀ : State} (s : State) (n : Nat) (h : Keeps m s₀ s) (hm : Sub 4099 m) :
    Keeps m s₀ (State.discardForme s n) := by
  unfold State.discardForme
  repeat' first
    | with_reducible assumption
    | (with_reducible refine Sub.of hm ?_); decide
    | with_reducible apply State.setFormeState_keeps
    | with_reducible apply State.queueSweep_keeps
    | with_reducible apply Keeps.set_frm

theorem State.lockUpNumber_keeps {m : Nat} {s₀ : State} (s : State) (n : Nat) (h : Keeps m s₀ s) (hm : Sub 4099 m) :
    Keeps m s₀ (State.lockUpNumber s n) := by
  unfold State.lockUpNumber
  repeat' first
    | with_reducible assumption
    | (with_reducible refine Sub.of hm ?_); decide
    | with_reducible apply State.setFormeState_keeps
    | with_reducible apply State.bump_keeps
    | with_reducible apply State.setF_keeps
    | with_reducible apply State.queueSweep_keeps
    | with_reducible apply Keeps.ite
    | with_reducible apply Keeps.set_frm

theorem State.installStandalone_keeps {m : Nat} {s₀ : State} (s : State) (h : Keeps m s₀ s) (hm : Sub 4099 m) :
    Keeps m s₀ (State.installStandalone s) := by
  unfold State.installStandalone
  repeat' first
    | with_reducible assumption
    | (with_reducible refine Sub.of hm ?_); decide
    | with_reducible apply State.discardForme_keeps
    | with_reducible apply State.lockUpNumber_keeps
    | with_reducible apply State.setFormeState_keeps
    | split
    | with_reducible apply Keeps.set_frm

theorem State.resumeInstall_keeps {m : Nat} {s₀ : State} (s : State) (h : Keeps m s₀ s) (hm : Sub 4099 m) :
    Keeps m s₀ (State.resumeInstall s) := by
  unfold State.resumeInstall
  repeat' first
    | with_reducible assumption
    | (with_reducible refine Sub.of hm ?_); decide
    | with_reducible apply State.installStandalone_keeps
    | with_reducible apply Keeps.ite

theorem execSettleSweepDone_keeps {m : Nat} {s₀ : State} (s : State) (h : Keeps m s₀ s) (hm : Sub 8402487 m) :
    KeepsR m s₀ (execSettleSweepDone s) := by
  unfold execSettleSweepDone
  repeat' first
    | with_reducible assumption
    | (with_reducible refine Sub.of hm ?_); decide
    | with_reducible apply State.finishSweep_keeps
    | with_reducible apply State.formeEvent_keeps
    | with_reducible apply State.freeForme_keeps
    | with_reducible apply State.resumeInstall_keeps
    | with_reducible apply State.startSweep_keeps
    | with_reducible apply KeepsR.ite
    | with_reducible apply Keeps.ite
    | with_reducible apply KeepsR.next
    | split

theorem State.formeTake_keeps {m : Nat} {s₀ : State} (s : State) (o : Origin) (op : Nat) (addr : Nat) (h : Keeps m s₀ s) (hm : Sub 8389651 m) :
    Keeps m s₀ (State.formeTake s o op addr).1 := by
  unfold State.formeTake
  repeat' first
    | with_reducible assumption
    | (with_reducible refine Sub.of hm ?_); decide
    | with_reducible apply State.blockAccess_keeps
    | with_reducible apply State.setF_keeps
    | with_reducible apply Keeps.ite
    | split
    | dsimp only

theorem State.formeEnd_keeps {m : Nat} {s₀ : State} (s : State) (o : Origin) (status : Nat) (number : Nat) (seq : Nat) (h : Keeps m s₀ s) (hm : Sub 8390199 m) :
    Keeps m s₀ (State.formeEnd s o status number seq) := by
  unfold State.formeEnd
  repeat' first
    | with_reducible assumption
    | (with_reducible refine Sub.of hm ?_); decide
    | with_reducible apply State.setF_keeps
    | with_reducible apply State.complete_keeps
    | split

theorem execFormeOpen_keeps {m : Nat} {s₀ : State} (o : Origin) (s : State) (h : Keeps m s₀ s) (hm : Sub 8390199 m) :
    KeepsR m s₀ (execFormeOpen o s) := by
  unfold execFormeOpen
  repeat' first
    | with_reducible assumption
    | (with_reducible refine Sub.of hm ?_); decide
    | with_reducible apply State.formeTake_keeps
    | with_reducible apply State.formeEnd_keeps
    | with_reducible apply State.setFormeState_keeps
    | with_reducible apply KeepsR.ite
    | with_reducible apply Keeps.ite
    | with_reducible apply KeepsR.next
    | split

theorem State.installForme_keeps {m : Nat} {s₀ : State} (s : State) (n : Nat) (img : List Byte) (h : Keeps m s₀ s) (hm : Sub 12291 m) :
    Keeps m s₀ (State.installForme s n img) := by
  unfold State.installForme
  repeat' first
    | intro _
    | with_reducible assumption
    | (with_reducible refine Sub.of hm ?_); decide
    | with_reducible apply State.writeEntry_keeps
    | with_reducible apply State.showTables_keeps
    | with_reducible apply State.setFormeState_keeps
    | with_reducible apply State.setReg_keeps
    | with_reducible apply Keeps.foldl
    | with_reducible apply Keeps.set_frm

theorem State.loadForme_keeps {m : Nat} {s₀ : State} (s : State) (n : Nat) (img : List Byte) (h : Keeps m s₀ s) (hm : Sub 12291 m) :
    Keeps m s₀ (State.loadForme s n img).1 := by
  unfold State.loadForme
  repeat' first
    | with_reducible assumption
    | (with_reducible refine Sub.of hm ?_); decide
    | with_reducible apply State.setFormeState_keeps
    | with_reducible apply State.installForme_keeps
    | with_reducible apply Keeps.ite
    | with_reducible apply Keeps.ite1
    | with_reducible apply Keeps.ite2

theorem execFormeLoad_keeps {m : Nat} {s₀ : State} (o : Origin) (addr : Nat) (img : List Byte) (s : State) (h : Keeps m s₀ s) (hm : Sub 8402487 m) :
    KeepsR m s₀ (execFormeLoad o addr img s) := by
  unfold execFormeLoad
  repeat' first
    | with_reducible assumption
    | (with_reducible refine Sub.of hm ?_); decide
    | with_reducible apply State.formeTake_keeps
    | with_reducible apply State.formeEnd_keeps
    | with_reducible apply State.loadForme_keeps
    | with_reducible apply State.dmaCheck_keeps
    | with_reducible apply State.issueRead_keeps
    | with_reducible apply KeepsR.ite
    | with_reducible apply Keeps.ite
    | with_reducible apply KeepsR.next
    | split

theorem execFormeLockUp_keeps {m : Nat} {s₀ : State} (o : Origin) (s : State) (h : Keeps m s₀ s) (hm : Sub 8394295 m) :
    KeepsR m s₀ (execFormeLockUp o s) := by
  unfold execFormeLockUp
  repeat' first
    | with_reducible assumption
    | (with_reducible refine Sub.of hm ?_); decide
    | with_reducible apply State.formeTake_keeps
    | with_reducible apply State.formeEnd_keeps
    | with_reducible apply State.setF_keeps
    | with_reducible apply KeepsR.ite
    | with_reducible apply Keeps.ite
    | with_reducible apply KeepsR.next
    | split
    | with_reducible apply Keeps.set_frm

theorem execFormeDiscard_keeps {m : Nat} {s₀ : State} (o : Origin) (s : State) (h : Keeps m s₀ s) (hm : Sub 8394295 m) :
    KeepsR m s₀ (execFormeDiscard o s) := by
  unfold execFormeDiscard
  repeat' first
    | with_reducible assumption
    | (with_reducible refine Sub.of hm ?_); decide
    | with_reducible apply State.formeTake_keeps
    | with_reducible apply State.formeEnd_keeps
    | with_reducible apply State.discardForme_keeps
    | with_reducible apply KeepsR.ite
    | with_reducible apply Keeps.ite
    | with_reducible apply KeepsR.next
    | split

theorem State.lockUpEnd_keeps {m : Nat} {s₀ : State} (s : State) (o : Origin) (status : Nat) (number : Nat) (seq : Nat) (h : Keeps m s₀ s) (hm : Sub 10487351 m) :
    Keeps m s₀ (State.lockUpEnd s o status number seq) := by
  unfold State.lockUpEnd
  repeat' first
    | with_reducible assumption
    | (with_reducible refine Sub.of hm ?_); decide
    | with_reducible apply State.formeEnd_keeps
    | with_reducible apply State.setF_keeps
    | with_reducible apply Keeps.ite
    | split
    | with_reducible apply Keeps.set_odf

theorem execDiscardSweepDone_keeps {m : Nat} {s₀ : State} (s : State) (h : Keeps m s₀ s) (hm : Sub 8402487 m) :
    KeepsR m s₀ (execDiscardSweepDone s) := by
  unfold execDiscardSweepDone
  repeat' first
    | with_reducible assumption
    | (with_reducible refine Sub.of hm ?_); decide
    | with_reducible apply State.resumeInstall_keeps
    | with_reducible apply State.startSweep_keeps
    | with_reducible apply State.formeEvent_keeps
    | with_reducible apply State.freeForme_keeps
    | with_reducible apply State.finishSweep_keeps
    | with_reducible apply KeepsR.ite
    | with_reducible apply Keeps.ite
    | with_reducible apply KeepsR.next
    | split

theorem execLockUpCommit_keeps {m : Nat} {s₀ : State} (s : State) (h : Keeps m s₀ s) (hm : Sub 10491447 m) :
    KeepsR m s₀ (execLockUpCommit s) := by
  unfold execLockUpCommit
  repeat' first
    | with_reducible assumption
    | (with_reducible refine Sub.of hm ?_); decide
    | with_reducible apply State.lockUpNumber_keeps
    | with_reducible apply State.after_keeps
    | with_reducible apply State.lockUpEnd_keeps
    | with_reducible apply KeepsR.ite
    | with_reducible apply Keeps.ite
    | with_reducible apply KeepsR.next
    | split
    | with_reducible apply Keeps.set_frm

theorem execFormeRetired_keeps {m : Nat} {s₀ : State} (s : State) (h : Keeps m s₀ s) (hm : Sub 8394295 m) :
    KeepsR m s₀ (execFormeRetired s) := by
  unfold execFormeRetired
  repeat' first
    | with_reducible assumption
    | (with_reducible refine Sub.of hm ?_); decide
    | with_reducible apply State.formeEvent_keeps
    | with_reducible apply State.setFormeState_keeps
    | with_reducible apply State.freeForme_keeps
    | with_reducible apply State.resumeInstall_keeps
    | with_reducible apply State.queueSweep_keeps
    | with_reducible apply KeepsR.ite
    | with_reducible apply Keeps.ite
    | with_reducible apply KeepsR.next
    | split
    | with_reducible apply Keeps.set_frm

end Sys2Proof.Machine
end

