-- ==== Sys2Proof/Laws/KeepNveOps.lean ====
section
/-! SUPPORT. What the operations of Machine/NveOps.lean can change: each keeps every part of the state that its number does not name,
and the standing properties of `Keeps`. -/

namespace Sys2Proof.Machine

theorem State.showNve_keeps {m : Nat} {s₀ : State} (s : State) (h : Keeps m s₀ s) (hm : Sub 3 m) :
    Keeps m s₀ (State.showNve s) := by
  unfold State.showNve
  repeat' first
    | with_reducible assumption
    | (with_reducible refine Sub.of hm ?_); decide
    | with_reducible apply State.setF_keeps

theorem State.nveDReset_keeps {m : Nat} {s₀ : State} (s : State) (h : Keeps m s₀ s) (hm : Sub 393219 m) :
    Keeps m s₀ (State.nveDReset s) := by
  unfold State.nveDReset
  repeat' first
    | intro _
    | with_reducible assumption
    | (with_reducible refine Sub.of hm ?_); decide
    | with_reducible apply State.dropOut_keeps
    | with_reducible apply State.showNve_keeps
    | with_reducible apply Keeps.foldl
    | split
    | with_reducible apply Keeps.set_nve

theorem State.setNs_keeps {m : Nat} {s₀ : State} (s : State) (n : Nat) (x : NvmeNs) (h : Keeps m s₀ s) (hm : Sub 262147 m) :
    Keeps m s₀ (State.setNs s n x) := by
  unfold State.setNs
  repeat' first
    | with_reducible assumption
    | (with_reducible refine Sub.of hm ?_); decide
    | with_reducible apply State.showNve_keeps
    | with_reducible apply Keeps.set_nve

theorem State.setCtrl_keeps {m : Nat} {s₀ : State} (s : State) (c : Nat) (x : NvmeCtrl) (h : Keeps m s₀ s) (hm : Sub 262144 m) :
    Keeps m s₀ (State.setCtrl s c x) := by
  unfold State.setCtrl
  repeat' first
    | with_reducible assumption
    | (with_reducible refine Sub.of hm ?_); decide
    | with_reducible apply Keeps.set_nve

theorem State.nvmeEntry_keeps {m : Nat} {s₀ : State} (s : State) (c : Nat) (sq : Nat) (cid : Nat) (status : Nat) (dw0 : Nat) (sqe : List Byte) (h : Keeps m s₀ s) (hm : Sub 262144 m) :
    Keeps m s₀ (State.nvmeEntry s c sq cid status dw0 sqe).2 := by
  unfold State.nvmeEntry
  repeat' first
    | with_reducible assumption
    | (with_reducible refine Sub.of hm ?_); decide
    | with_reducible apply State.draw_keeps
    | with_reducible apply State.setCtrl_keeps
    | with_reducible apply Keeps.ite
    | split

theorem State.cqSignal_keeps {m : Nat} {s₀ : State} (s : State) (c : Nat) (q : Nat) (h : Keeps m s₀ s) (hm : Sub 8650787 m) :
    Keeps m s₀ (State.cqSignal s c q) := by
  unfold State.cqSignal
  repeat' first
    | with_reducible assumption
    | (with_reducible refine Sub.of hm ?_); decide
    | with_reducible apply State.setCtrl_keeps
    | with_reducible apply State.sendVector_keeps
    | with_reducible apply Keeps.ite
    | split

theorem State.cqWrite_keeps {m : Nat} {s₀ : State} (s : State) (c : Nat) (q : Nat) (entry : List Byte) (h : Keeps m s₀ s) (hm : Sub 8651831 m) :
    Keeps m s₀ (State.cqWrite s c q entry) := by
  unfold State.cqWrite
  repeat' first
    | with_reducible assumption
    | (with_reducible refine Sub.of hm ?_); decide
    | with_reducible apply State.dmaCheck_keeps
    | with_reducible apply State.issueWrite_keeps
    | with_reducible apply State.setCtrl_keeps
    | with_reducible apply State.cqSignal_keeps
    | with_reducible apply Keeps.ite
    | split

theorem State.cqPost_keeps {m : Nat} {s₀ : State} (s : State) (c : Nat) (q : Nat) (entry : List Byte) (h : Keeps m s₀ s) (hm : Sub 8651831 m) :
    ∀ t, State.cqPost s c q entry = some t → Keeps m s₀ t := by
  intro t ht
  unfold State.cqPost at ht
  repeat' split at ht
  all_goals first
    | contradiction
    | (simp only [Option.some.injEq] at ht; subst ht)
  all_goals first
    | assumption
    | exact State.cqWrite_keeps _ _ _ _ h (Sub.of hm (by decide))
    | exact State.setCtrl_keeps _ _ _ h (Sub.of hm (by decide))

theorem State.nvmeEnd_keeps {m : Nat} {s₀ : State} (s : State) (c : Nat) (sq : Nat) (cid : Nat) (status : Nat) (dw0 : Nat) (h : Keeps m s₀ s) (hm : Sub 8651831 m) :
    Keeps m s₀ (State.nvmeEnd s c sq cid status dw0) := by
  unfold State.nvmeEnd
  repeat' first
    | with_reducible assumption
    | (with_reducible refine Sub.of hm ?_); decide
    | with_reducible apply State.nvmeEntry_keeps
    | with_reducible apply State.setCtrl_keeps
    | with_reducible refine State.cqPost_keeps _ _ _ _ ?_ ?_ _ ‹_›
    | with_reducible apply Keeps.ite
    | with_reducible apply Keeps.getD
    | split
    | dsimp only

theorem State.aerTry_keeps {m : Nat} {s₀ : State} (s : State) (c : Nat) (h : Keeps m s₀ s) (hm : Sub 8651831 m) :
    Keeps m s₀ (State.aerTry s c) := by
  unfold State.aerTry
  repeat' first
    | with_reducible assumption
    | (with_reducible refine Sub.of hm ?_); decide
    | with_reducible apply State.nvmeEnd_keeps
    | with_reducible apply State.setCtrl_keeps
    | split

theorem State.nvmeEvent_keeps {m : Nat} {s₀ : State} (s : State) (c : Nat) (dw0 : Nat) (bit : Nat) (h : Keeps m s₀ s) (hm : Sub 8651831 m) :
    Keeps m s₀ (State.nvmeEvent s c dw0 bit) := by
  unfold State.nvmeEvent
  repeat' first
    | with_reducible assumption
    | (with_reducible refine Sub.of hm ?_); decide
    | with_reducible apply State.aerTry_keeps
    | with_reducible apply State.setCtrl_keeps
    | with_reducible apply Keeps.ite
    | split

theorem State.setWarn_keeps {m : Nat} {s₀ : State} (s : State) (c : Nat) (bit : Nat) (on : Bool) (h : Keeps m s₀ s) (hm : Sub 8651831 m) :
    Keeps m s₀ (State.setWarn s c bit on) := by
  unfold State.setWarn
  repeat' first
    | with_reducible assumption
    | (with_reducible refine Sub.of hm ?_); decide
    | with_reducible apply State.setCtrl_keeps
    | with_reducible apply State.nvmeEvent_keeps
    | with_reducible apply Keeps.ite
    | split

theorem State.showWarn_keeps {m : Nat} {s₀ : State} (s : State) (c : Nat) (h : Keeps m s₀ s) (hm : Sub 8651831 m) :
    Keeps m s₀ (State.showWarn s c) := by
  unfold State.showWarn
  repeat' first
    | with_reducible assumption
    | (with_reducible refine Sub.of hm ?_); decide
    | with_reducible apply State.setWarn_keeps
    | with_reducible apply Keeps.ite

theorem State.faultNs_keeps {m : Nat} {s₀ : State} (s : State) (n : Nat) (status : Nat) (h : Keeps m s₀ s) (hm : Sub 8651831 m) :
    Keeps m s₀ (State.faultNs s n status) := by
  unfold State.faultNs
  repeat' first
    | with_reducible assumption
    | (with_reducible refine Sub.of hm ?_); decide
    | with_reducible apply State.setNs_keeps
    | with_reducible apply State.setCtrl_keeps
    | with_reducible apply State.showWarn_keeps
    | split

theorem State.nveRemove_keeps {m : Nat} {s₀ : State} (s : State) (nss : List Nat) (h : Keeps m s₀ s) (hm : Sub 8651831 m) :
    Keeps m s₀ (State.nveRemove s nss) := by
  unfold State.nveRemove
  repeat' first
    | intro _
    | with_reducible assumption
    | (with_reducible refine Sub.of hm ?_); decide
    | with_reducible apply State.faultNs_keeps
    | with_reducible apply Keeps.foldl

theorem State.addCtrl_keeps {m : Nat} {s₀ : State} (s : State) (c : Nat) (f : Nat) (h : Keeps m s₀ s) (hm : Sub 262147 m) :
    Keeps m s₀ (State.addCtrl s c f) := by
  unfold State.addCtrl
  repeat' first
    | with_reducible assumption
    | (with_reducible refine Sub.of hm ?_); decide
    | with_reducible apply State.draw_keeps
    | with_reducible apply State.setReg_keeps
    | with_reducible apply State.setCtrl_keeps
    | with_reducible apply Keeps.ite
    | split

theorem State.assignCtrls_keeps {m : Nat} {s₀ : State} (s : State) (l : Nat) (h : Keeps m s₀ s) (hm : Sub 262179 m) :
    Keeps m s₀ (State.assignCtrls s l) := by
  unfold State.assignCtrls
  repeat' first
    | intro _
    | with_reducible assumption
    | (with_reducible refine Sub.of hm ?_); decide
    | with_reducible apply State.setF_keeps
    | with_reducible apply State.addCtrl_keeps
    | with_reducible apply State.setFn_keeps
    | with_reducible apply Keeps.ite
    | with_reducible apply Keeps.foldl
    | split
    | with_reducible apply Keeps.set_nve

theorem State.saveSmart_keeps {m : Nat} {s₀ : State} (s : State) (c : Nat) (h : Keeps m s₀ s) (hm : Sub 262144 m) :
    Keeps m s₀ (State.saveSmart s c) := by
  unfold State.saveSmart
  repeat' first
    | with_reducible assumption
    | (with_reducible refine Sub.of hm ?_); decide
    | with_reducible apply Keeps.ite
    | split
    | with_reducible apply Keeps.set_nve

theorem State.dropMsg_keeps {m : Nat} {s₀ : State} (s : State) (i : Nat) (h : Keeps m s₀ s) (hm : Sub 262147 m) :
    Keeps m s₀ (State.dropMsg s i) := by
  unfold State.dropMsg
  repeat' first
    | with_reducible assumption
    | (with_reducible refine Sub.of hm ?_); decide
    | with_reducible apply State.showNve_keeps
    | with_reducible apply Keeps.set_nve

theorem State.discardMsg_keeps {m : Nat} {s₀ : State} (s : State) (i : Nat) (h : Keeps m s₀ s) (hm : Sub 262147 m) :
    Keeps m s₀ (State.discardMsg s i) := by
  unfold State.discardMsg
  repeat' first
    | with_reducible assumption
    | (with_reducible refine Sub.of hm ?_); decide
    | with_reducible apply State.dropMsg_keeps
    | split
    | with_reducible apply Keeps.set_nve

theorem State.freeBufs_keeps {m : Nat} {s₀ : State} (s : State) (h : Keeps m s₀ s) (hm : Sub 262147 m) :
    Keeps m s₀ (State.freeBufs s) := by
  unfold State.freeBufs
  repeat' first
    | with_reducible assumption
    | (with_reducible refine Sub.of hm ?_); decide
    | with_reducible apply State.showNve_keeps
    | with_reducible apply Keeps.set_nve

theorem State.unpin_keeps {m : Nat} {s₀ : State} (s : State) (ids : List Nat) (h : Keeps m s₀ s) (hm : Sub 262147 m) :
    Keeps m s₀ (State.unpin s ids) := by
  unfold State.unpin
  repeat' first
    | with_reducible assumption
    | (with_reducible refine Sub.of hm ?_); decide
    | with_reducible apply State.freeBufs_keeps
    | with_reducible apply Keeps.ite
    | with_reducible apply Keeps.set_nve

theorem State.cutCmd_keeps {m : Nat} {s₀ : State} (s : State) (m1 : NvmeCmd) (h : Keeps m s₀ s) (hm : Sub 262147 m) :
    Keeps m s₀ (State.cutCmd s m1) := by
  unfold State.cutCmd
  repeat' first
    | intro _
    | with_reducible assumption
    | (with_reducible refine Sub.of hm ?_); decide
    | with_reducible apply State.discardMsg_keeps
    | with_reducible apply State.unpin_keeps
    | with_reducible apply Keeps.foldl
    | split

theorem State.nveCount_keeps {m : Nat} {s₀ : State} (s : State) (k : Nat) (n : Nat) (h : Keeps m s₀ s) (hm : Sub 3 m) :
    Keeps m s₀ (State.nveCount s k n) := by
  unfold State.nveCount
  repeat' first
    | with_reducible assumption
    | (with_reducible refine Sub.of hm ?_); decide
    | with_reducible apply State.bump_keeps

theorem State.endCtrlReset_keeps {m : Nat} {s₀ : State} (s : State) (c : Nat) (h : Keeps m s₀ s) (hm : Sub 262144 m) :
    Keeps m s₀ (State.endCtrlReset s c) := by
  unfold State.endCtrlReset
  repeat' first
    | with_reducible assumption
    | (with_reducible refine Sub.of hm ?_); decide
    | with_reducible apply State.draw_keeps
    | with_reducible apply State.setCtrl_keeps
    | split

theorem State.startCtrlReset_keeps {m : Nat} {s₀ : State} (s : State) (c : Nat) (h : Keeps m s₀ s) (hm : Sub 262147 m) :
    Keeps m s₀ (State.startCtrlReset s c) := by
  unfold State.startCtrlReset
  repeat' first
    | intro _
    | with_reducible assumption
    | (with_reducible refine Sub.of hm ?_); decide
    | with_reducible apply State.nveCount_keeps
    | with_reducible apply State.cutCmd_keeps
    | with_reducible apply State.setCtrl_keeps
    | with_reducible apply State.endCtrlReset_keeps
    | with_reducible apply Keeps.ite
    | with_reducible apply Keeps.foldl
    | split
    | dsimp only

theorem State.nveFnReset_keeps {m : Nat} {s₀ : State} (s : State) (fs : List Nat) (h : Keeps m s₀ s) (hm : Sub 262147 m) :
    Keeps m s₀ (State.nveFnReset s fs) := by
  unfold State.nveFnReset
  repeat' first
    | intro _
    | with_reducible assumption
    | (with_reducible refine Sub.of hm ?_); decide
    | with_reducible apply State.startCtrlReset_keeps
    | with_reducible apply State.saveSmart_keeps
    | with_reducible apply State.setCtrl_keeps
    | with_reducible apply Keeps.foldl
    | split
    | dsimp only

theorem State.nvePause_keeps {m : Nat} {s₀ : State} (s : State) (h : Keeps m s₀ s) (hm : Sub 8651831 m) :
    Keeps m s₀ (State.nvePause s) := by
  unfold State.nvePause
  repeat' first
    | intro _
    | with_reducible assumption
    | (with_reducible refine Sub.of hm ?_); decide
    | with_reducible apply State.nvmeEvent_keeps
    | with_reducible apply Keeps.foldl
    | with_reducible apply Keeps.set_nve

theorem State.nveReset_keeps {m : Nat} {s₀ : State} (s : State) (h : Keeps m s₀ s) (hm : Sub 262144 m) :
    Keeps m s₀ (State.nveReset s) := by
  unfold State.nveReset
  repeat' first
    | intro _
    | with_reducible assumption
    | (with_reducible refine Sub.of hm ?_); decide
    | with_reducible apply State.saveSmart_keeps
    | with_reducible apply Keeps.foldl
    | with_reducible apply Keeps.set_nve

theorem State.nveLost_keeps {m : Nat} {s₀ : State} (s : State) (h : Keeps m s₀ s) (hm : Sub 262144 m) :
    Keeps m s₀ (State.nveLost s) := by
  unfold State.nveLost
  repeat' first
    | intro _
    | with_reducible assumption
    | (with_reducible refine Sub.of hm ?_); decide
    | with_reducible apply State.saveSmart_keeps
    | with_reducible apply State.setCtrl_keeps
    | with_reducible apply Keeps.foldl
    | split

theorem State.nveActivated_keeps {m : Nat} {s₀ : State} (s : State) (ok : Bool) (h : Keeps m s₀ s) (hm : Sub 8651831 m) :
    Keeps m s₀ (State.nveActivated s ok) := by
  unfold State.nveActivated
  repeat' first
    | intro _
    | with_reducible assumption
    | (with_reducible refine Sub.of hm ?_); decide
    | with_reducible apply State.nvmeEnd_keeps
    | with_reducible apply Keeps.ite
    | with_reducible apply Keeps.foldl

theorem State.nveDrain_keeps {m : Nat} {s₀ : State} (s : State) (g : Nat) (h : Keeps m s₀ s) (hm : Sub 262147 m) :
    Keeps m s₀ (State.nveDrain s g) := by
  unfold State.nveDrain
  repeat' first
    | intro _
    | with_reducible assumption
    | (with_reducible refine Sub.of hm ?_); decide
    | with_reducible apply State.nveCount_keeps
    | with_reducible apply State.cutCmd_keeps
    | with_reducible apply State.setCtrl_keeps
    | with_reducible apply Keeps.foldl
    | split

theorem State.showTemp_keeps {m : Nat} {s₀ : State} (s : State) (c : Nat) (h : Keeps m s₀ s) (hm : Sub 8651831 m) :
    Keeps m s₀ (State.showTemp s c) := by
  unfold State.showTemp
  repeat' first
    | with_reducible assumption
    | (with_reducible refine Sub.of hm ?_); decide
    | with_reducible apply State.setWarn_keeps
    | split

theorem State.signalQueues_keeps {m : Nat} {s₀ : State} (s : State) (h : Keeps m s₀ s) (hm : Sub 8650787 m) :
    Keeps m s₀ (State.signalQueues s) := by
  unfold State.signalQueues
  repeat' first
    | intro _
    | with_reducible assumption
    | (with_reducible refine Sub.of hm ?_); decide
    | with_reducible apply State.cqSignal_keeps
    | with_reducible apply Keeps.ite
    | with_reducible apply Keeps.foldl

theorem State.cqDrain_keeps {m : Nat} {s₀ : State} (s : State) (c : Nat) (q : Nat) (y_ : Nat) (h : Keeps m s₀ s) (hm : Sub 8651831 m) :
    Keeps m s₀ (State.cqDrain s c q y_) := by
  induction y_ generalizing s with
  | zero => exact h
  | succ k ih =>
    unfold State.cqDrain
    repeat' first
      | with_reducible assumption
      | (with_reducible refine Sub.of hm ?_); decide
      | with_reducible apply ih
      | with_reducible apply State.cqWrite_keeps
      | with_reducible apply State.setCtrl_keeps
      | with_reducible apply Keeps.ite
      | split

end Sys2Proof.Machine
end

