-- ==== Sys2Proof/Laws/KeepSliceOps.lean ====
section
/-! SUPPORT. What the operations of Machine/SliceOps.lean can change: each keeps every part of the state that its number does not name,
and the standing properties of `Keeps`. -/

namespace Sys2Proof.Machine

theorem State.showGates_keeps {m : Nat} {s₀ : State} (s : State) (h : Keeps m s₀ s) (hm : Sub 3 m) :
    Keeps m s₀ (State.showGates s) := by
  unfold State.showGates
  repeat' first
    | with_reducible assumption
    | (with_reducible refine Sub.of hm ?_); decide
    | with_reducible apply State.setF_keeps

theorem State.poolAdd_keeps {m : Nat} {s₀ : State} (s : State) (k : Nat) (n : Nat) (h : Keeps m s₀ s) (hm : Sub 3 m) :
    Keeps m s₀ (State.poolAdd s k n) := by
  unfold State.poolAdd
  repeat' first
    | with_reducible assumption
    | (with_reducible refine Sub.of hm ?_); decide
    | with_reducible apply State.setF_keeps

theorem State.sliceFltFree_keeps {m : Nat} {s₀ : State} (s : State) (g : Nat) (h : Keeps m s₀ s) (hm : Sub 8195 m) :
    Keeps m s₀ (State.sliceFltFree s g) := by
  unfold State.sliceFltFree
  repeat' first
    | intro _
    | with_reducible assumption
    | (with_reducible refine Sub.of hm ?_); decide
    | with_reducible apply State.showTables_keeps
    | with_reducible apply State.writeEntry_keeps
    | with_reducible apply Keeps.foldl

theorem State.sliceRemove_keeps {m : Nat} {s₀ : State} (s : State) (g : Nat) (h : Keeps m s₀ s) (hm : Sub 8889911 m) :
    Keeps m s₀ (State.sliceRemove s g) := by
  unfold State.sliceRemove
  repeat' first
    | intro _
    | with_reducible assumption
    | (with_reducible refine Sub.of hm ?_); decide
    | with_reducible apply State.poolAdd_keeps
    | with_reducible apply State.nveRemove_keeps
    | with_reducible apply State.drtRemove_keeps
    | with_reducible apply State.sliceFltFree_keeps
    | with_reducible apply State.cipherDrain_keeps
    | with_reducible apply State.drtDrain_keeps
    | with_reducible apply State.showGates_keeps
    | with_reducible apply Keeps.ite
    | with_reducible apply Keeps.foldl
    | split
    | with_reducible apply Keeps.set_slc_prf
    | with_reducible apply Keeps.set_prf
    | with_reducible apply Keeps.set_rings
    | with_reducible apply Keeps.set_slc

theorem State.showDone_keeps {m : Nat} {s₀ : State} (s : State) (h : Keeps m s₀ s) (hm : Sub 3 m) :
    Keeps m s₀ (State.showDone s) := by
  unfold State.showDone
  repeat' first
    | with_reducible assumption
    | (with_reducible refine Sub.of hm ?_); decide
    | with_reducible apply State.setReg_keeps
    | split

theorem State.postDone_keeps {m : Nat} {s₀ : State} (s : State) (g : Nat) (destroy : Bool) (status : Nat) (h : Keeps m s₀ s) (hm : Sub 1027 m) :
    Keeps m s₀ (State.postDone s g destroy status) := by
  unfold State.postDone
  repeat' first
    | with_reducible assumption
    | (with_reducible refine Sub.of hm ?_); decide
    | with_reducible apply State.showDone_keeps
    | with_reducible apply Keeps.ite
    | with_reducible apply Keeps.set_slc

theorem State.poolSub_keeps {m : Nat} {s₀ : State} (s : State) (k : Nat) (n : Nat) (h : Keeps m s₀ s) (hm : Sub 3 m) :
    Keeps m s₀ (State.poolSub s k n) := by
  unfold State.poolSub
  repeat' first
    | with_reducible assumption
    | (with_reducible refine Sub.of hm ?_); decide
    | with_reducible apply State.setF_keeps

theorem State.sliceClose_keeps {m : Nat} {s₀ : State} (s : State) (g : Nat) (st : SliceState) (h : Keeps m s₀ s) (hm : Sub 8422915 m) :
    Keeps m s₀ (State.sliceClose s g st) := by
  unfold State.sliceClose
  repeat' first
    | with_reducible assumption
    | (with_reducible refine Sub.of hm ?_); decide
    | with_reducible apply State.setSlice_keeps
    | with_reducible apply State.showGates_keeps
    | with_reducible apply State.noteSliceReset_keeps
    | with_reducible apply Keeps.ite
    | split
    | with_reducible apply Keeps.set_rings

theorem State.sliceDrain_keeps {m : Nat} {s₀ : State} (s : State) (g : Nat) (blk : Nat) (h : Keeps m s₀ s) (hm : Sub 8883767 m) :
    Keeps m s₀ (State.sliceDrain s g blk) := by
  unfold State.sliceDrain
  repeat' first
    | with_reducible assumption
    | (with_reducible refine Sub.of hm ?_); decide
    | with_reducible apply State.dropQueues_keeps
    | with_reducible apply State.drtDrain_keeps
    | with_reducible apply State.cipherDrain_keeps
    | with_reducible apply State.nveDrain_keeps
    | with_reducible apply Keeps.ite
    | split
    | with_reducible apply Keeps.set_rings

theorem State.sliceClear_keeps {m : Nat} {s₀ : State} (s : State) (g : Nat) (h : Keeps m s₀ s) (hm : Sub 3584 m) :
    Keeps m s₀ (State.sliceClear s g) := by
  unfold State.sliceClear
  repeat' first
    | with_reducible assumption
    | (with_reducible refine Sub.of hm ?_); decide
    | with_reducible apply State.disableRings_keeps
    | with_reducible apply State.setSlice_keeps
    | split

end Sys2Proof.Machine
end

