-- ==== Sys2Proof/Laws/KeepHifOps.lean ====
section
/-! SUPPORT. What the operations of Machine/HifOps.lean can change: each keeps every part of the state that its number does not name,
and the standing properties of `Keeps`. -/

namespace Sys2Proof.Machine

theorem State.aerCorrectable_keeps {m : Nat} {s₀ : State} (s : State) (f : Nat) (bit : Nat) (send : Bool) (h : Keeps m s₀ s) (hm : Sub 8388640 m) :
    Keeps m s₀ (State.aerCorrectable s f bit send) := by
  unfold State.aerCorrectable
  repeat' first
    | with_reducible assumption
    | (with_reducible refine Sub.of hm ?_); decide
    | with_reducible apply State.setFn_keeps
    | with_reducible apply State.emit_keeps
    | with_reducible apply Keeps.ite
    | split

theorem State.aerUncorrectable_keeps {m : Nat} {s₀ : State} (s : State) (f : Nat) (bit : Nat) (advisory : Bool) (hdr : List Nat) (send : Bool) (h : Keeps m s₀ s) (hm : Sub 8388640 m) :
    Keeps m s₀ (State.aerUncorrectable s f bit advisory hdr send) := by
  unfold State.aerUncorrectable
  repeat' first
    | with_reducible assumption
    | (with_reducible refine Sub.of hm ?_); decide
    | with_reducible apply State.setFn_keeps
    | with_reducible apply State.aerCorrectable_keeps
    | with_reducible apply State.emit_keeps
    | with_reducible apply Keeps.ite
    | split
    | with_reducible apply Keeps.set_hif

theorem State.aerEndpoint_keeps {m : Nat} {s₀ : State} (s : State) (e : Nat) (bit : Nat) (uncor : Bool) (hdr : List Nat) (h : Keeps m s₀ s) (hm : Sub 8388640 m) :
    Keeps m s₀ (State.aerEndpoint s e bit uncor hdr) := by
  unfold State.aerEndpoint
  repeat' first
    | intro _
    | with_reducible assumption
    | (with_reducible refine Sub.of hm ?_); decide
    | with_reducible apply State.aerUncorrectable_keeps
    | with_reducible apply State.aerCorrectable_keeps
    | with_reducible apply Keeps.ite
    | with_reducible apply Keeps.foldl

theorem State.finishAbsorbed_keeps {m : Nat} {s₀ : State} (s : State) (fs : List Nat) (h : Keeps m s₀ s) (hm : Sub 8889911 m) :
    Keeps m s₀ (State.finishAbsorbed s fs) := by
  unfold State.finishAbsorbed
  repeat' first
    | intro _
    | with_reducible assumption
    | (with_reducible refine Sub.of hm ?_); decide
    | with_reducible apply State.postDone_keeps
    | with_reducible apply State.sliceRemove_keeps
    | with_reducible apply State.showGates_keeps
    | with_reducible apply State.setSlice_keeps
    | with_reducible apply Keeps.ite
    | with_reducible apply Keeps.foldl
    | split

theorem State.absorbSlices_keeps {m : Nat} {s₀ : State} (s : State) (fs : List Nat) (h : Keeps m s₀ s) (hm : Sub 1027 m) :
    Keeps m s₀ (State.absorbSlices s fs) := by
  unfold State.absorbSlices
  repeat' first
    | with_reducible assumption
    | (with_reducible refine Sub.of hm ?_); decide
    | with_reducible apply State.showGates_keeps
    | with_reducible apply Keeps.ite
    | with_reducible apply Keeps.set_slc

theorem State.fnReset_keeps {m : Nat} {s₀ : State} (s : State) (l : Rst) (fs : List Nat) (h : Keeps m s₀ s) (hm : Sub 8785719 m) :
    Keeps m s₀ (State.fnReset s l fs) := by
  unfold State.fnReset
  repeat' first
    | intro _
    | with_reducible assumption
    | (with_reducible refine Sub.of hm ?_); decide
    | with_reducible apply State.drtLoseSlices_keeps
    | with_reducible apply State.nveFnReset_keeps
    | with_reducible apply State.disableRings_keeps
    | with_reducible apply State.absorbSlices_keeps
    | with_reducible apply State.resetFnRegs_keeps
    | with_reducible apply State.setFn_keeps
    | with_reducible apply Keeps.foldl
    | split
    | with_reducible apply Keeps.set_hif_pages
    | with_reducible apply Keeps.set_hif
    | with_reducible apply Keeps.set_pages

theorem State.dropFns_keeps {m : Nat} {s₀ : State} (s : State) (fs : List Nat) (h : Keeps m s₀ s) (hm : Sub 32 m) :
    Keeps m s₀ (State.dropFns s fs) := by
  unfold State.dropFns
  repeat' first
    | with_reducible assumption
    | (with_reducible refine Sub.of hm ?_); decide
    | with_reducible apply Keeps.set_hif

theorem State.enterHReset_keeps {m : Nat} {s₀ : State} (s : State) (e : Nat) (h : Keeps m s₀ s) (hm : Sub 8785847 m) :
    Keeps m s₀ (State.enterHReset s e) := by
  unfold State.enterHReset
  repeat' first
    | with_reducible assumption
    | (with_reducible refine Sub.of hm ?_); decide
    | with_reducible apply State.dropFns_keeps
    | with_reducible apply State.fnReset_keeps
    | with_reducible apply State.setEp_keeps
    | with_reducible apply State.setReg_keeps
    | with_reducible apply State.bump_keeps
    | with_reducible apply State.setF_keeps
    | with_reducible apply Keeps.ite
    | with_reducible apply Keeps.set_ptm

theorem State.enterLinkReset_keeps {m : Nat} {s₀ : State} (s : State) (l : Nat) (h : Keeps m s₀ s) (hm : Sub 8785847 m) :
    Keeps m s₀ (State.enterLinkReset s l) := by
  unfold State.enterLinkReset
  repeat' first
    | with_reducible assumption
    | (with_reducible refine Sub.of hm ?_); decide
    | with_reducible apply State.enterHReset_keeps
    | with_reducible apply Keeps.ite

theorem State.hostReady_keeps {m : Nat} {s₀ : State} (s : State) (h : Keeps m s₀ s) (hm : Sub 8388611 m) :
    Keeps m s₀ (State.hostReady s) := by
  unfold State.hostReady
  repeat' first
    | intro _
    | with_reducible assumption
    | (with_reducible refine Sub.of hm ?_); decide
    | with_reducible apply State.setF_keeps
    | with_reducible apply State.emit_keeps
    | with_reducible apply Keeps.ite
    | with_reducible apply Keeps.foldl

theorem State.setVfs_keeps {m : Nat} {s₀ : State} (s : State) (pf : Nat) (x : FnSt) (on : Bool) (n : Nat) (h : Keeps m s₀ s) (hm : Sub 8892215 m) :
    Keeps m s₀ (State.setVfs s pf x on n) := by
  unfold State.setVfs
  repeat' first
    | intro _
    | with_reducible assumption
    | (with_reducible refine Sub.of hm ?_); decide
    | with_reducible apply State.dropFns_keeps
    | with_reducible apply State.finishAbsorbed_keeps
    | with_reducible apply State.fnReset_keeps
    | with_reducible apply State.setFn_keeps
    | with_reducible apply Keeps.ite
    | with_reducible apply Keeps.foldl

theorem State.takeIdentity_keeps {m : Nat} {s₀ : State} (s : State) (e : Nat) (h : Keeps m s₀ s) (hm : Sub 35 m) :
    Keeps m s₀ (State.takeIdentity s e) := by
  unfold State.takeIdentity
  repeat' first
    | intro _
    | with_reducible assumption
    | (with_reducible refine Sub.of hm ?_); decide
    | with_reducible apply State.dropFns_keeps
    | with_reducible apply State.setFn_keeps
    | with_reducible apply State.setF_keeps
    | with_reducible apply Keeps.ite
    | with_reducible apply Keeps.foldl

end Sys2Proof.Machine
end

