-- ==== Sys2Proof/Laws/KeepOdfOps.lean ====
section
/-! SUPPORT. What the operations of Machine/OdfOps.lean can change: each keeps every part of the state that its number does not name,
and the standing properties of `Keeps`. -/

namespace Sys2Proof.Machine

theorem State.takePartition_keeps {m : Nat} {s₀ : State} (s : State) (own : Nat) (ms : List Nat) (h : Keeps m s₀ s) (hm : Sub 2097155 m) :
    Keeps m s₀ (State.takePartition s own ms) := by
  unfold State.takePartition
  repeat' first
    | with_reducible assumption
    | (with_reducible refine Sub.of hm ?_); decide
    | with_reducible apply State.setF_keeps
    | with_reducible apply Keeps.ite
    | with_reducible apply Keeps.set_odf

theorem State.showCascade_keeps {m : Nat} {s₀ : State} (s : State) (h : Keeps m s₀ s) (hm : Sub 10485763 m) :
    Keeps m s₀ (State.showCascade s) := by
  unfold State.showCascade
  repeat' first
    | with_reducible assumption
    | (with_reducible refine Sub.of hm ?_); decide
    | with_reducible apply State.setF_keeps
    | with_reducible apply State.emit_keeps
    | with_reducible apply Keeps.ite
    | with_reducible apply Keeps.foldl
    | with_reducible apply Keeps.set_odf

theorem State.noteActivating_keeps {m : Nat} {s₀ : State} (s : State) (on : Bool) (h : Keeps m s₀ s) (hm : Sub 2097152 m) :
    Keeps m s₀ (State.noteActivating s on) := by
  unfold State.noteActivating
  repeat' first
    | with_reducible assumption
    | (with_reducible refine Sub.of hm ?_); decide
    | with_reducible apply Keeps.ite
    | with_reducible apply Keeps.set_odf

end Sys2Proof.Machine
end

