-- ==== Sys2Proof/Laws/KeepPortOps.lean ====
section
/-! SUPPORT. What the operations of Machine/PortOps.lean can change: each keeps every part of the state that its number does not name,
and the standing properties of `Keeps`. -/

namespace Sys2Proof.Machine

theorem State.linkChanged_keeps {m : Nat} {s₀ : State} (s : State) (p : Nat) (status : Nat) (h : Keeps m s₀ s) (hm : Sub 8390199 m) :
    Keeps m s₀ (State.linkChanged s p status) := by
  unfold State.linkChanged
  repeat' first
    | with_reducible assumption
    | (with_reducible refine Sub.of hm ?_); decide
    | with_reducible apply State.portChanged_keeps
    | with_reducible apply State.postEvent_keeps

theorem State.setPort_keeps {m : Nat} {s₀ : State} (s : State) (p : Nat) (x : PortSt) (h : Keeps m s₀ s) (hm : Sub 2048 m) :
    Keeps m s₀ (State.setPort s p x) := by
  unfold State.setPort
  repeat' first
    | with_reducible assumption
    | (with_reducible refine Sub.of hm ?_); decide
    | with_reducible apply Keeps.set_dp

theorem State.cutTx_keeps {m : Nat} {s₀ : State} (s : State) (p : Nat) (h : Keeps m s₀ s) (hm : Sub 8390656 m) :
    Keeps m s₀ (State.cutTx s p) := by
  unfold State.cutTx
  repeat' first
    | with_reducible assumption
    | (with_reducible refine Sub.of hm ?_); decide
    | with_reducible apply State.setPort_keeps
    | with_reducible apply State.emit_keeps
    | with_reducible apply Keeps.ite

theorem State.cutRx_keeps {m : Nat} {s₀ : State} (s : State) (p : Nat) (h : Keeps m s₀ s) (hm : Sub 2048 m) :
    Keeps m s₀ (State.cutRx s p) := by
  unfold State.cutRx
  repeat' first
    | with_reducible assumption
    | (with_reducible refine Sub.of hm ?_); decide
    | with_reducible apply State.setPort_keeps
    | with_reducible apply State.setPkt_keeps
    | split
    | dsimp only

theorem State.drainTx_keeps {m : Nat} {s₀ : State} (s : State) (p : Nat) (h : Keeps m s₀ s) (hm : Sub 8392247 m) :
    Keeps m s₀ (State.drainTx s p) := by
  unfold State.drainTx
  repeat' first
    | intro _
    | with_reducible assumption
    | (with_reducible refine Sub.of hm ?_); decide
    | with_reducible apply State.dropPkt_keeps
    | with_reducible apply State.macCount_keeps
    | with_reducible apply State.popLst_keeps
    | with_reducible apply Keeps.foldl

theorem State.portToDown_keeps {m : Nat} {s₀ : State} (s0 : State) (p : Nat) (h : Keeps m s₀ s0) (hm : Sub 8392247 m) :
    Keeps m s₀ (State.portToDown s0 p) := by
  unfold State.portToDown
  repeat' first
    | with_reducible assumption
    | (with_reducible refine Sub.of hm ?_); decide
    | with_reducible apply State.cutTx_keeps
    | with_reducible apply State.setF_keeps
    | with_reducible apply State.cutRx_keeps
    | with_reducible apply State.drainTx_keeps
    | with_reducible apply State.setPort_keeps

theorem State.checkLanes_keeps {m : Nat} {s₀ : State} (s : State) (h : Keeps m s₀ s) (hm : Sub 8392247 m) :
    Keeps m s₀ (State.checkLanes s) := by
  unfold State.checkLanes
  repeat' first
    | intro _
    | with_reducible assumption
    | (with_reducible refine Sub.of hm ?_); decide
    | with_reducible apply State.linkChanged_keeps
    | with_reducible apply State.raise_keeps
    | with_reducible apply State.setF_keeps
    | with_reducible apply State.portToDown_keeps
    | with_reducible apply Keeps.ite
    | with_reducible apply Keeps.foldl

theorem State.rxReady_keeps {m : Nat} {s₀ : State} (s : State) (p : Nat) (n : Nat) (t : Nat) (h : Keeps m s₀ s) :
    Keeps m s₀ (State.rxReady s p n t).2 := by
  unfold State.rxReady
  repeat' first
    | with_reducible assumption
    | with_reducible apply State.draw_keeps
    | with_reducible apply Keeps.ite

theorem State.reportLink_keeps {m : Nat} {s₀ : State} (s : State) (p : Nat) (wasDown : Bool) (h : Keeps m s₀ s) (hm : Sub 8390199 m) :
    Keeps m s₀ (State.reportLink s p wasDown) := by
  unfold State.reportLink
  repeat' first
    | with_reducible assumption
    | (with_reducible refine Sub.of hm ?_); decide
    | with_reducible apply State.linkChanged_keeps
    | with_reducible apply Keeps.ite

theorem State.portLost_keeps {m : Nat} {s₀ : State} (s : State) (p : Nat) (h : Keeps m s₀ s) (hm : Sub 8392247 m) :
    Keeps m s₀ (State.portLost s p) := by
  unfold State.portLost
  repeat' first
    | with_reducible assumption
    | (with_reducible refine Sub.of hm ?_); decide
    | with_reducible apply State.reportLink_keeps
    | with_reducible apply State.portToDown_keeps
    | with_reducible apply Keeps.ite

theorem State.chooseCage_keeps {m : Nat} {s₀ : State} (s : State) (c : Nat) (h : Keeps m s₀ s) (hm : Sub 8392247 m) :
    Keeps m s₀ (State.chooseCage s c) := by
  unfold State.chooseCage
  repeat' first
    | intro _
    | with_reducible assumption
    | (with_reducible refine Sub.of hm ?_); decide
    | with_reducible apply State.portLost_keeps
    | with_reducible apply State.setF_keeps
    | with_reducible apply Keeps.ite
    | with_reducible apply Keeps.foldl

theorem State.txReady_keeps {m : Nat} {s₀ : State} (s : State) (p : Nat) (h : Keeps m s₀ s) :
    Keeps m s₀ (State.txReady s p).2 := by
  unfold State.txReady
  repeat' first
    | with_reducible assumption
    | with_reducible apply State.draw_keeps
    | with_reducible apply Keeps.ite

theorem State.showImp_keeps {m : Nat} {s₀ : State} (s : State) (p : Nat) (h : Keeps m s₀ s) (hm : Sub 3 m) :
    Keeps m s₀ (State.showImp s p) := by
  unfold State.showImp
  repeat' first
    | with_reducible assumption
    | (with_reducible refine Sub.of hm ?_); decide
    | with_reducible apply State.setF_keeps
    | with_reducible apply Keeps.ite

end Sys2Proof.Machine
end

