-- ==== Sys2Proof/Laws/KeepScopes.lean ====
section
/-! SUPPORT. What the operations of Machine/Scopes.lean can change: each keeps every part of the state that its number does not name,
and the standing properties of `Keeps`. -/

namespace Sys2Proof.Machine

theorem State.updEnd_keeps {m : Nat} {s₀ : State} (s : State) (status : Nat) (reason : Nat) (h : Keeps m s₀ s) (hm : Sub 3 m) :
    Keeps m s₀ (State.updEnd s status reason) := by
  unfold State.updEnd
  repeat' first
    | with_reducible assumption
    | (with_reducible refine Sub.of hm ?_); decide
    | with_reducible apply State.setF_keeps

theorem State.squashFetched_keeps {m : Nat} {s₀ : State} (s : State) (h : Keeps m s₀ s) (hm : Sub 8783415 m) :
    Keeps m s₀ (State.squashFetched s) := by
  unfold State.squashFetched
  repeat' first
    | intro _
    | with_reducible assumption
    | (with_reducible refine Sub.of hm ?_); decide
    | with_reducible apply State.endOut_keeps
    | with_reducible apply State.completeEntry_keeps
    | with_reducible apply Keeps.ite
    | with_reducible apply Keeps.foldl

theorem State.setDHold_keeps {m : Nat} {s₀ : State} (s : State) (v : Nat) (h : Keeps m s₀ s) (hm : Sub 3 m) :
    Keeps m s₀ (State.setDHold s v) := by
  unfold State.setDHold
  repeat' first
    | intro _
    | with_reducible assumption
    | (with_reducible refine Sub.of hm ?_); decide
    | with_reducible apply State.setF_keeps
    | with_reducible apply Keeps.foldl

theorem State.dropSwapped_keeps {m : Nat} {s₀ : State} (s : State) (h : Keeps m s₀ s) (hm : Sub 8392247 m) :
    Keeps m s₀ (State.dropSwapped s) := by
  unfold State.dropSwapped
  repeat' first
    | intro _
    | with_reducible assumption
    | (with_reducible refine Sub.of hm ?_); decide
    | with_reducible apply State.linkChanged_keeps
    | with_reducible apply State.portToDown_keeps
    | with_reducible apply Keeps.foldl

theorem State.discardPackets_keeps {m : Nat} {s₀ : State} (s0 : State) (h : Keeps m s₀ s0) (hm : Sub 8390659 m) :
    Keeps m s₀ (State.discardPackets s0) := by
  unfold State.discardPackets
  repeat' first
    | intro _
    | with_reducible assumption
    | (with_reducible refine Sub.of hm ?_); decide
    | with_reducible apply State.cutTx_keeps
    | with_reducible apply State.setF_keeps
    | with_reducible apply Keeps.foldl
    | with_reducible apply Keeps.set_dp

theorem State.dataReset_keeps {m : Nat} {s₀ : State} (s : State) (h : Keeps m s₀ s) (hm : Sub 8908343 m) :
    Keeps m s₀ (State.dataReset s) := by
  unfold State.dataReset
  repeat' first
    | with_reducible assumption
    | (with_reducible refine Sub.of hm ?_); decide
    | with_reducible apply State.squashFetched_keeps
    | with_reducible apply State.setDHold_keeps
    | with_reducible apply State.resetRegs_keeps
    | with_reducible apply State.showHandles_keeps
    | with_reducible apply State.checkLanes_keeps
    | with_reducible apply State.swapFailed_keeps
    | with_reducible apply State.dropSwapped_keeps
    | with_reducible apply State.discardPackets_keeps
    | with_reducible apply State.resetBuckets_keeps
    | with_reducible apply State.cipherDReset_keeps
    | with_reducible apply State.drtDReset_keeps
    | with_reducible apply State.nveDReset_keeps
    | with_reducible apply State.showTransport_keeps
    | with_reducible apply State.reloadCores_keeps
    | with_reducible apply Keeps.set_tbl

theorem State.beginMode_keeps {m : Nat} {s₀ : State} (s : State) (t : ReqTrigger) (target : Nat) (h : Keeps m s₀ s) (hm : Sub 11 m) :
    Keeps m s₀ (State.beginMode s t target) := by
  unfold State.beginMode
  repeat' first
    | with_reducible assumption
    | (with_reducible refine Sub.of hm ?_); decide
    | with_reducible apply State.setF_keeps
    | with_reducible apply Keeps.set_modes

theorem State.clearBlocks_keeps {m : Nat} {s₀ : State} (s : State) (cold : Bool) (h : Keeps m s₀ s) (hm : Sub 7995324 m) :
    Keeps m s₀ (State.clearBlocks s cold) := by
  exact
    { pending := h.pending, now := h.now, freeSeq := h.freeSeq, fuseKept := h.fuseKept,
      canon := fun hc => ⟨(h.canon hc).1, (h.canon hc).2.1, Memory.wf_filter s.mem _ (h.canon hc).2.2⟩,
      regs := h.regs,
      mram := h.mram,
      mem := fun hb => absurd (Sub.bit (k := 2) (Sub.of hm (by decide))) (by simp [hb]),
      modes := fun hb => absurd (Sub.bit (k := 3) (Sub.of hm (by decide))) (by simp [hb]),
      prf := fun hb => absurd (Sub.bit (k := 4) (Sub.of hm (by decide))) (by simp [hb]),
      hif := fun hb => absurd (Sub.bit (k := 5) (Sub.of hm (by decide))) (by simp [hb]),
      island := h.island,
      ptm := fun hb => absurd (Sub.bit (k := 7) (Sub.of hm (by decide))) (by simp [hb]),
      pages := fun hb => absurd (Sub.bit (k := 8) (Sub.of hm (by decide))) (by simp [hb]),
      rings := fun hb => absurd (Sub.bit (k := 9) (Sub.of hm (by decide))) (by simp [hb]),
      slc := fun hb => absurd (Sub.bit (k := 10) (Sub.of hm (by decide))) (by simp [hb]),
      dp := fun hb => absurd (Sub.bit (k := 11) (Sub.of hm (by decide))) (by simp [hb]),
      frm := fun hb => absurd (Sub.bit (k := 12) (Sub.of hm (by decide))) (by simp [hb]),
      tbl := fun hb => absurd (Sub.bit (k := 13) (Sub.of hm (by decide))) (by simp [hb]),
      tm := fun hb => absurd (Sub.bit (k := 14) (Sub.of hm (by decide))) (by simp [hb]),
      fcx := fun hb => absurd (Sub.bit (k := 15) (Sub.of hm (by decide))) (by simp [hb]),
      cph := fun hb => absurd (Sub.bit (k := 16) (Sub.of hm (by decide))) (by simp [hb]),
      drt := h.drt,
      nve := h.nve,
      boot := fun hb => absurd (Sub.bit (k := 19) (Sub.of hm (by decide))) (by simp [hb]),
      upd := fun hb => absurd (Sub.bit (k := 20) (Sub.of hm (by decide))) (by simp [hb]),
      odf := fun hb => absurd (Sub.bit (k := 21) (Sub.of hm (by decide))) (by simp [hb]),
      hw := fun hb => absurd (Sub.bit (k := 22) (Sub.of hm (by decide))) (by simp [hb]),
      out := h.out,
      fuse := h.fuse }

theorem State.answerMode_keeps {m : Nat} {s₀ : State} (s : State) (t : ReqTrigger) (status : Nat) (h : Keeps m s₀ s) (hm : Sub 8390199 m) :
    Keeps m s₀ (State.answerMode s t status) := by
  unfold State.answerMode
  repeat' first
    | with_reducible assumption
    | (with_reducible refine Sub.of hm ?_); decide
    | with_reducible apply State.setF_keeps
    | with_reducible apply State.complete_keeps
    | with_reducible apply Keeps.ite
    | split

theorem State.endMode_keeps {m : Nat} {s₀ : State} (s : State) (status : Nat) (h : Keeps m s₀ s) (hm : Sub 8390207 m) :
    Keeps m s₀ (State.endMode s status) := by
  unfold State.endMode
  repeat' first
    | with_reducible assumption
    | (with_reducible refine Sub.of hm ?_); decide
    | with_reducible apply State.setF_keeps
    | with_reducible apply State.answerMode_keeps
    | split
    | with_reducible apply Keeps.set_modes

theorem State.bridgeLearning_keeps {m : Nat} {s₀ : State} (s : State) (h : Keeps m s₀ s) (hm : Sub 3 m) :
    Keeps m s₀ (State.bridgeLearning s) := by
  unfold State.bridgeLearning
  repeat' first
    | intro _
    | with_reducible assumption
    | (with_reducible refine Sub.of hm ?_); decide
    | with_reducible apply State.setReg_keeps
    | with_reducible apply State.setF_keeps
    | with_reducible apply Keeps.foldl

theorem State.standaloneEntry_keeps {m : Nat} {s₀ : State} (s : State) (h : Keeps m s₀ s) (hm : Sub 8912439 m) :
    Keeps m s₀ (State.standaloneEntry s) := by
  unfold State.standaloneEntry
  repeat' first
    | intro _
    | with_reducible assumption
    | (with_reducible refine Sub.of hm ?_); decide
    | with_reducible apply State.installStandalone_keeps
    | with_reducible apply State.bridgeLearning_keeps
    | with_reducible apply State.chooseCage_keeps
    | with_reducible apply State.swapEpoch_keeps
    | with_reducible apply State.sliceRemove_keeps
    | with_reducible apply State.standaloneCores_keeps
    | with_reducible apply State.showCipher_keeps
    | with_reducible apply State.clearKeys_keeps
    | with_reducible apply State.squashEps_keeps
    | with_reducible apply Keeps.foldl
    | with_reducible apply Keeps.set_tm

theorem State.standbyPorts_keeps {m : Nat} {s₀ : State} (s : State) (h : Keeps m s₀ s) (hm : Sub 8392247 m) :
    Keeps m s₀ (State.standbyPorts s) := by
  unfold State.standbyPorts
  repeat' first
    | intro _
    | with_reducible assumption
    | (with_reducible refine Sub.of hm ?_); decide
    | with_reducible apply State.setF_keeps
    | with_reducible apply State.linkChanged_keeps
    | with_reducible apply State.portToDown_keeps
    | with_reducible apply Keeps.ite
    | with_reducible apply Keeps.foldl
    | split

theorem State.standbyEntry_keeps {m : Nat} {s₀ : State} (s : State) (h : Keeps m s₀ s) (hm : Sub 8900535 m) :
    Keeps m s₀ (State.standbyEntry s) := by
  unfold State.standbyEntry
  repeat' first
    | with_reducible assumption
    | (with_reducible refine Sub.of hm ?_); decide
    | with_reducible apply State.enterLinkReset_keeps
    | with_reducible apply State.showHandles_keeps
    | with_reducible apply State.resetBuckets_keeps
    | with_reducible apply State.discardPackets_keeps
    | with_reducible apply State.standbyPorts_keeps
    | with_reducible apply State.parkCores_keeps
    | with_reducible apply State.suspendUnits_keeps

theorem State.showMode_keeps {m : Nat} {s₀ : State} (s : State) (h : Keeps m s₀ s) (hm : Sub 10618423 m) :
    Keeps m s₀ (State.showMode s) := by
  unfold State.showMode
  repeat' first
    | intro _
    | with_reducible assumption
    | (with_reducible refine Sub.of hm ?_); decide
    | with_reducible apply State.showCascade_keeps
    | with_reducible apply State.showTransport_keeps
    | with_reducible apply State.showSafelight_keeps
    | with_reducible apply State.showCore_keeps
    | with_reducible apply Keeps.foldl

theorem State.standbyPortBack_keeps {m : Nat} {s₀ : State} (s : State) (h : Keeps m s₀ s) (hm : Sub 8392247 m) :
    Keeps m s₀ (State.standbyPortBack s) := by
  unfold State.standbyPortBack
  repeat' first
    | with_reducible assumption
    | (with_reducible refine Sub.of hm ?_); decide
    | with_reducible apply State.linkChanged_keeps
    | with_reducible apply State.portToDown_keeps
    | with_reducible apply Keeps.ite

theorem State.commitMode_keeps {m : Nat} {s₀ : State} (s : State) (target : Nat) (h : Keeps m s₀ s) (hm : Sub 11009975 m) :
    Keeps m s₀ (State.commitMode s target) := by
  unfold State.commitMode
  repeat' first
    | with_reducible assumption
    | (with_reducible refine Sub.of hm ?_); decide
    | with_reducible apply State.setF_keeps
    | with_reducible apply State.standaloneEntry_keeps
    | with_reducible apply State.standbyEntry_keeps
    | with_reducible apply State.reloadCores_keeps
    | with_reducible apply State.showMode_keeps
    | with_reducible apply State.standbyPortBack_keeps
    | with_reducible apply Keeps.ite

theorem State.startStandby_keeps {m : Nat} {s₀ : State} (s : State) (entry : Bool) (h : Keeps m s₀ s) (hm : Sub 11 m) :
    Keeps m s₀ (State.startStandby s entry) := by
  unfold State.startStandby
  repeat' first
    | with_reducible assumption
    | (with_reducible refine Sub.of hm ?_); decide
    | with_reducible apply State.beginMode_keeps
    | with_reducible apply Keeps.ite

theorem State.resumeHeldStandby_keeps {m : Nat} {s₀ : State} (s : State) (h : Keeps m s₀ s) (hm : Sub 11 m) :
    Keeps m s₀ (State.resumeHeldStandby s) := by
  unfold State.resumeHeldStandby
  repeat' first
    | with_reducible assumption
    | (with_reducible refine Sub.of hm ?_); decide
    | with_reducible apply State.startStandby_keeps
    | split
    | with_reducible apply Keeps.set_modes

theorem State.keepLive_keeps {m : Nat} {s₀ : State} (s : State) (s0 : State) (h : Keeps m s₀ s) (hm : Sub 3 m) :
    Keeps m s₀ (State.keepLive s s0) := by
  unfold State.keepLive
  repeat' first
    | with_reducible assumption
    | (with_reducible refine Sub.of hm ?_); decide
    | with_reducible apply State.setF_keeps
    | with_reducible apply State.setReg_keeps

theorem State.seedTables_keeps {m : Nat} {s₀ : State} (s : State) (h : Keeps m s₀ s) (hm : Sub 8192 m) :
    Keeps m s₀ (State.seedTables s) := by
  unfold State.seedTables
  repeat' first
    | with_reducible assumption
    | (with_reducible refine Sub.of hm ?_); decide
    | with_reducible apply State.draw_keeps
    | with_reducible apply Keeps.ite
    | with_reducible apply Keeps.set_tbl

theorem State.socReset_keeps {m : Nat} {s₀ : State} (s : State) (cold : Bool) (h : Keeps m s₀ s) (hm : Sub 8388543 m) :
    Keeps m s₀ (State.socReset s cold) := by
  unfold State.socReset
  repeat' first
    | with_reducible assumption
    | (with_reducible refine Sub.of hm ?_); decide
    | with_reducible apply State.nveReset_keeps
    | with_reducible apply State.nveLost_keeps
    | with_reducible apply State.keepLive_keeps
    | with_reducible apply State.resetRegs_keeps
    | with_reducible apply State.setF_keeps
    | with_reducible apply State.draw_keeps
    | with_reducible apply State.seedTables_keeps
    | with_reducible apply State.drtReset_keeps
    | with_reducible apply State.clearBlocks_keeps
    | with_reducible apply State.showSafelight_keeps
    | with_reducible apply State.setReg_keeps
    | with_reducible apply Keeps.ite

theorem State.beginReset_keeps {m : Nat} {s₀ : State} (s : State) (k : RstKind) (causeBit : Option Nat) (h : Keeps m s₀ s) (hm : Sub 16777151 m) :
    Keeps m s₀ (State.beginReset s k causeBit) := by
  unfold State.beginReset
  repeat' first
    | with_reducible assumption
    | (with_reducible refine Sub.of hm ?_); decide
    | with_reducible apply State.setReg_keeps
    | with_reducible apply State.dataReset_keeps
    | with_reducible apply State.setF_keeps
    | with_reducible apply State.socReset_keeps
    | with_reducible apply Keeps.ite
    | split
    | with_reducible apply Keeps.set_modes

theorem State.resetRequest_keeps {m : Nat} {s₀ : State} (s : State) (init : Nat) (v : Nat) (h : Keeps m s₀ s) (hm : Sub 16777151 m) :
    Keeps m s₀ (State.resetRequest s init v) := by
  unfold State.resetRequest
  repeat' first
    | with_reducible assumption
    | (with_reducible refine Sub.of hm ?_); decide
    | with_reducible apply State.blockAccess_keeps
    | with_reducible apply State.setF_keeps
    | with_reducible apply State.beginReset_keeps
    | with_reducible apply Keeps.ite
    | split
    | with_reducible apply Keeps.set_modes

theorem State.holdReq_keeps {m : Nat} {s₀ : State} (s : State) (q : HeldReq) (h : Keeps m s₀ s) (hm : Sub 1048576 m) :
    Keeps m s₀ (State.holdReq s q) := by
  unfold State.holdReq
  repeat' first
    | with_reducible assumption
    | (with_reducible refine Sub.of hm ?_); decide
    | with_reducible apply Keeps.set_upd

theorem State.abandonAct_keeps {m : Nat} {s₀ : State} (s : State) (reason : Nat) (h : Keeps m s₀ s) (hm : Sub 9700407 m) :
    Keeps m s₀ (State.abandonAct s reason) := by
  unfold State.abandonAct
  repeat' first
    | with_reducible assumption
    | (with_reducible refine Sub.of hm ?_); decide
    | with_reducible apply State.updEnd_keeps
    | with_reducible apply State.nveActivated_keeps
    | with_reducible apply State.setF_keeps
    | with_reducible apply Keeps.ite
    | split
    | with_reducible apply Keeps.set_nve_upd
    | with_reducible apply Keeps.set_nve
    | with_reducible apply Keeps.set_upd

theorem State.reportInternalError_keeps {m : Nat} {s₀ : State} (s : State) (h : Keeps m s₀ s) (hm : Sub 8388640 m) :
    Keeps m s₀ (State.reportInternalError s) := by
  unfold State.reportInternalError
  repeat' first
    | intro _
    | with_reducible assumption
    | (with_reducible refine Sub.of hm ?_); decide
    | with_reducible apply State.aerEndpoint_keeps
    | with_reducible apply Keeps.foldl

theorem State.enterSafeHold_keeps {m : Nat} {s₀ : State} (s : State) (h : Keeps m s₀ s) (hm : Sub 11994687 m) :
    Keeps m s₀ (State.enterSafeHold s) := by
  unfold State.enterSafeHold
  repeat' first
    | with_reducible assumption
    | (with_reducible refine Sub.of hm ?_); decide
    | with_reducible apply State.abandonAct_keeps
    | with_reducible apply State.endMode_keeps
    | with_reducible apply State.setF_keeps
    | with_reducible apply State.showMode_keeps
    | with_reducible apply State.reportInternalError_keeps
    | with_reducible apply State.suspendUnits_keeps
    | with_reducible apply Keeps.ite
    | with_reducible apply Keeps.set_modes

theorem State.expireModeration_keeps {m : Nat} {s₀ : State} (s : State) (h : Keeps m s₀ s) (hm : Sub 8390195 m) :
    Keeps m s₀ (State.expireModeration s) := by
  unfold State.expireModeration
  repeat' first
    | intro _
    | with_reducible assumption
    | (with_reducible refine Sub.of hm ?_); decide
    | with_reducible apply State.maybeSignal_keeps
    | with_reducible apply Keeps.foldl
    | split
    | with_reducible apply Keeps.set_rings

theorem State.holdGates_keeps {m : Nat} {s₀ : State} (s : State) (h : Keeps m s₀ s) (hm : Sub 2051 m) :
    Keeps m s₀ (State.holdGates s) := by
  unfold State.holdGates
  repeat' first
    | intro _
    | with_reducible assumption
    | (with_reducible refine Sub.of hm ?_); decide
    | with_reducible apply State.showImp_keeps
    | with_reducible apply State.setPort_keeps
    | with_reducible apply Keeps.ite
    | with_reducible apply Keeps.foldl
    | split

theorem State.dataRelease_keeps {m : Nat} {s₀ : State} (s : State) (h : Keeps m s₀ s) (hm : Sub 8810047 m) :
    Keeps m s₀ (State.dataRelease s) := by
  unfold State.dataRelease
  repeat' first
    | intro _
    | with_reducible assumption
    | (with_reducible refine Sub.of hm ?_); decide
    | with_reducible apply State.setDHold_keeps
    | with_reducible apply State.showTransport_keeps
    | with_reducible apply State.expireModeration_keeps
    | with_reducible apply State.holdGates_keeps
    | with_reducible apply State.tblExec_keeps
    | with_reducible apply Keeps.ite
    | with_reducible apply Keeps.foldl
    | with_reducible apply Keeps.set_modes_tbl_tm_nve
    | with_reducible apply Keeps.set_modes
    | with_reducible apply Keeps.set_nve
    | with_reducible apply Keeps.set_tbl
    | with_reducible apply Keeps.set_tm

end Sys2Proof.Machine
end

