-- ==== Sys2Proof/Laws/KeepHardware.lean ====
section
/-! SUPPORT. What the operations of Machine/Hardware.lean can change: each keeps every part of the state that its number does not name,
and the standing properties of `Keeps`. -/

namespace Sys2Proof.Machine

theorem State.setHw_keeps {m : Nat} {s₀ : State} (s : State) (h1 : HwSt) (h : Keeps m s₀ s) (hm : Sub 4194304 m) :
    Keeps m s₀ (State.setHw s h1) := by
  unfold State.setHw
  repeat' first
    | with_reducible assumption
    | (with_reducible refine Sub.of hm ?_); decide
    | with_reducible apply Keeps.set_hw

theorem State.powerResult_keeps {m : Nat} {s₀ : State} (s : State) (o : PowerOp) (status : Nat) (h : Keeps m s₀ s) (hm : Sub 4194307 m) :
    Keeps m s₀ (State.powerResult s o status) := by
  unfold State.powerResult
  repeat' first
    | with_reducible assumption
    | (with_reducible refine Sub.of hm ?_); decide
    | with_reducible apply State.setHw_keeps
    | with_reducible apply State.setF_keeps
    | with_reducible apply Keeps.ite

theorem State.startPulse_keeps {m : Nat} {s₀ : State} (s : State) (o : PowerOp) (len : Nat) (h : Keeps m s₀ s) (hm : Sub 12582912 m) :
    Keeps m s₀ (State.startPulse s o len) := by
  unfold State.startPulse
  repeat' first
    | with_reducible assumption
    | (with_reducible refine Sub.of hm ?_); decide
    | with_reducible apply State.emit_keeps
    | with_reducible apply State.setHw_keeps

theorem State.pressOn_keeps {m : Nat} {s₀ : State} (s : State) (o : PowerOp) (h : Keeps m s₀ s) (hm : Sub 12582915 m) :
    Keeps m s₀ (State.pressOn s o) := by
  unfold State.pressOn
  repeat' first
    | with_reducible assumption
    | (with_reducible refine Sub.of hm ?_); decide
    | with_reducible apply State.powerResult_keeps
    | with_reducible apply State.startPulse_keeps
    | with_reducible apply Keeps.ite

theorem State.setAux_keeps {m : Nat} {s₀ : State} (s : State) (on : Bool) (h : Keeps m s₀ s) (hm : Sub 8388611 m) :
    Keeps m s₀ (State.setAux s on) := by
  unfold State.setAux
  repeat' first
    | with_reducible assumption
    | (with_reducible refine Sub.of hm ?_); decide
    | with_reducible apply State.emit_keeps
    | with_reducible apply State.setF_keeps
    | with_reducible apply Keeps.ite

theorem State.powerOn_keeps {m : Nat} {s₀ : State} (s : State) (o : PowerOp) (h : Keeps m s₀ s) (hm : Sub 12582915 m) :
    Keeps m s₀ (State.powerOn s o) := by
  unfold State.powerOn
  repeat' first
    | with_reducible assumption
    | (with_reducible refine Sub.of hm ?_); decide
    | with_reducible apply State.pressOn_keeps
    | with_reducible apply State.setAux_keeps
    | with_reducible apply State.setHw_keeps
    | with_reducible apply Keeps.ite

theorem State.startPower_keeps {m : Nat} {s₀ : State} (s : State) (op : Nat) (h : Keeps m s₀ s) (hm : Sub 12582915 m) :
    Keeps m s₀ (State.startPower s op) := by
  unfold State.startPower
  repeat' first
    | with_reducible assumption
    | (with_reducible refine Sub.of hm ?_); decide
    | with_reducible apply State.setHw_keeps
    | with_reducible apply State.setF_keeps
    | with_reducible apply State.powerOn_keeps
    | with_reducible apply State.startPulse_keeps
    | with_reducible apply State.powerResult_keeps
    | with_reducible apply State.setAux_keeps
    | with_reducible apply Keeps.ite

theorem State.hostCtl_keeps {m : Nat} {s₀ : State} (s : State) (init : Nat) (v : Nat) (h : Keeps m s₀ s) (hm : Sub 12583955 m) :
    Keeps m s₀ (State.hostCtl s init v) := by
  unfold State.hostCtl
  repeat' first
    | with_reducible assumption
    | (with_reducible refine Sub.of hm ?_); decide
    | with_reducible apply State.blockAccess_keeps
    | with_reducible apply State.storeReg_keeps
    | with_reducible apply State.startPower_keeps
    | with_reducible apply Keeps.ite

theorem State.mgtCount_keeps {m : Nat} {s₀ : State} (s : State) (k : Nat) (n : Nat) (h : Keeps m s₀ s) (hm : Sub 3 m) :
    Keeps m s₀ (State.mgtCount s k n) := by
  unfold State.mgtCount
  repeat' first
    | with_reducible assumption
    | (with_reducible refine Sub.of hm ?_); decide
    | with_reducible apply State.bump_keeps

theorem State.mgtWord_keeps {m : Nat} {s₀ : State} (s : State) (word : Fin 3) (h : Keeps m s₀ s) (hm : Sub 19 m) :
    Keeps m s₀ (State.mgtWord s word) := by
  unfold State.mgtWord
  repeat' first
    | with_reducible assumption
    | (with_reducible refine Sub.of hm ?_); decide
    | with_reducible apply State.raiseAs_keeps
    | with_reducible apply State.raise_keeps
    | with_reducible apply Keeps.ite

theorem State.mgtSendOne_keeps {m : Nat} {s₀ : State} (s : State) (word : Fin 3) (h : Keeps m s₀ s) (hm : Sub 8388631 m) :
    Keeps m s₀ (State.mgtSendOne s word) := by
  unfold State.mgtSendOne
  repeat' first
    | with_reducible assumption
    | (with_reducible refine Sub.of hm ?_); decide
    | with_reducible apply State.setF_keeps
    | with_reducible apply State.setByte_keeps
    | with_reducible apply State.mgtCount_keeps
    | with_reducible apply State.emit_keeps
    | with_reducible apply State.mgtWord_keeps
    | with_reducible apply Keeps.ite

theorem State.mgtSend_keeps {m : Nat} {s₀ : State} (s : State) (word : Fin 3) (h : Keeps m s₀ s) (hm : Sub 8388631 m) :
    Keeps m s₀ (State.mgtSend s word) := by
  unfold State.mgtSend
  repeat' first
    | intro _
    | with_reducible assumption
    | (with_reducible refine Sub.of hm ?_); decide
    | with_reducible apply State.setF_keeps
    | with_reducible apply State.mgtSendOne_keeps
    | with_reducible apply Keeps.ite
    | with_reducible apply Keeps.foldl

theorem execSmbusTransaction_keeps {m : Nat} {s₀ : State} (addr : BitVec 7) (write : Bool) (bytes : List Byte) (s : State) (h : Keeps m s₀ s) (hm : Sub 12582912 m) :
    KeepsR m s₀ (execSmbusTransaction addr write bytes s) := by
  unfold execSmbusTransaction
  repeat' first
    | with_reducible assumption
    | (with_reducible refine Sub.of hm ?_); decide
    | with_reducible apply State.emit_keeps
    | with_reducible apply State.setHw_keeps
    | with_reducible apply KeepsR.ite
    | with_reducible apply Keeps.ite
    | with_reducible apply KeepsR.next

theorem execHostForceOff_keeps {m : Nat} {s₀ : State} (init : Nat) (v : BitVec 32) (s : State) (h : Keeps m s₀ s) (hm : Sub 12583955 m) :
    KeepsR m s₀ (execHostForceOff init v s) := by
  unfold execHostForceOff
  repeat' first
    | with_reducible assumption
    | (with_reducible refine Sub.of hm ?_); decide
    | with_reducible apply State.hostCtl_keeps
    | with_reducible apply KeepsR.next

theorem State.showThermal_keeps {m : Nat} {s₀ : State} (s : State) (x : Thermal) (h : Keeps m s₀ s) (hm : Sub 3 m) :
    Keeps m s₀ (State.showThermal s x) := by
  unfold State.showThermal
  repeat' first
    | with_reducible assumption
    | (with_reducible refine Sub.of hm ?_); decide
    | with_reducible apply State.setF_keeps

theorem execThermalAlarm_keeps {m : Nat} {s₀ : State} (x : Thermal) (s : State) (h : Keeps m s₀ s) (hm : Sub 19 m) :
    KeepsR m s₀ (execThermalAlarm x s) := by
  unfold execThermalAlarm
  repeat' first
    | with_reducible assumption
    | (with_reducible refine Sub.of hm ?_); decide
    | with_reducible apply State.showThermal_keeps
    | with_reducible apply State.raise_keeps
    | with_reducible apply State.setF_keeps
    | with_reducible apply KeepsR.ite
    | with_reducible apply Keeps.ite
    | with_reducible apply KeepsR.next

theorem execHostAuxOff_keeps {m : Nat} {s₀ : State} (init : Nat) (v : BitVec 32) (s : State) (h : Keeps m s₀ s) (hm : Sub 12583955 m) :
    KeepsR m s₀ (execHostAuxOff init v s) := by
  unfold execHostAuxOff
  repeat' first
    | with_reducible assumption
    | (with_reducible refine Sub.of hm ?_); decide
    | with_reducible apply State.hostCtl_keeps
    | with_reducible apply KeepsR.next

theorem State.mgtEnabled_keeps {m : Nat} {s₀ : State} (s : State) (h : Keeps m s₀ s) (hm : Sub 3 m) :
    Keeps m s₀ (State.mgtEnabled s) := by
  unfold State.mgtEnabled
  repeat' first
    | with_reducible assumption
    | (with_reducible refine Sub.of hm ?_); decide
    | with_reducible apply State.setF_keeps
    | with_reducible apply Keeps.ite

theorem State.railsUp_keeps {m : Nat} {s₀ : State} (s : State) (cause : Option Nat) (h : Keeps m s₀ s) (hm : Sub 4194315 m) :
    Keeps m s₀ (State.railsUp s cause) := by
  unfold State.railsUp
  repeat' first
    | with_reducible assumption
    | (with_reducible refine Sub.of hm ?_); decide
    | with_reducible apply State.setReg_keeps
    | split
    | with_reducible apply Keeps.set_modes_hw
    | with_reducible apply Keeps.set_hw
    | with_reducible apply Keeps.set_modes

theorem execAcReturn_keeps {m : Nat} {s₀ : State} (s : State) (h : Keeps m s₀ s) (hm : Sub 4194315 m) :
    KeepsR m s₀ (execAcReturn s) := by
  unfold execAcReturn
  repeat' first
    | with_reducible assumption
    | (with_reducible refine Sub.of hm ?_); decide
    | with_reducible apply State.setF_keeps
    | with_reducible apply State.setHw_keeps
    | with_reducible apply State.draw_keeps
    | with_reducible apply State.railsUp_keeps
    | with_reducible apply KeepsR.ite
    | with_reducible apply Keeps.ite
    | with_reducible apply KeepsR.next
    | with_reducible apply Keeps.set_modes

theorem execThermalCritical_keeps {m : Nat} {s₀ : State} (x : Thermal) (s : State) (h : Keeps m s₀ s) (hm : Sub 19 m) :
    KeepsR m s₀ (execThermalCritical x s) := by
  unfold execThermalCritical
  repeat' first
    | with_reducible assumption
    | (with_reducible refine Sub.of hm ?_); decide
    | with_reducible apply State.showThermal_keeps
    | with_reducible apply State.raise_keeps
    | with_reducible apply KeepsR.ite
    | with_reducible apply Keeps.ite
    | with_reducible apply KeepsR.next

theorem State.applyPolicy_keeps {m : Nat} {s₀ : State} (s : State) (h : Keeps m s₀ s) (hm : Sub 12582915 m) :
    Keeps m s₀ (State.applyPolicy s) := by
  unfold State.applyPolicy
  repeat' first
    | with_reducible assumption
    | (with_reducible refine Sub.of hm ?_); decide
    | with_reducible apply State.setHw_keeps
    | with_reducible apply State.startPower_keeps
    | with_reducible apply State.setAux_keeps
    | with_reducible apply Keeps.ite

theorem State.policyAfter_keeps {m : Nat} {s₀ : State} (s : State) (h : Keeps m s₀ s) (hm : Sub 12582915 m) :
    Keeps m s₀ (State.policyAfter s) := by
  unfold State.policyAfter
  repeat' first
    | with_reducible assumption
    | (with_reducible refine Sub.of hm ?_); decide
    | with_reducible apply State.applyPolicy_keeps
    | with_reducible apply Keeps.ite

theorem State.powerReset_keeps {m : Nat} {s₀ : State} (s : State) (h : Keeps m s₀ s) (hm : Sub 8388607 m) :
    Keeps m s₀ (State.powerReset s) := by
  unfold State.powerReset
  repeat' first
    | with_reducible assumption
    | (with_reducible refine Sub.of hm ?_); decide
    | with_reducible apply State.islandReset_keeps
    | with_reducible apply State.keepLive_keeps
    | with_reducible apply State.resetRegs_keeps
    | with_reducible apply State.socReset_keeps

theorem execReserveExhausted_keeps {m : Nat} {s₀ : State} (s : State) (h : Keeps m s₀ s) (hm : Sub 8388607 m) :
    KeepsR m s₀ (execReserveExhausted s) := by
  unfold execReserveExhausted
  repeat' first
    | with_reducible assumption
    | (with_reducible refine Sub.of hm ?_); decide
    | with_reducible apply State.setF_keeps
    | with_reducible apply State.powerReset_keeps
    | with_reducible apply State.setHw_keeps
    | with_reducible apply KeepsR.ite
    | with_reducible apply Keeps.ite
    | with_reducible apply KeepsR.next

theorem execMgmtLinkChange_keeps {m : Nat} {s₀ : State} (up : Bool) (gigabit : Bool) (s : State) (h : Keeps m s₀ s) (hm : Sub 8388631 m) :
    KeepsR m s₀ (execMgmtLinkChange up gigabit s) := by
  unfold execMgmtLinkChange
  repeat' first
    | with_reducible assumption
    | (with_reducible refine Sub.of hm ?_); decide
    | with_reducible apply State.mgtSend_keeps
    | with_reducible apply State.setF_keeps
    | with_reducible apply KeepsR.ite
    | with_reducible apply Keeps.ite
    | with_reducible apply KeepsR.next

theorem execThermalAlarmClear_keeps {m : Nat} {s₀ : State} (x : Thermal) (s : State) (h : Keeps m s₀ s) (hm : Sub 3 m) :
    KeepsR m s₀ (execThermalAlarmClear x s) := by
  unfold execThermalAlarmClear
  repeat' first
    | with_reducible assumption
    | (with_reducible refine Sub.of hm ?_); decide
    | with_reducible apply State.showThermal_keeps
    | with_reducible apply State.setF_keeps
    | with_reducible apply KeepsR.ite
    | with_reducible apply Keeps.ite
    | with_reducible apply KeepsR.next

theorem State.abandonPower_keeps {m : Nat} {s₀ : State} (s : State) (h : Keeps m s₀ s) (hm : Sub 4194307 m) :
    Keeps m s₀ (State.abandonPower s) := by
  unfold State.abandonPower
  repeat' first
    | with_reducible assumption
    | (with_reducible refine Sub.of hm ?_); decide
    | with_reducible apply State.setHw_keeps
    | with_reducible apply State.powerResult_keeps
    | with_reducible apply Keeps.ite
    | split

theorem execAcFailClear_keeps {m : Nat} {s₀ : State} (s : State) (h : Keeps m s₀ s) (hm : Sub 4194315 m) :
    KeepsR m s₀ (execAcFailClear s) := by
  unfold execAcFailClear
  repeat' first
    | with_reducible assumption
    | (with_reducible refine Sub.of hm ?_); decide
    | with_reducible apply State.after_keeps
    | with_reducible apply State.setHw_keeps
    | with_reducible apply State.setF_keeps
    | with_reducible apply KeepsR.ite
    | with_reducible apply Keeps.ite
    | with_reducible apply KeepsR.next
    | split
    | with_reducible apply Keeps.set_modes

theorem State.railsDown_keeps {m : Nat} {s₀ : State} (s : State) (h : Keeps m s₀ s) (hm : Sub 8388543 m) :
    Keeps m s₀ (State.railsDown s) := by
  unfold State.railsDown
  repeat' first
    | with_reducible assumption
    | (with_reducible refine Sub.of hm ?_); decide
    | with_reducible apply State.socReset_keeps
    | with_reducible apply Keeps.set_modes_hw
    | with_reducible apply Keeps.set_hw
    | with_reducible apply Keeps.set_modes

theorem execAcRailsDown_keeps {m : Nat} {s₀ : State} (s : State) (h : Keeps m s₀ s) (hm : Sub 16777151 m) :
    KeepsR m s₀ (execAcRailsDown s) := by
  unfold execAcRailsDown
  repeat' first
    | with_reducible assumption
    | (with_reducible refine Sub.of hm ?_); decide
    | with_reducible apply State.after_keeps
    | with_reducible apply State.emit_keeps
    | with_reducible apply State.railsDown_keeps
    | with_reducible apply State.setAux_keeps
    | with_reducible apply State.setHw_keeps
    | with_reducible apply KeepsR.ite
    | with_reducible apply Keeps.ite
    | with_reducible apply KeepsR.next
    | split

theorem execHostPowerPolicyApply_keeps {m : Nat} {s₀ : State} (s : State) (h : Keeps m s₀ s) (hm : Sub 12582915 m) :
    KeepsR m s₀ (execHostPowerPolicyApply s) := by
  unfold execHostPowerPolicyApply
  repeat' first
    | with_reducible assumption
    | (with_reducible refine Sub.of hm ?_); decide
    | with_reducible apply State.after_keeps
    | with_reducible apply State.setHw_keeps
    | with_reducible apply State.applyPolicy_keeps
    | with_reducible apply KeepsR.ite
    | with_reducible apply Keeps.ite
    | with_reducible apply KeepsR.next
    | split

theorem execPsuFault_keeps {m : Nat} {s₀ : State} (s : State) (h : Keeps m s₀ s) (hm : Sub 19 m) :
    KeepsR m s₀ (execPsuFault s) := by
  unfold execPsuFault
  repeat' first
    | with_reducible assumption
    | (with_reducible refine Sub.of hm ?_); decide
    | with_reducible apply State.raise_keeps
    | with_reducible apply State.setF_keeps
    | with_reducible apply KeepsR.next

theorem State.forcedOff_keeps {m : Nat} {s₀ : State} (s : State) (o : PowerOp) (h : Keeps m s₀ s) (hm : Sub 12582915 m) :
    Keeps m s₀ (State.forcedOff s o) := by
  unfold State.forcedOff
  repeat' first
    | with_reducible assumption
    | (with_reducible refine Sub.of hm ?_); decide
    | with_reducible apply State.setAux_keeps
    | with_reducible apply State.setHw_keeps
    | with_reducible apply State.powerResult_keeps
    | with_reducible apply Keeps.ite

theorem State.pulseOver_keeps {m : Nat} {s₀ : State} (s : State) (o : PowerOp) (h : Keeps m s₀ s) (hm : Sub 12582915 m) :
    Keeps m s₀ (State.pulseOver s o) := by
  unfold State.pulseOver
  repeat' first
    | with_reducible assumption
    | (with_reducible refine Sub.of hm ?_); decide
    | with_reducible apply State.emit_keeps
    | with_reducible apply State.setHw_keeps
    | with_reducible apply State.powerResult_keeps
    | with_reducible apply State.setAux_keeps
    | with_reducible apply State.forcedOff_keeps
    | with_reducible apply Keeps.ite

theorem execAcFailMramWindowEnd_keeps {m : Nat} {s₀ : State} (s : State) (h : Keeps m s₀ s) (hm : Sub 8 m) :
    KeepsR m s₀ (execAcFailMramWindowEnd s) := by
  unfold execAcFailMramWindowEnd
  repeat' first
    | with_reducible assumption
    | (with_reducible refine Sub.of hm ?_); decide
    | with_reducible apply State.after_keeps
    | with_reducible apply KeepsR.next
    | split
    | with_reducible apply Keeps.set_modes

theorem execMgmtFrameReceive_keeps {m : Nat} {s₀ : State} (frame : List Byte) (word : Fin 3) (s : State) (h : Keeps m s₀ s) (hm : Sub 8388631 m) :
    KeepsR m s₀ (execMgmtFrameReceive frame word s) := by
  unfold execMgmtFrameReceive
  repeat' first
    | with_reducible assumption
    | (with_reducible refine Sub.of hm ?_); decide
    | with_reducible apply State.mgtCount_keeps
    | with_reducible apply State.mgtWord_keeps
    | with_reducible apply State.setBytes_keeps
    | with_reducible apply State.setF_keeps
    | with_reducible apply State.emit_keeps
    | with_reducible apply KeepsR.ite
    | with_reducible apply Keeps.ite
    | with_reducible apply KeepsR.next

theorem execAcFail_keeps {m : Nat} {s₀ : State} (s : State) (h : Keeps m s₀ s) (hm : Sub 4194315 m) :
    KeepsR m s₀ (execAcFail s) := by
  unfold execAcFail
  repeat' first
    | with_reducible assumption
    | (with_reducible refine Sub.of hm ?_); decide
    | with_reducible apply State.setF_keeps
    | with_reducible apply State.abandonPower_keeps
    | with_reducible apply State.setHw_keeps
    | with_reducible apply KeepsR.next
    | with_reducible apply Keeps.set_modes

theorem execHostPowerOpEnd_keeps {m : Nat} {s₀ : State} (s : State) (h : Keeps m s₀ s) (hm : Sub 12582915 m) :
    KeepsR m s₀ (execHostPowerOpEnd s) := by
  unfold execHostPowerOpEnd
  repeat' first
    | with_reducible assumption
    | (with_reducible refine Sub.of hm ?_); decide
    | with_reducible apply State.after_keeps
    | with_reducible apply State.policyAfter_keeps
    | with_reducible apply State.pulseOver_keeps
    | with_reducible apply State.pressOn_keeps
    | with_reducible apply State.powerOn_keeps
    | with_reducible apply State.powerResult_keeps
    | with_reducible apply State.forcedOff_keeps
    | with_reducible apply KeepsR.ite
    | with_reducible apply Keeps.ite
    | with_reducible apply KeepsR.next
    | split

theorem execReserveFull_keeps {m : Nat} {s₀ : State} (s : State) (h : Keeps m s₀ s) (hm : Sub 3 m) :
    KeepsR m s₀ (execReserveFull s) := by
  unfold execReserveFull
  repeat' first
    | with_reducible assumption
    | (with_reducible refine Sub.of hm ?_); decide
    | with_reducible apply State.setF_keeps
    | with_reducible apply KeepsR.ite
    | with_reducible apply Keeps.ite
    | with_reducible apply KeepsR.next

theorem execHostCycle_keeps {m : Nat} {s₀ : State} (init : Nat) (v : BitVec 32) (s : State) (h : Keeps m s₀ s) (hm : Sub 12583955 m) :
    KeepsR m s₀ (execHostCycle init v s) := by
  unfold execHostCycle
  repeat' first
    | with_reducible assumption
    | (with_reducible refine Sub.of hm ?_); decide
    | with_reducible apply State.hostCtl_keeps
    | with_reducible apply KeepsR.next

theorem execRedfishReset_keeps {m : Nat} {s₀ : State} (force : Bool) (s : State) (h : Keeps m s₀ s) (hm : Sub 16777151 m) :
    KeepsR m s₀ (execRedfishReset force s) := by
  unfold execRedfishReset
  repeat' first
    | with_reducible assumption
    | (with_reducible refine Sub.of hm ?_); decide
    | with_reducible apply State.beginReset_keeps
    | with_reducible apply KeepsR.ite
    | with_reducible apply Keeps.ite
    | with_reducible apply KeepsR.next

theorem execHostReset_keeps {m : Nat} {s₀ : State} (init : Nat) (v : BitVec 32) (s : State) (h : Keeps m s₀ s) (hm : Sub 12583955 m) :
    KeepsR m s₀ (execHostReset init v s) := by
  unfold execHostReset
  repeat' first
    | with_reducible assumption
    | (with_reducible refine Sub.of hm ?_); decide
    | with_reducible apply State.hostCtl_keeps
    | with_reducible apply KeepsR.next

theorem execMgmtTransmit_keeps {m : Nat} {s₀ : State} (init : Nat) (prod : BitVec 16) (word : Fin 3) (s : State) (h : Keeps m s₀ s) (hm : Sub 8389655 m) :
    KeepsR m s₀ (execMgmtTransmit init prod word s) := by
  unfold execMgmtTransmit
  repeat' first
    | with_reducible assumption
    | (with_reducible refine Sub.of hm ?_); decide
    | with_reducible apply State.blockAccess_keeps
    | with_reducible apply State.mgtSend_keeps
    | with_reducible apply State.setF_keeps
    | with_reducible apply KeepsR.ite
    | with_reducible apply Keeps.ite
    | with_reducible apply KeepsR.next

theorem execThermalRestart_keeps {m : Nat} {s₀ : State} (x : Thermal) (s : State) (h : Keeps m s₀ s) (hm : Sub 4194315 m) :
    KeepsR m s₀ (execThermalRestart x s) := by
  unfold execThermalRestart
  repeat' first
    | with_reducible assumption
    | (with_reducible refine Sub.of hm ?_); decide
    | with_reducible apply State.showThermal_keeps
    | with_reducible apply State.after_keeps
    | with_reducible apply State.railsUp_keeps
    | with_reducible apply State.setF_keeps
    | with_reducible apply State.setHw_keeps
    | with_reducible apply KeepsR.ite
    | with_reducible apply Keeps.ite
    | with_reducible apply KeepsR.next
    | split
    | dsimp only

theorem execHostWake_keeps {m : Nat} {s₀ : State} (s : State) (h : Keeps m s₀ s) (hm : Sub 12582915 m) :
    KeepsR m s₀ (execHostWake s) := by
  unfold execHostWake
  repeat' first
    | with_reducible assumption
    | (with_reducible refine Sub.of hm ?_); decide
    | with_reducible apply State.emit_keeps
    | with_reducible apply State.setF_keeps
    | with_reducible apply State.startPower_keeps
    | with_reducible apply KeepsR.ite
    | with_reducible apply Keeps.ite
    | with_reducible apply KeepsR.next

theorem execHostOff_keeps {m : Nat} {s₀ : State} (init : Nat) (v : BitVec 32) (s : State) (h : Keeps m s₀ s) (hm : Sub 12583955 m) :
    KeepsR m s₀ (execHostOff init v s) := by
  unfold execHostOff
  repeat' first
    | with_reducible assumption
    | (with_reducible refine Sub.of hm ?_); decide
    | with_reducible apply State.hostCtl_keeps
    | with_reducible apply KeepsR.next

theorem execHostOn_keeps {m : Nat} {s₀ : State} (init : Nat) (v : BitVec 32) (s : State) (h : Keeps m s₀ s) (hm : Sub 12583955 m) :
    KeepsR m s₀ (execHostOn init v s) := by
  unfold execHostOn
  repeat' first
    | with_reducible assumption
    | (with_reducible refine Sub.of hm ?_); decide
    | with_reducible apply State.hostCtl_keeps
    | with_reducible apply KeepsR.next

theorem execThermalTrip_keeps {m : Nat} {s₀ : State} (x : Thermal) (s : State) (h : Keeps m s₀ s) (hm : Sub 8388543 m) :
    KeepsR m s₀ (execThermalTrip x s) := by
  unfold execThermalTrip
  repeat' first
    | with_reducible assumption
    | (with_reducible refine Sub.of hm ?_); decide
    | with_reducible apply State.showThermal_keeps
    | with_reducible apply State.railsDown_keeps
    | with_reducible apply State.setHw_keeps
    | with_reducible apply KeepsR.ite
    | with_reducible apply Keeps.ite
    | with_reducible apply KeepsR.next

end Sys2Proof.Machine
end

