-- ==== Sys2Proof/Laws/KeepConfigSpace.lean ====
section
/-! SUPPORT. What the operations of Machine/ConfigSpace.lean can change: each keeps every part of the state that its number does not name,
and the standing properties of `Keeps`. -/

namespace Sys2Proof.Machine

theorem State.configWord_keeps {m : Nat} {s₀ : State} (s : State) (fn : Nat) (x : FnSt) (dword : Nat) (h : Keeps m s₀ s) :
    Keeps m s₀ (State.configWord s fn x dword).2 := by
  unfold State.configWord
  repeat' first
    | with_reducible assumption
    | with_reducible apply State.draw_keeps
    | with_reducible apply Keeps.ite
    | with_reducible apply Keeps.foldl

end Sys2Proof.Machine
end

