-- ==== Sys2Proof/Laws/KeepHif.lean ====
section
/-! SUPPORT. What the operations of Machine/Hif.lean can change: each keeps every part of the state that its number does not name,
and the standing properties of `Keeps`. -/

namespace Sys2Proof.Machine

theorem execReceivedTlpError_keeps {m : Nat} {s₀ : State} (e : Fin 4) (err : TlpError) (fn : Nat) (hdr : List Nat) (s : State) (h : Keeps m s₀ s) (hm : Sub 8388659 m) :
    KeepsR m s₀ (execReceivedTlpError e err fn hdr s) := by
  unfold execReceivedTlpError
  repeat' first
    | with_reducible assumption
    | (with_reducible refine Sub.of hm ?_); decide
    | with_reducible apply State.bump_keeps
    | with_reducible apply State.aerEndpoint_keeps
    | with_reducible apply State.raise_keeps
    | with_reducible apply State.aerUncorrectable_keeps
    | with_reducible apply KeepsR.ite
    | with_reducible apply Keeps.ite
    | with_reducible apply KeepsR.next
    | split

theorem execFlr_keeps {m : Nat} {s₀ : State} (fn : Nat) (s : State) (h : Keeps m s₀ s) (hm : Sub 8892215 m) :
    KeepsR m s₀ (execFlr fn s) := by
  unfold execFlr
  repeat' first
    | with_reducible assumption
    | (with_reducible refine Sub.of hm ?_); decide
    | with_reducible apply State.finishAbsorbed_keeps
    | with_reducible apply State.fnReset_keeps
    | with_reducible apply State.touchFn_keeps
    | with_reducible apply State.bump_keeps
    | with_reducible apply State.dropFns_keeps
    | with_reducible apply KeepsR.ite
    | with_reducible apply Keeps.ite
    | with_reducible apply KeepsR.next
    | split

theorem execInterruptUnmask_keeps {m : Nat} {s₀ : State} (fn : Nat) (vec : Nat) (slice : Option Nat) (s : State) (h : Keeps m s₀ s) (hm : Sub 8389683 m) :
    KeepsR m s₀ (execInterruptUnmask fn vec slice s) := by
  unfold execInterruptUnmask
  repeat' first
    | with_reducible assumption
    | (with_reducible refine Sub.of hm ?_); decide
    | with_reducible apply State.setSlice_keeps
    | with_reducible apply State.dmaCheck_keeps
    | with_reducible apply State.emit_keeps
    | with_reducible apply State.touchFn_keeps
    | with_reducible apply State.setFn_keeps
    | with_reducible apply KeepsR.ite
    | with_reducible apply Keeps.ite
    | with_reducible apply KeepsR.next
    | split

theorem execL0pWindow_keeps {m : Nat} {s₀ : State} (e : Fin 4) (util : Fin 101) (s : State) (h : Keeps m s₀ s) (hm : Sub 35 m) :
    KeepsR m s₀ (execL0pWindow e util s) := by
  unfold execL0pWindow
  repeat' first
    | with_reducible assumption
    | (with_reducible refine Sub.of hm ?_); decide
    | with_reducible apply State.after_keeps
    | with_reducible apply State.setEp_keeps
    | with_reducible apply State.bump_keeps
    | with_reducible apply State.setF_keeps
    | with_reducible apply KeepsR.ite
    | with_reducible apply Keeps.ite
    | with_reducible apply KeepsR.next

theorem execConfigurationRequest_keeps {m : Nat} {s₀ : State} (fn : Nat) (c : CfgChange) (s : State) (h : Keeps m s₀ s) (hm : Sub 8892343 m) :
    KeepsR m s₀ (execConfigurationRequest fn c s) := by
  unfold execConfigurationRequest
  repeat' first
    | intro _
    | with_reducible assumption
    | (with_reducible refine Sub.of hm ?_); decide
    | with_reducible apply State.touchFn_keeps
    | with_reducible apply State.emit_keeps
    | with_reducible apply State.configWord_keeps
    | with_reducible apply State.setFn_keeps
    | with_reducible apply State.setVfs_keeps
    | with_reducible apply State.setEp_keeps
    | with_reducible apply KeepsR.ite
    | with_reducible apply Keeps.ite
    | with_reducible apply KeepsR.next
    | with_reducible apply Keeps.foldl
    | split
    | with_reducible apply Keeps.set_hif
    | with_reducible apply Keeps.set_ptm

theorem execHotReset_keeps {m : Nat} {s₀ : State} (e : Fin 4) (s : State) (h : Keeps m s₀ s) (hm : Sub 8785847 m) :
    KeepsR m s₀ (execHotReset e s) := by
  unfold execHotReset
  repeat' first
    | with_reducible assumption
    | (with_reducible refine Sub.of hm ?_); decide
    | with_reducible apply State.enterHReset_keeps
    | with_reducible apply KeepsR.ite
    | with_reducible apply Keeps.ite
    | with_reducible apply KeepsR.next

theorem execLinkTrained_keeps {m : Nat} {s₀ : State} (e : Fin 4) (speed : Fin 7) (width : Fin 17) (flit : Bool) (drs : Bool) (s : State) (h : Keeps m s₀ s) (hm : Sub 8889911 m) :
    KeepsR m s₀ (execLinkTrained e speed width flit drs s) := by
  unfold execLinkTrained
  repeat' first
    | with_reducible assumption
    | (with_reducible refine Sub.of hm ?_); decide
    | with_reducible apply State.setEp_keeps
    | with_reducible apply State.takeIdentity_keeps
    | with_reducible apply State.setF_keeps
    | with_reducible apply State.assignCtrls_keeps
    | with_reducible apply State.finishAbsorbed_keeps
    | with_reducible apply KeepsR.ite
    | with_reducible apply Keeps.ite
    | with_reducible apply KeepsR.next

theorem execL1Entry_keeps {m : Nat} {s₀ : State} (e : Fin 4) (deep : Bool) (s : State) (h : Keeps m s₀ s) (hm : Sub 3 m) :
    KeepsR m s₀ (execL1Entry e deep s) := by
  unfold execL1Entry
  repeat' first
    | with_reducible assumption
    | (with_reducible refine Sub.of hm ?_); decide
    | with_reducible apply State.after_keeps
    | with_reducible apply State.bump_keeps
    | with_reducible apply State.setF_keeps
    | with_reducible apply KeepsR.ite
    | with_reducible apply Keeps.ite
    | with_reducible apply KeepsR.next

theorem execTranslationMismatch_keeps {m : Nat} {s₀ : State} (fn : Nat) (s : State) (h : Keeps m s₀ s) (hm : Sub 8388659 m) :
    KeepsR m s₀ (execTranslationMismatch fn s) := by
  unfold execTranslationMismatch
  repeat' first
    | with_reducible assumption
    | (with_reducible refine Sub.of hm ?_); decide
    | with_reducible apply State.setEp_keeps
    | with_reducible apply State.raise_keeps
    | with_reducible apply State.bump_keeps
    | with_reducible apply State.aerEndpoint_keeps
    | with_reducible apply KeepsR.ite
    | with_reducible apply Keeps.ite
    | with_reducible apply KeepsR.next
    | split

theorem execPerstAssert_keeps {m : Nat} {s₀ : State} (links : Fin 3) (s : State) (h : Keeps m s₀ s) (hm : Sub 8785847 m) :
    KeepsR m s₀ (execPerstAssert links s) := by
  unfold execPerstAssert
  repeat' first
    | with_reducible assumption
    | (with_reducible refine Sub.of hm ?_); decide
    | with_reducible apply State.enterLinkReset_keeps
    | with_reducible apply KeepsR.ite
    | with_reducible apply Keeps.ite
    | with_reducible apply KeepsR.next

end Sys2Proof.Machine
end

