-- ==== Sys2Proof/Laws/KeepHostPackets.lean ====
section
/-! SUPPORT. What the operations of Machine/HostPackets.lean can change: each keeps every part of the state that its number does not name,
and the standing properties of `Keeps`. -/

namespace Sys2Proof.Machine

theorem State.deliverRx_keeps {m : Nat} {s₀ : State} (s : State) (q : Nat) (id : Nat) (p : Pkt) (h : Keeps m s₀ s) (hm : Sub 8392247 m) :
    Keeps m s₀ (State.deliverRx s q id p) := by
  unfold State.deliverRx
  repeat' first
    | with_reducible assumption
    | (with_reducible refine Sub.of hm ?_); decide
    | with_reducible apply State.freePkt_keeps
    | with_reducible apply State.setRing_keeps
    | with_reducible apply State.dmaCheck_keeps
    | with_reducible apply State.completeEntry_keeps
    | with_reducible apply State.issueWrite_keeps
    | with_reducible apply Keeps.ite
    | split

theorem execHostRxDelivery_keeps {m : Nat} {s₀ : State} (link : Fin 2) (s : State) (h : Keeps m s₀ s) (hm : Sub 8392247 m) :
    KeepsR m s₀ (execHostRxDelivery link s) := by
  unfold execHostRxDelivery
  repeat' first
    | with_reducible assumption
    | (with_reducible refine Sub.of hm ?_); decide
    | with_reducible apply State.popLst_keeps
    | with_reducible apply State.freePkt_keeps
    | with_reducible apply State.emit_keeps
    | with_reducible apply State.bump_keeps
    | with_reducible apply State.deliverRx_keeps
    | with_reducible apply KeepsR.ite
    | with_reducible apply Keeps.ite
    | with_reducible apply KeepsR.next
    | split
    | dsimp only

theorem execTxEntry_keeps {m : Nat} {s₀ : State} (num : Nat) (idx : Nat) (frame : List Byte) (s : State) (h : Keeps m s₀ s) (hm : Sub 8392247 m) :
    KeepsR m s₀ (execTxEntry num idx frame s) := by
  unfold execTxEntry
  repeat' first
    | with_reducible assumption
    | (with_reducible refine Sub.of hm ?_); decide
    | with_reducible apply State.dmaCheck_keeps
    | with_reducible apply State.completeEntry_keeps
    | with_reducible apply State.issueRead_keeps
    | with_reducible apply State.newPkt_keeps
    | with_reducible apply State.pushLst_keeps
    | with_reducible apply KeepsR.ite
    | with_reducible apply Keeps.ite
    | with_reducible apply KeepsR.next
    | split

end Sys2Proof.Machine
end

