-- ==== Sys2Proof/Laws/KeepDrt.lean ====
section
/-! SUPPORT. What the operations of Machine/Drt.lean can change: each keeps every part of the state that its number does not name,
and the standing properties of `Keeps`. -/

namespace Sys2Proof.Machine

theorem execMessageDeadline_keeps {m : Nat} {s₀ : State} (r : Fin 65536) (s : State) (h : Keeps m s₀ s) (hm : Sub 8783415 m) :
    KeepsR m s₀ (execMessageDeadline r s) := by
  unfold execMessageDeadline
  repeat' first
    | with_reducible assumption
    | (with_reducible refine Sub.of hm ?_); decide
    | with_reducible apply State.endOut_keeps
    | with_reducible apply State.afterNs_keeps
    | with_reducible apply KeepsR.ite
    | with_reducible apply Keeps.ite
    | with_reducible apply KeepsR.next
    | split

theorem State.payTokens_keeps {m : Nat} {s₀ : State} (s : State) (d : Nat) (len : Nat) (h : Keeps m s₀ s) (hm : Sub 131072 m) :
    Keeps m s₀ (State.payTokens s d len) := by
  unfold State.payTokens
  repeat' first
    | with_reducible assumption
    | (with_reducible refine Sub.of hm ?_); decide
    | with_reducible apply State.setCong_keeps

theorem State.drtEmit_keeps {m : Nat} {s₀ : State} (s : State) (h1 : DrtHdr) (via : DrtVia) (dscp : Option Nat) (deadline : Option Nat) (payload : List Byte) (h : Keeps m s₀ s) (hm : Sub 8523319 m) :
    Keeps m s₀ (State.drtEmit s h1 via dscp deadline payload) := by
  unfold State.drtEmit
  repeat' first
    | with_reducible assumption
    | (with_reducible refine Sub.of hm ?_); decide
    | with_reducible apply State.payTokens_keeps
    | with_reducible apply State.nextPktSeq_keeps
    | with_reducible apply State.draw_keeps
    | with_reducible apply State.drawBytes_keeps
    | with_reducible apply State.newPkt_keeps
    | with_reducible apply State.drtCount_keeps
    | with_reducible apply State.pushLst_keeps
    | with_reducible apply Keeps.ite

theorem State.sendAck_keeps {m : Nat} {s₀ : State} (s : State) (k : Nat) (x : InRec) (h : Keeps m s₀ s) (hm : Sub 131072 m) :
    Keeps m s₀ (State.sendAck s k x) := by
  unfold State.sendAck
  repeat' first
    | with_reducible assumption
    | (with_reducible refine Sub.of hm ?_); decide
    | with_reducible apply State.drtPush_keeps
    | with_reducible apply Keeps.ite
    | with_reducible apply Keeps.set_drt

theorem State.fillIn_keeps {m : Nat} {s₀ : State} (s : State) (k : Nat) (x : InRec) (h : Keeps m s₀ s) (hm : Sub 8521271 m) :
    Keeps m s₀ (State.fillIn s k x) := by
  unfold State.fillIn
  repeat' first
    | with_reducible assumption
    | (with_reducible refine Sub.of hm ?_); decide
    | with_reducible apply State.sendAck_keeps
    | with_reducible apply State.drtEvent_keeps
    | with_reducible apply State.finishIn_keeps
    | with_reducible apply Keeps.ite
    | with_reducible apply Keeps.set_drt

theorem State.placeData_keeps {m : Nat} {s₀ : State} (s : State) (k : Nat) (x0 : InRec) (h1 : DrtHdr) (via : DrtVia) (pay : List Byte) (e : DrtEp) (h : Keeps m s₀ s) (hm : Sub 8521271 m) :
    Keeps m s₀ (State.placeData s k x0 h1 via pay e) := by
  unfold State.placeData
  repeat' first
    | with_reducible assumption
    | (with_reducible refine Sub.of hm ?_); decide
    | with_reducible apply State.failIn_keeps
    | with_reducible apply State.dmaCheck_keeps
    | with_reducible apply State.issueWrite_keeps
    | with_reducible apply State.showDrt_keeps
    | with_reducible apply State.drtCount_keeps
    | with_reducible apply State.fillIn_keeps
    | with_reducible apply State.sendAck_keeps
    | with_reducible apply Keeps.ite
    | with_reducible apply Keeps.ite1
    | with_reducible apply Keeps.ite2
    | with_reducible apply Keeps.set_drt

theorem State.drtArrive_keeps {m : Nat} {s₀ : State} (s : State) (kind : Nat) (frame : List Byte) (trunc : Bool) (f : State → DrtRx → State) (h : Keeps m s₀ s) (hf : ∀ x0 x1, Keeps m s₀ x0 → Keeps m s₀ (f x0 x1)) (hm : Sub 3 m) :
    KeepsR m s₀ (State.drtArrive s kind frame trunc f) := by
  unfold State.drtArrive
  repeat' first
    | with_reducible assumption
    | (with_reducible refine Sub.of hm ?_); decide
    | with_reducible apply hf
    | with_reducible apply State.drtCount_keeps
    | with_reducible apply KeepsR.ite
    | with_reducible apply Keeps.ite
    | with_reducible apply KeepsR.next
    | split

theorem State.authFail_keeps {m : Nat} {s₀ : State} (s : State) (h1 : DrtHdr) (h : Keeps m s₀ s) (hm : Sub 8521271 m) :
    Keeps m s₀ (State.authFail s h1) := by
  unfold State.authFail
  repeat' first
    | with_reducible assumption
    | (with_reducible refine Sub.of hm ?_); decide
    | with_reducible apply State.drtCount_keeps
    | with_reducible apply State.postEvent_keeps
    | with_reducible apply Keeps.ite
    | with_reducible apply Keeps.set_drt

theorem State.answered_keeps {m : Nat} {s₀ : State} (s : State) (x : DrtRx) (f : State → OutRec → List Byte → State) (h : Keeps m s₀ s) (hf : ∀ x0 x1 x2, Keeps m s₀ x0 → Keeps m s₀ (f x0 x1 x2)) (hm : Sub 8521271 m) :
    Keeps m s₀ (State.answered s x f) := by
  unfold State.answered
  repeat' first
    | with_reducible assumption
    | (with_reducible refine Sub.of hm ?_); decide
    | with_reducible apply hf
    | with_reducible apply State.drtCount_keeps
    | with_reducible apply State.authFail_keeps
    | with_reducible apply Keeps.ite
    | split

theorem State.setOut_keeps {m : Nat} {s₀ : State} (s : State) (r : Nat) (x : OutRec) (progress : Bool) (h : Keeps m s₀ s) (hm : Sub 131072 m) :
    Keeps m s₀ (State.setOut s r x progress) := by
  unfold State.setOut
  repeat' first
    | with_reducible assumption
    | (with_reducible refine Sub.of hm ?_); decide
    | with_reducible apply Keeps.ite
    | with_reducible apply Keeps.set_drt

theorem execReadRespReceive_keeps {m : Nat} {s₀ : State} (frame : List Byte) (trunc : Bool) (s : State) (h : Keeps m s₀ s) (hm : Sub 8783415 m) :
    KeepsR m s₀ (execReadRespReceive frame trunc s) := by
  unfold execReadRespReceive
  repeat' first
    | intro _
    | with_reducible assumption
    | (with_reducible refine Sub.of hm ?_); decide
    | with_reducible apply State.drtArrive_keeps
    | with_reducible apply State.answered_keeps
    | with_reducible apply State.dmaCheck_keeps
    | with_reducible apply State.endOut_keeps
    | with_reducible apply State.issueWrite_keeps
    | with_reducible apply State.setOut_keeps
    | with_reducible apply KeepsR.ite
    | with_reducible apply Keeps.ite
    | with_reducible apply Keeps.ite1
    | with_reducible apply Keeps.ite2
    | with_reducible apply KeepsR.next
    | with_reducible apply Keeps.set_nve

theorem State.startMessage_keeps {m : Nat} {s₀ : State} (s : State) (x : OutRec) (r : Nat) (h : Keeps m s₀ s) (hm : Sub 8521271 m) :
    Keeps m s₀ (State.startMessage s x r) := by
  unfold State.startMessage
  repeat' first
    | with_reducible assumption
    | (with_reducible refine Sub.of hm ?_); decide
    | with_reducible apply State.nextMsgSeq_keeps
    | with_reducible apply State.showDrt_keeps
    | with_reducible apply State.drtPush_keeps
    | with_reducible apply Keeps.set_drt

theorem execNotBeforeRelease_keeps {m : Nat} {s₀ : State} (src : BitVec 24) (msgSeq : BitVec 48) (s : State) (h : Keeps m s₀ s) (hm : Sub 8521271 m) :
    KeepsR m s₀ (execNotBeforeRelease src msgSeq s) := by
  unfold execNotBeforeRelease
  repeat' first
    | with_reducible assumption
    | (with_reducible refine Sub.of hm ?_); decide
    | with_reducible apply State.finishIn_keeps
    | with_reducible apply KeepsR.ite
    | with_reducible apply Keeps.ite
    | with_reducible apply KeepsR.next
    | split
    | dsimp only

theorem State.dropReplies_keeps {m : Nat} {s₀ : State} (s : State) (h : Keeps m s₀ s) (hm : Sub 131072 m) :
    Keeps m s₀ (State.dropReplies s) := by
  unfold State.dropReplies
  repeat' first
    | with_reducible assumption
    | (with_reducible refine Sub.of hm ?_); decide
    | with_reducible apply Keeps.set_drt

theorem execTransportDisable_keeps {m : Nat} {s₀ : State} (init : Nat) (s : State) (h : Keeps m s₀ s) (hm : Sub 8783415 m) :
    KeepsR m s₀ (execTransportDisable init s) := by
  unfold execTransportDisable
  repeat' first
    | with_reducible assumption
    | (with_reducible refine Sub.of hm ?_); decide
    | with_reducible apply State.blockAccess_keeps
    | with_reducible apply State.showTransport_keeps
    | with_reducible apply State.dropReplies_keeps
    | with_reducible apply State.squashEps_keeps
    | with_reducible apply State.setF_keeps
    | with_reducible apply KeepsR.ite
    | with_reducible apply Keeps.ite
    | with_reducible apply KeepsR.next

theorem State.drtTake_keeps {m : Nat} {s₀ : State} (s : State) (o : Origin) (op : Nat) (h : Keeps m s₀ s) (hm : Sub 8389651 m) :
    Keeps m s₀ (State.drtTake s o op).1 := by
  unfold State.drtTake
  repeat' first
    | with_reducible assumption
    | (with_reducible refine Sub.of hm ?_); decide
    | with_reducible apply State.blockAccess_keeps
    | with_reducible apply State.setF_keeps
    | with_reducible apply Keeps.ite
    | split
    | dsimp only

theorem State.drtEnd_keeps {m : Nat} {s₀ : State} (s : State) (o : Origin) (status : Nat) (body : List Byte) (h : Keeps m s₀ s) (hm : Sub 8390199 m) :
    Keeps m s₀ (State.drtEnd s o status body) := by
  unfold State.drtEnd
  repeat' first
    | with_reducible assumption
    | (with_reducible refine Sub.of hm ?_); decide
    | with_reducible apply State.setF_keeps
    | with_reducible apply State.complete_keeps
    | split

theorem State.drtCommand_keeps {m : Nat} {s₀ : State} (s : State) (o : Origin) (op : Nat) (f : State → DrtArgs → State) (h : Keeps m s₀ s) (hf : ∀ x0 x1, Keeps m s₀ x0 → Keeps m s₀ (f x0 x1)) (hm : Sub 8390199 m) :
    KeepsR m s₀ (State.drtCommand s o op f) := by
  unfold State.drtCommand
  repeat' first
    | with_reducible assumption
    | (with_reducible refine Sub.of hm ?_); decide
    | with_reducible apply hf
    | with_reducible apply State.drtTake_keeps
    | with_reducible apply State.drtEnd_keeps
    | with_reducible apply KeepsR.ite
    | with_reducible apply Keeps.ite
    | with_reducible apply KeepsR.next
    | split
    | with_reducible apply Keeps.of1 ‹_›

theorem execEpCreate_keeps {m : Nat} {s₀ : State} (o : Origin) (s : State) (h : Keeps m s₀ s) (hm : Sub 8521271 m) :
    KeepsR m s₀ (execEpCreate o s) := by
  unfold execEpCreate
  repeat' first
    | intro _
    | with_reducible assumption
    | (with_reducible refine Sub.of hm ?_); decide
    | with_reducible apply State.drtCommand_keeps
    | with_reducible apply State.drtEnd_keeps
    | with_reducible apply KeepsR.ite
    | with_reducible apply Keeps.ite
    | with_reducible apply KeepsR.next
    | with_reducible apply Keeps.set_drt

theorem execEpDestroy_keeps {m : Nat} {s₀ : State} (o : Origin) (s : State) (h : Keeps m s₀ s) (hm : Sub 8783415 m) :
    KeepsR m s₀ (execEpDestroy o s) := by
  unfold execEpDestroy
  repeat' first
    | intro _
    | with_reducible assumption
    | (with_reducible refine Sub.of hm ?_); decide
    | with_reducible apply State.drtCommand_keeps
    | with_reducible apply State.drtEnd_keeps
    | with_reducible apply State.squashEps_keeps
    | with_reducible apply KeepsR.ite
    | with_reducible apply Keeps.ite
    | with_reducible apply KeepsR.next
    | with_reducible apply Keeps.set_drt

theorem execRegionReg_keeps {m : Nat} {s₀ : State} (o : Origin) (s : State) (h : Keeps m s₀ s) (hm : Sub 8521271 m) :
    KeepsR m s₀ (execRegionReg o s) := by
  unfold execRegionReg
  repeat' first
    | intro _
    | with_reducible assumption
    | (with_reducible refine Sub.of hm ?_); decide
    | with_reducible apply State.drtCommand_keeps
    | with_reducible apply State.drtEnd_keeps
    | with_reducible apply State.setDrt_keeps
    | with_reducible apply State.setF_keeps
    | with_reducible apply KeepsR.ite
    | with_reducible apply Keeps.ite
    | with_reducible apply KeepsR.next
    | split

theorem execRegionRevoke_keeps {m : Nat} {s₀ : State} (o : Origin) (s : State) (h : Keeps m s₀ s) (hm : Sub 8521271 m) :
    KeepsR m s₀ (execRegionRevoke o s) := by
  unfold execRegionRevoke
  repeat' first
    | intro _
    | with_reducible assumption
    | (with_reducible refine Sub.of hm ?_); decide
    | with_reducible apply State.drtCommand_keeps
    | with_reducible apply State.drtEnd_keeps
    | with_reducible apply State.revokeRegion_keeps
    | with_reducible apply KeepsR.ite
    | with_reducible apply Keeps.ite
    | with_reducible apply KeepsR.next
    | split

theorem execRegionRead_keeps {m : Nat} {s₀ : State} (o : Origin) (s : State) (h : Keeps m s₀ s) (hm : Sub 8390199 m) :
    KeepsR m s₀ (execRegionRead o s) := by
  unfold execRegionRead
  repeat' first
    | intro _
    | with_reducible assumption
    | (with_reducible refine Sub.of hm ?_); decide
    | with_reducible apply State.drtCommand_keeps
    | with_reducible apply State.drtEnd_keeps
    | with_reducible apply State.setReg_keeps
    | with_reducible apply KeepsR.ite
    | with_reducible apply Keeps.ite
    | with_reducible apply KeepsR.next
    | split

theorem State.setDomain_keeps {m : Nat} {s₀ : State} (s : State) (d : Nat) (x : DrtDomain) (h : Keeps m s₀ s) (hm : Sub 131072 m) :
    Keeps m s₀ (State.setDomain s d x) := by
  unfold State.setDomain
  repeat' first
    | with_reducible assumption
    | (with_reducible refine Sub.of hm ?_); decide
    | with_reducible apply Keeps.set_drt

theorem execDomainSet_keeps {m : Nat} {s₀ : State} (o : Origin) (s : State) (h : Keeps m s₀ s) (hm : Sub 8521271 m) :
    KeepsR m s₀ (execDomainSet o s) := by
  unfold execDomainSet
  repeat' first
    | intro _
    | with_reducible assumption
    | (with_reducible refine Sub.of hm ?_); decide
    | with_reducible apply State.drtCommand_keeps
    | with_reducible apply State.drtEnd_keeps
    | with_reducible apply State.setDomain_keeps
    | with_reducible apply KeepsR.ite
    | with_reducible apply Keeps.ite
    | with_reducible apply KeepsR.next

theorem execDomainNext_keeps {m : Nat} {s₀ : State} (o : Origin) (s : State) (h : Keeps m s₀ s) (hm : Sub 8521271 m) :
    KeepsR m s₀ (execDomainNext o s) := by
  unfold execDomainNext
  repeat' first
    | intro _
    | with_reducible assumption
    | (with_reducible refine Sub.of hm ?_); decide
    | with_reducible apply State.drtCommand_keeps
    | with_reducible apply State.drtEnd_keeps
    | with_reducible apply State.setDomain_keeps
    | with_reducible apply KeepsR.ite
    | with_reducible apply Keeps.ite
    | with_reducible apply KeepsR.next

theorem execDomainPromote_keeps {m : Nat} {s₀ : State} (o : Origin) (s : State) (h : Keeps m s₀ s) (hm : Sub 8521271 m) :
    KeepsR m s₀ (execDomainPromote o s) := by
  unfold execDomainPromote
  repeat' first
    | intro _
    | with_reducible assumption
    | (with_reducible refine Sub.of hm ?_); decide
    | with_reducible apply State.drtCommand_keeps
    | with_reducible apply State.drtEnd_keeps
    | with_reducible apply State.setDomain_keeps
    | with_reducible apply State.drtTellAll_keeps
    | with_reducible apply KeepsR.ite
    | with_reducible apply Keeps.ite
    | with_reducible apply KeepsR.next

theorem execDomainDropPrev_keeps {m : Nat} {s₀ : State} (o : Origin) (s : State) (h : Keeps m s₀ s) (hm : Sub 8521271 m) :
    KeepsR m s₀ (execDomainDropPrev o s) := by
  unfold execDomainDropPrev
  repeat' first
    | intro _
    | with_reducible assumption
    | (with_reducible refine Sub.of hm ?_); decide
    | with_reducible apply State.drtCommand_keeps
    | with_reducible apply State.drtEnd_keeps
    | with_reducible apply State.setDomain_keeps
    | with_reducible apply KeepsR.next

theorem State.tombReply_keeps {m : Nat} {s₀ : State} (s : State) (h1 : DrtHdr) (via : DrtVia) (t : DrtTomb) (h : Keeps m s₀ s) (hm : Sub 131072 m) :
    Keeps m s₀ (State.tombReply s h1 via t) := by
  unfold State.tombReply
  repeat' first
    | with_reducible assumption
    | (with_reducible refine Sub.of hm ?_); decide
    | with_reducible apply State.draw_keeps
    | with_reducible apply State.drtPush_keeps
    | with_reducible apply State.sendError_keeps
    | with_reducible apply Keeps.ite

theorem State.noteSent_keeps {m : Nat} {s₀ : State} (s : State) (r : Nat) (round : Nat) (h : Keeps m s₀ s) (hm : Sub 131075 m) :
    Keeps m s₀ (State.noteSent s r round) := by
  unfold State.noteSent
  repeat' first
    | with_reducible assumption
    | (with_reducible refine Sub.of hm ?_); decide
    | with_reducible apply State.drtCount_keeps
    | with_reducible apply Keeps.ite
    | split
    | with_reducible apply Keeps.set_drt

theorem State.sendData_keeps {m : Nat} {s₀ : State} (s : State) (r : Nat) (psn : Nat) (round : Nat) (x : OutRec) (given : List Byte) (h : Keeps m s₀ s) (hm : Sub 8785463 m) :
    Keeps m s₀ (State.sendData s r psn round x given) := by
  unfold State.sendData
  repeat' first
    | with_reducible assumption
    | (with_reducible refine Sub.of hm ?_); decide
    | with_reducible apply State.dmaCheck_keeps
    | with_reducible apply State.endOut_keeps
    | with_reducible apply State.issueRead_keeps
    | with_reducible apply State.noteSent_keeps
    | with_reducible apply State.drtEmit_keeps
    | with_reducible apply Keeps.ite
    | with_reducible apply Keeps.ite1
    | with_reducible apply Keeps.ite2

theorem State.matchData_keeps {m : Nat} {s₀ : State} (s : State) (h1 : DrtHdr) (via : DrtVia) (pay : List Byte) (e : DrtEp) (h : Keeps m s₀ s) (hm : Sub 8521271 m) :
    Keeps m s₀ (State.matchData s h1 via pay e) := by
  unfold State.matchData
  repeat' first
    | with_reducible assumption
    | (with_reducible refine Sub.of hm ?_); decide
    | with_reducible apply State.tombReply_keeps
    | with_reducible apply State.sendAck_keeps
    | with_reducible apply State.placeData_keeps
    | with_reducible apply State.failIn_keeps
    | with_reducible apply State.drtCount_keeps
    | with_reducible apply Keeps.ite
    | with_reducible apply Keeps.foldl
    | split
    | dsimp only

theorem execRetransmitTimeout_keeps {m : Nat} {s₀ : State} (r : Fin 65536) (s : State) (h : Keeps m s₀ s) (hm : Sub 8783415 m) :
    KeepsR m s₀ (execRetransmitTimeout r s) := by
  unfold execRetransmitTimeout
  repeat' first
    | with_reducible assumption
    | (with_reducible refine Sub.of hm ?_); decide
    | with_reducible apply State.congTimeout_keeps
    | with_reducible apply State.after_keeps
    | with_reducible apply State.endOut_keeps
    | with_reducible apply State.drtUnqueue_keeps
    | with_reducible apply State.drtPush_keeps
    | with_reducible apply KeepsR.ite
    | with_reducible apply Keeps.ite
    | with_reducible apply KeepsR.next
    | split
    | with_reducible apply Keeps.set_drt

theorem State.admitPacket_keeps {m : Nat} {s₀ : State} (s : State) (x : DrtRx) (f : State → DrtVia → List Byte → DrtEp → State) (h : Keeps m s₀ s) (hf : ∀ x0 x1 x2 x3, Keeps m s₀ x0 → Keeps m s₀ (f x0 x1 x2 x3)) (hm : Sub 8586807 m) :
    Keeps m s₀ (State.admitPacket s x f) := by
  unfold State.admitPacket
  repeat' first
    | with_reducible assumption
    | (with_reducible refine Sub.of hm ?_); decide
    | with_reducible apply hf
    | with_reducible apply State.drtCount_keeps
    | with_reducible apply State.derivePair_keeps
    | with_reducible apply State.authFail_keeps
    | with_reducible apply State.sendError_keeps
    | with_reducible apply Keeps.ite
    | split
    | with_reducible apply Keeps.of1 ‹_›
    | dsimp only

theorem execReadReqReceive_keeps {m : Nat} {s₀ : State} (frame : List Byte) (trunc : Bool) (s : State) (h : Keeps m s₀ s) (hm : Sub 8586807 m) :
    KeepsR m s₀ (execReadReqReceive frame trunc s) := by
  unfold execReadReqReceive
  repeat' first
    | intro _
    | with_reducible assumption
    | (with_reducible refine Sub.of hm ?_); decide
    | with_reducible apply State.drtArrive_keeps
    | with_reducible apply State.admitPacket_keeps
    | with_reducible apply State.drtEvent_keeps
    | with_reducible apply State.drtCount_keeps
    | with_reducible apply State.sendError_keeps
    | with_reducible apply State.drtPush_keeps
    | with_reducible apply KeepsR.ite
    | with_reducible apply Keeps.ite
    | with_reducible apply KeepsR.next

theorem execAckTimer_keeps {m : Nat} {s₀ : State} (src : BitVec 24) (msgSeq : BitVec 48) (s : State) (h : Keeps m s₀ s) (hm : Sub 131072 m) :
    KeepsR m s₀ (execAckTimer src msgSeq s) := by
  unfold execAckTimer
  repeat' first
    | with_reducible assumption
    | (with_reducible refine Sub.of hm ?_); decide
    | with_reducible apply State.sendAck_keeps
    | with_reducible apply State.after_keeps
    | with_reducible apply KeepsR.ite
    | with_reducible apply Keeps.ite
    | with_reducible apply KeepsR.next
    | split
    | dsimp only

theorem State.workEntry_keeps {m : Nat} {s₀ : State} (s : State) (op : Nat) (num : Nat) (idx : Nat) (dest : List Byte) (h : Keeps m s₀ s) (hm : Sub 8586807 m) :
    Keeps m s₀ (State.workEntry s op num idx dest) := by
  unfold State.workEntry
  repeat' first
    | with_reducible assumption
    | (with_reducible refine Sub.of hm ?_); decide
    | with_reducible apply State.completeEntry_keeps
    | with_reducible apply State.dmaCheck_keeps
    | with_reducible apply State.issueRead_keeps
    | with_reducible apply State.derivePair_keeps
    | with_reducible apply State.startMessage_keeps
    | with_reducible apply Keeps.ite
    | split
    | with_reducible apply Keeps.of1 ‹_›
    | dsimp only

theorem execSettleEnd_keeps {m : Nat} {s₀ : State} (s : State) (h : Keeps m s₀ s) (hm : Sub 3 m) :
    KeepsR m s₀ (execSettleEnd s) := by
  unfold execSettleEnd
  repeat' first
    | with_reducible assumption
    | (with_reducible refine Sub.of hm ?_); decide
    | with_reducible apply State.setF_keeps
    | with_reducible apply KeepsR.ite
    | with_reducible apply Keeps.ite
    | with_reducible apply KeepsR.next

theorem execErrorReceive_keeps {m : Nat} {s₀ : State} (frame : List Byte) (trunc : Bool) (s : State) (h : Keeps m s₀ s) (hm : Sub 8783415 m) :
    KeepsR m s₀ (execErrorReceive frame trunc s) := by
  unfold execErrorReceive
  repeat' first
    | intro _
    | with_reducible assumption
    | (with_reducible refine Sub.of hm ?_); decide
    | with_reducible apply State.drtArrive_keeps
    | with_reducible apply State.answered_keeps
    | with_reducible apply State.endOut_keeps
    | with_reducible apply KeepsR.next

theorem State.paced_keeps {m : Nat} {s₀ : State} (s : State) (d : Nat) (h : Keeps m s₀ s) :
    Keeps m s₀ (State.paced s d) := by
  unfold State.paced
  repeat' first
    | with_reducible assumption
    | with_reducible apply State.after_keeps
    | with_reducible apply Keeps.ite

theorem execDrtWrite_keeps {m : Nat} {s₀ : State} (num : Nat) (idx : Nat) (dest : List Byte) (s : State) (h : Keeps m s₀ s) (hm : Sub 8586807 m) :
    KeepsR m s₀ (execDrtWrite num idx dest s) := by
  unfold execDrtWrite
  repeat' first
    | with_reducible assumption
    | (with_reducible refine Sub.of hm ?_); decide
    | with_reducible apply State.workEntry_keeps
    | with_reducible apply KeepsR.next

theorem execTombstoneFree_keeps {m : Nat} {s₀ : State} (src : BitVec 24) (msgSeq : BitVec 48) (s : State) (h : Keeps m s₀ s) (hm : Sub 131075 m) :
    KeepsR m s₀ (execTombstoneFree src msgSeq s) := by
  unfold execTombstoneFree
  repeat' first
    | with_reducible assumption
    | (with_reducible refine Sub.of hm ?_); decide
    | with_reducible apply State.showDrt_keeps
    | with_reducible apply State.bury_keeps
    | with_reducible apply KeepsR.ite
    | with_reducible apply Keeps.ite
    | with_reducible apply KeepsR.next
    | split
    | with_reducible apply Keeps.set_drt
    | dsimp only

theorem execAckReceive_keeps {m : Nat} {s₀ : State} (frame : List Byte) (trunc : Bool) (s : State) (h : Keeps m s₀ s) (hm : Sub 8783415 m) :
    KeepsR m s₀ (execAckReceive frame trunc s) := by
  unfold execAckReceive
  repeat' first
    | intro _
    | with_reducible assumption
    | (with_reducible refine Sub.of hm ?_); decide
    | with_reducible apply State.drtArrive_keeps
    | with_reducible apply State.answered_keeps
    | with_reducible apply State.setOut_keeps
    | with_reducible apply State.congAck_keeps
    | with_reducible apply State.endOut_keeps
    | with_reducible apply KeepsR.ite
    | with_reducible apply Keeps.ite
    | with_reducible apply KeepsR.next

theorem State.sendReadResp_keeps {m : Nat} {s₀ : State} (s : State) (h1 : DrtHdr) (via : DrtVia) (psn : Nat) (given : List Byte) (h : Keeps m s₀ s) (hm : Sub 8523319 m) :
    Keeps m s₀ (State.sendReadResp s h1 via psn given) := by
  unfold State.sendReadResp
  repeat' first
    | with_reducible assumption
    | (with_reducible refine Sub.of hm ?_); decide
    | with_reducible apply State.dmaCheck_keeps
    | with_reducible apply State.drtCount_keeps
    | with_reducible apply State.sendError_keeps
    | with_reducible apply State.setDrtQueue_keeps
    | with_reducible apply State.drtEvent_keeps
    | with_reducible apply State.issueRead_keeps
    | with_reducible apply State.drtEmit_keeps
    | with_reducible apply Keeps.ite
    | split

theorem execHeldTimeout_keeps {m : Nat} {s₀ : State} (src : BitVec 24) (msgSeq : BitVec 48) (s : State) (h : Keeps m s₀ s) (hm : Sub 8521271 m) :
    KeepsR m s₀ (execHeldTimeout src msgSeq s) := by
  unfold execHeldTimeout
  repeat' first
    | with_reducible assumption
    | (with_reducible refine Sub.of hm ?_); decide
    | with_reducible apply State.after_keeps
    | with_reducible apply State.finishIn_keeps
    | with_reducible apply KeepsR.ite
    | with_reducible apply Keeps.ite
    | with_reducible apply KeepsR.next
    | split
    | dsimp only

theorem execRecordExpire_keeps {m : Nat} {s₀ : State} (src : BitVec 24) (msgSeq : BitVec 48) (s : State) (h : Keeps m s₀ s) (hm : Sub 8521271 m) :
    KeepsR m s₀ (execRecordExpire src msgSeq s) := by
  unfold execRecordExpire
  repeat' first
    | with_reducible assumption
    | (with_reducible refine Sub.of hm ?_); decide
    | with_reducible apply State.drtCount_keeps
    | with_reducible apply State.dropIn_keeps
    | with_reducible apply State.drtEvent_keeps
    | with_reducible apply KeepsR.ite
    | with_reducible apply Keeps.ite
    | with_reducible apply KeepsR.next
    | split
    | dsimp only

theorem State.sendReadReq_keeps {m : Nat} {s₀ : State} (s : State) (r : Nat) (first : Nat) (count : Nat) (round : Nat) (x : OutRec) (h : Keeps m s₀ s) (hm : Sub 8523319 m) :
    Keeps m s₀ (State.sendReadReq s r first count round x) := by
  unfold State.sendReadReq
  repeat' first
    | with_reducible assumption
    | (with_reducible refine Sub.of hm ?_); decide
    | with_reducible apply State.noteSent_keeps
    | with_reducible apply State.drtEmit_keeps

theorem execDrugrimPacketSend_keeps {m : Nat} {s₀ : State} (dst : BitVec 24) (given : List Byte) (s : State) (h : Keeps m s₀ s) (hm : Sub 8785463 m) :
    KeepsR m s₀ (execDrugrimPacketSend dst given s) := by
  unfold execDrugrimPacketSend
  repeat' first
    | with_reducible assumption
    | (with_reducible refine Sub.of hm ?_); decide
    | with_reducible apply State.paced_keeps
    | with_reducible apply State.setDrtQueue_keeps
    | with_reducible apply State.sendData_keeps
    | with_reducible apply State.sendReadReq_keeps
    | with_reducible apply State.sendReadResp_keeps
    | with_reducible apply State.drtEmit_keeps
    | with_reducible apply KeepsR.ite
    | with_reducible apply Keeps.ite
    | with_reducible apply KeepsR.next
    | split
    | dsimp only

theorem execDrtRead_keeps {m : Nat} {s₀ : State} (num : Nat) (idx : Nat) (dest : List Byte) (s : State) (h : Keeps m s₀ s) (hm : Sub 8586807 m) :
    KeepsR m s₀ (execDrtRead num idx dest s) := by
  unfold execDrtRead
  repeat' first
    | with_reducible assumption
    | (with_reducible refine Sub.of hm ?_); decide
    | with_reducible apply State.workEntry_keeps
    | with_reducible apply KeepsR.next

theorem execDrtWriteImm_keeps {m : Nat} {s₀ : State} (num : Nat) (idx : Nat) (dest : List Byte) (s : State) (h : Keeps m s₀ s) (hm : Sub 8586807 m) :
    KeepsR m s₀ (execDrtWriteImm num idx dest s) := by
  unfold execDrtWriteImm
  repeat' first
    | with_reducible assumption
    | (with_reducible refine Sub.of hm ?_); decide
    | with_reducible apply State.workEntry_keeps
    | with_reducible apply KeepsR.next

theorem execDataReceive_keeps {m : Nat} {s₀ : State} (frame : List Byte) (trunc : Bool) (s : State) (h : Keeps m s₀ s) (hm : Sub 8586807 m) :
    KeepsR m s₀ (execDataReceive frame trunc s) := by
  unfold execDataReceive
  repeat' first
    | intro _
    | with_reducible assumption
    | (with_reducible refine Sub.of hm ?_); decide
    | with_reducible apply State.drtArrive_keeps
    | with_reducible apply State.admitPacket_keeps
    | with_reducible apply State.matchData_keeps
    | with_reducible apply KeepsR.next

end Sys2Proof.Machine
end

