-- ==== Sys2Proof/Laws/KeepNve.lean ====
section
/-! SUPPORT. What the operations of Machine/Nve.lean can change: each keeps every part of the state that its number does not name,
and the standing properties of `Keeps`. -/

namespace Sys2Proof.Machine

theorem execSmartCounterUpdate_keeps {m : Nat} {s₀ : State} (s : State) (h : Keeps m s₀ s) (hm : Sub 262144 m) :
    KeepsR m s₀ (execSmartCounterUpdate s) := by
  unfold execSmartCounterUpdate
  repeat' first
    | intro _
    | with_reducible assumption
    | (with_reducible refine Sub.of hm ?_); decide
    | with_reducible apply State.after_keeps
    | with_reducible apply State.saveSmart_keeps
    | with_reducible apply KeepsR.next
    | with_reducible apply Keeps.foldl

theorem State.smartCount_keeps {m : Nat} {s₀ : State} (s : State) (c : Nat) (k : Nat) (n : Nat) (h : Keeps m s₀ s) (hm : Sub 262144 m) :
    Keeps m s₀ (State.smartCount s c k n) := by
  unfold State.smartCount
  repeat' first
    | with_reducible assumption
    | (with_reducible refine Sub.of hm ?_); decide
    | with_reducible apply State.setCtrl_keeps
    | split

theorem State.setMsg_keeps {m : Nat} {s₀ : State} (s : State) (i : Nat) (m1 : NveMsg) (h : Keeps m s₀ s) (hm : Sub 262147 m) :
    Keeps m s₀ (State.setMsg s i m1) := by
  unfold State.setMsg
  repeat' first
    | with_reducible assumption
    | (with_reducible refine Sub.of hm ?_); decide
    | with_reducible apply State.showNve_keeps
    | with_reducible apply Keeps.set_nve

theorem State.startBackend_keeps {m : Nat} {s₀ : State} (s : State) (i : Nat) (m1 : NveMsg) (h : Keeps m s₀ s) (hm : Sub 8848951 m) :
    Keeps m s₀ (State.startBackend s i m1) := by
  unfold State.startBackend
  repeat' first
    | with_reducible assumption
    | (with_reducible refine Sub.of hm ?_); decide
    | with_reducible apply State.setMsg_keeps
    | with_reducible apply State.dmaCheck_keeps
    | with_reducible apply State.issueRead_keeps
    | with_reducible apply State.derivePair_keeps
    | with_reducible apply State.draw_keeps
    | with_reducible apply State.startMessage_keeps
    | with_reducible apply Keeps.ite
    | split
    | with_reducible apply Keeps.of2 ‹_›
    | with_reducible apply Keeps.of1 ‹_›
    | dsimp only

theorem State.settleResets_keeps {m : Nat} {s₀ : State} (s : State) (h : Keeps m s₀ s) (hm : Sub 262147 m) :
    Keeps m s₀ (State.settleResets s) := by
  unfold State.settleResets
  repeat' first
    | intro _
    | with_reducible assumption
    | (with_reducible refine Sub.of hm ?_); decide
    | with_reducible apply State.dropMsg_keeps
    | with_reducible apply State.endCtrlReset_keeps
    | with_reducible apply Keeps.ite
    | with_reducible apply Keeps.foldl
    | split

theorem State.settleShutdown_keeps {m : Nat} {s₀ : State} (s : State) (c : Nat) (h : Keeps m s₀ s) (hm : Sub 262144 m) :
    Keeps m s₀ (State.settleShutdown s c) := by
  unfold State.settleShutdown
  repeat' first
    | with_reducible assumption
    | (with_reducible refine Sub.of hm ?_); decide
    | with_reducible apply State.setCtrl_keeps
    | with_reducible apply Keeps.ite
    | with_reducible apply Keeps.foldl
    | split

theorem State.settleDeletes_keeps {m : Nat} {s₀ : State} (s : State) (c : Nat) (h : Keeps m s₀ s) (hm : Sub 8651831 m) :
    Keeps m s₀ (State.settleDeletes s c) := by
  unfold State.settleDeletes
  repeat' first
    | intro _
    | with_reducible assumption
    | (with_reducible refine Sub.of hm ?_); decide
    | with_reducible apply State.setCtrl_keeps
    | with_reducible apply State.nvmeEnd_keeps
    | with_reducible apply Keeps.foldl
    | split

theorem State.settleFlushes_keeps {m : Nat} {s₀ : State} (s : State) (c : Nat) (h : Keeps m s₀ s) (hm : Sub 8651831 m) :
    Keeps m s₀ (State.settleFlushes s c) := by
  unfold State.settleFlushes
  repeat' first
    | intro _
    | with_reducible assumption
    | (with_reducible refine Sub.of hm ?_); decide
    | with_reducible apply State.nvmeEnd_keeps
    | with_reducible apply Keeps.ite
    | with_reducible apply Keeps.foldl
    | split

theorem State.dropReplaced_keeps {m : Nat} {s₀ : State} (s : State) (ns : Nat) (slba : Nat) (nlb : Nat) (h : Keeps m s₀ s) (hm : Sub 262144 m) :
    Keeps m s₀ (State.dropReplaced s ns slba nlb) := by
  unfold State.dropReplaced
  repeat' first
    | with_reducible assumption
    | (with_reducible refine Sub.of hm ?_); decide
    | with_reducible apply Keeps.set_nve

theorem State.newMsg_keeps {m : Nat} {s₀ : State} (s : State) (m1 : NveMsg) (h : Keeps m s₀ s) (hm : Sub 262144 m) :
    Keeps m s₀ (State.newMsg s m1) := by
  unfold State.newMsg
  repeat' first
    | with_reducible assumption
    | (with_reducible refine Sub.of hm ?_); decide
    | with_reducible apply Keeps.set_nve

theorem State.bufferWrite_keeps {m : Nat} {s₀ : State} (s0 : State) (ns : Nat) (dest : List Byte) (p : Nat × Nat × List Byte) (h : Keeps m s₀ s0) (hm : Sub 262144 m) :
    Keeps m s₀ (State.bufferWrite s0 ns dest p) := by
  unfold State.bufferWrite
  repeat' first
    | with_reducible assumption
    | (with_reducible refine Sub.of hm ?_); decide
    | with_reducible apply State.dropReplaced_keeps
    | with_reducible apply State.newMsg_keeps
    | with_reducible apply Keeps.set_nve

theorem State.completeBuffered_keeps {m : Nat} {s₀ : State} (s : State) (c : Nat) (m1 : NvmeCmd) (ns : Nat) (n : NvmeNs) (data : List Byte) (dest : List Byte) (h : Keeps m s₀ s) (hm : Sub 8651831 m) :
    Keeps m s₀ (State.completeBuffered s c m1 ns n data dest) := by
  unfold State.completeBuffered
  repeat' first
    | intro _
    | with_reducible assumption
    | (with_reducible refine Sub.of hm ?_); decide
    | with_reducible apply State.bufferWrite_keeps
    | with_reducible apply State.showNve_keeps
    | with_reducible apply State.nvmeEnd_keeps
    | with_reducible apply State.smartCount_keeps
    | with_reducible apply Keeps.foldl

theorem State.admitWaiting_keeps {m : Nat} {s₀ : State} (s : State) (c : Nat) (h : Keeps m s₀ s) (hm : Sub 8651831 m) :
    Keeps m s₀ (State.admitWaiting s c) := by
  unfold State.admitWaiting
  repeat' first
    | intro _
    | with_reducible assumption
    | (with_reducible refine Sub.of hm ?_); decide
    | with_reducible apply State.nvmeEnd_keeps
    | with_reducible apply State.completeBuffered_keeps
    | with_reducible apply Keeps.ite
    | with_reducible apply Keeps.ite1
    | with_reducible apply Keeps.ite2
    | with_reducible apply Keeps.foldl
    | with_reducible apply Keeps.foldl1
    | with_reducible apply Keeps.foldl2
    | split

theorem State.nvmePump_keeps {m : Nat} {s₀ : State} (s : State) (h : Keeps m s₀ s) (hm : Sub 8848951 m) :
    Keeps m s₀ (State.nvmePump s) := by
  unfold State.nvmePump
  repeat' first
    | intro _
    | with_reducible assumption
    | (with_reducible refine Sub.of hm ?_); decide
    | with_reducible apply State.startBackend_keeps
    | with_reducible apply Keeps.ite
    | with_reducible apply Keeps.foldl
    | split

theorem State.nvmeSettle_keeps {m : Nat} {s₀ : State} (s : State) (h : Keeps m s₀ s) (hm : Sub 8848951 m) :
    Keeps m s₀ (State.nvmeSettle s) := by
  unfold State.nvmeSettle
  repeat' first
    | intro _
    | with_reducible assumption
    | (with_reducible refine Sub.of hm ?_); decide
    | with_reducible apply State.settleResets_keeps
    | with_reducible apply State.settleShutdown_keeps
    | with_reducible apply State.settleDeletes_keeps
    | with_reducible apply State.settleFlushes_keeps
    | with_reducible apply State.admitWaiting_keeps
    | with_reducible apply State.nvmePump_keeps
    | with_reducible apply Keeps.ite
    | with_reducible apply Keeps.foldl

theorem State.nsCommand_keeps {m : Nat} {s₀ : State} (s : State) (init : Nat) (op : Nat) (ns : Fin 8192) (f : State → Nat × State) (h : Keeps m s₀ s) (hf : ∀ x0, Keeps m s₀ x0 → Keeps m s₀ (f x0).2) (hm : Sub 8848951 m) :
    KeepsR m s₀ (State.nsCommand s init op ns f) := by
  unfold State.nsCommand
  repeat' first
    | with_reducible assumption
    | (with_reducible refine Sub.of hm ?_); decide
    | with_reducible apply hf
    | with_reducible apply State.blockAccess_keeps
    | with_reducible apply State.setF_keeps
    | with_reducible apply State.nvmeSettle_keeps
    | with_reducible apply KeepsR.ite
    | with_reducible apply Keeps.ite
    | with_reducible apply Keeps.ite1
    | with_reducible apply Keeps.ite2
    | with_reducible apply KeepsR.next

theorem execNsAttach_keeps {m : Nat} {s₀ : State} (init : Nat) (ns : Fin 8192) (controller : Fin 1024) (nsid : BitVec 8) (s : State) (h : Keeps m s₀ s) (hm : Sub 8848951 m) :
    KeepsR m s₀ (execNsAttach init ns controller nsid s) := by
  unfold execNsAttach
  repeat' first
    | intro _
    | with_reducible assumption
    | (with_reducible refine Sub.of hm ?_); decide
    | with_reducible apply State.nsCommand_keeps
    | with_reducible apply State.setF_keeps
    | with_reducible apply State.showWarn_keeps
    | with_reducible apply State.setNs_keeps
    | with_reducible apply KeepsR.ite
    | with_reducible apply Keeps.ite
    | with_reducible apply KeepsR.next
    | split
    | dsimp only

theorem State.onCmd_keeps {m : Nat} {s₀ : State} (s : State) (c : Nat) (sq : Nat) (op : Nat) (f : NvmeCtrl → NvmeCmd → State) (h : Keeps m s₀ s) (hf : ∀ x0 x1, Keeps m s₀ (f x0 x1)) (hm : Sub 8848951 m) :
    KeepsR m s₀ (State.onCmd s c sq op f) := by
  unfold State.onCmd
  repeat' first
    | with_reducible assumption
    | (with_reducible refine Sub.of hm ?_); decide
    | with_reducible apply hf
    | with_reducible apply State.nvmeSettle_keeps
    | with_reducible apply KeepsR.ite
    | with_reducible apply Keeps.ite
    | with_reducible apply KeepsR.next
    | split

theorem execCreateIoSubmissionQueue_keeps {m : Nat} {s₀ : State} (c : Fin 1024) (s : State) (h : Keeps m s₀ s) (hm : Sub 8848951 m) :
    KeepsR m s₀ (execCreateIoSubmissionQueue c s) := by
  unfold execCreateIoSubmissionQueue
  repeat' first
    | intro _
    | with_reducible assumption
    | (with_reducible refine Sub.of hm ?_); decide
    | with_reducible apply State.onCmd_keeps
    | with_reducible apply State.nvmeEnd_keeps
    | with_reducible apply State.setCtrl_keeps
    | with_reducible apply KeepsR.ite
    | with_reducible apply Keeps.ite
    | with_reducible apply KeepsR.next

theorem execNsCreate_keeps {m : Nat} {s₀ : State} (init : Nat) (ns : Fin 8192) (s : State) (h : Keeps m s₀ s) (hm : Sub 8848951 m) :
    KeepsR m s₀ (execNsCreate init ns s) := by
  unfold execNsCreate
  repeat' first
    | intro _
    | with_reducible assumption
    | (with_reducible refine Sub.of hm ?_); decide
    | with_reducible apply State.nsCommand_keeps
    | with_reducible apply State.setNs_keeps
    | with_reducible apply KeepsR.ite
    | with_reducible apply Keeps.ite
    | with_reducible apply Keeps.ite1
    | with_reducible apply Keeps.ite2
    | with_reducible apply KeepsR.next

theorem execNsDelete_keeps {m : Nat} {s₀ : State} (init : Nat) (ns : Fin 8192) (s : State) (h : Keeps m s₀ s) (hm : Sub 8848951 m) :
    KeepsR m s₀ (execNsDelete init ns s) := by
  unfold execNsDelete
  repeat' first
    | intro _
    | with_reducible assumption
    | (with_reducible refine Sub.of hm ?_); decide
    | with_reducible apply State.nsCommand_keeps
    | with_reducible apply State.discardMsg_keeps
    | with_reducible apply State.showNve_keeps
    | with_reducible apply KeepsR.ite
    | with_reducible apply Keeps.ite
    | with_reducible apply KeepsR.next
    | with_reducible apply Keeps.foldl
    | split
    | with_reducible apply Keeps.set_nve

theorem execNsDetach_keeps {m : Nat} {s₀ : State} (init : Nat) (ns : Fin 8192) (s : State) (h : Keeps m s₀ s) (hm : Sub 8848951 m) :
    KeepsR m s₀ (execNsDetach init ns s) := by
  unfold execNsDetach
  repeat' first
    | intro _
    | with_reducible assumption
    | (with_reducible refine Sub.of hm ?_); decide
    | with_reducible apply State.nsCommand_keeps
    | with_reducible apply State.setNs_keeps
    | with_reducible apply State.showWarn_keeps
    | with_reducible apply KeepsR.ite
    | with_reducible apply Keeps.ite
    | with_reducible apply KeepsR.next
    | split

theorem execNsQuery_keeps {m : Nat} {s₀ : State} (init : Nat) (ns : Fin 8192) (s : State) (h : Keeps m s₀ s) (hm : Sub 8848951 m) :
    KeepsR m s₀ (execNsQuery init ns s) := by
  unfold execNsQuery
  repeat' first
    | intro _
    | with_reducible assumption
    | (with_reducible refine Sub.of hm ?_); decide
    | with_reducible apply State.nsCommand_keeps
    | with_reducible apply State.setF_keeps
    | with_reducible apply KeepsR.ite
    | with_reducible apply Keeps.ite
    | with_reducible apply KeepsR.next

theorem execClearFault_keeps {m : Nat} {s₀ : State} (init : Nat) (ns : Fin 8192) (s : State) (h : Keeps m s₀ s) (hm : Sub 8848951 m) :
    KeepsR m s₀ (execClearFault init ns s) := by
  unfold execClearFault
  repeat' first
    | intro _
    | with_reducible assumption
    | (with_reducible refine Sub.of hm ?_); decide
    | with_reducible apply State.nsCommand_keeps
    | with_reducible apply State.setNs_keeps
    | with_reducible apply State.showWarn_keeps
    | with_reducible apply KeepsR.next
    | split

theorem State.enableCtrl_keeps {m : Nat} {s₀ : State} (s : State) (c : Nat) (x : NvmeCtrl) (cc : Nat) (h : Keeps m s₀ s) (hm : Sub 262144 m) :
    Keeps m s₀ (State.enableCtrl s c x cc) := by
  unfold State.enableCtrl
  repeat' first
    | with_reducible assumption
    | (with_reducible refine Sub.of hm ?_); decide
    | with_reducible apply State.setCtrl_keeps
    | with_reducible apply State.draw_keeps
    | with_reducible apply State.after_keeps
    | with_reducible apply Keeps.ite

theorem State.setBuf_keeps {m : Nat} {s₀ : State} (s : State) (i : Nat) (b : NveBuf) (h : Keeps m s₀ s) (hm : Sub 262144 m) :
    Keeps m s₀ (State.setBuf s i b) := by
  unfold State.setBuf
  repeat' first
    | with_reducible assumption
    | (with_reducible refine Sub.of hm ?_); decide
    | with_reducible apply Keeps.set_nve

theorem execDestageDone_keeps {m : Nat} {s₀ : State} (msg : Nat) (s : State) (h : Keeps m s₀ s) (hm : Sub 8848951 m) :
    KeepsR m s₀ (execDestageDone msg s) := by
  unfold execDestageDone
  repeat' first
    | with_reducible assumption
    | (with_reducible refine Sub.of hm ?_); decide
    | with_reducible apply State.dropMsg_keeps
    | with_reducible apply State.nvmeSettle_keeps
    | with_reducible apply State.showWarn_keeps
    | with_reducible apply State.freeBufs_keeps
    | with_reducible apply State.setNs_keeps
    | with_reducible apply State.nveCount_keeps
    | with_reducible apply State.setBuf_keeps
    | with_reducible apply State.faultNs_keeps
    | with_reducible apply KeepsR.ite
    | with_reducible apply Keeps.ite
    | with_reducible apply KeepsR.next
    | split

theorem State.shutCtrl_keeps {m : Nat} {s₀ : State} (s : State) (c : Nat) (normal : Bool) (h : Keeps m s₀ s) (hm : Sub 8848951 m) :
    Keeps m s₀ (State.shutCtrl s c normal) := by
  unfold State.shutCtrl
  repeat' first
    | with_reducible assumption
    | (with_reducible refine Sub.of hm ?_); decide
    | with_reducible apply State.nvmeSettle_keeps
    | with_reducible apply State.setCtrl_keeps
    | with_reducible apply Keeps.ite
    | split

theorem State.hostReads_keeps {m : Nat} {s₀ : State} (s : State) (f : Nat) (l : List (Nat × Nat)) (h : Keeps m s₀ s) (hm : Sub 8389683 m) :
    Keeps m s₀ (State.hostReads s f l).1 := by
  unfold State.hostReads
  repeat' first
    | intro _
    | with_reducible assumption
    | (with_reducible refine Sub.of hm ?_); decide
    | with_reducible apply State.dmaCheck_keeps
    | with_reducible apply State.issueRead_keeps
    | with_reducible apply Keeps.ite
    | with_reducible apply Keeps.ite1
    | with_reducible apply Keeps.ite2
    | with_reducible apply Keeps.foldl
    | with_reducible apply Keeps.foldl1
    | with_reducible apply Keeps.foldl2

theorem State.cmdSegs_keeps {m : Nat} {s₀ : State} (s : State) (x : NvmeCtrl) (m1 : NvmeCmd) (n : Nat) (given : List Nat) (h : Keeps m s₀ s) (hm : Sub 8389683 m) :
    Keeps m s₀ (State.cmdSegs s x m1 n given).1 := by
  unfold State.cmdSegs
  repeat' first
    | with_reducible assumption
    | (with_reducible refine Sub.of hm ?_); decide
    | with_reducible apply State.hostReads_keeps
    | with_reducible apply Keeps.ite
    | with_reducible apply Keeps.ite1
    | with_reducible apply Keeps.ite2

theorem State.hostWrites_keeps {m : Nat} {s₀ : State} (s : State) (f : Nat) (y_ : List (Nat × Nat)) (y_1 : List Byte) (h : Keeps m s₀ s) (hm : Sub 8389687 m) :
    Keeps m s₀ (State.hostWrites s f y_ y_1).1 := by
  induction y_ generalizing s y_1 with
  | nil => exact h
  | cons q l ih =>
    unfold State.hostWrites
    dsimp only
    have hc : Keeps m s₀ (s.dmaCheck f none true q.1 q.2).1 := State.dmaCheck_keeps _ _ _ _ _ _ h (Sub.of hm (by decide))
    split
    · exact ih _ _ (State.issueWrite_keeps _ _ _ _ _ hc (Sub.of hm (by decide)))
    · exact hc

theorem State.endWithData_keeps {m : Nat} {s₀ : State} (s : State) (c : Nat) (x : NvmeCtrl) (m1 : NvmeCmd) (data : List Byte) (given : List Nat) (dw0 : Nat) (h : Keeps m s₀ s) (hm : Sub 8651831 m) :
    Keeps m s₀ (State.endWithData s c x m1 data given dw0) := by
  unfold State.endWithData
  repeat' first
    | with_reducible assumption
    | (with_reducible refine Sub.of hm ?_); decide
    | with_reducible apply State.cmdSegs_keeps
    | with_reducible apply State.nvmeEnd_keeps
    | with_reducible apply State.hostWrites_keeps
    | with_reducible apply Keeps.ite

theorem execNvmeIdentify_keeps {m : Nat} {s₀ : State} (c : Fin 1024) (prps : List Nat) (s : State) (h : Keeps m s₀ s) (hm : Sub 8848951 m) :
    KeepsR m s₀ (execNvmeIdentify c prps s) := by
  unfold execNvmeIdentify
  repeat' first
    | intro _
    | with_reducible assumption
    | (with_reducible refine Sub.of hm ?_); decide
    | with_reducible apply State.onCmd_keeps
    | with_reducible apply State.drawBytes_keeps
    | with_reducible apply State.endWithData_keeps
    | with_reducible apply State.nvmeEnd_keeps
    | with_reducible apply State.draw_keeps
    | with_reducible apply KeepsR.ite
    | with_reducible apply Keeps.ite
    | with_reducible apply KeepsR.next
    | with_reducible apply Keeps.foldl
    | split
    | dsimp only

theorem State.fetchCmd_keeps {m : Nat} {s₀ : State} (s : State) (c : Nat) (q : Nat) (given : List Byte) (h : Keeps m s₀ s) (hm : Sub 8651831 m) :
    Keeps m s₀ (State.fetchCmd s c q given) := by
  unfold State.fetchCmd
  repeat' first
    | intro _
    | with_reducible assumption
    | (with_reducible refine Sub.of hm ?_); decide
    | with_reducible apply State.dmaCheck_keeps
    | with_reducible apply State.setCtrl_keeps
    | with_reducible apply State.nveCount_keeps
    | with_reducible apply State.issueRead_keeps
    | with_reducible apply State.nvmeEntry_keeps
    | with_reducible refine State.cqPost_keeps _ _ _ _ ?_ ?_ _ ‹_›
    | with_reducible apply State.nvmeEnd_keeps
    | with_reducible apply Keeps.ite
    | with_reducible apply Keeps.getD
    | split

theorem State.finishRead_keeps {m : Nat} {s₀ : State} (s : State) (c : Nat) (m1 : NvmeCmd) (n : NvmeNs) (pins : List Nat) (segs : List (Nat × Nat)) (backend : List Byte) (h : Keeps m s₀ s) (hm : Sub 8651831 m) :
    Keeps m s₀ (State.finishRead s c m1 n pins segs backend) := by
  unfold State.finishRead
  repeat' first
    | with_reducible assumption
    | (with_reducible refine Sub.of hm ?_); decide
    | with_reducible apply State.unpin_keeps
    | with_reducible apply State.nvmeEnd_keeps
    | with_reducible apply State.hostWrites_keeps
    | with_reducible apply State.smartCount_keeps
    | with_reducible apply Keeps.ite

theorem State.setCmd_keeps {m : Nat} {s₀ : State} (s : State) (c : Nat) (sq : Nat) (cid : Nat) (st : NvmeCmdSt) (h : Keeps m s₀ s) (hm : Sub 262144 m) :
    Keeps m s₀ (State.setCmd s c sq cid st) := by
  unfold State.setCmd
  repeat' first
    | with_reducible assumption
    | (with_reducible refine Sub.of hm ?_); decide
    | with_reducible apply State.setCtrl_keeps
    | with_reducible apply Keeps.ite
    | split

theorem State.writeData_keeps {m : Nat} {s₀ : State} (s : State) (c : Nat) (x : NvmeCtrl) (m1 : NvmeCmd) (i : Nat) (n : NvmeNs) (data : List Byte) (dest : List Byte) (h : Keeps m s₀ s) (hm : Sub 8651831 m) :
    Keeps m s₀ (State.writeData s c x m1 i n data dest) := by
  unfold State.writeData
  repeat' first
    | intro _
    | with_reducible assumption
    | (with_reducible refine Sub.of hm ?_); decide
    | with_reducible apply State.completeBuffered_keeps
    | with_reducible apply State.setCmd_keeps
    | with_reducible apply State.newMsg_keeps
    | with_reducible apply Keeps.ite
    | with_reducible apply Keeps.foldl

theorem execNvmeWriteZeroes_keeps {m : Nat} {s₀ : State} (c : Fin 1024) (sq : Nat) (dest : List Byte) (s : State) (h : Keeps m s₀ s) (hm : Sub 8848951 m) :
    KeepsR m s₀ (execNvmeWriteZeroes c sq dest s) := by
  unfold execNvmeWriteZeroes
  repeat' first
    | intro _
    | with_reducible assumption
    | (with_reducible refine Sub.of hm ?_); decide
    | with_reducible apply State.onCmd_keeps
    | with_reducible apply State.nvmeEnd_keeps
    | with_reducible apply State.writeData_keeps
    | with_reducible apply KeepsR.ite
    | with_reducible apply Keeps.ite
    | with_reducible apply KeepsR.next
    | split

theorem execControllerReset_keeps {m : Nat} {s₀ : State} (c : Fin 1024) (s : State) (h : Keeps m s₀ s) (hm : Sub 8848951 m) :
    KeepsR m s₀ (execControllerReset c s) := by
  unfold execControllerReset
  repeat' first
    | with_reducible assumption
    | (with_reducible refine Sub.of hm ?_); decide
    | with_reducible apply State.nvmeSettle_keeps
    | with_reducible apply State.startCtrlReset_keeps
    | with_reducible apply KeepsR.ite
    | with_reducible apply Keeps.ite
    | with_reducible apply KeepsR.next
    | split

theorem execAsynchronousEventRequest_keeps {m : Nat} {s₀ : State} (c : Fin 1024) (s : State) (h : Keeps m s₀ s) (hm : Sub 8848951 m) :
    KeepsR m s₀ (execAsynchronousEventRequest c s) := by
  unfold execAsynchronousEventRequest
  repeat' first
    | intro _
    | with_reducible assumption
    | (with_reducible refine Sub.of hm ?_); decide
    | with_reducible apply State.onCmd_keeps
    | with_reducible apply State.nvmeEnd_keeps
    | with_reducible apply State.aerTry_keeps
    | with_reducible apply State.setCmd_keeps
    | with_reducible apply KeepsR.ite
    | with_reducible apply Keeps.ite
    | with_reducible apply KeepsR.next

theorem execDeleteIoSubmissionQueue_keeps {m : Nat} {s₀ : State} (c : Fin 1024) (s : State) (h : Keeps m s₀ s) (hm : Sub 8848951 m) :
    KeepsR m s₀ (execDeleteIoSubmissionQueue c s) := by
  unfold execDeleteIoSubmissionQueue
  repeat' first
    | intro _
    | with_reducible assumption
    | (with_reducible refine Sub.of hm ?_); decide
    | with_reducible apply State.onCmd_keeps
    | with_reducible apply State.nvmeEnd_keeps
    | with_reducible apply State.setCmd_keeps
    | with_reducible apply State.setCtrl_keeps
    | with_reducible apply State.cutCmd_keeps
    | with_reducible apply KeepsR.ite
    | with_reducible apply Keeps.ite
    | with_reducible apply KeepsR.next
    | with_reducible apply Keeps.foldl
    | split
    | dsimp only

theorem execTemperatureThreshold_keeps {m : Nat} {s₀ : State} (c : Fin 1024) (kelvin : BitVec 16) (s : State) (h : Keeps m s₀ s) (hm : Sub 8651831 m) :
    KeepsR m s₀ (execTemperatureThreshold c kelvin s) := by
  unfold execTemperatureThreshold
  repeat' first
    | with_reducible assumption
    | (with_reducible refine Sub.of hm ?_); decide
    | with_reducible apply State.showTemp_keeps
    | with_reducible apply KeepsR.next
    | with_reducible apply Keeps.set_nve

theorem execGetLogPage_keeps {m : Nat} {s₀ : State} (c : Fin 1024) (prps : List Nat) (s : State) (h : Keeps m s₀ s) (hm : Sub 8848951 m) :
    KeepsR m s₀ (execGetLogPage c prps s) := by
  unfold execGetLogPage
  repeat' first
    | intro _
    | with_reducible assumption
    | (with_reducible refine Sub.of hm ?_); decide
    | with_reducible apply State.onCmd_keeps
    | with_reducible apply State.drawBytes_keeps
    | with_reducible apply State.nvmeEnd_keeps
    | with_reducible apply State.aerTry_keeps
    | with_reducible apply State.endWithData_keeps
    | with_reducible apply State.setCtrl_keeps
    | with_reducible apply KeepsR.ite
    | with_reducible apply Keeps.ite
    | with_reducible apply KeepsR.next
    | with_reducible apply Keeps.foldl
    | split
    | dsimp only

theorem execControllerEnable_keeps {m : Nat} {s₀ : State} (c : Fin 1024) (cc : BitVec 32) (s : State) (h : Keeps m s₀ s) (hm : Sub 262144 m) :
    KeepsR m s₀ (execControllerEnable c cc s) := by
  unfold execControllerEnable
  repeat' first
    | with_reducible assumption
    | (with_reducible refine Sub.of hm ?_); decide
    | with_reducible apply State.enableCtrl_keeps
    | with_reducible apply KeepsR.ite
    | with_reducible apply Keeps.ite
    | with_reducible apply KeepsR.next
    | split

theorem execNormalShutdown_keeps {m : Nat} {s₀ : State} (c : Fin 1024) (s : State) (h : Keeps m s₀ s) (hm : Sub 8848951 m) :
    KeepsR m s₀ (execNormalShutdown c s) := by
  unfold execNormalShutdown
  repeat' first
    | with_reducible assumption
    | (with_reducible refine Sub.of hm ?_); decide
    | with_reducible apply State.shutCtrl_keeps
    | with_reducible apply KeepsR.next

theorem execAbruptShutdown_keeps {m : Nat} {s₀ : State} (c : Fin 1024) (s : State) (h : Keeps m s₀ s) (hm : Sub 8848951 m) :
    KeepsR m s₀ (execAbruptShutdown c s) := by
  unfold execAbruptShutdown
  repeat' first
    | with_reducible assumption
    | (with_reducible refine Sub.of hm ?_); decide
    | with_reducible apply State.shutCtrl_keeps
    | with_reducible apply KeepsR.next

theorem execDestageRetry_keeps {m : Nat} {s₀ : State} (buf : Nat) (dest : List Byte) (s : State) (h : Keeps m s₀ s) (hm : Sub 8848951 m) :
    KeepsR m s₀ (execDestageRetry buf dest s) := by
  unfold execDestageRetry
  repeat' first
    | with_reducible assumption
    | (with_reducible refine Sub.of hm ?_); decide
    | with_reducible apply State.nveCount_keeps
    | with_reducible apply State.after_keeps
    | with_reducible apply State.setBuf_keeps
    | with_reducible apply State.nvmeSettle_keeps
    | with_reducible apply State.newMsg_keeps
    | with_reducible apply KeepsR.ite
    | with_reducible apply Keeps.ite
    | with_reducible apply KeepsR.next
    | split

theorem execNvmeWrite_keeps {m : Nat} {s₀ : State} (c : Fin 1024) (sq : Nat) (prps : List Nat) (data : List Byte) (dest : List Byte) (s : State) (h : Keeps m s₀ s) (hm : Sub 8848951 m) :
    KeepsR m s₀ (execNvmeWrite c sq prps data dest s) := by
  unfold execNvmeWrite
  repeat' first
    | intro _
    | with_reducible assumption
    | (with_reducible refine Sub.of hm ?_); decide
    | with_reducible apply State.onCmd_keeps
    | with_reducible apply State.nvmeEnd_keeps
    | with_reducible apply State.cmdSegs_keeps
    | with_reducible apply State.hostReads_keeps
    | with_reducible apply State.writeData_keeps
    | with_reducible apply KeepsR.ite
    | with_reducible apply Keeps.ite
    | with_reducible apply KeepsR.next
    | split

theorem execBackendReadDone_keeps {m : Nat} {s₀ : State} (msg : Nat) (s : State) (h : Keeps m s₀ s) (hm : Sub 8848951 m) :
    KeepsR m s₀ (execBackendReadDone msg s) := by
  unfold execBackendReadDone
  repeat' first
    | with_reducible assumption
    | (with_reducible refine Sub.of hm ?_); decide
    | with_reducible apply State.dropMsg_keeps
    | with_reducible apply State.nvmeSettle_keeps
    | with_reducible apply State.finishRead_keeps
    | with_reducible apply State.nvmeEnd_keeps
    | with_reducible apply State.unpin_keeps
    | with_reducible apply KeepsR.ite
    | with_reducible apply Keeps.ite
    | with_reducible apply KeepsR.next
    | split

theorem execBackendWriteDone_keeps {m : Nat} {s₀ : State} (msg : Nat) (s : State) (h : Keeps m s₀ s) (hm : Sub 8848951 m) :
    KeepsR m s₀ (execBackendWriteDone msg s) := by
  unfold execBackendWriteDone
  repeat' first
    | intro _
    | with_reducible assumption
    | (with_reducible refine Sub.of hm ?_); decide
    | with_reducible apply State.dropMsg_keeps
    | with_reducible apply State.nvmeSettle_keeps
    | with_reducible apply State.nvmeEnd_keeps
    | with_reducible apply State.discardMsg_keeps
    | with_reducible apply State.smartCount_keeps
    | with_reducible apply State.setCmd_keeps
    | with_reducible apply KeepsR.ite
    | with_reducible apply Keeps.ite
    | with_reducible apply KeepsR.next
    | with_reducible apply Keeps.foldl
    | split

theorem execNvmeDoorbell_keeps {m : Nat} {s₀ : State} (c : Fin 1024) (cq : Bool) (qid : Nat) (value : Nat) (reads : List (Nat × List Byte)) (s : State) (h : Keeps m s₀ s) (hm : Sub 8848951 m) :
    KeepsR m s₀ (execNvmeDoorbell c cq qid value reads s) := by
  unfold execNvmeDoorbell
  repeat' first
    | intro _
    | with_reducible assumption
    | (with_reducible refine Sub.of hm ?_); decide
    | with_reducible apply State.setCtrl_keeps
    | with_reducible apply State.cqDrain_keeps
    | with_reducible apply State.nvmeSettle_keeps
    | with_reducible apply State.fetchCmd_keeps
    | with_reducible apply KeepsR.ite
    | with_reducible apply Keeps.ite
    | with_reducible apply KeepsR.next
    | with_reducible apply Keeps.foldl
    | split

theorem execNvmeRead_keeps {m : Nat} {s₀ : State} (c : Fin 1024) (sq : Nat) (prps : List Nat) (dest : List Byte) (s : State) (h : Keeps m s₀ s) (hm : Sub 8848951 m) :
    KeepsR m s₀ (execNvmeRead c sq prps dest s) := by
  unfold execNvmeRead
  repeat' first
    | intro _
    | with_reducible assumption
    | (with_reducible refine Sub.of hm ?_); decide
    | with_reducible apply State.onCmd_keeps
    | with_reducible apply State.nvmeEnd_keeps
    | with_reducible apply State.cmdSegs_keeps
    | with_reducible apply State.finishRead_keeps
    | with_reducible apply State.nveCount_keeps
    | with_reducible apply State.setCmd_keeps
    | with_reducible apply State.newMsg_keeps
    | with_reducible apply KeepsR.ite
    | with_reducible apply Keeps.ite
    | with_reducible apply KeepsR.next
    | split
    | with_reducible apply Keeps.set_nve

theorem execApstIdle_keeps {m : Nat} {s₀ : State} (c : Fin 1024) (s : State) (h : Keeps m s₀ s) (hm : Sub 262144 m) :
    KeepsR m s₀ (execApstIdle c s) := by
  unfold execApstIdle
  repeat' first
    | with_reducible assumption
    | (with_reducible refine Sub.of hm ?_); decide
    | with_reducible apply State.setCtrl_keeps
    | with_reducible apply State.after_keeps
    | with_reducible apply KeepsR.ite
    | with_reducible apply Keeps.ite
    | with_reducible apply KeepsR.next
    | split

theorem execSetFeatures_keeps {m : Nat} {s₀ : State} (c : Fin 1024) (prps : List Nat) (data : List Byte) (s : State) (h : Keeps m s₀ s) (hm : Sub 8848951 m) :
    KeepsR m s₀ (execSetFeatures c prps data s) := by
  unfold execSetFeatures
  repeat' first
    | intro _
    | with_reducible assumption
    | (with_reducible refine Sub.of hm ?_); decide
    | with_reducible apply State.onCmd_keeps
    | with_reducible apply State.nvmeEnd_keeps
    | with_reducible apply State.setCtrl_keeps
    | with_reducible apply State.showTemp_keeps
    | with_reducible apply State.cmdSegs_keeps
    | with_reducible apply State.hostReads_keeps
    | with_reducible apply KeepsR.ite
    | with_reducible apply Keeps.ite
    | with_reducible apply KeepsR.next
    | split

theorem execNvmeAbort_keeps {m : Nat} {s₀ : State} (c : Fin 1024) (s : State) (h : Keeps m s₀ s) (hm : Sub 8848951 m) :
    KeepsR m s₀ (execNvmeAbort c s) := by
  unfold execNvmeAbort
  repeat' first
    | intro _
    | with_reducible assumption
    | (with_reducible refine Sub.of hm ?_); decide
    | with_reducible apply State.onCmd_keeps
    | with_reducible apply State.nvmeEnd_keeps
    | with_reducible apply State.nveCount_keeps
    | with_reducible apply State.cutCmd_keeps
    | with_reducible apply KeepsR.next
    | split
    | dsimp only

theorem execDestageFailureWarning_keeps {m : Nat} {s₀ : State} (ns : Fin 8192) (s : State) (h : Keeps m s₀ s) (hm : Sub 8651831 m) :
    KeepsR m s₀ (execDestageFailureWarning ns s) := by
  unfold execDestageFailureWarning
  repeat' first
    | with_reducible assumption
    | (with_reducible refine Sub.of hm ?_); decide
    | with_reducible apply State.setWarn_keeps
    | with_reducible apply State.after_keeps
    | with_reducible apply KeepsR.next
    | split

theorem execDeleteIoCompletionQueue_keeps {m : Nat} {s₀ : State} (c : Fin 1024) (s : State) (h : Keeps m s₀ s) (hm : Sub 8848951 m) :
    KeepsR m s₀ (execDeleteIoCompletionQueue c s) := by
  unfold execDeleteIoCompletionQueue
  repeat' first
    | intro _
    | with_reducible assumption
    | (with_reducible refine Sub.of hm ?_); decide
    | with_reducible apply State.onCmd_keeps
    | with_reducible apply State.nvmeEnd_keeps
    | with_reducible apply State.setCtrl_keeps
    | with_reducible apply KeepsR.ite
    | with_reducible apply Keeps.ite
    | with_reducible apply KeepsR.next

theorem execGetFeatures_keeps {m : Nat} {s₀ : State} (c : Fin 1024) (prps : List Nat) (s : State) (h : Keeps m s₀ s) (hm : Sub 8848951 m) :
    KeepsR m s₀ (execGetFeatures c prps s) := by
  unfold execGetFeatures
  repeat' first
    | intro _
    | with_reducible assumption
    | (with_reducible refine Sub.of hm ?_); decide
    | with_reducible apply State.onCmd_keeps
    | with_reducible apply State.nvmeEnd_keeps
    | with_reducible apply State.endWithData_keeps
    | with_reducible apply KeepsR.ite
    | with_reducible apply Keeps.ite
    | with_reducible apply KeepsR.next
    | split

theorem execCreateIoCompletionQueue_keeps {m : Nat} {s₀ : State} (c : Fin 1024) (s : State) (h : Keeps m s₀ s) (hm : Sub 8848951 m) :
    KeepsR m s₀ (execCreateIoCompletionQueue c s) := by
  unfold execCreateIoCompletionQueue
  repeat' first
    | intro _
    | with_reducible assumption
    | (with_reducible refine Sub.of hm ?_); decide
    | with_reducible apply State.onCmd_keeps
    | with_reducible apply State.nvmeEnd_keeps
    | with_reducible apply State.setCtrl_keeps
    | with_reducible apply KeepsR.ite
    | with_reducible apply Keeps.ite
    | with_reducible apply KeepsR.next

theorem execControllerResetTimeout_keeps {m : Nat} {s₀ : State} (c : Fin 1024) (s : State) (h : Keeps m s₀ s) (hm : Sub 8848951 m) :
    KeepsR m s₀ (execControllerResetTimeout c s) := by
  unfold execControllerResetTimeout
  repeat' first
    | intro _
    | with_reducible assumption
    | (with_reducible refine Sub.of hm ?_); decide
    | with_reducible apply State.after_keeps
    | with_reducible apply State.dropMsg_keeps
    | with_reducible apply State.dropOut_keeps
    | with_reducible apply State.nvmeSettle_keeps
    | with_reducible apply State.endCtrlReset_keeps
    | with_reducible apply State.nveCount_keeps
    | with_reducible apply KeepsR.next
    | with_reducible apply Keeps.foldl
    | split

theorem execNvmeFlush_keeps {m : Nat} {s₀ : State} (c : Fin 1024) (sq : Nat) (s : State) (h : Keeps m s₀ s) (hm : Sub 8848951 m) :
    KeepsR m s₀ (execNvmeFlush c sq s) := by
  unfold execNvmeFlush
  repeat' first
    | intro _
    | with_reducible assumption
    | (with_reducible refine Sub.of hm ?_); decide
    | with_reducible apply State.onCmd_keeps
    | with_reducible apply State.nvmeEnd_keeps
    | with_reducible apply State.setCmd_keeps
    | with_reducible apply KeepsR.ite
    | with_reducible apply Keeps.ite
    | with_reducible apply KeepsR.next

end Sys2Proof.Machine
end

