-- ==== Sys2Proof/Laws/KeepModes.lean ====
section
/-! SUPPORT. What the operations of Machine/Modes.lean can change: each keeps every part of the state that its number does not name,
and the standing properties of `Keeps`. -/

namespace Sys2Proof.Machine

theorem State.liftModule_keeps {m : Nat} {s₀ : State} (s : State) (h : Keeps m s₀ s) (hm : Sub 19 m) :
    Keeps m s₀ (State.liftModule s) := by
  unfold State.liftModule
  repeat' first
    | with_reducible assumption
    | (with_reducible refine Sub.of hm ?_); decide
    | with_reducible apply State.setF_keeps
    | with_reducible apply Keeps.set_prf

theorem State.virtioNeedsReset_keeps {m : Nat} {s₀ : State} (s : State) (h : Keeps m s₀ s) (hm : Sub 32 m) :
    Keeps m s₀ (State.virtioNeedsReset s) := by
  unfold State.virtioNeedsReset
  repeat' first
    | with_reducible assumption
    | (with_reducible refine Sub.of hm ?_); decide
    | with_reducible apply State.setFn_keeps
    | with_reducible apply Keeps.ite
    | split

theorem execModeCommit_keeps {m : Nat} {s₀ : State} (s : State) (h : Keeps m s₀ s) (hm : Sub 11009983 m) :
    KeepsR m s₀ (execModeCommit s) := by
  unfold execModeCommit
  repeat' first
    | with_reducible assumption
    | (with_reducible refine Sub.of hm ?_); decide
    | with_reducible apply State.liftModule_keeps
    | with_reducible apply State.endMode_keeps
    | with_reducible apply State.commitMode_keeps
    | with_reducible apply State.postEvent_keeps
    | with_reducible apply State.virtioNeedsReset_keeps
    | with_reducible apply State.startStandby_keeps
    | with_reducible apply State.resumeHeldStandby_keeps
    | with_reducible apply KeepsR.ite
    | with_reducible apply Keeps.ite
    | with_reducible apply KeepsR.next
    | split

theorem State.modeGo_keeps {m : Nat} {s₀ : State} (s : State) (init : Nat) (target : Nat) (h : Keeps m s₀ s) (hm : Sub 16777151 m) :
    Keeps m s₀ (State.modeGo s init target) := by
  unfold State.modeGo
  repeat' first
    | with_reducible assumption
    | (with_reducible refine Sub.of hm ?_); decide
    | with_reducible apply State.blockAccess_keeps
    | with_reducible apply State.setF_keeps
    | with_reducible apply State.beginReset_keeps
    | with_reducible apply State.beginMode_keeps
    | with_reducible apply Keeps.ite

theorem execModeRequestGo_keeps {m : Nat} {s₀ : State} (init : Nat) (target : Fin 8) (s : State) (h : Keeps m s₀ s) (hm : Sub 16777151 m) :
    KeepsR m s₀ (execModeRequestGo init target s) := by
  unfold execModeRequestGo
  repeat' first
    | with_reducible assumption
    | (with_reducible refine Sub.of hm ?_); decide
    | with_reducible apply State.holdReq_keeps
    | with_reducible apply State.modeGo_keeps
    | with_reducible apply KeepsR.ite
    | with_reducible apply Keeps.ite
    | with_reducible apply KeepsR.next

theorem State.claimMode_keeps {m : Nat} {s₀ : State} (s : State) (o : Origin) (h : Keeps m s₀ s) (hm : Sub 8390207 m) :
    Keeps m s₀ (State.claimMode s o) := by
  unfold State.claimMode
  repeat' first
    | with_reducible assumption
    | (with_reducible refine Sub.of hm ?_); decide
    | with_reducible apply State.complete_keeps
    | with_reducible apply State.answerMode_keeps
    | with_reducible apply State.beginMode_keeps
    | with_reducible apply Keeps.ite

theorem State.releaseMode_keeps {m : Nat} {s₀ : State} (s : State) (o : Origin) (h : Keeps m s₀ s) (hm : Sub 8390207 m) :
    Keeps m s₀ (State.releaseMode s o) := by
  unfold State.releaseMode
  repeat' first
    | with_reducible assumption
    | (with_reducible refine Sub.of hm ?_); decide
    | with_reducible apply State.complete_keeps
    | with_reducible apply State.beginMode_keeps
    | with_reducible apply Keeps.ite

theorem State.runHeld_keeps {m : Nat} {s₀ : State} (s : State) (h : Keeps m s₀ s) (hm : Sub 16777151 m) :
    Keeps m s₀ (State.runHeld s) := by
  unfold State.runHeld
  repeat' first
    | intro _
    | with_reducible assumption
    | (with_reducible refine Sub.of hm ?_); decide
    | with_reducible apply State.modeGo_keeps
    | with_reducible apply State.claimMode_keeps
    | with_reducible apply State.releaseMode_keeps
    | with_reducible apply Keeps.foldl
    | split
    | with_reducible apply Keeps.set_upd

theorem State.afterFlush_keeps {m : Nat} {s₀ : State} (s : State) (q : RstReq) (h : Keeps m s₀ s) (hm : Sub 16777151 m) :
    Keeps m s₀ (State.afterFlush s q) := by
  unfold State.afterFlush
  repeat' first
    | with_reducible assumption
    | (with_reducible refine Sub.of hm ?_); decide
    | with_reducible apply State.setF_keeps
    | with_reducible apply State.beginReset_keeps
    | with_reducible apply Keeps.set_modes

theorem execResetRelease_keeps {m : Nat} {s₀ : State} (s : State) (h : Keeps m s₀ s) (hm : Sub 27 m) :
    KeepsR m s₀ (execResetRelease s) := by
  unfold execResetRelease
  repeat' first
    | with_reducible assumption
    | (with_reducible refine Sub.of hm ?_); decide
    | with_reducible apply State.after_keeps
    | with_reducible apply State.draw_keeps
    | with_reducible apply State.releaseCipher_keeps
    | with_reducible apply State.showUnits_keeps
    | with_reducible apply KeepsR.ite
    | with_reducible apply Keeps.ite
    | with_reducible apply KeepsR.next
    | split
    | with_reducible apply Keeps.set_modes_prf
    | with_reducible apply Keeps.set_modes
    | with_reducible apply Keeps.set_prf

theorem State.endDebounce_keeps {m : Nat} {s₀ : State} (s : State) (entry : Bool) (h : Keeps m s₀ s) (hm : Sub 11 m) :
    Keeps m s₀ (State.endDebounce s entry) := by
  unfold State.endDebounce
  repeat' first
    | with_reducible assumption
    | (with_reducible refine Sub.of hm ?_); decide
    | with_reducible apply State.startStandby_keeps
    | with_reducible apply Keeps.ite
    | with_reducible apply Keeps.set_modes

theorem execStandbyExitDebounce_keeps {m : Nat} {s₀ : State} (s : State) (h : Keeps m s₀ s) (hm : Sub 11 m) :
    KeepsR m s₀ (execStandbyExitDebounce s) := by
  unfold execStandbyExitDebounce
  repeat' first
    | with_reducible assumption
    | (with_reducible refine Sub.of hm ?_); decide
    | with_reducible apply State.endDebounce_keeps
    | with_reducible apply State.after_keeps
    | with_reducible apply KeepsR.ite
    | with_reducible apply Keeps.ite
    | with_reducible apply KeepsR.next

theorem execResetDatapathRequest_keeps {m : Nat} {s₀ : State} (init : Nat) (v : BitVec 32) (s : State) (h : Keeps m s₀ s) (hm : Sub 16777151 m) :
    KeepsR m s₀ (execResetDatapathRequest init v s) := by
  unfold execResetDatapathRequest
  repeat' first
    | with_reducible assumption
    | (with_reducible refine Sub.of hm ?_); decide
    | with_reducible apply State.resetRequest_keeps
    | with_reducible apply KeepsR.next

theorem execStandbyEntryDebounce_keeps {m : Nat} {s₀ : State} (s : State) (h : Keeps m s₀ s) (hm : Sub 11 m) :
    KeepsR m s₀ (execStandbyEntryDebounce s) := by
  unfold execStandbyEntryDebounce
  repeat' first
    | with_reducible assumption
    | (with_reducible refine Sub.of hm ?_); decide
    | with_reducible apply State.endDebounce_keeps
    | with_reducible apply State.after_keeps
    | with_reducible apply KeepsR.ite
    | with_reducible apply Keeps.ite
    | with_reducible apply KeepsR.next

theorem execClaim_keeps {m : Nat} {s₀ : State} (o : Origin) (s : State) (h : Keeps m s₀ s) (hm : Sub 9438783 m) :
    KeepsR m s₀ (execClaim o s) := by
  unfold execClaim
  repeat' first
    | with_reducible assumption
    | (with_reducible refine Sub.of hm ?_); decide
    | with_reducible apply State.holdReq_keeps
    | with_reducible apply State.claimMode_keeps
    | with_reducible apply KeepsR.ite
    | with_reducible apply Keeps.ite
    | with_reducible apply KeepsR.next

theorem execResetColdRequest_keeps {m : Nat} {s₀ : State} (init : Nat) (v : BitVec 32) (s : State) (h : Keeps m s₀ s) (hm : Sub 16777151 m) :
    KeepsR m s₀ (execResetColdRequest init v s) := by
  unfold execResetColdRequest
  repeat' first
    | with_reducible assumption
    | (with_reducible refine Sub.of hm ?_); decide
    | with_reducible apply State.resetRequest_keeps
    | with_reducible apply KeepsR.next

theorem execDResetDone_keeps {m : Nat} {s₀ : State} (s : State) (h : Keeps m s₀ s) (hm : Sub 8810047 m) :
    KeepsR m s₀ (execDResetDone s) := by
  unfold execDResetDone
  repeat' first
    | with_reducible assumption
    | (with_reducible refine Sub.of hm ?_); decide
    | with_reducible apply State.dataRelease_keeps
    | with_reducible apply KeepsR.next
    | split

theorem execHostPwrGoodChange_keeps {m : Nat} {s₀ : State} (level : Bool) (s : State) (h : Keeps m s₀ s) (hm : Sub 11 m) :
    KeepsR m s₀ (execHostPwrGoodChange level s) := by
  unfold execHostPwrGoodChange
  repeat' first
    | with_reducible assumption
    | (with_reducible refine Sub.of hm ?_); decide
    | with_reducible apply State.setF_keeps
    | with_reducible apply KeepsR.ite
    | with_reducible apply Keeps.ite
    | with_reducible apply KeepsR.next
    | with_reducible apply Keeps.set_modes

theorem execRelease_keeps {m : Nat} {s₀ : State} (o : Origin) (s : State) (h : Keeps m s₀ s) (hm : Sub 9438783 m) :
    KeepsR m s₀ (execRelease o s) := by
  unfold execRelease
  repeat' first
    | with_reducible assumption
    | (with_reducible refine Sub.of hm ?_); decide
    | with_reducible apply State.holdReq_keeps
    | with_reducible apply State.releaseMode_keeps
    | with_reducible apply KeepsR.ite
    | with_reducible apply Keeps.ite
    | with_reducible apply KeepsR.next

theorem execFlushDone_keeps {m : Nat} {s₀ : State} (s : State) (h : Keeps m s₀ s) (hm : Sub 16777151 m) :
    KeepsR m s₀ (execFlushDone s) := by
  unfold execFlushDone
  repeat' first
    | with_reducible assumption
    | (with_reducible refine Sub.of hm ?_); decide
    | with_reducible apply State.afterFlush_keeps
    | with_reducible apply KeepsR.ite
    | with_reducible apply Keeps.ite
    | with_reducible apply KeepsR.next
    | split

theorem execFlushTimeout_keeps {m : Nat} {s₀ : State} (s : State) (h : Keeps m s₀ s) (hm : Sub 16777151 m) :
    KeepsR m s₀ (execFlushTimeout s) := by
  unfold execFlushTimeout
  repeat' first
    | with_reducible assumption
    | (with_reducible refine Sub.of hm ?_); decide
    | with_reducible apply State.afterFlush_keeps
    | with_reducible apply State.after_keeps
    | with_reducible apply KeepsR.next
    | split

theorem execResetWarmRequest_keeps {m : Nat} {s₀ : State} (init : Nat) (v : BitVec 32) (s : State) (h : Keeps m s₀ s) (hm : Sub 16777151 m) :
    KeepsR m s₀ (execResetWarmRequest init v s) := by
  unfold execResetWarmRequest
  repeat' first
    | with_reducible assumption
    | (with_reducible refine Sub.of hm ?_); decide
    | with_reducible apply State.resetRequest_keeps
    | with_reducible apply KeepsR.next

end Sys2Proof.Machine
end

