-- ==== Sys2Proof/Laws/KeepBoot.lean ====
section
/-! SUPPORT. What the operations of Machine/Boot.lean can change: each keeps every part of the state that its number does not name,
and the standing properties of `Keeps`. -/

namespace Sys2Proof.Machine

theorem State.putMeasData_keeps {m : Nat} {s₀ : State} (s : State) (b : List Byte) (words : Nat) (h : Keeps m s₀ s) (hm : Sub 3 m) :
    Keeps m s₀ (State.putMeasData s b words) := by
  unfold State.putMeasData
  repeat' first
    | intro _
    | with_reducible assumption
    | (with_reducible refine Sub.of hm ?_); decide
    | with_reducible apply State.setReg_keeps
    | with_reducible apply Keeps.foldl

theorem State.showInactive_keeps {m : Nat} {s₀ : State} (s : State) (h : Keeps m s₀ s) (hm : Sub 3 m) :
    Keeps m s₀ (State.showInactive s) := by
  unfold State.showInactive
  repeat' first
    | with_reducible assumption
    | (with_reducible refine Sub.of hm ?_); decide
    | with_reducible apply State.setF_keeps

theorem State.logMeasure_keeps {m : Nat} {s₀ : State} (s : State) (e : List Byte) (h : Keeps m s₀ s) (hm : Sub 524291 m) :
    Keeps m s₀ (State.logMeasure s e) := by
  unfold State.logMeasure
  repeat' first
    | with_reducible assumption
    | (with_reducible refine Sub.of hm ?_); decide
    | with_reducible apply State.setF_keeps
    | with_reducible apply Keeps.ite
    | with_reducible apply Keeps.set_boot

theorem State.extend_keeps {m : Nat} {s₀ : State} (s : State) (i : Nat) (event : Nat) (typ : Nat) (index : Nat) (version : Nat) (build : Nat) (d : List Byte) (h : Keeps m s₀ s) (hm : Sub 524291 m) :
    Keeps m s₀ (State.extend s i event typ index version build d) := by
  unfold State.extend
  repeat' first
    | with_reducible assumption
    | (with_reducible refine Sub.of hm ?_); decide
    | with_reducible apply State.logMeasure_keeps
    | with_reducible apply Keeps.set_boot

theorem State.deriveAlias_keeps {m : Nat} {s₀ : State} (s : State) (h : Keeps m s₀ s) (hm : Sub 524288 m) :
    Keeps m s₀ (State.deriveAlias s) := by
  unfold State.deriveAlias
  repeat' first
    | with_reducible assumption
    | (with_reducible refine Sub.of hm ?_); decide
    | with_reducible apply Keeps.set_boot

theorem State.measureImage_keeps {m : Nat} {s₀ : State} (s : State) (store : Nat) (event : Nat) (h : Keeps m s₀ s) (hm : Sub 524291 m) :
    Keeps m s₀ (State.measureImage s store event) := by
  unfold State.measureImage
  repeat' first
    | intro _
    | with_reducible assumption
    | (with_reducible refine Sub.of hm ?_); decide
    | with_reducible apply State.extend_keeps
    | with_reducible apply State.deriveAlias_keeps
    | with_reducible apply Keeps.ite
    | with_reducible apply Keeps.foldl

theorem execRomHandover_keeps {m : Nat} {s₀ : State} (s : State) (h : Keeps m s₀ s) (hm : Sub 524299 m) :
    KeepsR m s₀ (execRomHandover s) := by
  unfold execRomHandover
  repeat' first
    | with_reducible assumption
    | (with_reducible refine Sub.of hm ?_); decide
    | with_reducible apply State.setF_keeps
    | with_reducible apply State.showInactive_keeps
    | with_reducible apply State.measureImage_keeps
    | with_reducible apply KeepsR.ite
    | with_reducible apply Keeps.ite
    | with_reducible apply KeepsR.next
    | split
    | with_reducible apply Keeps.set_modes_boot
    | with_reducible apply Keeps.set_boot
    | with_reducible apply Keeps.set_modes

theorem State.finishAct_keeps {m : Nat} {s₀ : State} (s : State) (a : ActSt) (h : Keeps m s₀ s) (hm : Sub 16777151 m) :
    Keeps m s₀ (State.finishAct s a) := by
  unfold State.finishAct
  repeat' first
    | with_reducible assumption
    | (with_reducible refine Sub.of hm ?_); decide
    | with_reducible apply State.setF_keeps
    | with_reducible apply State.updEnd_keeps
    | with_reducible apply State.eraseHeader_keeps
    | with_reducible apply State.runHeld_keeps
    | with_reducible apply State.showSafelight_keeps
    | with_reducible apply State.nveActivated_keeps
    | with_reducible apply Keeps.ite
    | split
    | with_reducible apply Keeps.set_nve_upd
    | with_reducible apply Keeps.set_nve
    | with_reducible apply Keeps.set_upd

theorem State.completeBoot_keeps {m : Nat} {s₀ : State} (s : State) (h : Keeps m s₀ s) (hm : Sub 11534271 m) :
    Keeps m s₀ (State.completeBoot s) := by
  unfold State.completeBoot
  repeat' first
    | with_reducible assumption
    | (with_reducible refine Sub.of hm ?_); decide
    | with_reducible apply State.setF_keeps
    | with_reducible apply State.hostReady_keeps
    | with_reducible apply State.commitMode_keeps
    | with_reducible apply State.startStandby_keeps
    | with_reducible apply Keeps.ite
    | with_reducible apply Keeps.set_modes_boot
    | with_reducible apply Keeps.set_boot
    | with_reducible apply Keeps.set_modes

theorem execBootDone_keeps {m : Nat} {s₀ : State} (init : Nat) (s : State) (h : Keeps m s₀ s) (hm : Sub 16777151 m) :
    KeepsR m s₀ (execBootDone init s) := by
  unfold execBootDone
  repeat' first
    | with_reducible assumption
    | (with_reducible refine Sub.of hm ?_); decide
    | with_reducible apply State.blockAccess_keeps
    | with_reducible apply State.finishAct_keeps
    | with_reducible apply State.completeBoot_keeps
    | with_reducible apply KeepsR.ite
    | with_reducible apply Keeps.ite
    | with_reducible apply KeepsR.next
    | split

theorem State.extendFree_keeps {m : Nat} {s₀ : State} (s : State) (i : Nat) (event : Nat) (h : Keeps m s₀ s) (hm : Sub 524291 m) :
    Keeps m s₀ (State.extendFree s i event) := by
  unfold State.extendFree
  repeat' first
    | with_reducible assumption
    | (with_reducible refine Sub.of hm ?_); decide
    | with_reducible apply State.draw_keeps
    | with_reducible apply State.extend_keeps

theorem State.measOp_keeps {m : Nat} {s₀ : State} (s : State) (init : Nat) (op : Nat) (n : Nat) (f : State → State × Nat) (h : Keeps m s₀ s) (hf : ∀ x0, Keeps m s₀ x0 → Keeps m s₀ (f x0).1) (hm : Sub 8389651 m) :
    Keeps m s₀ (State.measOp s init op n f) := by
  unfold State.measOp
  repeat' first
    | with_reducible assumption
    | (with_reducible refine Sub.of hm ?_); decide
    | with_reducible apply hf
    | with_reducible apply State.blockAccess_keeps
    | with_reducible apply State.setF_keeps
    | with_reducible apply Keeps.ite

theorem execMeasRead_keeps {m : Nat} {s₀ : State} (init : Nat) (n : BitVec 10) (s : State) (h : Keeps m s₀ s) (hm : Sub 8389651 m) :
    KeepsR m s₀ (execMeasRead init n s) := by
  unfold execMeasRead
  repeat' first
    | intro _
    | with_reducible assumption
    | (with_reducible refine Sub.of hm ?_); decide
    | with_reducible apply State.measOp_keeps
    | with_reducible apply State.putMeasData_keeps
    | with_reducible apply KeepsR.ite
    | with_reducible apply Keeps.ite
    | with_reducible apply Keeps.ite1
    | with_reducible apply Keeps.ite2
    | with_reducible apply KeepsR.next

theorem execMeasExtend_keeps {m : Nat} {s₀ : State} (init : Nat) (n : BitVec 10) (s : State) (h : Keeps m s₀ s) (hm : Sub 8913939 m) :
    KeepsR m s₀ (execMeasExtend init n s) := by
  unfold execMeasExtend
  repeat' first
    | intro _
    | with_reducible assumption
    | (with_reducible refine Sub.of hm ?_); decide
    | with_reducible apply State.measOp_keeps
    | with_reducible apply State.extend_keeps
    | with_reducible apply KeepsR.ite
    | with_reducible apply Keeps.ite
    | with_reducible apply Keeps.ite1
    | with_reducible apply Keeps.ite2
    | with_reducible apply KeepsR.next

theorem execMeasLogRead_keeps {m : Nat} {s₀ : State} (init : Nat) (n : BitVec 10) (s : State) (h : Keeps m s₀ s) (hm : Sub 8389651 m) :
    KeepsR m s₀ (execMeasLogRead init n s) := by
  unfold execMeasLogRead
  repeat' first
    | intro _
    | with_reducible assumption
    | (with_reducible refine Sub.of hm ?_); decide
    | with_reducible apply State.measOp_keeps
    | with_reducible apply State.putMeasData_keeps
    | with_reducible apply KeepsR.next
    | split

theorem State.setBoot_keeps {m : Nat} {s₀ : State} (s : State) (b : BootSt) (h : Keeps m s₀ s) (hm : Sub 524288 m) :
    Keeps m s₀ (State.setBoot s b) := by
  unfold State.setBoot
  repeat' first
    | with_reducible assumption
    | (with_reducible refine Sub.of hm ?_); decide
    | with_reducible apply Keeps.set_boot

theorem execRecoveryWindowClose_keeps {m : Nat} {s₀ : State} (s : State) (h : Keeps m s₀ s) (hm : Sub 524288 m) :
    KeepsR m s₀ (execRecoveryWindowClose s) := by
  unfold execRecoveryWindowClose
  repeat' first
    | with_reducible assumption
    | (with_reducible refine Sub.of hm ?_); decide
    | with_reducible apply State.after_keeps
    | with_reducible apply State.setBoot_keeps
    | with_reducible apply KeepsR.next
    | split

theorem State.setHostPush_keeps {m : Nat} {s₀ : State} (s : State) (on : Bool) (h : Keeps m s₀ s) (hm : Sub 8785855 m) :
    Keeps m s₀ (State.setHostPush s on) := by
  unfold State.setHostPush
  repeat' first
    | with_reducible assumption
    | (with_reducible refine Sub.of hm ?_); decide
    | with_reducible apply State.enterLinkReset_keeps
    | with_reducible apply Keeps.ite
    | with_reducible apply Keeps.set_modes

theorem State.enterDarkroom_keeps {m : Nat} {s₀ : State} (s : State) (h : Keeps m s₀ s) (hm : Sub 11407287 m) :
    Keeps m s₀ (State.enterDarkroom s) := by
  unfold State.enterDarkroom
  repeat' first
    | with_reducible assumption
    | (with_reducible refine Sub.of hm ?_); decide
    | with_reducible apply State.enterLinkReset_keeps
    | with_reducible apply State.setF_keeps
    | with_reducible apply State.showMode_keeps
    | with_reducible apply State.setBoot_keeps

theorem State.setFail_keeps {m : Nat} {s₀ : State} (s : State) (store : Nat) (reason : Nat) (h : Keeps m s₀ s) (hm : Sub 3 m) :
    Keeps m s₀ (State.setFail s store reason) := by
  unfold State.setFail
  repeat' first
    | with_reducible assumption
    | (with_reducible refine Sub.of hm ?_); decide
    | with_reducible apply State.setF_keeps

theorem State.firstWhole_keeps {m : Nat} {s₀ : State} (s : State) (y_ : List Nat) (h : Keeps m s₀ s) (hm : Sub 3 m) :
    Keeps m s₀ (State.firstWhole s y_).1 := by
  induction y_ generalizing s with
  | nil => exact h
  | cons a l ih =>
    unfold State.firstWhole
    repeat' first
      | with_reducible assumption
      | (with_reducible refine Sub.of hm ?_); decide
      | with_reducible apply ih
      | with_reducible apply State.setFail_keeps
      | with_reducible apply Keeps.ite
      | with_reducible apply Keeps.ite1
      | with_reducible apply Keeps.ite2

theorem State.chooseMram_keeps {m : Nat} {s₀ : State} (s : State) (h : Keeps m s₀ s) (hm : Sub 3 m) :
    Keeps m s₀ (State.chooseMram s).1 := by
  unfold State.chooseMram
  repeat' first
    | with_reducible assumption
    | (with_reducible refine Sub.of hm ?_); decide
    | with_reducible apply State.setFail_keeps
    | with_reducible apply State.firstWhole_keeps
    | with_reducible apply Keeps.ite

theorem State.choose_keeps {m : Nat} {s₀ : State} (s : State) (store : Nat) (path : Nat) (h : Keeps m s₀ s) (hm : Sub 524288 m) :
    Keeps m s₀ (State.choose s store path) := by
  unfold State.choose
  repeat' first
    | with_reducible assumption
    | (with_reducible refine Sub.of hm ?_); decide
    | with_reducible apply State.setBoot_keeps

theorem State.tryGolden_keeps {m : Nat} {s₀ : State} (s : State) (h : Keeps m s₀ s) (hm : Sub 3 m) :
    Keeps m s₀ (State.tryGolden s).1 := by
  unfold State.tryGolden
  repeat' first
    | with_reducible assumption
    | (with_reducible refine Sub.of hm ?_); decide
    | with_reducible apply State.setFail_keeps
    | with_reducible apply Keeps.ite
    | with_reducible apply Keeps.ite1
    | with_reducible apply Keeps.ite2

theorem State.bootFrom_keeps {m : Nat} {s₀ : State} (s : State) (y_ : List BootSrc) (h : Keeps m s₀ s) (hm : Sub 11407295 m) :
    Keeps m s₀ (State.bootFrom s y_) := by
  induction y_ generalizing s with
  | nil => exact State.enterDarkroom_keeps _ h (Sub.of hm (by decide))
  | cons a l ih =>
    cases a <;> simp only [State.bootFrom] <;>
    repeat' first
      | with_reducible assumption
      | (with_reducible refine Sub.of hm ?_); decide
      | with_reducible apply ih
      | with_reducible apply State.enterDarkroom_keeps
      | with_reducible apply State.chooseMram_keeps
      | with_reducible apply State.choose_keeps
      | with_reducible apply State.tryGolden_keeps
      | with_reducible apply State.setBoot_keeps
      | with_reducible apply State.setHostPush_keeps
      | with_reducible apply Keeps.ite
      | split
      | with_reducible apply Keeps.of1 ‹_›

theorem State.sourceFailed_keeps {m : Nat} {s₀ : State} (s : State) (h : Keeps m s₀ s) (hm : Sub 11407295 m) :
    Keeps m s₀ (State.sourceFailed s) := by
  unfold State.sourceFailed
  repeat' first
    | with_reducible assumption
    | (with_reducible refine Sub.of hm ?_); decide
    | with_reducible apply State.setBoot_keeps
    | with_reducible apply State.setHostPush_keeps
    | with_reducible apply State.bootFrom_keeps
    | with_reducible apply Keeps.ite

theorem State.startTransfer_keeps {m : Nat} {s₀ : State} (s : State) (src : BootSrc) (h : Keeps m s₀ s) (hm : Sub 524288 m) :
    Keeps m s₀ (State.startTransfer s src) := by
  unfold State.startTransfer
  repeat' first
    | with_reducible assumption
    | (with_reducible refine Sub.of hm ?_); decide
    | with_reducible apply State.setBoot_keeps

theorem execRecGo_keeps {m : Nat} {s₀ : State} (fn : Nat) (v : BitVec 32) (s : State) (h : Keeps m s₀ s) (hm : Sub 8912896 m) :
    KeepsR m s₀ (execRecGo fn v s) := by
  unfold execRecGo
  repeat' first
    | with_reducible assumption
    | (with_reducible refine Sub.of hm ?_); decide
    | with_reducible apply State.startTransfer_keeps
    | with_reducible apply State.emit_keeps
    | with_reducible apply State.setBoot_keeps
    | with_reducible apply KeepsR.ite
    | with_reducible apply Keeps.ite
    | with_reducible apply KeepsR.next
    | split

theorem execSourceWaitTimeout_keeps {m : Nat} {s₀ : State} (s : State) (h : Keeps m s₀ s) (hm : Sub 11407295 m) :
    KeepsR m s₀ (execSourceWaitTimeout s) := by
  unfold execSourceWaitTimeout
  repeat' first
    | with_reducible assumption
    | (with_reducible refine Sub.of hm ?_); decide
    | with_reducible apply State.sourceFailed_keeps
    | with_reducible apply State.after_keeps
    | with_reducible apply KeepsR.ite
    | with_reducible apply Keeps.ite
    | with_reducible apply KeepsR.next
    | split

theorem execBootWatchdog_keeps {m : Nat} {s₀ : State} (s : State) (h : Keeps m s₀ s) (hm : Sub 16777151 m) :
    KeepsR m s₀ (execBootWatchdog s) := by
  unfold execBootWatchdog
  repeat' first
    | with_reducible assumption
    | (with_reducible refine Sub.of hm ?_); decide
    | with_reducible apply State.setF_keeps
    | with_reducible apply State.beginReset_keeps
    | with_reducible apply State.after_keeps
    | with_reducible apply KeepsR.ite
    | with_reducible apply Keeps.ite
    | with_reducible apply KeepsR.next
    | split

theorem execDarkroomRetry_keeps {m : Nat} {s₀ : State} (s : State) (h : Keeps m s₀ s) (hm : Sub 16777151 m) :
    KeepsR m s₀ (execDarkroomRetry s) := by
  unfold execDarkroomRetry
  repeat' first
    | with_reducible assumption
    | (with_reducible refine Sub.of hm ?_); decide
    | with_reducible apply State.after_keeps
    | with_reducible apply State.setF_keeps
    | with_reducible apply State.beginReset_keeps
    | with_reducible apply KeepsR.next
    | split

theorem execTftpImageWrite_keeps {m : Nat} {s₀ : State} (s : State) (h : Keeps m s₀ s) (hm : Sub 524288 m) :
    KeepsR m s₀ (execTftpImageWrite s) := by
  unfold execTftpImageWrite
  repeat' first
    | with_reducible assumption
    | (with_reducible refine Sub.of hm ?_); decide
    | with_reducible apply State.startTransfer_keeps
    | with_reducible apply KeepsR.ite
    | with_reducible apply Keeps.ite
    | with_reducible apply KeepsR.next
    | split

theorem execRomStart_keeps {m : Nat} {s₀ : State} (straps : BitVec 5) (s : State) (h : Keeps m s₀ s) (hm : Sub 11407295 m) :
    KeepsR m s₀ (execRomStart straps s) := by
  unfold execRomStart
  repeat' first
    | with_reducible assumption
    | (with_reducible refine Sub.of hm ?_); decide
    | with_reducible apply State.setF_keeps
    | with_reducible apply State.setBoot_keeps
    | with_reducible apply State.extend_keeps
    | with_reducible apply State.extendFree_keeps
    | with_reducible apply State.bootFrom_keeps
    | with_reducible apply KeepsR.ite
    | with_reducible apply Keeps.ite
    | with_reducible apply KeepsR.next

theorem State.recEnd_keeps {m : Nat} {s₀ : State} (s : State) (src : BootSrc) (reason : Nat) (h : Keeps m s₀ s) (hm : Sub 524288 m) :
    Keeps m s₀ (State.recEnd s src reason) := by
  unfold State.recEnd
  repeat' first
    | with_reducible assumption
    | (with_reducible refine Sub.of hm ?_); decide
    | with_reducible apply State.setBoot_keeps
    | with_reducible apply Keeps.ite

theorem execOdferImageOffer_keeps {m : Nat} {s₀ : State} (link : Fin 2) (s : State) (h : Keeps m s₀ s) (hm : Sub 524288 m) :
    KeepsR m s₀ (execOdferImageOffer link s) := by
  unfold execOdferImageOffer
  repeat' first
    | with_reducible assumption
    | (with_reducible refine Sub.of hm ?_); decide
    | with_reducible apply State.startTransfer_keeps
    | with_reducible apply KeepsR.ite
    | with_reducible apply Keeps.ite
    | with_reducible apply KeepsR.next

theorem State.putImage_keeps {m : Nat} {s₀ : State} (s : State) (slot : Nat) (image : List Byte) (h : Keeps m s₀ s) (hm : Sub 4 m) :
    Keeps m s₀ (State.putImage s slot image) := by
  unfold State.putImage
  repeat' first
    | with_reducible assumption
    | (with_reducible refine Sub.of hm ?_); decide
    | with_reducible apply State.setBytes_keeps
    | with_reducible apply Keeps.ite

theorem execImageReceived_keeps {m : Nat} {s₀ : State} (image : List Byte) (s : State) (h : Keeps m s₀ s) (hm : Sub 16777151 m) :
    KeepsR m s₀ (execImageReceived image s) := by
  unfold execImageReceived
  repeat' first
    | with_reducible assumption
    | (with_reducible refine Sub.of hm ?_); decide
    | with_reducible apply State.putImage_keeps
    | with_reducible apply State.recEnd_keeps
    | with_reducible apply State.setFail_keeps
    | with_reducible apply State.setBoot_keeps
    | with_reducible apply State.beginReset_keeps
    | with_reducible apply State.choose_keeps
    | with_reducible apply State.setHostPush_keeps
    | with_reducible apply State.sourceFailed_keeps
    | with_reducible apply KeepsR.ite
    | with_reducible apply Keeps.ite
    | with_reducible apply KeepsR.next
    | split

end Sys2Proof.Machine
end

