-- ==== Sys2Proof/Laws/KeepUpdate.lean ====
section
/-! SUPPORT. What the operations of Machine/Update.lean can change: each keeps every part of the state that its number does not name,
and the standing properties of `Keeps`. -/

namespace Sys2Proof.Machine

theorem State.updTaken_keeps {m : Nat} {s₀ : State} (s : State) (init : Nat) (op : Nat) (v : Word) (h : Keeps m s₀ s) (hm : Sub 8389651 m) :
    Keeps m s₀ (State.updTaken s init op v) := by
  unfold State.updTaken
  try dsimp only
  repeat' first
    | intro _
    | with_reducible assumption
    | (with_reducible refine Sub.of hm ?_); decide
    | with_reducible apply State.setF_keeps
    | with_reducible apply State.blockAccess_keeps
    | with_reducible apply Keeps.foldl
    | split
    | with_reducible apply Keeps.of1 ‹_›
    | dsimp only

theorem State.updOp_keeps {m : Nat} {s₀ : State} (s : State) (init : Nat) (op : Nat) (v : Word) (f : State → State) (prepare : Bool) (h : Keeps m s₀ s) (hf : ∀ x0, Keeps m s₀ x0 → Keeps m s₀ (f x0)) (hm : Sub 8389651 m) :
    Keeps m s₀ (State.updOp s init op v f prepare) := by
  unfold State.updOp
  repeat' first
    | with_reducible assumption
    | (with_reducible refine Sub.of hm ?_); decide
    | with_reducible apply hf
    | with_reducible apply State.blockAccess_keeps
    | with_reducible apply State.updTaken_keeps
    | with_reducible apply State.updEnd_keeps
    | with_reducible apply Keeps.ite

theorem State.blow_keeps {m : Nat} {s₀ : State} (s : State) (fu : Fuse) (h : Keeps m s₀ s) (hfu : FuseKept s.fuse fu) (hm : Sub 16777219 m) :
    Keeps m s₀ (State.blow s fu) := by
  unfold State.blow
  split
  · exact State.updEnd_keeps _ _ _ (h.set_fuse (Sub.of hm (by decide)) fu hfu) (Sub.of hm (by decide))
  · exact State.updEnd_keeps _ _ _ h (Sub.of hm (by decide))

theorem execRevokeKey_keeps {m : Nat} {s₀ : State} (init : Nat) (v : Word) (s : State) (h : Keeps m s₀ s) (hm : Sub 25166867 m) :
    KeepsR m s₀ (execRevokeKey init v s) := by
  unfold execRevokeKey
  refine KeepsR.next (State.updOp_keeps _ _ _ _ _ _ h (fun t ht => ?_) (Sub.of hm (by decide)))
  exact State.blow_keeps _ _ ht ⟨rfl, rfl, rfl, rfl, rfl, rfl, rfl, rfl, Nat.le_refl _, fun i hi => natBit_natSetBit _ _ _ hi⟩
    (Sub.of hm (by decide))

theorem State.updRead_keeps {m : Nat} {s₀ : State} (s : State) (n : Nat) (h : Keeps m s₀ s) (hm : Sub 1043 m) :
    Keeps m s₀ (State.updRead s n).1 := by
  unfold State.updRead
  repeat' first
    | with_reducible assumption
    | (with_reducible refine Sub.of hm ?_); decide
    | with_reducible apply State.memAccess_keeps
    | with_reducible apply Keeps.ite

theorem State.freshNonce_keeps {m : Nat} {s₀ : State} (s : State) (h : Keeps m s₀ s) (hm : Sub 3 m) :
    Keeps m s₀ (State.freshNonce s) := by
  unfold State.freshNonce
  repeat' first
    | with_reducible assumption
    | (with_reducible refine Sub.of hm ?_); decide
    | with_reducible apply State.draw_keeps
    | with_reducible apply State.setReg_keeps

theorem execOwnerUnlock_keeps {m : Nat} {s₀ : State} (init : Nat) (v : Word) (s : State) (h : Keeps m s₀ s) (hm : Sub 8389651 m) :
    KeepsR m s₀ (execOwnerUnlock init v s) := by
  unfold execOwnerUnlock
  repeat' first
    | intro _
    | with_reducible assumption
    | (with_reducible refine Sub.of hm ?_); decide
    | with_reducible apply State.updOp_keeps
    | with_reducible apply State.updRead_keeps
    | with_reducible apply State.freshNonce_keeps
    | with_reducible apply State.updEnd_keeps
    | with_reducible apply State.setF_keeps
    | with_reducible apply KeepsR.ite
    | with_reducible apply Keeps.ite
    | with_reducible apply KeepsR.next
    | split
    | with_reducible apply Keeps.of1 ‹_›

theorem State.readapt_keeps {m : Nat} {s₀ : State} (s : State) (old : Nat) (new : Nat) (h : Keeps m s₀ s) (hm : Sub 8392247 m) :
    Keeps m s₀ (State.readapt s old new) := by
  unfold State.readapt
  repeat' first
    | intro _
    | with_reducible assumption
    | (with_reducible refine Sub.of hm ?_); decide
    | with_reducible apply State.linkChanged_keeps
    | with_reducible apply State.portToDown_keeps
    | with_reducible apply Keeps.ite
    | with_reducible apply Keeps.foldl

theorem State.actRefused_keeps {m : Nat} {s₀ : State} (s : State) (member : Bool) (reason : Nat) (h : Keeps m s₀ s) (hm : Sub 3 m) :
    Keeps m s₀ (State.actRefused s member reason) := by
  unfold State.actRefused
  repeat' first
    | with_reducible assumption
    | (with_reducible refine Sub.of hm ?_); decide
    | with_reducible apply State.updEnd_keeps
    | with_reducible apply State.setF_keeps
    | with_reducible apply Keeps.ite

theorem State.orderMembers_keeps {m : Nat} {s₀ : State} (s : State) (kind : Nat) (a : Nat) (b : Nat) (h : Keeps m s₀ s) (hm : Sub 8388608 m) :
    Keeps m s₀ (State.orderMembers s kind a b) := by
  unfold State.orderMembers
  repeat' first
    | intro _
    | with_reducible assumption
    | (with_reducible refine Sub.of hm ?_); decide
    | with_reducible apply State.emit_keeps
    | with_reducible apply Keeps.foldl

theorem State.actReset_keeps {m : Nat} {s₀ : State} (s : State) (h : Keeps m s₀ s) (hm : Sub 16777151 m) :
    Keeps m s₀ (State.actReset s) := by
  unfold State.actReset
  repeat' first
    | with_reducible assumption
    | (with_reducible refine Sub.of hm ?_); decide
    | with_reducible apply State.reloadCores_keeps
    | with_reducible apply State.beginReset_keeps
    | with_reducible apply Keeps.ite

theorem State.rollBack_keeps {m : Nat} {s₀ : State} (s : State) (a : ActSt) (h : Keeps m s₀ s) (hm : Sub 16777151 m) :
    Keeps m s₀ (State.rollBack s a) := by
  unfold State.rollBack
  repeat' first
    | with_reducible assumption
    | (with_reducible refine Sub.of hm ?_); decide
    | with_reducible apply State.orderMembers_keeps
    | with_reducible apply State.setF_keeps
    | with_reducible apply State.extendFree_keeps
    | with_reducible apply State.deriveAlias_keeps
    | with_reducible apply State.actReset_keeps
    | with_reducible apply State.readapt_keeps
    | with_reducible apply Keeps.ite
    | with_reducible apply Keeps.set_fcx_boot_upd
    | with_reducible apply Keeps.set_boot
    | with_reducible apply Keeps.set_fcx
    | with_reducible apply Keeps.set_upd

theorem execBootFail_keeps {m : Nat} {s₀ : State} (by_ : FailBy) (s : State) (h : Keeps m s₀ s) (hm : Sub 16777151 m) :
    KeepsR m s₀ (execBootFail by_ s) := by
  unfold execBootFail
  repeat' first
    | with_reducible assumption
    | (with_reducible refine Sub.of hm ?_); decide
    | with_reducible apply State.blockAccess_keeps
    | with_reducible apply State.rollBack_keeps
    | with_reducible apply KeepsR.ite
    | with_reducible apply Keeps.ite
    | with_reducible apply KeepsR.next
    | split

theorem State.setSequence_keeps {m : Nat} {s₀ : State} (s : State) (h1 : Option (List Byte)) (h : Keeps m s₀ s) (hm : Sub 1048579 m) :
    Keeps m s₀ (State.setSequence s h1) := by
  unfold State.setSequence
  repeat' first
    | with_reducible assumption
    | (with_reducible refine Sub.of hm ?_); decide
    | with_reducible apply State.setF_keeps
    | with_reducible apply Keeps.ite
    | with_reducible apply Keeps.set_upd

theorem execUpdOpen_keeps {m : Nat} {s₀ : State} (init : Nat) (v : Word) (s : State) (h : Keeps m s₀ s) (hm : Sub 9438231 m) :
    KeepsR m s₀ (execUpdOpen init v s) := by
  unfold execUpdOpen
  repeat' first
    | intro _
    | with_reducible assumption
    | (with_reducible refine Sub.of hm ?_); decide
    | with_reducible apply State.updOp_keeps
    | with_reducible apply State.updEnd_keeps
    | with_reducible apply State.setSequence_keeps
    | with_reducible apply State.eraseHeader_keeps
    | with_reducible apply KeepsR.ite
    | with_reducible apply Keeps.ite
    | with_reducible apply KeepsR.next

theorem State.updPut_keeps {m : Nat} {s₀ : State} (s : State) (h1 : List Byte) (off : Nat) (b : List Byte) (h : Keeps m s₀ s) (hm : Sub 1048583 m) :
    Keeps m s₀ (State.updPut s h1 off b) := by
  unfold State.updPut
  repeat' first
    | with_reducible assumption
    | (with_reducible refine Sub.of hm ?_); decide
    | with_reducible apply State.setSequence_keeps
    | with_reducible apply State.setBytes_keeps
    | with_reducible apply Keeps.ite

theorem execUpdWrite_keeps {m : Nat} {s₀ : State} (init : Nat) (v : Word) (s : State) (h : Keeps m s₀ s) (hm : Sub 9438231 m) :
    KeepsR m s₀ (execUpdWrite init v s) := by
  unfold execUpdWrite
  repeat' first
    | intro _
    | with_reducible assumption
    | (with_reducible refine Sub.of hm ?_); decide
    | with_reducible apply State.updOp_keeps
    | with_reducible apply State.updEnd_keeps
    | with_reducible apply State.updRead_keeps
    | with_reducible apply State.updPut_keeps
    | with_reducible apply KeepsR.ite
    | with_reducible apply Keeps.ite
    | with_reducible apply KeepsR.next
    | split
    | with_reducible apply Keeps.of1 ‹_›

theorem execUpdClose_keeps {m : Nat} {s₀ : State} (init : Nat) (v : Word) (s : State) (h : Keeps m s₀ s) (hm : Sub 9438231 m) :
    KeepsR m s₀ (execUpdClose init v s) := by
  unfold execUpdClose
  repeat' first
    | intro _
    | with_reducible assumption
    | (with_reducible refine Sub.of hm ?_); decide
    | with_reducible apply State.updOp_keeps
    | with_reducible apply State.updEnd_keeps
    | with_reducible apply State.setF_keeps
    | with_reducible apply State.setSequence_keeps
    | with_reducible apply State.setBytes_keeps
    | with_reducible apply KeepsR.ite
    | with_reducible apply Keeps.ite
    | with_reducible apply KeepsR.next
    | split

theorem State.prepareAct_keeps {m : Nat} {s₀ : State} (s : State) (member : Bool) (h : Keeps m s₀ s) (hm : Sub 9700407 m) :
    Keeps m s₀ (State.prepareAct s member) := by
  unfold State.prepareAct
  repeat' first
    | with_reducible assumption
    | (with_reducible refine Sub.of hm ?_); decide
    | with_reducible apply State.actRefused_keeps
    | with_reducible apply State.setF_keeps
    | with_reducible apply State.nvePause_keeps
    | with_reducible apply State.orderMembers_keeps
    | with_reducible apply Keeps.ite
    | with_reducible apply Keeps.set_upd

theorem execUpdActivate_keeps {m : Nat} {s₀ : State} (init : Nat) (v : Word) (prepare : Bool) (s : State) (h : Keeps m s₀ s) (hm : Sub 9700407 m) :
    KeepsR m s₀ (execUpdActivate init v prepare s) := by
  unfold execUpdActivate
  repeat' first
    | intro _
    | with_reducible assumption
    | (with_reducible refine Sub.of hm ?_); decide
    | with_reducible apply State.updOp_keeps
    | with_reducible apply State.prepareAct_keeps
    | with_reducible apply KeepsR.next

theorem execUpdPrefer_keeps {m : Nat} {s₀ : State} (init : Nat) (v : Word) (s : State) (h : Keeps m s₀ s) (hm : Sub 8389651 m) :
    KeepsR m s₀ (execUpdPrefer init v s) := by
  unfold execUpdPrefer
  repeat' first
    | intro _
    | with_reducible assumption
    | (with_reducible refine Sub.of hm ?_); decide
    | with_reducible apply State.updOp_keeps
    | with_reducible apply State.updEnd_keeps
    | with_reducible apply State.setF_keeps
    | with_reducible apply KeepsR.ite
    | with_reducible apply Keeps.ite
    | with_reducible apply KeepsR.next

theorem execUpdInvalidate_keeps {m : Nat} {s₀ : State} (init : Nat) (v : Word) (s : State) (h : Keeps m s₀ s) (hm : Sub 9438231 m) :
    KeepsR m s₀ (execUpdInvalidate init v s) := by
  unfold execUpdInvalidate
  repeat' first
    | intro _
    | with_reducible assumption
    | (with_reducible refine Sub.of hm ?_); decide
    | with_reducible apply State.updOp_keeps
    | with_reducible apply State.updEnd_keeps
    | with_reducible apply State.setSequence_keeps
    | with_reducible apply State.eraseHeader_keeps
    | with_reducible apply KeepsR.next

theorem execAdvanceSvn_keeps {m : Nat} {s₀ : State} (init : Nat) (v : Word) (s : State) (h : Keeps m s₀ s) (hm : Sub 25166867 m) :
    KeepsR m s₀ (execAdvanceSvn init v s) := by
  unfold execAdvanceSvn
  refine KeepsR.next (State.updOp_keeps _ _ _ _ _ _ h (fun t ht => ?_) (Sub.of hm (by decide)))
  dsimp only
  split
  · exact State.updEnd_keeps _ _ _ ht (Sub.of hm (by decide))
  · rename_i hn
    exact State.blow_keeps _ _ ht ⟨rfl, rfl, rfl, rfl, rfl, rfl, rfl, rfl, Nat.le_of_not_lt hn, fun i hi => hi⟩ (Sub.of hm (by decide))

theorem execEnrollOwner_keeps {m : Nat} {s₀ : State} (init : Nat) (v : Word) (s : State) (h : Keeps m s₀ s) (hm : Sub 8913939 m) :
    KeepsR m s₀ (execEnrollOwner init v s) := by
  unfold execEnrollOwner
  repeat' first
    | intro _
    | with_reducible assumption
    | (with_reducible refine Sub.of hm ?_); decide
    | with_reducible apply State.updOp_keeps
    | with_reducible apply State.updEnd_keeps
    | with_reducible apply State.updRead_keeps
    | with_reducible apply State.setF_keeps
    | with_reducible apply KeepsR.ite
    | with_reducible apply Keeps.ite
    | with_reducible apply KeepsR.next
    | split
    | with_reducible apply Keeps.of1 ‹_›
    | with_reducible apply Keeps.set_boot

theorem execOwnerLock_keeps {m : Nat} {s₀ : State} (init : Nat) (v : Word) (s : State) (h : Keeps m s₀ s) (hm : Sub 8389651 m) :
    KeepsR m s₀ (execOwnerLock init v s) := by
  unfold execOwnerLock
  repeat' first
    | intro _
    | with_reducible assumption
    | (with_reducible refine Sub.of hm ?_); decide
    | with_reducible apply State.updOp_keeps
    | with_reducible apply State.updEnd_keeps
    | with_reducible apply State.setF_keeps
    | with_reducible apply KeepsR.ite
    | with_reducible apply Keeps.ite
    | with_reducible apply KeepsR.next

theorem State.newCoreImages_keeps {m : Nat} {s₀ : State} (s : State) (store : Nat) (h : Keeps m s₀ s) (hm : Sub 32768 m) :
    Keeps m s₀ (State.newCoreImages s store) := by
  unfold State.newCoreImages
  repeat' first
    | intro _
    | with_reducible assumption
    | (with_reducible refine Sub.of hm ?_); decide
    | with_reducible apply State.draw_keeps
    | with_reducible apply State.setCore_keeps
    | with_reducible apply Keeps.ite
    | with_reducible apply Keeps.foldl
    | split
    | dsimp only

theorem State.commitAct_keeps {m : Nat} {s₀ : State} (s : State) (a : ActSt) (h : Keeps m s₀ s) (hm : Sub 16777151 m) :
    Keeps m s₀ (State.commitAct s a) := by
  unfold State.commitAct
  repeat' first
    | intro _
    | with_reducible assumption
    | (with_reducible refine Sub.of hm ?_); decide
    | with_reducible apply State.showSafelight_keeps
    | with_reducible apply State.setF_keeps
    | with_reducible apply State.actReset_keeps
    | with_reducible apply State.readapt_keeps
    | with_reducible apply State.newCoreImages_keeps
    | with_reducible apply State.measureImage_keeps
    | with_reducible apply State.extend_keeps
    | with_reducible apply State.bump_keeps
    | with_reducible apply State.extendFree_keeps
    | with_reducible apply Keeps.ite
    | with_reducible apply Keeps.foldl
    | with_reducible apply Keeps.set_boot_upd
    | with_reducible apply Keeps.set_boot
    | with_reducible apply Keeps.set_upd

theorem execActivateCommit_keeps {m : Nat} {s₀ : State} (outcome : ActPrepared) (s : State) (h : Keeps m s₀ s) (hm : Sub 16777151 m) :
    KeepsR m s₀ (execActivateCommit outcome s) := by
  unfold execActivateCommit
  repeat' first
    | with_reducible assumption
    | (with_reducible refine Sub.of hm ?_); decide
    | with_reducible apply State.orderMembers_keeps
    | with_reducible apply State.abandonAct_keeps
    | with_reducible apply State.after_keeps
    | with_reducible apply State.commitAct_keeps
    | with_reducible apply KeepsR.ite
    | with_reducible apply Keeps.ite
    | with_reducible apply KeepsR.next
    | split

theorem execActivateTimeout_keeps {m : Nat} {s₀ : State} (s : State) (h : Keeps m s₀ s) (hm : Sub 16777151 m) :
    KeepsR m s₀ (execActivateTimeout s) := by
  unfold execActivateTimeout
  repeat' first
    | with_reducible assumption
    | (with_reducible refine Sub.of hm ?_); decide
    | with_reducible apply State.rollBack_keeps
    | with_reducible apply State.after_keeps
    | with_reducible apply KeepsR.ite
    | with_reducible apply Keeps.ite
    | with_reducible apply KeepsR.next
    | split

end Sys2Proof.Machine
end

