-- ==== Sys2Proof/Laws/KeepNveFirmware.lean ====
section
/-! SUPPORT. What the operations of Machine/NveFirmware.lean can change: each keeps every part of the state that its number does not name,
and the standing properties of `Keeps`. -/

namespace Sys2Proof.Machine

theorem execFirmwareImageDownload_keeps {m : Nat} {s₀ : State} (c : Fin 1024) (prps : List Nat) (data : List Byte) (s : State) (h : Keeps m s₀ s) (hm : Sub 8848951 m) :
    KeepsR m s₀ (execFirmwareImageDownload c prps data s) := by
  unfold execFirmwareImageDownload
  repeat' first
    | intro _
    | with_reducible assumption
    | (with_reducible refine Sub.of hm ?_); decide
    | with_reducible apply State.onCmd_keeps
    | with_reducible apply State.nvmeEnd_keeps
    | with_reducible apply State.cmdSegs_keeps
    | with_reducible apply State.hostReads_keeps
    | with_reducible apply State.setCtrl_keeps
    | with_reducible apply KeepsR.ite
    | with_reducible apply Keeps.ite
    | with_reducible apply KeepsR.next

theorem State.stageToSlot_keeps {m : Nat} {s₀ : State} (s : State) (slot : Nat) (img : List Byte) (h : Keeps m s₀ s) (hm : Sub 7 m) :
    Keeps m s₀ (State.stageToSlot s slot img) := by
  unfold State.stageToSlot
  repeat' first
    | with_reducible assumption
    | (with_reducible refine Sub.of hm ?_); decide
    | with_reducible apply State.setF_keeps
    | with_reducible apply State.setBytes_keeps

theorem execFirmwareCommit_keeps {m : Nat} {s₀ : State} (c : Fin 1024) (s : State) (h : Keeps m s₀ s) (hm : Sub 9897527 m) :
    KeepsR m s₀ (execFirmwareCommit c s) := by
  unfold execFirmwareCommit
  repeat' first
    | intro _
    | with_reducible assumption
    | (with_reducible refine Sub.of hm ?_); decide
    | with_reducible apply State.onCmd_keeps
    | with_reducible apply State.nvmeEnd_keeps
    | with_reducible apply State.setF_keeps
    | with_reducible apply State.stageToSlot_keeps
    | with_reducible apply State.setCtrl_keeps
    | with_reducible apply State.prepareAct_keeps
    | with_reducible apply State.setCmd_keeps
    | with_reducible apply KeepsR.ite
    | with_reducible apply Keeps.ite
    | with_reducible apply KeepsR.next

end Sys2Proof.Machine
end

