-- ==== Sys2Proof/Laws/KeepPipeline.lean ====
section
/-! SUPPORT. What the operations of Machine/Pipeline.lean can change: each keeps every part of the state that its number does not name,
and the standing properties of `Keeps`. -/

namespace Sys2Proof.Machine

theorem State.handOver_keeps {m : Nat} {s₀ : State} (s : State) (port : Nat) (all : List Byte) (last : Bool) (err : Bool) (h : Keeps m s₀ s) (hm : Sub 2051 m) :
    Keeps m s₀ (State.handOver s port all last err) := by
  unfold State.handOver
  repeat' first
    | with_reducible assumption
    | (with_reducible refine Sub.of hm ?_); decide
    | with_reducible apply State.portStamp_keeps
    | with_reducible apply State.rxReady_keeps
    | with_reducible apply State.newPkt_keeps
    | with_reducible apply State.macCount_keeps
    | with_reducible apply State.pushLst_keeps
    | with_reducible apply State.setPort_keeps
    | with_reducible apply Keeps.ite

theorem execFrameReceive_keeps {m : Nat} {s₀ : State} (port : Fin 8) (t : Nat) (bytes : List Byte) (last : Bool) (err : Bool) (s : State) (h : Keeps m s₀ s) (hm : Sub 2051 m) :
    KeepsR m s₀ (execFrameReceive port t bytes last err s) := by
  unfold execFrameReceive
  repeat' first
    | with_reducible assumption
    | (with_reducible refine Sub.of hm ?_); decide
    | with_reducible apply State.after_keeps
    | with_reducible apply State.macCount_keeps
    | with_reducible apply State.handOver_keeps
    | with_reducible apply KeepsR.ite
    | with_reducible apply Keeps.ite
    | with_reducible apply KeepsR.next

theorem State.baseAct_keeps {m : Nat} {s₀ : State} (s : State) (img : FormeImg) (p : Pkt) (h : Keeps m s₀ s) (hm : Sub 8390199 m) :
    Keeps m s₀ (State.baseAct s img p).2 := by
  unfold State.baseAct
  repeat' first
    | with_reducible assumption
    | (with_reducible refine Sub.of hm ?_); decide
    | with_reducible apply State.actionFor_keeps
    | with_reducible apply Keeps.ite

theorem State.farLookup_keeps {m : Nat} {s₀ : State} (s : State) (id : Nat) (p : Pkt) (key : Nat) (h : Keeps m s₀ s) (hm : Sub 8392247 m) :
    Keeps m s₀ (State.farLookup s id p key) := by
  unfold State.farLookup
  repeat' first
    | with_reducible assumption
    | (with_reducible refine Sub.of hm ?_); decide
    | with_reducible apply State.bump_keeps
    | with_reducible apply State.pushLst_keeps
    | with_reducible apply State.setPkt_keeps
    | with_reducible apply State.dropPkt_keeps
    | with_reducible apply State.emit_keeps
    | with_reducible apply Keeps.ite

theorem State.endPass_keeps {m : Nat} {s₀ : State} (s : State) (id : Nat) (p : Pkt) (a : Act) (due : Nat) (h : Keeps m s₀ s) (hm : Sub 8408631 m) :
    Keeps m s₀ (State.endPass s id p a due) := by
  unfold State.endPass
  repeat' first
    | with_reducible assumption
    | (with_reducible refine Sub.of hm ?_); decide
    | with_reducible apply State.meterPkt_keeps
    | with_reducible apply State.dropPkt_keeps
    | with_reducible apply State.bump_keeps
    | with_reducible apply State.pushLst_keeps
    | with_reducible apply State.setPkt_keeps
    | with_reducible apply Keeps.ite
    | split
    | dsimp only

theorem State.afterRul_keeps {m : Nat} {s₀ : State} (s : State) (id : Nat) (p : Pkt) (img : FormeImg) (a : Act) (flagged : Bool) (h : Keeps m s₀ s) (hm : Sub 8408631 m) :
    Keeps m s₀ (State.afterRul s id p img a flagged) := by
  unfold State.afterRul
  repeat' first
    | with_reducible assumption
    | (with_reducible refine Sub.of hm ?_); decide
    | with_reducible apply State.farLookup_keeps
    | with_reducible apply State.pushLst_keeps
    | with_reducible apply State.setPkt_keeps
    | with_reducible apply State.endPass_keeps
    | with_reducible apply Keeps.ite

theorem State.overlayHit_keeps {m : Nat} {s₀ : State} (s : State) (t : Nat) (f : Found) (forme : Nat) (a : Act) (h : Keeps m s₀ s) (hm : Sub 8398391 m) :
    Keeps m s₀ (State.overlayHit s t f forme a).2 := by
  unfold State.overlayHit
  repeat' first
    | intro _
    | with_reducible assumption
    | (with_reducible refine Sub.of hm ?_); decide
    | with_reducible apply State.metBad_keeps
    | with_reducible apply State.setIdle_keeps
    | with_reducible apply State.actionFor_keeps
    | with_reducible apply Keeps.ite
    | with_reducible apply Keeps.foldl
    | split

theorem State.passLookup_keeps {m : Nat} {s₀ : State} (s : State) (t : Nat) (prof : Nat) (img : FormeImg) (p : Pkt) (r : ParseRes) (a : Act) (h : Keeps m s₀ s) (hm : Sub 8398391 m) :
    Keeps m s₀ (State.passLookup s t prof img p r a).2 := by
  unfold State.passLookup
  repeat' first
    | with_reducible assumption
    | (with_reducible refine Sub.of hm ?_); decide
    | with_reducible apply State.overlayHit_keeps
    | with_reducible apply Keeps.ite
    | with_reducible apply Keeps.ite1
    | with_reducible apply Keeps.ite2
    | with_reducible apply Keeps.foldl
    | with_reducible apply Keeps.foldl1
    | with_reducible apply Keeps.foldl2

theorem State.queueEml_keeps {m : Nat} {s₀ : State} (s : State) (e : LearnEv) (h : Keeps m s₀ s) (hm : Sub 8396803 m) :
    Keeps m s₀ (State.queueEml s e) := by
  unfold State.queueEml
  repeat' first
    | with_reducible assumption
    | (with_reducible refine Sub.of hm ?_); decide
    | with_reducible apply State.emit_keeps
    | with_reducible apply State.bump_keeps
    | with_reducible apply Keeps.ite
    | with_reducible apply Keeps.set_tbl

theorem State.sourceLookup_keeps {m : Nat} {s₀ : State} (s : State) (key : Nat) (src : Nat) (h : Keeps m s₀ s) (hm : Sub 8398391 m) :
    Keeps m s₀ (State.sourceLookup s key src).2 := by
  unfold State.sourceLookup
  repeat' first
    | intro _
    | with_reducible assumption
    | (with_reducible refine Sub.of hm ?_); decide
    | with_reducible apply State.metBad_keeps
    | with_reducible apply State.queueEml_keeps
    | with_reducible apply State.setIdle_keeps
    | with_reducible apply State.bump_keeps
    | with_reducible apply Keeps.ite
    | with_reducible apply Keeps.foldl
    | split
    | dsimp only

theorem State.passSource_keeps {m : Nat} {s₀ : State} (s : State) (img : FormeImg) (p : Pkt) (r : ParseRes) (h : Keeps m s₀ s) (hm : Sub 8398391 m) :
    Keeps m s₀ (State.passSource s img p r).2 := by
  unfold State.passSource
  repeat' first
    | with_reducible assumption
    | (with_reducible refine Sub.of hm ?_); decide
    | with_reducible apply State.sourceLookup_keeps
    | with_reducible apply Keeps.ite
    | with_reducible apply Keeps.ite1
    | with_reducible apply Keeps.ite2

theorem State.runPass_keeps {m : Nat} {s₀ : State} (s : State) (id : Nat) (p0 : Pkt) (img : FormeImg) (h : Keeps m s₀ s) (hm : Sub 8416823 m) :
    Keeps m s₀ (State.runPass s id p0 img) := by
  unfold State.runPass
  repeat' first
    | with_reducible assumption
    | (with_reducible refine Sub.of hm ?_); decide
    | with_reducible apply State.setPkt_keeps
    | with_reducible apply State.baseAct_keeps
    | with_reducible apply State.bump_keeps
    | with_reducible apply State.afterRul_keeps
    | with_reducible apply State.passLookup_keeps
    | with_reducible apply State.passSource_keeps
    | with_reducible apply State.dropPkt_keeps
    | with_reducible apply Keeps.ite

theorem State.queueFlt_keeps {m : Nat} {s₀ : State} (s : State) (e : LearnEv) (h : Keeps m s₀ s) (hm : Sub 8396803 m) :
    Keeps m s₀ (State.queueFlt s e) := by
  unfold State.queueFlt
  repeat' first
    | with_reducible assumption
    | (with_reducible refine Sub.of hm ?_); decide
    | with_reducible apply State.emit_keeps
    | with_reducible apply State.bump_keeps
    | with_reducible apply Keeps.ite
    | with_reducible apply Keeps.set_tbl

theorem State.mergeFlt_keeps {m : Nat} {s₀ : State} (s : State) (id : Nat) (p : Pkt) (img : FormeImg) (h : Keeps m s₀ s) (hm : Sub 8400439 m) :
    Keeps m s₀ (State.mergeFlt s id p img).2 := by
  unfold State.mergeFlt
  repeat' first
    | with_reducible assumption
    | (with_reducible refine Sub.of hm ?_); decide
    | with_reducible apply State.overlayHit_keeps
    | with_reducible apply State.setPkt_keeps
    | with_reducible apply State.queueFlt_keeps
    | with_reducible apply Keeps.ite
    | with_reducible apply Keeps.foldl
    | split
    | dsimp only

theorem State.stamp_keeps {m : Nat} {s₀ : State} (s : State) (id : Nat) (p : Pkt) (h : Keeps m s₀ s) (hm : Sub 2051 m) :
    Keeps m s₀ (State.stamp s id p).2 := by
  unfold State.stamp
  repeat' first
    | with_reducible assumption
    | (with_reducible refine Sub.of hm ?_); decide
    | with_reducible apply State.bump_keeps
    | with_reducible apply State.setPkt_keeps

theorem execFrameEnd_keeps {m : Nat} {s₀ : State} (port : Fin 8) (t : Nat) (rest : List Byte) (err : Bool) (s : State) (h : Keeps m s₀ s) (hm : Sub 2051 m) :
    KeepsR m s₀ (execFrameEnd port t rest err s) := by
  unfold execFrameEnd
  repeat' first
    | with_reducible assumption
    | (with_reducible refine Sub.of hm ?_); decide
    | with_reducible apply State.after_keeps
    | with_reducible apply State.macCount_keeps
    | with_reducible apply State.setPort_keeps
    | with_reducible apply State.setPkt_keeps
    | with_reducible apply KeepsR.ite
    | with_reducible apply Keeps.ite
    | with_reducible apply KeepsR.next
    | split
    | dsimp only

theorem State.bridgePass_keeps {m : Nat} {s₀ : State} (s : State) (id : Nat) (p : Pkt) (h : Keeps m s₀ s) (hm : Sub 8416823 m) :
    Keeps m s₀ (State.bridgePass s id p) := by
  unfold State.bridgePass
  repeat' first
    | intro _
    | with_reducible assumption
    | (with_reducible refine Sub.of hm ?_); decide
    | with_reducible apply State.dropPkt_keeps
    | with_reducible apply State.sourceLookup_keeps
    | with_reducible apply State.bump_keeps
    | with_reducible apply State.endPass_keeps
    | with_reducible apply State.newPkt_keeps
    | with_reducible apply Keeps.ite
    | with_reducible apply Keeps.foldl
    | split
    | dsimp only

theorem execFltLookupResult_keeps {m : Nat} {s₀ : State} (p : Fin 4) (bads : List (Nat × Nat × Nat)) (s : State) (h : Keeps m s₀ s) (hm : Sub 8416823 m) :
    KeepsR m s₀ (execFltLookupResult p bads s) := by
  unfold execFltLookupResult
  repeat' first
    | with_reducible assumption
    | (with_reducible refine Sub.of hm ?_); decide
    | with_reducible apply State.advanceSweep_keeps
    | with_reducible apply State.popLst_keeps
    | with_reducible apply State.after_keeps
    | with_reducible apply State.dropPkt_keeps
    | with_reducible apply State.mergeFlt_keeps
    | with_reducible apply State.endPass_keeps
    | with_reducible apply KeepsR.next
    | split
    | with_reducible apply Keeps.set_tbl
    | dsimp only

theorem execPipelineEntry_keeps {m : Nat} {s₀ : State} (p : Fin 4) (bads : List (Nat × Nat × Nat)) (slotBad : Bool) (s : State) (h : Keeps m s₀ s) (hm : Sub 8416823 m) :
    KeepsR m s₀ (execPipelineEntry p bads slotBad s) := by
  unfold execPipelineEntry
  repeat' first
    | with_reducible assumption
    | (with_reducible refine Sub.of hm ?_); decide
    | with_reducible apply State.after_keeps
    | with_reducible apply State.advanceSweep_keeps
    | with_reducible apply State.popLst_keeps
    | with_reducible apply State.endPass_keeps
    | with_reducible apply State.dropPkt_keeps
    | with_reducible apply State.bump_keeps
    | with_reducible apply State.stamp_keeps
    | with_reducible apply State.setPkt_keeps
    | with_reducible apply State.raise_keeps
    | with_reducible apply State.bridgePass_keeps
    | with_reducible apply State.runPass_keeps
    | with_reducible apply KeepsR.ite
    | with_reducible apply Keeps.ite
    | with_reducible apply KeepsR.next
    | with_reducible apply Keeps.foldl
    | split
    | with_reducible apply Keeps.set_dp
    | with_reducible apply Keeps.set_tbl
    | dsimp only

end Sys2Proof.Machine
end

