-- ==== Sys2Proof/Laws/KeepTraffic.lean ====
section
/-! SUPPORT. What the operations of Machine/Traffic.lean can change: each keeps every part of the state that its number does not name,
and the standing properties of `Keeps`. -/

namespace Sys2Proof.Machine

theorem State.dropOld_keeps {m : Nat} {s₀ : State} (s : State) (margin : Nat) (h : Keeps m s₀ s) (hm : Sub 8392247 m) :
    Keeps m s₀ (State.dropOld s margin) := by
  unfold State.dropOld
  repeat' first
    | intro _
    | with_reducible assumption
    | (with_reducible refine Sub.of hm ?_); decide
    | with_reducible apply State.dropQueued_keeps
    | with_reducible apply Keeps.ite
    | with_reducible apply Keeps.foldl

theorem State.toPort_keeps {m : Nat} {s₀ : State} (s : State) (id : Nat) (port : Nat) (p : Pkt) (h : Keeps m s₀ s) (hm : Sub 8392247 m) :
    Keeps m s₀ (State.toPort s id port p) := by
  unfold State.toPort
  repeat' first
    | with_reducible assumption
    | (with_reducible refine Sub.of hm ?_); decide
    | with_reducible apply State.dropPkt_keeps
    | with_reducible apply State.macCount_keeps
    | with_reducible apply State.txReady_keeps
    | with_reducible apply State.pushLst_keeps
    | with_reducible apply State.setPkt_keeps
    | with_reducible apply Keeps.ite

theorem execEgressHandoff_keeps {m : Nat} {s₀ : State} (ep : Fin 4) (s : State) (h : Keeps m s₀ s) (hm : Sub 8392247 m) :
    KeepsR m s₀ (execEgressHandoff ep s) := by
  unfold execEgressHandoff
  repeat' first
    | with_reducible assumption
    | (with_reducible refine Sub.of hm ?_); decide
    | with_reducible apply State.popLst_keeps
    | with_reducible apply State.after_keeps
    | with_reducible apply State.rewritten_keeps
    | with_reducible apply State.endHold_keeps
    | with_reducible apply State.setPkt_keeps
    | with_reducible apply State.toPort_keeps
    | with_reducible apply State.completeTx_keeps
    | with_reducible apply State.pushLst_keeps
    | with_reducible apply State.dropPkt_keeps
    | with_reducible apply State.bump_keeps
    | with_reducible apply State.freePkt_keeps
    | with_reducible apply State.emit_keeps
    | with_reducible apply KeepsR.ite
    | with_reducible apply Keeps.ite
    | with_reducible apply KeepsR.next
    | split

theorem execEpochGo_keeps {m : Nat} {s₀ : State} (init : Nat) (s : State) (h : Keeps m s₀ s) (hm : Sub 8406035 m) :
    KeepsR m s₀ (execEpochGo init s) := by
  unfold execEpochGo
  repeat' first
    | with_reducible assumption
    | (with_reducible refine Sub.of hm ?_); decide
    | with_reducible apply State.blockAccess_keeps
    | with_reducible apply State.setF_keeps
    | with_reducible apply KeepsR.ite
    | with_reducible apply Keeps.ite
    | with_reducible apply KeepsR.next
    | with_reducible apply Keeps.set_tm

theorem execPolicerWrite_keeps {m : Nat} {s₀ : State} (init : Nat) (index : Fin 65536) (s : State) (h : Keeps m s₀ s) (hm : Sub 8406035 m) :
    KeepsR m s₀ (execPolicerWrite init index s) := by
  unfold execPolicerWrite
  repeat' first
    | with_reducible assumption
    | (with_reducible refine Sub.of hm ?_); decide
    | with_reducible apply State.blockAccess_keeps
    | with_reducible apply State.setF_keeps
    | with_reducible apply State.refuseWrite_keeps
    | with_reducible apply State.setPol_keeps
    | with_reducible apply KeepsR.ite
    | with_reducible apply Keeps.ite
    | with_reducible apply KeepsR.next

theorem execPolicerRead_keeps {m : Nat} {s₀ : State} (init : Nat) (index : Fin 65536) (s : State) (h : Keeps m s₀ s) (hm : Sub 8389651 m) :
    KeepsR m s₀ (execPolicerRead init index s) := by
  unfold execPolicerRead
  repeat' first
    | with_reducible assumption
    | (with_reducible refine Sub.of hm ?_); decide
    | with_reducible apply State.blockAccess_keeps
    | with_reducible apply State.setF_keeps
    | with_reducible apply State.setReg_keeps
    | with_reducible apply KeepsR.ite
    | with_reducible apply Keeps.ite
    | with_reducible apply KeepsR.next

theorem State.linkTail_keeps {m : Nat} {s₀ : State} (s : State) (id : Nat) (p : Pkt) (c : List (Nat × Nat)) (spill : Bool) (h : Keeps m s₀ s) (hm : Sub 18435 m) :
    Keeps m s₀ (State.linkTail s id p c spill) := by
  unfold State.linkTail
  repeat' first
    | with_reducible assumption
    | (with_reducible refine Sub.of hm ?_); decide
    | with_reducible apply State.wakeChain_keeps
    | with_reducible apply State.pushLst_keeps
    | with_reducible apply State.setPkt_keeps
    | with_reducible apply State.setPort_keeps
    | with_reducible apply State.showQueue_keeps
    | with_reducible apply Keeps.ite

theorem State.admission_keeps {m : Nat} {s₀ : State} (s : State) (id : Nat) (p : Pkt) (c : List (Nat × Nat)) (h : Keeps m s₀ s) (hm : Sub 8408631 m) :
    Keeps m s₀ (State.admission s id p c) := by
  unfold State.admission
  repeat' first
    | with_reducible assumption
    | (with_reducible refine Sub.of hm ?_); decide
    | with_reducible apply State.tmDrop_keeps
    | with_reducible apply State.linkTail_keeps
    | with_reducible apply Keeps.ite

theorem State.enqueuePkt_keeps {m : Nat} {s₀ : State} (s : State) (id : Nat) (p0 : Pkt) (o : Nat) (q : Nat) (h : Keeps m s₀ s) (hm : Sub 8408631 m) :
    Keeps m s₀ (State.enqueuePkt s id p0 o q) := by
  unfold State.enqueuePkt
  repeat' first
    | with_reducible assumption
    | (with_reducible refine Sub.of hm ?_); decide
    | with_reducible apply State.setPkt_keeps
    | with_reducible apply State.tmDrop_keeps
    | with_reducible apply State.admission_keeps
    | with_reducible apply Keeps.ite
    | split
    | dsimp only

theorem execSpillFetch_keeps {m : Nat} {s₀ : State} (q : Nat) (s : State) (h : Keeps m s₀ s) (hm : Sub 2048 m) :
    KeepsR m s₀ (execSpillFetch q s) := by
  unfold execSpillFetch
  repeat' first
    | with_reducible assumption
    | (with_reducible refine Sub.of hm ?_); decide
    | with_reducible apply State.setPkt_keeps
    | with_reducible apply KeepsR.next
    | split

theorem State.tagChild_keeps {m : Nat} {s₀ : State} (s : State) (len : Nat) (more : Bool) (x : Nat × Nat) (h : Keeps m s₀ s) (hm : Sub 16384 m) :
    Keeps m s₀ (State.tagChild s len more x) := by
  unfold State.tagChild
  repeat' first
    | with_reducible assumption
    | (with_reducible refine Sub.of hm ?_); decide
    | with_reducible apply State.setNrun_keeps
    | with_reducible apply State.setVtime_keeps
    | with_reducible apply Keeps.ite

theorem execEnqueue_keeps {m : Nat} {s₀ : State} (p : Fin 4) (s : State) (h : Keeps m s₀ s) (hm : Sub 8408631 m) :
    KeepsR m s₀ (execEnqueue p s) := by
  unfold execEnqueue
  repeat' first
    | with_reducible assumption
    | (with_reducible refine Sub.of hm ?_); decide
    | with_reducible apply State.popLst_keeps
    | with_reducible apply State.after_keeps
    | with_reducible apply State.dropPkt_keeps
    | with_reducible apply State.macCount_keeps
    | with_reducible apply State.bump_keeps
    | with_reducible apply State.enqueuePkt_keeps
    | with_reducible apply KeepsR.ite
    | with_reducible apply Keeps.ite
    | with_reducible apply KeepsR.next
    | split

theorem State.toFirstHead_keeps {m : Nat} {s₀ : State} (s : State) (ep : Nat) (h : Keeps m s₀ s) :
    Keeps m s₀ (State.toFirstHead s ep) := by
  unfold State.toFirstHead
  repeat' first
    | with_reducible assumption
    | with_reducible apply State.after_keeps
    | with_reducible apply Keeps.ite
    | with_reducible apply Keeps.foldl
    | split
    | dsimp only

theorem execEpochSwap_keeps {m : Nat} {s₀ : State} (s : State) (h : Keeps m s₀ s) (hm : Sub 8408631 m) :
    KeepsR m s₀ (execEpochSwap s) := by
  unfold execEpochSwap
  repeat' first
    | with_reducible assumption
    | (with_reducible refine Sub.of hm ?_); decide
    | with_reducible apply State.after_keeps
    | with_reducible apply State.setF_keeps
    | with_reducible apply State.bump_keeps
    | with_reducible apply State.swapEpoch_keeps
    | with_reducible apply KeepsR.ite
    | with_reducible apply Keeps.ite
    | with_reducible apply KeepsR.next
    | split
    | with_reducible apply Keeps.set_tm
    | dsimp only

theorem State.markCandidates_keeps {m : Nat} {s₀ : State} (s : State) (l : Nat) (i : Nat) (cands : List Nat) (h : Keeps m s₀ s) (hm : Sub 16384 m) :
    Keeps m s₀ (State.markCandidates s l i cands) := by
  unfold State.markCandidates
  repeat' first
    | intro _
    | with_reducible assumption
    | (with_reducible refine Sub.of hm ?_); decide
    | with_reducible apply State.setNrun_keeps
    | with_reducible apply Keeps.ite
    | with_reducible apply Keeps.foldl

theorem State.takeHead_keeps {m : Nat} {s₀ : State} (s : State) (ep : Nat) (chain : List (Nat × Nat)) (upset : Bool) (h : Keeps m s₀ s) (hm : Sub 8408631 m) :
    Keeps m s₀ (State.takeHead s ep chain upset) := by
  unfold State.takeHead
  repeat' first
    | intro _
    | with_reducible assumption
    | (with_reducible refine Sub.of hm ?_); decide
    | with_reducible apply State.popLst_keeps
    | with_reducible apply State.showQueue_keeps
    | with_reducible apply State.dropEnded_keeps
    | with_reducible apply State.chargeNode_keeps
    | with_reducible apply State.tagChild_keeps
    | with_reducible apply State.tmDrop_keeps
    | with_reducible apply State.raise_keeps
    | with_reducible apply State.pushLst_keeps
    | with_reducible apply State.setPkt_keeps
    | with_reducible apply Keeps.ite
    | with_reducible apply Keeps.foldl
    | split
    | with_reducible apply Keeps.set_tm

theorem execRecirculate_keeps {m : Nat} {s₀ : State} (p : Fin 4) (s : State) (h : Keeps m s₀ s) (hm : Sub 2048 m) :
    KeepsR m s₀ (execRecirculate p s) := by
  unfold execRecirculate
  repeat' first
    | with_reducible assumption
    | (with_reducible refine Sub.of hm ?_); decide
    | with_reducible apply State.popLst_keeps
    | with_reducible apply State.after_keeps
    | with_reducible apply State.rewritten_keeps
    | with_reducible apply State.pushLst_keeps
    | with_reducible apply State.setPkt_keeps
    | with_reducible apply KeepsR.ite
    | with_reducible apply Keeps.ite
    | with_reducible apply KeepsR.next
    | split

theorem State.descend_keeps {m : Nat} {s₀ : State} (s : State) (chains : List (List (Nat × Nat))) (y_ : Nat) (y_1 : Nat) (y_2 : Nat) (h : Keeps m s₀ s) (hm : Sub 16384 m) :
    Keeps m s₀ (State.descend s chains y_ y_1 y_2).1 := by
  induction y_ generalizing s y_1 y_2 with
  | zero => exact h
  | succ fuel ih =>
    unfold State.descend
    dsimp only
    have h1 := State.markCandidates_keeps s y_1 y_2 (candChildren chains y_1 y_2) h (Sub.of hm (by decide))
    split
    · exact h1
    · exact ih _ _ _ h1

theorem execSchedulerSelection_keeps {m : Nat} {s₀ : State} (ep : Fin 4) (noRoom : List Nat) (badNodes : List (Nat × Nat)) (upset : Bool) (s : State) (h : Keeps m s₀ s) (hm : Sub 8408631 m) :
    KeepsR m s₀ (execSchedulerSelection ep noRoom badNodes upset s) := by
  unfold execSchedulerSelection
  repeat' first
    | intro _
    | with_reducible assumption
    | (with_reducible refine Sub.of hm ?_); decide
    | with_reducible apply State.raise_keeps
    | with_reducible apply State.setNrun_keeps
    | with_reducible apply State.dropOld_keeps
    | with_reducible apply State.toFirstHead_keeps
    | with_reducible apply State.descend_keeps
    | with_reducible apply State.takeHead_keeps
    | with_reducible apply KeepsR.ite
    | with_reducible apply Keeps.ite
    | with_reducible apply KeepsR.next
    | with_reducible apply Keeps.foldl
    | split
    | with_reducible apply Keeps.set_tm
    | dsimp only

theorem execAgeDrop_keeps {m : Nat} {s₀ : State} (s : State) (h : Keeps m s₀ s) (hm : Sub 8392247 m) :
    KeepsR m s₀ (execAgeDrop s) := by
  unfold execAgeDrop
  repeat' first
    | with_reducible assumption
    | (with_reducible refine Sub.of hm ?_); decide
    | with_reducible apply State.showQueue_keeps
    | with_reducible apply State.dropOld_keeps
    | with_reducible apply KeepsR.next

end Sys2Proof.Machine
end

