-- ==== Sys2Proof/Laws/KeepOdfer.lean ====
section
/-! SUPPORT. What the operations of Machine/Odfer.lean can change: each keeps every part of the state that its number does not name,
and the standing properties of `Keeps`. -/

namespace Sys2Proof.Machine

theorem execCascadeLinksSilent_keeps {m : Nat} {s₀ : State} (s : State) (h : Keeps m s₀ s) (hm : Sub 11 m) :
    KeepsR m s₀ (execCascadeLinksSilent s) := by
  unfold execCascadeLinksSilent
  repeat' first
    | with_reducible assumption
    | (with_reducible refine Sub.of hm ?_); decide
    | with_reducible apply State.beginMode_keeps
    | with_reducible apply State.after_keeps
    | with_reducible apply KeepsR.ite
    | with_reducible apply Keeps.ite
    | with_reducible apply KeepsR.next

theorem State.setLinkState_keeps {m : Nat} {s₀ : State} (s : State) (l : Nat) (v : Nat) (h : Keeps m s₀ s) (hm : Sub 3 m) :
    Keeps m s₀ (State.setLinkState s l v) := by
  unfold State.setLinkState
  repeat' first
    | with_reducible assumption
    | (with_reducible refine Sub.of hm ?_); decide
    | with_reducible apply State.setF_keeps

theorem execAgreementRecordSend_keeps {m : Nat} {s₀ : State} (s : State) (h : Keeps m s₀ s) (hm : Sub 10485763 m) :
    KeepsR m s₀ (execAgreementRecordSend s) := by
  unfold execAgreementRecordSend
  repeat' first
    | intro _
    | with_reducible assumption
    | (with_reducible refine Sub.of hm ?_); decide
    | with_reducible apply State.showCascade_keeps
    | with_reducible apply State.noteActivating_keeps
    | with_reducible apply State.emit_keeps
    | with_reducible apply State.setLinkState_keeps
    | with_reducible apply KeepsR.ite
    | with_reducible apply Keeps.ite
    | with_reducible apply KeepsR.next
    | with_reducible apply Keeps.foldl

theorem State.odfOp_keeps {m : Nat} {s₀ : State} (s : State) (init : Nat) (op : Nat) (f : State → State) (h : Keeps m s₀ s) (hf : ∀ x0, Keeps m s₀ x0 → Keeps m s₀ (f x0)) (hm : Sub 8389651 m) :
    Keeps m s₀ (State.odfOp s init op f) := by
  unfold State.odfOp
  repeat' first
    | with_reducible assumption
    | (with_reducible refine Sub.of hm ?_); decide
    | with_reducible apply hf
    | with_reducible apply State.blockAccess_keeps
    | with_reducible apply State.setF_keeps
    | with_reducible apply Keeps.ite

theorem State.takeLockUp_keeps {m : Nat} {s₀ : State} (s : State) (o : Origin) (t : Nat) (h : Keeps m s₀ s) (hm : Sub 2101248 m) :
    Keeps m s₀ (State.takeLockUp s o t) := by
  unfold State.takeLockUp
  repeat' first
    | with_reducible assumption
    | (with_reducible refine Sub.of hm ?_); decide
    | with_reducible apply Keeps.set_frm_odf
    | with_reducible apply Keeps.set_frm
    | with_reducible apply Keeps.set_odf

theorem execOdfLockup_keeps {m : Nat} {s₀ : State} (by_ : OdfBy) (refused : BitVec 4) (s : State) (h : Keeps m s₀ s) (hm : Sub 10490899 m) :
    KeepsR m s₀ (execOdfLockup by_ refused s) := by
  unfold execOdfLockup
  repeat' first
    | intro _
    | with_reducible assumption
    | (with_reducible refine Sub.of hm ?_); decide
    | with_reducible apply State.odfOp_keeps
    | with_reducible apply State.setF_keeps
    | with_reducible apply State.emit_keeps
    | with_reducible apply State.takeLockUp_keeps
    | with_reducible apply KeepsR.ite
    | with_reducible apply Keeps.ite
    | with_reducible apply KeepsR.next
    | with_reducible apply Keeps.foldl
    | split

theorem State.repartition_keeps {m : Nat} {s₀ : State} (s : State) (h : Keeps m s₀ s) (hm : Sub 10493955 m) :
    Keeps m s₀ (State.repartition s) := by
  unfold State.repartition
  repeat' first
    | intro _
    | with_reducible assumption
    | (with_reducible refine Sub.of hm ?_); decide
    | with_reducible apply State.emit_keeps
    | with_reducible apply State.takePartition_keeps
    | with_reducible apply State.clearHashTable_keeps
    | with_reducible apply Keeps.foldl

theorem execRepartition_keeps {m : Nat} {s₀ : State} (by_ : OdfBy) (s : State) (h : Keeps m s₀ s) (hm : Sub 10494995 m) :
    KeepsR m s₀ (execRepartition by_ s) := by
  unfold execRepartition
  repeat' first
    | intro _
    | with_reducible assumption
    | (with_reducible refine Sub.of hm ?_); decide
    | with_reducible apply State.odfOp_keeps
    | with_reducible apply State.setF_keeps
    | with_reducible apply State.repartition_keeps
    | with_reducible apply State.takePartition_keeps
    | with_reducible apply State.clearHashTable_keeps
    | with_reducible apply KeepsR.ite
    | with_reducible apply Keeps.ite
    | with_reducible apply KeepsR.next
    | split

theorem execHandback_keeps {m : Nat} {s₀ : State} (init : Nat) (s : State) (h : Keeps m s₀ s) (hm : Sub 10486803 m) :
    KeepsR m s₀ (execHandback init s) := by
  unfold execHandback
  repeat' first
    | intro _
    | with_reducible assumption
    | (with_reducible refine Sub.of hm ?_); decide
    | with_reducible apply State.odfOp_keeps
    | with_reducible apply State.setF_keeps
    | with_reducible apply State.showCascade_keeps
    | with_reducible apply KeepsR.ite
    | with_reducible apply Keeps.ite
    | with_reducible apply KeepsR.next

theorem State.forwardFrame_keeps {m : Nat} {s₀ : State} (s : State) (l : Nat) (f : OdfFrame) (h : Keeps m s₀ s) (hm : Sub 8388611 m) :
    Keeps m s₀ (State.forwardFrame s l f) := by
  unfold State.forwardFrame
  repeat' first
    | with_reducible assumption
    | (with_reducible refine Sub.of hm ?_); decide
    | with_reducible apply State.bump_keeps
    | with_reducible apply State.emit_keeps
    | with_reducible apply Keeps.ite

theorem execOdferFrameReceive_keeps {m : Nat} {s₀ : State} (link : Fin 2) (f : OdfFrame) (s : State) (h : Keeps m s₀ s) (hm : Sub 8408631 m) :
    KeepsR m s₀ (execOdferFrameReceive link f s) := by
  unfold execOdferFrameReceive
  repeat' first
    | with_reducible assumption
    | (with_reducible refine Sub.of hm ?_); decide
    | with_reducible apply State.bump_keeps
    | with_reducible apply State.raise_keeps
    | with_reducible apply State.forwardFrame_keeps
    | with_reducible apply State.newPkt_keeps
    | with_reducible apply State.enqueuePkt_keeps
    | with_reducible apply KeepsR.ite
    | with_reducible apply Keeps.ite
    | with_reducible apply KeepsR.next

theorem State.relayRecord_keeps {m : Nat} {s₀ : State} (s : State) (l : Nat) (r : List Byte) (h : Keeps m s₀ s) (hm : Sub 8388608 m) :
    Keeps m s₀ (State.relayRecord s l r) := by
  unfold State.relayRecord
  repeat' first
    | with_reducible assumption
    | (with_reducible refine Sub.of hm ?_); decide
    | with_reducible apply State.emit_keeps
    | with_reducible apply Keeps.ite

theorem State.storeRecord_keeps {m : Nat} {s₀ : State} (s : State) (m1 : Nat) (r : List Byte) (h : Keeps m s₀ s) (hm : Sub 2097155 m) :
    Keeps m s₀ (State.storeRecord s m1 r) := by
  unfold State.storeRecord
  repeat' first
    | intro _
    | with_reducible assumption
    | (with_reducible refine Sub.of hm ?_); decide
    | with_reducible apply State.setReg_keeps
    | with_reducible apply Keeps.foldl
    | with_reducible apply Keeps.set_odf

theorem State.noteOffset_keeps {m : Nat} {s₀ : State} (s : State) (offset : Int) (h : Keeps m s₀ s) (hm : Sub 2097155 m) :
    Keeps m s₀ (State.noteOffset s offset) := by
  unfold State.noteOffset
  repeat' first
    | with_reducible assumption
    | (with_reducible refine Sub.of hm ?_); decide
    | with_reducible apply State.setF_keeps
    | with_reducible apply Keeps.ite
    | with_reducible apply Keeps.set_odf

theorem State.joinCascade_keeps {m : Nat} {s₀ : State} (s : State) (r : List Byte) (h : Keeps m s₀ s) (hm : Sub 11 m) :
    Keeps m s₀ (State.joinCascade s r) := by
  unfold State.joinCascade
  repeat' first
    | with_reducible assumption
    | (with_reducible refine Sub.of hm ?_); decide
    | with_reducible apply State.beginMode_keeps
    | with_reducible apply Keeps.ite

theorem State.takeRecord_keeps {m : Nat} {s₀ : State} (s : State) (l : Nat) (r : List Byte) (offset : Int) (h : Keeps m s₀ s) (hm : Sub 10485771 m) :
    Keeps m s₀ (State.takeRecord s l r offset) := by
  unfold State.takeRecord
  repeat' first
    | with_reducible assumption
    | (with_reducible refine Sub.of hm ?_); decide
    | with_reducible apply State.showCascade_keeps
    | with_reducible apply State.relayRecord_keeps
    | with_reducible apply State.storeRecord_keeps
    | with_reducible apply State.noteOffset_keeps
    | with_reducible apply State.noteActivating_keeps
    | with_reducible apply State.joinCascade_keeps
    | with_reducible apply Keeps.ite
    | with_reducible apply Keeps.set_odf

theorem execFarLookupTimeout_keeps {m : Nat} {s₀ : State} (p : Fin 4) (s : State) (h : Keeps m s₀ s) (hm : Sub 2051 m) :
    KeepsR m s₀ (execFarLookupTimeout p s) := by
  unfold execFarLookupTimeout
  repeat' first
    | with_reducible assumption
    | (with_reducible refine Sub.of hm ?_); decide
    | with_reducible apply State.bump_keeps
    | with_reducible apply State.popLst_keeps
    | with_reducible apply State.after_keeps
    | with_reducible apply State.pushLst_keeps
    | with_reducible apply State.setPkt_keeps
    | with_reducible apply KeepsR.next
    | split

theorem execMasterSilent_keeps {m : Nat} {s₀ : State} (s : State) (h : Keeps m s₀ s) (hm : Sub 10485771 m) :
    KeepsR m s₀ (execMasterSilent s) := by
  unfold execMasterSilent
  repeat' first
    | with_reducible assumption
    | (with_reducible refine Sub.of hm ?_); decide
    | with_reducible apply State.after_keeps
    | with_reducible apply State.setF_keeps
    | with_reducible apply State.bump_keeps
    | with_reducible apply State.beginMode_keeps
    | with_reducible apply State.showCascade_keeps
    | with_reducible apply KeepsR.ite
    | with_reducible apply Keeps.ite
    | with_reducible apply KeepsR.next

theorem State.mergeFar_keeps {m : Nat} {s₀ : State} (s : State) (id : Nat) (p : Pkt) (img : FormeImg) (hit : Option Nat) (h : Keeps m s₀ s) (hm : Sub 8400439 m) :
    Keeps m s₀ (State.mergeFar s id p img hit) := by
  unfold State.mergeFar
  repeat' first
    | with_reducible assumption
    | (with_reducible refine Sub.of hm ?_); decide
    | with_reducible apply State.actionFor_keeps
    | with_reducible apply State.setPkt_keeps
    | with_reducible apply State.queueFlt_keeps
    | with_reducible apply Keeps.ite
    | split

theorem execFarLookupResult_keeps {m : Nat} {s₀ : State} (p : Fin 4) (id : Nat) (hit : Option Nat) (bads : List (Nat × Nat × Nat)) (s : State) (h : Keeps m s₀ s) (hm : Sub 8400439 m) :
    KeepsR m s₀ (execFarLookupResult p id hit bads s) := by
  unfold execFarLookupResult
  repeat' first
    | with_reducible assumption
    | (with_reducible refine Sub.of hm ?_); decide
    | with_reducible apply State.advanceSweep_keeps
    | with_reducible apply State.popLst_keeps
    | with_reducible apply State.after_keeps
    | with_reducible apply State.dropPkt_keeps
    | with_reducible apply State.mergeFar_keeps
    | with_reducible apply State.mergeFlt_keeps
    | with_reducible apply State.setPkt_keeps
    | with_reducible apply State.pushLst_keeps
    | with_reducible apply KeepsR.ite
    | with_reducible apply Keeps.ite
    | with_reducible apply KeepsR.next
    | split
    | with_reducible apply Keeps.set_tbl
    | dsimp only

theorem execOdferLinkDown_keeps {m : Nat} {s₀ : State} (link : Fin 2) (lost : Nat) (s : State) (h : Keeps m s₀ s) (hm : Sub 11407295 m) :
    KeepsR m s₀ (execOdferLinkDown link lost s) := by
  unfold execOdferLinkDown
  repeat' first
    | with_reducible assumption
    | (with_reducible refine Sub.of hm ?_); decide
    | with_reducible apply State.sourceFailed_keeps
    | with_reducible apply State.after_keeps
    | with_reducible apply State.showCascade_keeps
    | with_reducible apply State.raise_keeps
    | with_reducible apply State.bump_keeps
    | with_reducible apply State.setLinkState_keeps
    | with_reducible apply KeepsR.ite
    | with_reducible apply Keeps.ite
    | with_reducible apply KeepsR.next
    | split

theorem execFarLookupRequest_keeps {m : Nat} {s₀ : State} (member : Fin 4) (id : Nat) (forme : Fin 8) (key : List Byte) (bads : List (Nat × Nat × Nat)) (s : State) (h : Keeps m s₀ s) (hm : Sub 8398391 m) :
    KeepsR m s₀ (execFarLookupRequest member id forme key bads s) := by
  unfold execFarLookupRequest
  repeat' first
    | intro _
    | with_reducible assumption
    | (with_reducible refine Sub.of hm ?_); decide
    | with_reducible apply State.advanceSweep_keeps
    | with_reducible apply State.metBad_keeps
    | with_reducible apply State.setIdle_keeps
    | with_reducible apply State.emit_keeps
    | with_reducible apply KeepsR.ite
    | with_reducible apply Keeps.ite
    | with_reducible apply KeepsR.next
    | with_reducible apply Keeps.foldl
    | split
    | with_reducible apply Keeps.set_tbl

theorem execRepartitionHoldExpire_keeps {m : Nat} {s₀ : State} (s : State) (h : Keeps m s₀ s) (hm : Sub 10493955 m) :
    KeepsR m s₀ (execRepartitionHoldExpire s) := by
  unfold execRepartitionHoldExpire
  repeat' first
    | with_reducible assumption
    | (with_reducible refine Sub.of hm ?_); decide
    | with_reducible apply State.repartition_keeps
    | with_reducible apply State.after_keeps
    | with_reducible apply KeepsR.ite
    | with_reducible apply Keeps.ite
    | with_reducible apply KeepsR.next
    | split

theorem execAgreementRecordReceive_keeps {m : Nat} {s₀ : State} (link : Fin 2) (peer : Fin 4) (peerLink : Fin 2) (delay : BitVec 24) (offset : Int) (r : List Byte) (s : State) (h : Keeps m s₀ s) (hm : Sub 10485771 m) :
    KeepsR m s₀ (execAgreementRecordReceive link peer peerLink delay offset r s) := by
  unfold execAgreementRecordReceive
  repeat' first
    | with_reducible assumption
    | (with_reducible refine Sub.of hm ?_); decide
    | with_reducible apply State.setLinkState_keeps
    | with_reducible apply State.setF_keeps
    | with_reducible apply State.takeRecord_keeps
    | with_reducible apply KeepsR.ite
    | with_reducible apply Keeps.ite
    | with_reducible apply KeepsR.next
    | with_reducible apply Keeps.set_odf

theorem execMemberSilent_keeps {m : Nat} {s₀ : State} (s : State) (h : Keeps m s₀ s) (hm : Sub 10485763 m) :
    KeepsR m s₀ (execMemberSilent s) := by
  unfold execMemberSilent
  repeat' first
    | with_reducible assumption
    | (with_reducible refine Sub.of hm ?_); decide
    | with_reducible apply State.after_keeps
    | with_reducible apply State.showCascade_keeps
    | with_reducible apply State.setF_keeps
    | with_reducible apply KeepsR.ite
    | with_reducible apply Keeps.ite
    | with_reducible apply KeepsR.next

end Sys2Proof.Machine
end

