-- ==== Sys2Proof/Laws/KeepPorts.lean ====
section
/-! SUPPORT. What the operations of Machine/Ports.lean can change: each keeps every part of the state that its number does not name,
and the standing properties of `Keeps`. -/

namespace Sys2Proof.Machine

theorem execLinkUp_keeps {m : Nat} {s₀ : State} (port : Fin 8) (s : State) (h : Keeps m s₀ s) (hm : Sub 8392247 m) :
    KeepsR m s₀ (execLinkUp port s) := by
  unfold execLinkUp
  repeat' first
    | with_reducible assumption
    | (with_reducible refine Sub.of hm ?_); decide
    | with_reducible apply State.setF_keeps
    | with_reducible apply State.reportLink_keeps
    | with_reducible apply State.setPort_keeps
    | with_reducible apply KeepsR.ite
    | with_reducible apply Keeps.ite
    | with_reducible apply KeepsR.next
    | split
    | dsimp only

theorem State.cageChanged_keeps {m : Nat} {s₀ : State} (s : State) (c : Nat) (h : Keeps m s₀ s) (hm : Sub 8390199 m) :
    Keeps m s₀ (State.cageChanged s c) := by
  unfold State.cageChanged
  repeat' first
    | with_reducible assumption
    | (with_reducible refine Sub.of hm ?_); decide
    | with_reducible apply State.postEvent_keeps

theorem execOpticalModuleRemoved_keeps {m : Nat} {s₀ : State} (cage : Fin 2) (s : State) (h : Keeps m s₀ s) (hm : Sub 8392247 m) :
    KeepsR m s₀ (execOpticalModuleRemoved cage s) := by
  unfold execOpticalModuleRemoved
  repeat' first
    | intro _
    | with_reducible assumption
    | (with_reducible refine Sub.of hm ?_); decide
    | with_reducible apply State.portLost_keeps
    | with_reducible apply State.cageChanged_keeps
    | with_reducible apply KeepsR.ite
    | with_reducible apply Keeps.ite
    | with_reducible apply KeepsR.next
    | with_reducible apply Keeps.foldl
    | with_reducible apply Keeps.set_dp

theorem State.impEnabled_keeps {m : Nat} {s₀ : State} (s : State) (p : Nat) (was : Bool) (h : Keeps m s₀ s) (hm : Sub 2051 m) :
    Keeps m s₀ (State.impEnabled s p was) := by
  unfold State.impEnabled
  repeat' first
    | with_reducible assumption
    | (with_reducible refine Sub.of hm ?_); decide
    | with_reducible apply State.showImp_keeps
    | with_reducible apply State.setPort_keeps
    | with_reducible apply Keeps.ite

theorem execImpositionEnable_keeps {m : Nat} {s₀ : State} (init : Nat) (port : Fin 8) (wide : Bool) (upper : Bool) (v : Word) (s : State) (h : Keeps m s₀ s) (hm : Sub 8391699 m) :
    KeepsR m s₀ (execImpositionEnable init port wide upper v s) := by
  unfold execImpositionEnable
  repeat' first
    | with_reducible assumption
    | (with_reducible refine Sub.of hm ?_); decide
    | with_reducible apply State.blockAccess_keeps
    | with_reducible apply State.impEnabled_keeps
    | with_reducible apply State.storeReg_keeps
    | with_reducible apply KeepsR.ite
    | with_reducible apply Keeps.ite
    | with_reducible apply KeepsR.next

theorem State.portEnabled_keeps {m : Nat} {s₀ : State} (s : State) (p : Nat) (wasDown : Bool) (h : Keeps m s₀ s) (hm : Sub 8392247 m) :
    Keeps m s₀ (State.portEnabled s p wasDown) := by
  unfold State.portEnabled
  repeat' first
    | with_reducible assumption
    | (with_reducible refine Sub.of hm ?_); decide
    | with_reducible apply State.reportLink_keeps
    | with_reducible apply State.cutRx_keeps
    | with_reducible apply State.drainTx_keeps
    | with_reducible apply Keeps.ite

theorem execImpositionGo_keeps {m : Nat} {s₀ : State} (init : Nat) (port : Fin 8) (s : State) (h : Keeps m s₀ s) (hm : Sub 8391699 m) :
    KeepsR m s₀ (execImpositionGo init port s) := by
  unfold execImpositionGo
  repeat' first
    | with_reducible assumption
    | (with_reducible refine Sub.of hm ?_); decide
    | with_reducible apply State.blockAccess_keeps
    | with_reducible apply State.setF_keeps
    | with_reducible apply State.setPort_keeps
    | with_reducible apply KeepsR.ite
    | with_reducible apply Keeps.ite
    | with_reducible apply KeepsR.next

theorem State.dropHead_keeps {m : Nat} {s₀ : State} (s : State) (p : Nat) (id : Nat) (k : Nat) (h : Keeps m s₀ s) (hm : Sub 8392247 m) :
    Keeps m s₀ (State.dropHead s p id k) := by
  unfold State.dropHead
  repeat' first
    | with_reducible assumption
    | (with_reducible refine Sub.of hm ?_); decide
    | with_reducible apply State.dropPkt_keeps
    | with_reducible apply State.macCount_keeps
    | with_reducible apply State.popLst_keeps

theorem execLaneFault_keeps {m : Nat} {s₀ : State} (cage : Fin 2) (lane : Fin 8) (s : State) (h : Keeps m s₀ s) (hm : Sub 8392247 m) :
    KeepsR m s₀ (execLaneFault cage lane s) := by
  unfold execLaneFault
  repeat' first
    | with_reducible assumption
    | (with_reducible refine Sub.of hm ?_); decide
    | with_reducible apply State.unitFails_keeps
    | with_reducible apply State.checkLanes_keeps
    | with_reducible apply State.showUnits_keeps
    | with_reducible apply State.replaceUnit_keeps
    | with_reducible apply KeepsR.ite
    | with_reducible apply Keeps.ite
    | with_reducible apply KeepsR.next

theorem execOpticalModuleInserted_keeps {m : Nat} {s₀ : State} (cage : Fin 2) (info : Cmis) (s : State) (h : Keeps m s₀ s) (hm : Sub 8392247 m) :
    KeepsR m s₀ (execOpticalModuleInserted cage info s) := by
  unfold execOpticalModuleInserted
  repeat' first
    | with_reducible assumption
    | (with_reducible refine Sub.of hm ?_); decide
    | with_reducible apply State.chooseCage_keeps
    | with_reducible apply State.cageChanged_keeps
    | with_reducible apply KeepsR.ite
    | with_reducible apply Keeps.ite
    | with_reducible apply KeepsR.next
    | with_reducible apply Keeps.set_dp

theorem State.launch_keeps {m : Nat} {s₀ : State} (s : State) (p : Nat) (id : Nat) (k : Pkt) (at_ : Nat) (h : Keeps m s₀ s) (hm : Sub 8392247 m) :
    Keeps m s₀ (State.launch s p id k at_) := by
  unfold State.launch
  repeat' first
    | with_reducible assumption
    | (with_reducible refine Sub.of hm ?_); decide
    | with_reducible apply State.popLst_keeps
    | with_reducible apply State.after_keeps
    | with_reducible apply State.portStamp_keeps
    | with_reducible apply State.emit_keeps
    | with_reducible apply State.macCount_keeps
    | with_reducible apply State.freePkt_keeps
    | with_reducible apply State.setPort_keeps
    | with_reducible apply State.completeTx_keeps
    | with_reducible apply Keeps.ite

theorem execOpticalModuleFault_keeps {m : Nat} {s₀ : State} (cage : Fin 2) (s : State) (h : Keeps m s₀ s) (hm : Sub 19 m) :
    KeepsR m s₀ (execOpticalModuleFault cage s) := by
  unfold execOpticalModuleFault
  repeat' first
    | intro _
    | with_reducible assumption
    | (with_reducible refine Sub.of hm ?_); decide
    | with_reducible apply State.raise_keeps
    | with_reducible apply KeepsR.ite
    | with_reducible apply Keeps.ite
    | with_reducible apply KeepsR.next
    | with_reducible apply Keeps.foldl

theorem execLinkPartnerLpi_keeps {m : Nat} {s₀ : State} (port : Fin 8) (on : Bool) (s : State) (h : Keeps m s₀ s) (hm : Sub 3 m) :
    KeepsR m s₀ (execLinkPartnerLpi port on s) := by
  unfold execLinkPartnerLpi
  repeat' first
    | with_reducible assumption
    | (with_reducible refine Sub.of hm ?_); decide
    | with_reducible apply State.setF_keeps
    | with_reducible apply KeepsR.ite
    | with_reducible apply Keeps.ite
    | with_reducible apply KeepsR.next

theorem execLpiEnter_keeps {m : Nat} {s₀ : State} (port : Fin 8) (s : State) (h : Keeps m s₀ s) (hm : Sub 2051 m) :
    KeepsR m s₀ (execLpiEnter port s) := by
  unfold execLpiEnter
  repeat' first
    | with_reducible assumption
    | (with_reducible refine Sub.of hm ?_); decide
    | with_reducible apply State.after_keeps
    | with_reducible apply State.macCount_keeps
    | with_reducible apply State.setF_keeps
    | with_reducible apply State.setPort_keeps
    | with_reducible apply KeepsR.ite
    | with_reducible apply Keeps.ite
    | with_reducible apply KeepsR.next

theorem execLpiWakeDone_keeps {m : Nat} {s₀ : State} (port : Fin 8) (s : State) (h : Keeps m s₀ s) (hm : Sub 2051 m) :
    KeepsR m s₀ (execLpiWakeDone port s) := by
  unfold execLpiWakeDone
  repeat' first
    | with_reducible assumption
    | (with_reducible refine Sub.of hm ?_); decide
    | with_reducible apply State.after_keeps
    | with_reducible apply State.macCount_keeps
    | with_reducible apply State.setF_keeps
    | with_reducible apply State.setPort_keeps
    | with_reducible apply KeepsR.ite
    | with_reducible apply Keeps.ite
    | with_reducible apply KeepsR.next

theorem execImpositionCycleStart_keeps {m : Nat} {s₀ : State} (port : Fin 8) (s : State) (h : Keeps m s₀ s) (hm : Sub 2051 m) :
    KeepsR m s₀ (execImpositionCycleStart port s) := by
  unfold execImpositionCycleStart
  repeat' first
    | with_reducible assumption
    | (with_reducible refine Sub.of hm ?_); decide
    | with_reducible apply State.bump_keeps
    | with_reducible apply State.after_keeps
    | with_reducible apply State.showImp_keeps
    | with_reducible apply State.setPort_keeps
    | with_reducible apply KeepsR.ite
    | with_reducible apply Keeps.ite
    | with_reducible apply KeepsR.next
    | split
    | dsimp only

theorem execFrameLaunch_keeps {m : Nat} {s₀ : State} (port : Fin 8) (s : State) (h : Keeps m s₀ s) (hm : Sub 8392247 m) :
    KeepsR m s₀ (execFrameLaunch port s) := by
  unfold execFrameLaunch
  repeat' first
    | with_reducible assumption
    | (with_reducible refine Sub.of hm ?_); decide
    | with_reducible apply State.dropHead_keeps
    | with_reducible apply State.after_keeps
    | with_reducible apply State.draw_keeps
    | with_reducible apply State.launch_keeps
    | with_reducible apply KeepsR.ite
    | with_reducible apply Keeps.ite
    | with_reducible apply KeepsR.next
    | split
    | dsimp only

theorem execLinkDown_keeps {m : Nat} {s₀ : State} (port : Fin 8) (s : State) (h : Keeps m s₀ s) (hm : Sub 8392247 m) :
    KeepsR m s₀ (execLinkDown port s) := by
  unfold execLinkDown
  repeat' first
    | with_reducible assumption
    | (with_reducible refine Sub.of hm ?_); decide
    | with_reducible apply State.portLost_keeps
    | with_reducible apply KeepsR.next

theorem execImpositionCopyDone_keeps {m : Nat} {s₀ : State} (port : Fin 8) (s : State) (h : Keeps m s₀ s) (hm : Sub 2051 m) :
    KeepsR m s₀ (execImpositionCopyDone port s) := by
  unfold execImpositionCopyDone
  repeat' first
    | with_reducible assumption
    | (with_reducible refine Sub.of hm ?_); decide
    | with_reducible apply State.setF_keeps
    | with_reducible apply State.setPort_keeps
    | with_reducible apply KeepsR.next
    | split
    | dsimp only

theorem execImpositionSwap_keeps {m : Nat} {s₀ : State} (port : Fin 8) (s : State) (h : Keeps m s₀ s) (hm : Sub 2051 m) :
    KeepsR m s₀ (execImpositionSwap port s) := by
  unfold execImpositionSwap
  repeat' first
    | with_reducible assumption
    | (with_reducible refine Sub.of hm ?_); decide
    | with_reducible apply State.after_keeps
    | with_reducible apply State.bump_keeps
    | with_reducible apply State.setF_keeps
    | with_reducible apply State.showImp_keeps
    | with_reducible apply State.setPort_keeps
    | with_reducible apply KeepsR.ite
    | with_reducible apply Keeps.ite
    | with_reducible apply KeepsR.next
    | split
    | dsimp only

end Sys2Proof.Machine
end

