-- ==== Sys2Proof/Laws/KeepBadWords.lean ====
section
/-! SUPPORT. What the operations of Machine/BadWords.lean can change: each keeps every part of the state that its number does not name,
and the standing properties of `Keeps`. -/

namespace Sys2Proof.Machine

theorem State.badRx_keeps {m : Nat} {s₀ : State} (s : State) (p : Nat) (h : Keeps m s₀ s) (hm : Sub 8392247 m) :
    Keeps m s₀ (State.badRx s p) := by
  unfold State.badRx
  repeat' first
    | with_reducible assumption
    | (with_reducible refine Sub.of hm ?_); decide
    | with_reducible apply State.cutRx_keeps
    | with_reducible apply State.dropPkt_keeps
    | with_reducible apply State.popLst_keeps
    | with_reducible apply Keeps.ite
    | split
    | dsimp only

theorem State.badTx_keeps {m : Nat} {s₀ : State} (s : State) (p : Nat) (h : Keeps m s₀ s) (hm : Sub 8392247 m) :
    Keeps m s₀ (State.badTx s p) := by
  unfold State.badTx
  repeat' first
    | with_reducible assumption
    | (with_reducible refine Sub.of hm ?_); decide
    | with_reducible apply State.setPort_keeps
    | with_reducible apply State.emit_keeps
    | with_reducible apply State.dropPkt_keeps
    | with_reducible apply State.popLst_keeps
    | with_reducible apply Keeps.ite
    | split

theorem State.badKey_keeps {m : Nat} {s₀ : State} (s : State) (k : Nat) (desc : Option Nat) (h : Keeps m s₀ s) (hm : Sub 98307 m) :
    Keeps m s₀ (State.badKey s k desc) := by
  unfold State.badKey
  repeat' first
    | intro _
    | with_reducible assumption
    | (with_reducible refine Sub.of hm ?_); decide
    | with_reducible apply State.endDesc_keeps
    | with_reducible apply State.cipherOutput_keeps
    | with_reducible apply Keeps.foldl
    | with_reducible apply Keeps.set_cph

theorem State.badHeld_keeps {m : Nat} {s₀ : State} (s : State) (num : Nat) (i : Nat) (r : Ring) (h : Keeps m s₀ s) (hm : Sub 512 m) :
    Keeps m s₀ (State.badHeld s num i r) := by
  unfold State.badHeld
  repeat' first
    | with_reducible assumption
    | (with_reducible refine Sub.of hm ?_); decide
    | with_reducible apply State.drawBytes_keeps
    | with_reducible apply State.setRing_keeps
    | with_reducible apply Keeps.ite

theorem State.badBuf_keeps {m : Nat} {s₀ : State} (s : State) (i : Nat) (b : NveBuf) (h : Keeps m s₀ s) (hm : Sub 262147 m) :
    Keeps m s₀ (State.badBuf s i b) := by
  unfold State.badBuf
  repeat' first
    | with_reducible assumption
    | (with_reducible refine Sub.of hm ?_); decide
    | with_reducible apply State.setBuf_keeps
    | with_reducible apply State.discardMsg_keeps
    | split

theorem State.wordEffect_keeps {m : Nat} {s₀ : State} (s : State) (y_ : BadWord) (h : Keeps m s₀ s) (hm : Sub 8883767 m) :
    ∀ q e t, State.wordEffect s y_ = some (q, e, t) → Keeps m s₀ t := by
  intro q e t ht
  unfold State.wordEffect at ht
  split at ht <;>
    simp only [Option.map_eq_some_iff, Option.bind_eq_some_iff, Option.some.injEq, Prod.mk.injEq] at ht
  all_goals first
    | obtain ⟨-, -, rfl⟩ := ht
    | obtain ⟨x, -, -, -, rfl⟩ := ht
    | obtain ⟨x, -, y, -, -, -, rfl⟩ := ht
  all_goals repeat' first
    | with_reducible assumption
    | (with_reducible refine Sub.of hm ?_); decide
    | with_reducible apply State.badRx_keeps
    | with_reducible apply State.badTx_keeps
    | with_reducible apply State.nvmeSettle_keeps
    | with_reducible apply State.endOut_keeps
    | with_reducible apply State.dropIn_keeps
    | with_reducible apply State.badKey_keeps
    | with_reducible apply State.stopRing_keeps
    | with_reducible apply State.setRing_keeps
    | with_reducible apply State.badHeld_keeps
    | with_reducible apply State.setSlice_keeps
    | with_reducible apply State.nvmeEnd_keeps
    | with_reducible apply State.cutCmd_keeps
    | with_reducible apply State.setCtrl_keeps
    | with_reducible apply State.faultNs_keeps
    | with_reducible apply State.badBuf_keeps
    | with_reducible apply Keeps.set_slc
    | with_reducible apply Keeps.set_drt

theorem State.badWord_keeps {m : Nat} {s₀ : State} (s : State) (q : Nat) (w : BadWord) (h : Keeps m s₀ s) (hm : Sub 8883767 m) :
    Keeps m s₀ (State.badWord s q w) := by
  unfold State.badWord
  split
  · rename_i ht
    split
    · exact State.raise_keeps _ _ _ _ (State.wordEffect_keeps s w h (Sub.of hm (by decide)) _ _ _ ht) (Sub.of hm (by decide))
    · exact h
  · exact h

end Sys2Proof.Machine
end

