-- ==== Sys2Proof/Laws/KeepPrf.lean ====
section
/-! SUPPORT. What the operations of Machine/Prf.lean can change: each keeps every part of the state that its number does not name,
and the standing properties of `Keeps`. -/

namespace Sys2Proof.Machine

theorem State.scheduleRow_keeps {m : Nat} {s₀ : State} (s : State) (d : Defect) (origin : Nat) (h : Keeps m s₀ s) (hm : Sub 19 m) :
    Keeps m s₀ (State.scheduleRow s d origin) := by
  unfold State.scheduleRow
  repeat' first
    | with_reducible assumption
    | (with_reducible refine Sub.of hm ?_); decide
    | with_reducible apply State.logAdd_keeps
    | with_reducible apply State.raiseRth_keeps
    | with_reducible apply Keeps.ite

theorem State.popEvent_keeps {m : Nat} {s₀ : State} (s : State) (q : Nat) (fault : Bool) (h : Keeps m s₀ s) (hm : Sub 19 m) :
    Keeps m s₀ (State.popEvent s q fault).2 := by
  unfold State.popEvent
  repeat' first
    | with_reducible assumption
    | (with_reducible refine Sub.of hm ?_); decide
    | with_reducible apply State.setWaiting_keeps
    | with_reducible apply Keeps.ite
    | split

theorem State.trackRow_keeps {m : Nat} {s₀ : State} (s : State) (n : Nat) (h : Keeps m s₀ s) (hm : Sub 19 m) :
    Keeps m s₀ (State.trackRow s n) := by
  unfold State.trackRow
  repeat' first
    | with_reducible assumption
    | (with_reducible refine Sub.of hm ?_); decide
    | with_reducible apply State.scheduleRow_keeps
    | with_reducible apply Keeps.ite
    | with_reducible apply Keeps.set_prf

theorem execCorrectedEvent_keeps {m : Nat} {s₀ : State} (q : Fin 47) (ev : Option ErrEvent) (s : State) (h : Keeps m s₀ s) (hm : Sub 8388627 m) :
    KeepsR m s₀ (execCorrectedEvent q ev s) := by
  unfold execCorrectedEvent
  repeat' first
    | with_reducible assumption
    | (with_reducible refine Sub.of hm ?_); decide
    | with_reducible apply State.raiseAs_keeps
    | with_reducible apply State.popEvent_keeps
    | with_reducible apply State.emit_keeps
    | with_reducible apply State.setF_keeps
    | with_reducible apply State.trackRow_keeps
    | with_reducible apply KeepsR.ite
    | with_reducible apply Keeps.ite
    | with_reducible apply KeepsR.next
    | split
    | with_reducible apply Keeps.of2 ‹_›
    | dsimp only

theorem State.writeLastFault_keeps {m : Nat} {s₀ : State} (s : State) (src : Nat) (cls : Nat) (level : Nat) (cause : Nat) (secs : Nat) (h : Keeps m s₀ s) (hm : Sub 3 m) :
    Keeps m s₀ (State.writeLastFault s src cls level cause secs) := by
  unfold State.writeLastFault
  repeat' first
    | with_reducible assumption
    | (with_reducible refine Sub.of hm ?_); decide
    | with_reducible apply State.setF_keeps

theorem execFaultAck_keeps {m : Nat} {s₀ : State} (init : Nat) (wide : Bool) (upper : Bool) (v : Word) (s : State) (h : Keeps m s₀ s) (hm : Sub 8389651 m) :
    KeepsR m s₀ (execFaultAck init wide upper v s) := by
  unfold execFaultAck
  repeat' first
    | intro _
    | with_reducible assumption
    | (with_reducible refine Sub.of hm ?_); decide
    | with_reducible apply State.blockAccess_keeps
    | with_reducible apply State.setF_keeps
    | with_reducible apply State.showSafelight_keeps
    | with_reducible apply KeepsR.ite
    | with_reducible apply Keeps.ite
    | with_reducible apply KeepsR.next
    | with_reducible apply Keeps.foldl
    | with_reducible apply Keeps.set_prf

theorem execSafelightFeed_keeps {m : Nat} {s₀ : State} (init : Nat) (v : BitVec 8) (s : State) (h : Keeps m s₀ s) (hm : Sub 8389651 m) :
    KeepsR m s₀ (execSafelightFeed init v s) := by
  unfold execSafelightFeed
  repeat' first
    | with_reducible assumption
    | (with_reducible refine Sub.of hm ?_); decide
    | with_reducible apply State.blockAccess_keeps
    | with_reducible apply State.raise_keeps
    | with_reducible apply State.showSafelight_keeps
    | with_reducible apply KeepsR.ite
    | with_reducible apply Keeps.ite
    | with_reducible apply KeepsR.next
    | with_reducible apply Keeps.set_prf

theorem execErrorInject_keeps {m : Nat} {s₀ : State} (init : Nat) (blk : Fin 26) (v : Word) (s : State) (h : Keeps m s₀ s) (hm : Sub 8389651 m) :
    KeepsR m s₀ (execErrorInject init blk v s) := by
  unfold execErrorInject
  repeat' first
    | with_reducible assumption
    | (with_reducible refine Sub.of hm ?_); decide
    | with_reducible apply State.blockAccess_keeps
    | with_reducible apply State.storeReg_keeps
    | with_reducible apply State.raiseAs_keeps
    | with_reducible apply KeepsR.ite
    | with_reducible apply Keeps.ite
    | with_reducible apply KeepsR.next

theorem execPrfSliceLift_keeps {m : Nat} {s₀ : State} (init : Nat) (slice : BitVec 14) (s : State) (h : Keeps m s₀ s) (hm : Sub 8389651 m) :
    KeepsR m s₀ (execPrfSliceLift init slice s) := by
  unfold execPrfSliceLift
  repeat' first
    | with_reducible assumption
    | (with_reducible refine Sub.of hm ?_); decide
    | with_reducible apply State.blockAccess_keeps
    | with_reducible apply State.setF_keeps
    | with_reducible apply State.showGates_keeps
    | with_reducible apply KeepsR.ite
    | with_reducible apply Keeps.ite
    | with_reducible apply KeepsR.next
    | with_reducible apply Keeps.set_prf

theorem execRepairLogRead_keeps {m : Nat} {s₀ : State} (init : Nat) (index : BitVec 12) (s : State) (h : Keeps m s₀ s) (hm : Sub 8389651 m) :
    KeepsR m s₀ (execRepairLogRead init index s) := by
  unfold execRepairLogRead
  repeat' first
    | with_reducible assumption
    | (with_reducible refine Sub.of hm ?_); decide
    | with_reducible apply State.blockAccess_keeps
    | with_reducible apply State.setReg_keeps
    | with_reducible apply State.setF_keeps
    | with_reducible apply KeepsR.ite
    | with_reducible apply Keeps.ite
    | with_reducible apply KeepsR.next

theorem State.bootRecord_keeps {m : Nat} {s₀ : State} (s : State) (d : Defect) (state : Nat) (spare : Nat) (h : Keeps m s₀ s) (hm : Sub 19 m) :
    Keeps m s₀ (State.bootRecord s d state spare) := by
  unfold State.bootRecord
  repeat' first
    | with_reducible assumption
    | (with_reducible refine Sub.of hm ?_); decide
    | with_reducible apply State.logResolve_keeps
    | with_reducible apply State.logAdd_keeps
    | with_reducible apply Keeps.ite

theorem State.takeRow_keeps {m : Nat} {s₀ : State} (s : State) (d : Defect) (h : Keeps m s₀ s) (hm : Sub 16 m) :
    Keeps m s₀ (State.takeRow s d) := by
  unfold State.takeRow
  repeat' first
    | with_reducible assumption
    | (with_reducible refine Sub.of hm ?_); decide
    | with_reducible apply Keeps.set_prf

theorem State.pipelineOut_keeps {m : Nat} {s₀ : State} (s : State) (p : Nat) (h : Keeps m s₀ s) (hm : Sub 3 m) :
    Keeps m s₀ (State.pipelineOut s p) := by
  unfold State.pipelineOut
  repeat' first
    | with_reducible assumption
    | (with_reducible refine Sub.of hm ?_); decide
    | with_reducible apply State.setF_keeps

theorem State.fence_keeps {m : Nat} {s₀ : State} (s : State) (h : Keeps m s₀ s) (hm : Sub 3 m) :
    Keeps m s₀ (State.fence s) := by
  unfold State.fence
  repeat' first
    | with_reducible assumption
    | (with_reducible refine Sub.of hm ?_); decide
    | with_reducible apply State.bump_keeps

theorem State.bootUnit_keeps {m : Nat} {s₀ : State} (s : State) (kind : Nat) (phys : Nat) (h : Keeps m s₀ s) (hm : Sub 19 m) :
    Keeps m s₀ (State.bootUnit s kind phys) := by
  unfold State.bootUnit
  repeat' first
    | with_reducible assumption
    | (with_reducible refine Sub.of hm ?_); decide
    | with_reducible apply State.markFailed_keeps
    | with_reducible apply State.bootRecord_keeps
    | with_reducible apply State.raiseRth_keeps
    | with_reducible apply State.setUnit_keeps
    | split
    | dsimp only

theorem State.bootRow_keeps {m : Nat} {s₀ : State} (s : State) (d : Defect) (h : Keeps m s₀ s) (hm : Sub 19 m) :
    Keeps m s₀ (State.bootRow s d) := by
  unfold State.bootRow
  repeat' first
    | with_reducible assumption
    | (with_reducible refine Sub.of hm ?_); decide
    | with_reducible apply State.raiseRth_keeps
    | with_reducible apply State.bootRecord_keeps
    | with_reducible apply State.takeRow_keeps
    | with_reducible apply State.bump_keeps
    | with_reducible apply State.pipelineOut_keeps
    | with_reducible apply State.fence_keeps
    | with_reducible apply State.bootUnit_keeps
    | with_reducible apply Keeps.ite

theorem State.reapply_keeps {m : Nat} {s₀ : State} (s : State) (e : RepairEntry) (h : Keeps m s₀ s) (hm : Sub 19 m) :
    Keeps m s₀ (State.reapply s e) := by
  unfold State.reapply
  repeat' first
    | with_reducible assumption
    | (with_reducible refine Sub.of hm ?_); decide
    | with_reducible apply State.takeRow_keeps
    | with_reducible apply State.markFailed_keeps
    | with_reducible apply State.setUnit_keeps
    | with_reducible apply State.bump_keeps
    | with_reducible apply State.fence_keeps
    | with_reducible apply State.pipelineOut_keeps
    | with_reducible apply Keeps.ite
    | split

theorem State.bootDefect_keeps {m : Nat} {s₀ : State} (s : State) (d : Defect) (h : Keeps m s₀ s) (hm : Sub 19 m) :
    Keeps m s₀ (State.bootDefect s d) := by
  unfold State.bootDefect
  repeat' first
    | with_reducible assumption
    | (with_reducible refine Sub.of hm ?_); decide
    | with_reducible apply State.bootRow_keeps
    | with_reducible apply State.bootUnit_keeps
    | with_reducible apply Keeps.ite

theorem State.retouchUnits_keeps {m : Nat} {s₀ : State} (s : State) (found : List Defect) (h : Keeps m s₀ s) (hm : Sub 19 m) :
    Keeps m s₀ (State.retouchUnits s found) := by
  unfold State.retouchUnits
  repeat' first
    | intro _
    | with_reducible assumption
    | (with_reducible refine Sub.of hm ?_); decide
    | with_reducible apply State.reapply_keeps
    | with_reducible apply State.showUnits_keeps
    | with_reducible apply State.bootDefect_keeps
    | with_reducible apply Keeps.foldl
    | with_reducible apply Keeps.set_prf

theorem State.selfTestTime_keeps {m : Nat} {s₀ : State} (s : State) (h : Keeps m s₀ s) :
    Keeps m s₀ (State.selfTestTime s) := by
  unfold State.selfTestTime
  repeat' first
    | with_reducible assumption
    | with_reducible apply State.draw_keeps
    | with_reducible apply State.after_keeps

theorem State.markTested_keeps {m : Nat} {s₀ : State} (s : State) (h : Keeps m s₀ s) (hm : Sub 16 m) :
    Keeps m s₀ (State.markTested s) := by
  unfold State.markTested
  try dsimp only
  repeat' first
    | with_reducible assumption
    | (with_reducible refine Sub.of hm ?_); decide
    | split
    | with_reducible apply Keeps.set_prf
    | dsimp only

theorem State.setPhase_keeps {m : Nat} {s₀ : State} (s : State) (p : BootPhase) (h : Keeps m s₀ s) (hm : Sub 8 m) :
    Keeps m s₀ (State.setPhase s p) := by
  unfold State.setPhase
  try dsimp only
  repeat' first
    | with_reducible assumption
    | (with_reducible refine Sub.of hm ?_); decide
    | split
    | with_reducible apply Keeps.set_modes
    | dsimp only

theorem execSelfTest_keeps {m : Nat} {s₀ : State} (found : List Defect) (fatal : Bool) (s : State) (h : Keeps m s₀ s) (hm : Sub 8388635 m) :
    KeepsR m s₀ (execSelfTest found fatal s) := by
  unfold execSelfTest
  have h2 : Keeps m s₀ (s.selfTestTime.retouchUnits found) :=
    State.retouchUnits_keeps _ _ (State.selfTestTime_keeps _ h) (Sub.of hm (by decide))
  generalize s.selfTestTime.retouchUnits found = u at h2 ⊢
  repeat' first
    | with_reducible assumption
    | (with_reducible refine Sub.of hm ?_); decide
    | with_reducible apply State.retouchUnits_keeps
    | with_reducible apply State.selfTestTime_keeps
    | with_reducible apply State.setF_keeps
    | with_reducible apply State.raiseRth_keeps
    | with_reducible apply State.emit_keeps
    | with_reducible apply State.markTested_keeps
    | with_reducible apply State.setPhase_keeps
    | with_reducible apply KeepsR.ite
    | with_reducible apply Keeps.ite
    | with_reducible apply KeepsR.next
    | with_reducible apply Keeps.set_modes_prf

theorem State.faultReset_keeps {m : Nat} {s₀ : State} (s : State) (src : Nat) (h : Keeps m s₀ s) (hm : Sub 16777151 m) :
    Keeps m s₀ (State.faultReset s src) := by
  unfold State.faultReset
  repeat' first
    | with_reducible assumption
    | (with_reducible refine Sub.of hm ?_); decide
    | with_reducible apply State.beginReset_keeps
    | with_reducible apply State.setF_keeps
    | with_reducible apply Keeps.ite

theorem State.recordFault_keeps {m : Nat} {s₀ : State} (s : State) (src : Nat) (cls : Nat) (level : Nat) (esc : Bool) (e : ErrEvent) (h : Keeps m s₀ s) (hm : Sub 3 m) :
    Keeps m s₀ (State.recordFault s src cls level esc e) := by
  unfold State.recordFault
  repeat' first
    | with_reducible assumption
    | (with_reducible refine Sub.of hm ?_); decide
    | with_reducible apply State.setF_keeps
    | with_reducible apply State.setReg_keeps
    | with_reducible apply Keeps.ite
    | split

theorem State.containModule_keeps {m : Nat} {s₀ : State} (s : State) (h : Keeps m s₀ s) (hm : Sub 3 m) :
    Keeps m s₀ (State.containModule s) := by
  unfold State.containModule
  repeat' first
    | with_reducible assumption
    | (with_reducible refine Sub.of hm ?_); decide
    | with_reducible apply State.setF_keeps

theorem State.actOnLevel_keeps {m : Nat} {s₀ : State} (s : State) (src : Nat) (cls : Nat) (level : Nat) (e : ErrEvent) (h : Keeps m s₀ s) (hm : Sub 16777151 m) :
    Keeps m s₀ (State.actOnLevel s src cls level e) := by
  unfold State.actOnLevel
  repeat' first
    | with_reducible assumption
    | (with_reducible refine Sub.of hm ?_); decide
    | with_reducible apply State.showGates_keeps
    | with_reducible apply State.writeLastFault_keeps
    | with_reducible apply State.enterSafeHold_keeps
    | with_reducible apply State.containModule_keeps
    | with_reducible apply State.faultReset_keeps
    | with_reducible apply Keeps.ite
    | split
    | with_reducible apply Keeps.set_prf

theorem execFaultEvent_keeps {m : Nat} {s₀ : State} (q : Fin 47) (ev : Option ErrEvent) (word : Option BadWord) (row : Option Defect) (s : State) (h : Keeps m s₀ s) (hm : Sub 16777151 m) :
    KeepsR m s₀ (execFaultEvent q ev word row s) := by
  unfold execFaultEvent
  repeat' first
    | with_reducible assumption
    | (with_reducible refine Sub.of hm ?_); decide
    | with_reducible apply State.badWord_keeps
    | with_reducible apply State.raiseAs_keeps
    | with_reducible apply State.popEvent_keeps
    | with_reducible apply State.emit_keeps
    | with_reducible apply State.recordFault_keeps
    | with_reducible apply State.scheduleRow_keeps
    | with_reducible apply State.showSafelight_keeps
    | with_reducible apply State.actOnLevel_keeps
    | with_reducible apply KeepsR.ite
    | with_reducible apply Keeps.ite
    | with_reducible apply KeepsR.next
    | split
    | with_reducible apply Keeps.of2 ‹_›
    | dsimp only

theorem execUnitFailure_keeps {m : Nat} {s₀ : State} (kind : Fin 7) (unit : Nat) (s : State) (h : Keeps m s₀ s) (hm : Sub 19 m) :
    KeepsR m s₀ (execUnitFailure kind unit s) := by
  unfold execUnitFailure
  repeat' first
    | with_reducible assumption
    | (with_reducible refine Sub.of hm ?_); decide
    | with_reducible apply State.unitFails_keeps
    | with_reducible apply KeepsR.ite
    | with_reducible apply Keeps.ite
    | with_reducible apply KeepsR.next

theorem execSafelightFeedTimeout_keeps {m : Nat} {s₀ : State} (s : State) (h : Keeps m s₀ s) (hm : Sub 19 m) :
    KeepsR m s₀ (execSafelightFeedTimeout s) := by
  unfold execSafelightFeedTimeout
  repeat' first
    | with_reducible assumption
    | (with_reducible refine Sub.of hm ?_); decide
    | with_reducible apply State.after_keeps
    | with_reducible apply State.raise_keeps
    | with_reducible apply State.showSafelight_keeps
    | with_reducible apply KeepsR.ite
    | with_reducible apply Keeps.ite
    | with_reducible apply KeepsR.next
    | split
    | with_reducible apply Keeps.set_prf

theorem execSelfTestFatalRetry_keeps {m : Nat} {s₀ : State} (s : State) (h : Keeps m s₀ s) (hm : Sub 16777151 m) :
    KeepsR m s₀ (execSelfTestFatalRetry s) := by
  unfold execSelfTestFatalRetry
  repeat' first
    | with_reducible assumption
    | (with_reducible refine Sub.of hm ?_); decide
    | with_reducible apply State.beginReset_keeps
    | with_reducible apply State.after_keeps
    | with_reducible apply KeepsR.ite
    | with_reducible apply Keeps.ite
    | with_reducible apply KeepsR.next
    | split

theorem execClockDeviation_keeps {m : Nat} {s₀ : State} (s : State) (h : Keeps m s₀ s) (hm : Sub 19 m) :
    KeepsR m s₀ (execClockDeviation s) := by
  unfold execClockDeviation
  repeat' first
    | with_reducible assumption
    | (with_reducible refine Sub.of hm ?_); decide
    | with_reducible apply State.raise_keeps
    | with_reducible apply KeepsR.next

theorem execPatrolScrub_keeps {m : Nat} {s₀ : State} (q : Fin 45) (mem : Fin 3) (found : Fin 3) (unit : Nat) (row : Nat) (s : State) (h : Keeps m s₀ s) (hm : Sub 19 m) :
    KeepsR m s₀ (execPatrolScrub q mem found unit row s) := by
  unfold execPatrolScrub
  repeat' first
    | with_reducible assumption
    | (with_reducible refine Sub.of hm ?_); decide
    | with_reducible apply State.raise_keeps
    | with_reducible apply State.scheduleRow_keeps
    | with_reducible apply KeepsR.ite
    | with_reducible apply Keeps.ite
    | with_reducible apply KeepsR.next

theorem execSafelightBoundary_keeps {m : Nat} {s₀ : State} (s : State) (h : Keeps m s₀ s) (hm : Sub 8388627 m) :
    KeepsR m s₀ (execSafelightBoundary s) := by
  unfold execSafelightBoundary
  repeat' first
    | with_reducible assumption
    | (with_reducible refine Sub.of hm ?_); decide
    | with_reducible apply State.after_keeps
    | with_reducible apply State.showSafelight_keeps
    | with_reducible apply State.emit_keeps
    | with_reducible apply State.setF_keeps
    | with_reducible apply KeepsR.ite
    | with_reducible apply Keeps.ite
    | with_reducible apply KeepsR.next
    | with_reducible apply Keeps.set_prf

end Sys2Proof.Machine
end

