-- ==== Sys2Proof/Laws/KeepRings.lean ====
section
/-! SUPPORT. What the operations of Machine/Rings.lean can change: each keeps every part of the state that its number does not name,
and the standing properties of `Keeps`. -/

namespace Sys2Proof.Machine

theorem State.ringOpAccess_keeps {m : Nat} {s₀ : State} (s : State) (f : Nat) (h : Keeps m s₀ s) (hm : Sub 8389651 m) :
    Keeps m s₀ (State.ringOpAccess s f).1 := by
  unfold State.ringOpAccess
  repeat' first
    | with_reducible assumption
    | (with_reducible refine Sub.of hm ?_); decide
    | with_reducible apply State.blockAccess_keeps
    | with_reducible apply Keeps.ite
    | with_reducible apply Keeps.ite1
    | with_reducible apply Keeps.ite2

theorem State.ringResult_keeps {m : Nat} {s₀ : State} (s : State) (f : Nat) (op : Nat) (status : Nat) (r : Option (Nat × Ring)) (h : Keeps m s₀ s) (hm : Sub 3 m) :
    Keeps m s₀ (State.ringResult s f op status r) := by
  unfold State.ringResult
  repeat' first
    | with_reducible assumption
    | (with_reducible refine Sub.of hm ?_); decide
    | with_reducible apply State.setF_keeps
    | with_reducible apply Keeps.ite
    | split

theorem State.writeLineStatus_keeps {m : Nat} {s₀ : State} (s : State) (cls : Nat) (num : Nat) (h : Keeps m s₀ s) (hm : Sub 8390199 m) :
    Keeps m s₀ (State.writeLineStatus s cls num) := by
  unfold State.writeLineStatus
  repeat' first
    | with_reducible assumption
    | (with_reducible refine Sub.of hm ?_); decide
    | with_reducible apply State.dmaCheck_keeps
    | with_reducible apply State.issueWrite_keeps
    | with_reducible apply State.stopRing_keeps
    | with_reducible apply Keeps.ite
    | split

theorem execRingDisable_keeps {m : Nat} {s₀ : State} (fn : Nat) (s : State) (h : Keeps m s₀ s) (hm : Sub 8390199 m) :
    KeepsR m s₀ (execRingDisable fn s) := by
  unfold execRingDisable
  repeat' first
    | with_reducible assumption
    | (with_reducible refine Sub.of hm ?_); decide
    | with_reducible apply State.ringOpAccess_keeps
    | with_reducible apply State.ringResult_keeps
    | with_reducible apply State.setRing_keeps
    | with_reducible apply State.writeLineStatus_keeps
    | with_reducible apply State.bump_keeps
    | with_reducible apply KeepsR.ite
    | with_reducible apply Keeps.ite
    | with_reducible apply KeepsR.next
    | split
    | dsimp only

theorem execDoorbell_keeps {m : Nat} {s₀ : State} (fn : Nat) (page : Option Nat) (d : Nat) (poisoned : Bool) (s : State) (h : Keeps m s₀ s) (hm : Sub 8390195 m) :
    KeepsR m s₀ (execDoorbell fn page d poisoned s) := by
  unfold execDoorbell
  repeat' first
    | with_reducible assumption
    | (with_reducible refine Sub.of hm ?_); decide
    | with_reducible apply State.bump_keeps
    | with_reducible apply State.touchFn_keeps
    | with_reducible apply State.aerUncorrectable_keeps
    | with_reducible apply State.setRing_keeps
    | with_reducible apply State.showLtr_keeps
    | with_reducible apply State.maybeSignal_keeps
    | with_reducible apply KeepsR.ite
    | with_reducible apply Keeps.ite
    | with_reducible apply KeepsR.next
    | split

theorem execRingCreate_keeps {m : Nat} {s₀ : State} (fn : Nat) (s : State) (h : Keeps m s₀ s) (hm : Sub 8390163 m) :
    KeepsR m s₀ (execRingCreate fn s) := by
  unfold execRingCreate
  repeat' first
    | with_reducible assumption
    | (with_reducible refine Sub.of hm ?_); decide
    | with_reducible apply State.ringOpAccess_keeps
    | with_reducible apply State.ringResult_keeps
    | with_reducible apply State.setRing_keeps
    | with_reducible apply State.setF_keeps
    | with_reducible apply KeepsR.ite
    | with_reducible apply Keeps.ite
    | with_reducible apply KeepsR.next
    | split
    | dsimp only

theorem State.issueLineRead_keeps {m : Nat} {s₀ : State} (s : State) (num : Nat) (h : Keeps m s₀ s) (hm : Sub 8390199 m) :
    Keeps m s₀ (State.issueLineRead s num) := by
  unfold State.issueLineRead
  repeat' first
    | with_reducible assumption
    | (with_reducible refine Sub.of hm ?_); decide
    | with_reducible apply State.setRing_keeps
    | with_reducible apply State.dmaCheck_keeps
    | with_reducible apply State.issueRead_keeps
    | with_reducible apply State.stopRing_keeps
    | with_reducible apply Keeps.ite
    | split

theorem execRingEnable_keeps {m : Nat} {s₀ : State} (fn : Nat) (s : State) (h : Keeps m s₀ s) (hm : Sub 8390199 m) :
    KeepsR m s₀ (execRingEnable fn s) := by
  unfold execRingEnable
  repeat' first
    | with_reducible assumption
    | (with_reducible refine Sub.of hm ?_); decide
    | with_reducible apply State.ringOpAccess_keeps
    | with_reducible apply State.ringResult_keeps
    | with_reducible apply State.writeLineStatus_keeps
    | with_reducible apply State.setRing_keeps
    | with_reducible apply State.issueLineRead_keeps
    | with_reducible apply KeepsR.ite
    | with_reducible apply Keeps.ite
    | with_reducible apply KeepsR.next
    | split
    | dsimp only

theorem State.removeRing_keeps {m : Nat} {s₀ : State} (s : State) (cls : Nat) (num : Nat) (h : Keeps m s₀ s) (hm : Sub 515 m) :
    Keeps m s₀ (State.removeRing s cls num) := by
  unfold State.removeRing
  repeat' first
    | with_reducible assumption
    | (with_reducible refine Sub.of hm ?_); decide
    | with_reducible apply State.poolAdd_keeps
    | with_reducible apply Keeps.ite
    | split
    | with_reducible apply Keeps.set_rings

theorem execRingDestroy_keeps {m : Nat} {s₀ : State} (fn : Nat) (s : State) (h : Keeps m s₀ s) (hm : Sub 8390163 m) :
    KeepsR m s₀ (execRingDestroy fn s) := by
  unfold execRingDestroy
  repeat' first
    | with_reducible assumption
    | (with_reducible refine Sub.of hm ?_); decide
    | with_reducible apply State.ringOpAccess_keeps
    | with_reducible apply State.ringResult_keeps
    | with_reducible apply State.removeRing_keeps
    | with_reducible apply KeepsR.ite
    | with_reducible apply Keeps.ite
    | with_reducible apply KeepsR.next
    | split
    | dsimp only

theorem execRingQuery_keeps {m : Nat} {s₀ : State} (fn : Nat) (s : State) (h : Keeps m s₀ s) (hm : Sub 8389651 m) :
    KeepsR m s₀ (execRingQuery fn s) := by
  unfold execRingQuery
  repeat' first
    | with_reducible assumption
    | (with_reducible refine Sub.of hm ?_); decide
    | with_reducible apply State.ringOpAccess_keeps
    | with_reducible apply State.ringResult_keeps
    | with_reducible apply State.setReg_keeps
    | with_reducible apply State.setF_keeps
    | with_reducible apply KeepsR.ite
    | with_reducible apply Keeps.ite
    | with_reducible apply KeepsR.next
    | split
    | dsimp only

theorem execRingModifyIrq_keeps {m : Nat} {s₀ : State} (fn : Nat) (s : State) (h : Keeps m s₀ s) (hm : Sub 8390163 m) :
    KeepsR m s₀ (execRingModifyIrq fn s) := by
  unfold execRingModifyIrq
  repeat' first
    | with_reducible assumption
    | (with_reducible refine Sub.of hm ?_); decide
    | with_reducible apply State.ringOpAccess_keeps
    | with_reducible apply State.ringResult_keeps
    | with_reducible apply State.setRing_keeps
    | with_reducible apply KeepsR.ite
    | with_reducible apply Keeps.ite
    | with_reducible apply KeepsR.next
    | split
    | dsimp only

theorem State.issueFetch_keeps {m : Nat} {s₀ : State} (s : State) (num : Nat) (h : Keeps m s₀ s) (hm : Sub 8390199 m) :
    Keeps m s₀ (State.issueFetch s num) := by
  unfold State.issueFetch
  repeat' first
    | with_reducible assumption
    | (with_reducible refine Sub.of hm ?_); decide
    | with_reducible apply State.dmaCheck_keeps
    | with_reducible apply State.setRing_keeps
    | with_reducible apply State.issueRead_keeps
    | with_reducible apply State.stopRing_keeps
    | with_reducible apply Keeps.ite
    | split

theorem State.takeConsumerIndex_keeps {m : Nat} {s₀ : State} (s : State) (cls : Nat) (num : Nat) (c : Nat) (h : Keeps m s₀ s) (hm : Sub 8390199 m) :
    Keeps m s₀ (State.takeConsumerIndex s cls num c) := by
  unfold State.takeConsumerIndex
  repeat' first
    | with_reducible assumption
    | (with_reducible refine Sub.of hm ?_); decide
    | with_reducible apply State.stopRing_keeps
    | with_reducible apply State.bump_keeps
    | with_reducible apply State.setRing_keeps
    | with_reducible apply State.drainStash_keeps
    | with_reducible apply State.drainHeld_keeps
    | with_reducible apply State.maybeSignal_keeps
    | with_reducible apply Keeps.ite
    | split
    | dsimp only

theorem execIndexLineRead_keeps {m : Nat} {s₀ : State} (cls : Nat) (num : Nat) (idx : Nat) (s : State) (h : Keeps m s₀ s) (hm : Sub 8390199 m) :
    KeepsR m s₀ (execIndexLineRead cls num idx s) := by
  unfold execIndexLineRead
  repeat' first
    | with_reducible assumption
    | (with_reducible refine Sub.of hm ?_); decide
    | with_reducible apply State.dmaCheck_keeps
    | with_reducible apply State.stopRing_keeps
    | with_reducible apply State.issueRead_keeps
    | with_reducible apply State.bump_keeps
    | with_reducible apply State.showLtr_keeps
    | with_reducible apply State.issueFetch_keeps
    | with_reducible apply State.setRing_keeps
    | with_reducible apply State.takeConsumerIndex_keeps
    | with_reducible apply KeepsR.ite
    | with_reducible apply Keeps.ite
    | with_reducible apply KeepsR.next
    | split

theorem State.takeEntry_keeps {m : Nat} {s₀ : State} (s : State) (num : Nat) (i : Nat) (e : List Byte) (h : Keeps m s₀ s) (hm : Sub 8390199 m) :
    Keeps m s₀ (State.takeEntry s num i e) := by
  unfold State.takeEntry
  repeat' first
    | with_reducible assumption
    | (with_reducible refine Sub.of hm ?_); decide
    | with_reducible apply State.completeEntry_keeps
    | with_reducible apply State.bump_keeps
    | with_reducible apply State.setRing_keeps
    | with_reducible apply Keeps.ite
    | split

theorem State.takeEntries_keeps {m : Nat} {s₀ : State} (s : State) (num : Nat) (i : Nat) (y_ : List (List Byte)) (h : Keeps m s₀ s) (hm : Sub 8390199 m) :
    Keeps m s₀ (State.takeEntries s num i y_) := by
  induction y_ generalizing s i with
  | nil => exact h
  | cons a l ih =>
    unfold State.takeEntries
    repeat' first
      | with_reducible assumption
      | (with_reducible refine Sub.of hm ?_); decide
      | with_reducible apply ih
      | with_reducible apply State.takeEntry_keeps

theorem execEntryFetch_keeps {m : Nat} {s₀ : State} (num : Nat) (entries : List (List Byte)) (s : State) (h : Keeps m s₀ s) (hm : Sub 8390199 m) :
    KeepsR m s₀ (execEntryFetch num entries s) := by
  unfold execEntryFetch
  repeat' first
    | with_reducible assumption
    | (with_reducible refine Sub.of hm ?_); decide
    | with_reducible apply State.bump_keeps
    | with_reducible apply State.setRing_keeps
    | with_reducible apply State.issueFetch_keeps
    | with_reducible apply State.takeEntries_keeps
    | with_reducible apply KeepsR.ite
    | with_reducible apply Keeps.ite
    | with_reducible apply KeepsR.next
    | split

theorem execStashRetry_keeps {m : Nat} {s₀ : State} (num : Nat) (idx : Nat) (s : State) (h : Keeps m s₀ s) (hm : Sub 8390199 m) :
    KeepsR m s₀ (execStashRetry num idx s) := by
  unfold execStashRetry
  repeat' first
    | with_reducible assumption
    | (with_reducible refine Sub.of hm ?_); decide
    | with_reducible apply State.dmaCheck_keeps
    | with_reducible apply State.stopRing_keeps
    | with_reducible apply State.takeConsumerIndex_keeps
    | with_reducible apply State.issueRead_keeps
    | with_reducible apply KeepsR.ite
    | with_reducible apply Keeps.ite
    | with_reducible apply KeepsR.next
    | split

theorem execRingDrained_keeps {m : Nat} {s₀ : State} (num : Nat) (s : State) (h : Keeps m s₀ s) (hm : Sub 8390199 m) :
    KeepsR m s₀ (execRingDrained num s) := by
  unfold execRingDrained
  repeat' first
    | with_reducible assumption
    | (with_reducible refine Sub.of hm ?_); decide
    | with_reducible apply State.writeLineStatus_keeps
    | with_reducible apply State.setRing_keeps
    | with_reducible apply KeepsR.ite
    | with_reducible apply Keeps.ite
    | with_reducible apply KeepsR.next
    | split

theorem execModerationTimer_keeps {m : Nat} {s₀ : State} (cls : Nat) (num : Nat) (s : State) (h : Keeps m s₀ s) (hm : Sub 8390195 m) :
    KeepsR m s₀ (execModerationTimer cls num s) := by
  unfold execModerationTimer
  repeat' first
    | with_reducible assumption
    | (with_reducible refine Sub.of hm ?_); decide
    | with_reducible apply State.maybeSignal_keeps
    | with_reducible apply State.after_keeps
    | with_reducible apply KeepsR.ite
    | with_reducible apply Keeps.ite
    | with_reducible apply KeepsR.next
    | split

theorem execConsumerIndexWrite_keeps {m : Nat} {s₀ : State} (num : Nat) (s : State) (h : Keeps m s₀ s) (hm : Sub 8390199 m) :
    KeepsR m s₀ (execConsumerIndexWrite num s) := by
  unfold execConsumerIndexWrite
  repeat' first
    | with_reducible assumption
    | (with_reducible refine Sub.of hm ?_); decide
    | with_reducible apply State.after_keeps
    | with_reducible apply State.dmaCheck_keeps
    | with_reducible apply State.setRing_keeps
    | with_reducible apply State.issueWrite_keeps
    | with_reducible apply State.stopRing_keeps
    | with_reducible apply KeepsR.ite
    | with_reducible apply Keeps.ite
    | with_reducible apply KeepsR.next
    | split

end Sys2Proof.Machine
end

