-- ==== Sys2Proof/Laws/KeepSlices.lean ====
section
/-! SUPPORT. What the operations of Machine/Slices.lean can change: each keeps every part of the state that its number does not name,
and the standing properties of `Keeps`. -/

namespace Sys2Proof.Machine

theorem State.slcBegin_keeps {m : Nat} {s₀ : State} (s : State) (init : Nat) (op : Nat) (g : Nat) (h : Keeps m s₀ s) (hm : Sub 8389651 m) :
    Keeps m s₀ (State.slcBegin s init op g).1 := by
  unfold State.slcBegin
  try dsimp only
  repeat' first
    | with_reducible assumption
    | (with_reducible refine Sub.of hm ?_); decide
    | with_reducible apply State.blockAccess_keeps
    | with_reducible apply State.setF_keeps
    | with_reducible apply Keeps.ite
    | with_reducible apply Keeps.ite1
    | with_reducible apply Keeps.ite2

theorem execActSealWrite_keeps {m : Nat} {s₀ : State} (init : Nat) (wide : Bool) (v : Nat) (s : State) (h : Keeps m s₀ s) (hm : Sub 8389651 m) :
    KeepsR m s₀ (execActSealWrite init wide v s) := by
  unfold execActSealWrite
  repeat' first
    | with_reducible assumption
    | (with_reducible refine Sub.of hm ?_); decide
    | with_reducible apply State.blockAccess_keeps
    | with_reducible apply State.setF_keeps
    | with_reducible apply KeepsR.ite
    | with_reducible apply Keeps.ite
    | with_reducible apply KeepsR.next

theorem State.slcEnd_keeps {m : Nat} {s₀ : State} (s : State) (status : Nat) (h : Keeps m s₀ s) (hm : Sub 3 m) :
    KeepsR m s₀ (State.slcEnd s status) := by
  unfold State.slcEnd
  repeat' first
    | with_reducible assumption
    | (with_reducible refine Sub.of hm ?_); decide
    | with_reducible apply State.setF_keeps
    | with_reducible apply KeepsR.next

theorem execSliceCreate_keeps {m : Nat} {s₀ : State} (init : Nat) (slice : Nat) (s : State) (h : Keeps m s₀ s) (hm : Sub 8389651 m) :
    KeepsR m s₀ (execSliceCreate init slice s) := by
  unfold execSliceCreate
  repeat' first
    | intro _
    | with_reducible assumption
    | (with_reducible refine Sub.of hm ?_); decide
    | with_reducible apply State.slcBegin_keeps
    | with_reducible apply State.slcEnd_keeps
    | with_reducible apply State.poolSub_keeps
    | with_reducible apply State.showGates_keeps
    | with_reducible apply State.setSlice_keeps
    | with_reducible apply KeepsR.ite
    | with_reducible apply Keeps.ite
    | with_reducible apply KeepsR.next
    | with_reducible apply Keeps.foldl

theorem execSliceStart_keeps {m : Nat} {s₀ : State} (init : Nat) (slice : Nat) (s : State) (h : Keeps m s₀ s) (hm : Sub 8389651 m) :
    KeepsR m s₀ (execSliceStart init slice s) := by
  unfold execSliceStart
  repeat' first
    | with_reducible assumption
    | (with_reducible refine Sub.of hm ?_); decide
    | with_reducible apply State.slcBegin_keeps
    | with_reducible apply State.slcEnd_keeps
    | with_reducible apply State.showGates_keeps
    | with_reducible apply State.setSlice_keeps
    | with_reducible apply KeepsR.ite
    | with_reducible apply Keeps.ite
    | with_reducible apply KeepsR.next
    | split
    | dsimp only

theorem execSliceReset_keeps {m : Nat} {s₀ : State} (init : Nat) (slice : Nat) (s : State) (h : Keeps m s₀ s) (hm : Sub 8422931 m) :
    KeepsR m s₀ (execSliceReset init slice s) := by
  unfold execSliceReset
  repeat' first
    | with_reducible assumption
    | (with_reducible refine Sub.of hm ?_); decide
    | with_reducible apply State.slcBegin_keeps
    | with_reducible apply State.slcEnd_keeps
    | with_reducible apply State.sliceClose_keeps
    | with_reducible apply KeepsR.ite
    | with_reducible apply Keeps.ite
    | with_reducible apply KeepsR.next
    | split
    | dsimp only

theorem execSliceDestroy_keeps {m : Nat} {s₀ : State} (init : Nat) (slice : Nat) (s : State) (h : Keeps m s₀ s) (hm : Sub 8422931 m) :
    KeepsR m s₀ (execSliceDestroy init slice s) := by
  unfold execSliceDestroy
  repeat' first
    | with_reducible assumption
    | (with_reducible refine Sub.of hm ?_); decide
    | with_reducible apply State.slcBegin_keeps
    | with_reducible apply State.slcEnd_keeps
    | with_reducible apply State.setSlice_keeps
    | with_reducible apply State.sliceClose_keeps
    | with_reducible apply KeepsR.ite
    | with_reducible apply Keeps.ite
    | with_reducible apply KeepsR.next
    | split
    | dsimp only

theorem execSliceResize_keeps {m : Nat} {s₀ : State} (init : Nat) (slice : Nat) (s : State) (h : Keeps m s₀ s) (hm : Sub 8389651 m) :
    KeepsR m s₀ (execSliceResize init slice s) := by
  unfold execSliceResize
  repeat' first
    | intro _
    | with_reducible assumption
    | (with_reducible refine Sub.of hm ?_); decide
    | with_reducible apply State.slcBegin_keeps
    | with_reducible apply State.slcEnd_keeps
    | with_reducible apply State.setF_keeps
    | with_reducible apply State.setSlice_keeps
    | with_reducible apply KeepsR.ite
    | with_reducible apply Keeps.ite
    | with_reducible apply KeepsR.next
    | with_reducible apply Keeps.foldl
    | split
    | dsimp only

theorem execSetWindow_keeps {m : Nat} {s₀ : State} (init : Nat) (slice : Nat) (s : State) (h : Keeps m s₀ s) (hm : Sub 8389683 m) :
    KeepsR m s₀ (execSetWindow init slice s) := by
  unfold execSetWindow
  repeat' first
    | with_reducible assumption
    | (with_reducible refine Sub.of hm ?_); decide
    | with_reducible apply State.slcBegin_keeps
    | with_reducible apply State.slcEnd_keeps
    | with_reducible apply State.setFn_keeps
    | with_reducible apply State.setSlice_keeps
    | with_reducible apply KeepsR.ite
    | with_reducible apply Keeps.ite
    | with_reducible apply KeepsR.next
    | split

theorem execSliceQuery_keeps {m : Nat} {s₀ : State} (init : Nat) (slice : Nat) (s : State) (h : Keeps m s₀ s) (hm : Sub 8389651 m) :
    KeepsR m s₀ (execSliceQuery init slice s) := by
  unfold execSliceQuery
  repeat' first
    | with_reducible assumption
    | (with_reducible refine Sub.of hm ?_); decide
    | with_reducible apply State.slcBegin_keeps
    | with_reducible apply State.setReg_keeps
    | with_reducible apply State.slcEnd_keeps
    | with_reducible apply KeepsR.ite
    | with_reducible apply Keeps.ite
    | with_reducible apply KeepsR.next
    | split
    | dsimp only

theorem State.actBegin_keeps {m : Nat} {s₀ : State} (s : State) (init : Nat) (op : Nat) (h : Keeps m s₀ s) (hm : Sub 8389651 m) :
    Keeps m s₀ (State.actBegin s init op).1 := by
  unfold State.actBegin
  repeat' first
    | with_reducible assumption
    | (with_reducible refine Sub.of hm ?_); decide
    | with_reducible apply State.blockAccess_keeps
    | with_reducible apply State.setF_keeps
    | with_reducible apply Keeps.ite
    | with_reducible apply Keeps.ite1
    | with_reducible apply Keeps.ite2

theorem execActWrite_keeps {m : Nat} {s₀ : State} (init : Nat) (s : State) (h : Keeps m s₀ s) (hm : Sub 8389651 m) :
    KeepsR m s₀ (execActWrite init s) := by
  unfold execActWrite
  repeat' first
    | with_reducible assumption
    | (with_reducible refine Sub.of hm ?_); decide
    | with_reducible apply State.actBegin_keeps
    | with_reducible apply State.setF_keeps
    | with_reducible apply KeepsR.ite
    | with_reducible apply Keeps.ite
    | with_reducible apply KeepsR.next
    | with_reducible apply Keeps.set_slc

theorem execActRead_keeps {m : Nat} {s₀ : State} (init : Nat) (s : State) (h : Keeps m s₀ s) (hm : Sub 8389651 m) :
    KeepsR m s₀ (execActRead init s) := by
  unfold execActRead
  repeat' first
    | with_reducible assumption
    | (with_reducible refine Sub.of hm ?_); decide
    | with_reducible apply State.actBegin_keeps
    | with_reducible apply State.setF_keeps
    | with_reducible apply State.setReg_keeps
    | with_reducible apply KeepsR.ite
    | with_reducible apply Keeps.ite
    | with_reducible apply KeepsR.next

theorem execActLogPop_keeps {m : Nat} {s₀ : State} (init : Nat) (s : State) (h : Keeps m s₀ s) (hm : Sub 8389651 m) :
    KeepsR m s₀ (execActLogPop init s) := by
  unfold execActLogPop
  repeat' first
    | with_reducible assumption
    | (with_reducible refine Sub.of hm ?_); decide
    | with_reducible apply State.blockAccess_keeps
    | with_reducible apply State.showDenials_keeps
    | with_reducible apply KeepsR.ite
    | with_reducible apply Keeps.ite
    | with_reducible apply KeepsR.next
    | with_reducible apply Keeps.set_slc

theorem execSliceResetEnd_keeps {m : Nat} {s₀ : State} (slice : Nat) (s : State) (h : Keeps m s₀ s) (hm : Sub 1027 m) :
    KeepsR m s₀ (execSliceResetEnd slice s) := by
  unfold execSliceResetEnd
  repeat' first
    | with_reducible assumption
    | (with_reducible refine Sub.of hm ?_); decide
    | with_reducible apply State.setSlice_keeps
    | with_reducible apply State.postDone_keeps
    | with_reducible apply State.showGates_keeps
    | with_reducible apply KeepsR.ite
    | with_reducible apply Keeps.ite
    | with_reducible apply KeepsR.next
    | split

theorem execSliceBlockDrained_keeps {m : Nat} {s₀ : State} (slice : Nat) (blk : Fin 5) (degraded : Bool) (s : State) (h : Keeps m s₀ s) (hm : Sub 8883767 m) :
    KeepsR m s₀ (execSliceBlockDrained slice blk degraded s) := by
  unfold execSliceBlockDrained
  repeat' first
    | with_reducible assumption
    | (with_reducible refine Sub.of hm ?_); decide
    | with_reducible apply State.sliceDrain_keeps
    | with_reducible apply State.setSlice_keeps
    | with_reducible apply KeepsR.ite
    | with_reducible apply Keeps.ite
    | with_reducible apply KeepsR.next
    | split
    | dsimp only

theorem execSliceSilenceDone_keeps {m : Nat} {s₀ : State} (slice : Nat) (s : State) (h : Keeps m s₀ s) (hm : Sub 3584 m) :
    KeepsR m s₀ (execSliceSilenceDone slice s) := by
  unfold execSliceSilenceDone
  repeat' first
    | with_reducible assumption
    | (with_reducible refine Sub.of hm ?_); decide
    | with_reducible apply State.sliceClear_keeps
    | with_reducible apply State.after_keeps
    | with_reducible apply State.setSlice_keeps
    | with_reducible apply KeepsR.ite
    | with_reducible apply Keeps.ite
    | with_reducible apply KeepsR.next
    | split
    | dsimp only

theorem execSliceRemovalDone_keeps {m : Nat} {s₀ : State} (slice : Nat) (s : State) (h : Keeps m s₀ s) (hm : Sub 8889911 m) :
    KeepsR m s₀ (execSliceRemovalDone slice s) := by
  unfold execSliceRemovalDone
  repeat' first
    | with_reducible assumption
    | (with_reducible refine Sub.of hm ?_); decide
    | with_reducible apply State.postDone_keeps
    | with_reducible apply State.sliceRemove_keeps
    | with_reducible apply KeepsR.ite
    | with_reducible apply Keeps.ite
    | with_reducible apply KeepsR.next
    | split

end Sys2Proof.Machine
end

