-- ==== Sys2Proof/Laws/KeepTables.lean ====
section
/-! SUPPORT. What the operations of Machine/Tables.lean can change: each keeps every part of the state that its number does not name,
and the standing properties of `Keeps`. -/

namespace Sys2Proof.Machine

theorem execHashSeedWrite_keeps {m : Nat} {s₀ : State} (init : Nat) (flt : Bool) (wide : Bool) (upper : Bool) (v : Word) (s : State) (h : Keeps m s₀ s) (hm : Sub 8397843 m) :
    KeepsR m s₀ (execHashSeedWrite init flt wide upper v s) := by
  unfold execHashSeedWrite
  repeat' first
    | with_reducible assumption
    | (with_reducible refine Sub.of hm ?_); decide
    | with_reducible apply State.blockAccess_keeps
    | with_reducible apply State.storeReg_keeps
    | with_reducible apply State.clearHashTable_keeps
    | with_reducible apply KeepsR.ite
    | with_reducible apply Keeps.ite
    | with_reducible apply KeepsR.next

theorem State.flowLearn_keeps {m : Nat} {s₀ : State} (s : State) (e : LearnEv) (h : Keeps m s₀ s) (hm : Sub 8398391 m) :
    Keeps m s₀ (State.flowLearn s e) := by
  unfold State.flowLearn
  repeat' first
    | with_reducible assumption
    | (with_reducible refine Sub.of hm ?_); decide
    | with_reducible apply State.bump_keeps
    | with_reducible apply State.hashInsert_keeps
    | with_reducible apply State.showTables_keeps
    | with_reducible apply Keeps.ite
    | split
    | with_reducible apply Keeps.of2 ‹_›

theorem State.flowNotify_keeps {m : Nat} {s₀ : State} (s : State) (e : LearnEv) (h : Keeps m s₀ s) (hm : Sub 8398391 m) :
    Keeps m s₀ (State.flowNotify s e) := by
  unfold State.flowNotify
  repeat' first
    | with_reducible assumption
    | (with_reducible refine Sub.of hm ?_); decide
    | with_reducible apply State.bump_keeps
    | with_reducible apply State.tblEvent_keeps
    | with_reducible apply Keeps.ite
    | with_reducible apply Keeps.set_tbl

theorem execFltLearnEvent_keeps {m : Nat} {s₀ : State} (s : State) (h : Keeps m s₀ s) (hm : Sub 8398391 m) :
    KeepsR m s₀ (execFltLearnEvent s) := by
  unfold execFltLearnEvent
  repeat' first
    | with_reducible assumption
    | (with_reducible refine Sub.of hm ?_); decide
    | with_reducible apply State.advanceSweep_keeps
    | with_reducible apply State.flowLearn_keeps
    | with_reducible apply State.flowNotify_keeps
    | with_reducible apply KeepsR.ite
    | with_reducible apply Keeps.ite
    | with_reducible apply KeepsR.next
    | split
    | with_reducible apply Keeps.set_tbl

theorem execReplicaRepair_keeps {m : Nat} {s₀ : State} (pos : Nat) (word : Nat) (lost : Bool) (s : State) (h : Keeps m s₀ s) (hm : Sub 8398391 m) :
    KeepsR m s₀ (execReplicaRepair pos word lost s) := by
  unfold execReplicaRepair
  repeat' first
    | with_reducible assumption
    | (with_reducible refine Sub.of hm ?_); decide
    | with_reducible apply State.showTables_keeps
    | with_reducible apply State.setIdle_keeps
    | with_reducible apply State.writeEntry_keeps
    | with_reducible apply State.tblEvent_keeps
    | with_reducible apply State.raise_keeps
    | with_reducible apply State.pendRoom_keeps
    | with_reducible apply State.bump_keeps
    | with_reducible apply KeepsR.ite
    | with_reducible apply Keeps.ite
    | with_reducible apply KeepsR.next
    | with_reducible apply Keeps.set_tbl

theorem State.learnHw_keeps {m : Nat} {s₀ : State} (s : State) (e : LearnEv) (h : Keeps m s₀ s) (hm : Sub 8398391 m) :
    Keeps m s₀ (State.learnHw s e) := by
  unfold State.learnHw
  repeat' first
    | with_reducible assumption
    | (with_reducible refine Sub.of hm ?_); decide
    | with_reducible apply State.bump_keeps
    | with_reducible apply State.hashInsert_keeps
    | with_reducible apply State.showTables_keeps
    | with_reducible apply State.tblEvent_keeps
    | with_reducible apply State.writeEntry_keeps
    | with_reducible apply Keeps.ite
    | split
    | with_reducible apply Keeps.of2 ‹_›

theorem execPendingWriteRelease_keeps {m : Nat} {s₀ : State} (s : State) (h : Keeps m s₀ s) (hm : Sub 8192 m) :
    KeepsR m s₀ (execPendingWriteRelease s) := by
  unfold execPendingWriteRelease
  repeat' first
    | with_reducible assumption
    | (with_reducible refine Sub.of hm ?_); decide
    | with_reducible apply State.after_keeps
    | with_reducible apply KeepsR.next
    | split
    | with_reducible apply Keeps.set_tbl

theorem execHoldSweep_keeps {m : Nat} {s₀ : State} (s : State) (h : Keeps m s₀ s) (hm : Sub 8192 m) :
    KeepsR m s₀ (execHoldSweep s) := by
  unfold execHoldSweep
  repeat' first
    | with_reducible assumption
    | (with_reducible refine Sub.of hm ?_); decide
    | with_reducible apply State.after_keeps
    | with_reducible apply KeepsR.ite
    | with_reducible apply Keeps.ite
    | with_reducible apply KeepsR.next
    | with_reducible apply Keeps.set_tbl

theorem State.ageEntry_keeps {m : Nat} {s₀ : State} (s : State) (t : Nat) (mode : Nat) (pos : Nat) (e : Nat) (h : Keeps m s₀ s) (hm : Sub 8398391 m) :
    Keeps m s₀ (State.ageEntry s t mode pos e) := by
  unfold State.ageEntry
  repeat' first
    | with_reducible assumption
    | (with_reducible refine Sub.of hm ?_); decide
    | with_reducible apply State.setIdle_keeps
    | with_reducible apply State.bump_keeps
    | with_reducible apply State.tblEvent_keeps
    | with_reducible apply State.writeEntry_keeps
    | with_reducible apply Keeps.ite

theorem execAgerPass_keeps {m : Nat} {s₀ : State} (flt : Bool) (s : State) (h : Keeps m s₀ s) (hm : Sub 8398391 m) :
    KeepsR m s₀ (execAgerPass flt s) := by
  unfold execAgerPass
  repeat' first
    | intro _
    | with_reducible assumption
    | (with_reducible refine Sub.of hm ?_); decide
    | with_reducible apply State.after_keeps
    | with_reducible apply State.ageEntry_keeps
    | with_reducible apply State.showTables_keeps
    | with_reducible apply KeepsR.ite
    | with_reducible apply Keeps.ite
    | with_reducible apply KeepsR.next
    | with_reducible apply Keeps.foldl
    | with_reducible apply Keeps.set_tbl

theorem execTblReadPos_keeps {m : Nat} {s₀ : State} (o : Origin) (blk : Fin 4) (w : Word) (s : State) (h : Keeps m s₀ s) (hm : Sub 8398391 m) :
    KeepsR m s₀ (execTblReadPos o blk w s) := by
  unfold execTblReadPos
  repeat' first
    | with_reducible assumption
    | (with_reducible refine Sub.of hm ?_); decide
    | with_reducible apply State.tableCommand_keeps
    | with_reducible apply KeepsR.next

theorem State.learnNotify_keeps {m : Nat} {s₀ : State} (s : State) (e : LearnEv) (h : Keeps m s₀ s) (hm : Sub 8398391 m) :
    Keeps m s₀ (State.learnNotify s e) := by
  unfold State.learnNotify
  repeat' first
    | with_reducible assumption
    | (with_reducible refine Sub.of hm ?_); decide
    | with_reducible apply State.bump_keeps
    | with_reducible apply State.tblEvent_keeps
    | with_reducible apply Keeps.ite
    | split
    | with_reducible apply Keeps.set_tbl

theorem execTblDelete_keeps {m : Nat} {s₀ : State} (o : Origin) (blk : Fin 4) (w : Word) (img : List Byte) (s : State) (h : Keeps m s₀ s) (hm : Sub 8398391 m) :
    KeepsR m s₀ (execTblDelete o blk w img s) := by
  unfold execTblDelete
  repeat' first
    | with_reducible assumption
    | (with_reducible refine Sub.of hm ?_); decide
    | with_reducible apply State.tableCommand_keeps
    | with_reducible apply KeepsR.next

theorem execReplicaWriteBack_keeps {m : Nat} {s₀ : State} (g : Fin 8) (n : Nat) (s : State) (h : Keeps m s₀ s) (hm : Sub 8192 m) :
    KeepsR m s₀ (execReplicaWriteBack g n s) := by
  unfold execReplicaWriteBack
  repeat' first
    | with_reducible assumption
    | (with_reducible refine Sub.of hm ?_); decide
    | with_reducible apply KeepsR.next
    | split
    | with_reducible apply Keeps.set_tbl

theorem execEmlLearnEvent_keeps {m : Nat} {s₀ : State} (s : State) (h : Keeps m s₀ s) (hm : Sub 8398391 m) :
    KeepsR m s₀ (execEmlLearnEvent s) := by
  unfold execEmlLearnEvent
  repeat' first
    | with_reducible assumption
    | (with_reducible refine Sub.of hm ?_); decide
    | with_reducible apply State.advanceSweep_keeps
    | with_reducible apply State.learnHw_keeps
    | with_reducible apply State.learnNotify_keeps
    | with_reducible apply KeepsR.ite
    | with_reducible apply Keeps.ite
    | with_reducible apply KeepsR.next
    | split
    | with_reducible apply Keeps.set_tbl

theorem execOverflowPromotion_keeps {m : Nat} {s₀ : State} (flt : Bool) (pos : Nat) (s : State) (h : Keeps m s₀ s) (hm : Sub 8195 m) :
    KeepsR m s₀ (execOverflowPromotion flt pos s) := by
  unfold execOverflowPromotion
  repeat' first
    | with_reducible assumption
    | (with_reducible refine Sub.of hm ?_); decide
    | with_reducible apply State.showTables_keeps
    | with_reducible apply State.relocate_keeps
    | with_reducible apply KeepsR.ite
    | with_reducible apply Keeps.ite
    | with_reducible apply KeepsR.next
    | split

theorem execTblDeletePos_keeps {m : Nat} {s₀ : State} (o : Origin) (blk : Fin 4) (w : Word) (s : State) (h : Keeps m s₀ s) (hm : Sub 8398391 m) :
    KeepsR m s₀ (execTblDeletePos o blk w s) := by
  unfold execTblDeletePos
  repeat' first
    | with_reducible assumption
    | (with_reducible refine Sub.of hm ?_); decide
    | with_reducible apply State.tableCommand_keeps
    | with_reducible apply KeepsR.next

theorem execTblRetag_keeps {m : Nat} {s₀ : State} (o : Origin) (blk : Fin 4) (w : Word) (img : List Byte) (s : State) (h : Keeps m s₀ s) (hm : Sub 8398391 m) :
    KeepsR m s₀ (execTblRetag o blk w img s) := by
  unfold execTblRetag
  repeat' first
    | with_reducible assumption
    | (with_reducible refine Sub.of hm ?_); decide
    | with_reducible apply State.tableCommand_keeps
    | with_reducible apply KeepsR.next

theorem execTblModify_keeps {m : Nat} {s₀ : State} (o : Origin) (blk : Fin 4) (w : Word) (img : List Byte) (s : State) (h : Keeps m s₀ s) (hm : Sub 8398391 m) :
    KeepsR m s₀ (execTblModify o blk w img s) := by
  unfold execTblModify
  repeat' first
    | with_reducible assumption
    | (with_reducible refine Sub.of hm ?_); decide
    | with_reducible apply State.tableCommand_keeps
    | with_reducible apply KeepsR.next

theorem execTblLookup_keeps {m : Nat} {s₀ : State} (o : Origin) (blk : Fin 4) (w : Word) (img : List Byte) (s : State) (h : Keeps m s₀ s) (hm : Sub 8398391 m) :
    KeepsR m s₀ (execTblLookup o blk w img s) := by
  unfold execTblLookup
  repeat' first
    | with_reducible assumption
    | (with_reducible refine Sub.of hm ?_); decide
    | with_reducible apply State.tableCommand_keeps
    | with_reducible apply KeepsR.next

theorem execTblInsert_keeps {m : Nat} {s₀ : State} (o : Origin) (blk : Fin 4) (w : Word) (img : List Byte) (s : State) (h : Keeps m s₀ s) (hm : Sub 8398391 m) :
    KeepsR m s₀ (execTblInsert o blk w img s) := by
  unfold execTblInsert
  repeat' first
    | with_reducible assumption
    | (with_reducible refine Sub.of hm ?_); decide
    | with_reducible apply State.tableCommand_keeps
    | with_reducible apply KeepsR.next

end Sys2Proof.Machine
end

