-- ==== Sys2Proof/Laws/KeepAccess.lean ====
section
/-! SUPPORT. What the operations of Machine/Access.lean can change: each keeps every part of the state that its number does not name,
and the standing properties of `Keeps`. -/

namespace Sys2Proof.Machine

theorem State.memoryAccess_keeps {m : Nat} {s₀ : State} (s : State) (k : AccessKind) (init : Nat) (a : Nat) (n : Nat) (h : Keeps m s₀ s) (hm : Sub 1043 m) :
    Keeps m s₀ (State.memoryAccess s k init a n).1 := by
  unfold State.memoryAccess
  repeat' first
    | with_reducible assumption
    | (with_reducible refine Sub.of hm ?_); decide
    | with_reducible apply State.memAccess_keeps
    | with_reducible apply Keeps.ite
    | with_reducible apply Keeps.ite1
    | with_reducible apply Keeps.ite2

theorem State.takeAnswer_keeps {m : Nat} {s₀ : State} (s : State) (h : Keeps m s₀ s) (hm : Sub 8388608 m) :
    Keeps m s₀ (State.takeAnswer s).1 := by
  unfold State.takeAnswer
  repeat' first
    | with_reducible assumption
    | (with_reducible refine Sub.of hm ?_); decide
    | split
    | with_reducible apply Keeps.set_out

theorem Res.left_keeps {m : Nat} {s₀ : State} (s : State) (r : Res) (h : Keeps m s₀ s) (hr : KeepsR m s₀ r) :
    Keeps m s₀ (Res.left s r) := by
  cases r with
  | next t => exact hr
  | fault _ => exact h
  | refused _ => exact h

theorem State.placeAccess_keeps {m : Nat} {s₀ : State} (s : State) (k : AccessKind) (init : Nat) (p : Place) (h : Keeps m s₀ s) (hm : Sub 8389651 m) :
    Keeps m s₀ (State.placeAccess s k init p).1 := by
  unfold State.placeAccess
  repeat' first
    | with_reducible assumption
    | (with_reducible refine Sub.of hm ?_); decide
    | with_reducible apply State.blockAccess_keeps
    | split

theorem State.sampleLive_keeps {m : Nat} {s₀ : State} (s : State) (r : Reg) (h : Keeps m s₀ s) (hm : Sub 3 m) :
    Keeps m s₀ (State.sampleLive s r) := by
  unfold State.sampleLive
  repeat' first
    | with_reducible assumption
    | (with_reducible refine Sub.of hm ?_); decide
    | with_reducible apply State.draw_keeps
    | with_reducible apply State.setF_keeps
    | with_reducible apply Keeps.ite

theorem State.clearRead_keeps {m : Nat} {s₀ : State} (s : State) (r : Reg) (i : Nat) (j : Nat) (wide : Bool) (upper : Bool) (h : Keeps m s₀ s) (hm : Sub 1027 m) :
    Keeps m s₀ (State.clearRead s r i j wide upper) := by
  unfold State.clearRead
  repeat' first
    | intro _
    | with_reducible assumption
    | (with_reducible refine Sub.of hm ?_); decide
    | with_reducible apply State.showDone_keeps
    | with_reducible apply State.setF_keeps
    | with_reducible apply Keeps.ite
    | with_reducible apply Keeps.foldl
    | with_reducible apply Keeps.set_slc

theorem State.performRead_keeps {m : Nat} {s₀ : State} (s : State) (init : Nat) (place : Place) (wide : Bool) (h : Keeps m s₀ s) (hm : Sub 8389651 m) :
    Keeps m s₀ (State.performRead s init place wide).1 := by
  unfold State.performRead
  repeat' first
    | with_reducible assumption
    | (with_reducible refine Sub.of hm ?_); decide
    | with_reducible apply State.memoryAccess_keeps
    | with_reducible apply State.abortCore_keeps
    | with_reducible apply State.takeAnswer_keeps
    | with_reducible apply Res.left_keeps
    | with_reducible apply execSnapshotLatch_keeps
    | with_reducible apply execCphRngRead_keeps
    | with_reducible apply State.placeAccess_keeps
    | with_reducible apply State.sampleLive_keeps
    | with_reducible apply State.clearRead_keeps
    | with_reducible apply Keeps.ite
    | with_reducible apply Keeps.foldl
    | split
    | dsimp only

theorem State.cascadeOp_keeps {m : Nat} {s₀ : State} (t : State) (init : Nat) (h : Keeps m s₀ t) (hm : Sub 10499091 m) :
    KeepsR m s₀ (State.cascadeOp t init) := by
  unfold State.cascadeOp
  repeat' first
    | intro _
    | with_reducible assumption
    | (with_reducible refine Sub.of hm ?_); decide
    | with_reducible apply State.draw_keeps
    | with_reducible apply execOdfLockup_keeps
    | with_reducible apply execRepartition_keeps
    | with_reducible apply execHandback_keeps
    | with_reducible apply State.odfOp_keeps
    | with_reducible apply State.setF_keeps
    | with_reducible apply KeepsR.next
    | split

theorem State.writeCtrlCfg_keeps {m : Nat} {s₀ : State} (s : State) (c : Nat) (wide : Bool) (upper : Bool) (v : Word) (h : Keeps m s₀ s) (hm : Sub 3 m) :
    Keeps m s₀ (State.writeCtrlCfg s c wide upper v) := by
  unfold State.writeCtrlCfg
  repeat' first
    | intro _
    | with_reducible assumption
    | (with_reducible refine Sub.of hm ?_); decide
    | with_reducible apply State.setReg_keeps
    | with_reducible apply State.setF_keeps
    | with_reducible apply Keeps.ite
    | with_reducible apply Keeps.foldl

theorem State.ownWrite_keeps {m : Nat} {s₀ : State} (s : State) (init : Nat) (bo : Nat) (r : Reg) (i : Nat) (wide : Bool) (upper : Bool) (v : Word) (h : Keeps m s₀ s) (hm : Sub 16777215 m) :
    ∀ t, State.ownWrite s init bo r i wide upper v = some t → KeepsR m s₀ t := by
  intro t ht
  unfold State.ownWrite at ht
  repeat' split at ht
  all_goals first
    | contradiction
    | (simp only [Option.some.injEq] at ht; subst ht)
  all_goals repeat' first
    | with_reducible assumption
    | (with_reducible refine Sub.of hm ?_); decide
    | with_reducible apply execFaultAck_keeps
    | with_reducible apply execSafelightFeed_keeps
    | with_reducible apply State.resetRequest_keeps
    | with_reducible apply State.hostCtl_keeps
    | with_reducible apply execTsvRateWrite_keeps
    | with_reducible apply execTsvServoWrite_keeps
    | with_reducible apply execIslandReset_keeps
    | with_reducible apply execTimePageEnable_keeps
    | with_reducible apply execTimePageDisable_keeps
    | with_reducible apply execHashSeedWrite_keeps
    | with_reducible apply State.writeNode_keeps
    | with_reducible apply execImpositionEnable_keeps
    | with_reducible apply execActSealWrite_keeps
    | with_reducible apply execErrorInject_keeps
    | with_reducible apply State.writeCtrlCfg_keeps
    | with_reducible apply State.refuseWrite_keeps
    | with_reducible apply KeepsR.ite
    | with_reducible apply Keeps.ite
    | with_reducible apply KeepsR.next

theorem State.adjOp_keeps {m : Nat} {s₀ : State} (t : State) (init : Nat) (wide : Bool) (h : Keeps m s₀ t) (hm : Sub 8389715 m) :
    KeepsR m s₀ (State.adjOp t init wide) := by
  unfold State.adjOp
  repeat' first
    | with_reducible assumption
    | (with_reducible refine Sub.of hm ?_); decide
    | with_reducible apply execTsvSlew_keeps
    | with_reducible apply execTsvStep_keeps
    | with_reducible apply execTsvSet_keeps
    | with_reducible apply execSetAtPps_keeps
    | with_reducible apply KeepsR.ite
    | with_reducible apply Keeps.ite
    | with_reducible apply KeepsR.next
    | split

theorem State.formeOp_keeps {m : Nat} {s₀ : State} (t : State) (o : Origin) (h : Keeps m s₀ t) (hm : Sub 8402487 m) :
    KeepsR m s₀ (State.formeOp t o) := by
  unfold State.formeOp
  repeat' first
    | with_reducible assumption
    | (with_reducible refine Sub.of hm ?_); decide
    | with_reducible apply execFormeOpen_keeps
    | with_reducible apply execFormeLoad_keeps
    | with_reducible apply execFormeLockUp_keeps
    | with_reducible apply execFormeDiscard_keeps
    | with_reducible apply State.formeEnd_keeps
    | with_reducible apply KeepsR.ite
    | with_reducible apply Keeps.ite
    | with_reducible apply KeepsR.next
    | split

theorem State.drtOp_keeps {m : Nat} {s₀ : State} (t : State) (o : Origin) (h : Keeps m s₀ t) (hm : Sub 8783415 m) :
    KeepsR m s₀ (State.drtOp t o) := by
  unfold State.drtOp
  repeat' first
    | intro _
    | with_reducible assumption
    | (with_reducible refine Sub.of hm ?_); decide
    | with_reducible apply execEpCreate_keeps
    | with_reducible apply execEpDestroy_keeps
    | with_reducible apply execRegionReg_keeps
    | with_reducible apply execRegionRevoke_keeps
    | with_reducible apply execRegionRead_keeps
    | with_reducible apply execDomainSet_keeps
    | with_reducible apply execDomainNext_keeps
    | with_reducible apply execDomainPromote_keeps
    | with_reducible apply execDomainDropPrev_keeps
    | with_reducible apply State.drtCommand_keeps
    | with_reducible apply State.drtEnd_keeps
    | with_reducible apply KeepsR.next
    | split

theorem State.keyOp_keeps {m : Nat} {s₀ : State} (t : State) (o : Origin) (h : Keeps m s₀ t) (hm : Sub 8619575 m) :
    KeepsR m s₀ (State.keyOp t o) := by
  unfold State.keyOp
  repeat' first
    | with_reducible assumption
    | (with_reducible refine Sub.of hm ?_); decide
    | with_reducible apply execKeyLoad_keeps
    | with_reducible apply execKeyUnwrap_keeps
    | with_reducible apply execKeyErase_keeps
    | with_reducible apply execKeyAttr_keeps
    | with_reducible apply execKeyQuery_keeps
    | with_reducible apply State.keyEnd_keeps
    | with_reducible apply KeepsR.ite
    | with_reducible apply Keeps.ite
    | with_reducible apply KeepsR.next
    | split

theorem State.ringOp_keeps {m : Nat} {s₀ : State} (t : State) (fn : Nat) (h : Keeps m s₀ t) (hm : Sub 8390199 m) :
    KeepsR m s₀ (State.ringOp t fn) := by
  unfold State.ringOp
  repeat' first
    | with_reducible assumption
    | (with_reducible refine Sub.of hm ?_); decide
    | with_reducible apply execRingCreate_keeps
    | with_reducible apply execRingEnable_keeps
    | with_reducible apply execRingDisable_keeps
    | with_reducible apply execRingDestroy_keeps
    | with_reducible apply execRingQuery_keeps
    | with_reducible apply execRingModifyIrq_keeps
    | with_reducible apply State.ringResult_keeps
    | with_reducible apply KeepsR.ite
    | with_reducible apply Keeps.ite
    | with_reducible apply KeepsR.next
    | split

theorem State.slcOp_keeps {m : Nat} {s₀ : State} (t : State) (init : Nat) (h : Keeps m s₀ t) (hm : Sub 8422963 m) :
    KeepsR m s₀ (State.slcOp t init) := by
  unfold State.slcOp
  repeat' first
    | with_reducible assumption
    | (with_reducible refine Sub.of hm ?_); decide
    | with_reducible apply execSliceCreate_keeps
    | with_reducible apply execSliceStart_keeps
    | with_reducible apply execSliceReset_keeps
    | with_reducible apply execSliceDestroy_keeps
    | with_reducible apply execSliceResize_keeps
    | with_reducible apply execSetWindow_keeps
    | with_reducible apply execSliceQuery_keeps
    | with_reducible apply State.slcBegin_keeps
    | with_reducible apply State.slcEnd_keeps
    | with_reducible apply KeepsR.ite
    | with_reducible apply Keeps.ite
    | with_reducible apply KeepsR.next
    | split

theorem State.nsOp_keeps {m : Nat} {s₀ : State} (t : State) (init : Nat) (h : Keeps m s₀ t) (hm : Sub 8848951 m) :
    KeepsR m s₀ (State.nsOp t init) := by
  unfold State.nsOp
  repeat' first
    | intro _
    | with_reducible assumption
    | (with_reducible refine Sub.of hm ?_); decide
    | with_reducible apply execNsCreate_keeps
    | with_reducible apply execNsDelete_keeps
    | with_reducible apply execNsAttach_keeps
    | with_reducible apply execNsDetach_keeps
    | with_reducible apply execNsQuery_keeps
    | with_reducible apply execClearFault_keeps
    | with_reducible apply State.nsCommand_keeps
    | with_reducible apply KeepsR.next
    | split

theorem State.loadOp_keeps {m : Nat} {s₀ : State} (t : State) (init : Nat) (h : Keeps m s₀ t) (hm : Sub 8490551 m) :
    KeepsR m s₀ (State.loadOp t init) := by
  unfold State.loadOp
  repeat' first
    | with_reducible assumption
    | (with_reducible refine Sub.of hm ?_); decide
    | with_reducible apply execCoreLoad_keeps
    | with_reducible apply execResetCore_keeps
    | with_reducible apply State.setF_keeps
    | with_reducible apply KeepsR.ite
    | with_reducible apply Keeps.ite
    | with_reducible apply KeepsR.next
    | split

theorem State.dbgOp_keeps {m : Nat} {s₀ : State} (t : State) (init : Nat) (h : Keeps m s₀ t) (hm : Sub 8487955 m) :
    KeepsR m s₀ (State.dbgOp t init) := by
  unfold State.dbgOp
  repeat' first
    | with_reducible assumption
    | (with_reducible refine Sub.of hm ?_); decide
    | with_reducible apply execDbgStop_keeps
    | with_reducible apply execDbgResume_keeps
    | with_reducible apply execDbgStep_keeps
    | with_reducible apply execDbgRead_keeps
    | with_reducible apply execDbgWrite_keeps
    | with_reducible apply State.setF_keeps
    | with_reducible apply KeepsR.ite
    | with_reducible apply Keeps.ite
    | with_reducible apply KeepsR.next
    | split

theorem State.updateOp_keeps {m : Nat} {s₀ : State} (t : State) (init : Nat) (h : Keeps m s₀ t) (hm : Sub 27001911 m) :
    KeepsR m s₀ (State.updateOp t init) := by
  unfold State.updateOp
  repeat' first
    | with_reducible assumption
    | (with_reducible refine Sub.of hm ?_); decide
    | with_reducible apply execUpdOpen_keeps
    | with_reducible apply execUpdWrite_keeps
    | with_reducible apply execUpdClose_keeps
    | with_reducible apply execUpdActivate_keeps
    | with_reducible apply execUpdPrefer_keeps
    | with_reducible apply execUpdInvalidate_keeps
    | with_reducible apply execRevokeKey_keeps
    | with_reducible apply execAdvanceSvn_keeps
    | with_reducible apply execEnrollOwner_keeps
    | with_reducible apply execOwnerLock_keeps
    | with_reducible apply execOwnerUnlock_keeps
    | with_reducible apply State.updEnd_keeps
    | with_reducible apply KeepsR.ite
    | with_reducible apply Keeps.ite
    | with_reducible apply KeepsR.next
    | split

theorem State.afterStore_keeps {m : Nat} {s₀ : State} (s : State) (t : State) (init : Nat) (r : Reg) (i : Nat) (wide : Bool) (upper : Bool) (v : Word) (h : Keeps m s₀ t) (hm : Sub 33554431 m) :
    KeepsR m s₀ (State.afterStore s t init r i wide upper v) := by
  unfold State.afterStore
  repeat' first
    | with_reducible assumption
    | (with_reducible refine Sub.of hm ?_); decide
    | with_reducible apply execModeRequestGo_keeps
    | with_reducible apply State.adjOp_keeps
    | with_reducible apply State.showRefs_keeps
    | with_reducible apply State.formeOp_keeps
    | with_reducible apply State.tableCommand_keeps
    | with_reducible apply execEpochGo_keeps
    | with_reducible apply State.showNode_keeps
    | with_reducible apply execPolicerWrite_keeps
    | with_reducible apply execPolicerRead_keeps
    | with_reducible apply State.setF_keeps
    | with_reducible apply State.checkLanes_keeps
    | with_reducible apply State.portEnabled_keeps
    | with_reducible apply execImpositionGo_keeps
    | with_reducible apply execTransportDisable_keeps
    | with_reducible apply State.showTransport_keeps
    | with_reducible apply State.drtOp_keeps
    | with_reducible apply State.keyOp_keeps
    | with_reducible apply State.ringOp_keeps
    | with_reducible apply State.slcOp_keeps
    | with_reducible apply execActWrite_keeps
    | with_reducible apply execActRead_keeps
    | with_reducible apply execActLogPop_keeps
    | with_reducible apply State.nsOp_keeps
    | with_reducible apply State.loadOp_keeps
    | with_reducible apply State.dbgOp_keeps
    | with_reducible apply execPrfSliceLift_keeps
    | with_reducible apply State.showSafelight_keeps
    | with_reducible apply execRepairLogRead_keeps
    | with_reducible apply execBootDone_keeps
    | with_reducible apply execBootFail_keeps
    | with_reducible apply execMeasRead_keeps
    | with_reducible apply execMeasExtend_keeps
    | with_reducible apply execMeasLogRead_keeps
    | with_reducible apply State.updateOp_keeps
    | with_reducible apply State.showCascade_keeps
    | with_reducible apply State.takePartition_keeps
    | with_reducible apply State.clearHashTable_keeps
    | with_reducible apply State.cascadeOp_keeps
    | with_reducible apply execErrorInject_keeps
    | with_reducible apply State.mgtEnabled_keeps
    | with_reducible apply State.mgtSend_keeps
    | with_reducible apply KeepsR.ite
    | with_reducible apply Keeps.ite
    | with_reducible apply KeepsR.next
    | split

theorem State.performWrite_keeps {m : Nat} {s₀ : State} (s : State) (init : Nat) (place : Place) (wide : Bool) (v : Word) (h : Keeps m s₀ s) (hm : Sub 33554431 m) :
    KeepsR m s₀ (State.performWrite s init place wide v) := by
  unfold State.performWrite
  repeat' first
    | with_reducible assumption
    | (with_reducible refine Sub.of hm ?_); decide
    | with_reducible apply State.memoryAccess_keeps
    | with_reducible apply State.setBytes_keeps
    | with_reducible apply State.abortCore_keeps
    | with_reducible apply State.placeAccess_keeps
    | with_reducible apply execDoorbell_keeps
    | with_reducible apply State.refuseWrite_keeps
    | with_reducible refine State.ownWrite_keeps _ _ _ _ _ _ _ _ ?_ ?_ _ ‹_›
    | with_reducible apply State.syncIsland_keeps
    | with_reducible apply State.afterStore_keeps
    | with_reducible apply State.storeReg_keeps
    | with_reducible apply KeepsR.ite
    | with_reducible apply Keeps.ite
    | with_reducible apply KeepsR.next
    | split

end Sys2Proof.Machine
end

