-- ==== Sys2Proof/Laws/KeepClock.lean ====
section
/-! SUPPORT. What the operations of Machine/Clock.lean can change: each keeps every part of the state that its number does not name,
and the standing properties of `Keeps`. -/

namespace Sys2Proof.Machine

theorem State.tick_keeps {m : Nat} {s₀ : State} (s : State) (h : Keeps m s₀ s) (hm : Sub 8881783 m) :
    Keeps m s₀ (State.tick s) := by
  have h1 : Keeps m s₀ { s with now := s.now + 1 } := h.set_now _ (Nat.le_succ _)
  exact State.nvmeSettle_keeps _ (State.signalQueues_keeps _ (State.settleCores_keeps _ (State.endPulses_keeps _ h1 (Sub.of hm (by decide))) (Sub.of hm (by decide))) (Sub.of hm (by decide))) (Sub.of hm (by decide))

end Sys2Proof.Machine
end

