-- ==== Sys2Proof/Laws/KeepMmio.lean ====
section
/-! SUPPORT. What the operations of Machine/Mmio.lean can change: each keeps every part of the state that its number does not name,
and the standing properties of `Keeps`. -/

namespace Sys2Proof.Machine

theorem State.mmioAnswer_keeps {m : Nat} {s₀ : State} (s : State) (m1 : Mmio) (status : Nat) (data : Nat) (h : Keeps m s₀ s) (hm : Sub 8388608 m) :
    Keeps m s₀ (State.mmioAnswer s m1 status data) := by
  unfold State.mmioAnswer
  repeat' first
    | with_reducible assumption
    | (with_reducible refine Sub.of hm ?_); decide
    | with_reducible apply State.emit_keeps
    | with_reducible apply Keeps.ite

theorem State.mmioBad_keeps {m : Nat} {s₀ : State} (s : State) (m1 : Mmio) (h : Keeps m s₀ s) (hm : Sub 8388643 m) :
    Keeps m s₀ (State.mmioBad s m1) := by
  unfold State.mmioBad
  repeat' first
    | with_reducible assumption
    | (with_reducible refine Sub.of hm ?_); decide
    | with_reducible apply State.bump_keeps
    | with_reducible apply State.mmioAnswer_keeps
    | with_reducible apply State.aerUncorrectable_keeps
    | with_reducible apply Keeps.ite

theorem State.failWork_keeps {m : Nat} {s₀ : State} (s : State) (w : ReadWork) (st : Nat) (h : Keeps m s₀ s) (hm : Sub 11505599 m) :
    ∀ t, State.failWork s w st = some t → Keeps m s₀ t := by
  intro t ht
  unfold State.failWork at ht
  repeat' split at ht
  all_goals first
    | contradiction
    | (simp only [Option.some.injEq] at ht; subst ht)
  all_goals repeat' first
    | with_reducible assumption
    | (with_reducible refine Sub.of hm ?_); decide
    | with_reducible apply State.stopRing_keeps
    | with_reducible apply State.setRing_keeps
    | with_reducible apply State.completeEntry_keeps
    | with_reducible apply State.nvmeSettle_keeps
    | with_reducible apply State.endOut_keeps
    | with_reducible apply State.setCtrl_keeps
    | with_reducible apply State.nvmeEnd_keeps
    | with_reducible apply State.settleCores_keeps
    | with_reducible apply State.reply_keeps
    | with_reducible apply State.takeReq_keeps
    | with_reducible apply State.sourceFailed_keeps
    | with_reducible apply State.setBoot_keeps
    | with_reducible apply Keeps.ite

theorem State.readFails_keeps {m : Nat} {s₀ : State} (s : State) (w : ReadWork) (st : Nat) (count : Nat) (bit : Option Nat) (h : Keeps m s₀ s) (hm : Sub 11505599 m) :
    Keeps m s₀ (State.readFails s w st count bit) := by
  unfold State.readFails
  repeat' first
    | with_reducible assumption
    | (with_reducible refine Sub.of hm ?_); decide
    | with_reducible refine State.failWork_keeps _ _ _ ?_ ?_ _ ‹_›
    | with_reducible apply State.bump_keeps
    | with_reducible apply State.aerUncorrectable_keeps
    | with_reducible apply Keeps.ite
    | with_reducible apply Keeps.getD
    | split

theorem execReadFailure_keeps {m : Nat} {s₀ : State} (w : ReadWork) (k : ReadFail) (s : State) (h : Keeps m s₀ s) (hm : Sub 11505599 m) :
    KeepsR m s₀ (execReadFailure w k s) := by
  unfold execReadFailure
  repeat' first
    | with_reducible assumption
    | (with_reducible refine Sub.of hm ?_); decide
    | with_reducible apply State.readFails_keeps
    | with_reducible apply KeepsR.next
    | split

theorem execCompletionTimeout_keeps {m : Nat} {s₀ : State} (w : ReadWork) (s : State) (h : Keeps m s₀ s) (hm : Sub 11505599 m) :
    KeepsR m s₀ (execCompletionTimeout w s) := by
  unfold execCompletionTimeout
  repeat' first
    | with_reducible assumption
    | (with_reducible refine Sub.of hm ?_); decide
    | with_reducible apply State.readFails_keeps
    | with_reducible apply KeepsR.next

theorem State.mmioSlicePage_keeps {m : Nat} {s₀ : State} (s : State) (m1 : Mmio) (h : Keeps m s₀ s) (hm : Sub 8390195 m) :
    KeepsR m s₀ (State.mmioSlicePage s m1) := by
  unfold State.mmioSlicePage
  repeat' first
    | with_reducible assumption
    | (with_reducible refine Sub.of hm ?_); decide
    | with_reducible apply execDoorbell_keeps
    | with_reducible apply State.mmioAnswer_keeps
    | with_reducible apply State.setSlice_keeps
    | with_reducible apply KeepsR.ite
    | with_reducible apply Keeps.ite
    | with_reducible apply KeepsR.next
    | split

theorem State.mmioVirtio_keeps {m : Nat} {s₀ : State} (s : State) (m1 : Mmio) (x : FnSt) (h : Keeps m s₀ s) (hm : Sub 8388608 m) :
    KeepsR m s₀ (State.mmioVirtio s m1 x) := by
  unfold State.mmioVirtio
  repeat' first
    | with_reducible assumption
    | (with_reducible refine Sub.of hm ?_); decide
    | with_reducible apply State.draw_keeps
    | with_reducible apply State.mmioAnswer_keeps
    | with_reducible apply KeepsR.ite
    | with_reducible apply Keeps.ite
    | with_reducible apply KeepsR.next

theorem State.mmioPlace_keeps {m : Nat} {s₀ : State} (s : State) (m1 : Mmio) (p : Place) (h : Keeps m s₀ s) (hm : Sub 33554431 m) :
    KeepsR m s₀ (State.mmioPlace s m1 p) := by
  unfold State.mmioPlace
  repeat' first
    | with_reducible assumption
    | (with_reducible refine Sub.of hm ?_); decide
    | with_reducible apply State.blockAccess_keeps
    | with_reducible apply execDoorbell_keeps
    | with_reducible apply State.mmioBad_keeps
    | with_reducible apply State.performWrite_keeps
    | with_reducible apply State.performRead_keeps
    | with_reducible apply State.mmioAnswer_keeps
    | with_reducible apply KeepsR.ite
    | with_reducible apply Keeps.ite
    | with_reducible apply KeepsR.next
    | split

theorem State.mmioBar4_keeps {m : Nat} {s₀ : State} (s : State) (m1 : Mmio) (x : FnSt) (h : Keeps m s₀ s) (hm : Sub 33554431 m) :
    KeepsR m s₀ (State.mmioBar4 s m1 x) := by
  unfold State.mmioBar4
  repeat' first
    | with_reducible assumption
    | (with_reducible refine Sub.of hm ?_); decide
    | with_reducible apply State.mmioBad_keeps
    | with_reducible apply State.mmioAnswer_keeps
    | with_reducible apply State.setFn_keeps
    | with_reducible apply State.mmioPlace_keeps
    | with_reducible apply KeepsR.ite
    | with_reducible apply Keeps.ite
    | with_reducible apply KeepsR.next

theorem State.writeCc_keeps {m : Nat} {s₀ : State} (s : State) (c : Fin 1024) (x : NvmeCtrl) (v : Nat) (h : Keeps m s₀ s) (hm : Sub 8848951 m) :
    KeepsR m s₀ (State.writeCc s c x v) := by
  unfold State.writeCc
  repeat' first
    | with_reducible assumption
    | (with_reducible refine Sub.of hm ?_); decide
    | with_reducible apply State.setCtrl_keeps
    | with_reducible apply execControllerReset_keeps
    | with_reducible apply execControllerEnable_keeps
    | with_reducible apply execNormalShutdown_keeps
    | with_reducible apply execAbruptShutdown_keeps
    | with_reducible apply KeepsR.ite
    | with_reducible apply Keeps.ite
    | with_reducible apply KeepsR.next

theorem State.writeNvme4_keeps {m : Nat} {s₀ : State} (s : State) (f : FnSt) (c : Fin 1024) (x : NvmeCtrl) (o : Nat) (v : Nat) (h : Keeps m s₀ s) (hm : Sub 8848951 m) :
    KeepsR m s₀ (State.writeNvme4 s f c x o v) := by
  unfold State.writeNvme4
  repeat' first
    | with_reducible assumption
    | (with_reducible refine Sub.of hm ?_); decide
    | with_reducible apply State.setCtrl_keeps
    | with_reducible apply State.signalQueues_keeps
    | with_reducible apply State.writeCc_keeps
    | with_reducible apply KeepsR.ite
    | with_reducible apply Keeps.ite
    | with_reducible apply KeepsR.next

theorem State.mmioNvme_keeps {m : Nat} {s₀ : State} (s : State) (m1 : Mmio) (f : FnSt) (h : Keeps m s₀ s) (hm : Sub 8848951 m) :
    KeepsR m s₀ (State.mmioNvme s m1 f) := by
  unfold State.mmioNvme
  repeat' first
    | with_reducible assumption
    | (with_reducible refine Sub.of hm ?_); decide
    | with_reducible apply State.mmioAnswer_keeps
    | with_reducible apply State.mmioBad_keeps
    | with_reducible apply execNvmeDoorbell_keeps
    | with_reducible apply State.setCtrl_keeps
    | with_reducible apply State.writeNvme4_keeps
    | with_reducible apply KeepsR.ite
    | with_reducible apply Keeps.ite
    | with_reducible apply KeepsR.next
    | split

theorem State.mmioRecovery_keeps {m : Nat} {s₀ : State} (s : State) (m1 : Mmio) (h : Keeps m s₀ s) (hm : Sub 8912896 m) :
    KeepsR m s₀ (State.mmioRecovery s m1) := by
  unfold State.mmioRecovery
  repeat' first
    | with_reducible assumption
    | (with_reducible refine Sub.of hm ?_); decide
    | with_reducible apply State.mmioAnswer_keeps
    | with_reducible apply State.setBoot_keeps
    | with_reducible apply execRecGo_keeps
    | with_reducible apply KeepsR.ite
    | with_reducible apply Keeps.ite
    | with_reducible apply KeepsR.next
    | split

theorem execMmioRequest_keeps {m : Nat} {s₀ : State} (m1 : Mmio) (s : State) (h : Keeps m s₀ s) (hm : Sub 33554431 m) :
    KeepsR m s₀ (execMmioRequest m1 s) := by
  unfold execMmioRequest
  repeat' first
    | with_reducible assumption
    | (with_reducible refine Sub.of hm ?_); decide
    | with_reducible apply State.bump_keeps
    | with_reducible apply State.touchFn_keeps
    | with_reducible apply State.mmioAnswer_keeps
    | with_reducible apply State.aerUncorrectable_keeps
    | with_reducible apply State.mmioPlace_keeps
    | with_reducible apply State.mmioBad_keeps
    | with_reducible apply State.mmioNvme_keeps
    | with_reducible apply State.mmioRecovery_keeps
    | with_reducible apply State.mmioSlicePage_keeps
    | with_reducible apply State.mmioVirtio_keeps
    | with_reducible apply State.mmioBar4_keeps
    | with_reducible apply KeepsR.ite
    | with_reducible apply Keeps.ite
    | with_reducible apply KeepsR.next
    | split

end Sys2Proof.Machine
end

