-- ==== Sys2Proof/Laws/KeepRegCmds.lean ====
section
/-! SUPPORT. What the operations of Machine/RegCmds.lean can change: each keeps every part of the state that its number does not name,
and the standing properties of `Keeps`. -/

namespace Sys2Proof.Machine

theorem execMemberAccessTimeout_keeps {m : Nat} {s₀ : State} (s : State) (h : Keeps m s₀ s) (hm : Sub 10485763 m) :
    KeepsR m s₀ (execMemberAccessTimeout s) := by
  unfold execMemberAccessTimeout
  repeat' first
    | with_reducible assumption
    | (with_reducible refine Sub.of hm ?_); decide
    | with_reducible apply State.draw_keeps
    | with_reducible apply State.after_keeps
    | with_reducible apply State.setF_keeps
    | with_reducible apply State.emit_keeps
    | with_reducible apply KeepsR.ite
    | with_reducible apply Keeps.ite
    | with_reducible apply KeepsR.next
    | split
    | with_reducible apply Keeps.set_odf

theorem execRcRead_keeps {m : Nat} {s₀ : State} (init : Nat) (place : Place) (wide : Bool) (s : State) (h : Keeps m s₀ s) (hm : Sub 8389651 m) :
    KeepsR m s₀ (execRcRead init place wide s) := by
  unfold execRcRead
  repeat' first
    | with_reducible assumption
    | (with_reducible refine Sub.of hm ?_); decide
    | with_reducible apply State.performRead_keeps
    | with_reducible apply State.emit_keeps
    | with_reducible apply KeepsR.next
    | split
    | dsimp only

theorem execRegisterWrite_keeps {m : Nat} {s₀ : State} (init : Nat) (place : Place) (wide : Bool) (v : Word) (s : State) (h : Keeps m s₀ s) (hm : Sub 33554431 m) :
    KeepsR m s₀ (execRegisterWrite init place wide v s) := by
  unfold execRegisterWrite
  repeat' first
    | with_reducible assumption
    | (with_reducible refine Sub.of hm ?_); decide
    | with_reducible apply State.performWrite_keeps
    | with_reducible apply KeepsR.next

theorem execMemberWindowAccess_keeps {m : Nat} {s₀ : State} (init : Nat) (off : BitVec 25) (wide : Bool) (write : Option Word) (answer : Option Word) (s : State) (h : Keeps m s₀ s) (hm : Sub 10485760 m) :
    KeepsR m s₀ (execMemberWindowAccess init off wide write answer s) := by
  unfold execMemberWindowAccess
  repeat' first
    | with_reducible assumption
    | (with_reducible refine Sub.of hm ?_); decide
    | with_reducible apply State.emit_keeps
    | with_reducible apply KeepsR.ite
    | with_reducible apply Keeps.ite
    | with_reducible apply KeepsR.next
    | split
    | with_reducible apply Keeps.set_odf

end Sys2Proof.Machine
end

