-- ==== Sys2Proof/Laws/State.lean ====
section
/-! SUPPORT. One lemma for each field of the state and each update of it: what the update leaves alone. -/

namespace Sys2Proof.Machine

@[simp] theorem State.setReg_now (s : State) (r : Reg) (v : Word) (i : Nat) (j : Nat) : (s.setReg r v i j).now = s.now := (rfl)
@[simp] theorem State.setReg_fuse (s : State) (r : Reg) (v : Word) (i : Nat) (j : Nat) : (s.setReg r v i j).fuse = s.fuse := (rfl)
@[simp] theorem State.setReg_mem (s : State) (r : Reg) (v : Word) (i : Nat) (j : Nat) : (s.setReg r v i j).mem = s.mem := (rfl)
@[simp] theorem State.setReg_freeSeq (s : State) (r : Reg) (v : Word) (i : Nat) (j : Nat) : (s.setReg r v i j).freeSeq = s.freeSeq := (rfl)
@[simp] theorem State.setReg_modes (s : State) (r : Reg) (v : Word) (i : Nat) (j : Nat) : (s.setReg r v i j).modes = s.modes := (rfl)
@[simp] theorem State.setReg_prf (s : State) (r : Reg) (v : Word) (i : Nat) (j : Nat) : (s.setReg r v i j).prf = s.prf := (rfl)
@[simp] theorem State.setReg_hif (s : State) (r : Reg) (v : Word) (i : Nat) (j : Nat) : (s.setReg r v i j).hif = s.hif := (rfl)
@[simp] theorem State.setReg_island (s : State) (r : Reg) (v : Word) (i : Nat) (j : Nat) : (s.setReg r v i j).island = s.island := (rfl)
@[simp] theorem State.setReg_ptm (s : State) (r : Reg) (v : Word) (i : Nat) (j : Nat) : (s.setReg r v i j).ptm = s.ptm := (rfl)
@[simp] theorem State.setReg_pages (s : State) (r : Reg) (v : Word) (i : Nat) (j : Nat) : (s.setReg r v i j).pages = s.pages := (rfl)
@[simp] theorem State.setReg_rings (s : State) (r : Reg) (v : Word) (i : Nat) (j : Nat) : (s.setReg r v i j).rings = s.rings := (rfl)
@[simp] theorem State.setReg_slc (s : State) (r : Reg) (v : Word) (i : Nat) (j : Nat) : (s.setReg r v i j).slc = s.slc := (rfl)
@[simp] theorem State.setReg_dp (s : State) (r : Reg) (v : Word) (i : Nat) (j : Nat) : (s.setReg r v i j).dp = s.dp := (rfl)
@[simp] theorem State.setReg_frm (s : State) (r : Reg) (v : Word) (i : Nat) (j : Nat) : (s.setReg r v i j).frm = s.frm := (rfl)
@[simp] theorem State.setReg_tbl (s : State) (r : Reg) (v : Word) (i : Nat) (j : Nat) : (s.setReg r v i j).tbl = s.tbl := (rfl)
@[simp] theorem State.setReg_tm (s : State) (r : Reg) (v : Word) (i : Nat) (j : Nat) : (s.setReg r v i j).tm = s.tm := (rfl)
@[simp] theorem State.setReg_fcx (s : State) (r : Reg) (v : Word) (i : Nat) (j : Nat) : (s.setReg r v i j).fcx = s.fcx := (rfl)
@[simp] theorem State.setReg_cph (s : State) (r : Reg) (v : Word) (i : Nat) (j : Nat) : (s.setReg r v i j).cph = s.cph := (rfl)
@[simp] theorem State.setReg_drt (s : State) (r : Reg) (v : Word) (i : Nat) (j : Nat) : (s.setReg r v i j).drt = s.drt := (rfl)
@[simp] theorem State.setReg_nve (s : State) (r : Reg) (v : Word) (i : Nat) (j : Nat) : (s.setReg r v i j).nve = s.nve := (rfl)
@[simp] theorem State.setReg_boot (s : State) (r : Reg) (v : Word) (i : Nat) (j : Nat) : (s.setReg r v i j).boot = s.boot := (rfl)
@[simp] theorem State.setReg_upd (s : State) (r : Reg) (v : Word) (i : Nat) (j : Nat) : (s.setReg r v i j).upd = s.upd := (rfl)
@[simp] theorem State.setReg_odf (s : State) (r : Reg) (v : Word) (i : Nat) (j : Nat) : (s.setReg r v i j).odf = s.odf := (rfl)
@[simp] theorem State.setReg_hw (s : State) (r : Reg) (v : Word) (i : Nat) (j : Nat) : (s.setReg r v i j).hw = s.hw := (rfl)
@[simp] theorem State.setReg_out (s : State) (r : Reg) (v : Word) (i : Nat) (j : Nat) : (s.setReg r v i j).out = s.out := (rfl)
@[simp] theorem State.setReg_pending (s : State) (r : Reg) (v : Word) (i : Nat) (j : Nat) : (s.setReg r v i j).pending = s.pending := (rfl)

@[simp] theorem State.setF_now (s : State) (f : Fld) (v : Nat) (i : Nat) (j : Nat) : (s.setF f v i j).now = s.now := (rfl)
@[simp] theorem State.setF_fuse (s : State) (f : Fld) (v : Nat) (i : Nat) (j : Nat) : (s.setF f v i j).fuse = s.fuse := (rfl)
@[simp] theorem State.setF_mem (s : State) (f : Fld) (v : Nat) (i : Nat) (j : Nat) : (s.setF f v i j).mem = s.mem := (rfl)
@[simp] theorem State.setF_freeSeq (s : State) (f : Fld) (v : Nat) (i : Nat) (j : Nat) : (s.setF f v i j).freeSeq = s.freeSeq := (rfl)
@[simp] theorem State.setF_modes (s : State) (f : Fld) (v : Nat) (i : Nat) (j : Nat) : (s.setF f v i j).modes = s.modes := (rfl)
@[simp] theorem State.setF_prf (s : State) (f : Fld) (v : Nat) (i : Nat) (j : Nat) : (s.setF f v i j).prf = s.prf := (rfl)
@[simp] theorem State.setF_hif (s : State) (f : Fld) (v : Nat) (i : Nat) (j : Nat) : (s.setF f v i j).hif = s.hif := (rfl)
@[simp] theorem State.setF_island (s : State) (f : Fld) (v : Nat) (i : Nat) (j : Nat) : (s.setF f v i j).island = s.island := (rfl)
@[simp] theorem State.setF_ptm (s : State) (f : Fld) (v : Nat) (i : Nat) (j : Nat) : (s.setF f v i j).ptm = s.ptm := (rfl)
@[simp] theorem State.setF_pages (s : State) (f : Fld) (v : Nat) (i : Nat) (j : Nat) : (s.setF f v i j).pages = s.pages := (rfl)
@[simp] theorem State.setF_rings (s : State) (f : Fld) (v : Nat) (i : Nat) (j : Nat) : (s.setF f v i j).rings = s.rings := (rfl)
@[simp] theorem State.setF_slc (s : State) (f : Fld) (v : Nat) (i : Nat) (j : Nat) : (s.setF f v i j).slc = s.slc := (rfl)
@[simp] theorem State.setF_dp (s : State) (f : Fld) (v : Nat) (i : Nat) (j : Nat) : (s.setF f v i j).dp = s.dp := (rfl)
@[simp] theorem State.setF_frm (s : State) (f : Fld) (v : Nat) (i : Nat) (j : Nat) : (s.setF f v i j).frm = s.frm := (rfl)
@[simp] theorem State.setF_tbl (s : State) (f : Fld) (v : Nat) (i : Nat) (j : Nat) : (s.setF f v i j).tbl = s.tbl := (rfl)
@[simp] theorem State.setF_tm (s : State) (f : Fld) (v : Nat) (i : Nat) (j : Nat) : (s.setF f v i j).tm = s.tm := (rfl)
@[simp] theorem State.setF_fcx (s : State) (f : Fld) (v : Nat) (i : Nat) (j : Nat) : (s.setF f v i j).fcx = s.fcx := (rfl)
@[simp] theorem State.setF_cph (s : State) (f : Fld) (v : Nat) (i : Nat) (j : Nat) : (s.setF f v i j).cph = s.cph := (rfl)
@[simp] theorem State.setF_drt (s : State) (f : Fld) (v : Nat) (i : Nat) (j : Nat) : (s.setF f v i j).drt = s.drt := (rfl)
@[simp] theorem State.setF_nve (s : State) (f : Fld) (v : Nat) (i : Nat) (j : Nat) : (s.setF f v i j).nve = s.nve := (rfl)
@[simp] theorem State.setF_boot (s : State) (f : Fld) (v : Nat) (i : Nat) (j : Nat) : (s.setF f v i j).boot = s.boot := (rfl)
@[simp] theorem State.setF_upd (s : State) (f : Fld) (v : Nat) (i : Nat) (j : Nat) : (s.setF f v i j).upd = s.upd := (rfl)
@[simp] theorem State.setF_odf (s : State) (f : Fld) (v : Nat) (i : Nat) (j : Nat) : (s.setF f v i j).odf = s.odf := (rfl)
@[simp] theorem State.setF_hw (s : State) (f : Fld) (v : Nat) (i : Nat) (j : Nat) : (s.setF f v i j).hw = s.hw := (rfl)
@[simp] theorem State.setF_out (s : State) (f : Fld) (v : Nat) (i : Nat) (j : Nat) : (s.setF f v i j).out = s.out := (rfl)
@[simp] theorem State.setF_pending (s : State) (f : Fld) (v : Nat) (i : Nat) (j : Nat) : (s.setF f v i j).pending = s.pending := (rfl)

@[simp] theorem State.bump_now (s : State) (f : Fld) (i : Nat) (j : Nat) (n : Nat) : (s.bump f i j n).now = s.now := (rfl)
@[simp] theorem State.bump_fuse (s : State) (f : Fld) (i : Nat) (j : Nat) (n : Nat) : (s.bump f i j n).fuse = s.fuse := (rfl)
@[simp] theorem State.bump_mem (s : State) (f : Fld) (i : Nat) (j : Nat) (n : Nat) : (s.bump f i j n).mem = s.mem := (rfl)
@[simp] theorem State.bump_freeSeq (s : State) (f : Fld) (i : Nat) (j : Nat) (n : Nat) : (s.bump f i j n).freeSeq = s.freeSeq := (rfl)
@[simp] theorem State.bump_modes (s : State) (f : Fld) (i : Nat) (j : Nat) (n : Nat) : (s.bump f i j n).modes = s.modes := (rfl)
@[simp] theorem State.bump_prf (s : State) (f : Fld) (i : Nat) (j : Nat) (n : Nat) : (s.bump f i j n).prf = s.prf := (rfl)
@[simp] theorem State.bump_hif (s : State) (f : Fld) (i : Nat) (j : Nat) (n : Nat) : (s.bump f i j n).hif = s.hif := (rfl)
@[simp] theorem State.bump_island (s : State) (f : Fld) (i : Nat) (j : Nat) (n : Nat) : (s.bump f i j n).island = s.island := (rfl)
@[simp] theorem State.bump_ptm (s : State) (f : Fld) (i : Nat) (j : Nat) (n : Nat) : (s.bump f i j n).ptm = s.ptm := (rfl)
@[simp] theorem State.bump_pages (s : State) (f : Fld) (i : Nat) (j : Nat) (n : Nat) : (s.bump f i j n).pages = s.pages := (rfl)
@[simp] theorem State.bump_rings (s : State) (f : Fld) (i : Nat) (j : Nat) (n : Nat) : (s.bump f i j n).rings = s.rings := (rfl)
@[simp] theorem State.bump_slc (s : State) (f : Fld) (i : Nat) (j : Nat) (n : Nat) : (s.bump f i j n).slc = s.slc := (rfl)
@[simp] theorem State.bump_dp (s : State) (f : Fld) (i : Nat) (j : Nat) (n : Nat) : (s.bump f i j n).dp = s.dp := (rfl)
@[simp] theorem State.bump_frm (s : State) (f : Fld) (i : Nat) (j : Nat) (n : Nat) : (s.bump f i j n).frm = s.frm := (rfl)
@[simp] theorem State.bump_tbl (s : State) (f : Fld) (i : Nat) (j : Nat) (n : Nat) : (s.bump f i j n).tbl = s.tbl := (rfl)
@[simp] theorem State.bump_tm (s : State) (f : Fld) (i : Nat) (j : Nat) (n : Nat) : (s.bump f i j n).tm = s.tm := (rfl)
@[simp] theorem State.bump_fcx (s : State) (f : Fld) (i : Nat) (j : Nat) (n : Nat) : (s.bump f i j n).fcx = s.fcx := (rfl)
@[simp] theorem State.bump_cph (s : State) (f : Fld) (i : Nat) (j : Nat) (n : Nat) : (s.bump f i j n).cph = s.cph := (rfl)
@[simp] theorem State.bump_drt (s : State) (f : Fld) (i : Nat) (j : Nat) (n : Nat) : (s.bump f i j n).drt = s.drt := (rfl)
@[simp] theorem State.bump_nve (s : State) (f : Fld) (i : Nat) (j : Nat) (n : Nat) : (s.bump f i j n).nve = s.nve := (rfl)
@[simp] theorem State.bump_boot (s : State) (f : Fld) (i : Nat) (j : Nat) (n : Nat) : (s.bump f i j n).boot = s.boot := (rfl)
@[simp] theorem State.bump_upd (s : State) (f : Fld) (i : Nat) (j : Nat) (n : Nat) : (s.bump f i j n).upd = s.upd := (rfl)
@[simp] theorem State.bump_odf (s : State) (f : Fld) (i : Nat) (j : Nat) (n : Nat) : (s.bump f i j n).odf = s.odf := (rfl)
@[simp] theorem State.bump_hw (s : State) (f : Fld) (i : Nat) (j : Nat) (n : Nat) : (s.bump f i j n).hw = s.hw := (rfl)
@[simp] theorem State.bump_out (s : State) (f : Fld) (i : Nat) (j : Nat) (n : Nat) : (s.bump f i j n).out = s.out := (rfl)
@[simp] theorem State.bump_pending (s : State) (f : Fld) (i : Nat) (j : Nat) (n : Nat) : (s.bump f i j n).pending = s.pending := (rfl)

@[simp] theorem State.emit_now (s : State) (o : Out) : (s.emit o).now = s.now := (rfl)
@[simp] theorem State.emit_fuse (s : State) (o : Out) : (s.emit o).fuse = s.fuse := (rfl)
@[simp] theorem State.emit_regs (s : State) (o : Out) : (s.emit o).regs = s.regs := (rfl)
@[simp] theorem State.emit_mram (s : State) (o : Out) : (s.emit o).mram = s.mram := (rfl)
@[simp] theorem State.emit_mem (s : State) (o : Out) : (s.emit o).mem = s.mem := (rfl)
@[simp] theorem State.emit_freeSeq (s : State) (o : Out) : (s.emit o).freeSeq = s.freeSeq := (rfl)
@[simp] theorem State.emit_modes (s : State) (o : Out) : (s.emit o).modes = s.modes := (rfl)
@[simp] theorem State.emit_prf (s : State) (o : Out) : (s.emit o).prf = s.prf := (rfl)
@[simp] theorem State.emit_hif (s : State) (o : Out) : (s.emit o).hif = s.hif := (rfl)
@[simp] theorem State.emit_island (s : State) (o : Out) : (s.emit o).island = s.island := (rfl)
@[simp] theorem State.emit_ptm (s : State) (o : Out) : (s.emit o).ptm = s.ptm := (rfl)
@[simp] theorem State.emit_pages (s : State) (o : Out) : (s.emit o).pages = s.pages := (rfl)
@[simp] theorem State.emit_rings (s : State) (o : Out) : (s.emit o).rings = s.rings := (rfl)
@[simp] theorem State.emit_slc (s : State) (o : Out) : (s.emit o).slc = s.slc := (rfl)
@[simp] theorem State.emit_dp (s : State) (o : Out) : (s.emit o).dp = s.dp := (rfl)
@[simp] theorem State.emit_frm (s : State) (o : Out) : (s.emit o).frm = s.frm := (rfl)
@[simp] theorem State.emit_tbl (s : State) (o : Out) : (s.emit o).tbl = s.tbl := (rfl)
@[simp] theorem State.emit_tm (s : State) (o : Out) : (s.emit o).tm = s.tm := (rfl)
@[simp] theorem State.emit_fcx (s : State) (o : Out) : (s.emit o).fcx = s.fcx := (rfl)
@[simp] theorem State.emit_cph (s : State) (o : Out) : (s.emit o).cph = s.cph := (rfl)
@[simp] theorem State.emit_drt (s : State) (o : Out) : (s.emit o).drt = s.drt := (rfl)
@[simp] theorem State.emit_nve (s : State) (o : Out) : (s.emit o).nve = s.nve := (rfl)
@[simp] theorem State.emit_boot (s : State) (o : Out) : (s.emit o).boot = s.boot := (rfl)
@[simp] theorem State.emit_upd (s : State) (o : Out) : (s.emit o).upd = s.upd := (rfl)
@[simp] theorem State.emit_odf (s : State) (o : Out) : (s.emit o).odf = s.odf := (rfl)
@[simp] theorem State.emit_hw (s : State) (o : Out) : (s.emit o).hw = s.hw := (rfl)
@[simp] theorem State.emit_pending (s : State) (o : Out) : (s.emit o).pending = s.pending := (rfl)

@[simp] theorem State.draw_now (s : State) (n : Nat) : (s.draw n).2.now = s.now := (rfl)
@[simp] theorem State.draw_fuse (s : State) (n : Nat) : (s.draw n).2.fuse = s.fuse := (rfl)
@[simp] theorem State.draw_regs (s : State) (n : Nat) : (s.draw n).2.regs = s.regs := (rfl)
@[simp] theorem State.draw_mram (s : State) (n : Nat) : (s.draw n).2.mram = s.mram := (rfl)
@[simp] theorem State.draw_mem (s : State) (n : Nat) : (s.draw n).2.mem = s.mem := (rfl)
@[simp] theorem State.draw_modes (s : State) (n : Nat) : (s.draw n).2.modes = s.modes := (rfl)
@[simp] theorem State.draw_prf (s : State) (n : Nat) : (s.draw n).2.prf = s.prf := (rfl)
@[simp] theorem State.draw_hif (s : State) (n : Nat) : (s.draw n).2.hif = s.hif := (rfl)
@[simp] theorem State.draw_island (s : State) (n : Nat) : (s.draw n).2.island = s.island := (rfl)
@[simp] theorem State.draw_ptm (s : State) (n : Nat) : (s.draw n).2.ptm = s.ptm := (rfl)
@[simp] theorem State.draw_pages (s : State) (n : Nat) : (s.draw n).2.pages = s.pages := (rfl)
@[simp] theorem State.draw_rings (s : State) (n : Nat) : (s.draw n).2.rings = s.rings := (rfl)
@[simp] theorem State.draw_slc (s : State) (n : Nat) : (s.draw n).2.slc = s.slc := (rfl)
@[simp] theorem State.draw_dp (s : State) (n : Nat) : (s.draw n).2.dp = s.dp := (rfl)
@[simp] theorem State.draw_frm (s : State) (n : Nat) : (s.draw n).2.frm = s.frm := (rfl)
@[simp] theorem State.draw_tbl (s : State) (n : Nat) : (s.draw n).2.tbl = s.tbl := (rfl)
@[simp] theorem State.draw_tm (s : State) (n : Nat) : (s.draw n).2.tm = s.tm := (rfl)
@[simp] theorem State.draw_fcx (s : State) (n : Nat) : (s.draw n).2.fcx = s.fcx := (rfl)
@[simp] theorem State.draw_cph (s : State) (n : Nat) : (s.draw n).2.cph = s.cph := (rfl)
@[simp] theorem State.draw_drt (s : State) (n : Nat) : (s.draw n).2.drt = s.drt := (rfl)
@[simp] theorem State.draw_nve (s : State) (n : Nat) : (s.draw n).2.nve = s.nve := (rfl)
@[simp] theorem State.draw_boot (s : State) (n : Nat) : (s.draw n).2.boot = s.boot := (rfl)
@[simp] theorem State.draw_upd (s : State) (n : Nat) : (s.draw n).2.upd = s.upd := (rfl)
@[simp] theorem State.draw_odf (s : State) (n : Nat) : (s.draw n).2.odf = s.odf := (rfl)
@[simp] theorem State.draw_hw (s : State) (n : Nat) : (s.draw n).2.hw = s.hw := (rfl)
@[simp] theorem State.draw_out (s : State) (n : Nat) : (s.draw n).2.out = s.out := (rfl)
@[simp] theorem State.draw_pending (s : State) (n : Nat) : (s.draw n).2.pending = s.pending := (rfl)

@[simp] theorem State.after_fuse (s : State) (t : Nat) : (s.after t).fuse = s.fuse := (rfl)
@[simp] theorem State.after_regs (s : State) (t : Nat) : (s.after t).regs = s.regs := (rfl)
@[simp] theorem State.after_mram (s : State) (t : Nat) : (s.after t).mram = s.mram := (rfl)
@[simp] theorem State.after_mem (s : State) (t : Nat) : (s.after t).mem = s.mem := (rfl)
@[simp] theorem State.after_freeSeq (s : State) (t : Nat) : (s.after t).freeSeq = s.freeSeq := (rfl)
@[simp] theorem State.after_modes (s : State) (t : Nat) : (s.after t).modes = s.modes := (rfl)
@[simp] theorem State.after_prf (s : State) (t : Nat) : (s.after t).prf = s.prf := (rfl)
@[simp] theorem State.after_hif (s : State) (t : Nat) : (s.after t).hif = s.hif := (rfl)
@[simp] theorem State.after_island (s : State) (t : Nat) : (s.after t).island = s.island := (rfl)
@[simp] theorem State.after_ptm (s : State) (t : Nat) : (s.after t).ptm = s.ptm := (rfl)
@[simp] theorem State.after_pages (s : State) (t : Nat) : (s.after t).pages = s.pages := (rfl)
@[simp] theorem State.after_rings (s : State) (t : Nat) : (s.after t).rings = s.rings := (rfl)
@[simp] theorem State.after_slc (s : State) (t : Nat) : (s.after t).slc = s.slc := (rfl)
@[simp] theorem State.after_dp (s : State) (t : Nat) : (s.after t).dp = s.dp := (rfl)
@[simp] theorem State.after_frm (s : State) (t : Nat) : (s.after t).frm = s.frm := (rfl)
@[simp] theorem State.after_tbl (s : State) (t : Nat) : (s.after t).tbl = s.tbl := (rfl)
@[simp] theorem State.after_tm (s : State) (t : Nat) : (s.after t).tm = s.tm := (rfl)
@[simp] theorem State.after_fcx (s : State) (t : Nat) : (s.after t).fcx = s.fcx := (rfl)
@[simp] theorem State.after_cph (s : State) (t : Nat) : (s.after t).cph = s.cph := (rfl)
@[simp] theorem State.after_drt (s : State) (t : Nat) : (s.after t).drt = s.drt := (rfl)
@[simp] theorem State.after_nve (s : State) (t : Nat) : (s.after t).nve = s.nve := (rfl)
@[simp] theorem State.after_boot (s : State) (t : Nat) : (s.after t).boot = s.boot := (rfl)
@[simp] theorem State.after_upd (s : State) (t : Nat) : (s.after t).upd = s.upd := (rfl)
@[simp] theorem State.after_odf (s : State) (t : Nat) : (s.after t).odf = s.odf := (rfl)
@[simp] theorem State.after_hw (s : State) (t : Nat) : (s.after t).hw = s.hw := (rfl)
@[simp] theorem State.after_out (s : State) (t : Nat) : (s.after t).out = s.out := (rfl)
@[simp] theorem State.after_pending (s : State) (t : Nat) : (s.after t).pending = s.pending := (rfl)

@[simp] theorem State.setByte_now (s : State) (a : Nat) (b : Byte) : (s.setByte a b).now = s.now := (rfl)
@[simp] theorem State.setByte_fuse (s : State) (a : Nat) (b : Byte) : (s.setByte a b).fuse = s.fuse := (rfl)
@[simp] theorem State.setByte_regs (s : State) (a : Nat) (b : Byte) : (s.setByte a b).regs = s.regs := (rfl)
@[simp] theorem State.setByte_mram (s : State) (a : Nat) (b : Byte) : (s.setByte a b).mram = s.mram := (rfl)
@[simp] theorem State.setByte_freeSeq (s : State) (a : Nat) (b : Byte) : (s.setByte a b).freeSeq = s.freeSeq := (rfl)
@[simp] theorem State.setByte_modes (s : State) (a : Nat) (b : Byte) : (s.setByte a b).modes = s.modes := (rfl)
@[simp] theorem State.setByte_prf (s : State) (a : Nat) (b : Byte) : (s.setByte a b).prf = s.prf := (rfl)
@[simp] theorem State.setByte_hif (s : State) (a : Nat) (b : Byte) : (s.setByte a b).hif = s.hif := (rfl)
@[simp] theorem State.setByte_island (s : State) (a : Nat) (b : Byte) : (s.setByte a b).island = s.island := (rfl)
@[simp] theorem State.setByte_ptm (s : State) (a : Nat) (b : Byte) : (s.setByte a b).ptm = s.ptm := (rfl)
@[simp] theorem State.setByte_pages (s : State) (a : Nat) (b : Byte) : (s.setByte a b).pages = s.pages := (rfl)
@[simp] theorem State.setByte_rings (s : State) (a : Nat) (b : Byte) : (s.setByte a b).rings = s.rings := (rfl)
@[simp] theorem State.setByte_slc (s : State) (a : Nat) (b : Byte) : (s.setByte a b).slc = s.slc := (rfl)
@[simp] theorem State.setByte_dp (s : State) (a : Nat) (b : Byte) : (s.setByte a b).dp = s.dp := (rfl)
@[simp] theorem State.setByte_frm (s : State) (a : Nat) (b : Byte) : (s.setByte a b).frm = s.frm := (rfl)
@[simp] theorem State.setByte_tbl (s : State) (a : Nat) (b : Byte) : (s.setByte a b).tbl = s.tbl := (rfl)
@[simp] theorem State.setByte_tm (s : State) (a : Nat) (b : Byte) : (s.setByte a b).tm = s.tm := (rfl)
@[simp] theorem State.setByte_fcx (s : State) (a : Nat) (b : Byte) : (s.setByte a b).fcx = s.fcx := (rfl)
@[simp] theorem State.setByte_cph (s : State) (a : Nat) (b : Byte) : (s.setByte a b).cph = s.cph := (rfl)
@[simp] theorem State.setByte_drt (s : State) (a : Nat) (b : Byte) : (s.setByte a b).drt = s.drt := (rfl)
@[simp] theorem State.setByte_nve (s : State) (a : Nat) (b : Byte) : (s.setByte a b).nve = s.nve := (rfl)
@[simp] theorem State.setByte_boot (s : State) (a : Nat) (b : Byte) : (s.setByte a b).boot = s.boot := (rfl)
@[simp] theorem State.setByte_upd (s : State) (a : Nat) (b : Byte) : (s.setByte a b).upd = s.upd := (rfl)
@[simp] theorem State.setByte_odf (s : State) (a : Nat) (b : Byte) : (s.setByte a b).odf = s.odf := (rfl)
@[simp] theorem State.setByte_hw (s : State) (a : Nat) (b : Byte) : (s.setByte a b).hw = s.hw := (rfl)
@[simp] theorem State.setByte_out (s : State) (a : Nat) (b : Byte) : (s.setByte a b).out = s.out := (rfl)
@[simp] theorem State.setByte_pending (s : State) (a : Nat) (b : Byte) : (s.setByte a b).pending = s.pending := (rfl)

@[simp] theorem State.setFn_now (s : State) (f : Nat) (x : FnSt) : (s.setFn f x).now = s.now := (rfl)
@[simp] theorem State.setFn_fuse (s : State) (f : Nat) (x : FnSt) : (s.setFn f x).fuse = s.fuse := (rfl)
@[simp] theorem State.setFn_regs (s : State) (f : Nat) (x : FnSt) : (s.setFn f x).regs = s.regs := (rfl)
@[simp] theorem State.setFn_mram (s : State) (f : Nat) (x : FnSt) : (s.setFn f x).mram = s.mram := (rfl)
@[simp] theorem State.setFn_mem (s : State) (f : Nat) (x : FnSt) : (s.setFn f x).mem = s.mem := (rfl)
@[simp] theorem State.setFn_freeSeq (s : State) (f : Nat) (x : FnSt) : (s.setFn f x).freeSeq = s.freeSeq := (rfl)
@[simp] theorem State.setFn_modes (s : State) (f : Nat) (x : FnSt) : (s.setFn f x).modes = s.modes := (rfl)
@[simp] theorem State.setFn_prf (s : State) (f : Nat) (x : FnSt) : (s.setFn f x).prf = s.prf := (rfl)
@[simp] theorem State.setFn_island (s : State) (f : Nat) (x : FnSt) : (s.setFn f x).island = s.island := (rfl)
@[simp] theorem State.setFn_ptm (s : State) (f : Nat) (x : FnSt) : (s.setFn f x).ptm = s.ptm := (rfl)
@[simp] theorem State.setFn_pages (s : State) (f : Nat) (x : FnSt) : (s.setFn f x).pages = s.pages := (rfl)
@[simp] theorem State.setFn_rings (s : State) (f : Nat) (x : FnSt) : (s.setFn f x).rings = s.rings := (rfl)
@[simp] theorem State.setFn_slc (s : State) (f : Nat) (x : FnSt) : (s.setFn f x).slc = s.slc := (rfl)
@[simp] theorem State.setFn_dp (s : State) (f : Nat) (x : FnSt) : (s.setFn f x).dp = s.dp := (rfl)
@[simp] theorem State.setFn_frm (s : State) (f : Nat) (x : FnSt) : (s.setFn f x).frm = s.frm := (rfl)
@[simp] theorem State.setFn_tbl (s : State) (f : Nat) (x : FnSt) : (s.setFn f x).tbl = s.tbl := (rfl)
@[simp] theorem State.setFn_tm (s : State) (f : Nat) (x : FnSt) : (s.setFn f x).tm = s.tm := (rfl)
@[simp] theorem State.setFn_fcx (s : State) (f : Nat) (x : FnSt) : (s.setFn f x).fcx = s.fcx := (rfl)
@[simp] theorem State.setFn_cph (s : State) (f : Nat) (x : FnSt) : (s.setFn f x).cph = s.cph := (rfl)
@[simp] theorem State.setFn_drt (s : State) (f : Nat) (x : FnSt) : (s.setFn f x).drt = s.drt := (rfl)
@[simp] theorem State.setFn_nve (s : State) (f : Nat) (x : FnSt) : (s.setFn f x).nve = s.nve := (rfl)
@[simp] theorem State.setFn_boot (s : State) (f : Nat) (x : FnSt) : (s.setFn f x).boot = s.boot := (rfl)
@[simp] theorem State.setFn_upd (s : State) (f : Nat) (x : FnSt) : (s.setFn f x).upd = s.upd := (rfl)
@[simp] theorem State.setFn_odf (s : State) (f : Nat) (x : FnSt) : (s.setFn f x).odf = s.odf := (rfl)
@[simp] theorem State.setFn_hw (s : State) (f : Nat) (x : FnSt) : (s.setFn f x).hw = s.hw := (rfl)
@[simp] theorem State.setFn_out (s : State) (f : Nat) (x : FnSt) : (s.setFn f x).out = s.out := (rfl)
@[simp] theorem State.setFn_pending (s : State) (f : Nat) (x : FnSt) : (s.setFn f x).pending = s.pending := (rfl)

@[simp] theorem State.setEp_now (s : State) (e : Nat) (x : EpSt) : (s.setEp e x).now = s.now := (rfl)
@[simp] theorem State.setEp_fuse (s : State) (e : Nat) (x : EpSt) : (s.setEp e x).fuse = s.fuse := (rfl)
@[simp] theorem State.setEp_regs (s : State) (e : Nat) (x : EpSt) : (s.setEp e x).regs = s.regs := (rfl)
@[simp] theorem State.setEp_mram (s : State) (e : Nat) (x : EpSt) : (s.setEp e x).mram = s.mram := (rfl)
@[simp] theorem State.setEp_mem (s : State) (e : Nat) (x : EpSt) : (s.setEp e x).mem = s.mem := (rfl)
@[simp] theorem State.setEp_freeSeq (s : State) (e : Nat) (x : EpSt) : (s.setEp e x).freeSeq = s.freeSeq := (rfl)
@[simp] theorem State.setEp_modes (s : State) (e : Nat) (x : EpSt) : (s.setEp e x).modes = s.modes := (rfl)
@[simp] theorem State.setEp_prf (s : State) (e : Nat) (x : EpSt) : (s.setEp e x).prf = s.prf := (rfl)
@[simp] theorem State.setEp_island (s : State) (e : Nat) (x : EpSt) : (s.setEp e x).island = s.island := (rfl)
@[simp] theorem State.setEp_ptm (s : State) (e : Nat) (x : EpSt) : (s.setEp e x).ptm = s.ptm := (rfl)
@[simp] theorem State.setEp_pages (s : State) (e : Nat) (x : EpSt) : (s.setEp e x).pages = s.pages := (rfl)
@[simp] theorem State.setEp_rings (s : State) (e : Nat) (x : EpSt) : (s.setEp e x).rings = s.rings := (rfl)
@[simp] theorem State.setEp_slc (s : State) (e : Nat) (x : EpSt) : (s.setEp e x).slc = s.slc := (rfl)
@[simp] theorem State.setEp_dp (s : State) (e : Nat) (x : EpSt) : (s.setEp e x).dp = s.dp := (rfl)
@[simp] theorem State.setEp_frm (s : State) (e : Nat) (x : EpSt) : (s.setEp e x).frm = s.frm := (rfl)
@[simp] theorem State.setEp_tbl (s : State) (e : Nat) (x : EpSt) : (s.setEp e x).tbl = s.tbl := (rfl)
@[simp] theorem State.setEp_tm (s : State) (e : Nat) (x : EpSt) : (s.setEp e x).tm = s.tm := (rfl)
@[simp] theorem State.setEp_fcx (s : State) (e : Nat) (x : EpSt) : (s.setEp e x).fcx = s.fcx := (rfl)
@[simp] theorem State.setEp_cph (s : State) (e : Nat) (x : EpSt) : (s.setEp e x).cph = s.cph := (rfl)
@[simp] theorem State.setEp_drt (s : State) (e : Nat) (x : EpSt) : (s.setEp e x).drt = s.drt := (rfl)
@[simp] theorem State.setEp_nve (s : State) (e : Nat) (x : EpSt) : (s.setEp e x).nve = s.nve := (rfl)
@[simp] theorem State.setEp_boot (s : State) (e : Nat) (x : EpSt) : (s.setEp e x).boot = s.boot := (rfl)
@[simp] theorem State.setEp_upd (s : State) (e : Nat) (x : EpSt) : (s.setEp e x).upd = s.upd := (rfl)
@[simp] theorem State.setEp_odf (s : State) (e : Nat) (x : EpSt) : (s.setEp e x).odf = s.odf := (rfl)
@[simp] theorem State.setEp_hw (s : State) (e : Nat) (x : EpSt) : (s.setEp e x).hw = s.hw := (rfl)
@[simp] theorem State.setEp_out (s : State) (e : Nat) (x : EpSt) : (s.setEp e x).out = s.out := (rfl)
@[simp] theorem State.setEp_pending (s : State) (e : Nat) (x : EpSt) : (s.setEp e x).pending = s.pending := (rfl)

@[simp] theorem State.setRing_now (s : State) (cls : Nat) (num : Nat) (r : Ring) : (s.setRing cls num r).now = s.now := (rfl)
@[simp] theorem State.setRing_fuse (s : State) (cls : Nat) (num : Nat) (r : Ring) : (s.setRing cls num r).fuse = s.fuse := (rfl)
@[simp] theorem State.setRing_regs (s : State) (cls : Nat) (num : Nat) (r : Ring) : (s.setRing cls num r).regs = s.regs := (rfl)
@[simp] theorem State.setRing_mram (s : State) (cls : Nat) (num : Nat) (r : Ring) : (s.setRing cls num r).mram = s.mram := (rfl)
@[simp] theorem State.setRing_mem (s : State) (cls : Nat) (num : Nat) (r : Ring) : (s.setRing cls num r).mem = s.mem := (rfl)
@[simp] theorem State.setRing_freeSeq (s : State) (cls : Nat) (num : Nat) (r : Ring) : (s.setRing cls num r).freeSeq = s.freeSeq := (rfl)
@[simp] theorem State.setRing_modes (s : State) (cls : Nat) (num : Nat) (r : Ring) : (s.setRing cls num r).modes = s.modes := (rfl)
@[simp] theorem State.setRing_prf (s : State) (cls : Nat) (num : Nat) (r : Ring) : (s.setRing cls num r).prf = s.prf := (rfl)
@[simp] theorem State.setRing_hif (s : State) (cls : Nat) (num : Nat) (r : Ring) : (s.setRing cls num r).hif = s.hif := (rfl)
@[simp] theorem State.setRing_island (s : State) (cls : Nat) (num : Nat) (r : Ring) : (s.setRing cls num r).island = s.island := (rfl)
@[simp] theorem State.setRing_ptm (s : State) (cls : Nat) (num : Nat) (r : Ring) : (s.setRing cls num r).ptm = s.ptm := (rfl)
@[simp] theorem State.setRing_pages (s : State) (cls : Nat) (num : Nat) (r : Ring) : (s.setRing cls num r).pages = s.pages := (rfl)
@[simp] theorem State.setRing_slc (s : State) (cls : Nat) (num : Nat) (r : Ring) : (s.setRing cls num r).slc = s.slc := (rfl)
@[simp] theorem State.setRing_dp (s : State) (cls : Nat) (num : Nat) (r : Ring) : (s.setRing cls num r).dp = s.dp := (rfl)
@[simp] theorem State.setRing_frm (s : State) (cls : Nat) (num : Nat) (r : Ring) : (s.setRing cls num r).frm = s.frm := (rfl)
@[simp] theorem State.setRing_tbl (s : State) (cls : Nat) (num : Nat) (r : Ring) : (s.setRing cls num r).tbl = s.tbl := (rfl)
@[simp] theorem State.setRing_tm (s : State) (cls : Nat) (num : Nat) (r : Ring) : (s.setRing cls num r).tm = s.tm := (rfl)
@[simp] theorem State.setRing_fcx (s : State) (cls : Nat) (num : Nat) (r : Ring) : (s.setRing cls num r).fcx = s.fcx := (rfl)
@[simp] theorem State.setRing_cph (s : State) (cls : Nat) (num : Nat) (r : Ring) : (s.setRing cls num r).cph = s.cph := (rfl)
@[simp] theorem State.setRing_drt (s : State) (cls : Nat) (num : Nat) (r : Ring) : (s.setRing cls num r).drt = s.drt := (rfl)
@[simp] theorem State.setRing_nve (s : State) (cls : Nat) (num : Nat) (r : Ring) : (s.setRing cls num r).nve = s.nve := (rfl)
@[simp] theorem State.setRing_boot (s : State) (cls : Nat) (num : Nat) (r : Ring) : (s.setRing cls num r).boot = s.boot := (rfl)
@[simp] theorem State.setRing_upd (s : State) (cls : Nat) (num : Nat) (r : Ring) : (s.setRing cls num r).upd = s.upd := (rfl)
@[simp] theorem State.setRing_odf (s : State) (cls : Nat) (num : Nat) (r : Ring) : (s.setRing cls num r).odf = s.odf := (rfl)
@[simp] theorem State.setRing_hw (s : State) (cls : Nat) (num : Nat) (r : Ring) : (s.setRing cls num r).hw = s.hw := (rfl)
@[simp] theorem State.setRing_out (s : State) (cls : Nat) (num : Nat) (r : Ring) : (s.setRing cls num r).out = s.out := (rfl)
@[simp] theorem State.setRing_pending (s : State) (cls : Nat) (num : Nat) (r : Ring) : (s.setRing cls num r).pending = s.pending := (rfl)

@[simp] theorem State.setSlice_now (s : State) (g : Nat) (x : SliceRec) : (s.setSlice g x).now = s.now := (rfl)
@[simp] theorem State.setSlice_fuse (s : State) (g : Nat) (x : SliceRec) : (s.setSlice g x).fuse = s.fuse := (rfl)
@[simp] theorem State.setSlice_regs (s : State) (g : Nat) (x : SliceRec) : (s.setSlice g x).regs = s.regs := (rfl)
@[simp] theorem State.setSlice_mram (s : State) (g : Nat) (x : SliceRec) : (s.setSlice g x).mram = s.mram := (rfl)
@[simp] theorem State.setSlice_mem (s : State) (g : Nat) (x : SliceRec) : (s.setSlice g x).mem = s.mem := (rfl)
@[simp] theorem State.setSlice_freeSeq (s : State) (g : Nat) (x : SliceRec) : (s.setSlice g x).freeSeq = s.freeSeq := (rfl)
@[simp] theorem State.setSlice_modes (s : State) (g : Nat) (x : SliceRec) : (s.setSlice g x).modes = s.modes := (rfl)
@[simp] theorem State.setSlice_prf (s : State) (g : Nat) (x : SliceRec) : (s.setSlice g x).prf = s.prf := (rfl)
@[simp] theorem State.setSlice_hif (s : State) (g : Nat) (x : SliceRec) : (s.setSlice g x).hif = s.hif := (rfl)
@[simp] theorem State.setSlice_island (s : State) (g : Nat) (x : SliceRec) : (s.setSlice g x).island = s.island := (rfl)
@[simp] theorem State.setSlice_ptm (s : State) (g : Nat) (x : SliceRec) : (s.setSlice g x).ptm = s.ptm := (rfl)
@[simp] theorem State.setSlice_pages (s : State) (g : Nat) (x : SliceRec) : (s.setSlice g x).pages = s.pages := (rfl)
@[simp] theorem State.setSlice_rings (s : State) (g : Nat) (x : SliceRec) : (s.setSlice g x).rings = s.rings := (rfl)
@[simp] theorem State.setSlice_dp (s : State) (g : Nat) (x : SliceRec) : (s.setSlice g x).dp = s.dp := (rfl)
@[simp] theorem State.setSlice_frm (s : State) (g : Nat) (x : SliceRec) : (s.setSlice g x).frm = s.frm := (rfl)
@[simp] theorem State.setSlice_tbl (s : State) (g : Nat) (x : SliceRec) : (s.setSlice g x).tbl = s.tbl := (rfl)
@[simp] theorem State.setSlice_tm (s : State) (g : Nat) (x : SliceRec) : (s.setSlice g x).tm = s.tm := (rfl)
@[simp] theorem State.setSlice_fcx (s : State) (g : Nat) (x : SliceRec) : (s.setSlice g x).fcx = s.fcx := (rfl)
@[simp] theorem State.setSlice_cph (s : State) (g : Nat) (x : SliceRec) : (s.setSlice g x).cph = s.cph := (rfl)
@[simp] theorem State.setSlice_drt (s : State) (g : Nat) (x : SliceRec) : (s.setSlice g x).drt = s.drt := (rfl)
@[simp] theorem State.setSlice_nve (s : State) (g : Nat) (x : SliceRec) : (s.setSlice g x).nve = s.nve := (rfl)
@[simp] theorem State.setSlice_boot (s : State) (g : Nat) (x : SliceRec) : (s.setSlice g x).boot = s.boot := (rfl)
@[simp] theorem State.setSlice_upd (s : State) (g : Nat) (x : SliceRec) : (s.setSlice g x).upd = s.upd := (rfl)
@[simp] theorem State.setSlice_odf (s : State) (g : Nat) (x : SliceRec) : (s.setSlice g x).odf = s.odf := (rfl)
@[simp] theorem State.setSlice_hw (s : State) (g : Nat) (x : SliceRec) : (s.setSlice g x).hw = s.hw := (rfl)
@[simp] theorem State.setSlice_out (s : State) (g : Nat) (x : SliceRec) : (s.setSlice g x).out = s.out := (rfl)
@[simp] theorem State.setSlice_pending (s : State) (g : Nat) (x : SliceRec) : (s.setSlice g x).pending = s.pending := (rfl)

@[simp] theorem State.setCtrl_now (s : State) (c : Nat) (x : NvmeCtrl) : (s.setCtrl c x).now = s.now := (rfl)
@[simp] theorem State.setCtrl_fuse (s : State) (c : Nat) (x : NvmeCtrl) : (s.setCtrl c x).fuse = s.fuse := (rfl)
@[simp] theorem State.setCtrl_regs (s : State) (c : Nat) (x : NvmeCtrl) : (s.setCtrl c x).regs = s.regs := (rfl)
@[simp] theorem State.setCtrl_mram (s : State) (c : Nat) (x : NvmeCtrl) : (s.setCtrl c x).mram = s.mram := (rfl)
@[simp] theorem State.setCtrl_mem (s : State) (c : Nat) (x : NvmeCtrl) : (s.setCtrl c x).mem = s.mem := (rfl)
@[simp] theorem State.setCtrl_freeSeq (s : State) (c : Nat) (x : NvmeCtrl) : (s.setCtrl c x).freeSeq = s.freeSeq := (rfl)
@[simp] theorem State.setCtrl_modes (s : State) (c : Nat) (x : NvmeCtrl) : (s.setCtrl c x).modes = s.modes := (rfl)
@[simp] theorem State.setCtrl_prf (s : State) (c : Nat) (x : NvmeCtrl) : (s.setCtrl c x).prf = s.prf := (rfl)
@[simp] theorem State.setCtrl_hif (s : State) (c : Nat) (x : NvmeCtrl) : (s.setCtrl c x).hif = s.hif := (rfl)
@[simp] theorem State.setCtrl_island (s : State) (c : Nat) (x : NvmeCtrl) : (s.setCtrl c x).island = s.island := (rfl)
@[simp] theorem State.setCtrl_ptm (s : State) (c : Nat) (x : NvmeCtrl) : (s.setCtrl c x).ptm = s.ptm := (rfl)
@[simp] theorem State.setCtrl_pages (s : State) (c : Nat) (x : NvmeCtrl) : (s.setCtrl c x).pages = s.pages := (rfl)
@[simp] theorem State.setCtrl_rings (s : State) (c : Nat) (x : NvmeCtrl) : (s.setCtrl c x).rings = s.rings := (rfl)
@[simp] theorem State.setCtrl_slc (s : State) (c : Nat) (x : NvmeCtrl) : (s.setCtrl c x).slc = s.slc := (rfl)
@[simp] theorem State.setCtrl_dp (s : State) (c : Nat) (x : NvmeCtrl) : (s.setCtrl c x).dp = s.dp := (rfl)
@[simp] theorem State.setCtrl_frm (s : State) (c : Nat) (x : NvmeCtrl) : (s.setCtrl c x).frm = s.frm := (rfl)
@[simp] theorem State.setCtrl_tbl (s : State) (c : Nat) (x : NvmeCtrl) : (s.setCtrl c x).tbl = s.tbl := (rfl)
@[simp] theorem State.setCtrl_tm (s : State) (c : Nat) (x : NvmeCtrl) : (s.setCtrl c x).tm = s.tm := (rfl)
@[simp] theorem State.setCtrl_fcx (s : State) (c : Nat) (x : NvmeCtrl) : (s.setCtrl c x).fcx = s.fcx := (rfl)
@[simp] theorem State.setCtrl_cph (s : State) (c : Nat) (x : NvmeCtrl) : (s.setCtrl c x).cph = s.cph := (rfl)
@[simp] theorem State.setCtrl_drt (s : State) (c : Nat) (x : NvmeCtrl) : (s.setCtrl c x).drt = s.drt := (rfl)
@[simp] theorem State.setCtrl_boot (s : State) (c : Nat) (x : NvmeCtrl) : (s.setCtrl c x).boot = s.boot := (rfl)
@[simp] theorem State.setCtrl_upd (s : State) (c : Nat) (x : NvmeCtrl) : (s.setCtrl c x).upd = s.upd := (rfl)
@[simp] theorem State.setCtrl_odf (s : State) (c : Nat) (x : NvmeCtrl) : (s.setCtrl c x).odf = s.odf := (rfl)
@[simp] theorem State.setCtrl_hw (s : State) (c : Nat) (x : NvmeCtrl) : (s.setCtrl c x).hw = s.hw := (rfl)
@[simp] theorem State.setCtrl_out (s : State) (c : Nat) (x : NvmeCtrl) : (s.setCtrl c x).out = s.out := (rfl)
@[simp] theorem State.setCtrl_pending (s : State) (c : Nat) (x : NvmeCtrl) : (s.setCtrl c x).pending = s.pending := (rfl)

@[simp] theorem State.setBuf_now (s : State) (i : Nat) (b : NveBuf) : (s.setBuf i b).now = s.now := (rfl)
@[simp] theorem State.setBuf_fuse (s : State) (i : Nat) (b : NveBuf) : (s.setBuf i b).fuse = s.fuse := (rfl)
@[simp] theorem State.setBuf_regs (s : State) (i : Nat) (b : NveBuf) : (s.setBuf i b).regs = s.regs := (rfl)
@[simp] theorem State.setBuf_mram (s : State) (i : Nat) (b : NveBuf) : (s.setBuf i b).mram = s.mram := (rfl)
@[simp] theorem State.setBuf_mem (s : State) (i : Nat) (b : NveBuf) : (s.setBuf i b).mem = s.mem := (rfl)
@[simp] theorem State.setBuf_freeSeq (s : State) (i : Nat) (b : NveBuf) : (s.setBuf i b).freeSeq = s.freeSeq := (rfl)
@[simp] theorem State.setBuf_modes (s : State) (i : Nat) (b : NveBuf) : (s.setBuf i b).modes = s.modes := (rfl)
@[simp] theorem State.setBuf_prf (s : State) (i : Nat) (b : NveBuf) : (s.setBuf i b).prf = s.prf := (rfl)
@[simp] theorem State.setBuf_hif (s : State) (i : Nat) (b : NveBuf) : (s.setBuf i b).hif = s.hif := (rfl)
@[simp] theorem State.setBuf_island (s : State) (i : Nat) (b : NveBuf) : (s.setBuf i b).island = s.island := (rfl)
@[simp] theorem State.setBuf_ptm (s : State) (i : Nat) (b : NveBuf) : (s.setBuf i b).ptm = s.ptm := (rfl)
@[simp] theorem State.setBuf_pages (s : State) (i : Nat) (b : NveBuf) : (s.setBuf i b).pages = s.pages := (rfl)
@[simp] theorem State.setBuf_rings (s : State) (i : Nat) (b : NveBuf) : (s.setBuf i b).rings = s.rings := (rfl)
@[simp] theorem State.setBuf_slc (s : State) (i : Nat) (b : NveBuf) : (s.setBuf i b).slc = s.slc := (rfl)
@[simp] theorem State.setBuf_dp (s : State) (i : Nat) (b : NveBuf) : (s.setBuf i b).dp = s.dp := (rfl)
@[simp] theorem State.setBuf_frm (s : State) (i : Nat) (b : NveBuf) : (s.setBuf i b).frm = s.frm := (rfl)
@[simp] theorem State.setBuf_tbl (s : State) (i : Nat) (b : NveBuf) : (s.setBuf i b).tbl = s.tbl := (rfl)
@[simp] theorem State.setBuf_tm (s : State) (i : Nat) (b : NveBuf) : (s.setBuf i b).tm = s.tm := (rfl)
@[simp] theorem State.setBuf_fcx (s : State) (i : Nat) (b : NveBuf) : (s.setBuf i b).fcx = s.fcx := (rfl)
@[simp] theorem State.setBuf_cph (s : State) (i : Nat) (b : NveBuf) : (s.setBuf i b).cph = s.cph := (rfl)
@[simp] theorem State.setBuf_drt (s : State) (i : Nat) (b : NveBuf) : (s.setBuf i b).drt = s.drt := (rfl)
@[simp] theorem State.setBuf_boot (s : State) (i : Nat) (b : NveBuf) : (s.setBuf i b).boot = s.boot := (rfl)
@[simp] theorem State.setBuf_upd (s : State) (i : Nat) (b : NveBuf) : (s.setBuf i b).upd = s.upd := (rfl)
@[simp] theorem State.setBuf_odf (s : State) (i : Nat) (b : NveBuf) : (s.setBuf i b).odf = s.odf := (rfl)
@[simp] theorem State.setBuf_hw (s : State) (i : Nat) (b : NveBuf) : (s.setBuf i b).hw = s.hw := (rfl)
@[simp] theorem State.setBuf_out (s : State) (i : Nat) (b : NveBuf) : (s.setBuf i b).out = s.out := (rfl)
@[simp] theorem State.setBuf_pending (s : State) (i : Nat) (b : NveBuf) : (s.setBuf i b).pending = s.pending := (rfl)

@[simp] theorem State.setPkt_now (s : State) (id : Nat) (p : Pkt) : (s.setPkt id p).now = s.now := (rfl)
@[simp] theorem State.setPkt_fuse (s : State) (id : Nat) (p : Pkt) : (s.setPkt id p).fuse = s.fuse := (rfl)
@[simp] theorem State.setPkt_regs (s : State) (id : Nat) (p : Pkt) : (s.setPkt id p).regs = s.regs := (rfl)
@[simp] theorem State.setPkt_mram (s : State) (id : Nat) (p : Pkt) : (s.setPkt id p).mram = s.mram := (rfl)
@[simp] theorem State.setPkt_mem (s : State) (id : Nat) (p : Pkt) : (s.setPkt id p).mem = s.mem := (rfl)
@[simp] theorem State.setPkt_freeSeq (s : State) (id : Nat) (p : Pkt) : (s.setPkt id p).freeSeq = s.freeSeq := (rfl)
@[simp] theorem State.setPkt_modes (s : State) (id : Nat) (p : Pkt) : (s.setPkt id p).modes = s.modes := (rfl)
@[simp] theorem State.setPkt_prf (s : State) (id : Nat) (p : Pkt) : (s.setPkt id p).prf = s.prf := (rfl)
@[simp] theorem State.setPkt_hif (s : State) (id : Nat) (p : Pkt) : (s.setPkt id p).hif = s.hif := (rfl)
@[simp] theorem State.setPkt_island (s : State) (id : Nat) (p : Pkt) : (s.setPkt id p).island = s.island := (rfl)
@[simp] theorem State.setPkt_ptm (s : State) (id : Nat) (p : Pkt) : (s.setPkt id p).ptm = s.ptm := (rfl)
@[simp] theorem State.setPkt_pages (s : State) (id : Nat) (p : Pkt) : (s.setPkt id p).pages = s.pages := (rfl)
@[simp] theorem State.setPkt_rings (s : State) (id : Nat) (p : Pkt) : (s.setPkt id p).rings = s.rings := (rfl)
@[simp] theorem State.setPkt_slc (s : State) (id : Nat) (p : Pkt) : (s.setPkt id p).slc = s.slc := (rfl)
@[simp] theorem State.setPkt_frm (s : State) (id : Nat) (p : Pkt) : (s.setPkt id p).frm = s.frm := (rfl)
@[simp] theorem State.setPkt_tbl (s : State) (id : Nat) (p : Pkt) : (s.setPkt id p).tbl = s.tbl := (rfl)
@[simp] theorem State.setPkt_tm (s : State) (id : Nat) (p : Pkt) : (s.setPkt id p).tm = s.tm := (rfl)
@[simp] theorem State.setPkt_fcx (s : State) (id : Nat) (p : Pkt) : (s.setPkt id p).fcx = s.fcx := (rfl)
@[simp] theorem State.setPkt_cph (s : State) (id : Nat) (p : Pkt) : (s.setPkt id p).cph = s.cph := (rfl)
@[simp] theorem State.setPkt_drt (s : State) (id : Nat) (p : Pkt) : (s.setPkt id p).drt = s.drt := (rfl)
@[simp] theorem State.setPkt_nve (s : State) (id : Nat) (p : Pkt) : (s.setPkt id p).nve = s.nve := (rfl)
@[simp] theorem State.setPkt_boot (s : State) (id : Nat) (p : Pkt) : (s.setPkt id p).boot = s.boot := (rfl)
@[simp] theorem State.setPkt_upd (s : State) (id : Nat) (p : Pkt) : (s.setPkt id p).upd = s.upd := (rfl)
@[simp] theorem State.setPkt_odf (s : State) (id : Nat) (p : Pkt) : (s.setPkt id p).odf = s.odf := (rfl)
@[simp] theorem State.setPkt_hw (s : State) (id : Nat) (p : Pkt) : (s.setPkt id p).hw = s.hw := (rfl)
@[simp] theorem State.setPkt_out (s : State) (id : Nat) (p : Pkt) : (s.setPkt id p).out = s.out := (rfl)
@[simp] theorem State.setPkt_pending (s : State) (id : Nat) (p : Pkt) : (s.setPkt id p).pending = s.pending := (rfl)

@[simp] theorem State.setLst_now (s : State) (k : PktPlace) (i : Nat) (l : List Nat) : (s.setLst k i l).now = s.now := (rfl)
@[simp] theorem State.setLst_fuse (s : State) (k : PktPlace) (i : Nat) (l : List Nat) : (s.setLst k i l).fuse = s.fuse := (rfl)
@[simp] theorem State.setLst_regs (s : State) (k : PktPlace) (i : Nat) (l : List Nat) : (s.setLst k i l).regs = s.regs := (rfl)
@[simp] theorem State.setLst_mram (s : State) (k : PktPlace) (i : Nat) (l : List Nat) : (s.setLst k i l).mram = s.mram := (rfl)
@[simp] theorem State.setLst_mem (s : State) (k : PktPlace) (i : Nat) (l : List Nat) : (s.setLst k i l).mem = s.mem := (rfl)
@[simp] theorem State.setLst_freeSeq (s : State) (k : PktPlace) (i : Nat) (l : List Nat) : (s.setLst k i l).freeSeq = s.freeSeq := (rfl)
@[simp] theorem State.setLst_modes (s : State) (k : PktPlace) (i : Nat) (l : List Nat) : (s.setLst k i l).modes = s.modes := (rfl)
@[simp] theorem State.setLst_prf (s : State) (k : PktPlace) (i : Nat) (l : List Nat) : (s.setLst k i l).prf = s.prf := (rfl)
@[simp] theorem State.setLst_hif (s : State) (k : PktPlace) (i : Nat) (l : List Nat) : (s.setLst k i l).hif = s.hif := (rfl)
@[simp] theorem State.setLst_island (s : State) (k : PktPlace) (i : Nat) (l : List Nat) : (s.setLst k i l).island = s.island := (rfl)
@[simp] theorem State.setLst_ptm (s : State) (k : PktPlace) (i : Nat) (l : List Nat) : (s.setLst k i l).ptm = s.ptm := (rfl)
@[simp] theorem State.setLst_pages (s : State) (k : PktPlace) (i : Nat) (l : List Nat) : (s.setLst k i l).pages = s.pages := (rfl)
@[simp] theorem State.setLst_rings (s : State) (k : PktPlace) (i : Nat) (l : List Nat) : (s.setLst k i l).rings = s.rings := (rfl)
@[simp] theorem State.setLst_slc (s : State) (k : PktPlace) (i : Nat) (l : List Nat) : (s.setLst k i l).slc = s.slc := (rfl)
@[simp] theorem State.setLst_frm (s : State) (k : PktPlace) (i : Nat) (l : List Nat) : (s.setLst k i l).frm = s.frm := (rfl)
@[simp] theorem State.setLst_tbl (s : State) (k : PktPlace) (i : Nat) (l : List Nat) : (s.setLst k i l).tbl = s.tbl := (rfl)
@[simp] theorem State.setLst_tm (s : State) (k : PktPlace) (i : Nat) (l : List Nat) : (s.setLst k i l).tm = s.tm := (rfl)
@[simp] theorem State.setLst_fcx (s : State) (k : PktPlace) (i : Nat) (l : List Nat) : (s.setLst k i l).fcx = s.fcx := (rfl)
@[simp] theorem State.setLst_cph (s : State) (k : PktPlace) (i : Nat) (l : List Nat) : (s.setLst k i l).cph = s.cph := (rfl)
@[simp] theorem State.setLst_drt (s : State) (k : PktPlace) (i : Nat) (l : List Nat) : (s.setLst k i l).drt = s.drt := (rfl)
@[simp] theorem State.setLst_nve (s : State) (k : PktPlace) (i : Nat) (l : List Nat) : (s.setLst k i l).nve = s.nve := (rfl)
@[simp] theorem State.setLst_boot (s : State) (k : PktPlace) (i : Nat) (l : List Nat) : (s.setLst k i l).boot = s.boot := (rfl)
@[simp] theorem State.setLst_upd (s : State) (k : PktPlace) (i : Nat) (l : List Nat) : (s.setLst k i l).upd = s.upd := (rfl)
@[simp] theorem State.setLst_odf (s : State) (k : PktPlace) (i : Nat) (l : List Nat) : (s.setLst k i l).odf = s.odf := (rfl)
@[simp] theorem State.setLst_hw (s : State) (k : PktPlace) (i : Nat) (l : List Nat) : (s.setLst k i l).hw = s.hw := (rfl)
@[simp] theorem State.setLst_out (s : State) (k : PktPlace) (i : Nat) (l : List Nat) : (s.setLst k i l).out = s.out := (rfl)
@[simp] theorem State.setLst_pending (s : State) (k : PktPlace) (i : Nat) (l : List Nat) : (s.setLst k i l).pending = s.pending := (rfl)

@[simp] theorem State.setPort_now (s : State) (p : Nat) (x : PortSt) : (s.setPort p x).now = s.now := (rfl)
@[simp] theorem State.setPort_fuse (s : State) (p : Nat) (x : PortSt) : (s.setPort p x).fuse = s.fuse := (rfl)
@[simp] theorem State.setPort_regs (s : State) (p : Nat) (x : PortSt) : (s.setPort p x).regs = s.regs := (rfl)
@[simp] theorem State.setPort_mram (s : State) (p : Nat) (x : PortSt) : (s.setPort p x).mram = s.mram := (rfl)
@[simp] theorem State.setPort_mem (s : State) (p : Nat) (x : PortSt) : (s.setPort p x).mem = s.mem := (rfl)
@[simp] theorem State.setPort_freeSeq (s : State) (p : Nat) (x : PortSt) : (s.setPort p x).freeSeq = s.freeSeq := (rfl)
@[simp] theorem State.setPort_modes (s : State) (p : Nat) (x : PortSt) : (s.setPort p x).modes = s.modes := (rfl)
@[simp] theorem State.setPort_prf (s : State) (p : Nat) (x : PortSt) : (s.setPort p x).prf = s.prf := (rfl)
@[simp] theorem State.setPort_hif (s : State) (p : Nat) (x : PortSt) : (s.setPort p x).hif = s.hif := (rfl)
@[simp] theorem State.setPort_island (s : State) (p : Nat) (x : PortSt) : (s.setPort p x).island = s.island := (rfl)
@[simp] theorem State.setPort_ptm (s : State) (p : Nat) (x : PortSt) : (s.setPort p x).ptm = s.ptm := (rfl)
@[simp] theorem State.setPort_pages (s : State) (p : Nat) (x : PortSt) : (s.setPort p x).pages = s.pages := (rfl)
@[simp] theorem State.setPort_rings (s : State) (p : Nat) (x : PortSt) : (s.setPort p x).rings = s.rings := (rfl)
@[simp] theorem State.setPort_slc (s : State) (p : Nat) (x : PortSt) : (s.setPort p x).slc = s.slc := (rfl)
@[simp] theorem State.setPort_frm (s : State) (p : Nat) (x : PortSt) : (s.setPort p x).frm = s.frm := (rfl)
@[simp] theorem State.setPort_tbl (s : State) (p : Nat) (x : PortSt) : (s.setPort p x).tbl = s.tbl := (rfl)
@[simp] theorem State.setPort_tm (s : State) (p : Nat) (x : PortSt) : (s.setPort p x).tm = s.tm := (rfl)
@[simp] theorem State.setPort_fcx (s : State) (p : Nat) (x : PortSt) : (s.setPort p x).fcx = s.fcx := (rfl)
@[simp] theorem State.setPort_cph (s : State) (p : Nat) (x : PortSt) : (s.setPort p x).cph = s.cph := (rfl)
@[simp] theorem State.setPort_drt (s : State) (p : Nat) (x : PortSt) : (s.setPort p x).drt = s.drt := (rfl)
@[simp] theorem State.setPort_nve (s : State) (p : Nat) (x : PortSt) : (s.setPort p x).nve = s.nve := (rfl)
@[simp] theorem State.setPort_boot (s : State) (p : Nat) (x : PortSt) : (s.setPort p x).boot = s.boot := (rfl)
@[simp] theorem State.setPort_upd (s : State) (p : Nat) (x : PortSt) : (s.setPort p x).upd = s.upd := (rfl)
@[simp] theorem State.setPort_odf (s : State) (p : Nat) (x : PortSt) : (s.setPort p x).odf = s.odf := (rfl)
@[simp] theorem State.setPort_hw (s : State) (p : Nat) (x : PortSt) : (s.setPort p x).hw = s.hw := (rfl)
@[simp] theorem State.setPort_out (s : State) (p : Nat) (x : PortSt) : (s.setPort p x).out = s.out := (rfl)
@[simp] theorem State.setPort_pending (s : State) (p : Nat) (x : PortSt) : (s.setPort p x).pending = s.pending := (rfl)

@[simp] theorem State.setCore_now (s : State) (c : Nat) (x : FCore) : (s.setCore c x).now = s.now := (rfl)
@[simp] theorem State.setCore_fuse (s : State) (c : Nat) (x : FCore) : (s.setCore c x).fuse = s.fuse := (rfl)
@[simp] theorem State.setCore_regs (s : State) (c : Nat) (x : FCore) : (s.setCore c x).regs = s.regs := (rfl)
@[simp] theorem State.setCore_mram (s : State) (c : Nat) (x : FCore) : (s.setCore c x).mram = s.mram := (rfl)
@[simp] theorem State.setCore_mem (s : State) (c : Nat) (x : FCore) : (s.setCore c x).mem = s.mem := (rfl)
@[simp] theorem State.setCore_freeSeq (s : State) (c : Nat) (x : FCore) : (s.setCore c x).freeSeq = s.freeSeq := (rfl)
@[simp] theorem State.setCore_modes (s : State) (c : Nat) (x : FCore) : (s.setCore c x).modes = s.modes := (rfl)
@[simp] theorem State.setCore_prf (s : State) (c : Nat) (x : FCore) : (s.setCore c x).prf = s.prf := (rfl)
@[simp] theorem State.setCore_hif (s : State) (c : Nat) (x : FCore) : (s.setCore c x).hif = s.hif := (rfl)
@[simp] theorem State.setCore_island (s : State) (c : Nat) (x : FCore) : (s.setCore c x).island = s.island := (rfl)
@[simp] theorem State.setCore_ptm (s : State) (c : Nat) (x : FCore) : (s.setCore c x).ptm = s.ptm := (rfl)
@[simp] theorem State.setCore_pages (s : State) (c : Nat) (x : FCore) : (s.setCore c x).pages = s.pages := (rfl)
@[simp] theorem State.setCore_rings (s : State) (c : Nat) (x : FCore) : (s.setCore c x).rings = s.rings := (rfl)
@[simp] theorem State.setCore_slc (s : State) (c : Nat) (x : FCore) : (s.setCore c x).slc = s.slc := (rfl)
@[simp] theorem State.setCore_dp (s : State) (c : Nat) (x : FCore) : (s.setCore c x).dp = s.dp := (rfl)
@[simp] theorem State.setCore_frm (s : State) (c : Nat) (x : FCore) : (s.setCore c x).frm = s.frm := (rfl)
@[simp] theorem State.setCore_tbl (s : State) (c : Nat) (x : FCore) : (s.setCore c x).tbl = s.tbl := (rfl)
@[simp] theorem State.setCore_tm (s : State) (c : Nat) (x : FCore) : (s.setCore c x).tm = s.tm := (rfl)
@[simp] theorem State.setCore_cph (s : State) (c : Nat) (x : FCore) : (s.setCore c x).cph = s.cph := (rfl)
@[simp] theorem State.setCore_drt (s : State) (c : Nat) (x : FCore) : (s.setCore c x).drt = s.drt := (rfl)
@[simp] theorem State.setCore_nve (s : State) (c : Nat) (x : FCore) : (s.setCore c x).nve = s.nve := (rfl)
@[simp] theorem State.setCore_boot (s : State) (c : Nat) (x : FCore) : (s.setCore c x).boot = s.boot := (rfl)
@[simp] theorem State.setCore_upd (s : State) (c : Nat) (x : FCore) : (s.setCore c x).upd = s.upd := (rfl)
@[simp] theorem State.setCore_odf (s : State) (c : Nat) (x : FCore) : (s.setCore c x).odf = s.odf := (rfl)
@[simp] theorem State.setCore_hw (s : State) (c : Nat) (x : FCore) : (s.setCore c x).hw = s.hw := (rfl)
@[simp] theorem State.setCore_out (s : State) (c : Nat) (x : FCore) : (s.setCore c x).out = s.out := (rfl)
@[simp] theorem State.setCore_pending (s : State) (c : Nat) (x : FCore) : (s.setCore c x).pending = s.pending := (rfl)

@[simp] theorem State.setKeySlot_now (s : State) (n : Nat) (k : KeySlot) : (s.setKeySlot n k).now = s.now := (rfl)
@[simp] theorem State.setKeySlot_fuse (s : State) (n : Nat) (k : KeySlot) : (s.setKeySlot n k).fuse = s.fuse := (rfl)
@[simp] theorem State.setKeySlot_regs (s : State) (n : Nat) (k : KeySlot) : (s.setKeySlot n k).regs = s.regs := (rfl)
@[simp] theorem State.setKeySlot_mram (s : State) (n : Nat) (k : KeySlot) : (s.setKeySlot n k).mram = s.mram := (rfl)
@[simp] theorem State.setKeySlot_mem (s : State) (n : Nat) (k : KeySlot) : (s.setKeySlot n k).mem = s.mem := (rfl)
@[simp] theorem State.setKeySlot_freeSeq (s : State) (n : Nat) (k : KeySlot) : (s.setKeySlot n k).freeSeq = s.freeSeq := (rfl)
@[simp] theorem State.setKeySlot_modes (s : State) (n : Nat) (k : KeySlot) : (s.setKeySlot n k).modes = s.modes := (rfl)
@[simp] theorem State.setKeySlot_prf (s : State) (n : Nat) (k : KeySlot) : (s.setKeySlot n k).prf = s.prf := (rfl)
@[simp] theorem State.setKeySlot_hif (s : State) (n : Nat) (k : KeySlot) : (s.setKeySlot n k).hif = s.hif := (rfl)
@[simp] theorem State.setKeySlot_island (s : State) (n : Nat) (k : KeySlot) : (s.setKeySlot n k).island = s.island := (rfl)
@[simp] theorem State.setKeySlot_ptm (s : State) (n : Nat) (k : KeySlot) : (s.setKeySlot n k).ptm = s.ptm := (rfl)
@[simp] theorem State.setKeySlot_pages (s : State) (n : Nat) (k : KeySlot) : (s.setKeySlot n k).pages = s.pages := (rfl)
@[simp] theorem State.setKeySlot_rings (s : State) (n : Nat) (k : KeySlot) : (s.setKeySlot n k).rings = s.rings := (rfl)
@[simp] theorem State.setKeySlot_slc (s : State) (n : Nat) (k : KeySlot) : (s.setKeySlot n k).slc = s.slc := (rfl)
@[simp] theorem State.setKeySlot_dp (s : State) (n : Nat) (k : KeySlot) : (s.setKeySlot n k).dp = s.dp := (rfl)
@[simp] theorem State.setKeySlot_frm (s : State) (n : Nat) (k : KeySlot) : (s.setKeySlot n k).frm = s.frm := (rfl)
@[simp] theorem State.setKeySlot_tbl (s : State) (n : Nat) (k : KeySlot) : (s.setKeySlot n k).tbl = s.tbl := (rfl)
@[simp] theorem State.setKeySlot_tm (s : State) (n : Nat) (k : KeySlot) : (s.setKeySlot n k).tm = s.tm := (rfl)
@[simp] theorem State.setKeySlot_fcx (s : State) (n : Nat) (k : KeySlot) : (s.setKeySlot n k).fcx = s.fcx := (rfl)
@[simp] theorem State.setKeySlot_drt (s : State) (n : Nat) (k : KeySlot) : (s.setKeySlot n k).drt = s.drt := (rfl)
@[simp] theorem State.setKeySlot_nve (s : State) (n : Nat) (k : KeySlot) : (s.setKeySlot n k).nve = s.nve := (rfl)
@[simp] theorem State.setKeySlot_boot (s : State) (n : Nat) (k : KeySlot) : (s.setKeySlot n k).boot = s.boot := (rfl)
@[simp] theorem State.setKeySlot_upd (s : State) (n : Nat) (k : KeySlot) : (s.setKeySlot n k).upd = s.upd := (rfl)
@[simp] theorem State.setKeySlot_odf (s : State) (n : Nat) (k : KeySlot) : (s.setKeySlot n k).odf = s.odf := (rfl)
@[simp] theorem State.setKeySlot_hw (s : State) (n : Nat) (k : KeySlot) : (s.setKeySlot n k).hw = s.hw := (rfl)
@[simp] theorem State.setKeySlot_out (s : State) (n : Nat) (k : KeySlot) : (s.setKeySlot n k).out = s.out := (rfl)
@[simp] theorem State.setKeySlot_pending (s : State) (n : Nat) (k : KeySlot) : (s.setKeySlot n k).pending = s.pending := (rfl)

@[simp] theorem State.setHw_now (s : State) (h1 : HwSt) : (s.setHw h1).now = s.now := (rfl)
@[simp] theorem State.setHw_fuse (s : State) (h1 : HwSt) : (s.setHw h1).fuse = s.fuse := (rfl)
@[simp] theorem State.setHw_regs (s : State) (h1 : HwSt) : (s.setHw h1).regs = s.regs := (rfl)
@[simp] theorem State.setHw_mram (s : State) (h1 : HwSt) : (s.setHw h1).mram = s.mram := (rfl)
@[simp] theorem State.setHw_mem (s : State) (h1 : HwSt) : (s.setHw h1).mem = s.mem := (rfl)
@[simp] theorem State.setHw_freeSeq (s : State) (h1 : HwSt) : (s.setHw h1).freeSeq = s.freeSeq := (rfl)
@[simp] theorem State.setHw_modes (s : State) (h1 : HwSt) : (s.setHw h1).modes = s.modes := (rfl)
@[simp] theorem State.setHw_prf (s : State) (h1 : HwSt) : (s.setHw h1).prf = s.prf := (rfl)
@[simp] theorem State.setHw_hif (s : State) (h1 : HwSt) : (s.setHw h1).hif = s.hif := (rfl)
@[simp] theorem State.setHw_island (s : State) (h1 : HwSt) : (s.setHw h1).island = s.island := (rfl)
@[simp] theorem State.setHw_ptm (s : State) (h1 : HwSt) : (s.setHw h1).ptm = s.ptm := (rfl)
@[simp] theorem State.setHw_pages (s : State) (h1 : HwSt) : (s.setHw h1).pages = s.pages := (rfl)
@[simp] theorem State.setHw_rings (s : State) (h1 : HwSt) : (s.setHw h1).rings = s.rings := (rfl)
@[simp] theorem State.setHw_slc (s : State) (h1 : HwSt) : (s.setHw h1).slc = s.slc := (rfl)
@[simp] theorem State.setHw_dp (s : State) (h1 : HwSt) : (s.setHw h1).dp = s.dp := (rfl)
@[simp] theorem State.setHw_frm (s : State) (h1 : HwSt) : (s.setHw h1).frm = s.frm := (rfl)
@[simp] theorem State.setHw_tbl (s : State) (h1 : HwSt) : (s.setHw h1).tbl = s.tbl := (rfl)
@[simp] theorem State.setHw_tm (s : State) (h1 : HwSt) : (s.setHw h1).tm = s.tm := (rfl)
@[simp] theorem State.setHw_fcx (s : State) (h1 : HwSt) : (s.setHw h1).fcx = s.fcx := (rfl)
@[simp] theorem State.setHw_cph (s : State) (h1 : HwSt) : (s.setHw h1).cph = s.cph := (rfl)
@[simp] theorem State.setHw_drt (s : State) (h1 : HwSt) : (s.setHw h1).drt = s.drt := (rfl)
@[simp] theorem State.setHw_nve (s : State) (h1 : HwSt) : (s.setHw h1).nve = s.nve := (rfl)
@[simp] theorem State.setHw_boot (s : State) (h1 : HwSt) : (s.setHw h1).boot = s.boot := (rfl)
@[simp] theorem State.setHw_upd (s : State) (h1 : HwSt) : (s.setHw h1).upd = s.upd := (rfl)
@[simp] theorem State.setHw_odf (s : State) (h1 : HwSt) : (s.setHw h1).odf = s.odf := (rfl)
@[simp] theorem State.setHw_out (s : State) (h1 : HwSt) : (s.setHw h1).out = s.out := (rfl)
@[simp] theorem State.setHw_pending (s : State) (h1 : HwSt) : (s.setHw h1).pending = s.pending := (rfl)

@[simp] theorem State.setBoot_now (s : State) (b : BootSt) : (s.setBoot b).now = s.now := (rfl)
@[simp] theorem State.setBoot_fuse (s : State) (b : BootSt) : (s.setBoot b).fuse = s.fuse := (rfl)
@[simp] theorem State.setBoot_regs (s : State) (b : BootSt) : (s.setBoot b).regs = s.regs := (rfl)
@[simp] theorem State.setBoot_mram (s : State) (b : BootSt) : (s.setBoot b).mram = s.mram := (rfl)
@[simp] theorem State.setBoot_mem (s : State) (b : BootSt) : (s.setBoot b).mem = s.mem := (rfl)
@[simp] theorem State.setBoot_freeSeq (s : State) (b : BootSt) : (s.setBoot b).freeSeq = s.freeSeq := (rfl)
@[simp] theorem State.setBoot_modes (s : State) (b : BootSt) : (s.setBoot b).modes = s.modes := (rfl)
@[simp] theorem State.setBoot_prf (s : State) (b : BootSt) : (s.setBoot b).prf = s.prf := (rfl)
@[simp] theorem State.setBoot_hif (s : State) (b : BootSt) : (s.setBoot b).hif = s.hif := (rfl)
@[simp] theorem State.setBoot_island (s : State) (b : BootSt) : (s.setBoot b).island = s.island := (rfl)
@[simp] theorem State.setBoot_ptm (s : State) (b : BootSt) : (s.setBoot b).ptm = s.ptm := (rfl)
@[simp] theorem State.setBoot_pages (s : State) (b : BootSt) : (s.setBoot b).pages = s.pages := (rfl)
@[simp] theorem State.setBoot_rings (s : State) (b : BootSt) : (s.setBoot b).rings = s.rings := (rfl)
@[simp] theorem State.setBoot_slc (s : State) (b : BootSt) : (s.setBoot b).slc = s.slc := (rfl)
@[simp] theorem State.setBoot_dp (s : State) (b : BootSt) : (s.setBoot b).dp = s.dp := (rfl)
@[simp] theorem State.setBoot_frm (s : State) (b : BootSt) : (s.setBoot b).frm = s.frm := (rfl)
@[simp] theorem State.setBoot_tbl (s : State) (b : BootSt) : (s.setBoot b).tbl = s.tbl := (rfl)
@[simp] theorem State.setBoot_tm (s : State) (b : BootSt) : (s.setBoot b).tm = s.tm := (rfl)
@[simp] theorem State.setBoot_fcx (s : State) (b : BootSt) : (s.setBoot b).fcx = s.fcx := (rfl)
@[simp] theorem State.setBoot_cph (s : State) (b : BootSt) : (s.setBoot b).cph = s.cph := (rfl)
@[simp] theorem State.setBoot_drt (s : State) (b : BootSt) : (s.setBoot b).drt = s.drt := (rfl)
@[simp] theorem State.setBoot_nve (s : State) (b : BootSt) : (s.setBoot b).nve = s.nve := (rfl)
@[simp] theorem State.setBoot_upd (s : State) (b : BootSt) : (s.setBoot b).upd = s.upd := (rfl)
@[simp] theorem State.setBoot_odf (s : State) (b : BootSt) : (s.setBoot b).odf = s.odf := (rfl)
@[simp] theorem State.setBoot_hw (s : State) (b : BootSt) : (s.setBoot b).hw = s.hw := (rfl)
@[simp] theorem State.setBoot_out (s : State) (b : BootSt) : (s.setBoot b).out = s.out := (rfl)
@[simp] theorem State.setBoot_pending (s : State) (b : BootSt) : (s.setBoot b).pending = s.pending := (rfl)

@[simp] theorem State.setDrt_now (s : State) (d : DrtSt) : (s.setDrt d).now = s.now := (rfl)
@[simp] theorem State.setDrt_fuse (s : State) (d : DrtSt) : (s.setDrt d).fuse = s.fuse := (rfl)
@[simp] theorem State.setDrt_regs (s : State) (d : DrtSt) : (s.setDrt d).regs = s.regs := (rfl)
@[simp] theorem State.setDrt_mram (s : State) (d : DrtSt) : (s.setDrt d).mram = s.mram := (rfl)
@[simp] theorem State.setDrt_mem (s : State) (d : DrtSt) : (s.setDrt d).mem = s.mem := (rfl)
@[simp] theorem State.setDrt_freeSeq (s : State) (d : DrtSt) : (s.setDrt d).freeSeq = s.freeSeq := (rfl)
@[simp] theorem State.setDrt_modes (s : State) (d : DrtSt) : (s.setDrt d).modes = s.modes := (rfl)
@[simp] theorem State.setDrt_prf (s : State) (d : DrtSt) : (s.setDrt d).prf = s.prf := (rfl)
@[simp] theorem State.setDrt_hif (s : State) (d : DrtSt) : (s.setDrt d).hif = s.hif := (rfl)
@[simp] theorem State.setDrt_island (s : State) (d : DrtSt) : (s.setDrt d).island = s.island := (rfl)
@[simp] theorem State.setDrt_ptm (s : State) (d : DrtSt) : (s.setDrt d).ptm = s.ptm := (rfl)
@[simp] theorem State.setDrt_pages (s : State) (d : DrtSt) : (s.setDrt d).pages = s.pages := (rfl)
@[simp] theorem State.setDrt_rings (s : State) (d : DrtSt) : (s.setDrt d).rings = s.rings := (rfl)
@[simp] theorem State.setDrt_slc (s : State) (d : DrtSt) : (s.setDrt d).slc = s.slc := (rfl)
@[simp] theorem State.setDrt_dp (s : State) (d : DrtSt) : (s.setDrt d).dp = s.dp := (rfl)
@[simp] theorem State.setDrt_frm (s : State) (d : DrtSt) : (s.setDrt d).frm = s.frm := (rfl)
@[simp] theorem State.setDrt_tbl (s : State) (d : DrtSt) : (s.setDrt d).tbl = s.tbl := (rfl)
@[simp] theorem State.setDrt_tm (s : State) (d : DrtSt) : (s.setDrt d).tm = s.tm := (rfl)
@[simp] theorem State.setDrt_fcx (s : State) (d : DrtSt) : (s.setDrt d).fcx = s.fcx := (rfl)
@[simp] theorem State.setDrt_cph (s : State) (d : DrtSt) : (s.setDrt d).cph = s.cph := (rfl)
@[simp] theorem State.setDrt_nve (s : State) (d : DrtSt) : (s.setDrt d).nve = s.nve := (rfl)
@[simp] theorem State.setDrt_boot (s : State) (d : DrtSt) : (s.setDrt d).boot = s.boot := (rfl)
@[simp] theorem State.setDrt_upd (s : State) (d : DrtSt) : (s.setDrt d).upd = s.upd := (rfl)
@[simp] theorem State.setDrt_odf (s : State) (d : DrtSt) : (s.setDrt d).odf = s.odf := (rfl)
@[simp] theorem State.setDrt_hw (s : State) (d : DrtSt) : (s.setDrt d).hw = s.hw := (rfl)
@[simp] theorem State.setDrt_out (s : State) (d : DrtSt) : (s.setDrt d).out = s.out := (rfl)
@[simp] theorem State.setDrt_pending (s : State) (d : DrtSt) : (s.setDrt d).pending = s.pending := (rfl)

@[simp] theorem State.setDomain_now (s : State) (d : Nat) (x : DrtDomain) : (s.setDomain d x).now = s.now := (rfl)
@[simp] theorem State.setDomain_fuse (s : State) (d : Nat) (x : DrtDomain) : (s.setDomain d x).fuse = s.fuse := (rfl)
@[simp] theorem State.setDomain_regs (s : State) (d : Nat) (x : DrtDomain) : (s.setDomain d x).regs = s.regs := (rfl)
@[simp] theorem State.setDomain_mram (s : State) (d : Nat) (x : DrtDomain) : (s.setDomain d x).mram = s.mram := (rfl)
@[simp] theorem State.setDomain_mem (s : State) (d : Nat) (x : DrtDomain) : (s.setDomain d x).mem = s.mem := (rfl)
@[simp] theorem State.setDomain_freeSeq (s : State) (d : Nat) (x : DrtDomain) : (s.setDomain d x).freeSeq = s.freeSeq := (rfl)
@[simp] theorem State.setDomain_modes (s : State) (d : Nat) (x : DrtDomain) : (s.setDomain d x).modes = s.modes := (rfl)
@[simp] theorem State.setDomain_prf (s : State) (d : Nat) (x : DrtDomain) : (s.setDomain d x).prf = s.prf := (rfl)
@[simp] theorem State.setDomain_hif (s : State) (d : Nat) (x : DrtDomain) : (s.setDomain d x).hif = s.hif := (rfl)
@[simp] theorem State.setDomain_island (s : State) (d : Nat) (x : DrtDomain) : (s.setDomain d x).island = s.island := (rfl)
@[simp] theorem State.setDomain_ptm (s : State) (d : Nat) (x : DrtDomain) : (s.setDomain d x).ptm = s.ptm := (rfl)
@[simp] theorem State.setDomain_pages (s : State) (d : Nat) (x : DrtDomain) : (s.setDomain d x).pages = s.pages := (rfl)
@[simp] theorem State.setDomain_rings (s : State) (d : Nat) (x : DrtDomain) : (s.setDomain d x).rings = s.rings := (rfl)
@[simp] theorem State.setDomain_slc (s : State) (d : Nat) (x : DrtDomain) : (s.setDomain d x).slc = s.slc := (rfl)
@[simp] theorem State.setDomain_dp (s : State) (d : Nat) (x : DrtDomain) : (s.setDomain d x).dp = s.dp := (rfl)
@[simp] theorem State.setDomain_frm (s : State) (d : Nat) (x : DrtDomain) : (s.setDomain d x).frm = s.frm := (rfl)
@[simp] theorem State.setDomain_tbl (s : State) (d : Nat) (x : DrtDomain) : (s.setDomain d x).tbl = s.tbl := (rfl)
@[simp] theorem State.setDomain_tm (s : State) (d : Nat) (x : DrtDomain) : (s.setDomain d x).tm = s.tm := (rfl)
@[simp] theorem State.setDomain_fcx (s : State) (d : Nat) (x : DrtDomain) : (s.setDomain d x).fcx = s.fcx := (rfl)
@[simp] theorem State.setDomain_cph (s : State) (d : Nat) (x : DrtDomain) : (s.setDomain d x).cph = s.cph := (rfl)
@[simp] theorem State.setDomain_nve (s : State) (d : Nat) (x : DrtDomain) : (s.setDomain d x).nve = s.nve := (rfl)
@[simp] theorem State.setDomain_boot (s : State) (d : Nat) (x : DrtDomain) : (s.setDomain d x).boot = s.boot := (rfl)
@[simp] theorem State.setDomain_upd (s : State) (d : Nat) (x : DrtDomain) : (s.setDomain d x).upd = s.upd := (rfl)
@[simp] theorem State.setDomain_odf (s : State) (d : Nat) (x : DrtDomain) : (s.setDomain d x).odf = s.odf := (rfl)
@[simp] theorem State.setDomain_hw (s : State) (d : Nat) (x : DrtDomain) : (s.setDomain d x).hw = s.hw := (rfl)
@[simp] theorem State.setDomain_out (s : State) (d : Nat) (x : DrtDomain) : (s.setDomain d x).out = s.out := (rfl)
@[simp] theorem State.setDomain_pending (s : State) (d : Nat) (x : DrtDomain) : (s.setDomain d x).pending = s.pending := (rfl)

@[simp] theorem State.setDrtQueue_now (s : State) (d : Nat) (l : List DrtItem) : (s.setDrtQueue d l).now = s.now := (rfl)
@[simp] theorem State.setDrtQueue_fuse (s : State) (d : Nat) (l : List DrtItem) : (s.setDrtQueue d l).fuse = s.fuse := (rfl)
@[simp] theorem State.setDrtQueue_regs (s : State) (d : Nat) (l : List DrtItem) : (s.setDrtQueue d l).regs = s.regs := (rfl)
@[simp] theorem State.setDrtQueue_mram (s : State) (d : Nat) (l : List DrtItem) : (s.setDrtQueue d l).mram = s.mram := (rfl)
@[simp] theorem State.setDrtQueue_mem (s : State) (d : Nat) (l : List DrtItem) : (s.setDrtQueue d l).mem = s.mem := (rfl)
@[simp] theorem State.setDrtQueue_freeSeq (s : State) (d : Nat) (l : List DrtItem) : (s.setDrtQueue d l).freeSeq = s.freeSeq := (rfl)
@[simp] theorem State.setDrtQueue_modes (s : State) (d : Nat) (l : List DrtItem) : (s.setDrtQueue d l).modes = s.modes := (rfl)
@[simp] theorem State.setDrtQueue_prf (s : State) (d : Nat) (l : List DrtItem) : (s.setDrtQueue d l).prf = s.prf := (rfl)
@[simp] theorem State.setDrtQueue_hif (s : State) (d : Nat) (l : List DrtItem) : (s.setDrtQueue d l).hif = s.hif := (rfl)
@[simp] theorem State.setDrtQueue_island (s : State) (d : Nat) (l : List DrtItem) : (s.setDrtQueue d l).island = s.island := (rfl)
@[simp] theorem State.setDrtQueue_ptm (s : State) (d : Nat) (l : List DrtItem) : (s.setDrtQueue d l).ptm = s.ptm := (rfl)
@[simp] theorem State.setDrtQueue_pages (s : State) (d : Nat) (l : List DrtItem) : (s.setDrtQueue d l).pages = s.pages := (rfl)
@[simp] theorem State.setDrtQueue_rings (s : State) (d : Nat) (l : List DrtItem) : (s.setDrtQueue d l).rings = s.rings := (rfl)
@[simp] theorem State.setDrtQueue_slc (s : State) (d : Nat) (l : List DrtItem) : (s.setDrtQueue d l).slc = s.slc := (rfl)
@[simp] theorem State.setDrtQueue_dp (s : State) (d : Nat) (l : List DrtItem) : (s.setDrtQueue d l).dp = s.dp := (rfl)
@[simp] theorem State.setDrtQueue_frm (s : State) (d : Nat) (l : List DrtItem) : (s.setDrtQueue d l).frm = s.frm := (rfl)
@[simp] theorem State.setDrtQueue_tbl (s : State) (d : Nat) (l : List DrtItem) : (s.setDrtQueue d l).tbl = s.tbl := (rfl)
@[simp] theorem State.setDrtQueue_tm (s : State) (d : Nat) (l : List DrtItem) : (s.setDrtQueue d l).tm = s.tm := (rfl)
@[simp] theorem State.setDrtQueue_fcx (s : State) (d : Nat) (l : List DrtItem) : (s.setDrtQueue d l).fcx = s.fcx := (rfl)
@[simp] theorem State.setDrtQueue_cph (s : State) (d : Nat) (l : List DrtItem) : (s.setDrtQueue d l).cph = s.cph := (rfl)
@[simp] theorem State.setDrtQueue_nve (s : State) (d : Nat) (l : List DrtItem) : (s.setDrtQueue d l).nve = s.nve := (rfl)
@[simp] theorem State.setDrtQueue_boot (s : State) (d : Nat) (l : List DrtItem) : (s.setDrtQueue d l).boot = s.boot := (rfl)
@[simp] theorem State.setDrtQueue_upd (s : State) (d : Nat) (l : List DrtItem) : (s.setDrtQueue d l).upd = s.upd := (rfl)
@[simp] theorem State.setDrtQueue_odf (s : State) (d : Nat) (l : List DrtItem) : (s.setDrtQueue d l).odf = s.odf := (rfl)
@[simp] theorem State.setDrtQueue_hw (s : State) (d : Nat) (l : List DrtItem) : (s.setDrtQueue d l).hw = s.hw := (rfl)
@[simp] theorem State.setDrtQueue_out (s : State) (d : Nat) (l : List DrtItem) : (s.setDrtQueue d l).out = s.out := (rfl)
@[simp] theorem State.setDrtQueue_pending (s : State) (d : Nat) (l : List DrtItem) : (s.setDrtQueue d l).pending = s.pending := (rfl)

@[simp] theorem State.setPtm_now (s : State) (l : Nat) (p : PtmSt) : (s.setPtm l p).now = s.now := (rfl)
@[simp] theorem State.setPtm_fuse (s : State) (l : Nat) (p : PtmSt) : (s.setPtm l p).fuse = s.fuse := (rfl)
@[simp] theorem State.setPtm_regs (s : State) (l : Nat) (p : PtmSt) : (s.setPtm l p).regs = s.regs := (rfl)
@[simp] theorem State.setPtm_mram (s : State) (l : Nat) (p : PtmSt) : (s.setPtm l p).mram = s.mram := (rfl)
@[simp] theorem State.setPtm_mem (s : State) (l : Nat) (p : PtmSt) : (s.setPtm l p).mem = s.mem := (rfl)
@[simp] theorem State.setPtm_freeSeq (s : State) (l : Nat) (p : PtmSt) : (s.setPtm l p).freeSeq = s.freeSeq := (rfl)
@[simp] theorem State.setPtm_modes (s : State) (l : Nat) (p : PtmSt) : (s.setPtm l p).modes = s.modes := (rfl)
@[simp] theorem State.setPtm_prf (s : State) (l : Nat) (p : PtmSt) : (s.setPtm l p).prf = s.prf := (rfl)
@[simp] theorem State.setPtm_hif (s : State) (l : Nat) (p : PtmSt) : (s.setPtm l p).hif = s.hif := (rfl)
@[simp] theorem State.setPtm_island (s : State) (l : Nat) (p : PtmSt) : (s.setPtm l p).island = s.island := (rfl)
@[simp] theorem State.setPtm_pages (s : State) (l : Nat) (p : PtmSt) : (s.setPtm l p).pages = s.pages := (rfl)
@[simp] theorem State.setPtm_rings (s : State) (l : Nat) (p : PtmSt) : (s.setPtm l p).rings = s.rings := (rfl)
@[simp] theorem State.setPtm_slc (s : State) (l : Nat) (p : PtmSt) : (s.setPtm l p).slc = s.slc := (rfl)
@[simp] theorem State.setPtm_dp (s : State) (l : Nat) (p : PtmSt) : (s.setPtm l p).dp = s.dp := (rfl)
@[simp] theorem State.setPtm_frm (s : State) (l : Nat) (p : PtmSt) : (s.setPtm l p).frm = s.frm := (rfl)
@[simp] theorem State.setPtm_tbl (s : State) (l : Nat) (p : PtmSt) : (s.setPtm l p).tbl = s.tbl := (rfl)
@[simp] theorem State.setPtm_tm (s : State) (l : Nat) (p : PtmSt) : (s.setPtm l p).tm = s.tm := (rfl)
@[simp] theorem State.setPtm_fcx (s : State) (l : Nat) (p : PtmSt) : (s.setPtm l p).fcx = s.fcx := (rfl)
@[simp] theorem State.setPtm_cph (s : State) (l : Nat) (p : PtmSt) : (s.setPtm l p).cph = s.cph := (rfl)
@[simp] theorem State.setPtm_drt (s : State) (l : Nat) (p : PtmSt) : (s.setPtm l p).drt = s.drt := (rfl)
@[simp] theorem State.setPtm_nve (s : State) (l : Nat) (p : PtmSt) : (s.setPtm l p).nve = s.nve := (rfl)
@[simp] theorem State.setPtm_boot (s : State) (l : Nat) (p : PtmSt) : (s.setPtm l p).boot = s.boot := (rfl)
@[simp] theorem State.setPtm_upd (s : State) (l : Nat) (p : PtmSt) : (s.setPtm l p).upd = s.upd := (rfl)
@[simp] theorem State.setPtm_odf (s : State) (l : Nat) (p : PtmSt) : (s.setPtm l p).odf = s.odf := (rfl)
@[simp] theorem State.setPtm_hw (s : State) (l : Nat) (p : PtmSt) : (s.setPtm l p).hw = s.hw := (rfl)
@[simp] theorem State.setPtm_out (s : State) (l : Nat) (p : PtmSt) : (s.setPtm l p).out = s.out := (rfl)
@[simp] theorem State.setPtm_pending (s : State) (l : Nat) (p : PtmSt) : (s.setPtm l p).pending = s.pending := (rfl)

@[simp] theorem State.setPol_now (s : State) (i : Nat) (x : PolSt) : (s.setPol i x).now = s.now := (rfl)
@[simp] theorem State.setPol_fuse (s : State) (i : Nat) (x : PolSt) : (s.setPol i x).fuse = s.fuse := (rfl)
@[simp] theorem State.setPol_regs (s : State) (i : Nat) (x : PolSt) : (s.setPol i x).regs = s.regs := (rfl)
@[simp] theorem State.setPol_mram (s : State) (i : Nat) (x : PolSt) : (s.setPol i x).mram = s.mram := (rfl)
@[simp] theorem State.setPol_mem (s : State) (i : Nat) (x : PolSt) : (s.setPol i x).mem = s.mem := (rfl)
@[simp] theorem State.setPol_freeSeq (s : State) (i : Nat) (x : PolSt) : (s.setPol i x).freeSeq = s.freeSeq := (rfl)
@[simp] theorem State.setPol_modes (s : State) (i : Nat) (x : PolSt) : (s.setPol i x).modes = s.modes := (rfl)
@[simp] theorem State.setPol_prf (s : State) (i : Nat) (x : PolSt) : (s.setPol i x).prf = s.prf := (rfl)
@[simp] theorem State.setPol_hif (s : State) (i : Nat) (x : PolSt) : (s.setPol i x).hif = s.hif := (rfl)
@[simp] theorem State.setPol_island (s : State) (i : Nat) (x : PolSt) : (s.setPol i x).island = s.island := (rfl)
@[simp] theorem State.setPol_ptm (s : State) (i : Nat) (x : PolSt) : (s.setPol i x).ptm = s.ptm := (rfl)
@[simp] theorem State.setPol_pages (s : State) (i : Nat) (x : PolSt) : (s.setPol i x).pages = s.pages := (rfl)
@[simp] theorem State.setPol_rings (s : State) (i : Nat) (x : PolSt) : (s.setPol i x).rings = s.rings := (rfl)
@[simp] theorem State.setPol_slc (s : State) (i : Nat) (x : PolSt) : (s.setPol i x).slc = s.slc := (rfl)
@[simp] theorem State.setPol_dp (s : State) (i : Nat) (x : PolSt) : (s.setPol i x).dp = s.dp := (rfl)
@[simp] theorem State.setPol_frm (s : State) (i : Nat) (x : PolSt) : (s.setPol i x).frm = s.frm := (rfl)
@[simp] theorem State.setPol_tbl (s : State) (i : Nat) (x : PolSt) : (s.setPol i x).tbl = s.tbl := (rfl)
@[simp] theorem State.setPol_fcx (s : State) (i : Nat) (x : PolSt) : (s.setPol i x).fcx = s.fcx := (rfl)
@[simp] theorem State.setPol_cph (s : State) (i : Nat) (x : PolSt) : (s.setPol i x).cph = s.cph := (rfl)
@[simp] theorem State.setPol_drt (s : State) (i : Nat) (x : PolSt) : (s.setPol i x).drt = s.drt := (rfl)
@[simp] theorem State.setPol_nve (s : State) (i : Nat) (x : PolSt) : (s.setPol i x).nve = s.nve := (rfl)
@[simp] theorem State.setPol_boot (s : State) (i : Nat) (x : PolSt) : (s.setPol i x).boot = s.boot := (rfl)
@[simp] theorem State.setPol_upd (s : State) (i : Nat) (x : PolSt) : (s.setPol i x).upd = s.upd := (rfl)
@[simp] theorem State.setPol_odf (s : State) (i : Nat) (x : PolSt) : (s.setPol i x).odf = s.odf := (rfl)
@[simp] theorem State.setPol_hw (s : State) (i : Nat) (x : PolSt) : (s.setPol i x).hw = s.hw := (rfl)
@[simp] theorem State.setPol_out (s : State) (i : Nat) (x : PolSt) : (s.setPol i x).out = s.out := (rfl)
@[simp] theorem State.setPol_pending (s : State) (i : Nat) (x : PolSt) : (s.setPol i x).pending = s.pending := (rfl)

@[simp] theorem State.setNrun_now (s : State) (l : Nat) (i : Nat) (r : NodeRun) : (s.setNrun l i r).now = s.now := (rfl)
@[simp] theorem State.setNrun_fuse (s : State) (l : Nat) (i : Nat) (r : NodeRun) : (s.setNrun l i r).fuse = s.fuse := (rfl)
@[simp] theorem State.setNrun_regs (s : State) (l : Nat) (i : Nat) (r : NodeRun) : (s.setNrun l i r).regs = s.regs := (rfl)
@[simp] theorem State.setNrun_mram (s : State) (l : Nat) (i : Nat) (r : NodeRun) : (s.setNrun l i r).mram = s.mram := (rfl)
@[simp] theorem State.setNrun_mem (s : State) (l : Nat) (i : Nat) (r : NodeRun) : (s.setNrun l i r).mem = s.mem := (rfl)
@[simp] theorem State.setNrun_freeSeq (s : State) (l : Nat) (i : Nat) (r : NodeRun) : (s.setNrun l i r).freeSeq = s.freeSeq := (rfl)
@[simp] theorem State.setNrun_modes (s : State) (l : Nat) (i : Nat) (r : NodeRun) : (s.setNrun l i r).modes = s.modes := (rfl)
@[simp] theorem State.setNrun_prf (s : State) (l : Nat) (i : Nat) (r : NodeRun) : (s.setNrun l i r).prf = s.prf := (rfl)
@[simp] theorem State.setNrun_hif (s : State) (l : Nat) (i : Nat) (r : NodeRun) : (s.setNrun l i r).hif = s.hif := (rfl)
@[simp] theorem State.setNrun_island (s : State) (l : Nat) (i : Nat) (r : NodeRun) : (s.setNrun l i r).island = s.island := (rfl)
@[simp] theorem State.setNrun_ptm (s : State) (l : Nat) (i : Nat) (r : NodeRun) : (s.setNrun l i r).ptm = s.ptm := (rfl)
@[simp] theorem State.setNrun_pages (s : State) (l : Nat) (i : Nat) (r : NodeRun) : (s.setNrun l i r).pages = s.pages := (rfl)
@[simp] theorem State.setNrun_rings (s : State) (l : Nat) (i : Nat) (r : NodeRun) : (s.setNrun l i r).rings = s.rings := (rfl)
@[simp] theorem State.setNrun_slc (s : State) (l : Nat) (i : Nat) (r : NodeRun) : (s.setNrun l i r).slc = s.slc := (rfl)
@[simp] theorem State.setNrun_dp (s : State) (l : Nat) (i : Nat) (r : NodeRun) : (s.setNrun l i r).dp = s.dp := (rfl)
@[simp] theorem State.setNrun_frm (s : State) (l : Nat) (i : Nat) (r : NodeRun) : (s.setNrun l i r).frm = s.frm := (rfl)
@[simp] theorem State.setNrun_tbl (s : State) (l : Nat) (i : Nat) (r : NodeRun) : (s.setNrun l i r).tbl = s.tbl := (rfl)
@[simp] theorem State.setNrun_fcx (s : State) (l : Nat) (i : Nat) (r : NodeRun) : (s.setNrun l i r).fcx = s.fcx := (rfl)
@[simp] theorem State.setNrun_cph (s : State) (l : Nat) (i : Nat) (r : NodeRun) : (s.setNrun l i r).cph = s.cph := (rfl)
@[simp] theorem State.setNrun_drt (s : State) (l : Nat) (i : Nat) (r : NodeRun) : (s.setNrun l i r).drt = s.drt := (rfl)
@[simp] theorem State.setNrun_nve (s : State) (l : Nat) (i : Nat) (r : NodeRun) : (s.setNrun l i r).nve = s.nve := (rfl)
@[simp] theorem State.setNrun_boot (s : State) (l : Nat) (i : Nat) (r : NodeRun) : (s.setNrun l i r).boot = s.boot := (rfl)
@[simp] theorem State.setNrun_upd (s : State) (l : Nat) (i : Nat) (r : NodeRun) : (s.setNrun l i r).upd = s.upd := (rfl)
@[simp] theorem State.setNrun_odf (s : State) (l : Nat) (i : Nat) (r : NodeRun) : (s.setNrun l i r).odf = s.odf := (rfl)
@[simp] theorem State.setNrun_hw (s : State) (l : Nat) (i : Nat) (r : NodeRun) : (s.setNrun l i r).hw = s.hw := (rfl)
@[simp] theorem State.setNrun_out (s : State) (l : Nat) (i : Nat) (r : NodeRun) : (s.setNrun l i r).out = s.out := (rfl)
@[simp] theorem State.setNrun_pending (s : State) (l : Nat) (i : Nat) (r : NodeRun) : (s.setNrun l i r).pending = s.pending := (rfl)

@[simp] theorem State.setVtime_now (s : State) (l : Nat) (i : Nat) (pr : Nat) (v : Nat) : (s.setVtime l i pr v).now = s.now := (rfl)
@[simp] theorem State.setVtime_fuse (s : State) (l : Nat) (i : Nat) (pr : Nat) (v : Nat) : (s.setVtime l i pr v).fuse = s.fuse := (rfl)
@[simp] theorem State.setVtime_regs (s : State) (l : Nat) (i : Nat) (pr : Nat) (v : Nat) : (s.setVtime l i pr v).regs = s.regs := (rfl)
@[simp] theorem State.setVtime_mram (s : State) (l : Nat) (i : Nat) (pr : Nat) (v : Nat) : (s.setVtime l i pr v).mram = s.mram := (rfl)
@[simp] theorem State.setVtime_mem (s : State) (l : Nat) (i : Nat) (pr : Nat) (v : Nat) : (s.setVtime l i pr v).mem = s.mem := (rfl)
@[simp] theorem State.setVtime_freeSeq (s : State) (l : Nat) (i : Nat) (pr : Nat) (v : Nat) : (s.setVtime l i pr v).freeSeq = s.freeSeq := (rfl)
@[simp] theorem State.setVtime_modes (s : State) (l : Nat) (i : Nat) (pr : Nat) (v : Nat) : (s.setVtime l i pr v).modes = s.modes := (rfl)
@[simp] theorem State.setVtime_prf (s : State) (l : Nat) (i : Nat) (pr : Nat) (v : Nat) : (s.setVtime l i pr v).prf = s.prf := (rfl)
@[simp] theorem State.setVtime_hif (s : State) (l : Nat) (i : Nat) (pr : Nat) (v : Nat) : (s.setVtime l i pr v).hif = s.hif := (rfl)
@[simp] theorem State.setVtime_island (s : State) (l : Nat) (i : Nat) (pr : Nat) (v : Nat) : (s.setVtime l i pr v).island = s.island := (rfl)
@[simp] theorem State.setVtime_ptm (s : State) (l : Nat) (i : Nat) (pr : Nat) (v : Nat) : (s.setVtime l i pr v).ptm = s.ptm := (rfl)
@[simp] theorem State.setVtime_pages (s : State) (l : Nat) (i : Nat) (pr : Nat) (v : Nat) : (s.setVtime l i pr v).pages = s.pages := (rfl)
@[simp] theorem State.setVtime_rings (s : State) (l : Nat) (i : Nat) (pr : Nat) (v : Nat) : (s.setVtime l i pr v).rings = s.rings := (rfl)
@[simp] theorem State.setVtime_slc (s : State) (l : Nat) (i : Nat) (pr : Nat) (v : Nat) : (s.setVtime l i pr v).slc = s.slc := (rfl)
@[simp] theorem State.setVtime_dp (s : State) (l : Nat) (i : Nat) (pr : Nat) (v : Nat) : (s.setVtime l i pr v).dp = s.dp := (rfl)
@[simp] theorem State.setVtime_frm (s : State) (l : Nat) (i : Nat) (pr : Nat) (v : Nat) : (s.setVtime l i pr v).frm = s.frm := (rfl)
@[simp] theorem State.setVtime_tbl (s : State) (l : Nat) (i : Nat) (pr : Nat) (v : Nat) : (s.setVtime l i pr v).tbl = s.tbl := (rfl)
@[simp] theorem State.setVtime_fcx (s : State) (l : Nat) (i : Nat) (pr : Nat) (v : Nat) : (s.setVtime l i pr v).fcx = s.fcx := (rfl)
@[simp] theorem State.setVtime_cph (s : State) (l : Nat) (i : Nat) (pr : Nat) (v : Nat) : (s.setVtime l i pr v).cph = s.cph := (rfl)
@[simp] theorem State.setVtime_drt (s : State) (l : Nat) (i : Nat) (pr : Nat) (v : Nat) : (s.setVtime l i pr v).drt = s.drt := (rfl)
@[simp] theorem State.setVtime_nve (s : State) (l : Nat) (i : Nat) (pr : Nat) (v : Nat) : (s.setVtime l i pr v).nve = s.nve := (rfl)
@[simp] theorem State.setVtime_boot (s : State) (l : Nat) (i : Nat) (pr : Nat) (v : Nat) : (s.setVtime l i pr v).boot = s.boot := (rfl)
@[simp] theorem State.setVtime_upd (s : State) (l : Nat) (i : Nat) (pr : Nat) (v : Nat) : (s.setVtime l i pr v).upd = s.upd := (rfl)
@[simp] theorem State.setVtime_odf (s : State) (l : Nat) (i : Nat) (pr : Nat) (v : Nat) : (s.setVtime l i pr v).odf = s.odf := (rfl)
@[simp] theorem State.setVtime_hw (s : State) (l : Nat) (i : Nat) (pr : Nat) (v : Nat) : (s.setVtime l i pr v).hw = s.hw := (rfl)
@[simp] theorem State.setVtime_out (s : State) (l : Nat) (i : Nat) (pr : Nat) (v : Nat) : (s.setVtime l i pr v).out = s.out := (rfl)
@[simp] theorem State.setVtime_pending (s : State) (l : Nat) (i : Nat) (pr : Nat) (v : Nat) : (s.setVtime l i pr v).pending = s.pending := (rfl)

@[simp] theorem State.setUnit_now (s : State) (kind : Nat) (l : Nat) (phys : Nat) : (s.setUnit kind l phys).now = s.now := (rfl)
@[simp] theorem State.setUnit_fuse (s : State) (kind : Nat) (l : Nat) (phys : Nat) : (s.setUnit kind l phys).fuse = s.fuse := (rfl)
@[simp] theorem State.setUnit_regs (s : State) (kind : Nat) (l : Nat) (phys : Nat) : (s.setUnit kind l phys).regs = s.regs := (rfl)
@[simp] theorem State.setUnit_mram (s : State) (kind : Nat) (l : Nat) (phys : Nat) : (s.setUnit kind l phys).mram = s.mram := (rfl)
@[simp] theorem State.setUnit_mem (s : State) (kind : Nat) (l : Nat) (phys : Nat) : (s.setUnit kind l phys).mem = s.mem := (rfl)
@[simp] theorem State.setUnit_freeSeq (s : State) (kind : Nat) (l : Nat) (phys : Nat) : (s.setUnit kind l phys).freeSeq = s.freeSeq := (rfl)
@[simp] theorem State.setUnit_modes (s : State) (kind : Nat) (l : Nat) (phys : Nat) : (s.setUnit kind l phys).modes = s.modes := (rfl)
@[simp] theorem State.setUnit_hif (s : State) (kind : Nat) (l : Nat) (phys : Nat) : (s.setUnit kind l phys).hif = s.hif := (rfl)
@[simp] theorem State.setUnit_island (s : State) (kind : Nat) (l : Nat) (phys : Nat) : (s.setUnit kind l phys).island = s.island := (rfl)
@[simp] theorem State.setUnit_ptm (s : State) (kind : Nat) (l : Nat) (phys : Nat) : (s.setUnit kind l phys).ptm = s.ptm := (rfl)
@[simp] theorem State.setUnit_pages (s : State) (kind : Nat) (l : Nat) (phys : Nat) : (s.setUnit kind l phys).pages = s.pages := (rfl)
@[simp] theorem State.setUnit_rings (s : State) (kind : Nat) (l : Nat) (phys : Nat) : (s.setUnit kind l phys).rings = s.rings := (rfl)
@[simp] theorem State.setUnit_slc (s : State) (kind : Nat) (l : Nat) (phys : Nat) : (s.setUnit kind l phys).slc = s.slc := (rfl)
@[simp] theorem State.setUnit_dp (s : State) (kind : Nat) (l : Nat) (phys : Nat) : (s.setUnit kind l phys).dp = s.dp := (rfl)
@[simp] theorem State.setUnit_frm (s : State) (kind : Nat) (l : Nat) (phys : Nat) : (s.setUnit kind l phys).frm = s.frm := (rfl)
@[simp] theorem State.setUnit_tbl (s : State) (kind : Nat) (l : Nat) (phys : Nat) : (s.setUnit kind l phys).tbl = s.tbl := (rfl)
@[simp] theorem State.setUnit_tm (s : State) (kind : Nat) (l : Nat) (phys : Nat) : (s.setUnit kind l phys).tm = s.tm := (rfl)
@[simp] theorem State.setUnit_fcx (s : State) (kind : Nat) (l : Nat) (phys : Nat) : (s.setUnit kind l phys).fcx = s.fcx := (rfl)
@[simp] theorem State.setUnit_cph (s : State) (kind : Nat) (l : Nat) (phys : Nat) : (s.setUnit kind l phys).cph = s.cph := (rfl)
@[simp] theorem State.setUnit_drt (s : State) (kind : Nat) (l : Nat) (phys : Nat) : (s.setUnit kind l phys).drt = s.drt := (rfl)
@[simp] theorem State.setUnit_nve (s : State) (kind : Nat) (l : Nat) (phys : Nat) : (s.setUnit kind l phys).nve = s.nve := (rfl)
@[simp] theorem State.setUnit_boot (s : State) (kind : Nat) (l : Nat) (phys : Nat) : (s.setUnit kind l phys).boot = s.boot := (rfl)
@[simp] theorem State.setUnit_upd (s : State) (kind : Nat) (l : Nat) (phys : Nat) : (s.setUnit kind l phys).upd = s.upd := (rfl)
@[simp] theorem State.setUnit_odf (s : State) (kind : Nat) (l : Nat) (phys : Nat) : (s.setUnit kind l phys).odf = s.odf := (rfl)
@[simp] theorem State.setUnit_hw (s : State) (kind : Nat) (l : Nat) (phys : Nat) : (s.setUnit kind l phys).hw = s.hw := (rfl)
@[simp] theorem State.setUnit_out (s : State) (kind : Nat) (l : Nat) (phys : Nat) : (s.setUnit kind l phys).out = s.out := (rfl)
@[simp] theorem State.setUnit_pending (s : State) (kind : Nat) (l : Nat) (phys : Nat) : (s.setUnit kind l phys).pending = s.pending := (rfl)

@[simp] theorem State.newPkt_now (s : State) (p : Pkt) : (s.newPkt p).2.now = s.now := (rfl)
@[simp] theorem State.newPkt_fuse (s : State) (p : Pkt) : (s.newPkt p).2.fuse = s.fuse := (rfl)
@[simp] theorem State.newPkt_regs (s : State) (p : Pkt) : (s.newPkt p).2.regs = s.regs := (rfl)
@[simp] theorem State.newPkt_mram (s : State) (p : Pkt) : (s.newPkt p).2.mram = s.mram := (rfl)
@[simp] theorem State.newPkt_mem (s : State) (p : Pkt) : (s.newPkt p).2.mem = s.mem := (rfl)
@[simp] theorem State.newPkt_freeSeq (s : State) (p : Pkt) : (s.newPkt p).2.freeSeq = s.freeSeq := (rfl)
@[simp] theorem State.newPkt_modes (s : State) (p : Pkt) : (s.newPkt p).2.modes = s.modes := (rfl)
@[simp] theorem State.newPkt_prf (s : State) (p : Pkt) : (s.newPkt p).2.prf = s.prf := (rfl)
@[simp] theorem State.newPkt_hif (s : State) (p : Pkt) : (s.newPkt p).2.hif = s.hif := (rfl)
@[simp] theorem State.newPkt_island (s : State) (p : Pkt) : (s.newPkt p).2.island = s.island := (rfl)
@[simp] theorem State.newPkt_ptm (s : State) (p : Pkt) : (s.newPkt p).2.ptm = s.ptm := (rfl)
@[simp] theorem State.newPkt_pages (s : State) (p : Pkt) : (s.newPkt p).2.pages = s.pages := (rfl)
@[simp] theorem State.newPkt_rings (s : State) (p : Pkt) : (s.newPkt p).2.rings = s.rings := (rfl)
@[simp] theorem State.newPkt_slc (s : State) (p : Pkt) : (s.newPkt p).2.slc = s.slc := (rfl)
@[simp] theorem State.newPkt_frm (s : State) (p : Pkt) : (s.newPkt p).2.frm = s.frm := (rfl)
@[simp] theorem State.newPkt_tbl (s : State) (p : Pkt) : (s.newPkt p).2.tbl = s.tbl := (rfl)
@[simp] theorem State.newPkt_tm (s : State) (p : Pkt) : (s.newPkt p).2.tm = s.tm := (rfl)
@[simp] theorem State.newPkt_fcx (s : State) (p : Pkt) : (s.newPkt p).2.fcx = s.fcx := (rfl)
@[simp] theorem State.newPkt_cph (s : State) (p : Pkt) : (s.newPkt p).2.cph = s.cph := (rfl)
@[simp] theorem State.newPkt_drt (s : State) (p : Pkt) : (s.newPkt p).2.drt = s.drt := (rfl)
@[simp] theorem State.newPkt_nve (s : State) (p : Pkt) : (s.newPkt p).2.nve = s.nve := (rfl)
@[simp] theorem State.newPkt_boot (s : State) (p : Pkt) : (s.newPkt p).2.boot = s.boot := (rfl)
@[simp] theorem State.newPkt_upd (s : State) (p : Pkt) : (s.newPkt p).2.upd = s.upd := (rfl)
@[simp] theorem State.newPkt_odf (s : State) (p : Pkt) : (s.newPkt p).2.odf = s.odf := (rfl)
@[simp] theorem State.newPkt_hw (s : State) (p : Pkt) : (s.newPkt p).2.hw = s.hw := (rfl)
@[simp] theorem State.newPkt_out (s : State) (p : Pkt) : (s.newPkt p).2.out = s.out := (rfl)
@[simp] theorem State.newPkt_pending (s : State) (p : Pkt) : (s.newPkt p).2.pending = s.pending := (rfl)

@[simp] theorem State.newMsg_now (s : State) (m1 : NveMsg) : (s.newMsg m1).now = s.now := (rfl)
@[simp] theorem State.newMsg_fuse (s : State) (m1 : NveMsg) : (s.newMsg m1).fuse = s.fuse := (rfl)
@[simp] theorem State.newMsg_regs (s : State) (m1 : NveMsg) : (s.newMsg m1).regs = s.regs := (rfl)
@[simp] theorem State.newMsg_mram (s : State) (m1 : NveMsg) : (s.newMsg m1).mram = s.mram := (rfl)
@[simp] theorem State.newMsg_mem (s : State) (m1 : NveMsg) : (s.newMsg m1).mem = s.mem := (rfl)
@[simp] theorem State.newMsg_freeSeq (s : State) (m1 : NveMsg) : (s.newMsg m1).freeSeq = s.freeSeq := (rfl)
@[simp] theorem State.newMsg_modes (s : State) (m1 : NveMsg) : (s.newMsg m1).modes = s.modes := (rfl)
@[simp] theorem State.newMsg_prf (s : State) (m1 : NveMsg) : (s.newMsg m1).prf = s.prf := (rfl)
@[simp] theorem State.newMsg_hif (s : State) (m1 : NveMsg) : (s.newMsg m1).hif = s.hif := (rfl)
@[simp] theorem State.newMsg_island (s : State) (m1 : NveMsg) : (s.newMsg m1).island = s.island := (rfl)
@[simp] theorem State.newMsg_ptm (s : State) (m1 : NveMsg) : (s.newMsg m1).ptm = s.ptm := (rfl)
@[simp] theorem State.newMsg_pages (s : State) (m1 : NveMsg) : (s.newMsg m1).pages = s.pages := (rfl)
@[simp] theorem State.newMsg_rings (s : State) (m1 : NveMsg) : (s.newMsg m1).rings = s.rings := (rfl)
@[simp] theorem State.newMsg_slc (s : State) (m1 : NveMsg) : (s.newMsg m1).slc = s.slc := (rfl)
@[simp] theorem State.newMsg_dp (s : State) (m1 : NveMsg) : (s.newMsg m1).dp = s.dp := (rfl)
@[simp] theorem State.newMsg_frm (s : State) (m1 : NveMsg) : (s.newMsg m1).frm = s.frm := (rfl)
@[simp] theorem State.newMsg_tbl (s : State) (m1 : NveMsg) : (s.newMsg m1).tbl = s.tbl := (rfl)
@[simp] theorem State.newMsg_tm (s : State) (m1 : NveMsg) : (s.newMsg m1).tm = s.tm := (rfl)
@[simp] theorem State.newMsg_fcx (s : State) (m1 : NveMsg) : (s.newMsg m1).fcx = s.fcx := (rfl)
@[simp] theorem State.newMsg_cph (s : State) (m1 : NveMsg) : (s.newMsg m1).cph = s.cph := (rfl)
@[simp] theorem State.newMsg_drt (s : State) (m1 : NveMsg) : (s.newMsg m1).drt = s.drt := (rfl)
@[simp] theorem State.newMsg_boot (s : State) (m1 : NveMsg) : (s.newMsg m1).boot = s.boot := (rfl)
@[simp] theorem State.newMsg_upd (s : State) (m1 : NveMsg) : (s.newMsg m1).upd = s.upd := (rfl)
@[simp] theorem State.newMsg_odf (s : State) (m1 : NveMsg) : (s.newMsg m1).odf = s.odf := (rfl)
@[simp] theorem State.newMsg_hw (s : State) (m1 : NveMsg) : (s.newMsg m1).hw = s.hw := (rfl)
@[simp] theorem State.newMsg_out (s : State) (m1 : NveMsg) : (s.newMsg m1).out = s.out := (rfl)
@[simp] theorem State.newMsg_pending (s : State) (m1 : NveMsg) : (s.newMsg m1).pending = s.pending := (rfl)

@[simp] theorem State.freePkt_now (s : State) (id : Nat) : (s.freePkt id).now = s.now := (rfl)
@[simp] theorem State.freePkt_fuse (s : State) (id : Nat) : (s.freePkt id).fuse = s.fuse := (rfl)
@[simp] theorem State.freePkt_regs (s : State) (id : Nat) : (s.freePkt id).regs = s.regs := (rfl)
@[simp] theorem State.freePkt_mram (s : State) (id : Nat) : (s.freePkt id).mram = s.mram := (rfl)
@[simp] theorem State.freePkt_mem (s : State) (id : Nat) : (s.freePkt id).mem = s.mem := (rfl)
@[simp] theorem State.freePkt_freeSeq (s : State) (id : Nat) : (s.freePkt id).freeSeq = s.freeSeq := (rfl)
@[simp] theorem State.freePkt_modes (s : State) (id : Nat) : (s.freePkt id).modes = s.modes := (rfl)
@[simp] theorem State.freePkt_prf (s : State) (id : Nat) : (s.freePkt id).prf = s.prf := (rfl)
@[simp] theorem State.freePkt_hif (s : State) (id : Nat) : (s.freePkt id).hif = s.hif := (rfl)
@[simp] theorem State.freePkt_island (s : State) (id : Nat) : (s.freePkt id).island = s.island := (rfl)
@[simp] theorem State.freePkt_ptm (s : State) (id : Nat) : (s.freePkt id).ptm = s.ptm := (rfl)
@[simp] theorem State.freePkt_pages (s : State) (id : Nat) : (s.freePkt id).pages = s.pages := (rfl)
@[simp] theorem State.freePkt_rings (s : State) (id : Nat) : (s.freePkt id).rings = s.rings := (rfl)
@[simp] theorem State.freePkt_slc (s : State) (id : Nat) : (s.freePkt id).slc = s.slc := (rfl)
@[simp] theorem State.freePkt_frm (s : State) (id : Nat) : (s.freePkt id).frm = s.frm := (rfl)
@[simp] theorem State.freePkt_tbl (s : State) (id : Nat) : (s.freePkt id).tbl = s.tbl := (rfl)
@[simp] theorem State.freePkt_tm (s : State) (id : Nat) : (s.freePkt id).tm = s.tm := (rfl)
@[simp] theorem State.freePkt_fcx (s : State) (id : Nat) : (s.freePkt id).fcx = s.fcx := (rfl)
@[simp] theorem State.freePkt_cph (s : State) (id : Nat) : (s.freePkt id).cph = s.cph := (rfl)
@[simp] theorem State.freePkt_drt (s : State) (id : Nat) : (s.freePkt id).drt = s.drt := (rfl)
@[simp] theorem State.freePkt_nve (s : State) (id : Nat) : (s.freePkt id).nve = s.nve := (rfl)
@[simp] theorem State.freePkt_boot (s : State) (id : Nat) : (s.freePkt id).boot = s.boot := (rfl)
@[simp] theorem State.freePkt_upd (s : State) (id : Nat) : (s.freePkt id).upd = s.upd := (rfl)
@[simp] theorem State.freePkt_odf (s : State) (id : Nat) : (s.freePkt id).odf = s.odf := (rfl)
@[simp] theorem State.freePkt_hw (s : State) (id : Nat) : (s.freePkt id).hw = s.hw := (rfl)
@[simp] theorem State.freePkt_out (s : State) (id : Nat) : (s.freePkt id).out = s.out := (rfl)
@[simp] theorem State.freePkt_pending (s : State) (id : Nat) : (s.freePkt id).pending = s.pending := (rfl)

end Sys2Proof.Machine
end

