-- ==== Sys2Proof/Laws/Runs.lean ====
section
/-! SUPPORT. What each shared command shape does on the path where nothing stops the command: one lemma per shape, so that a
proof about one command cites the shape and never unfolds it. Each names its intermediate state `t` with an equation: a proof that
keeps a state as a variable (clear_value on a let, or such an equation) never makes the kernel compare two unfolded states. -/

namespace Sys2Proof.Machine

open Host

/-- A table command by register, taken: it runs at once (R143). -/
theorem State.tableCommand_reg_runs (init blk : Nat) (w : Word) (img : List Byte) (s : State) (op : Nat) (b : State × Bool)
    (hb : s.blockAccess (8 + blk) .write init 0 = b) (h1 : b.2 = true) (h2 : b.1.flag X_CMD.busy blk = false)
    (h3 : b.1.modes.dReset = none) :
    s.tableCommand op (.reg init) blk w img = (b.1.setReg .X_CMD (tblCmdWord (b.1.reg .X_CMD blk) op w) blk).tblExec
      ((b.1.setReg .X_CMD (tblCmdWord (b.1.reg .X_CMD blk) op w) blk).regReq init blk op w) := by
  unfold State.tableCommand
  simp only [hb, h1, h2, Bool.not_true, Bool.false_eq_true, not_true_eq_false, or_self, if_false]
  generalize hq : State.regReq _ init blk op w = q
  generalize tblCmdWord _ op w = v
  unfold State.tblTake
  simp only [State.setReg_modes, h3, Option.isSome_none, Bool.false_eq_true, if_false]

/-- A table command that runs gives what its run gives, answered. -/
theorem State.tblExec_of_run (s : State) (q : TblReq) (r : State × TblAns) (h : s.advanceSweep.tblRun q = r) :
    s.tblExec q = r.1.showTables.tblAnswer q r.2 := by
  unfold State.tblExec
  simp only [h]

/-- What a register command asks: a table of Table 6-2, of the whole module. -/
theorem State.regReq_whole (s : State) (init blk : Nat) (hb : blk < 4) (op : Nat) (w : Word) :
    (s.regReq init blk op w).table ≤ 4 ∧ (s.regReq init blk op w).limited = false ∧ (s.regReq init blk op w).slice = none ∧
      (s.regReq init blk op w).op = op := by
  simp [State.regReq]; split <;> [omega; split <;> omega]

/-- A request of the whole module, for keys of this member, is decided by its operation. -/
theorem State.tblRun_whole (s : State) (q : TblReq) (v : Nat) (h1 : q.table ≤ 4) (h2 : q.limited = false) (h3 : q.slice = none)
    (hv : v = q.image % 2 ^ tblWidth q.table) (h4 : q.table = 3 → posValid 3 q.pos = true)
    (h5 : q.table = 4 → q.op ≤ 5 → s.fltForeign (imgKey 4 v) = false) : s.tblRun q = s.tblOp q v := by
  unfold State.tblRun
  simp only [h2, h3, ← hv]
  by_cases a : q.table = 3
  · simp [a, h4 a]
  · by_cases b : q.table = 4
    · have : 1 ≤ q.op ∧ q.op ≤ 5 → s.fltForeign (imgKey 4 v) = false := fun h => h5 b h.2
      by_cases c : q.op ≤ 5 <;> simp [b, c]
      intro h; rw [this ⟨h, c⟩]; simp
    · simp [a, b, Nat.not_lt.mpr h1]

/-- INSERT of an entry of its table's form that the guard lets pass (Table 5-6). -/
theorem State.tblRun_insert (u : State) (q : TblReq) (v : Nat) (h1 : q.table ≤ 4) (h2 : q.limited = false) (h3 : q.slice = none)
    (h4 : q.op = 1)
    (hv : v = q.image % 2 ^ tblWidth q.table) (h5 : q.table = 3 → posValid 3 q.pos = true)
    (h6 : q.table = 4 → u.fltForeign (imgKey 4 v) = false)
    (h7 : u.formeGuard (imgVis q.table v) (imgVf q.table v) q.expect = none) (h8 : imgVis q.table v ≠ 0)
    (h9 : imgFormatOk q.table v = true) :
    u.tblRun q = u.tblInsert q v := by
  rw [State.tblRun_whole u q v h1 h2 h3 hv h5 (fun g _ => h6 g)]
  unfold State.tblOp
  simp only [h4]
  unfold State.tblInsertOp
  simp [h7, h8, h9]

/-- DELETE of an entry that is there (Table 5-6). -/
theorem State.tblRun_delete (u : State) (q : TblReq) (v p : Nat) (h1 : q.table ≤ 4) (h2 : q.limited = false) (h3 : q.slice = none)
    (h4 : q.op = 2)
    (hv : v = q.image % 2 ^ tblWidth q.table) (h5 : q.table = 3 → posValid 3 q.pos = true)
    (h6 : q.table = 4 → u.fltForeign (imgKey 4 v) = false)
    (h7 : u.formeGuard (imgVis q.table v) (imgVf q.table v) q.expect = none)
    (hp : u.matchEntry q v = some p) :
    u.tblRun q = (u.writeEntry q.table p 0, ⟨stOk, some p, 0, none⟩) := by
  rw [State.tblRun_whole u q v h1 h2 h3 hv h5 (fun g _ => h6 g)]
  unfold State.tblOp
  simp only [h4]
  unfold State.tblDeleteOp
  simp only [h7, hp]

/-- MODIFY of an entry that is there (Table 5-6). -/
theorem State.tblRun_modify (u : State) (q : TblReq) (v p : Nat) (h1 : q.table ≤ 4) (h2 : q.limited = false) (h3 : q.slice = none)
    (h4 : q.op = 3)
    (hv : v = q.image % 2 ^ tblWidth q.table) (h5 : q.table = 3 → posValid 3 q.pos = true)
    (h6 : q.table = 4 → u.fltForeign (imgKey 4 v) = false)
    (h7 : u.formeGuard (imgVis q.table v) (imgVf q.table v) q.expect = none)
    (hp : u.matchEntry q v = some p) (h8 : imgFormatOk q.table v = true) :
    u.tblRun q = (u.tblModify q p v, ⟨stOk, some p, 0, none⟩) := by
  rw [State.tblRun_whole u q v h1 h2 h3 hv h5 (fun g _ => h6 g)]
  unfold State.tblOp
  simp only [h4]
  unfold State.tblModifyOp
  simp only [h7, hp, h8, if_true]

/-- LOOKUP (Table 5-6). -/
theorem State.tblRun_lookup (u : State) (q : TblReq) (v : Nat) (h1 : q.table ≤ 4) (h2 : q.limited = false) (h3 : q.slice = none)
    (h4 : q.op = 5)
    (hv : v = q.image % 2 ^ tblWidth q.table) (h5 : q.table = 3 → posValid 3 q.pos = true)
    (h6 : q.table = 4 → u.fltForeign (imgKey 4 v) = false) :
    u.tblRun q = (u, u.tblFind q v) := by
  rw [State.tblRun_whole u q v h1 h2 h3 hv h5 (fun g _ => h6 g)]
  unfold State.tblOp
  simp only [h4]

/-- READ_POS of a position without a parity error (Table 5-6). -/
theorem State.tblRun_readPos (u : State) (q : TblReq) (h1 : q.table ≤ 4) (h2 : q.limited = false) (h3 : q.slice = none)
    (h4 : q.op = 6) (h5 : q.table = 3 → posValid 3 q.pos = true)
    (h7 : posValid q.table q.pos = true) (h8 : u.posBad q.table q.pos = false) :
    u.tblRun q = (u, ⟨stOk, some q.pos, u.idleOf q.table q.pos, some (imgOf q.table (u.entry q.table q.pos))⟩) := by
  rw [State.tblRun_whole u q _ h1 h2 h3 rfl h5 (fun _ g => by omega)]
  unfold State.tblOp
  simp only [h4]
  unfold State.tblReadOp
  simp [h7, h8, TblReq.sees, h3]

/-- DELETE_POS (Table 5-6). -/
theorem State.tblRun_deletePos (u : State) (q : TblReq) (h1 : q.table ≤ 4) (h2 : q.limited = false) (h3 : q.slice = none)
    (h4 : q.op = 7) (h5 : q.table = 3 → posValid 3 q.pos = true)
    (h7 : posValid q.table q.pos = true) :
    u.tblRun q = (u.writeEntry q.table q.pos 0, ⟨stOk, some q.pos, 0, none⟩) := by
  rw [State.tblRun_whole u q _ h1 h2 h3 rfl h5 (fun _ g => by omega)]
  unfold State.tblOp
  simp only [h4]
  unfold State.tblEraseOp
  simp [h7, TblReq.sees, h3]

/-- RETAG of an entry that is there, to a visibility that leaves one and clashes with none (Table 5-6). -/
theorem State.tblRun_retag (u : State) (q : TblReq) (v p nv : Nat) (h1 : q.table ≤ 4) (h2 : q.limited = false) (h3 : q.slice = none)
    (h4 : q.op = 4) (hv : v = q.image % 2 ^ tblWidth q.table) (h5 : q.table = 3 → posValid 3 q.pos = true)
    (h6 : q.table = 4 → u.fltForeign (imgKey 4 v) = false) (h7 : u.formeGuard (imgVis q.table v) (imgVf q.table v) q.expect = none)
    (h8 : u.formeGuard q.newVis q.newVf q.expect = none) (hp : u.matchEntry q v = some p) (h9 : q.newVis ≠ 0)
    (hn : nv = u.settledVis q.newVis q.newVf) (h10 : nv ≠ 0)
    (h11 : q.table ≠ 3 → u.imgClash q.table (imgTag q.table (u.entry q.table p) nv q.newVf) q.pos (some p) = false) :
    u.tblRun q = (u.writeEntry q.table p (imgTag q.table (u.entry q.table p) nv q.newVf), ⟨stOk, some p, 0, none⟩) := by
  rw [State.tblRun_whole u q v h1 h2 h3 hv h5 (fun g _ => h6 g)]
  unfold State.tblOp
  simp only [h4]
  unfold State.tblRetagOp
  simp only [h7, h8, hp, ← hn, if_neg h9, if_neg h10]
  by_cases g : q.table = 3
  · simp [g]
  · simp [h11 g]

/-- An update command that is idle, allowed and out of DARKROOM does its own work (R476, R484). -/
theorem State.updOp_runs (s : State) (init op : Nat) (v : Word) (f : State → State) (pr : Bool) (t : State)
    (ht : t = s.updTaken init op v) (h1 : (s.blockAccess 3 .write init 0).2 = true) (h2 : t.flag UPD_CMD.busy = false)
    (h3 : t.updReason op pr = 0) (h4 : t.mode ≠ mDarkroom) : s.updOp init op v f pr = f t := by
  unfold State.updOp
  simp only [h1, Bool.not_true, Bool.false_eq_true, if_false, ← ht, h2, h3, h4, ne_eq, not_true_eq_false]

/-- An NVMe command of the queue and the operation, fetched and not held: its work, then what it lets run. -/
theorem State.onCmd_runs (s : State) (c sq op : Nat) (f : NvmeCtrl → NvmeCmd → State) (x : NvmeCtrl) (m : NvmeCmd)
    (h1 : s.ctrl? c = some x) (h2 : x.cmds.find? (fun k => k.sq == sq && k.st == .fetched) = some m) (h3 : m.op = op)
    (h4 : s.nveHeld = false) : s.onCmd c sq op f = .next (f x m).nvmeSettle := by
  unfold State.onCmd
  simp [h1, h2, h3, h4]

/-- A namespace command of firmware, taken: its work and its result (Table 11-2). -/
theorem State.nsCommand_runs (s : State) (init op : Nat) (ns : Fin 8192) (f : State → Nat × State) (u : State)
    (h1 : (s.blockAccess 19 .write init 0).2 = true) (h2 : (s.blockAccess 19 .write init 0).1.flag NVE_NS_CMD.busy = false)
    (h3 : init < 0x20) (hu : u = ((s.blockAccess 19 .write init 0).1.setF NVE_NS_CMD.op op).setF NVE_NS_CMD.ns ns.val) :
    s.nsCommand init op ns f = .next ((f u).2.setF NVE_NS_CMD.result (f u).1).nvmeSettle := by
  unfold State.nsCommand
  simp [h1, h2, h3, hu]

/-- A measurement command with go: its fields, its work and its result (R472). -/
theorem State.measOp_runs (s : State) (init op n : Nat) (f : State → State × Nat) (t : State)
    (h1 : (s.blockAccess 2 .write init 0x28).2 = true)
    (ht : t = ((s.blockAccess 2 .write init 0x28).1.setF BOOT_MEAS_CMD.op op).setF BOOT_MEAS_CMD.n n) :
    s.measOp init op n f = (f t).1.setF BOOT_MEAS_CMD.result (f t).2 := by
  unfold State.measOp
  simp [h1, ht]

/-- A cascade command of the master's firmware, idle: its work (Table 17-3). -/
theorem State.odfOp_runs (s : State) (init op : Nat) (f : State → State) (t : State)
    (h1 : (s.blockAccess 22 .write init 0x20).2 = true) (ht : t = (s.blockAccess 22 .write init 0x20).1.setF ODF_CMD.op op)
    (h2 : t.flag ODF_CMD.busy = false) (h3 : t.flag ODF_STATUS.master = true) (h4 : init ≤ 0x1F) :
    s.odfOp init op f = f t := by
  unfold State.odfOp
  simp [h1, ← ht, h2, h3, Nat.not_lt.mpr h4]

/-- A thread's request of the operation, first at its endpoint: taken, then its work. -/
theorem State.serve_runs (s : State) (c t ep op : Nat) (f : State → FReq → State) (r : FReq) (h1 : s.request? c t ep = some r)
    (h2 : r.op = op) : s.serve c t ep op f = .next (f (s.takeReq c r) r).settleCores := by
  unfold State.serve
  simp [h1, h2]

/-- A debug command on a core that runs: its work and its result (Table 8-9). -/
theorem State.dbgRun_runs (s : State) (init op : Nat) (core : Fin 128) (thread : Fin 8) (index : Nat)
    (f : State → FThread → State × Nat) (t : State) (h : s.dbgTake init op core thread index = (t, true))
    (h1 : t.coreLive core = true) :
    s.dbgRun init op core thread index f
      = .next ((f t ((t.core core).thread thread)).1.setF FCX_DBG_CMD.result (f t ((t.core core).thread thread)).2).settleCores := by
  unfold State.dbgRun
  simp [h, h1]

/-- A transport command, taken and permitted: its work. -/
theorem State.drtCommand_runs (s : State) (o : Origin) (op : Nat) (f : State → DrtArgs → State) (t : State) (a : DrtArgs)
    (h : s.drtTake o op = (t, some a)) (h1 : t.drtMay o op = true) : s.drtCommand o op f = .next (f t a) := by
  unfold State.drtCommand
  simp [h, h1]

/-- A key command, taken, with its slot free of descriptors that cannot run, and allowed: its work. -/
theorem State.keyCommand_runs (s : State) (o : Origin) (op slot kek : Nat) (f : State → KeyArgs → Res) (t u : State) (a : KeyArgs)
    (h : s.keyTake o op slot kek = (t, some a)) (h1 : t.slotWaits a.slot = false) (h2 : t.keyAllowed o op a = (u, true)) :
    s.keyCommand o op slot kek f = f u a := by
  unfold State.keyCommand
  simp [h, h1, h2]

/-- A power operation taken from PWR_HOST_CTL while none is in progress (R507). -/
theorem State.hostCtl_runs (s : State) (init v : Nat) (t : State) (h1 : (s.blockAccess 23 .write init 0x10).2 = true)
    (ht : t = (s.blockAccess 23 .write init 0x10).1.storeReg (fun _ => true) 23 0x10 .PWR_HOST_CTL 0 0 false false (BitVec.ofNat 64 v))
    (h2 : natBit v 31 = true) (h3 : t.flag PWR_HOST_CTL.busy = false) (h4 : t.hw.op = none) :
    s.hostCtl init v = t.startPower (t.getF PWR_HOST_CTL.op) := by
  unfold State.hostCtl
  simp [h1, ← ht, h2, h3, h4]

end Sys2Proof.Machine
end

