-- ==== Sys2Proof/WellFormed.lean ====
section
/-! DEFINITION. Which commands are well formed: an operand held as a number lies in the range that the spec gives its field. Operands
whose types already bound them need no check. What a sender may get wrong and the module answers is no matter of form: a
malformed image or frame is a well-formed command. -/

namespace Sys2Proof

/-- An initiator identifier has 12 bits (R355). -/
def initWf (i : Nat) : Bool := decide (i < 0x1000)

/-- A slice's global identifier has 14 bits (R340). -/
def sliceWf (g : Nat) : Bool := decide (g < 16384)

/-- A function is numbered as its initiator identifier is in Table 12-7: link, then PF or link-wide VF. -/
def fnWf (f : Nat) : Bool := decide (f < 0x1000)

/-- A ring number has 16 bits; the index of an entry 32 (R308). -/
def Origin.wf : Origin → Bool
  | .reg init => initWf init
  | .ring num idx _ => decide (num < 65536) && decide (idx < 2 ^ 32)

/-- Offsets lie in their windows and name 32-bit words (R519, Tables 10-4, 11-2, 19-2). -/
def Place.wf : Place → Bool
  | .window off => decide (off < 2 ^ 26) && decide (off % 4 = 0)
  | .fnWindow fn off => fnWf fn && decide (off < 65536) && decide (off % 4 = 0)
  | .tpg fn off => fnWf fn && decide (off < 32) && decide (off % 4 = 0)
  | .memory addr => decide (addr < 2 ^ 64)

/-- An MMIO request moves 1 to 4,096 bytes, and its data fit them. -/
def Mmio.wf (m : Mmio) : Bool :=
  fnWf m.fn && decide (m.bar < 6) && decide (1 ≤ m.size) && decide (m.size ≤ 4096)
    && m.write.all fun v => decide (v < 2 ^ (8 * m.size))

/-- The work of a host read names rings, queues and threads that exist (R300). -/
def ReadWork.wf : ReadWork → Bool
  | .fetch num => decide (num < 65536)
  | .indexLine cls num => decide (cls < 3) && decide (num < 65536)
  | .entry num idx => decide (num < 65536) && decide (idx < 2 ^ 32)
  | .message _ => true
  | .nvmeFetch c sq => decide (c < 1024) && decide (sq < 65536)
  | .nvme c sq cid => decide (c < 1024) && decide (sq < 65536) && decide (cid < 65536)
  | .thread core th fn => decide (core < 128) && decide (th < 8) && fnWf fn
  | .recovery fn => fnWf fn

/-- Configuration values fit their fields (R307, R299). -/
def CfgChange.wf : CfgChange → Bool
  | .memorySpace _ | .dState _ | .busMaster _ | .pasidEnable _ | .msixControl _ _ | .ltrEnable _ | .aspmL1 _ _ _ | .l0pEnable _
  | .ptmEnable _ => true
  | .vfEnable _ n => decide (n ≤ 512)
  | .msiControl _ n => decide (n ≤ 32)
  | .msiMask v => decide (v < 2 ^ 32)
  | .cplTimeout r => decide (r < 16)
  | .aerMask u c | .aerClear u c => decide (u < 2 ^ 32) && decide (c < 2 ^ 32)
  | .aerSeverity v => decide (v < 2 ^ 32)
  | .doe ds => ds.all fun d => decide (d < 2 ^ 32)
  | .read d => decide (d < 1024)

/-- An error event is of class A, S or M, its cause has 16 bits, and a slice it names exists as a number (R424). -/
def ErrEvent.wf (e : ErrEvent) : Bool := decide (e.cls < 3) && decide (e.cause < 65536) && e.slice.all sliceWf

/-- A defect's kind is one of Table 15-7, and its unit has 16 bits. -/
def Defect.wf (d : Defect) : Bool := decide (d.kind ≤ 6) && decide (d.unit < 65536)

/-- The places that a bad word names lie in their stores. -/
def BadWord.wf : BadWord → Bool
  | .rxFifo p | .txFifo p => decide (p < 8)
  | .outRec r => decide (r < 65536)
  | .inRec k => decide (k < 2 ^ 72)
  | .tomb k g => decide (k < 2 ^ 72) && g.all sliceWf
  | .region i => decide (i < 2 ^ 20)
  | .keySlot k _ => decide (k < 65536)
  | .ringContext cls num => decide (cls < 3) && decide (num < 65536)
  | .stashed num i => decide (num < 65536) && decide (i < 16)
  | .heldEvent num i => decide (num < 65536) && decide (i < 64)
  | .sliceRec g => sliceWf g
  | .rule t n => decide (t < 64) && decide (n < 32)
  | .nvmeCmd c sq cid => decide (c < 1024) && decide (sq < 65536) && decide (cid < 65536)
  | .nvmeQueue c => decide (c < 1024)
  | .nvmeNs n => decide (n < 8192)
  | .nvmeData _ => true

/-- A core's identifier, where firmware asks. -/
def FailBy.wf : FailBy → Bool
  | .firmware init => initWf init
  | .cascade => true

/-- A core's identifier, where firmware asks. -/
def OdfBy.wf : OdfBy → Bool
  | .reg init => initWf init
  | .master _ _ => true

/-- The fields of a frame on an Odfer link: member, queue, class and colour (R493). -/
def OdfFrame.wf (f : OdfFrame) : Bool :=
  decide (f.member < 4) && decide (f.queue < 131072) && decide (f.cls < 16) && decide (f.colour < 4)

/-- Is a command well formed? -/
def Instr.wellFormed : Instr → Bool
  | .registerWrite init place _ _ => initWf init && place.wf
  | .rcRead init place _ => initWf init && place.wf
  | .frameReceive _ _ _ _ _ => true
  | .frameEnd _ _ _ _ => true
  | .pipelineEntry _ _ _ => true
  | .fltLookupResult _ _ => true
  | .enqueue _ => true
  | .spillFetch q => decide (q < 131072)
  | .schedulerSelection _ noRoom _ _ => noRoom.all fun o => decide (o < 16)
  | .egressHandoff _ => true
  | .recirculate _ => true
  | .ageDrop => true
  | .pendingWriteRelease => true
  | .replicaWriteBack _ _ => true
  | .replicaRepair _ _ _ => true
  | .modeRequestGo init _ => initWf init
  | .claim o => o.wf
  | .release o => o.wf
  | .modeCommit => true
  | .hostPwrGoodChange _ => true
  | .standbyEntryDebounce => true
  | .standbyExitDebounce => true
  | .cascadeLinksSilent => true
  | .resetColdRequest init _ => initWf init
  | .resetWarmRequest init _ => initWf init
  | .resetDatapathRequest init _ => initWf init
  | .flushDone => true
  | .flushTimeout => true
  | .resetRelease => true
  | .dResetDone => true
  | .acFail => true
  | .acFailMramWindowEnd => true
  | .acRailsDown => true
  | .acFailClear => true
  | .acReturn => true
  | .reserveExhausted => true
  | .reserveFull => true
  | .tsvRateWrite init _ => initWf init
  | .tsvServoWrite init _ _ _ => initWf init
  | .tsvSlew init _ => initWf init
  | .tsvStep init _ => initWf init
  | .tsvSet init _ => initWf init
  | .setAtPps init _ => initWf init
  | .ppsInEdge _ _ => true
  | .ppsWindowMissed => true
  | .referenceQualified _ => true
  | .referenceDisqualified _ => true
  | .counterMismatch _ => true
  | .servoBeatTimeout => true
  | .uRefEvaluation _ => true
  | .replicaCheck _ _ => true
  | .replicaRealigned _ => true
  | .timeSnapshotPublish => true
  | .snapshotLatch init off _ => initWf init && (decide (off < 2 ^ 26) && decide (off % 4 = 0))
  | .ppsOutputEdge _ => true
  | .ptmDialogue _ _ _ => true
  | .ptmStale _ => true
  | .timePageEnable fn => fnWf fn
  | .timePageDisable fn => fnWf fn
  | .timePageWrite fn _ => fnWf fn
  | .islandReset init _ => initWf init
  | .formeOpen o => o.wf
  | .formeLoad o addr _ => o.wf && decide (addr < 2 ^ 64)
  | .formeLockUp o => o.wf
  | .lockUpCommit => true
  | .formeDiscard o => o.wf
  | .formeRetired => true
  | .settleSweepDone => true
  | .discardSweepDone => true
  | .tblInsert o _ _ _ => o.wf
  | .tblDelete o _ _ _ => o.wf
  | .tblModify o _ _ _ => o.wf
  | .tblRetag o _ _ _ => o.wf
  | .tblLookup o _ _ _ => o.wf
  | .tblReadPos o _ _ => o.wf
  | .tblDeletePos o _ _ => o.wf
  | .hashSeedWrite init _ _ _ _ => initWf init
  | .overflowPromotion _ _ => true
  | .agerPass _ => true
  | .emlLearnEvent => true
  | .fltLearnEvent => true
  | .holdSweep => true
  | .epochGo init => initWf init
  | .epochSwap => true
  | .policerWrite init _ => initWf init
  | .policerRead init _ => initWf init
  | .opticalModuleRemoved _ => true
  | .opticalModuleInserted _ _ => true
  | .linkUp _ => true
  | .linkDown _ => true
  | .frameLaunch _ => true
  | .impositionGo init _ => initWf init
  | .impositionCopyDone _ => true
  | .impositionSwap _ => true
  | .impositionEnable init _ _ _ _ => initWf init
  | .impositionCycleStart _ => true
  | .lpiEnter _ => true
  | .lpiWakeDone _ => true
  | .laneFault _ _ => true
  | .drtWrite num idx _ => decide (num < 65536) && decide (idx < 2 ^ 32)
  | .drtWriteImm num idx _ => decide (num < 65536) && decide (idx < 2 ^ 32)
  | .drtRead num idx _ => decide (num < 65536) && decide (idx < 2 ^ 32)
  | .drugrimPacketSend _ _ => true
  | .dataReceive _ _ => true
  | .readReqReceive _ _ => true
  | .readRespReceive _ _ => true
  | .ackReceive _ _ => true
  | .errorReceive _ _ => true
  | .ackTimer _ _ => true
  | .retransmitTimeout _ => true
  | .messageDeadline _ => true
  | .recordExpire _ _ => true
  | .notBeforeRelease _ _ => true
  | .heldTimeout _ _ => true
  | .tombstoneFree _ _ => true
  | .settleEnd => true
  | .epCreate o => o.wf
  | .epDestroy o => o.wf
  | .regionReg o => o.wf
  | .regionRevoke o => o.wf
  | .regionRead o => o.wf
  | .domainSet o => o.wf
  | .domainNext o => o.wf
  | .domainPromote o => o.wf
  | .domainDropPrev o => o.wf
  | .transportDisable init => initWf init
  | .encrypt _ _ => true
  | .decrypt _ _ => true
  | .derive _ _ => true
  | .cipherDispatch => true
  | .cipherResume => true
  | .cipherComplete => true
  | .descriptorPriorityRaise => true
  | .keyLoad o _ => o.wf
  | .keyUnwrap o _ _ => o.wf
  | .keyErase o _ => o.wf
  | .keyAttr o _ => o.wf
  | .keyQuery o _ => o.wf
  | .cphRngRead init _ _ => initWf init
  | .drbgReseed _ => true
  | .entropyFailure _ => true
  | .entropyRecovered => true
  | .cipherEntropyTimeout => true
  | .unitKnownAnswerTest _ _ => true
  | .mmioRequest m => m.wf
  | .perstAssert _ => true
  | .hotReset _ => true
  | .linkTrained _ _ _ _ _ => true
  | .flr fn => fnWf fn
  | .completionTimeout w => w.wf
  | .readFailure w _ => w.wf
  | .translationMismatch fn => fnWf fn
  | .interruptUnmask fn _ slice => fnWf fn && slice.all sliceWf
  | .l1Entry _ _ => true
  | .l0pWindow _ _ => true
  | .doorbell fn _ _ _ => fnWf fn
  | .indexLineRead cls num idx => decide (cls < 3) && decide (num < 65536) && decide (idx < 2 ^ 32)
  | .entryFetch num _ => decide (num < 65536)
  | .consumerIndexWrite num => decide (num < 65536)
  | .txEntry num idx _ => decide (num < 65536) && decide (idx < 2 ^ 32)
  | .hostRxDelivery _ => true
  | .stashRetry num idx => decide (num < 65536) && decide (idx < 2 ^ 32)
  | .moderationTimer cls num => decide (cls < 3) && decide (num < 65536)
  | .ringCreate fn => fnWf fn
  | .ringEnable fn => fnWf fn
  | .ringDisable fn => fnWf fn
  | .ringDrained num => decide (num < 65536)
  | .ringDestroy fn => fnWf fn
  | .ringQuery fn => fnWf fn
  | .ringModifyIrq fn => fnWf fn
  | .sliceCreate init slice => initWf init && sliceWf slice
  | .sliceStart init slice => initWf init && sliceWf slice
  | .sliceReset init slice => initWf init && sliceWf slice
  | .sliceDestroy init slice => initWf init && sliceWf slice
  | .sliceResize init slice => initWf init && sliceWf slice
  | .setWindow init slice => initWf init && sliceWf slice
  | .sliceQuery init slice => initWf init && sliceWf slice
  | .sliceBlockDrained slice _ _ => sliceWf slice
  | .sliceSilenceDone slice => sliceWf slice
  | .sliceResetEnd slice => sliceWf slice
  | .sliceRemovalDone slice => sliceWf slice
  | .actWrite init => initWf init
  | .actRead init => initWf init
  | .actSealWrite init _ _ => initWf init
  | .actLogPop init => initWf init
  | .controllerEnable _ _ => true
  | .controllerReset _ => true
  | .controllerResetTimeout _ => true
  | .normalShutdown _ => true
  | .abruptShutdown _ => true
  | .nvmeDoorbell _ _ _ _ _ => true
  | .deleteIoSubmissionQueue _ => true
  | .createIoSubmissionQueue _ => true
  | .getLogPage _ prps => prps.all fun a => decide (a < 2 ^ 64)
  | .deleteIoCompletionQueue _ => true
  | .createIoCompletionQueue _ => true
  | .nvmeIdentify _ prps => prps.all fun a => decide (a < 2 ^ 64)
  | .nvmeAbort _ => true
  | .asynchronousEventRequest _ => true
  | .setFeatures _ prps _ => prps.all fun a => decide (a < 2 ^ 64)
  | .getFeatures _ prps => prps.all fun a => decide (a < 2 ^ 64)
  | .firmwareImageDownload _ prps _ => prps.all fun a => decide (a < 2 ^ 64)
  | .firmwareCommit _ => true
  | .nvmeFlush _ _ => true
  | .nvmeWrite _ _ prps _ _ => prps.all fun a => decide (a < 2 ^ 64)
  | .nvmeRead _ _ prps _ => prps.all fun a => decide (a < 2 ^ 64)
  | .nvmeWriteZeroes _ _ _ => true
  | .backendReadDone _ => true
  | .destageDone _ => true
  | .destageRetry _ _ => true
  | .destageFailureWarning _ => true
  | .apstIdle _ => true
  | .smartCounterUpdate => true
  | .nsCreate init _ => initWf init
  | .nsDelete init _ => initWf init
  | .nsAttach init _ _ _ => initWf init
  | .nsDetach init _ => initWf init
  | .nsQuery init _ => initWf init
  | .clearFault init _ => initWf init
  | .channelOpen _ _ _ => true
  | .channelWrite _ _ _ => true
  | .channelCommit _ _ => true
  | .channelReceive _ _ _ => true
  | .packetDelivery _ => true
  | .coreTime _ _ => true
  | .coreTimer _ _ => true
  | .timerExpire _ => true
  | .startDone _ _ => true
  | .threadRestart _ _ => true
  | .threadStop _ _ => true
  | .readEvents _ _ => true
  | .pbfRead _ _ => true
  | .pbfWrite _ _ => true
  | .pbfInject _ _ => true
  | .pbfFree _ _ => true
  | .pbfAlloc _ _ => true
  | .memRead _ _ => true
  | .memWrite _ _ => true
  | .gmul _ _ _ _ => true
  | .xmul _ _ _ => true
  | .threadFault _ _ _ _ => true
  | .deadlock _ => true
  | .globalDeadlockSample => true
  | .threadHeld _ _ => true
  | .dbgStop init _ _ => initWf init
  | .dbgResume init _ _ => initWf init
  | .dbgStep init _ _ => initWf init
  | .dbgRead init _ _ _ => initWf init
  | .dbgWrite init _ _ _ => initWf init
  | .coreLoad init _ _ addr => initWf init && decide (addr < 2 ^ 64)
  | .resetCore init _ => initWf init
  | .coreLoadGroupDone _ => true
  | .startupTimeout _ => true
  | .faultEvent _ ev word row => ev.all ErrEvent.wf && word.all BadWord.wf && row.all Defect.wf
  | .correctedEvent _ ev => ev.all ErrEvent.wf
  | .faultAck init _ _ _ => initWf init
  | .prfSliceLift init _ => initWf init
  | .safelightFeed init _ => initWf init
  | .safelightFeedTimeout => true
  | .safelightBoundary => true
  | .clockDeviation => true
  | .patrolScrub _ _ _ unit row => decide (unit < 65536) && decide (row < 2 ^ 32)
  | .unitFailure _ unit => decide (unit < 65536)
  | .selfTest found _ => found.all Defect.wf
  | .selfTestFatalRetry => true
  | .repairLogRead init _ => initWf init
  | .errorInject init _ _ => initWf init
  | .romStart _ => true
  | .sourceWaitTimeout => true
  | .recGo fn _ => fnWf fn
  | .tftpImageWrite => true
  | .odferImageOffer _ => true
  | .imageReceived _ => true
  | .romHandover => true
  | .bootWatchdog => true
  | .bootDone init => initWf init
  | .bootFail by_ => by_.wf
  | .recoveryWindowClose => true
  | .darkroomRetry => true
  | .measRead init _ => initWf init
  | .measExtend init _ => initWf init
  | .measLogRead init _ => initWf init
  | .updOpen init _ => initWf init
  | .updWrite init _ => initWf init
  | .updClose init _ => initWf init
  | .updActivate init _ _ => initWf init
  | .activateCommit _ => true
  | .activateTimeout => true
  | .updPrefer init _ => initWf init
  | .updInvalidate init _ => initWf init
  | .revokeKey init _ => initWf init
  | .advanceSvn init _ => initWf init
  | .enrollOwner init _ => initWf init
  | .ownerLock init _ => initWf init
  | .ownerUnlock init _ => initWf init
  | .agreementRecordSend => true
  | .agreementRecordReceive _ _ _ _ _ _ => true
  | .odferLinkDown _ _ => true
  | .masterSilent => true
  | .memberSilent => true
  | .odfLockup by_ _ => by_.wf
  | .repartition by_ => by_.wf
  | .handback init => initWf init
  | .repartitionHoldExpire => true
  | .odferFrameReceive _ f => f.wf
  | .farLookupRequest _ _ _ _ _ => true
  | .farLookupResult _ _ _ _ => true
  | .farLookupTimeout _ => true
  | .memberWindowAccess init _ _ _ _ => initWf init
  | .memberAccessTimeout => true
  | .hostOn init _ => initWf init
  | .hostOff init _ => initWf init
  | .hostForceOff init _ => initWf init
  | .hostReset init _ => initWf init
  | .hostCycle init _ => initWf init
  | .hostAuxOff init _ => initWf init
  | .hostPowerOpEnd => true
  | .hostWake => true
  | .hostPowerPolicyApply => true
  | .thermalAlarm _ => true
  | .thermalAlarmClear _ => true
  | .thermalCritical _ => true
  | .thermalTrip _ => true
  | .thermalRestart _ => true
  | .psuFault => true
  | .mgmtFrameReceive _ _ => true
  | .mgmtTransmit init _ _ => initWf init
  | .opticalModuleFault _ => true
  | .configurationRequest fn c => fnWf fn && c.wf
  | .receivedTlpError _ _ fn hdr => fnWf fn && (hdr.length == 4 && hdr.all fun d => decide (d < 2 ^ 32))
  | .backendWriteDone _ => true
  | .temperatureThreshold _ _ => true
  | .hostEndpointRequest _ _ fn slice _ addr len _ _ => fnWf fn && slice.all sliceWf && decide (addr < 2 ^ 64) && decide (len < 2 ^ 32)
  | .mgmtLinkChange _ _ => true
  | .linkPartnerLpi _ _ => true
  | .redfishReset _ => true
  | .smbusTransaction _ _ _ => true

end Sys2Proof
end

