-- ==== Sys2Proof/Tests/Slice0.lean ====
section
/-! SUPPORT. Tests: an ill-formed command for each check of WellFormed, worked examples of the spec, and for each statement with
hypotheses a state and operands that meet them together. -/

namespace Sys2Proof.Tests

open Sys2Proof Sys2Proof.Machine

/-! ### Well-formedness -/

/-- Ill-formed commands, part 0: in each one operand lies just outside its range. -/
theorem test_ill_formed_0 : (([
    .registerWrite 0x1000 (.memory 0) false 0, .registerWrite 0 (.window (2 ^ 26)) false 0, .registerWrite 0 (.window 2) false 0,
    .registerWrite 0 (.fnWindow 0x1000 0) false 0, .registerWrite 0 (.fnWindow 0 65536) false 0,
    .registerWrite 0 (.fnWindow 0 2) false 0, .registerWrite 0 (.tpg 0x1000 0) false 0, .registerWrite 0 (.tpg 0 32) false 0,
    .registerWrite 0 (.tpg 0 2) false 0, .registerWrite 0 (.memory (2 ^ 64)) false 0, .rcRead 0x1000 (.memory 0) false,
    .rcRead 0 (.window (2 ^ 26)) false, .rcRead 0 (.window 2) false, .rcRead 0 (.fnWindow 0x1000 0) false,
    .rcRead 0 (.fnWindow 0 65536) false, .rcRead 0 (.fnWindow 0 2) false, .rcRead 0 (.tpg 0x1000 0) false,
    .rcRead 0 (.tpg 0 32) false, .rcRead 0 (.tpg 0 2) false, .rcRead 0 (.memory (2 ^ 64)) false, .spillFetch (131072),
    .schedulerSelection 0 [16] [] false, .modeRequestGo 0x1000 0, .claim (.reg 0x1000), .claim (.ring 65536 0 false),
    .claim (.ring 0 (2 ^ 32) false), .release (.reg 0x1000), .release (.ring 65536 0 false), .release (.ring 0 (2 ^ 32) false),
    .resetColdRequest 0x1000 0, .resetWarmRequest 0x1000 0, .resetDatapathRequest 0x1000 0, .tsvRateWrite 0x1000 0,
    .tsvServoWrite 0x1000 false false 0, .tsvSlew 0x1000 none, .tsvStep 0x1000 none, .tsvSet 0x1000 none, .setAtPps 0x1000 none,
    .snapshotLatch 0x1000 0 false, .snapshotLatch 0 (2 ^ 26) false] : List Instr).all fun c => !c.wellFormed) = true := by decide

/-- Ill-formed commands, part 1: in each one operand lies just outside its range. -/
theorem test_ill_formed_1 : (([
    .snapshotLatch 0 2 false, .timePageEnable 0x1000, .timePageDisable 0x1000, .timePageWrite 0x1000 none, .islandReset 0x1000 0,
    .formeOpen (.reg 0x1000), .formeOpen (.ring 65536 0 false), .formeOpen (.ring 0 (2 ^ 32) false),
    .formeLoad (.reg 0x1000) 0 [], .formeLoad (.ring 65536 0 false) 0 [], .formeLoad (.ring 0 (2 ^ 32) false) 0 [],
    .formeLoad (.reg 0) (2 ^ 64) [], .formeLockUp (.reg 0x1000), .formeLockUp (.ring 65536 0 false),
    .formeLockUp (.ring 0 (2 ^ 32) false), .formeDiscard (.reg 0x1000), .formeDiscard (.ring 65536 0 false),
    .formeDiscard (.ring 0 (2 ^ 32) false), .tblInsert (.reg 0x1000) 0 0 [], .tblInsert (.ring 65536 0 false) 0 0 [],
    .tblInsert (.ring 0 (2 ^ 32) false) 0 0 [], .tblDelete (.reg 0x1000) 0 0 [], .tblDelete (.ring 65536 0 false) 0 0 [],
    .tblDelete (.ring 0 (2 ^ 32) false) 0 0 [], .tblModify (.reg 0x1000) 0 0 [], .tblModify (.ring 65536 0 false) 0 0 [],
    .tblModify (.ring 0 (2 ^ 32) false) 0 0 [], .tblRetag (.reg 0x1000) 0 0 [], .tblRetag (.ring 65536 0 false) 0 0 [],
    .tblRetag (.ring 0 (2 ^ 32) false) 0 0 [], .tblLookup (.reg 0x1000) 0 0 [], .tblLookup (.ring 65536 0 false) 0 0 [],
    .tblLookup (.ring 0 (2 ^ 32) false) 0 0 [], .tblReadPos (.reg 0x1000) 0 0, .tblReadPos (.ring 65536 0 false) 0 0,
    .tblReadPos (.ring 0 (2 ^ 32) false) 0 0, .tblDeletePos (.reg 0x1000) 0 0, .tblDeletePos (.ring 65536 0 false) 0 0,
    .tblDeletePos (.ring 0 (2 ^ 32) false) 0 0, .hashSeedWrite 0x1000 false false false 0] : List Instr).all fun c => !c.wellFormed) = true := by decide

/-- Ill-formed commands, part 2: in each one operand lies just outside its range. -/
theorem test_ill_formed_2 : (([
    .epochGo 0x1000, .policerWrite 0x1000 0, .policerRead 0x1000 0, .impositionGo 0x1000 0,
    .impositionEnable 0x1000 0 false false 0, .drtWrite (65536) 0 [], .drtWrite 0 (2 ^ 32) [], .drtWriteImm (65536) 0 [],
    .drtWriteImm 0 (2 ^ 32) [], .drtRead (65536) 0 [], .drtRead 0 (2 ^ 32) [], .epCreate (.reg 0x1000),
    .epCreate (.ring 65536 0 false), .epCreate (.ring 0 (2 ^ 32) false), .epDestroy (.reg 0x1000),
    .epDestroy (.ring 65536 0 false), .epDestroy (.ring 0 (2 ^ 32) false), .regionReg (.reg 0x1000),
    .regionReg (.ring 65536 0 false), .regionReg (.ring 0 (2 ^ 32) false), .regionRevoke (.reg 0x1000),
    .regionRevoke (.ring 65536 0 false), .regionRevoke (.ring 0 (2 ^ 32) false), .regionRead (.reg 0x1000),
    .regionRead (.ring 65536 0 false), .regionRead (.ring 0 (2 ^ 32) false), .domainSet (.reg 0x1000),
    .domainSet (.ring 65536 0 false), .domainSet (.ring 0 (2 ^ 32) false), .domainNext (.reg 0x1000),
    .domainNext (.ring 65536 0 false), .domainNext (.ring 0 (2 ^ 32) false), .domainPromote (.reg 0x1000),
    .domainPromote (.ring 65536 0 false), .domainPromote (.ring 0 (2 ^ 32) false), .domainDropPrev (.reg 0x1000),
    .domainDropPrev (.ring 65536 0 false), .domainDropPrev (.ring 0 (2 ^ 32) false), .transportDisable 0x1000,
    .keyLoad (.reg 0x1000) 0] : List Instr).all fun c => !c.wellFormed) = true := by decide

/-- Ill-formed commands, part 3: in each one operand lies just outside its range. -/
theorem test_ill_formed_3 : (([
    .keyLoad (.ring 65536 0 false) 0, .keyLoad (.ring 0 (2 ^ 32) false) 0, .keyUnwrap (.reg 0x1000) 0 0,
    .keyUnwrap (.ring 65536 0 false) 0 0, .keyUnwrap (.ring 0 (2 ^ 32) false) 0 0, .keyErase (.reg 0x1000) 0,
    .keyErase (.ring 65536 0 false) 0, .keyErase (.ring 0 (2 ^ 32) false) 0, .keyAttr (.reg 0x1000) 0,
    .keyAttr (.ring 65536 0 false) 0, .keyAttr (.ring 0 (2 ^ 32) false) 0, .keyQuery (.reg 0x1000) 0,
    .keyQuery (.ring 65536 0 false) 0, .keyQuery (.ring 0 (2 ^ 32) false) 0, .cphRngRead 0x1000 false false,
    .mmioRequest ⟨0x1000, 0, 0, 4, none, false, []⟩, .mmioRequest ⟨0, 6, 0, 4, none, false, []⟩,
    .mmioRequest ⟨0, 0, 0, 0, none, false, []⟩, .mmioRequest ⟨0, 0, 0, 4097, none, false, []⟩,
    .mmioRequest ⟨0, 0, 0, 1, some 256, false, []⟩, .flr 0x1000, .completionTimeout (.fetch 65536),
    .completionTimeout (.indexLine 3 0), .completionTimeout (.indexLine 0 65536), .completionTimeout (.entry 65536 0),
    .completionTimeout (.entry 0 (2 ^ 32)), .completionTimeout (.nvmeFetch 1024 0), .completionTimeout (.nvmeFetch 0 65536),
    .completionTimeout (.nvme 1024 0 0), .completionTimeout (.nvme 0 65536 0), .completionTimeout (.nvme 0 0 65536),
    .completionTimeout (.thread 128 0 0), .completionTimeout (.thread 0 8 0), .completionTimeout (.thread 0 0 0x1000),
    .completionTimeout (.recovery 0x1000), .readFailure (.fetch 65536) .urCa, .readFailure (.indexLine 3 0) .urCa,
    .readFailure (.indexLine 0 65536) .urCa, .readFailure (.entry 65536 0) .urCa, .readFailure (.entry 0 (2 ^ 32)) .urCa] : List Instr).all fun c => !c.wellFormed) = true := by decide

/-- Ill-formed commands, part 4: in each one operand lies just outside its range. -/
theorem test_ill_formed_4 : (([
    .readFailure (.nvmeFetch 1024 0) .urCa, .readFailure (.nvmeFetch 0 65536) .urCa, .readFailure (.nvme 1024 0 0) .urCa,
    .readFailure (.nvme 0 65536 0) .urCa, .readFailure (.nvme 0 0 65536) .urCa, .readFailure (.thread 128 0 0) .urCa,
    .readFailure (.thread 0 8 0) .urCa, .readFailure (.thread 0 0 0x1000) .urCa, .readFailure (.recovery 0x1000) .urCa,
    .translationMismatch 0x1000, .interruptUnmask 0x1000 0 none, .interruptUnmask 0 0 (some 16384), .doorbell 0x1000 none 0 false,
    .indexLineRead (3) 0 0, .indexLineRead 0 (65536) 0, .indexLineRead 0 0 (2 ^ 32), .entryFetch (65536) [],
    .consumerIndexWrite (65536), .txEntry (65536) 0 [], .txEntry 0 (2 ^ 32) [], .stashRetry (65536) 0, .stashRetry 0 (2 ^ 32),
    .moderationTimer (3) 0, .moderationTimer 0 (65536), .ringCreate 0x1000, .ringEnable 0x1000, .ringDisable 0x1000,
    .ringDrained (65536), .ringDestroy 0x1000, .ringQuery 0x1000, .ringModifyIrq 0x1000, .sliceCreate 0x1000 0,
    .sliceCreate 0 16384, .sliceStart 0x1000 0, .sliceStart 0 16384, .sliceReset 0x1000 0, .sliceReset 0 16384,
    .sliceDestroy 0x1000 0, .sliceDestroy 0 16384, .sliceResize 0x1000 0] : List Instr).all fun c => !c.wellFormed) = true := by decide

/-- Ill-formed commands, part 5: in each one operand lies just outside its range. -/
theorem test_ill_formed_5 : (([
    .sliceResize 0 16384, .setWindow 0x1000 0, .setWindow 0 16384, .sliceQuery 0x1000 0, .sliceQuery 0 16384,
    .sliceBlockDrained 16384 0 false, .sliceSilenceDone 16384, .sliceResetEnd 16384, .sliceRemovalDone 16384, .actWrite 0x1000,
    .actRead 0x1000, .actSealWrite 0x1000 false 0, .actLogPop 0x1000, .getLogPage 0 [2 ^ 64], .nvmeIdentify 0 [2 ^ 64],
    .setFeatures 0 [2 ^ 64] [], .getFeatures 0 [2 ^ 64], .firmwareImageDownload 0 [2 ^ 64] [], .nvmeWrite 0 0 [2 ^ 64] [] [],
    .nvmeRead 0 0 [2 ^ 64] [], .nsCreate 0x1000 0, .nsDelete 0x1000 0, .nsAttach 0x1000 0 0 0, .nsDetach 0x1000 0,
    .nsQuery 0x1000 0, .clearFault 0x1000 0, .dbgStop 0x1000 0 0, .dbgResume 0x1000 0 0, .dbgStep 0x1000 0 0,
    .dbgRead 0x1000 0 0 0, .dbgWrite 0x1000 0 0 0, .coreLoad 0x1000 0 0 0, .coreLoad 0 0 0 (2 ^ 64), .resetCore 0x1000 0,
    .faultEvent 0 (some ⟨true, 3, 0, 0, none, 0⟩) none none, .faultEvent 0 (some ⟨true, 0, 65536, 0, none, 0⟩) none none,
    .faultEvent 0 (some ⟨true, 0, 0, 0, some 16384, 0⟩) none none, .faultEvent 0 none (some (.rxFifo 8)) none,
    .faultEvent 0 none (some (.txFifo 8)) none, .faultEvent 0 none (some (.outRec 65536)) none] : List Instr).all fun c => !c.wellFormed) = true := by decide

/-- Ill-formed commands, part 6: in each one operand lies just outside its range. -/
theorem test_ill_formed_6 : (([
    .faultEvent 0 none (some (.inRec (2 ^ 72))) none, .faultEvent 0 none (some (.tomb (2 ^ 72) none)) none,
    .faultEvent 0 none (some (.tomb 0 (some 16384))) none, .faultEvent 0 none (some (.region (2 ^ 20))) none,
    .faultEvent 0 none (some (.keySlot 65536 none)) none, .faultEvent 0 none (some (.ringContext 3 0)) none,
    .faultEvent 0 none (some (.ringContext 0 65536)) none, .faultEvent 0 none (some (.stashed 65536 0)) none,
    .faultEvent 0 none (some (.stashed 0 16)) none, .faultEvent 0 none (some (.heldEvent 65536 0)) none,
    .faultEvent 0 none (some (.heldEvent 0 64)) none, .faultEvent 0 none (some (.sliceRec 16384)) none,
    .faultEvent 0 none (some (.rule 64 0)) none, .faultEvent 0 none (some (.rule 0 32)) none,
    .faultEvent 0 none (some (.nvmeCmd 1024 0 0)) none, .faultEvent 0 none (some (.nvmeCmd 0 65536 0)) none,
    .faultEvent 0 none (some (.nvmeCmd 0 0 65536)) none, .faultEvent 0 none (some (.nvmeQueue 1024)) none,
    .faultEvent 0 none (some (.nvmeNs 8192)) none, .faultEvent 0 none none (some ⟨7, 0, 0⟩),
    .faultEvent 0 none none (some ⟨0, 65536, 0⟩), .correctedEvent 0 (some ⟨true, 3, 0, 0, none, 0⟩),
    .correctedEvent 0 (some ⟨true, 0, 65536, 0, none, 0⟩), .correctedEvent 0 (some ⟨true, 0, 0, 0, some 16384, 0⟩),
    .faultAck 0x1000 false false 0, .prfSliceLift 0x1000 0, .safelightFeed 0x1000 0, .patrolScrub 0 0 0 (65536) 0,
    .patrolScrub 0 0 0 0 (2 ^ 32), .unitFailure 0 (65536), .selfTest [⟨7, 0, 0⟩] false, .selfTest [⟨0, 65536, 0⟩] false,
    .repairLogRead 0x1000 0, .errorInject 0x1000 0 0, .recGo 0x1000 0, .bootDone 0x1000, .bootFail (.firmware 0x1000),
    .measRead 0x1000 0, .measExtend 0x1000 0, .measLogRead 0x1000 0] : List Instr).all fun c => !c.wellFormed) = true := by decide

/-- Ill-formed commands, part 7: in each one operand lies just outside its range. -/
theorem test_ill_formed_7 : (([
    .updOpen 0x1000 0, .updWrite 0x1000 0, .updClose 0x1000 0, .updActivate 0x1000 0 false, .updPrefer 0x1000 0,
    .updInvalidate 0x1000 0, .revokeKey 0x1000 0, .advanceSvn 0x1000 0, .enrollOwner 0x1000 0, .ownerLock 0x1000 0,
    .ownerUnlock 0x1000 0, .odfLockup (.reg 0x1000) 0, .repartition (.reg 0x1000), .handback 0x1000,
    .odferFrameReceive 0 ⟨4, 0, 0, 0, 0, false, none, none, [], 0⟩,
    .odferFrameReceive 0 ⟨0, 131072, 0, 0, 0, false, none, none, [], 0⟩,
    .odferFrameReceive 0 ⟨0, 0, 16, 0, 0, false, none, none, [], 0⟩,
    .odferFrameReceive 0 ⟨0, 0, 0, 4, 0, false, none, none, [], 0⟩, .memberWindowAccess 0x1000 0 false none none,
    .hostOn 0x1000 0, .hostOff 0x1000 0, .hostForceOff 0x1000 0, .hostReset 0x1000 0, .hostCycle 0x1000 0, .hostAuxOff 0x1000 0,
    .mgmtTransmit 0x1000 0 0, .configurationRequest 0x1000 (.memorySpace false), .configurationRequest 0 (.vfEnable true 513),
    .configurationRequest 0 (.msiControl true 33), .configurationRequest 0 (.msiMask (2 ^ 32)),
    .configurationRequest 0 (.cplTimeout 16), .configurationRequest 0 (.aerMask (2 ^ 32) 0),
    .configurationRequest 0 (.aerMask 0 (2 ^ 32)), .configurationRequest 0 (.aerClear (2 ^ 32) 0),
    .configurationRequest 0 (.aerClear 0 (2 ^ 32)), .configurationRequest 0 (.aerSeverity (2 ^ 32)),
    .configurationRequest 0 (.doe [2 ^ 32]), .configurationRequest 0 (.read 1024), .receivedTlpError 0 .receiverError 0x1000 [],
    .receivedTlpError 0 .receiverError 0 []] : List Instr).all fun c => !c.wellFormed) = true := by decide

/-- Ill-formed commands, part 8: in each one operand lies just outside its range. -/
theorem test_ill_formed_8 : (([
    .receivedTlpError 0 .receiverError 0 [2 ^ 32, 0, 0, 0], .hostEndpointRequest 0 0 0x1000 none false 0 0 0 [],
    .hostEndpointRequest 0 0 0 (some 16384) false 0 0 0 [], .hostEndpointRequest 0 0 0 none false (2 ^ 64) 0 0 [],
    .hostEndpointRequest 0 0 0 none false 0 (2 ^ 32) 0 []] : List Instr).all fun c => !c.wellFormed) = true := by decide

/-! ### Worked examples of the spec -/

/-- crc32c of the ASCII string "123456789" is 0xE306_9283 (spec/05, R127). -/
theorem test_crc32c : crc32c 0xFFFFFFFF [0x31, 0x32, 0x33, 0x34, 0x35, 0x36, 0x37, 0x38, 0x39] = 0xE3069283 := by decide +kernel

/-- The policer of R174's example: mode 0, colour-blind, cir 93,622, cbs 2,000 B, pir 187,245, pbs 4,000 B, buckets full. -/
def examplePolicer : PolSt :=
  ⟨BitVec.ofNat 64 (93622 * 2 ^ 36 + 2000 * 2 ^ 12), BitVec.ofNat 64 (187245 * 2 ^ 36 + 4000 * 2 ^ 12), 2000 * 2 ^ 20, 0, 4000 * 2 ^ 20, 0⟩

/-- Frames of 1,500 B 100 FCLK apart: green, yellow, red (R174). -/
theorem test_policer_colours :
    let a := examplePolicer.meter 1500 0 0
    let b := a.2.meter 1500 0 100
    let c := b.2.meter 1500 0 200
    (a.1, b.1, c.1) = (some 0, some 1, some 2) := by decide +kernel

/-- The same frames in mode 2: one passes, then two drop (R174). -/
theorem test_policer_mode_two :
    let p : PolSt := { examplePolicer with w0 := BitVec.ofNat 64 (93622 * 2 ^ 36 + 2000 * 2 ^ 12 + 2 * 2 ^ 10) }
    let a := p.meter 1500 0 0
    let b := a.2.meter 1500 0 100
    let c := b.2.meter 1500 0 200
    (a.1, b.1, c.1) = (some 0, none, none) := by decide +kernel

/-- No word spells a command, since the table gives no bits. -/
theorem test_decode_none : decodeTableWord 32 0 = none := by decide

/-- An empty queue lets a tick pass. -/
theorem test_idle : (match step State.reset with | .next t => t.now | _ => 0) = 1 := by decide +kernel


end Sys2Proof.Tests
end

section
/-! SUPPORT. The key under which a register is held names it, and what a reset's filter and the MRAM copies leave at a key (R2, R4). -/

namespace Sys2Proof.Machine

/-! ### What a filtered table and a table of copies list -/

/-- Below a sorted table's first key, and at it, the rest lists nothing. -/
theorem Tab.look_tail_eq_none {α : Type} {k : Nat} {v : α} {t : Tab α} (h : Tab.sorted ((k, v) :: t) = true) {q : Nat} (hq : q ≤ k) :
    Tab.look t q = none :=
  Tab.look_none_of_lt fun p hp => Nat.lt_of_le_of_lt hq (((Tab.sorted_cons k v t).1 h).1 p hp)

/-- A filter by key keeps what its keys list and nothing else. -/
theorem Tab.look_filter_key {α : Type} (t : Tab α) (f : Nat → Bool) (q : Nat) (h : Tab.sorted t = true) :
    Tab.look (t.filter fun p => f p.1) q = if f q then Tab.look t q else none := by
  induction t with
  | nil => simp
  | cons p t ih =>
    obtain ⟨k, v⟩ := p
    have ht := ((Tab.sorted_cons k v t).1 h).2
    by_cases hk : f k = true
    · simp only [List.filter_cons, hk, if_true, Tab.look, ih ht]
      by_cases hq : q = k
      · simp [hq, hk]
      · simp only [hq, if_false]
        split <;> simp
    · simp only [List.filter_cons, hk, Bool.false_eq_true, if_false, Tab.look, ih ht]
      by_cases hq : q = k
      · simp [hq, hk]
      · by_cases hlow : q < k
        · simp [hq, hlow, Tab.look_tail_eq_none h hlow.le]
        · simp [hq, hlow]

/-- Every pair of a table put into another: its own keys list its values, the others what they listed. -/
theorem Tab.look_foldl_put {α : Type} (l t : Tab α) (q : Nat) (h : Tab.sorted l = true) :
    Tab.look (l.foldl (fun u p => Tab.put u p.1 p.2) t) q = (Tab.look l q).or (Tab.look t q) := by
  induction l generalizing t with
  | nil => simp
  | cons p l ih =>
    obtain ⟨k, v⟩ := p
    rw [List.foldl_cons, ih _ ((Tab.sorted_cons k v l).1 h).2]
    by_cases hq : q = k
    · subst hq
      simp [Tab.look, Tab.look_tail_eq_none h le_rfl]
    · rw [Tab.look_put_other t v hq]
      by_cases hlow : q < k
      · simp [Tab.look, hq, hlow, Tab.look_tail_eq_none h hlow.le]
      · simp [Tab.look, hq, hlow]

/-- A key that no pair bears is not listed. -/
theorem Tab.look_eq_none {α : Type} {t : Tab α} {q : Nat} (h : ∀ p ∈ t, p.1 ≠ q) : Tab.look t q = none := by
  induction t with
  | nil => rfl
  | cons p t ih =>
    obtain ⟨hp, ht⟩ := List.forall_mem_cons.1 h
    simp [Tab.look, Ne.symm hp, ih ht]

/-! ### The key of a register -/

/-- The list of all registers holds each at its own index. -/
theorem allRegs_ctorIdx (r : Reg) : allRegs[r.ctorIdx]? = some r := by
  cases r <;> rfl

theorem Reg.key_div (r : Reg) {i j : Nat} (hi : i < 4096) (hj : j < 4096) : r.key i j / 16777216 = r.ctorIdx := by
  unfold Reg.key
  omega

/-- Indices below 4,096 leave the register readable from its key. -/
theorem Reg.key_reg_inj {q r : Reg} {x y i j : Nat} (hx : x < 4096) (hy : y < 4096) (hi : i < 4096) (hj : j < 4096)
    (h : q.key x y = r.key i j) : q = r := by
  have hidx : q.ctorIdx = r.ctorIdx := by rw [← q.key_div hx hy, h, r.key_div hi hj]
  have hsome : some q = some r := by rw [← allRegs_ctorIdx q, hidx, allRegs_ctorIdx r]
  exact Option.some.inj hsome

theorem keyResetBy_key (l : Rst) (r : Reg) {i j : Nat} (hi : i < 4096) (hj : j < 4096) :
    keyResetBy l (r.key i j) = r.row.resets.contains l := by
  unfold keyResetBy
  rw [r.key_div hi hj, allRegs_ctorIdx r]

/-! ### The registers after a reset -/

/-- After a reset a key that it reaches lists what the MRAM copies list, any other key what it listed (R2, R4). -/
theorem State.look_resetRegs (s : State) (l : Rst) (k : Nat) (hregs : Tab.sorted s.regs = true) (hmram : Tab.sorted s.mram = true) :
    Tab.look (s.resetRegs l).regs k = if keyResetBy l k then Tab.look s.mram k else Tab.look s.regs k := by
  unfold State.resetRegs
  simp only
  rw [Tab.look_foldl_put _ _ _ (Tab.sorted_filter _ _ hmram), Tab.look_filter_key s.mram (keyResetBy l) k hmram,
    Tab.look_filter_key s.regs (fun n => !keyResetBy l n) k hregs]
  cases keyResetBy l k <;> simp

/-- A register that is no M register has no MRAM copy, where only M registers have one. -/
theorem State.look_mram_eq_none (s : State) (r : Reg) {i j : Nat} (hi : i < 4096) (hj : j < 4096)
    (hcopies : ∀ p ∈ s.mram, ∃ (q : Reg) (x y : Nat), x < 4096 ∧ y < 4096 ∧ p.1 = q.key x y ∧ q.row.m = true)
    (hm : r.row.m = false) : Tab.look s.mram (r.key i j) = none := by
  refine Tab.look_eq_none fun p hp hkey => ?_
  obtain ⟨q, x, y, hx, hy, hq, hqm⟩ := hcopies p hp
  have hqr : q = r := Reg.key_reg_inj hx hy hi hj (hq.symm.trans hkey)
  simp [hqr, hm] at hqm

/-- Settles O14: the reset's filter and the copies decide what the register's key lists, and no copy is one of a register that is
no M register. -/
theorem resetLettersGovern : Obligations.ResetLettersGovern := by
  unfold Obligations.ResetLettersGovern
  intro l s r i j hi hj hregs hmram hcopies
  have hlook := s.look_resetRegs l (r.key i j) hregs hmram
  rw [keyResetBy_key l r hi hj] at hlook
  have hfuse : (s.resetRegs l).fuse = s.fuse := rfl
  unfold State.reg State.mramReg Tab.getD
  rw [hlook, hfuse]
  cases hl : r.row.resets.contains l with
  | false => simp only [Bool.false_eq_true, if_false]
  | true =>
    cases hm : r.row.m with
    | true => simp only [if_true]
    | false =>
      have hnone := s.look_mram_eq_none r hi hj hcopies hm
      simp only [if_true, Bool.false_eq_true, if_false, hnone, Option.getD_none]

end Sys2Proof.Machine
end

section
/-! SUPPORT. What register and memory accesses, member accesses, host requests and failing reads answer on the path that nothing
stops (R6, R9, R523, R296, R300). -/

namespace Sys2Proof.Machine

/-! ### Places -/

/-- Module memory from 0x04000000 on lies outside the management window. -/
theorem placeNormal_memory {a : Nat} (h : 0x04000000 ≤ a) : placeNormal (.memory a) = .memory a := by
  simp [placeNormal, Nat.not_lt.2 h]

@[simp] theorem placeNormal_window (a : Nat) : placeNormal (.window a) = .window a := rfl

/-! ### Writes and reads that reach their place -/

/-- A write that module memory takes stores the bytes. -/
theorem State.performWrite_memory (s : State) (init a : Nat) (wide : Bool) (v : Word) (c : State × Bool) (hm : s.masterReaches init = true)
    (ha : 0x04000000 ≤ a) (hc : c = s.memoryAccess .write init a (if wide then 8 else 4)) (h : c.2 = true) :
    s.performWrite init (.memory a) wide v = .next (c.1.setBytes a (leBytes (if wide then 8 else 4) v.toNat)) := by
  unfold State.performWrite
  simp [placeNormal_memory ha, hm, ← hc, h]

/-- A read that module memory takes returns the bytes. -/
theorem State.performRead_memory (s : State) (init a : Nat) (wide : Bool) (c : State × Bool) (hm : s.masterReaches init = true)
    (ha : 0x04000000 ≤ a) (hc : c = s.memoryAccess .read init a (if wide then 8 else 4)) (h : c.2 = true) :
    s.performRead init (.memory a) wide = (c.1, some (BitVec.ofNat 64 (leNat (c.1.bytes a (if wide then 8 else 4))))) := by
  unfold State.performRead
  simp [placeNormal_memory ha, hm, ← hc, h]

/-- TMG_AGE stores its fields, and its write starts nothing. -/
theorem State.performWrite_tmgAge (s : State) (init a : Nat) (wide : Bool) (v : Word) (i j : Nat) (upper : Bool) (c : State × Bool)
    (hm : s.masterReaches init = true) (hc : c = s.placeAccess .write init (.window a)) (h : c.2 = true)
    (hd : placeDoorbell init (.window a) = none) (hr : (placeReg init (.window a)).2 = some (.TMG_AGE, i, j, upper))
    (hw : widthOk .TMG_AGE wide upper = true) (hh : c.1.flag X_BLK_STATUS.d_hold (placeBlock init (.window a)).1 = false) :
    s.performWrite init (.window a) wide v
      = .next (c.1.storeReg c.1.portFifosEmpty (placeBlock init (.window a)).1 (placeBlock init (.window a)).2 .TMG_AGE i j wide upper
          (atHalf wide upper v)) := by
  have hown : ∀ w, c.1.ownWrite init (placeBlock init (.window a)).2 .TMG_AGE i wide upper w = none := fun _ => rfl
  have hafter : ∀ (t : State) w, c.1.afterStore t init .TMG_AGE i wide upper w = .next t := fun _ _ => rfl
  unfold State.performWrite
  simp [hm, ← hc, h, hd, hr, hw, hh, hown, hafter]

/-! ### The commands -/

/-- RC_READ answers what the read returns. -/
theorem execRcRead_of_performRead (init : Nat) (place : Place) (wide : Bool) (s t : State) (w : Word)
    (h : s.performRead init place wide = (t, some w)) : execRcRead init place wide s = .next (t.emit (.readData init w)) := by
  unfold execRcRead
  simp only [h]

/-- A core's access that a live member answers (R523). -/
theorem execMemberWindowAccess_reached (init : Nat) (off : BitVec 25) (wide : Bool) (write : Option Word) (v : Word) (s a : State)
    (hi : init < 0x020) (hr : s.memberReached init = true)
    (ha : a = s.emit (.memberAccess (s.getF MGT_MEMBER_SEL.member init) off.toNat wide (write.map fun w => (readPart w wide false).toNat))) :
    execMemberWindowAccess init off wide write (some v) s
      = .next (if write.isNone then a.emit (.readData init (readPart v wide false)) else a) := by
  unfold execMemberWindowAccess
  simp [Nat.not_le.2 hi, hr, ← ha]

/-- The oldest failed member access ends (R523). -/
theorem execMemberAccessTimeout_cons (s a b : State) (x : MemberAccess) (rest : List MemberAccess) (hx : s.odf.accesses = x :: rest)
    (ha : a = (s.draw 18).2.after (x.at_ + (s.draw 18).1 % (20 * usT + 1)))
    (hb : b = { a with odf := { a.odf with accesses := rest } }.setF MGT_MEMBER_SEL.error 1 x.core) :
    execMemberAccessTimeout s
      = .next (if x.read then b.emit (.readData x.core (readPart (BitVec.ofNat 64 (2 ^ 64 - 1)) x.wide false)) else b) := by
  unfold execMemberAccessTimeout
  simp only [hx, hb, ha]

/-- A plain read of a register place by a host answers what the read returns (R296). -/
theorem State.mmioPlace_read (s : State) (m : Mmio) (p : Place) (hw : m.write = none) (hp : mmioPlain m = true)
    (hs : m.size ≤ placeWidth m.fn p) :
    s.mmioPlace m p = .next ((s.performRead m.fn p (m.size == 8)).1.mmioAnswer m 0
      ((s.performRead m.fn p (m.size == 8)).2.getD 0).toNat) := by
  unfold State.mmioPlace
  simp [hw, hp, Nat.not_lt.2 hs]

/-- A request to a function whose BAR0 holds the management window, within the window (R295). -/
theorem execMmioRequest_window (m : Mmio) (s a : State) (x : FnSt) (hf : s.fn? m.fn = some x)
    (hh : s.flag HIF_LINK_STATUS.h_reset (s.fnEndpoint m.fn) = false) (ha : a = (s.touchFn m.fn).bump HIF_CNT.count (fnLink m.fn) 0)
    (hm : x.memorySpace = true) (hd : x.d3 = false) (hp : m.poisoned = false) (hb : m.bar = 0) (hx : a.bar0Window m.fn x = true)
    (ho : m.off < 0x02000000) : execMmioRequest m s = a.mmioPlace m (.window m.off) := by
  unfold execMmioRequest
  simp [hf, hh, ← ha, hm, hd, hp, hb, hx, ho]

/-- A failing read of a function, of work that there is: counted, logged where it has an AER bit, its work completed (R300). -/
theorem State.readFails_of_failWork (s t : State) (w : ReadWork) (st count : Nat) (bit : Option Nat) (hf : 0x800 ≤ s.workFn w)
    (ht : s.failWork w st = some t) :
    s.readFails w st count bit =
      let t1 := t.bump HIF_CNT.count (fnLink (s.workFn w)) count
      bit.elim t1 fun b => t1.aerUncorrectable (s.workFn w) b false [] := by
  unfold State.readFails
  simp only [Nat.not_lt.2 hf, if_false, ht]
  cases bit <;> rfl

/-- Settles O19: each command's clause is its lemma above, on the state that its access or its failing work leaves. -/
theorem completeAccesses : Obligations.CompleteAccesses := by
  unfold Obligations.CompleteAccesses
  refine ⟨?write, ?read, ?member, ?memberTimeout, ?mmio, ?timeout, ?failure⟩
  case write =>
    intro init a wide v s i j upper hm
    exact ⟨fun ha h => s.performWrite_memory init a wide v _ hm ha rfl h,
      fun h hd hr hw hh => s.performWrite_tmgAge init a wide v i j upper _ hm rfl h hd hr hw hh⟩
  case read =>
    intro init a wide s hm ha c h
    exact execRcRead_of_performRead init _ wide s _ _ (s.performRead_memory init a wide c hm ha rfl h)
  case member =>
    intro init off wide write v s hi hr a
    exact execMemberWindowAccess_reached init off wide write v s a hi hr rfl
  case memberTimeout =>
    intro s x rest hx d a b
    exact execMemberAccessTimeout_cons s a b x rest hx rfl rfl
  case mmio =>
    intro fn off size reads s x hf hh a hm hd hx ho _ m hp hs r
    exact (execMmioRequest_window m s a x hf hh rfl hm hd rfl rfl hx ho).trans (a.mmioPlace_read m _ rfl hp hs)
  case timeout =>
    intro w s t hf ht
    exact congrArg Host.Outcome.next (s.readFails_of_failWork t w stTimeout 4 (some aerCompletionTimeout) hf ht)
  case failure =>
    intro w s t hf
    exact ⟨fun ht => congrArg Host.Outcome.next (s.readFails_of_failWork t w stAccessViolation 5 none hf ht),
      fun ht => congrArg Host.Outcome.next (s.readFails_of_failWork t w stDegraded 6 (some aerPoisoned) hf ht),
      fun ht => congrArg Host.Outcome.next (s.readFails_of_failWork t w stDegraded 7 (some aerEcrc) hf ht)⟩

end Sys2Proof.Machine
end

section
/-! SUPPORT. Concrete states that meet the conditions of the statements on resets and accesses. -/

namespace Sys2Proof.Machine

/-! ### A reset -/

/-- A register that only a P reset reaches, one that a W reset reaches too, and an M register, each written once. -/
def writtenState : State := ((State.reset.setReg .TSV_RATE 3).setReg .TMG_AGE 700).setReg .MGT_START_CFG 5

/-- The three outcomes of a W reset (R2): what was written, the reset value, the MRAM copy. -/
theorem writtenState_resetRegs_w :
    (writtenState.resetRegs .w).reg .TSV_RATE = 3 ∧ (writtenState.resetRegs .w).reg .TMG_AGE = 10000 ∧
      (writtenState.resetRegs .w).reg .MGT_START_CFG = 5 := by
  have hmram : writtenState.mram = [(Reg.MGT_START_CFG.key 0 0, 5)] := by decide +kernel
  have hcopies : ∀ p ∈ writtenState.mram, ∃ (q : Reg) (x y : Nat), x < 4096 ∧ y < 4096 ∧ p.1 = q.key x y ∧ q.row.m = true := by
    simp only [hmram, List.mem_singleton, forall_eq]
    exact ⟨.MGT_START_CFG, 0, 0, by decide, by decide, rfl, rfl⟩
  have hreset (r : Reg) := resetLettersGovern .w writtenState r 0 0 (by decide) (by decide) (by decide +kernel) (by decide +kernel) hcopies
  rw [hreset .TSV_RATE, hreset .TMG_AGE, hreset .MGT_START_CFG]
  decide +kernel

/-! ### Accesses -/

/-- Firmware reaches the frame memory after reset, for a write and for a read. -/
theorem reset_memoryAccess : State.reset.masterReaches 0 = true ∧ (State.reset.memoryAccess .write 0 0x08000000 8).2 = true ∧
    (State.reset.memoryAccess .read 0 0x08000000 4).2 = true := by decide +kernel

/-- Firmware reaches TMG_AGE at its offset after reset. -/
theorem reset_placeAccess_tmgAge :
    let p := Place.window 0xD00040
    let c := State.reset.placeAccess .write 0 p
    c.2 = true ∧ placeDoorbell 0 p = none ∧ (placeReg 0 p).2 = some (.TMG_AGE, 0, 0, false) ∧ widthOk .TMG_AGE false false = true ∧
      c.1.flag X_BLK_STATUS.d_hold (placeBlock 0 p).1 = false := by decide +kernel

/-- The master of a cascade whose member 1 is live, selected by core 0. -/
def masterState : State :=
  (((State.reset.setF ODF_STATUS.active 1).setF ODF_STATUS.master 1).setF ODF_STATUS.live 2).setF MGT_MEMBER_SEL.member 1

theorem masterState_memberReached : masterState.memberReached 0 = true := by decide +kernel

/-- A function that holds the management window alone, with memory space enabled. -/
def windowFn : FnSt :=
  { personality := .mgmtOnly, pages := 0, msixEntries := 0, totalVfs := 0, vfPersonality := .mgmtOnly, vfMsix := 0, numVfs := 0
    vfEnable := false, memorySpace := true, busMaster := false, pasidEnable := false, d3 := false, msixEnable := false
    msixMask := false, msiEnable := false, msiCount := 0, msiMask := 0, msix := [], pendingVecs := [], cplTimeout := 0
    aerUncor := 0, aerCor := 0, aerUncorMask := 0, aerCorMask := 0, aerSeverity := 0, windows := [], doe := []
    needsReset := false }

/-- A host reads TMG_AGE through BAR0 of such a function. -/
theorem windowFn_mmioRequest :
    let s := State.reset.setFn 0x800 windowFn
    let a := (s.touchFn 0x800).bump HIF_CNT.count (fnLink 0x800) 0
    s.fn? 0x800 = some windowFn ∧ s.flag HIF_LINK_STATUS.h_reset (s.fnEndpoint 0x800) = false ∧
      a.bar0Window 0x800 windowFn = true ∧ placeDoorbell 0x800 (.window 0xD00040) = none ∧
      mmioPlain ⟨0x800, 0, 0xD00040, 4, none, false, []⟩ = true ∧ 4 ≤ placeWidth 0x800 (.window 0xD00040) := by decide +kernel

/-- A boot image that a host function is being read for. -/
def pushedState : State := State.reset.startTransfer .hostPush

/-- That read fails with each status of R300. -/
theorem pushedState_failWork (st : Nat) :
    0x800 ≤ pushedState.workFn (.recovery 0x800) ∧ (pushedState.failWork (.recovery 0x800) st).isSome = true := ⟨le_rfl, rfl⟩

end Sys2Proof.Machine
end

section
/-! SUPPORT. What any command can do, said once: a command keeps every part of the state but the time island, where it does not name it,
and the fuses, where it does not blow them. The mask is that of `Keeps`, by the bits of `Part.bit`. -/

namespace Sys2Proof.Machine

/-- Every part of the state, the time island (bit 6) and the fuses (bit 24) only where asked for. -/
def partsWith (island fuses : Bool) : Nat :=
  match island, fuses with
  | false, false => 0x0FFFFBF
  | true, false => 0x0FFFFFF
  | false, true => 0x1FFFFBF
  | true, true => 0x1FFFFFF

/-- The parts that a command may reach. -/
def partsReached (c : Instr) : Nat := partsWith (movesIsland c) (blowsFuses c)

theorem partsWith_island (fuses : Bool) : (partsWith false fuses).testBit Part.island.bit = false := by
  cases fuses <;> rfl

theorem partsWith_fuse (island : Bool) : (partsWith island false).testBit Part.fuse.bit = false := by
  cases island <;> rfl

/-- A mask lies within what a command may reach, judged by the two questions that are asked of the command. -/
theorem Sub.reached {a : Nat} {c : Instr} (island fuses : Bool) (hisland : movesIsland c = island) (hfuses : blowsFuses c = fuses)
    (h : a &&& partsWith island fuses = a) : Sub a (partsReached c) := by
  subst hisland hfuses
  exact h

/-- Every command answers a next state and keeps what it does not reach: the meanings' own laws, command by command. -/
theorem exec_keeps (c : Instr) (s : State) : KeepsR (partsReached c) s (exec c s) :=
  match c with
  | .registerWrite .. => execRegisterWrite_keeps (h := .rfl' _ s) (hm := .reached true true rfl rfl rfl) ..
  | .rcRead .. => execRcRead_keeps (h := .rfl' _ s) (hm := .reached false false rfl rfl rfl) ..
  | .frameReceive .. => execFrameReceive_keeps (h := .rfl' _ s) (hm := .reached false false rfl rfl rfl) ..
  | .frameEnd .. => execFrameEnd_keeps (h := .rfl' _ s) (hm := .reached false false rfl rfl rfl) ..
  | .pipelineEntry .. => execPipelineEntry_keeps (h := .rfl' _ s) (hm := .reached false false rfl rfl rfl) ..
  | .fltLookupResult .. => execFltLookupResult_keeps (h := .rfl' _ s) (hm := .reached false false rfl rfl rfl) ..
  | .enqueue .. => execEnqueue_keeps (h := .rfl' _ s) (hm := .reached false false rfl rfl rfl) ..
  | .spillFetch .. => execSpillFetch_keeps (h := .rfl' _ s) (hm := .reached false false rfl rfl rfl) ..
  | .schedulerSelection .. => execSchedulerSelection_keeps (h := .rfl' _ s) (hm := .reached false false rfl rfl rfl) ..
  | .egressHandoff .. => execEgressHandoff_keeps (h := .rfl' _ s) (hm := .reached false false rfl rfl rfl) ..
  | .recirculate .. => execRecirculate_keeps (h := .rfl' _ s) (hm := .reached false false rfl rfl rfl) ..
  | .ageDrop => execAgeDrop_keeps (h := .rfl' _ s) (hm := .reached false false rfl rfl rfl) ..
  | .pendingWriteRelease => execPendingWriteRelease_keeps (h := .rfl' _ s) (hm := .reached false false rfl rfl rfl) ..
  | .replicaWriteBack .. => execReplicaWriteBack_keeps (h := .rfl' _ s) (hm := .reached false false rfl rfl rfl) ..
  | .replicaRepair .. => execReplicaRepair_keeps (h := .rfl' _ s) (hm := .reached false false rfl rfl rfl) ..
  | .modeRequestGo .. => execModeRequestGo_keeps (h := .rfl' _ s) (hm := .reached false false rfl rfl rfl) ..
  | .claim .. => execClaim_keeps (h := .rfl' _ s) (hm := .reached false false rfl rfl rfl) ..
  | .release .. => execRelease_keeps (h := .rfl' _ s) (hm := .reached false false rfl rfl rfl) ..
  | .modeCommit => execModeCommit_keeps (h := .rfl' _ s) (hm := .reached false false rfl rfl rfl) ..
  | .hostPwrGoodChange .. => execHostPwrGoodChange_keeps (h := .rfl' _ s) (hm := .reached false false rfl rfl rfl) ..
  | .standbyEntryDebounce => execStandbyEntryDebounce_keeps (h := .rfl' _ s) (hm := .reached false false rfl rfl rfl) ..
  | .standbyExitDebounce => execStandbyExitDebounce_keeps (h := .rfl' _ s) (hm := .reached false false rfl rfl rfl) ..
  | .cascadeLinksSilent => execCascadeLinksSilent_keeps (h := .rfl' _ s) (hm := .reached false false rfl rfl rfl) ..
  | .resetColdRequest .. => execResetColdRequest_keeps (h := .rfl' _ s) (hm := .reached false false rfl rfl rfl) ..
  | .resetWarmRequest .. => execResetWarmRequest_keeps (h := .rfl' _ s) (hm := .reached false false rfl rfl rfl) ..
  | .resetDatapathRequest .. => execResetDatapathRequest_keeps (h := .rfl' _ s) (hm := .reached false false rfl rfl rfl) ..
  | .flushDone => execFlushDone_keeps (h := .rfl' _ s) (hm := .reached false false rfl rfl rfl) ..
  | .flushTimeout => execFlushTimeout_keeps (h := .rfl' _ s) (hm := .reached false false rfl rfl rfl) ..
  | .resetRelease => execResetRelease_keeps (h := .rfl' _ s) (hm := .reached false false rfl rfl rfl) ..
  | .dResetDone => execDResetDone_keeps (h := .rfl' _ s) (hm := .reached false false rfl rfl rfl) ..
  | .acFail => execAcFail_keeps (h := .rfl' _ s) (hm := .reached false false rfl rfl rfl) ..
  | .acFailMramWindowEnd => execAcFailMramWindowEnd_keeps (h := .rfl' _ s) (hm := .reached false false rfl rfl rfl) ..
  | .acRailsDown => execAcRailsDown_keeps (h := .rfl' _ s) (hm := .reached false false rfl rfl rfl) ..
  | .acFailClear => execAcFailClear_keeps (h := .rfl' _ s) (hm := .reached false false rfl rfl rfl) ..
  | .acReturn => execAcReturn_keeps (h := .rfl' _ s) (hm := .reached false false rfl rfl rfl) ..
  | .reserveExhausted => execReserveExhausted_keeps (h := .rfl' _ s) (hm := .reached true false rfl rfl rfl) ..
  | .reserveFull => execReserveFull_keeps (h := .rfl' _ s) (hm := .reached false false rfl rfl rfl) ..
  | .tsvRateWrite .. => execTsvRateWrite_keeps (h := .rfl' _ s) (hm := .reached true false rfl rfl rfl) ..
  | .tsvServoWrite .. => execTsvServoWrite_keeps (h := .rfl' _ s) (hm := .reached true false rfl rfl rfl) ..
  | .tsvSlew .. => execTsvSlew_keeps (h := .rfl' _ s) (hm := .reached true false rfl rfl rfl) ..
  | .tsvStep .. => execTsvStep_keeps (h := .rfl' _ s) (hm := .reached true false rfl rfl rfl) ..
  | .tsvSet .. => execTsvSet_keeps (h := .rfl' _ s) (hm := .reached true false rfl rfl rfl) ..
  | .setAtPps .. => execSetAtPps_keeps (h := .rfl' _ s) (hm := .reached true false rfl rfl rfl) ..
  | .ppsInEdge .. => execPpsInEdge_keeps (h := .rfl' _ s) (hm := .reached true false rfl rfl rfl) ..
  | .ppsWindowMissed => execPpsWindowMissed_keeps (h := .rfl' _ s) (hm := .reached true false rfl rfl rfl) ..
  | .referenceQualified .. => execReferenceQualified_keeps (h := .rfl' _ s) (hm := .reached true false rfl rfl rfl) ..
  | .referenceDisqualified .. => execReferenceDisqualified_keeps (h := .rfl' _ s) (hm := .reached true false rfl rfl rfl) ..
  | .counterMismatch .. => execCounterMismatch_keeps (h := .rfl' _ s) (hm := .reached true false rfl rfl rfl) ..
  | .servoBeatTimeout => execServoBeatTimeout_keeps (h := .rfl' _ s) (hm := .reached true false rfl rfl rfl) ..
  | .uRefEvaluation .. => execURefEvaluation_keeps (h := .rfl' _ s) (hm := .reached true false rfl rfl rfl) ..
  | .replicaCheck .. => execReplicaCheck_keeps (h := .rfl' _ s) (hm := .reached true false rfl rfl rfl) ..
  | .replicaRealigned .. => execReplicaRealigned_keeps (h := .rfl' _ s) (hm := .reached true false rfl rfl rfl) ..
  | .timeSnapshotPublish => execTimeSnapshotPublish_keeps (h := .rfl' _ s) (hm := .reached true false rfl rfl rfl) ..
  | .snapshotLatch .. => execSnapshotLatch_keeps (h := .rfl' _ s) (hm := .reached false false rfl rfl rfl) ..
  | .ppsOutputEdge .. => execPpsOutputEdge_keeps (h := .rfl' _ s) (hm := .reached true false rfl rfl rfl) ..
  | .ptmDialogue .. => execPtmDialogue_keeps (h := .rfl' _ s) (hm := .reached false false rfl rfl rfl) ..
  | .ptmStale .. => execPtmStale_keeps (h := .rfl' _ s) (hm := .reached false false rfl rfl rfl) ..
  | .timePageEnable .. => execTimePageEnable_keeps (h := .rfl' _ s) (hm := .reached false false rfl rfl rfl) ..
  | .timePageDisable .. => execTimePageDisable_keeps (h := .rfl' _ s) (hm := .reached false false rfl rfl rfl) ..
  | .timePageWrite .. => execTimePageWrite_keeps (h := .rfl' _ s) (hm := .reached false false rfl rfl rfl) ..
  | .islandReset .. => execIslandReset_keeps (h := .rfl' _ s) (hm := .reached true false rfl rfl rfl) ..
  | .formeOpen .. => execFormeOpen_keeps (h := .rfl' _ s) (hm := .reached false false rfl rfl rfl) ..
  | .formeLoad .. => execFormeLoad_keeps (h := .rfl' _ s) (hm := .reached false false rfl rfl rfl) ..
  | .formeLockUp .. => execFormeLockUp_keeps (h := .rfl' _ s) (hm := .reached false false rfl rfl rfl) ..
  | .lockUpCommit => execLockUpCommit_keeps (h := .rfl' _ s) (hm := .reached false false rfl rfl rfl) ..
  | .formeDiscard .. => execFormeDiscard_keeps (h := .rfl' _ s) (hm := .reached false false rfl rfl rfl) ..
  | .formeRetired => execFormeRetired_keeps (h := .rfl' _ s) (hm := .reached false false rfl rfl rfl) ..
  | .settleSweepDone => execSettleSweepDone_keeps (h := .rfl' _ s) (hm := .reached false false rfl rfl rfl) ..
  | .discardSweepDone => execDiscardSweepDone_keeps (h := .rfl' _ s) (hm := .reached false false rfl rfl rfl) ..
  | .tblInsert .. => execTblInsert_keeps (h := .rfl' _ s) (hm := .reached false false rfl rfl rfl) ..
  | .tblDelete .. => execTblDelete_keeps (h := .rfl' _ s) (hm := .reached false false rfl rfl rfl) ..
  | .tblModify .. => execTblModify_keeps (h := .rfl' _ s) (hm := .reached false false rfl rfl rfl) ..
  | .tblRetag .. => execTblRetag_keeps (h := .rfl' _ s) (hm := .reached false false rfl rfl rfl) ..
  | .tblLookup .. => execTblLookup_keeps (h := .rfl' _ s) (hm := .reached false false rfl rfl rfl) ..
  | .tblReadPos .. => execTblReadPos_keeps (h := .rfl' _ s) (hm := .reached false false rfl rfl rfl) ..
  | .tblDeletePos .. => execTblDeletePos_keeps (h := .rfl' _ s) (hm := .reached false false rfl rfl rfl) ..
  | .hashSeedWrite .. => execHashSeedWrite_keeps (h := .rfl' _ s) (hm := .reached false false rfl rfl rfl) ..
  | .overflowPromotion .. => execOverflowPromotion_keeps (h := .rfl' _ s) (hm := .reached false false rfl rfl rfl) ..
  | .agerPass .. => execAgerPass_keeps (h := .rfl' _ s) (hm := .reached false false rfl rfl rfl) ..
  | .emlLearnEvent => execEmlLearnEvent_keeps (h := .rfl' _ s) (hm := .reached false false rfl rfl rfl) ..
  | .fltLearnEvent => execFltLearnEvent_keeps (h := .rfl' _ s) (hm := .reached false false rfl rfl rfl) ..
  | .holdSweep => execHoldSweep_keeps (h := .rfl' _ s) (hm := .reached false false rfl rfl rfl) ..
  | .epochGo .. => execEpochGo_keeps (h := .rfl' _ s) (hm := .reached false false rfl rfl rfl) ..
  | .epochSwap => execEpochSwap_keeps (h := .rfl' _ s) (hm := .reached false false rfl rfl rfl) ..
  | .policerWrite .. => execPolicerWrite_keeps (h := .rfl' _ s) (hm := .reached false false rfl rfl rfl) ..
  | .policerRead .. => execPolicerRead_keeps (h := .rfl' _ s) (hm := .reached false false rfl rfl rfl) ..
  | .opticalModuleRemoved .. => execOpticalModuleRemoved_keeps (h := .rfl' _ s) (hm := .reached false false rfl rfl rfl) ..
  | .opticalModuleInserted .. => execOpticalModuleInserted_keeps (h := .rfl' _ s) (hm := .reached false false rfl rfl rfl) ..
  | .linkUp .. => execLinkUp_keeps (h := .rfl' _ s) (hm := .reached false false rfl rfl rfl) ..
  | .linkDown .. => execLinkDown_keeps (h := .rfl' _ s) (hm := .reached false false rfl rfl rfl) ..
  | .frameLaunch .. => execFrameLaunch_keeps (h := .rfl' _ s) (hm := .reached false false rfl rfl rfl) ..
  | .impositionGo .. => execImpositionGo_keeps (h := .rfl' _ s) (hm := .reached false false rfl rfl rfl) ..
  | .impositionCopyDone .. => execImpositionCopyDone_keeps (h := .rfl' _ s) (hm := .reached false false rfl rfl rfl) ..
  | .impositionSwap .. => execImpositionSwap_keeps (h := .rfl' _ s) (hm := .reached false false rfl rfl rfl) ..
  | .impositionEnable .. => execImpositionEnable_keeps (h := .rfl' _ s) (hm := .reached false false rfl rfl rfl) ..
  | .impositionCycleStart .. => execImpositionCycleStart_keeps (h := .rfl' _ s) (hm := .reached false false rfl rfl rfl) ..
  | .lpiEnter .. => execLpiEnter_keeps (h := .rfl' _ s) (hm := .reached false false rfl rfl rfl) ..
  | .lpiWakeDone .. => execLpiWakeDone_keeps (h := .rfl' _ s) (hm := .reached false false rfl rfl rfl) ..
  | .laneFault .. => execLaneFault_keeps (h := .rfl' _ s) (hm := .reached false false rfl rfl rfl) ..
  | .drtWrite .. => execDrtWrite_keeps (h := .rfl' _ s) (hm := .reached false false rfl rfl rfl) ..
  | .drtWriteImm .. => execDrtWriteImm_keeps (h := .rfl' _ s) (hm := .reached false false rfl rfl rfl) ..
  | .drtRead .. => execDrtRead_keeps (h := .rfl' _ s) (hm := .reached false false rfl rfl rfl) ..
  | .drugrimPacketSend .. => execDrugrimPacketSend_keeps (h := .rfl' _ s) (hm := .reached false false rfl rfl rfl) ..
  | .dataReceive .. => execDataReceive_keeps (h := .rfl' _ s) (hm := .reached false false rfl rfl rfl) ..
  | .readReqReceive .. => execReadReqReceive_keeps (h := .rfl' _ s) (hm := .reached false false rfl rfl rfl) ..
  | .readRespReceive .. => execReadRespReceive_keeps (h := .rfl' _ s) (hm := .reached false false rfl rfl rfl) ..
  | .ackReceive .. => execAckReceive_keeps (h := .rfl' _ s) (hm := .reached false false rfl rfl rfl) ..
  | .errorReceive .. => execErrorReceive_keeps (h := .rfl' _ s) (hm := .reached false false rfl rfl rfl) ..
  | .ackTimer .. => execAckTimer_keeps (h := .rfl' _ s) (hm := .reached false false rfl rfl rfl) ..
  | .retransmitTimeout .. => execRetransmitTimeout_keeps (h := .rfl' _ s) (hm := .reached false false rfl rfl rfl) ..
  | .messageDeadline .. => execMessageDeadline_keeps (h := .rfl' _ s) (hm := .reached false false rfl rfl rfl) ..
  | .recordExpire .. => execRecordExpire_keeps (h := .rfl' _ s) (hm := .reached false false rfl rfl rfl) ..
  | .notBeforeRelease .. => execNotBeforeRelease_keeps (h := .rfl' _ s) (hm := .reached false false rfl rfl rfl) ..
  | .heldTimeout .. => execHeldTimeout_keeps (h := .rfl' _ s) (hm := .reached false false rfl rfl rfl) ..
  | .tombstoneFree .. => execTombstoneFree_keeps (h := .rfl' _ s) (hm := .reached false false rfl rfl rfl) ..
  | .settleEnd => execSettleEnd_keeps (h := .rfl' _ s) (hm := .reached false false rfl rfl rfl) ..
  | .epCreate .. => execEpCreate_keeps (h := .rfl' _ s) (hm := .reached false false rfl rfl rfl) ..
  | .epDestroy .. => execEpDestroy_keeps (h := .rfl' _ s) (hm := .reached false false rfl rfl rfl) ..
  | .regionReg .. => execRegionReg_keeps (h := .rfl' _ s) (hm := .reached false false rfl rfl rfl) ..
  | .regionRevoke .. => execRegionRevoke_keeps (h := .rfl' _ s) (hm := .reached false false rfl rfl rfl) ..
  | .regionRead .. => execRegionRead_keeps (h := .rfl' _ s) (hm := .reached false false rfl rfl rfl) ..
  | .domainSet .. => execDomainSet_keeps (h := .rfl' _ s) (hm := .reached false false rfl rfl rfl) ..
  | .domainNext .. => execDomainNext_keeps (h := .rfl' _ s) (hm := .reached false false rfl rfl rfl) ..
  | .domainPromote .. => execDomainPromote_keeps (h := .rfl' _ s) (hm := .reached false false rfl rfl rfl) ..
  | .domainDropPrev .. => execDomainDropPrev_keeps (h := .rfl' _ s) (hm := .reached false false rfl rfl rfl) ..
  | .transportDisable .. => execTransportDisable_keeps (h := .rfl' _ s) (hm := .reached false false rfl rfl rfl) ..
  | .encrypt .. => execEncrypt_keeps (h := .rfl' _ s) (hm := .reached false false rfl rfl rfl) ..
  | .decrypt .. => execDecrypt_keeps (h := .rfl' _ s) (hm := .reached false false rfl rfl rfl) ..
  | .derive .. => execDerive_keeps (h := .rfl' _ s) (hm := .reached false false rfl rfl rfl) ..
  | .cipherDispatch => execCipherDispatch_keeps (h := .rfl' _ s) (hm := .reached false false rfl rfl rfl) ..
  | .cipherResume => execCipherResume_keeps (h := .rfl' _ s) (hm := .reached false false rfl rfl rfl) ..
  | .cipherComplete => execCipherComplete_keeps (h := .rfl' _ s) (hm := .reached false false rfl rfl rfl) ..
  | .descriptorPriorityRaise => execDescriptorPriorityRaise_keeps (h := .rfl' _ s) (hm := .reached false false rfl rfl rfl) ..
  | .keyLoad .. => execKeyLoad_keeps (h := .rfl' _ s) (hm := .reached false false rfl rfl rfl) ..
  | .keyUnwrap .. => execKeyUnwrap_keeps (h := .rfl' _ s) (hm := .reached false false rfl rfl rfl) ..
  | .keyErase .. => execKeyErase_keeps (h := .rfl' _ s) (hm := .reached false false rfl rfl rfl) ..
  | .keyAttr .. => execKeyAttr_keeps (h := .rfl' _ s) (hm := .reached false false rfl rfl rfl) ..
  | .keyQuery .. => execKeyQuery_keeps (h := .rfl' _ s) (hm := .reached false false rfl rfl rfl) ..
  | .cphRngRead .. => execCphRngRead_keeps (h := .rfl' _ s) (hm := .reached false false rfl rfl rfl) ..
  | .drbgReseed .. => execDrbgReseed_keeps (h := .rfl' _ s) (hm := .reached false false rfl rfl rfl) ..
  | .entropyFailure .. => execEntropyFailure_keeps (h := .rfl' _ s) (hm := .reached false false rfl rfl rfl) ..
  | .entropyRecovered => execEntropyRecovered_keeps (h := .rfl' _ s) (hm := .reached false false rfl rfl rfl) ..
  | .cipherEntropyTimeout => execCipherEntropyTimeout_keeps (h := .rfl' _ s) (hm := .reached false false rfl rfl rfl) ..
  | .unitKnownAnswerTest .. => execUnitKnownAnswerTest_keeps (h := .rfl' _ s) (hm := .reached false false rfl rfl rfl) ..
  | .mmioRequest .. => execMmioRequest_keeps (h := .rfl' _ s) (hm := .reached true true rfl rfl rfl) ..
  | .perstAssert .. => execPerstAssert_keeps (h := .rfl' _ s) (hm := .reached false false rfl rfl rfl) ..
  | .hotReset .. => execHotReset_keeps (h := .rfl' _ s) (hm := .reached false false rfl rfl rfl) ..
  | .linkTrained .. => execLinkTrained_keeps (h := .rfl' _ s) (hm := .reached false false rfl rfl rfl) ..
  | .flr .. => execFlr_keeps (h := .rfl' _ s) (hm := .reached false false rfl rfl rfl) ..
  | .completionTimeout .. => execCompletionTimeout_keeps (h := .rfl' _ s) (hm := .reached false false rfl rfl rfl) ..
  | .readFailure .. => execReadFailure_keeps (h := .rfl' _ s) (hm := .reached false false rfl rfl rfl) ..
  | .translationMismatch .. => execTranslationMismatch_keeps (h := .rfl' _ s) (hm := .reached false false rfl rfl rfl) ..
  | .interruptUnmask .. => execInterruptUnmask_keeps (h := .rfl' _ s) (hm := .reached false false rfl rfl rfl) ..
  | .l1Entry .. => execL1Entry_keeps (h := .rfl' _ s) (hm := .reached false false rfl rfl rfl) ..
  | .l0pWindow .. => execL0pWindow_keeps (h := .rfl' _ s) (hm := .reached false false rfl rfl rfl) ..
  | .doorbell .. => execDoorbell_keeps (h := .rfl' _ s) (hm := .reached false false rfl rfl rfl) ..
  | .indexLineRead .. => execIndexLineRead_keeps (h := .rfl' _ s) (hm := .reached false false rfl rfl rfl) ..
  | .entryFetch .. => execEntryFetch_keeps (h := .rfl' _ s) (hm := .reached false false rfl rfl rfl) ..
  | .consumerIndexWrite .. => execConsumerIndexWrite_keeps (h := .rfl' _ s) (hm := .reached false false rfl rfl rfl) ..
  | .txEntry .. => execTxEntry_keeps (h := .rfl' _ s) (hm := .reached false false rfl rfl rfl) ..
  | .hostRxDelivery .. => execHostRxDelivery_keeps (h := .rfl' _ s) (hm := .reached false false rfl rfl rfl) ..
  | .stashRetry .. => execStashRetry_keeps (h := .rfl' _ s) (hm := .reached false false rfl rfl rfl) ..
  | .moderationTimer .. => execModerationTimer_keeps (h := .rfl' _ s) (hm := .reached false false rfl rfl rfl) ..
  | .ringCreate .. => execRingCreate_keeps (h := .rfl' _ s) (hm := .reached false false rfl rfl rfl) ..
  | .ringEnable .. => execRingEnable_keeps (h := .rfl' _ s) (hm := .reached false false rfl rfl rfl) ..
  | .ringDisable .. => execRingDisable_keeps (h := .rfl' _ s) (hm := .reached false false rfl rfl rfl) ..
  | .ringDrained .. => execRingDrained_keeps (h := .rfl' _ s) (hm := .reached false false rfl rfl rfl) ..
  | .ringDestroy .. => execRingDestroy_keeps (h := .rfl' _ s) (hm := .reached false false rfl rfl rfl) ..
  | .ringQuery .. => execRingQuery_keeps (h := .rfl' _ s) (hm := .reached false false rfl rfl rfl) ..
  | .ringModifyIrq .. => execRingModifyIrq_keeps (h := .rfl' _ s) (hm := .reached false false rfl rfl rfl) ..
  | .sliceCreate .. => execSliceCreate_keeps (h := .rfl' _ s) (hm := .reached false false rfl rfl rfl) ..
  | .sliceStart .. => execSliceStart_keeps (h := .rfl' _ s) (hm := .reached false false rfl rfl rfl) ..
  | .sliceReset .. => execSliceReset_keeps (h := .rfl' _ s) (hm := .reached false false rfl rfl rfl) ..
  | .sliceDestroy .. => execSliceDestroy_keeps (h := .rfl' _ s) (hm := .reached false false rfl rfl rfl) ..
  | .sliceResize .. => execSliceResize_keeps (h := .rfl' _ s) (hm := .reached false false rfl rfl rfl) ..
  | .setWindow .. => execSetWindow_keeps (h := .rfl' _ s) (hm := .reached false false rfl rfl rfl) ..
  | .sliceQuery .. => execSliceQuery_keeps (h := .rfl' _ s) (hm := .reached false false rfl rfl rfl) ..
  | .sliceBlockDrained .. => execSliceBlockDrained_keeps (h := .rfl' _ s) (hm := .reached false false rfl rfl rfl) ..
  | .sliceSilenceDone .. => execSliceSilenceDone_keeps (h := .rfl' _ s) (hm := .reached false false rfl rfl rfl) ..
  | .sliceResetEnd .. => execSliceResetEnd_keeps (h := .rfl' _ s) (hm := .reached false false rfl rfl rfl) ..
  | .sliceRemovalDone .. => execSliceRemovalDone_keeps (h := .rfl' _ s) (hm := .reached false false rfl rfl rfl) ..
  | .actWrite .. => execActWrite_keeps (h := .rfl' _ s) (hm := .reached false false rfl rfl rfl) ..
  | .actRead .. => execActRead_keeps (h := .rfl' _ s) (hm := .reached false false rfl rfl rfl) ..
  | .actSealWrite .. => execActSealWrite_keeps (h := .rfl' _ s) (hm := .reached false false rfl rfl rfl) ..
  | .actLogPop .. => execActLogPop_keeps (h := .rfl' _ s) (hm := .reached false false rfl rfl rfl) ..
  | .controllerEnable .. => execControllerEnable_keeps (h := .rfl' _ s) (hm := .reached false false rfl rfl rfl) ..
  | .controllerReset .. => execControllerReset_keeps (h := .rfl' _ s) (hm := .reached false false rfl rfl rfl) ..
  | .controllerResetTimeout .. => execControllerResetTimeout_keeps (h := .rfl' _ s) (hm := .reached false false rfl rfl rfl) ..
  | .normalShutdown .. => execNormalShutdown_keeps (h := .rfl' _ s) (hm := .reached false false rfl rfl rfl) ..
  | .abruptShutdown .. => execAbruptShutdown_keeps (h := .rfl' _ s) (hm := .reached false false rfl rfl rfl) ..
  | .nvmeDoorbell .. => execNvmeDoorbell_keeps (h := .rfl' _ s) (hm := .reached false false rfl rfl rfl) ..
  | .deleteIoSubmissionQueue .. => execDeleteIoSubmissionQueue_keeps (h := .rfl' _ s) (hm := .reached false false rfl rfl rfl) ..
  | .createIoSubmissionQueue .. => execCreateIoSubmissionQueue_keeps (h := .rfl' _ s) (hm := .reached false false rfl rfl rfl) ..
  | .getLogPage .. => execGetLogPage_keeps (h := .rfl' _ s) (hm := .reached false false rfl rfl rfl) ..
  | .deleteIoCompletionQueue .. => execDeleteIoCompletionQueue_keeps (h := .rfl' _ s) (hm := .reached false false rfl rfl rfl) ..
  | .createIoCompletionQueue .. => execCreateIoCompletionQueue_keeps (h := .rfl' _ s) (hm := .reached false false rfl rfl rfl) ..
  | .nvmeIdentify .. => execNvmeIdentify_keeps (h := .rfl' _ s) (hm := .reached false false rfl rfl rfl) ..
  | .nvmeAbort .. => execNvmeAbort_keeps (h := .rfl' _ s) (hm := .reached false false rfl rfl rfl) ..
  | .asynchronousEventRequest .. => execAsynchronousEventRequest_keeps (h := .rfl' _ s) (hm := .reached false false rfl rfl rfl) ..
  | .setFeatures .. => execSetFeatures_keeps (h := .rfl' _ s) (hm := .reached false false rfl rfl rfl) ..
  | .getFeatures .. => execGetFeatures_keeps (h := .rfl' _ s) (hm := .reached false false rfl rfl rfl) ..
  | .firmwareImageDownload .. => execFirmwareImageDownload_keeps (h := .rfl' _ s) (hm := .reached false false rfl rfl rfl) ..
  | .firmwareCommit .. => execFirmwareCommit_keeps (h := .rfl' _ s) (hm := .reached false false rfl rfl rfl) ..
  | .nvmeFlush .. => execNvmeFlush_keeps (h := .rfl' _ s) (hm := .reached false false rfl rfl rfl) ..
  | .nvmeWrite .. => execNvmeWrite_keeps (h := .rfl' _ s) (hm := .reached false false rfl rfl rfl) ..
  | .nvmeRead .. => execNvmeRead_keeps (h := .rfl' _ s) (hm := .reached false false rfl rfl rfl) ..
  | .nvmeWriteZeroes .. => execNvmeWriteZeroes_keeps (h := .rfl' _ s) (hm := .reached false false rfl rfl rfl) ..
  | .backendReadDone .. => execBackendReadDone_keeps (h := .rfl' _ s) (hm := .reached false false rfl rfl rfl) ..
  | .destageDone .. => execDestageDone_keeps (h := .rfl' _ s) (hm := .reached false false rfl rfl rfl) ..
  | .destageRetry .. => execDestageRetry_keeps (h := .rfl' _ s) (hm := .reached false false rfl rfl rfl) ..
  | .destageFailureWarning .. => execDestageFailureWarning_keeps (h := .rfl' _ s) (hm := .reached false false rfl rfl rfl) ..
  | .apstIdle .. => execApstIdle_keeps (h := .rfl' _ s) (hm := .reached false false rfl rfl rfl) ..
  | .smartCounterUpdate => execSmartCounterUpdate_keeps (h := .rfl' _ s) (hm := .reached false false rfl rfl rfl) ..
  | .nsCreate .. => execNsCreate_keeps (h := .rfl' _ s) (hm := .reached false false rfl rfl rfl) ..
  | .nsDelete .. => execNsDelete_keeps (h := .rfl' _ s) (hm := .reached false false rfl rfl rfl) ..
  | .nsAttach .. => execNsAttach_keeps (h := .rfl' _ s) (hm := .reached false false rfl rfl rfl) ..
  | .nsDetach .. => execNsDetach_keeps (h := .rfl' _ s) (hm := .reached false false rfl rfl rfl) ..
  | .nsQuery .. => execNsQuery_keeps (h := .rfl' _ s) (hm := .reached false false rfl rfl rfl) ..
  | .clearFault .. => execClearFault_keeps (h := .rfl' _ s) (hm := .reached false false rfl rfl rfl) ..
  | .channelOpen .. => execChannelOpen_keeps (h := .rfl' _ s) (hm := .reached false false rfl rfl rfl) ..
  | .channelWrite .. => execChannelWrite_keeps (h := .rfl' _ s) (hm := .reached false false rfl rfl rfl) ..
  | .channelCommit .. => execChannelCommit_keeps (h := .rfl' _ s) (hm := .reached false false rfl rfl rfl) ..
  | .channelReceive .. => execChannelReceive_keeps (h := .rfl' _ s) (hm := .reached false false rfl rfl rfl) ..
  | .packetDelivery .. => execPacketDelivery_keeps (h := .rfl' _ s) (hm := .reached false false rfl rfl rfl) ..
  | .coreTime .. => execCoreTime_keeps (h := .rfl' _ s) (hm := .reached false false rfl rfl rfl) ..
  | .coreTimer .. => execCoreTimer_keeps (h := .rfl' _ s) (hm := .reached false false rfl rfl rfl) ..
  | .timerExpire .. => execTimerExpire_keeps (h := .rfl' _ s) (hm := .reached false false rfl rfl rfl) ..
  | .startDone .. => execStartDone_keeps (h := .rfl' _ s) (hm := .reached false false rfl rfl rfl) ..
  | .threadRestart .. => execThreadRestart_keeps (h := .rfl' _ s) (hm := .reached false false rfl rfl rfl) ..
  | .threadStop .. => execThreadStop_keeps (h := .rfl' _ s) (hm := .reached false false rfl rfl rfl) ..
  | .readEvents .. => execReadEvents_keeps (h := .rfl' _ s) (hm := .reached false false rfl rfl rfl) ..
  | .pbfRead .. => execPbfRead_keeps (h := .rfl' _ s) (hm := .reached false false rfl rfl rfl) ..
  | .pbfWrite .. => execPbfWrite_keeps (h := .rfl' _ s) (hm := .reached false false rfl rfl rfl) ..
  | .pbfInject .. => execPbfInject_keeps (h := .rfl' _ s) (hm := .reached false false rfl rfl rfl) ..
  | .pbfFree .. => execPbfFree_keeps (h := .rfl' _ s) (hm := .reached false false rfl rfl rfl) ..
  | .pbfAlloc .. => execPbfAlloc_keeps (h := .rfl' _ s) (hm := .reached false false rfl rfl rfl) ..
  | .memRead .. => execMemRead_keeps (h := .rfl' _ s) (hm := .reached false false rfl rfl rfl) ..
  | .memWrite .. => execMemWrite_keeps (h := .rfl' _ s) (hm := .reached false false rfl rfl rfl) ..
  | .gmul .. => execGmul_keeps (h := .rfl' _ s) (hm := .reached false false rfl rfl rfl) ..
  | .xmul .. => execXmul_keeps (h := .rfl' _ s) (hm := .reached false false rfl rfl rfl) ..
  | .threadFault .. => execThreadFault_keeps (h := .rfl' _ s) (hm := .reached false false rfl rfl rfl) ..
  | .deadlock .. => execDeadlock_keeps (h := .rfl' _ s) (hm := .reached false false rfl rfl rfl) ..
  | .globalDeadlockSample => execGlobalDeadlockSample_keeps (h := .rfl' _ s) (hm := .reached false false rfl rfl rfl) ..
  | .threadHeld .. => execThreadHeld_keeps (h := .rfl' _ s) (hm := .reached false false rfl rfl rfl) ..
  | .dbgStop .. => execDbgStop_keeps (h := .rfl' _ s) (hm := .reached false false rfl rfl rfl) ..
  | .dbgResume .. => execDbgResume_keeps (h := .rfl' _ s) (hm := .reached false false rfl rfl rfl) ..
  | .dbgStep .. => execDbgStep_keeps (h := .rfl' _ s) (hm := .reached false false rfl rfl rfl) ..
  | .dbgRead .. => execDbgRead_keeps (h := .rfl' _ s) (hm := .reached false false rfl rfl rfl) ..
  | .dbgWrite .. => execDbgWrite_keeps (h := .rfl' _ s) (hm := .reached false false rfl rfl rfl) ..
  | .coreLoad .. => execCoreLoad_keeps (h := .rfl' _ s) (hm := .reached false false rfl rfl rfl) ..
  | .resetCore .. => execResetCore_keeps (h := .rfl' _ s) (hm := .reached false false rfl rfl rfl) ..
  | .coreLoadGroupDone .. => execCoreLoadGroupDone_keeps (h := .rfl' _ s) (hm := .reached false false rfl rfl rfl) ..
  | .startupTimeout .. => execStartupTimeout_keeps (h := .rfl' _ s) (hm := .reached false false rfl rfl rfl) ..
  | .faultEvent .. => execFaultEvent_keeps (h := .rfl' _ s) (hm := .reached false false rfl rfl rfl) ..
  | .correctedEvent .. => execCorrectedEvent_keeps (h := .rfl' _ s) (hm := .reached false false rfl rfl rfl) ..
  | .faultAck .. => execFaultAck_keeps (h := .rfl' _ s) (hm := .reached false false rfl rfl rfl) ..
  | .prfSliceLift .. => execPrfSliceLift_keeps (h := .rfl' _ s) (hm := .reached false false rfl rfl rfl) ..
  | .safelightFeed .. => execSafelightFeed_keeps (h := .rfl' _ s) (hm := .reached false false rfl rfl rfl) ..
  | .safelightFeedTimeout => execSafelightFeedTimeout_keeps (h := .rfl' _ s) (hm := .reached false false rfl rfl rfl) ..
  | .safelightBoundary => execSafelightBoundary_keeps (h := .rfl' _ s) (hm := .reached false false rfl rfl rfl) ..
  | .clockDeviation => execClockDeviation_keeps (h := .rfl' _ s) (hm := .reached false false rfl rfl rfl) ..
  | .patrolScrub .. => execPatrolScrub_keeps (h := .rfl' _ s) (hm := .reached false false rfl rfl rfl) ..
  | .unitFailure .. => execUnitFailure_keeps (h := .rfl' _ s) (hm := .reached false false rfl rfl rfl) ..
  | .selfTest .. => execSelfTest_keeps (h := .rfl' _ s) (hm := .reached false false rfl rfl rfl) ..
  | .selfTestFatalRetry => execSelfTestFatalRetry_keeps (h := .rfl' _ s) (hm := .reached false false rfl rfl rfl) ..
  | .repairLogRead .. => execRepairLogRead_keeps (h := .rfl' _ s) (hm := .reached false false rfl rfl rfl) ..
  | .errorInject .. => execErrorInject_keeps (h := .rfl' _ s) (hm := .reached false false rfl rfl rfl) ..
  | .romStart .. => execRomStart_keeps (h := .rfl' _ s) (hm := .reached false false rfl rfl rfl) ..
  | .sourceWaitTimeout => execSourceWaitTimeout_keeps (h := .rfl' _ s) (hm := .reached false false rfl rfl rfl) ..
  | .recGo .. => execRecGo_keeps (h := .rfl' _ s) (hm := .reached false false rfl rfl rfl) ..
  | .tftpImageWrite => execTftpImageWrite_keeps (h := .rfl' _ s) (hm := .reached false false rfl rfl rfl) ..
  | .odferImageOffer .. => execOdferImageOffer_keeps (h := .rfl' _ s) (hm := .reached false false rfl rfl rfl) ..
  | .imageReceived .. => execImageReceived_keeps (h := .rfl' _ s) (hm := .reached false false rfl rfl rfl) ..
  | .romHandover => execRomHandover_keeps (h := .rfl' _ s) (hm := .reached false false rfl rfl rfl) ..
  | .bootWatchdog => execBootWatchdog_keeps (h := .rfl' _ s) (hm := .reached false false rfl rfl rfl) ..
  | .bootDone .. => execBootDone_keeps (h := .rfl' _ s) (hm := .reached false false rfl rfl rfl) ..
  | .bootFail .. => execBootFail_keeps (h := .rfl' _ s) (hm := .reached false false rfl rfl rfl) ..
  | .recoveryWindowClose => execRecoveryWindowClose_keeps (h := .rfl' _ s) (hm := .reached false false rfl rfl rfl) ..
  | .darkroomRetry => execDarkroomRetry_keeps (h := .rfl' _ s) (hm := .reached false false rfl rfl rfl) ..
  | .measRead .. => execMeasRead_keeps (h := .rfl' _ s) (hm := .reached false false rfl rfl rfl) ..
  | .measExtend .. => execMeasExtend_keeps (h := .rfl' _ s) (hm := .reached false false rfl rfl rfl) ..
  | .measLogRead .. => execMeasLogRead_keeps (h := .rfl' _ s) (hm := .reached false false rfl rfl rfl) ..
  | .updOpen .. => execUpdOpen_keeps (h := .rfl' _ s) (hm := .reached false false rfl rfl rfl) ..
  | .updWrite .. => execUpdWrite_keeps (h := .rfl' _ s) (hm := .reached false false rfl rfl rfl) ..
  | .updClose .. => execUpdClose_keeps (h := .rfl' _ s) (hm := .reached false false rfl rfl rfl) ..
  | .updActivate .. => execUpdActivate_keeps (h := .rfl' _ s) (hm := .reached false false rfl rfl rfl) ..
  | .activateCommit .. => execActivateCommit_keeps (h := .rfl' _ s) (hm := .reached false false rfl rfl rfl) ..
  | .activateTimeout => execActivateTimeout_keeps (h := .rfl' _ s) (hm := .reached false false rfl rfl rfl) ..
  | .updPrefer .. => execUpdPrefer_keeps (h := .rfl' _ s) (hm := .reached false false rfl rfl rfl) ..
  | .updInvalidate .. => execUpdInvalidate_keeps (h := .rfl' _ s) (hm := .reached false false rfl rfl rfl) ..
  | .revokeKey .. => execRevokeKey_keeps (h := .rfl' _ s) (hm := .reached false true rfl rfl rfl) ..
  | .advanceSvn .. => execAdvanceSvn_keeps (h := .rfl' _ s) (hm := .reached false true rfl rfl rfl) ..
  | .enrollOwner .. => execEnrollOwner_keeps (h := .rfl' _ s) (hm := .reached false false rfl rfl rfl) ..
  | .ownerLock .. => execOwnerLock_keeps (h := .rfl' _ s) (hm := .reached false false rfl rfl rfl) ..
  | .ownerUnlock .. => execOwnerUnlock_keeps (h := .rfl' _ s) (hm := .reached false false rfl rfl rfl) ..
  | .agreementRecordSend => execAgreementRecordSend_keeps (h := .rfl' _ s) (hm := .reached false false rfl rfl rfl) ..
  | .agreementRecordReceive .. => execAgreementRecordReceive_keeps (h := .rfl' _ s) (hm := .reached false false rfl rfl rfl) ..
  | .odferLinkDown .. => execOdferLinkDown_keeps (h := .rfl' _ s) (hm := .reached false false rfl rfl rfl) ..
  | .masterSilent => execMasterSilent_keeps (h := .rfl' _ s) (hm := .reached false false rfl rfl rfl) ..
  | .memberSilent => execMemberSilent_keeps (h := .rfl' _ s) (hm := .reached false false rfl rfl rfl) ..
  | .odfLockup .. => execOdfLockup_keeps (h := .rfl' _ s) (hm := .reached false false rfl rfl rfl) ..
  | .repartition .. => execRepartition_keeps (h := .rfl' _ s) (hm := .reached false false rfl rfl rfl) ..
  | .handback .. => execHandback_keeps (h := .rfl' _ s) (hm := .reached false false rfl rfl rfl) ..
  | .repartitionHoldExpire => execRepartitionHoldExpire_keeps (h := .rfl' _ s) (hm := .reached false false rfl rfl rfl) ..
  | .odferFrameReceive .. => execOdferFrameReceive_keeps (h := .rfl' _ s) (hm := .reached false false rfl rfl rfl) ..
  | .farLookupRequest .. => execFarLookupRequest_keeps (h := .rfl' _ s) (hm := .reached false false rfl rfl rfl) ..
  | .farLookupResult .. => execFarLookupResult_keeps (h := .rfl' _ s) (hm := .reached false false rfl rfl rfl) ..
  | .farLookupTimeout .. => execFarLookupTimeout_keeps (h := .rfl' _ s) (hm := .reached false false rfl rfl rfl) ..
  | .memberWindowAccess .. => execMemberWindowAccess_keeps (h := .rfl' _ s) (hm := .reached false false rfl rfl rfl) ..
  | .memberAccessTimeout => execMemberAccessTimeout_keeps (h := .rfl' _ s) (hm := .reached false false rfl rfl rfl) ..
  | .hostOn .. => execHostOn_keeps (h := .rfl' _ s) (hm := .reached false false rfl rfl rfl) ..
  | .hostOff .. => execHostOff_keeps (h := .rfl' _ s) (hm := .reached false false rfl rfl rfl) ..
  | .hostForceOff .. => execHostForceOff_keeps (h := .rfl' _ s) (hm := .reached false false rfl rfl rfl) ..
  | .hostReset .. => execHostReset_keeps (h := .rfl' _ s) (hm := .reached false false rfl rfl rfl) ..
  | .hostCycle .. => execHostCycle_keeps (h := .rfl' _ s) (hm := .reached false false rfl rfl rfl) ..
  | .hostAuxOff .. => execHostAuxOff_keeps (h := .rfl' _ s) (hm := .reached false false rfl rfl rfl) ..
  | .hostPowerOpEnd => execHostPowerOpEnd_keeps (h := .rfl' _ s) (hm := .reached false false rfl rfl rfl) ..
  | .hostWake => execHostWake_keeps (h := .rfl' _ s) (hm := .reached false false rfl rfl rfl) ..
  | .hostPowerPolicyApply => execHostPowerPolicyApply_keeps (h := .rfl' _ s) (hm := .reached false false rfl rfl rfl) ..
  | .thermalAlarm .. => execThermalAlarm_keeps (h := .rfl' _ s) (hm := .reached false false rfl rfl rfl) ..
  | .thermalAlarmClear .. => execThermalAlarmClear_keeps (h := .rfl' _ s) (hm := .reached false false rfl rfl rfl) ..
  | .thermalCritical .. => execThermalCritical_keeps (h := .rfl' _ s) (hm := .reached false false rfl rfl rfl) ..
  | .thermalTrip .. => execThermalTrip_keeps (h := .rfl' _ s) (hm := .reached false false rfl rfl rfl) ..
  | .thermalRestart .. => execThermalRestart_keeps (h := .rfl' _ s) (hm := .reached false false rfl rfl rfl) ..
  | .psuFault => execPsuFault_keeps (h := .rfl' _ s) (hm := .reached false false rfl rfl rfl) ..
  | .mgmtFrameReceive .. => execMgmtFrameReceive_keeps (h := .rfl' _ s) (hm := .reached false false rfl rfl rfl) ..
  | .mgmtTransmit .. => execMgmtTransmit_keeps (h := .rfl' _ s) (hm := .reached false false rfl rfl rfl) ..
  | .opticalModuleFault .. => execOpticalModuleFault_keeps (h := .rfl' _ s) (hm := .reached false false rfl rfl rfl) ..
  | .configurationRequest .. => execConfigurationRequest_keeps (h := .rfl' _ s) (hm := .reached false false rfl rfl rfl) ..
  | .receivedTlpError .. => execReceivedTlpError_keeps (h := .rfl' _ s) (hm := .reached false false rfl rfl rfl) ..
  | .backendWriteDone .. => execBackendWriteDone_keeps (h := .rfl' _ s) (hm := .reached false false rfl rfl rfl) ..
  | .temperatureThreshold .. => execTemperatureThreshold_keeps (h := .rfl' _ s) (hm := .reached false false rfl rfl rfl) ..
  | .hostEndpointRequest .. => execHostEndpointRequest_keeps (h := .rfl' _ s) (hm := .reached false false rfl rfl rfl) ..
  | .mgmtLinkChange .. => execMgmtLinkChange_keeps (h := .rfl' _ s) (hm := .reached false false rfl rfl rfl) ..
  | .linkPartnerLpi .. => execLinkPartnerLpi_keeps (h := .rfl' _ s) (hm := .reached false false rfl rfl rfl) ..
  | .redfishReset .. => execRedfishReset_keeps (h := .rfl' _ s) (hm := .reached false false rfl rfl rfl) ..
  | .smbusTransaction .. => execSmbusTransaction_keeps (h := .rfl' _ s) (hm := .reached false false rfl rfl rfl) ..

/-- What a command that answered a next state has kept. -/
theorem Keeps.of_exec {c : Instr} {s t : State} (h : exec c s = .next t) : Keeps (partsReached c) s t := by
  have hkeeps := exec_keeps c s
  rw [h] at hkeeps
  exact hkeeps

/-- A command that does not name the time island leaves it alone. -/
theorem exec_island_eq {c : Instr} {s t : State} (h : exec c s = .next t) (hisland : movesIsland c = false) : t.island = s.island := by
  refine (Keeps.of_exec h).island ?_
  rw [partsReached, hisland]
  exact partsWith_island (blowsFuses c)

/-- A command that does not blow fuses leaves them alone. -/
theorem exec_fuse_eq {c : Instr} {s t : State} (h : exec c s = .next t) (hfuses : blowsFuses c = false) : t.fuse = s.fuse := by
  refine (Keeps.of_exec h).fuse ?_
  rw [partsReached, hfuses]
  exact partsWith_fuse (movesIsland c)

/-- Settles O8: no meaning of a command that does not name the time island reaches it (R68). -/
theorem islandKeptByAllElse : Obligations.IslandKeptByAllElse := by
  unfold Obligations.IslandKeptByAllElse
  intro c s t hexec hisland
  exact exec_island_eq hexec hisland

end Sys2Proof.Machine
end

section
/-! SUPPORT. The reset that a write of PWR_RESET_CTRL names, and how it starts (R62, R63). -/

namespace Sys2Proof.Machine

/-- The widest reset that a value of PWR_RESET_CTRL names, with its cause bit (R63). -/
def namedReset (v : Nat) : Option (RstKind × Nat) :=
  if natBit v 1 then some (.c, 3) else if natBit v 2 then some (.w, 4) else if natBit v 3 then some (.d, 8) else none

theorem namedReset_cold {v : Nat} (hcold : natBit v 1 = true) : namedReset v = some (.c, 3) := by
  simp [namedReset, hcold]

theorem namedReset_warm {v : Nat} (hcold : natBit v 1 = false) (hwarm : natBit v 2 = true) : namedReset v = some (.w, 4) := by
  simp [namedReset, hcold, hwarm]

theorem namedReset_datapath {v : Nat} (hcold : natBit v 1 = false) (hwarm : natBit v 2 = false) (hdata : natBit v 3 = true) :
    namedReset v = some (.d, 8) := by
  simp [namedReset, hcold, hwarm, hdata]

/-- A requested reset starts: its flush does where flush_first asks for one, the reset itself otherwise (R62). -/
def State.startReset (s : State) (flushFirst : Bool) (k : RstKind) (causeBit : Nat) : State :=
  let f := s.setF PWR_RESET_CTRL.flushing 1
  if flushFirst then { f with modes := { f.modes with flush := some ⟨k, some causeBit, f.now⟩ } } else s.beginReset k (some causeBit)

@[simp] theorem State.startReset_false (s : State) (k : RstKind) (causeBit : Nat) :
    s.startReset false k causeBit = s.beginReset k (some causeBit) := rfl

/-- A write that reaches PWR_RESET_CTRL with the key while no flush runs starts the reset that it names (R62, R63). -/
theorem State.resetRequest_named (s : State) (init v : Nat) (k : RstKind) (causeBit : Nat)
    (haccess : (s.blockAccess 23 .write init 0x40).2 = true) (hidle : s.flag PWR_RESET_CTRL.flushing = false)
    (hkey : v / 2 ^ 16 % 2 ^ 16 = 0xA5C3) (hnamed : namedReset v = some (k, causeBit)) :
    s.resetRequest init v =
      ((s.blockAccess 23 .write init 0x40).1.setF PWR_RESET_CTRL.flush_first (v % 2)).startReset (natBit v 0) k causeBit := by
  unfold namedReset at hnamed
  unfold State.resetRequest State.startReset
  simp only [haccess, hidle, hkey, hnamed, Bool.not_true, Bool.false_eq_true, if_false, ne_eq, not_true_eq_false]

/-- Settles O12: the reset that the write names is the widest of those it asks for (R63). -/
theorem widestResetWins : Obligations.WidestResetWins := by
  unfold Obligations.WidestResetWins
  intro init v s a haccess hidle hkey b f begun
  have hstart {k : RstKind} {c : Nat} (hnamed : namedReset v.toNat = some (k, c)) : s.resetRequest init v.toNat = begun k c :=
    s.resetRequest_named init v.toNat k c haccess hidle (by omega) hnamed
  refine ⟨?cold, ?warm, ?datapath⟩
  case cold =>
    intro hcold
    exact congrArg Host.Outcome.next (hstart (namedReset_cold hcold))
  case warm =>
    intro hcold hwarm
    exact congrArg Host.Outcome.next (hstart (namedReset_warm hcold hwarm))
  case datapath =>
    intro hcold hwarm hdata
    exact congrArg Host.Outcome.next (hstart (namedReset_datapath hcold hwarm hdata))

end Sys2Proof.Machine
end

section
/-! SUPPORT. What mode requests, host power presence and resets answer on the path that nothing stops (R46, R49-R51, R59, R60, R62). -/

namespace Sys2Proof.Machine

/-! ### Mode requests -/

/-- A firmware request that Table 2-2 lists: the exit from TEST is a C reset, that from SAFE_HOLD begins with a D reset (R51). -/
theorem State.modeGo_listed (s b c : State) (init target : Nat) (haccess : (s.blockAccess 24 .write init 0x100).2 = true)
    (hb : b = (s.blockAccess 24 .write init 0x100).1.setF MGT_MODE_REQ.target target) (hidle : b.flag MGT_MODE_REQ.busy = false)
    (hc : c = b.setF MGT_MODE_REQ.source_mode b.mode) (hbooted : c.booted = true) (hlisted : c.firmwareChangeOk target = true) :
    s.modeGo init target =
      if c.mode = mTest then c.beginReset .c (some 3)
      else if c.mode = mSafeHold then (c.beginMode .safeHoldExit target).beginReset .d (some 8)
      else c.beginMode .firmware target := by
  unfold State.modeGo
  simp only [haccess, ← hb, hidle, ← hc, hbooted, hlisted, Bool.not_true, Bool.or_self, Bool.false_eq_true, if_false]

/-- MODE_REQUEST_GO runs at once while the control plane does not pause. -/
theorem execModeRequestGo_unpaused (init : Nat) (target : Fin 8) (s : State) (h : s.controlPaused = false) :
    execModeRequestGo init target s = .next (s.modeGo init target.val) := by
  simp [execModeRequestGo, h]

/-- CLAIM through its ring, after boot and with no request in progress, is decided by the mode (R46, R47). -/
theorem execClaim_ready (o : Origin) (s : State) (hpause : s.controlPaused = false) (hring : s.claimRing o = true)
    (hidle : s.flag MGT_MODE_REQ.busy = false) (hbooted : s.booted = true) :
    execClaim o s = .next
      (if s.mode = mManaged then s.answerMode (.claim o) stOk
       else if s.mode = mStandalone then s.beginMode (.claim o) mManaged
       else s.complete o stRefusedState) := by
  simp [execClaim, State.claimMode, hpause, hring, hidle, hbooted]

/-- RELEASE through its ring, after boot and with no request in progress, is decided by the mode (R46). -/
theorem execRelease_ready (o : Origin) (s : State) (hpause : s.controlPaused = false) (hring : s.claimRing o = true)
    (hidle : s.flag MGT_MODE_REQ.busy = false) (hbooted : s.booted = true) :
    execRelease o s = .next (if s.mode = mManaged then s.beginMode (.release o) mStandalone else s.complete o stRefusedState) := by
  simp [execRelease, State.releaseMode, hpause, hring, hidle, hbooted]

/-- The commit of a firmware request that leaves no MANAGED posts nothing and lifts nothing (R43). -/
theorem execModeCommit_firmware (s : State) (q : ModeReq) (hreq : s.modes.req = some q) (htrigger : q.trigger = .firmware)
    (hsource : q.source ≠ mManaged) :
    execModeCommit s = .next ((s.commitMode q.target).endMode stOk).resumeHeldStandby := by
  unfold execModeCommit
  simp [hreq, htrigger, hsource]

/-! ### Host power presence -/

/-- A new level of HOST_PWR_GOOD starts a debounce (R509, R50). -/
theorem execHostPwrGoodChange_new (level : Bool) (s a : State) (ha : a = s.setF PWR_HOST_CTL.pwr_good (b2n level))
    (h : s.modes.pwrGood ≠ level) :
    execHostPwrGoodChange level s =
      .next { a with modes := { a.modes with pwrGood := level, pwrSince := s.now, debounced := false, heldStandby := none } } := by
  unfold execHostPwrGoodChange
  rw [if_neg h, ha]

/-- HOST_PWR_GOOD low for 100 ms after boot ends its debounce (R50). -/
theorem execStandbyEntryDebounce_ends (s : State) (hlow : s.modes.pwrGood = false) (hopen : s.modes.debounced = false)
    (hbooted : s.booted = true) :
    execStandbyEntryDebounce s = .next ((s.after (s.modes.pwrSince + 100 * msT)).endDebounce true) := by
  simp [execStandbyEntryDebounce, hlow, hopen, hbooted]

/-- HOST_PWR_GOOD high for 10 ms after boot ends its debounce (R50). -/
theorem execStandbyExitDebounce_ends (s : State) (hhigh : s.modes.pwrGood = true) (hopen : s.modes.debounced = false)
    (hbooted : s.booted = true) :
    execStandbyExitDebounce s = .next ((s.after (s.modes.pwrSince + 10 * msT)).endDebounce false) := by
  simp [execStandbyExitDebounce, hhigh, hopen, hbooted]

/-! ### Resets -/

/-- A buffered write of a namespace that is not FAULTED waits for its destage (R62). -/
def State.writesToDestage (s : State) : Bool :=
  s.nve.bufs.any fun p => p.2.st != NveBufSt.destaged && (match s.ns? p.2.ns with
    | some n => n.fault.isNone
    | none => false)

/-- FLUSH_DONE waits for the buffered writes, then the reset that was requested begins (R62). -/
theorem execFlushDone_flushing (s : State) (q : RstReq) (h : s.modes.flush = some q) :
    execFlushDone s = if s.writesToDestage then .next s else .next (s.afterFlush q) := by
  unfold execFlushDone
  rw [h]
  rfl

/-- FLUSH_TIMEOUT begins the reset 10 s after its flush started (R62). -/
theorem execFlushTimeout_flushing (s : State) (q : RstReq) (h : s.modes.flush = some q) :
    execFlushTimeout s = .next ((s.after (q.started + 10 * secT)).afterFlush q) := by
  unfold execFlushTimeout
  rw [h]

/-- A W reset that has held for 100 µs with power is released to the ROM, with the repairs kept (R59). -/
theorem execResetRelease_warm (s : State) (q : RstReq) (d : Nat × State) (hasserted : s.modes.asserted = some q)
    (hrails : s.hw.rails = true) (hwarm : q.kind = .w) (hd : d = (s.after (q.started + 100 * usT)).draw 17) :
    execResetRelease s = .next { d.2 with
      modes := { d.2.modes with asserted := none, phase := BootPhase.rom }
      prf := { d.2.prf with slBoundary := d.2.now + d.1 % 70000 * fclk } }.showUnits.releaseCipher := by
  unfold execResetRelease
  simp only [hasserted, hrails, hwarm, ← hd, Bool.not_true, Bool.false_eq_true, if_false, beq_self_eq_true, if_true]

/-- D_RESET_DONE releases the data path (R60). -/
theorem execDResetDone_running (s : State) (q : RstReq) (h : s.modes.dReset = some q) : execDResetDone s = .next s.dataRelease := by
  unfold execDResetDone
  rw [h]

/-- Settles O32: each command's clause is its lemma above, those of the three reset requests `State.resetRequest_named`. -/
theorem completeModes : Obligations.CompleteModes := by
  unfold Obligations.CompleteModes
  refine ⟨?go, ?claim, ?release, ?commit, ?pwrGood, ?entry, ?exit, ?cold, ?warm, ?datapath, ?flushDone, ?flushTimeout, ?resetRelease,
    ?dResetDone⟩
  case go =>
    intro init target s hpause a haccess b hidle c hbooted hlisted htest
    have hgo : exec (.modeRequestGo init target) s = .next _ :=
      (execModeRequestGo_unpaused init target s hpause).trans
        (congrArg Host.Outcome.next (s.modeGo_listed b c init target.val haccess rfl hidle rfl hbooted hlisted))
    rw [if_neg htest] at hgo
    refine ⟨fun hmode => ?_, fun hmode => ?_⟩
    · rwa [if_neg hmode] at hgo
    · rwa [if_pos hmode] at hgo
  case claim =>
    intro o s hpause hring hidle hbooted
    have hclaim : exec (.claim o) s = .next _ := execClaim_ready o s hpause hring hidle hbooted
    refine ⟨fun hmode => ?_, fun hmode => ?_⟩
    · rwa [if_pos hmode] at hclaim
    · rwa [if_neg (by rw [hmode]; decide), if_pos hmode] at hclaim
  case release =>
    intro o s hpause hring hidle hbooted hmode
    exact (execRelease_ready o s hpause hring hidle hbooted).trans (congrArg Host.Outcome.next (if_pos hmode))
  case commit =>
    exact execModeCommit_firmware
  case pwrGood =>
    intro level s h a
    exact execHostPwrGoodChange_new level s a rfl h
  case entry =>
    exact execStandbyEntryDebounce_ends
  case exit =>
    exact execStandbyExitDebounce_ends
  case cold =>
    intro init v s a haccess hidle hkey hcold b c
    have hreset := s.resetRequest_named init v.toNat .c 3 haccess hidle hkey (namedReset_cold hcold)
    refine ⟨fun hflush => ?_, fun hflush => ?_⟩ <;> rw [hflush] at hreset <;> exact congrArg Host.Outcome.next hreset
  case warm =>
    intro init v s a haccess hidle hkey hcold hwarm hflush
    have hreset := s.resetRequest_named init v.toNat .w 4 haccess hidle hkey (namedReset_warm hcold hwarm)
    rw [hflush] at hreset
    exact congrArg Host.Outcome.next hreset
  case datapath =>
    intro init v s a haccess hidle hkey hcold hwarm hdata hflush
    have hreset := s.resetRequest_named init v.toNat .d 8 haccess hidle hkey (namedReset_datapath hcold hwarm hdata)
    rw [hflush] at hreset
    exact congrArg Host.Outcome.next hreset
  case flushDone =>
    intro s q hflush hdestaged
    exact (execFlushDone_flushing s q hflush).trans (if_neg (ne_true_of_eq_false hdestaged))
  case flushTimeout =>
    exact execFlushTimeout_flushing
  case resetRelease =>
    intro s q hasserted hrails hwarm d a
    exact execResetRelease_warm s q d hasserted hrails hwarm rfl
  case dResetDone =>
    exact execDResetDone_running

end Sys2Proof.Machine
end

section
/-! SUPPORT. Concrete states that meet the conditions of the statements on modes and resets. -/

namespace Sys2Proof.Machine

/-- The module in service: its power-up reset released, booted, the island's clock set and running. -/
def servingState : State :=
  { State.reset.setF MODE_STATE.booted 1 with
    modes := { State.reset.modes with asserted := none, phase := .service }
    island := { State.reset.island with baseRate := 5, wasSet := true, uRef := some 9 } }

/-- A write of PWR_RESET_CTRL that names all three resets, and its key, without a flush. -/
def allResets : BitVec 32 := 0xA5C3000E

/-! ### Resets -/

/-- All three resets named by one write of firmware that reaches PWR_RESET_CTRL. -/
theorem servingState_allResets :
    (servingState.blockAccess 23 .write 0 0x40).2 = true ∧ servingState.flag PWR_RESET_CTRL.flushing = false ∧
      allResets.toNat / 2 ^ 16 = 0xA5C3 ∧ natBit allResets.toNat 0 = false ∧ natBit allResets.toNat 1 = true ∧
      natBit allResets.toNat 2 = true ∧ natBit allResets.toNat 3 = true := by decide +kernel

/-- Writes that leave the wider resets out: a warm and a datapath reset, a datapath reset by itself. -/
theorem narrowerResets :
    namedReset (0xA5C3000C : BitVec 32).toNat = some (.w, 4) ∧ namedReset (0xA5C30008 : BitVec 32).toNat = some (.d, 8) := by
  decide +kernel

/-- The C reset that this write begins leaves a time island that runs. -/
theorem servingState_coldReset_island : (servingState.resetRequest 0 allResets.toNat).island = servingState.island :=
  exec_island_eq (c := .resetColdRequest 0 allResets) rfl rfl

/-- A flush with no buffered write left, a W reset that holds with power, a D reset that runs. -/
def resettingState : State :=
  { servingState with modes := { servingState.modes with
      flush := some ⟨.c, some 3, 0⟩, asserted := some ⟨.w, some 4, 0⟩, dReset := some ⟨.d, some 8, 0⟩ } }

theorem resettingState_writesToDestage : resettingState.writesToDestage = false ∧ resettingState.hw.rails = true := ⟨rfl, rfl⟩

/-! ### Mode requests -/

/-- In SAFE_HOLD, to be left for STANDALONE. -/
def safeHoldState : State := servingState.setF MODE_STATE.mode mSafeHold

/-- Firmware's request reaches MGT_MODE_REQ and asks for a listed change: AUTONOMOUS out of STANDALONE, STANDALONE out of SAFE_HOLD. -/
theorem servingState_modeRequest :
    let ready (s : State) (target : Nat) : Bool :=
      let b := (s.blockAccess 24 .write 0 0x100).1.setF MGT_MODE_REQ.target target
      let c := b.setF MGT_MODE_REQ.source_mode b.mode
      !s.controlPaused && (s.blockAccess 24 .write 0 0x100).2 && !b.flag MGT_MODE_REQ.busy && c.booted && c.firmwareChangeOk target
        && c.mode == s.mode
    ready servingState mAutonomous = true ∧ servingState.mode = mStandalone ∧
      ready safeHoldState mStandalone = true ∧ safeHoldState.mode = mSafeHold := by decide +kernel

/-- The request that this begins, out of STANDALONE, is one of firmware. -/
theorem servingState_request :
    (servingState.beginMode .firmware mAutonomous).modes.req = some ⟨.firmware, mStandalone, mAutonomous, 0⟩ ∧ mStandalone ≠ mManaged := by
  decide +kernel

/-- The function-level CONTROL ring of PF0 of link 0. -/
def controlRing : Ring :=
  { cls := 0, fn := 0x800, slice := none, localNo := 0, kind := 1, cq := 0, base := 0, line := 0, size := 16, doorbell := 0
    st := .running, modIdx := 0, hostIdx := 0, cWritten := 0, cWriteAt := 0, rung := false, lineRead := false, reads := 0
    fetched := [], posted := [], rxBufs := [], stash := [], unitHeld := [], stalled := false, held := [], lost := 0, evSeq := 0
    stopStatus := 0, stopIndex := 0, irqEn := false, useStore := false, vector := 0, modCount := 0, modTime := 0, armed := false
    unsig := 0, oldest := 0, irqDue := false }

/-- With that ring, in STANDALONE for a CLAIM and in MANAGED for a CLAIM or a RELEASE. -/
theorem controlRing_claims :
    let ready (s : State) : Bool :=
      !s.controlPaused && s.claimRing (.ring 7 0 false) && !s.flag MGT_MODE_REQ.busy && s.booted
    let standalone := servingState.setRing 0 7 controlRing
    let managed := standalone.setF MODE_STATE.mode mManaged
    ready standalone = true ∧ standalone.mode = mStandalone ∧ ready managed = true ∧ managed.mode = mManaged := by decide +kernel

/-! ### Host power presence -/

/-- HOST_PWR_GOOD is low after boot, its debounce still open; its rise is a new level, whose debounce is open too. -/
theorem servingState_pwrGood :
    let high := { servingState with modes := { servingState.modes with pwrGood := true } }
    servingState.modes.pwrGood ≠ true ∧ servingState.modes.debounced = false ∧ servingState.booted = true ∧
      high.modes.pwrGood = true ∧ high.modes.debounced = false ∧ high.booted = true := by decide +kernel

end Sys2Proof.Machine
end

section
/-! SUPPORT. What the writes of the time island's registers and the read of a snapshot answer once their access is let through (R73, R80,
R81, R95, R97): `s` is the state before the write, `b` the state at the edge of TCLK at which it lands. -/

namespace Sys2Proof.Machine

/-! ### Frequency and the servo -/

/-- A value of TSV_RATE, clamped (R73). -/
def clampRate (x : Int) : Int := if 549755814 < x then 549755814 else if x < -549755814 then -549755814 else x

/-- A write of TSV_RATE takes the clamped rate, unless it moves the rate too far while LOCKED (R73, R83). -/
theorem execTsvRateWrite_reached (init : Nat) (v : BitVec 32) (s b : State) (y : Int)
    (haccess : (s.blockAccess 4 .write init 0x0008).2 = true) (hb : b = (s.blockAccess 4 .write init 0x0008).1.crossTclk)
    (hy : y = clampRate (signedOf 32 v.toNat)) :
    execTsvRateWrite init v s = .next
      (if b.tstate = tsLocked ∧ b.getF TSV_HOLD_MODEL.max_rate_step < (y - signedOf 32 (b.getF TSV_RATE.rate)).natAbs then b.plausFault
       else b.setF TSV_RATE.rate (ofSigned 32 y)) := by
  unfold clampRate at hy
  unfold execTsvRateWrite
  simp only [haccess, ← hb, ← hy, Bool.not_true, Bool.false_eq_true, if_false]
  rw [apply_ite Host.Outcome.next]

/-- A write of TSV_SERVO is a heartbeat, and takes effect unless its offset exceeds its u_servo (R80, R83). -/
theorem execTsvServoWrite_reached (init : Nat) (wide upper : Bool) (v : Word) (s b c : State) (w : Word)
    (haccess : (s.blockAccess 4 .write init 0x0038).2 = true) (hb : b = (s.blockAccess 4 .write init 0x0038).1.crossTclk)
    (hc : c = { b with island := { b.island with beatAt := b.tnow } })
    (hw : w = (c.writeFields (fun _ => true) wide upper 0 v Reg.TSV_SERVO.fields (c.reg .TSV_SERVO)).1) :
    execTsvServoWrite init wide upper v s = .next
      (if w.bits 31 0 < (signedOf 24 (w.bits 55 32)).natAbs then c.plausFault
       else ({ c.setReg .TSV_SERVO w with island := { c.island with servoAt := c.tnow } }).applyClaim (w.bits 63 62)) := by
  unfold execTsvServoWrite
  simp only [haccess, ← hb, ← hc, ← hw, Bool.not_true, Bool.false_eq_true, if_false]
  rw [apply_ite Host.Outcome.next, hc]

/-! ### Phase -/

/-- The slews of the last 1 ms (R83). -/
def State.recentSlews (s : State) : List (Nat × Nat) := s.island.slews.filter fun p => decide (s.tnow < p.1 + 10 ^ 6)

/-- A slew by `m` begins at slew_ppm, rounded by a free bit (log 91), and replaces the unspent one (R81). -/
def State.beginSlew (s : State) (m : Int) : State :=
  let d := s.draw 1
  { d.2 with island := { d.2.island with
      slewLeft := m * 2 ^ 24
      slewStep := s.getF TSV_HOLD_MODEL.slew_ppm * ctrOne / 10 ^ 6 + d.1
      slews := if m = 0 then s.recentSlews else s.recentSlews ++ [(s.tnow, m.natAbs)] } }

/-- SLEW begins out of LOCKED whenever there is a slew rate (R81). -/
theorem execTsvSlew_unlocked (init : Nat) (amount : Option (BitVec 48)) (s b : State)
    (haccess : (s.blockAccess 4 .write init 0x0028).2 = true) (hb : b = (s.blockAccess 4 .write init 0x0028).1.adjLand 0 amount)
    (hrate : b.getF TSV_HOLD_MODEL.slew_ppm ≠ 0) (hstate : b.tstate ≠ tsLocked) :
    execTsvSlew init amount s = .next (b.beginSlew b.adjAmount) := by
  unfold execTsvSlew
  simp only [haccess, ← hb, hrate, hstate, Bool.not_true, Bool.false_eq_true, if_false, false_and]
  rfl

/-- A counter stepped by `m`, modulo its width (R70, R81). -/
def stepCounter (m : Int) (c : Nat) : Nat := (((c : Int) + m * 2 ^ 24) % (2 ^ 104 : Int)).toNat

/-- STEP moves both counters out of LOCKED, and only cancels the slew where its amount is 0 (R81). -/
theorem execTsvStep_unlocked (init : Nat) (amount : Option (BitVec 48)) (s b : State)
    (haccess : (s.blockAccess 4 .write init 0x0028).2 = true) (hb : b = (s.blockAccess 4 .write init 0x0028).1.adjLand 1 amount)
    (hstate : b.tstate ≠ tsLocked) :
    execTsvStep init amount s = .next
      (if b.adjAmount = 0 then { b with island := { b.island with slewLeft := 0 } }
       else ({ b with island := { b.island with
           ctrA := stepCounter b.adjAmount b.island.ctrA, ctrB := stepCounter b.adjAmount b.island.ctrB } }).adjDone
             (b.adjAmount.natAbs * 2 ^ 24)) := by
  unfold execTsvStep stepCounter
  simp only [haccess, ← hb, hstate, Bool.not_true, Bool.false_eq_true, if_false]
  rw [apply_ite Host.Outcome.next]

/-- SET with an amount below one second loads the counters (R81, R82). -/
theorem execTsvSet_inRange (init : Nat) (amount : Option (BitVec 48)) (s b : State)
    (haccess : (s.blockAccess 4 .write init 0x0028).2 = true) (hb : b = (s.blockAccess 4 .write init 0x0028).1.adjLand 2 amount)
    (hlow : 0 ≤ b.adjAmount) (hhigh : b.adjAmount < 10 ^ 9 * 2 ^ 16) :
    execTsvSet init amount s = .next
      (b.loadCounters (b.getF TSV_SET_SEC.seconds * 10 ^ 9 * ctrOne + b.adjAmount.toNat * 2 ^ 24)) := by
  have hrange : ¬ (b.adjAmount < 0 ∨ 10 ^ 9 * 2 ^ 16 ≤ b.adjAmount) := by omega
  unfold execTsvSet
  simp only [haccess, ← hb, hrange, Bool.not_true, Bool.false_eq_true, if_false]

/-- SET_AT_PPS arms out of LOCKED (R81). -/
theorem execSetAtPps_unlocked (init : Nat) (amount : Option (BitVec 48)) (s b : State)
    (haccess : (s.blockAccess 4 .write init 0x0028).2 = true) (hb : b = (s.blockAccess 4 .write init 0x0028).1.adjLand 3 amount)
    (hstate : b.tstate ≠ tsLocked) :
    execSetAtPps init amount s = .next { b with island := { b.island with setArmed := true } } := by
  unfold execSetAtPps
  simp only [haccess, ← hb, hstate, Bool.not_true, Bool.false_eq_true, if_false]

/-! ### Reset and snapshot -/

/-- The key of TSV_ISLAND_RESET resets the island (R97). -/
theorem execIslandReset_keyed (init : Nat) (s : State) (haccess : (s.blockAccess 4 .write init 0x000C).2 = true) :
    execIslandReset init 0xC35A s = .next (s.blockAccess 4 .write init 0x000C).1.crossTclk.islandReset := by
  unfold execIslandReset
  simp only [haccess, Bool.not_true, Bool.false_eq_true, if_false, if_true]

/-- View `v` of the snapshot registers latches time `t` and uncertainty `u` (R95). -/
def State.latchSnapshot (s : State) (t : Nat) (u : Option Nat) (v : Nat) : State :=
  let b := (s.setF TSV_SNAP_SEC.state s.tstate v).setF TSV_SNAP_SEC.seconds (secondsOf t) v
  let c := (b.setF TSV_SNAP_NS.ns (t / 2 ^ 16 % 10 ^ 9) v).setF TSV_SNAP_NS.frac t v
  (c.setF TSV_SNAP_NS.unc (unc16 u) v).setF TSV_SNAP_UNC.unc32 (unc32 u) v

/-- A read of a TSV_SNAP_SEC in the reader's own view latches and answers (R95, R522). -/
theorem execSnapshotLatch_reached (init off v j blk bo : Nat) (wide upper : Bool) (s a d : State)
    (hplace : placeReg init (.window off) = (some (blk, bo), some (.TSV_SNAP_SEC, v, j, upper)))
    (haccess : s.blockAccess blk .read init bo = (a, true)) (hd : d = a.latchSnapshot a.timeNow (a.pubUnc 0) v) :
    execSnapshotLatch init off wide s = .next (d.emit (.readData init (readPart (d.reg .TSV_SNAP_SEC v) wide upper))) := by
  unfold State.latchSnapshot at hd
  unfold execSnapshotLatch
  simp only [hplace, haccess, ← hd, Bool.not_true, Bool.false_eq_true, if_false]

/-- Settles O27: each command's clause is its lemma above. -/
theorem completeIslandWrites : Obligations.CompleteIslandWrites := by
  unfold Obligations.CompleteIslandWrites
  refine ⟨?rate, ?servo, ?slew, ?step, ?set, ?atPps, ?reset, ?snapshot⟩
  case rate =>
    intro init v s a haccess b x y
    have hrate : exec (.tsvRateWrite init v) s = .next _ := execTsvRateWrite_reached init v s b y haccess rfl rfl
    refine ⟨fun hkept => hrate.trans (congrArg _ (if_neg ?_)), fun hlocked hfar => hrate.trans (congrArg _ (if_pos ⟨hlocked, hfar⟩))⟩
    rintro ⟨hlocked, hfar⟩
    exact hkept.elim (· hlocked) (Nat.not_le.2 hfar)
  case servo =>
    intro init wide upper v s a haccess b c w
    have hservo : exec (.tsvServoWrite init wide upper v) s = .next _ :=
      execTsvServoWrite_reached init wide upper v s b c w haccess rfl rfl rfl
    exact ⟨fun hplausible => hservo.trans (congrArg _ (if_neg (Nat.not_lt.2 hplausible))),
      fun hbeyond => hservo.trans (congrArg _ (if_pos hbeyond))⟩
  case slew =>
    intro init amount s a haccess b m hrate hstate
    exact execTsvSlew_unlocked init amount s b haccess rfl hrate hstate
  case step =>
    intro init amount s a haccess b m hstate add
    have hstep : exec (.tsvStep init amount) s = .next _ := execTsvStep_unlocked init amount s b haccess rfl hstate
    exact ⟨fun hm => hstep.trans (congrArg _ (if_neg hm)), fun hm => hstep.trans (congrArg _ (if_pos hm))⟩
  case set =>
    intro init amount s a haccess b m hlow hhigh _
    exact execTsvSet_inRange init amount s b haccess rfl hlow hhigh
  case atPps =>
    intro init amount s a haccess b hstate
    exact execSetAtPps_unlocked init amount s b haccess rfl hstate
  case reset =>
    intro init s a haccess
    exact execIslandReset_keyed init s haccess
  case snapshot =>
    intro init off v j blk bo wide upper s hplace a haccess t u b c d
    exact execSnapshotLatch_reached init off v j blk bo wide upper s a.1 d hplace (Prod.ext rfl haccess) rfl

end Sys2Proof.Machine
end

section
/-! SUPPORT. What references, checks, pulses and the pages of the time island answer on the path that nothing stops (R72, R76, R83–R85,
R87–R94, R96). -/

namespace Sys2Proof.Machine

/-! ### References -/

/-- The expected edge of a qualified PPS_IN, within 1 µs of its window's centre and long enough (R85). -/
theorem execPpsInEdge_expected (t highNs stamp : Nat) (s : State) (d : Nat × State) (hd : d = (s.after t).syncIsland.draw 16)
    (hstamp : stamp =
      ((d.2.timeNow : Int) + signedOf 16 d.1 - signedOf 16 (d.2.getF TSV_REF_SEL.pps_in_comp) * 2 ^ 14).toNat)
    (hqualified : d.2.flag TSV_STATE.pps_in_qualified = true) (hlate : d.2.now ≤ d.2.island.ppsCentre + usT)
    (hearly : d.2.island.ppsCentre ≤ d.2.now + usT) (hlong : 100 ≤ highNs) :
    execPpsInEdge t highNs s = .next ({ d.2 with island := { d.2.island with
      ppsQueue := d.2.island.ppsQueue ++ [(stamp, false)]
      ppsLast := some d.2.now
      ppsCentre := d.2.now + secT
      ppsMissed := 0 } }).qualifiedEdge := by
  unfold execPpsInEdge
  simp only [← hd, ← hstamp, hqualified, hlate, hearly, hlong, decide_true, Bool.and_self, Bool.not_true, if_true]

/-- The window of a qualified PPS_IN closes without its edge; the second time in a row disqualifies the input (R85). -/
theorem execPpsWindowMissed_qualified (s a : State) (hqualified : s.flag TSV_STATE.pps_in_qualified = true)
    (ha : a = s.after (s.island.ppsCentre + usT)) :
    execPpsWindowMissed s = .next
      (if 2 ≤ a.island.ppsMissed + 1 then
        ({ a with island := { a.island with ppsCentre := a.island.ppsCentre + secT, ppsRun := 0, ppsLast := none, ppsMissed := 0 } }.setF
          TSV_STATE.pps_in_qualified 0).showRefs
       else { a with island := { a.island with ppsCentre := a.island.ppsCentre + secT, ppsMissed := a.island.ppsMissed + 1 } }) := by
  unfold execPpsWindowMissed
  simp only [hqualified, ← ha, if_true]
  rw [apply_ite Host.Outcome.next]

/-- A reference is qualified, PPS_IN only after three edges (R84). -/
theorem execReferenceQualified_met (r : TimeRef) (s : State) (h : r ≠ .ppsIn ∨ 3 ≤ s.island.ppsRun) :
    execReferenceQualified r s = .next (s.syncIsland.setF (refBit r) 1).showRefs := by
  refine if_neg ?_
  rintro ⟨hpps, hrun⟩
  exact h.elim (· hpps) (Nat.not_le.2 hrun)

/-- PPS_IN is lost: its run begins anew (R84, R85). -/
theorem execReferenceDisqualified_ppsIn (s a : State) (ha : a = (s.syncIsland.setF (refBit .ppsIn) 0).showRefs) :
    execReferenceDisqualified .ppsIn s
      = .next { a with island := { a.island with ppsRun := 0, ppsLast := none, ppsMissed := 0 } } := by
  unfold execReferenceDisqualified
  simp only [← ha, if_true]

/-! ### Checks -/

/-- The counters disagree: the time is UNKNOWN, and so is U_ref (R72, log 30). -/
theorem execCounterMismatch_differs (b : Nat) (s a : State) (ha : a = s.syncIsland) (hdiffers : b % 2 ^ 104 ≠ a.island.ctrA) :
    execCounterMismatch b s = .next
      (((({ a with island := { a.island with ctrB := a.island.ctrA, wasSet := false, uRef := none } }).enterTState tsUnknown).setF
        TSV_STATE.compare_fault 1).raise 4 (faultM 0x0021)) := by
  unfold execCounterMismatch
  simp only [← ha, hdiffers, if_false]

/-- The instant at which the servo's heartbeat is overdue, a beat_timeout of 0 counting as 1 ms (R83). -/
def State.beatDue (s : State) : Nat :=
  let ms := s.getF TSV_HOLD_MODEL.beat_timeout
  (s.island.beatAt + (if ms = 0 then 1 else ms) * 10 ^ 6) * tclk

/-- A heartbeat overdue is a plausibility fault in LOCKED (R83). -/
theorem execServoBeatTimeout_locked (s : State) (h : s.tstate = tsLocked) :
    execServoBeatTimeout s = .next (s.after s.beatDue).syncIsland.plausFault := by
  unfold execServoBeatTimeout
  rw [if_pos h]
  rfl

/-- A heartbeat overdue ends the acquisition in ACQUIRING (R83). -/
theorem execServoBeatTimeout_acquiring (s : State) (h : s.tstate = tsAcquiring) :
    execServoBeatTimeout s = .next (s.after s.beatDue).syncIsland.fallBack := by
  have hunlocked : s.tstate ≠ tsLocked := by rw [h]; decide
  unfold execServoBeatTimeout
  rw [if_neg hunlocked, if_pos h]
  rfl

/-- Outside HOLDOVER no temperature is an excursion (R76). -/
theorem State.excursion_eq_none (s : State) (temp : Int) (k : Nat) (hexc : s.island.holdExc = none) (hstate : s.tstate ≠ tsHoldover) :
    s.excursion temp k = none := by
  unfold State.excursion
  simp only [hexc, hstate, false_and, if_false]

/-- U_ref is evaluated for the next period of 1,000 TCLK, outside HOLDOVER without an excursion (R76, R245). -/
theorem execURefEvaluation_notHoldover (temp : Int) (s a : State) (k : Nat) (ha : a = s.after ((s.island.uAt / 1000 + 1) * 1000 * tclk))
    (hk : k = a.tnow / 1000 * 1000) (hexc : a.island.holdExc = none) (hstate : a.tstate ≠ tsHoldover) :
    execURefEvaluation temp s
      = .next (((a.noteRef temp none k).setF TSV_STATE.temp_excursion 0).putRef (k + 1000)).setSettle := by
  unfold execURefEvaluation
  simp only [← ha, ← hk, a.excursion_eq_none temp k hexc hstate, Option.isSome_none, Bool.and_false]
  rfl

/-- A replica more than 1 ns from counter A is marked and reported (R87). -/
theorem execReplicaCheck_eq (r : Fin 10) (diff : Nat) (s a : State) (ha : a = s.after ((s.tnow / 1000 + 1) * 1000 * tclk)) :
    execReplicaCheck r diff s = .next
      (if 2 ^ 16 < diff then
        ({ a with island := { a.island with replicas := insertNat a.island.replicas r.val } }).raise 3 (faultM 0x0021)
       else a) := by
  unfold execReplicaCheck
  simp only [← ha]
  rw [apply_ite Host.Outcome.next]

/-! ### Pulses -/

/-- The value of counter A at which an output rises next: the next whole second, less its compensation (R88). -/
def State.nextPulse (s : State) (o : Fin 2) : Nat :=
  let comp := signedOf 12 (s.getF TSV_PPS_CFG.comp o.val) * 2 ^ 38
  ((((s.island.ctrA : Int) + comp) / (10 ^ 9 * ctrOne : Int) + 1) * (10 ^ 9 * ctrOne : Int) - comp).toNat

/-- An enabled output with a width rises whatever its uncertainty where it is forced (R88, R89). -/
theorem execPpsOutputEdge_forced (o : Fin 2) (s a b c : State) (ha : a = s.syncIsland)
    (hb : b = a.after (a.whenReached (a.nextPulse o) * tclk)) (henable : b.flag TSV_PPS_CFG.enable o.val = true)
    (hwidth : 0 < b.getF TSV_PPS_CFG.width o.val) (hforce : b.flag TSV_PPS_CFG.force o.val = true)
    (hc : c = b.emit (.pin (if o.val = 0 then .ppsOut else .ppsHost) true)) :
    execPpsOutputEdge o s = .next { c with island := { c.island with
      ppsUntil := Tab.put c.island.ppsUntil o.val (c.now + b.getF TSV_PPS_CFG.width o.val * usT) } } := by
  unfold State.nextPulse at hb
  unfold execPpsOutputEdge
  simp only [← ha, ← hb, ← hc, henable, hwidth, hforce, decide_true, Bool.not_true, Bool.not_false, Bool.false_and, Bool.and_self,
    if_true]

/-! ### Time at the host -/

/-- A dialogue with a root that keeps the bounds of R93 joins the last 16 pairs; its fit is a free value (log 90). -/
theorem execPtmDialogue_rootBound (link : Fin 2) (master : Nat) (s a : State) (p : PtmSt) (hp : p = s.ptmOf link.val)
    (ha : a = s.after (p.last + 100 * usT)) (henabled : p.enabled = true) :
    execPtmDialogue link master true s = .next ((a.draw 16).2.setPtm link.val
      ⟨true, ((master, a.timeNow) :: p.pairs).take 16, a.now, (a.draw 16).1 % 61, true⟩) := by
  unfold execPtmDialogue
  simp only [← hp, ← ha, henabled, if_true]

/-- A fit without a dialogue for 100 ms is no longer valid (R93). -/
theorem execPtmStale_valid (link : Fin 2) (s : State) (h : (s.ptmOf link.val).valid = true) :
    execPtmStale link s
      = .next ((s.after ((s.ptmOf link.val).last + 100 * msT)).setPtm link.val { s.ptmOf link.val with valid := false }) :=
  if_pos h

/-- A new page of a bus-mastering function is registered on a link with PTM and fewer than 16 pages (R91, R92). -/
theorem execTimePageEnable_registers (fn : Nat) (s a : State) (x : FnSt) (hfn : s.fn? fn = some x)
    (hmult : s.getF TSV_TPG_MULT.mult fn ≠ 0) (hnew : Tab.has s.pages fn = false) (hroom : s.pagesOnLink (fnLink fn) < 16)
    (hmaster : x.busMaster = true) (hptm : (s.ptmOf (fnLink fn)).enabled = true)
    (ha : a = (s.setF TSV_TPG_CTL.enable 1 fn).setF TSV_TPG_CTL.result stOk fn) :
    execTimePageEnable fn s = .next { a with pages := Tab.put a.pages fn ⟨0, zeroBytes 64, s.now + usT⟩ } := by
  unfold execTimePageEnable
  simp only [hfn, hmult, hnew, hmaster, hptm, Nat.not_le.2 hroom, ← ha, Bool.true_eq_false, Bool.false_eq_true, or_self, if_false]

/-- A page that is due goes out in three posted writes, seq odd, the body, seq even again, where the access check of each passes (R94). -/
theorem execTimePageWrite_permitted (fn : Nat) (utc : Option (Nat × Bool × Bool)) (s a : State) (p : TimePage) (d e : Nat × State)
    (n : Nat) (body : List Byte) (b c f : State) (hp : Tab.look s.pages fn = some p) (hd : d = (s.after p.nextAt).draw 64)
    (he : e = d.2.draw 64) (hn : n = (p.seq + 2) % 2 ^ 32) (hbody : body = e.2.pageBytes fn n d.1 e.1 utc)
    (ha : a = { e.2 with pages := Tab.put e.2.pages fn ⟨n, body, p.nextAt + usT⟩ }) (hissue : a.issueHeld fn none = false)
    (hb : a.pageWrite fn 0 (leBytes 4 (p.seq + 1)) = (b, true)) (hc : b.pageWrite fn 4 (body.drop 4) = (c, true))
    (hf : c.pageWrite fn 0 (leBytes 4 n) = (f, true)) : execTimePageWrite fn utc s = .next f := by
  unfold execTimePageWrite
  simp only [hp, ← hd, ← he, ← hn, ← hbody, ← ha, hissue, hb, hc, hf, Bool.not_true, Bool.false_eq_true, if_false, if_true]

/-- Settles O28: each command's clause is its lemma above; REPLICA_REALIGNED, TIME_SNAPSHOT_PUBLISH and TIME_PAGE_DISABLE have one
outcome only, their meaning itself. -/
theorem completeIslandEvents : Obligations.CompleteIslandEvents := by
  unfold Obligations.CompleteIslandEvents
  refine ⟨?edge, ?window, ?qualified, ?disqualified, ?mismatch, ?beat, ?uRef, ?replica, ?realigned, ?publish, ?output, ?dialogue, ?stale,
    ?pageEnable, ?pageDisable, ?pageWrite⟩
  case edge =>
    intro t highNs s d i stamp hqualified hlate hearly hlong j
    exact execPpsInEdge_expected t highNs stamp s d rfl rfl hqualified hlate hearly hlong
  case window =>
    intro s hqualified a i
    have hmissed : exec .ppsWindowMissed s = .next _ := execPpsWindowMissed_qualified s a hqualified rfl
    exact ⟨fun hfirst => hmissed.trans (congrArg _ (if_neg (Nat.not_le.2 hfirst))),
      fun hagain => hmissed.trans (congrArg _ (if_pos hagain))⟩
  case qualified =>
    exact execReferenceQualified_met
  case disqualified =>
    intro s a
    exact execReferenceDisqualified_ppsIn s a rfl
  case mismatch =>
    intro b s a hdiffers c
    exact execCounterMismatch_differs b s a rfl hdiffers
  case beat =>
    exact fun s => ⟨execServoBeatTimeout_locked s, execServoBeatTimeout_acquiring s⟩
  case uRef =>
    intro temp s a k hexc hstate
    exact execURefEvaluation_notHoldover temp s a k rfl rfl hexc hstate
  case replica =>
    intro r diff s a
    have hcheck : exec (.replicaCheck r diff) s = .next _ := execReplicaCheck_eq r diff s a rfl
    exact ⟨fun hnear => hcheck.trans (congrArg _ (if_neg (Nat.not_lt.2 hnear))), fun hfar => hcheck.trans (congrArg _ (if_pos hfar))⟩
  case realigned =>
    exact fun _ _ => rfl
  case publish =>
    exact fun _ => rfl
  case output =>
    intro o s a comp sec b width henable hwidth hforce c
    exact execPpsOutputEdge_forced o s a b c rfl rfl henable hwidth hforce rfl
  case dialogue =>
    intro link master s henabled p d
    exact execPtmDialogue_rootBound link master s _ p rfl rfl henabled
  case stale =>
    exact execPtmStale_valid
  case pageEnable =>
    intro fn s x hfn hmult hnew hroom hmaster hptm a
    exact execTimePageEnable_registers fn s a x hfn hmult hnew hroom hmaster hptm rfl
  case pageDisable =>
    exact fun _ _ => rfl
  case pageWrite =>
    intro fn utc s p hp d e n body a hissue b c f hb hc hf
    exact execTimePageWrite_permitted fn utc s a p d e n body b.1 c.1 f.1 hp rfl rfl rfl rfl rfl hissue (Prod.ext rfl hb) (Prod.ext rfl hc)
      (Prod.ext rfl hf)

end Sys2Proof.Machine
end

section
/-! SUPPORT. Concrete states that meet the conditions of the statements on the time island, at the bounds where clauses meet. -/

namespace Sys2Proof.Machine

/-! ### Writes of firmware -/

/-- In service in a time state, with rate changes of up to 100 in LOCKED and slews at 50 ppm. -/
def islandState (st : Nat) : State :=
  ((servingState.setF TSV_STATE.state st).setF TSV_HOLD_MODEL.max_rate_step 100).setF TSV_HOLD_MODEL.slew_ppm 50

/-- Firmware reaches each register of the island. -/
theorem islandState_blockAccess :
    ∀ st ∈ [tsFreerun, tsLocked], ∀ off ∈ [0x0008, 0x000C, 0x0028, 0x0038], ((islandState st).blockAccess 4 .write 0 off).2 = true := by
  decide

/-- In LOCKED at rate 0 a change by max_rate_step itself is taken, one beyond it is not; neither is clamped. -/
theorem islandState_tsvRateWrite :
    let b := ((islandState tsLocked).blockAccess 4 .write 0 0x0008).1.crossTclk
    b.tstate = tsLocked ∧ b.getF TSV_RATE.rate = 0 ∧ b.getF TSV_HOLD_MODEL.max_rate_step = 100 ∧
      clampRate (signedOf 32 (100 : BitVec 32).toNat) = 100 ∧ clampRate (signedOf 32 (-101 : BitVec 32).toNat) = -101 := by
  decide

/-- An offset as large as u_servo is plausible, a larger one is not. -/
theorem islandState_tsvServoWrite :
    let b := ((islandState tsLocked).blockAccess 4 .write 0 0x0038).1.crossTclk
    let c := { b with island := { b.island with beatAt := b.tnow } }
    let w (v : Word) := (c.writeFields (fun _ => true) true false 0 v Reg.TSV_SERVO.fields (c.reg .TSV_SERVO)).1
    (signedOf 24 ((w 0x0000000700000007).bits 55 32)).natAbs = (w 0x0000000700000007).bits 31 0 ∧
      (w 0x0000000700000006).bits 31 0 < (signedOf 24 ((w 0x0000000700000006).bits 55 32)).natAbs := by
  decide

/-- Out of LOCKED every TSV_ADJ command lands; the amounts of a SET are 0 and the last below one second. -/
theorem islandState_adjLand :
    let b (op : Nat) (m : BitVec 48) := ((islandState tsFreerun).blockAccess 4 .write 0 0x0028).1.adjLand op (some m)
    (∀ op : Fin 4, (b op 0).tstate ≠ tsLocked) ∧ (b 0 1).getF TSV_HOLD_MODEL.slew_ppm ≠ 0 ∧ (b 1 0).adjAmount = 0 ∧
      (b 1 (-1)).adjAmount = -1 ∧ (b 2 0).adjAmount = 0 ∧ (b 2 0x3B9AC9FFFFFF).adjAmount = 10 ^ 9 * 2 ^ 16 - 1 := by
  decide

/-- Firmware reads the snapshot of its own view, and the upper half of the shared one (R95, R522). -/
theorem servingState_snapshotLatch :
    placeReg 0 (.window 0x510010) = (some (4, 0x10010), some (.TSV_SNAP_SEC, 0, 0, false)) ∧
      (servingState.blockAccess 4 .read 0 0x10010).2 = true ∧
      placeReg 0 (.window 0x500014) = (some (4, 0x14), some (.TSV_SNAP_SEC, 41, 0, true)) ∧
      (servingState.blockAccess 4 .read 0 0x14).2 = true := by
  decide

/-! ### References and checks -/

/-- PPS_IN is qualified, its window centred 1 s after the start. -/
def ppsState (missed : Nat) : State :=
  { (islandState tsLocked).setF TSV_STATE.pps_in_qualified 1 with
    island := { servingState.island with ppsCentre := secT, ppsMissed := missed } }

/-- The first and the last instant of the window. -/
theorem ppsState_window :
    let d (t : Nat) := ((ppsState 0).after t).syncIsland.draw 16
    ∀ t ∈ [secT - usT, secT + usT], (d t).2.flag TSV_STATE.pps_in_qualified = true ∧ (d t).2.now ≤ (d t).2.island.ppsCentre + usT ∧
      (d t).2.island.ppsCentre ≤ (d t).2.now + usT := by
  decide

/-- The first window missed, and the second in a row. -/
theorem ppsState_missed :
    let a (missed : Nat) := (ppsState missed).after ((ppsState missed).island.ppsCentre + usT)
    (ppsState 0).flag TSV_STATE.pps_in_qualified = true ∧ (a 0).island.ppsMissed + 1 < 2 ∧
      (ppsState 1).flag TSV_STATE.pps_in_qualified = true ∧ 2 ≤ (a 1).island.ppsMissed + 1 := by
  decide

/-- Counter A stands at 0, counter B at 1; and the states of a heartbeat overdue and of an evaluation outside HOLDOVER. -/
theorem islandState_checks :
    1 % 2 ^ 104 ≠ (islandState tsFreerun).syncIsland.island.ctrA ∧ (islandState tsLocked).tstate = tsLocked ∧
      (islandState tsAcquiring).tstate = tsAcquiring ∧
      let a := (islandState tsFreerun).after (((islandState tsFreerun).island.uAt / 1000 + 1) * 1000 * tclk)
      a.island.holdExc = none ∧ a.tstate ≠ tsHoldover := by
  decide

/-! ### Pulses and pages -/

/-- PPS_HOST enabled and forced, with a width of 1 µs. -/
def pulseState : State :=
  ((servingState.setF TSV_PPS_CFG.enable 1 1).setF TSV_PPS_CFG.force 1 1).setF TSV_PPS_CFG.width 1 1

theorem pulseState_ppsOutputEdge :
    let a := pulseState.syncIsland
    let b := a.after (a.whenReached (a.nextPulse 1) * tclk)
    b.flag TSV_PPS_CFG.enable 1 = true ∧ 0 < b.getF TSV_PPS_CFG.width 1 ∧ b.flag TSV_PPS_CFG.force 1 = true := by
  decide

/-- A function that masters the bus, its first page open to its writes, on a link whose PTM runs with a valid fit. -/
def pageState : State :=
  { (servingState.setFn 0x800 { windowFn with busMaster := true, windows := [(0, true, true, 0, 0)] }).setF TSV_TPG_MULT.mult 1 0x800 with
    ptm := [(fnLink 0x800, ⟨true, [], 0, 0, true⟩)] }

theorem pageState_ptm : (pageState.ptmOf (fnLink 0x800)).enabled = true ∧ (pageState.ptmOf (fnLink 0x800)).valid = true := ⟨rfl, rfl⟩

theorem pageState_timePageEnable :
    ((pageState.fn? 0x800).any fun x => x.busMaster) = true ∧ pageState.getF TSV_TPG_MULT.mult 0x800 ≠ 0 ∧
      Tab.has pageState.pages 0x800 = false ∧ pageState.pagesOnLink (fnLink 0x800) < 16 := by
  decide

/-- That page registered, its first write due. -/
def duePageState : State := { pageState with pages := [(0x800, ⟨0, zeroBytes 64, usT⟩)] }

/-- The three writes of the page pass their checks. -/
theorem duePageState_timePageWrite :
    let d := (duePageState.after usT).draw 64
    let e := d.2.draw 64
    let body := e.2.pageBytes 0x800 2 d.1 e.1 none
    let a := { e.2 with pages := Tab.put e.2.pages 0x800 ⟨2, body, usT + usT⟩ }
    let b := a.pageWrite 0x800 0 (leBytes 4 1)
    let c := b.1.pageWrite 0x800 4 (body.drop 4)
    Tab.look duePageState.pages 0x800 = some ⟨0, zeroBytes 64, usT⟩ ∧ a.issueHeld 0x800 none = false ∧ b.2 = true ∧ c.2 = true ∧
      (c.1.pageWrite 0x800 0 (leBytes 4 2)).2 = true := by
  decide

end Sys2Proof.Machine
end

section
/-! SUPPORT. What the forme commands answer on the path that nothing stops (R102, R106, R110, R111, R124). For a command through
FRM_CMD or a ring, `b` is the state that taking it leaves, and the configuration owner gives it. -/

namespace Sys2Proof.Machine

/-! ### Commands of the configuration owner -/

/-- OPEN without a chase opens the lowest FREE number (R110). -/
theorem execFormeOpen_taken (o : Origin) (s b : State) (n : Nat) (htake : s.formeTake o 1 (s.getF FRM_CMD.addr * 64) = (b, true))
    (howner : b.formeOwner o = true) (hchase : b.chase? = none) (hfree : ((List.range 8).find? fun n => b.formeState n == 0) = some n) :
    execFormeOpen o s = .next ((b.setFormeState n 1).formeEnd o stOk n) := by
  unfold execFormeOpen
  simp only [htake, howner, hchase, hfree, Bool.not_true, Bool.false_eq_true, if_false, Option.isSome_none]

/-- LOAD from module memory reads the image at the 64-byte line of the address and loads it into the chase (R124). -/
theorem execFormeLoad_reg_taken (init addr : Nat) (img : List Byte) (s b : State) (n a : Nat) (r : State × Nat)
    (htake : s.formeTake (.reg init) 2 addr = (b, true)) (howner : b.formeOwner (.reg init) = true) (hchase : b.chase? = some n)
    (ha : a = addr % 2 ^ 48 / 64 * 64) (hr : r = b.loadForme n (b.bytes a (imgLe (b.bytes a 64) 8 4))) :
    execFormeLoad (.reg init) addr img s = .next (r.1.formeEnd (.reg init) r.2 n) := by
  unfold execFormeLoad
  simp only [htake, howner, hchase, ← ha, ← hr, Bool.not_true, Bool.false_eq_true, if_false]

/-- LOCK-UP with a READY number begins its check step (R111). -/
theorem execFormeLockUp_taken (o : Origin) (s a b : State) (n : Nat) (htake : s.formeTake o 3 (s.getF FRM_CMD.addr * 64) = (b, true))
    (howner : b.formeOwner o = true) (hchase : b.chase? = some n) (hready : b.formeState n = 2)
    (ha : a = (b.setF FRM_CMD.busy 1).setF FRM_CMD.number n) :
    execFormeLockUp o s = .next { a with frm := { a.frm with lockup := some (o, a.now) } } := by
  unfold execFormeLockUp
  simp only [htake, howner, hchase, hready, ← ha, Bool.not_true, Bool.false_eq_true, if_false, if_true]

/-- DISCARD discards the chase (R110, Table 4-4). -/
theorem execFormeDiscard_taken (o : Origin) (s b : State) (n : Nat) (htake : s.formeTake o 4 (s.getF FRM_CMD.addr * 64) = (b, true))
    (howner : b.formeOwner o = true) (hchase : b.chase? = some n) :
    execFormeDiscard o s = .next ((b.discardForme n).formeEnd o stOk n) := by
  unfold execFormeDiscard
  simp only [htake, howner, hchase, Bool.not_true, Bool.false_eq_true, if_false]

/-! ### The commit of a lock-up -/

/-- Outside a cascade the READY number becomes CURRENT two FCLK after LOCK-UP was taken (R111). -/
theorem execLockUpCommit_ready (s : State) (o : Origin) (t n : Nat) (hlockup : s.frm.lockup = some (o, t)) (hchase : s.chase? = some n)
    (hready : s.formeState n = 2) (halone : s.odf.lockAt = none) :
    execLockUpCommit s =
      let a := ({ s with frm := { s.frm with lockup := none } }.after (t + 2 * fclk)).lockUpNumber n
      .next (a.lockUpEnd o stOk n (a.getF FRM_STATE.lockup_seq)) := by
  unfold execLockUpCommit
  simp only [hlockup, hchase, hready, halone, if_true]

/-! ### Retirement and sweeps -/

/-- The oldest live number, no longer counted as live, retires: to SETTLING while its settle sweep is open, to FREE otherwise (R102). -/
def State.retireForme (s : State) (n : Nat) (sweepOpen : Bool) : State :=
  if sweepOpen then (s.setFormeState n 5).formeEvent 0x05 n else ((s.freeForme n).formeEvent 0x05 n).formeEvent 0x06 n

@[simp] theorem State.retireForme_true (s : State) (n : Nat) :
    s.retireForme n true = (s.setFormeState n 5).formeEvent 0x05 n := rfl

@[simp] theorem State.retireForme_false (s : State) (n : Nat) :
    s.retireForme n false = ((s.freeForme n).formeEvent 0x05 n).formeEvent 0x06 n := rfl

/-- A RETIRING number without packets retires, and the settle sweep of the next oldest is due (R102, R106). -/
theorem execFormeRetired_drained (s : State) (n m : Nat) (rest : List Nat) (horder : s.frm.order = n :: m :: rest)
    (hretiring : s.formeState n = 4) (hdrained : s.getF FRM_REF.packets n = 0) :
    execFormeRetired s =
      let a := { s with frm := { s.frm with order := m :: rest } }
      .next ((a.retireForme n (s.sweepOpen n)).queueSweep m false).resumeInstall := by
  have hgo : ¬ (s.formeState n ≠ 4 ∨ s.getF FRM_REF.packets n ≠ 0) := by simp [hretiring, hdrained]
  unfold execFormeRetired State.retireForme
  simp only [horder, if_neg hgo]

/-- The end of a settle sweep frees its number if that has retired meanwhile, and starts the next sweep (R102, R106). -/
theorem execSettleSweepDone_settling (s a : State) (w : Sweep) (hsweep : s.frm.sweep = some w) (hkind : w.discard = false)
    (ha : a = s.finishSweep w) :
    execSettleSweepDone s =
      .next (if a.formeState w.num = 5 then (a.freeForme w.num).formeEvent 0x06 w.num else a).startSweep.resumeInstall := by
  unfold execSettleSweepDone
  simp only [hsweep, hkind, ← ha, Bool.false_eq_true, if_false]

/-- The end of a discard sweep frees its number and starts the next sweep (R106, R110). -/
theorem execDiscardSweepDone_discarding (s : State) (w : Sweep) (hsweep : s.frm.sweep = some w) (hkind : w.discard = true) :
    execDiscardSweepDone s =
      .next (((s.finishSweep w).freeForme w.num).formeEvent 0x06 w.num).startSweep.resumeInstall := by
  unfold execDiscardSweepDone
  simp only [hsweep, hkind, Bool.not_true, Bool.false_eq_true, if_false]

/-- Settles O22: each command's clause is its lemma above. -/
theorem completeFormes : Obligations.CompleteFormes := by
  unfold Obligations.CompleteFormes
  refine ⟨?openChase, ?load, ?lockUp, ?commit, ?discard, ?retired, ?settled, ?discarded⟩
  case openChase =>
    intro o s b htaken howner hchase n hfree
    exact execFormeOpen_taken o s b.1 n (Prod.ext rfl htaken) howner hchase hfree
  case load =>
    intro init addr img s b htaken howner n hchase a r
    exact execFormeLoad_reg_taken init addr img s b.1 n a r (Prod.ext rfl htaken) howner hchase rfl rfl
  case lockUp =>
    intro o s b htaken howner n hchase hready a
    exact execFormeLockUp_taken o s a b.1 n (Prod.ext rfl htaken) howner hchase hready rfl
  case commit =>
    exact execLockUpCommit_ready
  case discard =>
    intro o s b htaken howner n hchase
    exact execFormeDiscard_taken o s b.1 n (Prod.ext rfl htaken) howner hchase
  case retired =>
    intro s n m rest horder hretiring hdrained a
    have hretired : exec .formeRetired s = .next _ := execFormeRetired_drained s n m rest horder hretiring hdrained
    refine ⟨fun hopen => ?_, fun hclosed => ?_⟩
    · rwa [hopen, State.retireForme_true] at hretired
    · rwa [hclosed, State.retireForme_false] at hretired
  case settled =>
    intro s w hsweep hkind a
    exact execSettleSweepDone_settling s a w hsweep hkind rfl
  case discarded =>
    exact execDiscardSweepDone_discarding

end Sys2Proof.Machine
end

section
/-! SUPPORT. Concrete states that meet the conditions of the statement on formes. -/

namespace Sys2Proof.Machine

/-! ### Commands of firmware in AUTONOMOUS -/

/-- In service in AUTONOMOUS, where firmware owns the configuration: number 0 is CURRENT. -/
def formeOwnerState : State :=
  let s := (servingState.setF MODE_STATE.mode mAutonomous).setFormeState 0 3
  { (s.setF FRM_STATE.current 0).setF FRM_STATE.current_valid 1 with frm := { s.frm with order := [0] } }

/-- Firmware's forme commands are taken, and it is the owner. -/
theorem formeOwnerState_formeTake : ∀ op ∈ [1, 2, 3, 4],
    let b := formeOwnerState.formeTake (.reg 0) op 0x08000000
    b.2 = true ∧ b.1.formeOwner (.reg 0) = true := by decide +kernel

/-- With that CURRENT, OPEN finds number 1 as the lowest FREE one; with 7 numbers in use it finds number 7. -/
theorem formeOwnerState_free :
    let full := [1, 2, 3, 4, 5, 6].foldl (fun s n => s.setFormeState n 5) formeOwnerState
    let lowest (s : State) : Option Nat := (List.range 8).find? fun n => s.formeState n == 0
    formeOwnerState.chase? = none ∧ lowest formeOwnerState = some 1 ∧ full.chase? = none ∧ lowest full = some 7 := by decide +kernel

/-- With number 1 a chase in the given state. -/
def chaseState (v : Nat) : State := formeOwnerState.setFormeState 1 v

/-- LOAD and DISCARD meet a chase that is CHASE or READY, LOCK-UP one that is READY. -/
theorem chaseState_taken :
    (∀ v ∈ [1, 2], ∀ op ∈ [2, 4], let b := (chaseState v).formeTake (.reg 0) op 0x08000000
      b.2 = true ∧ b.1.formeOwner (.reg 0) = true ∧ b.1.chase? = some 1) ∧
    let b := (chaseState 2).formeTake (.reg 0) 3 0
    b.2 = true ∧ b.1.formeOwner (.reg 0) = true ∧ b.1.chase? = some 1 ∧ b.1.formeState 1 = 2 := by decide +kernel

/-! ### The commit, retirement and sweeps -/

/-- A LOCK-UP of number 1 taken at instant 0, outside a cascade. -/
def lockingState : State := { chaseState 2 with frm := { (chaseState 2).frm with lockup := some (.reg 0, 0) } }

/-- Its commit makes number 1 CURRENT behind number 0, which is RETIRING. -/
theorem lockingState_commit :
    lockingState.chase? = some 1 ∧ lockingState.formeState 1 = 2 ∧ lockingState.odf.lockAt = none ∧
      let a := ({ lockingState with frm := { lockingState.frm with lockup := none } }.after (0 + 2 * fclk)).lockUpNumber 1
      a.frm.order = [0, 1] ∧ a.formeState 0 = 4 ∧ a.formeState 1 = 3 := by decide +kernel

/-- Numbers 0 (RETIRING) and 1 are live, and the sweep given runs. -/
def retiringState (sweep : Option Sweep) : State :=
  { (formeOwnerState.setFormeState 0 4).setFormeState 1 3 with frm := { formeOwnerState.frm with order := [0, 1], sweep := sweep } }

/-- Number 0 holds no packet, with its settle sweep open or finished. -/
theorem retiringState_drained :
    (∀ w ∈ [none, some ⟨0, false, 0, 1⟩],
      (retiringState w).formeState 0 = 4 ∧ (retiringState w).getF FRM_REF.packets 0 = 0) ∧
    (retiringState (some ⟨0, false, 0, 1⟩)).sweepOpen 0 = true ∧ (retiringState none).sweepOpen 0 = false := by decide +kernel

/-- At the end of its settle sweep number 0 is still RETIRING, or SETTLING where it has retired meanwhile. -/
theorem retiringState_finishSweep :
    let w : Sweep := ⟨0, false, 0, 1⟩
    ((retiringState (some w)).finishSweep w).formeState 0 = 4 ∧
      (((retiringState (some w)).setFormeState 0 5).finishSweep w).formeState 0 = 5 := by decide +kernel

/-- The discard of number 1 starts its discard sweep. -/
theorem chaseState_discardForme : (((chaseState 1).discardForme 1).frm.sweep.map fun w => (w.num, w.discard)) = some (1, true) := by
  decide +kernel

end Sys2Proof.Machine
end

section
/-! SUPPORT. The hashes of a key, and what the table commands of X_CMD answer on the path that nothing stops (R127, R128, R137,
R142-R144). -/

namespace Sys2Proof.Machine

/-! ### Hashes, home buckets and overflow sets -/

/-- An EML key has 8 bytes, and its seeds stand in EML_HASH_SEED (R127, R128). -/
theorem State.hashes_eml (s : State) (key : Nat) :
    s.hashes 0 key = (crc32c ((s.reg .EML_HASH_SEED).bits 31 0) (keyBytes 8 key),
      crc32c ((s.reg .EML_HASH_SEED).bits 63 32) (keyBytes 8 key)) := rfl

/-- An FLT key has 40 bytes, and its seeds stand in FLT_HASH_SEED (R127, R128). -/
theorem State.hashes_flt (s : State) (key : Nat) :
    s.hashes 4 key = (crc32c ((s.reg .FLT_HASH_SEED).bits 31 0) (keyBytes 40 key),
      crc32c ((s.reg .FLT_HASH_SEED).bits 63 32) (keyBytes 40 key)) := rfl

/-- Settles O11: a table's ways are cut out of its two hashes, which the lemmas above give. -/
theorem hashIndices : Obligations.HashIndices := by
  unfold Obligations.HashIndices
  intro s key h
  unfold State.homeWays State.ovfWays
  rw [State.hashes_eml, State.hashes_flt]
  exact ⟨rfl, rfl, rfl, rfl⟩

/-! ### Commands by register -/

/-- A table command by register, taken (R143): its request is `q`, of the whole module, and its image `v`; the command answers with what
the run of `q` in `u` gives. -/
structure State.TakesTableCommand (s : State) (init : Nat) (blk : Fin 4) (op : Nat) (w : Word) (u : State) (q : TblReq) (v : Nat) :
    Prop where
  table : q.table ≤ 4
  whole : q.limited = false
  noSlice : q.slice = none
  operation : q.op = op
  image : v = q.image % 2 ^ tblWidth q.table
  answers : ∀ (img : List Byte) (r : State × TblAns), u.tblRun q = r →
    s.tableCommand op (.reg init) blk w img = r.1.showTables.tblAnswer q r.2

/-- X_CMD takes a command that reaches it while it is idle and no D reset stands (R143, R158); `t` is the state that has stored it. -/
theorem State.takesTableCommand {s : State} {init : Nat} {blk : Fin 4} {op : Nat} {w : Word} {a : State × Bool} (t u : State) {q : TblReq}
    {v : Nat} (ha : a = s.blockAccess (8 + blk.val) .write init 0) (htaken : a.2 = true) (hidle : a.1.flag X_CMD.busy blk = false)
    (hreset : a.1.modes.dReset = none) (ht : t = a.1.setReg .X_CMD (tblCmdWord (a.1.reg .X_CMD blk) op w) blk)
    (hq : q = t.regReq init blk op w) (hu : u = t.advanceSweep) (hv : v = q.image % 2 ^ tblWidth q.table) :
    s.TakesTableCommand init blk op w u q v := by
  obtain ⟨htable, hlimited, hslice, hop⟩ := t.regReq_whole init blk.val blk.isLt op w
  rw [← hq] at htable hlimited hslice hop
  refine ⟨htable, hlimited, hslice, hop, hv, fun img r hr => ?_⟩
  rw [State.tableCommand_reg_runs init blk w img s op a ha.symm htaken hidle hreset, ← ht, ← hq, State.tblExec_of_run t q r (hu ▸ hr)]

/-- Settles O20: a command by register answers with its run, and each operation's run is a lemma of its own. Each case makes the state,
the request and the image variables again before it cites the run, so that none of them is ever evaluated. -/
theorem completeTableCommands : Obligations.CompleteTableCommands := by
  unfold Obligations.CompleteTableCommands
  refine ⟨?insert, ?delete, ?modify, ?retag, ?lookup, ?readPos, ?deletePos⟩
  case insert =>
    intro init blk w img s a htaken hidle hreset t q u v hpos hown hvis hform hguard
    obtain ⟨htable, hwhole, hslice, hop, himage, hanswers⟩ : s.TakesTableCommand init blk 1 w u q v :=
      State.takesTableCommand t u rfl htaken hidle hreset rfl rfl rfl rfl
    clear_value v u q
    have hanswer := hanswers img _
      (State.tblRun_insert u q v htable hwhole hslice hop himage hpos hown hguard hvis hform)
    exact congrArg Host.Outcome.next hanswer
  case delete =>
    intro init blk w img s a htaken hidle hreset t q u v hpos hown hguard p hmatch
    obtain ⟨htable, hwhole, hslice, hop, himage, hanswers⟩ : s.TakesTableCommand init blk 2 w u q v :=
      State.takesTableCommand t u rfl htaken hidle hreset rfl rfl rfl rfl
    clear_value v u q
    have hanswer := hanswers img _
      (State.tblRun_delete u q v p htable hwhole hslice hop himage hpos hown hguard hmatch)
    exact congrArg Host.Outcome.next hanswer
  case modify =>
    intro init blk w img s a htaken hidle hreset t q u v hpos hown hguard hform p hmatch
    obtain ⟨htable, hwhole, hslice, hop, himage, hanswers⟩ : s.TakesTableCommand init blk 3 w u q v :=
      State.takesTableCommand t u rfl htaken hidle hreset rfl rfl rfl rfl
    clear_value v u q
    have hanswer := hanswers img _
      (State.tblRun_modify u q v p htable hwhole hslice hop himage hpos hown hguard hmatch hform)
    exact congrArg Host.Outcome.next hanswer
  case retag =>
    intro init blk w img s a htaken hidle hreset t q u v hpos hown hguard hnewGuard p hmatch hnew nv hnv hclash
    obtain ⟨htable, hwhole, hslice, hop, himage, hanswers⟩ : s.TakesTableCommand init blk 4 w u q v :=
      State.takesTableCommand t u rfl htaken hidle hreset rfl rfl rfl rfl
    clear_value v u q
    have hanswer := hanswers img _
      (State.tblRun_retag u q v p nv htable hwhole hslice hop himage hpos hown hguard hnewGuard hmatch hnew rfl hnv hclash)
    exact congrArg Host.Outcome.next hanswer
  case lookup =>
    intro init blk w img s a htaken hidle hreset t q u v hpos hown
    obtain ⟨htable, hwhole, hslice, hop, himage, hanswers⟩ : s.TakesTableCommand init blk 5 w u q v :=
      State.takesTableCommand t u rfl htaken hidle hreset rfl rfl rfl rfl
    clear_value v u q
    have hanswer := hanswers img _
      (State.tblRun_lookup u q v htable hwhole hslice hop himage hpos hown)
    exact congrArg Host.Outcome.next hanswer
  case readPos =>
    intro init blk w s a htaken hidle hreset t q u v hpos hvalid hgood
    obtain ⟨htable, hwhole, hslice, hop, himage, hanswers⟩ : s.TakesTableCommand init blk 6 w u q v :=
      State.takesTableCommand t u rfl htaken hidle hreset rfl rfl rfl rfl
    clear_value v u q
    have hanswer := hanswers [] _
      (State.tblRun_readPos u q htable hwhole hslice hop hpos hvalid hgood)
    exact congrArg Host.Outcome.next hanswer
  case deletePos =>
    intro init blk w s a htaken hidle hreset t q u v hpos hvalid
    obtain ⟨htable, hwhole, hslice, hop, himage, hanswers⟩ : s.TakesTableCommand init blk 7 w u q v :=
      State.takesTableCommand t u rfl htaken hidle hreset rfl rfl rfl rfl
    clear_value v u q
    have hanswer := hanswers [] _
      (State.tblRun_deletePos u q htable hwhole hslice hop hpos hvalid)
    exact congrArg Host.Outcome.next hanswer

end Sys2Proof.Machine
end

section
/-! SUPPORT. What the upkeep of the tables answers on the path that nothing stops: seeds, promotion, ageing, learning, the flow table's
replicas (R36, R128, R136, R141, R148, R152, R153, R157). -/

namespace Sys2Proof.Machine

/-! ### Seeds and promotion -/

/-- A write of a seed register that is let through frees the table's entries exactly where it changes the seeds (R128; that a write of
the seeds it holds frees nothing is log 17, the model's choice). -/
theorem execHashSeedWrite_taken (init : Nat) (flt wide upper : Bool) (v : Word) (s : State) (blk off : Nat) (r : Reg) (a : State × Bool)
    (t : State) (hblk : blk = if flt then 11 else 8) (hr : r = if flt then .FLT_HASH_SEED else .EML_HASH_SEED)
    (hoff : off = if upper && !wide then 0x84 else 0x80) (ha : a = s.blockAccess blk .write init off) (htaken : a.2 = true)
    (ht : t = a.1.storeReg (fun _ => true) blk off r 0 0 wide upper v) :
    execHashSeedWrite init flt wide upper v s =
      if t.reg r = a.1.reg r then .next t else .next (t.clearHashTable (if flt then 4 else 0)) := by
  unfold execHashSeedWrite
  simp only [← hblk, ← hr, ← hoff, ← ha, htaken, ← ht, Bool.not_true, Bool.false_eq_true, if_false]

/-- An overflow entry whose home bucket has a free way moves to the lowest one (R141). -/
theorem execOverflowPromotion_free (flt : Bool) (pos : Nat) (s : State) (t p : Nat) (ht : t = if flt then 4 else 0)
    (hovf : isOvf pos = true) (hentry : s.entry t pos ≠ 0) (hgood : s.posBad t pos = false) (hreset : s.modes.dReset = none)
    (hfree : (s.homeWays t (imgKey t (s.entry t pos))).find? (s.wayFree t) = some p) :
    execOverflowPromotion flt pos s = .next (s.relocate t pos p 0).showTables := by
  unfold execOverflowPromotion
  simp only [← ht, hovf, hentry, hgood, hreset, hfree, Option.isSome_none, Bool.true_eq_false, Bool.false_eq_true, or_self, if_false]

/-! ### Ageing -/

/-- A pass of the EML's ager meets each entry once, and the next pass is due age_time / 2 later (R148). -/
theorem execAgerPass_eml (s a b : State) (p : Nat) (hp : p = s.getF X_AGE_CFG.age_time 0) (hon : p ≠ 0) (ha : a = s.after s.tbl.ageE)
    (hb : b = (a.tab 0).foldl (fun u q => u.ageEntry 0 (s.getF X_AGE_CFG.mode 0) q.1 q.2) a) :
    execAgerPass false s = .next { b with tbl := { b.tbl with ageE := a.now + p * msT / 2 } }.showTables := by
  unfold execAgerPass
  simp only [Bool.false_eq_true, if_false, ← hp, hon, ← ha, ← hb, false_and, or_self]

/-! ### Learning -/

/-- The oldest EML event leaves its queue and is executed as the mode selects (R150, R152). -/
theorem execEmlLearnEvent_queued (s a : State) (e : LearnEv) (rest : List LearnEv) (hqueue : s.tbl.emlFifo = e :: rest)
    (ha : a = { s with tbl := { s.tbl with emlFifo := rest } }.advanceSweep) :
    execEmlLearnEvent s = .next (if s.getF EML_LEARN_CFG.mode = 2 then a.learnHw e
      else if s.getF EML_LEARN_CFG.mode = 1 then a.learnNotify e else a) := by
  unfold execEmlLearnEvent
  simp only [hqueue, ← ha]

/-- Out of STANDBY the oldest flow event leaves its queue and is executed as the mode selects (R150, R157). -/
theorem execFltLearnEvent_queued (s a : State) (e : LearnEv) (rest : List LearnEv) (hqueue : s.tbl.fltFifo = e :: rest)
    (hmode : s.mode ≠ mStandby) (ha : a = { s with tbl := { s.tbl with fltFifo := rest } }.advanceSweep) :
    execFltLearnEvent s = .next (if s.getF FLT_LEARN_CFG.mode = 2 then a.flowLearn e
      else if s.getF FLT_LEARN_CFG.mode = 1 then a.flowNotify e else a) := by
  unfold execFltLearnEvent
  simp only [hqueue, hmode, ← ha, if_false]

/-! ### The flow table's stores -/

/-- A write-back takes the replica off the list of those that the store entry still waits for (R36). -/
theorem execReplicaWriteBack_pending (g : Fin 8) (n : Nat) (s : State) (p : PendW) (hpend : s.tbl.pend[n]? = some p) :
    execReplicaWriteBack g n s = .next { s with tbl := { s.tbl with
      pend := s.tbl.pend.set n { p with left := p.left.filter (· != g.val), last := s.fnow } } } := by
  unfold execReplicaWriteBack
  simp only [hpend]

/-- The oldest store entry that every replica holds leaves the store (R36). -/
theorem execPendingWriteRelease_written (s : State) (p : PendW) (hpend : (s.tbl.pend.find? fun q => q.left.isEmpty) = some p) :
    execPendingWriteRelease s =
      .next { s.after ((p.last + 192) * fclk) with tbl := { s.tbl with pend := s.tbl.pend.erase p } } := by
  unfold execPendingWriteRelease
  simp only [hpend]

/-- A home entry of which a replica is good has its word rewritten through the pending-write store, and is counted (R136). -/
theorem execReplicaRepair_replica (pos word : Nat) (s a : State) (hhome : isOvf pos = false) (hentry : s.entry 4 pos ≠ 0)
    (ha : a = s.pendRoom) :
    execReplicaRepair pos word false s = .next ({ a with tbl := { a.tbl with
      bad := a.tbl.bad.filter fun b => !(b.1 == 4 && b.2.1 == pos && b.2.2 == word)
      pend := a.tbl.pend ++ [(⟨pos, s.entry 4 pos, a.fnow, List.range 8, a.fnow⟩ : PendW)] } }.bump X_CNT.count 3 12) := by
  unfold execReplicaRepair
  simp only [hhome, hentry, ← ha, Bool.false_eq_true, or_self, if_false]

/-- Settles O21: each command's clause is its lemma above; HOLD_SWEEP has no condition, and its clause is its meaning. That a write of
the seeds that a register holds frees nothing rests on log 17, the model's choice beside R128. -/
theorem completeTableUpkeep : Obligations.CompleteTableUpkeep := by
  unfold Obligations.CompleteTableUpkeep
  refine ⟨?seed, ?promotion, ?ager, ?emlLearn, ?fltLearn, ?hold, ?writeBack, ?release, ?repair⟩
  case seed =>
    intro init flt wide upper v s blk r off a htaken t
    have hseed : exec (.hashSeedWrite init flt wide upper v) s = _ :=
      execHashSeedWrite_taken init flt wide upper v s blk off r a t rfl rfl rfl rfl htaken rfl
    exact ⟨fun hchanged => hseed.trans (if_neg hchanged), fun hkept => hseed.trans (if_pos hkept)⟩
  case promotion =>
    intro flt pos s t hovf hentry hgood hreset p hfree
    exact execOverflowPromotion_free flt pos s t p rfl hovf hentry hgood hreset hfree
  case ager =>
    intro s p hon a b
    exact execAgerPass_eml s a b p rfl hon rfl rfl
  case emlLearn =>
    intro s e rest hqueue a
    have hlearn : exec .emlLearnEvent s = .next _ := execEmlLearnEvent_queued s a e rest hqueue rfl
    exact ⟨fun hhw => by rw [hlearn, if_pos hhw], fun hnotify => by rw [hlearn, hnotify, if_neg (by decide), if_pos rfl]⟩
  case fltLearn =>
    intro s e rest hqueue hmode a
    have hlearn : exec .fltLearnEvent s = .next _ := execFltLearnEvent_queued s a e rest hqueue hmode rfl
    exact ⟨fun hhw => by rw [hlearn, if_pos hhw], fun hnotify => by rw [hlearn, hnotify, if_neg (by decide), if_pos rfl]⟩
  case hold =>
    intro s a h f
    rfl
  case writeBack =>
    exact execReplicaWriteBack_pending
  case release =>
    exact execPendingWriteRelease_written
  case repair =>
    intro pos word s hhome hentry a bad p
    exact execReplicaRepair_replica pos word s a hhome hentry rfl

end Sys2Proof.Machine
end

section
/-! SUPPORT. Concrete states that meet the conditions of the statements on table commands and on the tables' upkeep. -/

namespace Sys2Proof.Machine

/-! ### Commands by register -/

/-- An EML image of key 5 with a visibility, for forme 1. -/
def emlImage (vis : Nat) : Nat := 5 + 1 * 2 ^ 123 + vis * 2 ^ 126

/-- Forme 1 is a chase, the EML block's data registers hold an image, and the EML holds the entries given. -/
def emlCommandState (v : Nat) (entries : Tab Nat) : State :=
  let s := ((chaseState 1).setReg .X_CMD_DATA (BitVec.ofNat 64 v) 0 0).setReg .X_CMD_DATA (BitVec.ofNat 64 (v / 2 ^ 64)) 0 1
  { s with tbl := { s.tbl with eml := entries } }

/-- Firmware's table command: the state it is decided in, and its request. -/
def decidedCommand (s : State) (blk : Fin 4) (op : Nat) (w : Word) : State × TblReq :=
  let a := s.blockAccess (8 + blk.val) .write 0 0
  let t := a.1.setReg .X_CMD (tblCmdWord (a.1.reg .X_CMD blk.val) op w) blk.val
  (t.advanceSweep, t.regReq 0 blk.val op w)

/-- X_CMD of each table block takes firmware's commands. -/
theorem emlCommandState_taken : ∀ blk : Fin 4, let a := (emlCommandState 0 []).blockAccess (8 + blk.val) .write 0 0
    a.2 = true ∧ a.1.flag X_CMD.busy blk.val = false ∧ a.1.modes.dReset = none := by decide +kernel

/-- INSERT into an empty EML, visible to all or from the chase on: its conditions hold, and it takes the home bucket's lowest way. -/
theorem emlCommandState_insert : ∀ vis ∈ [1, 2], let v := emlImage vis
    let d := decidedCommand (emlCommandState v []) 0 1 0
    d.2.table = 0 ∧ v = d.2.image % 2 ^ tblWidth 0 ∧ imgVis 0 v = vis ∧ imgFormatOk 0 v = true ∧
      d.1.formeGuard (imgVis 0 v) (imgVf 0 v) d.2.expect = none ∧ (d.1.tblInsert d.2 v).2 = ⟨stOk, some 110720, 0, none⟩ := by
  decide +kernel

/-- DELETE and MODIFY find that entry in the last way of its home bucket, and LOOKUP finds it where forme 1 sees it. -/
theorem emlCommandState_match : let v := emlImage 1
    (∀ op ∈ [2, 3], let d := decidedCommand (emlCommandState v [(110723, v)]) 0 op 0
      d.2.table = 0 ∧ v = d.2.image % 2 ^ tblWidth 0 ∧ imgFormatOk 0 v = true ∧
        d.1.formeGuard (imgVis 0 v) (imgVf 0 v) d.2.expect = none ∧ d.1.matchEntry d.2 v = some 110723) ∧
    let d := decidedCommand (emlCommandState v [(110723, v)]) 0 5 (1 * 2 ^ 44)
    d.2.table = 0 ∧ d.1.tblFind d.2 v = ⟨stOk, some 110723, 0, some v⟩ := by decide +kernel

/-- RETAG of that entry, to be seen until the chase locks up, clashes with no other. -/
theorem emlCommandState_retag : let v := emlImage 1
    let d := decidedCommand (emlCommandState v [(110723, v)]) 0 4 (3 * 2 ^ 42 + 1 * 2 ^ 39)
    let nv := d.1.settledVis d.2.newVis d.2.newVf
    d.2.table = 0 ∧ v = d.2.image % 2 ^ tblWidth 0 ∧ d.1.formeGuard (imgVis 0 v) (imgVf 0 v) d.2.expect = none ∧
      d.1.formeGuard d.2.newVis d.2.newVf d.2.expect = none ∧ d.1.matchEntry d.2 v = some 110723 ∧ d.2.newVis = 3 ∧ nv = 3 ∧
      d.1.imgClash 0 (imgTag 0 (d.1.entry 0 110723) nv d.2.newVf) d.2.pos (some 110723) = false := by decide +kernel

/-- READ_POS and DELETE_POS of the last position of each EML store, of the action table and of each FLT store. -/
theorem emlCommandState_pos : ∀ op ∈ [6, 7],
    let valid (blk : Fin 4) (act table pos : Nat) : Bool :=
      let d := decidedCommand (emlCommandState 0 []) blk op (BitVec.ofNat 64 (act * 2 ^ 38 + pos))
      d.2.table == table && d.2.pos == pos && posValid table pos && !d.1.posBad table pos
    valid 0 0 0 (2 ^ 18 - 1) = true ∧ valid 0 0 0 (2 ^ 23 + 2 ^ 11 - 1) = true ∧ valid 2 1 3 (2 ^ 16 - 1) = true ∧
      valid 3 0 4 (2 ^ 22 - 1) = true ∧ valid 3 0 4 (2 ^ 23 + 2 ^ 14 - 1) = true := by decide +kernel

/-- An FLT key is this member's while the flow table is not partitioned. -/
theorem emlCommandState_own : let d := decidedCommand (emlCommandState 0 []) 3 5 0
    d.2.table = 4 ∧ d.1.fltForeign (imgKey 4 (d.2.image % 2 ^ tblWidth 4)) = false := by decide +kernel

/-! ### Seeds, promotion and ageing -/

/-- While a D reset holds the data path, a write of either seed register reaches it and changes it where its value is another one; while
none does, the write is refused and changes nothing (R42). -/
theorem resettingState_seed : ∀ x ∈ [((8 : Nat), Reg.EML_HASH_SEED), (11, Reg.FLT_HASH_SEED)],
    let a (s : State) := s.blockAccess x.1 .write 0 0x80
    let t (s : State) (v : Word) := (a s).1.storeReg (fun _ => true) x.1 0x80 x.2 0 0 true false v
    (a resettingState).2 = true ∧ (t resettingState 7).reg x.2 ≠ (a resettingState).1.reg x.2 ∧
      (t resettingState ((a resettingState).1.reg x.2)).reg x.2 = (a resettingState).1.reg x.2 ∧
      (a servingState).2 = true ∧ (t servingState 7).reg x.2 = (a servingState).1.reg x.2 := by decide +kernel

/-- In service, the EML and the FLT hold the entries given. -/
def hashTables (eml flt : Tab Nat) : State := { servingState with tbl := { servingState.tbl with eml := eml, flt := flt } }

/-- The last EML overflow way of key 5, its home bucket empty or with one way left, and the first FLT one: `p` is the free way. -/
theorem hashTables_promotion :
    let promotes (t pos p : Nat) (s : State) : Bool :=
      isOvf pos && s.entry t pos != 0 && !s.posBad t pos && s.modes.dReset.isNone
        && (s.homeWays t (imgKey t (s.entry t pos))).find? (s.wayFree t) == some p
    promotes 0 8389839 110720 (hashTables [(8389839, 5)] []) = true ∧
      promotes 0 8389839 110723 (hashTables [(110720, 6), (110721, 7), (110722, 8), (8389839, 5)] []) = true ∧
      promotes 4 8402968 1004580 (hashTables [] [(8402968, 5)]) = true := by decide +kernel

/-- The EML's ager is on. -/
theorem hashTables_ager : (hashTables [] []).getF X_AGE_CFG.age_time 0 ≠ 0 := by decide +kernel

/-! ### Learning and the flow table's stores -/

/-- One event stands in each learning queue, and both tables learn in the mode given. -/
def learningState (mode : Nat) : State :=
  let s := (servingState.setF EML_LEARN_CFG.mode mode).setF FLT_LEARN_CFG.mode mode
  { s with tbl := { s.tbl with emlFifo := [⟨5, 1, 0⟩], fltFifo := [⟨5, 1, 0⟩] } }

/-- Both events are executed in hardware mode and in notify mode, out of STANDBY. -/
theorem learningState_modes : ∀ mode ∈ [1, 2], let s := learningState mode
    s.tbl.emlFifo = [⟨5, 1, 0⟩] ∧ s.tbl.fltFifo = [⟨5, 1, 0⟩] ∧ s.mode ≠ mStandby ∧ s.getF EML_LEARN_CFG.mode = mode ∧
      s.getF FLT_LEARN_CFG.mode = mode := by decide +kernel

/-- A full pending-write store, its first entry written to every replica, the others to none. -/
def storeFullState : State :=
  let s := hashTables [] [(1004580, 5)]
  { s with tbl := { s.tbl with pend := ⟨0, 0, 0, [], 0⟩ :: List.replicate 127 ⟨1, 0, 0, List.range 8, 0⟩ } }

/-- Its last entry can be written back and its first released; a repair finds a home entry, and waits for the store's first place. -/
theorem storeFullState_pend : storeFullState.tbl.pend[127]? = some ⟨1, 0, 0, List.range 8, 0⟩ ∧
    (storeFullState.tbl.pend.find? fun q => q.left.isEmpty) = some ⟨0, 0, 0, [], 0⟩ ∧ isOvf 1004580 = false ∧
      storeFullState.entry 4 1004580 ≠ 0 ∧ storeFullState.pendRoom.tbl.pend.length = 127 := by decide +kernel

end Sys2Proof.Machine
end

section
/-! SUPPORT. What admission, the scheduler, the parameter epoch and the policers answer on the path that nothing stops (R162, R164,
R174, R175, R177, R180–R183, R191). Three outcomes are the model's choice: a selection happens at one instant (log 14), a packet
that no output takes counts in ODF_CNT 3 (log 75), a spilled packet comes back by a command of its own (log 82). -/

namespace Sys2Proof.Machine

/-! ### Accesses to the traffic manager's registers -/

/-- An access that is let through changes nothing (R356). -/
theorem State.blockAccess_allowed {s : State} {blk : Nat} {k : AccessKind} {init off : Nat}
    (h : (s.blockAccess blk k init off).2 = true) : (s.blockAccess blk k init off).1 = s := by
  revert h
  unfold State.blockAccess
  cases s.actDenies blk k init (off / 8) (off / 8) with
  | none => exact fun _ => rfl
  | some r => exact fun h => absurd h Bool.false_ne_true

/-- A node's configuration word takes no value while an epoch request runs (R182). -/
theorem State.writeNode_busy (s : State) (i : Nat) (v : Word) (h : s.flag TMG_EPOCH.busy = true) :
    s.writeNode i v = s.refuseWrite 12 (0x10 + 8 * i) := by
  unfold State.writeNode
  simp only [h, if_true]

/-- No D reset reaches TMG_NODE_CFG, so that its write comes to `State.writeNode` even while the data path is held. -/
theorem State.performWrite_nodeCfg_busy (s : State) (init a : Nat) (wide : Bool) (v : Word) (i j : Nat) (upper : Bool) (c : State × Bool)
    (hmaster : s.masterReaches init = true) (hc : c = s.placeAccess .write init (.window a)) (haccess : c.2 = true)
    (hdoorbell : placeDoorbell init (.window a) = none)
    (hplace : (placeReg init (.window a)).2 = some (.TMG_NODE_CFG, i, j, upper)) (hwidth : widthOk .TMG_NODE_CFG wide upper = true)
    (hbusy : c.1.flag TMG_EPOCH.busy = true) :
    s.performWrite init (.window a) wide v = .next (c.1.refuseWrite 12 (0x10 + 8 * i)) := by
  have hletters : Reg.TMG_NODE_CFG.row.resets.contains .d = false := rfl
  have hown : ∀ w, c.1.ownWrite init (placeBlock init (.window a)).2 .TMG_NODE_CFG i wide upper w
      = some (.next (c.1.refuseWrite 12 (0x10 + 8 * i))) :=
    fun w => congrArg (fun t => some (Host.Outcome.next t)) (c.1.writeNode_busy i _ hbusy)
  unfold State.performWrite
  simp only [placeNormal_window, hmaster, ← hc, haccess, hdoorbell, hplace, hwidth, hletters, hown, Bool.not_true, Bool.and_false,
    Bool.false_eq_true, if_false]

/-! ### The parameter epoch -/

/-- The instant of the epoch request that validates, replaced. -/
def State.setEpochAt (s : State) (t : Option Nat) : State := { s with tm := { s.tm with epochAt := t } }

@[simp] theorem State.setEpochAt_modes (s : State) (t : Option Nat) : (s.setEpochAt t).modes = s.modes := rfl
@[simp] theorem State.setEpochAt_epochAt (s : State) (t : Option Nat) : (s.setEpochAt t).tm.epochAt = t := rfl

/-- A request that is let through while none runs is stamped with its instant (R180). -/
theorem execEpochGo_taken (init : Nat) (s u : State) (a : State × Bool) (ha : a = s.blockAccess 12 .write init 0) (haccess : a.2 = true)
    (hidle : a.1.flag TMG_EPOCH.busy = false) (hu : u = a.1.setF TMG_EPOCH.busy 1) :
    execEpochGo init s = .next (u.setEpochAt (some u.now)) := by
  unfold execEpochGo
  simp only [← ha, haccess, hidle, ← hu, Bool.not_true, Bool.or_self, Bool.false_eq_true, if_false]
  rfl

/-- A D reset holds an epoch request (R182). -/
theorem execEpochSwap_held (s : State) (r : RstReq) (h : s.modes.dReset = some r) : execEpochSwap s = .next s := by
  unfold execEpochSwap
  cases s.tm.epochAt with
  | none => rfl
  | some t => simp only [h, Option.isSome_some, if_true]

/-- What a validation ends in: the swap, or MALFORMED with the node that breaks a rule (R181, R183). -/
def State.endEpoch (s : State) : Option (Nat × Nat) → State
  | none => (((s.swapEpoch s.tm.shadow).bump TMG_EPOCH.epoch_seq).setF TMG_EPOCH.result stOk).setF TMG_EPOCH.busy 0
  | some (l, i) =>
    (((s.setF TMG_EPOCH.bad_level l).setF TMG_EPOCH.bad_index i).setF TMG_EPOCH.result stMalformed).setF TMG_EPOCH.busy 0

/-- While no D reset stands, a request ends 22,659 FCLK after its start (R181). -/
theorem execEpochSwap_running (s b a : State) (t : Nat) (hrequest : s.tm.epochAt = some t) (hreset : s.modes.dReset = none)
    (hb : b = s.after (t + 22659 * fclk)) (ha : a = b.setEpochAt none) :
    execEpochSwap s = .next (a.endEpoch (a.badNode a.tm.shadow)) := by
  subst ha
  unfold execEpochSwap
  simp only [hrequest, hreset, ← hb, Option.isSome_none, Bool.false_eq_true, if_false]
  have hend {bad : Option (Nat × Nat)} (h : (b.setEpochAt none).badNode b.tm.shadow = bad) :=
    congrArg (fun bad => (Host.Outcome.next ((b.setEpochAt none).endEpoch bad) : Res)) h.symm
  split
  next l i hbad => exact hend hbad
  next hvalid => exact hend hvalid

@[simp] theorem State.setNrun_epochAt (s : State) (l i : Nat) (r : NodeRun) : (s.setNrun l i r).tm.epochAt = s.tm.epochAt := rfl

@[simp] theorem State.swapNode_epochAt (s : State) (l i : Nat) (n : NodeRec) : (s.swapNode l i n).tm.epochAt = s.tm.epochAt := by
  unfold State.swapNode
  dsimp only
  split
  · rfl
  · split <;> exact State.setNrun_epochAt ..

@[simp] theorem State.dropQueues_tm (s : State) (k : Nat) (qs : List Nat) : (s.dropQueues k qs).tm = s.tm :=
  (State.dropQueues_keeps s k qs (.rfl' 8392247 s) (.rfl' _)).tm (by decide)

@[simp] theorem State.showNode_tm (s : State) : s.showNode.tm = s.tm :=
  (State.showNode_keeps s (.rfl' 3 s) (.rfl' _)).tm (by decide)

/-- A run of changes none of which touches the epoch request leaves it. -/
theorem epochAt_foldl {β : Type} {f : State → β → State} (hf : ∀ u x, (f u x).tm.epochAt = u.tm.epochAt) (l : List β) (s : State) :
    (l.foldl f s).tm.epochAt = s.tm.epochAt := by
  induction l generalizing s with
  | nil => rfl
  | cons x l ih => exact (ih (f s x)).trans (hf s x)

@[simp] theorem State.swapEpoch_epochAt (s : State) (shadow : Tab NodeRec) : (s.swapEpoch shadow).tm.epochAt = s.tm.epochAt := by
  unfold State.swapEpoch
  simp only [State.showNode_tm, State.dropQueues_tm]
  rw [epochAt_foldl fun u p => u.setNrun_epochAt _ _ _, epochAt_foldl fun u p => u.swapNode_epochAt _ _ _]

/-- The end of a validation requests no other. -/
@[simp] theorem State.endEpoch_epochAt (s : State) (bad : Option (Nat × Nat)) : (s.endEpoch bad).tm.epochAt = s.tm.epochAt := by
  unfold State.endEpoch
  cases bad with
  | none => simp
  | some n => simp

/-- Settles O13: a busy node write is `State.performWrite_nodeCfg_busy`, a request that a D reset holds is `execEpochSwap_held`, and
one that runs ends as `execEpochSwap_running` says, with no request left. -/
theorem busyEpochRefusesNodes : Obligations.BusyEpochRefusesNodes := by
  unfold Obligations.BusyEpochRefusesNodes
  refine ⟨?write, ?held, ?released⟩
  case write =>
    intro init a wide v s i j upper hmaster c haccess hdoorbell hplace hwidth hbusy
    exact s.performWrite_nodeCfg_busy init a wide v i j upper c hmaster rfl haccess hdoorbell hplace hwidth hbusy
  case held =>
    intro init s r hreset a haccess hidle
    have hsame : a.1 = s := State.blockAccess_allowed haccess
    obtain ⟨u, hu⟩ : ∃ u, u = a.1.setF TMG_EPOCH.busy 1 := ⟨_, rfl⟩
    have hnow : u.now = s.now := by rw [hu, State.setF_now, hsame]
    have hmodes : u.modes = s.modes := by rw [hu, State.setF_modes, hsame]
    exact ⟨_, execEpochGo_taken init s u a rfl haccess hidle hu, congrArg some hnow, hmodes,
      execEpochSwap_held (u.setEpochAt (some u.now)) r (by rw [State.setEpochAt_modes, hmodes, hreset])⟩
  case released =>
    intro s t hrequest hreset
    exact ⟨_, execEpochSwap_running s _ _ t hrequest hreset rfl rfl, State.endEpoch_epochAt _ _⟩

/-! ### Admission and spill -/

/-- The packet that reaches the hand-off first is linked at the queue of its output; without a path to one it is dropped (R162, R175). -/
theorem execEnqueue_due (p : Fin 4) (s a : State) (id : Nat) (k : Pkt) (hdue : firstDue (s.pktsIn .handoff p.val) = some (id, k))
    (ha : a = (s.after k.due).popLst .handoff p.val id) (hkept : a.standbyDrops k = false) :
    execEnqueue p s = .next ((a.outputOf k).elim ((a.bump ODF_CNT.count 3).dropPkt id) fun x => a.enqueuePkt id k x.1 x.2) := by
  unfold execEnqueue
  simp only [hdue, ← ha, hkept, Bool.false_eq_true, if_false]
  cases a.outputOf k <;> rfl

/-- The first spilled packet among the two at the front comes back on-die (R177). -/
theorem execSpillFetch_spilled (q : Nat) (s : State) (id : Nat) (k : Pkt)
    (h : (((s.pktsIn .queue q).take 2).find? fun p => p.2.spilled) = some (id, k)) :
    execSpillFetch q s = .next (s.setPkt id { k with spilled := false }) := by
  unfold execSpillFetch
  simp only [h]

/-! ### Selection -/

/-- The chains of the candidate queues of an output (R165). -/
def State.candidateChains (s : State) (o : Nat) : List (List (Nat × Nat)) :=
  (s.busyQueues.filter (s.queueCandidate o)).filterMap s.chain

/-- The first output in order with an eligible packet and room is served: a descent to a queue takes its head (R164–R166). -/
theorem execSchedulerSelection_served (ep : Fin 4) (noRoom : List Nat) (upset : Bool) (s a u : State) (o : Nat)
    (d : State × List (Nat × Nat)) (hreset : s.modes.dReset = none) (ha : a = (s.toFirstHead ep.val).dropOld 0)
    (hserved : ((a.outOrder ep.val).find? fun o => a.outRoom noRoom o && !(a.candidateChains o).isEmpty) = some o)
    (hd : d = a.descend (a.candidateChains o) 4 1 o) (hqueue : d.2.length = 4)
    (hu : u = d.1.takeHead ep.val ((1, o) :: d.2).reverse upset) :
    execSchedulerSelection ep noRoom [] upset s = .next { u with tm := { u.tm with selAt := Tab.put u.tm.selAt ep.val u.now } } := by
  unfold State.candidateChains at hserved hd
  unfold execSchedulerSelection
  simp only [hreset, List.foldl_nil, ← ha, hserved, ← hd, hqueue, ← hu, Option.isSome_none, Bool.false_eq_true, if_false, if_true]

/-! ### Policer commands -/

/-- A write of bursts above 0 commits the record (R174). -/
theorem execPolicerWrite_taken (init : Nat) (index : Fin 65536) (s a : State) (c : State × Bool)
    (hc : c = s.blockAccess 12 .write init 0x200) (haccess : c.2 = true) (hidle : c.1.flag TMG_POL_CMD.busy = false)
    (ha : a = (c.1.setF TMG_POL_CMD.op 1).setF TMG_POL_CMD.index index.val) (hcommitted : (a.reg .TMG_POL_CFG 0).bits 35 12 ≠ 0)
    (hexcess : (a.reg .TMG_POL_CFG 1).bits 35 12 ≠ 0) :
    execPolicerWrite init index s
      = .next ((a.setPol index.val (a.polWritten (a.pol index.val))).setF TMG_POL_CMD.result stOk) := by
  unfold execPolicerWrite
  simp only [← hc, haccess, hidle, ← ha, hcommitted, hexcess, Bool.not_true, Bool.or_self, Bool.false_eq_true, or_self, if_false]

/-- A read shows the record in TMG_POL_CFG (R191). -/
theorem execPolicerRead_taken (init : Nat) (index : Fin 65536) (s a : State) (c : State × Bool)
    (hc : c = s.blockAccess 12 .write init 0x200) (haccess : c.2 = true) (hidle : c.1.flag TMG_POL_CMD.busy = false)
    (ha : a = (c.1.setF TMG_POL_CMD.op 2).setF TMG_POL_CMD.index index.val) :
    execPolicerRead init index s
      = .next (((a.setReg .TMG_POL_CFG (a.pol index.val).w0 0).setReg .TMG_POL_CFG (a.pol index.val).w1 1).setF TMG_POL_CMD.result
          stOk) := by
  unfold execPolicerRead
  simp only [← hc, haccess, hidle, ← ha, Bool.not_true, Bool.or_self, Bool.false_eq_true, if_false]

/-- Settles O17: each command's clause is its lemma above; AGE_DROP has no condition, and its clause is its meaning. That the descent
ends in one instant rests on log 14, the count of a packet without a path on log 75, SPILL_FETCH as a command on log 82: choices of
the model beside R164, R175 and R177. -/
theorem completeTraffic : Obligations.CompleteTraffic := by
  unfold Obligations.CompleteTraffic
  refine ⟨?selection, ?age, ?go, ?swap, ?polWrite, ?polRead, ?enqueue, ?spill⟩
  case selection =>
    intro ep noRoom upset s o hreset a chains hserved d hqueue u
    exact execSchedulerSelection_served ep noRoom upset s a u o d hreset rfl hserved rfl hqueue rfl
  case age =>
    intro s
    rfl
  case go =>
    intro init s a haccess hidle u
    exact execEpochGo_taken init s u a rfl haccess hidle rfl
  case swap =>
    intro s t hrequest hreset b a
    have hswap : exec .epochSwap s = .next (a.endEpoch (a.badNode a.tm.shadow)) :=
      execEpochSwap_running s b a t hrequest hreset rfl rfl
    exact ⟨fun hvalid => by rw [hswap, hvalid]; rfl, fun l i hbad => by rw [hswap, hbad]; rfl⟩
  case polWrite =>
    intro init index s c haccess hidle a hcommitted hexcess
    exact execPolicerWrite_taken init index s a c rfl haccess hidle rfl hcommitted hexcess
  case polRead =>
    intro init index s c haccess hidle a
    exact execPolicerRead_taken init index s a c rfl haccess hidle rfl
  case enqueue =>
    intro p s id k hdue a hkept
    have henqueue : exec (.enqueue p) s = .next _ := execEnqueue_due p s a id k hdue rfl hkept
    exact ⟨fun o q hpath => by rw [henqueue, hpath]; rfl, fun hlost => by rw [henqueue, hlost]; rfl⟩
  case spill =>
    exact execSpillFetch_spilled

end Sys2Proof.Machine
end

section
/-! SUPPORT. Concrete states that meet the conditions of the statements on the traffic manager. -/

namespace Sys2Proof.Machine

/-- In service, the default epoch is live and in the shadow. -/
def trafficState : State := { servingState with tm := { servingState.tm with live := defaultEpoch, shadow := defaultEpoch } }

/-! ### The parameter epoch -/

/-- While a request runs, firmware's writes reach the whole first word, and the upper half of the last one while the data path is held. -/
theorem trafficState_nodeWrite :
    let reaches (s : State) (off : Nat) (wide : Bool) (i : Nat) (upper : Bool) : Bool :=
      let c := s.placeAccess .write 0 (.window off)
      s.masterReaches 0 && c.2 && (placeDoorbell 0 (.window off)).isNone && c.1.flag TMG_EPOCH.busy
        && (placeReg 0 (.window off)).2 == some (.TMG_NODE_CFG, i, 0, upper) && widthOk .TMG_NODE_CFG wide upper
    let busy := trafficState.setF TMG_EPOCH.busy 1
    reaches busy 0xD00010 true 0 false = true ∧ reaches (busy.setF X_BLK_STATUS.d_hold 1 12) 0xD0002C false 3 true = true := by
  decide +kernel

/-- Firmware requests an epoch in service and during a D reset. -/
theorem trafficState_epochGo : ∀ s ∈ [trafficState, resettingState],
    (s.blockAccess 12 .write 0 0).2 = true ∧ (s.blockAccess 12 .write 0 0).1.flag TMG_EPOCH.busy = false := by decide +kernel

theorem trafficState_dReset : trafficState.modes.dReset = none ∧ resettingState.modes.dReset = some ⟨.d, some 8, 0⟩ := ⟨rfl, rfl⟩

/-- The default epoch breaks no rule; in a shadow that nothing has written, output 0 has no burst. -/
theorem trafficState_badNode :
    trafficState.badNode trafficState.tm.shadow = none ∧ trafficState.badNode [] = some (1, 0) := by decide +kernel

/-! ### Policers -/

/-- Firmware reaches TMG_POL_CMD while it is idle, with the least bursts that a write commits. -/
theorem trafficState_policer : let s := (trafficState.setReg .TMG_POL_CFG (2 ^ 12) 0).setReg .TMG_POL_CFG (2 ^ 12) 1
    let c := s.blockAccess 12 .write 0 0x200
    let a := (c.1.setF TMG_POL_CMD.op 1).setF TMG_POL_CMD.index 65535
    c.2 = true ∧ c.1.flag TMG_POL_CMD.busy = false ∧ (a.reg .TMG_POL_CFG 0).bits 35 12 ≠ 0 ∧
      (a.reg .TMG_POL_CFG 1).bits 35 12 ≠ 0 := by decide +kernel

/-! ### Admission, spill and selection -/

/-- A least frame for a port of the cascade: `dest` is 8 × member + port. -/
def routedPkt (dest : Nat) (spilled : Bool) : Pkt :=
  { Pkt.ofFrame 0 0 (zeroBytes 60) with act := { Act.none with kind := 1, dest := dest }, q := 7, spilled := spilled }

/-- New packets stand in a list. -/
def State.standing (s : State) (k : PktPlace) (i : Nat) (ps : List Pkt) : State :=
  ps.foldl (fun u p => let n := u.newPkt p; n.2.pushLst k i n.1) s

/-- At the hand-off stands a packet that goes out here, or one for a member that no link reaches. -/
theorem trafficState_handoff : ∀ x ∈ [(0, some (0, 7)), (7, some (7, 7)), (8, none)],
    let k := routedPkt x.1 false
    let s := trafficState.standing .handoff 3 [k]
    let a := (s.after k.due).popLst .handoff 3 0
    firstDue (s.pktsIn .handoff 3) = some (0, k) ∧ a.standbyDrops k = false ∧ a.outputOf k = x.2 := by decide +kernel

/-- The second packet of the last queue is spilled. -/
theorem trafficState_spilled : let s := trafficState.standing .queue 131071 [routedPkt 0 false, routedPkt 0 true]
    (((s.pktsIn .queue 131071).take 2).find? fun p => p.2.spilled) = some (1, routedPkt 0 true) := by decide +kernel

/-- Each egress pipeline serves its first or its last output, down to a queue. -/
theorem trafficState_selection : ∀ x ∈ [((0 : Nat), (0 : Nat), (0 : Nat)), (1, 17, 143), (2, 8, 71), (3, 15, 127)],
    let a := ((trafficState.standing .queue x.2.2 [routedPkt 0 false]).toFirstHead x.1).dropOld 0
    ((a.outOrder x.1).find? fun o => a.outRoom [] o && !(a.candidateChains o).isEmpty) = some x.2.1 ∧
      (a.descend (a.candidateChains x.2.1) 4 1 x.2.1).2 = [(2, x.2.1), (3, x.2.1), (4, x.2.2), (5, x.2.2)] := by decide +kernel

end Sys2Proof.Machine
end

section
/-! SUPPORT. What reception, entry, the flow-table result, the egress hand-off and recirculation answer on the path that nothing stops
(R100, R101, R121, R134, R198, R199). Where the next state draws the phase of a clock crossing, that it is free is log 16; that the
bytes received count in full, and a MAC control frame is taken at the hand-over, is log 77: choices of the model. -/

namespace Sys2Proof.Machine

/-! ### Reception -/

/-- A whole frame that its port takes is handed over: 64 bytes at least, no more than the header window, no MAC control frame (R198). -/
theorem execFrameReceive_whole (port : Fin 8) (t : Nat) (bytes : List Byte) (s a : State) (ha : a = s.after t)
    (hup : a.flag MAC_PORT_STATUS.link_up port.val = true) (henabled : a.flag MAC_PORT_CFG.enable port.val = true)
    (hidle : (a.port port.val).rx = none) (hmode : a.mode = mManaged) (hreset : a.modes.dReset = none) (hopen : a.heldOut = false)
    (hleast : 64 ≤ bytes.length) (hwindow : bytes.length ≤ 512) (hdata : macControl bytes = false) :
    execFrameReceive port t bytes true false s = .next (a.handOver port.val bytes true false) := by
  have hneither : (mManaged == mDarkroom) = false ∧ (mManaged == mStandby) = false := ⟨rfl, rfl⟩
  have hlong : decide (512 < bytes.length) = false := decide_eq_false (Nat.not_lt.2 hwindow)
  have hwhole : ¬ bytes.length < 64 := Nat.not_lt.2 hleast
  unfold execFrameReceive
  simp only [← ha, hup, henabled, hidle, hmode, hreset, hopen, hdata, hneither, hlong, hwhole, Option.isSome_none, Bool.not_true,
    Bool.false_and, Bool.and_false, Bool.or_self, Bool.false_eq_true, and_false, if_false]

/-- The rest of a frame within max_len, without an error on its way, ends it as its FCS and its length say (R199, R200). -/
theorem execFrameEnd_fits (port : Fin 8) (t : Nat) (rest all : List Byte) (s u v : State) (x : PortSt) (id : Nat) (k : Pkt)
    (hu : u = s.after t) (hx : x = u.port port.val) (harriving : x.rx = some id) (hall : all = x.rxBytes ++ rest)
    (hfits : all.length ≤ x.rxMax) (hv : v = (u.setPort port.val { x with rx := none, rxBytes := [] }).macCount port.val 1 rest.length)
    (hpkt : v.pkt? id = some k) :
    execFrameEnd port t rest false s = .next (v.setPkt id { k with
      bytes := all.take (all.length - 4), flen := all.length - 4 + 4, trunc := false
      ended := endStatus (fcsGood all) (all.length - 4) k.claimed true false }) := by
  have hcut : decide (x.rxMax < all.length) = false := decide_eq_false (Nat.not_lt.2 hfits)
  unfold execFrameEnd
  simp only [← hu, ← hx, harriving, ← hall, hcut, ← hv, hpkt, Bool.not_false, Bool.true_and, Bool.false_and, Bool.false_eq_true,
    false_and, if_false]

/-! ### Entry and the flow-table result -/

/-- Words of table entries are newly found bad. -/
def State.findsBad (s : State) (bads : List (Nat × Nat × Nat)) : State := { s with tbl := { s.tbl with bad := s.tbl.bad ++ bads } }

/-- Packet `id` leaves its list for pipeline `p`, which meets these bad words (R19). -/
def State.takePkt (s : State) (place : PktPlace) (p id : Nat) (bads : List (Nat × Nat × Nat)) : State :=
  ((({ s with dp := { s.dp with entered := Tab.put s.dp.entered p s.now } }).popLst place p id).advanceSweep).findsBad bads

/-- The packet as it starts a pass in pipeline `p`: pass 1 stamps it with the CURRENT forme (R100). -/
def State.startPass (s : State) (id : Nat) (k : Pkt) (p : Nat) : Pkt × State :=
  if k.pass = 1 then s.stamp id { k with pipe := p } else ({ k with pipe := p }, s.setPkt id { k with pipe := p })

/-- With a CURRENT forme, a packet other than a far lookup's return runs its pass under its own forme (R100, R113–R120). -/
theorem execPipelineEntry_runs (p : Fin 4) (bads : List (Nat × Nat × Nat)) (s c : State) (at_ : Nat) (place : PktPlace) (id : Nat)
    (k : Pkt) (img : FormeImg) (st : Pkt × State) (hreset : s.modes.dReset = none) (hmode : s.mode = mManaged)
    (hnext : s.pipeNext p.val = some (at_, place, id)) (hplace : place ≠ .farBack) (hc : c = (s.after at_).takePkt place p.val id bads)
    (hpkt : c.pkt? id = some k) (hcurrent : c.flag FRM_STATE.current_valid = true) (hst : st = c.startPass id k p.val)
    (hforme : Tab.look st.2.frm.slots st.1.forme = some img) (hbridge : img.bridge = false) :
    execPipelineEntry p bads false s = .next (st.2.runPass id st.1 img) := by
  have hneither : (mManaged == mDarkroom) = false ∧ (mManaged == mStandby) = false := ⟨rfl, rfl⟩
  unfold State.takePkt State.findsBad at hc
  unfold State.startPass at hst
  unfold execPipelineEntry
  simp only [hreset, hmode, hneither, hnext, ← hc, hpkt, hplace, hcurrent, ← hst, hforme, hbridge, Option.isSome_none, Bool.false_and,
    Bool.or_self, Bool.true_eq_false, Bool.false_eq_true, and_false, if_false]

/-- The oldest waiting packet takes its flow-table result, and its pass ends (R134). -/
theorem execFltLookupResult_due (p : Fin 4) (bads : List (Nat × Nat × Nat)) (s a b : State) (id : Nat) (k : Pkt) (img : FormeImg)
    (hdue : firstDue (s.pktsIn .flt p.val) = some (id, k))
    (ha : a = ((s.after (k.due - 10 * fclk)).popLst .flt p.val id).advanceSweep)
    (hb : b = a.findsBad bads) (hforme : Tab.look a.frm.slots k.forme = some img) :
    execFltLookupResult p bads s
      = .next ((b.mergeFlt id k img).2.endPass id (b.mergeFlt id k img).1 (b.mergeFlt id k img).1.act k.due) := by
  unfold State.findsBad at hb
  unfold execFltLookupResult
  simp only [hdue, ← ha, ← hb, hforme]

/-! ### Out of egress -/

/-- A packet for a port leaves the fixed path rewritten, and its hold on its forme ends (R101). -/
theorem execEgressHandoff_port (ep : Fin 4) (s a : State) (id : Nat) (k : Pkt) (w : List Byte × State)
    (hdue : firstDue ((s.pktsIn .egress ep.val).filter fun p => !(decide (12 ≤ p.2.outp) && decide (p.2.outp < 16))) = some (id, k))
    (hport : k.outp < 8) (ha : a = (s.after k.due).popLst .egress ep.val id) (hw : w = a.rewritten k) :
    execEgressHandoff ep s
      = .next (((w.2.setPkt id { k with bytes := w.1 }).endHold id).toPort id k.outp { k with bytes := w.1, hold := false }) := by
  unfold execEgressHandoff
  simp only [hdue, ← ha, ← hw, hport, if_true]

/-- A recirculated packet takes its place in a loop FIFO that has room, its pass counted (R18, R121). -/
theorem execRecirculate_room (p : Fin 4) (s a : State) (id : Nat) (k : Pkt) (w : List Byte × State)
    (hdue : firstDue ((s.pktsIn .egress p.val).filter fun k => k.2.outp == 12 + p.val) = some (id, k))
    (hroom : (s.lst .loop p.val).length < 256) (ha : a = (s.after (k.due + 8 * fclk)).popLst .egress p.val id)
    (hw : w = a.rewritten k) :
    execRecirculate p s = .next ((w.2.setPkt id
      { k with bytes := w.1, flen := w.1.length + 4, flim := w.1.length, pass := k.pass + 1 }).pushLst .loop p.val id) := by
  unfold execRecirculate
  simp only [hdue, Nat.not_le.2 hroom, ← ha, ← hw, if_false]

/-- Settles O16: each command's clause is its lemma above. The free phases of clock crossings rest on log 16, the instant at which a
MAC control frame is told apart and the count of bytes on log 77: choices of the model beside R198, R199 and R101. -/
theorem completeReception : Obligations.CompleteReception := by
  unfold Obligations.CompleteReception
  refine ⟨?receive, ?frameEnd, ?entry, ?flt, ?handoff, ?recirculate⟩
  case receive =>
    intro port t bytes s a hup henabled hidle hmode hreset hopen hleast hwindow hdata
    exact execFrameReceive_whole port t bytes s a rfl hup henabled hidle hmode hreset hopen hleast hwindow hdata
  case frameEnd =>
    intro port t rest s id k u x harriving all hfits v hpkt n k1
    exact execFrameEnd_fits port t rest all s u v x id k rfl rfl harriving rfl hfits rfl hpkt
  case entry =>
    intro p bads s at_ place id k img hreset hmode hnext hplace a b c hpkt hcurrent st hforme hbridge
    exact execPipelineEntry_runs p bads s c at_ place id k img st hreset hmode hnext hplace rfl hpkt hcurrent rfl hforme hbridge
  case flt =>
    intro p bads s id k img hdue a b hforme
    exact execFltLookupResult_due p bads s a b id k img hdue rfl rfl hforme
  case handoff =>
    intro ep s id k hdue hport a w
    exact execEgressHandoff_port ep s a id k w hdue hport rfl rfl
  case recirculate =>
    intro p s id k hdue hroom w
    exact execRecirculate_room p s _ id k w hdue hroom rfl rfl

end Sys2Proof.Machine
end

section
/-! SUPPORT. What the ports, their cages, impositions and Low Power Idle answer on the path that nothing stops (R195, R196, R203–R206,
R209, R210, R213–R217). -/

namespace Sys2Proof.Machine

/-! ### Cages and links -/

/-- A removal drops the cage's ports, and the configuration owner hears of it (R195; outside STANDALONE too by log 85, the model's
choice). -/
theorem execOpticalModuleRemoved_reported (cage : Fin 2) (s : State) (hmode : s.mode ≠ mStandalone) :
    execOpticalModuleRemoved cage s = .next (((cagePorts cage.val).foldl State.portLost
      { s with dp := { s.dp with cages := Tab.del s.dp.cages cage.val } }).cageChanged cage.val) := by
  unfold execOpticalModuleRemoved
  simp only [hmode, if_false]

/-- A port of the cage's mode with all its lanes aligns and reports its link, idle from this instant (R196). -/
theorem execLinkUp_aligns (port : Fin 8) (s a : State) (c : Cmis) (hcage : Tab.look s.dp.cages (port.val % 2) = some c)
    (hexists : s.portExists port.val = true) (hlanes : s.flag MAC_PORT_STATUS.lane_fault port.val = false) (hopen : s.mode ≠ mDarkroom)
    (hmode : s.mode ≠ mStandby) (hdown : s.flag MAC_PORT_STATUS.link_up port.val = false)
    (ha : a = (((s.setF MAC_PORT_STATUS.pcs_aligned 1 port.val).setF MAC_PORT_STATUS.fec_locked 1 port.val).setF
      MAC_PORT_STATUS.mode_active (s.cageMode port.val) port.val).setF MAC_PORT_STATUS.link_up 1 port.val) :
    execLinkUp port s
      = .next ((a.setPort port.val { a.port port.val with idleAt := a.now, lpi := 0 }).reportLink port.val true) := by
  have hneither : (s.mode == mDarkroom) = false ∧ (s.mode == mStandby) = false := ⟨beq_false_of_ne hopen, beq_false_of_ne hmode⟩
  unfold execLinkUp
  simp only [hcage, hexists, hlanes, hneither, hdown, ← ha, Bool.not_true, Bool.false_and, Bool.or_self, Bool.false_eq_true, if_false]

/-- A failed unit of a mapped lane waits for the next D reset while a spare is free, and is replaced at once otherwise (R216, R450). -/
theorem execLaneFault_mapped (cage : Fin 2) (lane : Fin 8) (s a : State) (x : Nat)
    (hx : x = s.unitOf kSerDes (16 * cage.val + lane.val)) (hmapped : x ≠ unitAbsent)
    (ha : a = s.unitFails (secondsOf s.timeNow % 2 ^ 32) kSerDes x) :
    execLaneFault cage lane s
      = if (s.freeSpare kSerDes x).isSome then .next a else .next ((a.replaceUnit kSerDes x).showUnits.checkLanes) := by
  unfold execLaneFault
  simp only [← hx, hmapped, ← ha, if_false]

/-! ### Launch -/

/-- The head frame of a port that is up, without a launch time, goes out at the first word boundary at which it fits (R206; that the
phase of the boundaries is free is log 81, the model's choice). -/
theorem execFrameLaunch_fits (port : Fin 8) (s a : State) (id : Nat) (k : Pkt) (at_ : Nat) (d : Nat × State)
    (hhead : (s.pktsIn .txFifo port.val).head? = some (id, k)) (hup : s.portDown port.val = false) (huntimed : k.launch = none)
    (ha : a = s.after (max k.due (s.port port.val).txFree))
    (hwindow : a.noWindow port.val k.cls (k.bytes.length + 4) = false) (hd : d = a.draw 16)
    (hfits : d.2.launchAt port.val k.cls (k.bytes.length + 4) (d.2.txWord port.val) (d.1 % d.2.txWord port.val) 4096 a.timePs
      = some at_) :
    execFrameLaunch port s = .next (d.2.launch port.val id k at_) := by
  unfold execFrameLaunch
  simp only [hhead, hup, ← ha, huntimed, hwindow, ← hd, hfits, Bool.false_eq_true, if_false]

/-! ### Impositions -/

/-- A go for a shadow that breaks no rule starts its copy, stamped with its instant (R209). -/
theorem execImpositionGo_valid (init : Nat) (port : Fin 8) (s : State) (a : State × Bool) (n cyc : Nat)
    (ha : a = s.blockAccess 5 .write init (0x4000 * port.val + 0x28)) (haccess : a.2 = true)
    (hidle : a.1.flag MAC_IMP_CMD.busy port.val = false) (hn : n = a.1.getF MAC_IMP_CYCLE.count port.val)
    (hcyc : cyc = a.1.getF MAC_IMP_CYCLE.cycle port.val) (hsome : n ≠ 0) (hmost : n ≤ 1024) (hleast : 1000 ≤ cyc)
    (hlongest : cyc ≤ 1000000000) (hlasts : (a.1.shadowImp port.val).entries.all (fun e => e.2 == 0) = false) :
    execImpositionGo init port s = .next ((a.1.setF MAC_IMP_CMD.busy 1 port.val).setPort port.val
      { a.1.port port.val with copyAt := some (a.1.timeNow / 2 ^ 16) }) := by
  unfold execImpositionGo
  simp only [← ha, haccess, hidle, ← hn, ← hcyc, hsome, Nat.not_lt.2 hmost, Nat.not_lt.2 hleast, Nat.not_lt.2 hlongest, hlasts,
    Bool.not_true, Bool.or_self, Bool.false_eq_true, or_self, if_false]

/-- The copy ends with the shadow pending until its swap instant (R209). -/
theorem execImpositionCopyDone_copying (port : Fin 8) (s : State) (go : Nat) (m : Imp) (hcopy : (s.port port.val).copyAt = some go)
    (hm : m = s.shadowImp port.val) :
    execImpositionCopyDone port s
      = .next ((((s.setF MAC_IMP_CMD.busy 0 port.val).setF MAC_IMP_CMD.pending 1 port.val).setF MAC_IMP_CMD.result stOk port.val).setPort
          port.val { s.port port.val with copyAt := none, pend := some (m, m.swapAt go * 1000) }) := by
  unfold execImpositionCopyDone
  simp only [hcopy, ← hm]

/-- At T the pending schedule becomes operational (R209). -/
theorem execImpositionSwap_pending (port : Fin 8) (s : State) (m : Imp) (T : Nat) (hpend : (s.port port.val).pend = some (m, T)) :
    execImpositionSwap port s
      = .next (((((s.after (s.tickOfPs T)).setF MAC_IMP_CMD.pending 0 port.val).bump MAC_IMP_CMD.swaps port.val).setPort port.val
          { s.port port.val with op := some m, pend := none, startAt := none, closed := false }).showImp port.val) := by
  unfold execImpositionSwap
  simp only [hpend]

/-- A write of MAC_IMP_CFG that is let through acts by what enable was before it (R210). -/
theorem execImpositionEnable_reached (init : Nat) (port : Fin 8) (wide upper : Bool) (v : Word) (s : State) (off : Nat)
    (a : State × Bool) (hoff : off = 0x4000 * port.val + 0x10 + (if upper && !wide then 4 else 0))
    (ha : a = s.blockAccess 5 .write init off) (haccess : a.2 = true) :
    execImpositionEnable init port wide upper v s
      = .next ((a.1.storeReg (fun _ => true) 5 off .MAC_IMP_CFG port.val 0 wide upper v).impEnabled port.val
          (a.1.flag MAC_IMP_CFG.enable port.val)) := by
  unfold execImpositionEnable
  simp only [← hoff, ← ha, haccess, Bool.not_true, Bool.false_eq_true, if_false]

/-- When the operational schedule `m` of a port starts its next cycle, in ps: at the start that enable set, or in step (R210). -/
def State.cycleStart (s : State) (p : Nat) (m : Imp) : Nat :=
  match (s.port p).startAt with
  | some a => a
  | none => m.nextCycle s.timePs

/-- An operational schedule that is enabled starts its next cycle (R205, R210). -/
theorem execImpositionCycleStart_enabled (port : Fin 8) (s : State) (m : Imp) (hop : (s.port port.val).op = some m)
    (henabled : s.flag MAC_IMP_CFG.enable port.val = true) :
    execImpositionCycleStart port s
      = .next ((((s.after (s.tickOfPs (s.cycleStart port.val m))).bump MAC_IMP_STATUS.cycles port.val).setPort port.val
          { s.port port.val with startAt := none, closed := false }).showImp port.val) := by
  unfold execImpositionCycleStart
  simp only [hop, henabled, Bool.true_eq_false, if_false]
  rfl

/-! ### Low Power Idle -/

/-- An awake port that may use LPI and holds nothing enters it when its idle time is over (R213, R214). -/
theorem execLpiEnter_idle (port : Fin 8) (s a : State) (hawake : (s.port port.val).lpi = 0) (hallowed : s.lpiAllowed port.val = true)
    (hidle : s.outputIdle port.val = true)
    (ha : a = s.after ((s.port port.val).idleAt + s.getF MAC_LPI_CFG.idle_time port.val * usT)) :
    execLpiEnter port s
      = .next (((a.setPort port.val { s.port port.val with lpi := 1, idleAt := a.now }).setF MAC_PORT_STATUS.lpi_tx 1
          port.val).macCount port.val 17) := by
  unfold execLpiEnter
  simp only [hawake, hallowed, hidle, ← ha, ne_eq, not_true_eq_false, Bool.true_eq_false, or_self, if_false]

/-- The wake of a port ends tw_tx after its start, with the time it spent idle counted (R214). -/
theorem execLpiWakeDone_waking (port : Fin 8) (s a b : State) (x : PortSt) (hx : x = s.port port.val) (hwaking : x.lpi = 2)
    (ha : a = s.after (x.lpiAt + s.getF MAC_LPI_CFG.tw_tx port.val * usT))
    (hb : b = a.macCount port.val 18 ((a.now - x.idleAt) / usT)) :
    execLpiWakeDone port s
      = .next ((b.setPort port.val { x with lpi := 0, idleAt := a.now }).setF MAC_PORT_STATUS.lpi_tx 0 port.val) := by
  unfold execLpiWakeDone
  simp only [← hx, hwaking, ← ha, ← hb, ne_eq, not_true_eq_false, if_false]

/-- Settles O18: each command's clause is its lemma above; LINK_DOWN and OPTICAL_MODULE_FAULT have no condition, and their clauses are
their meanings. CAGE_CHANGED after a removal outside STANDALONE rests on log 85, the faults of just the ports that exist on log 86, the
free phase of the word boundaries on log 81: choices of the model beside R195, R217 and R206. -/
theorem completePorts : Obligations.CompletePorts := by
  unfold Obligations.CompletePorts
  refine ⟨?removed, ?inserted, ?linkUp, ?linkDown, ?partner, ?moduleFault, ?laneFault, ?launch, ?go, ?copied, ?swap, ?enable, ?cycle,
    ?enter, ?wake⟩
  case removed =>
    exact execOpticalModuleRemoved_reported
  case inserted =>
    intro cage info s a
    exact ⟨fun h => congrArg Host.Outcome.next (if_pos h), fun h => congrArg Host.Outcome.next (if_neg h)⟩
  case linkUp =>
    intro port s c hcage hexists hlanes hopen hmode hdown a
    exact execLinkUp_aligns port s a c hcage hexists hlanes hopen hmode hdown rfl
  case linkDown =>
    intro port s
    rfl
  case partner =>
    intro port on s hup
    exact if_pos hup
  case moduleFault =>
    intro cage s
    rfl
  case laneFault =>
    intro cage lane s x hmapped a
    have hfault : exec (.laneFault cage lane) s = _ := execLaneFault_mapped cage lane s a x rfl hmapped rfl
    exact ⟨fun hspare => hfault.trans (if_pos hspare), fun hnone => by rw [hfault, hnone]; rfl⟩
  case launch =>
    intro port s id k at_ hhead hup huntimed a hwindow d hfits
    exact execFrameLaunch_fits port s a id k at_ d hhead hup huntimed rfl hwindow rfl hfits
  case go =>
    intro init port s a haccess hidle n cyc hsome hmost hleast hlongest hlasts
    exact execImpositionGo_valid init port s a n cyc rfl haccess hidle rfl rfl hsome hmost hleast hlongest hlasts
  case copied =>
    intro port s go hcopy m
    exact execImpositionCopyDone_copying port s go m hcopy rfl
  case swap =>
    exact execImpositionSwap_pending
  case enable =>
    intro init port wide upper v s off a haccess
    exact execImpositionEnable_reached init port wide upper v s off a rfl rfl haccess
  case cycle =>
    exact execImpositionCycleStart_enabled
  case enter =>
    intro port s hawake hallowed hidle a
    exact execLpiEnter_idle port s a hawake hallowed hidle rfl
  case wake =>
    intro port s hwaking x a b
    exact execLpiWakeDone_waking port s a b x rfl hwaking rfl rfl

end Sys2Proof.Machine
end

section
/-! SUPPORT. Concrete states that meet the conditions of the statements on reception and on ports. -/

namespace Sys2Proof.Machine

/-- MANAGED, eight ports of 200GbE with optical modules that allow LPI, port `p` enabled and, with `up`, up at its rate. -/
def portState (p : Nat) (up : Bool) : State :=
  let m := ((servingState.setF MODE_STATE.mode mManaged).setF MAC_CAGE_CFG.mode 3 0).setF MAC_CAGE_CFG.mode 3 1
  let s := ((m.setF MAC_PORT_CFG.enable 1 p).setF MAC_PORT_STATUS.link_up (b2n up) p).setF MAC_PORT_STATUS.mode_active
    (if up then 3 else 0) p
  { s with dp := { s.dp with cages := [(0, ⟨[3], 20, true, true, false⟩), (1, ⟨[3], 20, true, true, false⟩)] } }

/-! ### Reception -/

/-- The least frame and one that fills the header window come whole, at the first port and at the last. -/
theorem portState_frameReceive : ∀ x ∈ [((0 : Nat), (64 : Nat)), (7, 512)],
    let a := (portState x.1 true).after 100
    let bytes := zeroBytes x.2
    a.flag MAC_PORT_STATUS.link_up x.1 = true ∧ a.flag MAC_PORT_CFG.enable x.1 = true ∧ (a.port x.1).rx = none ∧
      a.mode = mManaged ∧ a.modes.dReset = none ∧ a.heldOut = false ∧ 64 ≤ bytes.length ∧ bytes.length ≤ 512 ∧
      macControl bytes = false := by decide +kernel

/-- A frame handed over early ends with a last byte that makes its length max_len. -/
theorem portState_frameEnd :
    let k : Pkt := { Pkt.ofFrame 7 3 (zeroBytes 512) with early := true, ended := .arriving }
    let s := ((portState 7 true).standing .arrival 1 [k]).setPort 7
      { PortSt.reset with rx := some 0, rxMax := 513, rxBytes := zeroBytes 512 }
    let x := (s.after 100).port 7
    let v := ((s.after 100).setPort 7 { x with rx := none, rxBytes := [] }).macCount 7 1 1
    x.rx = some 0 ∧ (x.rxBytes ++ zeroBytes 1).length = x.rxMax ∧ v.pkt? 0 = some k := by decide +kernel

/-! ### Through a pipeline -/

/-- A forme image without nodes. -/
def emptyForme : FormeImg := ⟨[], [], [], [], false⟩

/-- Slot 5 is CURRENT. -/
def pipelineState : State :=
  let s := ((portState 7 true).setF FRM_STATE.current 5).setF FRM_STATE.current_valid 1
  { s with frm := { s.frm with slots := [(5, emptyForme)] } }

/-- A packet in its first pass enters by the CURRENT forme, a recirculated one by its own. -/
theorem pipelineState_entry : ∀ x ∈ [(PktPlace.arrival, (1 : Nat), (0 : Nat)), (.loop, 4, 5)],
    let k : Pkt := { Pkt.ofFrame 7 0 (zeroBytes 60) with pass := x.2.1, forme := x.2.2 }
    let s := pipelineState.standing x.1 3 [k]
    let c := (s.after s.now).takePkt x.1 3 0 [(4, 1, 1)]
    let st := c.startPass 0 k 3
    s.modes.dReset = none ∧ s.mode = mManaged ∧ s.pipeNext 3 = some (s.now, x.1, 0) ∧ c.pkt? 0 = some k ∧
      c.flag FRM_STATE.current_valid = true ∧ Tab.look st.2.frm.slots st.1.forme = some emptyForme := by decide +kernel

/-- Of two packets that wait for the flow table, the one due first takes its result. -/
theorem pipelineState_fltLookupResult :
    let k (due : Nat) : Pkt := { Pkt.ofFrame 7 3 (zeroBytes 60) with forme := 5, due := due }
    let s := pipelineState.standing .flt 3 [k 2000, k 1999]
    firstDue (s.pktsIn .flt 3) = some (1, k 1999) ∧
      Tab.look (((s.after (1999 - 10 * fclk)).popLst .flt 3 1).advanceSweep).frm.slots 5 = some emptyForme := by decide +kernel

/-- An egress pipeline holds one packet for a port and one that recirculates. -/
def egressState (p port : Nat) (loop : List Nat) : State :=
  let k (o : Nat) : Pkt := { Pkt.ofFrame 0 0 (zeroBytes 60) with outp := o }
  (pipelineState.standing .egress p [k port, k (12 + p)]).setLst .loop p loop

/-- Each is the one due first for its command, for the first and the last port, with one place left in the loop FIFO. -/
theorem egressState_due : ∀ x ∈ [((0 : Nat), (0 : Nat)), (3, 7)],
    let s := egressState x.1 x.2 (List.range' 2 255)
    let k (o : Nat) : Pkt := { Pkt.ofFrame 0 0 (zeroBytes 60) with outp := o }
    firstDue ((s.pktsIn .egress x.1).filter fun p => !(decide (12 ≤ p.2.outp) && decide (p.2.outp < 16))) = some (0, k x.2) ∧
      firstDue ((s.pktsIn .egress x.1).filter fun k => k.2.outp == 12 + x.1) = some (1, k (12 + x.1)) ∧
      (s.lst .loop x.1).length = 255 := by decide +kernel

/-! ### Cages, links and lanes -/

/-- A cage changes its module in MANAGED and, chosen by the module itself, in STANDALONE. -/
theorem portState_mode : (portState 7 true).mode ≠ mStandalone ∧ servingState.mode = mStandalone := by decide +kernel

/-- A port that is down trains. -/
theorem portState_linkUp : ∀ p ∈ [0, 7], let s := portState p false
    (Tab.look s.dp.cages (p % 2)).isSome = true ∧ s.portExists p = true ∧ s.flag MAC_PORT_STATUS.lane_fault p = false ∧
      s.mode ≠ mDarkroom ∧ s.mode ≠ mStandby ∧ s.flag MAC_PORT_STATUS.link_up p = false := by decide +kernel

/-- The spare of a cage's lanes is free until it has failed; the last lane is mapped all the same. -/
theorem portState_spare : let s := portState 7 true
    let x := s.unitOf kSerDes (16 * 1 + 7)
    x ≠ unitAbsent ∧ (s.freeSpare kSerDes x).isSome = true ∧ ((s.markFailed kSerDes 24).freeSpare kSerDes x) = none := by
  decide +kernel

/-! ### Launch and impositions -/

/-- With every gate open the head frame finds a word boundary, whatever its phase. -/
theorem portState_frameLaunch :
    let k := Pkt.ofFrame 0 0 (zeroBytes 60)
    let s := (portState 7 true).standing .txFifo 7 [k]
    let a := s.after (max k.due (s.port 7).txFree)
    let d := a.draw 16
    (s.pktsIn .txFifo 7).head? = some (0, k) ∧ s.portDown 7 = false ∧ a.noWindow 7 k.cls (k.bytes.length + 4) = false ∧
      (d.2.launchAt 7 k.cls (k.bytes.length + 4) (d.2.txWord 7) (d.1 % d.2.txWord 7) 4096 a.timePs).isSome = true := by
  decide +kernel

/-- The shadow schedule of port 7 has `n` entries, only the last of which lasts, in a cycle of `cyc` ns. -/
def shadowState (n cyc : Nat) : State :=
  (((portState 7 true).setF MAC_IMP_CYCLE.count n 7).setF MAC_IMP_CYCLE.cycle cyc 7).setF MAC_IMP_ENTRY.duration 1 7 (n - 1)

/-- Firmware's go finds the shortest and the longest schedule that R209 allows. -/
theorem shadowState_impositionGo : ∀ x ∈ [((1 : Nat), (1000 : Nat)), (1024, 1000000000)],
    let a := (shadowState x.1 x.2).blockAccess 5 .write 0 (0x4000 * 7 + 0x28)
    a.2 = true ∧ a.1.flag MAC_IMP_CMD.busy 7 = false ∧ a.1.getF MAC_IMP_CYCLE.count 7 = x.1 ∧
      a.1.getF MAC_IMP_CYCLE.cycle 7 = x.2 ∧ (a.1.shadowImp 7).entries.all (fun e => e.2 == 0) = false := by decide +kernel

/-- The schedule in the shadow of `shadowState 1 1000`. -/
def shortestImp : Imp := ⟨[(0, 1)], 0, 1000⟩

/-- Port 7 copies its shadow for a go at time 0. -/
def copyingState : State := (shadowState 1 1000).setPort 7 { PortSt.reset with copyAt := some 0 }

/-- The end of the copy leaves a schedule pending, whose swap makes it operational. -/
theorem copyingState_schedule :
    let schedules : Res → Option (Imp × Nat) × Option Imp
      | .next s => ((s.port 7).pend, (s.port 7).op)
      | _ => (none, none)
    let copied := exec (.impositionCopyDone 7) copyingState
    let swapped := match copied with
      | .next s => exec (.impositionSwap 7) s
      | r => r
    (copyingState.port 7).copyAt = some 0 ∧ schedules copied = (some (shortestImp, 2000000), none) ∧
      schedules swapped = (none, some shortestImp) := by decide +kernel

/-- An enabled schedule waits for the start that enable set, or runs in step. -/
theorem copyingState_enabled : ∀ startAt ∈ [none, some 5000000],
    let s := (copyingState.setPort 7 { PortSt.reset with op := some shortestImp, startAt := startAt }).setF MAC_IMP_CFG.enable 1 7
    (s.port 7).op = some shortestImp ∧ s.flag MAC_IMP_CFG.enable 7 = true := by decide +kernel

/-- Firmware reaches MAC_IMP_CFG of the first and the last port, whole and by halves. -/
theorem portState_impositionEnable : ∀ x ∈ [((0 : Nat), (0x10 : Nat)), (0, 0x14), (7, 0x10), (7, 0x14)],
    ((portState x.1 true).blockAccess 5 .write 0 (0x4000 * x.1 + x.2)).2 = true := by decide +kernel

/-! ### Low Power Idle -/

/-- An idle port may enter LPI; one that it wakes comes back. -/
theorem portState_lpi : ∀ p ∈ [0, 7], let s := (portState p true).setF MAC_LPI_CFG.enable 1 p
    (s.port p).lpi = 0 ∧ s.lpiAllowed p = true ∧ s.outputIdle p = true ∧
      ((s.setPort p { s.port p with lpi := 2 }).port p).lpi = 2 := by decide +kernel

end Sys2Proof.Machine
end

section
/-! SUPPORT. What Drugrim's timers, the settle point and the transport's disabling answer on the path that nothing stops (R233,
R236–R239, R241, R244, R245, R258). -/

namespace Sys2Proof.Machine

/-! ### Outbound records -/

/-- A round's timer runs out: the destination is slowed, and past round 16 the message ends with TIMEOUT, else the next round's packets
wait (R241). -/
theorem execRetransmitTimeout_running (r : Fin 65536) (s a b : State) (x y : OutRec) (t : Nat) (hrec : Tab.look s.drt.outs r.val = some x)
    (htimer : x.timer = some t) (hruns : s.drtRuns = true) (ha : a = (s.after (t + s.roundTimeout x * nsT)).congTimeout x.remote)
    (hb : b = a.drtUnqueue r.val) (hy : y = { x with round := x.round + 1, timer := none }) :
    execRetransmitTimeout r s = if 16 ≤ x.round then .next (a.endOut r.val stTimeout 0)
      else .next ({ b with drt := { b.drt with outs := Tab.put b.drt.outs r.val y } }.drtPush x.remote
        (y.roundItems r.val (x.round + 1))) := by
  unfold execRetransmitTimeout
  simp only [hrec, htimer, hruns, ← ha, ← hb, ← hy, Bool.not_true, Bool.false_eq_true, if_false]

/-- A message that meets its deadline ends with TIMEOUT (R233). -/
theorem execMessageDeadline_running (r : Fin 65536) (s : State) (x : OutRec) (hrec : Tab.look s.drt.outs r.val = some x)
    (hruns : s.drtRuns = true) : execMessageDeadline r s = .next ((s.afterNs x.deadline).endOut r.val stTimeout 0) := by
  unfold execMessageDeadline
  simp only [hrec, hruns, if_true]

/-! ### Inbound records -/

section
variable {src : BitVec 24} {msgSeq : BitVec 48} {s : State} {k : Nat} {x : InRec} (hk : k = msgKey src.toNat msgSeq.toNat)
  (hrec : Tab.look s.drt.ins k = some x) (hruns : s.drtRuns = true)
include hk hrec hruns

/-- An ACK that a record owes goes 2 µs after the placement it covers (R239). -/
theorem execAckTimer_owed {t : Nat} (howed : x.ackAt = some t) :
    execAckTimer src msgSeq s = .next ((s.after (t + 2 * usT)).sendAck k x) := by
  unfold execAckTimer
  simp only [← hk, hrec, howed, hruns, if_true]

/-- A message still RECEIVING past its T_stale is dropped and counted, and its endpoint told where it is a WRITE_IMM (R236). -/
theorem execRecordExpire_stale {a : State} (hst : x.st = .receiving) (hstale : s.hasPassed x.tStale = true)
    (ha : a = (s.dropIn k).drtCount 12) :
    execRecordExpire src msgSeq s = .next (if x.last.flag 3 then a.drtEvent x.last.dst 0x51
      (drtBody stTimeout 0 0 x.last.src x.last.msgSeq x.last.region x.last.dst) else a) := by
  unfold execRecordExpire
  simp only [← hk, hrec, hst, hstale, hruns, ← ha, and_self, if_true]

/-- A HELD message whose not-before time has passed is released OK (R237). -/
theorem execNotBeforeRelease_passed (hst : x.st = .held) (hpassed : s.hasPassed (4 * x.nb) = true) :
    execNotBeforeRelease src msgSeq s = .next (s.finishIn k x stOk) := by
  unfold execNotBeforeRelease
  simp only [← hk, hrec, hst, hpassed, hruns, and_self, if_true]

/-- A HELD message that has waited 2 × nb_max while time is unknown is released with TIMEOUT (R238). -/
theorem execHeldTimeout_unknownTime {a : State} (hst : x.st = .held)
    (ha : a = s.after (x.filledAt + 2 * s.getF DRT_TIMER.nb_max * msT)) (hunknown : a.pubUnc 0 = none) :
    execHeldTimeout src msgSeq s = .next (a.finishIn k x stTimeout) := by
  unfold execHeldTimeout
  simp only [← hk, hrec, hst, hruns, ← ha, hunknown, and_self, Bool.false_eq_true, if_true, if_false]

end

section
variable {src : BitVec 24} {msgSeq : BitVec 48} {s a : State} {k : Nat} {t : DrtTomb} (hk : k = msgKey src.toNat msgSeq.toNat)
  (htomb : Tab.look s.drt.tombs k = some t) (hstale : s.hasPassed t.tStale = true)
  (ha : a = { s with drt := { s.drt with tombs := Tab.del s.drt.tombs k } }.showDrt)
include hk htomb hstale ha

/-- A tombstone past its T_stale is freed, and that is all where no finished record waits for its place (R244). -/
theorem execTombstoneFree_noneWaits (hnone : (a.drt.ins.find? fun p => p.2.st == .finished) = none) :
    execTombstoneFree src msgSeq s = .next a := by
  unfold execTombstoneFree
  simp only [← hk, htomb, hstale, ← ha, hnone, Bool.not_true, Bool.false_eq_true, if_false]

/-- The first finished record that waits takes the place of a tombstone past its T_stale (R244). -/
theorem execTombstoneFree_oneWaits {j : Nat} {x : InRec}
    (hwaits : (a.drt.ins.find? fun p => p.2.st == .finished) = some (j, x)) :
    execTombstoneFree src msgSeq s = .next (a.bury j ⟨x.tStale, x.status, x.reason, false⟩ (some x)) := by
  unfold execTombstoneFree
  simp only [← hk, htomb, hstale, ← ha, hwaits, Bool.not_true, Bool.false_eq_true, if_false]

end

/-! ### The transport as a whole -/

/-- Settling ends when the settle point has passed (R245). -/
theorem execSettleEnd_passed (s : State) (hsettling : s.flag DRT_STATUS.settling = true) (hset : s.drt.settleLater = false)
    (hpassed : s.hasPassed s.drt.settle = true) : execSettleEnd s = .next (s.setF DRT_STATUS.settling 0) := by
  unfold execSettleEnd
  simp only [hsettling, hset, hpassed, Bool.not_true, Bool.or_self, Bool.false_eq_true, if_false, if_true]

/-- The write that clears DRT_CFG.enable ends every endpoint's messages and drops the replies that wait (R258). -/
theorem execTransportDisable_reached (init : Nat) (s : State) (a : State × Bool) (ha : a = s.blockAccess 14 .write init 0)
    (haccess : a.2 = true) : execTransportDisable init s
      = .next (((a.1.setF DRT_CFG.enable 0).squashEps (fun _ => true) true).dropReplies.showTransport) := by
  unfold execTransportDisable
  simp only [← ha, haccess, Bool.not_true, Bool.false_eq_true, if_false]

/-- Settles O43: each command's clause is its lemma above. The free index of a WRITE_IMM's completion at its target rests on log 152, the
set of the congestion cache that a timeout reaches on log 153: choices of the model beside R230 and R221. -/
theorem completeTransport : Obligations.CompleteTransport := by
  unfold Obligations.CompleteTransport
  refine ⟨?ackTimer, ?retransmit, ?deadline, ?expire, ?release, ?heldTimeout, ?tombstone, ?settleEnd, ?disable⟩
  case ackTimer =>
    intro src msgSeq s x t hrec howed hruns
    exact execAckTimer_owed rfl hrec hruns howed
  case retransmit =>
    intro r s x t hrec htimer hruns a
    have hround := execRetransmitTimeout_running r s a _ x _ t hrec htimer hruns rfl rfl rfl
    exact ⟨fun hlast => hround.trans (if_pos hlast), fun hmore => hround.trans (if_neg (Nat.not_le.2 hmore))⟩
  case deadline =>
    exact execMessageDeadline_running
  case expire =>
    intro src msgSeq s x hrec hst hstale hruns a
    exact execRecordExpire_stale rfl hrec hruns hst hstale rfl
  case release =>
    intro src msgSeq s x hrec hst hpassed hruns
    exact execNotBeforeRelease_passed rfl hrec hruns hst hpassed
  case heldTimeout =>
    intro src msgSeq s x hrec hst hruns a hunknown
    exact execHeldTimeout_unknownTime rfl hrec hruns hst rfl hunknown
  case tombstone =>
    intro src msgSeq s t htomb hstale a
    exact ⟨fun hnone => execTombstoneFree_noneWaits rfl htomb hstale rfl hnone,
      fun _ _ hwaits => execTombstoneFree_oneWaits rfl htomb hstale rfl hwaits⟩
  case settleEnd =>
    exact execSettleEnd_passed
  case disable =>
    intro init s a haccess
    exact execTransportDisable_reached init s a rfl haccess

end Sys2Proof.Machine
end

section
/-! SUPPORT. What Drugrim's commands on endpoints, regions and domains answer where they are taken, permitted and accepted (R247, R248,
R254, R262). -/

namespace Sys2Proof.Machine

/-! ### What an origin may do and is answered -/

/-- A register command names regions of every slice (R262). -/
@[simp] theorem State.regionMay_reg (s : State) (init g dom : Nat) : s.regionMay (.reg init) g dom = true := rfl

/-! ### The commands -/

section
variable {o : Origin} {s u : State} {a : DrtArgs}

/-- A new endpoint of no slice, with its domain keyed, its ring a work ring and its destination table aligned and of a size that R262
allows, is stored. -/
theorem execEpCreate_accepted {ep dom n : Nat} {r : Ring} {e : DrtEp} (htake : s.drtTake o 1 = (u, some a)) (hmay : u.drtMay o 1 = true)
    (hep : ep = a.f 0 63 40) (hnew : Tab.has u.drt.eps ep = false) (hdom : dom = a.f 0 25 10)
    (hkeyed : ((Tab.look u.drt.doms dom).bind DrtDomain.cur).isSome = true) (hring : u.ring? 0 (a.f 2 31 16) = some r)
    (hkind : r.kind = 5) (haligned : a.f 1 5 0 = 0) (hn : n = a.f 2 63 32) (hsome : n ≠ 0) (hmost : n ≤ 16777216)
    (hroom : u.drt.eps.length < 16384) (hslice : a.f 0 39 26 = noSlice)
    (he : e = { slice := noSlice, domain := dom, jumbo := natBit (a.f 0 63 0) 9, tblBase := a.f 1 63 0, tblCount := n,
                ring := a.f 2 31 16, addr := leBytes 8 (a.d.getD 3 0) ++ leBytes 8 (a.d.getD 4 0) }) :
    execEpCreate o s = .next ({ u with drt := { u.drt with eps := Tab.put u.drt.eps ep e } }.drtEnd o stOk) := by
  refine (s.drtCommand_runs o 1 _ u a htake hmay).trans ?_
  simp only [← hep, hnew, ← hdom, hkeyed, hring, hkind, haligned, ← hn, beq_false_of_ne hsome, Nat.not_lt.2 hmost, Nat.not_le.2 hroom,
    hslice, ← he, bne_self_eq_false, beq_self_eq_true, decide_false, Bool.not_true, Bool.or_self, ne_eq, not_true_eq_false, false_and,
    Bool.false_eq_true, if_false]

/-- An endpoint that exists goes once its messages are squashed (R262). -/
theorem execEpDestroy_accepted {b : State} {ep : Nat} (htake : s.drtTake o 2 = (u, some a)) (hmay : u.drtMay o 2 = true)
    (hep : ep = a.f 0 63 40) (hold : Tab.has u.drt.eps ep = true) (hb : b = u.squashEps (fun e => e == ep) true) :
    execEpDestroy o s = .next ({ b with drt := { b.drt with eps := Tab.del b.drt.eps ep } }.drtEnd o stOk) := by
  refine (s.drtCommand_runs o 2 _ u a htake hmay).trans ?_
  simp only [← hep, hold, ← hb, Bool.not_true, Bool.false_eq_true, if_false]

/-- A register command's region of no slice takes the next fresh index, and DRT_CMD shows its handle (R247). -/
theorem execRegionReg_fresh {init dom len : Nat} {b : State} (htake : s.drtTake (.reg init) 3 = (u, some a))
    (hmay : u.drtMay (.reg init) 3 = true) (hfresh : u.drt.fresh < 2 ^ 20) (hlen : len = a.d.getD 2 0) (hsome : len ≠ 0)
    (hmost : len ≤ 2 ^ 48) (hslice : a.f 0 63 50 = noSlice) (hdom : dom = a.f 0 49 34)
    (hb : b = u.setDrt { u.drt with
      regions := Tab.put u.drt.regions u.drt.fresh
        { base := a.d.getD 1 0, len := len, slice := noSlice, domain := dom, wr := natBit (a.d.getD 0 0) 33,
          rd := natBit (a.d.getD 0 0) 32, bad := false }
      fresh := u.drt.fresh + 1, freed := u.drt.freed }) :
    execRegionReg (.reg init) s
      = .next ((b.setF DRT_CMD.handle (u.drt.fresh * 2 ^ 12 + u.regionGen u.drt.fresh)).drtEnd (.reg init) stOk) := by
  refine (s.drtCommand_runs (.reg init) 3 _ u a htake hmay).trans ?_
  simp only [hfresh, ← hlen, hsome, Nat.not_lt.2 hmost, hslice, ← hdom, ← hb, State.regionMay_reg, decide_true, Bool.not_true, ne_eq,
    not_true_eq_false, false_and, or_self, Bool.false_eq_true, if_false, if_true]

/-- A region that its handle names is revoked for an origin that may name it (R248). -/
theorem execRegionRevoke_accepted {r : DrtRegion} (htake : s.drtTake o 4 = (u, some a)) (hmay : u.drtMay o 4 = true)
    (hregion : u.region? a.handle = some r) (hnames : u.regionMay o r.slice r.domain = true) :
    execRegionRevoke o s = .next ((u.revokeRegion (a.handle / 2 ^ 12)).drtEnd o stOk) := by
  refine (s.drtCommand_runs o 4 _ u a htake hmay).trans ?_
  simp only [hregion, hnames, if_true]

/-- DRT_CMD_DATA 0 to 2 show a good region that a register command reads (R262). -/
theorem execRegionRead_good {init d0 : Nat} {r : DrtRegion} (htake : s.drtTake (.reg init) 5 = (u, some a))
    (hmay : u.drtMay (.reg init) 5 = true) (hregion : u.region? a.handle = some r) (hgood : r.bad = false)
    (hd0 : d0 = r.slice % 2 ^ 14 * 2 ^ 50 + r.domain % 2 ^ 16 * 2 ^ 34 + b2n r.wr * 2 ^ 33 + b2n r.rd * 2 ^ 32) :
    execRegionRead (.reg init) s
      = .next ((((u.setReg .DRT_CMD_DATA (BitVec.ofNat 64 d0) 0).setReg .DRT_CMD_DATA (BitVec.ofNat 64 r.base) 1).setReg .DRT_CMD_DATA
          (BitVec.ofNat 64 r.len) 2).drtEnd (.reg init) stOk) := by
  refine (s.drtCommand_runs (.reg init) 5 _ u a htake hmay).trans ?_
  simp only [hregion, hgood, ← hd0, State.regionMay_reg, Bool.not_true, Bool.false_eq_true, if_false]

/-- A slot with an AES-256 key becomes the current epoch of a domain, which has no other (R254). -/
theorem execDomainSet_keyed (htake : s.drtTake o 6 = (u, some a)) (hmay : u.drtMay o 6 = true)
    (hkey : u.holdsAes256 (a.f 0 31 16) = true) :
    execDomainSet o s = .next ((u.setDomain (a.f 0 63 48) ⟨some (a.f 0 47 32, a.f 0 31 16), none, none⟩).drtEnd o stOk) := by
  refine (s.drtCommand_runs o 6 _ u a htake hmay).trans ?_
  simp only [hkey, if_true]

/-- A slot with an AES-256 key becomes the next epoch of a domain that has this epoch neither as its current nor its previous one
(R254). -/
theorem execDomainNext_keyed {d : DrtDomain} {e : Nat} (htake : s.drtTake o 7 = (u, some a)) (hmay : u.drtMay o 7 = true)
    (hd : d = u.domain (a.f 0 63 48)) (he : e = a.f 0 47 32) (hkey : u.holdsAes256 (a.f 0 31 16) = true)
    (hcur : d.cur.map Prod.fst ≠ some e) (hprev : d.prev.map Prod.fst ≠ some e) :
    execDomainNext o s = .next ((u.setDomain (a.f 0 63 48) { d with next := some (e, a.f 0 31 16) }).drtEnd o stOk) := by
  refine (s.drtCommand_runs o 7 _ u a htake hmay).trans ?_
  simp only [← hd, ← he, hkey, beq_false_of_ne hcur, beq_false_of_ne hprev, Bool.not_true, Bool.or_self, Bool.false_eq_true, if_false]

/-- The next epoch of a domain becomes its current one, and every endpoint of the domain is told (R254; that the previous epoch stays
where keep_prev is 0 is log 154, the model's choice). -/
theorem execDomainPromote_next {d : DrtDomain} {b : State} (htake : s.drtTake o 8 = (u, some a)) (hmay : u.drtMay o 8 = true)
    (hd : d = u.domain (a.f 0 63 48)) (hnext : d.next.isSome = true)
    (hb : b = u.setDomain (a.f 0 63 48) ⟨d.next, none, if natBit (a.d.getD 0 0) 0 then d.cur else d.prev⟩) :
    execDomainPromote o s = .next ((b.drtTellAll 0x54 stOk 3 0 (some (a.f 0 63 48))).drtEnd o stOk) := by
  have hsome : d.next.isNone = false := by rw [← Option.not_isSome, hnext]; rfl
  refine (s.drtCommand_runs o 8 _ u a htake hmay).trans ?_
  simp only [← hd, hsome, ← hb, Bool.false_eq_true, if_false]

/-- A domain's previous epoch is dropped, whatever it is (R254). -/
theorem execDomainDropPrev_taken (htake : s.drtTake o 9 = (u, some a)) (hmay : u.drtMay o 9 = true) :
    execDomainDropPrev o s = .next ((u.setDomain (a.f 0 63 48) { u.domain (a.f 0 63 48) with prev := none }).drtEnd o stOk) :=
  s.drtCommand_runs o 9 _ u a htake hmay

end

/-- Settles O44: each command's clause is its lemma above. That 0x3FFF as a slice stands for firmware, and that a revoked region drops the
responses that wait, rests on log 152, the previous epoch that DOMAIN_PROMOTE leaves without keep_prev on log 154: choices of the model
beside R262, R248 and R254. -/
theorem completeTransportCommands : Obligations.CompleteTransportCommands := by
  unfold Obligations.CompleteTransportCommands
  refine ⟨?create, ?destroy, ?register, ?revoke, ?read, ?set, ?next, ?promote, ?dropPrev⟩
  case create =>
    intro o s u a htake hmay ep hnew hkeyed r hring hkind haligned hsome hmost hroom hslice e
    exact execEpCreate_accepted htake hmay rfl hnew rfl hkeyed hring hkind haligned rfl hsome hmost hroom hslice rfl
  case destroy =>
    intro o s u a htake hmay hold b
    exact execEpDestroy_accepted htake hmay rfl hold rfl
  case register =>
    intro o s u a htake hmay hfresh _ hsome hmost hslice r b init ho
    subst ho
    exact execRegionReg_fresh htake hmay hfresh rfl hsome hmost hslice rfl rfl
  case revoke =>
    intro o s u a htake hmay r hregion hnames
    exact execRegionRevoke_accepted htake hmay hregion hnames
  case read =>
    intro o s u a htake hmay r hregion _ hgood init ho d0 b
    subst ho
    exact execRegionRead_good htake hmay hregion hgood rfl
  case set =>
    intro o s u a htake hmay hkey
    exact execDomainSet_keyed htake hmay hkey
  case next =>
    intro o s u a htake hmay d hkey hcur hprev
    exact execDomainNext_keyed htake hmay rfl rfl hkey hcur hprev
  case promote =>
    intro o s u a htake hmay d hnext b
    exact execDomainPromote_next htake hmay rfl hnext rfl
  case dropPrev =>
    intro o s u a htake hmay
    exact execDomainDropPrev_taken htake hmay

end Sys2Proof.Machine
end

section
/-! SUPPORT. Concrete states that meet the conditions of the statements on Drugrim's timers and commands. They are evaluated one after
another: begun all at once, evaluations by the kernel hold a thread each, with its stack, until their turn. -/

namespace Sys2Proof.Machine

set_option Elab.async false

/-- MANAGED, the transport enabled and settling up to 989, in 0.25 ns; the held snapshot's earliest-possible time is 990. -/
def transportState : State :=
  let s := ((servingState.setF MODE_STATE.mode mManaged).setF DRT_CFG.enable 1).setF DRT_STATUS.settling 1
  { s with
    island := { s.island with snapTime := 1000 * 2 ^ 14, snapUnc := some 10 }
    drt := { s.drt with settleLater := false, settle := 989 } }

/-- Settling may end; firmware and PF0 of link 0 reach DRT_CFG. -/
theorem transportState_settleEnd_disable :
    transportState.flag DRT_STATUS.settling = true ∧ transportState.drt.settleLater = false ∧
      transportState.hasPassed transportState.drt.settle = true ∧ transportState.hasPassed 990 = false ∧
      ∀ init ∈ [0, 0x800], (transportState.blockAccess 14 .write init 0).2 = true := by decide +kernel

/-! ### Outbound records -/

/-- A WRITE of one packet in a round, its timer started at 0. -/
def outboundRec (round : Nat) : OutRec :=
  { ep := 1, num := 9, idx := 0, irqNow := false, op := 1, remote := 2, peer := zeroBytes 16, domain := 3, epoch := 4, key := some 0,
    msgSeq := 0, region := 0, offset := 0, len := 64, loc := 0, imm := 0, nb := 0, notify := false, dscp := 0, size := 4096, acked := 0,
    retx := 0, round := round, timer := some 0, deadline := 100, sentU := [] }

/-- It has record `r`. -/
def outboundState (r round : Nat) : State :=
  { transportState with drt := { transportState.drt with outs := [(r, outboundRec round)] } }

/-- The first and the last record wait for a timer, before the last round and in it. -/
theorem outboundState_waits : ∀ x ∈ [((0 : Nat), (0 : Nat)), (65535, 15), (65535, 16)],
    let s := outboundState x.1 x.2
    Tab.look s.drt.outs x.1 = some (outboundRec x.2) ∧ (outboundRec x.2).timer = some 0 ∧ s.drtRuns = true := by decide +kernel

/-- A timeout of round 15 starts round 16 and sends the packet again; one of round 16 ends the message. -/
theorem outboundState_retransmitTimeout :
    let left : Res → List (Nat × Option Nat) × List DrtItem
      | .next s => (s.drt.outs.map fun p => (p.2.round, p.2.timer), s.drtQueue 2)
      | _ => ([], [])
    left (exec (.retransmitTimeout 65535) (outboundState 65535 15)) = ([(16, none)], [.data 65535 0 16]) ∧
      left (exec (.retransmitTimeout 65535) (outboundState 65535 16)) = ([], []) := by decide +kernel

/-! ### Inbound records and tombstones -/

/-- A WRITE_IMM of one packet, placed at 0 and not acknowledged; its T_stale and four times its not-before time are 988. -/
def inboundRec (st : InState) : InRec :=
  let h : DrtHdr := ⟨1, 8, 0, 0, 3, 4, 2, 1, 0, 0, 0, 64, 0, 0, 0, 0, 0, 0⟩
  { idx := 0, st := st, last := h, via := ⟨0, zeroBytes 16, zeroBytes 16, 0xC000⟩, bits := 1, tStale := 988, imm := 0, nb := 247,
    notify := false, sinceAck := 1, ackAt := some 0, echoTx := 0, echoRx := 0, uRx := 0, filledAt := 0, status := stOk, reason := 0 }

/-- It has the record of message 0 from endpoint 2, and message 1 from there has left a tombstone. -/
def inboundState (st : InState) : State :=
  { transportState with drt := { transportState.drt with
      ins := [(msgKey 2 0, inboundRec st)], tombs := [(msgKey 2 1, ⟨989, stOk, 0, false⟩)] } }

/-- A record owes an ACK whatever its state; its T_stale and its not-before time have passed, and time is unknown. -/
theorem inboundState_due : ∀ st ∈ [InState.receiving, .held], let s := inboundState st
    Tab.look s.drt.ins (msgKey (2 : BitVec 24).toNat (0 : BitVec 48).toNat) = some (inboundRec st) ∧
      (inboundRec st).ackAt = some 0 ∧ s.drtRuns = true ∧ s.hasPassed (inboundRec st).tStale = true ∧
      s.hasPassed (4 * (inboundRec st).nb) = true ∧ (s.after (0 + 2 * s.getF DRT_TIMER.nb_max * msT)).pubUnc 0 = none := by
  decide +kernel

/-- A HELD message is released into a tombstone, and a tombstone that goes leaves its place to a finished one. -/
theorem inboundState_bury :
    let left : Res → List Nat × List Nat
      | .next s => (s.drt.ins.map Prod.fst, s.drt.tombs.map Prod.fst)
      | _ => ([], [])
    left (exec (.notBeforeRelease 2 0) (inboundState .held)) = ([], [msgKey 2 0, msgKey 2 1]) ∧
      left (exec (.tombstoneFree 2 1) (inboundState .held)) = ([msgKey 2 0], []) ∧
      left (exec (.tombstoneFree 2 1) (inboundState .finished)) = ([], [msgKey 2 0]) := by decide +kernel

/-! ### Commands -/

/-- Domain 3 with epoch 4 current and 5 next, under slot 6, which holds an AES-256 key; endpoint 1 of slice 5 in the domain; region 0 of
that slice, of generation 7; a work ring 65535. -/
def drtCommandState : State :=
  let s := transportState.setRing 0 65535 { controlRing with kind := 5 }
  { s with
    cph := { s.cph with keys := [(6, { KeySlot.empty with valid := true, len256 := true })] }
    drt := { s.drt with
      doms := [(3, ⟨some (4, 6), some (5, 6), none⟩)]
      eps := [(1, { slice := 5, domain := 3, jumbo := false, tblBase := 0, tblCount := 1, ring := 65535, addr := zeroBytes 16 })]
      regions := [(0, { base := 0, len := 1, slice := 5, domain := 3, wr := true, rd := false, bad := false })]
      gens := [(0, 7)], fresh := 2 ^ 20 - 1 } }

/-- A command stands in DRT_CMD_DATA, and as entry 0 of CONTROL rings: 7 of PF0 of link 0 and 8 of slice 5. -/
def State.givesCommand (s : State) (op handle : Nat) (d : List Nat) : State :=
  let e := zeroBytes 8 ++ leBytes 1 0x30 ++ leBytes 1 op ++ zeroBytes 2 ++ leBytes 4 handle ++ d.flatMap (leBytes 8)
  let r := { controlRing with fetched := [(0, e)] }
  let t := (s.setRing 0 7 r).setRing 0 8 { r with slice := some 5 }
  (d.zipIdx.foldl (fun u x => u.setReg .DRT_CMD_DATA (BitVec.ofNat 64 x.1) x.2) t).setF DRT_CMD.handle handle

/-- An origin's command is taken with these inputs, and permitted. -/
def State.takesCommand (s : State) (o : Origin) (op : Nat) (a : DrtArgs) : Bool :=
  (s.drtTake o op).2 == some a && (s.drtTake o op).1.drtMay o op

/-- Firmware and PF0 of link 0 through the register, and PF0's ring. -/
def moduleOrigins : List Origin := [.reg 0, .reg 0x800, .ring 7 0 false]

/-- A new endpoint 2^24 − 1 of domain 3 on ring 65535, with the least destination table and the largest. -/
theorem drtCommandState_epCreate : ∀ o ∈ moduleOrigins, ∀ n ∈ [1, 16777216],
    let a : DrtArgs := ⟨[(2 ^ 24 - 1) * 2 ^ 40 + noSlice * 2 ^ 26 + 3 * 2 ^ 10, 64, n * 2 ^ 32 + 65535 * 2 ^ 16, 0, 0, 0], 0⟩
    let s := drtCommandState.givesCommand 1 0 a.d
    let u := (s.drtTake o 1).1
    s.takesCommand o 1 a = true ∧ Tab.has u.drt.eps (a.f 0 63 40) = false ∧
      ((Tab.look u.drt.doms (a.f 0 25 10)).bind DrtDomain.cur).isSome = true ∧ (u.ring? 0 (a.f 2 31 16)).map Ring.kind = some 5 ∧
      a.f 1 5 0 = 0 ∧ a.f 2 63 32 = n ∧ u.drt.eps.length < 16384 ∧ a.f 0 39 26 = noSlice := by decide +kernel

/-- Endpoint 1 is there to be destroyed. -/
theorem drtCommandState_epDestroy : ∀ o ∈ moduleOrigins,
    let a : DrtArgs := ⟨[2 ^ 40, 0, 0, 0, 0, 0], 0⟩
    let s := drtCommandState.givesCommand 2 0 a.d
    s.takesCommand o 2 a = true ∧ Tab.has (s.drtTake o 2).1.drt.eps (a.f 0 63 40) = true := by decide +kernel

/-- The last fresh index is left for a region of the least length or the greatest. -/
theorem drtCommandState_regionReg : ∀ init ∈ [0, 0x800], ∀ n ∈ [1, 2 ^ 48],
    let a : DrtArgs := ⟨[noSlice * 2 ^ 50, 0, n, 0, 0, 0], 0⟩
    let s := drtCommandState.givesCommand 3 0 a.d
    s.takesCommand (.reg init) 3 a = true ∧ (s.drtTake (.reg init) 3).1.drt.fresh < 2 ^ 20 ∧ a.d.getD 2 0 = n ∧
      a.f 0 63 50 = noSlice := by decide +kernel

/-- Region 0 is named by its handle, and its own slice's ring may revoke or read it too. -/
theorem drtCommandState_region : ∀ o ∈ .ring 8 0 false :: moduleOrigins, ∀ op ∈ [4, 5],
    let a : DrtArgs := ⟨[0, 0, 0, 0, 0, 0], 7⟩
    let s := drtCommandState.givesCommand op 7 a.d
    let u := (s.drtTake o op).1
    s.takesCommand o op a = true ∧ (u.region? 7).map DrtRegion.bad = some false ∧ u.regionMay o 5 3 = true := by decide +kernel

/-- Slot 6 may give domain 3 an epoch 6, which it does not have; its epoch 5 may be promoted, with keep_prev or without. -/
theorem drtCommandState_domain : ∀ o ∈ moduleOrigins, ∀ op ∈ [6, 7, 8, 9], ∀ keep ∈ [0, 1],
    let a : DrtArgs := ⟨[3 * 2 ^ 48 + 6 * 2 ^ 32 + 6 * 2 ^ 16 + keep, 0, 0, 0, 0, 0], 0⟩
    let s := drtCommandState.givesCommand op 0 a.d
    let u := (s.drtTake o op).1
    let d := u.domain (a.f 0 63 48)
    s.takesCommand o op a = true ∧ u.holdsAes256 (a.f 0 31 16) = true ∧ d.cur.map Prod.fst ≠ some (a.f 0 47 32) ∧
      d.prev.map Prod.fst ≠ some (a.f 0 47 32) ∧ d.next.isSome = true := by decide +kernel

end Sys2Proof.Machine
end

section
/-! SUPPORT. What descriptors, their dispatch and completion, the units and the entropy source answer on the path that nothing stops
(R265, R267, R269–R271, R278, R281–R283). -/

namespace Sys2Proof.Machine

/-! ### Descriptors -/

/-- A thread's oldest request of the endpoint is accepted as a descriptor while the array issues and has room (R264, R265). -/
theorem State.takeDesc_accepts (core thread op : Nat) (s : State) (r : FReq) (hreq : s.request? core thread 1 = some r) (hop : r.op = op)
    (hhold : s.mode ≠ mSafeHold) (hstandby : s.mode ≠ mStandby) (hroom : s.cph.descs.length < 4096) :
    s.takeDesc core thread op = .next ((s.takeReq core r).acceptDesc (descOf s core thread r)).settleCores := by
  unfold State.takeDesc
  simp only [hreq, hop, hhold, hstandby, Nat.not_le.2 hroom, ne_eq, not_true_eq_false, or_self, if_false]

/-- With no suspended descriptor the first queued one takes the next unit, which is free by its first block (R269). -/
theorem execCipherDispatch_free (s : State) (n u start : Nat) (d : CphDesc) (hqueued : firstDesc (s.descsIn .queued) = some (n, d))
    (hunit : s.nextUnit = some u) (hsuspended : firstDesc (s.descsIn .suspended) = none) (hruns : s.cipherRuns = true)
    (hstart : start = max (d.acceptAt + 4 * fclk) (s.now + (if s.now = d.acceptAt then 4 * fclk else 0)))
    (hfree : s.unitFreeAt u ≤ start) : execCipherDispatch s = .next (s.setDesc n { d with run := .running u start }) := by
  unfold execCipherDispatch
  simp only [hqueued, hunit, hsuspended, hruns, ← hstart, hfree, and_self, Bool.not_true, Bool.false_eq_true, if_true, if_false]

/-- The first suspended descriptor resumes on the next unit unless a more urgent one is queued (R270). -/
theorem execCipherResume_first (s a : State) (n u : Nat) (d : CphDesc) (hsuspended : firstDesc (s.descsIn .suspended) = some (n, d))
    (hunit : s.nextUnit = some u) (hruns : s.cipherRuns = true)
    (hurgent : ((s.descsIn .queued).any fun q => decide (q.2.prio < d.prio)) = false) (ha : a = s.after (s.unitFreeAt u)) :
    execCipherResume s = .next (a.setDesc n { d with run := .running u (a.now + 3 * fclk) }) := by
  unfold execCipherResume
  simp only [hsuspended, hunit, hruns, hurgent, ← ha, Bool.not_true, Bool.or_self, Bool.false_eq_true, if_false]

/-- The only running descriptor completes OK at its end (R267). -/
theorem execCipherComplete_only (s : State) (n : Nat) (d : CphDesc)
    (honly : (s.cph.descs.filter fun p => p.2.run.unit?.isSome) = [(n, d)]) :
    execCipherComplete s = .next ((s.after d.endsAt).finishDesc n).settleCores := by
  unfold execCipherComplete
  simp only [honly, List.foldl_cons, List.foldl_nil]

/-- The only descriptor that waits below level 1 gains a level (R271). -/
theorem execDescriptorPriorityRaise_only (s a : State) (n : Nat) (d : CphDesc)
    (honly : (s.cph.descs.filter fun p => decide (1 < p.2.prio) && (p.2.run == .queued || p.2.run == .suspended)) = [(n, d)])
    (ha : a = s.after (d.idleAt + 65536 * fclk)) :
    execDescriptorPriorityRaise s = .next (a.setDesc n { d with prio := d.prio - 1, idleAt := a.now }) := by
  unfold execDescriptorPriorityRaise
  simp only [honly, List.foldl_cons, List.foldl_nil, ← ha]

/-! ### Randomness and units -/

section
variable (inst : Fin 27) (s : State)

/-- While the entropy source is good, a DRBG whose reseed falls due reseeds, and nothing else changes (R281). -/
theorem execDrbgReseed_entropyOk (hok : s.flag CPH_STATUS.entropy_ok = true) : execDrbgReseed inst s = .next s := by
  unfold execDrbgReseed
  rw [if_pos (.inl hok)]

/-- While the entropy source has failed, a running DRBG stops with its unit (R282). -/
theorem execDrbgReseed_failed (a : State) (hfailed : s.flag CPH_STATUS.entropy_ok = false)
    (hruns : s.cph.stopped.contains inst.val = false)
    (ha : a = { s with cph := { s.cph with stopped := insertNat s.cph.stopped inst.val, stopAt := s.now } }) :
    execDrbgReseed inst s = .next (a.suspendUnits [inst.val]) := by
  unfold execDrbgReseed
  simp only [hfailed, hruns, ← ha, Bool.false_eq_true, or_self, if_false]

end

/-- The entropy source recovers: every DRBG runs again (R282). -/
theorem execEntropyRecovered_failed (s a : State) (hfailed : s.flag CPH_STATUS.entropy_ok = false)
    (ha : a = { s with cph := { s.cph with stopped := [] } }.setF CPH_STATUS.entropy_ok 1) :
    execEntropyRecovered s = .next (a.showCipher.postEvent .owner ⟨0x62, none, zeroBytes 2⟩) := by
  unfold execEntropyRecovered
  simp only [hfailed, ← ha, Bool.false_eq_true, if_false]

/-- With no unit running, the only waiting descriptor ends DEGRADED 10 ms after it began to wait or the last DRBG stopped (R282). -/
theorem execCipherEntropyTimeout_only (s : State) (n : Nat) (d : CphDesc) (hstopped : s.cph.stopped ≠ []) (hnone : s.cipherUnits = [])
    (honly : (s.cph.descs.filter fun p => p.2.run == .queued || p.2.run == .suspended) = [(n, d)]) :
    execCipherEntropyTimeout s = .next ((s.after (max d.waitAt s.cph.stopAt + 10 * msT)).endDesc n stDegraded 0).settleCores := by
  unfold execCipherEntropyTimeout
  simp only [List.isEmpty_eq_false_iff.2 hstopped, hnone, honly, List.isEmpty_nil, List.foldl_cons, List.foldl_nil, Bool.not_true,
    Bool.or_self, Bool.false_eq_true, if_false]

section
variable (unit : Fin 26) (s : State)

/-- A unit that passes its known-answer test stays as it is (R283). -/
theorem execUnitKnownAnswerTest_passes : execUnitKnownAnswerTest unit true s = .next s := rfl

/-- A unit in dispatch that fails its known-answer test and runs no descriptor leaves dispatch (R283). -/
theorem execUnitKnownAnswerTest_failsIdle (a b : State) (hserves : s.unitServes unit.val = true)
    (ha : a = ((s.raise 29 (faultA 0x0003)).cphCount 7).unitFails (secondsOf s.timeNow % 2 ^ 32) kCipher unit.val)
    (hb : b = a.setF CPH_STATUS.units_active ((List.range 26).filter a.unitServes).length)
    (hidle : (b.cph.descs.filter fun p => p.2.run.unit? == some unit.val) = []) :
    execUnitKnownAnswerTest unit false s = .next b.settleCores := by
  unfold execUnitKnownAnswerTest
  simp only [hserves, ← ha, ← hb, hidle, List.foldl_nil, Bool.not_true, Bool.or_self, Bool.false_eq_true, if_false]

end

/-- Settles O40: each command's clause is its lemma above, and that of ENTROPY_FAILURE its meaning. Choices of the model beside the rules:
that inputs are read when a descriptor completes is log 147; that the array does not issue in SAFE_HOLD, that a stopped DRBG
suspends its unit's descriptor and that DERIVE is a descriptor of five blocks is log 149. -/
theorem completeCipher : Obligations.CompleteCipher := by
  unfold Obligations.CompleteCipher
  refine ⟨?encrypt, ?decrypt, ?derive, ?dispatch, ?resume, ?complete, ?raise, ?reseed, ?failure, ?recovered, ?timeout, ?test⟩
  case encrypt =>
    intro core thread
    exact State.takeDesc_accepts core.val thread.val 1
  case decrypt =>
    intro core thread
    exact State.takeDesc_accepts core.val thread.val 2
  case derive =>
    intro core thread
    exact State.takeDesc_accepts core.val thread.val 3
  case dispatch =>
    intro s n u d hqueued hunit hsuspended hruns start hfree
    exact execCipherDispatch_free s n u start d hqueued hunit hsuspended hruns rfl hfree
  case resume =>
    intro s n u d hsuspended hunit hruns hurgent a
    exact execCipherResume_first s a n u d hsuspended hunit hruns hurgent rfl
  case complete =>
    exact execCipherComplete_only
  case raise =>
    intro s n d honly a
    exact execDescriptorPriorityRaise_only s a n d honly rfl
  case reseed =>
    intro inst s
    exact ⟨execDrbgReseed_entropyOk inst s, fun hfailed hruns => execDrbgReseed_failed inst s _ hfailed hruns rfl⟩
  case failure =>
    intro test s
    rfl
  case recovered =>
    intro s hfailed a
    exact execEntropyRecovered_failed s a hfailed rfl
  case timeout =>
    exact execCipherEntropyTimeout_only
  case test =>
    intro unit s
    exact ⟨execUnitKnownAnswerTest_passes unit s,
      fun hserves hidle => execUnitKnownAnswerTest_failsIdle unit s _ _ hserves rfl rfl hidle⟩

end Sys2Proof.Machine
end

section
/-! SUPPORT. What the key commands and the read of a fresh random number answer where they are taken, allowed and accepted (R273–R277,
R281). -/

namespace Sys2Proof.Machine

/-! ### Key commands -/

/-- A key command, taken, with its slot free of descriptors that cannot run, does its work in the state that its checks leave. -/
theorem State.keyCommand_allowed (s : State) (o : Origin) (op slot kek : Nat) (f : State → KeyArgs → Res) {u : State} {a : KeyArgs}
    {c : State × Bool} (htake : s.keyTake o op slot kek = (u, some a)) (hwaits : u.slotWaits a.slot = false)
    (hc : c = u.keyAllowed o op a) (hallowed : c.2 = true) : s.keyCommand o op slot kek f = f c.1 a :=
  s.keyCommand_runs o op slot kek f u c.1 a htake hwaits (hc.symm.trans (Prod.ext rfl hallowed))

section
variable {o : Origin} {slot : BitVec 16} {s u : State} {a : KeyArgs} {c : State × Bool}

section
variable (hwaits : u.slotWaits a.slot = false)
include hwaits

/-- KEY_LOAD of a slot within its slice's quota: its descriptors end under the old key, then it holds the new one (R273–R275). -/
theorem execKeyLoad_accepted {key : Nat} (htake : s.keyTake o 1 slot.toNat (s.getF CPH_KEY_CMD.kek_slot) = (u, some a))
    (hc : c = u.keyAllowed o 1 a) (hallowed : c.2 = true) (hlimit : a.attr.bits 40 0 ≠ 0)
    (hquota : c.1.keyOverQuota a.slot a.attr = false)
    (hkey : key = beNat (a.data.take (if a.attr.bits 63 63 = 1 then 32 else 16))) :
    execKeyLoad o slot s
      = .next (((c.1.flushSlot a.slot).setKeySlot a.slot (KeySlot.loaded a.attr key)).keyEnd o stOk).settleCores := by
  refine (s.keyCommand_allowed o 1 _ _ _ htake hwaits hc hallowed).trans ?_
  simp only [hlimit, hquota, ← hkey, Bool.false_eq_true, if_false]

/-- KEY_UNWRAP under a wrapping slot that its origin may read and that pays for the use: the key that its data holds is loaded (R273,
R274, R276). -/
theorem execKeyUnwrap_accepted {kek : BitVec 16} {w : KeySlot} {d r : State × Bool} {key : Nat}
    (htake : s.keyTake o 2 slot.toNat kek.toNat = (u, some a)) (hc : c = u.keyAllowed o 2 a) (hallowed : c.2 = true)
    (hlimit : a.attr.bits 40 0 ≠ 0) (hquota : c.1.keyOverQuota a.slot a.attr = false) (hw : w = c.1.keySlot a.kek)
    (hd : d = c.1.keyAccess .read (c.1.originInit o) a.kek) (hvalid : w.valid = true) (hunwraps : w.unwrap = true) (haccess : d.2 = true)
    (hr : r = (d.1.flushSlot a.slot).reserveKey a.kek (if a.attr.bits 63 63 == 1 then 24 else 12)) (hpays : r.2 = true)
    (hkey : kwUnwrap (keyOf w.len256 w.key) (a.data.take (if a.attr.bits 63 63 == 1 then 40 else 24)) = some key) :
    execKeyUnwrap o slot kek s = .next ((r.1.setKeySlot a.slot (KeySlot.loaded a.attr key)).keyEnd o stOk).settleCores := by
  refine (s.keyCommand_allowed o 2 _ _ _ htake hwaits hc hallowed).trans ?_
  simp only [hlimit, hquota, ← hw, ← hd, hvalid, hunwraps, haccess, ← hr, hpays, hkey, Bool.not_true, Bool.or_self, Bool.false_eq_true,
    if_false]

/-- KEY_ERASE: the slot's descriptors end under the old key, then it is empty (R273, R275). -/
theorem execKeyErase_allowed (htake : s.keyTake o 3 slot.toNat (s.getF CPH_KEY_CMD.kek_slot) = (u, some a))
    (hc : c = u.keyAllowed o 3 a) (hallowed : c.2 = true) :
    execKeyErase o slot s = .next (((c.1.flushSlot a.slot).setKeySlot a.slot KeySlot.empty).keyEnd o stOk).settleCores :=
  s.keyCommand_allowed o 3 _ _ _ htake hwaits hc hallowed

end

/-- KEY_ATTR within the slice's quota: uses, slice and limit change, a slot at or beyond its new limit is exhausted, and one back below
7/8 of it may report its rollover again (R273, R277). -/
theorem execKeyAttr_accepted {k : KeySlot} {b : State} (htake : s.keyTake o 4 slot.toNat (s.getF CPH_KEY_CMD.kek_slot) = (u, some a))
    (hc : c = u.keyAllowed o 4 a) (hallowed : c.2 = true) (hlimit : a.attr.bits 40 0 ≠ 0)
    (hquota : c.1.keyOverQuota a.slot a.attr = false) (hk : k = (c.1.keySlot a.slot).withAttr a.attr)
    (hb : b = c.1.setKeySlot a.slot { k with rollover := k.rollover && decide (k.limit * 7 / 8 ≤ k.counter) }) :
    execKeyAttr o slot s = .next ((if k.limit ≤ k.counter then b.exhaustKey a.slot else b).keyEnd o stOk) := by
  unfold execKeyAttr
  simp only [htake, ← hc, hallowed, hlimit, hquota, ← hk, ← hb, Bool.not_true, Bool.false_eq_true, if_false]

/-- KEY_QUERY by register: CPH_KEY_ATTR and CPH_KEY_USAGE show the slot (R273). -/
theorem execKeyQuery_reg_allowed {init : Nat} {k : KeySlot} {b : State}
    (htake : s.keyTake (.reg init) 5 slot.toNat (s.getF CPH_KEY_CMD.kek_slot) = (u, some a)) (hc : c = u.keyAllowed (.reg init) 5 a)
    (hallowed : c.2 = true) (hk : k = c.1.keySlot a.slot)
    (hb : b = (c.1.setReg .CPH_KEY_ATTR (BitVec.ofNat 64 k.attrWord)).setReg .CPH_KEY_USAGE (BitVec.ofNat 64 k.usageWord)) :
    execKeyQuery (.reg init) slot s = .next (b.keyEnd (.reg init) stOk (leBytes 8 k.attrWord ++ leBytes 8 k.usageWord)) := by
  unfold execKeyQuery
  simp only [htake, ← hc, hallowed, ← hk, ← hb, Bool.not_true, Bool.false_eq_true, if_false]

end

/-! ### Randomness -/

section
variable {init : Nat} {s : State} {a : State × Bool} (ha : a = s.blockAccess 15 .read init 0x60) (haccess : a.2 = true)
include ha haccess

/-- CPH_RNG reads 0 while the system DRBG is stopped (R282). -/
theorem execCphRngRead_stopped (hstopped : a.1.cph.stopped.contains 26 = true) (wide upper : Bool) :
    execCphRngRead init wide upper s = .next (a.1.emit (.readData init 0)) := by
  unfold execCphRngRead
  simp only [← ha, haccess, hstopped, Bool.not_true, Bool.false_eq_true, if_true, if_false]

/-- A whole read of CPH_RNG gives bit 63 and 63 fresh bits of the system DRBG that runs (R281). -/
theorem execCphRngRead_fresh {d : Nat × State} (hruns : a.1.cph.stopped.contains 26 = false) (hd : d = a.1.draw 63) :
    execCphRngRead init true false s = .next (d.2.emit (.readData init (BitVec.ofNat 64 (2 ^ 63 + d.1)))) := by
  unfold execCphRngRead
  simp only [← ha, haccess, hruns, ← hd, Bool.not_true, Bool.false_eq_true, if_true, if_false]

end

/-- Settles O41: each command's clause is its lemma above. That a key command ends the descriptors of its slot at one instant, and that
KEY_ERASE clears the owner, rests on log 147, the read check of the wrapping slot after the quota on log 148: choices of the model
beside R273. -/
theorem completeKeys : Obligations.CompleteKeys := by
  unfold Obligations.CompleteKeys
  refine ⟨?load, ?unwrap, ?erase, ?attr, ?query, ?random⟩
  case load =>
    intro o slot s u a htake hwaits c hallowed hlimit hquota key
    exact execKeyLoad_accepted hwaits htake rfl hallowed hlimit hquota rfl
  case unwrap =>
    intro o slot kek s u a htake hwaits c hallowed hlimit hquota w d hvalid hunwraps haccess r hpays key hkey
    exact execKeyUnwrap_accepted hwaits htake rfl hallowed hlimit hquota rfl rfl hvalid hunwraps haccess rfl hpays hkey
  case erase =>
    intro o slot s u a htake hwaits c hallowed
    exact execKeyErase_allowed hwaits htake rfl hallowed
  case attr =>
    intro o slot s u a htake c hallowed hlimit hquota k b
    exact execKeyAttr_accepted htake rfl hallowed hlimit hquota rfl rfl
  case query =>
    intro o slot s u a htake c hallowed k init ho b
    subst ho
    exact execKeyQuery_reg_allowed htake rfl hallowed rfl rfl
  case random =>
    intro init s a haccess
    exact ⟨execCphRngRead_stopped rfl haccess, fun hruns => execCphRngRead_fresh rfl haccess hruns rfl⟩

end Sys2Proof.Machine
end

section
/-! SUPPORT. Concrete states that meet the conditions of the statements on the cipher array. They are evaluated one after another, as those
on the transport are. -/

namespace Sys2Proof.Machine

set_option Elab.async false

/-- An AES-256 key of every use, with a limit of 24 blocks, none of them used. -/
def hallKey : KeySlot :=
  { KeySlot.empty with key := 1, len256 := true, enc := true, dec := true, derive := true, unwrap := true, limit := 24, valid := true }

/-- MANAGED, the entropy source good and this key in slot 6. -/
def hallState : State :=
  { (servingState.setF MODE_STATE.mode mManaged).setF CPH_STATUS.entropy_ok 1 with cph := { CphSt.reset with keys := [(6, hallKey)] } }

/-- A descriptor of thread 0 of core 0, of four blocks under the key of slot 6, accepted at 0. -/
def hallDesc (prio : Nat) (run : CphRun) : CphDesc :=
  { core := 0, thread := 0, op := 1, prio := prio, erase := false, reply := 0, tag := 0, count := 4, inOff := 0, outOff := 64, ctr := false,
    key := 1, long := true, slot := some 6, words := [], acceptAt := 0, waitAt := 0, idleAt := 0, done := 0, run := run }

/-- The array holds these descriptors, in the order of their acceptance. -/
def State.holdsDescs (s : State) (ds : List CphDesc) : State :=
  { s with cph := { s.cph with descs := ds.zipIdx.map Prod.swap, nextDesc := ds.length } }

/-! ### Acceptance -/

/-- A descriptor of operation `op` that the last thread sends: five blocks under slot 6, or the pair key for its transient key. -/
def hallReq (op : Nat) : FReq := ⟨1, 7, [op * 2 ^ 60 + 6 * 2 ^ 40, if op = 3 then 3 * 2 ^ 62 else 5 * 2 ^ 52 + 5 * 2 ^ 30, 0]⟩

/-- Its endpoint has it, and the array holds `n` descriptors. -/
def requestState (op n : Nat) : State :=
  (hallState.holdsDescs (List.replicate n (hallDesc 2 .queued))).setCore 127 { FCore.off with reqs := [hallReq op] }

/-- The request is taken into an empty array and into the last place of a full one. -/
theorem requestState_request : ∀ op ∈ [1, 2, 3], ∀ n ∈ [0, 4095], let s := requestState op n
    s.request? 127 7 1 = some (hallReq op) ∧ (hallReq op).op = op ∧ s.mode ≠ mSafeHold ∧ s.mode ≠ mStandby ∧
      s.cph.descs.length < 4096 := by decide +kernel

/-- It is accepted: its five blocks are reserved and it is queued as the next descriptor. -/
theorem requestState_accepted : ∀ op ∈ [1, 2, 3], ∀ n ∈ [0, 1], let s := requestState op n
    let t := (s.takeReq 127 (hallReq op)).acceptDesc (descOf s 127 7 (hallReq op))
    (t.keySlot 6).counter = 5 ∧
      (Tab.look t.cph.descs n).map (fun d => (d.op, d.count, d.slot, d.run)) = some (op, 5, some 6, .queued) := by decide +kernel

/-! ### Dispatch, resumption, completion and priority -/

/-- With only unit 0 in dispatch a descriptor is queued: `last` has it run another one, which leaves it free at the very start of the
first block. -/
def dispatchState (last : Bool) : State :=
  { hallState.holdsDescs (hallDesc 2 .queued :: if last then [hallDesc 2 (.running 0 0)] else []) with
    cph.stopped := List.range' 1 25 }

theorem dispatchState_free : ∀ last ∈ [false, true], let s := dispatchState last
    let d := hallDesc 2 .queued
    let start := max (d.acceptAt + 4 * fclk) (s.now + (if s.now = d.acceptAt then 4 * fclk else 0))
    firstDesc (s.descsIn .queued) = some (0, d) ∧ s.nextUnit = some 0 ∧ firstDesc (s.descsIn .suspended) = none ∧
      s.cipherRuns = true ∧ s.unitFreeAt 0 ≤ start ∧ (last = true → s.unitFreeAt 0 = start) := by decide +kernel

/-- Descriptors of levels 3 and 2 are suspended and one of level 2 is queued, unit 23 the only one in dispatch. -/
def resumeState : State :=
  { hallState.holdsDescs [hallDesc 3 .suspended, hallDesc 2 .suspended, hallDesc 2 .queued] with cph.stopped := List.range 23 }

/-- The suspended one of level 2 resumes before a queued one that is no more urgent. -/
theorem resumeState_resumes : firstDesc (resumeState.descsIn .suspended) = some (1, hallDesc 2 .suspended) ∧
    resumeState.nextUnit = some 23 ∧ resumeState.cipherRuns = true ∧
    ((resumeState.descsIn .queued).any fun q => decide (q.2.prio < 2)) = false := by decide +kernel

/-- One descriptor runs, another waits at level 2 and a third at level 1, above which none is raised. -/
def singleState : State := hallState.holdsDescs [hallDesc 3 (.running 0 0), hallDesc 2 .suspended, hallDesc 1 .queued]

theorem singleState_only :
    (singleState.cph.descs.filter fun p => p.2.run.unit?.isSome) = [(0, hallDesc 3 (.running 0 0))] ∧
      (singleState.cph.descs.filter fun p => decide (1 < p.2.prio) && (p.2.run == .queued || p.2.run == .suspended))
        = [(1, hallDesc 2 .suspended)] := by decide +kernel

/-! ### Randomness and units -/

/-- The entropy source has failed; the DRBGs `stopped` have stopped and one descriptor waits. -/
def failedEntropyState (stopped : List Nat) : State :=
  { (hallState.setF CPH_STATUS.entropy_ok 0).holdsDescs [hallDesc 2 .queued] with cph.stopped := stopped }

/-- Reseeds go well before the failure; after it the first and the last DRBG may stop, and the source recover. -/
theorem failedEntropyState_reseed : hallState.flag CPH_STATUS.entropy_ok = true ∧
    ∀ inst ∈ [0, 26], let s := failedEntropyState (List.range' 1 25)
      s.flag CPH_STATUS.entropy_ok = false ∧ s.cph.stopped.contains inst = false := by decide +kernel

/-- Every DRBG has stopped, and so every unit, while the descriptor waits. -/
theorem failedEntropyState_timeout : let s := failedEntropyState (List.range 27)
    s.cph.stopped ≠ [] ∧ s.cipherUnits = [] ∧
      (s.cph.descs.filter fun p => p.2.run == .queued || p.2.run == .suspended) = [(0, hallDesc 2 .queued)] := by decide +kernel

/-- Units 1 and 23, in dispatch, may fail without a descriptor of their own while unit 0 runs one. -/
theorem singleState_knownAnswerTest : ∀ unit ∈ [1, 23], let s := singleState
    let a := ((s.raise 29 (faultA 0x0003)).cphCount 7).unitFails (secondsOf s.timeNow % 2 ^ 32) kCipher unit
    let b := a.setF CPH_STATUS.units_active ((List.range 26).filter a.unitServes).length
    s.unitServes unit = true ∧ (b.cph.descs.filter fun p => p.2.run.unit? == some unit) = [] ∧ b.getF CPH_STATUS.units_active = 23 := by
  decide +kernel

/-! ### Key commands -/

/-- Slice 5, which may own `quota` slots, owns 6 and 7; they hold `k`, and a descriptor under slot 6 is queued. A rule lets every initiator
read the key store, which firmware and functions may only write by default. -/
def keyState (k : KeySlot) (quota : Nat) : State :=
  let slice : SliceRec :=
    { st := .running, fn := 0x800, localNo := 0, pasid := 0, sqRings := 0, cqRings := 0, keySlots := quota, endpoints := 0, regions := 0,
      queues := 0, fltEntries := 0, bufferKib := 0, bw := 0, windows := [], store := [], storePending := [], seq := none, badWord := false }
  let own := { k with slice := some 5 }
  { (hallState.holdsDescs [hallDesc 2 .queued]).setSlice 5 slice with
    cph.keys := [(6, own), (7, own)]
    slc.rules := [(34 * 32 + 3, actAllow true false false 0x000 0xFFF)] }

/-- A key command's attributes and data stand in the registers, and it is entry 0 of CONTROL rings: 7 of PF0 of link 0 and 8 of slice 5. -/
def State.givesKeyCommand (s : State) (op : Nat) (a : KeyArgs) : State :=
  let words := (List.range 5).map fun i => sliceBytes a.data (8 * i) 8
  let e := zeroBytes 8 ++ leBytes 1 0x20 ++ leBytes 1 op ++ leBytes 2 a.slot ++ leBytes 2 a.kek ++ zeroBytes 2 ++ leBytes 8 a.attr.toNat
    ++ words.flatMap List.reverse
  let r := { controlRing with fetched := [(0, e)] }
  let t := ((s.setRing 0 7 r).setRing 0 8 { r with slice := some 5 }).setReg .CPH_KEY_ATTR a.attr
  words.zipIdx.foldl (fun (v : State) x => v.setReg .CPH_KEY_DATA (BitVec.ofNat 64 (beNat x.1)) x.2) t

/-- An origin's key command is taken with these inputs, need not wait for a descriptor, and is allowed. -/
def State.takesKeyCommand (s : State) (o : Origin) (op : Nat) (a : KeyArgs) : Bool :=
  let t := s.keyTake o op a.slot a.kek
  t.2 == some a && !t.1.slotWaits a.slot && (t.1.keyAllowed o op a).2

/-- A command on a slot, with attributes of an AES-256 key for slice 5 of limit `limit`, and the bytes 0 to 39 as its data. -/
def keyArgs (slot kek limit : Nat) : KeyArgs :=
  ⟨slot, kek, BitVec.ofNat 64 (2 ^ 63 + 2 ^ 58 + 5 * 2 ^ 44 + limit), (List.range 40).map (BitVec.ofNat 8)⟩

/-- Slot 8 may become the third of slice 5 if its quota is three, not if it is two. -/
theorem keyState_load : ∀ o ∈ moduleOrigins, ∀ quota ∈ [2, 3],
    let a := keyArgs 8 0 1
    let s := (keyState hallKey quota).givesKeyCommand 1 a
    let c := (s.keyTake o 1 8 0).1.keyAllowed o 1 a
    s.getF CPH_KEY_CMD.kek_slot = 0 ∧ s.takesKeyCommand o 1 a = true ∧ a.attr.bits 40 0 ≠ 0 ∧
      c.1.keyOverQuota 8 a.attr = (quota == 2) := by decide +kernel

/-- Slot 7 may take a wrapped key, the slice's own ring asking too, where slot 6 has 24 blocks left and not 23. Which key the data holds is
left out: the kernel is slow at the inverse of AES. -/
theorem keyState_unwrap : ∀ o ∈ .ring 8 0 false :: moduleOrigins, ∀ used ∈ [0, 1],
    let a := keyArgs 7 6 1
    let s := (keyState { hallKey with counter := used } 2).givesKeyCommand 2 a
    let c := (s.keyTake o 2 7 6).1.keyAllowed o 2 a
    let w := c.1.keySlot 6
    let d := c.1.keyAccess .read (c.1.originInit o) 6
    s.takesKeyCommand o 2 a = true ∧ a.attr.bits 40 0 ≠ 0 ∧ c.1.keyOverQuota 7 a.attr = false ∧ w.valid = true ∧ w.unwrap = true ∧
      d.2 = true ∧ ((d.1.flushSlot 7).reserveKey 6 (if a.attr.bits 63 63 == 1 then 24 else 12)).2 = (used == 0) := by decide +kernel

/-- Slot 6 may be erased, the slice's own ring asking too, though a descriptor under it is queued: the array runs. -/
theorem keyState_erase : ∀ o ∈ .ring 8 0 false :: moduleOrigins,
    let a := keyArgs 6 0 0
    let s := (keyState hallKey 2).givesKeyCommand 3 a
    s.getF CPH_KEY_CMD.kek_slot = 0 ∧ s.takesKeyCommand o 3 a = true ∧ s.cph.descs.any (fun p => p.2.slot == some 6) = true := by
  decide +kernel

/-- Slot 6 may take a limit that leaves one block and one that leaves none. -/
theorem keyState_attr : ∀ o ∈ moduleOrigins, ∀ limit ∈ [2, 1],
    let a := keyArgs 6 0 limit
    let s := (keyState { hallKey with counter := 1 } 2).givesKeyCommand 4 a
    let c := (s.keyTake o 4 6 0).1.keyAllowed o 4 a
    let k := (c.1.keySlot 6).withAttr a.attr
    s.getF CPH_KEY_CMD.kek_slot = 0 ∧ s.takesKeyCommand o 4 a = true ∧ a.attr.bits 40 0 ≠ 0 ∧
      c.1.keyOverQuota 6 a.attr = false ∧ decide (k.limit ≤ k.counter) = (limit == 1) := by decide +kernel

/-- Firmware and PF0 of link 0 may query slot 6. -/
theorem keyState_query : ∀ init ∈ [0, 0x800],
    let a := keyArgs 6 0 0
    let s := (keyState hallKey 2).givesKeyCommand 5 a
    s.getF CPH_KEY_CMD.kek_slot = 0 ∧ s.takesKeyCommand (.reg init) 5 a = true := by decide +kernel

/-- Firmware and PF0 of link 0 read CPH_RNG, whether the system DRBG runs or has stopped. -/
theorem failedEntropyState_rngRead : ∀ init ∈ [0, 0x800], ∀ stopped ∈ [false, true],
    let a := (failedEntropyState (if stopped then [26] else [])).blockAccess 15 .read init 0x60
    a.2 = true ∧ a.1.cph.stopped.contains 26 = stopped := by decide +kernel

end Sys2Proof.Machine
end

section
/-! SUPPORT. What link resets, function resets, link errors, interrupts, configuration writes and link power answer on the path that
nothing stops (R288–R291, R297, R299–R305, R307–R309). -/

namespace Sys2Proof.Machine

/-! ### Link and function resets -/

/-- PERST# takes down the link that it belongs to, HOST_PERST_N both (R289). -/
theorem execPerstAssert_eq (links : Fin 3) (s : State) : execPerstAssert links s
    = .next (if links.val = 2 then (s.enterLinkReset 0).enterLinkReset 1 else s.enterLinkReset links.val) := by
  have hboth : links = 2 ↔ links.val = 2 := Fin.ext_iff
  unfold execPerstAssert
  simp only [hboth]
  rw [apply_ite Host.Outcome.next]

/-- The first endpoint of a link to train takes the bifurcation that HIF_LINK_CFG gives, its identity and functions (R287, R288, R291,
R304). -/
theorem execLinkTrained_first (e : Fin 4) (speed : Fin 7) (width : Fin 17) (flit drs : Bool) (s a b c d f : State) (l cap sp w : Nat)
    (halves : Bool) (hmay : s.mayTrain e.val = true) (hdown : s.flag HIF_LINK_STATUS.dl_up e.val = false) (hspeed : speed.val ≠ 0)
    (hwidth : width.val ≠ 0) (hl : l = e.val / 2)
    (hfirst : (linkEndpoints l).any (fun x => s.flag HIF_LINK_STATUS.dl_up x) = false)
    (hhalves : halves = s.flag HIF_LINK_CFG.bifurcate l) (hhalf : e.val % 2 = 1 → halves = true)
    (hcap : cap = s.getF HIF_LINK_CFG.max_speed l) (hsp : sp = min speed.val (if cap = 0 ∨ cap = 7 then 6 else cap))
    (hw : w = min width.val (if halves then 8 else 16))
    (ha : a = (s.setEp (2 * l) { s.ep (2 * l) with present := true }).setEp (2 * l + 1) { s.ep (2 * l + 1) with present := halves })
    (hb : b = a.takeIdentity e.val)
    (hc : c = b.setEp e.val { b.ep e.val with trainedWidth := w, drs := drs, idleSince := b.now, l0pEnd := b.now })
    (hd : d = (((c.setF HIF_LINK_STATUS.dl_up 1 e.val).setF HIF_LINK_STATUS.speed sp e.val).setF HIF_LINK_STATUS.width w
      e.val).setF HIF_LINK_STATUS.flit (b2n (flit || sp == 6)) e.val)
    (hf : f = ((d.setF HIF_LINK_STATUS.pm 0 e.val).setF HIF_LINK_STATUS.h_reset 0 e.val).setF HIF_LINK_STATUS.retry
      (b2n (!s.booted && !(s.modes.hostPush || s.mode == mDarkroom))) e.val) :
    execLinkTrained e speed width flit drs s = .next ((f.finishAbsorbed (f.epFns e.val)).assignCtrls l) := by
  have hexists : (e.val % 2 == 1 && !halves) = false := by
    cases halves
    · simpa using hhalf
    · exact Bool.and_false _
  unfold execLinkTrained
  simp only [← hl, hfirst, ← hhalves, hmay, hdown, hexists, beq_false_of_ne hspeed, beq_false_of_ne hwidth, ← hcap, ← hsp, ← hw, ← ha,
    ← hb, ← hc, ← hd, ← hf, Bool.not_true, Bool.or_self, Bool.false_eq_true, if_false]

/-- The functions that an FLR resets beside its own: the VFs of a PF (R302). -/
def State.flrVfs (s : State) (fn : Nat) : List Nat := if fnIsVf fn then [] else s.vfsOf fn

/-- An FLR on an endpoint in service resets the function and its VFs, which go, and is counted (R302, R303; at one instant by log 57, the
model's choice). -/
theorem execFlr_inService (fn : Nat) (s : State) (x : FnSt) (hfn : s.fn? fn = some x)
    (hreset : s.flag HIF_LINK_STATUS.h_reset (s.fnEndpoint fn) = false)
    (hretry : s.flag HIF_LINK_STATUS.retry (s.fnEndpoint fn) = false) :
    execFlr fn s = .next (((((s.touchFn fn).fnReset .f (fn :: s.flrVfs fn)).finishAbsorbed (fn :: s.flrVfs fn)).dropFns
      (s.flrVfs fn)).bump HIF_CNT.count (fnLink fn) 10) := by
  unfold execFlr
  simp only [hfn, hreset, hretry, Bool.or_self, Bool.false_eq_true, if_false]
  rfl

/-! ### Errors -/

/-- A request whose translation disagrees is held for good, counted, and reported by pin and by the endpoint (R301). -/
theorem execTranslationMismatch_holds (fn : Nat) (s a : State) (x : FnSt) (e : Nat) (hfn : s.fn? fn = some x) (he : e = s.fnEndpoint fn)
    (ha : a = s.setEp e { s.ep e with heldRequests := (s.ep e).heldRequests + 1 }) :
    execTranslationMismatch fn s
      = .next (((a.bump HIF_CNT.count (fnLink fn) 14).raise (5 + fnLink fn) (faultM 0x0020)).aerEndpoint e aerInternal true []) := by
  unfold execTranslationMismatch
  simp only [hfn, ← he, ← ha]

/-- On a link that is up, a bad TLP is a correctable error of the endpoint, a malformed one an uncorrectable one, and a poisoned TLP or
one with a bad ECRC an error of the function it names (R299; the bits of AER by log 44, the model's choice). -/
theorem execReceivedTlpError_up (e : Fin 4) (fn : Nat) (hdr : List Nat) (s : State) (hup : s.flag HIF_LINK_STATUS.dl_up e.val = true) :
    execReceivedTlpError e .badTlp fn hdr s = .next ((s.aerEndpoint e.val 6 false []).bump HIF_CNT.count (e.val / 2) 8) ∧
    execReceivedTlpError e .malformedTlp fn hdr s = .next (s.aerEndpoint e.val 18 true hdr) ∧
    execReceivedTlpError e .poisoned fn hdr s
      = .next ((s.aerUncorrectable fn aerPoisoned false hdr).bump HIF_CNT.count (e.val / 2) 6) ∧
    execReceivedTlpError e .ecrc fn hdr s
      = .next ((s.aerUncorrectable fn aerEcrc false hdr).bump HIF_CNT.count (e.val / 2) 7) := by
  have hpass : ¬ (!s.flag HIF_LINK_STATUS.dl_up e.val) = true := by simp only [hup, Bool.not_true, Bool.false_eq_true, not_false_eq_true]
  unfold execReceivedTlpError
  exact ⟨if_neg hpass, if_neg hpass, if_neg hpass, if_neg hpass⟩

/-! ### Interrupts and configuration -/

/-- A pending vector that can be sent again goes out (R297). -/
theorem execInterruptUnmask_sends (fn vec : Nat) (s : State) (x : FnSt) (hfn : s.fn? fn = some x)
    (hpending : x.pendingVecs.contains vec = true) (hsend : x.canSend vec = true) (hissue : s.issueHeld fn none = false) :
    execInterruptUnmask fn vec none s
      = .next (((s.setFn fn { x with pendingVecs := x.pendingVecs.filter (· != vec) }).touchFn fn).emit
          (.interrupt fn (if x.msixEnable then vec else vec % x.msiCount) x.msixEnable)) := by
  unfold execInterruptUnmask
  simp only [hfn, hpending, hsend, hissue, Bool.not_false, Bool.and_self, if_true]

/-- While its endpoint answers retry status, every configuration request is answered with it (R305; that it is
answered while retry stands is log 159, the model's choice). -/
theorem execConfigurationRequest_retry (fn : Nat) (c : CfgChange) (s a : State) (x : FnSt) (hfn : s.fn? fn = some x)
    (ha : a = s.touchFn fn) (hreset : a.flag HIF_LINK_STATUS.h_reset (s.fnEndpoint fn) = false)
    (hretry : a.flag HIF_LINK_STATUS.retry (s.fnEndpoint fn) = true) :
    execConfigurationRequest fn c s = .next (a.emit (.cfgReply fn true 0)) := by
  unfold execConfigurationRequest
  simp only [hfn, ← ha, hreset, hretry, Bool.false_eq_true, if_false, if_true]

/-- What a configuration write of the memory space, bus mastering or MSI-X makes of a function, PF or VF alike (R297, R307). -/
def FnSt.configured (x : FnSt) : CfgChange → Option FnSt
  | .memorySpace on => some { x with memorySpace := on }
  | .busMaster on => some { x with busMaster := on }
  | .msixControl en mask => some { x with msixEnable := en, msixMask := mask }
  | _ => none

/-- On an endpoint in service such a write changes the function, and answers nothing (R297, R307; the silence by log 159, the model's
choice). -/
theorem execConfigurationRequest_configured (fn : Nat) (c : CfgChange) (s a : State) (x y : FnSt) (hfn : s.fn? fn = some x)
    (ha : a = s.touchFn fn) (hreset : a.flag HIF_LINK_STATUS.h_reset (s.fnEndpoint fn) = false)
    (hretry : a.flag HIF_LINK_STATUS.retry (s.fnEndpoint fn) = false) (hc : x.configured c = some y) :
    execConfigurationRequest fn c s = .next (a.setFn fn y) := by
  unfold execConfigurationRequest
  simp only [hfn, ← ha, hreset, hretry, Bool.false_eq_true, if_false]
  unfold FnSt.configured at hc
  split at hc
  case h_4 => cases hc
  all_goals
    cases hc
    rfl

/-! ### Link power -/

/-- An endpoint that may use L1, without a time page or unserved work, enters it when its idle time is over (R308; the depth is an operand
by log 59, the model's choice). -/
theorem execL1Entry_idle (e : Fin 4) (deep : Bool) (s a : State) (hallowed : (s.ep e.val).l1Enable = true)
    (hup : s.flag HIF_LINK_STATUS.dl_up e.val = true) (hawake : s.getF HIF_LINK_STATUS.pm e.val < 2)
    (hpages : (s.pages.any fun p => s.fnEndpoint p.1 == e.val) = false) (hserved : s.unserved e.val = false)
    (ha : a = s.after ((s.ep e.val).idleSince + s.getF HIF_PM_CFG.l1_idle (e.val / 2) * usT)) :
    execL1Entry e deep s
      = .next ((a.setF HIF_LINK_STATUS.pm (if deep && (s.ep e.val).l12 then 3 else 2) e.val).bump HIF_CNT.count (e.val / 2) 12) := by
  unfold execL1Entry
  simp only [hallowed, hup, Nat.not_le.2 hawake, hpages, hserved, ← ha, Bool.not_true, decide_false, Bool.or_self, Bool.false_eq_true,
    if_false]

/-- A window in which a link of four lanes or more is used below l0p_down ends with half its width (R309). -/
theorem execL0pWindow_narrows (e : Fin 4) (util : Fin 101) (s a b : State) (x : EpSt) (w : Nat) (hx : x = s.ep e.val)
    (hallowed : x.l0pEnable = true) (hflit : s.flag HIF_LINK_STATUS.flit e.val = true) (hwide : 8 ≤ x.trainedWidth)
    (hup : s.flag HIF_LINK_STATUS.dl_up e.val = true) (hawake : s.getF HIF_LINK_STATUS.pm e.val < 2) (ha : a = s.after x.l0pEnd)
    (hb : b = a.setEp e.val { x with l0pEnd := a.now + s.getF HIF_PM_CFG.l0p_window (e.val / 2) * usT })
    (hw : w = s.getF HIF_LINK_STATUS.width e.val) (hlow : util.val < s.getF HIF_PM_CFG.l0p_down (e.val / 2)) (hlanes : 4 ≤ w) :
    execL0pWindow e util s
      = .next (((b.setF HIF_LINK_STATUS.width (w / 2) e.val).setF HIF_LINK_STATUS.pm (if w / 2 < x.trainedWidth then 1 else 0)
          e.val).bump HIF_CNT.count (e.val / 2) 13) := by
  have hnarrower : w / 2 ≠ w := by omega
  have hpass : (!x.l0pEnable || !s.flag HIF_LINK_STATUS.flit e.val || decide (x.trainedWidth < 8) || !s.flag HIF_LINK_STATUS.dl_up e.val
      || decide (2 ≤ s.getF HIF_LINK_STATUS.pm e.val)) = false := by
    simp only [hallowed, hflit, Nat.not_lt.2 hwide, hup, Nat.not_le.2 hawake, Bool.not_true, decide_false, Bool.or_self]
  unfold execL0pWindow
  simp only [← hx, hpass, ← ha, ← hb, ← hw, hlow, hlanes, hnarrower, Bool.false_eq_true, and_self, if_false, if_true]

/-- Settles O26: each command's clause is its lemma above. An FLR at one instant rests on log 57, the depth of L1 as an operand on log 59,
configuration writes without an answer on log 159 and the bits of AER on log 44: choices of the model beside R302, R308, R305 and R299. -/
theorem completeHost : Obligations.CompleteHost := by
  unfold Obligations.CompleteHost
  refine ⟨?perst, ?hotReset, ?trained, ?flr, ?mismatch, ?tlpError, ?unmask, ?configuration, ?l1, ?l0p⟩
  case perst =>
    intro links s
    have hassert : exec (.perstAssert links) s = .next _ := execPerstAssert_eq links s
    exact ⟨fun hboth => hassert.trans (congrArg _ (if_pos hboth)), fun hone => hassert.trans (congrArg _ (if_neg hone))⟩
  case hotReset =>
    intro e s hup
    exact if_pos hup
  case trained =>
    intro e speed width flit drs s hmay hdown hspeed hwidth l hfirst halves hhalf cap sp w a b c d f
    exact execLinkTrained_first e speed width flit drs s a b c d f l cap sp w halves hmay hdown hspeed hwidth rfl hfirst rfl hhalf rfl rfl
      rfl rfl rfl rfl rfl rfl
  case flr =>
    exact execFlr_inService
  case mismatch =>
    intro fn s x hfn e a
    exact execTranslationMismatch_holds fn s a x e hfn rfl rfl
  case tlpError =>
    exact execReceivedTlpError_up
  case unmask =>
    exact execInterruptUnmask_sends
  case configuration =>
    intro fn s x hfn a hreset
    have hchange (c : CfgChange) (y : FnSt) (hretry : a.flag HIF_LINK_STATUS.retry (s.fnEndpoint fn) = false)
        (hc : x.configured c = some y) : exec (.configurationRequest fn c) s = .next (a.setFn fn y) :=
      execConfigurationRequest_configured fn c s a x y hfn rfl hreset hretry hc
    exact ⟨fun hretry c => execConfigurationRequest_retry fn c s a x hfn rfl hreset hretry,
      fun hretry => ⟨fun _ => hchange _ _ hretry rfl, fun _ => hchange _ _ hretry rfl, fun _ _ => hchange _ _ hretry rfl⟩⟩
  case l1 =>
    intro e deep s hallowed hup hawake hpages hserved a
    exact execL1Entry_idle e deep s a hallowed hup hawake hpages hserved rfl
  case l0p =>
    intro e util s hallowed hflit hwide hup hawake a b w hlow hlanes
    exact execL0pWindow_narrows e util s a b _ w rfl hallowed hflit hwide hup hawake rfl rfl rfl hlow hlanes

end Sys2Proof.Machine
end

section
/-! SUPPORT. Concrete states that meet the conditions of the statements on links, functions and their errors, at the bounds where clauses
meet. -/

namespace Sys2Proof.Machine

/-- Endpoint `e` is up in L0p on four of its eight lanes, with L1 and L0p enabled; link 1 is set to two halves. A function of half 0 of
link 1 has a registered page and a ring with unserved work. -/
def linkState (e : Nat) : State :=
  let s := ((((servingState.setF HIF_LINK_CFG.bifurcate 1 1).setF HIF_LINK_STATUS.dl_up 1 e).setF HIF_LINK_STATUS.flit 1 e).setF
    HIF_LINK_STATUS.width 4 e).setF HIF_LINK_STATUS.pm 1 e
  let t := s.setEp e { EpSt.reset with present := true, l1Enable := true, l12 := true, l0pEnable := true, trainedWidth := 8 }
  { t.setRing 0 7 { controlRing with fn := 0xC00, rung := true } with pages := [(0xC00, ⟨0, zeroBytes 64, usT⟩)] }

/-! ### Links -/

/-- The first endpoint and the last are up, for a hot reset and for an error of the link. -/
theorem linkState_up : ∀ e ∈ [0, 3], (linkState e).flag HIF_LINK_STATUS.dl_up e = true := by decide +kernel

/-- After that reset each may train again: no endpoint of its link is up, and link 1 is set to have half 1. -/
theorem linkState_hotReset_mayTrain : ∀ e ∈ [0, 3], let s := (linkState e).enterHReset e
    s.mayTrain e = true ∧ s.flag HIF_LINK_STATUS.dl_up e = false ∧
      (linkEndpoints (e / 2)).any (fun x => s.flag HIF_LINK_STATUS.dl_up x) = false ∧
      (e % 2 = 1 → s.flag HIF_LINK_CFG.bifurcate (e / 2) = true) := by decide +kernel

/-- In a recovery window endpoint 0 still may, and no other. -/
theorem servingState_hostPush_mayTrain :
    let s := { servingState with modes := { servingState.modes with hostPush := true } }
    s.mayTrain 0 = true ∧ ∀ e ∈ [1, 2, 3], s.mayTrain e = false := by decide +kernel

/-- Neither the page nor the unserved work of link 1's half 0 keeps the first endpoint or the last out of L1; it keeps endpoint 2 out. -/
theorem linkState_l1Entry : (∀ e ∈ [0, 3], let s := linkState e
    (s.ep e).l1Enable = true ∧ s.getF HIF_LINK_STATUS.pm e < 2 ∧ (s.pages.any fun p => s.fnEndpoint p.1 == e) = false ∧
      s.unserved e = false) ∧
    ((linkState 2).pages.any fun p => (linkState 2).fnEndpoint p.1 == 2) = true ∧ (linkState 2).unserved 2 = true := by decide +kernel

/-- The least trained width and the least current one that L0p halves, at the last utilisation below l0p_down. -/
theorem linkState_l0pWindow : ∀ e ∈ [0, 3], let s := linkState e
    (s.ep e).l0pEnable = true ∧ s.flag HIF_LINK_STATUS.flit e = true ∧ (s.ep e).trainedWidth = 8 ∧
      s.getF HIF_LINK_STATUS.pm e < 2 ∧ s.getF HIF_LINK_STATUS.width e = 4 ∧ s.getF HIF_PM_CFG.l0p_down (e / 2) = 24 + 1 := by
  decide +kernel

/-! ### Functions -/

/-- A function with vectors 5 and 2047 pending, which MSI-X or MSI, as `msix` says, lets it send. -/
def pendingFn (msix : Bool) : FnSt :=
  { windowFn with
    totalVfs := 1, pendingVecs := [5, 2047], msixEnable := msix, msix := [(5, ⟨0, 0, false, false⟩), (2047, ⟨0, 0, false, false⟩)]
    msiEnable := true, msiCount := 32, msiMask := 2 ^ 32 - 1 - 2 ^ 5 - 2 ^ 31 }

/-- The link of endpoint `e`, which is up, has PFs 0 and 2 and a VF of PF 0; PF 2 is on half 1 where that is present. -/
def fnState (e : Nat) (msix : Bool) : State :=
  let base := 0x800 + e / 2 * 0x400
  (((linkState e).setFn base (pendingFn msix)).setFn (base + 2) { pendingFn msix with totalVfs := 0 }).setFn (base + 0x10)
    (pendingFn msix)

/-- A PF that has a VF, that VF, and function number 0 of the last endpoint. -/
def fnCases : List (Nat × Nat) := [(0, 0x800), (0, 0x810), (3, 0xC02)]

/-- Each exists on its endpoint, which is in service; an FLR of the PF takes its VF along. -/
theorem fnState_flr : (∀ p ∈ fnCases, let s := fnState p.1 true
    (s.fn? p.2).isSome = true ∧ s.fnEndpoint p.2 = p.1 ∧ s.flag HIF_LINK_STATUS.h_reset p.1 = false ∧
      s.flag HIF_LINK_STATUS.retry p.1 = false) ∧
    (fnState 0 true).flrVfs 0x800 = [0x810] ∧ (fnState 0 true).flrVfs 0x810 = [] := by decide +kernel

/-- Each vector can be sent, by MSI-X and by MSI. -/
theorem fnState_interruptUnmask : ∀ p ∈ fnCases, ∀ msix ∈ [false, true], ∀ vec ∈ [5, 2047], let s := fnState p.1 msix
    ((s.fn? p.2).any fun x => x.pendingVecs.contains vec && x.canSend vec) = true ∧ s.issueHeld p.2 none = false := by decide +kernel

/-- A configuration request finds the endpoint in service or, before the module is, in retry status. -/
theorem fnState_configurationRequest : ∀ p ∈ fnCases, ∀ retry ∈ [0, 1],
    let s := (fnState p.1 true).setF HIF_LINK_STATUS.retry retry p.1
    let a := s.touchFn p.2
    (s.fn? p.2).isSome = true ∧ a.flag HIF_LINK_STATUS.h_reset (s.fnEndpoint p.2) = false ∧
      a.flag HIF_LINK_STATUS.retry (s.fnEndpoint p.2) = (retry == 1) := by decide +kernel

end Sys2Proof.Machine
end

section
/-! SUPPORT. What doorbells, index lines, fetches, moderation and the packets of rings answer on the path that nothing stops (R318–R321,
R325–R327, R330, R335). -/

namespace Sys2Proof.Machine

/-! ### Doorbells -/

/-- A function that has memory space, is not in D3hot and whose endpoint is not in H reset takes a doorbell: it is counted, and looked up
in the state that this leaves (R318). -/
theorem execDoorbell_reached (fn : Nat) (page : Option Nat) (d : Nat) (s a : State) (x : FnSt) (hfn : s.fn? fn = some x)
    (hmem : x.memorySpace = true) (hd3 : x.d3 = false) (hreset : s.flag HIF_LINK_STATUS.h_reset (s.fnEndpoint fn) = false)
    (hhost : 0x800 ≤ fn) (ha : a = (s.touchFn fn).bump HIF_CNT.count (fnLink fn) 0) :
    (a.doorbellRing fn page d = none → execDoorbell fn page d false s = .next (a.bump DQM_CNT.count fn 5)) ∧
    ∀ (cls num : Nat) (r : Ring), a.doorbellRing fn page d = some (cls, num) → a.ring? cls num = some r → r.st = .running →
      let b := a.setRing cls num { r with rung := true, armed := if cls = 0 then r.armed else true }
      execDoorbell fn page d false s = .next ((if cls = 0 then b else b.maybeSignal cls num false).showLtr (a.fnEndpoint fn)) := by
  have hreaches : (x.memorySpace && !x.d3 && !s.flag HIF_LINK_STATUS.h_reset (s.fnEndpoint fn)) = true := by
    simp only [hmem, hd3, hreset, Bool.not_false, Bool.and_self]
  unfold execDoorbell
  simp only [hfn, hreaches, hhost, ← ha, Bool.not_true, Bool.false_eq_true, if_false, if_true]
  refine ⟨fun hnone => ?_, fun cls num r hsome hring hrun => ?_⟩
  · simp only [hnone]
  · simp only [hsome, hring, hrun, if_true]

/-! ### Index lines and fetching -/

/-- The read of a running submission ring's index line is checked against its windows, then returns the host's index: the ring stops on
an overrun and fetches otherwise (R317, R320, R322). -/
theorem execIndexLineRead_submission (num idx : Nat) (s : State) (r : Ring) (c : State × Bool) (hring : s.ring? 0 num = some r)
    (hrun : r.st = .running) (hfetch : s.fetchHeld r = false) (hissue : s.issueHeld r.fn r.slice = false) (hline : r.lineRead = false)
    (hc : c = s.dmaCheck r.fn r.slice false r.line 64) :
    execIndexLineRead 0 num idx s =
      let i := s.lineIndex r 0 idx
      let a := c.1.issueRead r.fn r.slice r.line 64
      if c.2 = false then .next (c.1.stopRing 0 num stAccessViolation)
      else if r.size < idxDiff i r.modIdx then .next ((a.bump DQM_CNT.count r.fn 4).stopRing 0 num stRingOverrun)
      else .next (((a.setRing 0 num { r with hostIdx := i, rung := false, lineRead := false }).issueFetch num).showLtr
        (s.fnEndpoint r.fn)) := by
  unfold execIndexLineRead
  simp only [hring, hrun, hfetch, hissue, hline, ← hc, Bool.and_false, Bool.not_eq_true', Bool.false_eq_true, ne_eq, not_true_eq_false,
    and_false, if_false, if_true]

/-- A running completion ring with a stash rereads its index line and takes the index that it returns (R330). -/
theorem execStashRetry_passes (num idx : Nat) (s : State) (r : Ring) (c : State × Bool) (hring : s.ring? 1 num = some r)
    (hrun : r.st = .running) (hstash : r.stash ≠ []) (hissue : s.issueHeld r.fn r.slice = false)
    (hc : c = s.dmaCheck r.fn r.slice false r.line 64) (hpass : c.2 = true) :
    execStashRetry num idx s
      = .next ((c.1.issueRead r.fn r.slice r.line 64).takeConsumerIndex 1 num (s.lineIndex r 1 idx)) := by
  have hwaits : ¬ (r.st ≠ .running ∨ r.stash.isEmpty = true ∨ s.issueHeld r.fn r.slice = true) := by simp [hrun, hstash, hissue]
  unfold execStashRetry
  simp only [hring, if_neg hwaits, ← hc, hpass, Bool.not_true, Bool.false_eq_true, if_false]

/-- A fetch read returns: the ring's index advances over the entries, which are acted on in order, and the next read goes out (R320; that
no other read is outstanding is log 102, a choice of the model). -/
theorem execEntryFetch_returns (num : Nat) (entries : List (List Byte)) (s : State) (r y : Ring) (n : Nat) (es : List (List Byte))
    (hring : s.ring? 0 num = some r) (hrun : r.st = .running) (hreads : r.reads ≠ 0) (hfetch : s.fetchHeld r = false)
    (hn : n = if r.fn < 0x800 then r.fetchCount else entries.length) (hsome : n ≠ 0) (hmost : n ≤ r.fetchCount)
    (hes : es = (List.range n).map fun k =>
      fitBytes 64 (s.dmaData r.fn (r.base + ((r.modIdx + k) % r.size) * 64) 64 (entries.getD k [])))
    (hy : y = { r with
      reads := 0
      modIdx := idxAdd r.modIdx n
      fetched := r.fetched ++ (List.range n).map fun k => (idxAdd r.modIdx k, es.getD k []) }) :
    execEntryFetch num entries s
      = .next ((((s.setRing 0 num y).bump DQM_CNT.count r.fn 0 n).takeEntries num r.modIdx es).issueFetch num) := by
  have hproceeds : ¬ (r.st ≠ .running ∨ r.reads = 0 ∨ n = 0 ∨ r.fetchCount < n ∨ s.fetchHeld r = true) := by
    simp [hrun, hreads, hsome, hmost, hfetch]
  unfold execEntryFetch
  simp only [hring, ← hn, if_neg hproceeds, ← hes, ← hy]

/-- An advanced index is written into the line 0.5 µs after the last one, or stops the ring where the line may not be written (R321,
R322). -/
theorem execConsumerIndexWrite_advanced (num : Nat) (s a : State) (r : Ring) (c : State × Bool) (hring : s.ring? 0 num = some r)
    (hnew : r.cWritten ≠ r.modIdx) (hst : r.st ≠ .disabled) (hissue : s.issueHeld r.fn r.slice = false)
    (ha : a = s.after (r.cWriteAt + usT / 2)) (hc : c = a.dmaCheck r.fn r.slice true (r.line + 4) 4) :
    execConsumerIndexWrite num s =
      if c.2 = true then .next ((c.1.issueWrite r.fn r.slice (r.line + 4) (leBytes 4 r.modIdx)).setRing 0 num
        { r with cWritten := r.modIdx, cWriteAt := a.now })
      else .next (c.1.stopRing 0 num stAccessViolation) := by
  unfold execConsumerIndexWrite
  simp only [hring, hnew, hst, hissue, ← ha, ← hc, Bool.false_eq_true, or_self, if_false]

/-- An armed ring signals when its oldest unsignalled entry has waited for mod_time (R335). -/
theorem execModerationTimer_armed (cls num : Nat) (s : State) (r : Ring) (hring : s.ring? cls num = some r) (harmed : r.armed = true)
    (hirq : r.irqEn = true) (hunsig : 0 < r.unsig) :
    execModerationTimer cls num s = .next ((s.after (r.oldest + r.modTime * usT)).maybeSignal cls num true) := by
  unfold execModerationTimer
  simp only [hring, harmed, hirq, hunsig, decide_true, Bool.and_self, if_true]

/-! ### Packets -/

/-- Is an entry's packet under way, so that it completes at its launch (R325)? -/
def State.txUnderWay (s : State) (num idx : Nat) : Bool :=
  s.dp.pkts.any fun p => match p.2.tx with | some (n, i, _) => n == num && i == idx | none => false

/-- The frame of a TX entry without a timestamp or a launch time is read and injected into its link's pipeline, and the entry completes
(R325). -/
theorem execTxEntry_injects (num idx : Nat) (frame : List Byte) (s a : State) (r : Ring) (e body : List Byte) (n addr : Nat)
    (c : State × Bool) (k : Nat × State) (hring : s.ring? 0 num = some r) (hentry : s.fetchedEntry num idx = some e) (hkind : r.kind = 2)
    (hreset : s.modes.dReset = none) (hheld : s.txHeld r = false) (hfresh : s.txUnderWay num idx = false)
    (hn : n = leNat (sliceBytes e 16 2)) (haddr : addr = leNat (sliceBytes e 8 8)) (hstamp : natBit (e.getD 18 0).toNat 0 = false)
    (hlaunch : natBit (e.getD 18 0).toNat 1 = false) (hc : c = s.dmaCheck r.fn r.slice false addr n) (hpass : c.2 = true)
    (ha : a = c.1.issueRead r.fn r.slice addr n) (hbody : body = fitBytes n (if r.fn < 0x800 then a.bytes addr n else frame))
    (hk : k = a.newPkt
      { Pkt.ofFrame (8 + fnLink r.fn) (2 + fnLink r.fn) (body ++ zeroBytes (60 - n)) with launch := none, tx := none }) :
    execTxEntry num idx frame s
      = .next ((k.2.pushLst .inject (2 + fnLink r.fn) k.1).completeEntry num idx (natBit (e.getD 1 0).toNat 0) stOk []) := by
  have hproceeds : ¬ (r.kind ≠ 2 ∨ s.txUnderWay num idx = true ∨ s.modes.dReset.isSome = true ∨ s.txHeld r = true) := by
    simp [hkind, hfresh, hreset, hheld]
  unfold execTxEntry
  simp only [hring, hentry]
  refine (if_neg hproceeds).trans ?_
  simp only [← hn, ← haddr, hstamp, hlaunch, ← hc, hpass, ← ha, ← hbody, ← hk, Bool.not_true, Bool.false_eq_true, if_false]

/-- Outside STANDALONE, with its endpoint out of H reset, the first packet at the hand-off is delivered to its receive queue, or dropped
and counted for the reason that R327 gives (R326). -/
theorem execHostRxDelivery_reached (link : Fin 2) (s a : State) (id q : Nat) (p : Pkt) (r : Ring)
    (hhead : (s.pktsIn .toHost link.val).head? = some (id, p)) (hq : q = p.act.dest % 2 ^ 16) (ha : a = s.popLst .toHost link.val id)
    (hring : a.ring? 0 q = some r) (hmode : a.mode ≠ mStandalone)
    (hreset : a.flag HIF_LINK_STATUS.h_reset (a.fnEndpoint r.fn) = false) :
    (∀ k, a.rxRefused q = some k → execHostRxDelivery link s = .next ((a.bump DQM_CNT.count r.fn k).freePkt id)) ∧
    (a.rxRefused q = none → a.issueHeld r.fn r.slice = false → execHostRxDelivery link s = .next (a.deliverRx q id p)) := by
  unfold execHostRxDelivery
  simp only [hhead, ← ha, ← hq, hring, hmode, hreset, Option.map_some, Option.getD_some, Option.bind_some, false_and, and_false,
    Bool.false_eq_true, if_false]
  refine ⟨fun k hrefused => ?_, fun htakes hissue => ?_⟩
  · simp only [hrefused]
  · simp only [htakes, hissue, Bool.false_eq_true, if_false]

/-- Settles O24: each command's clause is its lemma above. That ENTRY_FETCH finds one fetch read outstanding and leaves none until the
next goes out is log 102, a choice of the model where R320 allows four. -/
theorem completeRingWork : Obligations.CompleteRingWork := by
  unfold Obligations.CompleteRingWork
  refine ⟨?doorbell, ?indexLine, ?stash, ?fetch, ?consumerIndex, ?moderation, ?tx, ?rx⟩
  case doorbell =>
    intro fn d page s x hfn hmem hd3 hreset hhost a
    exact execDoorbell_reached fn page d s a x hfn hmem hd3 hreset hhost rfl
  case indexLine =>
    intro num idx s r hring hrun hfetch hissue hline c
    have hread : exec (.indexLineRead 0 num idx) s = _ := execIndexLineRead_submission num idx s r c hring hrun hfetch hissue hline rfl
    refine ⟨fun hdenied => hread.trans (if_pos hdenied), fun hpass => ?_⟩
    have hreturns := hread.trans (if_neg (ne_false_of_eq_true hpass))
    intro i a
    exact ⟨fun hover => hreturns.trans (if_pos hover), fun hfits => hreturns.trans (if_neg (Nat.not_lt.2 hfits))⟩
  case stash =>
    intro num idx s r hring hrun hstash hissue c hpass
    exact execStashRetry_passes num idx s r c hring hrun hstash hissue rfl hpass
  case fetch =>
    intro num entries s r hring hrun hreads hfetch n hsome hmost es y
    exact execEntryFetch_returns num entries s r y n es hring hrun hreads hfetch rfl hsome hmost rfl rfl
  case consumerIndex =>
    intro num s r hring hnew hst hissue a c
    have hwrite : exec (.consumerIndexWrite num) s = _ := execConsumerIndexWrite_advanced num s a r c hring hnew hst hissue rfl rfl
    exact ⟨fun hpass => hwrite.trans (if_pos hpass), fun hdenied => hwrite.trans (if_neg (ne_true_of_eq_false hdenied))⟩
  case moderation =>
    exact execModerationTimer_armed
  case tx =>
    intro num idx frame s r e hring hentry hkind hreset hheld hfresh n addr hstamp hlaunch c hpass a body k
    exact execTxEntry_injects num idx frame s a r e body n addr c k hring hentry hkind hreset hheld hfresh rfl rfl hstamp hlaunch rfl hpass
      rfl rfl rfl
  case rx =>
    intro link s id p hhead q a r hring hmode hreset
    exact execHostRxDelivery_reached link s a id q p r hhead rfl rfl hring hmode hreset

end Sys2Proof.Machine
end

section
/-! SUPPORT. Concrete states that meet the conditions of the statement on ring work, at the bounds where clauses meet. -/

namespace Sys2Proof.Machine

/-- A function with memory space and bus mastering enabled, whose window is all of its memory. -/
def ringFn : FnSt := { FnSt.reset with memorySpace := true, busMaster := true }

/-- A running submission ring of 16 entries, with its line at 0x0100000000, the last entry before the ring's end next. -/
def subRing : Ring :=
  { controlRing with
    base := 0x0100001000, line := 0x0100000000, modIdx := 2 ^ 32 - 1, hostIdx := 2 ^ 32 - 1, cWritten := 2 ^ 32 - 1 }

/-- A running completion ring at the function's last doorbell. -/
def compRing : Ring := { subRing with cls := 1, doorbell := 255 }

/-- In MANAGED, function `fn` with those DMA windows, its submission ring 7 and its completion ring 0. -/
def ringState (fn : Nat) (windows : Tab (Bool × Bool × Nat × Nat)) (sub comp : Ring) : State :=
  let s := servingState.setF MODE_STATE.mode mManaged
  let t := if fn < 0x800 then s else s.setFn fn { ringFn with windows := windows }
  (t.setRing 0 7 { sub with fn := fn }).setRing 1 0 { comp with fn := fn }

/-- Firmware, PF0 of link 0 and a VF of it. -/
def ringFns : List Nat := [0, 0x800, 0x810]

/-! ### Doorbells, index lines and fetching -/

/-- The first doorbell of a function is that of its submission ring, the last that of its completion ring, and no other is any ring's. -/
theorem ringState_doorbell : ∀ fn ∈ [0x800, 0x810], let s := ringState fn ringFn.windows subRing compRing
    let a := (s.touchFn fn).bump HIF_CNT.count (fnLink fn) 0
    s.fn? fn = some ringFn ∧ s.flag HIF_LINK_STATUS.h_reset (s.fnEndpoint fn) = false ∧
      a.doorbellRing fn none 0 = some (0, 7) ∧ a.ring? 0 7 = some { subRing with fn := fn } ∧
      a.doorbellRing fn none 255 = some (1, 0) ∧ a.ring? 1 0 = some { compRing with fn := fn } ∧
      a.doorbellRing fn none 1 = none ∧ a.doorbellRing fn (some 0) 0 = none := by decide +kernel

/-- Neither issue nor fetching is held, and the line may be read unless no window lets the function read it. -/
theorem ringState_indexLineRead : ∀ fn ∈ ringFns, ∀ windows ∈ [ringFn.windows, []],
    let r := { subRing with fn := fn }
    let s := ringState fn windows subRing compRing
    s.ring? 0 7 = some r ∧ s.fetchHeld r = false ∧ s.issueHeld fn none = false ∧
      (s.dmaCheck fn none false r.line 64).2 = (fn < 0x800 || windows != []) := by decide +kernel

/-- The host's index may be as far ahead as the ring is long, modulo 2^32. -/
theorem ringState_lineIndex : ∀ idx ∈ [15, 16], let s := ringState 0x800 ringFn.windows subRing compRing
    decide (subRing.size < idxDiff (s.lineIndex subRing 0 idx) subRing.modIdx) = (idx == 16) := by decide +kernel

/-- A stash of one entry and a full one. -/
theorem ringState_stashRetry : ∀ fn ∈ ringFns, ∀ n ∈ [1, 16],
    let r := { compRing with fn := fn, stash := List.replicate n (zeroBytes 32, false) }
    let s := ringState fn ringFn.windows subRing r
    s.ring? 1 0 = some r ∧ r.stash ≠ [] ∧ s.issueHeld fn none = false ∧ (s.dmaCheck fn none false r.line 64).2 = true := by
  decide +kernel

/-- One entry may be fetched at the ring's end, and eight from its start. -/
theorem ringState_entryFetch : ∀ fn ∈ ringFns, ∀ x ∈ [(2 ^ 32 - 1, 1), (0, 8)],
    let r := { subRing with fn := fn, modIdx := x.1, hostIdx := 15, reads := 1 }
    let s := ringState fn ringFn.windows r compRing
    s.ring? 0 7 = some r ∧ s.fetchHeld r = false ∧ r.fetchCount = x.2 := by decide +kernel

/-- The index has advanced over one entry, the ring runs or has stopped, and its line may be written unless no window lets the function
write it. -/
theorem ringState_consumerIndexWrite : ∀ fn ∈ ringFns, ∀ windows ∈ [ringFn.windows, []], ∀ st ∈ [RingState.running, .stopped],
    let r := { subRing with fn := fn, modIdx := 0, st := st }
    let s := ringState fn windows r compRing
    s.ring? 0 7 = some r ∧ r.cWritten ≠ r.modIdx ∧ s.issueHeld fn none = false ∧
      ((s.after (r.cWriteAt + usT / 2)).dmaCheck fn none true (r.line + 4) 4).2 = (fn < 0x800 || windows != []) := by decide +kernel

/-- One entry of the completion ring is unsignalled. -/
theorem ringState_moderationTimer : ∀ fn ∈ ringFns,
    let r := { compRing with fn := fn, armed := true, irqEn := true, unsig := 1 }
    (ringState fn ringFn.windows subRing r).ring? 1 0 = some r := by decide +kernel

/-! ### Packets -/

/-- A TX entry for a frame of `n` bytes at 0x0100002000. -/
def txBytes (n : Nat) : List Byte := leBytes 8 2 ++ leBytes 8 0x0100002000 ++ leBytes 2 n ++ zeroBytes 46

/-- The shortest frame and the longest. -/
theorem ringState_txEntry : ∀ fn ∈ ringFns, ∀ n ∈ [1, 16380],
    let r := { subRing with fn := fn, kind := 2, fetched := [(5, txBytes n)] }
    let s := ringState fn ringFn.windows r compRing
    s.ring? 0 7 = some r ∧ s.fetchedEntry 7 5 = some (txBytes n) ∧ s.modes.dReset = none ∧ s.txHeld r = false ∧
      s.txUnderWay 7 5 = false ∧ leNat (sliceBytes (txBytes n) 16 2) = n ∧ leNat (sliceBytes (txBytes n) 8 8) = 0x0100002000 ∧
      natBit ((txBytes n).getD 18 0).toNat 0 = false ∧ natBit ((txBytes n).getD 18 0).toNat 1 = false ∧
      (s.dmaCheck fn none false 0x0100002000 n).2 = true := by decide +kernel

/-- A packet for queue 7 waits at each link's hand-off: it is taken into the ring's last buffer while the stash holds 15 entries, and
refused without a buffer or with a full stash. -/
theorem ringState_hostRxDelivery : ∀ link ∈ [0, 1], ∀ fn ∈ ringFns, ∀ x ∈ [(1, 15, none), (0, 15, some 6), (1, 16, some 7)],
    let r := { subRing with fn := fn, kind := 3, rxBufs := List.replicate x.1 (5, 0x0100002000, 2048) }
    let c := { compRing with stash := List.replicate x.2.1 (zeroBytes 32, false) }
    let s := (ringState fn ringFn.windows r c).standing .toHost link [routedPkt 7 false]
    let a := s.popLst .toHost link 0
    (s.pktsIn .toHost link).head? = some (0, routedPkt 7 false) ∧ a.ring? 0 7 = some r ∧ a.mode ≠ mStandalone ∧
      a.flag HIF_LINK_STATUS.h_reset (a.fnEndpoint fn) = false ∧ a.rxRefused 7 = x.2.2 ∧ a.issueHeld fn none = false := by
  decide +kernel

end Sys2Proof.Machine
end

section
/-! SUPPORT. What the ring operations of DQM_RING_CMD answer once their access is let through (R331, R337): `u` is the state that the
access check leaves. -/

namespace Sys2Proof.Machine

/-! ### Operations on a ring -/

section
variable {fn cls num : Nat} {s u : State} {r : Ring} (haccess : s.ringOpAccess fn = (u, true))
include haccess

/-- CREATE of a ring of no slice takes the lowest free number and doorbell and a ring of the module's pool (R337, R343). -/
theorem execRingCreate_unbound {d : Nat} (hcls : cls = u.getF DQM_RING_SEL.cls fn)
    (hbound : natBit (u.reg .DQM_RING_CTX fn 2).toNat 43 = false)
    (hformed : u.createMalformed fn cls ((u.reg .DQM_RING_CTX fn 2).bits 46 44) false none ((u.reg .DQM_RING_CTX fn 2).bits 28 13) = false)
    (hroom : 0 < u.getF SLC_POOL.free cls) (hnum : u.freeRing cls = some num) (hd : u.freeDoorbell fn none = some d)
    (hr : r = u.newRing fn cls none d) {b : State} (hb : b = u.setRing cls num r) :
    execRingCreate fn s
      = .next ((b.setF SLC_POOL.free (b.getF SLC_POOL.free cls - 1) cls).ringResult fn 1 stOk (some (num, r))) := by
  unfold execRingCreate
  simp only [haccess, ← hcls, hbound, hformed, hroom, hnum, hd, ← hr, ← hb, decide_true, Option.isNone_none, Bool.not_true,
    Bool.false_eq_true, if_false, if_true]

/-- DESTROY removes a disabled submission ring; only a completion ring is kept by the rings that name it (R337). -/
theorem execRingDestroy_submission (hsel : u.selectedRing fn = some (0, num, r)) (hst : r.st = .disabled) :
    execRingDestroy fn s = .next ((u.removeRing 0 num).ringResult fn 4 stOk (some (num, r))) := by
  have hunnamed : decide ((0 : Nat) = 1) = false := rfl
  unfold execRingDestroy
  simp only [haccess, hsel, hst, hunnamed, Bool.false_and, and_self, Bool.not_true, Bool.false_eq_true, if_false, if_true]

/-- ENABLE starts a submission ring of no slice at start_index, whose function is a bus master and whose completion ring runs, and reads
its index line (R337; that ENABLE itself issues this read is log 102, deduced from Table 11-12). -/
theorem execRingEnable_submission {c y : Ring} {x : FnSt} {i : Nat}
    (hsel : u.selectedRing fn = some (0, num, r)) (hsize : ringSizeOk r.size = true) (hfn : u.fn? fn = some x) (hbme : x.busMaster = true)
    (hcq : u.ring? 1 r.cq = some c) (hcqRun : c.st = .running) (hslice : r.slice = none) (hst : r.st = .disabled ∨ r.st = .stopped)
    (hi : i = (u.reg .DQM_RING_CTX fn 3).bits 63 32)
    (hy : y = { r with st := .running, modIdx := i, hostIdx := i, cWritten := i, armed := true, rung := false,
                       lineRead := true, reads := 0, stopStatus := 0, unsig := 0, irqDue := false })
    {b : State} (hb : b = ((u.setRing 0 num y).writeLineStatus 0 num).issueLineRead num) :
    execRingEnable fn s = .next (b.ringResult fn 2 stOk (b.shown 0 num)) := by
  have hstarts : (r.st == .disabled || r.st == .stopped) = true := by simpa using hst
  unfold execRingEnable
  simp only [haccess, hsel, ← hi, decide_true, if_true, ← hy, ← hb]
  simp only [hsize, hfn, hbme, hcq, hcqRun, hslice, hstarts, decide_true, Bool.or_true, Bool.and_self, Bool.not_true, Bool.false_eq_true,
    if_false, if_true]

/-- DISABLE of a submission ring stops its fetching; it drains while fetched entries are in work (R337). -/
theorem execRingDisable_submission {st : RingState} (hsel : u.selectedRing fn = some (0, num, r))
    (hst : st = if r.fetched.isEmpty then RingState.disabled else .draining) {b : State}
    (hb : b = (u.setRing 0 num { r with st := st, rung := false, lineRead := false, reads := 0 }).writeLineStatus 0 num) :
    execRingDisable fn s = .next (b.ringResult fn 3 stOk (b.shown 0 num)) := by
  unfold execRingDisable
  simp only [haccess, hsel, ← hst, ← hb, Bool.not_true, Bool.false_eq_true, if_false, if_true]

/-- QUERY shows a ring's context and indices (R337). -/
theorem execRingQuery_selected {w2 w3 : Nat} (hsel : u.selectedRing fn = some (cls, num, r))
    (hw2 : w2 = r.size % 2 ^ 17 * 2 ^ 47 + r.kind % 8 * 2 ^ 44 + b2n r.slice.isSome * 2 ^ 43 + r.localNo % 2 ^ 14 * 2 ^ 29
      + r.cq % 2 ^ 16 * 2 ^ 13)
    (hw3 : w3 = u.getF ⟨.DQM_RING_CTX, 63, 32, .rw, .s⟩ fn 3 * 2 ^ 32 + b2n r.irqEn * 2 ^ 31 + b2n r.useStore * 2 ^ 30
      + r.vector % 2 ^ 11 * 2 ^ 19 + r.modCount % 256 * 2 ^ 11 + r.modTime % 2 ^ 11)
    {b c : State}
    (hb : b = ((u.setReg .DQM_RING_CTX (BitVec.ofNat 64 r.base) fn 0).setReg .DQM_RING_CTX (BitVec.ofNat 64 r.line) fn 1).setReg
      .DQM_RING_CTX (BitVec.ofNat 64 w2) fn 2)
    (hc : c = ((b.setReg .DQM_RING_CTX (BitVec.ofNat 64 w3) fn 3).setF DQM_RING_IDX.module_index r.modIdx fn).setF
      DQM_RING_IDX.host_index r.hostIdx fn) :
    execRingQuery fn s = .next (c.ringResult fn 5 stOk (some (num, r))) := by
  unfold execRingQuery
  simp only [haccess, hsel, ← hw2, ← hw3, ← hb, ← hc, Bool.not_true, Bool.false_eq_true, if_false]

/-- MODIFY_IRQ replaces the interrupt settings of a completion or event ring (R337). -/
theorem execRingModifyIrq_notSubmission {w : Word} {y : Ring}
    (hsel : u.selectedRing fn = some (cls, num, r)) (hcls : cls ≠ 0) (hw : w = u.reg .DQM_RING_CTX fn 3)
    (hy : y = { r with irqEn := natBit w.toNat 31, useStore := natBit w.toNat 30, vector := w.bits 29 19,
                       modCount := w.bits 18 11, modTime := w.bits 10 0 }) :
    execRingModifyIrq fn s = .next ((u.setRing cls num y).ringResult fn 6 stOk (some (num, y))) := by
  unfold execRingModifyIrq
  simp only [haccess, hsel, hcls, ← hw, ← hy, Bool.not_true, Bool.false_eq_true, if_false]

end

/-! ### The end of draining, and the statement -/

/-- A draining ring whose last fetched entry has completed is disabled (R337). -/
theorem execRingDrained_empty (num : Nat) (s : State) (r : Ring) (hring : s.ring? 0 num = some r) (hst : r.st = .draining)
    (hempty : r.fetched = []) :
    execRingDrained num s = .next ((s.setRing 0 num { r with st := .disabled }).writeLineStatus 0 num) := by
  unfold execRingDrained
  simp only [hring, hst, hempty, List.isEmpty_nil, and_self, if_true]

/-- Settles O25: each command's clause is its lemma above, on the state that the access check leaves. That ENABLE itself issues the
read of the index line is log 102, deduced from Table 11-12. -/
theorem completeRingCommands : Obligations.CompleteRingCommands := by
  unfold Obligations.CompleteRingCommands
  have hletThrough {fn : Nat} {s : State} (h : (s.ringOpAccess fn).2 = true) : s.ringOpAccess fn = ((s.ringOpAccess fn).1, true) :=
    Prod.ext rfl h
  refine ⟨?create, ?enable, ?disable, ?drained, ?destroy, ?query, ?modifyIrq⟩
  case create =>
    intro fn s a haccess cls hbound hformed hroom num d hnum hd r b
    exact execRingCreate_unbound (hletThrough haccess) rfl hbound hformed hroom hnum hd rfl rfl
  case enable =>
    intro fn s a haccess num r c x hsel hsize hfn hbme hcq hcqRun hslice hst i y b
    exact execRingEnable_submission (hletThrough haccess) hsel hsize hfn hbme hcq hcqRun hslice hst rfl rfl rfl
  case disable =>
    intro fn s a haccess num r hsel st b
    exact execRingDisable_submission (hletThrough haccess) hsel rfl rfl
  case drained =>
    exact execRingDrained_empty
  case destroy =>
    intro fn s a haccess num r hsel hst
    exact execRingDestroy_submission (hletThrough haccess) hsel hst
  case query =>
    intro fn s a haccess cls num r hsel w2 w3 b c
    exact execRingQuery_selected (hletThrough haccess) hsel rfl rfl rfl rfl
  case modifyIrq =>
    intro fn s a haccess cls num r hsel hcls w y
    exact execRingModifyIrq_notSubmission (hletThrough haccess) hsel hcls rfl rfl

end Sys2Proof.Machine
end

section
/-! SUPPORT. Concrete states that meet the conditions of the statement on the ring operations, at the bounds where clauses meet. -/

namespace Sys2Proof.Machine

/-- Function `fn` selects ring `num` of class `cls`, with `ctx` as word 2 of its context registers. -/
def State.selectsRing (s : State) (fn cls num : Nat) (ctx : Word) : State :=
  ((s.setF DQM_RING_SEL.cls cls fn).setF DQM_RING_SEL.number num fn).setReg .DQM_RING_CTX ctx fn 2

/-- That function's ring operations are let through, with what `shows` tells of the state that the access check leaves. -/
def State.letsThrough (s : State) (fn : Nat) (shows : State → Bool) : Bool :=
  let a := s.ringOpAccess fn
  a.2 && shows a.1

/-- A submission ring of the least kind or the greatest, a completion ring, an event ring: the last one left in the pool may be created,
under the lowest number and doorbell that are free. -/
theorem ringState_ringCreate : ∀ fn ∈ ringFns, ∀ x ∈ [(0, 1, 0), (0, 5, 0), (1, 0, 1), (2, 0, 0)],
    let ctx := BitVec.ofNat 64 (x.2.1 * 2 ^ 44)
    let s := ((ringState fn ringFn.windows subRing compRing).setF SLC_POOL.free 1 x.1).selectsRing fn x.1 0 ctx
    s.letsThrough fn (fun a =>
      let w := a.reg .DQM_RING_CTX fn 2
      a.getF DQM_RING_SEL.cls fn == x.1 && !natBit w.toNat 43 && !a.createMalformed fn x.1 (w.bits 46 44) false none (w.bits 28 13)
        && a.getF SLC_POOL.free x.1 == 1 && a.freeRing x.1 == some x.2.2 && a.freeDoorbell fn none == some 1) = true := by
  decide +kernel

/-- A disabled or stopped submission ring of the least size or the greatest may be enabled by a function that is a bus master. -/
theorem ringState_ringEnable : ∀ fn ∈ [0x800, 0x810], ∀ size ∈ [16, 65536], ∀ st ∈ [RingState.disabled, .stopped],
    let r := { subRing with fn := fn, size := size, st := st }
    let s := (ringState fn ringFn.windows r compRing).selectsRing fn 0 7 0
    ringSizeOk size = true ∧ r.slice = none ∧ s.letsThrough fn (fun a => a.selectedRing fn == some (0, 7, r)
      && a.fn? fn == some ringFn && ringFn.busMaster && a.ring? 1 r.cq == some { compRing with fn := fn }) = true := by decide +kernel

/-- A submission ring with entries in work and one without may be disabled. -/
theorem ringState_ringDisable : ∀ fn ∈ ringFns, ∀ fetched ∈ [[], [(5, txBytes 1)]],
    let r := { subRing with fn := fn, fetched := fetched }
    ((ringState fn ringFn.windows r compRing).selectsRing fn 0 7 0).letsThrough fn
      (fun a => a.selectedRing fn == some (0, 7, r)) = true := by decide +kernel

/-- The last entry of a draining ring has completed. -/
theorem ringState_ringDrained : ∀ fn ∈ ringFns, let r := { subRing with fn := fn, st := .draining }
    (ringState fn ringFn.windows r compRing).ring? 0 7 = some r ∧ r.fetched = [] := by decide +kernel

/-- A disabled submission ring may be destroyed. -/
theorem ringState_ringDestroy : ∀ fn ∈ ringFns, let r := { subRing with fn := fn, st := .disabled }
    ((ringState fn ringFn.windows r compRing).selectsRing fn 0 7 0).letsThrough fn
      (fun a => a.selectedRing fn == some (0, 7, r)) = true := by decide +kernel

/-- A submission ring and a completion ring may be selected, and the completion ring's interrupt be modified. -/
theorem ringState_selectedRing : ∀ fn ∈ ringFns, let s := ringState fn ringFn.windows subRing compRing
    (s.selectsRing fn 0 7 0).letsThrough fn (fun a => a.selectedRing fn == some (0, 7, { subRing with fn := fn })) = true ∧
      (s.selectsRing fn 1 0 0).letsThrough fn (fun a => a.selectedRing fn == some (1, 0, { compRing with fn := fn })) = true := by
  decide +kernel

end Sys2Proof.Machine
end

section
/-! SUPPORT. What any step can do, said once: it keeps, from the state without its front command, what every operation keeps. -/

namespace Sys2Proof.Machine

/-! ### The step by its queue -/

/-- The state without the command at the front of its queue, if one waits. -/
def State.dequeue (s : State) : State := { s with pending := s.pending.tail }

-- Elaborated at once and not as a task of its own: Lean then finishes the checks of the text above before it begins this part, and the memory of
-- the two does not add up.
set_option Elab.async false in
@[simp] theorem State.dequeue_pending (s : State) : s.dequeue.pending = s.pending.tail := rfl

theorem State.dequeue_of_nil {s : State} (h : s.pending = []) : s.dequeue = s := by
  cases s
  subst h
  rfl

theorem step_of_nil {s : State} (h : s.pending = []) : step s = .next s.tick := by
  unfold step
  rw [h]

theorem step_of_cons {s : State} {c : Instr} {rest : List Instr} (h : s.pending = c :: rest) :
    step s = exec c { s with pending := rest } := by
  unfold step
  rw [h]

theorem step_of_cons_dequeue {s : State} {c : Instr} {rest : List Instr} (h : s.pending = c :: rest) : step s = exec c s.dequeue := by
  rw [step_of_cons h]
  unfold State.dequeue
  rw [h, List.tail_cons]

/-- Settles O1: both forms are the step by its queue. -/
theorem stepRunsFront : Obligations.StepRunsFront := by
  unfold Obligations.StepRunsFront
  exact ⟨fun _ _ => step_of_cons rfl, fun _ _ _ h => step_of_cons h⟩

/-- Settles O3: no table of the reset state lists anything, and no command waits. -/
theorem resetIsCanonical : Obligations.ResetIsCanonical := by
  unfold Obligations.ResetIsCanonical
  exact ⟨⟨rfl, rfl, reset_mem_wf⟩, rfl⟩

/-! ### What a step keeps -/

/-- A step answers a next state and keeps what every operation keeps: a tick on an empty queue, the front command otherwise. -/
theorem step_keeps (s : State) : ∃ m, KeepsR m s.dequeue (step s) := by
  cases h : s.pending with
  | nil =>
    rw [step_of_nil h, State.dequeue_of_nil h]
    exact ⟨8881783, State.tick_keeps s (.rfl' _ s) (.rfl' _)⟩
  | cons c rest =>
    rw [step_of_cons_dequeue h]
    exact ⟨partsReached c, exec_keeps c s.dequeue⟩

theorem Keeps.of_step {s t : State} (h : step s = .next t) : ∃ m, Keeps m s.dequeue t := by
  obtain ⟨m, hkeeps⟩ := step_keeps s
  rw [h] at hkeeps
  exact ⟨m, hkeeps⟩

theorem KeepsR.completes {m : Nat} {s : State} {r : Res} (h : KeepsR m s r) : Completes r := by
  obtain ⟨t, ht, _⟩ := h.out
  exact ⟨t, ht⟩

/-- Settles O4: each store of the canonical form is kept by every operation. -/
theorem stepKeepsCanonicalForm : Obligations.StepKeepsCanonicalForm := by
  unfold Obligations.StepKeepsCanonicalForm
  intro s t hcanon hstep
  obtain ⟨_, hkeeps⟩ := Keeps.of_step hstep
  exact hkeeps.canon hcanon

/-- Settles O5: no operation reaches the queue that the step has left. -/
theorem stepTakesFrontOnly : Obligations.StepTakesFrontOnly := by
  unfold Obligations.StepTakesFrontOnly
  intro s t hstep
  obtain ⟨_, hkeeps⟩ := Keeps.of_step hstep
  exact ⟨hkeeps.pending, hkeeps.now, hkeeps.freeSeq⟩

/-- Settles O6: an outcome that keeps is a next state. -/
theorem everyCommandCompletes : Obligations.EveryCommandCompletes := by
  unfold Obligations.EveryCommandCompletes
  refine ⟨fun c s => (exec_keeps c s).completes, fun s => ?_⟩
  obtain ⟨_, hkeeps⟩ := step_keeps s
  exact hkeeps.completes

/-- Settles O7: fuses only blow in every operation, and the commands that do not name the programmer leave them alone (R464-R466). -/
theorem fusesOnlyBlow : Obligations.FusesOnlyBlow := by
  unfold Obligations.FusesOnlyBlow
  refine ⟨fun c s t hexec => ⟨(Keeps.of_exec hexec).fuseKept, exec_fuse_eq hexec⟩, fun s t hstep => ?_⟩
  obtain ⟨_, hkeeps⟩ := Keeps.of_step hstep
  exact hkeeps.fuseKept

/-! ### The tick -/

/-- The mask whose bits are those of a list of parts. -/
def partsMask (ps : List Part) : Nat := ps.foldr (fun p m => 2 ^ p.bit ||| m) 0

theorem Part.ofNat_bit (p : Part) : Part.ofNat p.bit = p := by
  cases p <;> rfl

theorem Part.bit_injective : Function.Injective Part.bit := Function.LeftInverse.injective Part.ofNat_bit

/-- A part outside the list is outside its mask. -/
theorem partsMask_testBit {ps : List Part} {p : Part} (h : p ∉ ps) : (partsMask ps).testBit p.bit = false := by
  induction ps with
  | nil => exact Nat.zero_testBit p.bit
  | cons q ps ih =>
    obtain ⟨hq, hps⟩ := not_or.1 (mt List.mem_cons.2 h)
    have hbit : q.bit ≠ p.bit := fun hbits => hq (Part.bit_injective hbits).symm
    have hmask : partsMask (q :: ps) = 2 ^ q.bit ||| partsMask ps := rfl
    rw [hmask, Nat.testBit_or, Nat.testBit_two_pow_of_ne hbit, ih hps, Bool.or_self]

/-- The work of a tick comes after its instant. -/
theorem State.tick_keeps_instant {m : Nat} (s : State) (hm : Sub 8881783 m) : Keeps m { s with now := s.now + 1 } s.tick := by
  unfold State.tick
  exact State.nvmeSettle_keeps _ (State.signalQueues_keeps _ (State.settleCores_keeps _ (State.endPulses_keeps _ (.rfl' _ _)
    (Sub.of hm rfl)) (Sub.of hm rfl)) (Sub.of hm rfl)) (Sub.of hm rfl)

/-- Settles O2: the tick keeps the parts that its work does not name, and its work never turns the new instant back. That the step of
an empty queue ticks is log 1, a choice of the model. -/
theorem idleStepTicks : Obligations.IdleStepTicks := by
  unfold Obligations.IdleStepTicks
  intro s hempty
  have hkeeps := State.tick_keeps s (.rfl' (partsMask [.regs, .mram, .mem, .prf, .hif, .island, .rings, .slc, .fcx, .cph, .drt, .nve, .out]) s) rfl
  have hlater : s.now + 1 ≤ s.tick.now := (s.tick_keeps_instant (.rfl' _)).now
  exact ⟨step_of_nil hempty, hlater, hkeeps.pending.trans hempty, fun p hp => hkeeps.same p (partsMask_testBit hp)⟩

end Sys2Proof.Machine
end

section
/-! SUPPORT. Frames: the law of each command's meaning, read at the mask of the parts that its statement lists. -/

namespace Sys2Proof.Machine

/-- A command whose outcome keeps the mask of a list changes at most the parts listed. -/
theorem Changes.of_keeps {ps : List Part} {c : Instr} (h : ∀ s, KeepsR (partsMask ps) s (exec c s)) : Changes ps c :=
  KeepsR.changes ps h fun _ => partsMask_testBit

/-- Settles O49: each list covers what the law of its command lets it reach. -/
theorem frameTableCommands : Obligations.FrameTableCommands := by
  unfold Obligations.FrameTableCommands
  exact ⟨.of_keeps fun s => execPendingWriteRelease_keeps (h := .rfl' _ s) (hm := rfl) ..,
    fun _ _ => .of_keeps fun s => execReplicaWriteBack_keeps (h := .rfl' _ s) (hm := rfl) ..,
    .of_keeps fun s => execHoldSweep_keeps (h := .rfl' _ s) (hm := rfl) ..,
    fun _ _ _ => .of_keeps fun s => execReplicaRepair_keeps (h := .rfl' _ s) (hm := rfl) ..,
    fun _ _ _ _ => .of_keeps fun s => execTblInsert_keeps (h := .rfl' _ s) (hm := rfl) ..,
    fun _ _ _ _ => .of_keeps fun s => execTblDelete_keeps (h := .rfl' _ s) (hm := rfl) ..,
    fun _ _ _ _ => .of_keeps fun s => execTblModify_keeps (h := .rfl' _ s) (hm := rfl) ..,
    fun _ _ _ _ => .of_keeps fun s => execTblRetag_keeps (h := .rfl' _ s) (hm := rfl) ..,
    fun _ _ _ _ => .of_keeps fun s => execTblLookup_keeps (h := .rfl' _ s) (hm := rfl) ..,
    fun _ _ _ => .of_keeps fun s => execTblReadPos_keeps (h := .rfl' _ s) (hm := rfl) ..,
    fun _ _ _ => .of_keeps fun s => execTblDeletePos_keeps (h := .rfl' _ s) (hm := rfl) ..,
    fun _ => .of_keeps fun s => execAgerPass_keeps (h := .rfl' _ s) (hm := rfl) ..,
    .of_keeps fun s => execEmlLearnEvent_keeps (h := .rfl' _ s) (hm := rfl) ..,
    .of_keeps fun s => execFltLearnEvent_keeps (h := .rfl' _ s) (hm := rfl) ..,
    fun _ _ _ _ _ => .of_keeps fun s => execHashSeedWrite_keeps (h := .rfl' _ s) (hm := rfl) ..,
    fun _ _ => .of_keeps fun s => execOverflowPromotion_keeps (h := .rfl' _ s) (hm := rfl) ..⟩

/-- Settles O50: each list covers what the law of its command lets it reach. -/
theorem framePackets : Obligations.FramePackets := by
  unfold Obligations.FramePackets
  exact ⟨fun _ _ _ _ _ => .of_keeps fun s => execFrameReceive_keeps (h := .rfl' _ s) (hm := rfl) ..,
    fun _ _ _ _ => .of_keeps fun s => execFrameEnd_keeps (h := .rfl' _ s) (hm := rfl) ..,
    fun _ => .of_keeps fun s => execImpositionCopyDone_keeps (h := .rfl' _ s) (hm := rfl) ..,
    fun _ => .of_keeps fun s => execImpositionSwap_keeps (h := .rfl' _ s) (hm := rfl) ..,
    fun _ => .of_keeps fun s => execImpositionCycleStart_keeps (h := .rfl' _ s) (hm := rfl) ..,
    fun _ => .of_keeps fun s => execLpiEnter_keeps (h := .rfl' _ s) (hm := rfl) ..,
    fun _ => .of_keeps fun s => execLpiWakeDone_keeps (h := .rfl' _ s) (hm := rfl) ..,
    fun _ _ _ => .of_keeps fun s => execPipelineEntry_keeps (h := .rfl' _ s) (hm := rfl) ..,
    fun _ _ => .of_keeps fun s => execFltLookupResult_keeps (h := .rfl' _ s) (hm := rfl) ..,
    fun _ => .of_keeps fun s => execEnqueue_keeps (h := .rfl' _ s) (hm := rfl) ..,
    fun _ _ _ _ => .of_keeps fun s => execSchedulerSelection_keeps (h := .rfl' _ s) (hm := rfl) ..,
    .of_keeps fun s => execEpochSwap_keeps (h := .rfl' _ s) (hm := rfl) ..,
    fun _ => .of_keeps fun s => execSpillFetch_keeps (h := .rfl' _ s) (hm := rfl) ..,
    fun _ => .of_keeps fun s => execRecirculate_keeps (h := .rfl' _ s) (hm := rfl) ..,
    fun _ => .of_keeps fun s => execEgressHandoff_keeps (h := .rfl' _ s) (hm := rfl) ..,
    .of_keeps fun s => execAgeDrop_keeps (h := .rfl' _ s) (hm := rfl) ..,
    fun _ => .of_keeps fun s => execOpticalModuleRemoved_keeps (h := .rfl' _ s) (hm := rfl) ..,
    fun _ _ => .of_keeps fun s => execOpticalModuleInserted_keeps (h := .rfl' _ s) (hm := rfl) ..,
    fun _ => .of_keeps fun s => execLinkUp_keeps (h := .rfl' _ s) (hm := rfl) ..,
    fun _ => .of_keeps fun s => execLinkDown_keeps (h := .rfl' _ s) (hm := rfl) ..,
    fun _ => .of_keeps fun s => execFrameLaunch_keeps (h := .rfl' _ s) (hm := rfl) ..,
    fun _ _ => .of_keeps fun s => execLaneFault_keeps (h := .rfl' _ s) (hm := rfl) ..,
    fun _ _ _ => .of_keeps fun s => execTxEntry_keeps (h := .rfl' _ s) (hm := rfl) ..,
    fun _ => .of_keeps fun s => execHostRxDelivery_keeps (h := .rfl' _ s) (hm := rfl) ..,
    fun _ => .of_keeps fun s => execFormeOpen_keeps (h := .rfl' _ s) (hm := rfl) ..,
    fun _ _ _ => .of_keeps fun s => execFormeLoad_keeps (h := .rfl' _ s) (hm := rfl) ..,
    .of_keeps fun s => execSettleSweepDone_keeps (h := .rfl' _ s) (hm := rfl) ..,
    .of_keeps fun s => execDiscardSweepDone_keeps (h := .rfl' _ s) (hm := rfl) ..,
    fun _ => .of_keeps fun s => execFormeLockUp_keeps (h := .rfl' _ s) (hm := rfl) ..,
    fun _ => .of_keeps fun s => execFormeDiscard_keeps (h := .rfl' _ s) (hm := rfl) ..,
    .of_keeps fun s => execFormeRetired_keeps (h := .rfl' _ s) (hm := rfl) ..,
    .of_keeps fun s => execLockUpCommit_keeps (h := .rfl' _ s) (hm := rfl) ..,
    fun _ => .of_keeps fun s => execEpochGo_keeps (h := .rfl' _ s) (hm := rfl) ..,
    fun _ _ => .of_keeps fun s => execPolicerWrite_keeps (h := .rfl' _ s) (hm := rfl) ..,
    fun _ _ => .of_keeps fun s => execPolicerRead_keeps (h := .rfl' _ s) (hm := rfl) ..,
    fun _ _ => .of_keeps fun s => execImpositionGo_keeps (h := .rfl' _ s) (hm := rfl) ..,
    fun _ _ _ _ _ => .of_keeps fun s => execImpositionEnable_keeps (h := .rfl' _ s) (hm := rfl) ..,
    fun _ => .of_keeps fun s => execOpticalModuleFault_keeps (h := .rfl' _ s) (hm := rfl) ..,
    fun _ _ => .of_keeps fun s => execLinkPartnerLpi_keeps (h := .rfl' _ s) (hm := rfl) ..⟩

/-- Settles O51: each list covers what the law of its command lets it reach. -/
theorem frameRings : Obligations.FrameRings := by
  unfold Obligations.FrameRings
  exact ⟨fun _ => .of_keeps fun s => execPerstAssert_keeps (h := .rfl' _ s) (hm := rfl) ..,
    fun _ => .of_keeps fun s => execHotReset_keeps (h := .rfl' _ s) (hm := rfl) ..,
    fun _ _ _ _ _ => .of_keeps fun s => execLinkTrained_keeps (h := .rfl' _ s) (hm := rfl) ..,
    fun _ => .of_keeps fun s => execFlr_keeps (h := .rfl' _ s) (hm := rfl) ..,
    fun _ => .of_keeps fun s => execTranslationMismatch_keeps (h := .rfl' _ s) (hm := rfl) ..,
    fun _ _ _ _ => .of_keeps fun s => execReceivedTlpError_keeps (h := .rfl' _ s) (hm := rfl) ..,
    fun _ _ _ => .of_keeps fun s => execInterruptUnmask_keeps (h := .rfl' _ s) (hm := rfl) ..,
    fun _ _ => .of_keeps fun s => execL1Entry_keeps (h := .rfl' _ s) (hm := rfl) ..,
    fun _ _ => .of_keeps fun s => execL0pWindow_keeps (h := .rfl' _ s) (hm := rfl) ..,
    fun _ _ _ _ => .of_keeps fun s => execDoorbell_keeps (h := .rfl' _ s) (hm := rfl) ..,
    fun _ _ => .of_keeps fun s => execModerationTimer_keeps (h := .rfl' _ s) (hm := rfl) ..,
    fun _ _ _ => .of_keeps fun s => execIndexLineRead_keeps (h := .rfl' _ s) (hm := rfl) ..,
    fun _ _ => .of_keeps fun s => execEntryFetch_keeps (h := .rfl' _ s) (hm := rfl) ..,
    fun _ => .of_keeps fun s => execConsumerIndexWrite_keeps (h := .rfl' _ s) (hm := rfl) ..,
    fun _ _ => .of_keeps fun s => execStashRetry_keeps (h := .rfl' _ s) (hm := rfl) ..,
    fun _ => .of_keeps fun s => execRingEnable_keeps (h := .rfl' _ s) (hm := rfl) ..,
    fun _ => .of_keeps fun s => execRingDisable_keeps (h := .rfl' _ s) (hm := rfl) ..,
    fun _ => .of_keeps fun s => execRingDrained_keeps (h := .rfl' _ s) (hm := rfl) ..,
    fun _ => .of_keeps fun s => execRingCreate_keeps (h := .rfl' _ s) (hm := rfl) ..,
    fun _ => .of_keeps fun s => execRingDestroy_keeps (h := .rfl' _ s) (hm := rfl) ..,
    fun _ => .of_keeps fun s => execRingModifyIrq_keeps (h := .rfl' _ s) (hm := rfl) ..,
    fun _ => .of_keeps fun s => execRingQuery_keeps (h := .rfl' _ s) (hm := rfl) ..,
    fun _ _ => .of_keeps fun s => execConfigurationRequest_keeps (h := .rfl' _ s) (hm := rfl) ..⟩

/-- Settles O53: each list covers what the law of its command lets it reach. -/
theorem frameIsland : Obligations.FrameIsland := by
  unfold Obligations.FrameIsland
  exact ⟨fun _ _ => .of_keeps fun s => execTsvRateWrite_keeps (h := .rfl' _ s) (hm := rfl) ..,
    fun _ _ _ _ => .of_keeps fun s => execTsvServoWrite_keeps (h := .rfl' _ s) (hm := rfl) ..,
    fun _ _ => .of_keeps fun s => execTsvSlew_keeps (h := .rfl' _ s) (hm := rfl) ..,
    fun _ _ => .of_keeps fun s => execTsvStep_keeps (h := .rfl' _ s) (hm := rfl) ..,
    fun _ _ => .of_keeps fun s => execTsvSet_keeps (h := .rfl' _ s) (hm := rfl) ..,
    fun _ _ => .of_keeps fun s => execSetAtPps_keeps (h := .rfl' _ s) (hm := rfl) ..,
    fun _ _ => .of_keeps fun s => execIslandReset_keeps (h := .rfl' _ s) (hm := rfl) ..,
    fun _ _ => .of_keeps fun s => execPpsInEdge_keeps (h := .rfl' _ s) (hm := rfl) ..,
    .of_keeps fun s => execPpsWindowMissed_keeps (h := .rfl' _ s) (hm := rfl) ..,
    fun _ => .of_keeps fun s => execReferenceQualified_keeps (h := .rfl' _ s) (hm := rfl) ..,
    fun _ => .of_keeps fun s => execReferenceDisqualified_keeps (h := .rfl' _ s) (hm := rfl) ..,
    fun _ => .of_keeps fun s => execCounterMismatch_keeps (h := .rfl' _ s) (hm := rfl) ..,
    .of_keeps fun s => execServoBeatTimeout_keeps (h := .rfl' _ s) (hm := rfl) ..,
    fun _ _ => .of_keeps fun s => execReplicaCheck_keeps (h := .rfl' _ s) (hm := rfl) ..,
    fun _ => .of_keeps fun s => execURefEvaluation_keeps (h := .rfl' _ s) (hm := rfl) ..,
    fun _ => .of_keeps fun s => execReplicaRealigned_keeps (h := .rfl' _ s) (hm := rfl) ..,
    .of_keeps fun s => execTimeSnapshotPublish_keeps (h := .rfl' _ s) (hm := rfl) ..,
    fun _ _ _ => .of_keeps fun s => execSnapshotLatch_keeps (h := .rfl' _ s) (hm := rfl) ..,
    fun _ => .of_keeps fun s => execPpsOutputEdge_keeps (h := .rfl' _ s) (hm := rfl) ..,
    fun _ _ _ => .of_keeps fun s => execPtmDialogue_keeps (h := .rfl' _ s) (hm := rfl) ..,
    fun _ => .of_keeps fun s => execPtmStale_keeps (h := .rfl' _ s) (hm := rfl) ..,
    fun _ => .of_keeps fun s => execTimePageEnable_keeps (h := .rfl' _ s) (hm := rfl) ..,
    fun _ => .of_keeps fun s => execTimePageDisable_keeps (h := .rfl' _ s) (hm := rfl) ..,
    fun _ _ => .of_keeps fun s => execTimePageWrite_keeps (h := .rfl' _ s) (hm := rfl) ..⟩

/-- Settles O54: each list covers what the law of its command lets it reach. -/
theorem frameModes : Obligations.FrameModes := by
  unfold Obligations.FrameModes
  exact ⟨fun _ _ => .of_keeps fun s => execModeRequestGo_keeps (h := .rfl' _ s) (hm := rfl) ..,
    fun _ _ => .of_keeps fun s => execResetColdRequest_keeps (h := .rfl' _ s) (hm := rfl) ..,
    fun _ _ => .of_keeps fun s => execResetWarmRequest_keeps (h := .rfl' _ s) (hm := rfl) ..,
    fun _ _ => .of_keeps fun s => execResetDatapathRequest_keeps (h := .rfl' _ s) (hm := rfl) ..,
    .of_keeps fun s => execFlushDone_keeps (h := .rfl' _ s) (hm := rfl) ..,
    .of_keeps fun s => execFlushTimeout_keeps (h := .rfl' _ s) (hm := rfl) ..,
    fun _ _ _ _ => .of_keeps fun s => execFaultEvent_keeps (h := .rfl' _ s) (hm := rfl) ..,
    .of_keeps fun s => execSelfTestFatalRetry_keeps (h := .rfl' _ s) (hm := rfl) ..,
    fun _ => .of_keeps fun s => execClaim_keeps (h := .rfl' _ s) (hm := rfl) ..,
    fun _ => .of_keeps fun s => execRelease_keeps (h := .rfl' _ s) (hm := rfl) ..,
    .of_keeps fun s => execModeCommit_keeps (h := .rfl' _ s) (hm := rfl) ..,
    fun _ => .of_keeps fun s => execHostPwrGoodChange_keeps (h := .rfl' _ s) (hm := rfl) ..,
    .of_keeps fun s => execStandbyEntryDebounce_keeps (h := .rfl' _ s) (hm := rfl) ..,
    .of_keeps fun s => execStandbyExitDebounce_keeps (h := .rfl' _ s) (hm := rfl) ..,
    .of_keeps fun s => execResetRelease_keeps (h := .rfl' _ s) (hm := rfl) ..,
    .of_keeps fun s => execDResetDone_keeps (h := .rfl' _ s) (hm := rfl) ..,
    fun _ _ => .of_keeps fun s => execCorrectedEvent_keeps (h := .rfl' _ s) (hm := rfl) ..,
    .of_keeps fun s => execSafelightBoundary_keeps (h := .rfl' _ s) (hm := rfl) ..,
    fun _ _ _ _ => .of_keeps fun s => execFaultAck_keeps (h := .rfl' _ s) (hm := rfl) ..,
    fun _ _ => .of_keeps fun s => execPrfSliceLift_keeps (h := .rfl' _ s) (hm := rfl) ..,
    fun _ _ => .of_keeps fun s => execSafelightFeed_keeps (h := .rfl' _ s) (hm := rfl) ..,
    fun _ _ => .of_keeps fun s => execRepairLogRead_keeps (h := .rfl' _ s) (hm := rfl) ..,
    fun _ _ _ => .of_keeps fun s => execErrorInject_keeps (h := .rfl' _ s) (hm := rfl) ..,
    .of_keeps fun s => execSafelightFeedTimeout_keeps (h := .rfl' _ s) (hm := rfl) ..,
    .of_keeps fun s => execClockDeviation_keeps (h := .rfl' _ s) (hm := rfl) ..,
    fun _ _ _ _ _ => .of_keeps fun s => execPatrolScrub_keeps (h := .rfl' _ s) (hm := rfl) ..,
    fun _ _ => .of_keeps fun s => execUnitFailure_keeps (h := .rfl' _ s) (hm := rfl) ..,
    fun _ _ => .of_keeps fun s => execSelfTest_keeps (h := .rfl' _ s) (hm := rfl) ..⟩

/-- Settles O55: each list covers what the law of its command lets it reach. -/
theorem frameImages : Obligations.FrameImages := by
  unfold Obligations.FrameImages
  exact ⟨fun _ => .of_keeps fun s => execRomStart_keeps (h := .rfl' _ s) (hm := rfl) ..,
    .of_keeps fun s => execSourceWaitTimeout_keeps (h := .rfl' _ s) (hm := rfl) ..,
    fun _ _ => .of_keeps fun s => execRecGo_keeps (h := .rfl' _ s) (hm := rfl) ..,
    .of_keeps fun s => execTftpImageWrite_keeps (h := .rfl' _ s) (hm := rfl) ..,
    fun _ => .of_keeps fun s => execOdferImageOffer_keeps (h := .rfl' _ s) (hm := rfl) ..,
    .of_keeps fun s => execRecoveryWindowClose_keeps (h := .rfl' _ s) (hm := rfl) ..,
    fun _ => .of_keeps fun s => execImageReceived_keeps (h := .rfl' _ s) (hm := rfl) ..,
    .of_keeps fun s => execBootWatchdog_keeps (h := .rfl' _ s) (hm := rfl) ..,
    fun _ => .of_keeps fun s => execBootDone_keeps (h := .rfl' _ s) (hm := rfl) ..,
    fun _ => .of_keeps fun s => execBootFail_keeps (h := .rfl' _ s) (hm := rfl) ..,
    .of_keeps fun s => execDarkroomRetry_keeps (h := .rfl' _ s) (hm := rfl) ..,
    fun _ => .of_keeps fun s => execActivateCommit_keeps (h := .rfl' _ s) (hm := rfl) ..,
    .of_keeps fun s => execActivateTimeout_keeps (h := .rfl' _ s) (hm := rfl) ..,
    .of_keeps fun s => execRomHandover_keeps (h := .rfl' _ s) (hm := rfl) ..,
    fun _ _ => .of_keeps fun s => execMeasRead_keeps (h := .rfl' _ s) (hm := rfl) ..,
    fun _ _ => .of_keeps fun s => execMeasLogRead_keeps (h := .rfl' _ s) (hm := rfl) ..,
    fun _ _ => .of_keeps fun s => execUpdPrefer_keeps (h := .rfl' _ s) (hm := rfl) ..,
    fun _ _ => .of_keeps fun s => execOwnerLock_keeps (h := .rfl' _ s) (hm := rfl) ..,
    fun _ _ => .of_keeps fun s => execOwnerUnlock_keeps (h := .rfl' _ s) (hm := rfl) ..,
    fun _ _ => .of_keeps fun s => execMeasExtend_keeps (h := .rfl' _ s) (hm := rfl) ..,
    fun _ _ => .of_keeps fun s => execEnrollOwner_keeps (h := .rfl' _ s) (hm := rfl) ..,
    fun _ _ => .of_keeps fun s => execUpdOpen_keeps (h := .rfl' _ s) (hm := rfl) ..,
    fun _ _ => .of_keeps fun s => execUpdWrite_keeps (h := .rfl' _ s) (hm := rfl) ..,
    fun _ _ => .of_keeps fun s => execUpdClose_keeps (h := .rfl' _ s) (hm := rfl) ..,
    fun _ _ => .of_keeps fun s => execUpdInvalidate_keeps (h := .rfl' _ s) (hm := rfl) ..,
    fun _ _ _ => .of_keeps fun s => execUpdActivate_keeps (h := .rfl' _ s) (hm := rfl) ..,
    fun _ _ => .of_keeps fun s => execRevokeKey_keeps (h := .rfl' _ s) (hm := rfl) ..,
    fun _ _ => .of_keeps fun s => execAdvanceSvn_keeps (h := .rfl' _ s) (hm := rfl) ..⟩

/-- Settles O56: each list covers what the law of its command lets it reach. -/
theorem frameHardware : Obligations.FrameHardware := by
  unfold Obligations.FrameHardware
  exact ⟨.of_keeps fun s => execCascadeLinksSilent_keeps (h := .rfl' _ s) (hm := rfl) ..,
    .of_keeps fun s => execAcFail_keeps (h := .rfl' _ s) (hm := rfl) ..,
    .of_keeps fun s => execAcFailClear_keeps (h := .rfl' _ s) (hm := rfl) ..,
    .of_keeps fun s => execAcReturn_keeps (h := .rfl' _ s) (hm := rfl) ..,
    fun _ => .of_keeps fun s => execThermalRestart_keeps (h := .rfl' _ s) (hm := rfl) ..,
    .of_keeps fun s => execAcFailMramWindowEnd_keeps (h := .rfl' _ s) (hm := rfl) ..,
    .of_keeps fun s => execAcRailsDown_keeps (h := .rfl' _ s) (hm := rfl) ..,
    fun _ => .of_keeps fun s => execRedfishReset_keeps (h := .rfl' _ s) (hm := rfl) ..,
    .of_keeps fun s => execReserveExhausted_keeps (h := .rfl' _ s) (hm := rfl) ..,
    .of_keeps fun s => execReserveFull_keeps (h := .rfl' _ s) (hm := rfl) ..,
    fun _ => .of_keeps fun s => execThermalAlarmClear_keeps (h := .rfl' _ s) (hm := rfl) ..,
    .of_keeps fun s => execAgreementRecordSend_keeps (h := .rfl' _ s) (hm := rfl) ..,
    .of_keeps fun s => execMemberSilent_keeps (h := .rfl' _ s) (hm := rfl) ..,
    fun _ _ _ _ _ _ => .of_keeps fun s => execAgreementRecordReceive_keeps (h := .rfl' _ s) (hm := rfl) ..,
    .of_keeps fun s => execMasterSilent_keeps (h := .rfl' _ s) (hm := rfl) ..,
    fun _ _ => .of_keeps fun s => execOdferLinkDown_keeps (h := .rfl' _ s) (hm := rfl) ..,
    fun _ _ => .of_keeps fun s => execOdfLockup_keeps (h := .rfl' _ s) (hm := rfl) ..,
    fun _ => .of_keeps fun s => execRepartition_keeps (h := .rfl' _ s) (hm := rfl) ..,
    fun _ => .of_keeps fun s => execHandback_keeps (h := .rfl' _ s) (hm := rfl) ..,
    .of_keeps fun s => execRepartitionHoldExpire_keeps (h := .rfl' _ s) (hm := rfl) ..,
    fun _ _ => .of_keeps fun s => execOdferFrameReceive_keeps (h := .rfl' _ s) (hm := rfl) ..,
    fun _ _ _ _ _ => .of_keeps fun s => execFarLookupRequest_keeps (h := .rfl' _ s) (hm := rfl) ..,
    fun _ _ _ _ => .of_keeps fun s => execFarLookupResult_keeps (h := .rfl' _ s) (hm := rfl) ..,
    fun _ => .of_keeps fun s => execFarLookupTimeout_keeps (h := .rfl' _ s) (hm := rfl) ..,
    fun _ _ => .of_keeps fun s => execHostOn_keeps (h := .rfl' _ s) (hm := rfl) ..,
    fun _ _ => .of_keeps fun s => execHostOff_keeps (h := .rfl' _ s) (hm := rfl) ..,
    fun _ _ => .of_keeps fun s => execHostForceOff_keeps (h := .rfl' _ s) (hm := rfl) ..,
    fun _ _ => .of_keeps fun s => execHostReset_keeps (h := .rfl' _ s) (hm := rfl) ..,
    fun _ _ => .of_keeps fun s => execHostCycle_keeps (h := .rfl' _ s) (hm := rfl) ..,
    fun _ _ => .of_keeps fun s => execHostAuxOff_keeps (h := .rfl' _ s) (hm := rfl) ..,
    .of_keeps fun s => execHostPowerOpEnd_keeps (h := .rfl' _ s) (hm := rfl) ..,
    .of_keeps fun s => execHostWake_keeps (h := .rfl' _ s) (hm := rfl) ..,
    .of_keeps fun s => execHostPowerPolicyApply_keeps (h := .rfl' _ s) (hm := rfl) ..,
    fun _ => .of_keeps fun s => execThermalAlarm_keeps (h := .rfl' _ s) (hm := rfl) ..,
    fun _ => .of_keeps fun s => execThermalCritical_keeps (h := .rfl' _ s) (hm := rfl) ..,
    .of_keeps fun s => execPsuFault_keeps (h := .rfl' _ s) (hm := rfl) ..,
    fun _ => .of_keeps fun s => execThermalTrip_keeps (h := .rfl' _ s) (hm := rfl) ..,
    fun _ _ => .of_keeps fun s => execMgmtFrameReceive_keeps (h := .rfl' _ s) (hm := rfl) ..,
    fun _ _ => .of_keeps fun s => execMgmtLinkChange_keeps (h := .rfl' _ s) (hm := rfl) ..,
    fun _ _ _ => .of_keeps fun s => execMgmtTransmit_keeps (h := .rfl' _ s) (hm := rfl) ..,
    fun _ _ _ => .of_keeps fun s => execSmbusTransaction_keeps (h := .rfl' _ s) (hm := rfl) ..⟩

/-- Settles O57: each list covers what the law of its command lets it reach. -/
theorem frameCores : Obligations.FrameCores := by
  unfold Obligations.FrameCores
  exact ⟨fun _ _ _ => .of_keeps fun s => execChannelOpen_keeps (h := .rfl' _ s) (hm := rfl) ..,
    fun _ _ _ => .of_keeps fun s => execChannelWrite_keeps (h := .rfl' _ s) (hm := rfl) ..,
    fun _ _ => .of_keeps fun s => execChannelCommit_keeps (h := .rfl' _ s) (hm := rfl) ..,
    fun _ _ _ => .of_keeps fun s => execChannelReceive_keeps (h := .rfl' _ s) (hm := rfl) ..,
    fun _ _ => .of_keeps fun s => execCoreTime_keeps (h := .rfl' _ s) (hm := rfl) ..,
    fun _ _ => .of_keeps fun s => execCoreTimer_keeps (h := .rfl' _ s) (hm := rfl) ..,
    fun _ => .of_keeps fun s => execTimerExpire_keeps (h := .rfl' _ s) (hm := rfl) ..,
    fun _ _ => .of_keeps fun s => execStartDone_keeps (h := .rfl' _ s) (hm := rfl) ..,
    fun _ _ => .of_keeps fun s => execThreadRestart_keeps (h := .rfl' _ s) (hm := rfl) ..,
    fun _ _ => .of_keeps fun s => execThreadStop_keeps (h := .rfl' _ s) (hm := rfl) ..,
    fun _ _ => .of_keeps fun s => execReadEvents_keeps (h := .rfl' _ s) (hm := rfl) ..,
    fun _ _ => .of_keeps fun s => execPbfRead_keeps (h := .rfl' _ s) (hm := rfl) ..,
    fun _ _ _ _ => .of_keeps fun s => execThreadFault_keeps (h := .rfl' _ s) (hm := rfl) ..,
    fun _ => .of_keeps fun s => execDeadlock_keeps (h := .rfl' _ s) (hm := rfl) ..,
    .of_keeps fun s => execGlobalDeadlockSample_keeps (h := .rfl' _ s) (hm := rfl) ..,
    fun _ _ => .of_keeps fun s => execThreadHeld_keeps (h := .rfl' _ s) (hm := rfl) ..,
    fun _ => .of_keeps fun s => execCoreLoadGroupDone_keeps (h := .rfl' _ s) (hm := rfl) ..,
    fun _ => .of_keeps fun s => execStartupTimeout_keeps (h := .rfl' _ s) (hm := rfl) ..,
    fun _ => .of_keeps fun s => execPacketDelivery_keeps (h := .rfl' _ s) (hm := rfl) ..,
    fun _ _ => .of_keeps fun s => execPbfFree_keeps (h := .rfl' _ s) (hm := rfl) ..,
    fun _ _ _ _ => .of_keeps fun s => execCoreLoad_keeps (h := .rfl' _ s) (hm := rfl) ..,
    fun _ _ => .of_keeps fun s => execResetCore_keeps (h := .rfl' _ s) (hm := rfl) ..,
    fun _ _ => .of_keeps fun s => execPbfWrite_keeps (h := .rfl' _ s) (hm := rfl) ..,
    fun _ _ => .of_keeps fun s => execPbfInject_keeps (h := .rfl' _ s) (hm := rfl) ..,
    fun _ _ => .of_keeps fun s => execPbfAlloc_keeps (h := .rfl' _ s) (hm := rfl) ..,
    fun _ _ => .of_keeps fun s => execMemRead_keeps (h := .rfl' _ s) (hm := rfl) ..,
    fun _ _ _ => .of_keeps fun s => execDbgStop_keeps (h := .rfl' _ s) (hm := rfl) ..,
    fun _ _ _ => .of_keeps fun s => execDbgResume_keeps (h := .rfl' _ s) (hm := rfl) ..,
    fun _ _ _ => .of_keeps fun s => execDbgStep_keeps (h := .rfl' _ s) (hm := rfl) ..,
    fun _ _ _ _ => .of_keeps fun s => execDbgRead_keeps (h := .rfl' _ s) (hm := rfl) ..,
    fun _ _ _ _ => .of_keeps fun s => execDbgWrite_keeps (h := .rfl' _ s) (hm := rfl) ..,
    fun _ _ => .of_keeps fun s => execMemWrite_keeps (h := .rfl' _ s) (hm := rfl) ..,
    fun _ _ _ _ => .of_keeps fun s => execGmul_keeps (h := .rfl' _ s) (hm := rfl) ..,
    fun _ _ _ => .of_keeps fun s => execXmul_keeps (h := .rfl' _ s) (hm := rfl) ..,
    fun _ _ _ _ _ _ _ _ _ => .of_keeps fun s => execHostEndpointRequest_keeps (h := .rfl' _ s) (hm := rfl) ..⟩

/-- Settles O58: each list covers what the law of its command lets it reach. -/
theorem frameCipher : Obligations.FrameCipher := by
  unfold Obligations.FrameCipher
  exact ⟨fun _ _ => .of_keeps fun s => execEncrypt_keeps (h := .rfl' _ s) (hm := rfl) ..,
    fun _ _ => .of_keeps fun s => execDecrypt_keeps (h := .rfl' _ s) (hm := rfl) ..,
    fun _ _ => .of_keeps fun s => execDerive_keeps (h := .rfl' _ s) (hm := rfl) ..,
    .of_keeps fun s => execCipherDispatch_keeps (h := .rfl' _ s) (hm := rfl) ..,
    .of_keeps fun s => execCipherResume_keeps (h := .rfl' _ s) (hm := rfl) ..,
    .of_keeps fun s => execDescriptorPriorityRaise_keeps (h := .rfl' _ s) (hm := rfl) ..,
    fun _ => .of_keeps fun s => execDrbgReseed_keeps (h := .rfl' _ s) (hm := rfl) ..,
    .of_keeps fun s => execCipherComplete_keeps (h := .rfl' _ s) (hm := rfl) ..,
    fun _ _ => .of_keeps fun s => execKeyLoad_keeps (h := .rfl' _ s) (hm := rfl) ..,
    fun _ _ _ => .of_keeps fun s => execKeyUnwrap_keeps (h := .rfl' _ s) (hm := rfl) ..,
    fun _ _ => .of_keeps fun s => execKeyErase_keeps (h := .rfl' _ s) (hm := rfl) ..,
    fun _ _ => .of_keeps fun s => execKeyAttr_keeps (h := .rfl' _ s) (hm := rfl) ..,
    .of_keeps fun s => execEntropyRecovered_keeps (h := .rfl' _ s) (hm := rfl) ..,
    fun _ _ => .of_keeps fun s => execKeyQuery_keeps (h := .rfl' _ s) (hm := rfl) ..,
    fun _ => .of_keeps fun s => execEntropyFailure_keeps (h := .rfl' _ s) (hm := rfl) ..,
    fun _ _ _ => .of_keeps fun s => execCphRngRead_keeps (h := .rfl' _ s) (hm := rfl) ..,
    .of_keeps fun s => execCipherEntropyTimeout_keeps (h := .rfl' _ s) (hm := rfl) ..,
    fun _ _ => .of_keeps fun s => execUnitKnownAnswerTest_keeps (h := .rfl' _ s) (hm := rfl) ..⟩

/-- Settles O59: each list covers what the law of its command lets it reach. -/
theorem frameTransport : Obligations.FrameTransport := by
  unfold Obligations.FrameTransport
  exact ⟨fun _ _ _ => .of_keeps fun s => execDrtWrite_keeps (h := .rfl' _ s) (hm := rfl) ..,
    fun _ _ _ => .of_keeps fun s => execDrtWriteImm_keeps (h := .rfl' _ s) (hm := rfl) ..,
    fun _ _ _ => .of_keeps fun s => execDrtRead_keeps (h := .rfl' _ s) (hm := rfl) ..,
    fun _ _ => .of_keeps fun s => execDataReceive_keeps (h := .rfl' _ s) (hm := rfl) ..,
    fun _ _ => .of_keeps fun s => execReadReqReceive_keeps (h := .rfl' _ s) (hm := rfl) ..,
    fun _ _ => .of_keeps fun s => execDrugrimPacketSend_keeps (h := .rfl' _ s) (hm := rfl) ..,
    fun _ _ => .of_keeps fun s => execReadRespReceive_keeps (h := .rfl' _ s) (hm := rfl) ..,
    fun _ _ => .of_keeps fun s => execAckReceive_keeps (h := .rfl' _ s) (hm := rfl) ..,
    fun _ _ => .of_keeps fun s => execErrorReceive_keeps (h := .rfl' _ s) (hm := rfl) ..,
    fun _ => .of_keeps fun s => execRetransmitTimeout_keeps (h := .rfl' _ s) (hm := rfl) ..,
    fun _ => .of_keeps fun s => execMessageDeadline_keeps (h := .rfl' _ s) (hm := rfl) ..,
    fun _ => .of_keeps fun s => execEpDestroy_keeps (h := .rfl' _ s) (hm := rfl) ..,
    fun _ => .of_keeps fun s => execTransportDisable_keeps (h := .rfl' _ s) (hm := rfl) ..,
    fun _ _ => .of_keeps fun s => execAckTimer_keeps (h := .rfl' _ s) (hm := rfl) ..,
    fun _ _ => .of_keeps fun s => execRecordExpire_keeps (h := .rfl' _ s) (hm := rfl) ..,
    fun _ _ => .of_keeps fun s => execNotBeforeRelease_keeps (h := .rfl' _ s) (hm := rfl) ..,
    fun _ _ => .of_keeps fun s => execHeldTimeout_keeps (h := .rfl' _ s) (hm := rfl) ..,
    fun _ => .of_keeps fun s => execEpCreate_keeps (h := .rfl' _ s) (hm := rfl) ..,
    fun _ => .of_keeps fun s => execRegionReg_keeps (h := .rfl' _ s) (hm := rfl) ..,
    fun _ => .of_keeps fun s => execRegionRevoke_keeps (h := .rfl' _ s) (hm := rfl) ..,
    fun _ => .of_keeps fun s => execDomainSet_keeps (h := .rfl' _ s) (hm := rfl) ..,
    fun _ => .of_keeps fun s => execDomainNext_keeps (h := .rfl' _ s) (hm := rfl) ..,
    fun _ => .of_keeps fun s => execDomainPromote_keeps (h := .rfl' _ s) (hm := rfl) ..,
    fun _ => .of_keeps fun s => execDomainDropPrev_keeps (h := .rfl' _ s) (hm := rfl) ..,
    fun _ _ => .of_keeps fun s => execTombstoneFree_keeps (h := .rfl' _ s) (hm := rfl) ..,
    .of_keeps fun s => execSettleEnd_keeps (h := .rfl' _ s) (hm := rfl) ..,
    fun _ => .of_keeps fun s => execRegionRead_keeps (h := .rfl' _ s) (hm := rfl) ..⟩

/-- Settles O60: each list covers what the law of its command lets it reach. -/
theorem frameNvme : Obligations.FrameNvme := by
  unfold Obligations.FrameNvme
  exact ⟨fun _ _ => .of_keeps fun s => execControllerEnable_keeps (h := .rfl' _ s) (hm := rfl) ..,
    fun _ => .of_keeps fun s => execApstIdle_keeps (h := .rfl' _ s) (hm := rfl) ..,
    .of_keeps fun s => execSmartCounterUpdate_keeps (h := .rfl' _ s) (hm := rfl) ..,
    fun _ => .of_keeps fun s => execControllerReset_keeps (h := .rfl' _ s) (hm := rfl) ..,
    fun _ => .of_keeps fun s => execControllerResetTimeout_keeps (h := .rfl' _ s) (hm := rfl) ..,
    fun _ => .of_keeps fun s => execNormalShutdown_keeps (h := .rfl' _ s) (hm := rfl) ..,
    fun _ => .of_keeps fun s => execAbruptShutdown_keeps (h := .rfl' _ s) (hm := rfl) ..,
    fun _ _ _ _ _ => .of_keeps fun s => execNvmeDoorbell_keeps (h := .rfl' _ s) (hm := rfl) ..,
    fun _ => .of_keeps fun s => execDeleteIoSubmissionQueue_keeps (h := .rfl' _ s) (hm := rfl) ..,
    fun _ => .of_keeps fun s => execCreateIoSubmissionQueue_keeps (h := .rfl' _ s) (hm := rfl) ..,
    fun _ _ => .of_keeps fun s => execGetLogPage_keeps (h := .rfl' _ s) (hm := rfl) ..,
    fun _ => .of_keeps fun s => execDeleteIoCompletionQueue_keeps (h := .rfl' _ s) (hm := rfl) ..,
    fun _ => .of_keeps fun s => execCreateIoCompletionQueue_keeps (h := .rfl' _ s) (hm := rfl) ..,
    fun _ _ => .of_keeps fun s => execNvmeIdentify_keeps (h := .rfl' _ s) (hm := rfl) ..,
    fun _ => .of_keeps fun s => execNvmeAbort_keeps (h := .rfl' _ s) (hm := rfl) ..,
    fun _ => .of_keeps fun s => execAsynchronousEventRequest_keeps (h := .rfl' _ s) (hm := rfl) ..,
    fun _ _ _ => .of_keeps fun s => execSetFeatures_keeps (h := .rfl' _ s) (hm := rfl) ..,
    fun _ _ => .of_keeps fun s => execGetFeatures_keeps (h := .rfl' _ s) (hm := rfl) ..,
    fun _ _ _ => .of_keeps fun s => execFirmwareImageDownload_keeps (h := .rfl' _ s) (hm := rfl) ..,
    fun _ _ => .of_keeps fun s => execNvmeFlush_keeps (h := .rfl' _ s) (hm := rfl) ..,
    fun _ _ _ _ _ => .of_keeps fun s => execNvmeWrite_keeps (h := .rfl' _ s) (hm := rfl) ..,
    fun _ _ _ _ => .of_keeps fun s => execNvmeRead_keeps (h := .rfl' _ s) (hm := rfl) ..,
    fun _ _ _ => .of_keeps fun s => execNvmeWriteZeroes_keeps (h := .rfl' _ s) (hm := rfl) ..,
    fun _ => .of_keeps fun s => execBackendReadDone_keeps (h := .rfl' _ s) (hm := rfl) ..,
    fun _ => .of_keeps fun s => execDestageDone_keeps (h := .rfl' _ s) (hm := rfl) ..,
    fun _ _ => .of_keeps fun s => execDestageRetry_keeps (h := .rfl' _ s) (hm := rfl) ..,
    fun _ _ => .of_keeps fun s => execNsCreate_keeps (h := .rfl' _ s) (hm := rfl) ..,
    fun _ _ => .of_keeps fun s => execNsDelete_keeps (h := .rfl' _ s) (hm := rfl) ..,
    fun _ _ _ _ => .of_keeps fun s => execNsAttach_keeps (h := .rfl' _ s) (hm := rfl) ..,
    fun _ _ => .of_keeps fun s => execNsDetach_keeps (h := .rfl' _ s) (hm := rfl) ..,
    fun _ _ => .of_keeps fun s => execNsQuery_keeps (h := .rfl' _ s) (hm := rfl) ..,
    fun _ _ => .of_keeps fun s => execClearFault_keeps (h := .rfl' _ s) (hm := rfl) ..,
    fun _ => .of_keeps fun s => execBackendWriteDone_keeps (h := .rfl' _ s) (hm := rfl) ..,
    fun _ => .of_keeps fun s => execFirmwareCommit_keeps (h := .rfl' _ s) (hm := rfl) ..,
    fun _ => .of_keeps fun s => execDestageFailureWarning_keeps (h := .rfl' _ s) (hm := rfl) ..,
    fun _ _ => .of_keeps fun s => execTemperatureThreshold_keeps (h := .rfl' _ s) (hm := rfl) ..⟩

end Sys2Proof.Machine
end

section
/-! SUPPORT. What slice commands, the reset sequence and the access tables answer on the path that nothing stops (R345-R353, R359,
R360). -/

namespace Sys2Proof.Machine

/-! ### Slice commands -/

/-- The slice that SLICE_CREATE binds, before its quotas are granted (R346). -/
def SliceRec.bound (f l pasid : Nat) : SliceRec :=
  { st := .stopped, fn := f, localNo := l, pasid := pasid, sqRings := 0, cqRings := 0, keySlots := 0, endpoints := 0, regions := 0,
    queues := 0, fltEntries := 0, bufferKib := 0, bw := 0, windows := [], store := [], storePending := [], seq := none,
    badWord := false }

/-- A free identifier is bound to a page and a PASID that no slice of its NATIVE function holds, where the pools supply it (R346). -/
theorem execSliceCreate_granted (init slice : Nat) (s t : State) (f l pasid : Nat) (x : SliceRec)
    (htaken : (s.slcBegin init 1 slice).2 = true) (ht : t = (s.slcBegin init 1 slice).1) (hf : f = t.slcFunction (t.slcData 0))
    (hl : l = (t.slcData 0).bits 50 37) (hpasid : pasid = (t.slcData 0).bits 19 0) (hfree : t.slice? slice = none)
    (hnative : t.isNative f = true) (hpage : l < ((t.fn? f).map FnSt.pages).getD 0)
    (hnew : (t.slc.slices.any fun p => decide (p.2.fn = f ∧ (p.2.localNo = l ∨ p.2.pasid = pasid))) = false)
    (hx : x = t.slcQuotas (.bound f l pasid)) (hquotas : (allPooled.all fun k => decide (x.quota k ≤ t.pool k.pool)) = true)
    (hslices : 1 ≤ t.pool 2) (hwindows : 1 ≤ t.pool 7) :
    execSliceCreate init slice s
      = .next ((((((allPooled.foldl (fun t k => t.poolSub k.pool (x.quota k)) t).poolSub 2 1).poolSub 7 1).setSlice slice x).showGates).setF
          SLC_CMD.result stOk) := by
  unfold SliceRec.bound at hx
  unfold execSliceCreate State.slcEnd
  simp only [htaken, ← ht, ← hf, ← hl, ← hpasid, hfree, hnative, Nat.not_le.2 hpage, hnew, ← hx, hquotas, hslices, hwindows,
    Option.isSome_none, Bool.not_true, Bool.or_self, Bool.and_self, decide_true, decide_false, Bool.false_eq_true, if_false, if_true]

/-- A STOPPED slice starts while its function grants PASIDs, masters the bus and still has its page, and it is not contained (R346). -/
theorem execSliceStart_stopped (init slice : Nat) (s t : State) (x : SliceRec) (f : FnSt)
    (htaken : (s.slcBegin init 2 slice).2 = true) (ht : t = (s.slcBegin init 2 slice).1) (hx : t.slice? slice = some x)
    (hf : t.fn? x.fn = some f) (hpasid : f.pasidEnable = true) (hmaster : f.busMaster = true) (hnative : f.personality = .native)
    (hpage : x.localNo < f.pages) (hst : x.st = .stopped) (hlifted : t.prf.contained.contains slice = false) :
    execSliceStart init slice s
      = .next ((t.setSlice slice { x with st := .running }).showGates.setF SLC_CMD.result stOk) := by
  unfold execSliceStart State.slcEnd
  simp only [htaken, ← ht, hx, hf, hpasid, hmaster, hnative, hpage, hst, hlifted, Bool.not_true, Bool.and_self, decide_true,
    beq_self_eq_true, and_self, Bool.false_eq_true, if_false, if_true]

/-- The reset sequence of a RUNNING or STOPPED slice starts, where fewer than 64 run (R347, R350). -/
theorem execSliceReset_starts (init slice : Nat) (s t : State) (x : SliceRec) (htaken : (s.slcBegin init 3 slice).2 = true)
    (ht : t = (s.slcBegin init 3 slice).1) (hx : t.slice? slice = some x) (hst : x.st = .running ∨ x.st = .stopped)
    (hseqs : t.seqCount < 64) : execSliceReset init slice s = .next ((t.sliceClose slice .resetting).setF SLC_CMD.result stOk) := by
  have hopen : ¬ (x.st ≠ .running ∧ x.st ≠ .stopped) := by tauto
  unfold execSliceReset State.slcEnd
  simp only [htaken, ← ht, hx, hopen, Nat.not_le.2 hseqs, Bool.not_true, Bool.false_eq_true, if_false]

/-- A reset sequence that runs turns into a removal; a RUNNING or STOPPED slice starts one (R346, R347). -/
theorem execSliceDestroy_starts (init slice : Nat) (s t : State) (x : SliceRec) (htaken : (s.slcBegin init 4 slice).2 = true)
    (ht : t = (s.slcBegin init 4 slice).1) (hx : t.slice? slice = some x) :
    (x.st = .resetting → execSliceDestroy init slice s
      = .next ((t.setSlice slice { x with st := .removing }).setF SLC_CMD.result stOk)) ∧
    ((x.st = .running ∨ x.st = .stopped) → t.seqCount < 64 →
      execSliceDestroy init slice s = .next ((t.sliceClose slice .removing).setF SLC_CMD.result stOk)) := by
  unfold execSliceDestroy State.slcEnd
  simp only [htaken, ← ht, hx, Bool.not_true, Bool.false_eq_true, if_false]
  refine ⟨fun hresetting => if_pos hresetting, fun hst hseqs => ?_⟩
  have hopen : x.st ≠ .resetting ∧ ¬ (x.st ≠ .running ∧ x.st ≠ .stopped) := by
    rcases hst with hst | hst <;> simp [hst]
  rw [if_neg hopen.1, if_neg hopen.2, if_neg (Nat.not_le.2 hseqs)]

/-- Every quota of a RUNNING or STOPPED slice is replaced in one step, where the pools supply the growth (R345). -/
theorem execSliceResize_supplied (init slice : Nat) (s t : State) (x y : SliceRec) (htaken : (s.slcBegin init 5 slice).2 = true)
    (ht : t = (s.slcBegin init 5 slice).1) (hx : t.slice? slice = some x) (hst : x.st = .running ∨ x.st = .stopped)
    (hy : y = t.slcQuotas x)
    (hsupplied : (allPooled.all fun k => decide (t.reserved slice y k ≤ t.pool k.pool + t.reserved slice x k)) = true) :
    execSliceResize init slice s = .next (((allPooled.foldl (fun u k =>
      u.setF SLC_POOL.free (t.pool k.pool + t.reserved slice x k - t.reserved slice y k) k.pool) t).setSlice slice y).setF
        SLC_CMD.result stOk) := by
  have hopen : ¬ (x.st ≠ .running ∧ x.st ≠ .stopped) := by tauto
  unfold execSliceResize State.slcEnd
  simp only [htaken, ← ht, hx, hopen, ← hy, hsupplied, Bool.not_true, Bool.false_eq_true, if_false, if_true]

/-- A valid window of a RUNNING or STOPPED slice is written, which makes its window set whole (R348, R363). -/
theorem execSetWindow_slice (init slice : Nat) (s t : State) (x : SliceRec) (d0 : Word) (first last : Nat)
    (htaken : (s.slcBegin init 6 slice).2 = true) (ht : t = (s.slcBegin init 6 slice).1) (hd0 : d0 = t.slcData 0)
    (hfirst : first = (t.slcData 1).bits 63 12) (hlast : last = (t.slcData 2).bits 63 12) (horder : first ≤ last)
    (hvalid : d0.bits 32 32 = 1) (hfunc : d0.bits 36 36 ≠ 1) (hx : t.slice? slice = some x) (hst : x.st = .running ∨ x.st = .stopped) :
    execSetWindow init slice s = .next ((t.setSlice slice { x with
      windows := Tab.put x.windows (d0.bits 35 33) (d0.bits 31 31 == 1, d0.bits 30 30 == 1, first, last), badWord := false }).setF
        SLC_CMD.result stOk) := by
  unfold execSetWindow State.slcEnd
  simp only [htaken, ← ht, ← hd0, ← hfirst, ← hlast, Nat.not_lt.2 horder, hvalid, hfunc, hx, hst, Bool.not_true, Bool.false_eq_true,
    if_false, if_true]

/-- A FREE identifier reads state 0 (R346). -/
theorem execSliceQuery_free (init slice : Nat) (s t : State) (htaken : (s.slcBegin init 7 slice).2 = true)
    (ht : t = (s.slcBegin init 7 slice).1) (hfree : t.slice? slice = none) :
    execSliceQuery init slice s
      = .next ((((((t.setReg .SLC_CMD_DATA (BitVec.ofNat 64 ((t.slcData 0).bits 36 36 * 2 ^ 36)) 0).setReg .SLC_CMD_DATA 0 1).setReg
          .SLC_CMD_DATA 0 2).setReg .SLC_CMD_DATA 0 3)).setF SLC_CMD.result stOk) := by
  unfold execSliceQuery State.slcEnd
  simp only [htaken, ← ht, hfree, Bool.not_true, Bool.false_eq_true, if_false]

/-! ### The reset sequence -/

/-- A block's first report in step 2 is noted; the fifth leads to step 3 (R350). -/
theorem execSliceBlockDrained_reports (slice : Nat) (blk : Fin 5) (degraded : Bool) (s a : State) (x y : SliceRec) (q : SliceSeq)
    (hx : s.slice? slice = some x) (hseq : x.seq = some q) (hstep : q.step = 2) (hfirst : q.drained.contains blk.val = false)
    (hmode : s.mode ≠ mSafeHold) (hfetched : blk.val = 0 → s.sliceFetched slice = false) (ha : a = s.sliceDrain slice blk.val)
    (hy : a.slice? slice = some y) :
    execSliceBlockDrained slice blk degraded s = .next (a.setSlice slice { y with
      seq := some { q with
        drained := insertNat q.drained blk.val, lastReport := s.now, degraded := q.degraded || degraded
        step := if q.drained.length + 1 = 5 then 3 else 2 } }) := by
  have hproceeds : ¬ (q.step ≠ 2 ∨ q.drained.contains blk.val = true ∨ s.mode = mSafeHold ∨
      (blk.val = 0 ∧ s.sliceFetched slice = true)) := by
    rintro (h | h | h | ⟨h, hfetch⟩)
    · exact h hstep
    · exact ne_true_of_eq_false hfirst h
    · exact hmode h
    · exact ne_true_of_eq_false (hfetched h) hfetch
  unfold execSliceBlockDrained
  simp only [hx, hseq, if_neg hproceeds, ← ha, hy]

/-- The silence after the last report ends and the slice is cleared (R350). -/
theorem execSliceSilenceDone_clears (slice : Nat) (s a : State) (x y : SliceRec) (q : SliceSeq) (hx : s.slice? slice = some x)
    (hseq : x.seq = some q) (hstep : q.step = 3) (hmode : s.mode ≠ mSafeHold)
    (ha : a = (s.after (q.lastReport + 2 * usT)).sliceClear slice) (hy : a.slice? slice = some y) :
    execSliceSilenceDone slice s = .next (a.setSlice slice { y with seq := some { q with step := 4 } }) := by
  unfold execSliceSilenceDone
  simp only [hx, hseq, hstep, hmode, ← ha, hy, ne_eq, not_true_eq_false, or_self, if_false]

/-- After the clear step a slice to be removed goes on, another is STOPPED and reported (R350). -/
theorem execSliceResetEnd_ends (slice : Nat) (s : State) (x : SliceRec) (q : SliceSeq) (hx : s.slice? slice = some x)
    (hseq : x.seq = some q) (hstep : q.step = 4) (hmode : s.mode ≠ mSafeHold) :
    execSliceResetEnd slice s =
      if x.st = .removing then .next (s.setSlice slice { x with seq := some { q with step := 5 } })
      else .next ((s.setSlice slice { x with st := .stopped, seq := none }).showGates.postDone slice false
        (if q.degraded then stDegraded else stOk)) := by
  unfold execSliceResetEnd
  simp only [hx, hseq, hstep, hmode, ne_eq, not_true_eq_false, or_self, if_false]

/-- A removal ends with the slice gone and reported (R353). -/
theorem execSliceRemovalDone_removes (slice : Nat) (s : State) (x : SliceRec) (q : SliceSeq) (hx : s.slice? slice = some x)
    (hseq : x.seq = some q) (hstep : q.step = 5) :
    execSliceRemovalDone slice s
      = .next ((s.sliceRemove slice).postDone slice true (if q.degraded then stDegraded else stOk)) := by
  unfold execSliceRemovalDone
  simp only [hx, hseq, hstep, ne_eq, not_true_eq_false, if_false]

/-! ### Access tables -/

/-- The selected rule of an unsealed target takes both words (R360). -/
theorem execActWrite_unsealed (init : Nat) (s a : State) (t k : Nat) (htaken : (s.actBegin init 1).2 = true)
    (ha : a = (s.actBegin init 1).1) (ht : t = a.getF ACT_SEL.target) (hk : k = t * 32 + a.getF ACT_SEL.rule) (htarget : t ≤ 35)
    (hopen : natBit (a.getF ACT_SEAL.sealed) t = false) :
    execActWrite init s = .next ({ a with slc := { a.slc with
      rules := Tab.setD ((actDefaults t).getD (a.getF ACT_SEL.rule) (0, 0)) a.slc.rules k (a.reg .ACT_RULE 0, a.reg .ACT_RULE 1)
      badRules := a.slc.badRules.filter (· != k) } }.setF ACT_CMD.result stOk) := by
  unfold execActWrite
  simp only [htaken, ← ha, ← ht, ← hk, Nat.not_lt.2 htarget, hopen, Bool.not_true, Bool.false_eq_true, if_false]

/-- The selected rule is read into ACT_RULE (R360). -/
theorem execActRead_reads (init : Nat) (s a : State) (w : Word × Word) (htaken : (s.actBegin init 2).2 = true)
    (ha : a = (s.actBegin init 2).1) (htarget : a.getF ACT_SEL.target ≤ 35)
    (hw : w = a.ruleAt (a.getF ACT_SEL.target) (a.getF ACT_SEL.rule)) :
    execActRead init s = .next (((a.setReg .ACT_RULE w.1 0).setReg .ACT_RULE w.2 1).setF ACT_CMD.result stOk) := by
  unfold execActRead
  simp only [htaken, ← ha, Nat.not_lt.2 htarget, ← hw, Bool.not_true, Bool.false_eq_true, if_false]

/-- A 64-bit write seals each target whose bit it sets (R360). -/
theorem execActSealWrite_reached (init v : Nat) (s : State) (h : (s.blockAccess 25 .write init 0x20).2 = true) :
    execActSealWrite init true v s =
      let a := (s.blockAccess 25 .write init 0x20).1
      .next (a.setF ACT_SEAL.sealed (a.getF ACT_SEAL.sealed ||| (v % 2 ^ 36))) := by
  unfold execActSealWrite
  simp only [h, Bool.not_true, Bool.false_eq_true, if_false, if_true]

/-- The head of the denial log goes (R359). -/
theorem execActLogPop_reached (init : Nat) (s : State) (h : (s.blockAccess 25 .write init 0x50).2 = true) :
    execActLogPop init s =
      let a := (s.blockAccess 25 .write init 0x50).1
      .next { a with slc := { a.slc with denials := a.slc.denials.drop 1 } }.showDenials := by
  unfold execActLogPop
  simp only [h, Bool.not_true, Bool.false_eq_true, if_false]

/-- Settles O23: each command's clause is its lemma above. -/
theorem completeSlices : Obligations.CompleteSlices := by
  unfold Obligations.CompleteSlices
  refine ⟨?create, ?start, ?reset, ?destroy, ?resize, ?window, ?query, ?drained, ?silence, ?resetEnd, ?removal, ?actWrite, ?actRead,
    ?actSeal, ?actPop⟩
  case create =>
    intro init slice s b htaken d0 f l pasid hfree hnative hpage hnew fresh x hquotas hslices hwindows
    exact execSliceCreate_granted init slice s b.1 f l pasid x htaken rfl rfl rfl rfl hfree hnative hpage hnew rfl hquotas hslices hwindows
  case start =>
    intro init slice s b htaken x f
    exact execSliceStart_stopped init slice s b.1 x f htaken rfl
  case reset =>
    intro init slice s b htaken x
    exact execSliceReset_starts init slice s b.1 x htaken rfl
  case destroy =>
    intro init slice s b htaken x
    exact execSliceDestroy_starts init slice s b.1 x htaken rfl
  case resize =>
    intro init slice s b htaken x hx hst y held hsupplied
    exact execSliceResize_supplied init slice s b.1 x y htaken rfl hx hst rfl hsupplied
  case window =>
    intro init slice s b htaken d0 first last horder hvalid hfunc x hx hst y
    exact execSetWindow_slice init slice s b.1 x d0 first last htaken rfl rfl rfl rfl horder hvalid hfunc hx hst
  case query =>
    intro init slice s b htaken hfree a
    exact execSliceQuery_free init slice s b.1 htaken rfl hfree
  case drained =>
    intro slice blk degraded s x y q hx hseq hstep hfirst hmode hfetched a hy n
    exact execSliceBlockDrained_reports slice blk degraded s a x y q hx hseq hstep hfirst hmode hfetched rfl hy
  case silence =>
    intro slice s x y q hx hseq hstep hmode a hy
    exact execSliceSilenceDone_clears slice s a x y q hx hseq hstep hmode rfl hy
  case resetEnd =>
    intro slice s x q hx hseq hstep hmode
    have hend : exec (.sliceResetEnd slice) s = _ := execSliceResetEnd_ends slice s x q hx hseq hstep hmode
    exact ⟨fun hremoving => hend.trans (if_pos hremoving), fun hstays => hend.trans (if_neg hstays)⟩
  case removal =>
    exact execSliceRemovalDone_removes
  case actWrite =>
    intro init s b htaken t k htarget hopen d slc
    exact execActWrite_unsealed init s b.1 t k htaken rfl rfl rfl htarget hopen
  case actRead =>
    intro init s b htaken htarget w
    exact execActRead_reads init s b.1 w htaken rfl htarget rfl
  case actSeal =>
    exact execActSealWrite_reached
  case actPop =>
    exact execActLogPop_reached

end Sys2Proof.Machine
end

section
/-! SUPPORT. Concrete states that meet the conditions of the statement on slices, at the bounds where clauses meet. They are evaluated one
after another, as those on the transport are. -/

namespace Sys2Proof.Machine

set_option Elab.async false

/-- A NATIVE function of two pages that grants PASIDs and masters the bus. -/
def nativeFn : FnSt := { windowFn with personality := .native, pages := 2, busMaster := true, pasidEnable := true }

/-- A register of several words takes them. -/
def State.setWords (s : State) (r : Reg) (d : List Nat) : State := d.zipIdx.foldl (fun u x => u.setReg r (BitVec.ofNat 64 x.1) x.2) s

/-- In mode `m`, PF0 of link 0 is that function. -/
def nativeState (m : Nat) : State := (servingState.setF MODE_STATE.mode m).setFn 0x800 nativeFn

/-- A slice of that function, on its last page. -/
def boundSlice (st : SliceState) (seq : Option SliceSeq) : SliceRec := { SliceRec.bound 0x800 1 7 with st := st, seq := seq }

def sliceState (m g : Nat) (st : SliceState) (seq : Option SliceSeq) : State :=
  { nativeState m with slc := { (nativeState m).slc with slices := [(g, boundSlice st seq)] } }

/-- Who owns the configuration, by mode. -/
def ownerCases : List (Nat × Nat) := [(mAutonomous, 0), (mManaged, 0x800)]

/-- The first slice and the last. -/
def sliceCases : List Nat := [0, 0x3FFE]

/-! ### Slice commands -/

/-- A free slice on the last page of its function, with the greatest PASID, and with no quota or with every submission ring but one of
the pool. -/
theorem nativeState_sliceCreate : ∀ o ∈ ownerCases, ∀ g ∈ sliceCases, ∀ q ∈ [0, 65535],
    let s := (nativeState o.1).setWords .SLC_CMD_DATA [2 ^ 37 + (2 ^ 20 - 1), q * 2 ^ 48, 0, 0]
    let b := s.slcBegin o.2 1 g
    let d0 := b.1.slcData 0
    let f := b.1.slcFunction d0
    let x := b.1.slcQuotas (.bound f (d0.bits 50 37) (d0.bits 19 0))
    b.2 = true ∧ b.1.slice? g = none ∧ b.1.isNative f = true ∧ d0.bits 50 37 + 1 = ((b.1.fn? f).map FnSt.pages).getD 0 ∧
      d0.bits 19 0 = 2 ^ 20 - 1 ∧ b.1.slc.slices = [] ∧ x.sqRings = q ∧
      (allPooled.all fun k => decide (x.quota k ≤ b.1.pool k.pool)) = true ∧ 1 ≤ b.1.pool 2 ∧ 1 ≤ b.1.pool 7 := by decide +kernel

/-- STOPPED, not contained, its function lets it start; RUNNING or STOPPED, it may be reset, destroyed or resized. -/
theorem sliceState_commands : ∀ o ∈ ownerCases, ∀ g ∈ sliceCases, ∀ st ∈ [SliceState.stopped, .running], ∀ op ∈ [2, 3, 4, 5],
    let b := (sliceState o.1 g st none).slcBegin o.2 op g
    let y := b.1.slcQuotas (boundSlice st none)
    b.2 = true ∧ b.1.slice? g = some (boundSlice st none) ∧ b.1.fn? 0x800 = some nativeFn ∧
      (boundSlice st none).localNo + 1 = nativeFn.pages ∧ b.1.prf.contained.contains g = false ∧ b.1.seqCount = 0 ∧
      (allPooled.all fun k =>
        decide (b.1.reserved g y k ≤ b.1.pool k.pool + b.1.reserved g (boundSlice st none) k)) = true := by decide +kernel

/-- The last window of it, of one page, is set by its owner; a query finds no other slice. -/
theorem sliceState_windows : ∀ o ∈ ownerCases, ∀ g ∈ sliceCases, ∀ page ∈ [0, 2 ^ 52 - 1],
    let s := (sliceState o.1 g .running none).setWords .SLC_CMD_DATA [7 * 2 ^ 33 + 2 ^ 32, page * 2 ^ 12, page * 2 ^ 12]
    let b := s.slcBegin o.2 6 g
    b.2 = true ∧ (b.1.slcData 1).bits 63 12 ≤ (b.1.slcData 2).bits 63 12 ∧ (b.1.slcData 1).bits 63 12 = page ∧
      (b.1.slcData 0).bits 32 32 = 1 ∧ (b.1.slcData 0).bits 35 33 = 7 ∧ (b.1.slcData 0).bits 36 36 ≠ 1 ∧
      b.1.slice? g = some (boundSlice .running none) ∧ (s.slcBegin o.2 7 5).2 = true ∧ (s.slcBegin o.2 7 5).1.slice? 5 = none := by
  decide +kernel

/-! ### The reset sequence -/

/-- A sequence at a step, with the reports of these blocks in. -/
def seqAt (step : Nat) (drained : List Nat) : SliceSeq := ⟨step, 0, drained, 0, false⟩

/-- The first block of the sequence may report, and the last one when all others have. -/
theorem sliceState_blockDrained : ∀ g ∈ sliceCases, ∀ st ∈ [SliceState.resetting, .removing],
    ∀ p ∈ [(0, []), (4, [0, 1, 2, 3])], let s := sliceState mManaged g st (some (seqAt 2 p.2))
    s.slice? g = some (boundSlice st (some (seqAt 2 p.2))) ∧ (seqAt 2 p.2).drained.contains p.1 = false ∧ s.mode ≠ mSafeHold ∧
      s.sliceFetched g = false ∧ (s.sliceDrain g p.1).slice? g = some (boundSlice st (some (seqAt 2 p.2))) := by decide +kernel

/-- The silence and the end of a sequence that resets its slice or removes it. -/
theorem sliceState_silence : ∀ g ∈ sliceCases, ∀ st ∈ [SliceState.resetting, .removing], ∀ step ∈ [3, 4, 5],
    let s := sliceState mManaged g st (some (seqAt step [0, 1, 2, 3, 4]))
    s.slice? g = some (boundSlice st (some (seqAt step [0, 1, 2, 3, 4]))) ∧ s.mode ≠ mSafeHold ∧
      (((s.after (0 + 2 * usT)).sliceClear g).slice? g).isSome = true := by decide +kernel

/-! ### The access tables -/

/-- The first target and the last, not sealed, whose last rule firmware writes and reads, and a denial to pop. -/
theorem servingState_accessTables : ∀ target ∈ [0, 35],
    let s := (servingState.setF ACT_SEL.target target).setF ACT_SEL.rule 31
    (s.actBegin 0 1).2 = true ∧ (s.actBegin 0 2).2 = true ∧ (s.actBegin 0 1).1.getF ACT_SEL.target = target ∧
      natBit ((s.actBegin 0 1).1.getF ACT_SEAL.sealed) target = false ∧ (s.blockAccess 25 .write 0 0x20).2 = true ∧
      (s.blockAccess 25 .write 0 0x50).2 = true := by decide +kernel

end Sys2Proof.Machine
end
section
/-! SUPPORT. What NVMe controllers answer to their own events on the path that nothing stops (R365, R366, R379, R380, R385-R387). -/

namespace Sys2Proof.Machine

/-! ### Enabling, resets and shutdowns -/

/-- CC.EN rises in a controller that is off and in no reset (R366). -/
theorem execControllerEnable_off (c : Fin 1024) (cc : BitVec 32) (s : State) (x : NvmeCtrl) (hctrl : s.ctrl? c.val = some x)
    (hoff : x.enabled = false) (hrises : natBit cc.toNat 0 = true) (hreset : x.resetAt = none) :
    execControllerEnable c cc s = .next (s.enableCtrl c.val x cc.toNat) := by
  unfold execControllerEnable
  simp only [hctrl, hoff, hrises, hreset, Option.isSome_none, Bool.false_eq_true, Bool.true_eq_false, or_self, if_false]

/-- CC.EN falls in an enabled controller, whose reset starts (R379). -/
theorem execControllerReset_enabled (c : Fin 1024) (s : State) (x : NvmeCtrl) (hctrl : s.ctrl? c.val = some x) (hon : x.enabled = true) :
    execControllerReset c s = .next (s.startCtrlReset c.val).nvmeSettle := by
  unfold execControllerReset
  simp only [hctrl, hon, if_true]

/-- A discarded message leaves, with the outbound record that carries it (R379). -/
def State.squashMsg (s : State) (p : Nat × NveMsg) : State :=
  (match p.2.st with | .inflight r => s.dropOut r | _ => s).dropMsg p.1

/-- 2 s after a reset began its discarded messages are squashed and it ends (R379). -/
theorem execControllerResetTimeout_resetting (c : Fin 1024) (s a : State) (x : NvmeCtrl) (t : Nat) (mine : List (Nat × NveMsg))
    (hctrl : s.ctrl? c.val = some x) (hreset : x.resetAt = some t) (ha : a = s.after (t + 2 * secT))
    (hmine : mine = a.nve.msgs.filter fun p => p.2.discard && a.msgCtrl p.2 == some c.val) :
    execControllerResetTimeout c s
      = .next (((mine.foldl State.squashMsg a).nveCount 7 mine.length).endCtrlReset c.val).nvmeSettle := by
  unfold execControllerResetTimeout
  simp only [hctrl, hreset, ← ha, ← hmine]
  rfl

/-! ### Doorbells -/

/-- A tail doorbell within its queue takes its value, then the reads fetch in order (R365; what they return is log 134). -/
theorem execNvmeDoorbell_tail (c : Fin 1024) (qid value : Nat) (reads : List (Nat × List Byte)) (s : State) (x : NvmeCtrl) (k : NvmeSq)
    (hctrl : s.ctrl? c.val = some x) (hqueue : Tab.look x.sqs qid = some k) (hvalue : value < k.size) :
    execNvmeDoorbell c false qid value reads s = .next (reads.foldl (fun t r => t.fetchCmd c.val r.1 r.2)
      (s.setCtrl c.val { x with sqs := Tab.put x.sqs qid { k with tail := value } })).nvmeSettle := by
  unfold execNvmeDoorbell
  simp only [hctrl, hqueue, hvalue, Bool.false_eq_true, if_false, if_true]

/-- A head doorbell within its queue makes room for stashed completions, then the reads fetch in order (R365, R373). -/
theorem execNvmeDoorbell_head (c : Fin 1024) (qid value : Nat) (reads : List (Nat × List Byte)) (s u : State) (x : NvmeCtrl) (k : NvmeCq)
    (hctrl : s.ctrl? c.val = some x) (hqueue : Tab.look x.cqs qid = some k) (hvalue : value < k.size)
    (hu : u = s.setCtrl c.val { x with cqs := Tab.put x.cqs qid { k with head := value } }) :
    execNvmeDoorbell c true qid value reads s = .next (reads.foldl (fun t r => t.fetchCmd c.val r.1 r.2)
      (u.cqDrain c.val qid (k.stash.length + x.cmds.length))).nvmeSettle := by
  unfold execNvmeDoorbell
  simp only [hctrl, hqueue, hvalue, ← hu, if_true]

/-! ### Power and counters -/

/-- An idle controller goes to the power state that its table names (R385; an outstanding event request does not keep it, log 140). -/
theorem execApstIdle_idle (c : Fin 1024) (s : State) (x : NvmeCtrl) (e : Nat) (hctrl : s.ctrl? c.val = some x)
    (he : e = leNat (sliceBytes x.feat.apst (8 * x.feat.ps) 8)) (hready : x.rdy = true) (hapst : x.feat.apste = true)
    (hoperational : x.feat.ps ≤ 2) (htime : e / 256 % 2 ^ 24 ≠ 0) (htarget : e / 8 % 32 ≤ 4)
    (hidle : x.cmds.any (fun m => m.st != .event) = false) :
    execApstIdle c s = .next ((s.after (x.idleSince + e / 256 % 2 ^ 24 * msT)).setCtrl c.val
      { x with psBack := some x.feat.ps, feat := { x.feat with ps := e / 8 % 32 } }) := by
  unfold execApstIdle
  simp only [hctrl, ← he, hready, hapst, Nat.not_lt.2 hoperational, beq_eq_false_iff_ne.2 htime, Nat.not_lt.2 htarget, hidle,
    Bool.not_true, decide_false, Bool.or_self, Bool.false_eq_true, if_false]

/-- Settles O45: each command's clause is its lemma above. Which queues a doorbell's fetches read is log 134, and that an outstanding
event request does not keep a controller from its power state is log 140: choices of the model beside R365 and R385. -/
theorem completeControllers : Obligations.CompleteControllers := by
  unfold Obligations.CompleteControllers
  refine ⟨?enable, ?reset, ?resetTimeout, fun _ _ => rfl, fun _ _ => rfl, ?doorbell, fun _ _ _ => rfl, ?apst, fun _ => rfl⟩
  case enable =>
    exact execControllerEnable_off
  case reset =>
    exact execControllerReset_enabled
  case resetTimeout =>
    intro c s x t hctrl hreset a mine b
    exact execControllerResetTimeout_resetting c s a x t mine hctrl hreset rfl rfl
  case doorbell =>
    intro c qid value reads s x hctrl
    exact ⟨fun k hqueue hvalue => execNvmeDoorbell_tail c qid value reads s x k hctrl hqueue hvalue,
      fun k hqueue hvalue => execNvmeDoorbell_head c qid value reads s _ x k hctrl hqueue hvalue rfl⟩
  case apst =>
    intro c s x hctrl e hready hapst hoperational htime htarget hidle
    exact execApstIdle_idle c s x e hctrl rfl hready hapst hoperational htime htarget hidle

end Sys2Proof.Machine
end

section
/-! SUPPORT. What NVMe admin commands answer on the path that nothing stops (R367, R370, R372, R378, R382, R386, R387). -/

namespace Sys2Proof.Machine

/-! ### A command whose turn it is -/

/-- Command `m` of operation `op` is the next of its queue that controller `c` runs, and commands are not held (R371, R388). -/
structure State.CmdTurn (s : State) (c sq op : Nat) (x : NvmeCtrl) (m : NvmeCmd) : Prop where
  ctrl : s.ctrl? c = some x
  next : x.cmds.find? (fun k => k.sq == sq && k.st == .fetched) = some m
  op : m.op = op
  free : s.nveHeld = false

/-- A command whose turn it is does its work, then what waits goes on. -/
theorem State.CmdTurn.onCmd_eq {s u : State} {c sq op : Nat} {x : NvmeCtrl} {m : NvmeCmd} {f : NvmeCtrl → NvmeCmd → State}
    (h : s.CmdTurn c sq op x m) (hwork : f x m = u) : s.onCmd c sq op f = .next u.nvmeSettle := by
  rw [s.onCmd_runs c sq op f x m h.ctrl h.next h.op h.free, hwork]

section
variable {c : Fin 1024} {s : State} {x : NvmeCtrl} {m : NvmeCmd} {prps : List Nat} {data : List Byte}

/-! ### Queue commands -/

/-- A Delete of a submission queue without commands of its own waits for the queue to go (R372). -/
theorem execDeleteIoSubmissionQueue_unused (hturn : s.CmdTurn c.val 0 0 x m) (q : Nat) (k : NvmeSq) (hq : q = m.dw 10 % 65536)
    (hlook : Tab.look x.sqs q = some k) (hio : q ≠ 0) (hstays : k.deleting = false) (hunused : x.cmds.all (fun n => n.sq != q) = true) :
    execDeleteIoSubmissionQueue c s = .next ((s.setCtrl c.val { x with sqs := Tab.put x.sqs q { k with deleting := true } }).setCmd
      c.val 0 m.cid (.deleting q)).nvmeSettle := by
  have hcut (p : NvmeCmd → Bool) : x.cmds.filter (fun n => n.sq == q && p n) = [] := by
    refine List.filter_eq_nil_iff.2 fun n hn => ?_
    simp [bne_iff_ne.1 (List.all_eq_true.1 hunused n hn)]
  refine hturn.onCmd_eq ?_
  simp only [← hq, hlook, hio, hstays, hcut, Bool.false_eq_true, or_self, if_false, List.foldl_nil]

/-- A new submission queue of a supported size, on a completion queue that there is (R367). -/
theorem execCreateIoSubmissionQueue_new (hturn : s.CmdTurn c.val 0 1 x m) (q size base cq : Nat) (hq : q = m.dw 10 % 65536)
    (hsize : size = m.dw 10 / 65536 + 1) (hbase : base = leNat (sliceBytes m.sqe 24 8)) (hcq : cq = m.dw 11 / 65536) (hio : q ≠ 0)
    (hgrant : q ≤ x.feat.grant) (hnew : Tab.has x.sqs q = false) (hmin : 2 ≤ size) (hmax : size ≤ 4096) (hcqIo : cq ≠ 0)
    (hcqHas : Tab.has x.cqs cq = true) (hcontiguous : m.dw 11 % 2 ≠ 0) (haligned : base % x.page = 0) :
    execCreateIoSubmissionQueue c s = .next ((s.setCtrl c.val { x with sqs := Tab.put x.sqs q ⟨base, size, 0, 0, cq, false⟩ }).nvmeEnd
      c.val 0 m.cid nvOk).nvmeSettle := by
  refine hturn.onCmd_eq ?_
  simp only [← hq, ← hsize, ← hbase, ← hcq, hio, Nat.not_lt.2 hgrant, hnew, Nat.not_lt.2 hmin, Nat.not_lt.2 hmax, hcqIo, hcqHas,
    hcontiguous, haligned, Bool.false_eq_true, Bool.true_eq_false, or_self, ne_eq, not_true_eq_false, if_false]

/-- A completion queue that no submission queue names goes (R372). -/
theorem execDeleteIoCompletionQueue_unused (hturn : s.CmdTurn c.val 0 4 x m) (q : Nat) (hq : q = m.dw 10 % 65536) (hio : q ≠ 0)
    (hhas : Tab.has x.cqs q = true) (hunused : x.sqs.any (fun p => p.2.cq == q) = false) :
    execDeleteIoCompletionQueue c s
      = .next ((s.setCtrl c.val { x with cqs := Tab.del x.cqs q }).nvmeEnd c.val 0 m.cid nvOk).nvmeSettle := by
  refine hturn.onCmd_eq ?_
  simp only [← hq, hio, hhas, hunused, Bool.false_eq_true, Bool.true_eq_false, or_self, if_false]

/-- A new completion queue of a supported size, on a vector that its function has (R367). -/
theorem execCreateIoCompletionQueue_new (hturn : s.CmdTurn c.val 0 5 x m) (q size base iv : Nat) (f : FnSt) (hq : q = m.dw 10 % 65536)
    (hsize : size = m.dw 10 / 65536 + 1) (hbase : base = leNat (sliceBytes m.sqe 24 8)) (hiv : iv = m.dw 11 / 65536)
    (hf : s.fn? x.fn = some f) (hmsix : f.msixEnable = true) (hvector : iv < f.msixEntries) (hio : q ≠ 0) (hgrant : q ≤ x.feat.grantCq)
    (hnew : Tab.has x.cqs q = false) (hmin : 2 ≤ size) (hmax : size ≤ 4096) (hcontiguous : m.dw 11 % 2 ≠ 0)
    (haligned : base % x.page = 0) :
    execCreateIoCompletionQueue c s = .next ((s.setCtrl c.val { x with
      cqs := Tab.put x.cqs q ⟨base, size, 0, 0, true, iv, natBit (m.dw 11) 1, [], 0, 0⟩ }).nvmeEnd c.val 0 m.cid nvOk).nvmeSettle := by
  refine hturn.onCmd_eq ?_
  simp only [← hq, ← hsize, ← hbase, ← hiv, hf, hmsix, Option.map_some, Option.getD_some, Nat.not_le.2 hvector, hio,
    Nat.not_lt.2 hgrant, hnew, Nat.not_lt.2 hmin, Nat.not_lt.2 hmax, hcontiguous, haligned, Bool.false_eq_true, or_self, ne_eq,
    not_true_eq_false, if_false, if_true]

/-! ### Identify, logs and features -/

/-- Identify Controller, with the bytes that nothing states free (R370, log 133). -/
theorem execNvmeIdentify_controller (hturn : s.CmdTurn c.val 0 6 x m) (d : List Byte × State) (hd : d = s.drawBytes 4096)
    (hcns : m.dw 10 % 256 = 1) : execNvmeIdentify c prps s
      = .next (d.2.endWithData c.val x m (identifyCtrl x s.fuse.serial.toNat c.val d.1) prps).nvmeSettle := by
  refine hturn.onCmd_eq ?_
  simp only [← hd, hcns]

/-- A log page from an offset within it, with RAE at 1 (R386; the bytes beyond the page are free, log 133). -/
theorem execGetLogPage_retaining (hturn : s.CmdTurn c.val 0 2 x m) (n off : Nat) (d e : List Byte × State) (p body : List Byte)
    (hn : n = 4 * (m.dw 11 % 65536 * 65536 + m.dw 10 / 65536 + 1)) (hoff : off = leNat (sliceBytes m.sqe 48 8))
    (hd : d = s.drawBytes 512) (hpage : s.logPage x (m.dw 10 % 256) d.1 = some p) (hstart : off ≤ p.length) (hlength : n ≤ mib)
    (hrae : natBit (m.dw 10) 15 = true) (hbody : body = (p.drop off).take n) (he : e = d.2.drawBytes (n - body.length)) :
    execGetLogPage c prps s = .next (((e.2.setCtrl c.val { x with told := x.told }).endWithData c.val { x with told := x.told } m
      (body ++ e.1) prps).aerTry c.val).nvmeSettle := by
  refine hturn.onCmd_eq ?_
  simp only [← hn, ← hoff, ← hd, hpage, Nat.not_lt.2 hstart, Nat.not_lt.2 hlength, hrae, ← hbody, ← he, or_self, if_false, if_true]

/-- A feature other than the APST table is returned in DW0 (R386). -/
theorem execGetFeatures_value (hturn : s.CmdTurn c.val 0 10 x m) (v : Nat) (hv : x.feature (m.dw 10 % 256) (m.dw 11) = some v)
    (hplain : m.dw 10 % 256 ≠ 0x0C) : execGetFeatures c prps s = .next (s.nvmeEnd c.val 0 m.cid nvOk v).nvmeSettle := by
  refine hturn.onCmd_eq ?_
  simp only [hv, hplain, if_false]

/-- A power state of Table 13-2 is taken (R385). -/
theorem execSetFeatures_powerState (hturn : s.CmdTurn c.val 0 9 x m) (hsave : natBit (m.dw 10) 31 = false)
    (hfid : m.dw 10 % 256 = 0x02) (hps : m.dw 11 % 32 ≤ 4) :
    execSetFeatures c prps data s = .next ((s.setCtrl c.val { x with feat := { x.feat with ps := m.dw 11 % 32 }, psBack := none }).nvmeEnd
      c.val 0 m.cid nvOk 0).nvmeSettle := by
  refine hturn.onCmd_eq ?_
  simp only [hsave, hfid, Nat.not_lt.2 hps, Bool.false_eq_true, if_false]

/-! ### Abort and events -/

/-- An Abort of a command that has not begun ends it at once (R378, log 139). -/
theorem execNvmeAbort_fetched (hturn : s.CmdTurn c.val 0 8 x m) (sq cid : Nat) (n : NvmeCmd) (hsq : sq = m.dw 10 % 65536)
    (hcid : cid = m.dw 10 / 65536) (htarget : x.cmds.find? (fun n => n.is sq cid && !n.is 0 m.cid) = some n) (hst : n.st = .fetched) :
    execNvmeAbort c s = .next ((((s.cutCmd n).nvmeEnd c.val sq cid nvAbortRequested).nveCount 4).nvmeEnd c.val 0 m.cid nvOk
      0).nvmeSettle := by
  refine hturn.onCmd_eq ?_
  simp only [← hsq, ← hcid, htarget, hst]

/-- The one event request that a controller holds (R387, log 140). -/
theorem execAsynchronousEventRequest_first (hturn : s.CmdTurn c.val 0 12 x m) (hfirst : x.cmds.any (fun n => n.st == .event) = false) :
    execAsynchronousEventRequest c s = .next ((s.setCmd c.val 0 m.cid .event).aerTry c.val).nvmeSettle := by
  refine hturn.onCmd_eq ?_
  simp only [hfirst, Bool.false_eq_true, if_false]

/-! ### Firmware -/

/-- A piece that lies in the staging area and overlaps no other joins it (R382). -/
theorem execFirmwareImageDownload_joins (hturn : s.CmdTurn c.val 0 17 x m) (n off : Nat) (g : State × Nat × List (Nat × Nat))
    (r : State × Bool) (hn : n = 4 * (m.dw 10 % 2 ^ 32 + 1)) (hoff : off = 4 * (m.dw 11 % 2 ^ 32)) (hfw : x.fwEn = true)
    (hlength : n ≤ mib) (hgranular : n % fwGranule = 0) (haligned : off % fwGranule = 0) (hfits : off + n ≤ slotSize)
    (hnew : x.pieces.any (fun p => decide (p.1 < off + n) && decide (off < p.1 + p.2.length)) = false) (hg : g = s.cmdSegs x m n prps)
    (hsegs : g.2.1 = nvOk) (hr : r = g.1.hostReads x.fn g.2.2) (hread : r.2 = true) :
    execFirmwareImageDownload c prps data s = .next ((r.1.setCtrl c.val { x with pieces := x.pieces ++ [(off, fitBytes n data)] }).nvmeEnd
      c.val 0 m.cid nvOk).nvmeSettle := by
  refine hturn.onCmd_eq ?_
  simp only [← hn, ← hoff, hfw, Nat.not_lt.2 hlength, hgranular, haligned, Nat.not_lt.2 hfits, hnew, ← hg, hsegs, ← hr, hread,
    Bool.not_true, Bool.false_eq_true, or_self, ne_eq, not_true_eq_false, if_false]

/-- Action 0 writes a valid staged image to the inactive slot, which it names (R382, R383, log 118). -/
theorem execFirmwareCommit_writes (hturn : s.CmdTurn c.val 0 16 x m) (target : Nat) (htarget : target = m.dw 10 % 8)
    (hnamed : target ≠ 0) (haction : m.dw 10 / 8 % 8 = 0) (hfw : x.fwEn = true) (hmin : 2 ≤ target) (hmax : target ≤ 3)
    (hother : target ≠ s.nvmeActiveSlot) (hidle : s.flag UPD_CMD.busy = false) (hinactive : target - 2 = s.inactiveSlot)
    (hvalid : s.heldReason (stagedImage x.pieces) = 0) (hallowed : s.updReason 1 false = 0) (hclosed : s.upd.header = none) :
    execFirmwareCommit c s = .next (((s.setCtrl c.val { x with pieces := [] }).stageToSlot (target - 2) (stagedImage x.pieces)).nvmeEnd
      c.val 0 m.cid nvOk).nvmeSettle := by
  refine hturn.onCmd_eq ?_
  have hslots : ¬ (target < 2 ∨ 3 < target ∨ target = s.nvmeActiveSlot) := by omega
  simp only [← htarget, hnamed, haction, hfw, hslots, hidle, ← hinactive, hvalid, hallowed, hclosed, Option.isSome_none, Bool.not_true,
    Bool.false_eq_true, or_self, ne_eq, not_true_eq_false, Nat.not_lt_zero, OfNat.zero_ne_ofNat, if_false, if_true]

end

/-- Settles O46: each command's clause is its lemma above. The free bytes of Identify and of the logs are log 133, that an Abort ends
its target at once log 139, the one event request log 140, and Firmware Commit's use of the slots log 118: choices of the model beside
R370, R378, R382 and R387. -/
theorem completeAdminCommands : Obligations.CompleteAdminCommands := by
  unfold Obligations.CompleteAdminCommands
  refine ⟨?deleteSq, ?createSq, ?deleteCq, ?createCq, ?identify, ?logPage, ?getFeatures, ?setFeatures, ?abort, ?event, ?download,
    ?commit⟩
  case deleteSq =>
    intro c s x m hctrl hnext hop hfree q k hlook hio hstays a hunused
    exact execDeleteIoSubmissionQueue_unused ⟨hctrl, hnext, hop, hfree⟩ q k rfl hlook hio hstays hunused
  case createSq =>
    intro c s x m hctrl hnext hop hfree q size base cq
    exact execCreateIoSubmissionQueue_new ⟨hctrl, hnext, hop, hfree⟩ q size base cq rfl rfl rfl rfl
  case deleteCq =>
    intro c s x m hctrl hnext hop hfree q
    exact execDeleteIoCompletionQueue_unused ⟨hctrl, hnext, hop, hfree⟩ q rfl
  case createCq =>
    intro c s x m hctrl hnext hop hfree q size base iv f
    exact execCreateIoCompletionQueue_new ⟨hctrl, hnext, hop, hfree⟩ q size base iv f rfl rfl rfl rfl
  case identify =>
    intro c prps s x m hctrl hnext hop hfree d
    exact execNvmeIdentify_controller ⟨hctrl, hnext, hop, hfree⟩ d rfl
  case logPage =>
    intro c prps s x m hctrl hnext hop hfree lid n off d p hpage hstart hlength hrae body e
    exact execGetLogPage_retaining ⟨hctrl, hnext, hop, hfree⟩ n off d e p body rfl rfl rfl hpage hstart hlength hrae rfl rfl
  case getFeatures =>
    intro c prps s x m hctrl hnext hop hfree
    exact execGetFeatures_value ⟨hctrl, hnext, hop, hfree⟩
  case setFeatures =>
    intro c prps data s x m hctrl hnext hop hfree
    exact execSetFeatures_powerState ⟨hctrl, hnext, hop, hfree⟩
  case abort =>
    intro c s x m hctrl hnext hop hfree sq cid n
    exact execNvmeAbort_fetched ⟨hctrl, hnext, hop, hfree⟩ sq cid n rfl rfl
  case event =>
    intro c s x m hctrl hnext hop hfree
    exact execAsynchronousEventRequest_first ⟨hctrl, hnext, hop, hfree⟩
  case download =>
    intro c prps data s x m hctrl hnext hop hfree n off hfw hlength hgranular haligned hfits hnew g hsegs r hread
    exact execFirmwareImageDownload_joins ⟨hctrl, hnext, hop, hfree⟩ n off g r rfl rfl hfw hlength hgranular haligned hfits hnew rfl
      hsegs rfl hread
  case commit =>
    intro c s x m hctrl hnext hop hfree target
    exact execFirmwareCommit_writes ⟨hctrl, hnext, hop, hfree⟩ target rfl

end Sys2Proof.Machine
end

section
/-! SUPPORT. What NVMe reads, writes and flushes, their backend messages and the namespace commands answer on the path that nothing
stops (R370, R374-R377, R390). -/

namespace Sys2Proof.Machine

/-! ### I/O commands -/

section
variable {c : Fin 1024} {sq : Nat} {s : State} {x : NvmeCtrl} {m : NvmeCmd} {prps : List Nat} {data dest : List Byte}

/-- A Write whose transfer and data are read goes to the buffer or through to the backend (R374). -/
theorem execNvmeWrite_reads (hio : sq ≠ 0) (hturn : s.CmdTurn c.val sq 1 x m) (i : Nat) (n : NvmeNs) (g : State × Nat × List (Nat × Nat))
    (r : State × Bool) (hns : s.ioNs c.val m true = .inr (i, n)) (hlength : m.nlb * n.block ≤ mib)
    (hg : g = s.cmdSegs x m (m.nlb * n.block) prps) (hsegs : g.2.1 = nvOk) (hr : r = g.1.hostReads x.fn g.2.2) (hread : r.2 = true) :
    execNvmeWrite c sq prps data dest s
      = .next (r.1.writeData c.val x m i n (fitBytes (m.nlb * n.block) data) dest).nvmeSettle := by
  refine (if_neg hio).trans (hturn.onCmd_eq ?_)
  simp only [hns, Nat.not_lt.2 hlength, ← hg, hsegs, ← hr, hread, ne_eq, not_true_eq_false, if_false, if_true]

/-- Write Zeroes needs no data of the host (R374). -/
theorem execNvmeWriteZeroes_writes (hio : sq ≠ 0) (hturn : s.CmdTurn c.val sq 8 x m) (i : Nat) (n : NvmeNs)
    (hns : s.ioNs c.val m true = .inr (i, n)) :
    execNvmeWriteZeroes c sq dest s = .next (s.writeData c.val x m i n (zeroBytes (m.nlb * n.block)) dest).nvmeSettle := by
  refine (if_neg hio).trans (hturn.onCmd_eq ?_)
  simp only [hns]

/-- A Read that the buffer does not cover pins what was there when it was fetched and asks the backend (R375, log 139). -/
theorem execNvmeRead_uncovered (hio : sq ≠ 0) (hturn : s.CmdTurn c.val sq 2 x m) (i : Nat) (n : NvmeNs)
    (g : State × Nat × List (Nat × Nat)) (pins : List Nat) (a : State) (hns : s.ioNs c.val m false = .inr (i, n))
    (hlength : m.nlb * n.block ≤ mib) (hg : g = s.cmdSegs x m (m.nlb * n.block) prps) (hsegs : g.2.1 = nvOk)
    (hpins : pins = (g.1.nve.bufs.filter fun p => decide (p.1 < m.mark) && rangesMeet p.2.ns p.2.slba p.2.nlb i m.slba m.nlb).map Prod.fst)
    (ha : a = { g.1 with nve := { g.1.nve with
      bufs := Tab.mapVals g.1.nve.bufs fun k b => if pins.contains k then { b with pins := b.pins + 1 } else b } })
    (huncovered : ((List.range m.nlb).all fun k => (a.newestBuf pins (m.slba + k)).isSome) = false) :
    execNvmeRead c sq prps dest s = .next ((a.newMsg
      { ns := i, slba := m.slba, nlb := m.nlb, use := .read c.val sq m.cid, data := [], dest := dest, st := .waiting,
        discard := false }).setCmd c.val sq m.cid (.reading a.nve.next pins g.2.2)).nvmeSettle := by
  have hnext : g.1.nve.next = a.nve.next := by rw [ha]
  refine (if_neg hio).trans (hturn.onCmd_eq ?_)
  simp only [hns, Nat.not_lt.2 hlength, ← hg, hsegs, ← hpins, ← ha, huncovered, Bool.false_eq_true, ne_eq, not_true_eq_false, if_false]
  rw [hnext]

/-- A Flush of every namespace waits for the buffered writes that were there when it was fetched (R377, log 139). -/
theorem execNvmeFlush_all (hio : sq ≠ 0) (hturn : s.CmdTurn c.val sq 0 x m) (nss : List Nat) (hall : m.dw 1 = 0xFFFFFFFF)
    (hnss : nss = (s.ctrlNss c.val).map Prod.fst) (hserves : nss.any (fun n => ((s.ns? n).bind NvmeNs.fault).isSome) = false) :
    execNvmeFlush c sq s = .next (s.setCmd c.val sq m.cid
      (.flush ((s.nve.bufs.filter fun p => nss.contains p.2.ns && decide (p.1 < m.mark)).map Prod.fst))).nvmeSettle := by
  refine (if_neg hio).trans (hturn.onCmd_eq ?_)
  simp only [hall, ← hnss, hserves, beq_self_eq_true, Bool.not_true, Bool.false_and, Bool.false_eq_true, if_false, if_true]

end

/-! ### Ends of backend messages -/

/-- The data of a Read has come from the backend (R375). -/
theorem execBackendReadDone_ok (msg c sq cid : Nat) (s : State) (m : NveMsg) (x : NvmeCtrl) (k : NvmeCmd) (own : Nat) (pins : List Nat)
    (segs : List (Nat × Nat)) (n : NvmeNs) (hmsg : Tab.look s.nve.msgs msg = some m) (huse : m.use = .read c sq cid)
    (hended : m.ended? = some stOk) (hctrl : s.ctrl? c = some x)
    (hcmd : x.cmds.find? (fun k => k.is sq cid && k.msgs.contains msg) = some k) (hst : k.st = .reading own pins segs)
    (hns : s.ns? m.ns = some n) :
    execBackendReadDone msg s = .next ((s.dropMsg msg).finishRead c k n pins segs m.data).nvmeSettle := by
  unfold execBackendReadDone
  simp only [hmsg, huse, hended, hctrl, Option.bind_some, hcmd, hst, hns, if_true]

/-- The last message of a write through has ended (R374). -/
theorem execBackendWriteDone_last (msg c sq cid : Nat) (s : State) (m : NveMsg) (x : NvmeCtrl) (k : NvmeCmd) (n : NvmeNs)
    (hmsg : Tab.look s.nve.msgs msg = some m) (huse : m.use = .thru c sq cid) (hended : m.ended? = some stOk)
    (hctrl : s.ctrl? c = some x) (hcmd : x.cmds.find? (fun k => k.is sq cid && k.msgs.contains msg) = some k)
    (hns : s.ns? m.ns = some n) (hlast : k.msgs.filter (· != msg) = []) :
    execBackendWriteDone msg s = .next (((((s.dropMsg msg).smartCount c 1 (k.nlb * n.block)).smartCount c 3 1).nvmeEnd c sq cid
      nvOk)).nvmeSettle := by
  unfold execBackendWriteDone
  simp only [hmsg, huse, hended, hctrl, Option.bind_some, hcmd, hns, hlast, Option.map_some, Option.getD_some, List.isEmpty_nil, ne_eq,
    not_true_eq_false, if_false, if_true]

/-- A destage that has ended leaves the buffer, waits for its retry, or faults its namespace (R376; unlisted statuses are retried,
log 138). -/
theorem execDestageDone_ended (msg i st : Nat) (s a d : State) (m : NveMsg) (b : NveBuf) (n : NvmeNs)
    (hmsg : Tab.look s.nve.msgs msg = some m) (huse : m.use = .destage i) (hended : m.ended? = some st) (hkept : m.discard = false)
    (ha : a = s.dropMsg msg) (hbuf : Tab.look a.nve.bufs i = some b) (hns : a.ns? m.ns = some n)
    (hd : d = a.setBuf i { b with st := .retry (s.now + b.delay) (min (2 * b.delay) secT), delay := min (2 * b.delay) secT }) :
    (st = stOk → n.attached = none → execDestageDone msg s
      = .next ((((a.setBuf i { b with st := .destaged }).nveCount 2).setNs m.ns { n with failSince := none }).freeBufs).nvmeSettle) ∧
    (st ≠ stOk → execDestageDone msg s =
      if destageFaults st = true then .next (d.faultNs m.ns st).nvmeSettle
      else .next (d.setNs m.ns { n with failSince := some (n.failSince.getD s.now) }).nvmeSettle) := by
  unfold execDestageDone
  simp only [hmsg, huse, hended, hkept, ← ha, hbuf, hns, ← hd, Bool.false_eq_true, if_false]
  refine ⟨fun hok hfree => ?_, fun hfailed => if_neg hfailed⟩
  simp only [hok, hfree, Option.map_none, if_true]

/-- The retry of a destage is a new message of the buffered write (R376). -/
theorem execDestageRetry_due (buf t d : Nat) (dest : List Byte) (s a : State) (b : NveBuf) (n : NvmeNs)
    (hbuf : Tab.look s.nve.bufs buf = some b) (hst : b.st = .retry t d) (hfree : s.nveHeld = false) (hgood : b.bad = false)
    (hns : s.ns? b.ns = some n) (hserves : n.fault = none) (ha : a = (s.after t).nveCount 3) :
    execDestageRetry buf dest s = .next ((a.setBuf buf { b with st := .destaging a.nve.next, dest := dest }).newMsg
      { ns := b.ns, slba := b.slba, nlb := b.nlb, use := .destage buf, data := b.data, dest := dest, st := .waiting,
        discard := false }).nvmeSettle := by
  unfold execDestageRetry
  simp only [hbuf, hst, hfree, hgood, hns, Option.bind_some, hserves, Option.isSome_none, ← ha, Bool.or_self, Bool.false_eq_true,
    if_false]

/-- Destages of an attached namespace have failed for 10 s (R376). -/
theorem execDestageFailureWarning_attached (ns : Fin 8192) (s : State) (n : NvmeNs) (t c i : Nat) (hns : s.ns? ns.val = some n)
    (hfail : n.failSince = some t) (hattached : n.attached = some (c, i)) :
    execDestageFailureWarning ns s = .next ((s.after (t + 10 * secT)).setWarn c 2 true) := by
  unfold execDestageFailureWarning
  simp only [hns, hfail, hattached]

/-- Settles O47: each command's clause is its lemma above. That a status which R376 does not list is retried is log 138, and that a Flush
or Read covers the writes before its fetch is log 139: choices of the model beside R375-R377. -/
theorem completeIoCommands : Obligations.CompleteIoCommands := by
  unfold Obligations.CompleteIoCommands
  refine ⟨?write, ?zeroes, ?read, ?flush, ?readDone, ?writeDone, ?destageDone, ?retry, ?warning⟩
  case write =>
    intro c sq prps data dest s x m hio hctrl hnext hop hfree i n hns hlength g hsegs r hread
    exact execNvmeWrite_reads hio ⟨hctrl, hnext, hop, hfree⟩ i n g r hns hlength rfl hsegs rfl hread
  case zeroes =>
    intro c sq dest s x m hio hctrl hnext hop hfree
    exact execNvmeWriteZeroes_writes hio ⟨hctrl, hnext, hop, hfree⟩
  case read =>
    intro c sq prps dest s x m hio hctrl hnext hop hfree i n hns hlength g hsegs pins pin a msg huncovered
    exact execNvmeRead_uncovered hio ⟨hctrl, hnext, hop, hfree⟩ i n g pins a hns hlength rfl hsegs rfl rfl huncovered
  case flush =>
    intro c sq s x m hio hctrl hnext hop hfree hall nss hserves
    exact execNvmeFlush_all hio ⟨hctrl, hnext, hop, hfree⟩ nss hall rfl hserves
  case readDone =>
    exact execBackendReadDone_ok
  case writeDone =>
    exact execBackendWriteDone_last
  case destageDone =>
    intro msg i st s m b n hmsg huse hended hkept a hbuf hns
    have hdone := execDestageDone_ended msg i st s a _ m b n hmsg huse hended hkept rfl hbuf hns rfl
    obtain ⟨hok, hfailed⟩ := hdone
    exact ⟨hok, fun hst => ⟨fun hfaults => (hfailed hst).trans (if_pos hfaults),
      fun hretries => (hfailed hst).trans (if_neg (ne_true_of_eq_false hretries))⟩⟩
  case retry =>
    intro buf t d dest s b n hbuf hst hfree hgood hns hserves a e msg
    exact execDestageRetry_due buf t d dest s a b n hbuf hst hfree hgood hns hserves rfl
  case warning =>
    exact execDestageFailureWarning_attached

/-! ### Namespace commands -/

/-- A namespace command of firmware reaches its idle register and is taken into state `u` (R390, Table 11-2). -/
structure State.NsTaken (s : State) (init op : Nat) (ns : Fin 8192) (u : State) : Prop where
  reached : (s.blockAccess 19 .write init 0).2 = true
  idle : (s.blockAccess 19 .write init 0).1.flag NVE_NS_CMD.busy = false
  firmware : init < 0x20
  taken : u = ((s.blockAccess 19 .write init 0).1.setF NVE_NS_CMD.op op).setF NVE_NS_CMD.ns ns.val

/-- A namespace command that is taken does its work and shows its result. -/
theorem State.NsTaken.nsCommand_eq {s u v : State} {init op st : Nat} {ns : Fin 8192} {f : State → Nat × State}
    (h : s.NsTaken init op ns u) (hwork : f u = (st, v)) : s.nsCommand init op ns f = .next (v.setF NVE_NS_CMD.result st).nvmeSettle := by
  rw [s.nsCommand_runs init op ns f u h.reached h.idle h.firmware h.taken, hwork]

section
variable {s u : State} {init : Nat} {ns : Fin 8192}

/-- A new namespace of an endpoint and region that there are, with blocks and a supported buffer limit (R390). -/
theorem execNsCreate_new (htaken : s.NsTaken init 1 ns u) (hblocks : (u.reg .NVE_NS_DATA 3).toNat ≠ 0)
    (hep : Tab.has u.drt.eps ((u.reg .NVE_NS_DATA 0).bits 63 40) = true) (hregion : (u.reg .NVE_NS_DATA 1).bits 63 32 ≠ 0)
    (hlimit : (u.reg .NVE_NS_DATA 1).bits 31 0 ≤ 16384) (hnew : Tab.has u.nve.nss ns.val = false) :
    execNsCreate init ns s = .next ((u.setNs ns.val
      { ep := (u.reg .NVE_NS_DATA 0).bits 63 40, destRef := (u.reg .NVE_NS_DATA 0).bits 39 8
        big := natBit (u.reg .NVE_NS_DATA 0).toNat 7, ro := natBit (u.reg .NVE_NS_DATA 0).toNat 6
        region := (u.reg .NVE_NS_DATA 1).bits 63 32, limit := (u.reg .NVE_NS_DATA 1).bits 31 0
        offset := (u.reg .NVE_NS_DATA 2).toNat, size := (u.reg .NVE_NS_DATA 3).toNat, fault := none, attached := none
        failSince := none }).setF NVE_NS_CMD.result stOk).nvmeSettle := by
  refine htaken.nsCommand_eq ?_
  simp only [hblocks, hep, hregion, Nat.not_lt.2 hlimit, hnew, Bool.true_eq_false, Bool.false_eq_true, or_self, if_false]

/-- A namespace that no enabled controller holds goes, with its buffered writes (R390). -/
theorem execNsDelete_idle (htaken : s.NsTaken init 2 ns u) (n : NvmeNs) (b : State) (hns : u.ns? ns.val = some n)
    (hidle : u.nsBusy n = false)
    (hb : b = ((u.nve.msgs.filter fun p => p.2.ns == ns.val).map Prod.fst).foldl (fun t i => t.discardMsg i) u) :
    execNsDelete init ns s = .next (({ b with nve := { b.nve with
      bufs := Tab.keep b.nve.bufs (fun _ x => x.ns != ns.val), nss := Tab.del b.nve.nss ns.val } }.showNve).setF NVE_NS_CMD.result
        stOk).nvmeSettle := by
  refine htaken.nsCommand_eq ?_
  simp only [hns, hidle, ← hb, Bool.false_eq_true, if_false]

/-- A free namespace is attached to a controller as an NSID that the controller does not use (R390). -/
theorem execNsAttach_free (htaken : s.NsTaken init 3 ns u) (controller : Fin 1024) (nsid : BitVec 8) (t : State) (n : NvmeNs)
    (x : NvmeCtrl) (ht : t = (u.setF NVE_NS_CMD.controller controller.val).setF NVE_NS_CMD.nsid nsid.toNat)
    (hns : t.ns? ns.val = some n) (hctrl : t.ctrl? controller.val = some x) (hfree : n.attached = none)
    (hnsid : t.nsOf controller.val (nsid.toNat + 1) = none) :
    execNsAttach init ns controller nsid s = .next (((t.setNs ns.val { n with attached := some (controller.val, nsid.toNat + 1) }).showWarn
      controller.val).setF NVE_NS_CMD.result stOk).nvmeSettle := by
  refine htaken.nsCommand_eq ?_
  simp only [← ht, hns, hctrl, hfree, hnsid, Option.isSome_none, Bool.false_eq_true, or_self, if_false]

/-- A detach of a namespace that is not attached leaves it so (R390). -/
theorem execNsDetach_free (htaken : s.NsTaken init 4 ns u) (n : NvmeNs) (hns : u.ns? ns.val = some n) (hidle : u.nsBusy n = false)
    (hfree : n.attached = none) : execNsDetach init ns s
      = .next ((u.setNs ns.val { n with attached := none }).setF NVE_NS_CMD.result stOk).nvmeSettle := by
  refine htaken.nsCommand_eq ?_
  simp only [hns, hidle, hfree, Bool.false_eq_true, if_false]

/-- A namespace that there is not reads state 0 (R390). -/
theorem execNsQuery_none (htaken : s.NsTaken init 5 ns u) (hns : u.ns? ns.val = none) : execNsQuery init ns s
      = .next ((((u.setF NVE_NS_STATUS.state 0).setF NVE_NS_STATUS.fault 0).setF NVE_NS_STATUS.buffered
          (ceilDiv (u.nsBuffered ns.val) mib)).setF NVE_NS_CMD.result stOk).nvmeSettle := by
  refine htaken.nsCommand_eq ?_
  simp only [hns, Option.bind_none, Option.getD_none]

/-- The fault of an attached namespace is cleared (R390). -/
theorem execClearFault_attached (htaken : s.NsTaken init 6 ns u) (n : NvmeNs) (c i : Nat) (hns : u.ns? ns.val = some n)
    (hattached : n.attached = some (c, i)) : execClearFault init ns s
      = .next (((u.setNs ns.val { n with fault := none }).showWarn c).setF NVE_NS_CMD.result stOk).nvmeSettle := by
  refine htaken.nsCommand_eq ?_
  simp only [hns, hattached]

end

/-- Settles O48: each command's clause is its lemma above. -/
theorem completeNamespaces : Obligations.CompleteNamespaces := by
  unfold Obligations.CompleteNamespaces
  refine ⟨?create, ?delete, ?attach, ?detach, ?query, ?clear⟩
  case create =>
    intro init ns s a hreached hidle u hfirmware w hblocks hep hregion hlimit hnew n
    exact execNsCreate_new ⟨hreached, hidle, hfirmware, rfl⟩ hblocks hep hregion hlimit hnew
  case delete =>
    intro init ns s a hreached hidle u hfirmware n hns hfree ids b e
    exact execNsDelete_idle ⟨hreached, hidle, hfirmware, rfl⟩ n b hns hfree rfl
  case attach =>
    intro init ns controller nsid s a hreached hidle u hfirmware t n x
    exact execNsAttach_free ⟨hreached, hidle, hfirmware, rfl⟩ controller nsid t n x rfl
  case detach =>
    intro init ns s a hreached hidle u hfirmware
    exact execNsDetach_free ⟨hreached, hidle, hfirmware, rfl⟩
  case query =>
    intro init ns s a hreached hidle u hfirmware
    exact execNsQuery_none ⟨hreached, hidle, hfirmware, rfl⟩
  case clear =>
    intro init ns s a hreached hidle u hfirmware
    exact execClearFault_attached ⟨hreached, hidle, hfirmware, rfl⟩

end Sys2Proof.Machine
end

section
/-! SUPPORT. Concrete states that meet the conditions of the statements on the NVMe functions, at the bounds where clauses meet. They are
evaluated one after another, as those on the transport are. -/

namespace Sys2Proof.Machine

set_option Elab.async false

/-- A function with 2,048 vectors that may read and write all host memory. -/
def nvmeFn : FnSt :=
  { windowFn with personality := .nvme, busMaster := true, msixEnable := true, msixEntries := 2048, windows := [(0, true, true, 0, 2 ^ 52 - 1)] }

/-- A controller of that function, enabled as `en` says, with an admin queue pair and I/O queue pair 1 of 4,096 entries, and these commands. -/
def nvmeCtrl (en : Nat) (cmds : List NvmeCmd) : NvmeCtrl :=
  let cq : NvmeCq := ⟨0, 4096, 0, 0, true, 0, true, [], 0, 0⟩
  { NvmeCtrl.reset 0x800 358 with
    cc := en, rdy := en == 1, sqs := [(0, ⟨0, 4096, 0, 0, 0, false⟩), (1, ⟨0, 4096, 0, 0, 1, false⟩)], cqs := [(0, cq), (1, cq), (2, cq)]
    cmds := cmds, fwEn := true
    feat := { NvmeFeat.reset 358 1 with grant := 128, grantCq := 128, apste := true, apst := leBytes 8 (256 + 8 * 4), ps := 0 } }

/-- A namespace of 2^32 blocks, attached as `owner` says. -/
def nvmeNs (owner : Option (Nat × Nat)) : NvmeNs :=
  { ep := 1, destRef := 0, big := false, ro := false, region := 1, limit := 16384, offset := 0, size := 2 ^ 32, fault := none, attached := owner
    failSince := none }

/-- Controller `c` with namespace 8191 as its NSID 1. -/
def nvmeState (c : Nat) (x : NvmeCtrl) : State :=
  let s := servingState.setFn 0x800 nvmeFn
  { s with nve := { s.nve with ctrls := [(c, x)], nss := [(8191, nvmeNs (some (c, 1)))] } }

/-- The first controller and the last. -/
def ctrlCases : List (Fin 1024) := [0, 1023]

/-! ### Controllers -/

/-- It is there to be enabled, or is enabled and may be reset. -/
theorem nvmeState_enabled : ∀ c ∈ ctrlCases, ∀ en ∈ [0, 1], let x := nvmeCtrl en []
    (nvmeState c.val x).ctrl? c.val = some x ∧ x.enabled = (en == 1) ∧ x.resetAt = none ∧ natBit (1 : BitVec 32).toNat 0 = true := by
  decide +kernel

/-- Each of its queues has 4,096 entries, of which 4095 is the last that a doorbell names. -/
theorem nvmeState_doorbell : ∀ qid ∈ [0, 1], let x := nvmeCtrl 1 []
    (Tab.look x.sqs qid).map NvmeSq.size = some 4096 ∧ (Tab.look x.cqs qid).map NvmeCq.size = some 4096 := by decide +kernel

/-- Without a command it goes from power state 0, and from 2, into 4 after 1 ms. -/
theorem nvmeState_apstIdle : ∀ ps ∈ [0, 2],
    let x := { nvmeCtrl 1 [] with feat := { (nvmeCtrl 1 []).feat with ps := ps, apst := ((List.range 3).map fun _ => leBytes 8 (256 + 32)).flatten } }
    let e := leNat (sliceBytes x.feat.apst (8 * x.feat.ps) 8)
    x.rdy = true ∧ x.feat.apste = true ∧ x.feat.ps ≤ 2 ∧ e / 256 % 2 ^ 24 = 1 ∧ e / 8 % 32 = 4 ∧
      x.cmds.any (fun m => m.st != .event) = false := by decide +kernel

/-! ### Commands -/

/-- A fetched command of a submission queue, given by those of its dwords that are not 0. -/
def nvmeCmd (sq : Nat) (d : Tab Nat) (st : NvmeCmdSt := .fetched) : NvmeCmd :=
  ⟨sq, 5, (List.range 16).flatMap fun i => leBytes 4 (Tab.getD 0 d i), 10, st⟩

/-- The controller's command is its next of that queue and operation, and commands are not held. -/
def State.hasCmd (s : State) (c sq op : Nat) : Bool :=
  !s.nveHeld && (s.ctrl? c).any fun x => (x.cmds.find? fun k => k.sq == sq && k.st == .fetched).any fun m => m.op == op

/-- Queue 1 may be deleted as no command of it stands; a queue 128 of the least size or of the greatest may be created on completion queue 1;
completion queue 2 may be deleted, and a queue 128 created with the last vector. -/
theorem nvmeState_queues : ∀ c ∈ ctrlCases, ∀ size ∈ [2, 4096],
    let del : NvmeCmd := nvmeCmd 0 [(0, 0), (10, 1)]
    let create : NvmeCmd := nvmeCmd 0 [(0, 1), (10, (size - 1) * 65536 + 128), (11, 65536 + 1)]
    let delCq : NvmeCmd := nvmeCmd 0 [(0, 4), (10, 2)]
    let createCq : NvmeCmd := nvmeCmd 0 [(0, 5), (10, (size - 1) * 65536 + 128), (11, 2047 * 65536 + 3)]
    let x := nvmeCtrl 1
    (nvmeState c.val (x [del])).hasCmd c.val 0 0 = true ∧ (nvmeState c.val (x [create])).hasCmd c.val 0 1 = true ∧
      (nvmeState c.val (x [delCq])).hasCmd c.val 0 4 = true ∧ (nvmeState c.val (x [createCq])).hasCmd c.val 0 5 = true ∧
      (Tab.look (x [del]).sqs (del.dw 10 % 65536)).map NvmeSq.deleting = some false ∧ (x [del]).cmds.all (fun n => n.sq != 1) = true ∧
      create.dw 10 % 65536 = (x []).feat.grant ∧ Tab.has (x []).sqs 128 = false ∧ create.dw 10 / 65536 + 1 = size ∧
      Tab.has (x []).cqs (create.dw 11 / 65536) = true ∧ create.dw 11 % 2 ≠ 0 ∧
      leNat (sliceBytes create.sqe 24 8) % (x []).page = 0 ∧
      Tab.has (x []).cqs (delCq.dw 10 % 65536) = true ∧ (x []).sqs.any (fun p => p.2.cq == 2) = false ∧
      (nvmeState c.val (x [])).fn? 0x800 = some nvmeFn ∧ createCq.dw 11 / 65536 + 1 = nvmeFn.msixEntries ∧
      createCq.dw 10 % 65536 = (x []).feat.grantCq ∧ Tab.has (x []).cqs 128 = false ∧ createCq.dw 11 % 2 ≠ 0 := by decide +kernel

/-- Identify of the controller, the SMART log with RAE set, a feature of each controller, a power state 4, an abort of a fetched command of
queue 1, a first event request. -/
theorem nvmeState_admin : ∀ c ∈ ctrlCases,
    let identify : NvmeCmd := nvmeCmd 0 [(0, 6), (10, 1)]
    let log : NvmeCmd := nvmeCmd 0 [(0, 2), (10, 127 * 65536 + 2 ^ 15 + 2)]
    let get : NvmeCmd := nvmeCmd 0 [(0, 10), (10, 2)]
    let set : NvmeCmd := nvmeCmd 0 [(0, 9), (10, 2), (11, 4)]
    let abort : NvmeCmd := nvmeCmd 0 [(0, 8), (10, 6 * 65536 + 1)]
    let target : NvmeCmd := { nvmeCmd 1 [] with cid := 6 }
    let event : NvmeCmd := nvmeCmd 0 [(0, 12)]
    let s (m : NvmeCmd) : State := nvmeState c.val (nvmeCtrl 1 [m, target])
    (s identify).hasCmd c.val 0 6 = true ∧ identify.dw 10 % 256 = 1 ∧
      (s log).hasCmd c.val 0 2 = true ∧ natBit (log.dw 10) 15 = true ∧ 4 * (log.dw 11 % 65536 * 65536 + log.dw 10 / 65536 + 1) ≤ mib ∧
      ((s log).logPage (nvmeCtrl 1 [log, target]) (log.dw 10 % 256) (zeroBytes 512)).map List.length = some 512 ∧
      leNat (sliceBytes log.sqe 48 8) ≤ 512 ∧
      (s get).hasCmd c.val 0 10 = true ∧ (nvmeCtrl 1 []).feature (get.dw 10 % 256) (get.dw 11) = some 0 ∧ get.dw 10 % 256 ≠ 0x0C ∧
      (s set).hasCmd c.val 0 9 = true ∧ natBit (set.dw 10) 31 = false ∧ set.dw 10 % 256 = 2 ∧ set.dw 11 % 32 = 4 ∧
      (s abort).hasCmd c.val 0 8 = true ∧
      [abort, target].find? (fun n => n.is (abort.dw 10 % 65536) (abort.dw 10 / 65536) && !n.is 0 abort.cid) = some target ∧
      target.st = .fetched ∧ (s event).hasCmd c.val 0 12 = true ∧ [event, target].any (fun n => n.st == .event) = false := by
  decide +kernel

/-! ### Firmware -/

/-- A header of version 1 and the least length whose form is right, under key slot 0 and a key of zeros. -/
def plainHeader : List Byte :=
  fitBytes 512 (leBytes 4 0x4D494648 ++ leBytes 2 1 ++ leBytes 2 0x8640 ++ leBytes 4 8192 ++ leBytes 4 1)

/-- Fuses that hold that key, and a full reserve. -/
def State.readyForImage (s : State) : State :=
  { s.setF PWR_STATUS.reserve_full 1 with fuse := { s.fuse with keyHash := [sha384 (zeroBytes 96)] } }

/-- It passes its checks under those fuses, whose key hash is that of its key whatever SHA-384 gives. -/
theorem plainHeader_heldReason {s : State} (hpresent : natBit s.fuse.keyPresent 0 = true) (hkept : natBit s.fuse.keyRevoked 0 = false)
    (hrollback : s.fuse.rollback = 0) : s.readyForImage.heldReason plainHeader = 0 := by
  have hmagic : imageLe (readerOf plainHeader) 0 4 = 0x4D494648 := by decide +kernel
  have hform : headerForm (readerOf plainHeader) false = true := by decide +kernel
  have hslot : imageKeySlot (readerOf plainHeader) = 0 := by decide +kernel
  have hkey : readerOf plainHeader 96 96 = zeroBytes 96 := by decide +kernel
  unfold State.heldReason headerCheck State.readyForImage
  simp only [hmagic, hform, hslot, hkey, hpresent, hkept, hrollback, ne_eq, not_true_eq_false, Bool.not_true, Bool.or_self, Bool.false_eq_true,
    List.getD_cons_zero, Bool.false_and, Nat.not_lt_zero, if_false]

/-- The least piece of an image, at the slot's start and at its end, behind another piece. -/
theorem nvmeState_firmwareDownload : ∀ c ∈ ctrlCases, ∀ off ∈ [4096, slotSize - 4096],
    let m : NvmeCmd := nvmeCmd 0 [(0, 17), (10, 1023), (11, off / 4)]
    let x := { nvmeCtrl 1 [m] with pieces := [(0, zeroBytes 4096)] }
    let s := nvmeState c.val x
    let n := 4 * (m.dw 10 % 2 ^ 32 + 1)
    let o := 4 * (m.dw 11 % 2 ^ 32)
    let g := s.cmdSegs x m n []
    s.hasCmd c.val 0 17 = true ∧ x.fwEn = true ∧ n = fwGranule ∧ o = off ∧ o % fwGranule = 0 ∧ o + n ≤ slotSize ∧
      x.pieces.any (fun p => decide (p.1 < o + n) && decide (o < p.1 + p.2.length)) = false ∧ g.2.1 = nvOk ∧
      (g.1.hostReads x.fn g.2.2).2 = true := by decide +kernel

/-- Action 0 writes a staged header that passes to slot A, the inactive one. -/
theorem nvmeState_firmwareCommit : ∀ c ∈ ctrlCases,
    let m : NvmeCmd := nvmeCmd 0 [(0, 16), (10, 2)]
    let x := { nvmeCtrl 1 [m] with pieces := [(0, plainHeader)] }
    let s := (nvmeState c.val x).readyForImage
    let target := m.dw 10 % 8
    s.hasCmd c.val 0 16 = true ∧ target = 2 ∧ m.dw 10 / 8 % 8 = 0 ∧ x.fwEn = true ∧ target ≠ s.nvmeActiveSlot ∧
      s.flag UPD_CMD.busy = false ∧ target - 2 = s.inactiveSlot ∧ stagedImage x.pieces = plainHeader ∧
      natBit (nvmeState c.val x).fuse.keyPresent 0 = true ∧ natBit (nvmeState c.val x).fuse.keyRevoked 0 = false ∧
      (nvmeState c.val x).fuse.rollback = 0 ∧ s.updReason 1 false = 0 ∧ s.upd.header = none := by decide +kernel

/-! ### Reads and writes -/

/-- The last blocks of the namespace, one or a page of them, are written, zeroed and read by queue 1, with nothing buffered. -/
theorem nvmeState_io : ∀ c ∈ ctrlCases, ∀ nlb ∈ [1, 8], ∀ op ∈ [1, 8, 2],
    let slba := 2 ^ 32 - nlb
    let m : NvmeCmd := nvmeCmd 1 [(0, op), (1, 1), (10, slba), (12, nlb - 1)]
    let x := nvmeCtrl 1 [m]
    let s := nvmeState c.val x
    let n := nvmeNs (some (c.val, 1))
    let g := s.cmdSegs x m (m.nlb * n.block) []
    s.hasCmd c.val 1 op = true ∧ s.ioNs c.val m true = .inr (8191, n) ∧ s.ioNs c.val m false = .inr (8191, n) ∧ m.nlb = nlb ∧
      m.nlb * n.block ≤ mib ∧ g.2.1 = nvOk ∧ (g.1.hostReads x.fn g.2.2).2 = true ∧
      ((List.range m.nlb).all fun k => (g.1.newestBuf [] (m.slba + k)).isSome) = false := by decide +kernel

/-- A flush of every namespace of a controller, none of them faulted. -/
theorem nvmeState_flush : ∀ c ∈ ctrlCases,
    let m : NvmeCmd := nvmeCmd 1 [(0, 0), (1, 0xFFFFFFFF)]
    let s := nvmeState c.val (nvmeCtrl 1 [m])
    let nss := (s.ctrlNss c.val).map Prod.fst
    s.hasCmd c.val 1 0 = true ∧ m.dw 1 = 0xFFFFFFFF ∧ nss = [8191] ∧
      nss.any (fun n => ((s.ns? n).bind NvmeNs.fault).isSome) = false := by decide +kernel

/-! ### Backend messages -/

/-- A message of one block of namespace 8191 that has ended. -/
def endedMsg (use : NveUse) (st : Nat) : NveMsg := ⟨8191, 0, 1, use, zeroBytes 512, [], .ended st, false⟩

/-- A read and a write-through write of queue 1 end well; their command has no other message. -/
theorem nvmeState_backendDone : ∀ c ∈ ctrlCases, ∀ st ∈ [NvmeCmdSt.reading 20 [] [], .thru [20]],
    let k : NvmeCmd := nvmeCmd 1 [] st
    let x := nvmeCtrl 1 [k]
    let s := nvmeState c.val x
    (s.ctrl? c.val) = some x ∧ x.cmds.find? (fun k => k.is 1 5 && k.msgs.contains 20) = some k ∧ (k.msgs.filter (· != 20)) = [] ∧
      (endedMsg (.read c.val 1 5) stOk).ended? = some stOk ∧ (s.ns? 8191).isSome = true := by decide +kernel

/-- A buffered write that its message `20` destages, or that waits for its retry. -/
def bufferedState (owner : Option (Nat × Nat)) (st : Nat) (b : NveBufSt) : State :=
  let s := nvmeState 0 (nvmeCtrl 1 [])
  { s with nve := { s.nve with
      nss := [(8191, { nvmeNs owner with failSince := some 0 })]
      msgs := [(20, endedMsg (.destage 9) st)], bufs := [(9, ⟨8191, 0, 1, zeroBytes 512, [], 0, msT, b, false⟩)] } }

/-- A destage ends well in a namespace that is not attached, with a status that faults the namespace, or with one that is tried again. -/
theorem bufferedState_destageDone : ∀ st ∈ [stOk, stNoEndpoint, stTimeout],
    let s := bufferedState none st (.destaging 20)
    Tab.look s.nve.msgs 20 = some (endedMsg (.destage 9) st) ∧ (endedMsg (.destage 9) st).ended? = some st ∧
      (Tab.look (s.dropMsg 20).nve.bufs 9).isSome = true ∧ (((s.dropMsg 20).ns? 8191).map NvmeNs.attached) = some none ∧
      destageFaults st = (st == stNoEndpoint) := by decide +kernel

/-- A retry falls due in a namespace without a fault, and an attached namespace has failed to destage since 0. -/
theorem bufferedState_destageRetry : let s := bufferedState (some (0, 1)) stTimeout (.retry 100 msT)
    (Tab.look s.nve.bufs 9).map NveBuf.st = some (.retry 100 msT) ∧ s.nveHeld = false ∧
      (Tab.look s.nve.bufs 9).map NveBuf.bad = some false ∧ (s.ns? 8191).map NvmeNs.fault = some none ∧
      (s.ns? 8191).bind NvmeNs.failSince = some 0 ∧ (s.ns? 8191).bind NvmeNs.attached = some (0, 1) := by decide +kernel

/-! ### Namespaces -/

/-- The last of firmware's initiators. -/
theorem bufferedState_nsCommands : ∀ ns ∈ [0, 8191], ∀ init ∈ [0, 0x1F],
    let free := (nvmeState 5 (nvmeCtrl 0 [])).setWords .NVE_NS_DATA [1 * 2 ^ 40, 2 ^ 32 + 16384, 0, 1]
    let s := { free with
      nve := { free.nve with nss := [] }
      drt := { free.drt with eps := [(1, { slice := 5, domain := 3, jumbo := false, tblBase := 0, tblCount := 1, ring := 0, addr := [] })] } }
    let held (owner : Option (Nat × Nat)) : State := { s with nve := { s.nve with nss := [(ns, nvmeNs owner)] } }
    let w (i : Nat) : Word := s.reg .NVE_NS_DATA i
    (s.blockAccess 19 .write init 0).2 = true ∧ s.flag NVE_NS_CMD.busy = false ∧ (w 3).toNat = 1 ∧
      Tab.has s.drt.eps ((w 0).bits 63 40) = true ∧ (w 1).bits 63 32 = 1 ∧ (w 1).bits 31 0 = 16384 ∧ s.ns? ns = none ∧
      ((held none).ns? ns) = some (nvmeNs none) ∧ (held none).nsBusy (nvmeNs none) = false ∧
      (held (some (5, 1))).nsBusy (nvmeNs (some (5, 1))) = false ∧ (held none).nsOf 1023 256 = none ∧
      ((held none).ctrl? 5).isSome = true := by decide +kernel

end Sys2Proof.Machine
end
section
/-! SUPPORT. What the threads of the application cores get on the path that nothing stops: channels, the CORE endpoint, the packet
buffer, memory and the host (R399-R409, R415, R421). -/

namespace Sys2Proof.Machine

/-! ### Channels -/

section
variable {core : Fin 128} {thread : Fin 8} {s : State} {h : FThread}

/-- A ready thread opens its staging buffer (R399). -/
theorem execChannelOpen_ready (dest : BitVec 16) (hready : s.threadReady core thread = true) :
    execChannelOpen core thread dest s
      = .next (s.setThread core thread { (s.core core).thread thread with dest := some dest.toNat, words := [] }) := by
  unfold execChannelOpen
  simp only [hready, Bool.not_true, Bool.false_eq_true, if_false]

/-- A word enters the staging buffer of a ready thread; the ninth is a fault (R399). -/
theorem execChannelWrite_ready (word : Word) (hready : s.threadReady core thread = true) (hh : h = (s.core core).thread thread) :
    execChannelWrite core thread word s =
      if 8 ≤ h.words.length then .next (s.threadFaults core thread 6).settleCores
      else .next (s.setThread core thread { h with words := h.words ++ [word.toNat] }) := by
  unfold execChannelWrite
  simp only [hready, ← hh, Bool.not_true, Bool.false_eq_true, if_false]

/-- A staged message of an open buffer is committed where no notification comes first (R399, R401). -/
theorem execChannelCommit_staged (d : Nat) (hready : s.threadReady core thread = true) (hh : h = (s.core core).thread thread)
    (hstaged : h.words ≠ []) (hdest : h.dest = some d) (hfirst : s.eventFirst core thread (d == 2 ^ 15) = false) :
    execChannelCommit core thread s = .next (s.setThread core thread { h with wait := .commit }).settleCores := by
  have hopen : ¬ (h.words.isEmpty = true ∨ h.dest = none) := by simp [hstaged, hdest]
  have hdest' : (h.dest == some (2 ^ 15)) = (d == 2 ^ 15) := by rw [hdest, Option.some_beq_some]
  unfold execChannelCommit
  simp only [hready, ← hh, hopen, hdest', hfirst, Bool.not_true, Bool.false_eq_true, if_false]

/-- A thread waits on channels that are bound to it where no notification comes first (R402). -/
theorem execChannelReceive_bound (mask : BitVec 16) (hready : s.threadReady core thread = true)
    (hbound : (maskChans mask.toNat).all (fun ch => (s.core core).boundTo ch thread) = true)
    (hfirst : s.eventFirst core thread false = false) :
    execChannelReceive core thread mask s
      = .next (s.setThread core thread { (s.core core).thread thread with wait := .receive mask.toNat }).settleCores := by
  unfold execChannelReceive
  simp only [hready, hbound, hfirst, Bool.not_true, Bool.false_eq_true, if_false]

end

/-- A delivery for a bound channel of a core that receives enters it, or is dropped where the channel has no room (R403). -/
theorem execPacketDelivery_bound (half : Fin 2) (s a b : State) (id c d : Nat) (p : Pkt)
    (hhead : (s.pktsIn .toCore half).head? = some (id, p)) (ha : a = s.popLst .toCore half id) (hd : d = p.act.dest % 2 ^ 15)
    (hc : c = d / 128 % 128) (hpresent : a.coreAbsent c = false) (hreceives : a.noReceiver c = false) (hcore : d < 2 ^ 14)
    (hbound : (a.core c).boundTo (d % 16) (d / 16 % 8) = true) (hb : b = ((a.pushLst .held c id).showHandles).fcxCount 0) :
    execPacketDelivery half s =
      if (a.core c).room (d % 16) < 4 then .next ((a.fcxCount 1).dropPkt id)
      else .next (b.deliverMsg c (d % 16) ⟨deliveryWords id p, 2 ^ 15 + 2, b.now⟩).settleCores := by
  unfold execPacketDelivery
  simp only [hhead, ← ha, ← hd, ← hc, hpresent, hreceives, Nat.not_le.2 hcore, hbound, ← hb, Bool.not_true, decide_false, Bool.or_self,
    Bool.false_eq_true, if_false]

/-! ### Requests of a thread -/

/-- Request `r` of operation `op` is the first that endpoint `ep` holds for a thread; `u` is the state that has taken it out. -/
structure State.ReqTurn (s : State) (c t ep op : Nat) (r : FReq) (u : State) : Prop where
  first : s.request? c t ep = some r
  op : r.op = op
  taken : u = s.takeReq c r

/-- A request whose turn it is does its work, then what waits goes on. -/
theorem State.ReqTurn.serve_eq {s u v : State} {c t ep op : Nat} {r : FReq} {f : State → FReq → State} (h : s.ReqTurn c t ep op r u)
    (hwork : f u r = v) : s.serve c t ep op f = .next v.settleCores := by
  rw [s.serve_runs c t ep op f r h.first h.op, ← h.taken, hwork]

/-- A request on a packet that its core holds. -/
theorem State.withHandle_held {s : State} {c id : Nat} {r : FReq} {p : Pkt} {f : Nat → Pkt → State}
    (h : s.handle? c (wordAt r.words 1 / 2 ^ 32) = some (id, p)) : s.withHandle c r f = f id p := by
  unfold State.withHandle
  rw [h]

section
variable {core : Fin 128} {thread : Fin 8} {s u : State} {r : FReq}

/-! ### The CORE endpoint -/

/-- The island's snapshot is the reply (R404). -/
theorem execCoreTime_replies (hturn : s.ReqTurn core thread 0 1 r u) : execCoreTime core thread s
    = .next (u.reply core r stOk 0 [u.island.snapTime / 2 ^ 16 % 2 ^ 64,
        unc32 u.island.snapUnc * 2 ^ 32 + b2n u.island.snapUnc.isSome]).settleCores :=
  hturn.serve_eq rfl

/-- A delay that is not 0 starts a timer (R404). -/
theorem execCoreTimer_starts (hturn : s.ReqTurn core thread 0 2 r u) (hdelay : wordAt r.words 1 ≠ 0) :
    execCoreTimer core thread s = .next (u.setCore core { u.core core with
      timers := (u.core core).timers ++ [⟨u.now + wordAt r.words 1 * fclk, thread, r.chan, r.tag⟩] }).settleCores := by
  refine hturn.serve_eq ?_
  simp only [hdelay, if_false]

/-- The only timer of a core ends (R404). -/
theorem execTimerExpire_only (k : FTimer) (htimers : (s.core core).timers = [k]) : execTimerExpire core s
    = .next ((((s.setCore core { s.core core with timers := dropFirst k [k] }).after k.due).replyOn core 0 k.chan stOk k.tag 0
        []).settleCores) := by
  unfold execTimerExpire
  simp only [htimers, List.foldl_cons, List.foldl_nil]

/-- Start-up ends at the next slot 0 (R421, log 146). -/
theorem execStartDone_startup (hturn : s.ReqTurn core thread 0 3 r u) (rel : Nat) (hst : (u.core core).st = .startup)
    (hrel : rel = (u.core core).released) : execStartDone core thread s
      = .next (((u.after (rel + ceilDiv (u.now - rel) (8 * fclk) * (8 * fclk))).setCore core { u.core core with st := .running }).reply
          core r stOk 0 []).settleCores := by
  refine hturn.serve_eq ?_
  simp only [hst, ← hrel, if_true]

/-- An enabled thread other than thread 0 starts at the entry (R408). -/
theorem execThreadRestart_enabled (hturn : s.ReqTurn core thread 0 4 r u) (t : Nat) (h : FThread) (ht : t = wordAt r.words 1 / 2 ^ 61)
    (hh : h = (u.core core).thread t) (hother : t ≠ 0) (henabled : h.enabled = true) : execThreadRestart core thread s
      = .next ((u.setThread core t { h with faulted := false, halted := false, entry := wordAt r.words 1 % 2 ^ 32, wait := .idle
                                            dest := none, words := [], arch := [] }).reply core r stOk 0 []).settleCores := by
  refine hturn.serve_eq ?_
  simp only [← ht, ← hh, hother, henabled, Bool.true_eq_false, or_self, if_false]

/-- A thread, thread 0 too (log 145), stops (R408). -/
theorem execThreadStop_stops (hturn : s.ReqTurn core thread 0 5 r u) (t : Nat) (ht : t = wordAt r.words 1 / 2 ^ 61) :
    execThreadStop core thread s = .next ((u.setThread core t
      { (u.core core).thread t with halted := true, wait := .idle, dest := none, words := [] }).reply core r stOk 0 []).settleCores := by
  refine hturn.serve_eq ?_
  simp only [← ht]

/-- The oldest seven notifications are the reply (R409). -/
theorem execReadEvents_replies (hturn : s.ReqTurn core thread 0 6 r u) (n : List Nat) (hn : n = (u.core core).notes.take 7) :
    execReadEvents core thread s
      = .next ((u.setCore core { u.core core with notes := (u.core core).notes.drop 7 }).reply core r stOk n.length n).settleCores := by
  subst hn
  exact hturn.serve_eq rfl

end

/-- Settles O37: each command's clause is its lemma above. That STOP takes thread 0 is log 145 and that START_DONE acts at the next slot 0
is log 146: choices of the model beside R408 and R421. -/
theorem completeThreads : Obligations.CompleteThreads := by
  unfold Obligations.CompleteThreads
  refine ⟨?channelOpen, ?write, ?commit, ?receive, ?delivery, ?time, ?timer, ?expire, ?startDone, ?restart, ?stop, ?events⟩
  case channelOpen =>
    intro core thread dest s
    exact execChannelOpen_ready dest
  case write =>
    intro core thread word s hready h
    have hwrite : exec (.channelWrite core thread word) s = _ := execChannelWrite_ready word hready (rfl : h = _)
    exact ⟨fun hroom => hwrite.trans (if_neg (Nat.not_le.2 hroom)), fun hfull => hwrite.trans (if_pos hfull)⟩
  case commit =>
    intro core thread s d hready h
    exact execChannelCommit_staged d hready rfl
  case receive =>
    intro core thread mask s
    exact execChannelReceive_bound mask
  case delivery =>
    intro half s id p hhead a d c hpresent hreceives hcore hbound
    have hdelivery : exec (.packetDelivery half) s = _ :=
      execPacketDelivery_bound half s a _ id c d p hhead rfl rfl rfl hpresent hreceives hcore hbound rfl
    exact ⟨fun hroom => hdelivery.trans (if_neg (Nat.not_lt.2 hroom)), fun hfull => hdelivery.trans (if_pos hfull)⟩
  case time =>
    intro core thread s r hfirst hop u
    exact execCoreTime_replies ⟨hfirst, hop, rfl⟩
  case timer =>
    intro core thread s r hfirst hop u
    exact execCoreTimer_starts ⟨hfirst, hop, rfl⟩
  case expire =>
    intro core s
    exact execTimerExpire_only
  case startDone =>
    intro core thread s r hfirst hop u hst rel a
    exact execStartDone_startup ⟨hfirst, hop, rfl⟩ rel hst rfl
  case restart =>
    intro core thread s r hfirst hop u t h hother henabled y
    exact execThreadRestart_enabled ⟨hfirst, hop, rfl⟩ t h rfl rfl hother henabled
  case stop =>
    intro core thread s r hfirst hop u t y
    exact execThreadStop_stops ⟨hfirst, hop, rfl⟩ t rfl
  case events =>
    intro core thread s r hfirst hop u n
    exact execReadEvents_replies ⟨hfirst, hop, rfl⟩ n rfl

/-! ### The PBF endpoint -/

section
variable {core : Fin 128} {thread : Fin 8} {s u : State} {r : FReq} {id : Nat} {p : Pkt}

/-- Bytes of a held packet enter local memory, free ones beyond its end (R405, log 144). -/
theorem execPbfRead_held (hturn : s.ReqTurn core thread 2 1 r u) (off n loc : Nat) (hargs : (pbfArgs r).2 = (off, n, loc)) (hsome : n ≠ 0)
    (hmost : n ≤ 8192) (hslice : inSlice loc n = true) (hheld : u.handle? core (wordAt r.words 1 / 2 ^ 32) = some (id, p))
    (got : List Byte) (d : List Byte × State) (hgot : got = sliceBytes p.bytes off n) (hd : d = u.drawBytes (n - got.length)) :
    execPbfRead core thread s = .next ((d.2.lmemWrite core thread loc (got ++ d.1)).reply core r stOk 0 []).settleCores := by
  refine hturn.serve_eq ?_
  simp only [hargs, hsome, Nat.not_lt.2 hmost, hslice, State.withHandle_held hheld, ← hgot, ← hd, Bool.not_true, Bool.false_eq_true,
    if_false]

/-- Bytes of local memory enter a held packet, which grows as needed (R405). -/
theorem execPbfWrite_held (hturn : s.ReqTurn core thread 2 2 r u) (off n loc : Nat) (hargs : (pbfArgs r).2 = (off, n, loc)) (hsome : n ≠ 0)
    (hmost : off + n ≤ 16380) (hslice : inSlice loc n = true) (hheld : u.handle? core (wordAt r.words 1 / 2 ^ 32) = some (id, p))
    (d : List Byte × State) (hd : d = u.drawBytes (off - p.bytes.length)) :
    execPbfWrite core thread s = .next ((d.2.setPkt id (p.withBytes ((p.bytes ++ d.1).take off
      ++ (u.core core).lmemBytes thread loc n ++ p.bytes.drop (off + n)))).reply core r stOk 0 []).settleCores := by
  refine hturn.serve_eq ?_
  simp only [hargs, hsome, Nat.not_lt.2 hmost, hslice, State.withHandle_held hheld, ← hd, Bool.not_true, Bool.false_eq_true, if_false]

/-- A held packet without a launch time enters the pipeline of the core's half as a new one (R405). -/
theorem execPbfInject_held (hturn : s.ReqTurn core thread 2 3 r u) (off n loc half : Nat) (hargs : (pbfArgs r).2 = (off, n, loc))
    (hmost : n ≤ 16380) (hheld : u.handle? core (wordAt r.words 1 / 2 ^ 32) = some (id, p)) (hlaunch : wordAt r.words 3 = 0)
    (d : List Byte × State) (k : Nat × State) (hhalf : half = core.val / 64) (hd : d = u.drawBytes (n - p.bytes.length))
    (hk : k = (((d.2.popLst .held core id).endHold id).freePkt id).newPkt
      { Pkt.ofFrame (10 + half) (2 + half) ((p.bytes ++ d.1).take n) with launch := none }) :
    execPbfInject core thread s = .next ((k.2.pushLst .inject (2 + half) k.1).showHandles.reply core r stOk 0 []).settleCores := by
  refine hturn.serve_eq ?_
  simp only [hargs, Nat.not_lt.2 hmost, State.withHandle_held hheld, hlaunch, ← hhalf, ← hd, ← hk, if_false, if_true]

/-- A held packet is freed (R405). -/
theorem execPbfFree_held (hturn : s.ReqTurn core thread 2 4 r u) (hheld : u.handle? core (wordAt r.words 1 / 2 ^ 32) = some (id, p)) :
    execPbfFree core thread s = .next (((u.popLst .held core id).dropPkt id).showHandles.reply core r stOk 0 []).settleCores :=
  hturn.serve_eq (State.withHandle_held hheld)

/-- An open packet buffer gives an empty packet, whose handle the reply carries (R405). -/
theorem execPbfAlloc_open (hturn : s.ReqTurn core thread 2 5 r u) (hopen : u.bufferClosed = false) (k : Nat × State)
    (hk : k = u.newPkt (Pkt.ofFrame (10 + core.val / 64) (2 + core.val / 64) [])) : execPbfAlloc core thread s
      = .next ((k.2.pushLst .held core k.1).showHandles.reply core r stOk 0 [k.1 % 2 ^ 32]).settleCores := by
  refine hturn.serve_eq ?_
  simp only [hopen, ← hk, Bool.false_eq_true, if_false]

/-! ### The MEM and HOST endpoints -/

/-- A MEM request in order, on an HBM range that its access table opens to the thread (R406). -/
theorem State.memRequest_granted {c t : Nat} {k : AccessKind} {f : State → Nat → Nat → Nat → State} (a n loc : Nat)
    (ha : a = wordAt r.words 1) (hn : n = wordAt r.words 2 / 2 ^ 48) (hloc : loc = wordAt r.words 2 / 2 ^ 32 % 2 ^ 16) (hsome : n ≠ 0)
    (hmost : n ≤ 4096) (hslice : inSlice loc n = true) (hhbm : inHbm a = true) (q : State × Bool)
    (hq : q = u.memAccess k (threadInit c t) a n) (hgranted : q.2 = true) :
    u.memRequest c t r k f = (f q.1 a n loc).reply c r stOk 0 [] := by
  unfold State.memRequest
  simp only [← ha, ← hn, ← hloc, hsome, Nat.not_lt.2 hmost, hslice, hhbm, ← hq, hgranted, Bool.not_true, Bool.false_eq_true, if_false,
    if_true]

/-- A granted read copies the bytes into local memory (R406). -/
theorem execMemRead_granted (hturn : s.ReqTurn core thread 3 1 r u) (a n loc : Nat) (ha : a = wordAt r.words 1)
    (hn : n = wordAt r.words 2 / 2 ^ 48) (hloc : loc = wordAt r.words 2 / 2 ^ 32 % 2 ^ 16) (hsome : n ≠ 0) (hmost : n ≤ 4096)
    (hslice : inSlice loc n = true) (hhbm : inHbm a = true) (q : State × Bool)
    (hq : q = u.memAccess .read (threadInit core thread) a n) (hgranted : q.2 = true) :
    execMemRead core thread s = .next ((q.1.lmemWrite core thread loc (q.1.bytes a n)).reply core r stOk 0 []).settleCores :=
  hturn.serve_eq (f := fun u r => u.memRequest core thread r .read fun q a n loc => q.lmemWrite core thread loc (q.bytes a n))
    (State.memRequest_granted a n loc ha hn hloc hsome hmost hslice hhbm q hq hgranted)

/-- A granted write copies local memory to HBM (R406). -/
theorem execMemWrite_granted (hturn : s.ReqTurn core thread 3 2 r u) (a n loc : Nat) (ha : a = wordAt r.words 1)
    (hn : n = wordAt r.words 2 / 2 ^ 48) (hloc : loc = wordAt r.words 2 / 2 ^ 32 % 2 ^ 16) (hsome : n ≠ 0) (hmost : n ≤ 4096)
    (hslice : inSlice loc n = true) (hhbm : inHbm a = true) (q : State × Bool)
    (hq : q = u.memAccess .write (threadInit core thread) a n) (hgranted : q.2 = true) :
    execMemWrite core thread s = .next ((q.1.setBytes a ((q.1.core core).lmemBytes thread loc n)).reply core r stOk 0 []).settleCores :=
  hturn.serve_eq (f := fun u r => u.memRequest core thread r .write fun q a n loc => q.setBytes a ((q.core core).lmemBytes thread loc n))
    (State.memRequest_granted a n loc ha hn hloc hsome hmost hslice hhbm q hq hgranted)

/-- A host access of the thread's request, in order and not held: after the window check it is a write, a read, or is refused (R404,
R349). -/
theorem execHostEndpointRequest_issued (fn addr len loc : Nat) (slice : Option Nat) (wr : Bool) (data : List Byte) (c : State × Bool)
    (hfirst : s.request? core thread 6 = some r) (hissue : s.issueHeld fn slice = false) (hsome : len ≠ 0)
    (hslice : inSlice loc len = true) (hc : c = (s.takeReq core r).dmaCheck fn slice wr addr len) :
    execHostEndpointRequest core thread fn slice wr addr len loc data s =
      if c.2 = false then .next (c.1.reply core r stAccessViolation 0 []).settleCores
      else if wr = true then
        .next ((c.1.issueWrite fn slice addr ((c.1.core core).lmemBytes thread loc len)).reply core r stOk 0 []).settleCores
      else
        let a := c.1.issueRead fn slice addr len
        .next ((a.lmemWrite core thread loc (fitBytes len (a.dmaData fn addr len data))).reply core r stOk 0 []).settleCores := by
  unfold execHostEndpointRequest
  simp only [hfirst, hissue, hsome, hslice, ← hc, Bool.not_true, Bool.not_eq_true', Bool.false_eq_true, if_false]

end

/-- Settles O38: each command's clause is its lemma above. That bytes beyond a packet's end are free values is log 144, a choice of the
model beside R405. -/
theorem completePackets : Obligations.CompletePackets := by
  unfold Obligations.CompletePackets
  refine ⟨?read, ?write, ?inject, ?free, ?alloc, ?memRead, ?memWrite, ?host, ?gmul, ?xmul⟩
  case read =>
    intro core thread s r hfirst hop u q hsome hmost hslice id p hheld got d
    exact execPbfRead_held ⟨hfirst, hop, rfl⟩ _ _ _ rfl hsome hmost hslice hheld got d rfl rfl
  case write =>
    intro core thread s r hfirst hop u q hsome hmost hslice id p hheld d bs
    exact execPbfWrite_held ⟨hfirst, hop, rfl⟩ _ _ _ rfl hsome hmost hslice hheld d rfl
  case inject =>
    intro core thread s r hfirst hop u n hmost id p hheld hlaunch half d q k
    exact execPbfInject_held ⟨hfirst, hop, rfl⟩ _ n _ half rfl hmost hheld hlaunch d k rfl rfl rfl
  case free =>
    intro core thread s r hfirst hop u id p hheld
    exact execPbfFree_held ⟨hfirst, hop, rfl⟩ hheld
  case alloc =>
    intro core thread s r hfirst hop u hopen k
    exact execPbfAlloc_open ⟨hfirst, hop, rfl⟩ hopen k rfl
  case memRead =>
    intro core thread s r hfirst hop u a n loc hsome hmost hslice hhbm q hgranted
    exact execMemRead_granted ⟨hfirst, hop, rfl⟩ a n loc rfl rfl rfl hsome hmost hslice hhbm q rfl hgranted
  case memWrite =>
    intro core thread s r hfirst hop u a n loc hsome hmost hslice hhbm q hgranted
    exact execMemWrite_granted ⟨hfirst, hop, rfl⟩ a n loc rfl rfl rfl hsome hmost hslice hhbm q rfl hgranted
  case host =>
    intro core thread fn addr len loc slice data s r hfirst hissue hsome hslice
    have hissued (wr : Bool) : exec (.hostEndpointRequest core thread fn slice wr addr len loc data) s = _ :=
      execHostEndpointRequest_issued fn addr len loc slice wr data _ hfirst hissue hsome hslice rfl
    exact ⟨fun hpass => (hissued true).trans ((if_neg (ne_false_of_eq_true hpass)).trans (if_pos rfl)),
      fun hpass => (hissued false).trans ((if_neg (ne_false_of_eq_true hpass)).trans (if_neg Bool.false_ne_true)),
      fun wr hdenied => (hissued wr).trans (if_pos hdenied)⟩
  case gmul =>
    intro core thread x y s hready
    exact if_neg (by simp [hready])
  case xmul =>
    intro core thread x s hready
    exact if_neg (by simp [hready])

end Sys2Proof.Machine
end

section
/-! SUPPORT. Faults, deadlocks, the debugger and loading of the cores: the command of each clause of O39 where its conditions hold. -/

namespace Sys2Proof.Machine

section
variable {core : Fin 128} {thread : Fin 8} {s : State}

/-! ### Faults and deadlock -/

/-- An instruction of a ready thread faults with a cause of Table 14-4 (R407). -/
theorem execThreadFault_ready (cause : BitVec 4) (addr : BitVec 32) (hready : s.threadReady core thread = true)
    (hsome : cause.toNat ≠ 0) (hcause : cause.toNat ≤ 8) :
    execThreadFault core thread cause addr s = .next (s.threadFault core thread cause.toNat addr.toNat).settleCores := by
  unfold execThreadFault
  simp only [hready, hsome, Nat.not_lt.2 hcause, Bool.not_true, decide_false, Bool.or_self, Bool.false_eq_true, if_false]

/-- The first report of a deadlock of a live core (R411). -/
theorem execDeadlock_first {a e : Nat} (hall : (s.core core).allSince = some a) (htransit : s.transitEnd core = some e)
    (hfirst : (s.core core).episode = false) (hlive : s.coreLive core = true) (b : State)
    (hb : b = ((s.after ((if a < e then e else a) + 1024 * fclk)).setCore core { s.core core with episode := true }).fcxCount 6) :
    execDeadlock core s = .next (b.postNote core (2 * 2 ^ 56 + threadMask (s.core core).blocked)).settleCores := by
  subst hb
  unfold execDeadlock
  simp only [hall, htransit, hfirst, hlive, Bool.not_true, Bool.or_self, Bool.false_eq_true, if_false]

/-- A sample that reports nothing, as FCX_GDL holds a report or no cycle has four samples and no report (R412). -/
theorem execGlobalDeadlockSample_quiet (a : State) (ha : a = s.after (s.fcx.gdlAt + 8192 * fclk)) (cyc : List GdlCycle)
    (hcyc : cyc = a.waitCycles.map a.sampleCycle) (b : State)
    (hb : b = { a with fcx := { a.fcx with cycles := cyc, delivered := [], gdlAt := a.now } })
    (hquiet : (if b.flag FCX_GDL.valid = true then none else cyc.find? fun k => decide (4 ≤ k.samples) && !k.reported) = none) :
    execGlobalDeadlockSample s = .next b := by
  unfold execGlobalDeadlockSample
  simp only [← ha, ← hcyc, ← hb, hquiet]

/-- A stopped thread's staged message is reported once (R414). -/
theorem execThreadHeld_staged {t d : Nat} (hsince : ((s.core core).thread thread).dbgSince = some t)
    (hdest : ((s.core core).thread thread).dest = some d) (hfirst : ((s.core core).thread thread).heldPosted = false) (b : State)
    (hb : b = ((s.after (t + 65536 * fclk)).setThread core thread
      { (s.core core).thread thread with heldPosted := true }).postNote core
        (3 * 2 ^ 56 + thread.val * 2 ^ 53 + d % 2 ^ 16 * 2 ^ 32 + 0)) :
    execThreadHeld core thread s = .next (if d < 2 ^ 15 then b.postNote (d / 128 % 128)
        (3 * 2 ^ 56 + thread.val * 2 ^ 53 + d % 2 ^ 16 * 2 ^ 32 + 1) else b).settleCores := by
  subst hb
  unfold execThreadHeld
  simp only [hsince, hdest, hfirst, Bool.false_eq_true, if_false]

/-! ### Debugging -/

/-- A debug command that is taken, on a core that runs, completes with the result of its work `f` (Table 8-9). -/
theorem State.dbgRun_done {init op index res : Nat} {f : State → FThread → State × Nat} {v : State} (b : State × Bool)
    (hb : b = s.dbgTake init op core thread index) (htaken : b.2 = true) (hlive : b.1.coreLive core = true)
    (hwork : f b.1 ((b.1.core core).thread thread) = (v, res)) :
    s.dbgRun init op core thread index f = .next (v.setF FCX_DBG_CMD.result res).settleCores := by
  rw [s.dbgRun_runs init op core thread index f b.1 (by rw [← hb, ← htaken]) hlive, hwork]

/-- A thread stops (R413). -/
theorem execDbgStop_live {init : Nat} (b : State × Bool) (hb : b = s.dbgTake init 1 core thread 0) (htaken : b.2 = true)
    (hlive : b.1.coreLive core = true) (h : FThread) (hh : h = (b.1.core core).thread thread) :
    execDbgStop init core thread s = .next ((b.1.setThread core thread { h with
      dbgSince := some (h.dbgSince.getD b.1.now), heldPosted := h.heldPosted && h.dbgSince.isSome }).setF FCX_DBG_CMD.result stOk).settleCores := by
  subst hh
  exact State.dbgRun_done b hb htaken hlive rfl

/-- A thread runs on (R413). -/
theorem execDbgResume_live {init : Nat} (b : State × Bool) (hb : b = s.dbgTake init 2 core thread 0) (htaken : b.2 = true)
    (hlive : b.1.coreLive core = true) (h : FThread) (hh : h = (b.1.core core).thread thread) :
    execDbgResume init core thread s = .next ((b.1.setThread core thread
      { h with dbgSince := none, heldPosted := false, arch := [] }).setF FCX_DBG_CMD.result stOk).settleCores := by
  subst hh
  exact State.dbgRun_done b hb htaken hlive rfl

/-- A thread issues one instruction and stops again (R413). -/
theorem execDbgStep_live {init : Nat} (b : State × Bool) (hb : b = s.dbgTake init 3 core thread 0) (htaken : b.2 = true)
    (hlive : b.1.coreLive core = true) (h : FThread) (hh : h = (b.1.core core).thread thread)
    (a : State) (ha : a = (b.1.setThread core thread { h with dbgSince := none, arch := [] }).settleCores) :
    execDbgStep init core thread s = .next ((a.setThread core thread
      { (a.core core).thread thread with dbgSince := some a.now, heldPosted := false }).setF FCX_DBG_CMD.result stOk).settleCores := by
  subst hh ha
  exact State.dbgRun_done b hb htaken hlive rfl

/-- A stopped thread's state word that something wrote since the stop (R413). -/
theorem execDbgRead_known {init : Nat} (index : BitVec 32) (b : State × Bool) (hb : b = s.dbgTake init 4 core thread index.toNat)
    (htaken : b.2 = true) (hlive : b.1.coreLive core = true) (h : FThread) (hh : h = (b.1.core core).thread thread)
    (hstopped : h.dbgSince.isSome = true) {v : Nat} (hword : Tab.look h.arch index.toNat = some v) :
    execDbgRead init core thread index s
      = .next ((b.1.setReg .FCX_DBG_DATA (BitVec.ofNat 64 v)).setF FCX_DBG_CMD.result stOk).settleCores := by
  refine State.dbgRun_done b hb htaken hlive ?_
  simp only [← hh, ← Option.not_isSome, hstopped, hword, Bool.not_true, Bool.false_eq_true, if_false]

/-- FCX_DBG_DATA enters a stopped thread's state word (R413). -/
theorem execDbgWrite_stopped {init : Nat} (index : BitVec 32) (b : State × Bool)
    (hb : b = s.dbgTake init 5 core thread index.toNat) (htaken : b.2 = true) (hlive : b.1.coreLive core = true) (h : FThread)
    (hh : h = (b.1.core core).thread thread) (hstopped : h.dbgSince.isSome = true) :
    execDbgWrite init core thread index s = .next ((b.1.setThread core thread
      { h with arch := Tab.put h.arch index.toNat (b.1.reg .FCX_DBG_DATA).toNat }).setF FCX_DBG_CMD.result stOk).settleCores := by
  refine State.dbgRun_done b hb htaken hlive ?_
  simp only [← hh, ← Option.not_isSome, hstopped, Bool.not_true, Bool.false_eq_true, if_false]

/-! ### Loading -/

/-- A load whose image the module reads into cores that may hold it starts, or completes as malformed (R416–R418). -/
theorem execCoreLoad_checked {init addr : Nat} {first last : Fin 128} (b : State × Bool) (hb : b = s.loadTake init 1 first last addr)
    (cs : List Nat) (hcs : cs = (List.range (last.val + 1)).drop first.val) (htaken : b.2 = true) (hinit : init < 0x20)
    (hallowed : b.1.loadRefused cs = false) (horder : first ≤ last) (t : State) (img : List Byte)
    (hread : b.1.readImage (addr % 2 ^ 38 / 64 * 64) = (t, some img)) (hstore : cs.all t.storeAllowed = true) :
    execCoreLoad init first last addr s = if fcxImageOk img = true
      then .next ((cs.foldl (fun t c => t.startLoad c (.addr (addr % 2 ^ 38 / 64 * 64)) img) t).setF FCX_LOAD.busy 1).settleCores
      else .next (t.setF FCX_LOAD.result stMalformed) := by
  unfold execCoreLoad
  simp only [← hb, ← hcs, htaken, Nat.not_le.2 hinit, hallowed, not_lt.2 horder, hread, hstore, Bool.not_true, decide_false, Bool.or_self,
    Bool.false_eq_true, if_false, Bool.not_eq_true']
  cases fcxImageOk img <;> rfl

/-- A core with a recorded image starts to reload from it (R419, R420). -/
theorem execResetCore_reloads {init : Nat} (b : State × Bool)
    (hb : b = s.loadTake init 2 core (s.getF FCX_LOAD.last) (s.getF FCX_LOAD.addr * 64)) (htaken : b.2 = true)
    (hallowed : b.1.loadRefused [core.val] = false) (himg : (b.1.core core).img ≠ .none)
    (hloads : (b.1.reloadCore core).fcx.loading.contains core.val = true) :
    execResetCore init core s = .next ((b.1.reloadCore core).setF FCX_LOAD.busy 1).settleCores := by
  unfold execResetCore
  simp only [← hb, htaken, hallowed, himg, hloads, Bool.not_true, Bool.false_eq_true, if_false, if_true]

/-- A group of loading cores is released, and cores of another group still load (R418). -/
theorem execCoreLoadGroupDone_released {group : Fin 16} (cs : List Nat)
    (hcs : cs = s.fcx.loading.filter fun c => c / 8 == group.val) (hsome : cs ≠ []) (a : State)
    (ha : a = cs.foldl (fun t c => t.setCore c { t.core c with st := .startup, released := t.now }) s) (rest : List Nat)
    (hrest : rest = a.fcx.loading.filter fun c => c / 8 != group.val) (hmore : rest ≠ []) :
    execCoreLoadGroupDone group s = .next ({ a with fcx := { a.fcx with loading := rest } }).settleCores := by
  unfold execCoreLoadGroupDone
  simp only [← hcs, ← ha, ← hrest, List.isEmpty_eq_false_iff.2 hsome, List.isEmpty_eq_false_iff.2 hmore, Bool.false_and, Bool.false_eq_true,
    if_false]

end

/-- Settles O39: each command's clause is its lemma above. -/
theorem completeCores : Obligations.CompleteCores := by
  unfold Obligations.CompleteCores
  refine ⟨?fault, ?deadlock, ?sample, ?held, ?stop, ?resume, ?step, ?read, ?write, ?load, ?reset, ?groupDone, ?timeout⟩
  case fault =>
    intro core thread cause addr s
    exact execThreadFault_ready cause addr
  case deadlock =>
    intro core s a e hall htransit hfirst hlive b
    exact execDeadlock_first hall htransit hfirst hlive b rfl
  case sample =>
    intro s a cyc b
    exact ⟨fun hheld => execGlobalDeadlockSample_quiet a rfl cyc rfl b rfl (if_pos hheld),
      fun hfree hnone => execGlobalDeadlockSample_quiet a rfl cyc rfl b rfl ((if_neg (ne_true_of_eq_false hfree)).trans hnone)⟩
  case held =>
    intro core thread s t d hsince hdest hfirst a note b
    exact execThreadHeld_staged hsince hdest hfirst b rfl
  case stop =>
    intro init core thread s b htaken hlive h
    exact execDbgStop_live b rfl htaken hlive h rfl
  case resume =>
    intro init core thread s b htaken hlive h
    exact execDbgResume_live b rfl htaken hlive h rfl
  case step =>
    intro init core thread s b htaken hlive h a
    exact execDbgStep_live b rfl htaken hlive h rfl a rfl
  case read =>
    intro init core thread index s b htaken hlive h hstopped v hword
    exact execDbgRead_known index b rfl htaken hlive h rfl hstopped hword
  case write =>
    intro init core thread index s b htaken hlive h hstopped
    exact execDbgWrite_stopped index b rfl htaken hlive h rfl hstopped
  case load =>
    intro init first last addr s b cs htaken hinit hallowed horder t img hread hstore
    have hload : exec (.coreLoad init first last addr) s = _ :=
      execCoreLoad_checked b rfl cs rfl htaken hinit hallowed horder t img hread hstore
    exact ⟨fun hok => hload.trans (if_pos hok), fun hbad => hload.trans (if_neg (ne_true_of_eq_false hbad))⟩
  case reset =>
    intro init core s b
    exact execResetCore_reloads b rfl
  case groupDone =>
    intro group s cs hsome a rest hmore
    exact execCoreLoadGroupDone_released cs rfl hsome a rfl rest rfl hmore
  case timeout =>
    intro core s hst
    exact if_pos hst

end Sys2Proof.Machine
end
section
/-! SUPPORT. Concrete states that meet the conditions of the statements on the flow cores, at the bounds where clauses meet. They are
evaluated one after another, as those on the transport are. -/

namespace Sys2Proof.Machine

set_option Elab.async false

/-- The first thread of the first core and the last of the last. -/
def threadCases : List (Fin 128 × Fin 8) := [(0, 0), (127, 7)]

/-- A thread that runs, with these words staged for channel 2 of the next core's thread 3. -/
def runningThread (words : List Nat) : FThread :=
  { FThread.off with enabled := true, dest := some (1 * 128 + 3 * 16 + 2), words := words }

/-- A running core with thread `t`, whose channels 0 and 15 of sixteen words are bound to it, and these requests. -/
def runningCore (t : Nat) (h : FThread) (reqs : List FReq) : FCore :=
  { FCore.off with
    st := .running, threads := [(t, h)], chans := [(0, ⟨t, true, 16, none⟩), (15, ⟨t, true, 16, none⟩)], reqs := reqs }

/-- In MANAGED, core `c` is that core. -/
def coreState (c : Nat) (x : FCore) : State :=
  let s := servingState.setF MODE_STATE.mode mManaged
  { s with fcx := { s.fcx with cores := [(c, x)] } }

/-! ### Channels -/

/-- The thread may issue an instruction, with a full buffer, with room for the last word and with an empty buffer. -/
theorem coreState_ready : ∀ p ∈ threadCases, ∀ n ∈ [0, 7, 8],
    let s := coreState p.1 (runningCore p.2 (runningThread (List.replicate n 5)) [])
    s.threadReady p.1 p.2 = true ∧ ((s.core p.1).thread p.2).words.length = n := by decide +kernel

/-- It may commit, and receive on channels 0 and 15, with no notification first. -/
theorem coreState_waits : ∀ p ∈ threadCases, let s := coreState p.1 (runningCore p.2 (runningThread [5]) [])
    let h := (s.core p.1).thread p.2
    h.words ≠ [] ∧ h.dest = some 178 ∧ s.eventFirst p.1 p.2 (178 == 2 ^ 15) = false ∧ s.eventFirst p.1 p.2 false = false ∧
      (maskChans (0x8001 : BitVec 16).toNat).all (fun ch => (s.core p.1).boundTo ch p.2) = true := by decide +kernel

/-- A packet of either half goes to channel 15 of a thread's core, which has room for its words or is one word short. -/
theorem coreState_packetDelivery : ∀ half ∈ ([0, 1] : List Nat), ∀ p ∈ threadCases, ∀ queued ∈ [12, 13],
    let x := { runningCore p.2 (runningThread []) [] with queues := [(15, [⟨List.replicate queued 0, 0, 0⟩])] }
    let k := { Pkt.ofFrame 0 0 (zeroBytes 60) with act := { Act.none with dest := p.1.val * 128 + p.2.val * 16 + 15 } }
    let n := (coreState p.1 x).newPkt k
    let s := n.2.pushLst .toCore half n.1
    let a := s.popLst .toCore half n.1
    let d := k.act.dest % 2 ^ 15
    (s.pktsIn .toCore half).head? = some (n.1, k) ∧ d / 128 % 128 = p.1.val ∧ a.coreAbsent p.1 = false ∧ a.noReceiver p.1 = false ∧
      d < 2 ^ 14 ∧ (a.core p.1).boundTo (d % 16) (d / 16 % 8) = true ∧ (a.core p.1).room (d % 16) = 16 - queued := by decide +kernel

/-! ### Endpoints -/

/-- Request of operation `op` of an endpoint, with these further words. -/
def endpointReq (t ep op : Nat) (words : List Nat) : FReq := ⟨ep, t, op * 2 ^ 60 :: words⟩

/-- It is the first of its thread. -/
theorem coreState_requests : ∀ p ∈ threadCases, ∀ e ∈ [(0, 6), (2, 5), (3, 2), (6, 1)], ∀ op ∈ List.range (e.2 + 1),
    let r := endpointReq p.2 e.1 op [1, 2]
    (coreState p.1 (runningCore p.2 (runningThread []) [r])).request? p.1 p.2 e.1 = some r ∧ r.op = op := by decide +kernel

/-- A timer of the least delay, a timer that ends, a restart of an enabled thread other than 0, and a start-up to be done. -/
theorem coreState_core : ∀ p ∈ threadCases,
    let timer := endpointReq p.2 0 2 [1]
    let restart := endpointReq p.2 0 4 [3 * 2 ^ 61]
    let x := runningCore p.2 (runningThread []) [restart]
    let u := (coreState p.1 (x.setThread 3 (runningThread []))).takeReq p.1 restart
    let started := (coreState p.1 { x with st := .startup }).takeReq p.1 restart
    wordAt timer.words 1 = 1 ∧ wordAt restart.words 1 / 2 ^ 61 = 3 ∧ ((u.core p.1).thread 3).enabled = true ∧
      (started.core p.1).st = .startup ∧
      ((coreState p.1 { x with timers := [⟨100, p.2, 0, 0⟩] }).core p.1).timers = [⟨100, p.2, 0, 0⟩] := by decide +kernel

/-- A request on a packet that its core holds, of the least length and of the greatest, at the end of the thread's slice. -/
theorem coreState_pbf : ∀ p ∈ threadCases, ∀ op ∈ [1, 2, 3, 4], ∀ n ∈ [1, 8192],
    let k := Pkt.ofFrame 0 0 (zeroBytes 60)
    let off := if op = 2 then 16380 - n else 0
    let m (id : Nat) : FReq := endpointReq p.2 2 op [id % 2 ^ 32 * 2 ^ 32 + off, n * 2 ^ 48 + (32768 - n) * 2 ^ 32, 0]
    let c := (coreState p.1 (runningCore p.2 (runningThread []) [])).newPkt k
    let r := m c.1
    let t := c.2.pushLst .held p.1 c.1
    let u := (t.setCore p.1 { t.core p.1 with reqs := [r] }).takeReq p.1 r
    let q := pbfArgs r
    q.2.2.1 = n ∧ q.2.1 = off ∧ inSlice q.2.2.2 q.2.2.1 = true ∧ inSlice q.2.2.2 (q.2.2.1 + 1) = false ∧
      u.handle? p.1 (wordAt r.words 1 / 2 ^ 32) = some (c.1, k) ∧ wordAt r.words 3 = 0 ∧ u.bufferClosed = false := by decide +kernel

/-- The last rule of the access tables of the first region of HBM and of the last lets the threads read and write all of them. -/
def State.openHbm (s : State) : State :=
  { s with slc := { s.slc with rules := [26, 32].map fun t => (t * 32 + 31, actAllow true true false 0x400 0x7FF) } }

/-- A thread that these rules let reads and writes one byte and 4096 at the first place of HBM and the last, at the end of its slice. -/
theorem coreState_mem : ∀ n ∈ [1, 4096], ∀ a ∈ [0x0100000000, 0x0D00000000 - n], ∀ p ∈ threadCases, ∀ op ∈ [1, 2],
    let r := endpointReq p.2 3 op [a, n * 2 ^ 48 + (32768 - n) * 2 ^ 32]
    let s := (coreState p.1 (runningCore p.2 (runningThread []) [r])).openHbm
    s.request? p.1 p.2 3 = some r ∧ wordAt r.words 1 = a ∧ wordAt r.words 2 / 2 ^ 48 = n ∧
      inSlice (wordAt r.words 2 / 2 ^ 32 % 2 ^ 16) n = true ∧ inHbm a = true ∧
      ((s.takeReq p.1 r).memAccess (if op = 1 then .read else .write) (threadInit p.1 p.2) a n).2 = true := by
  decide +kernel

/-! ### Faults, the debugger and loading -/

/-- A thread may report the first cause and the last; all wait with nothing in transit; one has been held, by a destination. -/
theorem coreState_waitsLong : ∀ p ∈ threadCases,
    let h := { runningThread [] with dbgSince := some 3 }
    let x := { runningCore p.2 h [] with allSince := some 3 }
    let s := coreState p.1 x
    s.core p.1 = x ∧ s.transitEnd p.1 = some 0 ∧ s.coreLive p.1 = true ∧ x.thread p.2 = h ∧ h.dest = some 178 ∧
      (coreState p.1 (runningCore p.2 (runningThread []) [])).threadReady p.1 p.2 = true ∧ s.flag FCX_GDL.valid = false ∧
      s.waitCycles = [] := by decide +kernel

/-- The debugger takes each of its commands on a thread of a live core; a word already listed is there to read. -/
theorem coreState_debugger : ∀ p ∈ threadCases, ∀ op ∈ [1, 2, 3, 4, 5], ∀ init ∈ [0, 0x20],
    let h := { runningThread [] with dbgSince := some 3, arch := [(7, 9)] }
    let b := (coreState p.1 (runningCore p.2 h [])).dbgTake init op p.1 p.2 7
    b.2 = true ∧ b.1.coreLive p.1 = true ∧ (b.1.core p.1).thread p.2 = h ∧ Tab.look h.arch 7 = some 9 := by decide +kernel

/-- A core that has no image is free to load; one that starts up may be late, and two groups that load end one by one. -/
theorem coreState_loading : ∀ init ∈ [0, 0x1F],
    let b := servingState.loadTake init 1 0 127 0x7A0000000
    let s := coreState 0 { FCore.off with st := .startup }
    let two := { s with fcx := { s.fcx with loading := [0, 127] } }
    b.2 = true ∧ b.1.loadRefused (List.range 128) = false ∧ (s.core 0).st = .startup ∧
      (two.fcx.loading.filter fun c => c / 8 == 0) = [0] ∧ (two.fcx.loading.filter fun c => c / 8 != 0) = [127] := by decide +kernel

end Sys2Proof.Machine
end
section
/-! SUPPORT. Writing, preferring and revoking images: the command of each clause of O29 where its conditions hold. -/

namespace Sys2Proof.Machine

/-- Update operation `op` is let through: `t` is the state whose UPD_CMD holds it, idle, allowed by R477 and out of DARKROOM (R484). -/
structure State.UpdTurn (s : State) (init op : Nat) (v : Word) (prepare : Bool) (t : State) : Prop where
  access : (s.blockAccess 3 .write init 0).2 = true
  taken : t = s.updTaken init op v
  idle : t.flag UPD_CMD.busy = false
  allowed : t.updReason op prepare = 0
  awake : t.mode ≠ mDarkroom

/-- An operation that is let through does its work. -/
theorem State.UpdTurn.op_eq {s t u : State} {init op : Nat} {v : Word} {prepare : Bool} {f : State → State}
    (h : s.UpdTurn init op v prepare t) (hwork : f t = u) : s.updOp init op v f prepare = u := by
  rw [s.updOp_runs init op v f prepare t h.taken h.access h.idle h.allowed h.awake, hwork]

section
variable {init : Nat} {v : Word} {s t : State}

/-! ### The inactive slot -/

/-- A sequence opens where none stands: the slot's header is erased and the held one is empty (R476, log 113). -/
theorem execUpdOpen_closed (hturn : s.UpdTurn init 1 v false t) (hnone : t.upd.header = none) : execUpdOpen init v s
    = .next (((t.eraseHeader t.inactiveSlot).setSequence (some (zeroBytes 512))).updEnd stOk 0) :=
  congrArg Host.Outcome.next (hturn.op_eq (by
    simp only [hnone, Option.isSome_none, Bool.false_eq_true, if_false]))

/-- Bytes that fit the slot and that UPD may read enter the open sequence (R476). -/
theorem execUpdWrite_fits (hturn : s.UpdTurn init 2 v false t) (n o : Nat) (hn : n = t.getF UPD_ARG.length)
    (ho : o = t.getF UPD_ARG.offset) (hsome : n ≠ 0) (hfits : o + n ≤ slotSize) {h b : List Byte} {u : State}
    (hopen : t.upd.header = some h) (hread : t.updRead n = (u, some b)) :
    execUpdWrite init v s = .next ((u.updPut h o b).updEnd stOk 0) :=
  congrArg Host.Outcome.next (hturn.op_eq (by
    simp only [← hn, ← ho, hsome, Nat.not_lt.2 hfits, hopen, hread, or_self, if_false]))

/-- A held header that passes its checks closes the sequence (R476, log 114). -/
theorem execUpdClose_passes (hturn : s.UpdTurn init 3 v false t) {h : List Byte} (hopen : t.upd.header = some h)
    (hpasses : t.heldReason h = 0) : execUpdClose init v s
      = .next ((((t.setBytes (slotBase t.inactiveSlot) h).setF (triesField (t.inactiveSlot + 1)) 0).setSequence none).updEnd stOk 0) :=
  congrArg Host.Outcome.next (hturn.op_eq (by
    simp only [hopen, hpasses, ne_eq, not_true_eq_false, if_false]))

/-- A slot is preferred whose other is no valid image of a higher version (R476). -/
theorem execUpdPrefer_allowed (hturn : s.UpdTurn init 5 v false t) (slot : Nat) (hslot : slot = t.getF UPD_CMD.slot)
    (hother : t.storeReason (1 - slot + 1) ≠ 0 ∨
      imageVersion (t.storeBytes (1 - slot + 1)) ≤ imageVersion (t.storeBytes (slot + 1))) :
    execUpdPrefer init v s = .next ((t.setF BOOT_PERSIST.preferred slot).updEnd stOk 0) := by
  have hkeeps : ¬(t.storeReason (1 - slot + 1) = 0 ∧
      imageVersion (t.storeBytes (slot + 1)) < imageVersion (t.storeBytes (1 - slot + 1))) := by
    rintro ⟨hvalid, hhigher⟩
    exact hother.elim (· hvalid) (Nat.not_le.2 hhigher)
  exact congrArg Host.Outcome.next (hturn.op_eq (by simp only [← hslot, hkeeps, if_false]))

/-! ### Fuses -/

/-- The rollback counter goes up to the number given, or the operation is malformed (R465, R466). -/
theorem execAdvanceSvn_taken (hturn : s.UpdTurn init 8 v false t) (n : Nat) (hn : n = t.getF UPD_ARG.length % 64) :
    execAdvanceSvn init v s
      = .next (if n < t.fuse.rollback then t.updEnd stMalformed 0 else t.blow { t.fuse with rollback := n }) := by
  subst hn
  exact congrArg Host.Outcome.next (hturn.op_eq rfl)

/-! ### The owner -/

/-- A key that UPD reads becomes the owner's where the lock is open (R475). -/
theorem execEnrollOwner_open (hturn : s.UpdTurn init 9 v false t) (hopen : t.flag BOOT_PERSIST.owner_lock = false) {u : State}
    {b : List Byte} (hread : t.updRead 96 = (u, some b)) (w : State)
    (hw : w = { u with boot := { u.boot with owner := beBytes 48 (sha384 b) } }) :
    execEnrollOwner init v s = .next ((w.setF BOOT_PERSIST.owner_enrolled 1).updEnd stOk 0) :=
  congrArg Host.Outcome.next (hturn.op_eq (by
    simp only [hopen, hread, ← hw, Bool.false_eq_true, if_false]))

/-- An enrolled owner locks (R475). -/
theorem execOwnerLock_enrolled (hturn : s.UpdTurn init 10 v false t) (henrolled : t.flag BOOT_PERSIST.owner_enrolled = true) :
    execOwnerLock init v s = .next ((t.setF BOOT_PERSIST.owner_lock 1).updEnd stOk 0) :=
  congrArg Host.Outcome.next (hturn.op_eq (by
    simp only [henrolled, Bool.not_true, Bool.false_eq_true, if_false]))

/-- A signature that UPD reads opens the lock if the enrolled owner's key made it (R475, log 105), and the nonce changes. -/
theorem execOwnerUnlock_read (hturn : s.UpdTurn init 11 v false t) {u : State} {sig : List Byte}
    (hread : t.updRead 96 = (u, some sig)) (good : Bool) (hgood : good = (u.flag BOOT_PERSIST.owner_enrolled
      && (ecdsaKeys u.unlockDigest sig).any fun k => beBytes 48 (sha384 k) == u.boot.owner)) :
    execOwnerUnlock init v s = .next (if good = true then (u.freshNonce.setF BOOT_PERSIST.owner_lock 0).updEnd stOk 0
      else u.freshNonce.updEnd stRefusedState 12) :=
  congrArg Host.Outcome.next (hturn.op_eq (by simp only [hread, ← hgood]))

end

/-- Settles O29: each command's clause is its lemma above. That the header of a fresh sequence is 512 zero bytes (log 113), that the keys
of an ECDSA signature are recovered from it (log 105), and what the inactive slot is (log 114) are choices of the model beside R475 and
R476. -/
theorem completeUpdates : Obligations.CompleteUpdates := by
  unfold Obligations.CompleteUpdates
  refine ⟨?opens, ?write, ?close, ?activate, ?prefer, ?invalidate, ?revoke, ?advance, ?enroll, ?lock, ?unlock⟩
  case opens =>
    intro init v s a haccess t hidle hallowed hawake hnone
    exact execUpdOpen_closed ⟨haccess, rfl, hidle, hallowed, hawake⟩ hnone
  case write =>
    intro init v s a haccess t hidle hallowed hawake n o hsome hfits h b u hopen hread
    exact execUpdWrite_fits ⟨haccess, rfl, hidle, hallowed, hawake⟩ n o rfl rfl hsome hfits hopen hread
  case close =>
    intro init v s a haccess t hidle hallowed hawake h hopen hpasses
    exact execUpdClose_passes ⟨haccess, rfl, hidle, hallowed, hawake⟩ hopen hpasses
  case activate =>
    intro init v prepare s a haccess t hidle hallowed hawake
    have hturn : s.UpdTurn init 4 v prepare t := ⟨haccess, rfl, hidle, hallowed, hawake⟩
    exact congrArg Host.Outcome.next (hturn.op_eq rfl)
  case prefer =>
    intro init v s a haccess t hidle hallowed hawake slot hother
    exact execUpdPrefer_allowed ⟨haccess, rfl, hidle, hallowed, hawake⟩ slot rfl hother
  case invalidate =>
    intro init v s a haccess t hidle hallowed hawake
    have hturn : s.UpdTurn init 6 v false t := ⟨haccess, rfl, hidle, hallowed, hawake⟩
    exact congrArg Host.Outcome.next (hturn.op_eq rfl)
  case revoke =>
    intro init v s a haccess t hidle hallowed hawake
    have hturn : s.UpdTurn init 7 v false t := ⟨haccess, rfl, hidle, hallowed, hawake⟩
    exact congrArg Host.Outcome.next (hturn.op_eq rfl)
  case advance =>
    intro init v s a haccess t hidle hallowed hawake n
    have htaken : exec (.advanceSvn init v) s = _ := execAdvanceSvn_taken ⟨haccess, rfl, hidle, hallowed, hawake⟩ n rfl
    exact ⟨fun hup => htaken.trans (congrArg _ (if_neg (Nat.not_lt.2 hup))), fun hdown => htaken.trans (congrArg _ (if_pos hdown))⟩
  case enroll =>
    intro init v s a haccess t hidle hallowed hawake hopen u b hread w
    exact execEnrollOwner_open ⟨haccess, rfl, hidle, hallowed, hawake⟩ hopen hread w rfl
  case lock =>
    intro init v s a haccess t hidle hallowed hawake henrolled
    exact execOwnerLock_enrolled ⟨haccess, rfl, hidle, hallowed, hawake⟩ henrolled
  case unlock =>
    intro init v s a haccess t hidle hallowed hawake u sig hread good
    have hdone : exec (.ownerUnlock init v) s = _ :=
      execOwnerUnlock_read ⟨haccess, rfl, hidle, hallowed, hawake⟩ hread good rfl
    exact ⟨fun hgood => hdone.trans (congrArg _ (if_pos hgood)),
      fun hbad => hdone.trans (congrArg _ (if_neg (ne_true_of_eq_false hbad)))⟩

end Sys2Proof.Machine
end
section
/-! SUPPORT. Concrete states that meet the conditions of the statements on updates, activation, boot and measurement, at the bounds where
clauses meet. They are evaluated one after another, as those on the transport are. -/

namespace Sys2Proof.Machine

set_option Elab.async false

/-- The first initiator that an access table always admits and the last. -/
def firmwareCases : List Nat := [0, 0x20]

/-! ### Updates -/

/-- Each operation of UPD_CMD is taken at rest with a full reserve, and an owner's also without one. -/
theorem reserveFull_updates : ∀ init ∈ firmwareCases, ∀ op ∈ [1, 2, 3, 4, 5, 6, 7, 8, 9, 10, 11], ∀ full ∈ [0, 1],
    let s := servingState.setF PWR_STATUS.reserve_full full
    let t := s.updTaken init op 0
    (s.blockAccess 3 .write init 0).2 = true ∧ t.flag UPD_CMD.busy = false ∧ (full = 1 ∨ 9 ≤ op → t.updReason op false = 0) ∧
      t.mode ≠ mDarkroom ∧ t.upd.header = none ∧ t.flag BOOT_PERSIST.owner_lock = false := by decide +kernel

/-- A write of one byte at the slot's start and at its end takes its bytes from HBM, and the counter may stand or rise to its most. -/
theorem openState_updates : ∀ off ∈ [0, slotSize - 1], ∀ svn ∈ [0, 63],
    let opened := ((servingState.setF PWR_STATUS.reserve_full 1).setF UPD_ARG.length 1).setF UPD_ARG.offset off
    let t := (opened.setSequence (some (zeroBytes 512))).updTaken 0 2 (BitVec.ofNat 64 0x7A0000000)
    t.getF UPD_ARG.length = 1 ∧ t.getF UPD_ARG.offset + 1 ≤ slotSize ∧ t.upd.header = some (zeroBytes 512) ∧
      (t.updRead 1).2 = some (zeroBytes 1) ∧ (t.updRead 96).2 = some (zeroBytes 96) ∧ t.updReason 2 false = 0 ∧
      ((servingState.setF UPD_ARG.length svn).updTaken 0 8 0).getF UPD_ARG.length % 64 = svn ∧ servingState.fuse.rollback = 0 ∧
      ((servingState.setF BOOT_PERSIST.owner_enrolled 1).updTaken 0 10 0).flag BOOT_PERSIST.owner_enrolled = true := by decide +kernel

/-! ### Activation -/

/-- An activation of slot B: prepared, committed or not. -/
def activating (commit : Option Nat) : ActSt := ⟨false, 1, 0, 0, [], none, commit, false⟩

/-- A module that activates, whose boot may end or be done. -/
theorem activatingState_conditions : ∀ commit ∈ [none, some 5],
    let s := { servingState with upd := { servingState.upd with act := some (activating commit) } }
    let fresh := { servingState.setF MODE_STATE.booted 0 with modes := { servingState.modes with phase := .handedOver } }
    s.upd.act = some (activating commit) ∧ s.nveBusy = false ∧ s.flag ODF_STATUS.master = false ∧
      (s.blockAccess 2 .write 0 0x20).2 = true ∧ s.modes.dReset = none ∧ fresh.upd.act = none ∧ fresh.booted = false ∧
      fresh.modes.asserted = none := by decide +kernel

/-! ### The ROM -/

/-- The module in its ROM, its boot so. -/
def romState (f : BootSt → BootSt) : State :=
  { servingState.setF MODE_STATE.booted 0 with
    modes := { servingState.modes with phase := .rom }, boot := f servingState.boot }

/-- It starts, waits for each source or takes an image from it, has chosen a store, and counts its retry window open or shut. -/
theorem romState_conditions :
    (romState id).inRom = true ∧ (romState id).boot.log = [] ∧ (romState id).boot.recState = 0 ∧
      (∀ src ∈ [BootSrc.odfer, .hostPush, .management],
        let waits := romState fun b => { b with wait := some (src, 9) }
        let takes := romState fun b => { b with transfer := some (src, 9) }
        waits.transferOpen src = true ∧ waits.boot.transfer = none ∧ waits.mode ≠ mDarkroom ∧ takes.boot.transfer = some (src, 9) ∧
          takes.inRom = true) ∧
      (∀ store ∈ [1, 2, 3],
        let s := romState fun b => { b with chosen := some (store, 0), watchdog := some 9 }
        s.boot.chosen = some (store, 0) ∧ s.inRom = true ∧ s.boot.watchdog = some 9 ∧ s.modes.asserted = none) ∧
      ∀ shut ∈ [false, true], (romState fun b => { b with window := some (shut, 9) }).boot.window = some (shut, 9) := by decide +kernel

/-- A recovery function that masters the bus while the host's push is awaited. -/
theorem romState_recGo :
    let x : FnSt := { windowFn with personality := .recovery, busMaster := true }
    let s := (romState fun b => { b with wait := some (.hostPush, 9) }).setFn 0x800 x
    s.fn? 0x800 = some x ∧ s.boot.recState = 0 ∧ s.transferOpen .hostPush = true := by decide +kernel

/-! ### Measurement -/

/-- Any register is read, the last four are extended, and the log's one entry is read. -/
theorem loggedState_measurement : ∀ init ∈ firmwareCases,
    let s := { servingState with boot := { servingState.boot with log := [zeroBytes 64] } }
    let t := ((s.blockAccess 2 .write init 0x28).1.setF BOOT_MEAS_CMD.op 3).setF BOOT_MEAS_CMD.n 0
    (s.blockAccess 2 .write init 0x28).2 = true ∧ t.boot.log[0]? = some (zeroBytes 64) ∧ t.boot.log[1]? = none := by decide +kernel

end Sys2Proof.Machine
end
section
/-! SUPPORT. Activation, the ROM's boot and measurement: the command of each clause of O30 and O31 where its conditions hold. -/

namespace Sys2Proof.Machine

section
variable {s : State}

/-! ### The commit and its end -/

/-- A standalone module with no command in progress commits when it is ready (R478, R479). -/
theorem execActivateCommit_ready {a : ActSt} (hact : s.upd.act = some a) (hbefore : a.commit = none) (hidle : s.nveBusy = false)
    (halone : s.flag ODF_STATUS.master = false) : execActivateCommit .ready s = .next (s.commitAct a) := by
  unfold execActivateCommit
  simp only [hact, hbefore, hidle, halone, Option.isSome_none, Bool.false_eq_true, if_false]

/-- A cascade's own failure rolls a committed activation back (R481, R482). -/
theorem execBootFail_cascade {a : ActSt} (hact : s.upd.act = some a) (hcommitted : a.commit.isSome = true)
    (hforward : a.rolling = false) : execBootFail .cascade s = .next (s.rollBack a) := by
  unfold execBootFail
  simp only [hact, hcommitted, hforward, Bool.not_true, Bool.not_false, Bool.and_true, Bool.false_eq_true, if_false, if_true]

/-- 180 ms after the commit without boot completion the activation rolls back (R481). -/
theorem execActivateTimeout_committed {a : ActSt} {c : Nat} (hact : s.upd.act = some a) (hcommit : a.commit = some c)
    (hforward : a.rolling = false) : execActivateTimeout s = .next ((s.after (c + 180 * msT)).rollBack a) := by
  unfold execActivateTimeout
  simp only [hact, hcommit, hforward, Bool.false_eq_true, if_false]

/-- Firmware's write of BOOT_CTL.done, let through by its block (R467, R479). -/
theorem execBootDone_firmware {init : Nat} (c : State × Bool) (hc : c = s.blockAccess 2 .write init 0x20) (haccess : c.2 = true)
    (hother : init ≠ 0x020) : execBootDone init s = match c.1.upd.act with
      | some a => if a.commit.isSome && c.1.modes.dReset.isNone then .next (c.1.finishAct a) else .next c.1
      | none => if c.1.modes.phase == .handedOver && c.1.modes.asserted.isNone && !c.1.booted then .next c.1.completeBoot
        else .next c.1 := by
  unfold execBootDone
  simp only [← hc, haccess, beq_eq_false_iff_ne.2 hother, Bool.not_true, Bool.or_self, Bool.false_eq_true, if_false] <;> rfl

/-! ### The ROM -/

/-- The ROM's first run samples the straps, extends its measurements with free digests (log 110) and tries the sources (R458, R472). -/
theorem execRomStart_first (straps : BitVec 5) (hrom : s.inRom = true) (hfirst : s.boot.log = []) (a : State)
    (ha : a = (s.setBoot { s.boot with straps := straps.toNat }).setF ODF_STATUS.own_id (straps.toNat % 4)) (c : State)
    (hc : c = (((a.extend 0 1 0 0 0 0 (beBytes 48 Config.romHash)).extendFree 1 1).extendFree 7 1).extendFree 9 1) :
    execRomStart straps s = .next (c.bootFrom (bootOrder (if c.fuse.orderLock then c.fuse.order else straps.toNat / 4))) := by
  subst ha hc
  unfold execRomStart
  simp only [hrom, hfirst, List.isEmpty_nil, Bool.not_true, Bool.or_self, Bool.false_eq_true, if_false]

/-- A management transfer that stands for 5 s fails (R459). -/
theorem execSourceWaitTimeout_transfer {t : Nat} (hrom : s.inRom = true) (hruns : s.boot.transfer = some (.management, t)) :
    execSourceWaitTimeout s = .next (s.after (t + 5 * secT)).sourceFailed := by
  unfold execSourceWaitTimeout
  simp only [hrom, hruns, Bool.not_true, Bool.false_eq_true, if_false, if_true]

/-- A source whose wait ends with nothing started fails (R459). -/
theorem execSourceWaitTimeout_wait {x : BootSrc} {t : Nat} (hrom : s.inRom = true) (hnone : s.boot.transfer = none)
    (hwaits : s.boot.wait = some (x, t)) : execSourceWaitTimeout s = .next (s.after t).sourceFailed := by
  unfold execSourceWaitTimeout
  simp only [hrom, hnone, hwaits, Bool.not_true, Bool.false_eq_true, if_false]

/-- REC_GO of a RECOVERY function that may read host memory starts the host push (R471). -/
theorem execRecGo_open {fn : Nat} {x : FnSt} (hfn : s.fn? fn = some x) (hpers : x.personality = .recovery) (hidle : s.boot.recState = 0)
    (hopen : s.transferOpen .hostPush = true) (hmaster : x.busMaster = true) (a : State) (ha : a = s.startTransfer .hostPush) :
    execRecGo fn 1 s = .next ((a.setBoot { a.boot with recState := 1, recReason := 0 }).emit
      (.hostRead fn none a.boot.recAddr a.boot.recLen)) := by
  unfold execRecGo
  simp only [hfn, hpers, hidle, hopen, hmaster, ← ha, ne_eq, not_true_eq_false, decide_false, beq_self_eq_true, Bool.true_or,
    Bool.not_true, Bool.or_self, Bool.false_eq_true, if_false]

/-- A TFTP write starts where none runs and the ROM waits on it (R471). -/
theorem execTftpImageWrite_starts (hnone : s.boot.transfer = none) (hopen : s.transferOpen .management = true) :
    execTftpImageWrite s = .next (s.startTransfer .management) := by
  unfold execTftpImageWrite
  simp only [hnone, hopen, if_true]

/-- The master's offer starts a transfer outside DARKROOM on either link (R459, R500). -/
theorem execOdferImageOffer_awake (link : Fin 2) (hopen : s.transferOpen .odfer = true) (hawake : s.mode ≠ mDarkroom) :
    execOdferImageOffer link s = .next (s.startTransfer .odfer) := by
  unfold execOdferImageOffer
  simp only [hopen, beq_eq_false_iff_ne.2 hawake, Bool.false_and, Bool.not_false, Bool.and_self, if_true]

/-- An image that a master sent is put in its slot (log 108) and boots if it passes (R463). -/
theorem execImageReceived_odfer {n : Nat} (image : List Byte) (hruns : s.boot.transfer = some (.odfer, n)) (hrom : s.inRom = true)
    (hawake : s.mode ≠ mDarkroom) (slot : Nat) (hslot : slot = s.receiveSlot) (a : State) (ha : a = s.putImage slot image) (r : Nat)
    (hr : r = a.storeReason (slot + 1)) (b : State) (hb : b = (a.setFail (slot + 1) r).recEnd .odfer r) :
    execImageReceived image s
      = if r = 0 then .next ((b.setHostPush false).choose (slot + 1) BootSrc.odfer.path) else .next b.sourceFailed := by
  have hlong : (BootSrc.odfer == BootSrc.hostPush) = false := rfl
  unfold execImageReceived
  simp only [hruns, hrom, hawake, hlong, ← hslot, ← ha, ← hr, ← hb, Bool.not_true, Bool.false_and, Bool.false_eq_true, if_false]

/-- The chosen image is measured and takes over (R462, R472). -/
theorem execRomHandover_chosen {store path : Nat} (hchosen : s.boot.chosen = some (store, path)) (hrom : s.inRom = true) (v : Nat)
    (hv : v = imageVersion (s.storeBytes store)) (a : State)
    (ha : a = s.setF (triesField store) (s.getF (triesField store) + 1)) (b : State)
    (hb : b = ((a.setF BOOT_STATUS.store store).setF BOOT_STATUS.path path).setF BOOT_VERSION.version v) (c : State)
    (hc : c = (b.measureImage store 1).showInactive) : execRomHandover s = .next { c with
      boot := { c.boot with chosen := none, running := store, version := v, watchdog := some (c.now + 60 * secT) }
      modes := { c.modes with phase := .handedOver } } := by
  unfold execRomHandover
  simp only [hchosen, hrom, ← hv, ← ha, ← hb, ← hc, Bool.not_true, Bool.false_eq_true, if_false]

/-- The boot watchdog asks for a W reset where none is asserted (R462). -/
theorem execBootWatchdog_armed {t : Nat} (harmed : s.boot.watchdog = some t) (hnone : s.modes.asserted = none) :
    execBootWatchdog s = .next (((s.after t).beginReset .w none).setF BOOT_STATUS.wdog 1) := by
  unfold execBootWatchdog
  simp only [harmed, hnone, Option.isSome_none, Bool.false_eq_true, if_false]

/-- The recovery window closes and the retry wait starts (R470). -/
theorem execRecoveryWindowClose_open {t : Nat} (hopen : s.boot.window = some (false, t)) (a : State) (ha : a = s.after t) :
    execRecoveryWindowClose s
      = .next (a.setBoot { a.boot with window := some (true, a.now + min 64 (2 ^ a.getF BOOT_PERSIST.dr_count) * secT) }) := by
  unfold execRecoveryWindowClose
  simp only [hopen, ← ha]

/-- The retry wait ends in a C reset (R470, R462). -/
theorem execDarkroomRetry_waits {t : Nat} (hwaits : s.boot.window = some (true, t)) (a : State) (ha : a = s.after t) (b : State)
    (hb : b = a.setF BOOT_PERSIST.dr_count (min 255 (a.getF BOOT_PERSIST.dr_count + 1))) : execDarkroomRetry s
      = .next ((((b.setF BOOT_PERSIST.tries_a 0).setF BOOT_PERSIST.tries_b 0).setF BOOT_PERSIST.tries_g 0).beginReset .c (some 7)) := by
  unfold execDarkroomRetry
  simp only [hwaits, ← ha, ← hb]

end

/-- Settles O30: each command's clause is its lemma above. That the digests of M1, M7 and M9 are free (log 110), which slot a received
image enters (log 108), and what the inactive slot is (log 114) are choices of the model beside R463, R472 and R476. -/
theorem completeActivation : Obligations.CompleteActivation := by
  unfold Obligations.CompleteActivation
  refine ⟨?commit, ?fail, ?timeout, ?done, ?romStart, ?sourceWait, ?recGo, ?tftp, ?offer, ?received, ?handover, ?watchdog, ?windowClose,
    ?retry⟩
  case commit =>
    intro s a
    exact execActivateCommit_ready
  case fail =>
    intro s a
    exact execBootFail_cascade
  case timeout =>
    intro s a c
    exact execActivateTimeout_committed
  case done =>
    intro init s c haccess hother
    have hdone : exec (.bootDone init) s = _ := execBootDone_firmware c rfl haccess hother
    constructor
    · intro a hact hcommitted hreset
      rw [hdone, hact]
      simp only [hcommitted, hreset, Option.isNone_none, Bool.and_self, if_true]
    · intro hact hphase hnone hbefore
      rw [hdone, hact]
      simp only [hphase, hnone, hbefore, beq_self_eq_true, Option.isNone_none, Bool.not_false, Bool.and_self, if_true]
  case romStart =>
    intro straps s hrom hfirst a b c
    exact execRomStart_first straps hrom hfirst a rfl c rfl
  case sourceWait =>
    intro s hrom
    exact ⟨fun t => execSourceWaitTimeout_transfer hrom, fun x t => execSourceWaitTimeout_wait hrom⟩
  case recGo =>
    intro fn s x hfn hpers hidle hopen hmaster a
    exact execRecGo_open hfn hpers hidle hopen hmaster a rfl
  case tftp =>
    intro s
    exact execTftpImageWrite_starts
  case offer =>
    intro link s
    exact execOdferImageOffer_awake link
  case received =>
    intro image s n hruns hrom hawake slot a r b
    have hreceived : exec (.imageReceived image) s = _ :=
      execImageReceived_odfer image hruns hrom hawake slot rfl a rfl r rfl b rfl
    exact ⟨fun hgood => hreceived.trans (if_pos hgood), fun hbad => hreceived.trans (if_neg hbad)⟩
  case handover =>
    intro s store path hchosen hrom v a b c
    exact execRomHandover_chosen hchosen hrom v rfl a rfl b rfl c rfl
  case watchdog =>
    intro s t
    exact execBootWatchdog_armed
  case windowClose =>
    intro s t hopen a
    exact execRecoveryWindowClose_open hopen a rfl
  case retry =>
    intro s t hwaits a b
    exact execDarkroomRetry_waits hwaits a rfl b rfl

/-! ### The contact sheet -/

/-- A measurement command that its block lets through stores its fields and the result of its work (R472). -/
theorem State.measOp_done {s t u : State} {init op n res : Nat} {f : State → State × Nat}
    (haccess : (s.blockAccess 2 .write init 0x28).2 = true)
    (ht : t = ((s.blockAccess 2 .write init 0x28).1.setF BOOT_MEAS_CMD.op op).setF BOOT_MEAS_CMD.n n) (hwork : f t = (u, res)) :
    s.measOp init op n f = u.setF BOOT_MEAS_CMD.result res := by
  rw [s.measOp_runs init op n f t haccess ht, hwork]

/-- An entry of the event log is read (R473). -/
theorem execMeasLogRead_stored {s : State} {init : Nat} (n : BitVec 10) (haccess : (s.blockAccess 2 .write init 0x28).2 = true) (t : State)
    (ht : t = ((s.blockAccess 2 .write init 0x28).1.setF BOOT_MEAS_CMD.op 3).setF BOOT_MEAS_CMD.n n.toNat) {e : List Byte}
    (he : t.boot.log[n.toNat]? = some e) :
    execMeasLogRead init n s = .next ((t.putMeasData e 8).setF BOOT_MEAS_CMD.result stOk) :=
  congrArg Host.Outcome.next (State.measOp_done haccess ht (by simp only [he]))

/-- A read beyond the event log is malformed (R473). -/
theorem execMeasLogRead_beyond {s : State} {init : Nat} (n : BitVec 10) (haccess : (s.blockAccess 2 .write init 0x28).2 = true) (t : State)
    (ht : t = ((s.blockAccess 2 .write init 0x28).1.setF BOOT_MEAS_CMD.op 3).setF BOOT_MEAS_CMD.n n.toNat)
    (hnone : t.boot.log[n.toNat]? = none) : execMeasLogRead init n s = .next (t.setF BOOT_MEAS_CMD.result stMalformed) :=
  congrArg Host.Outcome.next (State.measOp_done haccess ht (by simp only [hnone]))

/-- Settles O31: a measurement command stores the result of its work, which is the clause's. That the remaining fields of a log entry of
MEAS_EXTEND are 0 is log 110, a choice of the model beside R473. -/
theorem completeMeasurement : Obligations.CompleteMeasurement := by
  unfold Obligations.CompleteMeasurement
  refine ⟨?read, ?extend, ?logRead⟩
  case read =>
    intro init n s a haccess t hn
    exact congrArg Host.Outcome.next (State.measOp_done haccess rfl (if_neg (Nat.not_lt.2 hn)))
  case extend =>
    intro init n s a haccess t hfirst hlast d
    refine congrArg Host.Outcome.next (State.measOp_done haccess rfl (if_neg ?_))
    exact not_or.2 ⟨Nat.not_lt.2 hfirst, Nat.not_lt.2 hlast⟩
  case logRead =>
    intro init n s a haccess t
    exact ⟨fun e he => execMeasLogRead_stored n haccess t rfl he, fun hnone => execMeasLogRead_beyond n haccess t rfl hnone⟩

end Sys2Proof.Machine
end
section
/-! SUPPORT. Cascade records, masters, the shared flow table and far lookups: the command of each clause of O36 where its conditions
hold. -/

namespace Sys2Proof.Machine

section
variable {s : State}

/-! ### Agreement records -/

/-- A module of a cascade sends its record on the links that are not MISWIRED (R490). -/
theorem execAgreementRecordSend_on (hon : s.odfOn = true) (a : State)
    (ha : a = (if s.flag ODF_STATUS.master then s.noteActivating s.upd.act.isSome else s).showCascade) :
    execAgreementRecordSend s = .next ([0, 1].foldl (fun t l =>
      let st := t.getF ODF_LINK_STATUS.state l
      if st = 3 then t else (if st = 0 then t.setLinkState l 1 else t).emit (.odfer l t.ownRecord)) a) := by
  unfold execAgreementRecordSend
  simp only [hon, ← ha, Bool.not_true, Bool.false_eq_true, if_false]

/-- A record over a link whose two ends have one number: MISWIRED (R486). -/
theorem execAgreementRecordReceive_miswired {link peerLink : Fin 2} (peer : Fin 4) (delay : BitVec 24) (offset : Int) (r : List Byte)
    (hon : s.odfOn = true) (hsame : peerLink = link) :
    execAgreementRecordReceive link peer peerLink delay offset r s = .next (s.setLinkState link.val 3) := by
  unfold execAgreementRecordReceive
  simp only [hon, hsame, Bool.not_true, Bool.false_eq_true, if_false, if_true]

/-- A valid record brings its link up and is taken (R490, R491, log 121). -/
theorem execAgreementRecordReceive_valid {link peerLink : Fin 2} (peer : Fin 4) (delay : BitVec 24) (offset : Int) {r : List Byte}
    (hon : s.odfOn = true) (hother : peerLink ≠ link) (hvalid : recValid r = true) (a : State)
    (ha : a = (((s.setLinkState link.val 2).setF ODF_LINK_STATUS.peer_id peer.val link.val).setF ODF_LINK_STATUS.peer_link peerLink.val
        link.val).setF ODF_LINK_STATUS.delay delay.toNat link.val) (b : State)
    (hb : b = { a with odf := { a.odf with linkHeard := Tab.put a.odf.linkHeard link.val a.now } }) :
    execAgreementRecordReceive link peer peerLink delay offset r s = .next (b.takeRecord link.val r offset) := by
  unfold execAgreementRecordReceive
  simp only [hon, hother, hvalid, ← ha, ← hb, Bool.not_true, Bool.false_eq_true, if_false]

/-! ### Silence -/

/-- A link in service falls silent (R486). -/
theorem execOdferLinkDown_up (link : Fin 2) (lost : Nat) (hrom : s.inRom = false) (hup : s.getF ODF_LINK_STATUS.state link.val = 2)
    (a : State) (ha : a = s.after (lastHeard s.odf.linkHeard (· == link.val) + odfSilence)) : execOdferLinkDown link lost s
      = .next (((a.setLinkState link.val 0).bump ODF_CNT.count 2 0 lost).raise (38 + link.val) (faultA 0x0100)).showCascade := by
  unfold execOdferLinkDown
  simp only [hrom, hup, ← ha, ne_eq, not_true_eq_false, Bool.false_eq_true, if_false]

/-- The lowest live member of a majority takes over a MANAGED cascade whose master fell silent (R488). -/
theorem execMasterSilent_promoted (hmember : s.mode = mMember) (hslave : s.flag ODF_STATUS.master = false) (hnone : s.modes.req = none)
    (m : Nat) (hm : m = s.getF ODF_STATUS.master_id) (r : List Byte) (hr : r = s.memberRec m) (hmaster : recMaster r = true) (a : State)
    (ha : a = s.after (lastHeard s.odf.heard (· == m) + odfSilence + 1)) (hleaderless : a.actingMaster = none)
    (hfit : a.promotable m = true) (hmode : recMode r = mManaged) (b : State)
    (hb : b = ((a.bump ODF_STATUS.promotions).setF ODF_STATUS.master 1).setF ODF_STATUS.master_id (a.getF ODF_STATUS.own_id)) :
    execMasterSilent s = .next (b.showCascade.beginMode .cascade mManaged) := by
  unfold execMasterSilent
  simp only [hmember, hslave, hnone, ← hm, ← hr, hmaster, ← ha, hleaderless, hfit, hmode, ← hb, ne_eq, not_true_eq_false,
    Option.isSome_none, Option.isNone_none, Bool.false_eq_true, or_self, beq_self_eq_true, Bool.true_or, Bool.and_self, if_false, if_true]

/-- A master of an active cascade whose members are silent ends it on its side (R488). -/
theorem execMemberSilent_master (hmaster : s.flag ODF_STATUS.master = true) (hactive : s.flag ODF_STATUS.active = true) :
    execMemberSilent s = .next
      ((s.after (lastHeard s.odf.heard (fun m => decide (m < 4)) + odfSilence + 1)).setF ODF_STATUS.master 0).showCascade := by
  unfold execMemberSilent
  simp only [hmaster, hactive, Bool.not_true, Bool.or_self, Bool.false_eq_true, if_false]

/-- A member with no mode request moves to STANDALONE (R46). -/
theorem execCascadeLinksSilent_member (hmember : s.mode = mMember) (hnone : s.modes.req = none) : execCascadeLinksSilent s
    = .next ((s.after (lastHeard s.odf.linkHeard (fun _ => true) + odfSilence)).beginMode .cascade mStandalone) := by
  unfold execCascadeLinksSilent
  simp only [hmember, hnone, ne_eq, not_true_eq_false, Option.isSome_none, Bool.false_eq_true, or_self, if_false]

/-! ### The master's commands -/

/-- A member that is READY with the master's number takes the lock-up (R498). -/
theorem execOdfLockup_ready {n : Nat} (t : Nat) (refused : BitVec 4) (hready : s.readyForme = some n) (hfree : s.frm.lockup = none)
    (hactive : s.flag ODF_STATUS.active = true) (hslave : s.flag ODF_STATUS.master = false) :
    execOdfLockup (.master n t) refused s = .next (s.takeLockUp (.reg (0x040 + s.getF ODF_STATUS.master_id)) t) := by
  unfold execOdfLockup
  simp only [hready, hfree, hactive, hslave, Option.isNone_none, and_self, if_true]

/-- A cascade command of the master's firmware that is let through does its work (Table 17-3). -/
theorem State.odfOp_done {init op : Nat} {f : State → State} {u : State} (a : State × Bool) (ha : a = s.blockAccess 22 .write init 0x20)
    (haccess : a.2 = true) (b : State) (hb : b = a.1.setF ODF_CMD.op op) (hidle : b.flag ODF_CMD.busy = false)
    (hmaster : b.flag ODF_STATUS.master = true) (hinit : init ≤ 0x01F) (hwork : f b = u) : s.odfOp init op f = u := by
  subst ha
  rw [s.odfOp_runs init op f b haccess hb hidle hmaster hinit, hwork]

/-- A master shares a table whose partition is ownerless (R496). -/
theorem execRepartitionHoldExpire_held {p : Nat × Nat} {rest : List (Nat × Nat)} (hgone : s.odf.goneSince = p :: rest)
    (hhold : s.getF ODF_CFG.repartition_hold ≠ 0) (hmaster : s.flag ODF_STATUS.master = true) : execRepartitionHoldExpire s
      = .next (s.after (p.2 + s.getF ODF_CFG.repartition_hold * msT)).repartition := by
  unfold execRepartitionHoldExpire
  simp only [hgone, hhold, hmaster, Bool.true_eq_false, or_self, if_false]

/-! ### Cross-member frames -/

/-- The port that the first step of a queue's chain names; 0 where the queue has no chain. -/
def State.chainDest (s : State) (q : Nat) : Nat :=
  match s.chain q with
  | some c => chainAt c 1
  | none => 0

/-- A good frame for another member is forwarded (R493). -/
theorem execOdferFrameReceive_forwards (link : Fin 2) (f : OdfFrame) (hactive : s.flag ODF_STATUS.active = true)
    (hup : s.getF ODF_LINK_STATUS.state link.val = 2) (hgood : f.word = 0) (a : State) (ha : a = s.bump ODF_CNT.count 1)
    (hother : f.member % 4 ≠ s.getF ODF_STATUS.own_id) :
    execOdferFrameReceive link f s = .next (a.forwardFrame link.val f) := by
  have hclean : ¬(0 : Fin 3) = 2 := by decide
  unfold execOdferFrameReceive
  simp only [hactive, hup, hgood, ← ha, hother, bne_self_eq_false, Bool.not_true, Bool.or_self, Bool.false_eq_true, hclean,
    zero_ne_one, ne_eq, not_false_eq_true, if_false, if_true]

/-- A good frame for this module is enqueued in the queue it names (R493). -/
theorem execOdferFrameReceive_enqueues (link : Fin 2) (f : OdfFrame) (hactive : s.flag ODF_STATUS.active = true)
    (hup : s.getF ODF_LINK_STATUS.state link.val = 2) (hgood : f.word = 0) (a : State) (ha : a = s.bump ODF_CNT.count 1)
    (hmine : f.member % 4 = s.getF ODF_STATUS.own_id) (hserves : a.heldOut = false) (n : Nat × State)
    (hn : n = a.newPkt (a.farPacket f)) : execOdferFrameReceive link f s = .next (n.2.enqueuePkt n.1
      { a.farPacket f with act := { (a.farPacket f).act with dest := n.2.chainDest f.queue % 8 } } (n.2.chainDest f.queue) f.queue) := by
  have hclean : ¬(0 : Fin 3) = 2 := by decide
  unfold execOdferFrameReceive State.chainDest
  simp only [hactive, hup, hgood, ← ha, hmine, hserves, ← hn, bne_self_eq_false, Bool.not_true, Bool.or_self, Bool.false_eq_true,
    hclean, zero_ne_one, ne_eq, not_true_eq_false, if_false] <;> rfl

/-! ### Far lookups -/

/-- The owner answers a member's lookup (R494, log 125). -/
theorem execFarLookupRequest_served (member : Fin 4) (id : Nat) (forme : Fin 8) (key : List Byte) (bads : List (Nat × Nat × Nat))
    (hactive : s.flag ODF_STATUS.active = true) (hserves : s.heldOut = false) (a : State) (ha : a = s.advanceSweep) (b : State)
    (hb : b = { a with tbl := { a.tbl with bad := a.tbl.bad ++ bads } }) (c : State)
    (hc : c = (b.tblLookup 4 key forme.val).bad.foldl (fun u pos => u.metBad 4 pos) b) :
    ((b.tblLookup 4 key forme.val).hit = none →
      execFarLookupRequest member id forme key bads s = .next (c.emit (.farResult member.val id none))) ∧
    (∀ pos v, (b.tblLookup 4 key forme.val).hit = some (pos, v) →
      execFarLookupRequest member id forme key bads s = .next ((c.setIdle 4 pos 0).emit (.farResult member.val id (some v)))) := by
  subst ha hb
  unfold execFarLookupRequest
  constructor
  · intro hmiss
    simp only [hactive, hserves, ← hc, hmiss, Bool.not_true, Bool.or_self, Bool.false_eq_true, if_false, Option.map_none]
  · intro pos v hhit
    simp only [hactive, hserves, ← hc, hhit, Bool.not_true, Bool.or_self, Bool.false_eq_true, if_false, Option.map_some]

/-- The result of a key that another member owns joins the packet (R494, log 122). -/
theorem execFarLookupResult_foreign {p : Fin 4} {id : Nat} (hit : Option Nat) (bads : List (Nat × Nat × Nat)) {k : Pkt} {img : FormeImg}
    (hfar : (s.lst .far p.val).contains id = true) (hpkt : s.pkt? id = some k) (a : State)
    (ha : a = ((s.after k.due).popLst .far p.val id).advanceSweep) (b : State)
    (hb : b = { a with tbl := { a.tbl with bad := a.tbl.bad ++ bads } }) (himg : Tab.look b.frm.slots k.forme = some img)
    (hforeign : b.fltForeign (beNat (k.fltKey img)) = true) :
    execFarLookupResult p id hit bads s = .next ((b.mergeFar id k img hit).pushLst .farBack p.val id) := by
  subst hb
  unfold execFarLookupResult
  simp only [hfar, hpkt, ← ha, himg, hforeign, Bool.not_true, Bool.false_eq_true, if_false, if_true]

/-- A packet whose far lookup brings nothing in 20 µs misses (R495, log 125). -/
theorem execFarLookupTimeout_due {p : Fin 4} {id : Nat} {k : Pkt} (hdue : firstDue (s.pktsIn .far p.val) = some (id, k)) (a : State)
    (ha : a = ((s.after (k.due + 20 * usT)).popLst .far p.val id).bump ODF_CNT.count 5) : execFarLookupTimeout p s
      = .next ((a.setPkt id { k with act := { k.act with fltReq := false } }).pushLst .farBack p.val id) := by
  unfold execFarLookupTimeout
  simp only [hdue, ← ha]

end

/-- Settles O36: each command's clause is its lemma above. What a record does to its link's state and which record is valid (log 121),
that a far result is merged as a lookup's own (log 122), and that a far timeout clears the packet's request and learns nothing
(log 125) are choices of the model beside R486, R494 and R495. -/
theorem completeCascade : Obligations.CompleteCascade := by
  unfold Obligations.CompleteCascade
  refine ⟨?send, ?receive, ?linkDown, ?master, ?member, ?silent, ?lockup, ?repartition, ?handback, ?hold, ?frame, ?request, ?result,
    ?timeout⟩
  case send =>
    intro s hon a
    exact execAgreementRecordSend_on hon a rfl
  case receive =>
    intro link peerLink peer delay offset r s hon
    exact ⟨execAgreementRecordReceive_miswired peer delay offset r hon,
      fun hother hvalid => execAgreementRecordReceive_valid peer delay offset hon hother hvalid _ rfl _ rfl⟩
  case linkDown =>
    intro link lost s hrom hup a
    exact execOdferLinkDown_up link lost hrom hup a rfl
  case master =>
    intro s hmember hslave hnone m r hmaster a hleaderless hfit hmode b
    exact execMasterSilent_promoted hmember hslave hnone m rfl r rfl hmaster a rfl hleaderless hfit hmode b rfl
  case member =>
    intro s
    exact execMemberSilent_master
  case silent =>
    intro s
    exact execCascadeLinksSilent_member
  case lockup =>
    intro n t refused s
    exact execOdfLockup_ready t refused
  case repartition =>
    intro init s a haccess b hidle hmaster hinit
    exact congrArg Host.Outcome.next (State.odfOp_done a rfl haccess b rfl hidle hmaster hinit rfl)
  case handback =>
    intro init s a haccess b hidle hmaster hinit hother
    exact congrArg Host.Outcome.next (State.odfOp_done a rfl haccess b rfl hidle hmaster hinit (if_neg hother))
  case hold =>
    intro s p rest
    exact execRepartitionHoldExpire_held
  case frame =>
    intro link f s hactive hup hgood a
    exact ⟨execOdferFrameReceive_forwards link f hactive hup hgood a rfl,
      fun hmine hserves => execOdferFrameReceive_enqueues link f hactive hup hgood a rfl hmine hserves _ rfl⟩
  case request =>
    intro member id forme key bads s hactive hserves a b f c
    exact execFarLookupRequest_served member id forme key bads hactive hserves a rfl b rfl c rfl
  case result =>
    intro p id hit bads s k img hfar hpkt a b himg hforeign
    exact execFarLookupResult_foreign hit bads hfar hpkt a rfl b rfl himg hforeign
  case timeout =>
    intro p s id k hdue a
    exact execFarLookupTimeout_due hdue a rfl

end Sys2Proof.Machine
end
section
/-! SUPPORT. Concrete states that meet the conditions of the statements on the cascade, at the bounds where clauses meet. They are evaluated
one after another, as those on the transport are. -/

namespace Sys2Proof.Machine

set_option Elab.async false

/-- A module of an active cascade, module 1 of it, master or a member of master 0, with link 0 up. -/
def cascadeState (master : Nat) : State :=
  let s := (servingState.setF MGT_START_CFG.cascade_enable 1).setF ODF_STATUS.active 1
  let t := ((s.setF ODF_STATUS.own_id 1).setF ODF_STATUS.master master).setF ODF_STATUS.master_id master
  (t.setF ODF_LINK_STATUS.state 2 0).setF MODE_STATE.mode (if master = 1 then mAutonomous else mMember)

/-- A record of version 1 of module `m`, in mode `mode`, a master's or not, its other fields 0. -/
def plainRecord (m mode : Nat) (master : Bool) : List Byte :=
  fitBytes 64 (leBytes 1 1 ++ leBytes 1 (m + 4 * b2n master) ++ leBytes 1 mode)

/-! ### Links and masters -/

/-- It sends and takes records, a link that is up may go silent, and so may its members. -/
theorem cascadeState_links : ∀ master ∈ [0, 1], let s := cascadeState master
    s.odfOn = true ∧ s.inRom = false ∧ s.getF ODF_LINK_STATUS.state 0 = 2 ∧ recValid (plainRecord 0 mManaged true) = true ∧
      s.modes.req = none ∧ s.flag ODF_STATUS.active = true ∧ s.flag ODF_STATUS.master = (master == 1) ∧
      (s.mode = mMember ↔ master = 0) := by decide +kernel

/-- The last record of its master named MANAGED; of a cascade of three, the lowest of the two that are still heard is promotable. -/
theorem cascadeState_masterSilent :
    let words := [plainRecord 0 mManaged true, [], plainRecord 2 mMember false].map fun r => leNat (r.take 8)
    let u := ((cascadeState 0).setF ODF_CFG.n_minus_1 2).setWords .ODF_MEMBER_REC words
    let s := { u with odf := { u.odf with heard := [(0, 0), (2, 5)] } }
    let a := s.after (lastHeard s.odf.heard (· == 0) + odfSilence + 1)
    s.getF ODF_STATUS.master_id = 0 ∧ recMaster (s.memberRec 0) = true ∧ recMode (s.memberRec 0) = mManaged ∧ a.actingMaster = none ∧
      a.promotable 0 = true := by decide +kernel

/-! ### The shared flow table -/

/-- The master's firmware repartitions and hands back, and a member that has gone is held for 1 ms. -/
theorem cascadeState_orders : ∀ init ∈ [0, 0x1F], ∀ op ∈ [2, 3],
    let s := cascadeState 1
    let b := (s.blockAccess 22 .write init 0x20).1.setF ODF_CMD.op op
    let held := { s.setF ODF_CFG.repartition_hold 1 with odf := { s.odf with goneSince := [(2, 5)] } }
    (s.blockAccess 22 .write init 0x20).2 = true ∧ b.flag ODF_CMD.busy = false ∧ b.flag ODF_STATUS.master = true ∧
      b.getF ODF_STATUS.own_id ≠ 0 ∧ held.odf.goneSince = [(2, 5)] ∧ held.getF ODF_CFG.repartition_hold ≠ 0 ∧
      held.flag ODF_STATUS.master = true := by decide +kernel

/-- A frame for this module or another, and a far lookup that misses. -/
theorem cascadeState_frames : ∀ member ∈ [0, 1],
    let f : OdfFrame := ⟨member, 0, 0, 0, 0, false, none, none, zeroBytes 60, 0⟩
    let s := (cascadeState 1).bump ODF_CNT.count 1
    (f.member % 4 = s.getF ODF_STATUS.own_id ↔ member = 1) ∧ s.heldOut = false ∧
      (s.advanceSweep.tblLookup 4 (zeroBytes 40) 0).hit = none := by decide +kernel

/-- A packet whose far lookup answers or is over after 20 µs. -/
theorem cascadeState_farPacket : ∀ port ∈ [0, 3],
    let k := Pkt.ofFrame 0 0 (zeroBytes 60)
    let n := (cascadeState 1).newPkt k
    let s := n.2.pushLst .far port n.1
    firstDue (s.pktsIn .far port) = some (n.1, k) ∧ (s.lst .far port).contains n.1 = true ∧ s.pkt? n.1 = some k := by decide +kernel

end Sys2Proof.Machine
end
section
/-! SUPPORT. AC, the reserve, the host's power, the thermal points, the management port and the SMBus: the command of each clause of O34
and O35 where its conditions hold. -/

namespace Sys2Proof.Machine

section
variable {s : State}

/-! ### AC and the reserve -/

/-- 15 ms after a loss of AC the MRAM writer closes (R64). -/
theorem execAcFailMramWindowEnd_failed {t : Nat} (hfail : s.hw.failAt = some t) (a : State) (ha : a = s.after (t + 15 * msT)) :
    execAcFailMramWindowEnd s = .next { a with modes := { a.modes with mramClosed := true } } := by
  unfold execAcFailMramWindowEnd
  simp only [hfail, ← ha]

/-- Without AC for 20 ms the rails go down, here with no power operation running (R502, log 127). -/
theorem execAcRailsDown_idle {t : Nat} (hfail : s.hw.failAt = some t) (hrails : s.hw.rails = true) (a : State)
    (ha : a = s.after (t + 20 * msT)) (hidle : a.hw.op = none) (b : State) (hb : b = (a.setAux false).railsDown) :
    execAcRailsDown s = .next (b.setHw { b.hw with op := none, tripAt := none }) := by
  unfold execAcRailsDown
  simp only [hfail, hrails, ← ha, hidle, ← hb, Bool.not_true, Bool.false_and, Bool.false_eq_true, if_false]

/-- AC that holds for 1 s with the rails up ends its failure (R502). -/
theorem execAcFailClear_up {t : Nat} (hfail : s.hw.failAt = some t) (hrails : s.hw.rails = true) (a : State)
    (ha : a = s.after (t + secT)) (b : State)
    (hb : b = ((a.setF PWR_STATUS.ac_fail 0).setF PWR_STATUS.ac_good 1).setHw { a.hw with failAt := none }) :
    execAcFailClear s = .next { b with modes := { b.modes with mramClosed := false } } := by
  unfold execAcFailClear
  simp only [hfail, hrails, ← ha, ← hb, Bool.not_true, Bool.false_and, Bool.false_eq_true, if_false]

/-- AC returns to rails that are down: with the island alive the reserve holds a free charge (log 128) and the reset's cause is ac_return,
without it the island starts afresh (R503, R505). -/
theorem execAcReturn_down (hrails : s.hw.rails = false) (hcold : s.hw.tripAt = none) (a : State)
    (ha : a = (s.setF PWR_STATUS.ac_fail 0).setF PWR_STATUS.ac_good 1) (b : State)
    (hb : b = { a with modes := { a.modes with mramClosed := false } }.setHw
      { a.hw with failAt := none, policy := some (a.now + 30 * secT) }) :
    (b.hw.island = true → execAcReturn s = .next (((((b.draw 7).2.draw 1).2.setF PWR_STATUS.reserve_pct (min (b.draw 7).1 100)).setF
      PWR_STATUS.reserve_full ((b.draw 7).2.draw 1).1).railsUp (some 2))) ∧
    (b.hw.island = false → ∀ c, c = (b.setF PWR_STATUS.reserve_pct 0).setF PWR_STATUS.reserve_full 0 →
      execAcReturn s = .next ((c.setHw { c.hw with island := true }).railsUp none)) := by
  unfold execAcReturn
  simp only [hrails, hcold, Option.isSome_none, Bool.or_self, Bool.false_eq_true, if_false, ← ha, ← hb]
  exact ⟨fun halive => if_pos halive, fun hdead c hc => by simp only [hdead, ← hc, Bool.false_eq_true, if_false]⟩

/-- The reserve of a live island runs out (R503). -/
theorem execReserveExhausted_alive (hrails : s.hw.rails = false) (hcold : s.hw.tripAt = none) (halive : s.hw.island = true) (a : State)
    (ha : a = (s.powerReset.setF PWR_STATUS.reserve_pct 0).setF PWR_STATUS.reserve_full 0) :
    execReserveExhausted s = .next (a.setHw { a.hw with island := false }) := by
  unfold execReserveExhausted
  simp only [hrails, hcold, halive, ← ha, Option.isSome_none, Bool.not_true, Bool.or_self, Bool.false_eq_true, if_false]

/-! ### The host's power -/

/-- The end of an operation's timed step goes on to what its step asks for (R507). -/
theorem execHostPowerOpEnd_timed {o : PowerOp} {t : Nat} (hop : s.hw.op = some o) (hends : o.ends = some t) :
    (o.step = .pulse → execHostPowerOpEnd s = .next ((s.after t).pulseOver o).policyAfter) ∧
    (o.step = .settle → execHostPowerOpEnd s = .next ((s.after t).pressOn o).policyAfter) ∧
    (o.step = .auxOff → execHostPowerOpEnd s = .next ((s.after t).powerOn { o with op := 1 }).policyAfter) := by
  unfold execHostPowerOpEnd
  refine ⟨fun hstep => ?_, fun hstep => ?_, fun hstep => ?_⟩ <;> simp only [hop, hends, hstep]

/-- A write of PWR_HOST_CTL with go that is let through starts its operation (R507). -/
theorem State.hostCtl_starts {init v : Nat} (a : State × Bool) (ha : a = s.blockAccess 23 .write init 0x10) (haccess : a.2 = true)
    (b : State) (hb : b = a.1.storeReg (fun _ => true) 23 0x10 .PWR_HOST_CTL 0 0 false false (BitVec.ofNat 64 v))
    (hgo : natBit v 31 = true) (hidle : b.flag PWR_HOST_CTL.busy = false) (hnone : b.hw.op = none) :
    s.hostCtl init v = b.startPower (b.getF PWR_HOST_CTL.op) := by
  subst ha
  exact s.hostCtl_runs init v b haccess hb hgo hidle hnone

/-- A wake that is forwarded with no operation running is an ON (R509, log 127); it does nothing more where the host is on. -/
theorem execHostWake_forwarded (a : State) (ha : a = (s.setF PWR_HOST_CTL.wake 1).emit (.coreIrq 23))
    (hforward : a.flag PWR_HOST_CTL.wake_fwd = true) (hnone : a.hw.op = none) :
    execHostWake s = if !a.modes.pwrGood then .next (a.startPower 1) else .next a := by
  unfold execHostWake
  simp only [← ha, hforward, hnone, Option.isNone_none, Bool.and_self, Bool.true_and]

/-- A due policy waits for the operation that runs, or is applied (R506, log 9). -/
theorem execHostPowerPolicyApply_due {t : Nat} (hdue : s.hw.policy = some t) (a : State)
    (ha : a = if s.booted then s else s.after t) : execHostPowerPolicyApply s
      = if a.hw.op.isSome = true then .next (a.setHw { a.hw with policy := some 0 }) else .next a.applyPolicy := by
  unfold execHostPowerPolicyApply
  simp only [hdue, ← ha]

/-! ### The thermal points -/

/-- A sensor at its alarm point raises the alarm (Table 18-8). -/
theorem execThermalAlarm_hot (x : Thermal) (a : State) (ha : a = s.showThermal x)
    (hhot : (a.getF PWR_THERM.tj_alarm : Int) ≤ x.tj ∨ 45 ≤ x.inlet ∨ 95 ≤ x.psu ∨ x.opticsAlarm = true)
    (hfirst : a.flag PWR_THERM.alarm = false) :
    execThermalAlarm x s = .next ((a.setF PWR_THERM.alarm 1).raise 41 (faultA 0x0100)) := by
  unfold execThermalAlarm
  simp only [← ha, hfirst, Bool.not_false, Bool.and_true, Bool.or_eq_true, decide_eq_true_eq, or_assoc, hhot, if_true]

/-- Sensors all 5 °C below their points clear the alarm (Table 18-8). -/
theorem execThermalAlarmClear_cool (x : Thermal) (a : State) (ha : a = s.showThermal x)
    (htj : x.tj + 5 ≤ (a.getF PWR_THERM.tj_alarm : Int)) (hinlet : x.inlet + 5 ≤ 45) (hpsu : x.psu + 5 ≤ 95)
    (hoptics : x.opticsAlarm = false) : execThermalAlarmClear x s = .next (a.setF PWR_THERM.alarm 0) := by
  unfold execThermalAlarmClear
  simp only [← ha, htj, hinlet, hpsu, hoptics, decide_true, Bool.not_false, Bool.and_self, if_true]

/-- Tj at its trip point, or the PSU at its own, takes the rails down (Table 18-8). -/
theorem execThermalTrip_hot (x : Thermal) (hhot : 120 ≤ x.tj ∨ 110 ≤ x.psu) (hrails : (s.showThermal x).hw.rails = true) (a : State)
    (ha : a = (s.showThermal x).railsDown) : execThermalTrip x s = .next (a.setHw { a.hw with tripAt := some a.now }) := by
  unfold execThermalTrip
  simp only [hhot, hrails, ← ha, and_self, if_true]

/-- A cool module starts again 60 s after its trip (Table 18-8). -/
theorem execThermalRestart_cool (x : Thermal) {t : Nat} (a : State) (ha : a = s.showThermal x) (htrip : a.hw.tripAt = some t)
    (hcool : x.tj ≤ 80) (b : State) (hb : b = a.after (t + 60 * secT)) : execThermalRestart x s
      = .next (((b.setHw { b.hw with tripAt := none }).setF PWR_RESET_CAUSE.l4_source 41).railsUp (some 6)) := by
  unfold execThermalRestart
  simp only [← ha, htrip, Int.not_lt.2 hcool, ← hb, if_false]

end

/-- Settles O34: each command's clause is its lemma above. That a further AC_FAIL counts its times afresh and that a wake is an ON operation
(log 127), that the reserve's charge at AC_RETURN is free (log 128), and the 30 s that the host power policy waits (log 9) are choices
of the model beside R502, R503, R506 and R509. -/
theorem completePower : Obligations.CompletePower := by
  unfold Obligations.CompletePower
  refine ⟨?acFail, ?mramWindow, ?railsDown, ?failClear, ?acReturn, ?exhausted, ?full, ?redfish, ?opEnd, ?on, ?off, ?forceOff, ?reset,
    ?cycle, ?auxOff, ?wake, ?policy, ?alarm, ?alarmClear, ?critical, ?trip, ?restart, ?psu⟩
  case acFail =>
    intro s a b
    rfl
  case mramWindow =>
    intro s t hfail a
    exact execAcFailMramWindowEnd_failed hfail a rfl
  case railsDown =>
    intro s t hfail hrails _ a hidle b
    exact execAcRailsDown_idle hfail hrails a rfl hidle b rfl
  case failClear =>
    intro s t hfail hrails a b
    exact execAcFailClear_up hfail hrails a rfl b rfl
  case acReturn =>
    intro s hrails hcold a b
    obtain ⟨halive, hdead⟩ := execAcReturn_down hrails hcold a rfl b rfl
    exact ⟨halive, fun hisland => hdead hisland _ rfl⟩
  case exhausted =>
    intro s hrails hcold halive a
    exact execReserveExhausted_alive hrails hcold halive a rfl
  case full =>
    intro s hgood
    exact if_pos hgood
  case redfish =>
    intro force s
    rfl
  case opEnd =>
    intro s o t
    exact execHostPowerOpEnd_timed
  case on =>
    intro init v s a haccess b hgo hidle hnone
    exact congrArg Host.Outcome.next (State.hostCtl_starts a rfl haccess b rfl hgo hidle hnone)
  case off =>
    intro init v s a haccess b hgo hidle hnone
    exact congrArg Host.Outcome.next (State.hostCtl_starts a rfl haccess b rfl hgo hidle hnone)
  case forceOff =>
    intro init v s a haccess b hgo hidle hnone
    exact congrArg Host.Outcome.next (State.hostCtl_starts a rfl haccess b rfl hgo hidle hnone)
  case reset =>
    intro init v s a haccess b hgo hidle hnone
    exact congrArg Host.Outcome.next (State.hostCtl_starts a rfl haccess b rfl hgo hidle hnone)
  case cycle =>
    intro init v s a haccess b hgo hidle hnone
    exact congrArg Host.Outcome.next (State.hostCtl_starts a rfl haccess b rfl hgo hidle hnone)
  case auxOff =>
    intro init v s a haccess b hgo hidle hnone
    exact congrArg Host.Outcome.next (State.hostCtl_starts a rfl haccess b rfl hgo hidle hnone)
  case wake =>
    intro s a hforward hnone
    have hwake : exec .hostWake s = _ := execHostWake_forwarded a rfl hforward hnone
    exact ⟨fun hlow => hwake.trans (if_pos (congrArg (!·) hlow)), fun hhigh => hwake.trans (if_neg (by simp [hhigh]))⟩
  case policy =>
    intro s t hdue a
    have happly : exec .hostPowerPolicyApply s = _ := execHostPowerPolicyApply_due hdue a rfl
    exact ⟨fun hbusy => happly.trans (if_pos hbusy), fun hidle => happly.trans (if_neg (ne_true_of_eq_false hidle))⟩
  case alarm =>
    intro x s a hhot hfirst
    exact execThermalAlarm_hot x a rfl hhot hfirst
  case alarmClear =>
    intro x s a htj hinlet hpsu hoptics
    exact execThermalAlarmClear_cool x a rfl htj hinlet hpsu hoptics
  case critical =>
    intro x s hhot
    exact congrArg Host.Outcome.next (if_pos hhot)
  case trip =>
    intro x s hhot hrails a
    exact execThermalTrip_hot x hhot hrails a rfl
  case restart =>
    intro x s t a htrip hcool b
    exact execThermalRestart_cool x a rfl htrip hcool b rfl
  case psu =>
    intro s
    rfl

section
variable {s : State}

/-! ### The management port and the SMBus -/

/-- A good frame that the port wants enters the next free receive buffer (R513, R515; the octets counted include the FCS, log 130). -/
theorem execMgmtFrameReceive_taken (frame : List Byte) (hup : s.flag MGT_ETH_STATUS.link_up = true) (hrun : s.modes.asserted = none)
    (hgood : fcsGood frame = true) (hwants : s.mgtWants frame = true) (p : Nat) (hp : p = s.getF MGT_ETH_RX.prod)
    (hroom : (p + 65536 - s.getF MGT_ETH_RX.cons) % 65536 < 64) (a : State) (ha : a = s.mgtWord 0) (b : State)
    (hb : b = (a.setBytes (mgtMem + 2048 * (p % 64)) (frame.take (frame.length - 4))).setBytes (mgtMem + 0x28000 + 16 * (p % 64))
      (mgtDesc (frame.length - 4) stOk)) (c : State)
    (hc : c = ((b.setF MGT_ETH_RX.prod (p + 1)).mgtCount 0).mgtCount 1 frame.length) :
    execMgmtFrameReceive frame 0 s = .next (if c.flag MGT_ETH_CFG.rx_irq then c.emit (.coreIrq 24) else c) := by
  have hclean : ¬(0 : Fin 3) = 2 := by decide
  unfold execMgmtFrameReceive
  simp only [hup, hrun, hgood, hwants, ← hp, Nat.not_le.2 hroom, hclean, ← ha, ← hb, ← hc, Option.isSome_none, Bool.not_true, Bool.or_self,
    Bool.false_eq_true, if_false]

/-- The link comes up on an enabled port, or goes down (R513). -/
theorem execMgmtLinkChange_running (gigabit : Bool) (hrun : s.modes.asserted = none) :
    (s.flag MGT_ETH_CFG.enable = true → execMgmtLinkChange true gigabit s
      = .next ((s.setF MGT_ETH_STATUS.link_up 1).setF MGT_ETH_STATUS.speed (b2n (gigabit && !s.flag MGT_ETH_CFG.no_1000))).mgtSend) ∧
    execMgmtLinkChange false gigabit s = .next ((s.setF MGT_ETH_STATUS.link_up 0).setF MGT_ETH_STATUS.speed 0) := by
  unfold execMgmtLinkChange
  constructor
  · intro henabled
    simp only [hrun, henabled, Option.isSome_none, Bool.false_eq_true, Bool.and_self, if_false, if_true]
  · simp only [hrun, Option.isSome_none, Bool.false_eq_true, Bool.false_and, if_false]

/-- The module's address takes a message, or answers with the oldest (R510, log 130). -/
theorem execSmbusTransaction_running (bytes : List Byte) (hrun : s.modes.asserted = none) (hplane : s.controlPaused = false) :
    execSmbusTransaction 0x3A true bytes s = .next ((s.setHw { s.hw with mctp := s.hw.mctp ++ [bytes] }).emit (.coreIrq 24)) ∧
    execSmbusTransaction 0x3A false bytes s = .next ((s.setHw { s.hw with mctp := s.hw.mctp.drop 1 }).emit (.smbus bytes)) := by
  unfold execSmbusTransaction
  constructor <;>
    simp only [hrun, hplane, Option.isSome_none, Bool.or_self, ne_eq, not_true_eq_false, Bool.false_eq_true, false_or, if_false, if_true]

end

/-- Settles O35: each command's clause is its lemma above. That the port's octet counters include the FCS and that an SMBus read answers the
oldest message are log 130, choices of the model beside R510 and R515. -/
theorem completeManagement : Obligations.CompleteManagement := by
  unfold Obligations.CompleteManagement
  refine ⟨?receive, ?transmit, ?link, ?smbus⟩
  case receive =>
    intro frame s hup hrun hgood hwants p hroom a b c
    exact execMgmtFrameReceive_taken frame hup hrun hgood hwants p rfl hroom a rfl b rfl c rfl
  case transmit =>
    intro init prod word s a haccess
    exact if_pos haccess
  case link =>
    intro gigabit s
    exact execMgmtLinkChange_running gigabit
  case smbus =>
    intro bytes s
    exact execSmbusTransaction_running bytes

end Sys2Proof.Machine
end
section
/-! SUPPORT. Concrete states that meet the conditions of the statements on power and management, at the bounds where clauses meet. They are
evaluated one after another, as those on the transport are. -/

namespace Sys2Proof.Machine

set_option Elab.async false

/-- The module in service, with its hardware so. -/
def hwState (f : HwSt → HwSt) : State := servingState.setHw (f servingState.hw)

/-! ### Power -/

/-- AC has failed with the rails up, has gone with the island's charge left or not, or has returned and waits. -/
theorem hwState_ac :
    let failed := hwState fun h => { h with failAt := some 0, rails := true, op := none }
    let gone (charged : Bool) := hwState fun h => { h with rails := false, tripAt := none, island := charged }
    failed.hw.failAt = some 0 ∧ failed.hw.rails = true ∧ failed.hw.op = none ∧ (failed.after (0 + 20 * msT)).hw.op = none ∧
      (gone true).hw.island = true ∧ (gone false).hw.island = false ∧ (gone true).hw.rails = false ∧ (gone true).hw.tripAt = none ∧
      servingState.flag PWR_STATUS.ac_good = true := by decide +kernel

/-- Each operation of PWR_HOST_CTL is started by firmware at rest. -/
theorem servingState_hostOps : ∀ init ∈ firmwareCases, ∀ op ∈ [1, 2, 3, 4, 5, 6],
    let v : BitVec 32 := BitVec.ofNat 32 (2 ^ 31)
    let b := (servingState.blockAccess 23 .write init 0x10).1.storeReg (fun _ => true) 23 0x10 .PWR_HOST_CTL 0 0 false false
      (BitVec.ofNat 64 (ctlWord v op))
    (servingState.blockAccess 23 .write init 0x10).2 = true ∧ natBit (ctlWord v op) 31 = true ∧
      b.getF PWR_HOST_CTL.op = op ∧ b.flag PWR_HOST_CTL.busy = false ∧ b.hw.op = none := by decide +kernel

/-- An operation whose step has an end, a wake that is forwarded, and a policy that waits. -/
theorem hwState_host : ∀ step ∈ [PowerStep.pulse, .settle, .auxOff],
    let o : PowerOp := ⟨5, step, some 9, false, false⟩
    let s := hwState fun h => { h with op := some o, policy := some 9 }
    let wake := (servingState.setF PWR_HOST_CTL.wake_fwd 1).setF PWR_HOST_CTL.wake 1
    s.hw.op = some o ∧ o.ends = some 9 ∧ o.step = step ∧ s.hw.policy = some 9 ∧ s.booted = true ∧
      wake.flag PWR_HOST_CTL.wake_fwd = true ∧ wake.hw.op = none := by decide +kernel

/-- The alarm's point and 5 °C below it, where it clears; both ends of a trip, at the junction and at the supplies. -/
theorem servingState_thermal :
    let at_ (tj psu : Int) : Thermal := ⟨tj, 40, psu, 40, false⟩
    let alarm : Int := servingState.getF PWR_THERM.tj_alarm
    let u := servingState.showThermal (at_ alarm 90)
    let tripped := (hwState fun h => { h with tripAt := some 3 }).showThermal (at_ 80 90)
    ((u.getF PWR_THERM.tj_alarm : Int) = alarm) ∧ u.flag PWR_THERM.alarm = false ∧
      ((servingState.showThermal (at_ (alarm - 5) 90)).getF PWR_THERM.tj_alarm : Int) = alarm ∧
      (servingState.showThermal (at_ 120 90)).hw.rails = true ∧ (servingState.showThermal (at_ 80 110)).hw.rails = true ∧
      tripped.hw.tripAt = some 3 := by decide +kernel

/-! ### The management port -/

/-- The link is up; a broadcast frame with its good FCS comes when the ring is empty or holds all but one. -/
theorem mgmtState_frame : ∀ held ∈ [0, 63],
    let body := List.replicate 6 0xFF ++ zeroBytes 54
    let frame := body ++ leBytes 4 (fcsOf body)
    let s := (servingState.setF MGT_ETH_STATUS.link_up 1).setF MGT_ETH_RX.prod held
    let p := s.getF MGT_ETH_RX.prod
    fcsGood frame = true ∧ s.mgtWants frame = true ∧ s.flag MGT_ETH_STATUS.link_up = true ∧ s.modes.asserted = none ∧
      (p + 65536 - s.getF MGT_ETH_RX.cons) % 65536 = held ∧ (s.blockAccess 24 .write 0 0x420).2 = true ∧
      s.controlPaused = false := by decide +kernel

end Sys2Proof.Machine
end
section
/-! SUPPORT. Faults, their acknowledgement, the Safelight, scrubbing and repair: the command of each clause of O33 where its conditions
hold. -/

namespace Sys2Proof.Machine

/-- The state in which a block has raised the event that a command brings, if it brings one, as a fault or as corrected. -/
def State.raisedAs (s : State) (q : Nat) (ev : Option ErrEvent) (fault : Bool) : State :=
  match ev with
  | some e => s.raiseAs q { e with fault := fault }
  | none => s

section
variable {s : State}

/-! ### Events and their acknowledgement -/

/-- A presented fault event of the module class is recorded and acted on at its level in one step (R426, log 52). -/
theorem execFaultEvent_module {q : Fin 47} {ev : Option ErrEvent} {e : ErrEvent} {t : State} (hcls : e.cls = 2)
    (hpop : (s.raisedAs q.val ev true).popEvent q.val true = (some e, t)) (src : Nat) (hsrc : src = sourceOfPlaces q.val) (conf : Nat)
    (hconf : conf = t.levelFor src 2) (esc : Nat) (hesc : esc = t.escalated src conf) (level : Nat)
    (hlevel : level = if esc = 2 ∧ e.slice.isNone then 3 else esc) : execFaultEvent q ev none none s
      = .next ((((t.recordFault src 2 level (decide (conf < esc)) e).emit (.coreIrq 0)).actOnLevel src 2 level e).showSafelight) := by
  have hmodule : (if e.cls = 1 ∧ e.slice.isNone = true then 2 else min e.cls 2) = 2 := by simp [hcls]
  unfold execFaultEvent
  unfold State.raisedAs at hpop
  cases ev <;> simp only [hpop, hmodule, ← hsrc, ← hconf, ← hesc, ← hlevel]

/-- A presented corrected event is latched with an interrupt the first time, and its row is tracked (R425, R426). -/
theorem execCorrectedEvent_presented {q : Fin 47} {ev : Option ErrEvent} {e : ErrEvent} {t : State}
    (hpop : (s.raisedAs q.val ev false).popEvent q.val false = (some e, t)) (src : Nat) (hsrc : src = sourceOfPlaces q.val) (old : Nat)
    (hold : old = t.getF PRF_CORR_LATCH.corrected) : execCorrectedEvent q ev s = .next ((if natBit old src = true then t
      else (t.setF PRF_CORR_LATCH.corrected (natSetBit old src true)).emit (.coreIrq 0)).trackRow e.row) := by
  unfold execCorrectedEvent
  unfold State.raisedAs at hpop
  cases ev <;> simp only [hpop, ← hsrc, ← hold]

/-- PRF_LATCH with one bit acknowledged, and the record of the bit invalid (R432). -/
def State.ackBit (s : State) (n : Nat) : State :=
  (s.setF PRF_LATCH.fault (natSetBit (s.getF PRF_LATCH.fault) n false)).setF PRF_REC.valid 0 n

/-- The bits of a value that are set in PRF_LATCH. -/
def State.ackedBits (s : State) (v : Word) : List Nat :=
  (List.range 45).filter fun n => natBit (s.getF PRF_LATCH.fault) n && natBit v.toNat n

/-- What stands of the L3 and L4 events once bits are acknowledged (R432, R433). -/
def State.standingAfter (s : State) (bits : List Nat) : PrfSt :=
  { s.prf with
    standing3 := if s.mode = mSafeHold then s.prf.standing3 else s.prf.standing3.filter fun n => !bits.contains n
    standing4 := s.prf.standing4.filter fun x => !(bits.contains x.1 && x.2) }

/-- A 64-bit write of PRF_LATCH that its block lets through acknowledges the bits it names (R432, R433). -/
theorem execFaultAck_wide {init : Nat} (upper : Bool) (v : Word) (a : State × Bool) (ha : a = s.blockAccess 0 .write init 0)
    (haccess : a.2 = true) (b : State) (hb : b = (a.1.ackedBits v).foldl State.ackBit a.1) :
    execFaultAck init true upper v s = .next ({ b with prf := b.standingAfter (a.1.ackedBits v) }.showSafelight) := by
  subst hb
  unfold execFaultAck
  simp only [Bool.not_true, Bool.and_false, Bool.false_eq_true, if_false, ← ha, haccess, Bool.or_self]
  rfl

/-- The containment of a stopped slice that no record at L2 or above names is lifted (R435). -/
theorem execPrfSliceLift_stopped {init : Nat} (slice : BitVec 14) (a : State × Bool) (ha : a = s.blockAccess 0 .write init 0x18)
    (haccess : a.2 = true) (b : State) (hb : b = a.1.setF PRF_SLICE_LIFT.slice slice.toNat)
    (hcontained : b.prf.contained.contains slice.toNat = true)
    (hunnamed : ((List.range 45).any fun n => natBit (b.getF PRF_LATCH.fault) n && decide (2 ≤ b.getF PRF_REC.level n)
      && b.flag PRF_REC.slice_valid n && b.getF PRF_REC.slice n == slice.toNat) = false)
    {x : SliceRec} (hslice : b.slice? slice.toNat = some x) (hstopped : x.st = .stopped) : execPrfSliceLift init slice s
      = .next ({ b with prf := { b.prf with contained := b.prf.contained.filter (· != slice.toNat) } }.showGates.setF
          PRF_SLICE_LIFT.result stOk) := by
  unfold execPrfSliceLift
  simp only [← ha, haccess, ← hb, hcontained, hunnamed, hslice, hstopped, decide_true, Bool.not_true, Bool.or_self, Bool.false_eq_true,
    if_false]

/-! ### The Safelight -/

/-- A feed of the expected value turns it over (R437). -/
theorem execSafelightFeed_expected {init : Nat} (v : BitVec 8) (a : State × Bool) (ha : a = s.blockAccess 0 .write init 0x28)
    (haccess : a.2 = true) (p : PrfSt) (hp : p = a.1.prf) (hgood : v.toNat = p.slExpect) : execSafelightFeed init v s
      = .next { a.1 with prf := { p with
          slTimedOut := false, slWrong := false, slLastFeed := some a.1.now, slValidFeed := true
          slExpect := if p.slExpect = 0x5A then 0xA5 else 0x5A } }.showSafelight := by
  have hexpected : (v.toNat == p.slExpect) = true := beq_iff_eq.2 hgood
  subst hp
  unfold execSafelightFeed
  simp only [← ha, haccess, hexpected, Bool.not_true, Bool.or_true, Bool.false_and, Bool.false_eq_true, if_false, if_true]

/-- The first feed timeout after a feed (R437). -/
theorem execSafelightFeedTimeout_first {t : Nat} (hfed : s.prf.slLastFeed = some t) (hfirst : s.prf.slTimedOut = false) (a : State)
    (ha : a = s.after (t + s.getF PRF_SL_CFG.feed_timeout * msT)) (b : State)
    (hb : b = { a with prf := { a.prf with slTimedOut := true } }) : execSafelightFeedTimeout s
      = .next (if b.flag PRF_STATUS.sl_running then b.raise 0 (faultM 0x0024) else b).showSafelight := by
  unfold execSafelightFeedTimeout
  simp only [hfed, hfirst, ← ha, ← hb, Bool.false_eq_true, if_false]

/-- A boundary of a Safelight that nothing stops toggles it or starts it (R436). -/
theorem execSafelightBoundary_toggles (hrun : s.modes.asserted = none) (a : State) (ha : a = s.after s.prf.slBoundary) (b : State)
    (hb : b = { a with prf := { a.prf with slBoundary := a.prf.slBoundary + slHalf } }) (hfree : b.slStopReason = 0) (lv : Bool)
    (hlv : lv = if b.flag PRF_STATUS.sl_running then !b.prf.slLevel else true) : execSafelightBoundary s
      = .next (({ b with prf := { b.prf with slLevel := lv } }.setF PRF_STATUS.sl_running 1).emit
          (.pin .safelightP lv)).showSafelight := by
  subst hlv hb
  unfold execSafelightBoundary
  simp only [hrun, ← ha, hfree, Option.isSome_none, Bool.false_eq_true, if_false, if_true]

/-! ### Scrubbing and repair -/

/-- A scrub, outside HBM in STANDBY, corrects a word, or raises the event and schedules the row of one it cannot correct; a row of MRAM
(kind 0) is not scheduled (R445, log 53). -/
theorem execPatrolScrub_reads (q : Fin 45) {mem : Fin 3} (unit row : Nat) (hreads : mem ≠ 1 ∨ s.mode ≠ mStandby) (d : Defect)
    (hd : d = ⟨if mem = 2 then 0 else mem.val + 1, unit, row⟩) :
    execPatrolScrub q mem 1 unit row s = .next (s.raise q.val (correctedAt d)) ∧
    execPatrolScrub q mem 2 unit row s = .next (if mem = 2 then s.raise q.val (faultA 0x0002)
      else (s.raise q.val (faultA 0x0002)).scheduleRow d 3) := by
  have hrun : ¬(mem = 1 ∧ s.mode = mStandby) := fun h => hreads.elim (· h.1) (· h.2)
  have hother : ¬(2 : Fin 3) = 1 := by decide
  unfold execPatrolScrub
  simp only [hrun, hother, ← hd, if_false, if_true, and_self]

/-- The self-test after C release that finds nothing fatal (R447, R451–R453). -/
theorem execSelfTest_passes (found : List Defect) (hphase : s.modes.phase = .selfTest) (hrun : s.modes.asserted = none) (a : State)
    (ha : a = ((s.selfTestTime.retouchUnits found).setF RTH_STATUS.selftest_done 1).setF RTH_STATUS.fatal 0) (b : State)
    (hb : b = if a.flag RTH_STATUS.degraded then a.raiseRth else a) :
    execSelfTest found false s = .next (b.markTested.setPhase .rom) := by
  have hnotFatal : b2n false = 0 := rfl
  unfold execSelfTest
  simp only [hphase, hrun, hnotFatal, ← ha, ← hb, ne_eq, not_true_eq_false, Option.isSome_none, Bool.false_eq_true, or_self, if_false]

/-- A fatal self-test is tried again (R453). -/
theorem execSelfTestFatalRetry_fatal {t : Nat} (htested : s.prf.testedAt = some t) (hfatal : s.flag RTH_STATUS.fatal = true) :
    execSelfTestFatalRetry s = .next ((s.after (t + 64 * secT)).beginReset .c none) := by
  unfold execSelfTestFatalRetry
  simp only [htested, hfatal, if_true]

/-- An inject in TEST that names no slice raises the event of its fields (R526). -/
theorem execErrorInject_test {init : Nat} (blk : Fin 26) (v : Word) (off : Nat)
    (hoff : off = Reg.windowOffset .X_BLK_ERR_CTL blk.val 0 - blockBase blk.val) (a : State × Bool)
    (ha : a = s.blockAccess blk.val .write init off) (haccess : a.2 = true) (b : State)
    (hb : b = a.1.storeReg (fun _ => true) blk.val off .X_BLK_ERR_CTL blk.val 0 true false v) (hinject : natBit v.toNat 63 = true)
    (htest : b.mode = mTest) (hcls : b.getF X_BLK_ERR_CTL.cls blk.val ≠ 1) : execErrorInject init blk v s
      = .next (b.raiseAs (injectPlaces blk.val) ⟨b.flag X_BLK_ERR_CTL.kind blk.val, min (b.getF X_BLK_ERR_CTL.cls blk.val) 2,
          b.getF X_BLK_ERR_CTL.cause blk.val, b.getF X_BLK_ERR_CTL.detail blk.val, none, 0⟩ blk.val) := by
  have hsliceless : ¬min (b.getF X_BLK_ERR_CTL.cls blk.val) 2 = 1 := by omega
  unfold execErrorInject
  simp only [← hoff, ← ha, haccess, ← hb, hinject, htest, hsliceless, Bool.not_true, Bool.false_eq_true, ne_eq, not_true_eq_false, or_self,
    if_false]

end

/-- Settles O33: each command's clause is its lemma above. That a fault event is one step, from its latch to the end of the stop bath
(log 52), and that a scrub of MRAM schedules no row (log 53) are choices of the model beside R426 and R445. -/
theorem completeProofreader : Obligations.CompleteProofreader := by
  unfold Obligations.CompleteProofreader
  refine ⟨?fault, ?corrected, ?ack, ?lift, ?feed, ?feedTimeout, ?boundary, ?clock, ?scrub, ?unit, ?selfTest, ?retry, ?logRead, ?inject⟩
  case fault =>
    intro q e ev s t hcls hpop src conf esc level
    exact execFaultEvent_module hcls hpop src rfl conf rfl esc rfl level rfl
  case corrected =>
    intro q e ev s t hpop src old
    have hdone : exec (.correctedEvent q ev) s = _ := execCorrectedEvent_presented hpop src rfl old rfl
    exact ⟨fun hset => by rw [hdone, if_pos hset], fun hclear => by rw [hdone, if_neg (ne_true_of_eq_false hclear)]⟩
  case ack =>
    intro init upper v s a haccess bits b p
    exact execFaultAck_wide upper v a rfl haccess b rfl
  case lift =>
    intro init slice s a haccess b hcontained hunnamed x hslice hstopped
    exact execPrfSliceLift_stopped slice a rfl haccess b rfl hcontained hunnamed hslice hstopped
  case feed =>
    intro init v s a haccess p hgood p'
    exact execSafelightFeed_expected v a rfl haccess p rfl hgood
  case feedTimeout =>
    intro s t hfed hfirst a b
    exact execSafelightFeedTimeout_first hfed hfirst a rfl b rfl
  case boundary =>
    intro s hrun a b hfree lv
    exact execSafelightBoundary_toggles hrun a rfl b rfl hfree lv rfl
  case clock =>
    intro s
    rfl
  case scrub =>
    intro q mem unit row s d hreads
    obtain ⟨hcorrected, hbad⟩ := execPatrolScrub_reads q unit row hreads d rfl
    exact ⟨hcorrected, fun hother => hbad.trans (congrArg _ (if_neg hother)), fun hmram => hbad.trans (congrArg _ (if_pos hmram))⟩
  case unit =>
    intro kind unit s hkind
    exact if_neg (Nat.not_lt.2 hkind)
  case selfTest =>
    intro found s hphase hrun a b
    exact execSelfTest_passes found hphase hrun a rfl b rfl
  case retry =>
    intro s t
    exact execSelfTestFatalRetry_fatal
  case logRead =>
    intro init index s a haccess b c
    exact if_neg (by simp [a, haccess])
  case inject =>
    intro init blk v s off a haccess b hinject htest hcls cls
    exact execErrorInject_test blk v off rfl a rfl haccess b rfl hinject htest hcls

end Sys2Proof.Machine
end
section
/-! SUPPORT. Concrete states that meet the conditions of the statements on faults, their acknowledgement and stores, at the bounds where
clauses meet. They are evaluated one after another, as those on the transport are. -/

namespace Sys2Proof.Machine

set_option Elab.async false

/-- Mode `m`, entered by nothing but this register. -/
def modeState (m : Nat) : State := servingState.setF MODE_STATE.mode m

/-- A class M fault and a corrected event at the first place and at the last are the heads of theirs. -/
theorem servingState_events : ∀ q ∈ ([0, 46] : List (Fin 47)),
    ((servingState.raiseAs q.val (faultM 0x25)).popEvent q.val true).1 = some (faultM 0x25) ∧
      ((servingState.raiseAs q.val (correctedAt ⟨1, 0, 0⟩)).popEvent q.val false).1 = some (correctedAt ⟨1, 0, 0⟩) := by decide +kernel

/-- Faults of the first source and the last latched, a write reaches the latch. -/
theorem latchedState_faultAck : ∀ init ∈ firmwareCases,
    let s := servingState.setF PRF_LATCH.fault (1 + 2 ^ 44)
    (s.blockAccess 0 .write init 0).2 = true ∧
      ((List.range 45).filter fun n => natBit (s.getF PRF_LATCH.fault) n && natBit (1 + 2 ^ 44) n) = [0, 44] := by decide +kernel

/-- A contained, STOPPED slice, the first and the last, that no latched fault names. -/
theorem containedState_sliceLift : ∀ init ∈ firmwareCases, ∀ g ∈ sliceCases,
    let x := boundSlice .stopped none
    let s : State := { servingState with
      prf := { servingState.prf with contained := [g] }, slc := { servingState.slc with slices := [(g, x)] } }
    let b := (s.blockAccess 0 .write init 0x18).1.setF PRF_SLICE_LIFT.slice g
    (s.blockAccess 0 .write init 0x18).2 = true ∧ b.prf.contained.contains g = true ∧ b.slice? g = some x ∧
      ((List.range 45).any fun n => natBit (b.getF PRF_LATCH.fault) n && decide (2 ≤ b.getF PRF_REC.level n)
        && b.flag PRF_REC.slice_valid n && b.getF PRF_REC.slice n == g) = false := by decide +kernel

/-- The Safelight takes the value it expects, waits for the next, and at a boundary finds nothing that stops it. -/
theorem fedState_safelight : ∀ init ∈ firmwareCases,
    let s := { servingState with prf := { servingState.prf with slLastFeed := some 1, slValidFeed := true } }
    let a := s.after s.prf.slBoundary
    (s.blockAccess 0 .write init 0x28).2 = true ∧ s.prf.slExpect < 256 ∧ s.prf.slTimedOut = false ∧ s.modes.asserted = none ∧
      { a with prf := { a.prf with slBoundary := a.prf.slBoundary + slHalf } }.slStopReason = 0 := by decide +kernel

/-- A self-test to run, and one that found a fatal defect. -/
theorem testState_selfTest :
    let s := { servingState with
      modes := { servingState.modes with phase := .selfTest }, prf := { servingState.prf with testedAt := some 7 } }
    s.modes.phase = .selfTest ∧ s.modes.asserted = none ∧ s.prf.testedAt = some 7 ∧
      (s.setF RTH_STATUS.fatal 1).flag RTH_STATUS.fatal = true := by decide +kernel

/-- In TEST an error is injected in the first block and the last, of class A or M, by the write's bit 63. -/
theorem testState_errorInject : ∀ init ∈ firmwareCases, ∀ blk ∈ [0, 25], ∀ cls ∈ [0, 2],
    let s := modeState mTest
    let off := Reg.windowOffset .X_BLK_ERR_CTL blk 0 - blockBase blk
    let v : Word := BitVec.ofNat 64 (2 ^ 63 + cls * 2 ^ 60)
    let b := (s.blockAccess blk .write init off).1.storeReg (fun _ => true) blk off .X_BLK_ERR_CTL blk 0 true false v
    (s.blockAccess blk .write init off).2 = true ∧ natBit v.toNat 63 = true ∧ b.mode = mTest ∧ b.getF X_BLK_ERR_CTL.cls blk = cls := by
  decide +kernel

/-! ### Acknowledgements and stores -/

/-- That state with latched faults has its canonical form. -/
theorem latchedState_canon : (servingState.setF PRF_LATCH.fault (1 + 2 ^ 44)).Canon := by
  unfold State.Canon
  decide +kernel

/-- Firmware stores at the first bytes of the buffers it shares, of MRAM's window and of HBM, and at the last; at the bottom of module
memory and just beyond the buffers it may not. -/
theorem servingState_stores : servingState.masterReaches 0 = true ∧
    (∀ a ∈ [0x08000000, 0x0802FFF8, 0x10000000, 0x1FFFFFF8, 0x100000000, 0xCFFFFFFF8], (servingState.memoryAccess .write 0 a 8).2 = true) ∧
    (∀ a ∈ [0x04000000, 0x08030000], (servingState.memoryAccess .write 0 a 8).2 = false) := by decide +kernel

end Sys2Proof.Machine
end
section
/-! SUPPORT. Registers after a write of one of them, and what acknowledging faults does to PRF_LATCH and the records (O15). -/

namespace Sys2Proof

/-! ### Bits of numbers and fields of words -/

/-- A set bit that is taken away leaves the others. -/
theorem testBit_sub_two_pow {v i : Nat} (hi : v.testBit i = true) (j : Nat) :
    (v - 2 ^ i).testBit j = (v.testBit j && decide (j ≠ i)) := by
  obtain ⟨w, rfl⟩ : ∃ w, v = 2 ^ i + w := ⟨v - 2 ^ i, (Nat.add_sub_cancel' (Nat.ge_two_pow_of_testBit hi)).symm⟩
  rw [Nat.add_sub_cancel_left]
  have hclear : w.testBit i = false := by simpa [Nat.testBit_two_pow_add_eq] using hi
  rcases Nat.lt_trichotomy j i with hlt | rfl | hgt
  · simp [Nat.testBit_two_pow_add_gt hlt, Nat.ne_of_lt hlt]
  · simp [hclear]
  · obtain ⟨k, rfl⟩ : ∃ k, j = i + 1 + k := ⟨j - (i + 1), by omega⟩
    have heven : w / 2 ^ i % 2 = 0 := by
      rw [Nat.testBit_eq_decide_div_mod_eq, decide_eq_false_iff_not] at hclear
      omega
    have hhigh : (2 ^ i + w) / 2 ^ (i + 1) = w / 2 ^ (i + 1) := by
      rw [Nat.pow_succ, ← Nat.div_div_eq_div_mul, ← Nat.div_div_eq_div_mul, Nat.add_div_left _ (Nat.two_pow_pos i)]
      omega
    have hne : i + 1 + k ≠ i := by omega
    rw [Nat.add_comm (i + 1) k, ← Nat.testBit_div_two_pow, ← Nat.testBit_div_two_pow, hhigh]
    simp [Nat.add_comm k, hne]

/-- A bit that is cleared reads 0 and the others as before. -/
theorem natBit_natSetBit_false (v i j : Nat) : natBit (natSetBit v i false) j = (natBit v j && decide (j ≠ i)) := by
  unfold natSetBit
  simp only [Bool.false_eq_true, if_false]
  split
  case isTrue hi =>
    rw [natBit_eq] at hi
    rw [natBit_eq, natBit_eq, testBit_sub_two_pow hi]
  case isFalse hi =>
    by_cases hj : j = i
    · subst hj
      simpa using hi
    · simp [hj]

/-- Clearing a bit makes no number larger. -/
theorem natSetBit_false_le (v i : Nat) : natSetBit v i false ≤ v := by
  unfold natSetBit
  simp only [Bool.false_eq_true, if_false]
  split
  · exact Nat.sub_le v (2 ^ i)
  · exact Nat.le_refl v

/-- A field that is written reads what it took, modulo its width. -/
theorem Word.bits_setBits_same (w : Word) {hi lo : Nat} (v : Nat) (hlo : lo ≤ hi) (hhi : hi < 64) :
    (w.setBits hi lo v).bits hi lo = v % 2 ^ (hi + 1 - lo) := by
  have hsize : w.toNat < 2 ^ lo * (2 ^ (hi + 1 - lo) * 2 ^ (63 - hi)) := by
    rw [← Nat.pow_add, ← Nat.pow_add, show lo + (hi + 1 - lo + (63 - hi)) = 64 by omega]
    exact w.isLt
  have h64 : 2 ^ 64 = 2 ^ lo * (2 ^ (hi + 1 - lo) * 2 ^ (63 - hi)) := by
    rw [← Nat.pow_add, ← Nat.pow_add, show lo + (hi + 1 - lo + (63 - hi)) = 64 by omega]
  unfold Word.setBits Word.bits
  simp only [BitVec.toNat_ofNat, h64]
  generalize w.toNat = x at *
  have hP : 0 < 2 ^ lo := Nat.two_pow_pos lo
  have hQ : 0 < 2 ^ (hi + 1 - lo) := Nat.two_pow_pos _
  generalize 2 ^ lo = P at *
  generalize 2 ^ (hi + 1 - lo) = Q at *
  generalize 2 ^ (63 - hi) = R at *
  have hv : v % Q < Q := Nat.mod_lt _ hQ
  generalize v % Q = V at *
  have hA : x / P / Q < R := by rw [Nat.div_div_eq_div_mul]; exact Nat.div_lt_of_lt_mul (by rwa [Nat.mul_assoc])
  have hC : x % P < P := Nat.mod_lt _ hP
  have hx : x = P * (Q * (x / P / Q) + x / P % Q) + x % P := by rw [Nat.div_add_mod, Nat.div_add_mod]
  generalize x / P / Q = A at *
  generalize x / P % Q = B at *
  generalize x % P = C at *
  have hnew : x - B * P + V * P = P * (Q * A + V) + C := by
    rw [hx, Nat.mul_add, Nat.mul_add, Nat.mul_comm B, Nat.mul_comm V]
    omega
  have hfits : P * (Q * A + V) + C < P * (Q * R) := by
    calc P * (Q * A + V) + C < P * (Q * A + V) + P := by omega
      _ = P * (Q * A + (V + 1)) := by rw [← Nat.add_assoc, Nat.mul_add _ _ 1, Nat.mul_one]
      _ ≤ P * (Q * A + Q) := Nat.mul_le_mul_left _ (by omega)
      _ = P * (Q * (A + 1)) := by rw [Nat.mul_succ Q]
      _ ≤ P * (Q * R) := Nat.mul_le_mul_left _ (Nat.mul_le_mul_left _ hA)
  rw [hnew, Nat.mod_eq_of_lt hfits, Nat.mul_add_div hP, Nat.div_eq_of_lt hC, Nat.add_zero, Nat.mul_add_mod, Nat.mod_eq_of_lt hv]

end Sys2Proof

namespace Sys2Proof.Machine

/-! ### Registers after a write -/

/-- A register that was written reads what it took. -/
theorem State.reg_setReg_same {s : State} (r : Reg) (v : Word) (i j : Nat) (h : Tab.sorted s.regs = true) :
    (s.setReg r v i j).reg r i j = v :=
  Tab.getD_setD_same _ _ _ _ h

/-- A register of another key reads as before. -/
theorem State.reg_setReg_other {s : State} {q r : Reg} (v : Word) {x y i j : Nat} (h : Tab.sorted s.regs = true)
    (hkey : q.key x y ≠ r.key i j) : (s.setReg r v i j).reg q x y = s.reg q x y :=
  Tab.getD_setD_other _ _ _ _ h hkey

/-- Another register has another key. -/
theorem Reg.key_ne {q r : Reg} {x y i j : Nat} (hx : x < 4096) (hy : y < 4096) (hi : i < 4096) (hj : j < 4096) (h : q ≠ r) :
    q.key x y ≠ r.key i j :=
  fun hkey => h (Reg.key_reg_inj hx hy hi hj hkey)

/-- Another index of a register has another key. -/
theorem Reg.key_index_ne (r : Reg) {x i : Nat} (j : Nat) (h : x ≠ i) : r.key x j ≠ r.key i j := by
  unfold Reg.key
  omega

/-- A write of a field keeps the canonical form. -/
theorem State.Canon.setF {s : State} (h : s.Canon) (f : Fld) (v i j : Nat) : (s.setF f v i j).Canon :=
  (State.setF_keeps s f v i j (Keeps.rfl' 3 s) (Sub.rfl' 3)).canon h

/-- A field that was written reads what it took, modulo its width. -/
theorem State.getF_setF_same {s : State} (f : Fld) (v i j : Nat) (h : s.Canon) (hlo : f.lo ≤ f.hi) (hhi : f.hi < 64) :
    (s.setF f v i j).getF f i j = v % 2 ^ (f.hi + 1 - f.lo) := by
  unfold State.setF State.getF
  rw [State.reg_setReg_same _ _ _ _ h.1, Word.bits_setBits_same _ _ hlo hhi]

/-- A register of another key than the one with the field that was written reads as before. -/
theorem State.reg_setF_other {s : State} (f : Fld) (v : Nat) {q : Reg} {x y i j : Nat} (h : s.Canon)
    (hkey : q.key x y ≠ f.reg.key i j) : (s.setF f v i j).reg q x y = s.reg q x y :=
  State.reg_setReg_other _ h.1 hkey

/-- A field reads alike in two states whose registers agree on it. -/
theorem State.getF_congr {s t : State} {f : Fld} {i j : Nat} (h : s.reg f.reg i j = t.reg f.reg i j) : s.getF f i j = t.getF f i j := by
  unfold State.getF
  rw [h]

/-! ### One acknowledged bit -/

section
variable {s : State} {n : Nat}

theorem State.Canon.ackBit (h : s.Canon) (n : Nat) : (s.ackBit n).Canon := by
  unfold State.ackBit
  exact (h.setF _ _ 0 0).setF _ _ n 0

@[simp] theorem State.ackBit_prf (s : State) (n : Nat) : (s.ackBit n).prf = s.prf := by
  rw [State.ackBit, State.setF_prf, State.setF_prf]

@[simp] theorem State.ackBit_modes (s : State) (n : Nat) : (s.ackBit n).modes = s.modes := by
  rw [State.ackBit, State.setF_modes, State.setF_modes]


/-- A register that is neither the latch nor a record reads as before. -/
theorem State.reg_ackBit_other (h : s.Canon) (hn : n < 4096) {q : Reg} (hlatch : q ≠ .PRF_LATCH) (hrec : q ≠ .PRF_REC) :
    (s.ackBit n).reg q = s.reg q := by
  have h0 : 0 < 4096 := by decide
  have hkeyRec : q.key 0 0 ≠ PRF_REC.valid.reg.key n 0 := Reg.key_ne h0 h0 hn h0 hrec
  have hkeyLatch : q.key 0 0 ≠ PRF_LATCH.fault.reg.key 0 0 := Reg.key_ne h0 h0 h0 h0 hlatch
  unfold State.ackBit
  rw [State.reg_setF_other _ _ (h.setF _ _ 0 0) hkeyRec, State.reg_setF_other _ _ h hkeyLatch]

/-- The bit leaves the latch, and no other does. -/
theorem State.latch_ackBit (h : s.Canon) (hn : n < 4096) (m : Nat) :
    natBit ((s.ackBit n).getF PRF_LATCH.fault) m = (natBit (s.getF PRF_LATCH.fault) m && decide (m ≠ n)) := by
  have hsmall : s.getF PRF_LATCH.fault < 2 ^ 45 := Nat.mod_lt _ (by decide)
  have hcleared : natSetBit (s.getF PRF_LATCH.fault) n false < 2 ^ 45 := lt_of_le_of_lt (natSetBit_false_le _ _) hsmall
  have h0 : 0 < 4096 := by decide
  have hkey : Reg.PRF_LATCH.key 0 0 ≠ PRF_REC.valid.reg.key n 0 := Reg.key_ne h0 h0 hn h0 (by decide)
  have hrecKeeps : (s.ackBit n).getF PRF_LATCH.fault
      = (s.setF PRF_LATCH.fault (natSetBit (s.getF PRF_LATCH.fault) n false)).getF PRF_LATCH.fault := by
    unfold State.ackBit
    exact State.getF_congr (State.reg_setF_other _ _ (h.setF _ _ 0 0) hkey)
  rw [hrecKeeps, State.getF_setF_same PRF_LATCH.fault _ 0 0 h (by decide) (by decide), ← natBit_natSetBit_false]
  exact congrArg (natBit · m) (Nat.mod_eq_of_lt hcleared)

/-- The record of the bit is invalid. -/
theorem State.valid_ackBit (h : s.Canon) (n : Nat) : (s.ackBit n).flag PRF_REC.valid n = false := by
  unfold State.flag State.ackBit
  rw [State.getF_setF_same PRF_REC.valid 0 n 0 (h.setF _ _ 0 0) (by decide) (by decide)]
  rfl

/-- The record of another bit is as before. -/
theorem State.rec_ackBit_other (h : s.Canon) {m : Nat} (hm : m < 4096) (hother : m ≠ n) :
    (s.ackBit n).reg .PRF_REC m = s.reg .PRF_REC m := by
  have h0 : 0 < 4096 := by decide
  have hkeyRec : Reg.PRF_REC.key m 0 ≠ PRF_REC.valid.reg.key n 0 := Reg.key_index_ne .PRF_REC 0 hother
  have hkeyLatch : Reg.PRF_REC.key m 0 ≠ PRF_LATCH.fault.reg.key 0 0 := Reg.key_ne hm h0 h0 h0 (by decide)
  unfold State.ackBit
  rw [State.reg_setF_other _ _ (h.setF _ _ 0 0) hkeyRec, State.reg_setF_other _ _ h hkeyLatch]

end

/-! ### A list of acknowledged bits -/

/-- The state in which every bit of a list has been acknowledged. -/
def State.ackBits (s : State) (bits : List Nat) : State := bits.foldl State.ackBit s

/-- What acknowledging bits one after another leaves of a state: each bit of the list is clear and its record invalid, every other bit and
record is as before, and so are the mode, the Proofreader's own state and the resets. -/
theorem State.ackBits_spec (bits : List Nat) (hbits : ∀ n ∈ bits, n < 4096) {s : State} (h : s.Canon) :
    (s.ackBits bits).Canon ∧ (s.ackBits bits).prf = s.prf ∧ (s.ackBits bits).modes = s.modes ∧
    (∀ q : Reg, q ≠ .PRF_LATCH → q ≠ .PRF_REC → (s.ackBits bits).reg q = s.reg q) ∧
    ∀ m, m < 4096 →
      natBit ((s.ackBits bits).getF PRF_LATCH.fault) m = (natBit (s.getF PRF_LATCH.fault) m && decide (m ∉ bits)) ∧
      (m ∈ bits → (s.ackBits bits).flag PRF_REC.valid m = false) ∧
      (m ∉ bits → (s.ackBits bits).reg .PRF_REC m = s.reg .PRF_REC m) := by
  induction bits using List.reverseRecOn with
  | nil => simp [State.ackBits, h]
  | append_singleton bits n ih =>
    obtain ⟨hcanon, hprf, hmodes, hreg, hbit⟩ := ih fun m hm => hbits m (List.mem_append_left _ hm)
    have hn : n < 4096 := hbits n (List.mem_append_right _ (List.mem_singleton_self n))
    have hlast : s.ackBits (bits ++ [n]) = (s.ackBits bits).ackBit n := by
      unfold State.ackBits
      rw [List.foldl_append, List.foldl_cons, List.foldl_nil]
    rw [hlast]
    refine ⟨hcanon.ackBit n, (State.ackBit_prf _ n).trans hprf, (State.ackBit_modes _ n).trans hmodes,
      fun q hlatch hrec => (State.reg_ackBit_other hcanon hn hlatch hrec).trans (hreg q hlatch hrec), fun m hm => ?_⟩
    obtain ⟨hlatch, hvalid, hrec⟩ := hbit m hm
    refine ⟨?_, fun hmem => ?_, fun hmem => ?_⟩
    · rw [State.latch_ackBit hcanon hn, hlatch]
      simp [Bool.and_assoc]
    · by_cases hmn : m = n
      · rw [hmn, State.valid_ackBit hcanon]
      · have hold : m ∈ bits := by simpa [hmn] using hmem
        rw [← hvalid hold]
        exact congrArg (· == 1) (State.getF_congr (f := PRF_REC.valid) (State.rec_ackBit_other hcanon hm hmn))
    · simp only [List.mem_append, List.mem_singleton, not_or] at hmem
      rw [State.rec_ackBit_other hcanon hm hmem.2, hrec hmem.1]

/-- A granted access to a block changes nothing. -/
theorem State.blockAccess_granted {s : State} {blk init off : Nat} {k : AccessKind} (h : (s.blockAccess blk k init off).2 = true) :
    (s.blockAccess blk k init off).1 = s := by
  unfold State.blockAccess at h ⊢
  split at h
  · rfl
  · exact absurd h Bool.false_ne_true

/-- The state that an acknowledgement of bits leaves, before the Safelight shows its stop reason. -/
def State.acked (s : State) (bits : List Nat) : State := { s.ackBits bits with prf := (s.ackBits bits).standingAfter bits }

theorem State.Canon.acked {s : State} {bits : List Nat} (h : (s.ackBits bits).Canon) : (s.acked bits).Canon := h

@[simp] theorem State.acked_contained (s : State) (bits : List Nat) : (s.acked bits).prf.contained = (s.ackBits bits).prf.contained := rfl
@[simp] theorem State.acked_modes (s : State) (bits : List Nat) : (s.acked bits).modes = (s.ackBits bits).modes := rfl
@[simp] theorem State.acked_reg (s : State) (bits : List Nat) (q : Reg) (i j : Nat) :
    (s.acked bits).reg q i j = (s.ackBits bits).reg q i j := rfl

@[simp] theorem State.showSafelight_prf (s : State) : s.showSafelight.prf = s.prf := by
  rw [State.showSafelight, State.setF_prf]

@[simp] theorem State.showSafelight_modes (s : State) : s.showSafelight.modes = s.modes := by
  rw [State.showSafelight, State.setF_modes]

/-- The Safelight's show of its stop reason leaves every register but PRF_STATUS. -/
theorem State.reg_showSafelight {s : State} (h : s.Canon) {q : Reg} {i : Nat} (hi : i < 4096) (hq : q ≠ .PRF_STATUS) :
    s.showSafelight.reg q i = s.reg q i := by
  have h0 : 0 < 4096 := by decide
  have hkey : q.key i 0 ≠ PRF_STATUS.sl_stop.reg.key 0 0 := Reg.key_ne hi h0 h0 h0 hq
  unfold State.showSafelight
  exact State.reg_setF_other _ _ h hkey

/-- A 64-bit write of PRF_LATCH that its block lets through acknowledges the bits of the latch that it sets. -/
theorem execFaultAck_granted {s : State} {init : Nat} (upper : Bool) (v : Word) (haccess : (s.blockAccess 0 .write init 0).2 = true) :
    execFaultAck init true upper v s = .next (s.acked (s.ackedBits v)).showSafelight := by
  have hsame : (s.blockAccess 0 .write init 0).1 = s := State.blockAccess_granted haccess
  rw [execFaultAck_wide upper v _ rfl haccess _ rfl, hsame]
  rfl

/-- Settles O15: the write is the fold of `ackBit` over the bits that are both set and written, and the Safelight's show of its stop reason
touches neither the latch nor a record. -/
theorem acknowledgedFaults : Obligations.AcknowledgedFaults := by
  unfold Obligations.AcknowledgedFaults
  intro init upper v s t hcanon haccess hexec
  have hack : exec (.faultAck init true upper v) s = _ := execFaultAck_granted upper v haccess
  rw [hack] at hexec
  obtain rfl := Host.Outcome.next.inj hexec
  have hbits (n : Nat) : n ∈ s.ackedBits v ↔ n < 45 ∧ natBit (s.getF PRF_LATCH.fault) n = true ∧ natBit v.toNat n = true := by
    simp [State.ackedBits, List.mem_filter]
  obtain ⟨hcanon', hprf, hmodes, hreg, hbit⟩ :=
    State.ackBits_spec (s.ackedBits v) (fun n hn => Nat.lt_trans ((hbits n).1 hn).1 (by decide)) hcanon
  have hshown {q : Reg} {i : Nat} (hi : i < 4096) (hq : q ≠ .PRF_STATUS) :
      (s.acked (s.ackedBits v)).showSafelight.reg q i = (s.ackBits (s.ackedBits v)).reg q i :=
    State.reg_showSafelight hcanon'.acked hi hq
  have h0 : 0 < 4096 := by decide
  refine ⟨?contained, ?modes, ?mode, fun n hn => ?bit⟩
  case contained => rw [State.showSafelight_prf, State.acked_contained, hprf]
  case modes => rw [State.showSafelight_modes, State.acked_modes, hmodes]
  case mode =>
    unfold State.mode
    exact State.getF_congr ((hshown h0 (by decide)).trans (hreg .MODE_STATE (by decide) (by decide)))
  case bit =>
    have hn' : n < 4096 := Nat.lt_trans hn (by decide)
    obtain ⟨hlatch, hvalid, hrec⟩ := hbit n hn'
    refine ⟨?_, fun hset hwritten => ?_, fun hkept => ?_⟩
    · rw [State.getF_congr (f := PRF_LATCH.fault) (hshown h0 (by decide)), hlatch]
      cases hset : natBit (s.getF PRF_LATCH.fault) n <;> simp [hbits, hn, hset]
    · rw [← hvalid ((hbits n).2 ⟨hn, hset, hwritten⟩)]
      exact congrArg (· == 1) (State.getF_congr (f := PRF_REC.valid) (hshown hn' (by decide)))
    · have hnot : n ∉ s.ackedBits v := by
        rintro hmem
        obtain ⟨-, hset, hwritten⟩ := (hbits n).1 hmem
        exact hkept.elim (ne_false_of_eq_true hset) (ne_false_of_eq_true hwritten)
      rw [hshown hn' (by decide), hrec hnot]

end Sys2Proof.Machine
end
section
/-! SUPPORT. What module memory reads after a store (O9), and the fault levels at reset (O10). -/

namespace Sys2Proof

/-- Byte `k` of a number's bytes, least significant first, is the number's own byte `k`. -/
theorem leBytes_getElem? (n v : Nat) {k : Nat} (hk : k < n) : (leBytes n v)[k]? = some (BitVec.ofNat 8 (v / 2 ^ (8 * k))) := by
  induction n generalizing v k with
  | zero => exact absurd hk (Nat.not_lt_zero k)
  | succ n ih =>
    cases k with
    | zero => simp [leBytes]
    | succ k =>
      rw [leBytes, List.getElem?_cons_succ, ih _ (Nat.lt_of_succ_lt_succ hk), show 256 = 2 ^ 8 from rfl, Nat.div_div_eq_div_mul,
        ← Nat.pow_add, Nat.mul_succ, Nat.add_comm 8]

theorem leBytes_length (n v : Nat) : (leBytes n v).length = n := by
  induction n generalizing v with
  | zero => rfl
  | succ n ih => rw [leBytes, List.length_cons, ih]

end Sys2Proof

namespace Sys2Proof.Machine

/-! ### Bytes after a store -/

/-- A store leaves every byte outside its range. -/
theorem State.byte_setBytes_outside {s : State} {a b : Nat} (bs : List Byte) (h : Memory.wf s.mem = true)
    (hb : b < a ∨ a + bs.length ≤ b) : (s.setBytes a bs).byte b = s.byte b := by
  induction bs generalizing s a with
  | nil => rfl
  | cons x bs ih =>
    rw [List.length_cons] at hb
    rw [State.setBytes, ih (State.setByte_wf s a x h) (by omega), State.byte_setByte_other s x h (by omega)]

/-- A store's byte `k` reads back. -/
theorem State.byte_setBytes_inside {s : State} {a k : Nat} {bs : List Byte} {x : Byte} (h : Memory.wf s.mem = true)
    (hk : bs[k]? = some x) : (s.setBytes a bs).byte (a + k) = x := by
  induction bs generalizing s a k with
  | nil => simp at hk
  | cons y bs ih =>
    cases k with
    | zero =>
      obtain rfl := Option.some.inj hk
      have hfirst : a < a + 1 ∨ a + 1 + bs.length ≤ a := Or.inl (Nat.lt_succ_self a)
      rw [State.setBytes, Nat.add_zero a, State.byte_setBytes_outside bs (State.setByte_wf s a y h) hfirst, State.byte_setByte_same s a y h]
    | succ k =>
      rw [State.setBytes, show a + (k + 1) = a + 1 + k by omega]
      exact ih (State.setByte_wf s a y h) hk

/-- The access check of module memory leaves memory alone. -/
theorem State.memoryAccess_mem (s : State) (k : AccessKind) (init a n : Nat) : (s.memoryAccess k init a n).1.mem = s.mem :=
  (State.memoryAccess_keeps s k init a n (Keeps.rfl' 1043 s) (Sub.rfl' 1043)).mem (by decide)

/-- Memory's bytes are those of its contents. -/
theorem State.byte_congr {s t : State} (h : s.mem = t.mem) (b : Nat) : s.byte b = t.byte b := by
  unfold State.byte
  rw [h]

/-- A store to module memory: its bytes where its master and the access table let it through, and no byte otherwise. -/
theorem State.performWrite_memory_cases (s : State) (init a : Nat) (wide : Bool) (v : Word) (ha : 0x04000000 ≤ a) (n : Nat)
    (hn : n = if wide then 8 else 4) : ∃ u : State, u.mem = s.mem ∧ s.performWrite init (.memory a) wide v = .next
      (if s.masterReaches init && (s.memoryAccess .write init a n).2 then u.setBytes a (leBytes n v.toNat) else u) := by
  subst hn
  by_cases hreach : s.masterReaches init = true
  · by_cases haccess : (s.memoryAccess .write init a (if wide then 8 else 4)).2 = true
    · refine ⟨_, s.memoryAccess_mem .write init a (if wide then 8 else 4), ?_⟩
      rw [s.performWrite_memory init a wide v _ hreach ha rfl haccess]
      simp only [hreach, haccess, Bool.and_self, if_true]
    · refine ⟨(s.memoryAccess .write init a (if wide then 8 else 4)).1.abortCore init, ?_, ?_⟩
      · have habort := State.abortCore_keeps (s.memoryAccess .write init a (if wide then 8 else 4)).1 init (Keeps.rfl' 8388608 _)
          (Sub.rfl' 8388608)
        exact (habort.mem (by decide)).trans (s.memoryAccess_mem .write init a _)
      · unfold State.performWrite
        simp only [placeNormal_memory ha, hreach, haccess, Bool.not_true, Bool.true_and, Bool.false_eq_true, if_false]
  · refine ⟨s, rfl, ?_⟩
    unfold State.performWrite
    simp only [hreach, Bool.not_false, Bool.false_and, Bool.false_eq_true, if_false, if_true]

/-- Settles O9: a store that is let through is `State.setBytes`, and one that is not leaves memory as it was. -/
theorem memoryStoreFrame : Obligations.MemoryStoreFrame := by
  unfold Obligations.MemoryStoreFrame
  intro init a wide v s t ha hwf hexec n ok
  obtain ⟨u, hmem, hwrite⟩ := s.performWrite_memory_cases init a wide v ha n rfl
  have hstore : exec (.registerWrite init (.memory a) wide v) s = _ := hwrite
  rw [hstore] at hexec
  obtain rfl := Host.Outcome.next.inj hexec
  have huwf : Memory.wf u.mem = true := hmem ▸ hwf
  have hsame (b : Nat) : u.byte b = s.byte b := State.byte_congr hmem b
  refine ⟨fun b hb => ?outside, fun hok k hk => ?inside, fun hno b => ?refused⟩
  case outside =>
    split
    · rw [State.byte_setBytes_outside _ huwf (by rwa [leBytes_length]), hsame]
    · exact hsame b
  case inside =>
    rw [if_pos hok]
    exact State.byte_setBytes_inside huwf (leBytes_getElem? n v.toNat hk)
  case refused =>
    rw [if_neg (ne_true_of_eq_false hno)]
    exact hsame b

/-! ### Levels at reset -/

/-- A level register that nothing has written reads its factory level, and so does its MRAM copy (R4, R429). -/
theorem reset_level (n : Nat) : State.reset.reg .PRF_LEVEL n = BitVec.ofNat 64 (prfLevelReset n) ∧
    State.reset.mramReg .PRF_LEVEL n = BitVec.ofNat 64 (prfLevelReset n) :=
  ⟨rfl, rfl⟩

/-- Settles O10: the factory levels of the 45 sources are those of Table 15-1. -/
theorem faultLevelsAtReset : Obligations.FaultLevelsAtReset := by
  unfold Obligations.FaultLevelsAtReset
  intro n hn level
  have hlevel : BitVec.ofNat 64 (prfLevelReset n) = level := by
    simp only [prfLevelReset, apply_ite (BitVec.ofNat 64)]
    rfl
  exact ⟨(reset_level n).1.trans hlevel, (reset_level n).2.trans hlevel⟩

end Sys2Proof.Machine
end
